-- ==== Sys2Proof/Word.lean ====
section
/-! DEFINITION. The word types of Ulural 7 and nothing else: 64-bit registers (02 R34), bytes, 32-bit
instruction words (04) and lane masks (06 R139: bit l stands for lane l in every width). -/

namespace Sys2Proof

/-- A 64-bit register, lane or address (02 R34, 06 R138, 11). -/
abbrev Word := BitVec 64

/-- A byte of memory. -/
abbrev Byte := BitVec 8

/-- A fetched 32-bit word (04: little-endian in memory). -/
abbrev Code := BitVec 32

/-- A lane mask: bit l is lane l (06 R139). -/
abbrev Mask := BitVec 64

end Sys2Proof
end

