-- ==== Sys2Proof/Config.lean ====
section
/-! DEFINITION. What one implementation fixes and the spec leaves open. Every constant here is opaque: no proof can
see its value, so a statement about the machine holds whatever the value is. Each has its entry in the assumption
log. -/

namespace Sys2Proof.Config

/-- 19 R371: whether a die has three working slices instead of four. -/
opaque threeSlices : Nat → Bool

/-- 25 R483, R485: the clause address at which the monitor starts Coltaup on a die. -/
opaque coltaupEntry : Nat → Word

/-- 25 R483: the rate at which memory training leaves a stack, one of the three of 00 R4. -/
opaque trainedRate : Nat → Fin 3

/-- 02 R43: the ASID that Coltaup has set in a context when its `n`-th use is made. -/
opaque contextAsid : Nat → BitVec 32 → BitVec 16

/-- 02 R43: the TVEC that Coltaup has set in a context when its `n`-th use is made. -/
opaque contextTvec : Nat → BitVec 32 → Word

/-- 02 R43: the TFRAME that Coltaup has set in a context when its `n`-th use is made. -/
opaque contextTframe : Nat → BitVec 32 → Word

/-- 07 R167: for exp2, expe, log2 and loge on f32, the operand from which on the upper of the two adjacent values
is returned, given the function and the lower value. A threshold keeps the results monotone. -/
opaque sfuThreshold : Nat → Nat → Int

/-- 07 R167: for sinpi and cospi on f32, whether the upper of the two adjacent values is returned, fixed by the
function and the operand's bits. -/
opaque sfuUpper : Nat → Nat → Bool

/-- 12 R259, R260: whether a strand goes on past a fence of kind rel whose condition does not hold yet, so that its later
loads pass the fence, when the `n`-th free value is drawn; else it waits at the fence. -/
opaque relGoesOn : Nat → Bool

/-- 08 R188, 10 R211: what becomes of one lane, given by its register × 64 + lane, that two strands touch together, when
the `n`-th free value is drawn: whether a reader gets the old value of the other strand's write, and whether that write
stands against the reader's own. -/
opaque raceOld : Nat → Nat → Bool
opaque raceStands : Nat → Nat → Bool

/-- 22 R432: what a read of a device beyond the module returns: host memory or a downstream space, given a count of
free values drawn and the address. -/
opaque outsideRead : Nat → Nat → Word

/-- 25 R487: the module power in W, the highest junction temperature in tenths of a degree and the coolant flow in
tenths of a litre a minute, as they are measured when the `n`-th free value is drawn. -/
opaque moduleWatts : Nat → BitVec 32
opaque junctionTenths : Nat → BitVec 32
opaque coolantFlow : Nat → BitVec 32

/-- 25 R487: the value of the endpoint's Vendor ID register, which a module controller's object carries. -/
opaque vendorId : BitVec 16

/-- 16 R310: doubleword `w` (0, 2, 3, 4: DOTS and VAL1 to VAL3) of a freed group `g` of a die, when its pool becomes
ordinary memory again and the group is on the free list. -/
opaque freedGroup : Nat → Nat → Nat → Word

end Sys2Proof.Config
end

