-- ==== Sys2Proof/Syntax.lean ====
section
/-! DEFINITION. The instructions and steps of Ulural 7: one constructor for each row of spec/opcode_table.json.
A row with an encoding has its encoding's fields under the table's names and at the table's widths. A row without
one is a step that the machine or its surroundings take (95_what_each_step_holds): it has no fields, and its
operands (which agent, which place, what data from outside) stand in an `EventArgs` that State holds beside it.
Rows with fields stand first, in the table's order, then the encoded rows without fields, then the steps. -/

namespace Sys2Proof

/-- A strand: `key` names its warp or system core, `slot` its strand-table slot (08 R177). A warp's key is
die × 2048 + core × 64 + quad × 16 + slot (the fields of LOCUS, 02 R46); system core c of the module (25 R485)
has key 49152 + c and the one slot 0. -/
structure Agent where
  key : Nat
  slot : Nat
  deriving DecidableEq, Repr

/-- The fabric links of a die (00 R8): to its east neighbour in its row's ring, and across to the other row. -/
inductive LinkDir where
  | east
  | cross
  deriving DecidableEq, Repr

/-- An access that arrives from a bus: the host's BARs, CXL.mem, or a storage device (22 R434, R436, R437).
`data` holds the bytes of a write and is empty for a read of `count` bytes. -/
structure BusAccess where
  bar : Nat := 2
  offset : Nat := 0
  count : Nat := 0
  data : List (BitVec 8) := []
  deriving DecidableEq, Repr

/-- The path by which a debug request arrives (24 R462). -/
inductive AskPath where
  | scaleOut
  | hostDoe
  | coltaup
  deriving DecidableEq, Repr

/-- The level a debug session asks for (24 R462). -/
inductive DebugLevel where
  | tenant
  | maker
  deriving DecidableEq, Repr

/-- What the root of trust finds of one of the two signatures that 00 R11 asks for. -/
inductive Verdict where
  | valid
  | invalid
  | missing
  deriving DecidableEq, Repr

/-- A request to open a debug session (24 R462), with the root of trust's judgement of its two signatures. -/
structure SessionAsk where
  level : DebugLevel := .tenant
  path : AskPath := .scaleOut
  context : BitVec 32 := 0
  part : Nat := 0
  nonce : BitVec 64 := 0
  ed25519 : Verdict := .missing
  mldsa : Verdict := .missing
  deriving DecidableEq, Repr

/-- The images of 25 R477 that are verified. -/
inductive ImageKind where
  | secureMonitor
  | controllerFirmware
  | memoryTraining
  | carderMicrocode
  | coltaup
  deriving DecidableEq, Repr

/-- What verifying an image finds (25 R477): its two signatures, whether its body has the header's digest, and its security
version number. -/
structure ImageReport where
  ed25519 : Verdict := .valid
  mldsa : Verdict := .valid
  digest : Bool := true
  svn : Nat := 0
  deriving DecidableEq, Repr

/-- What the outside decides while the bring-up steps of 25 R483 run: the images as they are found (one that is not listed
verifies, with security version number 0), the first step that fails otherwise (0: none), the stacks that fail training,
and the fabric links that fail. -/
structure BringUp where
  images : List (ImageKind × ImageReport) := []
  failedStep : Nat := 0
  untrained : List Nat := []
  deadLinks : List (Nat × LinkDir) := []
  deriving DecidableEq, Repr

/-- The masters that access control can freeze (25 R479). -/
inductive Master where
  | systemCore (c : Nat)
  | diePort (die : Nat)
  | storage (port : Nat)
  | hostPort (hub : Nat)
  deriving DecidableEq, Repr

/-- A tile that another module's scale-out request delivers (22 R442, R443): the XOP, the destination, the eight
doublewords of the tile-layout record, and the tile's bytes in row-major element order. -/
structure RemoteTile where
  op : BitVec 2 := 0
  dest : Nat := 0
  record : List (BitVec 64) := []
  data : List (BitVec 8) := []
  deriving DecidableEq, Repr

/-- The operands of a step that has no encoding. Each step reads the fields its meaning names: `who` a strand,
`place` the die, core, quad, partition, hub, port, stack, session or context that the step is of, `id` and `sub`
the operation and its part, lane or pass, `value` and `words` the doublewords of a register write or a request. -/
structure EventArgs where
  who : Agent := ⟨0, 0⟩
  place : Nat := 0
  id : Nat := 0
  sub : Nat := 0
  value : BitVec 64 := 0
  words : List (BitVec 64) := []
  bytes : List (BitVec 8) := []
  flag : Bool := false
  dir : LinkDir := .east
  acc : BusAccess := {}
  ask : SessionAsk := {}
  report : BringUp := {}
  master : Master := .hostPort 0
  tile : RemoteTile := {}
  ready : List Agent := []
  deriving DecidableEq, Repr

/-- The formats of R91 (04). -/
inductive Format where
  | vr | vi | xi | vm | va | sr | si | sm | sl | sb | fk | rp | lg | mx
  deriving DecidableEq, Repr

/-- A clause header word (04 R83). -/
structure ClauseHeader where
  n : BitVec 4
  ecl : BitVec 3
  full : Bool
  quiet : Bool
  lease : Bool
  wbase : BitVec 8
  wlen : BitVec 5
  low : BitVec 3
  deriving DecidableEq, Repr

/-- The instructions and steps of the opcode table. -/
inductive Instr where
  /-- nop (R130): Occupies an issue slot with no other effect. -/
  | nop (g : BitVec 3)
  /-- s.alu.add (R111): Scalar add modulo 2^64 of a register and a register or signed 6-bit immediate. -/
  | sAluAdd (g : BitVec 3) (d : BitVec 6) (a : BitVec 6) (b : BitVec 6) (i : BitVec 1)
  /-- s.alu.sub (R111): Scalar subtract modulo 2^64. -/
  | sAluSub (g : BitVec 3) (d : BitVec 6) (a : BitVec 6) (b : BitVec 6) (i : BitVec 1)
  /-- s.alu.and (R111): Scalar bitwise and. -/
  | sAluAnd (g : BitVec 3) (d : BitVec 6) (a : BitVec 6) (b : BitVec 6) (i : BitVec 1)
  /-- s.alu.or (R111): Scalar bitwise or. -/
  | sAluOr (g : BitVec 3) (d : BitVec 6) (a : BitVec 6) (b : BitVec 6) (i : BitVec 1)
  /-- s.alu.xor (R111): Scalar bitwise xor. -/
  | sAluXor (g : BitVec 3) (d : BitVec 6) (a : BitVec 6) (b : BitVec 6) (i : BitVec 1)
  /-- s.alu.shl (R111): Scalar shift left by the low six bits of the amount. -/
  | sAluShl (g : BitVec 3) (d : BitVec 6) (a : BitVec 6) (b : BitVec 6) (i : BitVec 1)
  /-- s.alu.shr (R111): Scalar logical shift right. -/
  | sAluShr (g : BitVec 3) (d : BitVec 6) (a : BitVec 6) (b : BitVec 6) (i : BitVec 1)
  /-- s.alu.sar (R111): Scalar arithmetic shift right. -/
  | sAluSar (g : BitVec 3) (d : BitVec 6) (a : BitVec 6) (b : BitVec 6) (i : BitVec 1)
  /-- s.alu2.mul (R111): Scalar multiply modulo 2^64. -/
  | sAlu2Mul (g : BitVec 3) (d : BitVec 6) (a : BitVec 6) (b : BitVec 6) (i : BitVec 1)
  /-- s.alu2.mulhs (R111): High 64 bits of the signed product. -/
  | sAlu2Mulhs (g : BitVec 3) (d : BitVec 6) (a : BitVec 6) (b : BitVec 6) (i : BitVec 1)
  /-- s.alu2.mulhn (R111): High 64 bits of the unsigned product. -/
  | sAlu2Mulhn (g : BitVec 3) (d : BitVec 6) (a : BitVec 6) (b : BitVec 6) (i : BitVec 1)
  /-- s.alu2.min (R111): Signed minimum. -/
  | sAlu2Min (g : BitVec 3) (d : BitVec 6) (a : BitVec 6) (b : BitVec 6) (i : BitVec 1)
  /-- s.alu2.max (R111): Signed maximum. -/
  | sAlu2Max (g : BitVec 3) (d : BitVec 6) (a : BitVec 6) (b : BitVec 6) (i : BitVec 1)
  /-- s.alu2.minn (R111): Unsigned minimum. -/
  | sAlu2Minn (g : BitVec 3) (d : BitVec 6) (a : BitVec 6) (b : BitVec 6) (i : BitVec 1)
  /-- s.alu2.maxn (R111): Unsigned maximum. -/
  | sAlu2Maxn (g : BitVec 3) (d : BitVec 6) (a : BitVec 6) (b : BitVec 6) (i : BitVec 1)
  /-- s.alu2.rotr (R111): Rotate right by the low six bits of the amount. -/
  | sAlu2Rotr (g : BitVec 3) (d : BitVec 6) (a : BitVec 6) (b : BitVec 6) (i : BitVec 1)
  /-- s.div.divs (R111): Signed division truncating toward zero, never trapping. -/
  | sDivDivs (g : BitVec 3) (d : BitVec 6) (a : BitVec 6) (b : BitVec 6) (i : BitVec 1)
  /-- s.div.divn (R111): Unsigned division, never trapping. -/
  | sDivDivn (g : BitVec 3) (d : BitVec 6) (a : BitVec 6) (b : BitVec 6) (i : BitVec 1)
  /-- s.div.rems (R111): Signed remainder with the sign of the dividend. -/
  | sDivRems (g : BitVec 3) (d : BitVec 6) (a : BitVec 6) (b : BitVec 6) (i : BitVec 1)
  /-- s.div.remn (R111): Unsigned remainder. -/
  | sDivRemn (g : BitVec 3) (d : BitVec 6) (a : BitVec 6) (b : BitVec 6) (i : BitVec 1)
  /-- s.addi (R112): Adds a sign-extended 10-bit immediate to a scalar. -/
  | sAddi (g : BitVec 3) (d : BitVec 6) (a : BitVec 6) (i : BitVec 10)
  /-- s.andi (R112): Ands a scalar with a sign-extended immediate. -/
  | sAndi (g : BitVec 3) (d : BitVec 6) (a : BitVec 6) (i : BitVec 10)
  /-- s.ori (R112): Ors a scalar with a sign-extended immediate. -/
  | sOri (g : BitVec 3) (d : BitVec 6) (a : BitVec 6) (i : BitVec 10)
  /-- s.xori (R112): Xors a scalar with a sign-extended immediate. -/
  | sXori (g : BitVec 3) (d : BitVec 6) (a : BitVec 6) (i : BitVec 10)
  /-- s.movi (R113): Writes a sign-extended 16-bit immediate to a scalar. -/
  | sMovi (g : BitVec 3) (d : BitVec 6) (i : BitVec 16)
  /-- s.movk (R113): Replaces one halfword of a scalar with an immediate. -/
  | sMovk (h : BitVec 2) (d : BitVec 6) (i : BitVec 16)
  /-- s.cmp.eq (R114): Sets a predicate when two scalars are equal. -/
  | sCmpEq (g : BitVec 3) (p : BitVec 3) (a : BitVec 6) (b : BitVec 6) (i : BitVec 1)
  /-- s.cmp.ne (R114): Sets a predicate when two scalars differ. -/
  | sCmpNe (g : BitVec 3) (p : BitVec 3) (a : BitVec 6) (b : BitVec 6) (i : BitVec 1)
  /-- s.cmp.lts (R114): Signed less-than comparison into a predicate. -/
  | sCmpLts (g : BitVec 3) (p : BitVec 3) (a : BitVec 6) (b : BitVec 6) (i : BitVec 1)
  /-- s.cmp.les (R114): Signed less-or-equal comparison into a predicate. -/
  | sCmpLes (g : BitVec 3) (p : BitVec 3) (a : BitVec 6) (b : BitVec 6) (i : BitVec 1)
  /-- s.cmp.ltn (R114): Unsigned less-than comparison into a predicate. -/
  | sCmpLtn (g : BitVec 3) (p : BitVec 3) (a : BitVec 6) (b : BitVec 6) (i : BitVec 1)
  /-- s.cmp.len (R114): Unsigned less-or-equal comparison into a predicate. -/
  | sCmpLen (g : BitVec 3) (p : BitVec 3) (a : BitVec 6) (b : BitVec 6) (i : BitVec 1)
  /-- s.cmp.tst (R114): Sets a predicate when the and of two scalars is nonzero. -/
  | sCmpTst (g : BitVec 3) (p : BitVec 3) (a : BitVec 6) (b : BitVec 6) (i : BitVec 1)
  /-- s.cmp.ntst (R114): Sets a predicate when the and of two scalars is zero. -/
  | sCmpNtst (g : BitVec 3) (p : BitVec 3) (a : BitVec 6) (b : BitVec 6) (i : BitVec 1)
  /-- s.cmpi.eq (R114): Equality comparison against a 10-bit immediate. -/
  | sCmpiEq (g : BitVec 3) (p : BitVec 3) (a : BitVec 6) (i : BitVec 10)
  /-- s.cmpi.ne (R114): Inequality comparison against an immediate. -/
  | sCmpiNe (g : BitVec 3) (p : BitVec 3) (a : BitVec 6) (i : BitVec 10)
  /-- s.cmpi.lts (R114): Signed less-than against an immediate. -/
  | sCmpiLts (g : BitVec 3) (p : BitVec 3) (a : BitVec 6) (i : BitVec 10)
  /-- s.cmpi.les (R114): Signed less-or-equal against an immediate. -/
  | sCmpiLes (g : BitVec 3) (p : BitVec 3) (a : BitVec 6) (i : BitVec 10)
  /-- s.cmpi.ltn (R114): Unsigned less-than against a sign-extended immediate. -/
  | sCmpiLtn (g : BitVec 3) (p : BitVec 3) (a : BitVec 6) (i : BitVec 10)
  /-- s.cmpi.len (R114): Unsigned less-or-equal against a sign-extended immediate. -/
  | sCmpiLen (g : BitVec 3) (p : BitVec 3) (a : BitVec 6) (i : BitVec 10)
  /-- s.cmpi.tst (R114): Test of nonzero and against an immediate. -/
  | sCmpiTst (g : BitVec 3) (p : BitVec 3) (a : BitVec 6) (i : BitVec 10)
  /-- s.cmpi.ntst (R114): Test of zero and against an immediate. -/
  | sCmpiNtst (g : BitVec 3) (p : BitVec 3) (a : BitVec 6) (i : BitVec 10)
  /-- p.op.and (R115): Predicate and. -/
  | pOpAnd (g : BitVec 3) (d : BitVec 3) (a : BitVec 3) (b : BitVec 3)
  /-- p.op.or (R115): Predicate or. -/
  | pOpOr (g : BitVec 3) (d : BitVec 3) (a : BitVec 3) (b : BitVec 3)
  /-- p.op.xor (R115): Predicate xor. -/
  | pOpXor (g : BitVec 3) (d : BitVec 3) (a : BitVec 3) (b : BitVec 3)
  /-- p.op.andn (R115): Predicate and-not. -/
  | pOpAndn (g : BitVec 3) (d : BitVec 3) (a : BitVec 3) (b : BitVec 3)
  /-- p.op.orn (R115): Predicate or-not. -/
  | pOpOrn (g : BitVec 3) (d : BitVec 3) (a : BitVec 3) (b : BitVec 3)
  /-- p.op.mov (R115): Predicate copy. -/
  | pOpMov (g : BitVec 3) (d : BitVec 3) (a : BitVec 3)
  /-- p.op.set (R115): Sets a predicate to 1. -/
  | pOpSet (g : BitVec 3) (d : BitVec 3)
  /-- p.op.clr (R115): Clears a predicate to 0. -/
  | pOpClr (g : BitVec 3) (d : BitVec 3)
  /-- s.sel (R116): Selects one of two scalar sources by a predicate. -/
  | sSel (g : BitVec 3) (p : BitVec 3) (d : BitVec 6) (a : BitVec 6) (b : BitVec 6) (i : BitVec 1)
  /-- s.bit.extz (R117): Extracts a zero-extended bit field under a control word. -/
  | sBitExtz (g : BitVec 3) (d : BitVec 6) (a : BitVec 6) (b : BitVec 6)
  /-- s.bit.exts (R117): Extracts a sign-extended bit field. -/
  | sBitExts (g : BitVec 3) (d : BitVec 6) (a : BitVec 6) (b : BitVec 6)
  /-- s.bit.ins (R117): Inserts a bit field into the destination. -/
  | sBitIns (g : BitVec 3) (d : BitVec 6) (a : BitVec 6) (b : BitVec 6)
  /-- s.bit.clz (R117): Counts leading zeros. -/
  | sBitClz (g : BitVec 3) (d : BitVec 6) (a : BitVec 6)
  /-- s.bit.ctz (R117): Counts trailing zeros. -/
  | sBitCtz (g : BitVec 3) (d : BitVec 6) (a : BitVec 6)
  /-- s.bit.popc (R117): Counts set bits. -/
  | sBitPopc (g : BitVec 3) (d : BitVec 6) (a : BitVec 6)
  /-- s.bit.rev (R117): Reverses the 64 bits. -/
  | sBitRev (g : BitVec 3) (d : BitVec 6) (a : BitVec 6)
  /-- s.bit.bswap (R117): Reverses the 8 bytes. -/
  | sBitBswap (g : BitVec 3) (d : BitVec 6) (a : BitVec 6)
  /-- b (R118): Direct branch to a clause header relative to the clause address. -/
  | b (g : BitVec 3) (o : BitVec 22)
  /-- b.ind (R118): Indirect branch to a checked register-plus-offset target. -/
  | bInd (g : BitVec 3) (a : BitVec 6) (i : BitVec 10)
  /-- call (R119): Direct call pushing the next clause address tagged with the strand slot. -/
  | call (g : BitVec 3) (o : BitVec 22)
  /-- call.ind (R119): Indirect call to a checked target. -/
  | callInd (g : BitVec 3) (a : BitVec 6) (i : BitVec 10)
  /-- call.lane (R120): Calls each group of lanes sharing a target serially in ascending target order. -/
  | callLane (g : BitVec 3) (a : BitVec 6) (e : BitVec 1)
  /-- ret (R53): Pops the strand's most recent return entry and transfers, or moves to the next lane-call group. -/
  | ret (g : BitVec 3)
  /-- s.ld (R121): Scalar load that marks its destination empty until the value arrives. -/
  | sLd (g : BitVec 3) (z : BitVec 3) (d : BitVec 6) (a : BitVec 6) (o : BitVec 7)
  /-- s.st (R121): Scalar store. -/
  | sSt (g : BitVec 3) (z : BitVec 3) (d : BitVec 6) (a : BitVec 6) (o : BitVec 7)
  /-- s.amo.add (R123): Indivisible 64-bit add returning the old value. -/
  | sAmoAdd (g : BitVec 3) (d : BitVec 6) (a : BitVec 6) (b : BitVec 6)
  /-- s.amo.and (R123): Indivisible 64-bit and. -/
  | sAmoAnd (g : BitVec 3) (d : BitVec 6) (a : BitVec 6) (b : BitVec 6)
  /-- s.amo.or (R123): Indivisible 64-bit or. -/
  | sAmoOr (g : BitVec 3) (d : BitVec 6) (a : BitVec 6) (b : BitVec 6)
  /-- s.amo.xor (R123): Indivisible 64-bit xor. -/
  | sAmoXor (g : BitVec 3) (d : BitVec 6) (a : BitVec 6) (b : BitVec 6)
  /-- s.amo.max (R123): Indivisible signed maximum. -/
  | sAmoMax (g : BitVec 3) (d : BitVec 6) (a : BitVec 6) (b : BitVec 6)
  /-- s.amo.min (R123): Indivisible signed minimum. -/
  | sAmoMin (g : BitVec 3) (d : BitVec 6) (a : BitVec 6) (b : BitVec 6)
  /-- s.amo.xchg (R123): Indivisible exchange. -/
  | sAmoXchg (g : BitVec 3) (d : BitVec 6) (a : BitVec 6) (b : BitVec 6)
  /-- s.amo.cas (R123): Indivisible compare-and-swap against the old destination value. -/
  | sAmoCas (g : BitVec 3) (d : BitVec 6) (a : BitVec 6) (b : BitVec 6)
  /-- s.lea (R125): Forms a group-store window address. -/
  | sLeaGstore (g : BitVec 3) (d : BitVec 6) (a : BitVec 6) (o : BitVec 8)
  /-- s.lea (R125): Forms a spill-stack window address. -/
  | sLeaSpill (g : BitVec 3) (d : BitVec 6) (a : BitVec 6) (o : BitVec 8)
  /-- s.lea (R125): Forms a clause-relative code address. -/
  | sLeaClause (g : BitVec 3) (d : BitVec 6) (a : BitVec 6) (o : BitVec 8)
  /-- trap (R127): Delivers software trap cause 0x10 with a 16-bit code. -/
  | trap (g : BitVec 3) (c : BitVec 16)
  /-- cr.rd (R126): Reads a control register into a scalar. -/
  | crRd (g : BitVec 3) (d : BitVec 6) (n : BitVec 10)
  /-- cr.wr (R126): Writes a control register under its access rules. -/
  | crWr (g : BitVec 3) (a : BitVec 6) (n : BitVec 10)
  /-- launch (R275): Hands a launch record to the carder in the issuing context. -/
  | launch (g : BitVec 3) (d : BitVec 6) (a : BitVec 6)
  /-- lwait (R278): Waits for a launch to complete and returns its status word. -/
  | lwait (g : BitVec 3) (d : BitVec 6) (a : BitVec 6)
  /-- launch.ctx (R275): Supervisor launch taking the context from the record. -/
  | launchCtx (g : BitVec 3) (d : BitVec 6) (a : BitVec 6)
  /-- v.add (R151): Vector add per sub-element. -/
  | vAdd (g : BitVec 3) (t : BitVec 3) (d : BitVec 6) (a : BitVec 6) (b : BitVec 6) (e : BitVec 1)
  /-- v.sub (R151): Vector subtract per sub-element. -/
  | vSub (g : BitVec 3) (t : BitVec 3) (d : BitVec 6) (a : BitVec 6) (b : BitVec 6) (e : BitVec 1)
  /-- v.mul (R151): Vector multiply per sub-element. -/
  | vMul (g : BitVec 3) (t : BitVec 3) (d : BitVec 6) (a : BitVec 6) (b : BitVec 6) (e : BitVec 1)
  /-- v.fma (R153): Fused multiply-add into the destination. -/
  | vFma (g : BitVec 3) (t : BitVec 3) (d : BitVec 6) (a : BitVec 6) (b : BitVec 6) (e : BitVec 1)
  /-- v.fnma (R153): Fused negated multiply-add into the destination. -/
  | vFnma (g : BitVec 3) (t : BitVec 3) (d : BitVec 6) (a : BitVec 6) (b : BitVec 6) (e : BitVec 1)
  /-- v.min (R151): Vector minimum per sub-element. -/
  | vMin (g : BitVec 3) (t : BitVec 3) (d : BitVec 6) (a : BitVec 6) (b : BitVec 6) (e : BitVec 1)
  /-- v.max (R151): Vector maximum per sub-element. -/
  | vMax (g : BitVec 3) (t : BitVec 3) (d : BitVec 6) (a : BitVec 6) (b : BitVec 6) (e : BitVec 1)
  /-- v.div (R152): Long vector division, never trapping. -/
  | vDiv (g : BitVec 3) (t : BitVec 3) (d : BitVec 6) (a : BitVec 6) (b : BitVec 6) (e : BitVec 1)
  /-- v.rem (R152): Long integer vector remainder. -/
  | vRem (g : BitVec 3) (t : BitVec 3) (d : BitVec 6) (a : BitVec 6) (b : BitVec 6) (e : BitVec 1)
  /-- v.sqrt (R154): Long correctly rounded square root. -/
  | vSqrt (g : BitVec 3) (t : BitVec 3) (d : BitVec 6) (a : BitVec 6) (e : BitVec 1)
  /-- v.and (R151): Bitwise and over the whole lane. -/
  | vAnd (g : BitVec 3) (t : BitVec 3) (d : BitVec 6) (a : BitVec 6) (b : BitVec 6) (e : BitVec 1)
  /-- v.or (R151): Bitwise or over the whole lane. -/
  | vOr (g : BitVec 3) (t : BitVec 3) (d : BitVec 6) (a : BitVec 6) (b : BitVec 6) (e : BitVec 1)
  /-- v.xor (R151): Bitwise xor over the whole lane. -/
  | vXor (g : BitVec 3) (t : BitVec 3) (d : BitVec 6) (a : BitVec 6) (b : BitVec 6) (e : BitVec 1)
  /-- v.shl (R151): Integer shift left per sub-element. -/
  | vShl (g : BitVec 3) (t : BitVec 3) (d : BitVec 6) (a : BitVec 6) (b : BitVec 6) (e : BitVec 1)
  /-- v.shr (R151): Integer shift right per sub-element. -/
  | vShr (g : BitVec 3) (t : BitVec 3) (d : BitVec 6) (a : BitVec 6) (b : BitVec 6) (e : BitVec 1)
  /-- v.un.abs (R155): Absolute value per sub-element. -/
  | vUnAbs (g : BitVec 3) (t : BitVec 3) (d : BitVec 6) (a : BitVec 6) (e : BitVec 1)
  /-- v.un.neg (R155): Negation per sub-element. -/
  | vUnNeg (g : BitVec 3) (t : BitVec 3) (d : BitVec 6) (a : BitVec 6) (e : BitVec 1)
  /-- v.un.not (R155): Bit inversion. -/
  | vUnNot (g : BitVec 3) (t : BitVec 3) (d : BitVec 6) (a : BitVec 6) (e : BitVec 1)
  /-- v.un.popc (R155): Population count per integer sub-element. -/
  | vUnPopc (g : BitVec 3) (t : BitVec 3) (d : BitVec 6) (a : BitVec 6) (e : BitVec 1)
  /-- v.un.clz (R155): Leading-zero count per sub-element. -/
  | vUnClz (g : BitVec 3) (t : BitVec 3) (d : BitVec 6) (a : BitVec 6) (e : BitVec 1)
  /-- v.un.ctz (R155): Trailing-zero count per sub-element. -/
  | vUnCtz (g : BitVec 3) (t : BitVec 3) (d : BitVec 6) (a : BitVec 6) (e : BitVec 1)
  /-- v.un.brev (R155): Bit reversal per sub-element. -/
  | vUnBrev (g : BitVec 3) (t : BitVec 3) (d : BitVec 6) (a : BitVec 6) (e : BitVec 1)
  /-- v.un.rint (R155): Rounds floats to an integral value in the selected mode. -/
  | vUnRint (g : BitVec 3) (t : BitVec 3) (d : BitVec 6) (a : BitVec 6) (m : BitVec 2) (e : BitVec 1)
  /-- v.cmp.eq (R156): Equality of sub-element 0 into a lane mask. -/
  | vCmpEq (g : BitVec 3) (t : BitVec 3) (k : BitVec 3) (a : BitVec 6) (b : BitVec 6) (e : BitVec 1)
  /-- v.cmp.ne (R156): Inequality into a lane mask. -/
  | vCmpNe (g : BitVec 3) (t : BitVec 3) (k : BitVec 3) (a : BitVec 6) (b : BitVec 6) (e : BitVec 1)
  /-- v.cmp.lt (R156): Less-than into a lane mask. -/
  | vCmpLt (g : BitVec 3) (t : BitVec 3) (k : BitVec 3) (a : BitVec 6) (b : BitVec 6) (e : BitVec 1)
  /-- v.cmp.le (R156): Less-or-equal into a lane mask. -/
  | vCmpLe (g : BitVec 3) (t : BitVec 3) (k : BitVec 3) (a : BitVec 6) (b : BitVec 6) (e : BitVec 1)
  /-- v.cmp.gt (R156): Greater-than into a lane mask. -/
  | vCmpGt (g : BitVec 3) (t : BitVec 3) (k : BitVec 3) (a : BitVec 6) (b : BitVec 6) (e : BitVec 1)
  /-- v.cmp.ge (R156): Greater-or-equal into a lane mask. -/
  | vCmpGe (g : BitVec 3) (t : BitVec 3) (k : BitVec 3) (a : BitVec 6) (b : BitVec 6) (e : BitVec 1)
  /-- v.cmps.eq (R157): Sets each sub-element to all ones where equal. -/
  | vCmpsEq (g : BitVec 3) (t : BitVec 3) (d : BitVec 6) (a : BitVec 6) (b : BitVec 6) (e : BitVec 1)
  /-- v.cmps.lt (R157): Sets each sub-element to all ones where less. -/
  | vCmpsLt (g : BitVec 3) (t : BitVec 3) (d : BitVec 6) (a : BitVec 6) (b : BitVec 6) (e : BitVec 1)
  /-- v.cmps.le (R157): Sets each sub-element to all ones where less or equal. -/
  | vCmpsLe (g : BitVec 3) (t : BitVec 3) (d : BitVec 6) (a : BitVec 6) (b : BitVec 6) (e : BitVec 1)
  /-- v.bsel (R158): Bitwise select by the destination as selector. -/
  | vBsel (g : BitVec 3) (t : BitVec 3) (d : BitVec 6) (a : BitVec 6) (b : BitVec 6) (e : BitVec 1)
  /-- v.cvt (R159): Converts sub-elements between types with a rounding field. -/
  | vCvt (g : BitVec 3) (t : BitVec 3) (d : BitVec 6) (a : BitVec 6) (m : BitVec 2) (s : BitVec 3) (e : BitVec 1)
  /-- v.mov (R161): Copies each active lane. -/
  | vMov (g : BitVec 3) (t : BitVec 3) (d : BitVec 6) (a : BitVec 6) (e : BitVec 1)
  /-- v.movi (R162): Writes an immediate into every sub-element. -/
  | vMovi (g : BitVec 3) (t : BitVec 3) (d : BitVec 6) (i : BitVec 13)
  /-- v.bcs (R163): Broadcasts a scalar into every sub-element. -/
  | vBcs (g : BitVec 3) (t : BitVec 3) (d : BitVec 6) (a : BitVec 6)
  /-- v.sfu.exp2 (R166): Long special function 2^x. -/
  | vSfuExp2 (g : BitVec 3) (t : BitVec 3) (d : BitVec 6) (a : BitVec 6) (e : BitVec 1)
  /-- v.sfu.expe (R166): Long special function e^x. -/
  | vSfuExpe (g : BitVec 3) (t : BitVec 3) (d : BitVec 6) (a : BitVec 6) (e : BitVec 1)
  /-- v.sfu.log2 (R166): Long special function log2 x. -/
  | vSfuLog2 (g : BitVec 3) (t : BitVec 3) (d : BitVec 6) (a : BitVec 6) (e : BitVec 1)
  /-- v.sfu.loge (R166): Long special function ln x. -/
  | vSfuLoge (g : BitVec 3) (t : BitVec 3) (d : BitVec 6) (a : BitVec 6) (e : BitVec 1)
  /-- v.sfu.rcp (R166): Long reciprocal. -/
  | vSfuRcp (g : BitVec 3) (t : BitVec 3) (d : BitVec 6) (a : BitVec 6) (e : BitVec 1)
  /-- v.sfu.rsqrt (R166): Long reciprocal square root. -/
  | vSfuRsqrt (g : BitVec 3) (t : BitVec 3) (d : BitVec 6) (a : BitVec 6) (e : BitVec 1)
  /-- v.sfu.sinpi (R166): Long sin(pi x). -/
  | vSfuSinpi (g : BitVec 3) (t : BitVec 3) (d : BitVec 6) (a : BitVec 6) (e : BitVec 1)
  /-- v.sfu.cospi (R166): Long cos(pi x). -/
  | vSfuCospi (g : BitVec 3) (t : BitVec 3) (d : BitVec 6) (a : BitVec 6) (e : BitVec 1)
  /-- v.act (R171): Evaluates a piecewise-linear activation table from the active bank. -/
  | vAct (g : BitVec 3) (t : BitVec 3) (d : BitVec 6) (a : BitVec 6) (n : BitVec 2) (e : BitVec 1)
  /-- act.ld (R172): Writes entries of a shadow-bank activation table. -/
  | actLd (g : BitVec 3) (n : BitVec 2) (a : BitVec 6) (b : BitVec 6) (e : BitVec 1)
  /-- v.mulhi (R151): High half of the exact integer product. -/
  | vMulhi (g : BitVec 3) (t : BitVec 3) (d : BitVec 6) (a : BitVec 6) (b : BitVec 6) (e : BitVec 1)
  /-- v.pack (R160): Narrows two registers into one. -/
  | vPack (g : BitVec 3) (t : BitVec 3) (d : BitVec 6) (a : BitVec 6) (b : BitVec 6) (e : BitVec 1)
  /-- v.dot (R165): Pairwise half-precision dot product accumulated into binary32. -/
  | vDot (g : BitVec 3) (t : BitVec 3) (d : BitVec 6) (a : BitVec 6) (b : BitVec 6) (e : BitVec 1)
  /-- x.shfl (R212): Gathers sub-elements by element index within the span. -/
  | xShfl (g : BitVec 3) (t : BitVec 3) (d : BitVec 6) (a : BitVec 6) (b : BitVec 6) (e : BitVec 1)
  /-- x.shfli.xor (R213): Moves lanes by xor distance. -/
  | xShfliXor (g : BitVec 3) (d : BitVec 6) (a : BitVec 6) (s : BitVec 5)
  /-- x.shfli.up (R213): Moves lanes up by a distance. -/
  | xShfliUp (g : BitVec 3) (d : BitVec 6) (a : BitVec 6) (s : BitVec 5)
  /-- x.shfli.down (R213): Moves lanes down by a distance. -/
  | xShfliDown (g : BitVec 3) (d : BitVec 6) (a : BitVec 6) (s : BitVec 5)
  /-- x.shfli.rot (R213): Rotates lanes within the span. -/
  | xShfliRot (g : BitVec 3) (d : BitVec 6) (a : BitVec 6) (s : BitVec 5)
  /-- x.bcast (R214): Broadcasts one lane of the span to every active lane. -/
  | xBcast (g : BitVec 3) (t : BitVec 3) (d : BitVec 6) (a : BitVec 6) (n : BitVec 6) (e : BitVec 1)
  /-- x.red.add (R215): Add reduction across active lanes. -/
  | xRedAdd (g : BitVec 3) (t : BitVec 3) (d : BitVec 6) (a : BitVec 6) (e : BitVec 1)
  /-- x.red.min (R215): Min reduction across active lanes. -/
  | xRedMin (g : BitVec 3) (t : BitVec 3) (d : BitVec 6) (a : BitVec 6) (e : BitVec 1)
  /-- x.red.max (R215): Max reduction across active lanes. -/
  | xRedMax (g : BitVec 3) (t : BitVec 3) (d : BitVec 6) (a : BitVec 6) (e : BitVec 1)
  /-- x.red.and (R215): And reduction across active lanes. -/
  | xRedAnd (g : BitVec 3) (t : BitVec 3) (d : BitVec 6) (a : BitVec 6) (e : BitVec 1)
  /-- x.red.or (R215): Or reduction across active lanes. -/
  | xRedOr (g : BitVec 3) (t : BitVec 3) (d : BitVec 6) (a : BitVec 6) (e : BitVec 1)
  /-- x.red.xor (R215): Xor reduction across active lanes. -/
  | xRedXor (g : BitVec 3) (t : BitVec 3) (d : BitVec 6) (a : BitVec 6) (e : BitVec 1)
  /-- x.scan.add (R215): Inclusive or exclusive add scan. -/
  | xScanAdd (g : BitVec 3) (t : BitVec 3) (d : BitVec 6) (a : BitVec 6) (x : BitVec 1) (e : BitVec 1)
  /-- x.scan.min (R215): Inclusive or exclusive min scan. -/
  | xScanMin (g : BitVec 3) (t : BitVec 3) (d : BitVec 6) (a : BitVec 6) (x : BitVec 1) (e : BitVec 1)
  /-- x.scan.max (R215): Inclusive or exclusive max scan. -/
  | xScanMax (g : BitVec 3) (t : BitVec 3) (d : BitVec 6) (a : BitVec 6) (x : BitVec 1) (e : BitVec 1)
  /-- x.scan.and (R215): Inclusive or exclusive and scan. -/
  | xScanAnd (g : BitVec 3) (t : BitVec 3) (d : BitVec 6) (a : BitVec 6) (x : BitVec 1) (e : BitVec 1)
  /-- x.scan.or (R215): Inclusive or exclusive or scan. -/
  | xScanOr (g : BitVec 3) (t : BitVec 3) (d : BitVec 6) (a : BitVec 6) (x : BitVec 1) (e : BitVec 1)
  /-- x.scan.xor (R215): Inclusive or exclusive xor scan. -/
  | xScanXor (g : BitVec 3) (t : BitVec 3) (d : BitVec 6) (a : BitVec 6) (x : BitVec 1) (e : BitVec 1)
  /-- x.ballot (R217): Sets mask bits of active lanes whose sub-element 0 is nonzero. -/
  | xBallot (g : BitVec 3) (t : BitVec 3) (k : BitVec 3) (a : BitVec 6) (e : BitVec 1)
  /-- k.op.and (R218): Lane-mask and within mask(). -/
  | kOpAnd (g : BitVec 3) (d : BitVec 3) (a : BitVec 3) (b : BitVec 3)
  /-- k.op.or (R218): Lane-mask or within mask(). -/
  | kOpOr (g : BitVec 3) (d : BitVec 3) (a : BitVec 3) (b : BitVec 3)
  /-- k.op.xor (R218): Lane-mask xor within mask(). -/
  | kOpXor (g : BitVec 3) (d : BitVec 3) (a : BitVec 3) (b : BitVec 3)
  /-- k.op.andn (R218): Lane-mask and-not within mask(). -/
  | kOpAndn (g : BitVec 3) (d : BitVec 3) (a : BitVec 3) (b : BitVec 3)
  /-- k.op.not (R218): Lane-mask not within mask(). -/
  | kOpNot (g : BitVec 3) (d : BitVec 3) (a : BitVec 3)
  /-- k.op.mov (R218): Lane-mask copy within mask(). -/
  | kOpMov (g : BitVec 3) (d : BitVec 3) (a : BitVec 3)
  /-- k.op.from (R218): Writes a whole span of a lane mask from a scalar. -/
  | kOpFrom (g : BitVec 3) (d : BitVec 3) (a : BitVec 6)
  /-- k.op.to (R218): Copies a span of a lane mask into a scalar. -/
  | kOpTo (g : BitVec 3) (d : BitVec 6) (a : BitVec 3)
  /-- k.op.popc (R218): Counts set mask bits within the span into a scalar. -/
  | kOpPopc (g : BitVec 3) (d : BitVec 6) (a : BitVec 3)
  /-- bs.rd (R224): Reads a bit field at each lane's cursor and advances it. -/
  | bsRd (g : BitVec 3) (t : BitVec 1) (d : BitVec 6) (a : BitVec 6) (n : BitVec 6) (e : BitVec 1)
  /-- bs.fill (R225): Slides the bit-stream window in lanes whose cursor reached 64. -/
  | bsFill (g : BitVec 3) (d : BitVec 6) (a : BitVec 6) (b : BitVec 6) (e : BitVec 1)
  /-- bs.cur.get (R226): Reads the bit cursors into a register. -/
  | bsCurGet (g : BitVec 3) (d : BitVec 6)
  /-- bs.cur.set (R226): Sets the bit cursors from a register. -/
  | bsCurSet (g : BitVec 3) (a : BitVec 6) (e : BitVec 1)
  /-- x.sepk (R221): Packs blocks into a shared-exponent format. -/
  | xSepk (g : BitVec 3) (t : BitVec 3) (d : BitVec 6) (a : BitVec 6) (f : BitVec 2) (s : BitVec 2) (e : BitVec 1)
  /-- x.seunpk (R221): Unpacks shared-exponent blocks into wide registers. -/
  | xSeunpk (g : BitVec 3) (t : BitVec 3) (d : BitVec 6) (a : BitVec 6) (f : BitVec 2) (s : BitVec 2) (e : BitVec 1)
  /-- k.test.any (R219): Sets a predicate if any mask lane is set. -/
  | kTestAny (g : BitVec 3) (p : BitVec 3) (k : BitVec 3)
  /-- k.test.all (R219): Sets a predicate if every mask lane is set. -/
  | kTestAll (g : BitVec 3) (p : BitVec 3) (k : BitVec 3)
  /-- m.ld (R250): Per-lane vector load pending its destination. -/
  | mLd (g : BitVec 3) (z : BitVec 3) (d : BitVec 6) (a : BitVec 6) (s : BitVec 6) (e : BitVec 1)
  /-- m.st (R250): Per-lane vector store. -/
  | mSt (g : BitVec 3) (z : BitVec 3) (d : BitVec 6) (a : BitVec 6) (s : BitVec 6) (e : BitVec 1)
  /-- m.lds (R251): Single scalar-addressed load broadcast to active lanes. -/
  | mLds (g : BitVec 3) (z : BitVec 3) (d : BitVec 6) (s : BitVec 6)
  /-- m.atom.w.add (R252): Workgroup-scope atomic add combined per address. -/
  | mAtomWAdd (g : BitVec 3) (z : BitVec 1) (d : BitVec 6) (a : BitVec 6) (s : BitVec 6)
  /-- m.atom.w.min (R252): Workgroup-scope atomic signed min. -/
  | mAtomWMin (g : BitVec 3) (z : BitVec 1) (d : BitVec 6) (a : BitVec 6) (s : BitVec 6)
  /-- m.atom.w.max (R252): Workgroup-scope atomic signed max. -/
  | mAtomWMax (g : BitVec 3) (z : BitVec 1) (d : BitVec 6) (a : BitVec 6) (s : BitVec 6)
  /-- m.atom.w.minn (R252): Workgroup-scope atomic unsigned min. -/
  | mAtomWMinn (g : BitVec 3) (z : BitVec 1) (d : BitVec 6) (a : BitVec 6) (s : BitVec 6)
  /-- m.atom.w.maxn (R252): Workgroup-scope atomic unsigned max. -/
  | mAtomWMaxn (g : BitVec 3) (z : BitVec 1) (d : BitVec 6) (a : BitVec 6) (s : BitVec 6)
  /-- m.atom.w.and (R252): Workgroup-scope atomic and. -/
  | mAtomWAnd (g : BitVec 3) (z : BitVec 1) (d : BitVec 6) (a : BitVec 6) (s : BitVec 6)
  /-- m.atom.w.or (R252): Workgroup-scope atomic or. -/
  | mAtomWOr (g : BitVec 3) (z : BitVec 1) (d : BitVec 6) (a : BitVec 6) (s : BitVec 6)
  /-- m.atom.w.xor (R252): Workgroup-scope atomic xor. -/
  | mAtomWXor (g : BitVec 3) (z : BitVec 1) (d : BitVec 6) (a : BitVec 6) (s : BitVec 6)
  /-- m.atom.d.add (R252): Die-scope atomic add. -/
  | mAtomDAdd (g : BitVec 3) (z : BitVec 1) (d : BitVec 6) (a : BitVec 6) (s : BitVec 6)
  /-- m.atom.d.min (R252): Die-scope atomic signed min. -/
  | mAtomDMin (g : BitVec 3) (z : BitVec 1) (d : BitVec 6) (a : BitVec 6) (s : BitVec 6)
  /-- m.atom.d.max (R252): Die-scope atomic signed max. -/
  | mAtomDMax (g : BitVec 3) (z : BitVec 1) (d : BitVec 6) (a : BitVec 6) (s : BitVec 6)
  /-- m.atom.d.minn (R252): Die-scope atomic unsigned min. -/
  | mAtomDMinn (g : BitVec 3) (z : BitVec 1) (d : BitVec 6) (a : BitVec 6) (s : BitVec 6)
  /-- m.atom.d.maxn (R252): Die-scope atomic unsigned max. -/
  | mAtomDMaxn (g : BitVec 3) (z : BitVec 1) (d : BitVec 6) (a : BitVec 6) (s : BitVec 6)
  /-- m.atom.d.and (R252): Die-scope atomic and. -/
  | mAtomDAnd (g : BitVec 3) (z : BitVec 1) (d : BitVec 6) (a : BitVec 6) (s : BitVec 6)
  /-- m.atom.d.or (R252): Die-scope atomic or. -/
  | mAtomDOr (g : BitVec 3) (z : BitVec 1) (d : BitVec 6) (a : BitVec 6) (s : BitVec 6)
  /-- m.atom.d.xor (R252): Die-scope atomic xor. -/
  | mAtomDXor (g : BitVec 3) (z : BitVec 1) (d : BitVec 6) (a : BitVec 6) (s : BitVec 6)
  /-- m.atom.p.add (R252): Package-scope atomic add. -/
  | mAtomPAdd (g : BitVec 3) (z : BitVec 1) (d : BitVec 6) (a : BitVec 6) (s : BitVec 6)
  /-- m.atom.p.min (R252): Package-scope atomic signed min. -/
  | mAtomPMin (g : BitVec 3) (z : BitVec 1) (d : BitVec 6) (a : BitVec 6) (s : BitVec 6)
  /-- m.atom.p.max (R252): Package-scope atomic signed max. -/
  | mAtomPMax (g : BitVec 3) (z : BitVec 1) (d : BitVec 6) (a : BitVec 6) (s : BitVec 6)
  /-- m.atom.p.minn (R252): Package-scope atomic unsigned min. -/
  | mAtomPMinn (g : BitVec 3) (z : BitVec 1) (d : BitVec 6) (a : BitVec 6) (s : BitVec 6)
  /-- m.atom.p.maxn (R252): Package-scope atomic unsigned max. -/
  | mAtomPMaxn (g : BitVec 3) (z : BitVec 1) (d : BitVec 6) (a : BitVec 6) (s : BitVec 6)
  /-- m.atom.p.and (R252): Package-scope atomic and. -/
  | mAtomPAnd (g : BitVec 3) (z : BitVec 1) (d : BitVec 6) (a : BitVec 6) (s : BitVec 6)
  /-- m.atom.p.or (R252): Package-scope atomic or. -/
  | mAtomPOr (g : BitVec 3) (z : BitVec 1) (d : BitVec 6) (a : BitVec 6) (s : BitVec 6)
  /-- m.atom.p.xor (R252): Package-scope atomic xor. -/
  | mAtomPXor (g : BitVec 3) (z : BitVec 1) (d : BitVec 6) (a : BitVec 6) (s : BitVec 6)
  /-- m.xchg (R252): Package-scope atomic exchange per lane in ascending order. -/
  | mXchg (g : BitVec 3) (z : BitVec 1) (d : BitVec 6) (a : BitVec 6) (s : BitVec 6)
  /-- m.cas (R252): Package-scope atomic compare-and-swap against the running value. -/
  | mCas (g : BitVec 3) (z : BitVec 1) (d : BitVec 6) (a : BitVec 6) (s : BitVec 6)
  /-- m.arrive (R256): Releases and counts one arrival at a barrier word, returning its phase. -/
  | mArrive (g : BitVec 3) (d : BitVec 6) (a : BitVec 6) (i : BitVec 10)
  /-- m.wait (R257): Waits until a barrier word's phase differs from the token. -/
  | mWait (g : BitVec 3) (d : BitVec 6) (a : BitVec 6) (i : BitVec 10)
  /-- fence (R259): Holds later accesses until earlier loads and atomics are performed. -/
  | fenceAcq (g : BitVec 3) (s : BitVec 3)
  /-- fence (R259): Holds later stores and atomics until earlier accesses are performed at scope. -/
  | fenceRel (g : BitVec 3) (s : BitVec 3)
  /-- fence (R259): Acquire and release fence. -/
  | fenceAcqrel (g : BitVec 3) (s : BitVec 3)
  /-- fence (R259): Sequentially consistent fence in one total order. -/
  | fenceSc (g : BitVec 3) (s : BitVec 3)
  /-- fence (R245): Waits for stores and engine operations, then drops the core's record cache. -/
  | fenceTlr (g : BitVec 3)
  /-- m.push (R261): Saves registers to the spill stack and advances s62. -/
  | mPush (g : BitVec 3) (d : BitVec 6) (n : BitVec 6) (e : BitVec 1)
  /-- m.pop (R261): Restores registers from the spill stack and lowers s62. -/
  | mPop (g : BitVec 3) (d : BitVec 6) (n : BitVec 6)
  /-- m.ldv (R319): Versioned load of one sibling and the cell's token. -/
  | mLdv (g : BitVec 3) (t : BitVec 1) (d : BitVec 6) (a : BitVec 6) (b : BitVec 6) (e : BitVec 1)
  /-- m.stv (R320): Versioned store superseding the siblings its token names. -/
  | mStv (g : BitVec 3) (t : BitVec 1) (d : BitVec 6) (a : BitVec 6) (b : BitVec 6) (e : BitVec 1)
  /-- m.rcn.add (R321): Felting that folds every sibling by add. -/
  | mRcnAdd (g : BitVec 3) (t : BitVec 3) (d : BitVec 6) (a : BitVec 6) (e : BitVec 1)
  /-- m.rcn.max (R321): Felting by max. -/
  | mRcnMax (g : BitVec 3) (t : BitVec 3) (d : BitVec 6) (a : BitVec 6) (e : BitVec 1)
  /-- m.rcn.min (R321): Felting by min. -/
  | mRcnMin (g : BitVec 3) (t : BitVec 3) (d : BitVec 6) (a : BitVec 6) (e : BitVec 1)
  /-- m.rcn.or (R321): Felting by or. -/
  | mRcnOr (g : BitVec 3) (t : BitVec 3) (d : BitVec 6) (a : BitVec 6) (e : BitVec 1)
  /-- m.rcn.pick (R321): Felting keeping sibling j. -/
  | mRcnPick (g : BitVec 3) (t : BitVec 3) (d : BitVec 6) (a : BitVec 6) (j : BitVec 2) (e : BitVec 1)
  /-- fork (R179): Splits the strand into arms and a continuation, pending the join sets. -/
  | fork (k : BitVec 3) (offA offC : BitVec 11) (av : BitVec 1) (ab : BitVec 6) (al : BitVec 3) (bv : BitVec 1) (bb : BitVec 6) (bl : BitVec 3)
  /-- join (R182): Copies each lane from the register of the arm it took, once selected lanes are full. -/
  | join (k : BitVec 3) (d : BitVec 6) (a : BitVec 6) (b : BitVec 6) (e : BitVec 1)
  /-- smask (R185): Writes the strand's mask into a k register. -/
  | smask (k : BitVec 3)
  /-- setx (R187): Sets XB from a scalar plus an immediate, checking its range. -/
  | setx (g : BitVec 3) (a : BitVec 6) (i : BitVec 10)
  /-- c.copy (R330): Starts a record-shaped copy and takes a range-lock entry. -/
  | cCopy (g : BitVec 3) (d a b : BitVec 6) (ilov verify sparse : BitVec 1) (tc : BitVec 2)
  /-- c.mcast (R334): Reads a source once for delivery to up to 16 workgroups. -/
  | cMcast (g : BitVec 3) (d a b : BitVec 6) (targets : BitVec 16) (verify sparse : BitVec 1) (tc : BitVec 2)
  /-- c.close (R339): Gathers pending copies into a new numbered batch. -/
  | cClose (g : BitVec 3) (d : BitVec 6)
  /-- c.wait (R340): Waits for a batch and earlier batches, returning error status. -/
  | cWait (g : BitVec 3) (d : BitVec 6) (a : BitVec 6)
  /-- r.post (R400): Releases and advances a stage ring's phase counter. -/
  | rPost (g : BitVec 3) (q : BitVec 3)
  /-- r.wait (R401): Waits until a stage ring has passed the token. -/
  | rWait (g : BitVec 3) (q : BitVec 3) (a : BitVec 6) (n : BitVec 10)
  /-- t.band (R403): Opens the workgroup's band, closing any open one. -/
  | tBandOpen (g : BitVec 3)
  /-- t.band (R403): Closes the open band and schedules its record. -/
  | tBandClose (g : BitVec 3)
  /-- shp.set (R372): Asks the former for a shape grant into a shape register. -/
  | shpSet (g : BitVec 3) (h : BitVec 3) (d : BitVec 6) (a : BitVec 6) (b : BitVec 6)
  /-- shp.get (R373): Reads a field of a shape register. -/
  | shpGet (g : BitVec 3) (h : BitVec 3) (d : BitVec 6) (s : BitVec 6)
  /-- mx.map (R378): Loads an operand map from a tile-layout record. -/
  | mxMap (m : BitVec 4) (r : BitVec 6) (k : BitVec 6) (w : BitVec 6)
  /-- mx.mma (R386): Issues a matrix multiply-accumulate into an accumulator tile. -/
  | mxMma (g : BitVec 3) (h : BitVec 3) (c : BitVec 3) (m : BitVec 4) (f : BitVec 3) (s : BitVec 2) (b : BitVec 6) (z : BitVec 1)
  /-- mx.mv (R387): Streams a weight matrix past resident vectors. -/
  | mxMv (n : BitVec 3) (h : BitVec 3) (c : BitVec 3) (m : BitVec 4) (r : BitVec 6) (o : BitVec 6)
  /-- mx.drain (R389): Converts and writes an accumulator tile to memory, optionally adding and posting. -/
  | mxDrain (h : BitVec 3) (c : BitVec 3) (d : BitVec 6) (r : BitVec 6) (a : BitVec 1) (p : BitVec 1) (q : BitVec 3)
  /-- mx.acc.zero (R388): Zeroes the shaped part of a tile. -/
  | mxAccZero (g : BitVec 3) (h : BitVec 3) (c : BitVec 3)
  /-- mx.acc.load (R388): Loads a tile bit for bit from an operand map. -/
  | mxAccLoad (g : BitVec 3) (h : BitVec 3) (c : BitVec 3) (m : BitVec 4)
  /-- mx.acc.get (R388): Long read of a tile into vector registers. -/
  | mxAccGet (g : BitVec 3) (h : BitVec 3) (c : BitVec 3) (d : BitVec 6)
  /-- mx.lease.bind (R380): Makes the warp the holder of a quarter of B. -/
  | mxLeaseBind (q : BitVec 2) (b : BitVec 6) (s : BitVec 6)
  /-- rep (R100): Repeats the next word with stepped fields, resuming from REPC. -/
  | rep (x : BitVec 1) (y : BitVec 1) (z : BitVec 1) (n : BitVec 6)
  /-- lg.ld (R459): Group-indexed compatibility load, wholly done or not issued. -/
  | lgLd (z : BitVec 3) (d : BitVec 6) (a : BitVec 6) (s : BitVec 6)
  /-- lg.st (R459): Group-indexed compatibility store. -/
  | lgSt (z : BitVec 3) (d : BitVec 6) (a : BitVec 6) (s : BitVec 6)
  /-- V_IOTA (R164): Writes each sub-element with its element index, counted from the span base, times a signed immediate. -/
  | vIota (g t : BitVec 3) (d : BitVec 6) (i : BitVec 13)
  /-- sysret (R128): Reloads PC, mask, REPC and lane-call state from the frame and resumes. -/
  | sysret
  /-- idle (R129): Stops the strand until an interrupt, pre-emption request or timeout. -/
  | idle
  /-- act.flip (R173): Makes a bank flip pending, holding v.act issue on the core. -/
  | actFlip
  /-- ends (R183): Ends the strand, zero-filling its unfilled join-set lanes. -/
  | ends
  /-- armwait (R184): Waits until no descendant strand is live. -/
  | armwait
  /-- exit (R186): Retires the warp or compatibility half once its stores are performed. -/
  | exit
  /-- mx.lease.acq (R384): Waits until the workgroup holds the matrix lease. -/
  | mxLeaseAcq
  /-- mx.lease.rel (R384): Gives up the matrix lease. -/
  | mxLeaseRel
  /-- lg.bar (R461): Barrier of the workgroup's root strands. -/
  | lgBar
  /-- REP_REPEAT (R203): One repeat of a rep target issues as its own issue. -/
  | repRepeat
  /-- CLAUSE_BEGIN (R85): A clause begins once its window is resident and its FULL, QUIET and LEASE conditions hold. -/
  | clauseBegin
  /-- WINDOW_LOAD (R197): A window load into a fast-file slot completes. -/
  | windowLoad
  /-- PIN_GIVEBACK (R200): A strand waiting 64 cycles inside a clause gives back its pin. -/
  | pinGiveback
  /-- QUAD_ISSUE_CYCLE (R206): Each cycle the quad fills its first and second issue slots. -/
  | quadIssueCycle
  /-- AGE_ROTATION (R205): At each multiple of 256 cycles the oldest warp becomes youngest. -/
  | ageRotation
  /-- LONG_RESULT_FILL (R148): A long vector instruction fills its pending destination lanes and sets flags. -/
  | longResultFill
  /-- SCALAR_FILL (R36): The value of a long scalar instruction arrives and fills its register. -/
  | scalarFill
  /-- LOAD_FILL (R250): A vector load's data arrive and fill the lanes of a pass. -/
  | loadFill
  /-- ATOMIC_STEP (R252): An indivisible atomic step is performed at a location's home. -/
  | atomicStep
  /-- ARRIVAL_STEP (R256): An m.arrive step is performed at the barrier word. -/
  | arrivalStep
  /-- PARK_WAKE (R268): A write changes a watched barrier word and wakes the parked strands. -/
  | parkWake
  /-- PARK_RETRY (R269): A refused m.wait issues again after 32 cycles. -/
  | parkRetry
  /-- FENCE_COMPLETE (R259): A fence's held accesses are released once its condition holds. -/
  | fenceComplete
  /-- ARMWAIT_COMPLETE (R184): An armwait completes when the last descendant ends. -/
  | armwaitComplete
  /-- JOIN_ISSUE (R182): A waiting join issues once every selected lane is full. -/
  | joinIssue
  /-- RING_WAIT_COMPLETE (R401): A waiting r.wait completes after the satisfying post. -/
  | ringWaitComplete
  /-- C_WAIT_COMPLETE (R340): A waiting c.wait completes once its batches complete. -/
  | cWaitComplete
  /-- LG_BAR_COMPLETE (R461): All roots at the barrier complete lg.bar in one step. -/
  | lgBarComplete
  /-- ACT_LD_WRITE (R172): An act.ld write lands in the shadow bank. -/
  | actLdWrite
  /-- ACT_FLIP_COMPLETE (R173): A pending flip exchanges the banks and releases held v.act. -/
  | actFlipComplete
  /-- TRANSLATION_WALK (R241): A page walk completes and fills the translation cache. -/
  | translationWalk
  /-- INVALIDATE_PAGE (R243): INVREQ kind 0 starts invalidation of one page of an ASID. -/
  | invalidatePage
  /-- INVALIDATE_ASID (R243): INVREQ kind 1 starts invalidation of an ASID. -/
  | invalidateAsid
  /-- INVALIDATE_ALL (R243): INVREQ kind 2 starts invalidation of everything including record caches. -/
  | invalidateAll
  /-- INVALIDATION_COMPLETE (R243): Invalidation finishes, BUSY clears and the count increments. -/
  | invalidationComplete
  /-- CARDER_DECISION (R275): The carder reads the record and accepts or refuses the launch. -/
  | carderDecision
  /-- QUEUE_ENTRY (R280): A held launch enters its priority queue when its last dependence completes. -/
  | queueEntry
  /-- PLACEMENT_ATTEMPT (R281): The carder places queue heads' workgroups onto eligible cores. -/
  | placementAttempt
  /-- CARDER_PREEMPTION (R281): A high-priority head's wait limit expires and a lower workgroup is pre-empted. -/
  | carderPreemption
  /-- LAUNCH_COMPLETION (R279): A launch completes and its DONE counter is incremented. -/
  | launchCompletion
  /-- COPY_PART_COMPLETION (R329): A part of a copy completes at its homes. -/
  | copyPartCompletion
  /-- MCAST_DELIVERY (R334): A multicast delivery is made to a target or skipped with MCMISS. -/
  | mcastDelivery
  /-- MATRIX_OPERATION_COMPLETION (R385): An mx.mma, mx.mv or mx.acc completes, frees its lock and ORs flags. -/
  | matrixOperationCompletion
  /-- DRAIN_COMPLETION (R391): A drain completes and optionally posts its ring. -/
  | drainCompletion
  /-- LEASE_GRANT (R383): A waiting workgroup becomes holder of a free lease. -/
  | leaseGrant
  /-- LEASE_PASS (R383): An exhausted lease passes to the next waiter. -/
  | leasePass
  /-- BAND_RECORD_WRITE (R406): A closed band's record is written once its operations complete. -/
  | bandRecordWrite
  /-- CELL_STEP (R315): A sibling-cell access is performed as one step in the cell order. -/
  | cellStep
  /-- BATT_ENABLE (R309): Setting BATTCTL.EN starts initialising the sibling region. -/
  | battEnable
  /-- BATT_DISABLE (R309): Clearing BATTCTL.EN starts disabling the sibling region. -/
  | battDisable
  /-- BATT_CHANGE_DONE (R309): The enable or disable finishes and BUSY clears. -/
  | battChangeDone
  /-- TRAP_ENTRY (R409): A strand's trap stops the warp, writes the frame and enters the handler. -/
  | trapEntry
  /-- INTERRUPT (R416): A system core takes an enabled pending interrupt with cause 0x15. -/
  | interrupt
  /-- TIMER (R47): TIME equals TCMP and sets IPEND[0]. -/
  | timer
  /-- WARP_IDLE_TIMEOUT (R129): An idle warp continues after 4,096 ticks or a pre-emption request. -/
  | warpIdleTimeout
  /-- SAVE_AND_REQUEUE (R419): PREQ kind 0 saves a workgroup and returns it to its launch. -/
  | saveAndRequeue
  /-- SAVE_AND_HOLD (R419): PREQ kind 1 saves a workgroup and holds its image. -/
  | saveAndHold
  /-- PREL (R427): Releases a held image for requeue. -/
  | prel
  /-- SAVE_COMPLETION (R420): A save writes its image, frees the core and sets VALID. -/
  | saveCompletion
  /-- RESTORE (R425): A saved workgroup is placed and its image loaded onto a core. -/
  | restore
  /-- MAPQ (R357): A store to MAPQ computes the mapping into MAPR. -/
  | mapq
  /-- MEMORY_MAP_CONFIG_WRITE (R352): A store to a domain or fold register takes effect once every die holds it. -/
  | memoryMapConfigWrite
  /-- RETREQ (R366): Starts retirement of a pseudo-channel. -/
  | retreq
  /-- RETIREMENT_COMPLETE (R366): Retirement clears the LIVE bit, logs and releases held accesses. -/
  | retirementComplete
  /-- PPRREQ (R364): Starts a soft post-package repair of a row. -/
  | pprreq
  /-- REPAIR_COMPLETE (R364): The row is remapped to a spare and the bank released. -/
  | repairComplete
  /-- RATE_CHANGE (R368): A new TGT starts retraining a stack at a new rate. -/
  | rateChange
  /-- RETRAIN_COMPLETE (R368): Retraining ends, CUR takes TGT and PEND clears. -/
  | retrainComplete
  /-- FORCED_RETRAIN (R369): Link errors force a retrain that holds the stack's requests. -/
  | forcedRetrain
  /-- PSEUDO_CHANNEL_SERVICE (R361): A pseudo-channel serves a turn of a request group by traffic class. -/
  | pseudoChannelService
  /-- LINK_FRAME_FAILURE (R349): A die-to-base frame fails authentication and is resent or the link fails. -/
  | linkFrameFailure
  /-- SESSION_KEY_REPLACEMENT (R349): A link session key is replaced before 2^32 frames. -/
  | sessionKeyReplacement
  /-- UNCORRECTABLE_ERROR (R350): An uncorrectable error makes a line failed and is logged. -/
  | uncorrectableError
  /-- FABRIC_LINK_FAILURE (R428): A fabric link fails and traffic is rerouted or launches are killed. -/
  | fabricLinkFailure
  /-- HMSIX (R435): Sends an MSI-X message of a vector to the host. -/
  | hmsix
  /-- HOST_BAR_ACCESS (R434): A host access through BAR2 reaches device memory. -/
  | hostBarAccess
  /-- CXL_MEM_ACCESS (R436): A CXL.mem access is served as a BAR2 access. -/
  | cxlMemAccess
  /-- NVME_DMA (R437): A storage device DMA to main memory is performed or refused. -/
  | nvmeDma
  /-- STORAGE_MESSAGE (R437): A storage MSI write sets IPEND[2] and an SCVEC bit. -/
  | storageMessage
  /-- SEALGO (R441): Starts a seal request computing block tags. -/
  | sealgo
  /-- SEAL_COMPLETE (R441): A seal finishes and BUSY clears. -/
  | sealComplete
  /-- XOP_WRITE (R442): Scale-out request writing a tile at a remote module. -/
  | xopWrite
  /-- XOP_ADD_FP32 (R443): Scale-out request adding an FP32 tile remotely. -/
  | xopAddFp32
  /-- XOP_ADD_BF16 (R443): Scale-out request adding a BF16 tile remotely. -/
  | xopAddBf16
  /-- XOP_ADD_FP16 (R443): Scale-out request adding an FP16 tile remotely. -/
  | xopAddFp16
  /-- SCALE_OUT_ACKNOWLEDGE (R443): The remote module's acknowledgement clears BUSY. -/
  | scaleOutAcknowledge
  /-- SCALE_OUT_TIMEOUT (R443): No acknowledgement within 10 ms sets TIMEOUT. -/
  | scaleOutTimeout
  /-- START (R485): SCCTL START resets and starts a system core. -/
  | start
  /-- SIGNAL (R485): SCCTL SIGNAL sets IPEND[1] of a system core. -/
  | signal
  /-- SCVEC_CLEAR (R485): A write-1-to-clear store to SCVEC clears message bits. -/
  | scvecClear
  /-- ASSIGN_SLOT (R486): Mailbox request assigning a key slot to a context. -/
  | assignSlot
  /-- EMPTY_SLOT (R486): Mailbox request emptying a key slot. -/
  | emptySlot
  /-- REGISTER_TENANT (R486): Mailbox request recording a tenant's public keys. -/
  | registerTenant
  /-- MARK_CONFIDENTIAL (R486): Mailbox request marking a context confidential or not. -/
  | markConfidential
  /-- DIVIDE (R486): Mailbox request dividing the module into partitions. -/
  | divide
  /-- POWER_LIMIT (R486): Mailbox request setting the module power limit. -/
  | powerLimit
  /-- READY (R486): Mailbox request ending bring-up step 8 so the partition accepts launches. -/
  | ready
  /-- SET_POWER_LIMIT (R487): DOE request setting the power limit. -/
  | setPowerLimit
  /-- READ_POWER_LIMIT (R487): DOE request returning the power limit. -/
  | readPowerLimit
  /-- READ_STATUS (R487): DOE request returning power, temperature and flow status. -/
  | readStatus
  /-- SESSION_OPEN (R462): An SPDM debug session is opened and judged by level. -/
  | sessionOpen
  /-- END_SESSION (R463): An SPDM END_SESSION ends a debug session. -/
  | endSession
  /-- SESSION_TIMEOUT (R463): A session with no message for 10 s ends. -/
  | sessionTimeout
  /-- SET_BREAKPOINT (R464): Debug request setting a breakpoint. -/
  | setBreakpoint
  /-- CLEAR_BREAKPOINT (R464): Debug request clearing a breakpoint. -/
  | clearBreakpoint
  /-- SET_WATCHPOINT (R464): Debug request setting a watchpoint. -/
  | setWatchpoint
  /-- CLEAR_WATCHPOINT (R464): Debug request clearing a watchpoint. -/
  | clearWatchpoint
  /-- SET_CAPTURE (R464): Debug request configuring the trace buffer. -/
  | setCapture
  /-- START_CAPTURE (R464): Debug request starting capture. -/
  | startCapture
  /-- FREEZE_CAPTURE (R464): Debug request freezing capture. -/
  | freezeCapture
  /-- SET_TRIGGER (R464): Debug request setting a system-core event trigger. -/
  | setTrigger
  /-- MARK_FOR_RECORDING (R464): Debug request marking the next launch for recording. -/
  | markForRecording
  /-- REPLAY (R464): Debug request replaying the next launch from a log. -/
  | replay
  /-- SET_CONTINUE_LIVE (R464): Debug request setting continue-live for a launch. -/
  | setContinueLive
  /-- DUMP_PARK_TABLE (R464): Debug request writing park-table records into the buffer. -/
  | dumpParkTable
  /-- POLL (R464): Debug request returning the oldest waiting hit and its frame. -/
  | poll
  /-- RELEASE (R464): Debug request releasing a waiting hit with STOP bits. -/
  | release
  /-- LOAD_KEY (R464): Debug request loading wrapped key material into a slot. -/
  | loadKey
  /-- SAMPLE (R470): Every S ticks one live strand per quad is sampled. -/
  | sample
  /-- JUNCTION_LIMIT (R481): Reaching the power limit or 105 °C lowers core clocks. -/
  | junctionLimit
  /-- THERMAL_SHUTDOWN (R481): 115 °C on any die shuts the module down. -/
  | thermalShutdown
  /-- FLOW_HOLD (R482): Coolant flow below 8 L/min holds the limit at 8 kW. -/
  | flowHold
  /-- FLOW_RECOVERY (R482): Recovered flow lifts the flow hold. -/
  | flowRecovery
  /-- FLOW_LOSS (R482): No flow for 5 s shuts the module down. -/
  | flowLoss
  /-- BRING_UP (R483): Power applied or module reset runs the bring-up steps. -/
  | bringUp
  /-- FREEZE (R479): A master violating access control is frozen. -/
  | freeze
  /-- MASTER_RESET (R479): The monitor resets a frozen master, lifting the freeze. -/
  | masterReset
  /-- IO_REGISTER_WRITE (R488): A supervisor store to an I/O block register with no row of its own. -/
  | ioRegisterWrite
  /-- SCALE_OUT_REQUEST_ARRIVAL (R443): A tile request from another module arrives at this module and is applied at its memory port, once, as a write or add-on-store, or is refused with REFUSED set there and here. -/
  | scaleOutRequestArrival
  /-- HOST_LINK_STATE (R433): The host port's PCIe link comes up or goes down, changing HSTAT link up. -/
  | hostLinkState
  /-- CXL_MEM_ENABLE (R433): The host enables or disables CXL.mem on a host port, changing HSTAT bit 1. -/
  | cxlMemEnable
  /-- KILL_LAUNCH (R278): System software ends a launch, which completes with KILL once its copies, deliveries and drains have completed. -/
  | killLaunch
  deriving DecidableEq, Repr

end Sys2Proof
end

