-- ==== Sys2Proof/Decode.lean ====
section
/-! DEFINITION. The decoder of Ulural 7 and the encoder beside it, from the formats of 04 R91, R92, R96 and the
opcode map of R104. The decoder is total on any bytes and refuses by name. It settles the fixed bits and function
codes of a word; whether an operation accepts a type or a size (R92) is settled in WellFormed.lean, and asked by each
instruction's own meaning when it executes. -/

namespace Sys2Proof

/-- Why bytes are no instruction. Safe: the machine turns each into the trap that R105 gives it. -/
inductive Reject where
  /-- fewer than four bytes -/
  | truncated
  /-- a clause header stands where an instruction belongs (R87) -/
  | header
  /-- an extension word stands where an instruction belongs (R87) -/
  | strayExtension
  /-- an instruction that takes an extension word is not followed by one (R87) -/
  | missingExtension
  /-- a payload field marked zero is not zero (R96) -/
  | extensionPayload
  /-- major 0x00 (R82) -/
  | majorZero
  /-- a reserved major (R104) -/
  | reservedMajor (major : Nat)
  /-- a reserved or unlisted function code, or an unused field that is not zero (R92) -/
  | unlistedForm (major : Nat)
  deriving DecidableEq, Repr

/-- `len` bits of a word from bit `lo` up. -/
def bits (w : Code) (lo len : Nat) : Nat := w.toNat / 2 ^ lo % 2 ^ len

/-- `len` bits of a word from bit `lo` up, as a field. -/
def field (w : Code) (lo len : Nat) : BitVec len := BitVec.ofNat len (w.toNat / 2 ^ lo)

/-- The word whose fixed bits are `base` and whose fields stand at the given places. -/
def word (base : Nat) (fields : List (Nat × Nat)) : Code :=
  BitVec.ofNat 32 (fields.foldl (fun acc f => acc + f.1 * 2 ^ f.2) base)

/-- The major opcode (R91). -/
def majorOf (w : Code) : Nat := bits w 25 7

/-- A clause header word (R81). -/
def isHeader (w : Code) : Bool := bits w 26 6 == 0x3E

/-- An extension word (R81). -/
def isExtension (w : Code) : Bool := bits w 26 6 == 0x3F

/-- The fields of a header word (R83). -/
def decodeHeader (w : Code) : ClauseHeader :=
  { n := field w 22 4, ecl := field w 19 3, full := bits w 18 1 == 1, quiet := bits w 17 1 == 1,
    lease := bits w 16 1 == 1, wbase := field w 8 8, wlen := field w 3 5, low := field w 0 3 }

/-- The header word of given fields (R83). -/
def encodeHeader (h : ClauseHeader) : Code :=
  word 0xF8000000 [(h.n.toNat, 22), (h.ecl.toNat, 19), (h.full.toNat, 18), (h.quiet.toNat, 17),
    (h.lease.toNat, 16), (h.wbase.toNat, 8), (h.wlen.toNat, 3), (h.low.toNat, 0)]

/-- Whether the major takes an extension word (R96): fork, c.copy, c.mcast. -/
def takesExtension (w : Code) : Bool :=
  majorOf w == 0x60 || majorOf w == 0x68 || majorOf w == 0x69

/-- The engine class of a major, none for a reserved one (R88, R104). -/
def majorClass (m : Nat) : Option Nat :=
  if m == 0 then none
  else if m == 0x1B || m == 0x1E then some 5
  else if m ≤ 0x1F then some 0
  else if m ≤ 0x4C then some 1
  else if m ≤ 0x4F then none
  else if m == 0x58 || m == 0x59 || m == 0x5A then some 0
  else if m ≤ 0x5E then some 2
  else if m == 0x5F then none
  else if m ≤ 0x66 then some 0
  else if m == 0x67 then none
  else if m ≤ 0x6B then some 4
  else if m ≤ 0x6E then some 0
  else if m == 0x6F then none
  else if m ≤ 0x71 then some 0
  else if m ≤ 0x77 then some 3
  else if m == 0x78 then some 0
  else if m == 0x79 then some 2
  else none

/-- The format of a major, none for a reserved one (R91, R104). -/
def majorFormat (m : Nat) : Option Format :=
  match m with
  | 0x01 | 0x09 | 0x0A | 0x15 | 0x1A | 0x1B | 0x1E | 0x5A | 0x62 | 0x63 | 0x64 | 0x65 => some .sl
  | 0x02 | 0x03 | 0x04 | 0x0B | 0x0D | 0x0E | 0x0F | 0x18 | 0x1F | 0x46 | 0x4C | 0x68 | 0x69 | 0x6A | 0x6B
  | 0x70 | 0x71 => some .sr
  | 0x05 | 0x06 | 0x07 | 0x08 | 0x0C | 0x11 | 0x13 | 0x19 | 0x1C | 0x1D | 0x58 | 0x59 | 0x66 | 0x6C | 0x6D
  | 0x6E => some .si
  | 0x10 | 0x12 => some .sb
  | 0x16 | 0x17 => some .sm
  | 0x37 | 0x39 => some .vi
  | 0x41 => some .xi
  | 0x50 | 0x51 | 0x52 => some .vm
  | 0x53 | 0x54 | 0x55 | 0x56 | 0x57 => some .va
  | 0x60 => some .fk
  | 0x72 | 0x73 | 0x74 | 0x75 | 0x76 | 0x77 => some .mx
  | 0x78 => some .rp
  | 0x79 => some .lg
  | 0x14 => some .vr
  | m => if (0x20 ≤ m && m ≤ 0x4B) || (0x5B ≤ m && m ≤ 0x5E) || m == 0x61 then some .vr else none

/-- fork and its extension word (R91 format FK, R96). -/
def decodeFork (w : Code) (ext : Option Code) : Except Reject Instr :=
  match ext with
  | none => .error .missingExtension
  | some x =>
    if isExtension x then
      if bits x 0 6 == 0 then
        .ok (.fork (field w 22 3) (field w 11 11) (field w 0 11) (field x 25 1) (field x 19 6) (field x 16 3)
          (field x 15 1) (field x 9 6) (field x 6 3))
      else .error .extensionPayload
    else .error .missingExtension

/-- c.copy and its extension word (R96, 17 R330). -/
def decodeCopy (w : Code) (ext : Option Code) : Except Reject Instr :=
  match ext with
  | none => .error .missingExtension
  | some x =>
    if isExtension x then
      if bits w 19 3 == 0 && bits w 0 1 == 0 then
        if bits x 5 21 == 0 then
          .ok (.cCopy (field w 22 3) (field w 13 6) (field w 7 6) (field w 1 6) (field x 4 1) (field x 3 1)
            (field x 2 1) (field x 0 2))
        else .error .extensionPayload
      else .error (.unlistedForm 0x68)
    else .error .missingExtension

/-- c.mcast and its extension word (R96, 17 R334: ILOV is 0). -/
def decodeMcast (w : Code) (ext : Option Code) : Except Reject Instr :=
  match ext with
  | none => .error .missingExtension
  | some x =>
    if isExtension x then
      if bits w 19 3 == 0 && bits w 0 1 == 0 then
        if bits x 4 6 == 0 then
          .ok (.cMcast (field w 22 3) (field w 13 6) (field w 7 6) (field w 1 6) (field x 10 16) (field x 3 1)
            (field x 2 1) (field x 0 2))
        else .error .extensionPayload
      else .error (.unlistedForm 0x69)
    else .error .missingExtension

/-- Major 0x01. -/
def decode01 (w : Code) : Except Reject Instr :=
  if bits w 0 22 == 0 then .ok (.nop (field w 22 3))
  else .error (.unlistedForm 1)

/-- Major 0x02. -/
def decode02 (w : Code) : Except Reject Instr :=
  if bits w 19 3 == 0 then .ok (.sAluAdd (field w 22 3) (field w 13 6) (field w 7 6) (field w 1 6) (field w 0 1))
  else if bits w 19 3 == 1 then .ok (.sAluSub (field w 22 3) (field w 13 6) (field w 7 6) (field w 1 6) (field w 0 1))
  else if bits w 19 3 == 2 then .ok (.sAluAnd (field w 22 3) (field w 13 6) (field w 7 6) (field w 1 6) (field w 0 1))
  else if bits w 19 3 == 3 then .ok (.sAluOr (field w 22 3) (field w 13 6) (field w 7 6) (field w 1 6) (field w 0 1))
  else if bits w 19 3 == 4 then .ok (.sAluXor (field w 22 3) (field w 13 6) (field w 7 6) (field w 1 6) (field w 0 1))
  else if bits w 19 3 == 5 then .ok (.sAluShl (field w 22 3) (field w 13 6) (field w 7 6) (field w 1 6) (field w 0 1))
  else if bits w 19 3 == 6 then .ok (.sAluShr (field w 22 3) (field w 13 6) (field w 7 6) (field w 1 6) (field w 0 1))
  else if bits w 19 3 == 7 then .ok (.sAluSar (field w 22 3) (field w 13 6) (field w 7 6) (field w 1 6) (field w 0 1))
  else .error (.unlistedForm 2)

/-- Major 0x03. -/
def decode03 (w : Code) : Except Reject Instr :=
  if bits w 19 3 == 0 then .ok (.sAlu2Mul (field w 22 3) (field w 13 6) (field w 7 6) (field w 1 6) (field w 0 1))
  else if bits w 19 3 == 1 then .ok (.sAlu2Mulhs (field w 22 3) (field w 13 6) (field w 7 6) (field w 1 6) (field w 0 1))
  else if bits w 19 3 == 2 then .ok (.sAlu2Mulhn (field w 22 3) (field w 13 6) (field w 7 6) (field w 1 6) (field w 0 1))
  else if bits w 19 3 == 3 then .ok (.sAlu2Min (field w 22 3) (field w 13 6) (field w 7 6) (field w 1 6) (field w 0 1))
  else if bits w 19 3 == 4 then .ok (.sAlu2Max (field w 22 3) (field w 13 6) (field w 7 6) (field w 1 6) (field w 0 1))
  else if bits w 19 3 == 5 then .ok (.sAlu2Minn (field w 22 3) (field w 13 6) (field w 7 6) (field w 1 6) (field w 0 1))
  else if bits w 19 3 == 6 then .ok (.sAlu2Maxn (field w 22 3) (field w 13 6) (field w 7 6) (field w 1 6) (field w 0 1))
  else if bits w 19 3 == 7 then .ok (.sAlu2Rotr (field w 22 3) (field w 13 6) (field w 7 6) (field w 1 6) (field w 0 1))
  else .error (.unlistedForm 3)

/-- Major 0x04. -/
def decode04 (w : Code) : Except Reject Instr :=
  if bits w 19 3 == 0 then .ok (.sDivDivs (field w 22 3) (field w 13 6) (field w 7 6) (field w 1 6) (field w 0 1))
  else if bits w 19 3 == 1 then .ok (.sDivDivn (field w 22 3) (field w 13 6) (field w 7 6) (field w 1 6) (field w 0 1))
  else if bits w 19 3 == 2 then .ok (.sDivRems (field w 22 3) (field w 13 6) (field w 7 6) (field w 1 6) (field w 0 1))
  else if bits w 19 3 == 3 then .ok (.sDivRemn (field w 22 3) (field w 13 6) (field w 7 6) (field w 1 6) (field w 0 1))
  else .error (.unlistedForm 4)

/-- Major 0x05. -/
def decode05 (w : Code) : Except Reject Instr :=
  .ok (.sAddi (field w 22 3) (field w 16 6) (field w 10 6) (field w 0 10))

/-- Major 0x06. -/
def decode06 (w : Code) : Except Reject Instr :=
  .ok (.sAndi (field w 22 3) (field w 16 6) (field w 10 6) (field w 0 10))

/-- Major 0x07. -/
def decode07 (w : Code) : Except Reject Instr :=
  .ok (.sOri (field w 22 3) (field w 16 6) (field w 10 6) (field w 0 10))

/-- Major 0x08. -/
def decode08 (w : Code) : Except Reject Instr :=
  .ok (.sXori (field w 22 3) (field w 16 6) (field w 10 6) (field w 0 10))

/-- Major 0x09. -/
def decode09 (w : Code) : Except Reject Instr :=
  .ok (.sMovi (field w 22 3) (field w 16 6) (field w 0 16))

/-- Major 0x0A. -/
def decode0A (w : Code) : Except Reject Instr :=
  if bits w 22 1 == 0 then .ok (.sMovk (field w 23 2) (field w 16 6) (field w 0 16))
  else .error (.unlistedForm 10)

/-- Major 0x0B. -/
def decode0B (w : Code) : Except Reject Instr :=
  if bits w 16 6 == 0 then .ok (.sCmpEq (field w 22 3) (field w 13 3) (field w 7 6) (field w 1 6) (field w 0 1))
  else if bits w 16 6 == 8 then .ok (.sCmpNe (field w 22 3) (field w 13 3) (field w 7 6) (field w 1 6) (field w 0 1))
  else if bits w 16 6 == 16 then .ok (.sCmpLts (field w 22 3) (field w 13 3) (field w 7 6) (field w 1 6) (field w 0 1))
  else if bits w 16 6 == 24 then .ok (.sCmpLes (field w 22 3) (field w 13 3) (field w 7 6) (field w 1 6) (field w 0 1))
  else if bits w 16 6 == 32 then .ok (.sCmpLtn (field w 22 3) (field w 13 3) (field w 7 6) (field w 1 6) (field w 0 1))
  else if bits w 16 6 == 40 then .ok (.sCmpLen (field w 22 3) (field w 13 3) (field w 7 6) (field w 1 6) (field w 0 1))
  else if bits w 16 6 == 48 then .ok (.sCmpTst (field w 22 3) (field w 13 3) (field w 7 6) (field w 1 6) (field w 0 1))
  else if bits w 16 6 == 56 then .ok (.sCmpNtst (field w 22 3) (field w 13 3) (field w 7 6) (field w 1 6) (field w 0 1))
  else .error (.unlistedForm 11)

/-- Major 0x0C. -/
def decode0C (w : Code) : Except Reject Instr :=
  if bits w 19 3 == 0 then .ok (.sCmpiEq (field w 22 3) (field w 16 3) (field w 10 6) (field w 0 10))
  else if bits w 19 3 == 1 then .ok (.sCmpiNe (field w 22 3) (field w 16 3) (field w 10 6) (field w 0 10))
  else if bits w 19 3 == 2 then .ok (.sCmpiLts (field w 22 3) (field w 16 3) (field w 10 6) (field w 0 10))
  else if bits w 19 3 == 3 then .ok (.sCmpiLes (field w 22 3) (field w 16 3) (field w 10 6) (field w 0 10))
  else if bits w 19 3 == 4 then .ok (.sCmpiLtn (field w 22 3) (field w 16 3) (field w 10 6) (field w 0 10))
  else if bits w 19 3 == 5 then .ok (.sCmpiLen (field w 22 3) (field w 16 3) (field w 10 6) (field w 0 10))
  else if bits w 19 3 == 6 then .ok (.sCmpiTst (field w 22 3) (field w 16 3) (field w 10 6) (field w 0 10))
  else if bits w 19 3 == 7 then .ok (.sCmpiNtst (field w 22 3) (field w 16 3) (field w 10 6) (field w 0 10))
  else .error (.unlistedForm 12)

/-- Major 0x0D. -/
def decode0D (w : Code) : Except Reject Instr :=
  if bits w 0 1 == 0 && bits w 4 3 == 0 && bits w 10 3 == 0 && bits w 16 6 == 0 then .ok (.pOpAnd (field w 22 3) (field w 13 3) (field w 7 3) (field w 1 3))
  else if bits w 0 1 == 0 && bits w 4 3 == 0 && bits w 10 3 == 0 && bits w 16 6 == 8 then .ok (.pOpOr (field w 22 3) (field w 13 3) (field w 7 3) (field w 1 3))
  else if bits w 0 1 == 0 && bits w 4 3 == 0 && bits w 10 3 == 0 && bits w 16 6 == 16 then .ok (.pOpXor (field w 22 3) (field w 13 3) (field w 7 3) (field w 1 3))
  else if bits w 0 1 == 0 && bits w 4 3 == 0 && bits w 10 3 == 0 && bits w 16 6 == 24 then .ok (.pOpAndn (field w 22 3) (field w 13 3) (field w 7 3) (field w 1 3))
  else if bits w 0 1 == 0 && bits w 4 3 == 0 && bits w 10 3 == 0 && bits w 16 6 == 32 then .ok (.pOpOrn (field w 22 3) (field w 13 3) (field w 7 3) (field w 1 3))
  else if bits w 0 7 == 0 && bits w 10 3 == 0 && bits w 16 6 == 40 then .ok (.pOpMov (field w 22 3) (field w 13 3) (field w 7 3))
  else if bits w 0 13 == 0 && bits w 16 6 == 48 then .ok (.pOpSet (field w 22 3) (field w 13 3))
  else if bits w 0 13 == 0 && bits w 16 6 == 56 then .ok (.pOpClr (field w 22 3) (field w 13 3))
  else .error (.unlistedForm 13)

/-- Major 0x0E. -/
def decode0E (w : Code) : Except Reject Instr :=
  .ok (.sSel (field w 22 3) (field w 19 3) (field w 13 6) (field w 7 6) (field w 1 6) (field w 0 1))

/-- Major 0x0F. -/
def decode0F (w : Code) : Except Reject Instr :=
  if bits w 0 1 == 0 && bits w 19 3 == 0 then .ok (.sBitExtz (field w 22 3) (field w 13 6) (field w 7 6) (field w 1 6))
  else if bits w 0 1 == 0 && bits w 19 3 == 1 then .ok (.sBitExts (field w 22 3) (field w 13 6) (field w 7 6) (field w 1 6))
  else if bits w 0 1 == 0 && bits w 19 3 == 2 then .ok (.sBitIns (field w 22 3) (field w 13 6) (field w 7 6) (field w 1 6))
  else if bits w 0 7 == 0 && bits w 19 3 == 3 then .ok (.sBitClz (field w 22 3) (field w 13 6) (field w 7 6))
  else if bits w 0 7 == 0 && bits w 19 3 == 4 then .ok (.sBitCtz (field w 22 3) (field w 13 6) (field w 7 6))
  else if bits w 0 7 == 0 && bits w 19 3 == 5 then .ok (.sBitPopc (field w 22 3) (field w 13 6) (field w 7 6))
  else if bits w 0 7 == 0 && bits w 19 3 == 6 then .ok (.sBitRev (field w 22 3) (field w 13 6) (field w 7 6))
  else if bits w 0 7 == 0 && bits w 19 3 == 7 then .ok (.sBitBswap (field w 22 3) (field w 13 6) (field w 7 6))
  else .error (.unlistedForm 15)

/-- Major 0x10. -/
def decode10 (w : Code) : Except Reject Instr :=
  .ok (.b (field w 22 3) (field w 0 22))

/-- Major 0x11. -/
def decode11 (w : Code) : Except Reject Instr :=
  if bits w 16 6 == 0 then .ok (.bInd (field w 22 3) (field w 10 6) (field w 0 10))
  else .error (.unlistedForm 17)

/-- Major 0x12. -/
def decode12 (w : Code) : Except Reject Instr :=
  .ok (.call (field w 22 3) (field w 0 22))

/-- Major 0x13. -/
def decode13 (w : Code) : Except Reject Instr :=
  if bits w 16 6 == 0 then .ok (.callInd (field w 22 3) (field w 10 6) (field w 0 10))
  else .error (.unlistedForm 19)

/-- Major 0x14. -/
def decode14 (w : Code) : Except Reject Instr :=
  if bits w 1 6 == 0 && bits w 13 9 == 448 then .ok (.callLane (field w 22 3) (field w 7 6) (field w 0 1))
  else .error (.unlistedForm 20)

/-- Major 0x15. -/
def decode15 (w : Code) : Except Reject Instr :=
  if bits w 0 22 == 0 then .ok (.ret (field w 22 3))
  else .error (.unlistedForm 21)

/-- Major 0x16. -/
def decode16 (w : Code) : Except Reject Instr :=
  .ok (.sLd (field w 22 3) (field w 19 3) (field w 13 6) (field w 7 6) (field w 0 7))

/-- Major 0x17. -/
def decode17 (w : Code) : Except Reject Instr :=
  .ok (.sSt (field w 22 3) (field w 19 3) (field w 13 6) (field w 7 6) (field w 0 7))

/-- Major 0x18. -/
def decode18 (w : Code) : Except Reject Instr :=
  if bits w 0 1 == 0 && bits w 19 3 == 0 then .ok (.sAmoAdd (field w 22 3) (field w 13 6) (field w 7 6) (field w 1 6))
  else if bits w 0 1 == 0 && bits w 19 3 == 1 then .ok (.sAmoAnd (field w 22 3) (field w 13 6) (field w 7 6) (field w 1 6))
  else if bits w 0 1 == 0 && bits w 19 3 == 2 then .ok (.sAmoOr (field w 22 3) (field w 13 6) (field w 7 6) (field w 1 6))
  else if bits w 0 1 == 0 && bits w 19 3 == 3 then .ok (.sAmoXor (field w 22 3) (field w 13 6) (field w 7 6) (field w 1 6))
  else if bits w 0 1 == 0 && bits w 19 3 == 4 then .ok (.sAmoMax (field w 22 3) (field w 13 6) (field w 7 6) (field w 1 6))
  else if bits w 0 1 == 0 && bits w 19 3 == 5 then .ok (.sAmoMin (field w 22 3) (field w 13 6) (field w 7 6) (field w 1 6))
  else if bits w 0 1 == 0 && bits w 19 3 == 6 then .ok (.sAmoXchg (field w 22 3) (field w 13 6) (field w 7 6) (field w 1 6))
  else if bits w 0 1 == 0 && bits w 19 3 == 7 then .ok (.sAmoCas (field w 22 3) (field w 13 6) (field w 7 6) (field w 1 6))
  else .error (.unlistedForm 24)

/-- Major 0x19. -/
def decode19 (w : Code) : Except Reject Instr :=
  if bits w 8 2 == 0 then .ok (.sLeaGstore (field w 22 3) (field w 16 6) (field w 10 6) (field w 0 8))
  else if bits w 8 2 == 1 then .ok (.sLeaSpill (field w 22 3) (field w 16 6) (field w 10 6) (field w 0 8))
  else if bits w 8 2 == 2 then .ok (.sLeaClause (field w 22 3) (field w 16 6) (field w 10 6) (field w 0 8))
  else .error (.unlistedForm 25)

/-- Major 0x1A. -/
def decode1A (w : Code) : Except Reject Instr :=
  if bits w 16 6 == 0 then .ok (.trap (field w 22 3) (field w 0 16))
  else .error (.unlistedForm 26)

/-- Major 0x1B. -/
def decode1B (w : Code) : Except Reject Instr :=
  if bits w 0 25 == 0 then .ok (.sysret)
  else .error (.unlistedForm 27)

/-- Major 0x1C. -/
def decode1C (w : Code) : Except Reject Instr :=
  if bits w 10 6 == 0 then .ok (.crRd (field w 22 3) (field w 16 6) (field w 0 10))
  else .error (.unlistedForm 28)

/-- Major 0x1D. -/
def decode1D (w : Code) : Except Reject Instr :=
  if bits w 16 6 == 0 then .ok (.crWr (field w 22 3) (field w 10 6) (field w 0 10))
  else .error (.unlistedForm 29)

/-- Major 0x1E. -/
def decode1E (w : Code) : Except Reject Instr :=
  if bits w 0 25 == 0 then .ok (.idle)
  else .error (.unlistedForm 30)

/-- Major 0x1F. -/
def decode1F (w : Code) : Except Reject Instr :=
  if bits w 0 7 == 0 && bits w 19 3 == 0 then .ok (.launch (field w 22 3) (field w 13 6) (field w 7 6))
  else if bits w 0 7 == 0 && bits w 19 3 == 1 then .ok (.lwait (field w 22 3) (field w 13 6) (field w 7 6))
  else if bits w 0 7 == 0 && bits w 19 3 == 2 then .ok (.launchCtx (field w 22 3) (field w 13 6) (field w 7 6))
  else .error (.unlistedForm 31)

/-- Major 0x20. -/
def decode20 (w : Code) : Except Reject Instr :=
  .ok (.vAdd (field w 22 3) (field w 19 3) (field w 13 6) (field w 7 6) (field w 1 6) (field w 0 1))

/-- Major 0x21. -/
def decode21 (w : Code) : Except Reject Instr :=
  .ok (.vSub (field w 22 3) (field w 19 3) (field w 13 6) (field w 7 6) (field w 1 6) (field w 0 1))

/-- Major 0x22. -/
def decode22 (w : Code) : Except Reject Instr :=
  .ok (.vMul (field w 22 3) (field w 19 3) (field w 13 6) (field w 7 6) (field w 1 6) (field w 0 1))

/-- Major 0x23. -/
def decode23 (w : Code) : Except Reject Instr :=
  .ok (.vFma (field w 22 3) (field w 19 3) (field w 13 6) (field w 7 6) (field w 1 6) (field w 0 1))

/-- Major 0x24. -/
def decode24 (w : Code) : Except Reject Instr :=
  .ok (.vFnma (field w 22 3) (field w 19 3) (field w 13 6) (field w 7 6) (field w 1 6) (field w 0 1))

/-- Major 0x25. -/
def decode25 (w : Code) : Except Reject Instr :=
  .ok (.vMin (field w 22 3) (field w 19 3) (field w 13 6) (field w 7 6) (field w 1 6) (field w 0 1))

/-- Major 0x26. -/
def decode26 (w : Code) : Except Reject Instr :=
  .ok (.vMax (field w 22 3) (field w 19 3) (field w 13 6) (field w 7 6) (field w 1 6) (field w 0 1))

/-- Major 0x27. -/
def decode27 (w : Code) : Except Reject Instr :=
  .ok (.vDiv (field w 22 3) (field w 19 3) (field w 13 6) (field w 7 6) (field w 1 6) (field w 0 1))

/-- Major 0x28. -/
def decode28 (w : Code) : Except Reject Instr :=
  .ok (.vRem (field w 22 3) (field w 19 3) (field w 13 6) (field w 7 6) (field w 1 6) (field w 0 1))

/-- Major 0x29. -/
def decode29 (w : Code) : Except Reject Instr :=
  if bits w 1 6 == 0 then .ok (.vSqrt (field w 22 3) (field w 19 3) (field w 13 6) (field w 7 6) (field w 0 1))
  else .error (.unlistedForm 41)

/-- Major 0x2A. -/
def decode2A (w : Code) : Except Reject Instr :=
  .ok (.vAnd (field w 22 3) (field w 19 3) (field w 13 6) (field w 7 6) (field w 1 6) (field w 0 1))

/-- Major 0x2B. -/
def decode2B (w : Code) : Except Reject Instr :=
  .ok (.vOr (field w 22 3) (field w 19 3) (field w 13 6) (field w 7 6) (field w 1 6) (field w 0 1))

/-- Major 0x2C. -/
def decode2C (w : Code) : Except Reject Instr :=
  .ok (.vXor (field w 22 3) (field w 19 3) (field w 13 6) (field w 7 6) (field w 1 6) (field w 0 1))

/-- Major 0x2D. -/
def decode2D (w : Code) : Except Reject Instr :=
  .ok (.vShl (field w 22 3) (field w 19 3) (field w 13 6) (field w 7 6) (field w 1 6) (field w 0 1))

/-- Major 0x2E. -/
def decode2E (w : Code) : Except Reject Instr :=
  .ok (.vShr (field w 22 3) (field w 19 3) (field w 13 6) (field w 7 6) (field w 1 6) (field w 0 1))

/-- Major 0x2F. -/
def decode2F (w : Code) : Except Reject Instr :=
  if bits w 1 6 == 0 then .ok (.vUnAbs (field w 22 3) (field w 19 3) (field w 13 6) (field w 7 6) (field w 0 1))
  else if bits w 1 6 == 1 then .ok (.vUnNeg (field w 22 3) (field w 19 3) (field w 13 6) (field w 7 6) (field w 0 1))
  else if bits w 1 6 == 2 then .ok (.vUnNot (field w 22 3) (field w 19 3) (field w 13 6) (field w 7 6) (field w 0 1))
  else if bits w 1 6 == 3 then .ok (.vUnPopc (field w 22 3) (field w 19 3) (field w 13 6) (field w 7 6) (field w 0 1))
  else if bits w 1 6 == 4 then .ok (.vUnClz (field w 22 3) (field w 19 3) (field w 13 6) (field w 7 6) (field w 0 1))
  else if bits w 1 6 == 5 then .ok (.vUnCtz (field w 22 3) (field w 19 3) (field w 13 6) (field w 7 6) (field w 0 1))
  else if bits w 1 6 == 6 then .ok (.vUnBrev (field w 22 3) (field w 19 3) (field w 13 6) (field w 7 6) (field w 0 1))
  else if bits w 3 4 == 2 then .ok (.vUnRint (field w 22 3) (field w 19 3) (field w 13 6) (field w 7 6) (field w 1 2) (field w 0 1))
  else .error (.unlistedForm 47)

/-- Major 0x30. -/
def decode30 (w : Code) : Except Reject Instr :=
  if bits w 16 3 == 0 then .ok (.vCmpEq (field w 22 3) (field w 19 3) (field w 13 3) (field w 7 6) (field w 1 6) (field w 0 1))
  else if bits w 16 3 == 1 then .ok (.vCmpNe (field w 22 3) (field w 19 3) (field w 13 3) (field w 7 6) (field w 1 6) (field w 0 1))
  else if bits w 16 3 == 2 then .ok (.vCmpLt (field w 22 3) (field w 19 3) (field w 13 3) (field w 7 6) (field w 1 6) (field w 0 1))
  else if bits w 16 3 == 3 then .ok (.vCmpLe (field w 22 3) (field w 19 3) (field w 13 3) (field w 7 6) (field w 1 6) (field w 0 1))
  else if bits w 16 3 == 4 then .ok (.vCmpGt (field w 22 3) (field w 19 3) (field w 13 3) (field w 7 6) (field w 1 6) (field w 0 1))
  else if bits w 16 3 == 5 then .ok (.vCmpGe (field w 22 3) (field w 19 3) (field w 13 3) (field w 7 6) (field w 1 6) (field w 0 1))
  else .error (.unlistedForm 48)

/-- Major 0x31. -/
def decode31 (w : Code) : Except Reject Instr :=
  .ok (.vCmpsEq (field w 22 3) (field w 19 3) (field w 13 6) (field w 7 6) (field w 1 6) (field w 0 1))

/-- Major 0x32. -/
def decode32 (w : Code) : Except Reject Instr :=
  .ok (.vCmpsLt (field w 22 3) (field w 19 3) (field w 13 6) (field w 7 6) (field w 1 6) (field w 0 1))

/-- Major 0x33. -/
def decode33 (w : Code) : Except Reject Instr :=
  .ok (.vCmpsLe (field w 22 3) (field w 19 3) (field w 13 6) (field w 7 6) (field w 1 6) (field w 0 1))

/-- Major 0x34. -/
def decode34 (w : Code) : Except Reject Instr :=
  .ok (.vBsel (field w 22 3) (field w 19 3) (field w 13 6) (field w 7 6) (field w 1 6) (field w 0 1))

/-- Major 0x35. -/
def decode35 (w : Code) : Except Reject Instr :=
  if bits w 6 1 == 0 then .ok (.vCvt (field w 22 3) (field w 19 3) (field w 13 6) (field w 7 6) (field w 4 2) (field w 1 3) (field w 0 1))
  else .error (.unlistedForm 53)

/-- Major 0x36. -/
def decode36 (w : Code) : Except Reject Instr :=
  if bits w 1 6 == 0 then .ok (.vMov (field w 22 3) (field w 19 3) (field w 13 6) (field w 7 6) (field w 0 1))
  else .error (.unlistedForm 54)

/-- Major 0x37. -/
def decode37 (w : Code) : Except Reject Instr :=
  .ok (.vMovi (field w 22 3) (field w 19 3) (field w 13 6) (field w 0 13))

/-- Major 0x38. -/
def decode38 (w : Code) : Except Reject Instr :=
  if bits w 0 7 == 0 then .ok (.vBcs (field w 22 3) (field w 19 3) (field w 13 6) (field w 7 6))
  else .error (.unlistedForm 56)

/-- Major 0x39. -/
def decode39 (w : Code) : Except Reject Instr :=
  .ok (.vIota (field w 22 3) (field w 19 3) (field w 13 6) (field w 0 13))

/-- Major 0x3A. -/
def decode3A (w : Code) : Except Reject Instr :=
  if bits w 1 6 == 0 then .ok (.vSfuExp2 (field w 22 3) (field w 19 3) (field w 13 6) (field w 7 6) (field w 0 1))
  else if bits w 1 6 == 1 then .ok (.vSfuExpe (field w 22 3) (field w 19 3) (field w 13 6) (field w 7 6) (field w 0 1))
  else if bits w 1 6 == 2 then .ok (.vSfuLog2 (field w 22 3) (field w 19 3) (field w 13 6) (field w 7 6) (field w 0 1))
  else if bits w 1 6 == 3 then .ok (.vSfuLoge (field w 22 3) (field w 19 3) (field w 13 6) (field w 7 6) (field w 0 1))
  else if bits w 1 6 == 4 then .ok (.vSfuRcp (field w 22 3) (field w 19 3) (field w 13 6) (field w 7 6) (field w 0 1))
  else if bits w 1 6 == 5 then .ok (.vSfuRsqrt (field w 22 3) (field w 19 3) (field w 13 6) (field w 7 6) (field w 0 1))
  else if bits w 1 6 == 6 then .ok (.vSfuSinpi (field w 22 3) (field w 19 3) (field w 13 6) (field w 7 6) (field w 0 1))
  else if bits w 1 6 == 7 then .ok (.vSfuCospi (field w 22 3) (field w 19 3) (field w 13 6) (field w 7 6) (field w 0 1))
  else .error (.unlistedForm 58)

/-- Major 0x3B. -/
def decode3B (w : Code) : Except Reject Instr :=
  if bits w 3 4 == 0 then .ok (.vAct (field w 22 3) (field w 19 3) (field w 13 6) (field w 7 6) (field w 1 2) (field w 0 1))
  else .error (.unlistedForm 59)

/-- Major 0x3C. -/
def decode3C (w : Code) : Except Reject Instr :=
  if bits w 15 7 == 0 then .ok (.actLd (field w 22 3) (field w 13 2) (field w 7 6) (field w 1 6) (field w 0 1))
  else if bits w 0 25 == 524288 then .ok (.actFlip)
  else .error (.unlistedForm 60)

/-- Major 0x3D. -/
def decode3D (w : Code) : Except Reject Instr :=
  .ok (.vMulhi (field w 22 3) (field w 19 3) (field w 13 6) (field w 7 6) (field w 1 6) (field w 0 1))

/-- Major 0x3E. -/
def decode3E (w : Code) : Except Reject Instr :=
  .ok (.vPack (field w 22 3) (field w 19 3) (field w 13 6) (field w 7 6) (field w 1 6) (field w 0 1))

/-- Major 0x3F. -/
def decode3F (w : Code) : Except Reject Instr :=
  .ok (.vDot (field w 22 3) (field w 19 3) (field w 13 6) (field w 7 6) (field w 1 6) (field w 0 1))

/-- Major 0x40. -/
def decode40 (w : Code) : Except Reject Instr :=
  .ok (.xShfl (field w 22 3) (field w 19 3) (field w 13 6) (field w 7 6) (field w 1 6) (field w 0 1))

/-- Major 0x41. -/
def decode41 (w : Code) : Except Reject Instr :=
  if bits w 5 2 == 0 && bits w 19 3 == 7 then .ok (.xShfliXor (field w 22 3) (field w 13 6) (field w 7 6) (field w 0 5))
  else if bits w 5 2 == 1 && bits w 19 3 == 7 then .ok (.xShfliUp (field w 22 3) (field w 13 6) (field w 7 6) (field w 0 5))
  else if bits w 5 2 == 2 && bits w 19 3 == 7 then .ok (.xShfliDown (field w 22 3) (field w 13 6) (field w 7 6) (field w 0 5))
  else if bits w 5 2 == 3 && bits w 19 3 == 7 then .ok (.xShfliRot (field w 22 3) (field w 13 6) (field w 7 6) (field w 0 5))
  else .error (.unlistedForm 65)

/-- Major 0x42. -/
def decode42 (w : Code) : Except Reject Instr :=
  .ok (.xBcast (field w 22 3) (field w 19 3) (field w 13 6) (field w 7 6) (field w 1 6) (field w 0 1))

/-- Major 0x43. -/
def decode43 (w : Code) : Except Reject Instr :=
  if bits w 1 6 == 0 then .ok (.xRedAdd (field w 22 3) (field w 19 3) (field w 13 6) (field w 7 6) (field w 0 1))
  else if bits w 1 6 == 1 then .ok (.xRedMin (field w 22 3) (field w 19 3) (field w 13 6) (field w 7 6) (field w 0 1))
  else if bits w 1 6 == 2 then .ok (.xRedMax (field w 22 3) (field w 19 3) (field w 13 6) (field w 7 6) (field w 0 1))
  else if bits w 1 6 == 3 then .ok (.xRedAnd (field w 22 3) (field w 19 3) (field w 13 6) (field w 7 6) (field w 0 1))
  else if bits w 1 6 == 4 then .ok (.xRedOr (field w 22 3) (field w 19 3) (field w 13 6) (field w 7 6) (field w 0 1))
  else if bits w 1 6 == 5 then .ok (.xRedXor (field w 22 3) (field w 19 3) (field w 13 6) (field w 7 6) (field w 0 1))
  else .error (.unlistedForm 67)

/-- Major 0x44. -/
def decode44 (w : Code) : Except Reject Instr :=
  if bits w 1 3 == 0 && bits w 5 2 == 0 then .ok (.xScanAdd (field w 22 3) (field w 19 3) (field w 13 6) (field w 7 6) (field w 4 1) (field w 0 1))
  else if bits w 1 3 == 1 && bits w 5 2 == 0 then .ok (.xScanMin (field w 22 3) (field w 19 3) (field w 13 6) (field w 7 6) (field w 4 1) (field w 0 1))
  else if bits w 1 3 == 2 && bits w 5 2 == 0 then .ok (.xScanMax (field w 22 3) (field w 19 3) (field w 13 6) (field w 7 6) (field w 4 1) (field w 0 1))
  else if bits w 1 3 == 3 && bits w 5 2 == 0 then .ok (.xScanAnd (field w 22 3) (field w 19 3) (field w 13 6) (field w 7 6) (field w 4 1) (field w 0 1))
  else if bits w 1 3 == 4 && bits w 5 2 == 0 then .ok (.xScanOr (field w 22 3) (field w 19 3) (field w 13 6) (field w 7 6) (field w 4 1) (field w 0 1))
  else if bits w 1 3 == 5 && bits w 5 2 == 0 then .ok (.xScanXor (field w 22 3) (field w 19 3) (field w 13 6) (field w 7 6) (field w 4 1) (field w 0 1))
  else .error (.unlistedForm 68)

/-- Major 0x45. -/
def decode45 (w : Code) : Except Reject Instr :=
  if bits w 1 6 == 0 && bits w 16 3 == 0 then .ok (.xBallot (field w 22 3) (field w 19 3) (field w 13 3) (field w 7 6) (field w 0 1))
  else .error (.unlistedForm 69)

/-- Major 0x46. -/
def decode46 (w : Code) : Except Reject Instr :=
  if bits w 0 1 == 0 && bits w 4 3 == 0 && bits w 10 3 == 0 && bits w 16 6 == 0 then .ok (.kOpAnd (field w 22 3) (field w 13 3) (field w 7 3) (field w 1 3))
  else if bits w 0 1 == 0 && bits w 4 3 == 0 && bits w 10 3 == 0 && bits w 16 6 == 8 then .ok (.kOpOr (field w 22 3) (field w 13 3) (field w 7 3) (field w 1 3))
  else if bits w 0 1 == 0 && bits w 4 3 == 0 && bits w 10 3 == 0 && bits w 16 6 == 16 then .ok (.kOpXor (field w 22 3) (field w 13 3) (field w 7 3) (field w 1 3))
  else if bits w 0 1 == 0 && bits w 4 3 == 0 && bits w 10 3 == 0 && bits w 16 6 == 24 then .ok (.kOpAndn (field w 22 3) (field w 13 3) (field w 7 3) (field w 1 3))
  else if bits w 0 7 == 0 && bits w 10 3 == 0 && bits w 16 6 == 32 then .ok (.kOpNot (field w 22 3) (field w 13 3) (field w 7 3))
  else if bits w 0 7 == 0 && bits w 10 3 == 0 && bits w 16 6 == 40 then .ok (.kOpMov (field w 22 3) (field w 13 3) (field w 7 3))
  else if bits w 0 7 == 1 && bits w 16 6 == 0 then .ok (.kOpFrom (field w 22 3) (field w 13 3) (field w 7 6))
  else if bits w 0 7 == 1 && bits w 10 3 == 0 && bits w 19 3 == 1 then .ok (.kOpTo (field w 22 3) (field w 13 6) (field w 7 3))
  else if bits w 0 7 == 1 && bits w 10 3 == 0 && bits w 19 3 == 2 then .ok (.kOpPopc (field w 22 3) (field w 13 6) (field w 7 3))
  else .error (.unlistedForm 70)

/-- Major 0x47. -/
def decode47 (w : Code) : Except Reject Instr :=
  if bits w 20 2 == 3 then .ok (.bsRd (field w 22 3) (field w 19 1) (field w 13 6) (field w 7 6) (field w 1 6) (field w 0 1))
  else .error (.unlistedForm 71)

/-- Major 0x48. -/
def decode48 (w : Code) : Except Reject Instr :=
  if bits w 19 3 == 0 then .ok (.bsFill (field w 22 3) (field w 13 6) (field w 7 6) (field w 1 6) (field w 0 1))
  else .error (.unlistedForm 72)

/-- Major 0x49. -/
def decode49 (w : Code) : Except Reject Instr :=
  if bits w 0 13 == 0 && bits w 19 3 == 0 then .ok (.bsCurGet (field w 22 3) (field w 13 6))
  else if bits w 1 6 == 1 && bits w 13 9 == 0 then .ok (.bsCurSet (field w 22 3) (field w 7 6) (field w 0 1))
  else .error (.unlistedForm 73)

/-- Major 0x4A. -/
def decode4A (w : Code) : Except Reject Instr :=
  if bits w 5 2 == 0 then .ok (.xSepk (field w 22 3) (field w 19 3) (field w 13 6) (field w 7 6) (field w 3 2) (field w 1 2) (field w 0 1))
  else .error (.unlistedForm 74)

/-- Major 0x4B. -/
def decode4B (w : Code) : Except Reject Instr :=
  if bits w 5 2 == 0 then .ok (.xSeunpk (field w 22 3) (field w 19 3) (field w 13 6) (field w 7 6) (field w 3 2) (field w 1 2) (field w 0 1))
  else .error (.unlistedForm 75)

/-- Major 0x4C. -/
def decode4C (w : Code) : Except Reject Instr :=
  if bits w 0 7 == 0 && bits w 10 3 == 0 && bits w 16 6 == 0 then .ok (.kTestAny (field w 22 3) (field w 13 3) (field w 7 3))
  else if bits w 0 7 == 0 && bits w 10 3 == 0 && bits w 16 6 == 8 then .ok (.kTestAll (field w 22 3) (field w 13 3) (field w 7 3))
  else .error (.unlistedForm 76)

/-- Major 0x50. -/
def decode50 (w : Code) : Except Reject Instr :=
  .ok (.mLd (field w 22 3) (field w 19 3) (field w 13 6) (field w 7 6) (field w 1 6) (field w 0 1))

/-- Major 0x51. -/
def decode51 (w : Code) : Except Reject Instr :=
  .ok (.mSt (field w 22 3) (field w 19 3) (field w 13 6) (field w 7 6) (field w 1 6) (field w 0 1))

/-- Major 0x52. -/
def decode52 (w : Code) : Except Reject Instr :=
  if bits w 0 1 == 0 && bits w 7 6 == 0 then .ok (.mLds (field w 22 3) (field w 19 3) (field w 13 6) (field w 1 6))
  else .error (.unlistedForm 82)

/-- Major 0x53. -/
def decode53 (w : Code) : Except Reject Instr :=
  if bits w 19 3 == 0 then .ok (.mAtomWAdd (field w 22 3) (field w 18 1) (field w 12 6) (field w 6 6) (field w 0 6))
  else if bits w 19 3 == 1 then .ok (.mAtomWMin (field w 22 3) (field w 18 1) (field w 12 6) (field w 6 6) (field w 0 6))
  else if bits w 19 3 == 2 then .ok (.mAtomWMax (field w 22 3) (field w 18 1) (field w 12 6) (field w 6 6) (field w 0 6))
  else if bits w 19 3 == 3 then .ok (.mAtomWMinn (field w 22 3) (field w 18 1) (field w 12 6) (field w 6 6) (field w 0 6))
  else if bits w 19 3 == 4 then .ok (.mAtomWMaxn (field w 22 3) (field w 18 1) (field w 12 6) (field w 6 6) (field w 0 6))
  else if bits w 19 3 == 5 then .ok (.mAtomWAnd (field w 22 3) (field w 18 1) (field w 12 6) (field w 6 6) (field w 0 6))
  else if bits w 19 3 == 6 then .ok (.mAtomWOr (field w 22 3) (field w 18 1) (field w 12 6) (field w 6 6) (field w 0 6))
  else if bits w 19 3 == 7 then .ok (.mAtomWXor (field w 22 3) (field w 18 1) (field w 12 6) (field w 6 6) (field w 0 6))
  else .error (.unlistedForm 83)

/-- Major 0x54. -/
def decode54 (w : Code) : Except Reject Instr :=
  if bits w 19 3 == 0 then .ok (.mAtomDAdd (field w 22 3) (field w 18 1) (field w 12 6) (field w 6 6) (field w 0 6))
  else if bits w 19 3 == 1 then .ok (.mAtomDMin (field w 22 3) (field w 18 1) (field w 12 6) (field w 6 6) (field w 0 6))
  else if bits w 19 3 == 2 then .ok (.mAtomDMax (field w 22 3) (field w 18 1) (field w 12 6) (field w 6 6) (field w 0 6))
  else if bits w 19 3 == 3 then .ok (.mAtomDMinn (field w 22 3) (field w 18 1) (field w 12 6) (field w 6 6) (field w 0 6))
  else if bits w 19 3 == 4 then .ok (.mAtomDMaxn (field w 22 3) (field w 18 1) (field w 12 6) (field w 6 6) (field w 0 6))
  else if bits w 19 3 == 5 then .ok (.mAtomDAnd (field w 22 3) (field w 18 1) (field w 12 6) (field w 6 6) (field w 0 6))
  else if bits w 19 3 == 6 then .ok (.mAtomDOr (field w 22 3) (field w 18 1) (field w 12 6) (field w 6 6) (field w 0 6))
  else if bits w 19 3 == 7 then .ok (.mAtomDXor (field w 22 3) (field w 18 1) (field w 12 6) (field w 6 6) (field w 0 6))
  else .error (.unlistedForm 84)

/-- Major 0x55. -/
def decode55 (w : Code) : Except Reject Instr :=
  if bits w 19 3 == 0 then .ok (.mAtomPAdd (field w 22 3) (field w 18 1) (field w 12 6) (field w 6 6) (field w 0 6))
  else if bits w 19 3 == 1 then .ok (.mAtomPMin (field w 22 3) (field w 18 1) (field w 12 6) (field w 6 6) (field w 0 6))
  else if bits w 19 3 == 2 then .ok (.mAtomPMax (field w 22 3) (field w 18 1) (field w 12 6) (field w 6 6) (field w 0 6))
  else if bits w 19 3 == 3 then .ok (.mAtomPMinn (field w 22 3) (field w 18 1) (field w 12 6) (field w 6 6) (field w 0 6))
  else if bits w 19 3 == 4 then .ok (.mAtomPMaxn (field w 22 3) (field w 18 1) (field w 12 6) (field w 6 6) (field w 0 6))
  else if bits w 19 3 == 5 then .ok (.mAtomPAnd (field w 22 3) (field w 18 1) (field w 12 6) (field w 6 6) (field w 0 6))
  else if bits w 19 3 == 6 then .ok (.mAtomPOr (field w 22 3) (field w 18 1) (field w 12 6) (field w 6 6) (field w 0 6))
  else if bits w 19 3 == 7 then .ok (.mAtomPXor (field w 22 3) (field w 18 1) (field w 12 6) (field w 6 6) (field w 0 6))
  else .error (.unlistedForm 85)

/-- Major 0x56. -/
def decode56 (w : Code) : Except Reject Instr :=
  if bits w 19 3 == 0 then .ok (.mXchg (field w 22 3) (field w 18 1) (field w 12 6) (field w 6 6) (field w 0 6))
  else .error (.unlistedForm 86)

/-- Major 0x57. -/
def decode57 (w : Code) : Except Reject Instr :=
  if bits w 19 3 == 0 then .ok (.mCas (field w 22 3) (field w 18 1) (field w 12 6) (field w 6 6) (field w 0 6))
  else .error (.unlistedForm 87)

/-- Major 0x58. -/
def decode58 (w : Code) : Except Reject Instr :=
  .ok (.mArrive (field w 22 3) (field w 16 6) (field w 10 6) (field w 0 10))

/-- Major 0x59. -/
def decode59 (w : Code) : Except Reject Instr :=
  .ok (.mWait (field w 22 3) (field w 16 6) (field w 10 6) (field w 0 10))

/-- Major 0x5A. -/
def decode5A (w : Code) : Except Reject Instr :=
  if bits w 0 4 == 0 && bits w 7 15 == 0 then .ok (.fenceAcq (field w 22 3) (field w 4 3))
  else if bits w 0 4 == 1 && bits w 7 15 == 0 then .ok (.fenceRel (field w 22 3) (field w 4 3))
  else if bits w 0 4 == 2 && bits w 7 15 == 0 then .ok (.fenceAcqrel (field w 22 3) (field w 4 3))
  else if bits w 0 4 == 3 && bits w 7 15 == 0 then .ok (.fenceSc (field w 22 3) (field w 4 3))
  else if bits w 0 22 == 4 then .ok (.fenceTlr (field w 22 3))
  else .error (.unlistedForm 90)

/-- Major 0x5B. -/
def decode5B (w : Code) : Except Reject Instr :=
  if bits w 1 6 == 0 && bits w 19 3 == 7 then .ok (.mPush (field w 22 3) (field w 13 6) (field w 7 6) (field w 0 1))
  else if bits w 0 7 == 2 && bits w 19 3 == 7 then .ok (.mPop (field w 22 3) (field w 13 6) (field w 7 6))
  else .error (.unlistedForm 91)

/-- Major 0x5C. -/
def decode5C (w : Code) : Except Reject Instr :=
  if bits w 20 2 == 3 then .ok (.mLdv (field w 22 3) (field w 19 1) (field w 13 6) (field w 7 6) (field w 1 6) (field w 0 1))
  else .error (.unlistedForm 92)

/-- Major 0x5D. -/
def decode5D (w : Code) : Except Reject Instr :=
  if bits w 20 2 == 3 then .ok (.mStv (field w 22 3) (field w 19 1) (field w 13 6) (field w 7 6) (field w 1 6) (field w 0 1))
  else .error (.unlistedForm 93)

/-- Major 0x5E. -/
def decode5E (w : Code) : Except Reject Instr :=
  if bits w 1 6 == 0 then .ok (.mRcnAdd (field w 22 3) (field w 19 3) (field w 13 6) (field w 7 6) (field w 0 1))
  else if bits w 1 6 == 1 then .ok (.mRcnMax (field w 22 3) (field w 19 3) (field w 13 6) (field w 7 6) (field w 0 1))
  else if bits w 1 6 == 2 then .ok (.mRcnMin (field w 22 3) (field w 19 3) (field w 13 6) (field w 7 6) (field w 0 1))
  else if bits w 1 6 == 3 then .ok (.mRcnOr (field w 22 3) (field w 19 3) (field w 13 6) (field w 7 6) (field w 0 1))
  else if bits w 3 4 == 1 then .ok (.mRcnPick (field w 22 3) (field w 19 3) (field w 13 6) (field w 7 6) (field w 1 2) (field w 0 1))
  else .error (.unlistedForm 94)

/-- Major 0x61. -/
def decode61 (w : Code) : Except Reject Instr :=
  if bits w 22 3 == 0 then .ok (.join (field w 19 3) (field w 13 6) (field w 7 6) (field w 1 6) (field w 0 1))
  else .error (.unlistedForm 97)

/-- Major 0x62. -/
def decode62 (w : Code) : Except Reject Instr :=
  if bits w 0 25 == 0 then .ok (.ends)
  else .error (.unlistedForm 98)

/-- Major 0x63. -/
def decode63 (w : Code) : Except Reject Instr :=
  if bits w 0 25 == 0 then .ok (.armwait)
  else .error (.unlistedForm 99)

/-- Major 0x64. -/
def decode64 (w : Code) : Except Reject Instr :=
  if bits w 0 16 == 0 && bits w 19 6 == 0 then .ok (.smask (field w 16 3))
  else .error (.unlistedForm 100)

/-- Major 0x65. -/
def decode65 (w : Code) : Except Reject Instr :=
  if bits w 0 25 == 0 then .ok (.exit)
  else .error (.unlistedForm 101)

/-- Major 0x66. -/
def decode66 (w : Code) : Except Reject Instr :=
  if bits w 16 6 == 0 then .ok (.setx (field w 22 3) (field w 10 6) (field w 0 10))
  else .error (.unlistedForm 102)

/-- Major 0x6A. -/
def decode6A (w : Code) : Except Reject Instr :=
  if bits w 0 13 == 0 && bits w 19 3 == 0 then .ok (.cClose (field w 22 3) (field w 13 6))
  else .error (.unlistedForm 106)

/-- Major 0x6B. -/
def decode6B (w : Code) : Except Reject Instr :=
  if bits w 0 7 == 0 && bits w 19 3 == 0 then .ok (.cWait (field w 22 3) (field w 13 6) (field w 7 6))
  else .error (.unlistedForm 107)

/-- Major 0x6C. -/
def decode6C (w : Code) : Except Reject Instr :=
  if bits w 0 16 == 0 && bits w 19 3 == 0 then .ok (.rPost (field w 22 3) (field w 16 3))
  else .error (.unlistedForm 108)

/-- Major 0x6D. -/
def decode6D (w : Code) : Except Reject Instr :=
  if bits w 19 3 == 0 then .ok (.rWait (field w 22 3) (field w 16 3) (field w 10 6) (field w 0 10))
  else .error (.unlistedForm 109)

/-- Major 0x6E. -/
def decode6E (w : Code) : Except Reject Instr :=
  if bits w 0 22 == 0 then .ok (.tBandOpen (field w 22 3))
  else if bits w 0 22 == 1 then .ok (.tBandClose (field w 22 3))
  else .error (.unlistedForm 110)

/-- Major 0x70. -/
def decode70 (w : Code) : Except Reject Instr :=
  if bits w 0 1 == 0 then .ok (.shpSet (field w 22 3) (field w 19 3) (field w 13 6) (field w 7 6) (field w 1 6))
  else .error (.unlistedForm 112)

/-- Major 0x71. -/
def decode71 (w : Code) : Except Reject Instr :=
  if bits w 0 1 == 0 && bits w 7 6 == 0 then .ok (.shpGet (field w 22 3) (field w 19 3) (field w 13 6) (field w 1 6))
  else .error (.unlistedForm 113)

/-- Major 0x72. -/
def decode72 (w : Code) : Except Reject Instr :=
  if bits w 22 3 == 0 then .ok (.mxMap (field w 18 4) (field w 12 6) (field w 6 6) (field w 0 6))
  else .error (.unlistedForm 114)

/-- Major 0x73. -/
def decode73 (w : Code) : Except Reject Instr :=
  .ok (.mxMma (field w 22 3) (field w 19 3) (field w 16 3) (field w 12 4) (field w 9 3) (field w 7 2) (field w 1 6) (field w 0 1))

/-- Major 0x74. -/
def decode74 (w : Code) : Except Reject Instr :=
  .ok (.mxMv (field w 22 3) (field w 19 3) (field w 16 3) (field w 12 4) (field w 6 6) (field w 0 6))

/-- Major 0x75. -/
def decode75 (w : Code) : Except Reject Instr :=
  if bits w 23 2 == 0 then .ok (.mxDrain (field w 20 3) (field w 17 3) (field w 11 6) (field w 5 6) (field w 4 1) (field w 3 1) (field w 0 3))
  else .error (.unlistedForm 117)

/-- Major 0x76. -/
def decode76 (w : Code) : Except Reject Instr :=
  if bits w 0 16 == 0 then .ok (.mxAccZero (field w 22 3) (field w 19 3) (field w 16 3))
  else if bits w 0 4 == 0 && bits w 8 8 == 64 then .ok (.mxAccLoad (field w 22 3) (field w 19 3) (field w 16 3) (field w 4 4))
  else if bits w 0 8 == 0 && bits w 14 2 == 2 then .ok (.mxAccGet (field w 22 3) (field w 19 3) (field w 16 3) (field w 8 6))
  else .error (.unlistedForm 118)

/-- Major 0x77. -/
def decode77 (w : Code) : Except Reject Instr :=
  if bits w 0 6 == 0 && bits w 18 3 == 0 && bits w 23 2 == 2 then .ok (.mxLeaseBind (field w 21 2) (field w 12 6) (field w 6 6))
  else if bits w 0 25 == 0 then .ok (.mxLeaseAcq)
  else if bits w 0 25 == 8388608 then .ok (.mxLeaseRel)
  else .error (.unlistedForm 119)

/-- Major 0x78. -/
def decode78 (w : Code) : Except Reject Instr :=
  if bits w 0 13 == 0 && bits w 22 3 == 0 then .ok (.rep (field w 21 1) (field w 20 1) (field w 19 1) (field w 13 6))
  else .error (.unlistedForm 120)

/-- Major 0x79. -/
def decode79 (w : Code) : Except Reject Instr :=
  if bits w 0 1 == 0 && bits w 22 3 == 0 then .ok (.lgLd (field w 19 3) (field w 13 6) (field w 7 6) (field w 1 6))
  else if bits w 0 1 == 0 && bits w 22 3 == 1 then .ok (.lgSt (field w 19 3) (field w 13 6) (field w 7 6) (field w 1 6))
  else if bits w 0 25 == 8388608 then .ok (.lgBar)
  else .error (.unlistedForm 121)

/-- The majors 0x00 to 0x0F (R104). -/
def decodeRow0 (w : Code) : Except Reject Instr :=
  match majorOf w with
  | 0x00 => .error .majorZero
  | 0x01 => decode01 w
  | 0x02 => decode02 w
  | 0x03 => decode03 w
  | 0x04 => decode04 w
  | 0x05 => decode05 w
  | 0x06 => decode06 w
  | 0x07 => decode07 w
  | 0x08 => decode08 w
  | 0x09 => decode09 w
  | 0x0A => decode0A w
  | 0x0B => decode0B w
  | 0x0C => decode0C w
  | 0x0D => decode0D w
  | 0x0E => decode0E w
  | 0x0F => decode0F w
  | m => .error (.reservedMajor m)

/-- The majors 0x10 to 0x1F (R104). -/
def decodeRow1 (w : Code) : Except Reject Instr :=
  match majorOf w with
  | 0x10 => decode10 w
  | 0x11 => decode11 w
  | 0x12 => decode12 w
  | 0x13 => decode13 w
  | 0x14 => decode14 w
  | 0x15 => decode15 w
  | 0x16 => decode16 w
  | 0x17 => decode17 w
  | 0x18 => decode18 w
  | 0x19 => decode19 w
  | 0x1A => decode1A w
  | 0x1B => decode1B w
  | 0x1C => decode1C w
  | 0x1D => decode1D w
  | 0x1E => decode1E w
  | 0x1F => decode1F w
  | m => .error (.reservedMajor m)

/-- The majors 0x20 to 0x2F (R104). -/
def decodeRow2 (w : Code) : Except Reject Instr :=
  match majorOf w with
  | 0x20 => decode20 w
  | 0x21 => decode21 w
  | 0x22 => decode22 w
  | 0x23 => decode23 w
  | 0x24 => decode24 w
  | 0x25 => decode25 w
  | 0x26 => decode26 w
  | 0x27 => decode27 w
  | 0x28 => decode28 w
  | 0x29 => decode29 w
  | 0x2A => decode2A w
  | 0x2B => decode2B w
  | 0x2C => decode2C w
  | 0x2D => decode2D w
  | 0x2E => decode2E w
  | 0x2F => decode2F w
  | m => .error (.reservedMajor m)

/-- The majors 0x30 to 0x3F (R104). -/
def decodeRow3 (w : Code) : Except Reject Instr :=
  match majorOf w with
  | 0x30 => decode30 w
  | 0x31 => decode31 w
  | 0x32 => decode32 w
  | 0x33 => decode33 w
  | 0x34 => decode34 w
  | 0x35 => decode35 w
  | 0x36 => decode36 w
  | 0x37 => decode37 w
  | 0x38 => decode38 w
  | 0x39 => decode39 w
  | 0x3A => decode3A w
  | 0x3B => decode3B w
  | 0x3C => decode3C w
  | 0x3D => decode3D w
  | 0x3E => decode3E w
  | 0x3F => decode3F w
  | m => .error (.reservedMajor m)

/-- The majors 0x40 to 0x4F (R104). -/
def decodeRow4 (w : Code) : Except Reject Instr :=
  match majorOf w with
  | 0x40 => decode40 w
  | 0x41 => decode41 w
  | 0x42 => decode42 w
  | 0x43 => decode43 w
  | 0x44 => decode44 w
  | 0x45 => decode45 w
  | 0x46 => decode46 w
  | 0x47 => decode47 w
  | 0x48 => decode48 w
  | 0x49 => decode49 w
  | 0x4A => decode4A w
  | 0x4B => decode4B w
  | 0x4C => decode4C w
  | m => .error (.reservedMajor m)

/-- The majors 0x50 to 0x5F (R104). -/
def decodeRow5 (w : Code) : Except Reject Instr :=
  match majorOf w with
  | 0x50 => decode50 w
  | 0x51 => decode51 w
  | 0x52 => decode52 w
  | 0x53 => decode53 w
  | 0x54 => decode54 w
  | 0x55 => decode55 w
  | 0x56 => decode56 w
  | 0x57 => decode57 w
  | 0x58 => decode58 w
  | 0x59 => decode59 w
  | 0x5A => decode5A w
  | 0x5B => decode5B w
  | 0x5C => decode5C w
  | 0x5D => decode5D w
  | 0x5E => decode5E w
  | m => .error (.reservedMajor m)

/-- The majors 0x60 to 0x6F (R104). -/
def decodeRow6 (w : Code) (ext : Option Code) : Except Reject Instr :=
  match majorOf w with
  | 0x60 => decodeFork w ext
  | 0x61 => decode61 w
  | 0x62 => decode62 w
  | 0x63 => decode63 w
  | 0x64 => decode64 w
  | 0x65 => decode65 w
  | 0x66 => decode66 w
  | 0x68 => decodeCopy w ext
  | 0x69 => decodeMcast w ext
  | 0x6A => decode6A w
  | 0x6B => decode6B w
  | 0x6C => decode6C w
  | 0x6D => decode6D w
  | 0x6E => decode6E w
  | m => .error (.reservedMajor m)

/-- The majors 0x70 to 0x7F (R104). -/
def decodeRow7 (w : Code) : Except Reject Instr :=
  match majorOf w with
  | 0x70 => decode70 w
  | 0x71 => decode71 w
  | 0x72 => decode72 w
  | 0x73 => decode73 w
  | 0x74 => decode74 w
  | 0x75 => decode75 w
  | 0x76 => decode76 w
  | 0x77 => decode77 w
  | 0x78 => decode78 w
  | 0x79 => decode79 w
  | 0x7C => .error .header
  | 0x7D => .error .header
  | 0x7E => .error .strayExtension
  | 0x7F => .error .strayExtension
  | m => .error (.reservedMajor m)

/-- The instruction of a word and, for the majors that take one, its extension word (R81, R104). -/
def decodeWord (w : Code) (ext : Option Code) : Except Reject Instr :=
  match majorOf w / 16 with
  | 0 => decodeRow0 w
  | 1 => decodeRow1 w
  | 2 => decodeRow2 w
  | 3 => decodeRow3 w
  | 4 => decodeRow4 w
  | 5 => decodeRow5 w
  | 6 => decodeRow6 w ext
  | _ => decodeRow7 w

/-- The word that four bytes hold, lowest address first, and the bytes after it (04: little-endian). -/
def takeWord : List Byte → Option (Code × List Byte)
  | b0 :: b1 :: b2 :: b3 :: rest =>
    some (BitVec.ofNat 32 (b0.toNat + b1.toNat * 256 + b2.toNat * 65536 + b3.toNat * 16777216), rest)
  | _ => none

/-- The four bytes of a word, lowest address first. -/
def wordBytes (w : Code) : List Byte :=
  [field w 0 8, field w 8 8, field w 16 8, field w 24 8]

/-- The first instruction of a run of bytes, and the bytes after it. -/
def decode (bs : List Byte) : Except Reject (Instr × List Byte) :=
  match takeWord bs with
  | none => .error .truncated
  | some (w, rest) =>
    if takesExtension w then
      match takeWord rest with
      | none => .error .missingExtension
      | some (x, rest2) =>
        match decodeWord w (some x) with
        | .ok i => .ok (i, rest2)
        | .error r => .error r
    else
      match decodeWord w none with
      | .ok i => .ok (i, rest)
      | .error r => .error r

/-- The words of an instruction; none for a step that has no encoding. -/
def encode (i : Instr) : List Code :=
  match i with
  | .nop g => [word 0x02000000 [(g.toNat, 22)]]
  | .sAluAdd g d a b i => [word 0x04000000 [(g.toNat, 22), (d.toNat, 13), (a.toNat, 7), (b.toNat, 1), (i.toNat, 0)]]
  | .sAluSub g d a b i => [word 0x04080000 [(g.toNat, 22), (d.toNat, 13), (a.toNat, 7), (b.toNat, 1), (i.toNat, 0)]]
  | .sAluAnd g d a b i => [word 0x04100000 [(g.toNat, 22), (d.toNat, 13), (a.toNat, 7), (b.toNat, 1), (i.toNat, 0)]]
  | .sAluOr g d a b i => [word 0x04180000 [(g.toNat, 22), (d.toNat, 13), (a.toNat, 7), (b.toNat, 1), (i.toNat, 0)]]
  | .sAluXor g d a b i => [word 0x04200000 [(g.toNat, 22), (d.toNat, 13), (a.toNat, 7), (b.toNat, 1), (i.toNat, 0)]]
  | .sAluShl g d a b i => [word 0x04280000 [(g.toNat, 22), (d.toNat, 13), (a.toNat, 7), (b.toNat, 1), (i.toNat, 0)]]
  | .sAluShr g d a b i => [word 0x04300000 [(g.toNat, 22), (d.toNat, 13), (a.toNat, 7), (b.toNat, 1), (i.toNat, 0)]]
  | .sAluSar g d a b i => [word 0x04380000 [(g.toNat, 22), (d.toNat, 13), (a.toNat, 7), (b.toNat, 1), (i.toNat, 0)]]
  | .sAlu2Mul g d a b i => [word 0x06000000 [(g.toNat, 22), (d.toNat, 13), (a.toNat, 7), (b.toNat, 1), (i.toNat, 0)]]
  | .sAlu2Mulhs g d a b i => [word 0x06080000 [(g.toNat, 22), (d.toNat, 13), (a.toNat, 7), (b.toNat, 1), (i.toNat, 0)]]
  | .sAlu2Mulhn g d a b i => [word 0x06100000 [(g.toNat, 22), (d.toNat, 13), (a.toNat, 7), (b.toNat, 1), (i.toNat, 0)]]
  | .sAlu2Min g d a b i => [word 0x06180000 [(g.toNat, 22), (d.toNat, 13), (a.toNat, 7), (b.toNat, 1), (i.toNat, 0)]]
  | .sAlu2Max g d a b i => [word 0x06200000 [(g.toNat, 22), (d.toNat, 13), (a.toNat, 7), (b.toNat, 1), (i.toNat, 0)]]
  | .sAlu2Minn g d a b i => [word 0x06280000 [(g.toNat, 22), (d.toNat, 13), (a.toNat, 7), (b.toNat, 1), (i.toNat, 0)]]
  | .sAlu2Maxn g d a b i => [word 0x06300000 [(g.toNat, 22), (d.toNat, 13), (a.toNat, 7), (b.toNat, 1), (i.toNat, 0)]]
  | .sAlu2Rotr g d a b i => [word 0x06380000 [(g.toNat, 22), (d.toNat, 13), (a.toNat, 7), (b.toNat, 1), (i.toNat, 0)]]
  | .sDivDivs g d a b i => [word 0x08000000 [(g.toNat, 22), (d.toNat, 13), (a.toNat, 7), (b.toNat, 1), (i.toNat, 0)]]
  | .sDivDivn g d a b i => [word 0x08080000 [(g.toNat, 22), (d.toNat, 13), (a.toNat, 7), (b.toNat, 1), (i.toNat, 0)]]
  | .sDivRems g d a b i => [word 0x08100000 [(g.toNat, 22), (d.toNat, 13), (a.toNat, 7), (b.toNat, 1), (i.toNat, 0)]]
  | .sDivRemn g d a b i => [word 0x08180000 [(g.toNat, 22), (d.toNat, 13), (a.toNat, 7), (b.toNat, 1), (i.toNat, 0)]]
  | .sAddi g d a i => [word 0x0A000000 [(g.toNat, 22), (d.toNat, 16), (a.toNat, 10), (i.toNat, 0)]]
  | .sAndi g d a i => [word 0x0C000000 [(g.toNat, 22), (d.toNat, 16), (a.toNat, 10), (i.toNat, 0)]]
  | .sOri g d a i => [word 0x0E000000 [(g.toNat, 22), (d.toNat, 16), (a.toNat, 10), (i.toNat, 0)]]
  | .sXori g d a i => [word 0x10000000 [(g.toNat, 22), (d.toNat, 16), (a.toNat, 10), (i.toNat, 0)]]
  | .sMovi g d i => [word 0x12000000 [(g.toNat, 22), (d.toNat, 16), (i.toNat, 0)]]
  | .sMovk h d i => [word 0x14000000 [(h.toNat, 23), (d.toNat, 16), (i.toNat, 0)]]
  | .sCmpEq g p a b i => [word 0x16000000 [(g.toNat, 22), (p.toNat, 13), (a.toNat, 7), (b.toNat, 1), (i.toNat, 0)]]
  | .sCmpNe g p a b i => [word 0x16080000 [(g.toNat, 22), (p.toNat, 13), (a.toNat, 7), (b.toNat, 1), (i.toNat, 0)]]
  | .sCmpLts g p a b i => [word 0x16100000 [(g.toNat, 22), (p.toNat, 13), (a.toNat, 7), (b.toNat, 1), (i.toNat, 0)]]
  | .sCmpLes g p a b i => [word 0x16180000 [(g.toNat, 22), (p.toNat, 13), (a.toNat, 7), (b.toNat, 1), (i.toNat, 0)]]
  | .sCmpLtn g p a b i => [word 0x16200000 [(g.toNat, 22), (p.toNat, 13), (a.toNat, 7), (b.toNat, 1), (i.toNat, 0)]]
  | .sCmpLen g p a b i => [word 0x16280000 [(g.toNat, 22), (p.toNat, 13), (a.toNat, 7), (b.toNat, 1), (i.toNat, 0)]]
  | .sCmpTst g p a b i => [word 0x16300000 [(g.toNat, 22), (p.toNat, 13), (a.toNat, 7), (b.toNat, 1), (i.toNat, 0)]]
  | .sCmpNtst g p a b i => [word 0x16380000 [(g.toNat, 22), (p.toNat, 13), (a.toNat, 7), (b.toNat, 1), (i.toNat, 0)]]
  | .sCmpiEq g p a i => [word 0x18000000 [(g.toNat, 22), (p.toNat, 16), (a.toNat, 10), (i.toNat, 0)]]
  | .sCmpiNe g p a i => [word 0x18080000 [(g.toNat, 22), (p.toNat, 16), (a.toNat, 10), (i.toNat, 0)]]
  | .sCmpiLts g p a i => [word 0x18100000 [(g.toNat, 22), (p.toNat, 16), (a.toNat, 10), (i.toNat, 0)]]
  | .sCmpiLes g p a i => [word 0x18180000 [(g.toNat, 22), (p.toNat, 16), (a.toNat, 10), (i.toNat, 0)]]
  | .sCmpiLtn g p a i => [word 0x18200000 [(g.toNat, 22), (p.toNat, 16), (a.toNat, 10), (i.toNat, 0)]]
  | .sCmpiLen g p a i => [word 0x18280000 [(g.toNat, 22), (p.toNat, 16), (a.toNat, 10), (i.toNat, 0)]]
  | .sCmpiTst g p a i => [word 0x18300000 [(g.toNat, 22), (p.toNat, 16), (a.toNat, 10), (i.toNat, 0)]]
  | .sCmpiNtst g p a i => [word 0x18380000 [(g.toNat, 22), (p.toNat, 16), (a.toNat, 10), (i.toNat, 0)]]
  | .pOpAnd g d a b => [word 0x1A000000 [(g.toNat, 22), (d.toNat, 13), (a.toNat, 7), (b.toNat, 1)]]
  | .pOpOr g d a b => [word 0x1A080000 [(g.toNat, 22), (d.toNat, 13), (a.toNat, 7), (b.toNat, 1)]]
  | .pOpXor g d a b => [word 0x1A100000 [(g.toNat, 22), (d.toNat, 13), (a.toNat, 7), (b.toNat, 1)]]
  | .pOpAndn g d a b => [word 0x1A180000 [(g.toNat, 22), (d.toNat, 13), (a.toNat, 7), (b.toNat, 1)]]
  | .pOpOrn g d a b => [word 0x1A200000 [(g.toNat, 22), (d.toNat, 13), (a.toNat, 7), (b.toNat, 1)]]
  | .pOpMov g d a => [word 0x1A280000 [(g.toNat, 22), (d.toNat, 13), (a.toNat, 7)]]
  | .pOpSet g d => [word 0x1A300000 [(g.toNat, 22), (d.toNat, 13)]]
  | .pOpClr g d => [word 0x1A380000 [(g.toNat, 22), (d.toNat, 13)]]
  | .sSel g p d a b i => [word 0x1C000000 [(g.toNat, 22), (p.toNat, 19), (d.toNat, 13), (a.toNat, 7), (b.toNat, 1), (i.toNat, 0)]]
  | .sBitExtz g d a b => [word 0x1E000000 [(g.toNat, 22), (d.toNat, 13), (a.toNat, 7), (b.toNat, 1)]]
  | .sBitExts g d a b => [word 0x1E080000 [(g.toNat, 22), (d.toNat, 13), (a.toNat, 7), (b.toNat, 1)]]
  | .sBitIns g d a b => [word 0x1E100000 [(g.toNat, 22), (d.toNat, 13), (a.toNat, 7), (b.toNat, 1)]]
  | .sBitClz g d a => [word 0x1E180000 [(g.toNat, 22), (d.toNat, 13), (a.toNat, 7)]]
  | .sBitCtz g d a => [word 0x1E200000 [(g.toNat, 22), (d.toNat, 13), (a.toNat, 7)]]
  | .sBitPopc g d a => [word 0x1E280000 [(g.toNat, 22), (d.toNat, 13), (a.toNat, 7)]]
  | .sBitRev g d a => [word 0x1E300000 [(g.toNat, 22), (d.toNat, 13), (a.toNat, 7)]]
  | .sBitBswap g d a => [word 0x1E380000 [(g.toNat, 22), (d.toNat, 13), (a.toNat, 7)]]
  | .b g o => [word 0x20000000 [(g.toNat, 22), (o.toNat, 0)]]
  | .bInd g a i => [word 0x22000000 [(g.toNat, 22), (a.toNat, 10), (i.toNat, 0)]]
  | .call g o => [word 0x24000000 [(g.toNat, 22), (o.toNat, 0)]]
  | .callInd g a i => [word 0x26000000 [(g.toNat, 22), (a.toNat, 10), (i.toNat, 0)]]
  | .callLane g a e => [word 0x28380000 [(g.toNat, 22), (a.toNat, 7), (e.toNat, 0)]]
  | .ret g => [word 0x2A000000 [(g.toNat, 22)]]
  | .sLd g z d a o => [word 0x2C000000 [(g.toNat, 22), (z.toNat, 19), (d.toNat, 13), (a.toNat, 7), (o.toNat, 0)]]
  | .sSt g z d a o => [word 0x2E000000 [(g.toNat, 22), (z.toNat, 19), (d.toNat, 13), (a.toNat, 7), (o.toNat, 0)]]
  | .sAmoAdd g d a b => [word 0x30000000 [(g.toNat, 22), (d.toNat, 13), (a.toNat, 7), (b.toNat, 1)]]
  | .sAmoAnd g d a b => [word 0x30080000 [(g.toNat, 22), (d.toNat, 13), (a.toNat, 7), (b.toNat, 1)]]
  | .sAmoOr g d a b => [word 0x30100000 [(g.toNat, 22), (d.toNat, 13), (a.toNat, 7), (b.toNat, 1)]]
  | .sAmoXor g d a b => [word 0x30180000 [(g.toNat, 22), (d.toNat, 13), (a.toNat, 7), (b.toNat, 1)]]
  | .sAmoMax g d a b => [word 0x30200000 [(g.toNat, 22), (d.toNat, 13), (a.toNat, 7), (b.toNat, 1)]]
  | .sAmoMin g d a b => [word 0x30280000 [(g.toNat, 22), (d.toNat, 13), (a.toNat, 7), (b.toNat, 1)]]
  | .sAmoXchg g d a b => [word 0x30300000 [(g.toNat, 22), (d.toNat, 13), (a.toNat, 7), (b.toNat, 1)]]
  | .sAmoCas g d a b => [word 0x30380000 [(g.toNat, 22), (d.toNat, 13), (a.toNat, 7), (b.toNat, 1)]]
  | .sLeaGstore g d a o => [word 0x32000000 [(g.toNat, 22), (d.toNat, 16), (a.toNat, 10), (o.toNat, 0)]]
  | .sLeaSpill g d a o => [word 0x32000100 [(g.toNat, 22), (d.toNat, 16), (a.toNat, 10), (o.toNat, 0)]]
  | .sLeaClause g d a o => [word 0x32000200 [(g.toNat, 22), (d.toNat, 16), (a.toNat, 10), (o.toNat, 0)]]
  | .trap g c => [word 0x34000000 [(g.toNat, 22), (c.toNat, 0)]]
  | .crRd g d n => [word 0x38000000 [(g.toNat, 22), (d.toNat, 16), (n.toNat, 0)]]
  | .crWr g a n => [word 0x3A000000 [(g.toNat, 22), (a.toNat, 10), (n.toNat, 0)]]
  | .launch g d a => [word 0x3E000000 [(g.toNat, 22), (d.toNat, 13), (a.toNat, 7)]]
  | .lwait g d a => [word 0x3E080000 [(g.toNat, 22), (d.toNat, 13), (a.toNat, 7)]]
  | .launchCtx g d a => [word 0x3E100000 [(g.toNat, 22), (d.toNat, 13), (a.toNat, 7)]]
  | .vAdd g t d a b e => [word 0x40000000 [(g.toNat, 22), (t.toNat, 19), (d.toNat, 13), (a.toNat, 7), (b.toNat, 1), (e.toNat, 0)]]
  | .vSub g t d a b e => [word 0x42000000 [(g.toNat, 22), (t.toNat, 19), (d.toNat, 13), (a.toNat, 7), (b.toNat, 1), (e.toNat, 0)]]
  | .vMul g t d a b e => [word 0x44000000 [(g.toNat, 22), (t.toNat, 19), (d.toNat, 13), (a.toNat, 7), (b.toNat, 1), (e.toNat, 0)]]
  | .vFma g t d a b e => [word 0x46000000 [(g.toNat, 22), (t.toNat, 19), (d.toNat, 13), (a.toNat, 7), (b.toNat, 1), (e.toNat, 0)]]
  | .vFnma g t d a b e => [word 0x48000000 [(g.toNat, 22), (t.toNat, 19), (d.toNat, 13), (a.toNat, 7), (b.toNat, 1), (e.toNat, 0)]]
  | .vMin g t d a b e => [word 0x4A000000 [(g.toNat, 22), (t.toNat, 19), (d.toNat, 13), (a.toNat, 7), (b.toNat, 1), (e.toNat, 0)]]
  | .vMax g t d a b e => [word 0x4C000000 [(g.toNat, 22), (t.toNat, 19), (d.toNat, 13), (a.toNat, 7), (b.toNat, 1), (e.toNat, 0)]]
  | .vDiv g t d a b e => [word 0x4E000000 [(g.toNat, 22), (t.toNat, 19), (d.toNat, 13), (a.toNat, 7), (b.toNat, 1), (e.toNat, 0)]]
  | .vRem g t d a b e => [word 0x50000000 [(g.toNat, 22), (t.toNat, 19), (d.toNat, 13), (a.toNat, 7), (b.toNat, 1), (e.toNat, 0)]]
  | .vSqrt g t d a e => [word 0x52000000 [(g.toNat, 22), (t.toNat, 19), (d.toNat, 13), (a.toNat, 7), (e.toNat, 0)]]
  | .vAnd g t d a b e => [word 0x54000000 [(g.toNat, 22), (t.toNat, 19), (d.toNat, 13), (a.toNat, 7), (b.toNat, 1), (e.toNat, 0)]]
  | .vOr g t d a b e => [word 0x56000000 [(g.toNat, 22), (t.toNat, 19), (d.toNat, 13), (a.toNat, 7), (b.toNat, 1), (e.toNat, 0)]]
  | .vXor g t d a b e => [word 0x58000000 [(g.toNat, 22), (t.toNat, 19), (d.toNat, 13), (a.toNat, 7), (b.toNat, 1), (e.toNat, 0)]]
  | .vShl g t d a b e => [word 0x5A000000 [(g.toNat, 22), (t.toNat, 19), (d.toNat, 13), (a.toNat, 7), (b.toNat, 1), (e.toNat, 0)]]
  | .vShr g t d a b e => [word 0x5C000000 [(g.toNat, 22), (t.toNat, 19), (d.toNat, 13), (a.toNat, 7), (b.toNat, 1), (e.toNat, 0)]]
  | .vUnAbs g t d a e => [word 0x5E000000 [(g.toNat, 22), (t.toNat, 19), (d.toNat, 13), (a.toNat, 7), (e.toNat, 0)]]
  | .vUnNeg g t d a e => [word 0x5E000002 [(g.toNat, 22), (t.toNat, 19), (d.toNat, 13), (a.toNat, 7), (e.toNat, 0)]]
  | .vUnNot g t d a e => [word 0x5E000004 [(g.toNat, 22), (t.toNat, 19), (d.toNat, 13), (a.toNat, 7), (e.toNat, 0)]]
  | .vUnPopc g t d a e => [word 0x5E000006 [(g.toNat, 22), (t.toNat, 19), (d.toNat, 13), (a.toNat, 7), (e.toNat, 0)]]
  | .vUnClz g t d a e => [word 0x5E000008 [(g.toNat, 22), (t.toNat, 19), (d.toNat, 13), (a.toNat, 7), (e.toNat, 0)]]
  | .vUnCtz g t d a e => [word 0x5E00000A [(g.toNat, 22), (t.toNat, 19), (d.toNat, 13), (a.toNat, 7), (e.toNat, 0)]]
  | .vUnBrev g t d a e => [word 0x5E00000C [(g.toNat, 22), (t.toNat, 19), (d.toNat, 13), (a.toNat, 7), (e.toNat, 0)]]
  | .vUnRint g t d a m e => [word 0x5E000010 [(g.toNat, 22), (t.toNat, 19), (d.toNat, 13), (a.toNat, 7), (m.toNat, 1), (e.toNat, 0)]]
  | .vCmpEq g t k a b e => [word 0x60000000 [(g.toNat, 22), (t.toNat, 19), (k.toNat, 13), (a.toNat, 7), (b.toNat, 1), (e.toNat, 0)]]
  | .vCmpNe g t k a b e => [word 0x60010000 [(g.toNat, 22), (t.toNat, 19), (k.toNat, 13), (a.toNat, 7), (b.toNat, 1), (e.toNat, 0)]]
  | .vCmpLt g t k a b e => [word 0x60020000 [(g.toNat, 22), (t.toNat, 19), (k.toNat, 13), (a.toNat, 7), (b.toNat, 1), (e.toNat, 0)]]
  | .vCmpLe g t k a b e => [word 0x60030000 [(g.toNat, 22), (t.toNat, 19), (k.toNat, 13), (a.toNat, 7), (b.toNat, 1), (e.toNat, 0)]]
  | .vCmpGt g t k a b e => [word 0x60040000 [(g.toNat, 22), (t.toNat, 19), (k.toNat, 13), (a.toNat, 7), (b.toNat, 1), (e.toNat, 0)]]
  | .vCmpGe g t k a b e => [word 0x60050000 [(g.toNat, 22), (t.toNat, 19), (k.toNat, 13), (a.toNat, 7), (b.toNat, 1), (e.toNat, 0)]]
  | .vCmpsEq g t d a b e => [word 0x62000000 [(g.toNat, 22), (t.toNat, 19), (d.toNat, 13), (a.toNat, 7), (b.toNat, 1), (e.toNat, 0)]]
  | .vCmpsLt g t d a b e => [word 0x64000000 [(g.toNat, 22), (t.toNat, 19), (d.toNat, 13), (a.toNat, 7), (b.toNat, 1), (e.toNat, 0)]]
  | .vCmpsLe g t d a b e => [word 0x66000000 [(g.toNat, 22), (t.toNat, 19), (d.toNat, 13), (a.toNat, 7), (b.toNat, 1), (e.toNat, 0)]]
  | .vBsel g t d a b e => [word 0x68000000 [(g.toNat, 22), (t.toNat, 19), (d.toNat, 13), (a.toNat, 7), (b.toNat, 1), (e.toNat, 0)]]
  | .vCvt g t d a m s e => [word 0x6A000000 [(g.toNat, 22), (t.toNat, 19), (d.toNat, 13), (a.toNat, 7), (m.toNat, 4), (s.toNat, 1), (e.toNat, 0)]]
  | .vMov g t d a e => [word 0x6C000000 [(g.toNat, 22), (t.toNat, 19), (d.toNat, 13), (a.toNat, 7), (e.toNat, 0)]]
  | .vMovi g t d i => [word 0x6E000000 [(g.toNat, 22), (t.toNat, 19), (d.toNat, 13), (i.toNat, 0)]]
  | .vBcs g t d a => [word 0x70000000 [(g.toNat, 22), (t.toNat, 19), (d.toNat, 13), (a.toNat, 7)]]
  | .vSfuExp2 g t d a e => [word 0x74000000 [(g.toNat, 22), (t.toNat, 19), (d.toNat, 13), (a.toNat, 7), (e.toNat, 0)]]
  | .vSfuExpe g t d a e => [word 0x74000002 [(g.toNat, 22), (t.toNat, 19), (d.toNat, 13), (a.toNat, 7), (e.toNat, 0)]]
  | .vSfuLog2 g t d a e => [word 0x74000004 [(g.toNat, 22), (t.toNat, 19), (d.toNat, 13), (a.toNat, 7), (e.toNat, 0)]]
  | .vSfuLoge g t d a e => [word 0x74000006 [(g.toNat, 22), (t.toNat, 19), (d.toNat, 13), (a.toNat, 7), (e.toNat, 0)]]
  | .vSfuRcp g t d a e => [word 0x74000008 [(g.toNat, 22), (t.toNat, 19), (d.toNat, 13), (a.toNat, 7), (e.toNat, 0)]]
  | .vSfuRsqrt g t d a e => [word 0x7400000A [(g.toNat, 22), (t.toNat, 19), (d.toNat, 13), (a.toNat, 7), (e.toNat, 0)]]
  | .vSfuSinpi g t d a e => [word 0x7400000C [(g.toNat, 22), (t.toNat, 19), (d.toNat, 13), (a.toNat, 7), (e.toNat, 0)]]
  | .vSfuCospi g t d a e => [word 0x7400000E [(g.toNat, 22), (t.toNat, 19), (d.toNat, 13), (a.toNat, 7), (e.toNat, 0)]]
  | .vAct g t d a n e => [word 0x76000000 [(g.toNat, 22), (t.toNat, 19), (d.toNat, 13), (a.toNat, 7), (n.toNat, 1), (e.toNat, 0)]]
  | .actLd g n a b e => [word 0x78000000 [(g.toNat, 22), (n.toNat, 13), (a.toNat, 7), (b.toNat, 1), (e.toNat, 0)]]
  | .vMulhi g t d a b e => [word 0x7A000000 [(g.toNat, 22), (t.toNat, 19), (d.toNat, 13), (a.toNat, 7), (b.toNat, 1), (e.toNat, 0)]]
  | .vPack g t d a b e => [word 0x7C000000 [(g.toNat, 22), (t.toNat, 19), (d.toNat, 13), (a.toNat, 7), (b.toNat, 1), (e.toNat, 0)]]
  | .vDot g t d a b e => [word 0x7E000000 [(g.toNat, 22), (t.toNat, 19), (d.toNat, 13), (a.toNat, 7), (b.toNat, 1), (e.toNat, 0)]]
  | .xShfl g t d a b e => [word 0x80000000 [(g.toNat, 22), (t.toNat, 19), (d.toNat, 13), (a.toNat, 7), (b.toNat, 1), (e.toNat, 0)]]
  | .xShfliXor g d a s => [word 0x82380000 [(g.toNat, 22), (d.toNat, 13), (a.toNat, 7), (s.toNat, 0)]]
  | .xShfliUp g d a s => [word 0x82380020 [(g.toNat, 22), (d.toNat, 13), (a.toNat, 7), (s.toNat, 0)]]
  | .xShfliDown g d a s => [word 0x82380040 [(g.toNat, 22), (d.toNat, 13), (a.toNat, 7), (s.toNat, 0)]]
  | .xShfliRot g d a s => [word 0x82380060 [(g.toNat, 22), (d.toNat, 13), (a.toNat, 7), (s.toNat, 0)]]
  | .xBcast g t d a n e => [word 0x84000000 [(g.toNat, 22), (t.toNat, 19), (d.toNat, 13), (a.toNat, 7), (n.toNat, 1), (e.toNat, 0)]]
  | .xRedAdd g t d a e => [word 0x86000000 [(g.toNat, 22), (t.toNat, 19), (d.toNat, 13), (a.toNat, 7), (e.toNat, 0)]]
  | .xRedMin g t d a e => [word 0x86000002 [(g.toNat, 22), (t.toNat, 19), (d.toNat, 13), (a.toNat, 7), (e.toNat, 0)]]
  | .xRedMax g t d a e => [word 0x86000004 [(g.toNat, 22), (t.toNat, 19), (d.toNat, 13), (a.toNat, 7), (e.toNat, 0)]]
  | .xRedAnd g t d a e => [word 0x86000006 [(g.toNat, 22), (t.toNat, 19), (d.toNat, 13), (a.toNat, 7), (e.toNat, 0)]]
  | .xRedOr g t d a e => [word 0x86000008 [(g.toNat, 22), (t.toNat, 19), (d.toNat, 13), (a.toNat, 7), (e.toNat, 0)]]
  | .xRedXor g t d a e => [word 0x8600000A [(g.toNat, 22), (t.toNat, 19), (d.toNat, 13), (a.toNat, 7), (e.toNat, 0)]]
  | .xScanAdd g t d a x e => [word 0x88000000 [(g.toNat, 22), (t.toNat, 19), (d.toNat, 13), (a.toNat, 7), (x.toNat, 4), (e.toNat, 0)]]
  | .xScanMin g t d a x e => [word 0x88000002 [(g.toNat, 22), (t.toNat, 19), (d.toNat, 13), (a.toNat, 7), (x.toNat, 4), (e.toNat, 0)]]
  | .xScanMax g t d a x e => [word 0x88000004 [(g.toNat, 22), (t.toNat, 19), (d.toNat, 13), (a.toNat, 7), (x.toNat, 4), (e.toNat, 0)]]
  | .xScanAnd g t d a x e => [word 0x88000006 [(g.toNat, 22), (t.toNat, 19), (d.toNat, 13), (a.toNat, 7), (x.toNat, 4), (e.toNat, 0)]]
  | .xScanOr g t d a x e => [word 0x88000008 [(g.toNat, 22), (t.toNat, 19), (d.toNat, 13), (a.toNat, 7), (x.toNat, 4), (e.toNat, 0)]]
  | .xScanXor g t d a x e => [word 0x8800000A [(g.toNat, 22), (t.toNat, 19), (d.toNat, 13), (a.toNat, 7), (x.toNat, 4), (e.toNat, 0)]]
  | .xBallot g t k a e => [word 0x8A000000 [(g.toNat, 22), (t.toNat, 19), (k.toNat, 13), (a.toNat, 7), (e.toNat, 0)]]
  | .kOpAnd g d a b => [word 0x8C000000 [(g.toNat, 22), (d.toNat, 13), (a.toNat, 7), (b.toNat, 1)]]
  | .kOpOr g d a b => [word 0x8C080000 [(g.toNat, 22), (d.toNat, 13), (a.toNat, 7), (b.toNat, 1)]]
  | .kOpXor g d a b => [word 0x8C100000 [(g.toNat, 22), (d.toNat, 13), (a.toNat, 7), (b.toNat, 1)]]
  | .kOpAndn g d a b => [word 0x8C180000 [(g.toNat, 22), (d.toNat, 13), (a.toNat, 7), (b.toNat, 1)]]
  | .kOpNot g d a => [word 0x8C200000 [(g.toNat, 22), (d.toNat, 13), (a.toNat, 7)]]
  | .kOpMov g d a => [word 0x8C280000 [(g.toNat, 22), (d.toNat, 13), (a.toNat, 7)]]
  | .kOpFrom g d a => [word 0x8C000001 [(g.toNat, 22), (d.toNat, 13), (a.toNat, 7)]]
  | .kOpTo g d a => [word 0x8C080001 [(g.toNat, 22), (d.toNat, 13), (a.toNat, 7)]]
  | .kOpPopc g d a => [word 0x8C100001 [(g.toNat, 22), (d.toNat, 13), (a.toNat, 7)]]
  | .bsRd g t d a n e => [word 0x8E300000 [(g.toNat, 22), (t.toNat, 19), (d.toNat, 13), (a.toNat, 7), (n.toNat, 1), (e.toNat, 0)]]
  | .bsFill g d a b e => [word 0x90000000 [(g.toNat, 22), (d.toNat, 13), (a.toNat, 7), (b.toNat, 1), (e.toNat, 0)]]
  | .bsCurGet g d => [word 0x92000000 [(g.toNat, 22), (d.toNat, 13)]]
  | .bsCurSet g a e => [word 0x92000002 [(g.toNat, 22), (a.toNat, 7), (e.toNat, 0)]]
  | .xSepk g t d a f s e => [word 0x94000000 [(g.toNat, 22), (t.toNat, 19), (d.toNat, 13), (a.toNat, 7), (f.toNat, 3), (s.toNat, 1), (e.toNat, 0)]]
  | .xSeunpk g t d a f s e => [word 0x96000000 [(g.toNat, 22), (t.toNat, 19), (d.toNat, 13), (a.toNat, 7), (f.toNat, 3), (s.toNat, 1), (e.toNat, 0)]]
  | .kTestAny g p k => [word 0x98000000 [(g.toNat, 22), (p.toNat, 13), (k.toNat, 7)]]
  | .kTestAll g p k => [word 0x98080000 [(g.toNat, 22), (p.toNat, 13), (k.toNat, 7)]]
  | .mLd g z d a s e => [word 0xA0000000 [(g.toNat, 22), (z.toNat, 19), (d.toNat, 13), (a.toNat, 7), (s.toNat, 1), (e.toNat, 0)]]
  | .mSt g z d a s e => [word 0xA2000000 [(g.toNat, 22), (z.toNat, 19), (d.toNat, 13), (a.toNat, 7), (s.toNat, 1), (e.toNat, 0)]]
  | .mLds g z d s => [word 0xA4000000 [(g.toNat, 22), (z.toNat, 19), (d.toNat, 13), (s.toNat, 1)]]
  | .mAtomWAdd g z d a s => [word 0xA6000000 [(g.toNat, 22), (z.toNat, 18), (d.toNat, 12), (a.toNat, 6), (s.toNat, 0)]]
  | .mAtomWMin g z d a s => [word 0xA6080000 [(g.toNat, 22), (z.toNat, 18), (d.toNat, 12), (a.toNat, 6), (s.toNat, 0)]]
  | .mAtomWMax g z d a s => [word 0xA6100000 [(g.toNat, 22), (z.toNat, 18), (d.toNat, 12), (a.toNat, 6), (s.toNat, 0)]]
  | .mAtomWMinn g z d a s => [word 0xA6180000 [(g.toNat, 22), (z.toNat, 18), (d.toNat, 12), (a.toNat, 6), (s.toNat, 0)]]
  | .mAtomWMaxn g z d a s => [word 0xA6200000 [(g.toNat, 22), (z.toNat, 18), (d.toNat, 12), (a.toNat, 6), (s.toNat, 0)]]
  | .mAtomWAnd g z d a s => [word 0xA6280000 [(g.toNat, 22), (z.toNat, 18), (d.toNat, 12), (a.toNat, 6), (s.toNat, 0)]]
  | .mAtomWOr g z d a s => [word 0xA6300000 [(g.toNat, 22), (z.toNat, 18), (d.toNat, 12), (a.toNat, 6), (s.toNat, 0)]]
  | .mAtomWXor g z d a s => [word 0xA6380000 [(g.toNat, 22), (z.toNat, 18), (d.toNat, 12), (a.toNat, 6), (s.toNat, 0)]]
  | .mAtomDAdd g z d a s => [word 0xA8000000 [(g.toNat, 22), (z.toNat, 18), (d.toNat, 12), (a.toNat, 6), (s.toNat, 0)]]
  | .mAtomDMin g z d a s => [word 0xA8080000 [(g.toNat, 22), (z.toNat, 18), (d.toNat, 12), (a.toNat, 6), (s.toNat, 0)]]
  | .mAtomDMax g z d a s => [word 0xA8100000 [(g.toNat, 22), (z.toNat, 18), (d.toNat, 12), (a.toNat, 6), (s.toNat, 0)]]
  | .mAtomDMinn g z d a s => [word 0xA8180000 [(g.toNat, 22), (z.toNat, 18), (d.toNat, 12), (a.toNat, 6), (s.toNat, 0)]]
  | .mAtomDMaxn g z d a s => [word 0xA8200000 [(g.toNat, 22), (z.toNat, 18), (d.toNat, 12), (a.toNat, 6), (s.toNat, 0)]]
  | .mAtomDAnd g z d a s => [word 0xA8280000 [(g.toNat, 22), (z.toNat, 18), (d.toNat, 12), (a.toNat, 6), (s.toNat, 0)]]
  | .mAtomDOr g z d a s => [word 0xA8300000 [(g.toNat, 22), (z.toNat, 18), (d.toNat, 12), (a.toNat, 6), (s.toNat, 0)]]
  | .mAtomDXor g z d a s => [word 0xA8380000 [(g.toNat, 22), (z.toNat, 18), (d.toNat, 12), (a.toNat, 6), (s.toNat, 0)]]
  | .mAtomPAdd g z d a s => [word 0xAA000000 [(g.toNat, 22), (z.toNat, 18), (d.toNat, 12), (a.toNat, 6), (s.toNat, 0)]]
  | .mAtomPMin g z d a s => [word 0xAA080000 [(g.toNat, 22), (z.toNat, 18), (d.toNat, 12), (a.toNat, 6), (s.toNat, 0)]]
  | .mAtomPMax g z d a s => [word 0xAA100000 [(g.toNat, 22), (z.toNat, 18), (d.toNat, 12), (a.toNat, 6), (s.toNat, 0)]]
  | .mAtomPMinn g z d a s => [word 0xAA180000 [(g.toNat, 22), (z.toNat, 18), (d.toNat, 12), (a.toNat, 6), (s.toNat, 0)]]
  | .mAtomPMaxn g z d a s => [word 0xAA200000 [(g.toNat, 22), (z.toNat, 18), (d.toNat, 12), (a.toNat, 6), (s.toNat, 0)]]
  | .mAtomPAnd g z d a s => [word 0xAA280000 [(g.toNat, 22), (z.toNat, 18), (d.toNat, 12), (a.toNat, 6), (s.toNat, 0)]]
  | .mAtomPOr g z d a s => [word 0xAA300000 [(g.toNat, 22), (z.toNat, 18), (d.toNat, 12), (a.toNat, 6), (s.toNat, 0)]]
  | .mAtomPXor g z d a s => [word 0xAA380000 [(g.toNat, 22), (z.toNat, 18), (d.toNat, 12), (a.toNat, 6), (s.toNat, 0)]]
  | .mXchg g z d a s => [word 0xAC000000 [(g.toNat, 22), (z.toNat, 18), (d.toNat, 12), (a.toNat, 6), (s.toNat, 0)]]
  | .mCas g z d a s => [word 0xAE000000 [(g.toNat, 22), (z.toNat, 18), (d.toNat, 12), (a.toNat, 6), (s.toNat, 0)]]
  | .mArrive g d a i => [word 0xB0000000 [(g.toNat, 22), (d.toNat, 16), (a.toNat, 10), (i.toNat, 0)]]
  | .mWait g d a i => [word 0xB2000000 [(g.toNat, 22), (d.toNat, 16), (a.toNat, 10), (i.toNat, 0)]]
  | .fenceAcq g s => [word 0xB4000000 [(g.toNat, 22), (s.toNat, 4)]]
  | .fenceRel g s => [word 0xB4000001 [(g.toNat, 22), (s.toNat, 4)]]
  | .fenceAcqrel g s => [word 0xB4000002 [(g.toNat, 22), (s.toNat, 4)]]
  | .fenceSc g s => [word 0xB4000003 [(g.toNat, 22), (s.toNat, 4)]]
  | .fenceTlr g => [word 0xB4000004 [(g.toNat, 22)]]
  | .mPush g d n e => [word 0xB6380000 [(g.toNat, 22), (d.toNat, 13), (n.toNat, 7), (e.toNat, 0)]]
  | .mPop g d n => [word 0xB6380002 [(g.toNat, 22), (d.toNat, 13), (n.toNat, 7)]]
  | .mLdv g t d a b e => [word 0xB8300000 [(g.toNat, 22), (t.toNat, 19), (d.toNat, 13), (a.toNat, 7), (b.toNat, 1), (e.toNat, 0)]]
  | .mStv g t d a b e => [word 0xBA300000 [(g.toNat, 22), (t.toNat, 19), (d.toNat, 13), (a.toNat, 7), (b.toNat, 1), (e.toNat, 0)]]
  | .mRcnAdd g t d a e => [word 0xBC000000 [(g.toNat, 22), (t.toNat, 19), (d.toNat, 13), (a.toNat, 7), (e.toNat, 0)]]
  | .mRcnMax g t d a e => [word 0xBC000002 [(g.toNat, 22), (t.toNat, 19), (d.toNat, 13), (a.toNat, 7), (e.toNat, 0)]]
  | .mRcnMin g t d a e => [word 0xBC000004 [(g.toNat, 22), (t.toNat, 19), (d.toNat, 13), (a.toNat, 7), (e.toNat, 0)]]
  | .mRcnOr g t d a e => [word 0xBC000006 [(g.toNat, 22), (t.toNat, 19), (d.toNat, 13), (a.toNat, 7), (e.toNat, 0)]]
  | .mRcnPick g t d a j e => [word 0xBC000008 [(g.toNat, 22), (t.toNat, 19), (d.toNat, 13), (a.toNat, 7), (j.toNat, 1), (e.toNat, 0)]]
  | .fork k offA offC av ab al bv bb bl =>
    [word 0xC0000000 [(k.toNat, 22), (offA.toNat, 11), (offC.toNat, 0)],
     word 0xFC000000 [(av.toNat, 25), (ab.toNat, 19), (al.toNat, 16), (bv.toNat, 15), (bb.toNat, 9), (bl.toNat, 6)]]
  | .join k d a b e => [word 0xC2000000 [(k.toNat, 19), (d.toNat, 13), (a.toNat, 7), (b.toNat, 1), (e.toNat, 0)]]
  | .smask k => [word 0xC8000000 [(k.toNat, 16)]]
  | .setx g a i => [word 0xCC000000 [(g.toNat, 22), (a.toNat, 10), (i.toNat, 0)]]
  | .cCopy g d a b ilov verify sparse tc =>
    [word 0xD0000000 [(g.toNat, 22), (d.toNat, 13), (a.toNat, 7), (b.toNat, 1)],
     word 0xFC000000 [(ilov.toNat, 4), (verify.toNat, 3), (sparse.toNat, 2), (tc.toNat, 0)]]
  | .cMcast g d a b targets verify sparse tc =>
    [word 0xD2000000 [(g.toNat, 22), (d.toNat, 13), (a.toNat, 7), (b.toNat, 1)],
     word 0xFC000000 [(targets.toNat, 10), (verify.toNat, 3), (sparse.toNat, 2), (tc.toNat, 0)]]
  | .cClose g d => [word 0xD4000000 [(g.toNat, 22), (d.toNat, 13)]]
  | .cWait g d a => [word 0xD6000000 [(g.toNat, 22), (d.toNat, 13), (a.toNat, 7)]]
  | .rPost g q => [word 0xD8000000 [(g.toNat, 22), (q.toNat, 16)]]
  | .rWait g q a n => [word 0xDA000000 [(g.toNat, 22), (q.toNat, 16), (a.toNat, 10), (n.toNat, 0)]]
  | .tBandOpen g => [word 0xDC000000 [(g.toNat, 22)]]
  | .tBandClose g => [word 0xDC000001 [(g.toNat, 22)]]
  | .shpSet g h d a b => [word 0xE0000000 [(g.toNat, 22), (h.toNat, 19), (d.toNat, 13), (a.toNat, 7), (b.toNat, 1)]]
  | .shpGet g h d s => [word 0xE2000000 [(g.toNat, 22), (h.toNat, 19), (d.toNat, 13), (s.toNat, 1)]]
  | .mxMap m r k w => [word 0xE4000000 [(m.toNat, 18), (r.toNat, 12), (k.toNat, 6), (w.toNat, 0)]]
  | .mxMma g h c m f s b z => [word 0xE6000000 [(g.toNat, 22), (h.toNat, 19), (c.toNat, 16), (m.toNat, 12), (f.toNat, 9), (s.toNat, 7), (b.toNat, 1), (z.toNat, 0)]]
  | .mxMv n h c m r o => [word 0xE8000000 [(n.toNat, 22), (h.toNat, 19), (c.toNat, 16), (m.toNat, 12), (r.toNat, 6), (o.toNat, 0)]]
  | .mxDrain h c d r a p q => [word 0xEA000000 [(h.toNat, 20), (c.toNat, 17), (d.toNat, 11), (r.toNat, 5), (a.toNat, 4), (p.toNat, 3), (q.toNat, 0)]]
  | .mxAccZero g h c => [word 0xEC000000 [(g.toNat, 22), (h.toNat, 19), (c.toNat, 16)]]
  | .mxAccLoad g h c m => [word 0xEC004000 [(g.toNat, 22), (h.toNat, 19), (c.toNat, 16), (m.toNat, 4)]]
  | .mxAccGet g h c d => [word 0xEC008000 [(g.toNat, 22), (h.toNat, 19), (c.toNat, 16), (d.toNat, 8)]]
  | .mxLeaseBind q b s => [word 0xEF000000 [(q.toNat, 21), (b.toNat, 12), (s.toNat, 6)]]
  | .rep x y z n => [word 0xF0000000 [(x.toNat, 21), (y.toNat, 20), (z.toNat, 19), (n.toNat, 13)]]
  | .lgLd z d a s => [word 0xF2000000 [(z.toNat, 19), (d.toNat, 13), (a.toNat, 7), (s.toNat, 1)]]
  | .lgSt z d a s => [word 0xF2400000 [(z.toNat, 19), (d.toNat, 13), (a.toNat, 7), (s.toNat, 1)]]
  | .vIota g t d i => [word 0x72000000 [(g.toNat, 22), (t.toNat, 19), (d.toNat, 13), (i.toNat, 0)]]
  | .sysret  => [word 0x36000000 []]
  | .idle  => [word 0x3C000000 []]
  | .actFlip  => [word 0x78080000 []]
  | .ends  => [word 0xC4000000 []]
  | .armwait  => [word 0xC6000000 []]
  | .exit  => [word 0xCA000000 []]
  | .mxLeaseAcq  => [word 0xEE000000 []]
  | .mxLeaseRel  => [word 0xEE800000 []]
  | .lgBar  => [word 0xF2800000 []]
  | .repRepeat => []
  | .clauseBegin => []
  | .windowLoad => []
  | .pinGiveback => []
  | .quadIssueCycle => []
  | .ageRotation => []
  | .longResultFill => []
  | .scalarFill => []
  | .loadFill => []
  | .atomicStep => []
  | .arrivalStep => []
  | .parkWake => []
  | .parkRetry => []
  | .fenceComplete => []
  | .armwaitComplete => []
  | .joinIssue => []
  | .ringWaitComplete => []
  | .cWaitComplete => []
  | .lgBarComplete => []
  | .actLdWrite => []
  | .actFlipComplete => []
  | .translationWalk => []
  | .invalidatePage => []
  | .invalidateAsid => []
  | .invalidateAll => []
  | .invalidationComplete => []
  | .carderDecision => []
  | .queueEntry => []
  | .placementAttempt => []
  | .carderPreemption => []
  | .launchCompletion => []
  | .copyPartCompletion => []
  | .mcastDelivery => []
  | .matrixOperationCompletion => []
  | .drainCompletion => []
  | .leaseGrant => []
  | .leasePass => []
  | .bandRecordWrite => []
  | .cellStep => []
  | .battEnable => []
  | .battDisable => []
  | .battChangeDone => []
  | .trapEntry => []
  | .interrupt => []
  | .timer => []
  | .warpIdleTimeout => []
  | .saveAndRequeue => []
  | .saveAndHold => []
  | .prel => []
  | .saveCompletion => []
  | .restore => []
  | .mapq => []
  | .memoryMapConfigWrite => []
  | .retreq => []
  | .retirementComplete => []
  | .pprreq => []
  | .repairComplete => []
  | .rateChange => []
  | .retrainComplete => []
  | .forcedRetrain => []
  | .pseudoChannelService => []
  | .linkFrameFailure => []
  | .sessionKeyReplacement => []
  | .uncorrectableError => []
  | .fabricLinkFailure => []
  | .hmsix => []
  | .hostBarAccess => []
  | .cxlMemAccess => []
  | .nvmeDma => []
  | .storageMessage => []
  | .sealgo => []
  | .sealComplete => []
  | .xopWrite => []
  | .xopAddFp32 => []
  | .xopAddBf16 => []
  | .xopAddFp16 => []
  | .scaleOutAcknowledge => []
  | .scaleOutTimeout => []
  | .start => []
  | .signal => []
  | .scvecClear => []
  | .assignSlot => []
  | .emptySlot => []
  | .registerTenant => []
  | .markConfidential => []
  | .divide => []
  | .powerLimit => []
  | .ready => []
  | .setPowerLimit => []
  | .readPowerLimit => []
  | .readStatus => []
  | .sessionOpen => []
  | .endSession => []
  | .sessionTimeout => []
  | .setBreakpoint => []
  | .clearBreakpoint => []
  | .setWatchpoint => []
  | .clearWatchpoint => []
  | .setCapture => []
  | .startCapture => []
  | .freezeCapture => []
  | .setTrigger => []
  | .markForRecording => []
  | .replay => []
  | .setContinueLive => []
  | .dumpParkTable => []
  | .poll => []
  | .release => []
  | .loadKey => []
  | .sample => []
  | .junctionLimit => []
  | .thermalShutdown => []
  | .flowHold => []
  | .flowRecovery => []
  | .flowLoss => []
  | .bringUp => []
  | .freeze => []
  | .masterReset => []
  | .ioRegisterWrite => []
  | .scaleOutRequestArrival => []
  | .hostLinkState => []
  | .cxlMemEnable => []
  | .killLaunch => []

/-- The bytes of an instruction as memory holds them. -/
def encodeBytes (i : Instr) : List Byte := (encode i).flatMap wordBytes

/-- Whether a row of the table has an encoding. -/
def isWordInstr (i : Instr) : Bool := !(encode i).isEmpty

/-- The instruction the decoder reads from the low `nbits` bits of `w`, bit 0 the lowest bit of the first word; the
bits above are zero. -/
def decodeTableWord (nbits w : Nat) : Option Instr :=
  let v := w % 2 ^ nbits
  match decode (wordBytes (BitVec.ofNat 32 v) ++ wordBytes (BitVec.ofNat 32 (v / 2 ^ 32))) with
  | .ok (i, _) => some i
  | .error _ => none

end Sys2Proof
end

