-- ==== Sys2Proof/Machine/Bits.lean ====
section
/-! DEFINITION. Bit fields, sign extension, counts and byte order. -/

namespace Sys2Proof.Machine

open Sys2Proof

/-- The bit field [hi:lo] of a doubleword, as a number (01 R30). -/
def bf (x : Word) (hi lo : Nat) : Nat := x.toNat / 2 ^ lo % 2 ^ (hi + 1 - lo)

/-- Bit `i` of a doubleword. -/
def bitAt (x : Word) (i : Nat) : Bool := x.getLsbD i

/-- A number placed at bit `lo` of a doubleword, cut to the field [hi:lo]. -/
def place (v hi lo : Nat) : Nat := v % 2 ^ (hi + 1 - lo) * 2 ^ lo

/-- A doubleword with the bits outside [hi:lo] cleared. -/
def keep (x : Word) (hi lo : Nat) : Word := BitVec.ofNat 64 (place (bf x hi lo) hi lo)

/-- The low `w` bits of a number read as signed two's complement. -/
def toSigned (x w : Nat) : Int :=
  let v := x % 2 ^ w
  if 2 * v < 2 ^ w then (v : Int) else (v : Int) - ((2 ^ w : Nat) : Int)

/-- wrap(x, n) of R32: an integer as an n-bit pattern. -/
def wrapInt (x : Int) (n : Nat) : Nat := (x % ((2 ^ n : Nat) : Int)).toNat

/-- The low `w` bits of a number, sign-extended to 64 bits (R32 sx). -/
def sxWord (x w : Nat) : Word := BitVec.ofNat 64 (wrapInt (toSigned x w) 64)

/-- A signed field as a doubleword. -/
def sxField {n : Nat} (x : BitVec n) : Word := x.signExtend 64

/-- The ones among the low `n` bits. -/
def countOnes (x : Nat) : Nat → Nat
  | 0 => 0
  | n + 1 => x % 2 + countOnes (x / 2) n

/-- Trailing zeros among the low `n` bits; `n` when they are all zero. -/
def trailingZeros (x : Nat) : Nat → Nat
  | 0 => 0
  | n + 1 => if x % 2 = 1 then 0 else 1 + trailingZeros (x / 2) n

/-- Leading zeros among the low `n` bits; `n` when they are all zero. -/
def leadingZeros (x : Nat) : Nat → Nat
  | 0 => 0
  | n + 1 => if x / 2 ^ n % 2 = 1 then 0 else 1 + leadingZeros x n

/-- The low `n` bits in reverse order. -/
def reverseBits (x : Nat) : Nat → Nat
  | 0 => 0
  | n + 1 => x % 2 * 2 ^ n + reverseBits (x / 2) n

/-- The number that bytes hold, lowest address first (little-endian, 01 R28, 14 R273). -/
def ofBytes : List Byte → Nat
  | [] => 0
  | b :: rest => b.toNat + 256 * ofBytes rest

/-- The `n` bytes of a number, lowest address first. -/
def toBytes (x : Nat) : Nat → List Byte
  | 0 => []
  | n + 1 => BitVec.ofNat 8 x :: toBytes (x / 256) n

/-- The lanes of a mask, in ascending order (06 R139). -/
def lanesOf (m : Mask) : List Nat := (List.range 64).filter fun l => m.getLsbD l

/-- The mask of a list of lanes. -/
def maskOf (ls : List Nat) : Mask := BitVec.ofNat 64 (ls.foldl (fun acc l => acc + 2 ^ l) 0)

/-- Whether a word lies between two bounds, as numbers. -/
def within (x lo hi : Nat) : Bool := decide (lo ≤ x) && decide (x < hi)

end Sys2Proof.Machine
end

