-- ==== Sys2Proof/Machine/Sparse.lean ====
section
/-! DEFINITION. Sparse maps: a list of key and value pairs with strictly rising keys that lists no entry equal to
the map's default. Registers, contexts, tables and memory are held in this one form, so that equal contents are
equal lists. The laws are in Laws/Sparse.lean. -/

namespace Sys2Proof.Machine

/-- The value at a key; the default where the key is not listed. -/
def mapGet {α : Type} (d : α) : List (Nat × α) → Nat → α
  | [], _ => d
  | (j, v) :: rest, k => if k = j then v else mapGet d rest k

/-- The map without a key. -/
def mapErase {α : Type} : List (Nat × α) → Nat → List (Nat × α)
  | [], _ => []
  | (j, v) :: rest, k => if k = j then mapErase rest k else (j, v) :: mapErase rest k

/-- The map with a key set to a value that is not the default. -/
def mapInsert {α : Type} : List (Nat × α) → Nat → α → List (Nat × α)
  | [], k, x => [(k, x)]
  | (j, v) :: rest, k, x =>
    if k < j then (k, x) :: (j, v) :: rest
    else if k = j then (k, x) :: rest
    else (j, v) :: mapInsert rest k x

/-- The map with a key set to a value; setting the default removes the entry. -/
def mapPut {α : Type} [DecidableEq α] (d : α) (m : List (Nat × α)) (k : Nat) (x : α) : List (Nat × α) :=
  if x = d then mapErase m k else mapInsert m k x

/-- Keys rise strictly from a bound up, and no value is the default. -/
def mapWfFrom {α : Type} [DecidableEq α] (d : α) : Nat → List (Nat × α) → Bool
  | _, [] => true
  | lo, (j, v) :: rest => decide (lo ≤ j) && decide (v ≠ d) && mapWfFrom d (j + 1) rest

/-- The canonical form of a sparse map. -/
def mapWf {α : Type} [DecidableEq α] (d : α) (m : List (Nat × α)) : Bool := mapWfFrom d 0 m

/-- The first element of a list that satisfies a test. -/
def listFind {α : Type} (p : α → Bool) : List α → Option α
  | [] => none
  | x :: rest => if p x then some x else listFind p rest

end Sys2Proof.Machine
end

