-- ==== Sys2Proof/Machine/State.lean ====
section
/-! DEFINITION. The state of one Ulural 7 module, as plain data: every register, table, queue and memory the spec
names, and the model's own few fields (the schedule that says what moves next, and the counter of free values).
Tables with many like entries are sparse maps (Machine/Sparse.lean): what is not listed has the default value. -/

namespace Sys2Proof.Machine

open Sys2Proof

/-! ## Registers, strands and warps -/

/-- The full/empty bit of a register or lane (02 R36, 07 R148), with the fill in flight told apart. -/
inductive Fill where
  | full
  | empty
  | pending
  deriving DecidableEq, Repr

/-- A scalar register or one lane of a vector register: 64 bits, full/empty (R36, R32) and poison (21 R417). -/
structure Reg where
  val : Word := 0
  fill : Fill := .full
  poison : Bool := false
  deriving DecidableEq, Repr

/-- Why a strand is waiting (08 R178). -/
inductive Why where
  | fullEmpty | clause | join | armwait | barrier | refused | ring | batch | lgBar | idle | fence | lease
  | table | busy | memory | launch | debug
  deriving DecidableEq, Repr

/-- Whether a strand waits, why, and since which TIME. -/
inductive Wait where
  | ready
  | held (why : Why) (since : BitVec 48)
  deriving DecidableEq, Repr

/-- An lwait that has issued and waits (14 R278): its registers d and a and the launch's identifier. -/
structure LaunchWait where
  d : BitVec 6 := 0
  a : BitVec 6 := 0
  id : Word := 0
  deriving DecidableEq, Repr

/-- A recorded operation of a replayed launch (24 R475) on whose steps its strand waits: its number, its words, the fills that
its issue changed, as they were (vector or not; register, or register × 64 + lane), and the
first of its events that differed from its entry, as the entry's index and the live value (R476). -/
structure ReplayOp where
  id : Nat
  words : Nat
  undo : List (Bool × Nat × Fill) := []
  diverged : Option (Nat × Word) := none
  deriving DecidableEq, Repr

/-- The second issue of an instruction that covers two passes (06 R135): whether its first has been made, and what the quad
weighs for it (09 R207): its class, its banks, whether it issues alone, and the header of its clause. -/
structure SecondPass where
  due : Bool := false
  cls : Nat := 0
  banks : List Nat := []
  alone : Bool := false
  hdr : ClauseHeader := ⟨0, 0, false, false, false, 0, 0, 0⟩
  deriving DecidableEq, Repr

/-- A strand-table entry (08 R177). After its 24 bytes come what the hardware keeps beside the entry: whether the
clause at `ca` has begun (04 R85), whether trap entry suspended the strand (21 R409), whether a rep is under way and
the excess of its stepped fields over 63 (04 R100), the wait, the exemption of 24 R468, whether it pins fast-file slots
and which, those that its clause began on (09 R199), the count of ready cycles without issue (09 R206), the fields of the clause header as it was last fetched
(04 R83), the quad's cycles for which it has waited (09 R200, 13 R269), whether it gave a pin back and has not issued
since (09 R207), whether it stands at an m.wait that has found its phase unchanged (13 R269), its lwait that waits, the
token of its r.wait that waits (20 R401), the second pass of its last instruction that has still to issue (06 R135), and the
lanes and bit cursors that it is writing, with their old values (08 R188, 10 R227): a lane as register × 64 + lane. -/
structure Strand where
  valid : Bool := false
  mask : Mask := 0
  parent : BitVec 3 := 0
  root : Bool := false
  stop : Bool := false
  ca : Word := 0
  wi : BitVec 4 := 0
  jv : Bool := false
  jlen : BitVec 3 := 0
  jbase : BitVec 8 := 0
  ser : Bool := false
  sidx : BitVec 3 := 0
  psv : Bool := false
  psr : BitVec 3 := 0
  srepc : BitVec 7 := 0
  begun : Bool := false
  suspended : Bool := false
  inRep : Bool := false
  overD : Nat := 0
  overA : Nat := 0
  overB : Nat := 0
  wait : Wait := .ready
  exempt : Bool := false
  pinned : Bool := false
  pins : List Nat := []
  readyCount : Nat := 0
  hdr : ClauseHeader := ⟨0, 0, false, false, false, 0, 0, 0⟩
  waitCount : Nat := 0
  pinBack : Bool := false
  inWait : Bool := false
  lwait : Option LaunchWait := none
  rwait : Option (BitVec 16) := none
  secondPass : Option SecondPass := none
  replayOp : Option ReplayOp := none
  writing : List (Nat × Reg) := []
  cursorsWere : List (Nat × BitVec 7) := []
  deriving DecidableEq, Repr

/-- A serial record (08 R181). -/
structure Serial where
  bmask : Mask := 0
  outer : Mask := 0
  stage : BitVec 2 := 0
  bca : Word := 0
  cca : Word := 0
  pv : Bool := false
  pidx : BitVec 3 := 0
  ajv : Bool := false
  ajlen : BitVec 3 := 0
  ajbase : BitVec 8 := 0
  bjv : Bool := false
  bjlen : BitVec 3 := 0
  bjbase : BitVec 8 := 0
  rsd : BitVec 8 := 0
  rlc : BitVec 4 := 0
  deriving DecidableEq, Repr

/-- A lane-call record (05 R120, 21 R413); `seq` tells which of a slot's records was taken last. -/
structure LaneCall where
  valid : Bool := false
  owner : BitVec 3 := 0
  outer : Mask := 0
  pending : Mask := 0
  targets : List (Nat × Word) := []
  seq : Nat := 0
  deriving DecidableEq, Repr

/-- What the carder has read for a launch as it issued (14 R273, R275; 20 R395; 21 R412): whether the form is launch.ctx,
whether its strand was in user mode, its address space and thread, the record's address, and the record and its role
table, absent where their reading failed. -/
structure LaunchRead where
  ctxForm : Bool := false
  user : Bool := false
  asid : BitVec 16 := 0
  thread : Word := 0
  addr : Word := 0
  ready : Bool := false
  record : Option (List Word) := none
  roles : Option (List Word) := none
  deriving DecidableEq, Repr

/-- What a memory operation that has issued will do when it is performed. -/
inductive OpKind where
  /-- m.ld, lg.ld, m.pop: a load into vector lanes -/
  | load (size : Nat) (signed : Bool)
  /-- m.lds: one access for every lane -/
  | loadSplat (size : Nat) (signed : Bool)
  /-- m.st, lg.st, m.push, s.st: a buffered store (15 R292) -/
  | store
  /-- s.ld into a scalar register -/
  | scalarLoad (size : Nat) (signed : Bool)
  /-- m.atom, m.xchg, m.cas: function 0–7 of R252, 8 exchange, 9 compare-and-swap; size 4 or 8 -/
  | atomic (f : Nat) (size : Nat) (scope : Nat)
  /-- s.amo: function 0–7 of R123 -/
  | scalarAtomic (f : Nat)
  /-- m.arrive (12 R256) -/
  | arrive
  /-- a fence that still holds later accesses (12 R259): kind and scope -/
  | fence (kind : Nat) (scope : Nat)
  /-- m.ldv (16 R319) -/
  | cellLdv
  /-- m.stv (16 R320) -/
  | cellStv
  /-- m.rcn (16 R321): its function b and its type -/
  | cellRcn (f : Nat) (ty : Nat)
  /-- a long vector result (07 R148), already computed in the accesses' data -/
  | longResult
  /-- launch, launch.ctx: the carder has still to decide (14 R275) -/
  | launch (read : LaunchRead)
  deriving DecidableEq, Repr

/-- One lane's access: the lane, the register it fills counted from the operation's destination, the home of its
first byte with its length, its physical address, whether it goes to a sibling cell, its key slot (main memory) or
the policy and type of its page (SPOL + 8 × STYPE, cells), the datum it carries and a second datum (a new value of
m.cas, a token, a sibling number), whether a store has been performed at warp scope (15 R292), and whether it has been
performed at its home and with what results. -/
structure Access where
  lane : Nat := 0
  reg : Nat := 0
  place : Nat := 0
  len : Nat := 0
  pa : Nat := 0
  cell : Bool := false
  pol : Nat := 0
  data : Nat := 0
  data2 : Nat := 0
  shown : Bool := false
  done : Bool := false
  result : Nat := 0
  result2 : Nat := 0
  poison : Bool := false
  flags : BitVec 6 := 0
  deriving DecidableEq, Repr

/-- A memory operation that has issued and is not yet wholly performed. `prior` has the numbers of the operations that its
strand had before it at its issue, and `order` names the slots whose strands have it
before their next access, by program order or by the edges of 08 R190; `ended` names those that get it with their next
armwait or join, its own strand having ended; `lg` marks lg.ld and lg.st (23 R460); `asid` is the address space under which
it issued; `released` says that a fence of its warp has released it (15 R294). -/
structure MemOp where
  id : Nat
  slot : Nat
  prior : List Nat := []
  order : BitVec 8 := 0
  ended : BitVec 8 := 0
  kind : OpKind
  dst : Nat
  dst2 : Nat := 0
  sizing : Bool := false
  lg : Bool := false
  asid : BitVec 16 := 0
  released : Bool := false
  accs : List Access
  deriving DecidableEq, Repr

/-- A copy batch of a warp (17 R339, R340; its place in the save image, 21 R423). -/
structure Batch where
  number : BitVec 16 := 0
  complete : Bool := false
  errors : BitVec 7 := 0
  frow : Word := 0
  reported : Bool := false
  deriving DecidableEq, Repr

/-- The roles of R89 and 20 R395. -/
inductive Role where
  | general | vector | matrix | copy
  deriving DecidableEq, Repr

/-- A warp's context, or a system core's (which has strand 0 alone and no vector state). -/
structure Ctx where
  live : Bool := false
  sregs : List (Nat × Reg) := []
  preds : BitVec 8 := 0
  ks : List (Nat × Word) := []
  vregs : List (Nat × Reg) := []
  allot : Nat := 0
  launched : Mask := 0
  status : BitVec 12 := 0
  xb : BitVec 8 := 0
  fflags : BitVec 6 := 0
  tvec : Word := 0
  tframe : Word := 0
  mxlease : BitVec 11 := 64
  bandbase : Word := 0
  wgid : Word := 0
  warpid : BitVec 5 := 0
  launchid : Word := 0
  context : BitVec 32 := 0
  asid : BitVec 16 := 0
  sizing : Bool := false
  scratch0 : Word := 0
  scratch1 : Word := 0
  ipend : BitVec 16 := 0
  ienable : BitVec 16 := 0
  tcmp : BitVec 48 := 0
  thread : Word := 0
  parentLaunch : Word := 0
  role : Role := .general
  strands : List (Nat × Strand) := []
  serials : List (Nat × Serial) := []
  laneCalls : List (Nat × LaneCall) := []
  ras : List Word := []
  spilled : List Nat := []
  cursors : List (Nat × BitVec 7) := []
  ops : List MemOp := []
  nextOp : Nat := 0
  batchNumber : BitVec 16 := 0
  batches : List Batch := []
  pendErrors : BitVec 7 := 0
  pendFrow : Word := 0
  shapes : List (Nat × Word) := []
  wg : Nat := 0
  lastSlot : Nat := 0
  exited : BitVec 2 := 0
  doubleTrap : Bool := false
  cause1 : BitVec 8 := 0
  cause2 : BitVec 8 := 0
  entryMask : Mask := 0
  callSeq : Nat := 0
  deriving DecidableEq, Repr

/-! ## Compute cores -/

/-- A park-table entry (13 R266). -/
structure Park where
  valid : Bool := false
  rsv : Bool := false
  quad : BitVec 2 := 0
  slot : BitVec 4 := 0
  strands : BitVec 8 := 0
  token : BitVec 16 := 0
  dw : BitVec 14 := 0
  deriving DecidableEq, Repr

/-- A hull of a range-lock entry (17 R335): group-store hulls as core-physical offsets, translated hulls as virtual
addresses with the ASID; `hi` is the last byte. -/
structure Hull where
  dest : Bool := false
  group : Bool := false
  asid : BitVec 16 := 0
  lo : Nat := 0
  hi : Nat := 0
  deriving DecidableEq, Repr

/-- A range-lock entry of a core (17 R335): the engine operation that holds it, on which core it was issued. -/
structure Lock where
  core : Nat := 0
  op : Nat := 0
  hulls : List Hull := []
  deriving DecidableEq, Repr

/-- A leaf as a translation gives it (11 R233): virtual base and size of its page, physical base, attributes. -/
structure Leaf where
  va : Nat := 0
  size : Nat := 0
  pa : Nat := 0
  type : BitVec 2 := 0
  r : Bool := false
  w : Bool := false
  x : Bool := false
  u : Bool := false
  iset : BitVec 2 := 0
  key : BitVec 8 := 0
  stype : BitVec 3 := 0
  spol : BitVec 3 := 0
  deriving DecidableEq, Repr

/-- An entry of a translation cache (11 R240). -/
structure TlbEntry where
  asid : BitVec 16 := 0
  leaf : Leaf := {}
  deriving DecidableEq, Repr

/-- An entry of a die's walk cache (11 R240): the pointer that a table entry at a physical address held. -/
structure WalkEntry where
  asid : BitVec 16 := 0
  entry : Nat := 0
  pointer : Nat := 0
  deriving DecidableEq, Repr

/-- A place that an engine reads or writes, in the form in which the checks of 17 R328 left it. -/
inductive Span where
  /-- a core's group store, from a core-physical offset -/
  | group (core : Nat) (off : Nat)
  /-- translated space, from a virtual address, under the operation's ASID and mode -/
  | virt (va : Nat)
  /-- a save image's group-store section, from a physical address (21 R424) -/
  | image (pa : Nat)
  deriving DecidableEq, Repr

/-- A row as a copy has read it (17 R327 to R334): each destination byte with 0 for sound, 1 for poisoned, 2 for a byte
that its part did not read; and whether the row is written at all (R332). -/
structure RowData where
  bytes : List (BitVec 8 × Nat) := []
  written : Bool := true
  deriving DecidableEq, Repr

/-- A tile-layout record's fields (17 R325). -/
structure Record where
  base : Nat := 0
  rb : Nat := 0
  swz : Nat := 0
  fmt : Nat := 0
  rows : Nat := 0
  dpitch : Nat := 0
  spitch : Nat := 0
  scale : Nat := 0
  tags : Nat := 0
  vnonce : Word := 0
  ovset : BitVec 2 := 0
  vkey : BitVec 8 := 0
  vrow : BitVec 32 := 0
  legal : Bool := true
  deriving DecidableEq, Repr

/-- An operand map (19 R377). -/
structure OperandMap where
  valid : Bool := false
  elements : Nat := 0
  scales : Nat := 0
  pitch : Nat := 0
  scalePitch : Nat := 0
  rows : Nat := 0
  rowBytes : Nat := 0
  fmt : Nat := 0
  swz : Nat := 0
  firstRow : Nat := 0
  deriving DecidableEq, Repr

/-- A matrix operation as it issued (19 R386 to R389): g* the granted and a* the active dimensions at issue. -/
inductive MatOp where
  | mma (acc : Nat) (map : OperandMap) (fmt ss : Nat) (zero : Bool) (lanes : Mask) (gn gk am an ak : Nat)
      (quarters : List (Nat × Nat × Nat))
  | mv (acc : Nat) (map : OperandMap) (n : Nat) (record : Record) (src scales : Span) (fmt an ak : Nat)
  | drain (acc : Nat) (record : Record) (dest : Span) (add post : Bool) (ring : Nat) (am an : Nat) (fmt : Nat)
  | accZero (acc : Nat) (lanes : Mask) (am an : Nat)
  | accLoad (acc : Nat) (map : OperandMap) (src : Span) (lanes : Mask) (am an : Nat)
  | accGet (acc : Nat) (dst : Nat) (lanes : Mask) (gn am an : Nat)
  deriving DecidableEq, Repr

/-- What an engine operation does (17, 19, 20 R406). -/
inductive EngineKind where
  | copy (record : Record) (src dst : Span) (sparse verify ilov : Bool) (tc : BitVec 2)
  | mcast (record : Record) (src : Span) (off : Nat) (sparse verify : Bool) (tc : BitVec 2)
  | matrix (op : MatOp)
  | band (dst : Span) (opening : Nat)
  deriving DecidableEq, Repr

/-- An engine operation that has issued and has not completed (15 R288): the warp's key, its WARPID, the strand's slot,
the workgroup; `after` the number of the warp's first memory operation that is not before it (15 R294); the starts of
the parts of 17 R329 of its destination and of its source, and in `left` the parts or targets that have not
completed; the batch it was closed into; its errors (bit i is bit 17 + i of 17 R340); the band that counts it; the
rows that a multicast or a verify copy has read; in `waits` the registers it holds, as key × 256 + register (19 R382);
the die on which it issued (18 R359), and whether it is its band's first mx.mma (20 R404); `bandSeq` is the number of the
opening of the band that counts it, and `by_` the key of the warp that issued it, by whose core's cache and tables it
translates to its end (R341); `cut` says that a freeze of that core's die has dropped what it had still to do beyond the
die's port (25 R479). -/
structure EngineOp where
  id : Nat := 0
  ctx : Nat := 0
  warp : Nat := 0
  slot : Nat := 0
  wg : Nat := 0
  asid : BitVec 16 := 0
  user : Bool := false
  kind : EngineKind
  after : Nat := 0
  parts : List Nat := []
  srcParts : List Nat := []
  left : List Nat := []
  batch : BitVec 16 := 0
  closed : Bool := false
  errors : BitVec 7 := 0
  frow : Word := 0
  bandSeq : Nat := 0
  rows : Option (List RowData) := none
  waits : List Nat := []
  die : Nat := 0
  by_ : Nat := 0
  cut : Bool := false
  lead : Bool := false
  deriving DecidableEq, Repr

/-- A fast-file slot (09 R195): the warp, the pass and the registers it holds (`base` to `base + len`), and the number of
the quad's issue at which the warp last issued from it (R199). -/
structure FastSlot where
  valid : Bool := false
  warp : BitVec 4 := 0
  pass : Bool := false
  base : BitVec 8 := 0
  len : BitVec 5 := 0
  lastUse : Nat := 0
  deriving DecidableEq, Repr

/-- A quad (09): its fast file, its cycle count with the multiple of 256 at which the ages last rotated, its warps from
oldest to youngest, whether the lease rule filled the first slot in the previous cycle, its refusal queue (13 R269), and
the number of its issues. -/
structure Quad where
  fast : List (Nat × FastSlot) := []
  cycles : Nat := 0
  rotatedAt : Nat := 0
  ages : List Nat := []
  lastLease : Bool := false
  refusals : List Nat := []
  issues : Nat := 0
  deriving DecidableEq, Repr

/-- A pending act.ld write (07 R172): bank, table, entry, value. -/
structure ActWrite where
  bank : Bool := false
  index : Nat := 0
  value : Word := 0
  deriving DecidableEq, Repr

/-- A redirect-table entry (21 R424), with the operations for which it was taken, each by its core and number. -/
structure Redirect where
  wg : Nat := 0
  image : Nat := 0
  ops : List (Nat × Nat) := []
  deriving DecidableEq, Repr

/-- A compute core. -/
structure Core where
  wgs : List Nat := []
  lq : BitVec 2 := 3
  park : List (Nat × Park) := []
  quads : List (Nat × Quad) := []
  leaseHolder : Option Nat := none
  leaseCount : Nat := 0
  leaseGiven : Bool := false
  leaseRank : Nat := 0
  leaseWaiters : List (Nat × BitVec 11) := []
  locks : List Lock := []
  engine : List EngineOp := []
  nextEngine : Nat := 0
  records : List (Nat × List Word) := []
  actBank : Bool := false
  actFlip : Option Agent := none
  actWrites : List ActWrite := []
  acts : List (Nat × Word) := []
  tiles : List (Nat × BitVec 32) := []
  tilePoison : List (Nat × Bool) := []
  redirects : List Redirect := []
  deriving DecidableEq, Repr

/-! ## Workgroups, launches and partitions -/

/-- A stage ring of a workgroup (20 R398). -/
structure Ring where
  phase : BitVec 16 := 0
  depth : BitVec 4 := 0
  owners : BitVec 32 := 0
  deriving DecidableEq, Repr

/-- The band of a workgroup (20 R403): the stamps are TIMEs; `seq` counts the openings, of which no two are alike where the
numbers run round. -/
structure Band where
  isOpen : Bool := false
  seq : Nat := 0
  number : BitVec 16 := 0
  opened : BitVec 48 := 0
  closed : BitVec 48 := 0
  stamps : List (Nat × BitVec 48) := []
  counts : List (Nat × Nat) := []
  deriving DecidableEq, Repr

/-- A binding of a quarter of B (19 R380). -/
structure Binding where
  valid : Bool := false
  warp : Nat := 0
  base : BitVec 8 := 0
  scale : BitVec 8 := 0
  deriving DecidableEq, Repr

/-- A placed workgroup, or one whose image is held or waits to be placed again (14 R287, 21 R427). `pending` holds the
errors that reach a warp's open batch while it is away, and `kept` what a saved warp holds beyond its image's block;
`savedOn` and `savedBase` are the core from which it was saved and its allocation there, and `alone` says that the core held no workgroup when it was placed again
(21 R426). -/
structure Workgroup where
  live : Bool := false
  part : Nat := 0
  launch : Word := 0
  wgid : Word := 0
  core : Nat := 0
  gbase : Nat := 0
  glen : Nat := 0
  tiles : List Nat := []
  rings : List (Nat × Ring) := []
  maps : List (Nat × OperandMap) := []
  binds : List (Nat × Binding) := []
  band : Band := {}
  oldBands : List (Nat × Band) := []
  warps : List Nat := []
  saving : Bool := false
  saveKind : Nat := 0
  saveStart : BitVec 48 := 0
  image : Nat := 0
  away : Bool := false
  placedAt : Nat := 0
  pending : List (Nat × (BitVec 7 × Word)) := []
  kept : List Ctx := []
  retrained : Option Nat := none
  savedOn : Nat := 0
  savedBase : Nat := 0
  alone : Bool := false
  deriving DecidableEq, Repr

/-- An accepted launch (14 R273 to R281). -/
structure Launch where
  live : Bool := false
  record : List Word := []
  roles : List Word := []
  context : BitVec 32 := 0
  asid : BitVec 16 := 0
  tvec : Word := 0
  tframe : Word := 0
  user : Bool := false
  thread : Word := 0
  parent : Word := 0
  queued : Bool := false
  nextWg : Nat := 0
  returned : List (Nat × Nat) := []
  wgs : List Nat := []
  cursor : Nat := 0
  firstWave : Bool := true
  headSince : BitVec 48 := 0
  ending : Bool := false
  killed : Bool := false
  cause : BitVec 8 := 0
  cause2 : BitVec 8 := 0
  confidential : Bool := false
  recording : Bool := false
  replaying : Bool := false
  logBase : Nat := 0
  logLimit : Nat := 0
  logNext : Nat := 1
  continueLive : Bool := false
  replayed : List Nat := []
  deriving DecidableEq, Repr

/-- A breakpoint (24 R465). -/
structure Breakpoint where
  valid : Bool := false
  sess : Nat := 0
  asid : BitVec 16 := 0
  addr : Word := 0
  launch : Word := 0
  deriving DecidableEq, Repr

/-- A watchpoint (24 R465). -/
structure Watchpoint where
  valid : Bool := false
  sess : Nat := 0
  asid : BitVec 16 := 0
  base : Word := 0
  log2 : Nat := 3
  kind : BitVec 2 := 0
  deriving DecidableEq, Repr

/-- A partition (00 R12): the carder's queues (14 R277 to R281), the ready request (25 R484), its breakpoints and
watchpoints (24 R465) and the hits that wait for a session, each with its warp's key and its TIME (24 R468). -/
structure Partition where
  ready : Bool := false
  issued : Nat := 0
  launches : List (Nat × Launch) := []
  queues : List (Nat × List Nat) := []
  done : List (Nat × Word) := []
  breaks : List (Nat × Breakpoint) := []
  watches : List (Nat × Watchpoint) := []
  hits : List (Nat × BitVec 48) := []
  deriving DecidableEq, Repr

/-! ## Dies, hubs and the module -/

/-- A sibling cell (16 R310): its generation, and the dots and values of its siblings, oldest first; `link` is the
group of a cell with two or more siblings; `groupBad` marks an error in the group itself (R323). The default is the cell that enabling leaves. -/
structure Cell where
  gen : BitVec 16 := 1
  sibs : List (BitVec 16 × Word) := [(1, 0)]
  link : Nat := 0
  poison : Bool := false
  groupBad : Bool := false
  deriving DecidableEq, Repr

/-- A system core's registers in its die's system-core block (25 R485). -/
structure ScBlock where
  pc : Word := 0
  arg : Word := 0
  asid : BitVec 16 := 0
  running : Bool := false
  stopped : Bool := false
  frozen : Bool := false
  vec : Word := 0
  deriving DecidableEq, Repr

/-- A die: its I/O blocks (11 R242, 16 R308, 22 R441, 21 R419, 25 R485, R486), its sibling cells with the pool's
free list, and its walk cache. The BUSY requests keep what they were asked. -/
structure Die where
  astbase : Word := 0
  invva : Word := 0
  invBusy : Bool := false
  invCount : BitVec 32 := 0
  invKind : BitVec 2 := 0
  invAsid : BitVec 16 := 0
  invAddr : Word := 0
  invBy : Nat := 0
  walk : List WalkEntry := []
  battEn : Bool := false
  battBusy : Bool := false
  battBy : Nat := 0
  coll : BitVec 32 := 0
  drop : BitVec 32 := 0
  cells : List (Nat × Cell) := []
  freed : List Nat := []
  fresh : Nat := 1
  sealSrc : Word := 0
  sealDst : Word := 0
  sealPit : Word := 0
  sealNonce : Word := 0
  sealRow : Word := 0
  sealGo : Word := 0
  sealBusy : Bool := false
  sealEmpty : Bool := false
  sealMemerr : Bool := false
  sealCount : BitVec 32 := 0
  sealBy : Nat := 0
  saveBase : Word := 0
  saveLim : Word := 0
  saveKey : BitVec 8 := 0
  plaunch : Word := 0
  pwg : Word := 0
  psBusy : Bool := false
  psRefused : Bool := false
  psLate : Bool := false
  psNowg : Bool := false
  psCount : BitVec 32 := 0
  psBy : Nat := 0
  psWg : Nat := 0
  pimage : Word := 0
  images : List (Nat × Nat) := []
  sc : List (Nat × ScBlock) := []
  mBusy : Bool := false
  mResult : BitVec 8 := 0
  mCount : BitVec 32 := 0
  mBy : Nat := 0
  mWords : List Word := []
  frozen : Bool := false
  deriving DecidableEq, Repr

/-- What has arrived at a port and is not performed: an access, or a storage device's message (15 R301, 22 R437). -/
inductive PortWork where
  | access (acc : BusAccess)
  | message (data : Word)
  deriving DecidableEq, Repr

/-- A storage root port's registers (22 R433), and what waits at it, in the order of its arrival (15 R301). -/
structure StoragePort where
  winBase : Word := 0
  winLim : Word := 0
  key : BitVec 8 := 0
  irqEnable : Bool := false
  irqCore : BitVec 6 := 0
  frozen : Bool := false
  dropped : Nat := 0
  posted : List PortWork := []
  deriving DecidableEq, Repr

/-- What a hub has sent out, in order: a write of a system core through the host window or to a storage port's downstream
space (22 R432), or the message of an MSI-X vector (R435). -/
inductive Outbound where
  | host (addr : Nat) (data : List Byte)
  | device (port off : Nat) (data : List Byte)
  | message (addr : Word) (data : BitVec 32)
  deriving DecidableEq, Repr

/-- The answer to an access from a bus: data, data marked poisoned (EP), or Unsupported Request (22 R434, R437). -/
inductive Reply where
  | data (bytes : List Byte)
  | poisoned (bytes : List Byte)
  | unsupported
  deriving DecidableEq, Repr

/-- A hub die: its hub block and scale-out block (22 R433, R442), its storage ports, the MSI-X table of BAR0 with what
it sends (R434, R435), and its answers to accesses. `xFrame` and `xPeer` are the request under way, `xSince` its start,
`seen` the requests of other modules that have been applied (R443), and `posted` the host's accesses that wait, in the
order of their arrival (15 R301). -/
structure Hub where
  hwinBase : Word := 0
  hkey : BitVec 8 := 0
  hostBase : Word := 0
  linkUp : Bool := false
  cxlOn : Bool := false
  ports : List (Nat × StoragePort) := []
  msixTable : List Host.Cell := []
  msixPending : Word := 0
  outbound : List Outbound := []
  replies : List Reply := []
  frozen : Bool := false
  xmod : BitVec 16 := 0
  xsrc : Word := 0
  xdst : Word := 0
  xrec : Word := 0
  xbusy : Bool := false
  xtimeout : Bool := false
  xrefused : Bool := false
  xcount : BitVec 32 := 0
  xBy : Nat := 0
  xFrame : RemoteTile := {}
  xPeer : BitVec 16 := 0
  xSince : BitVec 48 := 0
  seen : List Nat := []
  posted : List PortWork := []
  doeReply : List (BitVec 32) := []
  deriving DecidableEq, Repr

/-- A write of the module's own into main memory, to a log of 24 R473 or a trace buffer of R469, that main memory holds just
now (18 R364 to R369): its physical address, its key slot and its bytes. -/
structure HeldWrite where
  pa : Nat
  slot : Nat
  bytes : List Byte
  deriving DecidableEq, Repr

/-- A line of main memory (18 R348): for which address and under which key it was last written whole. -/
structure Line where
  valid : Bool := false
  addr : Nat := 0
  slot : BitVec 8 := 0
  key : Nat := 0
  deriving DecidableEq, Repr

/-- An interleave domain (18 R351, R353). -/
structure Domain where
  base : Nat := 0
  rc : Nat := 0
  rowBase : Nat := 0
  smask : BitVec 2 := 0
  folds : List (Nat × Word) := []
  deriving DecidableEq, Repr

/-- A stack (18 R345, R351, R368): which pseudo-channels are retired or failed training, its rates, a retrain. -/
structure Stack where
  dead : Word := 0
  cur : BitVec 2 := 0
  tgt : BitVec 2 := 0
  pend : Bool := false
  retraining : Bool := false
  forced : Bool := false
  linkFails : Nat := 0
  linkDown : Bool := false
  since : BitVec 48 := 0
  sessionKey : Nat := 0
  deriving DecidableEq, Repr

/-- A key slot (18 R347, 22 R441, 24 R472): the key loaded, and to which partition and context it is assigned. -/
structure KeySlot where
  key : Option (List Byte) := none
  part : Option Nat := none
  context : BitVec 32 := 0
  deriving DecidableEq, Repr

/-- A debug session (24 R462 to R472): its scope, its capture and its triggers; the TIME of its last message, of its last
sample, and the strand that each quad sampled last (as 8 × warp slot + strand slot). `chunkNo` counts the chunks sealed under
its nonce (R472); `written` counts the buffer's lines of 64 bytes written, and `pages` holds the pages that the buffer lies in,
each with its physical address, its size and its KEY (R469, 18 R347); `answer` is the first doubleword of its last response, with its OP and RESULT, and `reply` those after it
(R464). -/
structure Session where
  isOpen : Bool := false
  maker : Bool := false
  context : BitVec 32 := 0
  part : Nat := 0
  nonce : Word := 0
  bufBase : Nat := 0
  bufLog2 : Nat := 16
  pages : List (Nat × Nat × BitVec 8) := []
  stopMode : Bool := false
  period : Nat := 0
  kinds : BitVec 12 := 0
  configured : Bool := false
  capturing : Bool := false
  frozenBuf : Bool := false
  written : Nat := 0
  lost : Nat := 0
  chunk : List (List Word) := []
  chunkNo : Nat := 0
  triggers : List (Nat × (Nat × Word × Bool)) := []
  marks : List (Nat × List Word) := []
  last : BitVec 48 := 0
  sampledAt : BitVec 48 := 0
  sampled : List (Nat × Nat) := []
  result : BitVec 8 := 0
  reply : List Word := []
  answer : Word := 0
  deriving DecidableEq, Repr

/-- An event in the logs of the module controller and the root of trust (18 R350, 25 R479, R481). -/
inductive LogEntry where
  | freeze (master : Master)
  | linkFailed (stack : Nat)
  | uncorrectable (place : Nat)
  | thermal (die : Nat)
  | flow
  | shutdown
  | bringUpStopped (step : Nat)
  | imageRefused (kind : ImageKind)
  | doubleTrap (sc : Nat) (first second : BitVec 8)
  | messageDropped (port : Nat)
  | makerRefused
  | retired (g : Nat)
  | repaired (g : Nat) (bank : Nat) (row : Nat)
  deriving DecidableEq, Repr

/-! ## What moves next -/

/-- A move of the machine: a step of the table, the issue of a strand's next instruction, or the performing of one
access of an operation (15 R292): access number `sub` of operation `id` of a context. -/
inductive Act where
  | event (i : Instr) (args : EventArgs)
  | issue (who : Agent)
  | perform (ctx : Nat) (id : Nat) (sub : Nat)
  | showStore (ctx : Nat) (id : Nat) (sub : Nat)
  deriving DecidableEq, Repr

/-! ## The module -/

/-- The whole module. `minSvn` is the minimum security version number fused for each image kind (25 R477). `agenda`, `due`, `pace`, `focus`, `input` and `drawn` are the model's own: what moves next as
the outside decides it, the steps the machine itself has started, whether a strand issues before the next of them because one was not ready, the
ticks that each step takes, the strand that
executes, the operands of the step under way, and the count of free values drawn. -/
structure State where
  powered : Bool := false
  shutdown : Bool := false
  stopStep : Nat := 0
  minSvn : List (Nat × Nat) := []
  time : BitVec 48 := 0
  ctxs : List (Nat × Ctx) := []
  cores : List (Nat × Core) := []
  wgs : List (Nat × Workgroup) := []
  nextWgKey : Nat := 1
  parts : List (Nat × Partition) := []
  partCount : Nat := 1
  dies : List (Nat × Die) := []
  hubs : List (Nat × Hub) := []
  mem : List Host.Cell := []
  poison : List (Nat × Bool) := []
  lines : List (Nat × Line) := []
  heldWrites : List HeldWrite := []
  tlbs : List (Nat × List TlbEntry) := []
  domains : List (Nat × Domain) := []
  memStacks : List (Nat × Stack) := []
  keys : List (Nat × KeySlot) := []
  knownKeys : List (List Byte) := []
  retBusy : Bool := false
  retRefused : Bool := false
  retCount : BitVec 32 := 0
  retG : BitVec 12 := 0
  retBy : Nat := 0
  pprBusy : Bool := false
  pprFail : Bool := false
  pprCount : BitVec 32 := 0
  pprReq : Word := 0
  pprBy : Nat := 0
  spares : List (Nat × Nat) := []
  repairLog : List LogEntry := []
  mapq : Word := 0
  mapr : Word := 0
  deadLinks : List (Nat × LinkDir) := []
  tenants : List (Nat × (List Byte × List Byte)) := []
  confidential : List (Nat × Bool) := []
  powerLimit : Nat := 16000
  requestedLimit : Nat := 16000
  flowHold : Bool := false
  thermalLow : Bool := false
  sessions : List (Nat × Session) := []
  log : List LogEntry := []
  agenda : List Act := []
  due : List Act := []
  postponed : Bool := false
  pace : List Nat := []
  focus : Agent := ⟨0, 0⟩
  input : EventArgs := {}
  drawn : Nat := 0
  deriving DecidableEq, Repr

/-- The faults of a step. The spec gives every fault of the machine as a trap or a register bit, which the model
takes as a next state, so this type has the one reason below. -/
inductive Fault where
  /-- never raised by a step of this model: kept so that the type is inhabited; safe -/
  | none
  deriving DecidableEq, Repr

/-- The refusals of a step. -/
inductive Refusal where
  /-- an instruction that has no meaning in this model yet; safe -/
  | notModelled (mnemonic : String)
  deriving DecidableEq, Repr

/-- The machine right after reset: power has just been applied, nothing has run, and the bring-up steps of 25 R483
stand at the head of what happens next. -/
def State.reset : State :=
  { due := [.event .bringUp {}] }

end Sys2Proof.Machine
end

