-- ==== Sys2Proof/Machine/Access.lean ====
section
/-! DEFINITION. Reading and writing the parts of the state: contexts, strands, registers, cores, dies, hubs,
partitions. Every register has its one home here: s0 and p0 are hard-wired (02 R34, R35), the upper half of a lane
mask is absent in 32-lane warps (01 R32). -/

namespace Sys2Proof.Machine

open Sys2Proof

/-! ## Places in the module (02 R46) -/

/-- The key of system core 0; keys below it are warps. -/
def systemBase : Nat := 49152

/-- Whether a key names a system core. -/
def isSystem (key : Nat) : Bool := decide (systemBase ≤ key)

/-- The die of a warp or system core. -/
def keyDie (key : Nat) : Nat := if isSystem key then (key - systemBase) / 2 else key / 2048

/-- The compute core of a warp, numbered die × 32 + core. -/
def keyCore (key : Nat) : Nat := key / 64

/-- The quad of a warp on its core. -/
def keyQuad (key : Nat) : Nat := key / 16 % 4

/-- The translation cache of a warp's core (0–767) or of a system core (768 on). -/
def keyCache (key : Nat) : Nat := if isSystem key then 768 + (key - systemBase) else key / 64

/-- The die that a translation cache stands on. -/
def cacheDie (cache : Nat) : Nat := if cache < 768 then cache / 32 else (cache - 768) / 2

/-- The register LOCUS (02 R46). -/
def locusOf (key : Nat) : Nat :=
  if isSystem key then keyDie key + (32 + (key - systemBase) % 2) * 32
  else keyDie key + key / 64 % 32 * 32 + keyQuad key * 2048 + key % 16 * 8192

/-! ## Parts of the state -/

def getCtx (s : State) (k : Nat) : Ctx := mapGet {} s.ctxs k
def putCtx (s : State) (k : Nat) (c : Ctx) : State := { s with ctxs := mapPut {} s.ctxs k c }
def getCore (s : State) (k : Nat) : Core := mapGet {} s.cores k
def putCore (s : State) (k : Nat) (c : Core) : State := { s with cores := mapPut {} s.cores k c }
def getWg (s : State) (k : Nat) : Workgroup := mapGet {} s.wgs k
def putWg (s : State) (k : Nat) (w : Workgroup) : State := { s with wgs := mapPut {} s.wgs k w }
def getPart (s : State) (k : Nat) : Partition := mapGet {} s.parts k
def putPart (s : State) (k : Nat) (p : Partition) : State := { s with parts := mapPut {} s.parts k p }
def getDie (s : State) (k : Nat) : Die := mapGet {} s.dies k
def putDie (s : State) (k : Nat) (d : Die) : State := { s with dies := mapPut {} s.dies k d }
def getHub (s : State) (k : Nat) : Hub := mapGet {} s.hubs k
def putHub (s : State) (k : Nat) (h : Hub) : State := { s with hubs := mapPut {} s.hubs k h }
def getStack (s : State) (k : Nat) : Stack := mapGet {} s.memStacks k
def putStack (s : State) (k : Nat) (x : Stack) : State := { s with memStacks := mapPut {} s.memStacks k x }
def getDomain (s : State) (k : Nat) : Domain := mapGet {} s.domains k
def putDomain (s : State) (k : Nat) (x : Domain) : State := { s with domains := mapPut {} s.domains k x }
def getSession (s : State) (k : Nat) : Session := mapGet {} s.sessions k
def putSession (s : State) (k : Nat) (x : Session) : State := { s with sessions := mapPut {} s.sessions k x }
def getLaunch (p : Partition) (k : Nat) : Launch := mapGet {} p.launches k
def putLaunch (p : Partition) (k : Nat) (l : Launch) : Partition := { p with launches := mapPut {} p.launches k l }
def getSc (d : Die) (i : Nat) : ScBlock := mapGet {} d.sc i
def putSc (d : Die) (i : Nat) (x : ScBlock) : Die := { d with sc := mapPut {} d.sc i x }
def getQuad (c : Core) (q : Nat) : Quad := mapGet {} c.quads q
def putQuad (c : Core) (q : Nat) (x : Quad) : Core := { c with quads := mapPut {} c.quads q x }
def getStrand (c : Ctx) (i : Nat) : Strand := mapGet {} c.strands i
def putStrand (c : Ctx) (i : Nat) (x : Strand) : Ctx := { c with strands := mapPut {} c.strands i x }
def getSerial (c : Ctx) (i : Nat) : Serial := mapGet {} c.serials i
def putSerial (c : Ctx) (i : Nat) (x : Serial) : Ctx := { c with serials := mapPut {} c.serials i x }
def getLaneCall (c : Ctx) (i : Nat) : LaneCall := mapGet {} c.laneCalls i
def putLaneCall (c : Ctx) (i : Nat) (x : LaneCall) : Ctx := { c with laneCalls := mapPut {} c.laneCalls i x }
/-- Key slots: kind 0 memory, 1 image, 2 trace (25 R486), 256 of each. -/
def getKey (s : State) (kind slot : Nat) : KeySlot := mapGet {} s.keys (kind * 256 + slot)
def putKey (s : State) (kind slot : Nat) (x : KeySlot) : State :=
  { s with keys := mapPut {} s.keys (kind * 256 + slot) x }

/-- The executing strand's context. -/
def cur (s : State) : Ctx := getCtx s s.focus.key

/-- The state with the executing strand's context replaced. -/
def setCur (s : State) (c : Ctx) : State := putCtx s s.focus.key c

/-- The executing strand. -/
def curStrand (s : State) : Strand := getStrand (cur s) s.focus.slot

/-- The state with the executing strand replaced. -/
def setStrand (s : State) (x : Strand) : State := setCur s (putStrand (cur s) s.focus.slot x)

/-- The partition that holds a die (00 R12). -/
def partOf (s : State) (die : Nat) : Nat := die / (24 / s.partCount)

/-- The dies of a partition. -/
def partDies (s : State) (p : Nat) : List Nat :=
  (List.range (24 / s.partCount)).map fun i => p * (24 / s.partCount) + i

/-- The launch that a warp belongs to. -/
def launchOf (s : State) (key : Nat) : Launch :=
  getLaunch (getPart s (partOf s (keyDie key))) (getCtx s key).launchid.toNat

/-- Work that the machine has started and that will be done later. -/
def later (s : State) (a : Act) : State := { s with due := s.due ++ [a] }

/-! ## STATUS (02 R44) -/

def isPriv (c : Ctx) : Bool := c.status.getLsbD 0
def isIe (c : Ctx) : Bool := c.status.getLsbD 1
def isCpyTrap (c : Ctx) : Bool := c.status.getLsbD 2
def isSregrant (c : Ctx) : Bool := c.status.getLsbD 3
def isInTrap (c : Ctx) : Bool := c.status.getLsbD 5
def wmode (c : Ctx) : Nat := c.status.toNat / 64 % 4
def isWide (c : Ctx) : Bool := wmode c == 2
def isCompat (c : Ctx) : Bool := wmode c == 1

/-- STATUS with bit `i` set to a value. -/
def statusBit (st : BitVec 12) (i : Nat) (b : Bool) : BitVec 12 :=
  if b then st ||| BitVec.ofNat 12 (2 ^ i) else st &&& ~~~ BitVec.ofNat 12 (2 ^ i)

/-- The lane count W of R32. -/
def laneCount (c : Ctx) : Nat := if isWide c then 64 else 32

/-- All lanes of the warp's width. -/
def widthMask (c : Ctx) : Mask := if isWide c then BitVec.allOnes 64 else 0xFFFFFFFF

/-- The first lane of a strand's cross-lane span (06 R134, R137): 16 for root 1's half in compatibility width, to which a
strand with an empty mask counts (DESIGN CHOICE, log entry 82). -/
def spanBase (c : Ctx) (x : Strand) : Nat :=
  if isCompat c && (x.mask &&& 0xFFFF == 0) then 16 else 0

/-- The lanes that a strand with a mask can ever have (06 R132, R136): the launched ones, of its root's half in compatibility
width. -/
def rootLanes (c : Ctx) (m : Mask) : Mask :=
  if isCompat c then c.launched &&& (if m &&& 0xFFFF == 0 then 0xFFFF0000 else 0xFFFF) else c.launched

/-- The width of the span (06 R137). -/
def spanWidth (c : Ctx) : Nat := if isCompat c then 16 else laneCount c

/-! ## Registers -/

/-- S[n]: s0 reads zero and is full (02 R34). -/
def getS (c : Ctx) (n : Nat) : Reg := if n = 0 then {} else mapGet {} c.sregs n

/-- S[n] ← r; a write to s0 is dropped (02 R34). -/
def putS (c : Ctx) (n : Nat) (r : Reg) : Ctx :=
  if n = 0 then c else { c with sregs := mapPut {} c.sregs n r }

/-- P[n]: p0 reads 1 (02 R35). -/
def getP (c : Ctx) (n : Nat) : Bool := n == 0 || c.preds.getLsbD n

/-- P[n] ← b; a write to p0 is dropped (02 R35). -/
def putP (c : Ctx) (n : Nat) (b : Bool) : Ctx :=
  if n = 0 then c
  else { c with preds := if b then c.preds ||| BitVec.ofNat 8 (2 ^ n) else c.preds &&& ~~~ BitVec.ofNat 8 (2 ^ n) }

/-- K[n] (06 R139). -/
def getK (c : Ctx) (n : Nat) : Mask := mapGet 0 c.ks n

/-- K[n] ← m; bits [63:32] are dropped in 32-lane warps (01 R32). -/
def putK (c : Ctx) (n : Nat) (m : Mask) : Ctx := { c with ks := mapPut 0 c.ks n (m &&& widthMask c) }

/-- Lane l of vector register r. -/
def getV (c : Ctx) (r l : Nat) : Reg := mapGet {} c.vregs (r * 64 + l)

/-- Lane l of vector register r replaced. -/
def putV (c : Ctx) (r l : Nat) (x : Reg) : Ctx := { c with vregs := mapPut {} c.vregs (r * 64 + l) x }

/-- Bit cursor of a lane (10 R223). -/
def getCursor (c : Ctx) (l : Nat) : BitVec 7 := mapGet 0 c.cursors l
def putCursor (c : Ctx) (l : Nat) (x : BitVec 7) : Ctx := { c with cursors := mapPut 0 c.cursors l x }

/-- Flags are ORed in and never cleared by instructions (02 R45). -/
def orFlags (c : Ctx) (f : BitVec 6) : Ctx := { c with fflags := c.fflags ||| f }

/-- The timer interrupt set pending in a context (02 R47 bit 0). -/
def strike (c : Ctx) : Ctx := { c with ipend := c.ipend ||| 1 }

/-- The lowest live strand of a context, if any. -/
def liveSlots (c : Ctx) : List Nat := (List.range 8).filter fun i => (getStrand c i).valid

end Sys2Proof.Machine
end

