-- ==== Sys2Proof/Machine/Flags.lean ====
section
/-! DEFINITION. FFLAGS (02 R45): the bits and the scalar conditions that set a predicate (05 R114). Flags that
arithmetic raises are computed with the results in Float.lean. -/

namespace Sys2Proof.Machine

open Sys2Proof

/-- The bits of FFLAGS (02 R45). -/
def flagNv : BitVec 6 := 1
def flagDz : BitVec 6 := 2
def flagOf : BitVec 6 := 4
def flagUf : BitVec 6 := 8
def flagNx : BitVec 6 := 16
def flagSat : BitVec 6 := 32

/-- The conditions of s.cmp and s.cmpi (05 R114). -/
inductive Cond where
  | eq | ne | lts | les | ltn | len | tst | ntst
  deriving DecidableEq, Repr

/-- A condition's value on two patterns. -/
def condHolds (c : Cond) (x y : Word) : Bool :=
  match c with
  | .eq => x == y
  | .ne => x != y
  | .lts => x.slt y
  | .les => x.sle y
  | .ltn => x.ult y
  | .len => x.ule y
  | .tst => x &&& y != 0
  | .ntst => x &&& y == 0

/-- The state with flags ORed into the executing warp's FFLAGS (02 R45, 03 R65). -/
def raise (s : State) (f : BitVec 6) : State := if f = 0 then s else setCur s (orFlags (cur s) f)

end Sys2Proof.Machine
end

