-- ==== Sys2Proof/Machine/Float.lean ====
section
/-! DEFINITION. Floating-point and integer values (03 R55 to R69): exact values, rounding with its flags, and the
operations on the sub-elements of a type. -/

namespace Sys2Proof.Machine

open Sys2Proof

/-! ## Sub-elements (06 R138) -/

/-- The number of sub-elements of a type code (01 R32). -/
def subs (t : BitVec 3) : Nat :=
  match t.toNat with
  | 0 => 2 | 1 => 4 | 2 => 4 | 3 => 1 | 4 => 2 | 5 => 2 | _ => 1

/-- The width of a sub-element. -/
def subWidth (t : BitVec 3) : Nat := 64 / subs t

/-- Type codes of floats, of signed and of unsigned integers (01 R18). -/
def isFloatType (t : BitVec 3) : Bool := t.toNat < 4
def isSignedType (t : BitVec 3) : Bool := t == 4 || t == 6

/-- el(x, t, j) as a pattern. -/
def sub (x : Word) (t : BitVec 3) (j : Nat) : Nat := x.toNat / 2 ^ (subWidth t * j) % 2 ^ subWidth t

/-- The lane whose sub-elements are given, sub-element 0 first. -/
def ofSubs (t : BitVec 3) (xs : List Nat) : Word :=
  BitVec.ofNat 64 (xs.foldr (fun x acc => x % 2 ^ subWidth t + acc * 2 ^ subWidth t) 0)

/-- A lane built sub-element by sub-element, with the flags of all of them. -/
def eachSub (t : BitVec 3) (f : Nat → Nat × BitVec 6) : Word × BitVec 6 :=
  let rs := (List.range (subs t)).map f
  (ofSubs t (rs.map Prod.fst), rs.foldl (fun acc r => acc ||| r.2) 0)

/-! ## Formats and exact values -/

/-- A binary format: the widths of its exponent and fraction (R55). -/
structure Fmt where
  ebits : Nat
  fbits : Nat
  deriving DecidableEq, Repr

def binary64 : Fmt := ⟨11, 52⟩
def binary32 : Fmt := ⟨8, 23⟩
def binary16 : Fmt := ⟨5, 10⟩
def bfloat16 : Fmt := ⟨8, 7⟩

/-- The format of a float type code (01 R18). -/
def fmtOf (t : BitVec 3) : Fmt :=
  match t.toNat with
  | 0 => binary32 | 1 => binary16 | 2 => bfloat16 | _ => binary64

def Fmt.bias (f : Fmt) : Nat := 2 ^ (f.ebits - 1) - 1
def Fmt.signBit (f : Fmt) : Nat := 2 ^ (f.ebits + f.fbits)
/-- The pattern of +∞. -/
def Fmt.infBits (f : Fmt) : Nat := (2 ^ f.ebits - 1) * 2 ^ f.fbits
/-- The canonical NaN (R57). -/
def Fmt.nan (f : Fmt) : Nat := f.infBits + 2 ^ (f.fbits - 1)
/-- The exponent of the smallest normal magnitude. -/
def Fmt.emin (f : Fmt) : Int := 1 - (f.bias : Int)

/-- An exact extended real: the value of a finite number is ±m × 2^e, and zero keeps its sign. -/
inductive Num where
  | nan
  | inf (neg : Bool)
  | fin (neg : Bool) (m : Nat) (e : Int)
  deriving DecidableEq, Repr

/-- The value of a pattern (R55, R56). -/
def numOf (f : Fmt) (x : Nat) : Num :=
  let neg := x / f.signBit % 2 == 1
  let e := x / 2 ^ f.fbits % 2 ^ f.ebits
  let frac := x % 2 ^ f.fbits
  if e = 2 ^ f.ebits - 1 then (if frac = 0 then .inf neg else .nan)
  else if e = 0 then .fin neg frac (f.emin - f.fbits)
  else .fin neg (2 ^ f.fbits + frac) ((e : Int) - f.bias - f.fbits)

/-- Whether a pattern is a signalling NaN (R55). -/
def isSignalling (f : Fmt) (x : Nat) : Bool :=
  x % f.signBit > f.infBits && x / 2 ^ (f.fbits - 1) % 2 == 0

/-- Whether a pattern is a NaN. -/
def isNan (f : Fmt) (x : Nat) : Bool := x % f.signBit > f.infBits

/-- NV for signalling operands (R57). -/
def snanFlag (f : Fmt) (xs : List Nat) : BitVec 6 := if xs.any (isSignalling f) then flagNv else 0

/-- An exact number is zero. -/
def Num.isZero (x : Num) : Bool :=
  match x with
  | .fin _ m _ => m == 0
  | _ => false

/-- The sign of an exact number. -/
def Num.isNeg (x : Num) : Bool :=
  match x with
  | .nan => false
  | .inf n => n
  | .fin n _ _ => n

/-- A number negated. -/
def Num.negate (x : Num) : Num :=
  match x with
  | .nan => .nan
  | .inf n => .inf (!n)
  | .fin n m e => .fin (!n) m e

/-- An integer as an exact number; zero is +0. -/
def Num.ofInt (x : Int) : Num := .fin (decide (x < 0)) x.natAbs 0

/-- The scaled integer of a finite number at an exponent not above its own. -/
def scaled (neg : Bool) (m : Nat) (e lo : Int) : Int :=
  let v : Int := ((m * 2 ^ (e - lo).toNat : Nat) : Int)
  if neg then -v else v

/-- The exact sum of two numbers and NV for ∞ − ∞ (R60, R64). An exact zero sum of addends that are not both −0 is +0;
only rd would make it −0, and no sum rounds in rd. -/
def Num.add (x y : Num) : Num × BitVec 6 :=
  match x, y with
  | .nan, _ => (.nan, 0)
  | _, .nan => (.nan, 0)
  | .inf a, .inf b => if a = b then (.inf a, 0) else (.nan, flagNv)
  | .inf a, .fin _ _ _ => (.inf a, 0)
  | .fin _ _ _, .inf b => (.inf b, 0)
  | .fin a m e, .fin b n g =>
    if m = 0 ∧ n = 0 then (.fin (a && b) 0 0, 0)
    else
      let lo := min e g
      let v := scaled a m e lo + scaled b n g lo
      (.fin (decide (v < 0)) v.natAbs lo, 0)

/-- The exact product and NV for 0 × ∞ (R60, R64). -/
def Num.mul (x y : Num) : Num × BitVec 6 :=
  match x, y with
  | .nan, _ => (.nan, 0)
  | _, .nan => (.nan, 0)
  | .inf a, .inf b => (.inf (a != b), 0)
  | .inf a, .fin b n _ => if n = 0 then (.nan, flagNv) else (.inf (a != b), 0)
  | .fin a m _, .inf b => if m = 0 then (.nan, flagNv) else (.inf (a != b), 0)
  | .fin a m e, .fin b n g => (.fin (a != b) (m * n) (e + g), 0)

/-- The exact sum of finite numbers and infinities of one sign; −0 when every addend is −0 (R60). -/
def Num.sumOrdered (xs : List Num) : Num :=
  match xs with
  | [] => .fin false 0 0
  | x :: rest => rest.foldl (fun acc y => (Num.add acc y).1) x

/-- The exact sum of a list (R60): infinities of both signs in one sum give NaN and set NV, wherever they stand and
whatever stands beside them (07 R165); otherwise a NaN addend gives NaN. -/
def Num.sum (xs : List Num) : Num × BitVec 6 :=
  if xs.contains (.inf true) && xs.contains (.inf false) then (.nan, flagNv)
  else if xs.contains .nan then (.nan, 0)
  else (Num.sumOrdered xs, 0)

/-- x < y on numbers that are no NaN; zeros are equal. -/
def Num.lt (x y : Num) : Bool :=
  match x, y with
  | .nan, _ => false
  | _, .nan => false
  | .inf a, .inf b => a && !b
  | .inf a, .fin _ _ _ => a
  | .fin _ _ _, .inf b => !b
  | .fin a m e, .fin b n g => decide (scaled a m e (min e g) < scaled b n g (min e g))

/-- x = y on numbers that are no NaN. -/
def Num.eq (x y : Num) : Bool :=
  match x, y with
  | .nan, _ => false
  | _, .nan => false
  | _, _ => !Num.lt x y && !Num.lt y x

/-! ## Rounding (R58, R59, R64) -/

/-- The multiple of 2^q to which m × 2^e, and a little more when `sticky`, rounds in a mode (0 rne, 1 rz, 2 ru,
3 rd), and whether it is inexact. -/
def roundAt (mode : Nat) (neg : Bool) (m : Nat) (e q : Int) (sticky : Bool) : Nat × Bool :=
  let k := (q - e).toNat
  let base := if q ≤ e then m * 2 ^ (e - q).toNat else m / 2 ^ k
  let rest := if q ≤ e then 0 else m % 2 ^ k
  let half := if q ≤ e then 1 else 2 ^ k / 2
  let inexact := rest != 0 || sticky
  let up :=
    match mode with
    | 0 => decide (half < rest) || (rest == half && (sticky || base % 2 == 1))
    | 1 => false
    | 2 => inexact && !neg
    | _ => inexact && neg
  (if up then base + 1 else base, inexact)

/-- Overflow in a mode (R59). -/
def overflowBits (f : Fmt) (mode : Nat) (neg : Bool) : Nat :=
  match mode with
  | 0 => f.infBits
  | 1 => f.infBits - 1
  | 2 => if neg then f.infBits - 1 else f.infBits
  | _ => if neg then f.infBits else f.infBits - 1

/-- A nonzero magnitude rounded into a format, with OF, UF and NX (R59, R64). -/
def roundMag (f : Fmt) (mode : Nat) (neg : Bool) (m : Nat) (e : Int) (sticky : Bool) : Nat × BitVec 6 :=
  let top : Int := (Nat.log2 m : Int) + e
  let base := max top f.emin
  let r := roundAt mode neg m e (base - f.fbits) sticky
  let bits := (base - f.emin).toNat * 2 ^ f.fbits + r.1
  let sign := if neg then f.signBit else 0
  if f.infBits ≤ bits then (sign + overflowBits f mode neg, flagOf ||| flagNx)
  else
    let tiny :=
      if f.emin ≤ top then false
      else if top < f.emin - 1 then true
      else decide ((roundAt mode neg m e (top - f.fbits) sticky).1 < 2 ^ (f.fbits + 1))
    (sign + bits, if r.2 then (if tiny then flagUf ||| flagNx else flagNx) else 0)

/-- rnd of R32: an exact number rounded once into a format. -/
def roundNum (f : Fmt) (mode : Nat) (x : Num) : Nat × BitVec 6 :=
  match x with
  | .nan => (f.nan, 0)
  | .inf neg => ((if neg then f.signBit else 0) + f.infBits, 0)
  | .fin neg m e => if m = 0 then (if neg then f.signBit else 0, 0) else roundMag f mode neg m e false

/-- A rounded result with further flags. -/
def withFlags (r : Nat × BitVec 6) (g : BitVec 6) : Nat × BitVec 6 := (r.1, r.2 ||| g)

/-! ## Floating-point operations -/

/-- x + y, rounded (R60). -/
def addF (f : Fmt) (x y : Nat) : Nat × BitVec 6 :=
  let r := Num.add (numOf f x) (numOf f y)
  withFlags (roundNum f 0 r.1) (r.2 ||| snanFlag f [x, y])

/-- A pattern with its sign bit inverted. -/
def flipSign (f : Fmt) (x : Nat) : Nat := if x / f.signBit % 2 = 1 then x - f.signBit else x + f.signBit

/-- x − y, rounded (R60). -/
def subF (f : Fmt) (x y : Nat) : Nat × BitVec 6 :=
  let r := Num.add (numOf f x) (numOf f y).negate
  withFlags (roundNum f 0 r.1) (r.2 ||| snanFlag f [x, y])

/-- x × y, rounded. -/
def mulF (f : Fmt) (x y : Nat) : Nat × BitVec 6 :=
  let r := Num.mul (numOf f x) (numOf f y)
  withFlags (roundNum f 0 r.1) (r.2 ||| snanFlag f [x, y])

/-- ±(x × y) + c, rounded once (R61). -/
def fmaF (f : Fmt) (negProduct : Bool) (x y c : Nat) : Nat × BitVec 6 :=
  let p := Num.mul (numOf f x) (numOf f y)
  let r := Num.add (if negProduct then p.1.negate else p.1) (numOf f c)
  withFlags (roundNum f 0 r.1) (p.2 ||| r.2 ||| snanFlag f [x, y, c])

/-- x ÷ y of finite magnitudes, y nonzero: scaled quotient, exponent, and whether a remainder is left. -/
def quotient (m n : Nat) (e g : Int) : Nat × Int × Bool :=
  (m * 2 ^ 120 / n, e - g - 120, m * 2 ^ 120 % n != 0)

/-- x ÷ y, rounded (07 R152). -/
def divF (f : Fmt) (x y : Nat) : Nat × BitVec 6 :=
  let g := snanFlag f [x, y]
  let sign := fun n : Bool => if n then f.signBit else 0
  match numOf f x, numOf f y with
  | .nan, _ => (f.nan, g)
  | _, .nan => (f.nan, g)
  | .inf _, .inf _ => (f.nan, flagNv)
  | .inf a, .fin b _ _ => (sign (a != b) + f.infBits, 0)
  | .fin a _ _, .inf b => (sign (a != b), 0)
  | .fin a m e, .fin b n h =>
    if n = 0 then (if m = 0 then (f.nan, flagNv) else (sign (a != b) + f.infBits, flagDz))
    else if m = 0 then (sign (a != b), 0)
    else
      let q := quotient m n e h
      roundMag f 0 (a != b) q.1 q.2.1 q.2.2

/-- The integer square root built from its highest bit: `r` is the root so far, `k` bits remain. -/
def isqrtFrom (n r : Nat) : Nat → Nat
  | 0 => r
  | k + 1 => isqrtFrom n (if (r + 2 ^ k) * (r + 2 ^ k) ≤ n then r + 2 ^ k else r) k

/-- √x, rounded (07 R154). -/
def sqrtF (f : Fmt) (x : Nat) : Nat × BitVec 6 :=
  match numOf f x with
  | .nan => (f.nan, snanFlag f [x])
  | .inf false => (f.infBits, 0)
  | .inf true => (f.nan, flagNv)
  | .fin neg m e =>
    if m = 0 then (x, 0)
    else if neg then (f.nan, flagNv)
    else
      let m2 := if e % 2 = 0 then m else 2 * m
      let e2 := if e % 2 = 0 then e else e - 1
      let n := m2 * 2 ^ 128
      let r := isqrtFrom n 0 100
      roundMag f 0 false r (e2 / 2 - 64) (r * r != n)

/-- minimum and maximum (R62). -/
def minMaxF (f : Fmt) (wantMax : Bool) (x y : Nat) : Nat × BitVec 6 :=
  if isNan f x || isNan f y then (f.nan, snanFlag f [x, y])
  else
    let a := numOf f x
    let b := numOf f y
    let less := Num.lt a b || (Num.eq a b && a.isNeg && !b.isNeg)
    (if less = wantMax then y else x, 0)

/-- The comparisons of R63: 0 eq, 1 ne, 2 lt, 3 le. -/
def cmpF (f : Fmt) (c : Nat) (x y : Nat) : Bool × BitVec 6 :=
  let unordered := isNan f x || isNan f y
  let a := numOf f x
  let b := numOf f y
  match c with
  | 0 => (!unordered && Num.eq a b, snanFlag f [x, y])
  | 1 => (unordered || !Num.eq a b, snanFlag f [x, y])
  | 2 => (!unordered && Num.lt a b, if unordered then flagNv else 0)
  | _ => (!unordered && !Num.lt b a, if unordered then flagNv else 0)

/-- Rounding to an integral value in the format (07 R155): a zero keeps its input's sign and NX is not set. -/
def rintF (f : Fmt) (mode : Nat) (x : Nat) : Nat × BitVec 6 :=
  match numOf f x with
  | .nan => (f.nan, snanFlag f [x])
  | .inf _ => (x, 0)
  | .fin neg m e =>
    let r := roundAt mode neg m e 0 false
    let r := if r.1 = 0 then (0, (0 : BitVec 6)) else roundMag f 0 false r.1 0 false
    ((if neg then f.signBit else 0) + r.1, 0)

/-! ## Conversions (R66 to R68) -/

/-- Float to float. -/
def cvtFF (src dst : Fmt) (mode : Nat) (x : Nat) : Nat × BitVec 6 :=
  withFlags (roundNum dst mode (numOf src x)) (snanFlag src [x])

/-- The bounds of an integer type. -/
def intLo (w : Nat) (signed : Bool) : Int := if signed then -((2 ^ (w - 1) : Nat) : Int) else 0
def intHi (w : Nat) (signed : Bool) : Int := if signed then ((2 ^ (w - 1) : Nat) : Int) - 1 else ((2 ^ w : Nat) : Int) - 1

/-- An integer clamped to a range, and whether it was. -/
def clampInt (lo hi x : Int) : Int × Bool := if x < lo then (lo, true) else if hi < x then (hi, true) else (x, false)

/-- An integer clamped into a type, with SAT (R68). -/
def satInt (w : Nat) (signed : Bool) (x : Int) : Nat × BitVec 6 :=
  let r := clampInt (intLo w signed) (intHi w signed) x
  (wrapInt r.1 w, if r.2 then flagSat else 0)

/-- Float to integer (R67). -/
def cvtFI (src : Fmt) (mode w : Nat) (signed : Bool) (x : Nat) : Nat × BitVec 6 :=
  match numOf src x with
  | .nan => (0, flagNv)
  | .inf neg => (wrapInt (if neg then intLo w signed else intHi w signed) w, flagNv)
  | .fin neg m e =>
    let r := roundAt mode neg m e 0 false
    let v : Int := if neg then -(r.1 : Int) else (r.1 : Int)
    let c := clampInt (intLo w signed) (intHi w signed) v
    (wrapInt c.1 w, if c.2 then flagNv else if r.2 then flagNx else 0)

/-- The integer that a pattern of an integer type holds. -/
def intOf (w : Nat) (signed : Bool) (x : Nat) : Int := if signed then toSigned x w else ((x % 2 ^ w : Nat) : Int)

/-- conv of 07 R159: a sub-element of type `ts` as one of type `t`. -/
def convert (t ts : BitVec 3) (mode x : Nat) : Nat × BitVec 6 :=
  if isFloatType ts then
    if isFloatType t then cvtFF (fmtOf ts) (fmtOf t) mode x
    else cvtFI (fmtOf ts) mode (subWidth t) (isSignedType t) x
  else
    let v := intOf (subWidth ts) (isSignedType ts) x
    if isFloatType t then roundNum (fmtOf t) mode (Num.ofInt v) else satInt (subWidth t) (isSignedType t) v

/-! ## Operations by type code (01 R18) -/

/-- Two-source arithmetic of 07 R151 on sub-elements. -/
inductive Arith where
  | add | sub | mul | min | max | div | rem | shl | shr | mulhi
  deriving DecidableEq, Repr

/-- Division of integers truncated toward zero; by zero all ones (02 R50, 07 R152). -/
def divInt (w : Nat) (signed : Bool) (x y : Nat) : Nat :=
  if y % 2 ^ w = 0 then 2 ^ w - 1 else wrapInt (Int.tdiv (intOf w signed x) (intOf w signed y)) w

/-- Remainder with the sign of the dividend; by zero the dividend (02 R50, 07 R152). -/
def remInt (w : Nat) (signed : Bool) (x y : Nat) : Nat :=
  if y % 2 ^ w = 0 then x % 2 ^ w else wrapInt (Int.tmod (intOf w signed x) (intOf w signed y)) w

/-- The integer forms at a width. -/
def arithInt (op : Arith) (w : Nat) (signed : Bool) (x y : Nat) : Nat :=
  let a := intOf w signed x
  let b := intOf w signed y
  match op with
  | .add => wrapInt (a + b) w
  | .sub => wrapInt (a - b) w
  | .mul => wrapInt (a * b) w
  | .min => wrapInt (min a b) w
  | .max => wrapInt (max a b) w
  | .div => divInt w signed x y
  | .rem => remInt w signed x y
  | .shl => wrapInt (a * ((2 ^ (y % w) : Nat) : Int)) w
  | .shr => wrapInt (a / ((2 ^ (y % w) : Nat) : Int)) w
  | .mulhi => wrapInt (a * b / ((2 ^ w : Nat) : Int)) w

/-- The float forms; the integer-only operations have none. -/
def arithFloat (op : Arith) (f : Fmt) (x y : Nat) : Nat × BitVec 6 :=
  match op with
  | .add => addF f x y
  | .sub => subF f x y
  | .mul => mulF f x y
  | .min => minMaxF f false x y
  | .max => minMaxF f true x y
  | .div => divF f x y
  | .rem | .shl | .shr | .mulhi => (x, 0)

/-- A two-source operation on one sub-element of a type. -/
def arith (op : Arith) (t : BitVec 3) (x y : Nat) : Nat × BitVec 6 :=
  if isFloatType t then arithFloat op (fmtOf t) x y
  else (arithInt op (subWidth t) (isSignedType t) x y, 0)

/-- A comparison on one sub-element of a type: 0 eq, 1 ne, 2 lt, 3 le, 4 gt, 5 ge (07 R156). -/
def compareSub (c : Nat) (t : BitVec 3) (x y : Nat) : Bool × BitVec 6 :=
  let xy := if c = 4 ∨ c = 5 then (y, x) else (x, y)
  let c := if c = 4 then 2 else if c = 5 then 3 else c
  if isFloatType t then cmpF (fmtOf t) c xy.1 xy.2
  else
    let a := intOf (subWidth t) (isSignedType t) xy.1
    let b := intOf (subWidth t) (isSignedType t) xy.2
    (match c with
     | 0 => a == b
     | 1 => a != b
     | 2 => decide (a < b)
     | _ => decide (a ≤ b), 0)

/-! ## Folds (16 R317; 10 R215) -/

/-- A fold's function: sums are exact and rounded once. -/
inductive Fold where
  | add | max | min | and | or | xor
  deriving DecidableEq, Repr

/-- The fold of sub-elements of a type in ascending order; a fold of one value returns it and sets no flag. -/
def foldSub (k : Fold) (t : BitVec 3) (xs : List Nat) : Nat × BitVec 6 :=
  match xs with
  | [] => (0, 0)
  | [x] => (x, 0)
  | x :: rest =>
    match k with
    | .add =>
      if isFloatType t then
        let f := fmtOf t
        let r := Num.sum (xs.map (numOf f))
        withFlags (roundNum f 0 r.1) (r.2 ||| snanFlag f xs)
      else (rest.foldl (fun a y => (a + y) % 2 ^ subWidth t) x, 0)
    | .max => rest.foldl (fun a y => withFlags (arith .max t a.1 y) a.2) (x, 0)
    | .min => rest.foldl (fun a y => withFlags (arith .min t a.1 y) a.2) (x, 0)
    | .and => (rest.foldl Nat.land x, 0)
    | .or => (rest.foldl Nat.lor x, 0)
    | .xor => (rest.foldl Nat.xor x, 0)

/-- A fold of whole lanes, sub-element by sub-element. -/
def foldWords (k : Fold) (t : BitVec 3) (xs : List Word) : Word × BitVec 6 :=
  eachSub t fun j => foldSub k t (xs.map fun x => sub x t j)

end Sys2Proof.Machine
end

