-- ==== Sys2Proof/Machine/Memory.lean ====
section
/-! DEFINITION. Memory: the homes of bytes, the map of physical space, main memory's interleave, lines and keys, the
page tables, the translation caches, and the checks that every access passes (11 R228 to R241, 18, 22 R432, R488).

A byte's HOME is one number: a main-memory cell (below 2^42), a die-store byte's physical address, or 2^56 and up for
group stores. Unlisted homes read zero (25 R483 step 6; what a main cell holds before its line is written whole is
never delivered unpoisoned, 18 R348). -/

namespace Sys2Proof.Machine

open Sys2Proof

/-! ## Bytes at their homes -/

/-- What a home that nothing has written reads as. -/
def unlistedByte : Byte := 0

/-- The byte at a home. -/
def readByte (s : State) (place : Nat) : Byte := mapGet unlistedByte s.mem place

/-- `n` bytes from a home up. -/
def readBytes (s : State) (place n : Nat) : List Byte := (List.range n).map fun i => readByte s (place + i)

/-- `n` bytes from a home up, as a little-endian number. -/
def readNat (s : State) (place n : Nat) : Nat := ofBytes (readBytes s place n)

/-- The cells of a run of bytes, without those an unlisted home reads as. -/
def cellRun (place : Nat) : List Byte → List Host.Cell
  | [] => []
  | b :: rest => if b = unlistedByte then cellRun (place + 1) rest else (place, b) :: cellRun (place + 1) rest

/-- Cells with a run of bytes written over them; the canonical form is kept. -/
def writeCells (m : List Host.Cell) (place : Nat) (bs : List Byte) : List Host.Cell :=
  m.filter (fun c => decide (c.1 < place)) ++ cellRun place bs ++
    m.filter (fun c => decide (place + bs.length ≤ c.1))

/-- The canonical form of memory: homes rise strictly and no cell holds what an unlisted home reads as. -/
abbrev Memory.wf (m : List Host.Cell) : Prop := mapWf unlistedByte m = true

/-- Whether some byte of a run is poisoned (17 R341, 21 R417). -/
def poisonedRun (s : State) (place n : Nat) : Bool :=
  s.poison.any fun e => decide (place ≤ e.1) && decide (e.1 < place + n)

/-- Bytes written at a home, with their poison mark. -/
def writeBytes (s : State) (place : Nat) (bs : List Byte) (bad : Bool := false) : State :=
  { s with
    mem := writeCells s.mem place bs
    poison :=
      s.poison.filter (fun e => decide (e.1 < place)) ++
        (if bad then (List.range bs.length).map fun i => (place + i, true) else []) ++
        s.poison.filter (fun e => decide (place + bs.length ≤ e.1)) }

/-- A number written as `n` little-endian bytes at a home. -/
def writeNat (s : State) (place n x : Nat) (bad : Bool := false) : State := writeBytes s place (toBytes x n) bad

/-! ## Physical space (11 R231) -/

/-- The first physical address of die store. -/
def dieStoreBase : Nat := 0x8000000000000

/-- The first physical address of I/O space. -/
def ioBase : Nat := 0xC000000000000

/-- Regions of physical space. -/
inductive Phys where
  | main (a : Nat)
  | die (d off : Nat)
  | io (off : Nat)
  | hole
  deriving DecidableEq, Repr

/-- The region of a physical address (11 R231). -/
def physOf (a : Nat) : Phys :=
  if a < 0x30000000000 then .main a
  else if dieStoreBase ≤ a ∧ a < dieStoreBase + 24 * 0x10000000 then
    .die ((a - dieStoreBase) / 0x10000000) ((a - dieStoreBase) % 0x10000000)
  else if ioBase ≤ a ∧ a < 0xD000000000000 then .io (a - ioBase)
  else .hole

/-- The home of a group-store byte (13 R262). -/
def groupPlace (core p : Nat) : Nat := 2 ^ 56 + core * 131072 + p

/-- The home of a die-store byte. -/
def diePlace (d off : Nat) : Nat := dieStoreBase + d * 0x10000000 + off

/-- The home of a byte of a warp's spill window (11 R230). -/
def spillPlace (key off : Nat) : Nat := diePlace (keyDie key) (16384 * (key % 2048) + off)

/-- The home of a byte of a system core's return area (02 R51). -/
def returnPlace (key off : Nat) : Nat := diePlace (keyDie key) (0x2000000 + 0x400 * ((key - systemBase) % 2) + off)

/-! ## Main memory's interleave (18 R353 to R355) -/

/-- Whether pseudo-channel g is live. -/
def pcLive (s : State) (g : Nat) : Bool := !(getStack s (g / 64)).dead.getLsbD (g % 64)

/-- The stacks of a domain (18 R353). -/
def domainStacks (s : State) (n : Nat) : List Nat :=
  if n < 24 then
    (if (getDomain s n).smask.getLsbD 0 then [2 * n] else []) ++
      (if (getDomain s n).smask.getLsbD 1 then [2 * n + 1] else [])
  else if n = 24 then List.range 24
  else if n = 25 then (List.range 24).map (· + 24)
  else List.range 48

/-- The live pseudo-channels of a domain, in ascending g. -/
def domainPcs (s : State) (n : Nat) : List Nat :=
  (domainStacks s n).flatMap fun k =>
    ((List.range 64).map fun j => 64 * k + j).filter (pcLive s)

/-- P of a domain: its number of live pseudo-channels. -/
def domainP (s : State) (n : Nat) : Nat :=
  (domainStacks s n).foldl (fun acc k => acc + (64 - countOnes (getStack s k).dead.toNat 64)) 0

/-- The end, exclusive, of a domain's live part. -/
def domainEnd (s : State) (n : Nat) : Nat :=
  (getDomain s n).base + domainP s n * (getDomain s n).rc * 16384

/-- Whether an address lies in a domain's live part. -/
def inDomain (s : State) (n a : Nat) : Bool :=
  decide ((getDomain s n).base ≤ a) && decide (a < domainEnd s n)

/-- The domain whose live part holds an address: the lowest-numbered one (18 R353). -/
def domainOf (s : State) (a : Nat) : Option Nat := listFind (fun n => inDomain s n a) (List.range 27)

/-- The parity of a number's low 35 bits. -/
def parity (x : Nat) : Nat := countOnes x 35 % 2

/-- FOLD[n][j]. -/
def foldMask (s : State) (n j : Nat) : Nat := (mapGet (0 : Word) (getDomain s n).folds j).toNat

/-- X of R355: the granule index with its low eight bits folded. -/
def foldIndex (s : State) (n h : Nat) : Nat :=
  Nat.xor h ((List.range 8).foldl (fun acc j => acc + parity (Nat.land h (foldMask s n j)) * 2 ^ j) 0)

/-- The place that R355 computes: pseudo-channel, bank group, bank, row, column, PIDX. -/
structure MapPlace where
  g : Nat
  bg : Nat
  bank : Nat
  row : Nat
  col : Nat
  pidx : Nat
  deriving DecidableEq, Repr

/-- R355 for an address of domain n. -/
def mapPlaceIn (s : State) (n a : Nat) : MapPlace :=
  let x := foldIndex s n ((a - (getDomain s n).base) / 128)
  let p := domainP s n
  let q := x / p
  { g := (domainPcs s n).getD (x % p) 0, bg := q / 8 % 4, bank := q / 32 % 4,
    row := (getDomain s n).rowBase + q / 128, col := q % 8, pidx := x % p }

/-- The main-memory cell of a place and a byte within its granule. -/
def cellOfPlace (m : MapPlace) (byte : Nat) : Nat :=
  m.g * 2 ^ 30 + (((m.bg * 4 + m.bank) * 65536 + m.row) * 8 + m.col) * 128 + byte

/-- The home of a main-memory byte through domain n. -/
def mainPlaceIn (s : State) (n a : Nat) : Nat := cellOfPlace (mapPlaceIn s n a) (a % 128)

/-- The home of a main-memory byte; none outside every live part. -/
def mainPlace (s : State) (a : Nat) : Option Nat := (domainOf s a).map fun n => mainPlaceIn s n a

/-! ## Lines and keys (18 R347, R348) -/

/-- Whether a memory key slot is loaded. -/
def keyLoaded (s : State) (slot : Nat) : Bool := (getKey s 0 slot).key.isSome

/-- The index of a loaded slot's key among the keys the module has seen. -/
def keyIndex (s : State) (slot : Nat) : Option Nat :=
  match (getKey s 0 slot).key with
  | none => none
  | some k => some (s.knownKeys.idxOf k)

/-- Whether the link to the base die that holds a main-memory cell has been declared failed (18 R349). -/
def linkIsDown (s : State) (place : Nat) : Bool := (getStack s (place / 2 ^ 36)).linkDown

/-- Whether the line at a home passes its integrity check for an address and a slot (18 R348), over a link that is up. -/
def lineOk (s : State) (place a slot : Nat) : Bool :=
  let l := mapGet ({} : Line) s.lines (place / 64)
  !linkIsDown s place && l.valid && l.addr == a / 64 && l.slot.toNat == slot && keyIndex s slot == some l.key

/-- Whether the line at a home holds data written for this address under a key that its slot still holds. The walker
names no slot, so it reads a line under the slot the line was written with. -/
def lineReadable (s : State) (place a : Nat) : Bool :=
  lineOk s place a (mapGet ({} : Line) s.lines (place / 64)).slot.toNat

/-- `n` bytes of main memory, which lie in one granule, and whether they are sound. -/
def mainRead (s : State) (place a slot n : Nat) : List Byte × Bool :=
  (readBytes s place n, lineOk s place a slot && (n ≤ 64 - a % 64 || lineOk s (place + n - 1) (a + n - 1) slot) &&
    !poisonedRun s place n)

/-- A line's tag after a whole write (18 R348). -/
def tagLine (s : State) (place a slot : Nat) : State :=
  let l : Line := { valid := true, addr := a / 64, slot := BitVec.ofNat 8 slot, key := (keyIndex s slot).getD 0 }
  { s with lines := mapPut {} s.lines (place / 64) l }

/-- Bytes written within one line of main memory, and whether the line took them (18 R346, R348): a whole line is
tagged anew; a part of a sound line is merged; a part of a failed line is dropped, and so is a write on a failed link
(R349). -/
def mainWrite (s : State) (place a slot : Nat) (bs : List Byte) (bad : Bool := false) : State × Bool :=
  if linkIsDown s place then (s, false)
  else if bs.length = 64 then (tagLine (writeBytes s place bs bad) place a slot, true)
  else if lineOk s place a slot then (writeBytes s place bs bad, true)
  else (s, false)

/-! ## The I/O map (22 R432, R488) -/

/-- The blocks of I/O space. -/
inductive IoBlock where
  | translation | batt | imageKey | memoryMap | preempt | hub | scaleOut | systemCore | mailbox
  deriving DecidableEq, Repr

/-- Where an I/O offset lies. -/
inductive IoPlace where
  | reg (b : IoBlock) (unit off : Nat)
  | hostWindow (h off : Nat)
  | storageSpace (port off : Nat)
  | hole
  deriving DecidableEq, Repr

/-- The place of an offset in I/O space. -/
def ioPlace (o : Nat) : IoPlace :=
  let block := o / 0x1000000
  let unit := o % 0x1000000 / 0x10000
  let off := o % 0x10000
  if o < 0x9000000 then
    match block with
    | 0 => if unit < 24 then .reg .translation unit off else .hole
    | 1 => if unit < 24 then .reg .batt unit off else .hole
    | 2 => if unit < 24 then .reg .imageKey unit off else .hole
    | 3 => if unit < 1 then .reg .memoryMap unit off else .hole
    | 4 => if unit < 24 then .reg .preempt unit off else .hole
    | 5 => if unit < 2 then .reg .hub unit off else .hole
    | 6 => if unit < 2 then .reg .scaleOut unit off else .hole
    | 7 => if unit < 24 then .reg .systemCore unit off else .hole
    | _ => if unit < 24 then .reg .mailbox unit off else .hole
  else if within o 0x400000000000 (0x400000000000 + 2 * 2 ^ 45) then
    .hostWindow ((o - 0x400000000000) / 2 ^ 45) ((o - 0x400000000000) % 2 ^ 45)
  else if within o 0x800000000000 (0x800000000000 + 8 * 2 ^ 32) then
    .storageSpace ((o - 0x800000000000) / 2 ^ 32) ((o - 0x800000000000) % 2 ^ 32)
  else .hole

/-- Whether a register is listed, and whether it may be read and written by supervisor (the blocks' tables). -/
def ioRights (b : IoBlock) (off : Nat) : Option (Bool × Bool) :=
  let rw := some (true, true)
  let r := some (true, false)
  let w := some (false, true)
  match b with
  | .translation => match off with | 0 => rw | 8 => rw | 0x10 => w | 0x18 => r | _ => none
  | .batt => match off with | 0 => rw | 8 => r | 0x10 => rw | _ => none
  | .imageKey =>
    match off with
    | 0 => r | 8 => r | 0x10 => r | 0x18 => r | 0x20 => rw | 0x28 => rw | 0x30 => rw | 0x38 => rw | 0x40 => rw
    | 0x48 => w | 0x50 => r | _ => none
  | .memoryMap =>
    if off = 0x10 ∨ off = 0x20 then w
    else if off = 0x18 ∨ off = 0x28 ∨ off = 0x38 then r
    else if off = 0x30 then rw
    else if within off 0x40 0x60 then r
    else if within off 0x400 (0x400 + 48 * 0x10) then (if off % 16 = 0 then r else rw)
    else if within off 0x1000 (0x1000 + 27 * 0x80) then
      let o := (off - 0x1000) % 0x80
      if o = 0 ∨ o = 8 then rw else if o = 0x10 then r else if 0x40 ≤ o then rw else none
    else none
  | .preempt =>
    match off with
    | 0 => rw | 8 => rw | 0x10 => rw | 0x18 => rw | 0x20 => rw | 0x28 => w | 0x30 => r | 0x38 => r | 0x40 => w
    | _ => none
  | .hub =>
    if off = 0 ∨ off = 8 ∨ off = 0x18 then rw
    else if off = 0x10 then w
    else if off = 0x20 then r
    else if within off 0x40 0xC0 then rw
    else none
  | .scaleOut =>
    match off with | 0 => rw | 8 => rw | 0x10 => rw | 0x18 => rw | 0x20 => w | 0x28 => r | _ => none
  | .systemCore =>
    if off < 0x80 then
      match off % 0x40 with
      | 0 => rw | 8 => rw | 0x10 => rw | 0x18 => w | 0x20 => r | 0x28 => rw | _ => none
    else none
  | .mailbox => match off with | 0 => w | 8 => r | _ => none

/-- Whether a block belongs to one die (22 R430); the others are reached from the partition that holds die 0. -/
def ioPerDie (b : IoBlock) : Bool :=
  match b with
  | .translation | .batt | .imageKey | .preempt | .systemCore | .mailbox => true
  | .memoryMap | .hub | .scaleOut => false

/-- Whether a partition reaches the register of an I/O offset (22 R430, R488 step 3); a device window is reached. -/
def ioReached (s : State) (part o : Nat) : Bool :=
  match ioPlace o with
  | .reg b unit off =>
    (ioRights b (off / 8 * 8)).isSome && (if ioPerDie b then partOf s unit == part else part == 0)
  | .hostWindow _ _ => true
  | .storageSpace _ _ => true
  | .hole => false

/-- Whether a supervisor access of a size may read or write an I/O offset (11 R235, 22 R488 step 5). -/
def ioGranted (o n : Nat) (write : Bool) : Bool :=
  match ioPlace o with
  | .reg b _ off =>
    n == 8 &&
      (match ioRights b (off / 8 * 8) with
       | some (r, w) => if write then w else r
       | none => false)
  | .hostWindow _ _ => n == 4 || n == 8
  | .storageSpace _ _ => n == 4 || n == 8
  | .hole => false

/-! ## Page tables (11 R232 to R234) -/

/-- Whether a die's sibling region is enabled (16 R306). -/
def siblingEnabled (s : State) (die : Nat) : Bool := (getDie s die).battEn && !(getDie s die).battBusy

/-- The walker's 16-byte read of a table entry: its two doublewords, or whether the bytes were bad. DESIGN CHOICE (log entry
97): an entry whose own address lies in no live memory is not valid, and its bytes were not bad. -/
def walkRead (s : State) (a : Nat) : Except Bool (Word × Word) :=
  match physOf a with
  | .main _ =>
    match mainPlace s a with
    | none => .error false
    | some p =>
      if lineReadable s p a && !poisonedRun s p 16 then
        .ok (BitVec.ofNat 64 (readNat s p 8), BitVec.ofNat 64 (readNat s (p + 8) 8))
      else .error true
  | .die d off =>
    if poisonedRun s (diePlace d off) 16 then .error true
    else .ok (BitVec.ofNat 64 (readNat s (diePlace d off) 8), BitVec.ofNat 64 (readNat s (diePlace d off + 8) 8))
  | _ => .error false

/-- Whether a die-store range meets another range of its die. -/
def meets (off size lo hi : Nat) : Bool := decide (off < hi) && decide (lo < off + size)

/-- The validity of a leaf beyond its entry's own fields (11 R231, R234; 16 R307; 18 R354; 22 R429). -/
def leafValid (s : State) (part : Nat) (l : Leaf) : Bool :=
  match physOf l.pa with
  | .main _ =>
    l.type == 0 && l.spol == 0 && l.stype == 0 && decide (l.pa + l.size ≤ 0x30000000000) &&
      (match domainOf s l.pa with
       | none => false
       | some n =>
         decide (l.pa + l.size ≤ domainEnd s n) &&
           ((List.range n).all fun m =>
             !meets l.pa l.size (getDomain s m).base (domainEnd s m)) &&
           (if n < 24 then l.iset == 0 && partOf s n == part
            else if n < 26 then l.iset == 1 && ((partDies s part).any fun d => d / 12 == n - 24) &&
              decide (s.partCount ≤ 2)
            else l.iset == 2 && s.partCount == 1))
  | .die d off =>
    partOf s d == part && l.iset == 0 && l.key == 0 && decide (l.size ≠ 2 ^ 30) &&
      (if l.type == 1 then
        l.spol == 0 && l.stype == 0 && decide (off + l.size ≤ 0x10000000) &&
          !meets off l.size 0x0F000000 0x10000000 &&
          !(siblingEnabled s d && meets off l.size 0x0E400000 0x0F000000) &&
          !(l.u && meets off l.size 0 0x2000800)
       else if l.type == 2 then
        l.size == 262144 && siblingEnabled s d && decide (0x0F000000 ≤ off) && l.r && l.w
       else false)
  | .io _ =>
    l.type == 3 && l.size == 262144 && l.iset == 0 && l.key == 0 && l.spol == 0 && l.stype == 0
  | .hole => false

/-- The leaf that two doublewords at a level describe, when their fields are admissible (11 R233, R234). -/
def leafOf (va size : Nat) (d0 d1 : Word) : Option Leaf :=
  let pa := bf d0 51 10 * 1024
  if bf d0 61 52 == 0 && bf d0 9 0 == 0 && pa % size == 0 && bf d1 63 24 == 0 && bf d1 7 6 == 0 &&
      bf d1 23 22 != 3 && decide (bf d1 10 8 < 4) then
    some { va := va / size * size, size := size, pa := pa, type := BitVec.ofNat 2 (bf d1 1 0),
           r := bitAt d1 2, w := bitAt d1 3, x := bitAt d1 4, u := bitAt d1 5,
           iset := BitVec.ofNat 2 (bf d1 23 22), key := BitVec.ofNat 8 (bf d1 21 14),
           stype := BitVec.ofNat 3 (bf d1 13 11), spol := BitVec.ofNat 3 (bf d1 10 8) }
  else none

/-- A level of the walk: the lowest index bit, the entries of its table, and the leaf size it allows, if any. -/
structure Level where
  lo : Nat
  entries : Nat
  leaf : Option Nat
  deriving DecidableEq, Repr

/-- The five levels (11 R232). -/
def levels : List Level :=
  [⟨48, 512, none⟩, ⟨39, 512, none⟩, ⟨30, 512, some (2 ^ 30)⟩, ⟨24, 64, some (2 ^ 24)⟩, ⟨18, 64, some (2 ^ 18)⟩]

/-- A walk's result: the leaf, and the pointers that it read, each with the address of its entry. -/
abbrev WalkResult := Except Bool (Leaf × List (Nat × Word))

/-- The walk from a table down the remaining levels, with a reader of table entries. -/
def walkFrom (s : State) (read : Nat → Except Bool (Word × Word)) (part va : Nat) (table : Nat) :
    List Level → WalkResult
  | [] => .error false
  | lv :: rest =>
    let at_ := table + 16 * (va / 2 ^ lv.lo % lv.entries)
    match read at_ with
    | .error bad => .error bad
    | .ok (d0, d1) =>
      if bitAt d0 63 then
        if bitAt d0 62 then
          match lv.leaf with
          | none => .error false
          | some size =>
            match leafOf va size d0 d1 with
            | none => .error false
            | some l => if leafValid s part l then .ok (l, []) else .error false
        else
          match rest with
          | [] => .error false
          | next :: _ =>
            let pa := bf d0 51 10 * 1024
            if bf d0 61 52 == 0 && bf d0 9 0 == 0 && d1 == 0 && pa % (16 * next.entries) == 0 then
              match walkFrom s read part va pa rest with
              | .error bad => .error bad
              | .ok (l, ps) => .ok (l, (at_, d0) :: ps)
            else .error false
      else .error false

/-- The walk of an address under an ASID on a die from its address-space table (11 R232). -/
def walkPath (s : State) (read : Nat → Except Bool (Word × Word)) (die : Nat) (asid : BitVec 16) (va : Nat) :
    WalkResult :=
  let at_ := (getDie s die).astbase.toNat + 16 * asid.toNat
  match read at_ with
  | .error bad => .error bad
  | .ok (d0, d1) =>
    if bitAt d0 63 && bf d0 62 52 == 0 && bf d0 12 0 == 0 && d1 == 0 then
      match walkFrom s read (partOf s die) va (bf d0 51 13 * 8192) levels with
      | .error bad => .error bad
      | .ok (l, ps) => .ok (l, (at_, d0) :: ps)
    else .error false

/-- The walk of an address under an ASID on a die (11 R232); an error says whether bad bytes were met. -/
def walk (s : State) (die : Nat) (asid : BitVec 16) (va : Nat) : Except Bool Leaf :=
  (walkPath s (walkRead s) die asid va).map Prod.fst

/-- The cached leaf of an address, if the cache holds one (11 R240). -/
def cachedLeaf (s : State) (cache : Nat) (asid : BitVec 16) (va : Nat) : Option Leaf :=
  (listFind (fun e : TlbEntry => e.asid == asid && decide (e.leaf.va ≤ va) && decide (va < e.leaf.va + e.leaf.size))
    (mapGet [] s.tlbs cache)).map TlbEntry.leaf

/-- A translation: the cached leaf where the cache holds one, else a walk of the tables as they stand (11 R240). -/
def translate (s : State) (cache : Nat) (asid : BitVec 16) (va : Nat) : Except Bool Leaf :=
  match cachedLeaf s cache asid va with
  | some l => .ok l
  | none => walk s (cacheDie cache) asid va

/-- The physical address of a byte through a leaf. -/
def leafPa (l : Leaf) (va : Nat) : Nat := l.pa + (va - l.va)

/-! ## The checks on every access (11 R228, R236) -/

/-- The regions of R228. -/
inductive Region where
  | none
  | translated
  | spill
  | reserved
  | group
  deriving DecidableEq, Repr

/-- The first byte of the spill-stack window and of the group-store window. -/
def spillBase : Nat := 0x1FFFE0000000000
def groupBase : Nat := 0x1FFFF0000000000

/-- The region of an address. -/
def regionOf (va : Nat) : Region :=
  if 2 ^ 57 ≤ va then .none
  else if va < spillBase then .translated
  else if va < spillBase + 0x4000 then .spill
  else if va < groupBase then .reserved
  else if va < groupBase + 0x20000 then .group
  else .reserved

/-- What an access does. `cell` accesses are the sibling forms of 16; `barrier` is m.arrive and m.wait. -/
inductive Acc where
  | fetch | load | store | atomic | barrier | cellLoad | cellStore | cellBoth | lgLoad | lgStore
  deriving DecidableEq, Repr

/-- Who makes an access: the context's key, its mode, and its ASID; `cut` says that it reaches nothing beyond its die's port any
more (25 R479). -/
structure Requester where
  key : Nat
  user : Bool
  asid : BitVec 16
  cut : Bool := false
  deriving DecidableEq, Repr

def accReads (a : Acc) : Bool :=
  match a with | .fetch => false | .store => false | .cellStore => false | .lgStore => false | _ => true
def accWrites (a : Acc) : Bool :=
  match a with | .fetch => false | .load => false | .cellLoad => false | .lgLoad => false | _ => true

/-- The requester that a context is. -/
def requester (s : State) (key : Nat) : Requester :=
  { key := key, user := !isPriv (getCtx s key), asid := (getCtx s key).asid }

/-- The workgroup of a warp. -/
def wgOf (s : State) (key : Nat) : Workgroup := getWg s (getCtx s key).wg

/-- The last byte of an access. -/
def lastByte (va n : Nat) : Nat := va + n - 1

/-- A translation for a requester. -/
def translateFor (s : State) (q : Requester) (va : Nat) : Except Bool Leaf :=
  translate s (keyCache q.key) q.asid va

/-- Step 1: bits [63:57], reserved regions, and a system core in a window. -/
def failsRegion (q : Requester) (va n : Nat) : Bool :=
  let bad := fun r : Region =>
    match r with
    | .none => true | .reserved => true | .translated => false
    | .spill => isSystem q.key | .group => isSystem q.key
  bad (regionOf va) || bad (regionOf (lastByte va n))

/-- Step 2: a byte outside the instruction's space (R237). -/
def failsStraddle (space : Region) (va n : Nat) : Bool :=
  regionOf va != space || regionOf (lastByte va n) != space

/-- Whether one byte's page is not valid: no leaf translates it, or a cached one names main memory outside every live
part (18 R354, R367). -/
def pageInvalid (s : State) (q : Requester) (va : Nat) : Bool :=
  match translateFor s q va with
  | .error _ => true
  | .ok l =>
    match physOf (leafPa l va) with
    | .main a => (mainPlace s a).isNone
    | _ => false

/-- Whether one byte's page is missing, or is an I/O page whose register is not reached (22 R488). -/
def pageMissing (s : State) (q : Requester) (va : Nat) : Bool :=
  pageInvalid s q va ||
    (match translateFor s q va with
     | .error _ => false
     | .ok l =>
       match physOf (leafPa l va) with
       | .io o => !ioReached s (partOf s (keyDie q.key)) o
       | _ => false)

/-- Step 3: translation of each page touched. -/
def failsPage (s : State) (q : Requester) (va n : Nat) : Bool :=
  match regionOf va with
  | .translated => pageMissing s q va || pageMissing s q (lastByte va n)
  | _ => false

/-- Step 4: copy-only pages (R239): a warp's access to a main page, and s.amo on one from any agent. -/
def failsCopyOnly (s : State) (q : Requester) (a : Acc) (va n : Nat) : Bool :=
  let mainPage := fun v =>
    match translateFor s q v with
    | .ok l => l.type == 0
    | .error _ => false
  match regionOf va with
  | .translated =>
    (if isSystem q.key then a == .atomic else a != .fetch) && (mainPage va || mainPage (lastByte va n))
  | _ => false

/-- Whether one byte's leaf denies the access: rights, mode and type (R235, 12 R249), the key slot (18 R347). -/
def leafDenies (s : State) (q : Requester) (a : Acc) (n va : Nat) : Bool :=
  match translateFor s q va with
  | .error _ => true
  | .ok l =>
    (q.user && !l.u) || (accReads a && !l.r) || (accWrites a && !l.w) ||
    (match a with
     | .fetch => !l.x || !(l.type == 0 || l.type == 1)
     | .load => l.type == 2 && n != 8
     | .store => l.type == 2 && n != 8
     | .atomic | .lgLoad | .lgStore => l.type == 2
     | .barrier => true
     | .cellLoad | .cellStore | .cellBoth => l.type != 2) ||
    (l.type == 3 &&
      (!isSystem q.key || q.user || a == .atomic || !ioGranted (leafPa l va - ioBase) n (accWrites a))) ||
    (l.type == 0 && !keyLoaded s l.key.toNat)

/-- Step 5: rights and type, and the group-store allocation (R229). -/
def failsRights (s : State) (q : Requester) (a : Acc) (va n : Nat) : Bool :=
  match regionOf va with
  | .translated => leafDenies s q a n va || leafDenies s q a n (lastByte va n)
  | .group =>
    a == .fetch || a == .cellLoad || a == .cellStore || a == .cellBoth ||
      decide ((wgOf s q.key).glen < va + n - groupBase)
  | .spill => a == .fetch || a == .barrier || a == .cellLoad || a == .cellStore || a == .cellBoth
  | _ => true

/-- Whether a hull covers some byte of a run. -/
def hullMeets (h : Hull) (group : Bool) (asid : BitVec 16) (lo hi : Nat) : Bool :=
  h.group == group && (group || h.asid == asid) && decide (lo ≤ h.hi) && decide (h.lo ≤ hi)

/-- Step 6: range locks of the requester's core (17 R336). -/
def failsLock (s : State) (q : Requester) (a : Acc) (va n : Nat) : Bool :=
  if isSystem q.key || a == .fetch then false
  else
    let locks := (getCore s (keyCore q.key)).locks
    let test := fun (group : Bool) (lo : Nat) =>
      locks.any fun k => k.hulls.any fun h =>
        hullMeets h group q.asid lo (lo + n - 1) && (h.dest || accWrites a)
    match regionOf va with
    | .group => test true ((wgOf s q.key).gbase + (va - groupBase))
    | .translated => test false va
    | _ => false

/-- Step 7: alignment (R238). -/
def failsAlign (a : Acc) (va n : Nat) : Bool := a != .fetch && va % n != 0

/-- Whether an access is a step on a sibling cell: of a sibling form, or of a load or store on a sibling page (16 R314). -/
def siblingStep (s : State) (q : Requester) (a : Acc) (va : Nat) : Bool :=
  match a with
  | .cellLoad | .cellStore | .cellBoth => true
  | .fetch | .load | .store | .atomic | .barrier | .lgLoad | .lgStore =>
    match regionOf va with
    | .translated =>
      (match translateFor s q va with
       | .ok l => l.type == 2
       | .error _ => false)
    | _ => false

/-- The watchpoint that a run of bytes hits, as the lowest watched byte (24 R465, R467); a sibling step is a read and a
write. -/
def watchHit (s : State) (q : Requester) (a : Acc) (va n : Nat) : Option Nat :=
  let ws := (getPart s (partOf s (keyDie q.key))).watches
  let both := siblingStep s q a va
  (ws.filter fun e =>
      e.2.valid && e.2.asid == q.asid && decide (va < e.2.base.toNat + 2 ^ e.2.log2) &&
        decide (e.2.base.toNat ≤ lastByte va n) &&
        (both || e.2.kind == 3 || (e.2.kind == 1 && accReads a) || (e.2.kind == 2 && accWrites a))).foldl
    (fun acc e =>
      let lo := max va e.2.base.toNat
      match acc with
      | some m => some (min m lo)
      | none => some lo)
    none

/-- The checks of R236 in their order, each with its trap. -/
def checkSteps (s : State) (q : Requester) (a : Acc) (space : Region) (n : Nat) :
    List (BitVec 8 × (Nat → Bool)) :=
  [ (0x0B, fun va => failsRegion q va n),
    (0x09, fun va => failsStraddle space va n),
    (0x0B, fun va => failsPage s q va n),
    (0x0A, fun va => failsCopyOnly s q a va n),
    (0x0C, fun va => failsRights s q a va n),
    (0x0D, fun va => failsLock s q a va n),
    (0x08, fun va => failsAlign a va n) ]

/-- The first check that some lane fails, with the lowest lane's address (R236). -/
def firstFailure (addrs : List Nat) : List (BitVec 8 × (Nat → Bool)) → Option (BitVec 8 × Nat)
  | [] => none
  | (c, f) :: rest =>
    match listFind f addrs with
    | some va => some (c, va)
    | none => firstFailure addrs rest

/-- Whether the walk of a failing page met bad bytes (R234; DETAIL bit 0 of 21 R410): none is made for an access that its region
alone refuses. -/
def walkWasBad (s : State) (q : Requester) (va n : Nat) : Bool :=
  !failsRegion q va n &&
  let bad := fun v =>
    match translateFor s q v with
    | .error b => b
    | .ok _ => false
  match regionOf va with
  | .translated => bad va || bad (lastByte va n)
  | _ => false

/-- All checks of R236 on the accesses of one instruction, lanes in ascending order: the trap's cause, address and
DETAIL, or none. `exempt` is 24 R468. -/
def checkAccess (s : State) (q : Requester) (a : Acc) (n : Nat) (addrs : List Nat) (exempt : Bool := false) :
    Option (BitVec 8 × Word × Word) :=
  match addrs with
  | [] => none
  | first :: _ =>
    match firstFailure addrs (checkSteps s q a (regionOf first) n) with
    | some (c, va) =>
      some (c, BitVec.ofNat 64 va, if c = 0x0B && walkWasBad s q va n then 1 else 0)
    | none =>
      if exempt || a == .fetch then none
      else (addrs.findSome? fun va => watchHit s q a va n).map fun b => (0x13, BitVec.ofNat 64 b, 0)

/-- Where an access that has passed its checks goes. -/
inductive Target where
  /-- bytes at a home -/
  | home (place : Nat)
  /-- main memory, at a home, with its physical address and key slot -/
  | main (place pa slot : Nat)
  /-- a sibling cell of a die, by its index in the region, with its page's policy and type -/
  | cell (die index : Nat) (spol stype : Nat)
  /-- an I/O offset -/
  | io (off : Nat)
  /-- nothing there: an access that no check admits -/
  | nowhere
  deriving DecidableEq, Repr

/-- The target of a checked access. -/
def targetOf (s : State) (q : Requester) (va : Nat) : Target :=
  match regionOf va with
  | .spill => .home (spillPlace q.key (va - spillBase))
  | .group => .home (groupPlace (wgOf s q.key).core ((wgOf s q.key).gbase + (va - groupBase)))
  | .translated =>
    match translateFor s q va with
    | .error _ => .nowhere
    | .ok l =>
      let pa := leafPa l va
      match physOf pa with
      | .main _ =>
        match mainPlace s pa with
        | some p => .main p pa l.key.toNat
        | none => .nowhere
      | .die d off =>
        if l.type == 2 && siblingEnabled s d then .cell d ((off - 0x0F000000) / 8) l.spol.toNat l.stype.toNat
        else .home pa
      | .io o => .io o
      | .hole => .nowhere
  | _ => .nowhere

/-- The end of main memory's homes. -/
def mainTop : Nat := 2 ^ 42

/-- The die at whose store, memory or cores a home lies. -/
def homeDie (place : Nat) : Nat :=
  if place < 2 ^ 42 then place / 2 ^ 37
  else if place < 2 ^ 56 then (place - dieStoreBase) / 0x10000000
  else (place - 2 ^ 56) / 131072 / 32

/-- Whether an access of an agent on a die must wait because a die's fabric port that it passes is frozen (25 R479). -/
def portFrozen (s : State) (die place : Nat) : Bool := (getDie s die).frozen && homeDie place != die

/-- Whether main memory holds an access to an address because a repair, a retirement or a retrain is under way
(18 R364, R366, R368, R369), or because its stack's link is down. -/
def mainHeld (s : State) (pa place : Nat) : Bool :=
  let g := place / 2 ^ 30
  let rg := s.retG.toNat
  (s.retBusy &&
    (match domainOf s pa with
     | none => false
     | some n => n == rg / 128 || n == 24 + rg / 64 / 24 || n == 26)) ||
  (s.pprBusy && g == bf s.pprReq 11 0 &&
    place % 2 ^ 30 / 2 ^ 26 == bf s.pprReq 13 12 * 4 + bf s.pprReq 15 14) ||
  (getStack s (g / 64)).retraining

/-- Whether an access of an agent on a die to a home waits just now: main memory holds it, or the die's port is frozen. -/
def accessHeld (s : State) (die pa place : Nat) : Bool :=
  (decide (place < mainTop) && mainHeld s pa place) || portFrozen s die place

/-- Whether an I/O access of an agent on a die must wait because the die's fabric port, which every access but one to a block of
the die itself passes, is frozen (25 R479). -/
def ioHeld (s : State) (die o : Nat) : Bool :=
  (getDie s die).frozen &&
    (match ioPlace o with
     | .reg b unit _ => !(ioPerDie b && unit == die)
     | .hostWindow _ _ | .storageSpace _ _ | .hole => true)

/-- Whether a walker's read of a table entry, on a die, is held just now. -/
def entryHeld (s : State) (die a : Nat) : Bool :=
  match physOf a, mainPlace s a with
  | .main _, some p => accessHeld s die a p
  | .die _ _, _ => portFrozen s die a
  | _, _ => false

/-- Whether a translation that no cached leaf gives comes to a table entry that is held just now: the walk, and the access, then
wait (18 R364 to R369, 25 R479). -/
def walkHeld (s : State) (q : Requester) (va : Nat) : Bool :=
  let read := fun a =>
    if entryHeld s (cacheDie (keyCache q.key)) a then .error true
    else
      match walkRead s a with
      | .ok e => .ok e
      | .error _ => .error false
  regionOf va == .translated && (cachedLeaf s (keyCache q.key) q.asid va).isNone &&
    (match walkPath s read (cacheDie (keyCache q.key)) q.asid va with
     | .error b => b
     | .ok _ => false)

/-- Whether the walk of some access of `n` bytes is held. -/
def walksHeld (s : State) (q : Requester) (n : Nat) (addrs : List Nat) : Bool :=
  addrs.any fun va => walkHeld s q va || walkHeld s q (lastByte va n)

/-- A write of the module's own within one line of main memory, which waits its turn while main memory holds it; a part of a
failed line is dropped (18 R348). -/
def postWrite (s : State) (pa slot : Nat) (bs : List Byte) : State :=
  match mainPlace s pa with
  | none => s
  | some p =>
    if mainHeld s pa p then { s with heldWrites := s.heldWrites ++ [⟨pa, slot, bs⟩] } else (mainWrite s p pa slot bs).1

/-- The module's own writes that were held are performed in their order, but for those that are held still (18 R369). -/
def releaseWrites (s : State) : State :=
  s.heldWrites.foldl (fun t w => postWrite t w.pa w.slot w.bytes) { s with heldWrites := [] }

/-- Whether what a requester has still to do at a home is dropped: it lies beyond the port of the requester's die, which is frozen
or was when the access was outstanding (25 R479). -/
def beyondPort (s : State) (q : Requester) (place : Nat) : Bool :=
  (q.cut || (getDie s (keyDie q.key)).frozen) && homeDie place != keyDie q.key

/-- Whether main memory holds some line of a run of physical addresses just now. -/
def runHeld (s : State) (pa n : Nat) : Bool :=
  (List.range ((pa % 64 + n + 63) / 64)).any fun i =>
    match mainPlace s (pa / 64 * 64 + 64 * i) with
    | some p => mainHeld s (pa / 64 * 64 + 64 * i) p
    | none => false

end Sys2Proof.Machine
end

