-- ==== Sys2Proof/Machine/Cells.lean ====
section
/-! DEFINITION. Sibling cells (16 R310 to R323): dots, tokens, the free list of groups, and the steps of R315 on one
cell. -/

namespace Sys2Proof.Machine

open Sys2Proof

/-- The first physical address of a die's sibling region. -/
def cellBase (d : Nat) : Nat := diePlace d 0x0F000000

/-- The die and the index of the cell at a home. -/
def cellDie (place : Nat) : Nat := (place - dieStoreBase) / 0x10000000
def cellIndex (place : Nat) : Nat := ((place - dieStoreBase) % 0x10000000 - 0x0F000000) / 8

/-- A die's cell. -/
def getCell (d : Die) (i : Nat) : Cell := mapGet {} d.cells i
def putCell (d : Die) (i : Nat) (c : Cell) : Die := { d with cells := mapPut {} d.cells i c }

/-- The context token (R311): the dots of slots 0 to 3. -/
def tokenOf (c : Cell) : Word :=
  BitVec.ofNat 64 (((c.sibs.map Prod.fst).zipIdx).foldl (fun acc e => acc + e.1.toNat * 2 ^ (16 * e.2)) 0)

/-- The nonzero dots of a token. -/
def tokenDots (t : Word) : List (BitVec 16) :=
  ((List.range 4).map fun j => BitVec.ofNat 16 (bf t (16 * j + 15) (16 * j))).filter (· != 0)

/-- A new dot (R312): GEN stepped past 0 and past the dots of survivors. -/
def stepDot (gen : BitVec 16) (survivors : List (BitVec 16)) : Nat → BitVec 16
  | 0 => gen + 1
  | n + 1 => if gen + 1 = 0 ∨ survivors.contains (gen + 1) then stepDot (gen + 1) survivors n else gen + 1

/-- The new dot of a cell whose survivors are given; at most four steps are skipped. -/
def newDot (c : Cell) (sibs : List (BitVec 16 × Word)) : BitVec 16 := stepDot c.gen (sibs.map Prod.fst) 5

/-- GFREE (R308): the groups on the free list. -/
def freeGroups (d : Die) : Nat := d.freed.length + (65536 - d.fresh)

/-- The group at the head of the free list, and the die without it (R310). -/
def takeGroup (d : Die) : Option (Nat × Die) :=
  match d.freed with
  | g :: rest => some (g, { d with freed := rest })
  | [] => if d.fresh < 65536 then some (d.fresh, { d with fresh := d.fresh + 1 }) else none

/-- A freed group is pushed at the head (R310). -/
def freeGroup (d : Die) (g : Nat) : Die := if g = 0 then d else { d with freed := g :: d.freed }

/-- The cell at `i` left with siblings and GEN; a count that falls to 1 frees its group, and one that rises from 1
takes one (R315). -/
def leaveSibs (d : Die) (i : Nat) (gen : BitVec 16) (sibs : List (BitVec 16 × Word)) : Die :=
  let c := getCell d i
  if sibs.length < 2 then putCell (freeGroup d c.link) i { c with gen := gen, sibs := sibs, link := 0 }
  else if c.link = 0 then
    match takeGroup d with
    | some (g, d) => putCell d i { c with gen := gen, sibs := sibs, link := g }
    | none => d
  else putCell d i { c with gen := gen, sibs := sibs }

/-- What a step on a cell gives: the die, the value or status, the token, the flags, and whether poison was met. -/
structure CellResult where
  die : Die
  value : Word := 0
  token : Word := 0
  flags : BitVec 6 := 0
  poison : Bool := false
  deriving DecidableEq, Repr

/-- The value of slot j, or 0 (R315). -/
def slotValue (c : Cell) (j : Nat) : Word := ((c.sibs.map Prod.snd)[j]?).getD 0

/-- m.ld, m.lds, s.ld and m.ldv of sibling j. -/
def cellRead (d : Die) (i j : Nat) : CellResult :=
  let c := getCell d i
  if c.poison then { die := d, poison := true } else { die := d, value := slotValue c j, token := tokenOf c }

/-- m.st and s.st: one sibling with a new dot; poison is cleared (R323). -/
def cellWrite (d : Die) (i : Nat) (x : Word) : CellResult :=
  let c := getCell d i
  if c.poison then
    { die := putCell (if c.groupBad then d else freeGroup d c.link) i { gen := 1, sibs := [(1, x)] } }
  else
    let g := newDot c []
    { die := leaveSibs d i g [(g, x)] }

/-- A collapse's fold of an older and a newer value under a page's SPOL and STYPE (R316). -/
def collapse (pol : Nat) (older newer : Word) : Word × BitVec 6 :=
  let ty := BitVec.ofNat 3 (pol / 8)
  match pol % 8 with
  | 0 => foldWords .add ty [older, newer]
  | 1 => foldWords .max ty [older, newer]
  | _ => foldWords .min ty [older, newer]

/-- The status word of m.stv (R320). -/
def statusWord (st : Nat) (dot : BitVec 16) : Word := BitVec.ofNat 64 (st + dot.toNat * 2 ^ 16)

/-- m.stv of a value under a token (R315, R316, R320). -/
def cellStv (d : Die) (i pol : Nat) (x tk : Word) : CellResult :=
  let c := getCell d i
  if c.poison then { die := d, poison := true }
  else
    let rest := c.sibs.filter fun e => !(tokenDots tk).contains e.1
    let refuse := pol % 8 == 3
    let dropped := { d with drop := d.drop + 1 }
    if rest.length = 4 then
      if refuse then { die := dropped, value := statusWord 2 0 }
      else
        match rest with
        | a :: b :: more =>
          let m := collapse pol a.2 b.2
          let sibs := (b.1, m.1) :: more
          let g := newDot c sibs
          { die := { leaveSibs d i g (sibs ++ [(g, x)]) with coll := d.coll + 1 }, value := statusWord 1 g, flags := m.2 }
        | _ => { die := d }
    else if c.sibs.length = 1 ∧ rest.length = 1 ∧ freeGroups d = 0 then
      if refuse then { die := dropped, value := statusWord 3 0 }
      else
        let m := collapse pol (slotValue c 0) x
        let g := newDot c []
        { die := { leaveSibs d i g [(g, m.1)] with coll := d.coll + 1 }, value := statusWord 3 g, flags := m.2 }
    else
      let g := newDot c rest
      { die := leaveSibs d i g (rest ++ [(g, x)]), value := statusWord 0 g }

/-- The fold of m.rcn (R317): 0 add, 1 max, 2 min, 3 or, 4 + j pick j. -/
def rcnFold (f ty : Nat) (vs : List Word) : Word × BitVec 6 :=
  let t := BitVec.ofNat 3 ty
  match f with
  | 0 => foldWords .add t vs
  | 1 => foldWords .max t vs
  | 2 => foldWords .min t vs
  | 3 => foldWords .or t vs
  | _ => ((vs[f - 4]?).getD (vs.headD 0), 0)

/-- m.rcn: one sibling, the fold, with a new dot (R315, R321). -/
def cellRcn (d : Die) (i f ty : Nat) : CellResult :=
  let c := getCell d i
  if c.poison then { die := d, poison := true }
  else
    let m := rcnFold f ty (c.sibs.map Prod.snd)
    let g := newDot c []
    { die := leaveSibs d i g [(g, m.1)], value := m.1, token := BitVec.ofNat 64 g.toNat, flags := m.2 }

end Sys2Proof.Machine
end

