-- ==== Sys2Proof/Machine/Aes.lean ====
section
/-! DEFINITION. AES-256 in the Galois/counter mode, which the spec names for integrity tags and for the capture of
confidential contexts (17 R332, 18 R348, 22 R441, 24 R472). A block is 16 bytes, first byte first. -/

namespace Sys2Proof.Machine

open Sys2Proof

/-- The AES substitution table. -/
def aesSbox : List Nat :=
  [0x63, 0x7C, 0x77, 0x7B, 0xF2, 0x6B, 0x6F, 0xC5, 0x30, 0x01, 0x67, 0x2B, 0xFE, 0xD7, 0xAB, 0x76] ++
  [0xCA, 0x82, 0xC9, 0x7D, 0xFA, 0x59, 0x47, 0xF0, 0xAD, 0xD4, 0xA2, 0xAF, 0x9C, 0xA4, 0x72, 0xC0] ++
  [0xB7, 0xFD, 0x93, 0x26, 0x36, 0x3F, 0xF7, 0xCC, 0x34, 0xA5, 0xE5, 0xF1, 0x71, 0xD8, 0x31, 0x15] ++
  [0x04, 0xC7, 0x23, 0xC3, 0x18, 0x96, 0x05, 0x9A, 0x07, 0x12, 0x80, 0xE2, 0xEB, 0x27, 0xB2, 0x75] ++
  [0x09, 0x83, 0x2C, 0x1A, 0x1B, 0x6E, 0x5A, 0xA0, 0x52, 0x3B, 0xD6, 0xB3, 0x29, 0xE3, 0x2F, 0x84] ++
  [0x53, 0xD1, 0x00, 0xED, 0x20, 0xFC, 0xB1, 0x5B, 0x6A, 0xCB, 0xBE, 0x39, 0x4A, 0x4C, 0x58, 0xCF] ++
  [0xD0, 0xEF, 0xAA, 0xFB, 0x43, 0x4D, 0x33, 0x85, 0x45, 0xF9, 0x02, 0x7F, 0x50, 0x3C, 0x9F, 0xA8] ++
  [0x51, 0xA3, 0x40, 0x8F, 0x92, 0x9D, 0x38, 0xF5, 0xBC, 0xB6, 0xDA, 0x21, 0x10, 0xFF, 0xF3, 0xD2] ++
  [0xCD, 0x0C, 0x13, 0xEC, 0x5F, 0x97, 0x44, 0x17, 0xC4, 0xA7, 0x7E, 0x3D, 0x64, 0x5D, 0x19, 0x73] ++
  [0x60, 0x81, 0x4F, 0xDC, 0x22, 0x2A, 0x90, 0x88, 0x46, 0xEE, 0xB8, 0x14, 0xDE, 0x5E, 0x0B, 0xDB] ++
  [0xE0, 0x32, 0x3A, 0x0A, 0x49, 0x06, 0x24, 0x5C, 0xC2, 0xD3, 0xAC, 0x62, 0x91, 0x95, 0xE4, 0x79] ++
  [0xE7, 0xC8, 0x37, 0x6D, 0x8D, 0xD5, 0x4E, 0xA9, 0x6C, 0x56, 0xF4, 0xEA, 0x65, 0x7A, 0xAE, 0x08] ++
  [0xBA, 0x78, 0x25, 0x2E, 0x1C, 0xA6, 0xB4, 0xC6, 0xE8, 0xDD, 0x74, 0x1F, 0x4B, 0xBD, 0x8B, 0x8A] ++
  [0x70, 0x3E, 0xB5, 0x66, 0x48, 0x03, 0xF6, 0x0E, 0x61, 0x35, 0x57, 0xB9, 0x86, 0xC1, 0x1D, 0x9E] ++
  [0xE1, 0xF8, 0x98, 0x11, 0x69, 0xD9, 0x8E, 0x94, 0x9B, 0x1E, 0x87, 0xE9, 0xCE, 0x55, 0x28, 0xDF] ++
  [0x8C, 0xA1, 0x89, 0x0D, 0xBF, 0xE6, 0x42, 0x68, 0x41, 0x99, 0x2D, 0x0F, 0xB0, 0x54, 0xBB, 0x16]

/-- SubBytes on one byte. -/
def aesSub (b : Byte) : Byte := BitVec.ofNat 8 (aesSbox.getD b.toNat 0)

/-- Multiplication by x in the AES field. -/
def aesDouble (b : Byte) : Byte := (b <<< 1) ^^^ (if b.getLsbD 7 then 0x1B else 0)

/-- The exclusive or of two runs of bytes. -/
def xorBytes : List Byte → List Byte → List Byte
  | a :: as, b :: bs => (a ^^^ b) :: xorBytes as bs
  | _, _ => []

/-- ShiftRows on a block in column order. -/
def aesShiftRows (st : List Byte) : List Byte :=
  [0, 5, 10, 15, 4, 9, 14, 3, 8, 13, 2, 7, 12, 1, 6, 11].map fun i => st.getD i 0

/-- MixColumns on a block in column order. -/
def aesMixColumns : List Byte → List Byte
  | a :: b :: c :: d :: rest =>
    (aesDouble a ^^^ aesDouble b ^^^ b ^^^ c ^^^ d) :: (a ^^^ aesDouble b ^^^ aesDouble c ^^^ c ^^^ d) ::
      (a ^^^ b ^^^ aesDouble c ^^^ aesDouble d ^^^ d) :: (aesDouble a ^^^ a ^^^ b ^^^ c ^^^ aesDouble d) ::
      aesMixColumns rest
  | _ => []

/-- One more word of the key schedule of a 32-byte key, given the words so far, latest first. -/
def aesNextWord (ws : List (List Byte)) (rcon : Byte) (i : Nat) : List Byte :=
  let temp := ws.headD []
  let old := ws.getD 7 []
  if i % 8 = 0 then
    match temp with
    | a :: b :: c :: d :: _ => xorBytes old [aesSub b ^^^ rcon, aesSub c, aesSub d, aesSub a]
    | _ => []
  else if i % 8 = 4 then xorBytes old (temp.map aesSub)
  else xorBytes old temp

/-- The key schedule, latest word first, from word `i` on for `n` words. -/
def aesExpand (ws : List (List Byte)) (rcon : Byte) (i : Nat) : Nat → List (List Byte)
  | 0 => ws
  | n + 1 => aesExpand (aesNextWord ws rcon i :: ws) (if i % 8 = 0 then aesDouble rcon else rcon) (i + 1) n

/-- A run of bytes cut into words of four. -/
def fourByFour : List Byte → List (List Byte)
  | a :: b :: c :: d :: rest => [a, b, c, d] :: fourByFour rest
  | _ => []

/-- The 60 words of a 32-byte key's schedule, in order. -/
def aesSchedule (key : List Byte) : List (List Byte) :=
  (aesExpand (fourByFour key).reverse 1 8 52).reverse

/-- The four words of a round as one block. -/
def roundKey (ks : List (List Byte)) (r : Nat) : List Byte := ((ks.drop (4 * r)).take 4).flatten

/-- Rounds 1 to 13. -/
def aesRounds (ks : List (List Byte)) (st : List Byte) (r : Nat) : Nat → List Byte
  | 0 => st
  | n + 1 =>
    aesRounds ks (xorBytes (aesMixColumns (aesShiftRows (st.map aesSub))) (roundKey ks r)) (r + 1) n

/-- AES-256 on one block under an expanded key. -/
def aesBlock (ks : List (List Byte)) (block : List Byte) : List Byte :=
  let st := aesRounds ks (xorBytes block (roundKey ks 0)) 1 13
  xorBytes (aesShiftRows (st.map aesSub)) (roundKey ks 14)

/-- A number as `n` bytes, highest first. -/
def bigEndian (x n : Nat) : List Byte := (toBytes x n).reverse

/-- Bytes, highest first, as a number. -/
def ofBigEndian (bs : List Byte) : Nat := ofBytes bs.reverse

/-- The product of GHASH, step by step over the bits of the first factor from its highest. -/
def ghashMul (x : Nat) (v z : Nat) : Nat → Nat
  | 0 => z
  | n + 1 =>
    let z := if x / 2 ^ n % 2 = 1 then Nat.xor z v else z
    let v := if v % 2 = 1 then Nat.xor (v / 2) (0xE1 * 2 ^ 120) else v / 2
    ghashMul x v z n

/-- Bytes cut into 16-byte blocks, the last padded with zeros; `fuel` bounds the number of blocks. -/
def blocksOf (bs : List Byte) : Nat → List (List Byte)
  | 0 => []
  | n + 1 =>
    match bs with
    | [] => []
    | _ => (bs.take 16 ++ List.replicate (16 - bs.length) 0) :: blocksOf (bs.drop 16) n

/-- GHASH of blocks under H. -/
def ghash (h : Nat) (blocks : List (List Byte)) : Nat :=
  blocks.foldl (fun y b => ghashMul (Nat.xor y (ofBigEndian b)) h 0 128) 0

/-- Counter-mode blocks from a counter up. -/
def counterStream (ks : List (List Byte)) (iv : List Byte) (c : Nat) : Nat → List Byte
  | 0 => []
  | n + 1 => aesBlock ks (iv ++ bigEndian c 4) ++ counterStream ks iv (c + 1) n

/-- AES-256-GCM under a 32-byte key and a 12-byte IV: the ciphertext and the 16-byte tag. -/
def gcmSeal (key iv aad plain : List Byte) : List Byte × List Byte :=
  let ks := aesSchedule key
  let h := ofBigEndian (aesBlock ks (List.replicate 16 0))
  let cipher := xorBytes plain (counterStream ks iv 2 (plain.length / 16 + 1))
  let sums := blocksOf aad (aad.length / 16 + 1) ++ blocksOf cipher (cipher.length / 16 + 1) ++
    [bigEndian (8 * aad.length) 8 ++ bigEndian (8 * cipher.length) 8]
  (cipher, xorBytes (bigEndian (ghash h sums) 16) (aesBlock ks (iv ++ bigEndian 1 4)))

/-- The leftmost 64 bits of AES-256-GMAC, as the eight bytes of a block record (17 R332, 22 R441). -/
def gmac64 (key iv aad : List Byte) : List Byte := (gcmSeal key iv aad []).2.take 8

end Sys2Proof.Machine
end

