-- ==== Sys2Proof/Machine/Trace.lean ====
section
/-! DEFINITION. Capture records of debug sessions and the log of the module controller (24 R469 to R472, 25 R479,
02 R47). -/

namespace Sys2Proof.Machine

open Sys2Proof

/-- Bits of IPEND set at a system core (02 R47). -/
def setIpend (s : State) (c bit : Nat) : State :=
  let x := getCtx s (systemBase + c)
  putCtx s (systemBase + c) { x with ipend := x.ipend ||| BitVec.ofNat 16 (2 ^ bit) }

/-- A bit of IPEND set on both system cores of a partition's lowest die (02 R47, which names them for bit 4). DESIGN CHOICE
(log entry 76): for bit 5 the table names no core, and the same two are taken. -/
def setIpendPart (s : State) (part bit : Nat) : State :=
  let d := part * (24 / s.partCount)
  setIpend (setIpend s (2 * d) bit) (2 * d + 1) bit

/-- An entry of the module controller's log for a partition's core (02 R47 bit 4). -/
def logEvent (s : State) (e : LogEntry) (part : Option Nat) : State :=
  let s := { s with log := s.log ++ [e] }
  match part with
  | some p => setIpendPart s p 4
  | none => s

/-- A strand's PC in the layout of R177 and R410: WI in [63:60], bits [56:2] of CA in [54:0]. A strand whose clause
has not begun stands at WI 0 (04 R84). -/
def pcWord (x : Strand) : Word :=
  BitVec.ofNat 64 ((if x.begun then x.wi.toNat else 0) * 2 ^ 60 + x.ca.toNat / 4 % 2 ^ 55)

/-- The eight doublewords of a capture record (24 R470). -/
def traceRecord (s : State) (kind code : Nat) (who : Agent) (mask data : Word) : List Word :=
  let c := getCtx s who.key
  let x := getStrand c who.slot
  [ BitVec.ofNat 64 (kind % 256 * 2 ^ 56 + code % 256 * 2 ^ 48 + s.time.toNat),
    BitVec.ofNat 64 (c.context.toNat * 2 ^ 32 + c.warpid.toNat * 2 ^ 27 + who.slot % 8 * 2 ^ 24 + locusOf who.key),
    if isSystem who.key then c.scratch0 else c.thread, c.launchid, c.wgid, pcWord x, mask, data ]

/-- The slot that a line's tag names. -/
def tagSlot (s : State) (pa : Nat) : Nat := (mapGet ({} : Line) s.lines (((mainPlace s pa).getD 0) / 64)).slot.toNat

/-- The key slot of a line of a session's buffer: the KEY of the page that holds it (24 R469, 18 R347). DESIGN CHOICE (log
entry 106): the pages are those that were mapped when the buffer was set; a line that none of them held is written under the
slot that its tag names. -/
def pageSlot (s : State) (e : Session) (pa : Nat) : Nat :=
  match listFind (fun p : Nat × Nat × BitVec 8 => decide (p.1 ≤ pa) && decide (pa < p.1 + p.2.1)) e.pages with
  | some p => p.2.2.toNat
  | none => tagSlot s pa

/-- One line of a session's buffer written whole under its page's own key (24 R469), once main memory does not hold it; under an
empty slot it is not performed. -/
def writeLineOwnKey (s : State) (e : Session) (pa : Nat) (bs : List Byte) : State :=
  if keyLoaded s (pageSlot s e pa) then postWrite s pa (pageSlot s e pa) bs else s

/-- Lines written one after the other. -/
def writeLinesOwnKey (s : State) (e : Session) (pa : Nat) : List (List Byte) → State
  | [] => s
  | l :: rest => writeLinesOwnKey (writeLineOwnKey s e pa l) e (pa + 64) rest

/-- The bytes of doublewords. -/
def wordsBytes (ws : List Word) : List Byte := ws.flatMap fun w => toBytes w.toNat 8

/-- Bytes cut into lines of 64. -/
def linesOf (bs : List Byte) : Nat → List (List Byte)
  | 0 => []
  | n + 1 => bs.take 64 :: linesOf (bs.drop 64) n

/-- The lowest trace key assigned to a context, as its 32 bytes, if one is loaded (24 R472, 25 R486). -/
def traceKey (s : State) (context : BitVec 32) : Option (List Byte) :=
  match listFind (fun k => (getKey s 2 k).context == context && (getKey s 2 k).part.isSome) (List.range 256) with
  | some k => (getKey s 2 k).key
  | none => none

/-- Whether a context is marked confidential (25 R486). -/
def isConfidential (s : State) (context : BitVec 32) : Bool := mapGet false s.confidential context.toNat

/-- A chunk of a confidential capture (24 R472): its plaintext header, 62 encrypted slots, and the tag. -/
def sealedChunk (s : State) (e : Session) (recs : List (List Word)) (number : Nat) : Option (List Byte) :=
  match traceKey s e.context with
  | none => none
  | some key =>
    let header := toBytes (number % 2 ^ 32 + recs.length % 256 * 2 ^ 32) 64
    let plain := recs.flatMap wordsBytes
    let padded := plain ++ List.replicate (3968 - plain.length) 0
    let r := gcmSeal key (bigEndian e.nonce.toNat 8 ++ bigEndian (number % 2 ^ 32) 4) header padded
    some (header ++ r.1 ++ r.2 ++ List.replicate 48 0)

/-- Whether a session's scope covers a context in a partition (24 R462). -/
def inScope (e : Session) (context : BitVec 32) (part : Nat) : Bool :=
  e.isOpen && (e.maker || (e.context == context && e.part == part))

/-- The partitions of a session's scope. -/
def sessionParts (s : State) (e : Session) : List Nat := if e.maker then List.range s.partCount else [e.part]

/-- A bit of IPEND set for partitions. -/
def notifyParts (s : State) (bit : Nat) : List Nat → State
  | [] => s
  | p :: rest => notifyParts (setIpendPart s p bit) bit rest

/-- Whether the records of a warp are sealed (24 R472): its launch was accepted of a context then marked confidential (25 R486).
A system core's are told by its context's mark. -/
def sealsWarp (s : State) (key : Nat) : Bool :=
  if isSystem key then isConfidential s (getCtx s key).context else (launchOf s key).confidential

/-- Whether what a session captures of no warp is sealed. DEDUCED (log entry 44): some running launch of its context was
accepted confidential; where none runs, the context's mark tells. -/
def sealsSession (s : State) (e : Session) : Bool :=
  let mine := (getPart s e.part).launches.filter fun l => l.2.live && l.2.context == e.context
  !e.maker && (if mine.isEmpty then isConfidential s e.context else mine.any fun l => l.2.confidential)

/-- How many lines of 64 bytes a session's buffer holds: a record takes one, a chunk 64. -/
def bufferRoom (e : Session) : Nat := 2 ^ e.bufLog2 / 64

/-- Whether a buffer in stop mode is full (24 R469). -/
def bufferFull (e : Session) : Bool := e.stopMode && decide (bufferRoom e ≤ e.written)

/-- The lines of a session's buffer written up to a count; one that fills a buffer in stop mode sets IPEND[5] (02 R47). -/
def countWritten (s : State) (k n : Nat) : State :=
  let e := { getSession s k with written := n }
  let s := putSession s k e
  if bufferFull e then notifyParts s 5 (sessionParts s e) else s

/-- The records gathered for a chunk sealed and written, under the next number of the session (24 R472). DESIGN CHOICE (log
entry 77): without a trace key the chunk is dropped, since no plaintext may leave; a chunk begins at a multiple of 4 KiB, past
the plain records of an earlier launch, and one for which a buffer in stop mode has no room left is dropped and counted. -/
def flushChunk (s : State) (k : Nat) : State :=
  let e := getSession s k
  let at_ := (e.written + 63) / 64 * 64
  match sealedChunk s e e.chunk e.chunkNo with
  | none => putSession s k { e with chunk := [] }
  | some bs =>
    if bufferFull { e with written := at_ } then
      countWritten (putSession s k { e with chunk := [], lost := e.lost + e.chunk.length }) k at_
    else
      let s := writeLinesOwnKey s e (e.bufBase + 64 * (at_ % bufferRoom e)) (linesOf bs 64)
      countWritten (putSession s k { e with chunk := [], chunkNo := e.chunkNo + 1 }) k (at_ + 64)

/-- One record into one session's buffer, sealed or plain (24 R469, R472); a full buffer in stop mode drops and counts it. No
plaintext record of a confidential context leaves the chip, so a maker session captures none of one, and none of one in a
partition of more than four dies is captured. -/
def captureInto (s : State) (k : Nat) (isSealed : Bool) (words : List Word) : State :=
  let e := getSession s k
  if !e.capturing || e.frozenBuf || !e.configured || (isSealed && (e.maker || decide (4 < 24 / s.partCount))) then s
  else if bufferFull e then putSession s k { e with lost := e.lost + 1 }
  else if isSealed then
    let s := putSession s k { e with chunk := e.chunk ++ [words] }
    if e.chunk.length + 1 < 62 then s else flushChunk s k
  else
    countWritten (writeLineOwnKey s e (e.bufBase + 64 * (e.written % bufferRoom e)) (wordsBytes words)) k (e.written + 1)

/-- A record of a warp's offered to every session that captures its kind in its scope. -/
def capture (s : State) (kind key : Nat) (words : List Word) : State :=
  let context := (getCtx s key).context
  let part := partOf s (keyDie key)
  s.sessions.foldl
    (fun acc p =>
      if inScope p.2 context part && p.2.kinds.getLsbD kind then captureInto acc p.1 (sealsWarp s key) words else acc)
    s

/-- A capture record of a strand's event (24 R470). -/
def captureStrand (s : State) (kind code : Nat) (who : Agent) (mask data : Word) : State :=
  capture s kind who.key (traceRecord s kind code who mask data)

/-- A record of a session's own, of kind 6, 7 or 11 (24 R470). DESIGN CHOICE (log entry 77): no strand makes it, and the fields
of the joined name and of the PC hold zero. -/
def sessionRecord (s : State) (kind : Nat) (data : Word) : List Word :=
  [BitVec.ofNat 64 (kind % 256 * 2 ^ 56 + s.time.toNat), 0, 0, 0, 0, 0, 0, data]

/-- A record of a session's own into its buffer, if it captures the kind. -/
def captureOwn (s : State) (k kind : Nat) (data : Word) : State :=
  let e := getSession s k
  if e.kinds.getLsbD kind then captureInto s k (sealsSession s e) (sessionRecord s kind data) else s

/-- Capture switched on in a session, with the records of kinds 6 and 11 (24 R469 to R471). DESIGN CHOICE (log entry 77): a
full buffer in stop mode stays full until the session sets a buffer anew, and the count of the records that it dropped is
written when capture resumes in one that has room. -/
def startCaptureIn (s : State) (k : Nat) : State :=
  let e := getSession s k
  let s := putSession s k { e with capturing := true, frozenBuf := false }
  let s := captureOwn s k 6 0
  if e.lost = 0 ∨ bufferFull (getSession s k) = true then s
  else captureOwn (putSession s k { getSession s k with lost := 0 }) k 11 (BitVec.ofNat 64 e.lost)

/-- A session's buffer frozen, marked by a record of kind 7 (24 R471); a chunk that has been begun is written as it is. -/
def freezeCaptureIn (s : State) (k : Nat) : State :=
  let s := captureOwn s k 7 0
  let s := if (getSession s k).chunk.isEmpty then s else flushChunk s k
  putSession s k { getSession s k with frozenBuf := true }

/-- A system-core event of 24 R471, told by whether a trigger's value names it: its triggers take effect, and its
record of kind 5 is offered. -/
def systemEventBy (s : State) (key event : Nat) (names : Word → Bool) : State :=
  let part := partOf s (keyDie key)
  let s := s.sessions.foldl
    (fun acc p =>
      if p.2.isOpen && (p.2.maker || p.2.part == part) then
        p.2.triggers.foldl
          (fun acc t =>
            if t.2.1 == event && names t.2.2.1 then
              (if t.2.2.2 then freezeCaptureIn acc p.1 else startCaptureIn acc p.1)
            else acc)
          acc
      else acc)
    s
  capture s 5 key (traceRecord s 5 event ⟨key, 0⟩ 0 0)

/-- A system-core event with one value: an ASID, a SWCODE, or none for a panic. -/
def systemEvent (s : State) (key event : Nat) (value : Word) : State :=
  systemEventBy s key event fun v => event == 4 || v == value

end Sys2Proof.Machine
end

