-- ==== Sys2Proof/Machine/Replay.lean ====
section
/-! DEFINITION. The recording of a launch's events and the forcing of recorded choices in a replay (24 R473 to R476).
An entry is 32 bytes of main memory; entry i lies at the log's base + 32 × (i − 1). -/

namespace Sys2Proof.Machine

open Sys2Proof

/-- The launch of a warp changed. -/
def updLaunch (s : State) (key : Nat) (f : Launch → Launch) : State :=
  let part := partOf s (keyDie key)
  let p := getPart s part
  let id := (getCtx s key).launchid.toNat
  putPart s part (putLaunch p id (f (getLaunch p id)))

/-- What a recorded event is told by: its kind, its place, the strand. -/
structure Mark where
  kind : Nat
  place : Nat
  who : Agent
  deriving DecidableEq, Repr

/-- An entry's doublewords 0 to 2 for an event (24 R474). -/
def entryHead (s : State) (m : Mark) (index : Nat) : List Word :=
  let c := getCtx s m.who.key
  [ BitVec.ofNat 64 (index % 2 ^ 48 + m.kind % 256 * 2 ^ 48 + m.who.slot % 8 * 2 ^ 56 + c.warpid.toNat * 2 ^ 59),
    c.wgid, BitVec.ofNat 64 m.place ]

/-- Bytes of main memory written, of two lines at most, each under the slot that its tag names. -/
def writeOwnKey (s : State) (pa : Nat) (bs : List Byte) : State :=
  let n := 64 - pa % 64
  let s := postWrite s pa (tagSlot s pa) (bs.take n)
  if bs.length ≤ n then s else postWrite s (pa + n) (tagSlot s (pa + n)) (bs.drop n)

/-- An event of a launch that is being recorded is appended to its log, while entries are left. -/
def recordEvent (s : State) (m : Mark) (value : Word) : State :=
  let l := launchOf s m.who.key
  if !isSystem m.who.key && l.recording && decide (l.logNext ≤ l.logLimit) then
    let s := writeOwnKey s (l.logBase + 32 * (l.logNext - 1)) (wordsBytes (entryHead s m l.logNext ++ [value]))
    updLaunch s m.who.key fun l => { l with logNext := l.logNext + 1 }
  else s

/-- The doublewords of a log entry. -/
def logEntry (s : State) (l : Launch) (index : Nat) : List Word :=
  let at_ := l.logBase + 32 * (index - 1)
  let byte := fun a => ((mainPlace s a).map (readByte s)).getD 0
  if (mainPlace s at_).isNone then []
  else (List.range 4).map fun j => BitVec.ofNat 64 (ofBytes ((List.range 8).map fun i => byte (at_ + 8 * j + i)))

/-- What a replay says of an event that is about to happen. -/
inductive Gate where
  /-- the launch is not replayed, or its log holds no more entries of this place -/
  | live
  /-- an earlier entry of this place belongs to another strand, or main memory holds the log: the event waits -/
  | early
  /-- the event is entry `index`, whose recorded value is `value` -/
  | entry (index : Nat) (value : Word)
  deriving DecidableEq, Repr

/-- Whether a log entry is of an event's place. Steps at a home are told by their address alone; rings and group-store
addresses belong to a workgroup; waits, forks and reads of TIME or LOCUS are a strand's own. -/
def samePlace (s : State) (m : Mark) (w0 w1 w2 : Word) : Bool :=
  let c := getCtx s m.who.key
  bf w0 55 48 == m.kind && w2.toNat == m.place &&
    (if 5 ≤ m.kind then w1 == c.wgid && bf w0 58 56 == m.who.slot && bf w0 63 59 == c.warpid.toNat
     else if m.kind = 4 ∨ groupBase ≤ m.place then w1 == c.wgid
     else true)

/-- Whether main memory holds a launch's log just now (18 R364 to R369). -/
def logHeld (s : State) (l : Launch) : Bool := runHeld s l.logBase (32 * l.logLimit)

/-- The gate of an event: the first entry of its place that the replay has not met yet (24 R475). A launch that has been ended
issues nothing more, and what it has issued waits for nothing. -/
def gateOf (s : State) (m : Mark) : Gate :=
  let l := launchOf s m.who.key
  if isSystem m.who.key || !l.replaying || l.ending then .live
  else if logHeld s l then .early
  else
    let fresh := ((List.range l.logLimit).map (· + 1)).filter fun i => !l.replayed.contains i
    let same := fun i =>
      match logEntry s l i with
      | [w0, w1, w2, _] => samePlace s m w0 w1 w2
      | _ => false
    match listFind same fresh with
    | none => .live
    | some i =>
      match logEntry s l i with
      | [w0, w1, _, w3] =>
        let c := getCtx s m.who.key
        if bf w0 58 56 == m.who.slot && bf w0 63 59 == c.warpid.toNat && w1 == c.wgid then .entry i w3 else .early
      | _ => .live

/-- The value that a replay forces on an event, if it holds one (24 R475). -/
def forcedValue (s : State) (m : Mark) : Option Word :=
  match gateOf s m with
  | .entry _ v => some v
  | _ => none

/-- Whether no event of several waits for an earlier one. -/
def gatesOpen (s : State) (ms : List Mark) : Bool :=
  ms.all fun m =>
    match gateOf s m with
    | .early => false
    | .live | .entry _ _ => true

/-- Events that have happened meet their entries in turn. The first whose value differs is captured with both values, and the
launch runs on live; it is given with its index and its live value (24 R476). -/
def meetEvents (s : State) : List (Mark × Word) → State × Option (Nat × Word)
  | [] => (s, none)
  | (m, v) :: rest =>
    match gateOf s m with
    | .entry i old =>
      let s := updLaunch s m.who.key fun l => { l with replayed := l.replayed ++ [i] }
      if old = v then meetEvents s rest
      else
        let s := captureStrand s 8 0 m.who (getStrand (getCtx s m.who.key) m.who.slot).mask (BitVec.ofNat 64 i)
        let s := captureStrand s 9 0 m.who old v
        (updLaunch s m.who.key fun l => { l with replaying := false }, some (i, v))
    | .live | .early => meetEvents s rest

/-- Whether a warp's launch is replayed. -/
def replays (s : State) (key : Nat) : Bool := !isSystem key && (launchOf s key).replaying

end Sys2Proof.Machine
end

