-- ==== Sys2Proof/Machine/Home.lean ====
section
/-! DEFINITION. Performing memory operations (12 R246 to R261, 15 R290 to R303, 16 R314): which access may be
performed, what it does at its home, and how its result fills registers. A context's operations stand in issue order;
a store is buffered until it is performed at its home; its own strand reads it at once, the others of its warp from when it
is performed at warp scope, and no one else before it reaches its home (15 R292). -/

namespace Sys2Proof.Machine

open Sys2Proof

/-! ## Kinds -/

/-- Whether an operation counts as a load or an atomic for ordering (16 R314 for the sibling forms). -/
def opReads (k : OpKind) : Bool :=
  match k with
  | .load _ _ | .loadSplat _ _ | .scalarLoad _ _ | .atomic _ _ _ | .scalarAtomic _ | .arrive => true
  | .cellLdv | .cellStv | .cellRcn _ _ => true
  | .store | .fence _ _ | .longResult | .launch _ => false

/-- Whether an operation counts as a store or an atomic for ordering. -/
def opWrites (k : OpKind) : Bool :=
  match k with
  | .store | .atomic _ _ _ | .scalarAtomic _ | .arrive | .cellStv | .cellRcn _ _ => true
  | .load _ _ | .loadSplat _ _ | .scalarLoad _ _ | .cellLdv => false
  | .fence _ _ | .longResult | .launch _ => false

/-- Whether an operation accesses memory. -/
def opAccesses (k : OpKind) : Bool := opReads k || opWrites k

/-! ## Results that land later -/

/-- An operation of a context by its number. -/
def findOp (c : Ctx) (id : Nat) : Option MemOp := listFind (fun o : MemOp => o.id == id) c.ops

/-- A context without an operation. -/
def dropOp (c : Ctx) (id : Nat) : Ctx := { c with ops := c.ops.filter fun o => o.id != id }

/-- A context with an operation replaced. -/
def replaceOp (c : Ctx) (o : MemOp) : Ctx :=
  { c with ops := c.ops.map fun p => if p.id = o.id then o else p }

/-- Lanes filled by long results, with their flags (07 R148). -/
def fillLanes (c : Ctx) (dst : Nat) : List Access → Ctx
  | [] => c
  | a :: rest =>
    fillLanes (orFlags (putV c (dst + a.reg) a.lane { val := BitVec.ofNat 64 a.data, poison := a.poison }) a.flags) dst
      rest

/-- Every long vector result of a context lands (21 R409: the long instructions of R150). -/
def settleLong (c : Ctx) : Ctx :=
  let longs := c.ops.filter fun o => o.kind == .longResult
  let c := longs.foldl (fun c o => fillLanes c o.dst (o.accs.filter fun a => !a.done)) c
  { c with ops := c.ops.filter fun o => o.kind != .longResult }

/-! ## Bytes -/

/-- Writes to a watched doubleword make the core read it again (13 R268). -/
def notePark (s : State) (place n : Nat) : State :=
  if place < 2 ^ 56 then s
  else
    let core := (place - 2 ^ 56) / 131072
    let p := (place - 2 ^ 56) % 131072
    (getCore s core).park.foldl
      (fun acc e =>
        if e.2.valid && decide (p / 8 ≤ e.2.dw.toNat) && decide (e.2.dw.toNat ≤ (p + n - 1) / 8) then
          later acc (.event .parkWake { place := core, id := e.1 })
        else acc)
      s

/-- Bytes written at a home by an agent. -/
def storeHome (s : State) (place : Nat) (bs : List Byte) (bad : Bool := false) : State :=
  notePark (writeBytes s place bs bad) place bs.length

/-- An access's bytes written at its home; a part of a failed line of main memory is dropped (18 R348). -/
def storeAccess (s : State) (a : Access) (x : Nat) : State :=
  if a.place < mainTop then (mainWrite s a.place a.pa a.pol (toBytes x a.len)).1
  else storeHome s a.place (toBytes x a.len)

/-- The byte that a warp's buffered stores hold for a home, the latest first (15 R292). -/
def forwarded (ops : List MemOp) (p : Nat) : Option Byte :=
  ops.foldl
    (fun acc o =>
      if o.kind = .store then
        o.accs.foldl
          (fun acc a =>
            if !a.done && !a.cell && decide (a.place ≤ p) && decide (p < a.place + a.len) then
              some (BitVec.ofNat 8 (a.data / 256 ^ (p - a.place)))
            else acc)
          acc
      else acc)
    none

/-- The operations of a list as one sees them that has some of them before it: of the others, only the accesses that are
performed at warp scope (15 R291, R292). -/
def seenOps (mine : MemOp → Bool) (ops : List MemOp) : List MemOp :=
  ops.map fun p => if mine p then p else { p with accs := p.accs.filter fun b => b.shown }

/-- What a load of a run reads, under its warp's earlier stores, and whether poisoned or failed bytes are in it. -/
def loadBytes (s : State) (earlier : List MemOp) (place n pa slot : Nat) : Nat × Bool :=
  let fwd := (List.range n).map fun k => forwarded earlier (place + k)
  let bytes := fwd.zipIdx.map fun e => e.1.getD (readByte s (place + e.2))
  let own := fwd.zipIdx.filter fun e => e.1.isNone
  (ofBytes bytes,
    own.any (fun e => poisonedRun s (place + e.2) 1) ||
      (decide (place < mainTop) && !own.isEmpty && !lineOk s place pa slot))

/-! ## Which access may be performed (12 R247, 15 R293, R303) -/

/-- Two accesses touch a common byte. -/
def meetsAccess (a b : Access) : Bool :=
  decide (a.place < b.place + b.len) && decide (b.place < a.place + a.len)

/-- An earlier access `b` of operation `p` must be performed before access `a` of operation `o`: a common byte, when
the earlier one is of the same strand (a load is served by a buffered store instead), or when both write; and the orders
that SIZING adds. -/
def blocks (o : MemOp) (a : Access) (p : MemOp) (b : Access) : Bool :=
  let mine := o.prior.contains p.id
  !b.done &&
    ((meetsAccess a b &&
        (if a.cell then mine
         else (opWrites o.kind && (opWrites p.kind || mine)) || (opReads o.kind && opReads p.kind && mine))) ||
      ((o.sizing || o.lg || p.lg) && mine && decide (mainTop ≤ a.place) && decide (mainTop ≤ b.place) &&
        ((opReads o.kind && opReads p.kind) || (opWrites o.kind && opWrites p.kind))))

/-- The operations of a context that issued before one. -/
def earlierOps (c : Ctx) (id : Nat) : List MemOp := c.ops.takeWhile fun p => p.id != id

/-- Whether every access of the given kinds in a list of operations is performed, but for those that are not counted; at warp
scope a store that is shown is. -/
def countedDone (ops : List MemOp) (counts : MemOp → Bool) (reads stores atWarp : Bool) : Bool :=
  ops.all fun p => !counts p || !((reads && opReads p.kind) || (stores && opWrites p.kind)) ||
    p.accs.all fun b => b.done || (atWarp && b.shown)

/-- What an operation's strand had issued before it is performed (12 R256, R259). -/
def priorDone (ops : List MemOp) (o : MemOp) (reads stores : Bool) (atWarp : Bool := false) : Bool :=
  countedDone ops (fun p => o.prior.contains p.id) reads stores atWarp

/-- The strand's earlier accesses are performed (12 R256, R259). -/
def strandDone (ops : List MemOp) (slot : Nat) (reads stores : Bool) (atWarp : Bool := false) : Bool :=
  countedDone ops (fun p => p.order.getLsbD slot) reads stores atWarp

/-- What a release fence releases of the operations before it: the stores that have not reached their homes (15 R294). -/
def releaseOps (mine : MemOp → Bool) (ops : List MemOp) : List MemOp :=
  ops.map fun p => if mine p && p.kind == .store && p.accs.any (fun b => !b.done) then { p with released := true } else p

/-- A strand that has passed an acquire fence has the released stores before its next access, so that its own release fence
waits for them (15 R294, R296). -/
def acquireOps (slot : Nat) (ops : List MemOp) : List MemOp :=
  ops.map fun p => if p.released then { p with order := p.order ||| BitVec.ofNat 8 (2 ^ slot) } else p

/-- Whether access `i` of an operation may be performed now. -/
def accessReady (s : State) (c : Ctx) (o : MemOp) (i : Nat) (a : Access) : Bool :=
  let before := earlierOps c o.id
  (before.all fun p => p.accs.all fun b => !blocks o a p b) &&
    (o.kind != .store || (o.accs.take i).all fun b => b.done || !meetsAccess a b) &&
    (o.kind != .arrive || priorDone before o true true) &&
    !(decide (a.place < mainTop) && mainHeld s a.pa a.place)

/-! ## Steps at a home -/

/-- op(v, x) of 12 R252 at 8n bits: add min max minn maxn and or xor, 8 exchange; 9 compare-and-swap of an expected
value. -/
def atomicOp (f n v x expected : Nat) : Nat :=
  let w := 8 * n
  match f with
  | 0 => (v + x) % 2 ^ w
  | 1 => if toSigned v w ≤ toSigned x w then v else x
  | 2 => if toSigned x w ≤ toSigned v w then v else x
  | 3 => min v x
  | 4 => max v x
  | 5 => Nat.land v x
  | 6 => Nat.lor v x
  | 7 => Nat.xor v x
  | 8 => x
  | _ => if v = expected then x else v

/-- The functions of s.amo in the numbering of `atomicOp` (05 R123: add and or xor max min xchg cas). -/
def amoFunction (f : Nat) : Nat :=
  match f with
  | 0 => 0 | 1 => 5 | 2 => 6 | 3 => 7 | 4 => 2 | 5 => 1 | 6 => 8 | _ => 9

/-- The step of m.arrive on a barrier word (12 R256). -/
def arriveWord (w : Word) : Word :=
  let ex := bf w 15 0
  let ar := bf w 31 16
  let ph := bf w 47 32
  if ex ≤ ar + 1 then BitVec.ofNat 64 (place (bf w 63 48) 63 48 + place (ph + 1) 47 32 + ex)
  else BitVec.ofNat 64 (place (bf w 63 48) 63 48 + place ph 47 32 + place (ar + 1) 31 16 + ex)

/-- The lanes of one indivisible atomic step, in ascending order, from the value at the home: the value left and
each lane's old value. -/
def atomicLanes (f n : Nat) : Nat → List Access → Nat × List Access
  | v, [] => (v, [])
  | v, a :: rest =>
    let r := atomicLanes f n (atomicOp f n v a.data a.data2) rest
    (r.1, { a with done := true, result := v } :: r.2)

/-- Accesses done with poison. -/
def poisonAll (as : List Access) : List Access := as.map fun a => { a with done := true, poison := true }

/-- One step on a sibling cell (16 R315). -/
def cellStepOn (d : Die) (k : OpKind) (a : Access) : CellResult :=
  let i := cellIndex a.place
  match k with
  | .store => cellWrite d i (BitVec.ofNat 64 a.data)
  | .cellLdv => cellRead d i a.data2
  | .cellStv => cellStv d i a.pol (BitVec.ofNat 64 a.data) (BitVec.ofNat 64 a.data2)
  | .cellRcn f ty => cellRcn d i f ty
  | _ => cellRead d i 0

/-- Consecutive steps on a cell, lane by lane (16 R318); the accesses come back done, with their flags. -/
def cellLanes (d : Die) (k : OpKind) : List Access → Die × List Access
  | [] => (d, [])
  | a :: rest =>
    let r := cellStepOn d k a
    let t := cellLanes r.die k rest
    (t.1, { a with done := true, result := r.value.toNat, result2 := r.token.toNat, flags := r.flags, poison := r.poison }
      :: t.2)

/-- An access performed as plain bytes at its home: for the sibling forms, an access that a stale translation carries
to a region that is not enabled (16 R309). -/
def plainStep (s : State) (earlier : List MemOp) (k : OpKind) (a : Access) : State × Access :=
  match k with
  | .store => (storeAccess s a a.data, { a with done := true })
  | .cellStv => (storeAccess s a a.data, { a with done := true, result := 0 })
  | _ =>
    let r := loadBytes s earlier a.place a.len a.pa a.pol
    (s, { a with done := true, result := r.1, result2 := 0, poison := r.2 })

/-- Plain steps, lane by lane. -/
def plainLanes (s : State) (earlier : List MemOp) (k : OpKind) : List Access → State × List Access
  | [] => (s, [])
  | a :: rest =>
    let r := plainStep s earlier k a
    let t := plainLanes r.1 earlier k rest
    (t.1, r.2 :: t.2)

/-- An atomic step at a home; poisoned or failed bytes leave it unperformed at that address (21 R417). -/
def atomicHome (s : State) (f n : Nat) (as : List Access) : State × List Access :=
  match as with
  | [] => (s, [])
  | a :: _ =>
    if poisonedRun s a.place n then (s, poisonAll as)
    else
      let v := readNat s a.place n
      let r := atomicLanes f n v as
      (if r.1 = v then s else storeHome s a.place (toBytes r.1 n), r.2)

/-- The step of m.arrive at its home. -/
def arriveHome (s : State) (as : List Access) : State × List Access :=
  match as with
  | [] => (s, [])
  | a :: _ =>
    if poisonedRun s a.place 8 then (s, poisonAll as)
    else
      let w := BitVec.ofNat 64 (readNat s a.place 8)
      (storeHome s a.place (toBytes (arriveWord w).toNat 8),
        as.map fun b => { b with done := true, result := bf w 47 32, result2 := w.toNat })

/-- The accesses of one step with their results: a sibling cell, an atomic's address, or plain bytes. -/
def performUnit (s : State) (earlier : List MemOp) (o : MemOp) (as : List Access) : State × List Access :=
  match as with
  | [] => (s, [])
  | a :: _ =>
    if a.cell && siblingEnabled s (cellDie a.place) then
      let r := cellLanes (getDie s (cellDie a.place)) o.kind as
      (putDie s (cellDie a.place) r.1, r.2)
    else
      match o.kind with
      | .atomic f n _ => atomicHome s f n as
      | .scalarAtomic f => atomicHome s (amoFunction f) 8 as
      | .arrive => arriveHome s as
      | k => plainLanes s earlier k as

/-- Whether access `b` belongs to the same step as access `a` (number `i`) of an operation: the lanes of an atomic or a
sibling form that name one place, and all lanes of m.lds. -/
def sameStep (o : MemOp) (i : Nat) (a : Access) (j : Nat) (b : Access) : Bool :=
  !b.done &&
    (j == i ||
      (b.place == a.place &&
        (match o.kind with
         | .atomic _ _ _ | .loadSplat _ _ | .cellLdv | .cellStv | .cellRcn _ _ => true
         | _ => false)))

/-- The accesses of an operation with those of one step replaced by their results. -/
def mergeStep (o : MemOp) (i : Nat) (a : Access) : Nat → List Access → List Access → List Access
  | _, [], _ => []
  | j, b :: rest, rs =>
    if sameStep o i a j b then
      match rs with
      | r :: more => r :: mergeStep o i a (j + 1) rest more
      | [] => b :: mergeStep o i a (j + 1) rest []
    else b :: mergeStep o i a (j + 1) rest rs

/-- The accesses of the step to which access `i` of an operation belongs. -/
def stepAccesses (o : MemOp) (i : Nat) (a : Access) : List Access :=
  (o.accs.zipIdx.filter fun e => sameStep o i a e.2 e.1).map Prod.fst

/-! ## Recording (24 R473, R474) -/

/-- WHERE of an event at a home: the physical address, or the window address in a group store. -/
def whereOf (s : State) (key place : Nat) : Nat :=
  if place < 2 ^ 56 then place else groupBase + ((place - 2 ^ 56) % 131072 - (wgOf s key).gbase)

/-- The entries of a performed access of a cell. -/
def cellMarks (s : State) (key : Nat) (o : MemOp) (a : Access) : List (Mark × Word) :=
  let m := fun k => (⟨k, whereOf s key a.place, ⟨key, o.slot⟩⟩ : Mark)
  let value := if o.kind = .store then 0 else BitVec.ofNat 64 a.result
  match o.kind with
  | .cellLdv | .cellRcn _ _ => [(m 2, value), (m 3, BitVec.ofNat 64 a.result2)]
  | _ => [(m 2, value)]

/-- The recorded events of one performed step. -/
def stepMarks (s : State) (key : Nat) (o : MemOp) (as : List Access) : List (Mark × Word) :=
  match as with
  | [] => []
  | a :: _ =>
    if a.cell then as.flatMap (cellMarks s key o)
    else
      match o.kind with
      | .atomic _ _ _ | .scalarAtomic _ => [(⟨1, whereOf s key a.place, ⟨key, o.slot⟩⟩, BitVec.ofNat 64 a.result)]
      | .arrive => [(⟨1, whereOf s key a.place, ⟨key, o.slot⟩⟩, BitVec.ofNat 64 a.result2)]
      | _ => []

/-- Events recorded one after the other. -/
def recordAll (s : State) : List (Mark × Word) → State
  | [] => s
  | (m, v) :: rest => recordAll (recordEvent s m v) rest

/-- The steps of a wholly performed operation as recorded events, place by place. -/
def opMarks (s : State) (key : Nat) (o : MemOp) : List (Mark × Word) :=
  let firsts := o.accs.zipIdx.filter fun e => (o.accs.take e.2).all fun b => b.place != e.1.place
  firsts.flatMap fun e => stepMarks s key o (o.accs.filter fun b => b.place == e.1.place)

/-- What a step of an operation comes to in a replay: it meets its entries, and its strand, which waits for it, learns of the
first that differs (24 R475, R476). -/
def meetStep (s : State) (key : Nat) (o : MemOp) (as : List Access) : State :=
  match meetEvents s (stepMarks s key o as) with
  | (t, none) => t
  | (t, some d) =>
    let x := getStrand (getCtx t key) o.slot
    match x.replayOp with
    | some r =>
      if r.id = o.id ∧ r.diverged = none then
        putCtx t key (putStrand (getCtx t key) o.slot { x with replayOp := some { r with diverged := some d } })
      else t
    | none => t

/-! ## Performing -/

/-- Access `i` of an operation performed, with the others of its step; the flags of a sibling merge are ORed in
(16 R316, R321), a recorded launch logs the step, and in a replay it meets its entries. -/
def performAt (s : State) (key id i : Nat) : State :=
  let c := getCtx s key
  match findOp c id with
  | none => s
  | some o =>
    match o.accs[i]? with
    | none => s
    | some a =>
      if a.done then s
      else
        let as := stepAccesses o i a
        let r := performUnit s (seenOps (fun p => o.prior.contains p.id) (earlierOps c id)) o as
        let c := getCtx r.1 key
        let c := r.2.foldl (fun c b => orFlags c b.flags) c
        let s := putCtx r.1 key (replaceOp c { o with accs := mergeStep o i a 0 o.accs r.2 })
        meetStep (recordAll s (stepMarks s key o r.2)) key o r.2

/-- Whether access `i` of an operation may be performed now: no frozen port is in its way (25 R479), and in a replay its step
is next at its place (24 R475). -/
def stepReady (s : State) (key : Nat) (o : MemOp) (i : Nat) (a : Access) : Bool :=
  accessReady s (getCtx s key) o i a && !portFrozen s (keyDie key) a.place &&
    gatesOpen s ((stepMarks s key o (stepAccesses o i a)).map Prod.fst)

/-- Whether a store may be performed at warp scope: at any time before it reaches its home, but under SIZING after the strand's
earlier stores to the same spaces (15 R292, R303). -/
def showReady (c : Ctx) (o : MemOp) (a : Access) : Bool :=
  (earlierOps c o.id).all fun p =>
    p.accs.all fun b =>
      b.done || b.shown ||
        !((o.sizing || o.lg || p.lg) && o.prior.contains p.id && opWrites p.kind && decide (mainTop ≤ a.place) &&
          decide (mainTop ≤ b.place))

/-- Whether the step of access `i` of an operation is not an early one of a replay (24 R475). -/
def stepGates (s : State) (key id i : Nat) : Bool :=
  match findOp (getCtx s key) id with
  | none => true
  | some o =>
    match o.accs[i]? with
    | none => true
    | some a => gatesOpen s ((stepMarks s key o (stepAccesses o i a)).map Prod.fst)

/-- Several accesses performed in turn; a step that is early in a replay stays to be performed (24 R475). -/
def performList (s : State) (key id : Nat) : List Nat → State
  | [] => s
  | i :: rest => performList (if stepGates s key id i then performAt s key id i else s) key id rest

/-! ## Filling registers -/

/-- A loaded value of a size, extended to 64 bits. -/
def extendLoad (x size : Nat) (signed : Bool) : Word :=
  if signed then sxWord x (8 * size) else BitVec.ofNat 64 (x % 2 ^ (8 * size))

/-- A vector lane filled. -/
def fillLane (c : Ctx) (r l : Nat) (x : Word) (bad : Bool) : Ctx := putV c r l { val := x, poison := bad }

/-- The registers that a performed access fills (12 R250 to R256, 16 R319 to R321). -/
def fillAccess (c : Ctx) (o : MemOp) (a : Access) : Ctx :=
  let lane := fun (c : Ctx) (r : Nat) (x : Nat) => fillLane c (o.dst + r) a.lane (BitVec.ofNat 64 x) a.poison
  match o.kind with
  | .load size signed | .loadSplat size signed =>
    if a.len = 16 then lane (lane c 0 a.result) 1 (a.result / 2 ^ 64)
    else if size = 16 then lane c a.reg a.result
    else lane c a.reg (extendLoad a.result size signed).toNat
  | .atomic _ _ _ | .cellStv => lane c 0 a.result
  | .cellLdv | .cellRcn _ _ => lane (lane c 0 a.result) 1 a.result2
  | .scalarLoad size signed => putS c o.dst { val := extendLoad a.result size signed, poison := a.poison }
  | .scalarAtomic _ | .arrive => putS c o.dst { val := BitVec.ofNat 64 a.result, poison := a.poison }
  | .store | .fence _ _ | .longResult | .launch _ => c

/-- The registers of several accesses filled. -/
def fillAll (c : Ctx) (o : MemOp) : List Access → Ctx
  | [] => c
  | a :: rest => fillAll (fillAccess c o a) o rest

/-- An operation all of whose accesses are performed fills its registers and is gone. -/
def finishOp (s : State) (key id : Nat) : State :=
  let c := getCtx s key
  match findOp c id with
  | none => s
  | some o => if o.accs.all fun a => a.done then putCtx s key (dropOp (fillAll c o o.accs) id) else s

/-- An operation without the accesses that a test drops, or none where nothing of it is left (25 R479). -/
def cutOp (drops : Access → Bool) (o : MemOp) : Option MemOp :=
  if o.accs.any fun a => !a.done && drops a then
    let accs := o.accs.filter fun a => a.done || !drops a
    if accs.isEmpty then none else some { o with accs := accs }
  else some o

/-- An operation of a context without the accesses beyond a frozen port. -/
def cutFrozen (s : State) (key id : Nat) : State :=
  if (getDie s (keyDie key)).frozen then
    let c := getCtx s key
    putCtx s key { c with ops := c.ops.filterMap fun o =>
      if o.id = id then cutOp (fun a => portFrozen s (keyDie key) a.place) o else some o }
  else s

/-- An operation performed whole and finished, but for what is early in a replay; its accesses beyond a frozen port are
dropped. -/
def completeOp (s : State) (key id : Nat) : State :=
  let s := cutFrozen s key id
  match findOp (getCtx s key) id with
  | none => s
  | some o =>
    if opAccesses o.kind then finishOp (performList s key id (List.range o.accs.length)) key id
    else
      match o.kind with
      | .fence _ _ => putCtx s key (dropOp (getCtx s key) id)
      | _ => s

/-- Operations completed in their order. -/
def completeOps (s : State) (key : Nat) : List Nat → State
  | [] => s
  | id :: rest => completeOps (completeOp s key id) key rest

/-- Whether a context has an access that has not been performed: after `settleCtx`, one that is early in a replay. -/
def unsettled (s : State) (key : Nat) : Bool := (getCtx s key).ops.any fun o => opAccesses o.kind

/-- Every access that a context has issued is performed, but for what is early in a replay, and every long result lands (15
R299, 21 R420). -/
def settleCtx (s : State) (key : Nat) : State :=
  let s := putCtx s key (settleLong (getCtx s key))
  completeOps s key ((getCtx s key).ops.map fun o => o.id)

/-- Work that is not ready yet is scheduled again, once, and a strand issues before the next such work. -/
def again (s : State) (a : Act) : State :=
  let s := { s with postponed := true }
  if s.due.contains a then s else later s a

/-- Whether an operation is done with its last access; the others fill their registers in a step of their own. -/
def endsWithAccess (k : OpKind) : Bool :=
  match k with
  | .store | .atomic _ _ _ | .cellLdv | .cellStv | .cellRcn _ _ => true
  | .load _ _ | .loadSplat _ _ | .scalarLoad _ _ | .scalarAtomic _ | .arrive | .fence _ _ | .longResult | .launch _ =>
    false

/-- An access performed when it is its turn: it is performed if it may be, else it is tried again (15 R292). -/
def performStore (s : State) (key id i : Nat) : State :=
  let c := getCtx s key
  match findOp c id with
  | none => s
  | some o =>
    match o.accs[i]? with
    | none => s
    | some a =>
      if !opAccesses o.kind || a.done then s
      else if stepReady s key o i a then
        let s := performAt s key id i
        if endsWithAccess o.kind then finishOp s key id else s
      else again s (.perform key id i)

/-- A store performed at warp scope when it is its turn: from then on its sibling strands read it (15 R292). -/
def showStore (s : State) (key id i : Nat) : State :=
  let c := getCtx s key
  match findOp c id with
  | none => s
  | some o =>
    match o.accs[i]? with
    | none => s
    | some a =>
      if o.kind != .store || a.cell || a.done || a.shown then s
      else if showReady c o a then putCtx s key (replaceOp c { o with accs := o.accs.set i { a with shown := true } })
      else again s (.showStore key id i)

/-! ## Operations that are performed before a trap frame is written or read -/

/-- An operation cannot be performed whole before an earlier one is. -/
def needsBefore (o p : MemOp) : Bool :=
  (o.accs.any fun a => p.accs.any fun b => blocks o a p b) || (o.kind == .arrive && !priorDone [p] o true true)

/-- The operations of a list that are wanted, with those that must be performed before them. -/
def neededOps (want : MemOp → Bool) : List MemOp → List MemOp
  | [] => []
  | o :: rest =>
    let r := neededOps want rest
    if want o || r.any (fun p => needsBefore p o) then o :: r else r

/-- The wanted operations of a context are performed whole, in their order. -/
def settleThose (s : State) (key : Nat) (want : MemOp → Bool) : State :=
  completeOps s key ((neededOps want (getCtx s key).ops).map fun o => o.id)

/-- A quad's cycle put on what happens next, when something waits for its cycles to pass. -/
def cycleDue (s : State) (key : Nat) : State :=
  let e := Act.event .quadIssueCycle { place := keyCore key, sub := keyQuad key }
  if s.due.contains e then s else later s e

end Sys2Proof.Machine
end

