-- ==== Sys2Proof/Machine/Ops.lean ====
section
/-! DEFINITION. The operations that every instruction is made of: how a body stops, registers under their full/empty
bits, the program counter, the return-address stack, taking a trap and returning from one (02 R36 to R54, 04 R98,
21 R408 to R416). -/

namespace Sys2Proof.Machine

open Sys2Proof

/-! ## How a body ends early -/

/-- Why an instruction does not take effect: it traps with a cause, an address and a DETAIL, or it waits. -/
inductive Stop where
  | trap (cause : BitVec 8) (taddr : Word) (detail : Word)
  | wait (why : Why)
  deriving DecidableEq, Repr

/-- The result of a part of an instruction. -/
abbrev Res (α : Type) := Except Stop α

/-- Go on only when a condition holds; else trap with trap address 0. -/
def need (b : Bool) (cause : BitVec 8) : Res Unit := if b then .ok () else .error (.trap cause 0 0)

/-- Go on only when a condition holds; else wait. -/
def await (b : Bool) (why : Why) : Res Unit := if b then .ok () else .error (.wait why)

/-- Checked accesses go on; a failed check traps (11 R236). -/
def passed (r : Option (BitVec 8 × Word × Word)) : Res Unit :=
  match r with
  | none => .ok ()
  | some (c, a, d) => .error (.trap c a d)

/-- A step of the table that finds nothing to do leaves the state as it is. -/
def orElse (r : Option State) (s : State) : Host.Outcome State Fault Refusal := .next (r.getD s)

/-! ## Scalar registers under full/empty (02 R36) -/

/-- DETAIL of trap 0x14 for a scalar register (21 R417). -/
def poisonS (n : Nat) : Word := BitVec.ofNat 64 (256 + n)

/-- Reading S[n]: waits while it is empty; a poisoned register traps 0x14. -/
def rdS (s : State) (n : BitVec 6) : Res Word :=
  let r := getS (cur s) n.toNat
  if r.fill ≠ .full then .error (.wait .fullEmpty)
  else if r.poison then .error (.trap 0x14 0 (poisonS n.toNat))
  else .ok r.val

/-- A write of S[n] first waits for a fill in flight. -/
def freeS (s : State) (n : BitVec 6) : Res Unit := await ((getS (cur s) n.toNat).fill != .pending) .fullEmpty

/-- S[n] ← x, full. -/
def wrS (s : State) (n : BitVec 6) (x : Word) : State := setCur s (putS (cur s) n.toNat { val := x })

/-- P[n] ← b. -/
def wrP (s : State) (n : BitVec 3) (b : Bool) : State := setCur s (putP (cur s) n.toNat b)

/-- The predicate guard of a scalar form (02 R35): g = 0 is p0, which reads 1. -/
def guardP (s : State) (g : BitVec 3) : Bool := getP (cur s) g.toNat

/-- The executing strand goes on past an instruction of `words` words (02 R39); a repeat of a rep counts REPC down
and leaves the rep with its last (04 R100). -/
def retire (s : State) (words : Nat) : State :=
  let x := curStrand s
  let go := fun (y : Strand) (k : Nat) =>
    if y.wi.toNat + k ≤ y.hdr.n.toNat then { y with wi := BitVec.ofNat 4 (y.wi.toNat + k) }
    else { y with ca := y.ca + BitVec.ofNat 64 (4 * (y.hdr.n.toNat + 1)), wi := 1, begun := false }
  let y := { x with
    wait := .ready, exempt := false, readyCount := 0, waitCount := 0, inWait := false, lwait := none, rwait := none }
  if y.inRep then
    let y := { y with srepc := y.srepc - 1 }
    if y.srepc = 0 then
      setStrand s (go { y with inRep := false, overD := 0, overA := 0, overB := 0 } 2)
    else setStrand s y
  else setStrand s (go y words)

/-- The clause after the executing one (02 R39). -/
def nextClause (s : State) : Word :=
  (curStrand s).ca + BitVec.ofNat 64 (4 * ((curStrand s).hdr.n.toNat + 1))

/-- A transfer: the strand stands at a target's header and checks it on arrival (02 R39, 04 R98). -/
def transfer (s : State) (target : Word) : State :=
  setStrand s { curStrand s with
    ca := target, wi := 1, begun := false, inRep := false, wait := .ready, exempt := false, readyCount := 0,
    waitCount := 0, inWait := false, lwait := none, rwait := none }

/-- A one-word scalar body under its predicate guard: with the guard 0 only the PC moves (05 R108). -/
def guarded (g : BitVec 3) (body : State → Res State) (s : State) : Res State :=
  if guardP s g then body s else .ok (retire s 1)

/-! ## Which strands can issue (08 R178) -/

/-- Whether a context runs: it is placed, has not met a double trap, its launch has not been ended, and its
workgroup is not being saved; a system core runs and is not frozen. -/
def ctxRuns (s : State) (key : Nat) : Bool :=
  let c := getCtx s key
  c.live && !c.doubleTrap && !s.shutdown &&
    (if isSystem key then
      (getSc (getDie s (keyDie key)) ((key - systemBase) % 2)).running &&
        !(getSc (getDie s (keyDie key)) ((key - systemBase) % 2)).frozen
     else !(launchOf s key).ending && !(getWg s c.wg).saving)

/-- Whether a strand waits without issuing again: parked, or refused a park-table entry, until a step of the table makes
it ready (13 R267 to R269). -/
def parkWaits (w : Wait) : Bool :=
  match w with
  | .held .barrier _ | .held .refused _ => true
  | _ => false

/-- Whether a strand waits for the steps of a recorded operation in a replay (24 R475). -/
def replayWaits (c : Ctx) (x : Strand) : Bool :=
  match x.replayOp with
  | some r => c.ops.any fun o => o.id == r.id
  | none => false

/-- Whether a strand has issued an act.flip that is pending: it issues nothing and nothing interrupts it (07 R173). -/
def flipPending (s : State) (a : Agent) : Bool := !isSystem a.key && (getCore s (keyCore a.key)).actFlip == some a

/-- Whether a strand may issue when it is chosen. -/
def issuable (s : State) (a : Agent) : Bool :=
  let x := getStrand (getCtx s a.key) a.slot
  x.valid && !x.stop && !x.suspended && !parkWaits x.wait && !replayWaits (getCtx s a.key) x && ctxRuns s a.key &&
    !flipPending s a

/-- The live strands of the module, in the order of their keys and slots. -/
def strandsOf (s : State) : List Agent :=
  s.ctxs.flatMap fun e => (e.2.strands.filter fun x => x.2.valid).map fun x => ⟨e.1, x.1⟩

/-- The next strand that can issue after a given one, cyclically; the given one where no other can. -/
def nextStrand (s : State) (a : Agent) : Agent :=
  let all := (strandsOf s).filter (issuable s)
  let later := all.filter fun b => decide (a.key < b.key) || (a.key == b.key && decide (a.slot < b.slot))
  (later.head?).getD ((all.head?).getD a)

/-- The waits in which a strand gives its pin back (09 R200). -/
def pinWait (w : Why) : Bool :=
  match w with
  | .fullEmpty | .join | .armwait | .ring => true
  | _ => false

/-- The executing strand waits: the wait is recorded with the TIME at which it began. The cycles for which it has waited go on
being counted from one of the waits of 09 R200 to another. -/
def hold (s : State) (why : Why) : State :=
  let x := curStrand s
  let old := match x.wait with
    | .held w t =>
      (if w = why then t else s.time, if w = why ∨ (pinWait w = true ∧ pinWait why = true) then x.waitCount else 0)
    | .ready => (s.time, 0)
  setStrand s { x with wait := .held why old.1, readyCount := 0, waitCount := old.2 }

/-- Whether a strand is found waiting. -/
def isHeld (s : State) (a : Agent) : Bool :=
  match (getStrand (getCtx s a.key) a.slot).wait with
  | .held _ _ => true
  | .ready => false

/-! ## The return-address stack (02 R51 to R54) -/

/-- The home of a spill slot of the stack (02 R51). -/
def rasPlace (key i : Nat) : Nat := if isSystem key then returnPlace key (8 * i) else spillPlace key (0x3C00 + 8 * i)

/-- The trap address of a full spill area (02 R52). -/
def rasAddress (key : Nat) : Word :=
  if isSystem key then BitVec.ofNat 64 (returnPlace key 0) else BitVec.ofNat 64 (spillBase + 0x3C00)

/-- The strand-table slot that an entry is tagged with. -/
def rasSlot (e : Word) : Nat := bf e 59 57

/-- The address of a spill slot of the stack, in its warp's window, or the physical one of a system core's (11 R230). -/
def spillSlotAddress (key i : Nat) : Word := rasAddress key + BitVec.ofNat 64 (8 * i)

/-- The entry of the spill slot `i`. DESIGN CHOICE (log entry 108): it is read at its home at once, whatever issued stores of the
warp to that slot are still to be performed. -/
def spilledEntry (s : State) (key i : Nat) : Word := BitVec.ofNat 64 (readNat s (rasPlace key i) 8)

/-- Where a slot's entries stand, oldest first: spilled ones, then those on chip. -/
inductive RasPlace where
  | spill (i : Nat)
  | chip (i : Nat)
  deriving DecidableEq, Repr

/-- The entries of one slot, oldest first, with their places. -/
def rasEntries (s : State) (key slot : Nat) : List (RasPlace × Word) :=
  let c := getCtx s key
  ((c.spilled.map fun i => (RasPlace.spill i, spilledEntry s key i)) ++
    (c.ras.zipIdx.map fun e => (RasPlace.chip e.2, e.1))).filter fun e => rasSlot e.2 == slot

/-- The serial record that a strand's slot runs, if any (08 R181). -/
def runningSerial (c : Ctx) (x : Strand) : Option Serial := if x.ser then some (getSerial c x.sidx.toNat) else none

/-- How many of its slot's oldest entries a strand does not see (02 R54). -/
def rasHidden (c : Ctx) (x : Strand) : Nat :=
  match runningSerial c x with
  | some r => if r.stage = 0 then 0 else r.rsd.toNat
  | none => 0

/-- The entries that the executing strand sees, oldest first. -/
def rasVisible (s : State) : List (RasPlace × Word) :=
  (rasEntries s s.focus.key s.focus.slot).drop (rasHidden (cur s) (curStrand s))

/-- An entry's word: the return address, the slot's tag, and the mark of a lane call (05 R120). -/
def rasWord (addr : Word) (slot : Nat) (lane : Bool) : Word :=
  BitVec.ofNat 64 (bf addr 56 2 * 4 + slot % 8 * 2 ^ 57 + (if lane then 2 ^ 60 else 0))

/-- A push; the oldest on-chip entry moves to the lowest free spill slot when all 16 are in use, and a full spill
area traps 0x0C with nothing pushed (02 R52). DESIGN CHOICE (log entry 108): the entry is written at its home at once, and a store
of the warp to that slot that has issued and is performed later replaces it. -/
def pushRas (s : State) (addr : Word) (lane : Bool) : Res State :=
  let c := cur s
  let key := s.focus.key
  let e := rasWord addr s.focus.slot lane
  if c.ras.length < 16 then .ok (setCur s { c with ras := c.ras ++ [e] })
  else
    match listFind (fun i => !c.spilled.contains i) (List.range 128) with
    | none => .error (.trap 0x0C (rasAddress key) 0)
    | some i =>
      let s := writeNat s (rasPlace key i) 8 (c.ras.headD 0).toNat
      .ok (setCur s { c with ras := c.ras.tail ++ [e], spilled := c.spilled ++ [i] })

/-- An entry removed from the stack. -/
def dropRas (c : Ctx) (p : RasPlace) : Ctx :=
  match p with
  | .chip i => { c with ras := c.ras.eraseIdx i }
  | .spill i => { c with spilled := c.spilled.filter (· != i) }

/-- The slot's entries above its strand's mark discarded (02 R54). -/
def discardRas (s : State) : State :=
  let mine := (rasVisible s).map Prod.fst
  let c := cur s
  setCur s { c with
    ras := (c.ras.zipIdx.filter fun e => !mine.contains (.chip e.2)).map Prod.fst
    spilled := c.spilled.filter fun i => !mine.contains (.spill i) }

/-! ## Lane-call records (05 R120) -/

/-- The lane-call records that the executing strand sees: its slot's, without those its serial record marks. -/
def laneCallsOf (s : State) : List (Nat × LaneCall) :=
  let c := cur s
  let rlc := match runningSerial c (curStrand s) with
    | some r => if r.stage = 0 then 0 else r.rlc
    | none => 0
  (List.range 4).filterMap fun n =>
    let r := getLaneCall c n
    if r.valid && r.owner.toNat == s.focus.slot && !rlc.getLsbD n then some (n, r) else none

/-- The innermost of them: the one taken last. -/
def innerLaneCall (s : State) : Option (Nat × LaneCall) :=
  (laneCallsOf s).foldl
    (fun acc e =>
      match acc with
      | some b => if b.2.seq ≤ e.2.seq then some e else some b
      | none => some e)
    none

/-- next_group of R120: the strand runs the pending group with the lowest target. -/
def nextGroup (s : State) (n : Nat) (r : LaneCall) : State :=
  let target := fun l => mapGet (0 : Word) r.targets l
  let ls := lanesOf r.pending
  let tmin := ls.foldl (fun m l => min m (target l).toNat) (2 ^ 64)
  let grp := maskOf (ls.filter fun l => (target l).toNat == tmin)
  let s := setCur s (putLaneCall (cur s) n { r with pending := r.pending &&& ~~~ grp })
  let s := setStrand s { curStrand s with mask := grp }
  transfer s (BitVec.ofNat 64 tmin)

/-! ## The park table (13 R271) -/

/-- A strand of a warp still waits in an m.wait (R269). -/
def waitsIn (c : Ctx) (i : Nat) : Bool := (getStrand c i).valid && (getStrand c i).inWait

/-- A warp's strands leave the park table; the warp leaves the refusal queue when no other strand of it waits in m.wait. -/
def releasePark (s : State) (key slots : Nat) : State :=
  if isSystem key then s
  else
    let c := getCore s (keyCore key)
    let mine := fun p : Park => p.valid && p.quad.toNat == keyQuad key && p.slot.toNat == key % 16
    let park := c.park.filterMap fun e =>
      if mine e.2 then
        let left := e.2.strands &&& ~~~ BitVec.ofNat 8 slots
        if left = 0 then none else some (e.1, { e.2 with strands := left })
      else some e
    let c := { c with park := park }
    let q := getQuad c (keyQuad key)
    let still := (List.range 8).any fun i => slots / 2 ^ i % 2 == 0 && waitsIn (getCtx s key) i
    putCore s (keyCore key)
      (if still then c else putQuad c (keyQuad key) { q with refusals := q.refusals.filter (· != key) })

/-! ## Ending a launch (14 R279, 21 R414) -/

/-- A launch is ended: its warps issue nothing more, and it completes once its engine operations have. -/
def endLaunch (s : State) (part id : Nat) (cause cause2 : BitVec 8) (kill : Bool) : State :=
  let p := getPart s part
  let l := getLaunch p id
  if l.live && !l.ending then
    later (putPart s part (putLaunch p id { l with ending := true, killed := kill, cause := cause, cause2 := cause2 }))
      (.event .launchCompletion { place := part, id := id })
  else s

/-! ## Traps (21 R409 to R416) -/

/-- The three doublewords of a strand-table entry (08 R177). -/
def strandWords (x : Strand) : List Word :=
  [ x.mask,
    BitVec.ofNat 64 (x.valid.toNat * 2 ^ 63 + x.parent.toNat * 2 ^ 60 + x.root.toNat * 2 ^ 59 +
      (if x.wait matches .held .armwait _ then 1 else 0) * 2 ^ 58 + x.stop.toNat * 2 ^ 57 +
      x.ca.toNat / 4 % 2 ^ 55),
    BitVec.ofNat 64 ((if x.begun then x.wi.toNat else 0) * 2 ^ 60 + x.jv.toNat * 2 ^ 59 + x.jlen.toNat * 2 ^ 56 +
      x.jbase.toNat * 2 ^ 48 + x.ser.toNat * 2 ^ 47 + x.sidx.toNat * 2 ^ 44 + x.psv.toNat * 2 ^ 43 +
      x.psr.toNat * 2 ^ 40 + x.srepc.toNat * 2 ^ 32) ]

/-- The five doublewords of a serial record (08 R181). -/
def serialWords (r : Serial) : List Word :=
  [ r.bmask, r.outer,
    BitVec.ofNat 64 (r.stage.toNat * 2 ^ 62 + r.bca.toNat / 4 % 2 ^ 55),
    BitVec.ofNat 64 (r.cca.toNat / 4 % 2 ^ 55),
    BitVec.ofNat 64 (r.pv.toNat * 2 ^ 63 + r.pidx.toNat * 2 ^ 60 + r.ajv.toNat * 2 ^ 59 + r.ajlen.toNat * 2 ^ 56 +
      r.ajbase.toNat * 2 ^ 48 + r.bjv.toNat * 2 ^ 47 + r.bjlen.toNat * 2 ^ 44 + r.bjbase.toNat * 2 ^ 36 +
      r.rsd.toNat * 2 ^ 28 + r.rlc.toNat * 2 ^ 24) ]

/-- The 72 doublewords of a lane-call record (21 R413). -/
def laneCallWords (r : LaneCall) : List Word :=
  [r.outer, r.pending, BitVec.ofNat 64 (r.valid.toNat * 2 ^ 63 + r.owner.toNat * 2 ^ 60), 0, 0, 0, 0, 0] ++
    ((List.range 64).map fun l => if r.pending.getLsbD l then mapGet (0 : Word) r.targets l else 0)

/-- The strand table as memory holds it: 24 doublewords. -/
def strandTableWords (c : Ctx) : List Word := (List.range 8).flatMap fun i => strandWords (getStrand c i)

/-- The serial records as memory holds them: 40 doublewords. -/
def serialTableWords (c : Ctx) : List Word := (List.range 8).flatMap fun i => serialWords (getSerial c i)

/-- What a trap reports (21 R410). -/
structure TrapInfo where
  cause : BitVec 8
  swcode : BitVec 16 := 0
  taddr : Word := 0
  detail : Word := 0
  resume : Word := 0
  deriving DecidableEq, Repr

/-- The 384 doublewords of the trap frame (21 R410). -/
def frameWords (s : State) (t : TrapInfo) : List Word :=
  let c := cur s
  let x := curStrand s
  let lcv := (List.range 4).foldl (fun acc n => acc + (getLaneCall c n).valid.toNat * 2 ^ n) 0
  [ BitVec.ofNat 64 (t.cause.toNat + s.focus.slot % 8 * 2 ^ 8 + (isPriv c).toNat * 2 ^ 11 +
      (isSystem s.focus.key && isIe c).toNat * 2 ^ 13 + t.swcode.toNat * 2 ^ 16),
    pcWord x, t.resume, t.taddr, x.mask, BitVec.ofNat 64 (x.srepc.toNat + lcv * 2 ^ 8), t.detail,
    c.launchid, c.wgid, BitVec.ofNat 64 (c.warpid.toNat + c.context.toNat * 2 ^ 32),
    if isSystem s.focus.key then c.scratch0 else c.thread, c.parentLaunch, BitVec.ofNat 64 s.time.toNat ] ++
    List.replicate 19 0 ++ strandTableWords c ++ serialTableWords c ++
    ((List.range 4).flatMap fun n => laneCallWords (getLaneCall c n))

/-- The size of a trap frame. -/
def frameSize : Nat := 3072

/-- The first byte of the frame (21 R411). -/
def frameAddress (c : Ctx) : Nat :=
  match regionOf c.tframe.toNat with
  | .group => c.tframe.toNat + frameSize * c.warpid.toNat
  | _ => c.tframe.toNat

/-- One line of a system core's frame: where it lies, or the cause of its failure (21 R411). -/
def frameLine (s : State) (key : Nat) (va : Nat) : Except (BitVec 8) Target :=
  let q : Requester := { key := key, user := false, asid := (getCtx s key).asid }
  if pageMissing s q va then .error 0x0B
  else
    match translateFor s q va with
    | .error _ => .error 0x0B
    | .ok l =>
      if l.w && (l.type == 0 || l.type == 1) && (l.type != 0 || keyLoaded s l.key.toNat) then .ok (targetOf s q va)
      else .error 0x0C

/-- The cause with which a frame address fails, if any: the first failing byte in the order of R236. `a` is the access to
the frame: entry stores it, sysret loads it. -/
def frameFailure (s : State) (a : Acc := .store) : Option (BitVec 8) :=
  let c := cur s
  let key := s.focus.key
  let base := frameAddress c
  let last := base + frameSize - 1
  if isSystem key then
    match regionOf base with
    | .translated =>
      if regionOf last ≠ .translated then some 0x0B
      else
        let fails := fun (cause : BitVec 8) =>
          [base, last].any fun va =>
            match frameLine s key (va / 64 * 64) with
            | .error e => e == cause
            | .ok _ => false
        if fails 0x0B then some 0x0B else if fails 0x0C then some 0x0C else none
    | _ => some 0x0B
  else
    match regionOf base with
    | .spill =>
      if regionOf last ≠ .spill then some 0x0B else if spillBase + 0x3C00 ≤ last then some 0x0C else none
    | .group =>
      if regionOf last ≠ .group then some 0x0B
      else if groupBase + (getWg s c.wg).glen ≤ last then some 0x0C
      else if failsLock s { key := key, user := false, asid := c.asid } a base frameSize then some 0x0D
      else none
    | .translated => some 0x0C
    | _ => some 0x0B

/-- Whether the walk of a system core's frame address is held. -/
def frameWalkHeld (s : State) : Bool :=
  let base := frameAddress (cur s)
  isSystem s.focus.key && walksHeld s { key := s.focus.key, user := false, asid := (cur s).asid } frameSize [base]

/-- Whether main memory holds a line of a system core's frame, or its walk, just now (18 R364 to R369). -/
def frameHeld (s : State) : Bool :=
  let base := frameAddress (cur s)
  frameWalkHeld s || (isSystem s.focus.key && (List.range 48).any fun i =>
    match frameLine s s.focus.key (base + 64 * i) with
    | .ok (.main p pa _) => accessHeld s (keyDie s.focus.key) pa p
    | .ok (.home p) => portFrozen s (keyDie s.focus.key) p
    | _ => false)

/-- A system core's frame written line by line; a line that main memory drops changes nothing. -/
def writeFrameLines (s : State) (key va : Nat) : List (List Byte) → State
  | [] => s
  | l :: rest =>
    let s := match frameLine s key va with
      | .ok (.home p) => writeBytes s p l
      | .ok (.main p pa slot) => (mainWrite s p pa slot l).1
      | _ => s
    writeFrameLines s key (va + 64) rest

/-- The homes of the frame's bytes, as runs. -/
def frameRuns (s : State) : List (Nat × Nat) :=
  let key := s.focus.key
  let base := frameAddress (cur s)
  match regionOf base with
  | .spill => [(spillPlace key (base - spillBase), frameSize)]
  | .group => [(groupPlace (keyCore key) ((getWg s (cur s).wg).gbase + (base - groupBase)), frameSize)]
  | _ =>
    (List.range 48).filterMap fun i =>
      match frameLine s key (base + 64 * i) with
      | .ok (.home p) => some (p, 64)
      | .ok (.main p _ _) => some (p, 64)
      | _ => none

/-- An access of the executing strand that has issued and is not performed, to bytes of the frame. -/
def touchesFrame (s : State) (o : MemOp) : Bool :=
  o.order.getLsbD s.focus.slot &&
    o.accs.any fun a => !a.done && (frameRuns s).any fun r => decide (a.place < r.1 + r.2) && decide (r.1 < a.place + a.len)

/-- The frame's bytes written or read in the strand's program order: its earlier accesses to them are performed first (15
R299). -/
def settleFrame (s : State) : State := settleThose s s.focus.key (touchesFrame s)

/-- The frame written at its checked address; the core watches the writes (13 R268). -/
def writeFrame (s : State) (words : List Word) : State :=
  let key := s.focus.key
  let base := frameAddress (cur s)
  match regionOf base with
  | .spill => storeHome s (spillPlace key (base - spillBase)) (wordsBytes words)
  | .group =>
    storeHome s (groupPlace (keyCore key) ((getWg s (cur s).wg).gbase + (base - groupBase))) (wordsBytes words)
  | _ => writeFrameLines s key base (linesOf (wordsBytes words) 48)

/-- A double trap: the warp stops and its launch ends with both causes; a system core stops and is reported
(02 R42). -/
def doubleTrap (s : State) (first second : BitVec 8) : State :=
  let c := { cur s with doubleTrap := true, cause1 := first, cause2 := second }
  let key := s.focus.key
  let s := setCur s c
  if isSystem key then
    let d := getDie s (keyDie key)
    let i := (key - systemBase) % 2
    let s := putDie s (keyDie key) (putSc d i { getSc d i with running := false, stopped := true })
    let s := systemEvent s key 4 0
    { s with log := s.log ++ [.doubleTrap (key - systemBase) first second] }
  else endLaunch s (partOf s (keyDie key)) c.launchid.toNat first second false

/-- The capture kind of a trap entry (24 R470). -/
def traceKind (cause : BitVec 8) : Nat := if cause = 0x12 then 2 else if cause = 0x13 then 3 else 4

/-- The strand after entry: it stands at TVEC's header with its mask unchanged (21 R409). -/
def enterHandler (c : Ctx) (x : Strand) : Strand :=
  { x with ca := c.tvec, wi := 1, begun := false, inRep := false, overD := 0, overA := 0, overB := 0,
           srepc := 0, wait := .ready, exempt := false, readyCount := 0, waitCount := 0, inWait := false,
           pinBack := false, lwait := none, rwait := none, secondPass := none }

/-- What a stop of its strand leaves of the register that a waiting lwait marked pending. DESIGN CHOICE (log entry 93): it is
empty with no fill on the way, and full with the identifier where it held that, so that the lwait can issue again. -/
def unmarkLwait (c : Ctx) (x : Strand) : Ctx :=
  match x.lwait with
  | none => c
  | some w => putS c w.d.toNat { getS c w.d.toNat with fill := if w.d = w.a then .full else .empty }

/-- The lwaits and r.waits of a context's strands are to issue again, an r.wait with the then current S[a] (20 R401). -/
def stopLwaits (c : Ctx) : Ctx :=
  { c.strands.foldl (fun c e => unmarkLwait c e.2) c with
    strands := c.strands.map fun e => (e.1, { e.2 with lwait := none, rwait := none }) }

/-- Every other strand of the warp is suspended; a wait ends, to be made again on resumption (21 R409). -/
def suspendOthers (c : Ctx) (slot : Nat) : Ctx :=
  { c with strands := c.strands.map fun e =>
      if e.1 = slot then e
      else
        (e.1, { e.2 with
          suspended := true, wait := .ready, waitCount := 0, inWait := false, secondPass := none, writing := [],
          cursorsWere := [] }) }

/-- What a trap entry performs before it writes the frame: the warp's lg.ld and lg.st (23 R459), then the strand's accesses to
the frame's bytes. -/
def settleEntry (s : State) : State := settleFrame (settleThose s s.focus.key fun o => o.lg)

/-- Whether an access that a trap's frame waits for is early in a replay (24 R475). -/
def entryEarly (s : State) : Bool :=
  let t := settleEntry s
  (cur t).ops.any fun o => touchesFrame t o

/-- ENTERING A TRAP, in the executing strand (21 R409): the long results land, each lg.ld and lg.st of the warp is performed
whole (23 R459), the frame is written at the address of
R411, PRIV and INTRAP are set, REPC is cleared, IE moves into the frame on a system core, and the strand continues at
TVEC. With INTRAP already 1, or with a frame that fails its checks, it is a double trap (02 R42). -/
def enterTrap (s : State) (t : TrapInfo) : State :=
  let s := setCur s (settleLong (cur s))
  let c := cur s
  let s := captureStrand s (traceKind t.cause) (if traceKind t.cause = 4 then t.cause.toNat else 0) s.focus
    (curStrand s).mask (if t.cause = 0x13 then t.taddr else 0)
  if isInTrap c then doubleTrap s c.cause1 t.cause
  else
    match frameFailure s with
    | some e => doubleTrap s t.cause e
    | none =>
      let s := releasePark s s.focus.key 255
      let s := settleEntry s
      let s := writeFrame s (frameWords s t)
      let c := stopLwaits (cur s)
      let st := statusBit (statusBit c.status 0 true) 5 true
      let st := if isSystem s.focus.key then statusBit st 1 false else st
      let x := curStrand s
      let c := suspendOthers { c with status := st, cause1 := t.cause, entryMask := x.mask } s.focus.slot
      let s := setCur s (putStrand c s.focus.slot (enterHandler c x))
      let part := partOf s (keyDie s.focus.key)
      let p := getPart s part
      if t.cause = 0x12 ∨ t.cause = 0x13 then
        setIpendPart (putPart s part { p with hits := p.hits ++ [(s.focus.key, s.time)] }) part 5
      else s

/-- TAKING A TRAP, in the executing strand: it enters the trap, or waits while main memory holds the frame's bytes or their
walk (18 R364 to R369), or while an access to them may not be performed yet. -/
def takeTrap (s : State) (t : TrapInfo) : State :=
  if !isInTrap (cur s) && (frameHeld s || entryEarly s) then hold s .memory else enterTrap s t

/-- A trap whose resume point is the instruction itself (21 R410). -/
def trapHere (s : State) (cause : BitVec 8) (taddr detail : Word) : State :=
  takeTrap s { cause := cause, taddr := taddr, detail := detail, resume := pcWord (curStrand s) }

/-- The resume point after an instruction of `words` words (21 R410). -/
def resumeAfter (s : State) (words : Nat) : Word :=
  let x := curStrand s
  if x.wi.toNat + words ≤ x.hdr.n.toNat then
    BitVec.ofNat 64 ((x.wi.toNat + words) * 2 ^ 60 + x.ca.toNat / 4 % 2 ^ 55)
  else BitVec.ofNat 64 (2 ^ 60 + (nextClause s).toNat / 4 % 2 ^ 55)

/-- The outcome of a body: its state, its trap taken, or its wait. -/
def run (s : State) (r : Res State) : Host.Outcome State Fault Refusal :=
  match r with
  | .ok t => .next t
  | .error (.trap c a d) => .next (trapHere s c a d)
  | .error (.wait w) => .next (hold s w)

/-! ## Replays and banks that a strand waits for -/

/-- Trap 0x11 after an instruction of `words` words has taken effect: TADDR holds the entry's index, DETAIL the live value
(24 R476). -/
def divergeTrap (s : State) (words : Nat) (d : Nat × Word) : State :=
  takeTrap s { cause := 0x11, taddr := BitVec.ofNat 64 d.1, detail := d.2, resume := resumeAfter s words }

/-- A recorded operation in a replay whose steps are all performed: its first event that differed traps 0x11, and otherwise it
retires (24 R476). -/
def replayEnd (s : State) (r : ReplayOp) : State :=
  let s := setStrand s { curStrand s with replayOp := none }
  match r.diverged with
  | none => retire s r.words
  | some d => divergeTrap s r.words d

/-- The oldest pending write of a core's tables lands (07 R172). -/
def landActWrite (c : Core) : Core :=
  match c.actWrites with
  | [] => c
  | w :: rest =>
    { c with actWrites := rest, acts := mapPut 0 c.acts (w.bank.toNat * 1024 + w.index) w.value }

/-- Every pending write of a core's tables lands. -/
def landActWrites (c : Core) : Nat → Core
  | 0 => c
  | n + 1 => landActWrites (landActWrite c) n

/-- The pending writes of a core's tables landed. -/
def settleActs (s : State) (core : Nat) : State :=
  putCore s core (landActWrites (getCore s core) (getCore s core).actWrites.length)

/-- A pending flip completes (07 R173): the banks exchange and the strand that issued it goes on. -/
def completeFlip (s : State) (core : Nat) : State :=
  let k := getCore s core
  match k.actFlip with
  | none => s
  | some a =>
    let s := putCore s core { k with actBank := !k.actBank, actFlip := none }
    { retire { s with focus := a } 1 with focus := s.focus }

/-! ## Returning from a trap (05 R128, 21 R414) -/

/-- A doubleword of the frame as sysret reads it: poisoned bytes and a failed line trap 0x14 with its address (21 R417), and a
line that main memory holds is waited for. -/
def frameWord (s : State) (off : Nat) : Res Word :=
  let key := s.focus.key
  let va := frameAddress (cur s) + off
  let bad := Stop.trap 0x14 (BitVec.ofNat 64 va) 0x400000
  let home := fun p =>
    if poisonedRun s p 8 then Except.error bad else Except.ok (BitVec.ofNat 64 (readNat s p 8))
  match regionOf va with
  | .spill => home (spillPlace key (va - spillBase))
  | .group => home (groupPlace (keyCore key) ((getWg s (cur s).wg).gbase + (va - groupBase)))
  | _ =>
    match frameLine s key va with
    | .ok (.home p) => if portFrozen s (keyDie key) p then .error (.wait .memory) else home p
    | .ok (.main p pa slot) =>
      if accessHeld s (keyDie key) pa p then .error (.wait .memory)
      else
        let r := mainRead s p pa slot 8
        if r.2 then .ok (BitVec.ofNat 64 (ofBytes r.1)) else .error bad
    | .ok _ => .error (.trap 0x0C (BitVec.ofNat 64 va) 0)
    | .error e => .error (.trap e (BitVec.ofNat 64 va) 0)

/-- Doublewords of the frame, read one after the other. -/
def frameReads (s : State) : List Nat → Res (List Word)
  | [] => .ok []
  | off :: rest => do
    let w ← frameWord s off
    let ws ← frameReads s rest
    .ok (w :: ws)

/-- A doubleword of the frame, or 0 where it cannot be read. -/
def frameNat (s : State) (off : Nat) : Word :=
  match frameWord s off with
  | .ok w => w
  | .error _ => 0

/-- Lane-call record `n` reloaded from the frame, where LCV says that it is in use (21 R413, R414). DEDUCED (log entry 83): its
OUTER and PENDING are cut to the lanes that a strand of its owner's root can have (06 R132, R136). -/
def reloadLaneCall (s : State) (n lcv : Nat) : Res LaneCall :=
  let base := 0x300 + 0x240 * n
  if lcv / 2 ^ n % 2 = 1 then do
    let outer ← frameWord s base
    let pending ← frameWord s (base + 8)
    let w ← frameWord s (base + 16)
    let owner := BitVec.ofNat 3 (bf w 62 60)
    let lanes := rootLanes (cur s) (getStrand (cur s) owner.toNat).mask
    let ls := lanesOf (pending &&& lanes)
    let ts ← frameReads s (ls.map fun l => base + 0x40 + 8 * l)
    .ok { valid := true, owner := owner, outer := outer &&& lanes, pending := pending &&& lanes,
          seq := (getLaneCall (cur s) n).seq, targets := (ls.zip ts).filter fun t => t.2 != 0 }
  else .ok {}

/-- Lane-call records reloaded one after the other. -/
def reloadLaneCalls (s : State) (lcv : Nat) : List Nat → Res (List (Nat × LaneCall))
  | [] => .ok []
  | n :: rest => do
    let r ← reloadLaneCall s n lcv
    let rs ← reloadLaneCalls s lcv rest
    .ok ((n, r) :: rs)

/-- A strand that continues at a saved PC word: inside its clause without a header check, or at the header when the
saved WI is 0 (02 R39). -/
def resumeStrand (x : Strand) (pc : Word) : Strand :=
  { x with ca := BitVec.ofNat 64 (bf pc 54 0 * 4), wi := if bf pc 63 60 = 0 then 1 else BitVec.ofNat 4 (bf pc 63 60),
           begun := bf pc 63 60 != 0, pinned := false, inRep := false, wait := .ready, readyCount := 0, waitCount := 0,
           inWait := false, pinBack := false, secondPass := none }

/-- Whether a return ends the launch, or stops a system core (21 R414): with END in the frame; DEDUCED (log entry 104), also from
cause 0x11 in a launch without continue-live, which completes with that cause (24 R476). -/
def returnEnds (s : State) (w0 : Word) : Bool :=
  bitAt w0 12 ||
    (!isSystem s.focus.key && isInTrap (cur s) && (cur s).cause1 == 0x11 && !(launchOf s s.focus.key).continueLive)

/-- THE RETURN FROM A TRAP (21 R414): X continues at RESUME with its mask cut by the frame's MASK, REPC and the
lane-call records are reloaded, PRIV comes back, INTRAP clears, the STOP bits are reloaded and the suspended strands
without STOP run again. With END the launch ends; on a system core the core stops. Every doubleword that it reads is read
before anything changes. DESIGN CHOICE (log entry 80): with
INTRAP already 0 there is no mask of an entry, and the frame's MASK is cut by the strand's mask at the sysret. DESIGN CHOICE
(log entry 94): a frame address that fails its checks traps at the sysret with the frame's address. -/
def returnFromTrap (s : State) : Res State := do
  let s := settleFrame s
  await (!frameWalkHeld s && !(cur s).ops.any (touchesFrame s)) .memory
  passed ((frameFailure s .load).map fun e => (e, BitVec.ofNat 64 (frameAddress (cur s)), 0))
  let w0 ← frameWord s 0
  let c := cur s
  let key := s.focus.key
  if returnEnds s w0 then
    if isSystem key then .ok (doubleTrap s (BitVec.ofNat 8 (bf w0 7 0)) 0)
    else .ok (endLaunch s (partOf s (keyDie key)) c.launchid.toNat (BitVec.ofNat 8 (bf w0 7 0)) 0 false)
  else do
    let resume ← frameWord s 0x10
    let mask ← frameWord s 0x20
    let w5 ← frameWord s 0x28
    let stops ← frameReads s ((List.range 8).map fun i => 0x108 + 24 * i)
    let calls ← reloadLaneCalls s (bf w5 11 8) [0, 1, 2, 3]
    let x := curStrand s
    let x := resumeStrand { x with
      mask := mask &&& (if isInTrap c then c.entryMask else x.mask)
      srepc := BitVec.ofNat 7 (bf w5 6 0)
      exempt := isInTrap c && (c.cause1 == 0x12 || c.cause1 == 0x13) } resume
    let c := { c with
      status := statusBit (statusBit
        (if isSystem key then statusBit c.status 1 (bitAt w0 13) else c.status) 0 (bitAt w0 11)) 5 false
      laneCalls := calls.foldl (fun m e => mapPut {} m e.1 e.2) c.laneCalls }
    let c := putStrand c s.focus.slot x
    .ok (setCur s { c with strands := c.strands.map fun e =>
      if e.2.valid then (e.1, { e.2 with stop := bitAt (stops.getD e.1 0) 57, suspended := false }) else e })

end Sys2Proof.Machine
end

