-- ==== Sys2Proof/Machine/Operands.lean ====
section
/-! DEFINITION. Operand forms: scalar second operands and immediates (05 R111 to R114), vector fields under XB
(04 R93), guards and active lanes (06 R141), the full/empty policy of vector sources (04 R94, R95), and poison (21 R417). -/

namespace Sys2Proof.Machine

open Sys2Proof

/-! ## Scalar forms -/

/-- The second operand of an SR form: a register, or a signed six-bit immediate with i = 1 (04 R92). -/
def srcB (s : State) (b : BitVec 6) (i : BitVec 1) : Res Word := if i = 1 then .ok (sxField b) else rdS s b

/-- The effective address of an SM form: S[a] + off7 × size (05 R121). -/
def smAddress (base : Word) (o : BitVec 7) (size : Nat) : Word := base + sxField o * BitVec.ofNat 64 size

/-- The byte length of a size code (12: 1, 1, 2, 2, 4, 4, 8, 16). -/
def sizeBytes (z : BitVec 3) : Nat :=
  match z.toNat with
  | 0 => 1 | 1 => 1 | 2 => 2 | 3 => 2 | 4 => 4 | 5 => 4 | 6 => 8 | _ => 16

/-- Whether a size code's loads sign-extend (05 R121, 12 R250). -/
def sizeSigned (z : BitVec 3) : Bool := z == 1 || z == 3 || z == 5

/-! ## Lanes -/

/-- guard() of R32: all lanes for g = 0, else the guard register's bits. -/
def guardMask (c : Ctx) (g : BitVec 3) : Mask := if g = 0 then BitVec.allOnes 64 else getK c g.toNat

/-- active() of R32, both passes together. -/
def activeMask (s : State) (g : BitVec 3) : Mask := (curStrand s).mask &&& guardMask (cur s) g

/-- The active lanes in ascending order. -/
def activeLanes (s : State) (g : BitVec 3) : List Nat := lanesOf (activeMask s g)

/-- vx(f) of R32 for a field stepped past its range by a rep: traps 0x04 at or beyond the allotment. -/
def vxAt (s : State) (f excess : Nat) : Res Nat :=
  let r := f + excess + (cur s).xb.toNat
  if r < (cur s).allot then .ok r else .error (.trap 0x04 0 0)

/-- vx of the d field, which a rep may step (04 R100). -/
def vxD (s : State) (d : BitVec 6) : Res Nat := vxAt s d.toNat (curStrand s).overD

/-- vx of the a field. -/
def vxA (s : State) (a : BitVec 6) : Res Nat := vxAt s a.toNat (curStrand s).overA

/-- vx of the b field. -/
def vxB (s : State) (b : BitVec 6) : Res Nat := vxAt s b.toNat (curStrand s).overB

/-- DETAIL of trap 0x14 for a vector lane (21 R417). -/
def poisonV (r l : Nat) : Word := BitVec.ofNat 64 (r % 256 + l * 2 ^ 16)

/-- Some lane of the given registers satisfies a test. -/
def someLane (c : Ctx) (test : Reg → Bool) (regs lanes : List Nat) : Bool :=
  lanes.any fun l => regs.any fun r => test (getV c r l)

/-- The lowest poisoned lane among the sources, with its register. -/
def firstPoison (c : Ctx) (regs lanes : List Nat) : Option (Nat × Nat) :=
  lanes.findSome? fun l => (regs.find? fun r => (getV c r l).poison).map fun r => (r, l)

/-- The sources of the active lanes are read: an empty lane traps 0x05 with fe = 1 and waits with fe = 0 (04 R94);
a poisoned one traps 0x14 (21 R417). DESIGN CHOICE (log entry 110): 04 R106 does not list 0x14; the model takes it after 0x05 of the
vector sources and before the address checks, and a poisoned scalar base before both. -/
def rdV (s : State) (fe : BitVec 1) (regs lanes : List Nat) : Res Unit :=
  let c := cur s
  if someLane c (fun r => r.fill != .full) regs lanes then
    (if fe = 1 then .error (.trap 0x05 0 0) else .error (.wait .fullEmpty))
  else
    match firstPoison c regs lanes with
    | some (r, l) => .error (.trap 0x14 0 (poisonV r l))
    | none => .ok ()

/-- Two sets of sources read together, each in its own lanes (10 R221): an empty lane of either comes before a poisoned
one of either, and the lowest poisoned lane of both is reported. DESIGN CHOICE (log entry 96): of several registers poisoned
in that lane, the first in the order of the sources is named. -/
def rdTwo (s : State) (fe : BitVec 1) (regs lanes regs2 lanes2 : List Nat) : Res Unit :=
  let c := cur s
  if someLane c (fun r => r.fill != .full) regs lanes || someLane c (fun r => r.fill != .full) regs2 lanes2 then
    (if fe = 1 then .error (.trap 0x05 0 0) else .error (.wait .fullEmpty))
  else
    match firstPoison c regs lanes, firstPoison c regs2 lanes2 with
    | some (r, l), some (r2, l2) => .error (.trap 0x14 0 (if l2 < l then poisonV r2 l2 else poisonV r l))
    | some (r, l), none => .error (.trap 0x14 0 (poisonV r l))
    | none, some (r, l) => .error (.trap 0x14 0 (poisonV r l))
    | none, none => .ok ()

/-- Whether the matrix engine holds a register of a warp (19 R382). -/
def heldRegister (s : State) (key r : Nat) : Bool :=
  !isSystem key && (getCore s (keyCore key)).engine.any fun o => o.waits.contains (key * 256 + r)

/-- Destination lanes are free to be written: no fill is in flight (04 R95) and the engine does not hold the
register (19 R382). -/
def freeV (s : State) (regs lanes : List Nat) : Res Unit :=
  if someLane (cur s) (fun r => r.fill == .pending) regs lanes ||
      (!lanes.isEmpty && regs.any fun r => heldRegister s s.focus.key r) then
    .error (.wait .fullEmpty)
  else .ok ()

/-- dst of R32 over lanes: each gets its value and becomes full. -/
def dstLanes (c : Ctx) (r : Nat) : List (Nat × Word) → Ctx
  | [] => c
  | (l, x) :: rest => dstLanes (putV c r l { val := x }) r rest

/-- pend of R32 over lanes, by an instruction whose fill is in flight. -/
def pendLanes (c : Ctx) (r : Nat) : List Nat → Ctx
  | [] => c
  | l :: rest => pendLanes (putV c r l { (getV c r l) with fill := .pending }) r rest

/-- The lane values V[r][l]. -/
def laneVal (c : Ctx) (r l : Nat) : Word := (getV c r l).val

end Sys2Proof.Machine
end

