-- ==== Sys2Proof/Machine/Issue.lean ====
section
/-! DEFINITION. Issuing a strand's next instruction: fetching its clause's header and word, the breakpoint check, the
classification of words, a rep's stepped target (02 R38, R39; 04 R87, R88, R100 to R106; 24 R466). -/

namespace Sys2Proof.Machine

open Sys2Proof

/-- What issuing comes to: an instruction to execute in a state, or a state in which nothing more happens. -/
inductive Issue where
  | exec (i : Instr) (s : State)
  | done (s : State)
  deriving DecidableEq, Repr

/-- A clause fetch of four bytes (11 R235, R236), or the trap that it raises. -/
def fetchCode (s : State) (key : Nat) (va : Word) : Except (BitVec 8 × Word × Word) Code :=
  let q := requester s key
  match checkAccess s q .fetch 4 [va.toNat] with
  | some t => .error t
  | none =>
    match targetOf s q va.toNat with
    | .home p => if poisonedRun s p 4 then .error (0x14, va, 0x400000) else .ok (BitVec.ofNat 32 (readNat s p 4))
    | .main p pa slot =>
      let r := mainRead s p pa slot 4
      if r.2 then .ok (BitVec.ofNat 32 (ofBytes r.1)) else .error (0x14, va, 0x400000)
    | _ => .error (0x0C, va, 0)

/-! ## Windows in the fast file (09 R195 to R200) -/

/-- The registers of a window: from WBASE to WBASE + WLEN (04 R83). -/
def windowRegs (h : ClauseHeader) : List Nat := (List.range (h.wlen.toNat + 1)).map fun i => h.wbase.toNat + i

/-- Whether a slot holds a register of a warp's pass. -/
def slotHolds (f : FastSlot) (key : Nat) (pass : Bool) (r : Nat) : Bool :=
  f.valid && f.warp.toNat == key % 16 && f.pass == pass && decide (f.base.toNat ≤ r) &&
    decide (r ≤ f.base.toNat + f.len.toNat)

/-- The passes of a warp's windows (R195). -/
def passesOf (c : Ctx) : List Bool := if isWide c then [false, true] else [false]

/-- Whether a window of a warp is resident for a pass (R195). -/
def passResident (s : State) (key : Nat) (h : ClauseHeader) (pass : Bool) : Bool :=
  let q := getQuad (getCore s (keyCore key)) (keyQuad key)
  (windowRegs h).all fun r => q.fast.any fun e => slotHolds e.2 key pass r

/-- Whether a window of a warp is resident (R195); a system core has no window (04 R90). -/
def residentWindow (s : State) (key : Nat) (h : ClauseHeader) : Bool :=
  isSystem key || (passesOf (getCtx s key)).all (passResident s key h)

/-- Whether the window of the executing strand's clause is resident. -/
def windowResident (s : State) : Bool := residentWindow s s.focus.key (curStrand s).hdr

/-- The header of the clause in which a strand stands, or at which it stands, where it can be read. -/
def standingHeader (s : State) (a : Agent) : Option ClauseHeader :=
  match fetchCode s a.key (getStrand (getCtx s a.key) a.slot).ca with
  | .ok w => if isHeader w then some (decodeHeader w) else none
  | .error _ => none

/-- The load of a strand's window started (R197). -/
def loadDue (s : State) (a : Agent) : State :=
  let e := Act.event .windowLoad { who := a }
  if s.due.contains e then s else later s e

/-- The load of the executing strand's window started. -/
def windowDue (s : State) : State := loadDue s s.focus

/-- A load started for a strand whose clause is known and whose window is not resident (R197). -/
def startLoad (s : State) (a : Agent) : State :=
  match standingHeader s a with
  | some h => if residentWindow s a.key h then s else loadDue s a
  | none => s

/-- Loads started for several strands. -/
def startLoads (s : State) : List Agent → State
  | [] => s
  | a :: rest => startLoads (startLoad s a) rest

/-- Whether a strand has come to a clause: it is live, does not hold the pin of its clause, and stood elsewhere before. -/
def hasCome (before after : Strand) : Bool :=
  after.valid && !(after.begun && after.pinned) && !parkWaits after.wait &&
    !(before.valid && before.ca == after.ca && before.begun == after.begun && before.pinned == after.pinned)

/-- The strands of a warp that have come to a clause since a state. -/
def arrivals (s t : State) (key : Nat) : List Agent :=
  ((List.range 8).filter fun i => hasCome (getStrand (getCtx s key) i) (getStrand (getCtx t key) i)).map fun i => ⟨key, i⟩

/-- The loads started of the clauses to which strands of a warp have come since a state (R197). -/
def arrivedOf (s t : State) (key : Nat) : State := startLoads t (arrivals s t key)

/-- The loads started of the clauses to which strands of the executing warp have come. -/
def arrived (s t : State) : State := arrivedOf s t s.focus.key

/-- The slots of a warp's quad that hold a register of a window: those on which its clause begins (R199). -/
def windowSlots (s : State) (key : Nat) (h : ClauseHeader) : List Nat :=
  let q := getQuad (getCore s (keyCore key)) (keyQuad key)
  (q.fast.filter fun e => (windowRegs h).any fun r => slotHolds e.2 key e.2.pass r).map Prod.fst

/-- The executing strand inside its clause, pinning the slots of its window (R199). -/
def pinWindow (s : State) : State :=
  let x := curStrand s
  setStrand s { x with pinned := true, pins := windowSlots s s.focus.key x.hdr }

/-! ## The next word -/

/-- Whether main memory holds a clause fetch, or its walk, just now (18 R364 to R369). -/
def codeHeld (s : State) (key : Nat) (va : Word) : Bool :=
  walkHeld s (requester s key) va.toNat ||
    (match targetOf s (requester s key) va.toNat with
     | .main p pa _ => accessHeld s (keyDie key) pa p
     | .home p => portFrozen s (keyDie key) p
     | _ => false)

/-- The address of word `k` of the executing strand's clause. -/
def wordAddress (x : Strand) (k : Nat) : Word := x.ca + BitVec.ofNat 64 (4 * k)

/-- Whether the executing strand stands at a rep word with repeats left, at which no breakpoint hits (24 R466). -/
def resumesRep (s : State) : Bool :=
  let x := curStrand s
  x.srepc != 0 &&
    (match fetchCode s s.focus.key (wordAddress x x.wi.toNat) with
     | .ok w => !isHeader w && !isExtension w && majorFormat (majorOf w) == some .rp
     | .error _ => false)

/-- Whether a breakpoint names the executing strand's word (24 R465, R466). -/
def breakHit (s : State) : Bool :=
  let key := s.focus.key
  let c := cur s
  let x := curStrand s
  !x.exempt && !x.inRep && !resumesRep s &&
    (getPart s (partOf s (keyDie key))).breaks.any fun e =>
      e.2.valid && e.2.asid == c.asid && e.2.addr == wordAddress x x.wi.toNat &&
        (e.2.launch == 0 || e.2.launch == c.launchid)

/-- Which of the fields d, a, b of a VR or VI major are vector fields (04 R93). -/
def vectorFields (m : Nat) : Bool × Bool × Bool :=
  if m = 0x2F ∨ m = 0x35 ∨ m = 0x36 ∨ m = 0x3A ∨ m = 0x3B ∨ m = 0x29 then (true, true, false)
  else if m = 0x30 then (false, true, true)
  else if m = 0x37 ∨ m = 0x38 ∨ m = 0x39 then (true, false, false)
  else if m = 0x3C then (false, true, true)
  else if m = 0x42 ∨ m = 0x43 ∨ m = 0x44 ∨ m = 0x47 ∨ m = 0x4A ∨ m = 0x4B ∨ m = 0x5E then (true, true, false)
  else if m = 0x45 then (false, true, false)
  else if m = 0x49 then (true, true, false)
  else if m = 0x5B then (true, false, false)
  else (true, true, true)

/-- A field of a word stepped by i: the field's new value and the excess over its range. -/
def stepped (w : Code) (lo len i : Nat) (named : Bool) : Nat × Nat :=
  let v := bits w lo len + (if named then i else 0)
  if v < 2 ^ len then (v, 0) else (2 ^ len - 1, v - (2 ^ len - 1))

/-- A word with a field replaced. -/
def setField (w : Code) (lo len v : Nat) : Code :=
  BitVec.ofNat 32 (w.toNat - bits w lo len * 2 ^ lo + v * 2 ^ lo)

/-- Repeat `i` of a rep's target (04 R100; 19 R393 for mx.mma): the word, and the excess of its d, a and b fields.
None where a stepped field that is no vector field passes its range. -/
def steppedWord (r w : Code) (i : Nat) : Option (Code × Nat × Nat × Nat) :=
  let m := majorOf w
  let nd := bits r 21 1 == 1
  let na := bits r 20 1 == 1
  let nb := bits r 19 1 == 1
  if m = 0x73 then
    let d := stepped w 16 3 i nd
    let a := stepped w 12 4 i na
    let b := stepped w 1 6 i nb
    some (setField (setField (setField w 16 3 d.1) 12 4 a.1) 1 6 b.1, d.2, a.2, b.2)
  else
    let d := stepped w 13 6 i nd
    let a := if na then stepped w 7 6 i na else (bits w 7 6, 0)
    let b := if nb then stepped w 1 6 i nb else (bits w 1 6, 0)
    let v := vectorFields m
    if (d.2 != 0 && !v.1) || (a.2 != 0 && !v.2.1) || (b.2 != 0 && !v.2.2) then none
    else
      let w := setField w 13 6 d.1
      let w := if na then setField w 7 6 a.1 else w
      let w := if nb then setField w 1 6 b.1 else w
      some (w, d.2, a.2, b.2)

/-- The trap of a fetch, in the executing strand. -/
def fetchTrap (s : State) (t : BitVec 8 × Word × Word) : Issue := .done (trapHere s t.1 t.2.1 t.2.2)

/-- A trap with trap address 0, in the executing strand. -/
def plainTrap (s : State) (cause : BitVec 8) : Issue := .done (trapHere s cause 0 0)

/-- A word in its place, classified and decoded (04 R87, R88, R105, R106 steps 5 to 7). -/
def classify (s : State) (w : Code) (place : Nat) : Issue :=
  let x := curStrand s
  let n := x.hdr.n.toNat
  if isHeader w || isExtension w then plainTrap s 0x03
  else
    let classOk := match majorClass (majorOf w) with
      | none => true
      | some k => k == 0 || k == x.hdr.ecl.toNat
    if takesExtension w then
      if n ≤ place then plainTrap s 0x03
      else
        match fetchCode s s.focus.key (wordAddress x (place + 1)) with
        | .error t => fetchTrap s t
        | .ok e =>
          if !isExtension e then plainTrap s 0x03
          else if majorOf w == 0x60 && place + 1 != n then plainTrap s 0x03
          else if !classOk then plainTrap s 0x03
          else
            match decodeWord w (some e) with
            | .ok i => .exec i s
            | .error _ => plainTrap s 0x01
    else if !classOk then plainTrap s 0x03
    else
      match decodeWord w none with
      | .ok i => .exec i s
      | .error _ => plainTrap s 0x01

/-- The next instruction of a strand inside a begun clause whose header has been read. -/
def issueWord (s : State) : Issue :=
  let x := curStrand s
  let at_ := x.wi.toNat
  if breakHit s then plainTrap s 0x12
  else
    match fetchCode s s.focus.key (wordAddress x at_) with
    | .error t => fetchTrap s t
    | .ok w =>
      if x.inRep then
        match fetchCode s s.focus.key (wordAddress x (at_ + 1)) with
        | .error t => fetchTrap s t
        | .ok t =>
          match steppedWord w t (bits w 13 6 + 1 - x.srepc.toNat) with
          | none => plainTrap s 0x01
          | some (v, od, oa, ob) =>
            classify (setStrand s { x with overD := od, overA := oa, overB := ob }) v (at_ + 1)
      else classify s w at_

/-- The interrupt that a system core takes at an instruction boundary (21 R416); an idle that waits ends first (05
R129). -/
def interruptDue (s : State) : Bool :=
  isSystem s.focus.key && isIe (cur s) && (cur s).ipend &&& (cur s).ienable != 0 &&
    (match (curStrand s).wait with
     | .held .idle _ => false
     | _ => true)

/-! ## Strands that touch one lane together (08 R188, 10 R211) -/

/-- The lanes that the other strands of a warp are writing, with their old values. -/
def racingLanes (c : Ctx) (slot : Nat) : List (Nat × Reg) :=
  (c.strands.filter fun e => e.1 != slot && e.2.valid).flatMap fun e => e.2.writing

/-- The bit cursors that the other strands of a warp are writing, with their old values (10 R227). -/
def racingCursors (c : Ctx) (slot : Nat) : List (Nat × BitVec 7) :=
  (c.strands.filter fun e => e.1 != slot && e.2.valid).flatMap fun e => e.2.cursorsWere

/-- The number of a bit cursor among the things that race: after the lanes of the 256 registers. -/
def cursorKey (l : Nat) : Nat := 256 * 64 + l

/-- A register file seen with some lanes as they were; an empty lane, and one with a fill in flight, stay so. -/
def seenLanes (n : Nat) (v : List (Nat × Reg)) (lanes : List (Nat × Reg)) : List (Nat × Reg) :=
  lanes.foldl
    (fun v e => if (mapGet ({} : Reg) v e.1).fill = .full ∧ Config.raceOld n e.1 then mapPut {} v e.1 e.2 else v) v

/-- Bit cursors seen with some as they were. -/
def seenCursors (n : Nat) (v : List (Nat × BitVec 7)) (ls : List (Nat × BitVec 7)) : List (Nat × BitVec 7) :=
  ls.foldl (fun v e => if Config.raceOld n (cursorKey e.1) then mapPut 0 v e.1 e.2 else v) v

/-- The state as the executing strand finds it: each lane and each bit cursor that another strand is writing holds its old
or its new value, decided on its own. -/
def raceView (s : State) : State :=
  match racingLanes (cur s) s.focus.slot, racingCursors (cur s) s.focus.slot with
  | [], [] => s
  | ls, cs =>
    setCur s { cur s with
      vregs := seenLanes s.drawn (cur s).vregs ls
      cursors := seenCursors s.drawn (cur s).cursors cs }

/-- What stands of one lane after an instruction that met another strand's write of it: the write where the instruction
left the lane alone, one of the two values where it wrote too, and a fill in flight in any case. -/
def settledLane (n : Nat) (before seen after : List (Nat × Reg)) (k : Nat) : List (Nat × Reg) :=
  let x := mapGet ({} : Reg) after k
  if x.fill = .full ∧ (x = mapGet {} seen k ∨ Config.raceStands n k) then mapPut {} after k (mapGet {} before k) else after

/-- What stands of one bit cursor after an instruction that met another strand's write of it. -/
def settledCursor (n : Nat) (before seen after : List (Nat × BitVec 7)) (l : Nat) : List (Nat × BitVec 7) :=
  if mapGet 0 after l = mapGet 0 seen l ∨ Config.raceStands n (cursorKey l) then mapPut 0 after l (mapGet 0 before l)
  else after

/-- The state after an instruction of the executing strand, with the lanes and bit cursors that others are writing
settled. -/
def raceSettle (s t : State) : State :=
  match racingLanes (cur s) s.focus.slot, racingCursors (cur s) s.focus.slot with
  | [], [] => t
  | ls, cs =>
    let c := getCtx t s.focus.key
    let seen := seenLanes s.drawn (cur s).vregs ls
    let v := ls.foldl (fun v e => settledLane s.drawn (cur s).vregs seen v e.1) c.vregs
    let seenC := seenCursors s.drawn (cur s).cursors cs
    let k := cs.foldl (fun k e => settledCursor s.drawn (cur s).cursors seenC k e.1) c.cursors
    { putCtx t s.focus.key { c with vregs := v, cursors := k } with drawn := t.drawn + 1 }

/-- The lanes that differ between two register files and are full in both, with their old values: those that the strand
which issued in between is writing. A strand alone in its warp needs no record. -/
def lanesWritten (c t : Ctx) : List (Nat × Reg) :=
  if (liveSlots t).length < 2 then []
  else
    let changed := (t.vregs.filter fun e => !c.vregs.contains e).map Prod.fst ++
      (c.vregs.filter fun e => !t.vregs.contains e).map Prod.fst
    (changed.filter fun k =>
      (mapGet ({} : Reg) c.vregs k).fill == .full && (mapGet ({} : Reg) t.vregs k).fill == .full).map fun k =>
        (k, mapGet ({} : Reg) c.vregs k)

/-- The bit cursors that differ between two contexts, with their old values. -/
def cursorsWritten (c t : Ctx) : List (Nat × BitVec 7) :=
  if (liveSlots t).length < 2 then []
  else
    ((List.range 64).filter fun l => getCursor c l != getCursor t l).map fun l => (l, getCursor c l)

/-- A record of a lane being written ends once the lane is no longer full: it waits for a fill, or a fork has emptied it
(10 R211). -/
def pruneWriting (c : Ctx) : Ctx :=
  { c with strands := c.strands.map fun e =>
      (e.1, { e.2 with writing := e.2.writing.filter fun w => (mapGet ({} : Reg) c.vregs w.1).fill == .full }) }

/-! ## What an issue leaves -/

/-- Whether a pass holds a lane of a mask (06 R135). -/
def passMeets (m : Mask) (pass : Bool) : Bool := if pass then m.toNat / 2 ^ 32 != 0 else m.toNat % 2 ^ 32 != 0

/-- The passes that an instruction's first issue covers: those that hold lanes of the strand's mask, but for pass 1 where that
issues by itself (06 R135). -/
def issuedPasses (x : Strand) : List Bool :=
  [false, true].filter fun p => passMeets x.mask p && !(x.secondPass.isSome && p)

/-- The quad's issues counted, and the slots in which the issuing strand's clause has its window for some passes used at
this one (R199). -/
def stampSlots (t : State) (key : Nat) (h : ClauseHeader) (passes : List Bool) : State :=
  let k := getCore t (keyCore key)
  let q := getQuad k (keyQuad key)
  let mine := fun f : FastSlot => passes.contains f.pass && (windowRegs h).any fun r => slotHolds f key f.pass r
  let fast := q.fast.map fun e => if mine e.2 then (e.1, { e.2 with lastUse := q.issues + 1 }) else e
  putCore t (keyCore key) (putQuad k (keyQuad key) { q with fast := fast, issues := q.issues + 1 })

/-- Whether an attempt has only found that its strand waits; an m.wait that is parked or refused has issued (13 R267,
R269), and so have a recorded operation on whose steps its strand waits in a replay (24 R475) and an act.flip that is pending
(07 R173). -/
def onlyWaits (s : State) (a : Agent) : Bool :=
  let x := getStrand (getCtx s a.key) a.slot
  isHeld s a && !parkWaits x.wait && x.replayOp.isNone && !flipPending s a

/-- Whether a word takes an issue of its quad: every word but rep (R198). -/
def takesIssue (i : Instr) : Bool :=
  match i with
  | .rep _ _ _ _ => false
  | _ => true

/-- What an issue leaves beside its instruction's effect, from the state `s` in which a warp's strand issued `i` and the
state `t` after it: an attempt that only waits leaves the strand's pin as it was; an issue is the warp's last (R205), uses
its window's slots (R199), and starts the loads of the clauses to which strands have come (R197), which a rep word, that
takes no issue, does too. The lanes and cursors that strands write together are settled, and the strand's own are noted
(08 R188, 10 R227). -/
def noteIssue (i : Instr) (pinned : Bool) (s t : State) : State :=
  let a := s.focus
  let t := raceSettle s t
  let x := getStrand (getCtx t a.key) a.slot
  if isSystem a.key then t
  else if onlyWaits t a then
    putCtx t a.key (putStrand (getCtx t a.key) a.slot { x with
      pinned := x.pinned && pinned, secondPass := x.secondPass.filter fun p => p.due })
  else if !takesIssue i then arrived s t
  else
    let x := { x with
      pinBack := x.pinBack && parkWaits x.wait
      secondPass := x.secondPass.map fun p => { p with due := true }
      writing := lanesWritten (getCtx s a.key) (getCtx t a.key)
      cursorsWere := cursorsWritten (getCtx s a.key) (getCtx t a.key) }
    let t := putCtx t a.key (pruneWriting { putStrand (getCtx t a.key) a.slot x with lastSlot := a.slot })
    arrived s (stampSlots t a.key (curStrand s).hdr (issuedPasses (curStrand s)))

/-- The second pass of the executing strand's last instruction issues, and this issue is the warp's last (R205): its effect
came with the first (06 R135). -/
def issueSecond (s : State) (p : SecondPass) : State :=
  let key := s.focus.key
  let c := putStrand (cur s) s.focus.slot { curStrand s with secondPass := none, readyCount := 0 }
  stampSlots (setCur s { c with lastSlot := s.focus.slot }) key p.hdr [true]

/-- The outcome of an instruction that a warp's strand issued. -/
def issued (i : Instr) (pinned : Bool) (s : State) (o : Host.Outcome State Fault Refusal) :
    Host.Outcome State Fault Refusal :=
  match o with
  | .next t => .next (noteIssue i pinned s t)
  | .fault f => .fault f
  | .refused r => .refused r

/-- A strand inside its clause about to issue: its header's fields are at hand. -/
def readyToIssue (s : State) (h : Code) : State := setStrand s { curStrand s with hdr := decodeHeader h }

/-- A strand whose window is not resident waits for its load, which is started. -/
def awaitWindow (s : State) : State := hold (windowDue s) .clause

/-- Whether main memory holds a word of the executing strand's next instruction, which is of three words at most. -/
def wordsHeld (s : State) : Bool :=
  let x := curStrand s
  (List.range 3).any fun i =>
    decide (x.wi.toNat + i ≤ x.hdr.n.toNat) && codeHeld s s.focus.key (wordAddress x (x.wi.toNat + i))

/-- A strand whose clause main memory holds: a wait that has not ended goes on. -/
def awaitCode (s : State) : State :=
  match (curStrand s).wait with
  | .ready | .held .memory _ => hold s .memory
  | .held _ _ => s

/-- Issuing for the executing strand: an interrupt, the clause's beginning, or its next word. DESIGN CHOICE (log entry 78): a
header that can no longer be read inside a begun clause traps at the next word, CA:WI, with the header's address CA as the
trap address. A strand that has given its
pin back, or that resumes, waits until its window is resident again (R197, R200); `asIf` asks what it would do if it were. -/
def issueWith (asIf : Bool) (s : State) : Issue :=
  let a := s.focus
  if !issuable s a then .done s
  else if let some p := (curStrand s).secondPass.filter fun p => p.due then .done (issueSecond s p)
  else if let some r := (curStrand s).replayOp then .done (replayEnd s r)
  else if interruptDue s then .exec .interrupt { s with input := { place := a.key - systemBase } }
  else if !(curStrand s).begun then .exec .clauseBegin { s with input := { who := a } }
  else if codeHeld s a.key (curStrand s).ca then .done (awaitCode s)
  else
    match fetchCode s a.key (curStrand s).ca with
    | .error t => fetchTrap s t
    | .ok h =>
      let s := readyToIssue s h
      if wordsHeld s then .done (awaitCode s)
      else if isSystem a.key || (curStrand s).pinned then issueWord s
      else if asIf || windowResident s then issueWord (pinWindow s)
      else .done (awaitWindow s)

/-- Issuing for the executing strand. -/
def issueNext (s : State) : Issue := issueWith false s

/-- Whether a strand's wait of R200 may go on without its window, which an eviction has taken: inside its clause, without its
pin. -/
def waitsUnpinned (s : State) (a : Agent) : Bool :=
  let x := getStrand (getCtx s a.key) a.slot
  x.begun && !x.pinned && ((standingHeader s a).any fun h => !residentWindow s a.key h) &&
    (match x.wait with
     | .held w _ => pinWait w
     | .ready => false)

end Sys2Proof.Machine
end

