-- ==== Sys2Proof/Machine/Clock.lean ====
section
/-! DEFINITION. TIME and what it strikes (02 R46, R47), and the placing of one instruction where the next step
fetches. -/

namespace Sys2Proof.Machine

open Sys2Proof

/-- The ticks that the step under way takes: the head of `pace`, one when the outside gives none (R149 fixes no
time of an instruction). -/
def ticksNow (s : State) : Nat := s.pace.headD 1

/-- Whether TIME passes TCMP within so many ticks (02 R46). -/
def passes (time tcmp : BitVec 48) (ticks : Nat) : Bool :=
  decide (0 < (tcmp - time).toNat) && decide ((tcmp - time).toNat ≤ ticks)

/-- TIME moves on, and every system core whose TCMP it reaches has IPEND[0] set. -/
def elapse (s : State) : State :=
  let t := ticksNow s
  { s with
    time := s.time + BitVec.ofNat 48 t
    pace := s.pace.tail
    ctxs := s.ctxs.map fun e =>
      if isSystem e.1 && e.2.live && passes s.time e.2.tcmp t then (e.1, strike e.2) else e }

/-- TIMER (02 R47): TIME equals TCMP on a system core. -/
def execTimer (s : State) : Host.Outcome State Fault Refusal :=
  let k := systemBase + s.input.place
  let c := getCtx s k
  .next (if c.live && c.tcmp == s.time then putCtx s k (strike c) else s)

/-- Where `placeCode` puts its clause: a virtual address, mapped to the same offset of die 0's die store. -/
def codeVa : Nat := 0x3000000

/-- The leaf through which that clause is fetched. -/
def codeLeaf : Leaf :=
  { va := codeVa, size := 262144, pa := dieStoreBase + codeVa, type := 1, r := true, w := true, x := true, u := true }

/-- The header of the clause that holds a word: its class's ECL and two words (04 R83). -/
def codeHeader (w : Code) : Code :=
  encodeHeader { n := 2, ecl := BitVec.ofNat 3 ((majorClass (majorOf w)).getD 0), full := false, quiet := false,
                 lease := false, wbase := 0, wlen := 0, low := 0 }

/-- A launched warp of 32 lanes and 256 registers whose one strand stands at word 1 of that clause. -/
def codeWarp (w : Code) : Ctx :=
  { live := true, allot := 256, launched := 0xFFFFFFFF, status := if majorClass (majorOf w) = some 5 then 0x201 else 0x200,
    strands := [(0, { valid := true, root := true, mask := 0xFFFFFFFF, ca := BitVec.ofNat 64 codeVa, wi := 1,
                      begun := true, pinned := true })] }

/-- The state with an instruction's words stored where the next step fetches: the executing warp of die 0, core 0,
quad 0, slot 0 stands at them, and nothing else is scheduled. -/
def placeCode (s : State) (w x : Code) : State :=
  let s := writeBytes s (dieStoreBase + codeVa) (wordBytes (codeHeader w) ++ wordBytes w ++ wordBytes x)
  let s := putCtx s 0 (codeWarp w)
  { s with
    agenda := [], due := [], postponed := false, focus := ⟨0, 0⟩
    tlbs := mapPut [] s.tlbs 0 [{ asid := 0, leaf := codeLeaf }] }

end Sys2Proof.Machine
end

