-- ==== Sys2Proof/Machine/MemIssue.lean ====
section
/-! DEFINITION. Issuing memory operations (12 R246 to R261): what stands in a context's list of operations, the work that
will do it, the fence that holds writes (12 R259), and the recorded operations of a replay (24 R475). -/

namespace Sys2Proof.Machine

open Sys2Proof

/-! ## Issuing -/

/-- The step that will do an operation's work, or a part of it. -/
def workOf (key : Nat) (o : MemOp) : List Act :=
  let who : Agent := ⟨key, o.slot⟩
  let lead := (o.accs.zipIdx.filter fun e => (o.accs.take e.2).all fun b => b.place != e.1.place).map Prod.snd
  match o.kind with
  | .load _ _ | .loadSplat _ _ | .longResult =>
    let k := match o.kind with
      | .longResult => Instr.longResultFill
      | _ => Instr.loadFill
    ([0, 1].filter fun p => o.accs.any fun a => a.lane / 32 == p).map fun p => .event k { who := who, id := o.id, sub := p }
  | .store => (List.range o.accs.length).flatMap fun i => [.showStore key o.id i, .perform key o.id i]
  | .scalarLoad _ _ => [.event .scalarFill { who := who, id := o.id }]
  | .scalarAtomic _ => [.event .atomicStep { who := who, id := o.id }, .event .scalarFill { who := who, id := o.id }]
  | .atomic _ _ _ => lead.map fun i => .event .atomicStep { who := who, id := o.id, sub := i }
  | .arrive => [.event .arrivalStep { who := who, id := o.id }]
  | .cellLdv | .cellStv | .cellRcn _ _ => lead.map fun i => .event .cellStep { who := who, id := o.id, sub := i }
  | .fence _ _ => [.event .fenceComplete { who := who, id := o.id }]
  | .launch _ => [.event .carderDecision { who := who, id := o.id }]

/-- An operation of the executing strand as it issues: it has before it every operation that the strand has. -/
def newOp (s : State) (kind : OpKind) (dst : Nat) (accs : List Access) (lg : Bool := false) : MemOp :=
  let c := cur s
  { id := c.nextOp, slot := s.focus.slot,
    prior := (c.ops.filter fun p => p.order.getLsbD s.focus.slot).map fun p => p.id,
    order := BitVec.ofNat 8 (2 ^ s.focus.slot), kind := kind, dst := dst,
    sizing := c.sizing, lg := lg, asid := c.asid, accs := accs }

/-- The executing strand issues an operation: it stands last among its context's, and its work is scheduled. -/
def issueOp (s : State) (kind : OpKind) (dst : Nat) (accs : List Access) (lg : Bool := false) : State :=
  let c := cur s
  let o := newOp s kind dst accs lg
  let s := setCur s { c with ops := c.ops ++ [o], nextOp := c.nextOp + 1 }
  if opAccesses kind && accs.isEmpty then setCur s (dropOp (cur s) o.id)
  else { s with due := s.due ++ workOf s.focus.key o }

/-- Whether a fence of kind rel still holds the executing strand's stores and atomics (12 R259). -/
def relHolds (s : State) : Bool :=
  let c := cur s
  c.ops.any fun o =>
    o.slot == s.focus.slot &&
      (match o.kind with
       | .fence _ scope => !priorDone c.ops o true true (scope == 0)
       | _ => false)

/-- A write waits while a fence holds it. -/
def awaitRel (s : State) : Res Unit := await (!relHolds s) .fence

/-- The events of an instruction that has taken effect are met in turn; the first that differs traps 0x11, and otherwise the
instruction retires (24 R475, R476). -/
def finishRecorded (s : State) (words : Nat) (es : List (Mark × Word)) : State :=
  match meetEvents s es with
  | (t, none) => retire t words
  | (t, some d) => divergeTrap t words d

/-- An event whose value is known when its instruction completes: recorded, then met by a replay. -/
def completeRecorded (s : State) (words : Nat) (m : Mark) (value : Word) : State :=
  finishRecorded (recordEvent s m value) words [(m, value)]

/-- A replay lets an event happen unless an earlier entry of its place belongs to another strand (24 R475). -/
def awaitGate (s : State) (m : Mark) : Res Unit := await (gatesOpen s [m]) .memory

/-- The fills in which two contexts differ, as they are in the first. -/
def fillsChanged (c t : Ctx) : List (Bool × Nat × Fill) :=
  ((t.sregs.filter fun e => (mapGet ({} : Reg) c.sregs e.1).fill != e.2.fill).map fun e =>
      (false, e.1, (mapGet ({} : Reg) c.sregs e.1).fill)) ++
    (t.vregs.filter fun e => (mapGet ({} : Reg) c.vregs e.1).fill != e.2.fill).map fun e =>
      (true, e.1, (mapGet ({} : Reg) c.vregs e.1).fill)

/-- The issue of a recorded operation in a replay: its strand waits until its steps, each at its turn, are performed (24
R475). `before` is the context before its registers were marked pending. -/
def replayIssue (before : Ctx) (s : State) (kind : OpKind) (dst : Nat) (accs : List Access) (words : Nat) : State :=
  let id := (cur s).nextOp
  let t := issueOp s kind dst accs
  hold (setStrand t { curStrand t with replayOp := some { id := id, words := words, undo := fillsChanged before (cur s) } })
    .memory

/-- Issue of an operation whose steps a replay may force: the ordinary issue, or the replayed one. -/
def issueRecorded (before : Ctx) (s : State) (kind : OpKind) (dst : Nat) (accs : List Access) (words : Nat) : Res State :=
  if replays s s.focus.key && !accs.isEmpty then .ok (replayIssue before s kind dst accs words)
  else .ok (retire (issueOp s kind dst accs) words)

end Sys2Proof.Machine
end

