-- ==== Sys2Proof/Machine/Control.lean ====
section
/-! DEFINITION. Branches, calls and returns (05 R118 to R120, 04 R98 and R99, 02 R51 to R54). -/

namespace Sys2Proof.Machine

open Sys2Proof

/-- The target of a direct form (04 R98). -/
def directTarget (s : State) (o : BitVec 22) : Word := (curStrand s).ca + 4 * sxField o

/-- The target of an indirect form (05 R118). -/
def indirectTarget (base : Word) (i : BitVec 10) : Word := base + 4 * sxField i

/-- The checks of an indirect target (04 R99). -/
def checkTarget (s : State) (t : Word) : Res Unit :=
  if t.toNat % 4 ≠ 0 then .error (.trap 0x02 t 0)
  else if codeHeld s s.focus.key t then .error (.wait .memory)
  else
    match fetchCode s s.focus.key t with
    | .error (c, _, d) => .error (.trap c t d)
    | .ok w => if isHeader w then .ok () else .error (.trap 0x02 t 0)

/-- Targets checked in turn: the first that fails decides. -/
def checkTargets (s : State) : List Word → Res Unit
  | [] => .ok ()
  | t :: rest => do
    checkTarget s t
    checkTargets s rest

/-- The trap that a direct call's target raises, if any, and whether the call has pushed before it: a failed fetch comes
after the transfer has taken effect, a word that is no header before anything is pushed (04 R98, 05 R119). -/
def callTarget (s : State) (t : Word) : Bool × Option (BitVec 8 × Word × Word) :=
  match fetchCode s s.focus.key t with
  | .error e => (true, some e)
  | .ok w => if isHeader w then (true, none) else (false, some (0x03, 0, 0))

/-- The strand stands at a target, whose trap, if any, is taken there, with WI = 0 (04 R98). -/
def arriveAt (s : State) (t : Word) (e : Option (BitVec 8 × Word × Word)) : State :=
  match e with
  | none => transfer s t
  | some (c, a, d) => trapHere (transfer s t) c a d

/-- b (R118). -/
def execB (g : BitVec 3) (o : BitVec 22) (s : State) : Host.Outcome State Fault Refusal :=
  run s (guarded g (fun s => .ok (transfer s (directTarget s o))) s)

/-- b.ind (R118). -/
def execBInd (g : BitVec 3) (a : BitVec 6) (i : BitVec 10) (s : State) : Host.Outcome State Fault Refusal :=
  run s (guarded g (fun s => do
    let x ← rdS s a
    checkTarget s (indirectTarget x i)
    .ok (transfer s (indirectTarget x i))) s)

/-- call (R119): the target is checked, the next clause's address is pushed, and the strand transfers. A target that is not
a header traps 0x03 there with nothing pushed. -/
def execCall (g : BitVec 3) (o : BitVec 22) (s : State) : Host.Outcome State Fault Refusal :=
  run s (guarded g (fun s => do
    let t := directTarget s o
    await (!codeHeld s s.focus.key t) .memory
    let (pushes, e) := callTarget s t
    if pushes then
      let p ← pushRas s (nextClause s) false
      .ok (arriveAt p t e)
    else .ok (arriveAt s t e)) s)

/-- call.ind (R119). -/
def execCallInd (g : BitVec 3) (a : BitVec 6) (i : BitVec 10) (s : State) : Host.Outcome State Fault Refusal :=
  run s (guarded g (fun s => do
    let x ← rdS s a
    let t := indirectTarget x i
    checkTarget s t
    let p ← pushRas s (nextClause s) false
    .ok (transfer p t)) s)

/-- The free lane-call record with the lowest number. -/
def freeLaneCall (c : Ctx) : Option Nat := listFind (fun n => !(getLaneCall c n).valid) (List.range 4)

/-- A number inserted into an ascending list. -/
def insertSorted (x : Nat) : List Nat → List Nat
  | [] => [x]
  | y :: rest => if x ≤ y then x :: y :: rest else y :: insertSorted x rest

/-- Numbers in ascending order. -/
def sortUp (xs : List Nat) : List Nat := xs.foldr insertSorted []

/-- call.lane (R120). -/
def execCallLane (g : BitVec 3) (a : BitVec 6) (e : BitVec 1) (s : State) : Host.Outcome State Fault Refusal :=
  run s (do
    let r ← vxA s a
    let lanes := activeLanes s g
    rdV s e [r] lanes
    if lanes.isEmpty then .ok (retire s 1)
    else
      let c := cur s
      let targets := lanes.map fun l => (l, laneVal c r l)
      checkTargets s ((sortUp (targets.map fun t => t.2.toNat)).map (BitVec.ofNat 64))
      match freeLaneCall c with
      | none => .error (.trap 0x0C 0 0)
      | some n =>
        let s ← pushRas s (nextClause s) true
        let c := cur s
        let rec_ : LaneCall :=
          { valid := true, owner := BitVec.ofNat 3 s.focus.slot, outer := (curStrand s).mask, pending := maskOf lanes,
            targets := targets.filter fun t => t.2 != 0, seq := c.callSeq + 1 }
        let s := setCur s (putLaneCall { c with callSeq := c.callSeq + 1 } n rec_)
        .ok (nextGroup s n rec_))

/-- A return through an entry that call.lane pushed (R120): the next group, or the end of the call. DESIGN CHOICE (log entry
81): an entry so marked while the strand has no record, which only a store into the spill area can leave, is popped and
returns as a plain one does. DESIGN CHOICE (log entry 92): an entry found in the spill area while groups are still pending
stays in its slot there. -/
def returnLane (s : State) (p : RasPlace) (addr : Word) : State :=
  match innerLaneCall s with
  | none => transfer (setCur s (dropRas (cur s) p)) addr
  | some (n, r) =>
    if r.pending = 0 then
      let s := setCur s (putLaneCall (dropRas (cur s) p) n {})
      let s := setStrand s { curStrand s with mask := r.outer }
      transfer s addr
    else nextGroup s n r

/-- An entry that ret takes from the spill area is sound, or traps 0x14 with its slot's address (21 R417). DESIGN CHOICE (log
entry 94): the slot tag of a poisoned entry is read from its bytes as they are. -/
def soundEntry (s : State) (p : RasPlace) : Res Unit :=
  match p with
  | .chip _ => .ok ()
  | .spill i =>
    if poisonedRun s (rasPlace s.focus.key i) 8 then .error (.trap 0x14 (spillSlotAddress s.focus.key i) 0x400000) else .ok ()

/-- ret (02 R53, R54; R119, R120). -/
def execRet (g : BitVec 3) (s : State) : Host.Outcome State Fault Refusal :=
  run s (guarded g (fun s =>
    match (rasVisible s).getLast? with
    | none => .error (.trap 0x02 0 0)
    | some (p, e) => do
      soundEntry s p
      let addr := BitVec.ofNat 64 (bf e 56 2 * 4)
      if bitAt e 60 then .ok (returnLane s p addr) else .ok (transfer (setCur s (dropRas (cur s) p)) addr)) s)

end Sys2Proof.Machine
end

