-- ==== Sys2Proof/Machine/Vector.lean ====
section
/-! DEFINITION. Vector instructions (07 R143 to R165, R170 to R174): arithmetic, comparison, selection, conversion,
moves, dot products and activation tables. -/

namespace Sys2Proof.Machine

open Sys2Proof

/-! ## Forms -/

/-- What a form computes for one lane: the lane's new value and the flags it raises. -/
abbrev LaneFn := Ctx → Nat → Word × BitVec 6

/-- The lanes' results, with their flags ORed into FFLAGS. -/
def deliver (c : Ctx) (d : Nat) (outs : List (Nat × (Word × BitVec 6))) : Ctx :=
  outs.foldl (fun c o => orFlags c o.2.2) (dstLanes c d (outs.map fun o => (o.1, o.2.1)))

/-- A short form (R147): the sources are read in every active lane, and the destination lanes get their results. -/
def shortForm (s : State) (g : BitVec 3) (fe : BitVec 1) (d : Nat) (srcs : List Nat) (f : LaneFn) : Res State := do
  let lanes := activeLanes s g
  rdV s fe srcs lanes
  freeV s [d] lanes
  let c := cur s
  .ok (retire (setCur s (deliver c d (lanes.map fun l => (l, f c l)))) 1)

/-- A long form (R148): the destination lanes become pending, and the results are on their way. -/
def longForm (s : State) (g : BitVec 3) (fe : BitVec 1) (d : Nat) (srcs : List Nat) (f : LaneFn) : Res State := do
  let lanes := activeLanes s g
  rdV s fe srcs lanes
  freeV s [d] lanes
  let c := cur s
  let accs := lanes.map fun l => ({ lane := l, data := (f c l).1.toNat, flags := (f c l).2 } : Access)
  if lanes.isEmpty then .ok (retire s 1)
  else .ok (retire (issueOp (setCur s (pendLanes c d lanes)) .longResult d accs) 1)

/-- LONG_RESULT_FILL (R148): the lanes of one pass are filled and their flags set. -/
def fillLong (s : State) (key id pass : Nat) : State :=
  let c := getCtx s key
  match findOp c id with
  | some o =>
    if o.kind = .longResult then
      let mine := fun a : Access => !a.done && a.lane / 32 == pass
      let c := fillLanes c o.dst (o.accs.filter mine)
      let o := { o with accs := o.accs.map fun a => if mine a then { a with done := true } else a }
      let c := if o.accs.all fun a => a.done then dropOp c id else replaceOp c o
      putCtx s key c
    else s
  | none => s

/-- Whether an operation on sub-elements takes a type code: the integer-only forms take 4 to 7 (R151). -/
def arithTakes (op : Arith) (t : BitVec 3) : Bool :=
  match op with
  | .rem | .shl | .shr | .mulhi => !isFloatType t
  | .add | .sub | .mul | .min | .max | .div => true

/-- A two-source operation on every sub-element of a lane. -/
def arithLane (op : Arith) (t : BitVec 3) (x y : Word) : Word × BitVec 6 :=
  eachSub t fun j => arith op t (sub x t j) (sub y t j)

/-- The two-source arithmetic forms (R151, R152). -/
def arithForm (op : Arith) (long : Bool) (g t : BitVec 3) (d a b : BitVec 6) (e : BitVec 1) (s : State) : Res State := do
  need (arithTakes op t) 0x01
  let rd ← vxD s d
  let ra ← vxA s a
  let rb ← vxB s b
  (if long then longForm else shortForm) s g e rd [ra, rb]
    (fun c l => arithLane op t (laneVal c ra l) (laneVal c rb l))

/-- The two-source logic forms, on whole lanes (R151). -/
def logicForm (f : Word → Word → Word) (g : BitVec 3) (d a b : BitVec 6) (e : BitVec 1) (s : State) : Res State := do
  let rd ← vxD s d
  let ra ← vxA s a
  let rb ← vxB s b
  shortForm s g e rd [ra, rb] (fun c l => (f (laneVal c ra l) (laneVal c rb l), 0))

/-- The forms that read d as a third source (R153, R158, R165). -/
def ternaryForm (f : Word → Word → Word → Word × BitVec 6) (g : BitVec 3) (d a b : BitVec 6) (e : BitVec 1)
    (s : State) : Res State := do
  let rd ← vxD s d
  let ra ← vxA s a
  let rb ← vxB s b
  shortForm s g e rd [ra, rb, rd] (fun c l => f (laneVal c ra l) (laneVal c rb l) (laneVal c rd l))

/-- The one-source forms; `ok` says whether the type is taken. -/
def unaryForm (ok : Bool) (f : Word → Word × BitVec 6) (g : BitVec 3) (d a : BitVec 6) (e : BitVec 1) (s : State) :
    Res State := do
  need ok 0x01
  let rd ← vxD s d
  let ra ← vxA s a
  shortForm s g e rd [ra] (fun c l => f (laneVal c ra l))

/-- The forms without a vector source (R162 to R164). -/
def sourceless (f : Nat → Word) (g : BitVec 3) (d : BitVec 6) (s : State) : Res State := do
  let rd ← vxD s d
  shortForm s g 0 rd [] (fun _ l => (f l, 0))

/-! ## Functions on lanes -/

/-- ±(x × y) + c on one sub-element (R153). -/
def fmaSub (t : BitVec 3) (neg : Bool) (x y c : Nat) : Nat × BitVec 6 :=
  if isFloatType t then fmaF (fmtOf t) neg x y c
  else
    let w := subWidth t
    (wrapInt (if neg then intOf w true c - intOf w true x * intOf w true y
      else intOf w true c + intOf w true x * intOf w true y) w, 0)

/-- v.fma and v.fnma on a lane. -/
def fmaLane (t : BitVec 3) (neg : Bool) (x y c : Word) : Word × BitVec 6 :=
  eachSub t fun j => fmaSub t neg (sub x t j) (sub y t j) (sub c t j)

/-- √ of every sub-element (R154). -/
def sqrtLane (t : BitVec 3) (x : Word) : Word × BitVec 6 := eachSub t fun j => sqrtF (fmtOf t) (sub x t j)

/-- A function of bits on every sub-element, given the width; it sets no flag (R155). -/
def bitsLane (t : BitVec 3) (f : Nat → Nat → Nat) (x : Word) : Word × BitVec 6 :=
  eachSub t fun j => (f (subWidth t) (sub x t j), 0)

/-- abs (R155): the sign bit of a float is cleared; signed integers wrap. -/
def absSub (t : BitVec 3) (w x : Nat) : Nat :=
  if isFloatType t then x % 2 ^ (w - 1)
  else if isSignedType t then wrapInt ((toSigned x w).natAbs : Int) w
  else x

/-- neg (R155): the sign bit of a float is inverted; integers wrap. -/
def negSub (t : BitVec 3) (w x : Nat) : Nat :=
  if isFloatType t then (x + 2 ^ (w - 1)) % 2 ^ w else wrapInt (-(x : Int)) w

/-- All ones or zero. -/
def onesIf (w : Nat) (b : Bool) : Nat := if b then 2 ^ w - 1 else 0

/-- v.cmps on a lane (R157). -/
def cmpsLane (k : Nat) (t : BitVec 3) (x y : Word) : Word × BitVec 6 :=
  eachSub t fun j =>
    let r := compareSub k t (sub x t j) (sub y t j)
    (onesIf (subWidth t) r.1, r.2)

/-- v.bsel on a lane (R158). -/
def bselLane (x y sel : Word) : Word := (sel &&& x) ||| (~~~ sel &&& y)

/-- Sub-elements computed for j below n and zero from there on. -/
def firstSubs (t : BitVec 3) (n : Nat) (f : Nat → Nat × BitVec 6) : Word × BitVec 6 :=
  eachSub t fun j => if j < n then f j else (0, 0)

/-- v.cvt on a lane (R159). -/
def cvtLane (t ts : BitVec 3) (mode : Nat) (x : Word) : Word × BitVec 6 :=
  firstSubs t (min (subs t) (subs ts)) fun j => convert t ts mode (sub x ts j)

/-- The source type of v.pack (R160). -/
def wideType (t : BitVec 3) : BitVec 3 :=
  match t.toNat with
  | 0 => 3 | 1 => 0 | 2 => 0 | 4 => 6 | _ => 7

/-- v.pack on a lane (R160). -/
def packLane (t : BitVec 3) (x y : Word) : Word × BitVec 6 :=
  let h := subs t / 2
  eachSub t fun j =>
    if j < h then convert t (wideType t) 0 (sub x (wideType t) j) else convert t (wideType t) 0 (sub y (wideType t) (j - h))

/-- An integer as a sub-element of a type, rounded in rne or wrapped (R162, R164). -/
def intSub (t : BitVec 3) (x : Int) : Nat :=
  if isFloatType t then (roundNum (fmtOf t) 0 (Num.ofInt x)).1 else wrapInt x (subWidth t)

/-- v.movi's lane (R162). -/
def moviLane (t : BitVec 3) (i : BitVec 13) : Word := (eachSub t fun _ => (intSub t i.toInt, 0)).1

/-- v.bcs's lane (R163). -/
def bcsLane (t : BitVec 3) (x : Word) : Word := (eachSub t fun _ => (x.toNat % 2 ^ subWidth t, 0)).1

/-- v.iota's lane, counted from the span base (R164). -/
def iotaLane (t : BitVec 3) (i : BitVec 13) (r : Nat) : Word :=
  (eachSub t fun j => (intSub t (((r * subs t + j : Nat) : Int) * i.toInt), 0)).1

/-- One binary32 sub-element of v.dot (R165): two exact products and the addend, rounded once. -/
def dotSub (t : BitVec 3) (x y c : Word) (j : Nat) : Nat × BitVec 6 :=
  let f := fmtOf t
  let xs := [sub x t (2 * j), sub x t (2 * j + 1)]
  let ys := [sub y t (2 * j), sub y t (2 * j + 1)]
  let p := Num.mul (numOf f (sub x t (2 * j))) (numOf f (sub y t (2 * j)))
  let q := Num.mul (numOf f (sub x t (2 * j + 1))) (numOf f (sub y t (2 * j + 1)))
  let r := Num.sum [p.1, q.1, numOf binary32 (sub c 0 j)]
  withFlags (roundNum binary32 0 r.1)
    (p.2 ||| q.2 ||| r.2 ||| snanFlag f (xs ++ ys) ||| snanFlag binary32 [sub c 0 j])

/-- v.dot on a lane (R165). -/
def dotLane (t : BitVec 3) (x y c : Word) : Word × BitVec 6 := eachSub 0 fun j => dotSub t x y c j

/-! ## Comparison into a lane mask -/

/-- K[k] with the bits of given lanes replaced (06 R140). -/
def setLanesK (c : Ctx) (k : Nat) (bits : List (Nat × Bool)) : Ctx :=
  let on := maskOf ((bits.filter fun e => e.2).map Prod.fst)
  let all := maskOf (bits.map Prod.fst)
  putK c k ((getK c k &&& ~~~ all) ||| on)

/-- v.cmp (R156): sub-element 0 of each active lane. -/
def compareForm (k : Nat) (g t kd : BitVec 3) (a b : BitVec 6) (e : BitVec 1) (s : State) : Res State := do
  let ra ← vxA s a
  let rb ← vxB s b
  let lanes := activeLanes s g
  rdV s e [ra, rb] lanes
  let c := cur s
  let outs := lanes.map fun l => (l, compareSub k t (sub (laneVal c ra l) t 0) (sub (laneVal c rb l) t 0))
  let c := outs.foldl (fun c o => orFlags c o.2.2) (setLanesK c kd.toNat (outs.map fun o => (o.1, o.2.1)))
  .ok (retire (setCur s c) 1)

/-! ## Activation tables (R170 to R174) -/

/-- An entry's number among a core's: bank × 1024 + table × 256 + entry. -/
def actIndex (bank : Bool) (n i : Nat) : Nat := bank.toNat * 1024 + n * 256 + i

/-- An entry of a core's tables; zero after reset. -/
def actEntry (c : Core) (bank : Bool) (n i : Nat) : Word := mapGet (0 : Word) c.acts (actIndex bank n i)

/-- ⌊x⌋ of a finite number. -/
def floorOf (neg : Bool) (m : Nat) (e : Int) : Int :=
  let v : Int := if neg then -(m : Int) else (m : Int)
  if 0 ≤ e then v * ((2 ^ e.toNat : Nat) : Int) else v / ((2 ^ (-e).toNat : Nat) : Int)

/-- The segment that v.act takes for a number that is no NaN (R171). DESIGN CHOICE (log entry 72): what the index computation
meets in the range word (a signalling NaN, ∞ − ∞, 0 × ∞) sets no NV; R64 and R171 leave it open. -/
def actSegment (range : Word) (x : Num) : Nat :=
  let lo := numOf binary32 (range.toNat % 2 ^ 32)
  let sc := numOf binary32 (range.toNat / 2 ^ 32)
  match (Num.mul (Num.add x lo.negate).1 sc).1 with
  | .nan => 1
  | .inf true => 1
  | .inf false => 255
  | .fin neg m e => 1 + (min 254 (max 0 (floorOf neg m e))).toNat

/-- v.act on a sub-element (R171). The flags are those of x, c0, c1 and of the sum; the index computation sets none (DESIGN
CHOICE, log entry 72). -/
def actSub (c : Core) (n : Nat) (t : BitVec 3) (x : Nat) : Nat × BitVec 6 :=
  let f := fmtOf t
  if isNan f x then (f.nan, snanFlag f [x])
  else
    let v := numOf f x
    let seg := actEntry c c.actBank n (actSegment (actEntry c c.actBank n 0) v)
    let c0 := numOf binary32 (seg.toNat % 2 ^ 32)
    let c1 := numOf binary32 (seg.toNat / 2 ^ 32)
    let p := if c1.isZero then (Num.fin false 0 0, 0) else Num.mul v c1
    let r := Num.add p.1 c0
    withFlags (roundNum f 0 r.1)
      (p.2 ||| r.2 ||| snanFlag binary32 [seg.toNat % 2 ^ 32] |||
        (if c1.isZero then 0 else snanFlag binary32 [seg.toNat / 2 ^ 32]))

/-- v.act on a lane. -/
def actLane (c : Core) (n : Nat) (t : BitVec 3) (x : Word) : Word × BitVec 6 :=
  eachSub t fun j => actSub c n t (sub x t j)

/-- The executing warp's core. -/
def curCore (s : State) : Core := getCore s (keyCore s.focus.key)

/-- No flip is pending on the core (R172, R173). -/
def awaitTables (s : State) : Res Unit := await (curCore s).actFlip.isNone .table

/-- v.act (R171). -/
def execVAct (g t : BitVec 3) (d a : BitVec 6) (n : BitVec 2) (e : BitVec 1) (s : State) :
    Host.Outcome State Fault Refusal :=
  run s (do
    need (decide (t.toNat < 3)) 0x01
    let rd ← vxD s d
    let ra ← vxA s a
    awaitTables s
    shortForm s g e rd [ra] (fun c l => actLane (curCore s) n.toNat t (laneVal c ra l)))

/-- act.ld (R172): one write of the shadow bank for each active lane is on its way. -/
def execActLd (g : BitVec 3) (n : BitVec 2) (a b : BitVec 6) (e : BitVec 1) (s : State) :
    Host.Outcome State Fault Refusal :=
  run s (do
    let ra ← vxA s a
    let rb ← vxB s b
    let lanes := activeLanes s g
    rdV s e [ra, rb] lanes
    awaitTables s
    let c := cur s
    let k := curCore s
    let writes := lanes.map fun l =>
      ({ bank := !k.actBank, index := n.toNat * 256 + bf (laneVal c rb l) 7 0, value := laneVal c ra l } : ActWrite)
    let s := putCore s (keyCore s.focus.key) { k with actWrites := k.actWrites ++ writes }
    let due := writes.map fun _ => Act.event .actLdWrite { place := keyCore s.focus.key }
    .ok (retire { s with due := s.due ++ due } 1))

/-- ACT_LD_WRITE (R172). -/
def execActLdWrite (s : State) : Host.Outcome State Fault Refusal :=
  .next (putCore s s.input.place (landActWrite (getCore s s.input.place)))

/-- act.flip (R173): the flip becomes pending and its strand waits for it; a second one waits its turn. -/
def execActFlip (s : State) : Host.Outcome State Fault Refusal :=
  let k := curCore s
  match k.actFlip with
  | some _ => .next (hold s .table)
  | none =>
    let s := putCore s (keyCore s.focus.key) { k with actFlip := some s.focus }
    .next (hold (later s (.event .actFlipComplete { place := keyCore s.focus.key })) .table)

/-- ACT_FLIP_COMPLETE (R173): once every earlier act.ld has written. -/
def execActFlipComplete (s : State) : Host.Outcome State Fault Refusal :=
  let k := getCore s s.input.place
  .next (if k.actWrites.isEmpty then
      match k.actFlip with
      | some a => arrivedOf s (completeFlip s s.input.place) a.key
      | none => s
    else again s (.event .actFlipComplete s.input))

/-! ## Meanings -/

/-- v.add (R151). -/
def execVAdd (g t : BitVec 3) (d a b : BitVec 6) (e : BitVec 1) (s : State) : Host.Outcome State Fault Refusal :=
  run s (arithForm .add false g t d a b e s)

/-- v.sub (R151). -/
def execVSub (g t : BitVec 3) (d a b : BitVec 6) (e : BitVec 1) (s : State) : Host.Outcome State Fault Refusal :=
  run s (arithForm .sub false g t d a b e s)

/-- v.mul (R151). -/
def execVMul (g t : BitVec 3) (d a b : BitVec 6) (e : BitVec 1) (s : State) : Host.Outcome State Fault Refusal :=
  run s (arithForm .mul false g t d a b e s)

/-- v.min (R151). -/
def execVMin (g t : BitVec 3) (d a b : BitVec 6) (e : BitVec 1) (s : State) : Host.Outcome State Fault Refusal :=
  run s (arithForm .min false g t d a b e s)

/-- v.max (R151). -/
def execVMax (g t : BitVec 3) (d a b : BitVec 6) (e : BitVec 1) (s : State) : Host.Outcome State Fault Refusal :=
  run s (arithForm .max false g t d a b e s)

/-- v.div (R151, R152). -/
def execVDiv (g t : BitVec 3) (d a b : BitVec 6) (e : BitVec 1) (s : State) : Host.Outcome State Fault Refusal :=
  run s (arithForm .div true g t d a b e s)

/-- v.rem (R151, R152). -/
def execVRem (g t : BitVec 3) (d a b : BitVec 6) (e : BitVec 1) (s : State) : Host.Outcome State Fault Refusal :=
  run s (arithForm .rem true g t d a b e s)

/-- v.shl (R151). -/
def execVShl (g t : BitVec 3) (d a b : BitVec 6) (e : BitVec 1) (s : State) : Host.Outcome State Fault Refusal :=
  run s (arithForm .shl false g t d a b e s)

/-- v.shr (R151). -/
def execVShr (g t : BitVec 3) (d a b : BitVec 6) (e : BitVec 1) (s : State) : Host.Outcome State Fault Refusal :=
  run s (arithForm .shr false g t d a b e s)

/-- v.mulhi (R151). -/
def execVMulhi (g t : BitVec 3) (d a b : BitVec 6) (e : BitVec 1) (s : State) : Host.Outcome State Fault Refusal :=
  run s (arithForm .mulhi false g t d a b e s)

/-- v.and (R151). -/
def execVAnd (g _t : BitVec 3) (d a b : BitVec 6) (e : BitVec 1) (s : State) : Host.Outcome State Fault Refusal :=
  run s (logicForm (· &&& ·) g d a b e s)

/-- v.or (R151). -/
def execVOr (g _t : BitVec 3) (d a b : BitVec 6) (e : BitVec 1) (s : State) : Host.Outcome State Fault Refusal :=
  run s (logicForm (· ||| ·) g d a b e s)

/-- v.xor (R151). -/
def execVXor (g _t : BitVec 3) (d a b : BitVec 6) (e : BitVec 1) (s : State) : Host.Outcome State Fault Refusal :=
  run s (logicForm (· ^^^ ·) g d a b e s)

/-- v.fma (R153). -/
def execVFma (g t : BitVec 3) (d a b : BitVec 6) (e : BitVec 1) (s : State) : Host.Outcome State Fault Refusal :=
  run s (ternaryForm (fmaLane t false) g d a b e s)

/-- v.fnma (R153). -/
def execVFnma (g t : BitVec 3) (d a b : BitVec 6) (e : BitVec 1) (s : State) : Host.Outcome State Fault Refusal :=
  run s (ternaryForm (fmaLane t true) g d a b e s)

/-- v.bsel (R158). -/
def execVBsel (g _t : BitVec 3) (d a b : BitVec 6) (e : BitVec 1) (s : State) : Host.Outcome State Fault Refusal :=
  run s (ternaryForm (fun x y c => (bselLane x y c, 0)) g d a b e s)

/-- v.dot (R165). -/
def execVDot (g t : BitVec 3) (d a b : BitVec 6) (e : BitVec 1) (s : State) : Host.Outcome State Fault Refusal :=
  run s (do
    need (t == 1 || t == 2) 0x01
    ternaryForm (dotLane t) g d a b e s)

/-- v.sqrt (R154). -/
def execVSqrt (g t : BitVec 3) (d a : BitVec 6) (e : BitVec 1) (s : State) : Host.Outcome State Fault Refusal :=
  run s (do
    need (isFloatType t) 0x01
    let rd ← vxD s d
    let ra ← vxA s a
    longForm s g e rd [ra] (fun c l => sqrtLane t (laneVal c ra l)))

/-- v.un.abs (R155). -/
def execVUnAbs (g t : BitVec 3) (d a : BitVec 6) (e : BitVec 1) (s : State) : Host.Outcome State Fault Refusal :=
  run s (unaryForm true (bitsLane t (absSub t)) g d a e s)

/-- v.un.neg (R155). -/
def execVUnNeg (g t : BitVec 3) (d a : BitVec 6) (e : BitVec 1) (s : State) : Host.Outcome State Fault Refusal :=
  run s (unaryForm true (bitsLane t (negSub t)) g d a e s)

/-- v.un.not (R155). -/
def execVUnNot (g t : BitVec 3) (d a : BitVec 6) (e : BitVec 1) (s : State) : Host.Outcome State Fault Refusal :=
  run s (unaryForm true (bitsLane t (fun w x => 2 ^ w - 1 - x)) g d a e s)

/-- v.un.popc (R155). -/
def execVUnPopc (g t : BitVec 3) (d a : BitVec 6) (e : BitVec 1) (s : State) : Host.Outcome State Fault Refusal :=
  run s (unaryForm (!isFloatType t) (bitsLane t (fun w x => countOnes x w)) g d a e s)

/-- v.un.clz (R155). -/
def execVUnClz (g t : BitVec 3) (d a : BitVec 6) (e : BitVec 1) (s : State) : Host.Outcome State Fault Refusal :=
  run s (unaryForm (!isFloatType t) (bitsLane t (fun w x => leadingZeros x w)) g d a e s)

/-- v.un.ctz (R155). -/
def execVUnCtz (g t : BitVec 3) (d a : BitVec 6) (e : BitVec 1) (s : State) : Host.Outcome State Fault Refusal :=
  run s (unaryForm (!isFloatType t) (bitsLane t (fun w x => trailingZeros x w)) g d a e s)

/-- v.un.brev (R155). -/
def execVUnBrev (g t : BitVec 3) (d a : BitVec 6) (e : BitVec 1) (s : State) : Host.Outcome State Fault Refusal :=
  run s (unaryForm (!isFloatType t) (bitsLane t (fun w x => reverseBits x w)) g d a e s)

/-- v.un.rint (R155). -/
def execVUnRint (g t : BitVec 3) (d a : BitVec 6) (m : BitVec 2) (e : BitVec 1) (s : State) :
    Host.Outcome State Fault Refusal :=
  run s (unaryForm (isFloatType t) (fun x => eachSub t fun j => rintF (fmtOf t) m.toNat (sub x t j)) g d a e s)

/-- v.cmp.eq (R156). -/
def execVCmpEq (g t k : BitVec 3) (a b : BitVec 6) (e : BitVec 1) (s : State) : Host.Outcome State Fault Refusal :=
  run s (compareForm 0 g t k a b e s)

/-- v.cmp.ne (R156). -/
def execVCmpNe (g t k : BitVec 3) (a b : BitVec 6) (e : BitVec 1) (s : State) : Host.Outcome State Fault Refusal :=
  run s (compareForm 1 g t k a b e s)

/-- v.cmp.lt (R156). -/
def execVCmpLt (g t k : BitVec 3) (a b : BitVec 6) (e : BitVec 1) (s : State) : Host.Outcome State Fault Refusal :=
  run s (compareForm 2 g t k a b e s)

/-- v.cmp.le (R156). -/
def execVCmpLe (g t k : BitVec 3) (a b : BitVec 6) (e : BitVec 1) (s : State) : Host.Outcome State Fault Refusal :=
  run s (compareForm 3 g t k a b e s)

/-- v.cmp.gt (R156). -/
def execVCmpGt (g t k : BitVec 3) (a b : BitVec 6) (e : BitVec 1) (s : State) : Host.Outcome State Fault Refusal :=
  run s (compareForm 4 g t k a b e s)

/-- v.cmp.ge (R156). -/
def execVCmpGe (g t k : BitVec 3) (a b : BitVec 6) (e : BitVec 1) (s : State) : Host.Outcome State Fault Refusal :=
  run s (compareForm 5 g t k a b e s)

/-- v.cmps.eq (R157). -/
def execVCmpsEq (g t : BitVec 3) (d a b : BitVec 6) (e : BitVec 1) (s : State) : Host.Outcome State Fault Refusal :=
  run s (do
    let rd ← vxD s d
    let ra ← vxA s a
    let rb ← vxB s b
    shortForm s g e rd [ra, rb] (fun c l => cmpsLane 0 t (laneVal c ra l) (laneVal c rb l)))

/-- v.cmps.lt (R157). -/
def execVCmpsLt (g t : BitVec 3) (d a b : BitVec 6) (e : BitVec 1) (s : State) : Host.Outcome State Fault Refusal :=
  run s (do
    let rd ← vxD s d
    let ra ← vxA s a
    let rb ← vxB s b
    shortForm s g e rd [ra, rb] (fun c l => cmpsLane 2 t (laneVal c ra l) (laneVal c rb l)))

/-- v.cmps.le (R157). -/
def execVCmpsLe (g t : BitVec 3) (d a b : BitVec 6) (e : BitVec 1) (s : State) : Host.Outcome State Fault Refusal :=
  run s (do
    let rd ← vxD s d
    let ra ← vxA s a
    let rb ← vxB s b
    shortForm s g e rd [ra, rb] (fun c l => cmpsLane 3 t (laneVal c ra l) (laneVal c rb l)))

/-- v.cvt (R159). -/
def execVCvt (g t : BitVec 3) (d a : BitVec 6) (m : BitVec 2) (ts : BitVec 3) (e : BitVec 1) (s : State) :
    Host.Outcome State Fault Refusal :=
  run s (unaryForm true (cvtLane t ts m.toNat) g d a e s)

/-- v.pack (R160). -/
def execVPack (g t : BitVec 3) (d a b : BitVec 6) (e : BitVec 1) (s : State) : Host.Outcome State Fault Refusal :=
  run s (do
    need (t != 3 && t != 6 && t != 7) 0x01
    let rd ← vxD s d
    let ra ← vxA s a
    let rb ← vxB s b
    shortForm s g e rd [ra, rb] (fun c l => packLane t (laneVal c ra l) (laneVal c rb l)))

/-- v.mov (R161). -/
def execVMov (g _t : BitVec 3) (d a : BitVec 6) (e : BitVec 1) (s : State) : Host.Outcome State Fault Refusal :=
  run s (unaryForm true (fun x => (x, 0)) g d a e s)

/-- v.movi (R162). -/
def execVMovi (g t : BitVec 3) (d : BitVec 6) (i : BitVec 13) (s : State) : Host.Outcome State Fault Refusal :=
  run s (sourceless (fun _ => moviLane t i) g d s)

/-- v.bcs (R163): the scalar is read once. -/
def execVBcs (g t : BitVec 3) (d a : BitVec 6) (s : State) : Host.Outcome State Fault Refusal :=
  run s (do
    let _ ← vxD s d
    let x ← rdS s a
    sourceless (fun _ => bcsLane t x) g d s)

/-- v.iota (R164). -/
def execVIota (g t : BitVec 3) (d : BitVec 6) (i : BitVec 13) (s : State) : Host.Outcome State Fault Refusal :=
  run s (sourceless (fun l => iotaLane t i (l - spanBase (cur s) (curStrand s))) g d s)

/-- LONG_RESULT_FILL (R148). -/
def execLongResultFill (s : State) : Host.Outcome State Fault Refusal :=
  .next (fillLong s s.input.who.key s.input.id s.input.sub)

end Sys2Proof.Machine
end

