-- ==== Sys2Proof/Machine/CrossLane.lean ====
section
/-! DEFINITION. Cross-lane moves, reductions and scans, lane masks, and bit streams (10 R209 to R219, R223 to R227). -/

namespace Sys2Proof.Machine

open Sys2Proof

/-! ## Spans (06 R137) -/

/-- The executing strand's span: its first lane and its width. -/
def spanOf (s : State) : Nat × Nat := (spanBase (cur s) (curStrand s), spanWidth (cur s))

/-- The lanes of a span. -/
def spanMask (sp : Nat × Nat) : Mask := BitVec.ofNat 64 ((2 ^ sp.2 - 1) * 2 ^ sp.1)

/-- The value that a cross-lane form reads of a source lane: zero outside the active lanes (R209). -/
def crossVal (c : Ctx) (act : Mask) (r l : Nat) : Word := if act.getLsbD l then laneVal c r l else 0

/-- A short form whose results depend on all active lanes together: each active lane with its value and flags. -/
def crossForm (s : State) (g : BitVec 3) (fe : BitVec 1) (d : Nat) (srcs : List Nat)
    (f : Ctx → List Nat → List (Nat × (Word × BitVec 6))) : Res State := do
  let lanes := activeLanes s g
  rdV s fe srcs lanes
  freeV s [d] lanes
  let c := cur s
  .ok (retire (setCur s (deliver c d (f c lanes))) 1)

/-! ## Shuffles and broadcast (R212 to R214) -/

/-- x.shfl on a lane (R212). -/
def shflLane (c : Ctx) (act : Mask) (sp : Nat × Nat) (t : BitVec 3) (ra : Nat) (x : Word) : Word :=
  (eachSub t fun j =>
    let e := sub x t j
    (if e < sp.2 * subs t then sub (crossVal c act ra (sp.1 + e / subs t)) t (e % subs t) else 0, 0)).1

/-- x.shfl (R212). -/
def execXShfl (g t : BitVec 3) (d a b : BitVec 6) (e : BitVec 1) (s : State) : Host.Outcome State Fault Refusal :=
  run s (do
    let rd ← vxD s d
    let ra ← vxA s a
    let rb ← vxB s b
    let sp := spanOf s
    shortForm s g e rd [ra, rb] (fun c l => (shflLane c (activeMask s g) sp t ra (laneVal c rb l), 0)))

/-- The fixed moves of x.shfli (R213). -/
inductive Move where
  | xor | up | down | rot
  deriving DecidableEq, Repr

/-- The source of lane r of a span of width w, counted from its base (R213). -/
def moveSource (m : Move) (dist w r : Nat) : Option Nat :=
  match m with
  | .xor => if Nat.xor r dist < w then some (Nat.xor r dist) else none
  | .up => if dist ≤ r then some (r - dist) else none
  | .down => if r + dist < w then some (r + dist) else none
  | .rot => some ((r + dist) % w)

/-- x.shfli (R213). -/
def moveForm (m : Move) (g : BitVec 3) (d a : BitVec 6) (dist : BitVec 5) (s : State) : Res State := do
  let rd ← vxD s d
  let ra ← vxA s a
  let sp := spanOf s
  shortForm s g 0 rd [ra] (fun c l =>
    (match moveSource m dist.toNat sp.2 (l - sp.1) with
     | some r => crossVal c (activeMask s g) ra (sp.1 + r)
     | none => laneVal c ra l, 0))

/-- x.bcast (R214). -/
def execXBcast (g _t : BitVec 3) (d a n : BitVec 6) (e : BitVec 1) (s : State) : Host.Outcome State Fault Refusal :=
  run s (do
    let rd ← vxD s d
    let ra ← vxA s a
    let sp := spanOf s
    let from_ := if n.toNat < sp.2 then crossVal (cur s) (activeMask s g) ra (sp.1 + n.toNat) else 0
    shortForm s g e rd [ra] (fun _ _ => (from_, 0)))

/-! ## Reductions and scans (R215, R216) -/

/-- The identity of an operation on a type (R216). -/
def foldIdentity (k : Fold) (t : BitVec 3) : Nat :=
  let w := subWidth t
  let f := fmtOf t
  match k with
  | .add | .or | .xor => 0
  | .and => 2 ^ w - 1
  | .min =>
    if isFloatType t then f.infBits else if isSignedType t then 2 ^ (w - 1) - 1 else 2 ^ w - 1
  | .max => if isFloatType t then f.signBit + f.infBits else if isSignedType t then 2 ^ (w - 1) else 0

/-- One sub-element position combined in ascending lane order (R215): a float sum is exact and rounded once. -/
def combineSub (k : Fold) (t : BitVec 3) (xs : List Nat) : Nat × BitVec 6 :=
  match k with
  | .add =>
    if isFloatType t then
      let f := fmtOf t
      let r := Num.sum (xs.map (numOf f))
      withFlags (roundNum f 0 r.1) (r.2 ||| snanFlag f xs)
    else (xs.foldl (· + ·) 0 % 2 ^ subWidth t, 0)
  | .min => xs.foldl (fun acc x => withFlags (arith .min t acc.1 x) acc.2) (foldIdentity .min t, 0)
  | .max => xs.foldl (fun acc x => withFlags (arith .max t acc.1 x) acc.2) (foldIdentity .max t, 0)
  | .and => (xs.foldl Nat.land (foldIdentity .and t), 0)
  | .or => (xs.foldl Nat.lor 0, 0)
  | .xor => (xs.foldl Nat.xor 0, 0)

/-- A combination of lanes; the identity where there is none. -/
def combineLanes (k : Fold) (t : BitVec 3) (xs : List Word) : Word × BitVec 6 :=
  eachSub t fun j => if xs.isEmpty then (foldIdentity k t, 0) else combineSub k t (xs.map fun x => sub x t j)

/-- x.red (R215). -/
def reduceForm (k : Fold) (g t : BitVec 3) (d a : BitVec 6) (e : BitVec 1) (s : State) : Res State := do
  let rd ← vxD s d
  let ra ← vxA s a
  crossForm s g e rd [ra] (fun c lanes =>
    let r := combineLanes k t (lanes.map (laneVal c ra))
    lanes.map fun l => (l, r))

/-- x.scan (R215, R216): over the active lanes at or below each lane, or strictly below it. -/
def scanForm (k : Fold) (g t : BitVec 3) (d a : BitVec 6) (excl e : BitVec 1) (s : State) : Res State := do
  let rd ← vxD s d
  let ra ← vxA s a
  crossForm s g e rd [ra] (fun c lanes =>
    lanes.map fun l =>
      (l, combineLanes k t ((lanes.filter fun m => decide (m < l) || (m == l && excl == 0)).map (laneVal c ra))))

/-! ## Lane masks (R217 to R219) -/

/-- Whether a sub-element is nonzero; zeros of both signs are zero (R217). -/
def nonzeroSub (t : BitVec 3) (x : Nat) : Bool :=
  if isFloatType t then x % 2 ^ (subWidth t - 1) != 0 else x != 0

/-- x.ballot (R217). -/
def execXBallot (g t k : BitVec 3) (a : BitVec 6) (e : BitVec 1) (s : State) : Host.Outcome State Fault Refusal :=
  run s (do
    let ra ← vxA s a
    let lanes := activeLanes s g
    rdV s e [ra] lanes
    let c := cur s
    .ok (retire (setCur s (setLanesK c k.toNat (lanes.map fun l => (l, nonzeroSub t (sub (laneVal c ra l) t 0))))) 1))

/-- A lane-mask operation within mask() (R218). -/
def maskOp (f : Mask → Mask → Mask) (g d a b : BitVec 3) (s : State) : Res State :=
  guarded g (fun s =>
    let c := cur s
    let m := (curStrand s).mask
    let x := f (getK c a.toNat) (getK c b.toNat)
    .ok (retire (setCur s (putK c d.toNat ((getK c d.toNat &&& ~~~ m) ||| (x &&& m)))) 1)) s

/-- k.op.from (R218): the whole span. -/
def execKOpFrom (g d : BitVec 3) (a : BitVec 6) (s : State) : Host.Outcome State Fault Refusal :=
  run s (guarded g (fun s => do
    let x ← rdS s a
    let c := cur s
    let sp := spanOf s
    let m := spanMask sp
    .ok (retire (setCur s (putK c d.toNat ((getK c d.toNat &&& ~~~ m) ||| ((x <<< sp.1) &&& m)))) 1)) s)

/-- The span of a k register, moved to bit 0. -/
def spanBits (s : State) (k : BitVec 3) : Word := (getK (cur s) k.toNat &&& spanMask (spanOf s)) >>> (spanOf s).1

/-- k.op.to (R218). -/
def execKOpTo (g : BitVec 3) (d : BitVec 6) (a : BitVec 3) (s : State) : Host.Outcome State Fault Refusal :=
  run s (guarded g (fun s => do
    freeS s d
    .ok (retire (wrS s d (spanBits s a)) 1)) s)

/-- k.op.popc (R218). -/
def execKOpPopc (g : BitVec 3) (d : BitVec 6) (a : BitVec 3) (s : State) : Host.Outcome State Fault Refusal :=
  run s (guarded g (fun s => do
    freeS s d
    .ok (retire (wrS s d (BitVec.ofNat 64 (countOnes (spanBits s a).toNat 64))) 1)) s)

/-- k.test.any (R219). -/
def execKTestAny (g p k : BitVec 3) (s : State) : Host.Outcome State Fault Refusal :=
  run s (guarded g (fun s => .ok (retire (wrP s p (getK (cur s) k.toNat &&& (curStrand s).mask != 0)) 1)) s)

/-- k.test.all (R219). -/
def execKTestAll (g p k : BitVec 3) (s : State) : Host.Outcome State Fault Refusal :=
  run s (guarded g (fun s =>
    .ok (retire (wrP s p (getK (cur s) k.toNat &&& (curStrand s).mask == (curStrand s).mask)) 1)) s)

/-! ## Bit streams (R223 to R226) -/

/-- A vector register's successor, checked against the allotment (04 R93). -/
def nextReg (s : State) (r k : Nat) : Res Nat := if r + k < (cur s).allot then .ok (r + k) else .error (.trap 0x04 0 0)

/-- The bits of a lane's window from its cursor on; positions from 128 on read 0 (R224). -/
def windowBits (c : Ctx) (ra l n : Nat) : Nat :=
  ((laneVal c ra l).toNat + (laneVal c (ra + 1) l).toNat * 2 ^ 64) / 2 ^ (getCursor c l).toNat % 2 ^ n

/-- Cursors of lanes set. -/
def setCursors (c : Ctx) : List (Nat × Nat) → Ctx
  | [] => c
  | (l, x) :: rest => setCursors (putCursor c l (BitVec.ofNat 7 x)) rest

/-- bs.rd (R224); t is 0 for s64 and 1 for n64. -/
def execBsRd (g : BitVec 3) (t : BitVec 1) (d a n : BitVec 6) (e : BitVec 1) (s : State) :
    Host.Outcome State Fault Refusal :=
  run s (do
    let rd ← vxD s d
    let ra ← vxA s a
    let rb ← nextReg s ra 1
    let lanes := activeLanes s g
    rdV s e [ra, rb] lanes
    freeV s [rd] lanes
    let k := n.toNat + 1
    let c := cur s
    let outs := lanes.map fun l =>
      (l, if t = 0 then sxWord (windowBits c ra l k) k else BitVec.ofNat 64 (windowBits c ra l k))
    .ok (retire (setCur s
      (setCursors (dstLanes c rd outs) (lanes.map fun l => (l, min 127 ((getCursor c l).toNat + k))))) 1))

/-- bs.fill (R225). -/
def execBsFill (g : BitVec 3) (d a b : BitVec 6) (e : BitVec 1) (s : State) : Host.Outcome State Fault Refusal :=
  run s (do
    let rd ← vxD s d
    let ra ← vxA s a
    let ra1 ← nextReg s ra 1
    let rb ← vxB s b
    let lanes := activeLanes s g
    let c := cur s
    let full := fun l => decide (64 ≤ (getCursor c l).toNat)
    let slide := lanes.filter full
    rdV s e [ra1, rb] slide
    freeV s [ra, ra1] slide
    freeV s [rd] lanes
    let c1 := dstLanes c ra (slide.map fun l => (l, laneVal c ra1 l))
    let c2 := dstLanes c1 ra1 (slide.map fun l => (l, laneVal c rb l))
    let c3 := setCursors c2 (slide.map fun l => (l, (getCursor c l).toNat - 64))
    .ok (retire (setCur s (dstLanes c3 rd (lanes.map fun l => (l, if full l then 1 else 0)))) 1))

/-- bs.cur.get (R226). -/
def execBsCurGet (g : BitVec 3) (d : BitVec 6) (s : State) : Host.Outcome State Fault Refusal :=
  run s (do
    let rd ← vxD s d
    shortForm s g 0 rd [] (fun c l => ((getCursor c l).zeroExtend 64, 0)))

/-- bs.cur.set (R226). -/
def execBsCurSet (g : BitVec 3) (a : BitVec 6) (e : BitVec 1) (s : State) : Host.Outcome State Fault Refusal :=
  run s (do
    let ra ← vxA s a
    let lanes := activeLanes s g
    rdV s e [ra] lanes
    let c := cur s
    .ok (retire (setCur s (setCursors c (lanes.map fun l => (l, (laneVal c ra l).toNat % 128)))) 1))

/-! ## Meanings -/

/-- x.shfli.xor (R213). -/
def execXShfliXor (g : BitVec 3) (d a : BitVec 6) (dist : BitVec 5) (s : State) : Host.Outcome State Fault Refusal :=
  run s (moveForm .xor g d a dist s)

/-- x.shfli.up (R213). -/
def execXShfliUp (g : BitVec 3) (d a : BitVec 6) (dist : BitVec 5) (s : State) : Host.Outcome State Fault Refusal :=
  run s (moveForm .up g d a dist s)

/-- x.shfli.down (R213). -/
def execXShfliDown (g : BitVec 3) (d a : BitVec 6) (dist : BitVec 5) (s : State) : Host.Outcome State Fault Refusal :=
  run s (moveForm .down g d a dist s)

/-- x.shfli.rot (R213). -/
def execXShfliRot (g : BitVec 3) (d a : BitVec 6) (dist : BitVec 5) (s : State) : Host.Outcome State Fault Refusal :=
  run s (moveForm .rot g d a dist s)

/-- x.red.add (R215). -/
def execXRedAdd (g t : BitVec 3) (d a : BitVec 6) (e : BitVec 1) (s : State) : Host.Outcome State Fault Refusal :=
  run s (reduceForm .add g t d a e s)

/-- x.scan.add (R215, R216). -/
def execXScanAdd (g t : BitVec 3) (d a : BitVec 6) (x e : BitVec 1) (s : State) : Host.Outcome State Fault Refusal :=
  run s (scanForm .add g t d a x e s)

/-- x.red.min (R215). -/
def execXRedMin (g t : BitVec 3) (d a : BitVec 6) (e : BitVec 1) (s : State) : Host.Outcome State Fault Refusal :=
  run s (reduceForm .min g t d a e s)

/-- x.scan.min (R215, R216). -/
def execXScanMin (g t : BitVec 3) (d a : BitVec 6) (x e : BitVec 1) (s : State) : Host.Outcome State Fault Refusal :=
  run s (scanForm .min g t d a x e s)

/-- x.red.max (R215). -/
def execXRedMax (g t : BitVec 3) (d a : BitVec 6) (e : BitVec 1) (s : State) : Host.Outcome State Fault Refusal :=
  run s (reduceForm .max g t d a e s)

/-- x.scan.max (R215, R216). -/
def execXScanMax (g t : BitVec 3) (d a : BitVec 6) (x e : BitVec 1) (s : State) : Host.Outcome State Fault Refusal :=
  run s (scanForm .max g t d a x e s)

/-- x.red.and (R215). -/
def execXRedAnd (g t : BitVec 3) (d a : BitVec 6) (e : BitVec 1) (s : State) : Host.Outcome State Fault Refusal :=
  run s (reduceForm .and g t d a e s)

/-- x.scan.and (R215, R216). -/
def execXScanAnd (g t : BitVec 3) (d a : BitVec 6) (x e : BitVec 1) (s : State) : Host.Outcome State Fault Refusal :=
  run s (scanForm .and g t d a x e s)

/-- x.red.or (R215). -/
def execXRedOr (g t : BitVec 3) (d a : BitVec 6) (e : BitVec 1) (s : State) : Host.Outcome State Fault Refusal :=
  run s (reduceForm .or g t d a e s)

/-- x.scan.or (R215, R216). -/
def execXScanOr (g t : BitVec 3) (d a : BitVec 6) (x e : BitVec 1) (s : State) : Host.Outcome State Fault Refusal :=
  run s (scanForm .or g t d a x e s)

/-- x.red.xor (R215). -/
def execXRedXor (g t : BitVec 3) (d a : BitVec 6) (e : BitVec 1) (s : State) : Host.Outcome State Fault Refusal :=
  run s (reduceForm .xor g t d a e s)

/-- x.scan.xor (R215, R216). -/
def execXScanXor (g t : BitVec 3) (d a : BitVec 6) (x e : BitVec 1) (s : State) : Host.Outcome State Fault Refusal :=
  run s (scanForm .xor g t d a x e s)

/-- k.op.and (R218). -/
def execKOpAnd (g d a b : BitVec 3) (s : State) : Host.Outcome State Fault Refusal :=
  run s (maskOp ((· &&& ·)) g d a b s)

/-- k.op.or (R218). -/
def execKOpOr (g d a b : BitVec 3) (s : State) : Host.Outcome State Fault Refusal :=
  run s (maskOp ((· ||| ·)) g d a b s)

/-- k.op.xor (R218). -/
def execKOpXor (g d a b : BitVec 3) (s : State) : Host.Outcome State Fault Refusal :=
  run s (maskOp ((· ^^^ ·)) g d a b s)

/-- k.op.andn (R218). -/
def execKOpAndn (g d a b : BitVec 3) (s : State) : Host.Outcome State Fault Refusal :=
  run s (maskOp (fun x y => x &&& ~~~ y) g d a b s)

/-- k.op.not (R218). -/
def execKOpNot (g d a : BitVec 3) (s : State) : Host.Outcome State Fault Refusal :=
  run s (maskOp (fun x _ => ~~~ x) g d a a s)

/-- k.op.mov (R218). -/
def execKOpMov (g d a : BitVec 3) (s : State) : Host.Outcome State Fault Refusal :=
  run s (maskOp (fun x _ => x) g d a a s)

end Sys2Proof.Machine
end

