-- ==== Sys2Proof/Machine/System.lean ====
section
/-! DEFINITION. Control registers, trap, sysret, idle, nop and setx (02 R43 to R47; 05 R126 to R130; 08 R187). -/

namespace Sys2Proof.Machine

open Sys2Proof

/-! ## Control registers (02 R43) -/

/-- What a mode may do with a register. -/
inductive CrRight where
  | undefined
  | none
  | read
  | write
  deriving DecidableEq, Repr

/-- The access that a context's mode has to a control register (02 R43). STATUS and IPEND have their own write
rules. -/
def crRight (system priv : Bool) (n : Nat) : CrRight :=
  let sup := if priv then CrRight.write else .none
  match n with
  | 0x000 | 0x001 | 0x002 | 0x007 => .write
  | 0x003 | 0x006 | 0x00C | 0x00E => if priv then .write else .read
  | 0x004 | 0x005 | 0x010 | 0x011 => sup
  | 0x008 | 0x009 | 0x00A | 0x00B | 0x00D | 0x00F => .read
  | 0x020 | 0x021 | 0x022 => if system then sup else .undefined
  | _ => .undefined

/-- The value of a control register, with undefined bits zero. -/
def crValue (s : State) (n : Nat) : Word :=
  let c := cur s
  match n with
  | 0x000 => c.status.zeroExtend 64
  | 0x001 => c.xb.zeroExtend 64
  | 0x002 => c.fflags.zeroExtend 64
  | 0x003 => (curStrand s).srepc.zeroExtend 64
  | 0x004 => c.tvec
  | 0x005 => c.tframe
  | 0x006 => c.mxlease.zeroExtend 64
  | 0x007 => c.bandbase
  | 0x008 => c.wgid
  | 0x009 => c.warpid.zeroExtend 64
  | 0x00A => c.launchid
  | 0x00B => c.context.zeroExtend 64
  | 0x00C => c.asid.zeroExtend 64
  | 0x00D => s.time.zeroExtend 64
  | 0x00E => if c.sizing then 1 else 0
  | 0x00F => BitVec.ofNat 64 (locusOf s.focus.key)
  | 0x010 => c.scratch0
  | 0x011 => c.scratch1
  | 0x020 => c.ipend.zeroExtend 64
  | 0x021 => c.ienable.zeroExtend 64
  | _ => c.tcmp.zeroExtend 64

/-- A write of STATUS: CPYTRAP and SREGRANT in user mode, PRIV and IE as well in supervisor mode; IE reads 0 on warps
(02 R44). -/
def writeStatus (system : Bool) (c : Ctx) (x : Word) : Ctx :=
  let st := statusBit (statusBit c.status 2 (bitAt x 2)) 3 (bitAt x 3)
  if isPriv c then
    let st := statusBit st 0 (bitAt x 0)
    { c with status := if system then statusBit st 1 (bitAt x 1) else st }
  else { c with status := st }

/-- The clamp of MXLEASE, on the whole value written (02 R46). -/
def clampLease (x : Word) : BitVec 11 :=
  if x = 0 then 1 else if 1024 < x.toNat then 1024 else BitVec.ofNat 11 x.toNat

/-- A context after a write that its access rules admit (02 R43 to R46). -/
def crWritten (system : Bool) (c : Ctx) (n : Nat) (x : Word) : Ctx :=
  match n with
  | 0x000 => writeStatus system c x
  | 0x001 => { c with xb := BitVec.ofNat 8 x.toNat }
  | 0x002 => { c with fflags := BitVec.ofNat 6 x.toNat }
  | 0x004 => { c with tvec := keep x 56 2 }
  | 0x005 => { c with tframe := keep x 56 6 }
  | 0x006 => { c with mxlease := clampLease x }
  | 0x007 => { c with bandbase := keep x 56 6 }
  | 0x00C => { c with asid := BitVec.ofNat 16 x.toNat }
  | 0x00E => { c with sizing := bitAt x 0 }
  | 0x010 => { c with scratch0 := x }
  | 0x011 => { c with scratch1 := x }
  | 0x020 => { c with ipend := c.ipend &&& ~~~ BitVec.ofNat 16 x.toNat }
  | 0x021 => { c with ienable := BitVec.ofNat 16 x.toNat }
  | 0x022 => { c with tcmp := BitVec.ofNat 48 x.toNat }
  | _ => c

/-- The state after such a write; REPC is the executing strand's own count (04 R102), and a write of ASID on a system
core is a context switch (24 R471). A write that makes TCMP equal to TIME is a timer event at that moment (R46, R47). -/
def crWrite (s : State) (n : Nat) (x : Word) : State :=
  let system := isSystem s.focus.key
  let s := if n = 0x003 then setStrand s { curStrand s with srepc := BitVec.ofNat 7 x.toNat }
    else setCur s (crWritten system (cur s) n x)
  let s := if n = 0x022 ∧ (cur s).tcmp = s.time then setCur s (strike (cur s)) else s
  if system && n == 0x00C then systemEvent s s.focus.key 1 (BitVec.ofNat 64 (x.toNat % 2 ^ 16)) else s

/-- The kind of a recorded read: TIME and LOCUS (24 R474). -/
def crMark (s : State) (n : Nat) : Option Mark :=
  let m := fun k => some (⟨k, (pcWord (curStrand s)).toNat, s.focus⟩ : Mark)
  if n = 0x00D then m 9 else if n = 0x00F then m 10 else none

/-- cr.rd (05 R126). In a replay a read of TIME or LOCUS returns its recorded value (24 R475). -/
def execCrRd (g : BitVec 3) (d : BitVec 6) (n : BitVec 10) (s : State) : Host.Outcome State Fault Refusal :=
  let right := crRight (isSystem s.focus.key) (isPriv (cur s)) n.toNat
  run s (do
    need (right != .undefined) 0x01
    guarded g (fun s => do
      need (right != .none) 0x07
      freeS s d
      match crMark s n.toNat with
      | none => .ok (retire (wrS s d (crValue s n.toNat)) 1)
      | some m => do
        awaitGate s m
        let v := (forcedValue s m).getD (crValue s n.toNat)
        .ok (completeRecorded (wrS s d v) 1 m v)) s)

/-- cr.wr (05 R126). -/
def execCrWr (g : BitVec 3) (a : BitVec 6) (n : BitVec 10) (s : State) : Host.Outcome State Fault Refusal :=
  let right := crRight (isSystem s.focus.key) (isPriv (cur s)) n.toNat
  run s (do
    need (right != .undefined) 0x01
    guarded g (fun s => do
      need (right == .write) 0x07
      let x ← rdS s a
      .ok (retire (crWrite s n.toNat x) 1)) s)

/-! ## Trap, return, idle, nop (05 R127 to R130) -/

/-- A system core's trap instruction as an event of 24 R471: a system call, and with SWCODE 0xFFFF a panic. -/
def trapEvents (s : State) (c : BitVec 16) : State :=
  if isSystem s.focus.key then
    let s := systemEvent s s.focus.key 2 (c.zeroExtend 64)
    if c = 0xFFFF then systemEvent s s.focus.key 4 0 else s
  else s

/-- trap (05 R127): cause 0x10, resuming at the next word. -/
def execTrap (g : BitVec 3) (c : BitVec 16) (s : State) : Host.Outcome State Fault Refusal :=
  run s (guarded g (fun s => do
    await (isInTrap (cur s) || !frameHeld s) .memory
    .ok (takeTrap (trapEvents s c) { cause := 0x10, swcode := c, resume := resumeAfter s 1 })) s)

/-- sysret (05 R128, 21 R414). -/
def execSysret (s : State) : Host.Outcome State Fault Refusal :=
  run s (do
    need (isPriv (cur s)) 0x07
    returnFromTrap s)

/-- The ticks for which a strand has waited. -/
def waited (s : State) (x : Strand) (why : Why) : Option Nat :=
  match x.wait with
  | .held w t => if w = why then some (s.time - t).toNat else none
  | .ready => none

/-- Whether an idle strand goes on (05 R129): a system core once an enabled interrupt is pending, a warp after 4,096
ticks. -/
def idleEnds (s : State) : Bool :=
  if isSystem s.focus.key then (cur s).ipend &&& (cur s).ienable != 0
  else
    match waited s (curStrand s) .idle with
    | some t => decide (4096 ≤ t)
    | none => false

/-- idle (05 R129). -/
def execIdle (s : State) : Host.Outcome State Fault Refusal :=
  run s (do
    need (isPriv (cur s)) 0x07
    await (idleEnds s) .idle
    .ok (retire s 1))

/-- A strand that idles goes on past its idle. -/
def endIdle (s : State) (a : Agent) : State :=
  match (getStrand (getCtx s a.key) a.slot).wait with
  | .held .idle _ => { retire { s with focus := a } 1 with focus := s.focus }
  | _ => s

/-- WARP_IDLE_TIMEOUT (05 R129): 4,096 ticks have passed, or a pre-emption request has reached the warp. -/
def execWarpIdleTimeout (s : State) : Host.Outcome State Fault Refusal :=
  let a := s.input.who
  let x := getStrand (getCtx s a.key) a.slot
  let due := (getWg s (getCtx s a.key).wg).saving ||
    (match waited s x .idle with
     | some t => decide (4096 ≤ t)
     | none => false)
  .next (if !isSystem a.key && x.valid && due then endIdle s a else s)

/-- nop (05 R130). -/
def execNop (_g : BitVec 3) (s : State) : Host.Outcome State Fault Refusal := .next (retire s 1)

/-! ## XB (08 R187) -/

/-- setx: XB from a scalar and an immediate, whose sum must lie from 0 to 255. -/
def execSetx (g : BitVec 3) (a : BitVec 6) (i : BitVec 10) (s : State) : Host.Outcome State Fault Refusal :=
  run s (guarded g (fun s => do
    let x ← rdS s a
    let t := x.toInt + i.toInt
    need (decide (0 ≤ t) && decide (t < 256)) 0x04
    .ok (retire (setCur s { cur s with xb := BitVec.ofInt 8 t }) 1)) s)

end Sys2Proof.Machine
end

