-- ==== Sys2Proof/Machine/Launch.lean ====
section
/-! DEFINITION. Launches: the record and its checks, acceptance, the queues, placement, retirement of workgroups and
completion (14 R272 to R287; 20 R395 to R398; 24 R464, R475). -/

namespace Sys2Proof.Machine

open Sys2Proof

/-! ## The record (R273, 23 R449) -/

/-- A field of doubleword `i` of a record. -/
def recField (r : List Word) (i hi lo : Nat) : Nat := bf (r.getD i 0) hi lo

/-- Fields of the launch record. -/
def recCode (r : List Word) : Nat := recField r 0 63 0
def recKhw (r : List Word) : Nat := recField r 1 31 0
def recLanes (r : List Word) : Nat := recField r 1 42 32
def recPrio (r : List Word) : Nat := recField r 1 50 48
def recGrid (r : List Word) : Nat := recField r 2 31 0 * recField r 2 63 32 * recField r 3 31 0
def recGstore (r : List Word) : Nat := recField r 3 63 32
def recRegs (r : List Word) : Nat := recField r 4 8 0
def recAcct (r : List Word) : Nat := recField r 4 19 16
def recRings (r : List Word) : Nat := recField r 4 23 20
def recAtag (r : List Word) : Nat := recField r 4 39 24
def recRoles (r : List Word) : Nat := recField r 5 63 0
def recDone (r : List Word) : Nat := recField r 7 63 0
def recDeps (r : List Word) : List Nat := ((r.drop 8).take 4).map BitVec.toNat
def recContext (r : List Word) : BitVec 32 := BitVec.ofNat 32 (recField r 12 31 0)
def recDies (r : List Word) : Nat := recField r 12 55 32
def recFirst (r : List Word) : Nat := recField r 13 4 0
def recLast (r : List Word) : Nat := recField r 13 12 8

/-- WID, MMR and ROLEMASK of the kernel header word. -/
def recWid (r : List Word) : Nat := recKhw r / 256 % 4
def recMmr (r : List Word) : Nat := recKhw r / 1024 % 16
def recRoleMask (r : List Word) : Nat := recKhw r / 65536 % 16

/-- Wh of 06 R131: hardware lanes of a warp. -/
def recWarpLanes (r : List Word) : Nat := if recWid r = 2 then 64 else 32

/-- The warp count of 06 R131. -/
def recWarps (r : List Word) : Nat := (recLanes r + recWarpLanes r - 1) / recWarpLanes r

/-- Warp-registers of one warp (R283). -/
def recWarpCost (r : List Word) : Nat := if recWid r = 2 then 2 * recRegs r else recRegs r

/-- Group-store granules of one workgroup (R283). -/
def recGranules (r : List Word) : Nat := (recGstore r + 4095) / 4096

/-- Code 2 of R274. -/
def recordBad (r : List Word) : Bool :=
  recField r 0 63 57 != 0 || recField r 1 47 43 != 0 || recField r 1 63 51 != 0 || recField r 4 15 9 != 0 ||
    recField r 4 63 40 != 0 || recField r 12 63 56 != 0 || recField r 13 7 5 != 0 || recField r 13 63 13 != 0 ||
    recField r 14 63 0 != 0 || recField r 15 63 0 != 0 || decide (2 ^ 24 ≤ recKhw r) || recWid r == 3 ||
    recKhw r % 256 * 8 != recRegs r || recKhw r / 2 ^ 20 % 16 != recAcct r ||
    decide (recRegs r < 8) || decide (256 < recRegs r) || recRegs r % 8 != 0 ||
    recLanes r == 0 || decide (1024 < recLanes r) || recGrid r == 0 || decide (2 ^ 64 ≤ recGrid r) ||
    decide (recLast r < recFirst r) || decide (131072 < recGstore r) || recCode r % 4 != 0 || recDone r % 8 != 0 ||
    decide (8 < recAcct r) || decide (8 < recRings r)

/-- Fields of the role table (20 R395). -/
def roleCode (t : List Word) (w : Nat) : Nat := bf (t.getD 0 0) 63 0 / 4 ^ w % 4
def ringDepth (t : List Word) (j : Nat) : Nat := bf (t.getD 1 0) 31 0 / 16 ^ j % 16
def ringOwners (t : List Word) (j : Nat) : Nat :=
  if j % 2 = 0 then bf (t.getD (2 + j / 2) 0) 31 0 else bf (t.getD (2 + j / 2) 0) 63 32

/-- The bit of ROLEMASK for a role code. -/
def roleBit (code : Nat) : Nat :=
  match code with
  | 0 => 3 | 1 => 0 | 2 => 1 | _ => 2

/-- Code 2 of 20 R396, for a table or for none. -/
def rolesBad (r : List Word) (t : Option (List Word)) : Bool :=
  let masked := fun code => recRoleMask r / 2 ^ roleBit code % 2 == 0
  match t with
  | none => masked 0
  | some t =>
    let nw := recWarps r
    recField t 1 63 32 != 0 || recField t 6 63 0 != 0 || recField t 7 63 0 != 0 ||
      decide (4 ^ nw ≤ recField t 0 63 0) ||
      (List.range 8).any (fun j => decide (2 ^ nw ≤ ringOwners t j)) ||
      (List.range nw).any (fun w => masked (roleCode t w)) ||
      (List.range 8).any fun j =>
        if j < recRings r then decide (ringDepth t j < 2) || decide (8 < ringDepth t j)
        else ringDepth t j != 0 || ringOwners t j != 0

/-- The role of warp w of a launch (R395, R396). -/
def launchRole (l : Launch) (w : Nat) : Role :=
  match l.roles with
  | [] => .general
  | t =>
    match roleCode t w with
    | 0 => .general | 1 => .copy | 2 => .matrix | _ => .vector

/-- The rings of a placed workgroup (20 R396, R398). -/
def launchRings (l : Launch) : List (Nat × Ring) :=
  (List.range (recRings l.record)).map fun j =>
    (j, match l.roles with
      | [] => { phase := 0, depth := 2, owners := BitVec.allOnes 32 }
      | t => { phase := 0, depth := BitVec.ofNat 4 (ringDepth t j), owners := BitVec.ofNat 32 (ringOwners t j) })

/-! ## The carder's own accesses (R274, R275, R279) -/

/-- Doublewords at a home. -/
def readWords (s : State) (place n : Nat) : List Word :=
  (List.range n).map fun i => BitVec.ofNat 64 (readNat s (place + 8 * i) 8)

/-- The leaf of a naturally aligned run that the carder reads, or also writes: in translated space, on a main or
die-store page with the rights and a loaded key. -/
def carderLeaf (s : State) (q : Requester) (va n : Nat) (write : Bool) : Option Leaf :=
  if regionOf va ≠ .translated ∨ va % n ≠ 0 then none
  else
    match translateFor s q va with
    | .error _ => none
    | .ok l =>
      if (l.type == 0 || l.type == 1) && l.r && (l.w || !write) && (l.u || !q.user) &&
          (l.type != 0 || keyLoaded s l.key.toNat) then some l
      else none

/-- `n` bytes that the carder reads as a load by the launching strand (R275): none where the read fails. -/
def carderRead (s : State) (q : Requester) (va n : Nat) : Option (List Word) :=
  match carderLeaf s q va n false with
  | none => none
  | some _ =>
    if failsLock s q .load va n then none
    else
      match targetOf s q va with
      | .home p => if poisonedRun s p n then none else some (readWords s p (n / 8))
      | .main p pa slot => if (mainRead s p pa slot n).2 then some (readWords s p (n / 8)) else none
      | _ => none

/-- Whether the carder's access of a run, or its walk, is held just now: by main memory (18 R364 to R369), or by a frozen port
(25 R479). -/
def carderHeld (s : State) (q : Requester) (va n : Nat) : Bool :=
  walksHeld s q n [va] ||
    (match targetOf s q va with
     | .main p pa _ => runHeld s pa n || beyondPort s q p
     | .home p => beyondPort s q p
     | _ => false)

/-- Whether an access of the carder, or its walk, would pass a frozen port: it is not made (25 R479). -/
def carderCut (s : State) (q : Requester) (va n : Nat) : Bool :=
  (getDie s (keyDie q.key)).frozen && carderHeld s q va n

/-- The step at DONE (R279): the state with 1 added, or none where the step faults. -/
def countDone (s : State) (q : Requester) (va : Nat) : Option State :=
  match carderLeaf s q va 8 true with
  | none => none
  | some _ =>
    match targetOf s q va with
    | .home p => if poisonedRun s p 8 then none else some (storeHome s p (toBytes (readNat s p 8 + 1) 8))
    | .main p pa slot =>
      let r := mainRead s p pa slot 8
      if r.2 then some (mainWrite s p pa slot (toBytes (ofBytes r.1 + 1) 8)).1 else none
    | _ => none

/-! ## Eligibility and the room test (R282 to R284) -/

/-- The launch of a workgroup. -/
def wgLaunch (s : State) (w : Workgroup) : Launch := getLaunch (getPart s w.part) w.launch.toNat

/-- The cores that a launch names, die by die and then core by core (R282). -/
def namedCores (s : State) (part : Nat) (r : List Word) : List Nat :=
  ((partDies s part).filter fun d => recDies r == 0 || recDies r / 2 ^ d % 2 == 1).flatMap fun d =>
    ((List.range 32).filter fun c => decide (recFirst r ≤ c) && decide (c ≤ recLast r)).map fun c => 32 * d + c

/-- Whether a core holds no workgroup of another context, and none with another tag (R282). -/
def coreAdmits (s : State) (core : Nat) (context : BitVec 32) (r : List Word) : Bool :=
  (getCore s core).wgs.all fun g =>
    let l := wgLaunch s (getWg s g)
    l.context == context && (recAtag r == 0 || recAtag l.record == 0 || recAtag l.record == recAtag r)

/-- Where a workgroup fits on a core: its first granule, its tiles, and the quad of its warp 0. -/
structure Fit where
  granule : Nat
  tiles : List Nat
  quad : Nat
  deriving DecidableEq, Repr

/-- The granules that a core's workgroups hold. -/
def usedGranules (s : State) (c : Core) : List Nat :=
  c.wgs.flatMap fun g =>
    (List.range ((getWg s g).glen / 4096)).map fun i => (getWg s g).gbase / 4096 + i

/-- The warps that a core's workgroups hold. -/
def coreWarps (s : State) (c : Core) : List Nat := c.wgs.flatMap fun g => (getWg s g).warps

/-- Whether a warp slot is taken. -/
def slotTaken (s : State) (c : Core) (key : Nat) : Bool := (getCtx s key).live || (coreWarps s c).contains key

/-- The slots of a quad, in ascending order, that are free. -/
def freeSlots (s : State) (core quad : Nat) : List Nat :=
  ((List.range 16).map fun i => core * 64 + quad * 16 + i).filter fun k => !slotTaken s (getCore s core) k

/-- The warp-registers taken on a quad (09 R194). -/
def quadRegs (s : State) (core quad : Nat) : Nat :=
  (((List.range 16).map fun i => core * 64 + quad * 16 + i).filter fun k => slotTaken s (getCore s core) k).foldl
    (fun acc k => acc + (getCtx s k).allot * (if isWide (getCtx s k) then 2 else 1)) 0

/-- The warps of a workgroup that go to a quad when warp 0 goes to quad `first`. -/
def warpsOnQuad (nw first quad : Nat) : Nat := ((List.range nw).filter fun w => (first + w) % 4 == quad).length

/-- Condition 3 of R284 for one starting quad. -/
def quadsFit (s : State) (core first : Nat) (r : List Word) : Bool :=
  (List.range 4).all fun q =>
    let n := warpsOnQuad (recWarps r) first q
    decide (n ≤ (freeSlots s core q).length) &&
      (n == 0 || decide (quadRegs s core q + n * recWarpCost r ≤ 1024))

/-- What a workgroup takes of a core beside warp slots and registers (R283, R284): the first granule of the lowest free run and
its tiles, where these and the rings suffice. -/
def roomOn (s : State) (core : Nat) (r : List Word) : Option (Nat × List Nat) :=
  let c := getCore s core
  let used := usedGranules s c
  let n := recGranules r
  let run := listFind
    (fun g => decide (g + n ≤ 32) && (List.range n).all fun i => !used.contains (g + i)) (List.range 33)
  let tiles := ((List.range 8).filter fun t => !(c.wgs.any fun g => (getWg s g).tiles.contains t)).take (recAcct r)
  let rings := c.wgs.foldl (fun acc g => acc + recRings (wgLaunch s (getWg s g)).record) 0
  match run with
  | some g => if tiles.length = recAcct r ∧ rings + recRings r ≤ 16 then some (g, tiles) else none
  | none => none

/-- R284: whether and where a workgroup fits on a core. -/
def fitOn (s : State) (core : Nat) (r : List Word) : Option Fit :=
  let lq := (getCore s core).lq.toNat
  match roomOn s core r, listFind (fun q => quadsFit s core q r) [(lq + 1) % 4, (lq + 2) % 4, (lq + 3) % 4, lq] with
  | some (g, tiles), some q => some ⟨g, tiles, q⟩
  | _, _ => none

/-- Whether a workgroup fits on an empty core (code 5 of R274). -/
def fitsEmpty (r : List Word) : Bool := decide ((recWarps r + 3) / 4 * recWarpCost r ≤ 1024)

/-! ## Acceptance (R274, R275) -/

/-- The refusal code of a launch, if any (R274, 20 R396); code 7 is for one that issued before its partition was ready (25
R484). -/
def refusalCode (s : State) (part : Nat) (context : List Word → BitVec 32) (x : LaunchRead) :
    Except Nat (List Word × List Word) :=
  match x.record, x.roles with
  | some r, some t =>
    let table := if recRoles r = 0 then none else some t
    let p := getPart s part
    if recordBad r || rolesBad r table then .error 2
    else if (recDeps r).any fun d => decide (p.issued < d) then .error 3
    else if (namedCores s part r).all fun c => !coreAdmits s c (context r) r then .error 4
    else if !fitsEmpty r then .error 5
    else if 4096 ≤ (p.launches.filter fun e => e.2.live).length then .error 6
    else if !x.ready then .error 7
    else .ok (r, t)
  | _, _ => .error 1

/-- The word that a refusal fills (R275). -/
def refusalWord (code : Nat) : Word := BitVec.ofNat 64 (2 ^ 63 + code)

/-- The launch that a record makes, with what it takes from its launcher (R275, R276, 21 R412; 02 R43 for what Coltaup
has set in its context). -/
def newLaunch (s : State) (c : Ctx) (key : Nat) (x : LaunchRead) (r roles : List Word) : Launch :=
  let own := x.ctxForm || isSystem key
  let context := if x.ctxForm then recContext r else c.context
  let parent := launchOf s key
  { live := true, record := r, roles := roles, context := context,
    asid := if own then Config.contextAsid s.drawn context else parent.asid,
    tvec := if own then keep (Config.contextTvec s.drawn context) 56 2 else parent.tvec,
    tframe := if own then keep (Config.contextTframe s.drawn context) 56 6 else parent.tframe,
    user := x.user,
    thread := x.thread,
    parent := if own then 0 else c.launchid,
    confidential := isConfidential s context }

/-- What a session's mark says of the launch that it names (24 R464 requests 0x09 and 0x0A). -/
def applyMark (kind : Nat) (m : List Word) (l : Launch) : Launch :=
  let base := (m.getD 2 0).toNat
  let entries := (m.getD 3 0).toNat
  if kind = 9 then { l with recording := true, logBase := base, logLimit := entries, logNext := 1 }
  else { l with replaying := true, logBase := base, logLimit := entries, continueLive := bitAt (m.getD 4 0) 0 }

/-- The marks of open sessions that name a record address under an ASID are applied to the launch and used up. -/
def useMarks (s : State) (part : Nat) (asid : BitVec 16) (va : Word) (l : Launch) : State × Launch :=
  s.sessions.foldl
    (fun acc e =>
      if e.2.isOpen && (e.2.maker || e.2.part == part) then
        let names := fun m : Nat × List Word =>
          (m.2.getD 0 0).toNat % 2 ^ 16 == asid.toNat && m.2.getD 1 0 == va
        let x := getSession acc.1 e.1
        (putSession acc.1 e.1 { x with marks := x.marks.filter fun m => !names m },
          (e.2.marks.filter names).foldl (fun l m => applyMark m.1 m.2 l) acc.2)
      else acc)
    (s, l)

/-- Whether a dependence has completed (R280): it is no launch of the partition that is still live. -/
def depDone (p : Partition) (d : Nat) : Bool := !(getLaunch p d).live

/-- Whether all dependences of a launch have completed. -/
def depsDone (p : Partition) (l : Launch) : Bool := (recDeps l.record).all fun d => d == 0 || depDone p d

/-- A priority's queue. -/
def getQueue (p : Partition) (prio : Nat) : List Nat := mapGet [] p.queues prio
def putQueue (p : Partition) (prio : Nat) (q : List Nat) : Partition := { p with queues := mapPut [] p.queues prio q }

/-- A queue becomes `q` (R281). DESIGN CHOICE (log entry 101): a head's wait counts from when it becomes the head, and from
its last placement. -/
def replaceQueue (p : Partition) (now : BitVec 48) (prio : Nat) (q : List Nat) : Partition :=
  match q with
  | [] => putQueue p prio q
  | n :: _ =>
    if (getQueue p prio).head? = some n then putQueue p prio q
    else putQueue (putLaunch p n { getLaunch p n with headSince := now }) prio q

/-- Whether a launch has workgroups to place. -/
def unplaced (l : Launch) : Bool := !l.returned.isEmpty || decide (l.nextWg < recGrid l.record)

/-- A launch with workgroups to place whose dependences have completed enters the tail of its queue (R280). -/
def enterQueue (s : State) (part id : Nat) : State :=
  let p := getPart s part
  let l := getLaunch p id
  if l.live && !l.queued && !l.ending && unplaced l && depsDone p l then
    let p := putLaunch p id { l with queued := true, headSince := s.time }
    putPart s part (putQueue p (recPrio l.record) (getQueue p (recPrio l.record) ++ [id]))
  else s

/-- A placement attempt is due (R281). -/
def attemptDue (s : State) (part : Nat) : State := later s (.event .placementAttempt { place := part })

/-- CARDER_DECISION (R275): the launch whose record was read as it issued is accepted or refused, and S[d] is filled. -/
def carderDecision (s : State) (key id : Nat) : State :=
  let c := getCtx s key
  match findOp c id with
  | none => s
  | some o =>
    match o.kind with
    | .launch x =>
      let part := partOf s (keyDie key)
      let context := fun r => if x.ctxForm then recContext r else c.context
      let fill := fun (s : State) (v : Word) => putCtx s key (putS (dropOp (getCtx s key) id) o.dst { val := v })
      match refusalCode s part context x with
      | .error code => fill s (refusalWord code)
      | .ok (r, roles) =>
        let m := useMarks s part x.asid x.addr (newLaunch s c key x r roles)
        let s := { m.1 with drawn := m.1.drawn + 1 }
        let p := getPart s part
        let n := p.issued + 1
        let s := putPart s part (putLaunch { p with issued := n } n m.2)
        attemptDue (enterQueue (fill s (BitVec.ofNat 64 n)) part n) part
    | _ => s

/-- The pending launches of a context are decided (14 R275; 21 R420 step 2 for what it issued). -/
def decideLaunches (s : State) (key : Nat) : State :=
  (getCtx s key).ops.foldl
    (fun s o => match o.kind with
      | .launch _ => carderDecision s key o.id
      | _ => s) s

/-! ## Placement (R281, R285 to R287) -/

/-- The key of the warp that a LOCUS names (02 R46). -/
def locusKey (x : Nat) : Nat := x % 32 * 2048 + x / 32 % 64 * 64 + x / 2048 % 4 * 16 + x / 8192 % 16

/-- The next recorded placement of a workgroup of a replayed launch: its warps' keys in WARPID order (24 R475). A log that ends
before the entries of all its warps holds no placement of it, and it runs live (24 R474). -/
def recordedWarps (s : State) (l : Launch) (wgid : Nat) : List Nat :=
  let keys := if l.replaying then
      ((List.range l.logLimit).filterMap fun i =>
        match logEntry s l (i + 1) with
        | [w0, w1, _, w3] =>
          if !l.replayed.contains (i + 1) && bf w0 55 48 == 11 && w1.toNat == wgid then some (locusKey w3.toNat)
          else none
        | _ => none).take (recWarps l.record)
    else []
  if keys.length = recWarps l.record then keys else []

/-- The cores that a replayed launch's log names. -/
def recordedCores (s : State) (l : Launch) : List Nat :=
  (List.range l.logLimit).filterMap fun i =>
    match logEntry s l (i + 1) with
    | [w0, _, _, w3] => if bf w0 55 48 == 11 then some (locusKey w3.toNat / 64) else none
    | _ => none

/-- Whether a replay of another launch keeps a core for itself (24 R475). -/
def keptByReplay (s : State) (part id core : Nat) : Bool :=
  (getPart s part).launches.any fun e =>
    e.2.live && e.2.replaying && e.1 != id && (recordedCores s e.2).contains core

/-- Whether a core is eligible now for a launch. -/
def eligible (s : State) (part id core : Nat) : Bool :=
  let l := getLaunch (getPart s part) id
  coreAdmits s core l.context l.record && !keptByReplay s part id core

/-- The warps' keys of a fit: each takes the lowest free slot of its quad (R284). -/
def warpKeys (s : State) (core : Nat) (f : Fit) (nw : Nat) : List Nat :=
  (List.range nw).map fun w =>
    let q := (f.quad + w) % 4
    let before := ((List.range w).filter fun v => (f.quad + v) % 4 == q).length
    (freeSlots s core q).getD before (core * 64 + q * 16)

/-- Whether recorded warp slots are free and leave each quad within its registers (09 R194). -/
def slotsFit (s : State) (core : Nat) (r : List Word) (keys : List Nat) : Bool :=
  (keys.all fun k => !slotTaken s (getCore s core) k) &&
    (List.range 4).all fun q =>
      let n := (keys.filter fun k => keyQuad k == q).length
      n == 0 || decide (quadRegs s core q + n * recWarpCost r ≤ 1024)

/-- The core, fit and warps of a recorded placement, when they are free. -/
def replayPlace (s : State) (part id : Nat) (keys : List Nat) : Option (Nat × Fit × List Nat) :=
  let core := keys.headD 0 / 64
  let l := getLaunch (getPart s part) id
  if eligible s part id core && slotsFit s core l.record keys then
    (roomOn s core l.record).map fun f => (core, ⟨f.1, f.2, keyQuad (keys.headD 0)⟩, keys)
  else none

/-- The first core of a list that is eligible and fits. -/
def firstFit (s : State) (part id : Nat) (r : List Word) : List Nat → Option (Nat × Fit × List Nat)
  | [] => none
  | c :: rest =>
    match (if eligible s part id c then fitOn s c r else none) with
    | some f => some (c, f, warpKeys s c f (recWarps r))
    | none => firstFit s part id r rest

/-- The place of a launch's next workgroup: its recorded one in a replay, in the first wave breadth-first from the
cursor (R285), afterwards the lowest core (R286, R287); a log that main memory holds is waited for. -/
def choosePlace (s : State) (part id wgid : Nat) (again : Bool) : Option (Nat × Fit × List Nat) :=
  let l := getLaunch (getPart s part) id
  let cores := namedCores s part l.record
  if l.replaying && logHeld s l then none
  else
  match recordedWarps s l wgid with
  | [] =>
    if l.firstWave && !again then
      firstFit s part id l.record
        ((cores.filter fun c => decide (l.cursor ≤ c)) ++ cores.filter fun c => decide (c < l.cursor))
    else firstFit s part id l.record cores
  | keys => replayPlace s part id keys

/-- The launched lanes of warp w (06 R132). -/
def launchedLanes (r : List Word) (w : Nat) : Mask :=
  maskOf (List.range (min (recWarpLanes r) (recLanes r - w * recWarpLanes r)))

/-- A root strand at warp entry (08 R177). -/
def rootStrand (slot : Nat) (mask : Mask) (code : Nat) : Strand :=
  { valid := true, mask := mask, parent := BitVec.ofNat 3 slot, root := true, ca := BitVec.ofNat 64 code, wi := 1 }

/-- The roots of a warp (06 R136, 08 R176). -/
def rootStrands (wid : Nat) (mask : Mask) (code : Nat) : List (Nat × Strand) :=
  if wid = 1 then
    (if mask &&& 0xFFFF = 0 then [] else [(0, rootStrand 0 (mask &&& 0xFFFF) code)]) ++
      (if mask &&& 0xFFFF0000 = 0 then [] else [(1, rootStrand 1 (mask &&& 0xFFFF0000) code)])
  else [(0, rootStrand 0 mask code)]

/-- The state of warp w at its entry (01 R29; 02 R43, R44; 08 R177). DESIGN CHOICE (log entry 95): lastSlot is 0 before any
slot has issued, so the round-robin of 09 R205 starts at slot 1. -/
def entryWarp (l : Launch) (id wgid wg w nextOp : Nat) : Ctx :=
  let r := l.record
  let mask := launchedLanes r w
  putS
    { live := true, allot := recRegs r, launched := mask,
      status := BitVec.ofNat 12 (recMmr r * 256 + recWid r * 64),
      tvec := l.tvec, tframe := l.tframe, mxlease := 64, wgid := BitVec.ofNat 64 wgid,
      warpid := BitVec.ofNat 5 w, launchid := BitVec.ofNat 64 id, context := l.context, asid := l.asid,
      sizing := recMmr r == 1, thread := l.thread, parentLaunch := l.parent, role := launchRole l w,
      strands := rootStrands (recWid r) mask (recCode r), nextOp := nextOp, wg := wg }
    1 { val := r.getD 6 0 }

/-- A warp whose place is taken by a workgroup that is to be restored: it holds its registers and does not run. -/
def reservedWarp (l : Launch) (id wg w nextOp : Nat) (wgid : Word) : Ctx :=
  { allot := recRegs l.record, status := BitVec.ofNat 12 (recMmr l.record * 256 + recWid l.record * 64),
    launchid := BitVec.ofNat 64 id, wgid := wgid, warpid := BitVec.ofNat 5 w, nextOp := nextOp, wg := wg }

/-- Bytes from a home up read zero again (R263). -/
def clearBytes (s : State) (place n : Nat) : State :=
  { s with
    mem := s.mem.filter (fun e => decide (e.1 < place)) ++ s.mem.filter (fun e => decide (place + n ≤ e.1))
    poison := s.poison.filter (fun e => decide (e.1 < place)) ++ s.poison.filter fun e => decide (place + n ≤ e.1) }

/-- The tiles of a core with some cleared (19 R376): 16,384 elements each. -/
def clearTiles (c : Core) (ts : List Nat) : Core :=
  { c with
    tiles := c.tiles.filter fun e => !ts.contains (e.1 / 16384)
    tilePoison := c.tilePoison.filter fun e => !ts.contains (e.1 / 16384) }

/-- A quad's ages when warps are placed or leave (09 R205): the last placed is the youngest. -/
def joinAges (c : Core) : List Nat → Core
  | [] => c
  | k :: rest =>
    let q := getQuad c (keyQuad k)
    joinAges (putQuad c (keyQuad k) { q with ages := q.ages ++ [k] }) rest
def leaveAges (c : Core) : List Nat → Core
  | [] => c
  | k :: rest =>
    let q := getQuad c (keyQuad k)
    leaveAges (putQuad c (keyQuad k)
      { q with ages := q.ages.filter (· != k), fast := q.fast.filter fun e => e.2.warp.toNat != k % 16,
               refusals := q.refusals.filter (· != k) }) rest

/-- Contexts put one after the other. -/
def putCtxs (s : State) : List (Nat × Ctx) → State
  | [] => s
  | (k, c) :: rest => putCtxs (putCtx s k c) rest

/-- The placements of a launch's warps as recorded events (24 R474 kind 11). -/
def placementMarks (keys : List Nat) : List (Mark × Word) :=
  keys.zipIdx.map fun e => (⟨11, e.2, ⟨e.1, 0⟩⟩, BitVec.ofNat 64 (locusOf e.1))

/-- The entries of a log that a placement meets. -/
def meetMarks (s : State) : List (Mark × Word) → State
  | [] => s
  | (m, _) :: rest =>
    match gateOf s m with
    | .entry i _ => meetMarks (updLaunch s m.who.key fun l => { l with replayed := l.replayed ++ [i] }) rest
    | _ => meetMarks s rest

/-- A core that has taken a workgroup: its tiles cleared, its quad pointer moved (R284). -/
def takeOnCore (c : Core) (wg : Nat) (f : Fit) (keys : List Nat) : Core :=
  let c := joinAges (clearTiles c f.tiles) keys
  { c with wgs := c.wgs ++ [wg], lq := BitVec.ofNat 2 (keyQuad (keys.getLastD 0)) }

/-- Workgroup `wgid` placed anew (R284, R263, 20 R398). -/
def placeNew (s : State) (part id wgid core : Nat) (f : Fit) (keys : List Nat) : State :=
  let l := getLaunch (getPart s part) id
  let k := s.nextWgKey
  let w : Workgroup :=
    { live := true, part := part, launch := BitVec.ofNat 64 id, wgid := BitVec.ofNat 64 wgid, core := core,
      gbase := 4096 * f.granule, glen := 4096 * recGranules l.record, tiles := f.tiles, rings := launchRings l,
      warps := keys, placedAt := k }
  let s := clearBytes s (groupPlace core w.gbase) w.glen
  let s := putCore (putWg { s with nextWgKey := k + 1 } k w) core (takeOnCore (getCore s core) k f keys)
  let s := putCtxs s (keys.zipIdx.map fun e => (e.1, entryWarp l id wgid k e.2 (getCtx s e.1).nextOp))
  let p := getPart s part
  let s := putPart s part (putLaunch p id { l with
    nextWg := l.nextWg + 1, wgs := l.wgs ++ [k], headSince := s.time,
    cursor := if l.firstWave then core + 1 else l.cursor })
  recordAll (meetMarks s (placementMarks keys)) (placementMarks keys)

/-- A workgroup with an image placed again, which is a placement for a recorded launch too (24 R473); its restore is due (R287,
21 R425). -/
def placeAgain (s : State) (part id k image core : Nat) (f : Fit) (keys : List Nat) : State :=
  let l := getLaunch (getPart s part) id
  let n := s.nextWgKey
  let w := { getWg s k with
    core := core, gbase := 4096 * f.granule, tiles := f.tiles, warps := keys, placedAt := n, image := image
    alone := (getCore s core).wgs.isEmpty }
  let s := putCore (putWg { s with nextWgKey := n + 1 } k w) core (takeOnCore (getCore s core) k f keys)
  let s := putCtxs s (keys.zipIdx.map fun e => (e.1, reservedWarp l id k e.2 (getCtx s e.1).nextOp w.wgid))
  let p := getPart s part
  let s := putPart s part (putLaunch p id { l with
    returned := l.returned.filter fun e => e.1 != k, wgs := l.wgs ++ [k], headSince := s.time })
  let s := recordAll (meetMarks s (placementMarks keys)) (placementMarks keys)
  later s (.event .restore { place := k })

/-- The launch's next workgroup placed, if it fits: those that pre-emption removed come first (R287). -/
def placeNext (s : State) (part id : Nat) : Option State :=
  let l := getLaunch (getPart s part) id
  match l.returned with
  | (k, image) :: _ =>
    (choosePlace s part id (getWg s k).wgid.toNat true).map fun c => placeAgain s part id k image c.1 c.2.1 c.2.2
  | [] => (choosePlace s part id l.nextWg false).map fun c => placeNew s part id l.nextWg c.1 c.2.1 c.2.2

/-- A queue without its head. -/
def popQueue (s : State) (part prio : Nat) : State :=
  let p := getPart s part
  let q := getQueue p prio
  let p := putLaunch p (q.headD 0) { getLaunch p (q.headD 0) with queued := false }
  putPart s part (replaceQueue p s.time prio q.tail)

/-- The placements of one queue (R281): its heads' workgroups in ascending WGID until one does not fit. A head whose
first wave is full goes on under R286. Each turn places a workgroup or takes a launch from the queue. -/
def serveQueue (part prio : Nat) : Nat → State → State
  | 0, s => s
  | n + 1, s =>
    match getQueue (getPart s part) prio with
    | [] => s
    | id :: _ =>
      let l := getLaunch (getPart s part) id
      if l.ending || !unplaced l then serveQueue part prio n (popQueue s part prio)
      else
        match placeNext s part id with
        | some t => serveQueue part prio n t
        | none => putPart s part (putLaunch (getPart s part) id { l with firstWave := l.firstWave && !l.returned.isEmpty })

/-- The queues in descending priority. A turn takes a warp slot or a queue entry, of which there are fewer than
2^17. -/
def serveQueues (part : Nat) : List Nat → State → State
  | [], s => s
  | prio :: rest, s => serveQueues part rest (serveQueue part prio 131072 s)

/-- A head that can pre-empt and has not placed its workgroups: the carder watches its wait. -/
def watchHead (part : Nat) (s : State) (prio : Nat) : State :=
  let e := Act.event .carderPreemption { place := part, id := prio }
  match getQueue (getPart s part) prio with
  | [] => s
  | _ :: _ => if s.due.contains e then s else later s e

/-- A placement attempt in a partition; the heads that it leaves may come to pre-empt (R281). -/
def placementAttempt (s : State) (part : Nat) : State :=
  [7, 6, 5, 4].foldl (watchHead part) (serveQueues part [7, 6, 5, 4, 3, 2, 1, 0] s)

/-! ## The matrix lease (19 R383) -/

/-- A workgroup's lease rank: the lowest 16 × quad + slot of its warps. -/
def leaseRankOf (w : Workgroup) : Nat := w.warps.foldl (fun m k => min m (k % 64)) 63

/-- The waiter that follows a rank in cyclic order. -/
def nextWaiter (s : State) (c : Core) (rank : Nat) : Option (Nat × BitVec 11) :=
  let best := fun (ws : List (Nat × BitVec 11)) =>
    ws.foldl
      (fun (acc : Option (Nat × BitVec 11)) e =>
        match acc with
        | none => some e
        | some b => if leaseRankOf (getWg s e.1) < leaseRankOf (getWg s b.1) then some e else acc)
      none
  match best (c.leaseWaiters.filter fun e => decide (rank < leaseRankOf (getWg s e.1))) with
  | some e => some e
  | none => best c.leaseWaiters

/-- Whether a strand of a workgroup waits for the lease (19 R383): one that has trapped, or that a trap or a stop holds back,
does not. -/
def waitsForLease (s : State) (k : Nat) : Bool :=
  (getWg s k).warps.any fun key => (getCtx s key).strands.any fun e =>
    e.2.valid && !e.2.stop && !e.2.suspended && (e.2.wait matches .held .lease _)

/-- A core's waiters without the workgroups that no longer wait. -/
def dropStale (s : State) (core : Nat) : State :=
  let c := getCore s core
  putCore s core { c with leaseWaiters := c.leaseWaiters.filter fun e => waitsForLease s e.1 }

/-- The lease passes to the next waiter, or becomes free. -/
def passLease (s : State) (core : Nat) : State :=
  let c := { getCore s core with leaseGiven := false }
  let rank := match c.leaseHolder with
    | some h => leaseRankOf (getWg s h)
    | none => c.leaseRank
  match nextWaiter s c rank with
  | some (k, n) =>
    putCore s core { c with
      leaseHolder := some k, leaseCount := n.toNat, leaseRank := rank,
      leaseWaiters := c.leaseWaiters.filter fun e => e.1 != k }
  | none => putCore s core { c with leaseHolder := none, leaseCount := 0, leaseRank := rank }

/-- A workgroup gives the lease up, or its wait for it, as it leaves. -/
def dropLease (s : State) (k : Nat) : State :=
  let core := (getWg s k).core
  let c := getCore s core
  let s := dropStale (putCore s core { c with leaseWaiters := c.leaseWaiters.filter fun e => e.1 != k }) core
  if c.leaseHolder = some k then passLease s core else s

/-! ## Retirement and completion (R278, R279) -/

/-- The resources of a workgroup freed: slots, registers, granules, tiles, maps and rings; the quad pointer is 3 again when a
core's last workgroup retires (R284). -/
def freeOnCore (s : State) (k : Nat) (retires : Bool) : State :=
  let w := getWg s k
  let s := dropLease s k
  let c := leaveAges (clearTiles (getCore s w.core) w.tiles) w.warps
  let wgs := c.wgs.filter (· != k)
  let c := { c with wgs := wgs, lq := if retires && wgs.isEmpty then 3 else c.lq,
                    park := c.park.filter fun e =>
                      !w.warps.contains (w.core * 64 + e.2.quad.toNat * 16 + e.2.slot.toNat) }
  let s := clearBytes (putCore s w.core c) (groupPlace w.core w.gbase) w.glen
  putCtxs s (w.warps.map fun key => (key, { nextOp := (getCtx s key).nextOp }))

/-- Whether every workgroup of a launch has retired. -/
def allRetired (l : Launch) : Bool := l.wgs.isEmpty && !unplaced l

/-- Whether an operation is the matrix engine's and no drain. -/
def isTileOp (k : EngineKind) : Bool :=
  match k with
  | .matrix (.drain _ _ _ _ _ _ _ _ _) => false
  | .matrix _ => true
  | .copy _ _ _ _ _ _ _ | .mcast _ _ _ _ _ _ | .band _ _ => false

/-- Operations of a workgroup that go with it, and the range-lock entries that they hold. -/
def dropOps (s : State) (k : Nat) (p : EngineOp → Bool) : State :=
  let goes := fun (o : EngineOp) => o.wg == k && p o
  { s with cores := s.cores.map fun (c : Nat × Core) =>
      (c.1, { c.2 with
        engine := c.2.engine.filter fun o => !goes o
        locks := c.2.locks.filter fun l => !(getCore s l.core).engine.any fun o => o.id == l.op && goes o }) }

/-- The workgroup retires (WORKGROUP_RETIRE, R279): its resources are free, with the operations that are open on its tiles
alone; a launch whose last workgroup it was completes, and the retirement has a placement attempt of its own (R286). -/
def retireWorkgroup (s : State) (k : Nat) : State :=
  let w := getWg s k
  let s := putWg (freeOnCore (dropOps s k fun o => isTileOp o.kind) k true) k {}
  let p := getPart s w.part
  let l := getLaunch p w.launch.toNat
  let l := { l with wgs := l.wgs.filter (· != k) }
  let s := putPart s w.part (putLaunch p w.launch.toNat l)
  let s := if allRetired l then later s (.event .launchCompletion { place := w.part, id := w.launch.toNat }) else s
  placementAttempt s w.part

/-- The status word of a launch that completes (R278). -/
def statusWordOf (l : Launch) (countFault : Bool) : Word :=
  BitVec.ofNat 64 (l.cause.toNat + l.cause2.toNat * 2 ^ 8 + countFault.toNat * 2 ^ 16 + l.killed.toNat * 2 ^ 17)

/-- The workgroups of a launch, placed, waiting to be placed again, or held in an image. -/
def launchWgs (s : State) (part id : Nat) : List Nat :=
  (s.wgs.filter fun e => e.2.live && e.2.part == part && e.2.launch.toNat == id).map Prod.fst

/-- Whether a workgroup has an open copy, multicast, drain or band record. -/
def wgTransfers (s : State) (k : Nat) : Bool :=
  s.cores.any fun c => c.2.engine.any fun o =>
    o.wg == k &&
      (match o.kind with
       | .matrix (.drain _ _ _ _ _ _ _ _ _) => true
       | .matrix _ => false
       | .copy _ _ _ _ _ _ _ | .mcast _ _ _ _ _ _ | .band _ _ => true)

/-- A flip that a workgroup's warp has issued completes, after the table writes before it: nothing interrupts it (07 R173). -/
def settleFlip (s : State) (w : Workgroup) : State :=
  match (getCore s w.core).actFlip with
  | some a => if w.warps.contains a.key then completeFlip (settleActs s w.core) w.core else s
  | none => s

/-- A workgroup of an ended launch goes: what it issued is performed, a pending flip included, its pending launches are decided,
its operations and its image are gone. -/
def removeWg (s : State) (k : Nat) : State :=
  let w := getWg s k
  let s := w.warps.foldl decideLaunches (w.warps.foldl settleCtx (settleFlip s w))
  let s := dropOps s k fun _ => true
  let s := if w.warps.isEmpty then s else freeOnCore s k false
  let s := { s with dies := s.dies.map fun (d : Nat × Die) => (d.1, { d.2 with images := d.2.images.filter fun e => e.1 != k }) }
  putWg s k {}

/-- The workgroups of an ended launch removed one after the other. -/
def removeWgs (s : State) : List Nat → State
  | [] => s
  | k :: rest => removeWgs (removeWg s k) rest

/-- The held launches that were waiting for a dependence enter their queues, in ascending identifier order (R280). -/
def enterReady (s : State) (part : Nat) : List Nat → State
  | [] => s
  | id :: rest => enterReady (enterQueue s part id) part rest

/-- Whether a launch may complete now (R279). -/
def mayComplete (s : State) (part id : Nat) : Bool :=
  let l := getLaunch (getPart s part) id
  let ks := launchWgs s part id
  l.live && (if l.ending then ks.all fun k => !wgTransfers s k && !(getWg s k).saving else allRetired l)

/-- LAUNCH_COMPLETION (R279): DONE is counted up, the status is kept, and the launches that waited for this one enter
their queues. -/
def launchCompletion (s : State) (part id : Nat) : State :=
  let l := getLaunch (getPart s part) id
  let q : Requester := { key := systemBase + 2 * (partDies s part).headD 0, user := l.user, asid := l.asid }
  let cut := carderCut s q (recDone l.record) 8
  if !mayComplete s part id || (recDone l.record != 0 && carderHeld s q (recDone l.record) 8 && !cut) then
    (if l.live then again s (.event .launchCompletion { place := part, id := id }) else s)
  else
    let s := removeWgs s (launchWgs s part id)
    let counted := if recDone l.record = 0 then some s else if cut then none else countDone s q (recDone l.record)
    let s := counted.getD s
    let p := getPart s part
    let p := replaceQueue p s.time (recPrio l.record) ((getQueue p (recPrio l.record)).filter (· != id))
    let p := { p with
      launches := mapErase p.launches id
      done := ((id, statusWordOf l counted.isNone) :: p.done).take 65536 }
    let s := putPart s part p
    attemptDue (enterReady s part (p.launches.map Prod.fst)) part

/-- The status that lwait reads of an identifier, none while the launch is live (R278). -/
def launchStatus (p : Partition) (x : Word) : Option Word :=
  if x.toNat = 0 ∨ p.issued < x.toNat then some (BitVec.ofNat 64 (2 ^ 19))
  else if (getLaunch p x.toNat).live then none
  else
    match listFind (fun e : Nat × Word => e.1 == x.toNat) p.done with
    | some e => some e.2
    | none => some (BitVec.ofNat 64 (2 ^ 18))

/-! ## launch, launch.ctx and lwait -/

/-- What the carder reads as a launch issues: the record and its role table, with the rights of the strand (R273, R275). -/
def readLaunch (s : State) (ctxForm : Bool) (at_ : Word) : LaunchRead :=
  let c := cur s
  let q := requester s s.focus.key
  let rec_ := carderRead s q at_.toNat 128
  { ctxForm := ctxForm, user := q.user, asid := q.asid, addr := at_,
    thread := if isSystem s.focus.key then c.scratch0 else c.thread,
    ready := (getPart s (partOf s (keyDie s.focus.key))).ready, record := rec_,
    roles := match rec_ with
      | none => none
      | some r => if recRoles r = 0 then some [] else carderRead s q (recRoles r) 64 }

/-- Both forms of launch (R275): after the strand's earlier accesses the carder reads the record and its role table once,
and S[d] is pending until the carder decides. -/
def launchForm (ctxForm : Bool) (g : BitVec 3) (d a : BitVec 6) (s : State) : Res State :=
  guarded g (fun s => do
    need (!ctxForm || isPriv (cur s)) 0x07
    let x ← rdS s a
    freeS s d
    await (strandDone (cur s).ops s.focus.slot true true) .fence
    let l := readLaunch s ctxForm x
    let q := requester s s.focus.key
    await (!carderHeld s q x.toNat 128 && (recRoles (l.record.getD []) == 0 || !carderHeld s q (recRoles (l.record.getD [])) 64)) .memory
    let c := cur s
    let t := setCur s (putS c d.toNat { getS c d.toNat with fill := .pending })
    .ok (retire (issueOp t (.launch l) d.toNat []) 1)) s

/-- launch (R275). -/
def execLaunch (g : BitVec 3) (d a : BitVec 6) (s : State) : Host.Outcome State Fault Refusal :=
  run s (launchForm false g d a s)

/-- launch.ctx (R275). -/
def execLaunchCtx (g : BitVec 3) (d a : BitVec 6) (s : State) : Host.Outcome State Fault Refusal :=
  run s (launchForm true g d a s)

/-- An lwait for an identifier that it has read (R278): it fills S[d] once the launch is not live, or waits with a fill of
S[d] in flight (02 R36). -/
def launchWait (s : State) (w : LaunchWait) : State :=
  let m : Mark := ⟨7, w.id.toNat, s.focus⟩
  match awaitGate s m, launchStatus (getPart s (partOf s (keyDie s.focus.key))) w.id with
  | .ok _, some st => completeRecorded (wrS (setStrand s { curStrand s with lwait := none }) w.d st) 1 m st
  | _, _ =>
    let c := cur s
    let t := setCur s (putS c w.d.toNat { getS c w.d.toNat with fill := .pending })
    hold (setStrand t { curStrand t with lwait := some w }) .launch

/-- lwait (R278): it reads its guard and the identifier and marks S[d] once, at issue. -/
def execLwait (g : BitVec 3) (d a : BitVec 6) (s : State) : Host.Outcome State Fault Refusal :=
  match (curStrand s).lwait with
  | some w => .next (launchWait s w)
  | none =>
    run s (guarded g (fun s => do
      let x ← rdS s a
      freeS s d
      .ok (launchWait s { d := d, a := a, id := x })) s)

/-! ## Steps -/

/-- CARDER_DECISION (R275). -/
def execCarderDecision (s : State) : Host.Outcome State Fault Refusal := .next (carderDecision s s.input.who.key s.input.id)

/-- QUEUE_ENTRY (R280). -/
def execQueueEntry (s : State) : Host.Outcome State Fault Refusal :=
  .next (attemptDue (enterQueue s s.input.place s.input.id) s.input.place)

/-- PLACEMENT_ATTEMPT (R281). -/
def execPlacementAttempt (s : State) : Host.Outcome State Fault Refusal := .next (placementAttempt s s.input.place)

/-- LAUNCH_COMPLETION (R279). -/
def execLaunchCompletion (s : State) : Host.Outcome State Fault Refusal :=
  .next (launchCompletion s s.input.place s.input.id)

/-- KILL_LAUNCH (R278): system software ends a launch. -/
def execKillLaunch (s : State) : Host.Outcome State Fault Refusal :=
  .next (endLaunch s s.input.place s.input.id 0 0 true)

end Sys2Proof.Machine
end

