-- ==== Sys2Proof/Machine/Strand.lean ====
section
/-! DEFINITION. Strands: fork in both forms, join, ends, armwait, smask and exit (08 R175 to R193; 02 R54). -/

namespace Sys2Proof.Machine

open Sys2Proof

/-! ## The edges of R190 on operations in flight -/

/-- Some slots have every operation before them that a slot has. -/
def shareOrder (c : Ctx) (giver : Nat) (heirs : List Nat) : Ctx :=
  let bits := BitVec.ofNat 8 (heirs.foldl (fun acc i => acc + 2 ^ i) 0)
  { c with ops := c.ops.map fun o => if o.order.getLsbD giver then { o with order := o.order ||| bits } else o }

/-- Whether an operation is a fence. -/
def isFence (k : OpKind) : Bool :=
  match k with
  | .fence _ _ => true
  | _ => false

/-- A slot's strand ends: its operations are before its parent once that has waited for it, and its fences hold nothing
more. -/
def passOrder (c : Ctx) (slot parent : Nat) : Ctx :=
  let gone := fun (x : BitVec 8) => x &&& ~~~ BitVec.ofNat 8 (2 ^ slot)
  { c with ops := (c.ops.filter fun o => !(isFence o.kind && o.slot == slot)).map fun o =>
      if o.order.getLsbD slot || o.ended.getLsbD slot then
        { o with order := gone o.order, ended := gone o.ended ||| BitVec.ofNat 8 (2 ^ parent) }
      else o }

/-- A strand has the operations of ended descendants, and of the given live ones with those that ended under them, before
it. -/
def takeOrder (c : Ctx) (slot : Nat) (live : List Nat) : Ctx :=
  { c with ops := c.ops.map fun o =>
      if o.ended.getLsbD slot || live.any fun i => o.order.getLsbD i || o.ended.getLsbD i then
        { o with order := o.order ||| BitVec.ofNat 8 (2 ^ slot), ended := o.ended &&& ~~~ BitVec.ofNat 8 (2 ^ slot) }
      else o }

/-! ## fork (R179 to R181) -/

/-- A join set of a fork: its first register, absolute, and its count minus one; none when V is clear (04 R97). -/
def joinSet (s : State) (v : BitVec 1) (base : BitVec 6) (len : BitVec 3) : Res (Option (Nat × Nat)) :=
  if v = 0 then .ok none
  else do
    let r ← vxAt s base.toNat 0
    let _ ← nextReg s r len.toNat
    .ok (some (r, len.toNat))

/-- The registers of a join set. -/
def joinRegs (j : Option (Nat × Nat)) : List Nat :=
  match j with
  | none => []
  | some (r, n) => (List.range (n + 1)).map fun i => r + i

/-- Lanes of registers left empty with no fill in flight (R179). -/
def emptyRegs (c : Ctx) (lanes : List Nat) : List Nat → Ctx
  | [] => c
  | r :: rest => emptyRegs (lanes.foldl (fun c l => putV c r l { getV c r l with fill := .empty }) c) lanes rest

/-- The join sets pended in their arms' lanes. -/
def pendSets (c : Ctx) (t f : Mask) (ja jb : Option (Nat × Nat)) : Ctx :=
  emptyRegs (emptyRegs c (lanesOf t) (joinRegs ja)) (lanesOf f) (joinRegs jb)

/-- An arm's strand (R177, R179). -/
def armStrand (x : Strand) (parent : Nat) (mask : Mask) (ca : Word) (j : Option (Nat × Nat)) : Strand :=
  { valid := true, mask := mask, parent := BitVec.ofNat 3 parent, ca := ca, wi := 1, psv := x.ser, psr := x.sidx,
    jv := j.isSome, jlen := BitVec.ofNat 3 (j.getD (0, 0)).2, jbase := BitVec.ofNat 8 (j.getD (0, 0)).1 }

/-- The free slots of a warp's strand table, in ascending order. -/
def openSlots (c : Ctx) : List Nat := (List.range 8).filter fun i => !(getStrand c i).valid

/-- Strands put into slots. -/
def putStrands (c : Ctx) : List (Nat × Strand) → Ctx
  | [] => c
  | (i, x) :: rest => putStrands (putStrand c i x) rest

/-- The concurrent form: the arms take the lowest free slots, and this strand continues at `cont`. -/
def forkWide (s : State) (arms : List Strand) (cont : Word) : State :=
  let c := cur s
  let slots := openSlots c
  let c := putStrands c (slots.zip arms)
  transfer (setCur s (shareOrder c s.focus.slot ((slots.zip arms).map Prod.fst))) cont

/-- The lane-call records that a slot holds, as the bits of RLC (R181). -/
def ownedCalls (c : Ctx) (slot : Nat) : BitVec 4 :=
  BitVec.ofNat 4 ((List.range 4).foldl
    (fun acc n => acc + if (getLaneCall c n).valid && (getLaneCall c n).owner.toNat == slot then 2 ^ n else 0) 0)

/-- The serial form in record `n` (R180): arm A's stage, or arm B's where arm A has no lane. -/
def forkSerial (s : State) (n : Nat) (t f : Mask) (armA armB cont : Word) (ja jb : Option (Nat × Nat)) : State :=
  let c := cur s
  let x := curStrand s
  let r : Serial :=
    { bmask := f, outer := x.mask, stage := if t = 0 then 2 else 1, bca := armB, cca := cont, pv := x.ser,
      pidx := x.sidx, ajv := ja.isSome, ajlen := BitVec.ofNat 3 (ja.getD (0, 0)).2,
      ajbase := BitVec.ofNat 8 (ja.getD (0, 0)).1, bjv := jb.isSome, bjlen := BitVec.ofNat 3 (jb.getD (0, 0)).2,
      bjbase := BitVec.ofNat 8 (jb.getD (0, 0)).1, rsd := BitVec.ofNat 8 (rasEntries s s.focus.key s.focus.slot).length,
      rlc := ownedCalls c s.focus.slot }
  let s := setCur s (putSerial c n r)
  let s := setStrand s { curStrand s with ser := true, sidx := BitVec.ofNat 3 n, mask := if t = 0 then f else t }
  transfer s (if t = 0 then armB else armA)

/-- The target of a fork's offset (04 R98). -/
def forkTarget (s : State) (off : BitVec 11) : Word := (curStrand s).ca + 4 * sxField off

/-- The place of a fork among recorded events (24 R474 kind 8). -/
def forkMark (s : State) : Mark := ⟨8, (pcWord (curStrand s)).toNat, s.focus⟩

/-- A recorded choice that has been made: logged, and met in a replay. -/
def chooseRecorded (s : State) (m : Mark) (value : Word) : State := meetMarks (recordEvent s m value) [(m, value)]

/-- fork (R179, R180). While INTRAP is 1 the serial form is taken (21 R414); a replay takes the recorded form. DESIGN CHOICE (log
entry 114): of several free serial records the lowest-numbered is taken. -/
def execFork (k : BitVec 3) (offA offC : BitVec 11) (av : BitVec 1) (ab : BitVec 6) (al : BitVec 3) (bv : BitVec 1)
    (bb : BitVec 6) (bl : BitVec 3) (s : State) : Host.Outcome State Fault Refusal :=
  run s (do
    need (av != 0 || (ab == 0 && al == 0)) 0x01
    need (bv != 0 || (bb == 0 && bl == 0)) 0x01
    let ja ← joinSet s av ab al
    let jb ← joinSet s bv bb bl
    let c := cur s
    let x := curStrand s
    let t := x.mask &&& getK c k.toNat
    let f := x.mask &&& ~~~ t
    freeV s (joinRegs ja) (lanesOf t)
    freeV s (joinRegs jb) (lanesOf f)
    let armA := forkTarget s offA
    let armB := nextClause s
    let cont := forkTarget s offC
    let arms := (if t = 0 then [] else [armStrand x s.focus.slot t armA ja]) ++
      (if f = 0 then [] else [armStrand x s.focus.slot f armB jb])
    let short := decide ((openSlots c).length < arms.length)
    let forced := forcedValue s (forkMark s)
    let serial := !arms.isEmpty && (match forced with
      | some v => v == 1
      | none => short || isInTrap c)
    awaitGate s (forkMark s)
    await (serial || !short) .memory
    if serial then
      match listFind (fun i => (getSerial c i).stage == 0) (List.range 8) with
      | none => .error (.trap 0x0C 0 0)
      | some n =>
        let s := chooseRecorded s (forkMark s) 1
        .ok (forkSerial (setCur s (pendSets (cur s) t f ja jb)) n t f armA armB cont ja jb)
    else
      let s := chooseRecorded s (forkMark s) 0
      .ok (forkWide (setCur s (pendSets (cur s) t f ja jb)) arms cont))

/-! ## join (R182) -/

/-- The register that a lane of a join selects. -/
def joinPick (k : Mask) (ra rb l : Nat) : Nat := if k.getLsbD l then ra else rb

/-- Whether a strand descends from the one in `slot` (R184): its own children, of its running stage in the serial form,
and theirs. -/
def descends (c : Ctx) (slot : Nat) (x : Strand) : Nat → Nat → Bool
  | 0, _ => false
  | n + 1, j =>
    let y := getStrand c j
    if !y.valid || y.root || j == slot then false
    else if y.parent.toNat == slot then !x.ser || (y.psv && y.psr == x.sidx)
    else descends c slot x n y.parent.toNat

/-- The live descendants of the executing strand. -/
def descendants (s : State) : List Nat :=
  (List.range 8).filter fun j => descends (cur s) s.focus.slot (curStrand s) 8 j

/-- join. -/
def execJoin (k : BitVec 3) (d a b : BitVec 6) (e : BitVec 1) (s : State) : Host.Outcome State Fault Refusal :=
  run s (do
    let rd ← vxD s d
    let ra ← vxA s a
    let rb ← vxB s b
    let c := cur s
    let m := getK c k.toNat
    let lanes := lanesOf (curStrand s).mask
    let picked := lanes.map fun l => (joinPick m ra rb l, l)
    if picked.any fun p => (getV c p.1 p.2).fill != .full then
      (if e = 1 then .error (.trap 0x05 0 0) else .error (.wait .join))
    else
      match listFind (fun p : Nat × Nat => (getV c p.1 p.2).poison) picked with
      | some p => .error (.trap 0x14 0 (poisonV p.1 p.2))
      | none => do
        freeV s [rd] lanes
        let c := dstLanes c rd (picked.map fun p => (p.2, laneVal c p.1 p.2))
        .ok (retire (setCur s (takeOrder c s.focus.slot (descendants s))) 1))

/-! ## Issuing again -/

/-- Whether the wait of a strand that has given its pin back has not ended: its instruction would wait with its window too
(09 R200). -/
def waitGoesOn (s : State) (a : Agent) (f : Instr → State → Host.Outcome State Fault Refusal) : Bool :=
  waitsUnpinned s a &&
    (match issueWith true { s with focus := a } with
     | .exec i t =>
       (match issued i false t (f i (raceView t)) with
        | .next u => onlyWaits u a
        | _ => false)
     | .done t => onlyWaits t a)

/-- A waiting strand's instruction issued again, when it is the one that a step is for. -/
def reissue (s : State) (a : Agent) (why : Why) (f : Instr → State → Host.Outcome State Fault Refusal) :
    Host.Outcome State Fault Refusal :=
  if issuable s a &&
      (match (getStrand (getCtx s a.key) a.slot).wait with
       | .held w _ => w == why
       | .ready => false) && !waitGoesOn s a f then
    match issueNext { s with focus := a } with
    | .exec i t => issued i (getStrand (getCtx s a.key) a.slot).pinned t (f i (raceView t))
    | .done t => .next (arrived { s with focus := a } t)
  else .next s

/-- JOIN_ISSUE (R182): a waiting join issues once every selected lane is full. -/
def execJoinIssue (s : State) : Host.Outcome State Fault Refusal :=
  reissue s s.input.who .join fun i t =>
    match i with
    | .join k d a b e => execJoin k d a b e t
    | _ => .next s

/-! ## armwait (R184) -/

/-- armwait. -/
def execArmwait (s : State) : Host.Outcome State Fault Refusal :=
  run s (do
    await (descendants s).isEmpty .armwait
    .ok (retire (setCur s (takeOrder (cur s) s.focus.slot [])) 1))

/-- ARMWAIT_COMPLETE (R184). -/
def execArmwaitComplete (s : State) : Host.Outcome State Fault Refusal :=
  reissue s s.input.who .armwait fun i t =>
    match i with
    | .armwait => execArmwait t
    | _ => .next s

/-! ## exit (R186; 17 R342; 19 R394) -/

/-- Whether two strands are of one root: always, but for the halves of compatibility width. DESIGN CHOICE (log entry 82): there,
a strand whose mask has no lane of 0 to 15, one that a sysret left empty included, is of root 1. -/
def sameRoot (c : Ctx) (x y : Strand) : Bool :=
  !isCompat c || ((x.mask &&& 0xFFFF == 0) == (y.mask &&& 0xFFFF == 0))

/-- Whether every store, atomic and launch that a context issued has been performed. -/
def storesDone (c : Ctx) : Bool :=
  c.ops.all fun o =>
    (match o.kind with
     | .launch _ => false
     | _ => true) && (!opWrites o.kind || o.accs.all fun a => a.done)

/-- Whether an operation holds a register of a warp (19 R382), or is a transfer that the warp issued. -/
def holdsWarp (s : State) (key : Nat) (o : EngineOp) : Bool :=
  o.waits.any (fun w => w / 256 == key) || (o.wg == (getCtx s key).wg && o.warp == (getCtx s key).warpid.toNat &&
    !isTileOp o.kind)

/-- Whether no copy, multicast, drain or band record of a warp is open, on whichever core it issued, and no operation holds
its registers. -/
def transfersDone (s : State) (key : Nat) : Bool := s.cores.all fun c => c.2.engine.all fun o => !holdsWarp s key o

/-- Whether some batch of a warp holds error bits that no c.wait has reported (17 R342). -/
def unreported (c : Ctx) : Bool := c.batches.any fun b => !b.reported && b.errors != 0

/-- A strand's slot freed, with the return-address entries and lane-call records that it owns (R183, 02 R54). -/
def freeSlot (s : State) : State :=
  let s := discardRas s
  let c := cur s
  let c := { c with laneCalls := c.laneCalls.filter fun e => e.2.owner.toNat != s.focus.slot }
  setCur s (putStrand c s.focus.slot {})

/-- The warp of the executing strand retires (R186, 19 R394): its bindings go, and with its last warp the workgroup. -/
def retireWarp (s : State) : State :=
  let key := s.focus.key
  let c := cur s
  let k := c.wg
  let s := setCur s { c with live := false, strands := [], serials := [], laneCalls := [], ops := [], batches := [] }
  let core := getCore s (keyCore key)
  let q := getQuad core (keyQuad key)
  let s := putCore s (keyCore key) (putQuad core (keyQuad key)
    { q with ages := q.ages.filter (· != key), fast := q.fast.filter fun e => e.2.warp.toNat != key % 16 })
  let w := getWg s k
  if w.live then
    let s := putWg s k { w with binds := w.binds.filter fun e => e.2.warp != c.warpid.toNat }
    if w.warps.any fun j => (getCtx s j).live then s else retireWorkgroup s k
  else s

/-- exit. -/
def exitStrand (s : State) : Res State := do
  let c := cur s
  let key := s.focus.key
  let x := curStrand s
  let others := (liveSlots c).filter fun i => i != s.focus.slot && sameRoot c x (getStrand c i)
  need (others.isEmpty && !x.ser) 0x0F
  await (storesDone c) .fence
  await (isSystem key || transfersDone s key) .batch
  need (!(isCpyTrap c && unreported c)) 0x18
  let s := freeSlot s
  if isSystem key then
    let d := getDie s (keyDie key)
    let i := (key - systemBase) % 2
    .ok (putDie s (keyDie key) (putSc d i { getSc d i with running := false }))
  else if (liveSlots (cur s)).isEmpty then .ok (retireWarp s)
  else .ok (setCur s { cur s with batches := (cur s).batches.map fun b => { b with reported := true } })

/-- exit (R186). -/
def execExit (s : State) : Host.Outcome State Fault Refusal := run s (exitStrand s)

/-! ## ends (R183) -/

/-- The lanes of the executing arm: its mask, or outside a lane call's group the mask of its outermost call. -/
def armLanes (s : State) : Mask :=
  (laneCallsOf s).foldl (fun m e => m ||| e.2.outer) (curStrand s).mask

/-- Step 1: the lanes of a join set that are empty, with no fill in flight, are filled with zero. -/
def fillJoinSet (c : Ctx) (lanes : List Nat) : List Nat → Ctx
  | [] => c
  | r :: rest =>
    fillJoinSet ((lanes.filter fun l => (getV c r l).fill == .empty).foldl (fun c l => putV c r l {}) c) lanes rest

/-- The strands that an ending arm forked take its place (step 2). -/
def reparent (c : Ctx) (slot : Nat) (x : Strand) (serial : Option Serial) : Ctx :=
  { c with strands := c.strands.map fun e =>
      let y := e.2
      if !y.valid || y.root || e.1 == slot || y.parent.toNat != slot then e
      else
        match serial with
        | some r => if y.psv && y.psr == x.sidx then (e.1, { y with psv := r.pv, psr := r.pidx }) else e
        | none => (e.1, { y with parent := x.parent, psv := x.psv, psr := x.psr }) }

/-- Registers of a join set from its base and its count minus one. -/
def setRegs (v : Bool) (base : BitVec 8) (len : BitVec 3) : List Nat :=
  if v then (List.range (len.toNat + 1)).map fun i => base.toNat + i else []

/-- An ends in a serial arm: the slot moves to the next stage that has lanes, or to the continuation (SERIAL_STAGE_ADVANCE,
R180). -/
def endStage (s : State) (r : Serial) : State :=
  let x := curStrand s
  let regs := if r.stage = 1 then setRegs r.ajv r.ajbase r.ajlen else setRegs r.bjv r.bjbase r.bjlen
  let s := setCur s (reparent (fillJoinSet (cur s) (lanesOf (armLanes s)) regs) s.focus.slot x (some r))
  let s := discardRas s
  let c := cur s
  let c := { c with laneCalls := c.laneCalls.filter fun e =>
    e.2.owner.toNat != s.focus.slot || r.rlc.getLsbD e.1 }
  if r.stage = 1 ∧ r.bmask ≠ 0 then
    let s := setCur s (putSerial c x.sidx.toNat { r with stage := 2 })
    transfer (setStrand s { curStrand s with mask := r.bmask }) r.bca
  else
    let s := setCur s (putSerial c x.sidx.toNat {})
    transfer (setStrand s { curStrand s with mask := r.outer, ser := r.pv, sidx := r.pidx }) r.cca

/-- An ends of an arm with a slot of its own: the slot is freed. -/
def endArm (s : State) : State :=
  let x := curStrand s
  let c := fillJoinSet (cur s) (lanesOf (armLanes s)) (setRegs x.jv x.jbase x.jlen)
  let c := passOrder (reparent c s.focus.slot x none) s.focus.slot x.parent.toNat
  freeSlot (setCur s c)

/-- ends (R183). -/
def execEnds (s : State) : Host.Outcome State Fault Refusal :=
  run s (
    match runningSerial (cur s) (curStrand s) with
    | some r => .ok (endStage s r)
    | none => if (curStrand s).root || isSystem s.focus.key then exitStrand s else .ok (endArm s))

/-! ## smask (R185) -/

/-- smask. -/
def execSmask (k : BitVec 3) (s : State) : Host.Outcome State Fault Refusal :=
  .next (retire (setCur s (putK (cur s) k.toNat (curStrand s).mask)) 1)

end Sys2Proof.Machine
end

