-- ==== Sys2Proof/Machine/Engine.lean ====
section
/-! DEFINITION. What the engines share: tile-layout records and their cache (11 R244, 17 R325, R326), the checks on the
ranges of an operation (17 R328), range locks (R335 to R338), the bytes that engines read and write (R341, 18 R348),
batches (17 R339, R340), rings and bands (20 R398 to R406). -/

namespace Sys2Proof.Machine

open Sys2Proof

/-! ## Ranges and their checks (17 R328) -/

/-- A run of bytes: its first address and its length. -/
abbrev Piece := Nat × Nat

/-- The addresses of a run at which a check's answer can change, ascending: its first byte, page boundaries and the
ends of windows and of the allocation. -/
def piecePoints (glen : Nat) (p : Piece) : List Nat :=
  if p.2 = 0 then []
  else
    let pages := (List.range ((p.1 % 262144 + p.2 - 1) / 262144)).map fun i => (p.1 / 262144 + i + 1) * 262144
    let ends := [spillBase + 0x4000, groupBase + glen, groupBase + 0x20000].filter fun x =>
      decide (p.1 < x) && decide (x < p.1 + p.2)
    sortUp (p.1 :: (pages ++ ends))

/-- The lowest of some addresses that fails a test. -/
def lowestFailing (f : Nat → Bool) (pts : List Nat) : Option Nat :=
  pts.foldl
    (fun acc x =>
      if f x then
        match acc with
        | none => some x
        | some y => some (min x y)
      else acc)
    none

/-- Whether a byte's region alone refuses an engine (R236 step 1). -/
def engineRegion (va : Nat) : Bool :=
  match regionOf va with
  | .none | .reserved => true
  | .translated | .spill | .group => false

/-- Whether a byte lies in the other of the two spaces that a range may not straddle. -/
def engineStraddle (space : Region) (va : Nat) : Bool :=
  (regionOf va == .group || regionOf va == .translated) && (space == .group || space == .translated) &&
    regionOf va != space

/-- Whether a byte's page is not valid; an I/O page is valid, and no engine has a right to it (R326, R328). -/
def enginePage (s : State) (q : Requester) (va : Nat) : Bool := regionOf va == .translated && pageInvalid s q va

/-- Whether an engine lacks the right to a byte: the spill window, the end of the allocation, I/O and sibling pages,
rights and keys. -/
def engineDenied (s : State) (q : Requester) (glen : Nat) (write : Bool) (va : Nat) : Bool :=
  match regionOf va with
  | .spill => true
  | .group => decide (groupBase + glen ≤ va)
  | .translated =>
    (match translateFor s q va with
     | .error _ => false
     | .ok l =>
       !(l.type == 0 || l.type == 1) || (q.user && !l.u) || (if write then !l.w else !l.r) ||
         (l.type == 0 && !keyLoaded s l.key.toNat))
  | _ => false

/-- The checks of R236 on a range of an engine operation, in their order, with the lowest failing byte. -/
def engineCheck (s : State) (q : Requester) (write : Bool) (ps : List Piece) : Option (BitVec 8 × Word × Word) :=
  let glen := (wgOf s q.key).glen
  let pts := ps.flatMap (piecePoints glen)
  let space := regionOf (pts.headD 0)
  let at_ := fun (c : BitVec 8) (x : Nat) => some (c, BitVec.ofNat 64 x, (0 : Word))
  match lowestFailing engineRegion pts with
  | some x => at_ 0x0B x
  | none =>
    match lowestFailing (engineStraddle space) pts with
    | some x => at_ 0x09 x
    | none =>
      match lowestFailing (enginePage s q) pts with
      | some x => some (0x0B, BitVec.ofNat 64 x, if walkWasBad s q x 1 then 1 else 0)
      | none =>
        match lowestFailing (engineDenied s q glen write) pts with
        | some x => at_ 0x0C x
        | none => none

/-- Those checks at an issue. DESIGN CHOICE (log entry 105): the strand waits while main memory holds a walk that they need. -/
def engineChecked (s : State) (q : Requester) (write : Bool) (ps : List Piece) : Res Unit := do
  await (!((ps.flatMap (piecePoints (wgOf s q.key).glen)).any (walkHeld s q))) .memory
  passed (engineCheck s q write ps)

/-- The rows of a range, addresses modulo 2^64. -/
def rowPieces (start pitch len n : Nat) : List Piece := (List.range n).map fun i => ((start + i * pitch) % 2 ^ 64, len)

/-- Where a checked range stands for its engine: a core-physical offset or a virtual address. -/
def spanAt (s : State) (key va : Nat) : Span :=
  match regionOf va with
  | .group => .group (wgOf s key).core ((wgOf s key).gbase + (va - groupBase))
  | _ => .virt va

/-- The part key of a byte: the memory type and, for main pages, the interleave set (R329). -/
def partKey (s : State) (q : Requester) (va : Nat) : Option (BitVec 2 × BitVec 2) :=
  if regionOf va = .group then none
  else
    match translateFor s q va with
    | .ok l => some (l.type, l.iset)
    | .error _ => none

/-- The addresses at which parts start (R329). -/
def partStarts (s : State) (q : Requester) (ps : List Piece) : List Nat :=
  (ps.flatMap (piecePoints (wgOf s q.key).glen)).foldl
    (fun acc x =>
      match acc.getLast? with
      | none => [x]
      | some y => if partKey s q x = partKey s q y then acc else acc ++ [x])
    []

/-- The part that an address belongs to. -/
def partIndex (starts : List Nat) (va : Nat) : Nat := (starts.filter fun x => decide (x ≤ va)).length - 1

/-! ## Tile-layout records (11 R244, 17 R325, R326) -/

/-- The zero fields and reserved values of a record (R325). -/
def recordLegal (w : List Word) : Bool :=
  recField w 0 63 57 == 0 && recField w 1 63 45 == 0 && recField w 1 31 19 == 0 && decide (recField w 1 18 16 < 4) &&
    decide (recField w 1 15 12 < 9) && recField w 3 63 57 == 0 && recField w 4 63 57 == 0 && recField w 6 63 42 == 0 &&
    recField w 6 41 40 != 3 && recField w 7 63 0 == 0

/-- A record's fields; `rb` is the row bytes B and `rows` the row count n of R326. -/
def readRecord (w : List Word) : Record :=
  { base := recField w 0 56 0, rb := 8 * (recField w 1 44 32 + 1), swz := recField w 1 18 16,
    fmt := recField w 1 15 12, rows := recField w 1 11 0 + 1, dpitch := recField w 2 63 32,
    spitch := recField w 2 31 0, scale := recField w 3 56 0, tags := recField w 4 56 0, vnonce := w.getD 5 0,
    ovset := BitVec.ofNat 2 (recField w 6 41 40), vkey := BitVec.ofNat 8 (recField w 6 39 32),
    vrow := BitVec.ofNat 32 (recField w 6 31 0), legal := recordLegal w }

/-- The swizzle rule of R326. -/
def swizzleLegal (r : Record) : Bool := r.swz == 0 || r.rb % (16 * 2 ^ r.swz) == 0

/-- The limits of R326 on a record of a copy or drain. -/
def copyLegal (r : Record) : Bool :=
  r.legal && r.spitch % 8 == 0 && r.dpitch % 8 == 0 && decide (r.rb ≤ r.dpitch) && swizzleLegal r

/-- The physical address and the target of a record that passes its checks (R326), or its trap's cause and DETAIL. A record that
runs on from the translated space into the spill window leaves its space (11 R236 step 2, R237). -/
def recordTarget (s : State) (q : Requester) (va : Nat) : Except (BitVec 8 × Word) (Nat × Target) :=
  if regionOf va = .translated ∧ regionOf (lastByte va 64) = .spill then .error (0x09, 0) else
  match engineCheck s q false [(va, 64)] with
  | some (c, _, d) => .error (c, d)
  | none =>
    if regionOf va ≠ .translated then .error (0x0C, 0)
    else if failsLock s q .load va 64 then .error (0x0D, 0)
    else if va % 64 ≠ 0 then .error (0x08, 0)
    else
      match targetOf s q va with
      | .home p => .ok (p, .home p)
      | .main p pa slot => .ok (pa, .main p pa slot)
      | _ => .error (0x0C, 0)

/-- The record at an address through the core's record cache of 64 entries (R244): the eight doublewords and the state
with the entry cached. DESIGN CHOICE (log entry 98): a fill of a full cache replaces the entry filled longest ago. -/
def fetchRecord (s : State) (va : Word) : Res (Record × State) :=
  let q := requester s s.focus.key
  let core := keyCore s.focus.key
  if walksHeld s q 64 [va.toNat] then .error (.wait .memory) else
  match recordTarget s q va.toNat with
  | .error (c, d) => .error (.trap c va d)
  | .ok (pa, t) =>
    let c := getCore s core
    match listFind (fun e : Nat × List Word => e.1 == pa) c.records with
    | some e => .ok (readRecord e.2, s)
    | none =>
      let got := match t with
        | .home p => if poisonedRun s p 64 then none else some (readWords s p 8)
        | .main p pa slot => if (mainRead s p pa slot 64).2 then some (readWords s p 8) else none
        | _ => none
      let held := match t with
        | .main p pa _ => accessHeld s (core / 32) pa p
        | .home p => portFrozen s (core / 32) p
        | _ => false
      if held then .error (.wait .memory)
      else
        match got with
        | none => .error (.trap 0x14 va 0x800000)
        | some w => .ok (readRecord w, putCore s core { c with records := ((pa, w) :: c.records).take 64 })

/-! ## Range locks (17 R335 to R338) -/

/-- A hull from a start and a length. -/
def hullOf (sp : Span) (asid : BitVec 16) (len : Nat) (dest : Bool) : Hull :=
  match sp with
  | .group _ off => { dest := dest, group := true, lo := off, hi := off + len - 1 }
  | .virt va => { dest := dest, asid := asid, lo := va, hi := va + len - 1 }
  | .image _ => { dest := dest, group := true, lo := 1, hi := 0 }

/-- Two hulls share a byte. -/
def hullsShare (a b : Hull) : Bool :=
  a.group == b.group && (a.group || a.asid == b.asid) && decide (a.lo ≤ b.hi) && decide (b.lo ≤ a.hi) &&
    decide (a.lo ≤ a.hi) && decide (b.lo ≤ b.hi)

/-- The entries of a core's table. -/
def lockRoom (c : Core) (n : Nat) : Bool := decide (c.locks.length + n ≤ 64)

/-- Whether the hulls of an operation meet those of an open entry (R337). -/
def locksClash (c : Core) (hs : List Hull) : Bool :=
  hs.any fun h => c.locks.any fun k => k.hulls.any fun e => hullsShare h e && (h.dest || e.dest)

/-- An entry taken in a core's table. -/
def takeLock (s : State) (core : Nat) (k : Lock) : State :=
  let c := getCore s core
  putCore s core { c with locks := c.locks ++ [k] }

/-- The entries of an operation freed on every core (R338). -/
def freeLocks (s : State) (core op : Nat) : State :=
  { s with cores := s.cores.map fun (e : Nat × Core) =>
      (e.1, { e.2 with locks := e.2.locks.filter fun k => !(k.core == core && k.op == op) }) }

/-! ## The bytes that engines read and write (17 R341, 18 R348) -/

/-- Error bits of R340, counted from bit 17. -/
def errXlate : BitVec 7 := 1
def errMem : BitVec 7 := 2
def errInteg : BitVec 7 := 4
def errVfail : BitVec 7 := 8
def errSpmeta : BitVec 7 := 16
def errMiss : BitVec 7 := 32
def errLost : BitVec 7 := 64

/-- A byte's place for an engine: a home, a main-memory cell with its address and key slot, the error that keeps
the part from being performed, or a walk that is waited for. -/
inductive EnginePlace where
  | home (p : Nat)
  | main (p pa slot : Nat)
  | fails (e : BitVec 7)
  /-- a translation whose walk main memory holds just now -/
  | waits
  deriving DecidableEq, Repr

/-- A physical place, under a key slot where it is in main memory. -/
def physPlace (s : State) (pa slot : Nat) : EnginePlace :=
  match physOf pa with
  | .main _ =>
    match mainPlace s pa with
    | some p => .main p pa slot
    | none => .fails errLost
  | .die _ _ => .home pa
  | _ => .fails errXlate

/-- The key slot under which a die writes its save images (21 R422). -/
def saveSlot (s : State) (pa : Nat) : Nat :=
  match physOf pa with
  | .main _ => (mapGet ({} : Line) s.lines (((mainPlace s pa).getD 0) / 64)).slot.toNat
  | _ => 0

/-- The module as it was before any pseudo-channel was lost. -/
def revived (s : State) : State := { s with memStacks := s.memStacks.map fun e => (e.1, { e.2 with dead := 0 }) }

/-- Whether the tables name, for an address, main memory that a retirement has lost: the leaf is not valid for that reason
alone (18 R367). -/
def lostPage (s : State) (q : Requester) (va : Nat) : Bool :=
  match walkPath (revived s) (walkRead s) (cacheDie (keyCache q.key)) q.asid va with
  | .error _ => false
  | .ok (l, _) =>
    match physOf (leafPa l va) with
    | .main a => (mainPlace s a).isNone
    | _ => false

/-- A place as a requester reaches it: beyond a frozen port there is nothing, and nothing is reported (25 R479). -/
def reachable (s : State) (q : Requester) (pl : EnginePlace) : EnginePlace :=
  match pl with
  | .home p | .main p _ _ => if beyondPort s q p then .fails 0 else pl
  | .fails _ | .waits => pl

/-- The place of byte `k` of a span, translated as the tables and rights now stand; a walk through a frozen port is not made. -/
def enginePlace (s : State) (q : Requester) (write : Bool) (sp : Span) (k : Nat) : EnginePlace :=
  reachable s q <| match sp with
  | .group core off => .home (groupPlace core (off + k))
  | .image pa => physPlace s (pa + k) (saveSlot s (pa + k))
  | .virt base =>
    let va := (base + k) % 2 ^ 64
    if regionOf va = .spill then .home (spillPlace q.key (va - spillBase))
    else if walkHeld s q va then (if (getDie s (keyDie q.key)).frozen then .fails 0 else .waits)
    else
    match translateFor s q va with
    | .error _ => .fails (if lostPage s q va then errLost else errXlate)
    | .ok l =>
      if !(l.type == 0 || l.type == 1) || (q.user && !l.u) || (if write then !l.w else !l.r) ||
          (l.type == 0 && !keyLoaded s l.key.toNat) then .fails errXlate
      else physPlace s (leafPa l va) l.key.toNat

/-- A byte as an engine reads it: its value, 0 sound, 1 poisoned or failed, 2 not read; and its errors. -/
def readEngine (s : State) (pl : EnginePlace) : (Byte × Nat) × BitVec 7 :=
  match pl with
  | .home p => if poisonedRun s p 1 then ((readByte s p, 1), errMem) else ((readByte s p, 0), 0)
  | .main p pa slot =>
    if linkIsDown s p then ((readByte s p, 1), errMem)
    else if !lineOk s p pa slot then ((readByte s p, 1), errInteg)
    else if poisonedRun s p 1 then ((readByte s p, 1), errMem)
    else ((readByte s p, 0), 0)
  | .fails e => ((0, 2), e)
  | .waits => ((0, 2), 0)

/-- Whether main memory holds a byte's place, or the walk to it, just now (18 R364 to R369). -/
def engineHeld (s : State) (pl : EnginePlace) : Bool :=
  match pl with
  | .main p pa _ => mainHeld s pa p
  | .waits => true
  | .home _ | .fails _ => false

/-- A byte to be written, with its place and its poison. -/
structure OutByte where
  place : EnginePlace
  byte : Byte
  bad : Bool
  deriving DecidableEq, Repr

/-- Bytes written one by one at their homes. -/
def writeHomes (s : State) : List (Nat × Byte × Bool) → State
  | [] => s
  | (p, b, bad) :: rest => writeHomes (notePark (writeBytes s p [b] bad) p 1) rest

/-- The main-memory bytes of one line written together (18 R348): a whole line is tagged anew, a part of a failed line
is dropped with INTEG, and a write on a failed link is not performed (R349). -/
def writeLine (s : State) (pa slot : Nat) (es : List (Nat × Byte × Bool)) : State × BitVec 7 :=
  match es with
  | [] => (s, 0)
  | (p, _, _) :: _ =>
    if linkIsDown s p then (s, 0)
    else if (es.map Prod.fst).eraseDups.length = 64 then (tagLine (writeHomes s es) (p / 64 * 64) pa slot, 0)
    else if lineOk s p pa slot then (writeHomes s es, 0)
    else (s, errInteg)

/-- The lines that some bytes lie in, as (line cell, address, slot). -/
def outLines (os : List OutByte) : List (Nat × Nat × Nat) :=
  os.foldl
    (fun acc o =>
      match o.place with
      | .main p pa slot =>
        if acc.any fun e => e.1 == p / 64 then acc else acc ++ [(p / 64, pa / 64 * 64, slot)]
      | _ => acc)
    []

/-- Bytes written by an engine, homes first and then line by line. -/
def writeLines (s : State) (os : List OutByte) : List (Nat × Nat × Nat) → State × BitVec 7
  | [] => (s, 0)
  | (line, pa, slot) :: rest =>
    let es := os.filterMap fun o =>
      match o.place with
      | .main p _ _ => if p / 64 = line then some (p, o.byte, o.bad) else none
      | _ => none
    let r := writeLine s pa slot es
    let t := writeLines r.1 os rest
    (t.1, r.2 ||| t.2)

/-- Bytes written by an engine; the errors it met. -/
def writeOut (s : State) (os : List OutByte) : State × BitVec 7 :=
  let homes := os.filterMap fun o =>
    match o.place with
    | .home p => some (p, o.byte, o.bad)
    | _ => none
  writeLines (writeHomes s homes) os (outLines os)

/-! ## Rings (20 R398 to R402) -/

/-- The ring that an instruction names, when its warp may use it (R399). -/
def ringOf (s : State) (j : Nat) : Option Ring :=
  let w := wgOf s s.focus.key
  if isSystem s.focus.key then none
  else
    match listFind (fun e : Nat × Ring => e.1 == j) w.rings with
    | some (_, r) => if r.owners.getLsbD (cur s).warpid.toNat then some r else none
    | none => none

/-- A post on a ring of a workgroup (R400, R402). -/
def postRing (s : State) (k j : Nat) : State :=
  let w := getWg s k
  putWg s k { w with rings := w.rings.map fun e => if e.1 = j then (j, { e.2 with phase := e.2.phase + 1 }) else e }

/-! ## Bands (20 R403 to R406) -/

/-- Stamps and counts of a band, by number. -/
def stCis : Nat := 0
def stCic : Nat := 1
def stOpr : Nat := 2
def stMms : Nat := 3
def stMme : Nat := 4
def stDrs : Nat := 5
def stCoc : Nat := 6
def cntNci : Nat := 0
def cntNmma : Nat := 1
def cntNdr : Nat := 2
def cntNco : Nat := 3

/-- A stamp at a TIME; a first event's stamp is kept. -/
def stampIn (b : Band) (i : Nat) (t : BitVec 48) (first : Bool) : Band :=
  if first && b.stamps.any fun e => e.1 == i then b else { b with stamps := mapInsert b.stamps i t }

/-- The bands of a workgroup with the band of opening `n` changed. -/
def updBand (w : Workgroup) (n : Nat) (f : Band → Band) : Workgroup :=
  if n = 0 then w
  else if w.band.isOpen && w.band.seq == n then { w with band := f w.band }
  else { w with oldBands := w.oldBands.map fun e => if e.1 = n then (n, f e.2) else e }

/-- A stamp in the band of opening `n` of workgroup k. -/
def stampBand (s : State) (k n i : Nat) (first : Bool) : State :=
  if n = 0 then s else putWg s k (updBand (getWg s k) n fun b => stampIn b i s.time first)

/-- The number of the open band's opening, 0 when it is closed. -/
def openBand (w : Workgroup) : Nat := if w.band.isOpen then w.band.seq else 0

/-- An operation counted in the open band; counts saturate at 65,535 (R405). -/
def countBand (s : State) (k i : Nat) : State :=
  let w := getWg s k
  putWg s k (updBand w (openBand w) fun b =>
    { b with counts := mapPut 0 b.counts i (min 65535 (mapGet 0 b.counts i + 1)) })

/-! ## Operations -/

/-- An engine operation issued by the executing strand on its core; a counted one belongs to the open band. -/
def issueEngine (s : State) (o : EngineOp) (hs : List Hull) (counted : Bool) : State :=
  let key := s.focus.key
  let c := cur s
  let core := keyCore key
  let k := getCore s core
  let o := { o with
    id := k.nextEngine, ctx := key, warp := c.warpid.toNat, slot := s.focus.slot, wg := c.wg, asid := c.asid,
    user := !isPriv c, die := keyDie key, by_ := key, after := c.nextOp,
    bandSeq := if counted then openBand (getWg s c.wg) else 0 }
  let s := putCore s core { k with engine := k.engine ++ [o], nextEngine := k.nextEngine + 1 }
  if hs.isEmpty then s else takeLock s core { core := core, op := o.id, hulls := hs }

/-- The number that the next operation of the executing strand's core gets. -/
def nextEngineId (s : State) : Nat := (getCore s (keyCore s.focus.key)).nextEngine

/-- An operation of a core. -/
def findEngine (s : State) (core id : Nat) : Option EngineOp :=
  listFind (fun o : EngineOp => o.id == id) (getCore s core).engine

/-- An operation of a core replaced. -/
def putEngine (s : State) (core : Nat) (o : EngineOp) : State :=
  let c := getCore s core
  putCore s core { c with engine := c.engine.map fun p => if p.id = o.id then o else p }

/-- Some open operation of the module, on whichever core it issued, satisfies a test. -/
def someEngine (s : State) (p : EngineOp → Bool) : Bool := s.cores.any fun c => c.2.engine.any p

/-- An operation belongs to a warp, whose copies stay its own when it is restored elsewhere (R344). -/
def ofWarp (c : Ctx) (o : EngineOp) : Bool := o.wg == c.wg && o.warp == c.warpid.toNat

/-- Everything that an operation's warp issued before it is performed (15 R294). -/
def earlierDone (s : State) (o : EngineOp) : Bool :=
  (getCtx s o.ctx).ops.all fun p => decide (o.after ≤ p.id) || !opAccesses p.kind || p.accs.all fun a => a.done

/-- The requester that an operation is: it translates by the cache and the tables of the core that it issued on, wherever its
warp goes (R341). -/
def engineRequester (o : EngineOp) : Requester := { key := o.by_, user := o.user, asid := o.asid, cut := o.cut }

/-! ## Batches (17 R339, R340; 21 R424) -/

/-- Whether an operation belongs to its warp's batches: copies, multicasts, drains and band records. -/
def inBatches (k : EngineKind) : Bool :=
  match k with
  | .copy _ _ _ _ _ _ _ | .mcast _ _ _ _ _ _ => true
  | .matrix (.drain _ _ _ _ _ _ _ _ _) => true
  | .matrix _ => false
  | .band _ _ => true

/-- Errors and first failing row joined to those of a batch. -/
def joinErrors (e : BitVec 7) (f : Word) (e' : BitVec 7) (f' : Word) : BitVec 7 × Word :=
  (e ||| e', if e &&& errVfail = 0 then f' else f)

/-- The open operations of a warp that are in a batch, or in none. -/
def openIn (s : State) (wg warp : Nat) (closed : Bool) (n : BitVec 16) : Bool :=
  s.cores.any fun c => c.2.engine.any fun o =>
    o.wg == wg && o.warp == warp && inBatches o.kind && o.closed == closed && (!closed || o.batch == n)

/-- The byte address of a warp's block in its workgroup's save image (21 R422, R423). -/
def warpBlock (s : State) (k warp : Nat) : Nat :=
  let w := getWg s k
  let r := (wgLaunch s w).record
  let p := if recWid r = 2 then 2 else 1
  w.image + 4096 + w.glen + recAcct r * 65536 + (if recAtag r = 0 then 0 else 16384) +
    warp * (0x7000 + 256 * p * recRegs r)

/-- Bytes of an image rewritten within a line under the key that wrote it. -/
def writeImage (s : State) (pa : Nat) (bs : List Byte) : State :=
  match physPlace s pa (saveSlot s pa) with
  | .home p => writeBytes s p bs
  | .main p pa slot => (mainWrite s p pa slot bs).1
  | .fails _ | .waits => s

/-- A doubleword of an image. -/
def readImage (s : State) (pa : Nat) : Word :=
  match physPlace s pa (saveSlot s pa) with
  | .home p => BitVec.ofNat 64 (readNat s p 8)
  | .main p _ _ => BitVec.ofNat 64 (readNat s p 8)
  | .fails _ | .waits => 0

/-- Errors joined to an open batch, which completes or not. -/
def joinBatch (n : BitVec 16) (e : BitVec 7) (f : Word) (complete : Bool) (b : Batch) : Batch :=
  if b.number = n ∧ !b.complete then
    let j := joinErrors b.errors b.frow e f
    { b with errors := j.1, frow := j.2, complete := complete }
  else b

/-- A batch that completes while its warp is saved is marked in the image (21 R424), or, older than the 32 that the block
holds, beside it. -/
def markImage (s : State) (k warp : Nat) (n : BitVec 16) (e : BitVec 7) (f : Word) (complete : Bool) : State :=
  let base := warpBlock s k warp + 0x1080
  let i := listFind (fun i => bf (readImage s (base + 16 * i)) 15 0 == n.toNat) (List.range 32)
  match i with
  | none =>
    let w := getWg s k
    putWg s k { w with kept := w.kept.zipIdx.map fun x =>
      if x.2 = warp then { x.1 with batches := x.1.batches.map (joinBatch n e f complete) } else x.1 }
  | some i =>
    let w := readImage s (base + 16 * i)
    let j := joinErrors (BitVec.ofNat 7 (bf w 23 17)) (readImage s (base + 16 * i + 8)) e f
    writeImage s (base + 16 * i) (wordsBytes
      [BitVec.ofNat 64 (n.toNat + complete.toNat * 2 ^ 16 + j.1.toNat * 2 ^ 17), j.2])

/-- Whether a workgroup's warps are away in a save image. -/
def isAway (w : Workgroup) : Bool := w.away

/-- Whether main memory holds the batch table in which an operation's completion is to be marked (21 R424). -/
def markHeld (s : State) (o : EngineOp) : Bool :=
  isAway (getWg s o.wg) && o.closed && runHeld s (warpBlock s o.wg o.warp + 0x1080) 512

/-- A completed operation's errors reach its batch, or wait for its close. -/
def settleBatch (s : State) (o : EngineOp) : State :=
  let w := getWg s o.wg
  let openStill := openIn s o.wg o.warp o.closed o.batch
  if isAway w then
    if o.closed then markImage s o.wg o.warp o.batch o.errors o.frow (!openStill)
    else
      let old := mapGet ((0 : BitVec 7), (0 : Word)) w.pending o.warp
      putWg s o.wg { w with pending := mapPut (0, 0) w.pending o.warp (joinErrors old.1 old.2 o.errors o.frow) }
  else
    let c := getCtx s o.ctx
    if o.closed then
      putCtx s o.ctx { c with batches := c.batches.map (joinBatch o.batch o.errors o.frow (!openStill)) }
    else
      let j := joinErrors c.pendErrors c.pendFrow o.errors o.frow
      putCtx s o.ctx { c with pendErrors := j.1, pendFrow := j.2 }

/-- An operation completes: it is gone from its core, its entries are freed, and its batch learns of it. -/
def finishEngine (s : State) (core : Nat) (o : EngineOp) : State :=
  let c := getCore s core
  let s := putCore s core { c with engine := c.engine.filter fun p => p.id != o.id }
  let s := freeLocks s core o.id
  if inBatches o.kind then settleBatch s o else s

end Sys2Proof.Machine
end

