-- ==== Sys2Proof/Machine/Ring.lean ====
section
/-! DEFINITION. r.post and r.wait (20 R399 to R402), t.band and band records (R403 to R406). -/

namespace Sys2Proof.Machine

open Sys2Proof

/-! ## r.post and r.wait -/

/-- r.post (R400): a release at workgroup scope, then one step of the ring. -/
def execRPost (g q : BitVec 3) (s : State) : Host.Outcome State Fault Refusal :=
  run s (guarded g (fun s => do
    need (ringOf s q.toNat).isSome 0x16
    await (strandDone (cur s).ops s.focus.slot true true) .fence
    .ok (retire (postRing s (cur s).wg q.toNat) 1)) s)

/-- The token of an r.wait (R401). -/
def ringToken (base : Word) (n : BitVec 10) : BitVec 16 := BitVec.ofNat 16 (base + sxField n).toNat

/-- Whether a phase has passed a token (R401). -/
def ringPassed (p t : BitVec 16) : Bool := decide (1 ≤ (p - t).toNat) && decide ((p - t).toNat ≤ 32767)

/-- Whether a token is lapped: more than S posts lie after it. -/
def ringLapped (r : Ring) (p t : BitVec 16) : Bool := decide (r.depth.toNat < (p - t).toNat)

/-- The phase at which an r.wait completes now, if it may: the live one, or in a replay the recorded one once the ring has
reached it (24 R475). -/
def ringPhase (s : State) (m : Mark) (p : BitVec 16) : Option (BitVec 16) :=
  match forcedValue s m with
  | some v =>
    let q := BitVec.ofNat 16 (bf v 15 0)
    if (p - q).toNat < 32768 then some q else none
  | none => some p

/-- An r.wait for a token that it has computed (R401): it completes once the ring has passed the token, or waits, keeping
the token. -/
def ringWait (s : State) (q : BitVec 3) (r : Ring) (t : BitVec 16) : State :=
  let m : Mark := ⟨4, q.toNat, s.focus⟩
  let waits := hold (setStrand s { curStrand s with rwait := some t }) .ring
  match awaitGate s m, ringPhase s m r.phase with
  | .ok _, some p =>
    if ringPassed p t then
      let lapped := ringLapped r p t
      completeRecorded (wrP (setStrand s { curStrand s with rwait := none }) 7 lapped) 1 m
        (BitVec.ofNat 64 (p.toNat + lapped.toNat * 65536))
    else waits
  | _, _ => waits

/-- r.wait (R401): the guard and S[a] are read once, at issue; it writes p7 in every completion. -/
def execRWait (g q : BitVec 3) (a : BitVec 6) (n : BitVec 10) (s : State) : Host.Outcome State Fault Refusal :=
  match (curStrand s).rwait, ringOf s q.toNat with
  | some t, some r => .next (ringWait s q r t)
  | _, ring =>
    run s (guarded g (fun s =>
      match ring with
      | none => .error (.trap 0x16 0 0)
      | some r => do
        let x ← rdS s a
        .ok (ringWait s q r (ringToken x n))) s)

/-- RING_WAIT_COMPLETE (R401): a waiting r.wait issues again after a step of its ring. -/
def execRingWaitComplete (s : State) : Host.Outcome State Fault Refusal :=
  reissue s s.input.who .ring fun i t =>
    match i with
    | .rWait g q a n => execRWait g q a n t
    | _ => .next s

/-! ## Bands -/

/-- An offset of a band record (R405): an event's TIME since OPEN, or all ones where there is none. -/
def bandOffset (b : Band) (t : Option (BitVec 48)) : Nat :=
  match t with
  | none => 0xFFFFFFFF
  | some t => min (t - b.opened).toNat 0xFFFFFFFE

/-- A stamp's offset. -/
def stampOffset (b : Band) (i : Nat) : Nat :=
  bandOffset b ((listFind (fun e : Nat × BitVec 48 => e.1 == i) b.stamps).map Prod.snd)

/-- Two offsets in a doubleword. -/
def pairWord (hi lo : Nat) : Word := BitVec.ofNat 64 (hi * 2 ^ 32 + lo)

/-- Doublewords 1 to 5 of a band record (R405), which an image's BSTAMP holds too (21 R422). -/
def bandStamps (b : Band) (close : Option (BitVec 48)) : List Word :=
  let n := fun i => mapGet 0 b.counts i
  [ pairWord (stampOffset b stCic) (stampOffset b stCis), pairWord (stampOffset b stMms) (stampOffset b stOpr),
    pairWord (stampOffset b stDrs) (stampOffset b stMme), pairWord (bandOffset b close) (stampOffset b stCoc),
    BitVec.ofNat 64 (n cntNco * 2 ^ 48 + n cntNdr * 2 ^ 32 + n cntNmma * 2 ^ 16 + n cntNci) ]

/-- The band record (R405). -/
def bandWords (b : Band) (launch wgid : Word) : List Word :=
  [BitVec.ofNat 64 (b.number.toNat * 2 ^ 48 + b.opened.toNat)] ++ bandStamps b (some b.closed) ++ [launch, wgid]

/-- The address of a band's record (R406). -/
def bandAddress (base : Word) (n : Nat) : Nat := (base.toNat + 64 * ((n - 1) % 64)) % 2 ^ 64

/-- Close on the open band, with a record where BANDBASE is not 0 (R403, R406); on a closed band it has no effect. -/
def closeBand (s : State) : Res State :=
  let c := cur s
  let w := getWg s c.wg
  let n := w.band.number.toNat
  if !w.band.isOpen then .ok s
  else if c.bandbase = 0 then .ok (putWg s c.wg { w with band := { w.band with isOpen := false, closed := s.time } })
  else do
    let addr := bandAddress c.bandbase n
    if regionOf addr = .spill then pure () else engineChecked s (requester s s.focus.key) true [(addr, 64)]
    if failsLock s (requester s s.focus.key) .store addr 64 then .error (.trap 0x0D (BitVec.ofNat 64 addr) 0) else pure ()
    let b := { w.band with isOpen := false, closed := s.time }
    let s := putWg s c.wg { w with band := b, oldBands := mapPut {} w.oldBands b.seq b }
    let id := nextEngineId s
    let s := issueEngine s { kind := .band (spanAt s s.focus.key addr) b.seq } [] false
    .ok (later s (.event .bandRecordWrite { place := keyCore s.focus.key, id := id }))

/-- The band number after n (R403). -/
def nextBand (n : BitVec 16) : BitVec 16 := if n + 1 = 0 then 1 else n + 1

/-- t.band open (R403). -/
def execTBandOpen (g : BitVec 3) (s : State) : Host.Outcome State Fault Refusal :=
  run s (guarded g (fun s => do
    need (!isSystem s.focus.key) 0x16
    let s ← closeBand s
    let w := wgOf s s.focus.key
    .ok (retire (putWg s (cur s).wg { w with
      band := { isOpen := true, seq := w.band.seq + 1, number := nextBand w.band.number, opened := s.time } }) 1)) s)

/-- t.band close (R403, R406). -/
def execTBandClose (g : BitVec 3) (s : State) : Host.Outcome State Fault Refusal :=
  run s (guarded g (fun s => do
    need (!isSystem s.focus.key) 0x16
    let s ← closeBand s
    .ok (retire s 1)) s)

/-- The bytes of an engine's write of doublewords to a span. -/
def outWords (s : State) (q : Requester) (sp : Span) (ws : List Word) : List OutByte :=
  (wordsBytes ws).zipIdx.map fun e => { place := enginePlace s q true sp e.2, byte := e.1, bad := false }

/-- The error with which a part is not performed, if some byte of it has no place. -/
def outFails (os : List OutByte) : BitVec 7 :=
  os.foldl
    (fun acc o =>
      match o.place with
      | .fails e => acc ||| e
      | _ => acc)
    0

/-- BAND_RECORD_WRITE (R406): once every operation that the band counted has completed, and what its warp issued before the
close is performed (15 R294), its record is written. -/
def bandRecordWrite (s : State) (core id : Nat) : State :=
  match findEngine s core id with
  | none => s
  | some o =>
    match o.kind with
    | .band dst n =>
      let counted := s.cores.any fun c => c.2.engine.any fun p => p.wg == o.wg && p.bandSeq == n
      let w := getWg s o.wg
      let out := outWords s (engineRequester o) dst (bandWords (mapGet {} w.oldBands n) w.launch w.wgid)
      if counted || !earlierDone s o || markHeld s o || out.any fun b => engineHeld s b.place then
        again s (.event .bandRecordWrite { place := core, id := id })
      else
        let s := putWg s o.wg { w with oldBands := mapErase w.oldBands n }
        let e := outFails out
        let r := if e = 0 then writeOut s out else (s, e)
        finishEngine r.1 core { o with errors := o.errors ||| r.2 }
    | _ => s

/-- BAND_RECORD_WRITE. -/
def execBandRecordWrite (s : State) : Host.Outcome State Fault Refusal :=
  .next (bandRecordWrite s s.input.place s.input.id)

end Sys2Proof.Machine
end

