-- ==== Sys2Proof/Machine/Copy.lean ====
section
/-! DEFINITION. The copy engine (17 R324 to R344): c.copy, c.mcast, c.close, c.wait, and the steps that complete a part
or make a delivery. -/

namespace Sys2Proof.Machine

open Sys2Proof

/-! ## Sizes and legality (R326, R331) -/

/-- The element bits of a format that sparse copies admit, else 0. -/
def sparseBits (fmt : Nat) : Nat :=
  match fmt with
  | 2 | 3 => 16
  | 6 | 8 => 8
  | _ => 0

/-- Bs of R327: the bytes of a source row. -/
def sourceBytes (r : Record) (sparse : Bool) : Nat :=
  if sparse then (if sparseBits r.fmt = 8 then r.rb / 2 + r.rb / 8 else r.rb / 2 + r.rb / 16) else r.rb

/-- Whether a record and the flags of the extension are legal together (R326, R331 to R333). -/
def flagsLegal (r : Record) (sparse verify : Bool) : Bool :=
  copyLegal r && (!sparse || (sparseBits r.fmt != 0 && r.rb % 64 == 0)) && (!verify || r.tags % 8 == 0)

/-- The length of a hull of n rows (R335). -/
def hullLength (n pitch len : Nat) : Nat := (n - 1) * pitch + len

/-! ## The checks of an issue (R328) -/

/-- The ranges of a copy checked: the source rows with the tags of verify mode, then the destination rows (R328). DESIGN
CHOICE (log entry 103): the rows are tested before the tags. -/
def checkCopy (s : State) (r : Record) (s0 d0 : Nat) (sparse verify : Bool) : Res Unit := do
  let q := requester s s.focus.key
  engineChecked s q false (rowPieces s0 r.spitch (sourceBytes r sparse) r.rows)
  if verify then engineChecked s q false [(r.tags, 8 * r.rows)] else pure ()
  engineChecked s q true (rowPieces d0 r.dpitch r.rb r.rows)

/-- The hulls of a source and a destination that share a byte trap 0x0D at the lowest shared one. -/
def checkHulls (a b : Hull) (s0 d0 : Nat) : Res Unit :=
  if hullsShare a b then .error (.trap 0x0D (BitVec.ofNat 64 (max s0 d0)) 0) else .ok ()

/-! ## c.copy (R330) -/

/-- Whether a span lies in the group store. -/
def inGroup (sp : Span) : Bool :=
  match sp with
  | .group _ _ | .image _ => true
  | .virt _ => false

/-- A copy's issue counted in the open band (20 R404). -/
def countCopy (s : State) (src dst : Span) : State :=
  let k := (cur s).wg
  if inGroup dst then stampBand (countBand s k cntNci) k (openBand (getWg s k)) stCis true
  else if inGroup src then countBand s k cntNco
  else s

/-- c.copy. -/
def execCCopy (g : BitVec 3) (d a b : BitVec 6) (ilov verify sparse : BitVec 1) (tc : BitVec 2) (s : State) :
    Host.Outcome State Fault Refusal :=
  run s (
    if guardP s g then do
      need (ilov == 0 || isPriv (cur s)) 0x07
      let d0 ← rdS s d
      let s0 ← rdS s a
      let at_ ← rdS s b
      let (r, s) ← fetchRecord s at_
      if !flagsLegal r (sparse == 1) (verify == 1) then .error (.trap 0x01 at_ 0)
      else do
        checkCopy s r s0.toNat d0.toNat (sparse == 1) (verify == 1)
        let key := s.focus.key
        let q := requester s key
        let src := spanAt s key s0.toNat
        let dst := spanAt s key d0.toNat
        let hs := hullOf src q.asid (hullLength r.rows r.spitch (sourceBytes r (sparse == 1))) false
        let hd := hullOf dst q.asid (hullLength r.rows r.dpitch r.rb) true
        checkHulls hs hd s0.toNat d0.toNat
        let k := getCore s (keyCore key)
        await (lockRoom k 1 && !locksClash k [hs, hd]) .table
        let parts := partStarts s q (rowPieces d0.toNat r.dpitch r.rb r.rows)
        let o : EngineOp :=
          { kind := .copy r src dst (sparse == 1) (verify == 1) (ilov == 1) tc, parts := parts,
            srcParts := partStarts s q (rowPieces s0.toNat r.spitch (sourceBytes r (sparse == 1)) r.rows),
            left := List.range parts.length }
        let id := nextEngineId s
        let s := issueEngine s o [hs, hd] (inGroup src || inGroup dst)
        let s := countCopy s src dst
        .ok (retire { s with due := s.due ++ (o.left.map fun p =>
          (Act.event .copyPartCompletion { place := keyCore key, id := id, sub := p })) } 2)
    else .ok (retire s 2))

/-! ## Reading rows (R327, R331, R332, R341) -/

/-- The virtual address of byte k of a span, for its part; group stores have one part. -/
def spanVa (sp : Span) (k : Nat) : Nat :=
  match sp with
  | .virt va => va + k
  | .group _ _ | .image _ => 0

/-- The places of a source row's bytes. -/
def sourcePlaces (s : State) (o : EngineOp) (src : Span) (off len : Nat) : List EnginePlace :=
  (List.range len).map fun k => enginePlace s (engineRequester o) false src (off + k)

/-- A source row: its bytes, each with the errors of reading it. -/
def readRow (s : State) (o : EngineOp) (src : Span) (off len : Nat) : List ((Byte × Nat) × BitVec 7) :=
  (sourcePlaces s o src off len).map (readEngine s)

/-- The errors of some bytes. -/
def rowErrors (rs : List ((Byte × Nat) × BitVec 7)) : BitVec 7 := rs.foldl (fun e r => e ||| r.2) 0

/-- The source parts that are not performed: those of which some byte that is needed is not read. -/
def badParts (o : EngineOp) (src : Span) (pitch : Nat) (needed : Nat → Nat → Bool) (rows : List (List (Byte × Nat))) :
    List Nat :=
  rows.zipIdx.flatMap fun r =>
    (r.1.zipIdx.filter fun b => b.1.2 == 2 && needed r.2 b.2).map fun b =>
      partIndex o.srcParts (spanVa src (r.2 * pitch + b.2))

/-- The row's bytes without those of parts that are not performed. -/
def dropParts (o : EngineOp) (src : Span) (pitch i : Nat) (bad : List Nat) (row : List (Byte × Nat)) :
    List (Byte × Nat) :=
  row.zipIdx.map fun b =>
    if bad.contains (partIndex o.srcParts (spanVa src (i * pitch + b.2))) then (b.1.1, 2) else b.1

/-- One group of a 2:4 row (R331): its bytes for elements of `eb` bytes, and whether i0 ≥ i1. A byte takes the mark of the
source byte that fills it and of the group's metadata (R341). -/
def expandGroup (row : List (Byte × Nat)) (rb eb g : Nat) : List (Byte × Nat) × Bool :=
  let get := fun i => row.getD i ((0 : Byte), 0)
  let m := get (rb / 2 + g / 2)
  let nib := m.1.toNat / 16 ^ (g % 2) % 16
  let i0 := nib % 4
  let i1 := nib / 4
  let v := 2 * g * eb
  ((List.range (4 * eb)).map fun k =>
      let e := k / eb
      let x := if i0 < i1 ∧ e = i0 then get (v + k % eb)
        else if i0 < i1 ∧ e = i1 then get (v + eb + k % eb)
        else (0, 0)
      (x.1, max x.2 m.2),
    decide (i1 ≤ i0) && m.2 != 2)

/-- A sparse row expanded, with the error of the groups of which a byte is wanted. -/
def expandRow (r : Record) (row : List (Byte × Nat)) (wanted : Nat → Bool) : List (Byte × Nat) × BitVec 7 :=
  let eb := sparseBits r.fmt / 8
  let gs := (List.range (r.rb / (4 * eb))).map (expandGroup row r.rb eb)
  (gs.flatMap Prod.fst,
    if gs.zipIdx.any fun g => g.1.2 && (List.range (4 * eb)).any fun k => wanted (4 * eb * g.2 + k) then errSpmeta else 0)

/-- Where byte k of row i stands from the destination's start (R327). -/
def rowOffset (r : Record) (i k : Nat) : Nat := i * r.dpitch + Nat.xor k (i % 2 ^ r.swz * 16)

/-- Whether byte k of row i lies in a part of the destination, or in any where none is named (R329). -/
def inPart (o : EngineOp) (r : Record) (dst : Span) (part : Option Nat) (i k : Nat) : Bool :=
  part.isNone || part == some (partIndex o.parts (spanVa dst (rowOffset r i k)))

/-- Whether source byte j of a row is read for a wanted byte of its destination row: the byte itself, or in a sparse row a value
or the metadata of its group (R331). -/
def sourceWanted (r : Record) (sparse : Bool) (wanted : Nat → Bool) (j : Nat) : Bool :=
  if sparse then
    let eb := sparseBits r.fmt / 8
    let group := fun g => (List.range (4 * eb)).any fun k => wanted (4 * eb * g + k)
    if j < r.rb / 2 then group (j / (2 * eb)) else group (2 * (j - r.rb / 2)) || group (2 * (j - r.rb / 2) + 1)
  else wanted j

/-- Whether row i passes verify mode (R332), and the errors of reading its tag. DESIGN CHOICE (log entry 102): a poisoned or
unreadable expected tag fails the row; a source row with poisoned bytes is verified over the bytes as they stand. -/
def verifyRow (s : State) (o : EngineOp) (r : Record) (i : Nat) (row : List (Byte × Nat)) : Bool × BitVec 7 :=
  let t := readRow s o (spanAt s o.ctx r.tags) (8 * i) 8
  match (getKey s 1 r.vkey.toNat).key with
  | none => (false, rowErrors t)
  | some key =>
    let iv := bigEndian r.vnonce.toNat 8 ++ bigEndian ((r.vrow.toNat + i) % 2 ^ 32) 4
    (t.all (fun b => b.1.2 == 0) && gmac64 key iv (row.map Prod.fst) == t.map (fun b => b.1.1), rowErrors t)

/-- The destination form of row i, and its errors among the wanted bytes. -/
def finishRow (s : State) (o : EngineOp) (r : Record) (sparse verify : Bool) (wanted : Nat → Bool) (i : Nat)
    (row : List (Byte × Nat)) : RowData × BitVec 7 :=
  let v := if verify then verifyRow s o r i row else (true, 0)
  let x := if sparse then expandRow r row wanted else (row, 0)
  ({ bytes := x.1, written := v.1 }, v.2 ||| x.2 ||| if v.1 then 0 else errVfail)

/-- Every row of a copy or multicast as it is read now, with the errors met on the bytes of the destination that are wanted,
told by their row and their number in it (R329). -/
def readRows (s : State) (o : EngineOp) (r : Record) (src : Span) (sparse verify : Bool) (wanted : Nat → Nat → Bool) :
    List RowData × BitVec 7 :=
  let raw := (List.range r.rows).map fun i => readRow s o src (i * r.spitch) (sourceBytes r sparse)
  let needed := fun i => sourceWanted r sparse (wanted i)
  let bad := badParts o src r.spitch needed (raw.map fun x => x.map Prod.fst)
  let rows := raw.zipIdx.map fun e =>
    finishRow s o r sparse verify (wanted e.2) e.2 (dropParts o src r.spitch e.2 bad (e.1.map Prod.fst))
  let met := raw.zipIdx.map fun e =>
    rowErrors ((e.1.zipIdx.filter fun b => needed e.2 b.2).map Prod.fst)
  (rows.map Prod.fst, met.foldl (fun e x => e ||| x) 0 ||| rows.foldl (fun e x => e ||| x.2) 0)

/-- FROW: the first row that is not written (R340). -/
def firstUnwritten (rows : List RowData) : Word :=
  BitVec.ofNat 64 ((listFind (fun e : RowData × Nat => !e.1.written) rows.zipIdx).map Prod.snd |>.getD 0)

/-- The places that a copy or multicast reads: its source rows and, in verify mode, its tags. -/
def readPlaces (s : State) (o : EngineOp) (r : Record) (src : Span) (sparse verify : Bool) : List EnginePlace :=
  (List.range r.rows).flatMap fun i =>
    sourcePlaces s o src (i * r.spitch) (sourceBytes r sparse) ++
      if verify then sourcePlaces s o (spanAt s o.ctx r.tags) (8 * i) 8 else []

/-- Whether main memory holds some byte that a copy or multicast reads just now. -/
def sourceHeld (s : State) (o : EngineOp) (r : Record) (src : Span) (sparse verify : Bool) : Bool :=
  (readPlaces s o r src sparse verify).any (engineHeld s)

/-! ## Writing rows (R327, R333) -/

/-- The place of a destination byte under an interleave override (R333, 18 R359). -/
def overridden (s : State) (o : EngineOp) (r : Record) (pl : EnginePlace) : EnginePlace :=
  match pl with
  | .main _ pa slot =>
    let d := o.die
    let n' := match r.ovset.toNat with
      | 0 => d
      | 1 => 24 + d / 12
      | _ => 26
    match domainOf s pa with
    | none => .fails errLost
    | some n =>
      let pa' := (getDomain s n').base + (pa - (getDomain s n).base)
      if inDomain s n' pa' then .main (mainPlaceIn s n' pa') pa' slot else .fails errXlate
  | _ => pl

/-- The destination bytes of a row, each with its offset from the destination's start (R327). -/
def rowOut (r : Record) (i : Nat) (row : RowData) : List (Nat × Byte × Nat) :=
  if row.written then
    row.bytes.zipIdx.map fun b => (rowOffset r i b.2, b.1.1, b.1.2)
  else []

/-- The bytes to write at a destination, those of one part or of all. -/
def rowsOut (s : State) (o : EngineOp) (r : Record) (dst : Span) (ilov : Bool) (part : Option Nat)
    (rows : List RowData) : List OutByte :=
  (rows.zipIdx.flatMap fun e => rowOut r e.2 e.1).filterMap fun b =>
    if b.2.2 = 2 ∨ (part.isSome ∧ part ≠ some (partIndex o.parts (spanVa dst b.1))) then none
    else
      let pl := enginePlace s (engineRequester o) true dst b.1
      some { place := if ilov then overridden s o r pl else pl, byte := b.2.1, bad := b.2.2 == 1 }

/-- A part of a copy written, or nothing of it where a byte has no place (R341). -/
def writePart (s : State) (out : List OutByte) : State × BitVec 7 :=
  let e := outFails out
  if e = 0 then writeOut s out else (s, e)

/-- The completion of a copy stamped in the band that counted it (20 R404). -/
def stampCopy (s : State) (o : EngineOp) (dst : Span) : State :=
  stampBand s o.wg o.bandSeq (if inGroup dst then stCic else stCoc) false

/-- An operation with a part done; the last completes it. -/
def partDone (s : State) (core : Nat) (o : EngineOp) (p : Nat) (e : BitVec 7) (frow : Word) (dst : Span) : State :=
  let j := joinErrors o.errors o.frow e frow
  let o := { o with left := o.left.filter (· != p), errors := j.1, frow := j.2 }
  if o.left.isEmpty then stampCopy (finishEngine s core o) o dst else putEngine s core o

/-- COPY_PART_COMPLETION (R329, R343): the part's bytes are read and written at one moment, with its own errors. In verify
mode the first part reads and checks every row, so that a row is written whole or not at all (R332). -/
def copyPartCompletion (s : State) (core id p : Nat) : State :=
  match findEngine s core id with
  | none => s
  | some o =>
    match o.kind with
    | .copy r src dst sparse verify ilov _ =>
      if !o.left.contains p then s
      else if !earlierDone s o || markHeld s o || (o.rows.isNone && sourceHeld s o r src sparse verify) then
        again s (.event .copyPartCompletion { place := core, id := id, sub := p })
      else
        let rows := match o.rows with
          | some rows => (rows, (0 : BitVec 7))
          | none => readRows s o r src sparse verify (inPart o r dst (if verify then none else some p))
        let o := if verify then { o with rows := some rows.1 } else o
        let out := rowsOut s o r dst ilov (some p) rows.1
        if out.any fun b => engineHeld s b.place then
          again s (.event .copyPartCompletion { place := core, id := id, sub := p })
        else
          let w := writePart s out
          partDone w.1 core o p (rows.2 ||| w.2) (firstUnwritten rows.1) dst
    | _ => s

/-! ## c.mcast (R334) -/

/-- The placed workgroup of the issuing workgroup's launch that bit j of TARGETS names. -/
def mcastTarget (s : State) (wg j : Nat) : Option Nat :=
  let w := getWg s wg
  let g0 := w.wgid.toNat - w.wgid.toNat % 16
  (listFind (fun e : Nat × Workgroup =>
    e.2.live && e.2.part == w.part && e.2.launch == w.launch && e.2.wgid.toNat == g0 + j) s.wgs).map Prod.fst

/-- The targets of a mask. -/
def targetBits (m : BitVec 16) : List Nat := (List.range 16).filter fun j => m.getLsbD j

/-- Whether a target takes a delivery: on the issuing die, with an allocation that holds the hull; a workgroup that is away
takes it in its image, from the core where it was saved (21 R424). -/
def takesDelivery (s : State) (die k off len : Nat) : Bool :=
  let w := getWg s k
  (if isAway w then w.savedOn else w.core) / 32 == die && decide (off + len ≤ w.glen)

/-- The destination hulls of a multicast on a core: one in every target allocation there. -/
def targetHulls (s : State) (wg core off len : Nat) (m : BitVec 16) : List Hull :=
  (targetBits m).filterMap fun j =>
    match mcastTarget s wg j with
    | none => none
    | some k =>
      if (getWg s k).core = core ∧ !isAway (getWg s k) ∧ takesDelivery s (core / 32) k off len then
        some { dest := true, group := true, lo := (getWg s k).gbase + off, hi := (getWg s k).gbase + off + len - 1 }
      else none

/-- The cores of the issuing die that hold targets. -/
def targetCores (s : State) (wg die off len : Nat) (m : BitVec 16) : List Nat :=
  ((List.range 32).map fun c => die * 32 + c).filter fun c => !(targetHulls s wg c off len m).isEmpty

/-- Locks taken on the cores of a multicast's targets. -/
def takeTargets (s : State) (wg off len : Nat) (m : BitVec 16) (core op : Nat) : List Nat → State
  | [] => s
  | c :: rest =>
    takeTargets (takeLock s c { core := core, op := op, hulls := targetHulls s wg c off len m }) wg off len m core op rest

/-- c.mcast. -/
def execCMcast (g : BitVec 3) (d a b : BitVec 6) (targets : BitVec 16) (verify sparse : BitVec 1) (tc : BitVec 2)
    (s : State) : Host.Outcome State Fault Refusal :=
  run s (if targets = 0 then .error (.trap 0x01 0 0)
    else if guardP s g then do
      let d0 ← rdS s d
      let s0 ← rdS s a
      let at_ ← rdS s b
      need (regionOf d0.toNat == .group) 0x01
      let (r, s) ← fetchRecord s at_
      if !flagsLegal r (sparse == 1) (verify == 1) then .error (.trap 0x01 at_ 0)
      else do
        checkCopy s r s0.toNat d0.toNat (sparse == 1) (verify == 1)
        let key := s.focus.key
        let core := keyCore key
        let q := requester s key
        let src := spanAt s key s0.toNat
        let off := d0.toNat - groupBase
        let len := hullLength r.rows r.dpitch r.rb
        let hs := hullOf src q.asid (hullLength r.rows r.spitch (sourceBytes r (sparse == 1))) false
        checkHulls hs (hullOf (spanAt s key d0.toNat) q.asid len true) s0.toNat d0.toNat
        let wg := (cur s).wg
        let cores := targetCores s wg (core / 32) off len targets
        await (lockRoom (getCore s core) (if cores.contains core then 2 else 1) &&
          (cores.all fun c => lockRoom (getCore s c) 1) &&
          !locksClash (getCore s core) (hs :: targetHulls s wg core off len targets)) .table
        let o : EngineOp :=
          { kind := .mcast r src off (sparse == 1) (verify == 1) tc, left := targetBits targets,
            srcParts := partStarts s q (rowPieces s0.toNat r.spitch (sourceBytes r (sparse == 1)) r.rows) }
        let id := nextEngineId s
        let s := issueEngine s o [hs] true
        let s := countCopy s src (.group core 0)
        let s := takeTargets s wg off len targets core id cores
        .ok (retire { s with due := s.due ++ (o.left.map fun j =>
          (Act.event .mcastDelivery { place := core, id := id, sub := j })) } 2)
    else .ok (retire s 2))

/-- The entry of a delivery's target freed as the delivery completes (R338). -/
def freeTarget (s : State) (core op tcore lo : Nat) : State :=
  let c := getCore s tcore
  let locks := c.locks.filterMap fun k =>
    if k.core = core ∧ k.op = op then
      let hulls := k.hulls.filter fun h => !h.dest || h.lo != lo
      if hulls.isEmpty then none else some { k with hulls := hulls }
    else some k
  putCore s tcore { c with locks := locks }

/-- MCAST_DELIVERY (R334): the rows, read once, reach one target, or it is skipped with MCMISS. A target whose save has
begun is waited for, and is then reached in its image (21 R424), once main memory holds no line of it. -/
def mcastDelivery (s : State) (core id j : Nat) : State :=
  match findEngine s core id with
  | none => s
  | some o =>
    match o.kind with
    | .mcast r src off sparse verify _ =>
      let retry := again s (.event .mcastDelivery { place := core, id := id, sub := j })
      if !o.left.contains j then s
      else if !earlierDone s o || markHeld s o || (o.rows.isNone && sourceHeld s o r src sparse verify) then retry
      else
        let got := match o.rows with
          | some rows => (rows, (0 : BitVec 7))
          | none => readRows s o r src sparse verify fun _ _ => true
        let o := { o with rows := some got.1 }
        let len := hullLength r.rows r.dpitch r.rb
        match mcastTarget s o.wg j with
        | none => partDone s core o j (got.2 ||| errMiss) (firstUnwritten got.1) (.group core 0)
        | some k =>
          let w := getWg s k
          if !takesDelivery s (core / 32) k off len then
            partDone s core o j (got.2 ||| errMiss) (firstUnwritten got.1) (.group core 0)
          else
            let dst := if isAway w then Span.image (w.image + 4096 + off) else .group w.core (w.gbase + off)
            let out := rowsOut s o r dst false none got.1
            if (w.saving && !isAway w) || out.any (fun b => engineHeld s b.place) then
              again (putEngine s core { o with errors := (joinErrors o.errors o.frow got.2 (firstUnwritten got.1)).1
                                               frow := (joinErrors o.errors o.frow got.2 (firstUnwritten got.1)).2 })
                (.event .mcastDelivery { place := core, id := id, sub := j })
            else
              let x := writePart s out
              let s := if isAway w then freeTarget x.1 core id w.savedOn (w.savedBase + off)
                else freeTarget x.1 core id w.core (w.gbase + off)
              partDone s core o j (got.2 ||| x.2) (firstUnwritten got.1) (.group core 0)
    | _ => s

/-! ## c.close and c.wait (R339, R340, R342) -/

/-- The batches kept: the 32 most recent, and older ones that are open or hold unreported errors. -/
def pruneBatches (bs : List Batch) : List Batch :=
  let old := bs.length - 32
  (bs.zipIdx.filter fun e => decide (old ≤ e.2) || !e.1.complete || (!e.1.reported && e.1.errors != 0)).map Prod.fst

/-- The number of the next batch. -/
def nextBatch (n : BitVec 16) : BitVec 16 := if n + 1 = 0 then 1 else n + 1

/-- The pending operations of a warp gathered into a batch. -/
def closeOps (s : State) (wg warp : Nat) (n : BitVec 16) : State :=
  { s with cores := s.cores.map fun (c : Nat × Core) =>
      (c.1, { c.2 with engine := c.2.engine.map fun o =>
        if o.wg == wg && o.warp == warp && inBatches o.kind && !o.closed then { o with closed := true, batch := n }
        else o }) }

/-- c.close (R339). -/
def execCClose (g : BitVec 3) (d : BitVec 6) (s : State) : Host.Outcome State Fault Refusal :=
  run s (guarded g (fun s => do
    freeS s d
    let c := cur s
    await (decide ((c.batches.filter fun b => !b.complete).length < 32)) .batch
    let n := nextBatch c.batchNumber
    let open_ := openIn s c.wg c.warpid.toNat false 0
    let b : Batch := { number := n, complete := !open_, errors := c.pendErrors, frow := c.pendFrow }
    let s := setCur (closeOps s c.wg c.warpid.toNat n) { c with
      batchNumber := n, batches := pruneBatches (c.batches ++ [b]), pendErrors := 0, pendFrow := 0 }
    .ok (retire (wrS s d (n.zeroExtend 64)) 1)) s)

/-- The batches up to the one that a number names among the 32 most recent (R340). -/
def batchesUpTo (bs : List Batch) (n : BitVec 16) : Option (List Batch) :=
  let old := bs.length - 32
  let i := (bs.zipIdx.filter fun e => decide (old ≤ e.2) && e.1.number == n).getLast?
  i.map fun e => bs.take (e.2 + 1)

/-- The status of c.wait over the batches that it covers (R340). -/
def batchStatus (bs : List Batch) : Word :=
  let bad := bs.filter fun b => !b.reported && b.errors != 0
  let errors := bad.foldl (fun e b => e ||| b.errors) (0 : BitVec 7)
  match bad with
  | [] => 0
  | b :: _ =>
    BitVec.ofNat 64 (b.number.toNat + errors.toNat * 2 ^ 17 +
      (if errors &&& errVfail = 0 ∨ b.errors &&& errVfail = 0 then 0 else b.frow.toNat % 2 ^ 32) * 2 ^ 32)

/-- The status with BADN alone. -/
def statusBadn : Word := 0x1000000

/-- A completed c.wait: S[d] is written and the batches marked; CPYTRAP with an error bit traps after it (R342). DESIGN
CHOICE (log entry 107): one that diverges in a replay too traps 0x11. -/
def completeCWait (s : State) (d : BitVec 6) (n : Nat) (status : Word) (upTo : Nat) : State :=
  let c := cur s
  let s := setCur s { c with batches := pruneBatches (c.batches.zipIdx.map fun e =>
    if e.2 < upTo then { e.1 with reported := true } else e.1) }
  let s := wrS s d status
  let m : Mark := ⟨6, n, s.focus⟩
  if isCpyTrap c && bf status 23 17 != 0 then
    match meetEvents (recordEvent s m status) [(m, status)] with
    | (t, none) => takeTrap t { cause := 0x18, resume := resumeAfter t 1 }
    | (t, some d) => divergeTrap t 1 d
  else completeRecorded s 1 m status

/-- c.wait (R340). -/
def execCWait (g : BitVec 3) (d a : BitVec 6) (s : State) : Host.Outcome State Fault Refusal :=
  run s (guarded g (fun s => do
    let x ← rdS s a
    freeS s d
    let n := BitVec.ofNat 16 x.toNat
    awaitGate s ⟨6, n.toNat, s.focus⟩
    match batchesUpTo (cur s).batches n with
    | none => .ok (completeCWait s d n.toNat statusBadn 0)
    | some bs =>
      await (bs.all fun b => b.complete) .batch
      .ok (completeCWait s d n.toNat (batchStatus bs) bs.length)) s)

/-- C_WAIT_COMPLETE (R340): a waiting c.wait issues again once its batches are complete. -/
def execCWaitComplete (s : State) : Host.Outcome State Fault Refusal :=
  reissue s s.input.who .batch fun i t =>
    match i with
    | .cWait g d a => execCWait g d a t
    | _ => .next s

/-! ## Steps -/

/-- COPY_PART_COMPLETION (R329). -/
def execCopyPartCompletion (s : State) : Host.Outcome State Fault Refusal :=
  .next (copyPartCompletion s s.input.place s.input.id s.input.sub)

/-- MCAST_DELIVERY (R334). -/
def execMcastDelivery (s : State) : Host.Outcome State Fault Refusal :=
  .next (mcastDelivery s s.input.place s.input.id s.input.sub)

end Sys2Proof.Machine
end

