-- ==== Sys2Proof/Machine/SharedExp.lean ====
section
/-! DEFINITION. Shared-exponent blocks (03 R70 to R76) and x.sepk and x.seunpk (10 R220 to R222). -/

namespace Sys2Proof.Machine

open Sys2Proof

/-! ## Blocks (R70 to R76) -/

/-- The magnitude bits m of a format code: 0 SE1, 1 SE3, 2 SE7. -/
def seMag (f : Nat) : Nat :=
  match f with
  | 0 => 1 | 1 => 3 | _ => 7

/-- The value of a code under an exponent and a micro-exponent bit (R71, R72). -/
def seDecode (m : Nat) (e : Nat) (mu : Nat) (code : Nat) : Num :=
  if e = 0xFF then .nan
  else if code % 2 ^ m = 0 then .fin false 0 0
  else .fin (code / 2 ^ m % 2 == 1) (code % 2 ^ m) ((e : Int) - 127 - ((m : Int) - 1) - mu)

/-- The micro-exponent bit of element i in a scale word (R70). -/
def microBit (scale i : Nat) : Nat := scale / 2 ^ (i / 2) % 2

/-- The element i of a block: its value under the scale word (R71). -/
def seElement (m scale block i : Nat) : Num :=
  seDecode m (scale / 256 % 256) (microBit scale i) (block / 2 ^ ((m + 1) * i) % 2 ^ (m + 1))

/-- A magnitude in units of 2^q, rounded to nearest even, and whether it is inexact. -/
def unitsOf (x : Num) (q : Int) : Nat × Bool :=
  match x with
  | .fin _ m e => roundAt 0 false m e q false
  | _ => (0, false)

/-- Whether a magnitude fits m bits in units of 2^q. -/
def fitsUnits (m : Nat) (x : Num) (q : Int) : Bool := decide ((unitsOf x q).1 < 2 ^ m)

/-- Whether an input is a NaN or an infinity. -/
def notFinite (x : Num) : Bool :=
  match x with
  | .fin _ _ _ => false
  | _ => true

/-- log2 of the step of an exponent (R76 step 2). -/
def seStep (m e : Nat) : Int := (e : Int) - 127 - ((m : Int) - 1)

/-- The smallest exponent from `e` on, with `n` still to try, whose step lets every input fit; 0xFE where none does. -/
def seExponent (m : Nat) (xs : List Num) (e : Nat) : Nat → Nat
  | 0 => 0xFE
  | n + 1 => if xs.all fun x => fitsUnits m x (seStep m e) then e else seExponent m xs (e + 1) n

/-- The code of one element and the flags it adds (R76 steps 4 and 5). -/
def seCode (m : Nat) (q : Int) (x : Num) : Nat × BitVec 6 :=
  let r := unitsOf x q
  let big := decide (2 ^ m ≤ r.1)
  let v := if big then 2 ^ m - 1 else r.1
  ((if x.isNeg && v != 0 then 2 ^ m else 0) + v,
    (if r.2 || big then flagNx else 0) ||| (if v == 0 && !x.isZero then flagUf else 0))

/-- The micro-exponent bits of the pairs (R76 step 3). -/
def seMicro (m : Nat) (q : Int) : List Num → List Nat
  | x :: y :: rest => (if fitsUnits m x (q - 1) && fitsUnits m y (q - 1) then 1 else 0) :: seMicro m q rest
  | _ => []

/-- Numbers below 2^w joined, the first lowest (R73). -/
def joinCodes (w : Nat) (xs : List Nat) : Nat := xs.foldr (fun x acc => x + acc * 2 ^ w) 0

/-- A block of 16 inputs packed (R76): scale word, block bits, flags. DESIGN CHOICE (log entry 109): a block that step 1 packs ends
there, with NV as its one flag. -/
def sePack (m : Nat) (xs : List Num) : Nat × Nat × BitVec 6 :=
  if xs.any notFinite then (0xFF00, 0, flagNv)
  else
    let e := seExponent m xs 0 255
    let q := seStep m e
    let tooBig := xs.any fun x => !fitsUnits m x q
    let mus := seMicro m q xs
    let codes := xs.zipIdx.map fun x => seCode m (q - ((mus[x.2 / 2]?).getD 0 : Nat)) x.1
    (e * 256 + joinCodes 1 mus, joinCodes (m + 1) (codes.map Prod.fst),
      codes.foldl (fun acc c => acc ||| c.2) (if tooBig then flagOf ||| flagNx else 0))

/-! ## x.sepk and x.seunpk (R220 to R222) -/

/-- The fields shared by both forms: m, the codes of a lane, the registers of the wide side. -/
def seCodes (f : Nat) : Nat := 32 / 2 ^ f

/-- The wide side's registers from a first one on, each checked (R220). -/
def wideRun (s : State) (r0 : Nat) (n : Nat) : Res (List Nat) := do
  let _ ← nextReg s r0 (n - 1)
  .ok ((List.range n).map fun k => r0 + k)

/-- For SE7, the lanes of the pairs whose lanes are both active (R222). -/
def pairLanes (act : Mask) (lanes : List Nat) : List Nat :=
  lanes.filter fun l => act.getLsbD (if l % 2 = 0 then l + 1 else l - 1)

/-- The lanes that the form works on, and those of them that hold a scale word. -/
def seLanes (f : Nat) (act : Mask) : List Nat × List Nat :=
  let all := lanesOf act
  if f = 2 then (pairLanes act all, (pairLanes act all).filter fun l => l % 2 == 0) else (all, all)

/-- The inputs of one lane of x.sepk, in element order (R220). -/
def seInputs (c : Ctx) (f : Nat) (t : BitVec 3) (r0 l : Nat) : List Nat :=
  (List.range (seCodes f)).map fun i => sub (laneVal c (r0 + i / subs t) l) t (i % subs t)

/-- The blocks that a scale-holding lane packs: their inputs. -/
def seBlocks (c : Ctx) (f : Nat) (t : BitVec 3) (r0 l : Nat) : List (List Nat) :=
  let xs := seInputs c f t r0 l
  match f with
  | 0 => [xs.take 16, xs.drop 16]
  | 1 => [xs]
  | _ => [xs ++ seInputs c f t r0 (l + 1)]

/-- A word with halfword h replaced. -/
def setHalf (x : Word) (h v : Nat) : Word :=
  BitVec.ofNat 64 (x.toNat - x.toNat / 2 ^ (16 * h) % 2 ^ 16 * 2 ^ (16 * h) + v % 2 ^ 16 * 2 ^ (16 * h))

/-- A halfword. -/
def halfOf (x : Word) (h : Nat) : Nat := x.toNat / 2 ^ (16 * h) % 2 ^ 16

/-- The scale words of a lane merged into halfwords ss and on (R74). -/
def mergeScales (x : Word) (ss : Nat) : List Nat → Word
  | [] => x
  | v :: rest => mergeScales (setHalf x ss v) (ss + 1) rest

/-- What packing leaves: code lanes, scale lanes, flags. -/
structure Packed where
  codes : List (Nat × Word)
  scales : List (Nat × Word)
  flags : BitVec 6
  deriving DecidableEq, Repr

/-- One scale-holding lane packed. -/
def packAt (c : Ctx) (f : Nat) (t : BitVec 3) (r0 rs ss l : Nat) : Packed :=
  let m := seMag f
  let blocks := (seBlocks c f t r0 l).map fun xs => sePack m (xs.map (numOf (fmtOf t)))
  let word := joinCodes (16 * (m + 1)) (blocks.map fun b => b.2.1)
  { codes := (l, BitVec.ofNat 64 word) :: (if f = 2 then [(l + 1, BitVec.ofNat 64 (word / 2 ^ 64))] else [])
    scales := [(l, mergeScales (laneVal c rs l) ss (blocks.map Prod.fst))]
    flags := blocks.foldl (fun acc b => acc ||| b.2.2) 0 }

/-- x.sepk (R221). -/
def execXSepk (g t : BitVec 3) (d a : BitVec 6) (f ss : BitVec 2) (e : BitVec 1) (s : State) :
    Host.Outcome State Fault Refusal :=
  run s (do
    need (decide (t.toNat < 3) && f != 3 && !(f == 0 && ss == 3)) 0x01
    let r0 ← vxA s a
    let wide ← wideRun s r0 (seCodes f.toNat / subs t)
    let rd ← vxD s d
    let rs ← nextReg s rd 1
    let ls := seLanes f.toNat (activeMask s g)
    rdTwo s e wide ls.1 [rs] ls.2
    freeV s [rd] ls.1
    freeV s [rs] ls.2
    let c := cur s
    let ps := ls.2.map (packAt c f.toNat t r0 rs ss.toNat)
    let c := dstLanes c rd (ps.flatMap Packed.codes)
    let c := dstLanes c rs (ps.flatMap Packed.scales)
    .ok (retire (setCur s (ps.foldl (fun c p => orFlags c p.flags) c)) 1))

/-- The decoded elements of one lane of x.seunpk. -/
def seElements (c : Ctx) (f : Nat) (ra rs ss l : Nat) : List Num :=
  let m := seMag f
  let x := (laneVal c ra l).toNat
  match f with
  | 0 =>
    ((List.range 16).map fun i => seElement m (halfOf (laneVal c rs l) ss) (x % 2 ^ 32) i) ++
      (List.range 16).map fun i => seElement m (halfOf (laneVal c rs l) (ss + 1)) (x / 2 ^ 32) i
  | 1 => (List.range 16).map fun i => seElement m (halfOf (laneVal c rs l) ss) x i
  | _ =>
    let head := l - l % 2
    let block := (laneVal c ra head).toNat + (laneVal c ra (head + 1)).toNat * 2 ^ 64
    (List.range 8).map fun i => seElement m (halfOf (laneVal c rs head) ss) block (i + 8 * (l % 2))

/-- Register k of the wide run of one lane, with its flags (R75). -/
def unpackReg (t : BitVec 3) (xs : List Num) (k : Nat) : Word × BitVec 6 :=
  eachSub t fun j => roundNum (fmtOf t) 0 ((xs[k * subs t + j]?).getD .nan)

/-- The wide registers delivered one after the other. -/
def deliverRun (c : Ctx) (r0 : Nat) (outs : List (Nat × List Num)) (t : BitVec 3) : Nat → Ctx
  | 0 => c
  | n + 1 => deliver (deliverRun c r0 outs t n) (r0 + n) (outs.map fun o => (o.1, unpackReg t o.2 n))

/-- x.seunpk (R221). -/
def execXSeunpk (g t : BitVec 3) (d a : BitVec 6) (f ss : BitVec 2) (e : BitVec 1) (s : State) :
    Host.Outcome State Fault Refusal :=
  run s (do
    need (decide (t.toNat < 3) && f != 3 && !(f == 0 && ss == 3)) 0x01
    let ra ← vxA s a
    let rs ← nextReg s ra 1
    let r0 ← vxD s d
    let wide ← wideRun s r0 (seCodes f.toNat / subs t)
    let ls := seLanes f.toNat (activeMask s g)
    rdTwo s e [ra] ls.1 [rs] ls.2
    freeV s wide ls.1
    let c := cur s
    let outs := ls.1.map fun l => (l, seElements c f.toNat ra rs ss.toNat l)
    .ok (retire (setCur s (deliverRun c r0 outs t wide.length)) 1))

end Sys2Proof.Machine
end

