-- ==== Sys2Proof/Machine/Matrix.lean ====
section
/-! DEFINITION. Shapes and the matrix engine (19 R370 to R394): shape registers, operand maps, the bindings of B, the
matrix lease, and mx.mma, mx.mv, mx.acc, mx.drain with their completions. -/

namespace Sys2Proof.Machine

open Sys2Proof

/-! ## Shape registers (R370 to R373) -/

/-- The position of the largest supported value that does not exceed a request, and the tail: a request below the least
value grants that one with the request as tail (R371). -/
def grantOf (supported : List Nat) (q : Nat) : Nat × Nat :=
  let fits := supported.filter fun v => decide (v ≤ q)
  if fits.isEmpty then (0, q) else (fits.length - 1, 0)

/-- The supported values of M on a die, of N, and of K for a format (R371). -/
def supportedM (die : Nat) : List Nat := if Config.threeSlices die then [32, 64, 96] else [32, 64, 96, 128]
def supportedN : List Nat := [32, 64, 96, 128]
def supportedK (fmt : Nat) : List Nat := if fmt = 4 then [16, 32, 64, 128, 256, 512] else [16, 32, 64, 128, 256]

/-- The shape register that shp.set leaves for three requests and a format (R372). -/
def grantWord (die qm qn qk fmt : Nat) : Word :=
  if qm = 0 ∨ qn = 0 ∨ qk = 0 then 0
  else
    let m := grantOf (supportedM die) qm
    let n := grantOf supportedN qn
    let k := grantOf (supportedK fmt) qk
    BitVec.ofNat 64 (2 ^ 63 + fmt * 2 ^ 57 + k.2 * 2 ^ 53 + n.2 * 2 ^ 48 + m.2 * 2 ^ 43 + k.1 * 2 ^ 40 + n.1 * 2 ^ 38 +
      m.1 * 2 ^ 36 + min qk 4095 * 2 ^ 24 + min qn 4095 * 2 ^ 12 + min qm 4095)

/-- A grant: the granted and the active dimensions, and the format (R370). -/
structure Shape where
  gm : Nat
  gn : Nat
  gk : Nat
  am : Nat
  an : Nat
  ak : Nat
  fmt : Nat
  deriving DecidableEq, Repr

/-- A tail where it is nonzero, else the grant. -/
def activeDim (tail grant : Nat) : Nat := if tail = 0 then grant else tail

/-- The fields of a shape register. -/
def shapeOf (w : Word) : Shape :=
  let gm := 32 * (bf w 37 36 + 1)
  let gn := 32 * (bf w 39 38 + 1)
  let gk := 16 * 2 ^ bf w 42 40
  { gm := gm, gn := gn, gk := gk, am := activeDim (bf w 47 43) gm, an := activeDim (bf w 52 48) gn,
    ak := activeDim (bf w 56 53) gk, fmt := bf w 60 57 }

/-- A shape register of the executing warp. -/
def shapeWord (s : State) (h : BitVec 3) : Word := mapGet 0 (cur s).shapes h.toNat

/-- The grant that an instruction names: a revoked register traps 0x0E, one without a grant 0x01 (R373, R374). -/
def namedShape (s : State) (h : BitVec 3) : Res Shape :=
  let w := shapeWord s h
  if bitAt w 62 then .error (.trap 0x0E 0 0) else if bitAt w 63 then .ok (shapeOf w) else .error (.trap 0x01 0 0)

/-- shp.set (R372). -/
def execShpSet (g h : BitVec 3) (d a b : BitVec 6) (s : State) : Host.Outcome State Fault Refusal :=
  run s (guarded g (fun s => do
    let qm ← rdS s d
    let qn ← rdS s a
    let qk ← rdS s b
    let fm := bf qk 63 60
    need (decide (2 ≤ fm) && decide (fm ≤ 8)) 0x01
    let w := grantWord (keyDie s.focus.key) qm.toNat qn.toNat (bf qk 59 0) fm
    let c := cur s
    .ok (retire (setCur s { c with shapes := mapPut 0 c.shapes h.toNat w }) 1)) s)

/-- What shp.get reads of a grant (R373). -/
def shapeField (x : Shape) (sel : Nat) : Nat :=
  match sel with
  | 1 => x.gm
  | 2 => x.gn
  | 3 => x.gk
  | 4 => x.am
  | 5 => x.an
  | _ => x.ak

/-- shp.get (R373). -/
def execShpGet (g h : BitVec 3) (d sel : BitVec 6) (s : State) : Host.Outcome State Fault Refusal :=
  run s (do
    need (decide (sel.toNat ≤ 6)) 0x01
    guarded g (fun s =>
      if sel = 0 then do
        freeS s d
        .ok (retire (wrS s d (shapeWord s h)) 1)
      else do
        let x ← namedShape s h
        freeS s d
        .ok (retire (wrS s d (BitVec.ofNat 64 (shapeField x sel.toNat))) 1)) s)

/-! ## Tiles and maps (R376 to R379) -/

/-- ACCT of the executing warp's workgroup: its number of tiles. -/
def acctOf (s : State) : Nat := (wgOf s s.focus.key).tiles.length

/-- A tile of the workgroup (R376). -/
def needTile (s : State) (acc : Nat) : Res Unit := need (decide (acc < acctOf s)) 0x04

/-- A map of the workgroup, which must hold something (R377). -/
def namedMap (s : State) (om : Nat) : Res OperandMap :=
  if om < 2 * acctOf s then
    let m := mapGet ({} : OperandMap) (wgOf s s.focus.key).maps om
    if m.valid then .ok m else .error (.trap 0x0B 0 0)
  else .error (.trap 0x04 0 0)

/-- Element bits of a format (R378). -/
def elementBits (fmt : Nat) : Nat :=
  match fmt with
  | 4 => 2
  | 5 | 7 => 4
  | 6 | 8 => 8
  | 2 | 3 => 16
  | _ => 32

/-- Whether a format has scale words. -/
def isSe (fmt : Nat) : Bool := fmt == 4 || fmt == 5 || fmt == 6

/-- Magnitude bits of a shared-exponent format. -/
def seMagnitude (fmt : Nat) : Nat := seMag (fmt - 4)

/-- Bytes that hold k elements. -/
def elementBytes (fmt k : Nat) : Nat := (k * elementBits fmt + 7) / 8

/-- A number of K-blocks that holds k elements. -/
def kBlocks (k : Nat) : Nat := (k + 15) / 16

/-- The record rules of R378, but for the window. -/
def matrixRecord (r : Record) : Bool :=
  r.legal && r.spitch % 8 == 0 && swizzleLegal r && decide (1 ≤ r.fmt) &&
    (!isSe r.fmt || (r.scale % 2 == 0 && r.dpitch % 2 == 0))

/-- Whether an address lies in the group-store window. -/
def inWindow (va : Nat) : Bool := regionOf va == .group

/-- The map that mx.map leaves (R378). -/
def mapOf (r : Record) (k0 w0 : Nat) : OperandMap :=
  let o := k0 * elementBits r.fmt / 8
  { valid := true, elements := r.base + w0 * r.spitch + o, scales := r.scale + w0 * r.dpitch + 2 * (k0 / 16),
    pitch := r.spitch, scalePitch := r.dpitch, rows := r.rows - w0, rowBytes := r.rb - o, fmt := r.fmt, swz := r.swz,
    firstRow := w0 }

/-- mx.map (R378). -/
def execMxMap (m : BitVec 4) (r k w : BitVec 6) (s : State) : Host.Outcome State Fault Refusal :=
  run s (do
    need (decide (m.toNat < 2 * acctOf s)) 0x04
    let at_ ← rdS s r
    let k0 ← rdS s k
    let w0 ← rdS s w
    let (x, s) ← fetchRecord s at_
    if !(matrixRecord x && inWindow x.base && (!isSe x.fmt || inWindow x.scale)) then .error (.trap 0x01 at_ 0)
    else do
      need (k0.toNat % 16 == 0 && decide (k0.toNat * elementBits x.fmt / 8 < x.rb) && decide (w0.toNat < x.rows)) 0x01
      let j := (cur s).wg
      let g := getWg s j
      .ok (retire (putWg s j { g with maps := mapPut {} g.maps m.toNat (mapOf x k0.toNat w0.toNat) }) 1))

/-- The swizzle of a map's row (R379). -/
def mapSwizzle (m : OperandMap) (x : Nat) : Nat := (m.firstRow + x) % 2 ^ m.swz * 16

/-- An operation that reaches `rows` rows of `bytes` bytes of a map stays within it (R379). -/
def checkReach (m : OperandMap) (rows bytes : Nat) : Res Unit :=
  let far := (if m.rows < rows then [m.elements + m.rows * m.pitch] else []) ++
    (if m.rowBytes < bytes then [m.elements + m.rowBytes] else [])
  match far with
  | [] => .ok ()
  | a :: rest => .error (.trap 0x0C (BitVec.ofNat 64 (rest.foldl min a)) 0)

/-- The first `len` bytes of a row at their swizzled places. -/
def swizzledRow (start len swz : Nat) : List Piece :=
  if swz = 0 then [(start, len)]
  else (List.range ((len + 15) / 16)).map fun i => (start + Nat.xor (16 * i) swz, min 16 (len - 16 * i))

/-- The bytes of a map that an operation reads: elements, then scale words. -/
def mapPieces (m : OperandMap) (rows bytes : Nat) : List Piece :=
  (List.range rows).flatMap fun x => swizzledRow (m.elements + x * m.pitch) bytes (mapSwizzle m x)

/-- The checks of R236 on a range that is read or written. -/
def checkRange (s : State) (write : Bool) (ps : List Piece) : Res Unit :=
  engineChecked s (requester s s.focus.key) write ps

/-- The checks on a map's elements and scale words for `rows` rows and `k` elements. -/
def checkMap (s : State) (m : OperandMap) (rows k : Nat) : Res Unit := do
  checkReach m rows (elementBytes m.fmt k)
  checkRange s false (mapPieces m rows (elementBytes m.fmt k))
  if isSe m.fmt then checkRange s false (rowPieces m.scales m.scalePitch (2 * kBlocks k) rows) else .ok ()

/-- The hulls of a map's elements and scale words (mx.mma). -/
def mapHulls (s : State) (m : OperandMap) (rows k : Nat) : List Hull :=
  let key := s.focus.key
  let asid := (cur s).asid
  hullOf (spanAt s key m.elements) asid (hullLength rows m.pitch m.rowBytes) false ::
    (if isSe m.fmt then
      [hullOf (spanAt s key m.scales) asid (hullLength rows m.scalePitch (2 * (k / 16))) false]
     else [])

/-! ## The lease (R383, R384, R86) -/

/-- Whether a strand of a workgroup is inside a clause begun under LEASE (R86); one that sysret has returned into the middle
of such a clause is inside it again (log entry 75). -/
def inLeaseClause (s : State) (k : Nat) : Bool :=
  (getWg s k).warps.any fun key => (getCtx s key).strands.any fun e =>
    e.2.valid && e.2.begun && (standingHeader s ⟨key, e.1⟩).any fun h => h.lease

/-- Whether a core's lease is to pass: its holder has given it up, or its count has run out and a workgroup waits (R383). -/
def passWanted (c : Core) : Bool := c.leaseGiven || (c.leaseCount == 0 && !c.leaseWaiters.isEmpty)

/-- A lease that is to pass does so unless a strand of the holder is inside a LEASE clause, and a free one is granted when a
workgroup waits (R383, R86). -/
def settleLease (s : State) (core : Nat) : State :=
  let c := getCore s core
  match c.leaseHolder with
  | none => if c.leaseWaiters.isEmpty then s else passLease s core
  | some h => if passWanted c && !inLeaseClause s h then passLease s core else s

/-- A pass that a LEASE clause delays is tried again. -/
def leaseDue (s : State) (core : Nat) : State :=
  if passWanted (getCore s core) then later s (.event .leasePass { place := core }) else s

/-- Whether the executing warp's workgroup holds its core's lease. -/
def holdsLease (s : State) : Bool := (getCore s (keyCore s.focus.key)).leaseHolder == some (cur s).wg

/-- The executing warp's workgroup asks for the lease: it becomes the holder of a free one, else a waiter (R383). -/
def askLease (s : State) : State :=
  let core := keyCore s.focus.key
  let s := settleLease (dropStale s core) core
  let c := getCore s core
  let k := (cur s).wg
  match c.leaseHolder with
  | none => putCore s core { c with leaseHolder := some k, leaseCount := (cur s).mxlease.toNat }
  | some h =>
    if h = k ∨ c.leaseWaiters.any (fun e => e.1 == k) then s
    else
      leaseDue (settleLease (putCore s core { c with leaseWaiters := c.leaseWaiters ++ [(k, (cur s).mxlease)] }) core)
        core

/-- An operation of the holder spends one (R383). -/
def useLease (s : State) : State :=
  let core := keyCore s.focus.key
  let c := getCore s core
  leaseDue (settleLease (dropStale (putCore s core { c with leaseCount := c.leaseCount - 1 }) core) core) core

/-- An instruction that needs the lease: the checks that come before any operand's (04 R106), and once its workgroup holds
the lease, its issue with the checks of R385. -/
def underLease (s : State) (first : Res Unit) (issue : State → Res State) : Host.Outcome State Fault Refusal :=
  match first with
  | .error e => run s (.error e)
  | .ok _ =>
    let t := askLease s
    if holdsLease t then run t (issue t) else .next (hold t .lease)

/-- mx.lease.acq (R384). -/
def execMxLeaseAcq (s : State) : Host.Outcome State Fault Refusal :=
  underLease s (.ok ()) fun t => .ok (retire t 1)

/-- The executing warp's workgroup gives the lease up: it passes, or becomes free, once no strand of the workgroup is inside a
clause begun under LEASE (R86, R383); until then the workgroup holds it (log entry 74). -/
def releaseLease (s : State) : State :=
  let core := keyCore s.focus.key
  let s := dropStale s core
  leaseDue (settleLease (putCore s core { getCore s core with leaseGiven := true }) core) core

/-- mx.lease.rel (R384). -/
def execMxLeaseRel (s : State) : Host.Outcome State Fault Refusal :=
  .next (if holdsLease s then releaseLease (retire s 1) else retire s 1)

/-- mx.lease.bind (R380). -/
def execMxLeaseBind (q : BitVec 2) (b sc : BitVec 6) (s : State) : Host.Outcome State Fault Refusal :=
  run s (do
    let rb ← vxAt s b.toNat 0
    let rs ← vxAt s sc.toNat 0
    let c := cur s
    let w := getWg s c.wg
    let x : Binding := { valid := true, warp := c.warpid.toNat, base := BitVec.ofNat 8 rb, scale := BitVec.ofNat 8 rs }
    .ok (retire (putWg s c.wg { w with binds := mapPut {} w.binds q.toNat x }) 1))

/-- LEASE_GRANT (R383): a waiting workgroup becomes the holder of a free lease. -/
def execLeaseGrant (s : State) : Host.Outcome State Fault Refusal :=
  let s := dropStale s s.input.place
  let c := getCore s s.input.place
  .next (if c.leaseHolder.isNone && !c.leaseWaiters.isEmpty then passLease s s.input.place else s)

/-- LEASE_PASS (R383): a lease that is given up passes or becomes free, and an exhausted one passes to the next waiter, once no
strand of the holder is in a LEASE clause (R86). -/
def execLeasePass (s : State) : Host.Outcome State Fault Refusal :=
  let s := dropStale s s.input.place
  let c := getCore s s.input.place
  match c.leaseHolder with
  | none => .next s
  | some h =>
    if !passWanted c then .next s
    else if inLeaseClause s h then .next (again s (.event .leasePass { place := s.input.place }))
    else .next (passLease s s.input.place)

/-! ## Issuing matrix operations (R385) -/

/-- Whether an operation is the matrix engine's. -/
def isMatrix (k : EngineKind) : Bool :=
  match k with
  | .matrix _ => true
  | .copy _ _ _ _ _ _ _ | .mcast _ _ _ _ _ _ | .band _ _ => false

/-- The tile that a matrix operation acts on. -/
def matrixTile (m : MatOp) : Nat :=
  match m with
  | .mma acc _ _ _ _ _ _ _ _ _ _ _ => acc
  | .mv acc _ _ _ _ _ _ _ _ => acc
  | .drain acc _ _ _ _ _ _ _ _ => acc
  | .accZero acc _ _ _ => acc
  | .accLoad acc _ _ _ _ _ => acc
  | .accGet acc _ _ _ _ _ => acc

/-- Whether no earlier operation on a tile of the executing workgroup is open. -/
def tileQuiet (s : State) (acc : Nat) : Bool :=
  (getCore s (keyCore s.focus.key)).engine.all fun o =>
    match o.kind with
    | .matrix m => o.wg != (cur s).wg || matrixTile m != acc
    | _ => true

/-- A matrix operation issued: its entry, its count against the lease, and the step that completes it. -/
def issueMatrix (s : State) (m : MatOp) (hs : List Hull) (counted : Bool) (waits : List Nat) (parts : List Nat)
    (e : Instr) (lead : Bool := false) : Res State := do
  let core := keyCore s.focus.key
  let k := getCore s core
  await (lockRoom k 1 && !locksClash k hs) .table
  let id := nextEngineId s
  let s := issueEngine s { kind := .matrix m, waits := waits, parts := parts, lead := lead } hs counted
  let s := if hs.isEmpty then takeLock s core { core := core, op := id, hulls := [] } else s
  let s := useLease s
  .ok (retire { s with due := s.due ++ [.event e { place := core, id := id }] } 1)

/-! ## B in the partners' registers (R380 to R382) -/

/-- The warp of a workgroup with a WARPID. -/
def warpKey (s : State) (w : Workgroup) (id : Nat) : Option Nat :=
  listFind (fun k => (getCtx s k).live && (getCtx s k).warpid.toNat == id) w.warps

/-- The holders of the four quarters, as (warp key, B base, scale base); none where a quarter is unbound or two are held
on one quad (R380). -/
def quartersOf (s : State) : Option (List (Nat × Nat × Nat)) :=
  let w := wgOf s s.focus.key
  let qs := (List.range 4).filterMap fun q =>
    let b := mapGet ({} : Binding) w.binds q
    if b.valid then (warpKey s w b.warp).map fun k => (k, b.base.toNat, b.scale.toNat) else none
  let quads := qs.map fun e => keyQuad e.1
  if qs.length = 4 ∧ quads.eraseDups.length = 4 then some qs else none

/-- Registers that B of kb blocks takes (R381). -/
def bRegisters (fmt kb : Nat) : Nat :=
  match fmt with
  | 4 => (kb + 1) / 2
  | 5 | 7 => kb
  | 6 | 8 => 2 * kb
  | _ => 4 * kb

/-- Where element i of block b of column j stands: its lane, its register from β, and its first bit (R381). -/
def bPlace (fmt kb j b i : Nat) : Nat × Nat × Nat :=
  match fmt with
  | 4 => (j, b / 2, 32 * (b % 2) + 2 * i)
  | 5 | 7 => (j, b, 4 * i)
  | 6 | 8 => (2 * (j % 16) + i / 8, b + (if 16 ≤ j then kb else 0), 8 * (i % 8))
  | _ => (j, 4 * b + i / 4, 16 * (i % 4))

/-- Where the scale word of block b of column j stands: its lane, its register from the scale base, its halfword. -/
def scalePlace (fmt kb ss j b : Nat) : Nat × Nat × Nat :=
  let σ := if fmt = 6 ∧ 16 ≤ j then kb + b else b
  (if fmt = 6 then 2 * (j % 16) else j, (ss + σ) / 4, (ss + σ) % 4)

/-- The registers of the scale words that are named (R382). -/
def scaleRegisters (fmt kb nq ss : Nat) : Nat :=
  if isSe fmt then (ss + (if fmt = 6 ∧ 16 < nq then 2 * kb else kb) - 1) / 4 + 1 else 0

/-- The cells, as (warp key, register, lane), that an mx.mma reads of its partners. -/
def bCells (fmt ss bo gn gk an ak : Nat) (quarters : List (Nat × Nat × Nat)) : List (Nat × Nat × Nat) :=
  let nq := gn / 4
  let kb := gk / 16
  (List.range an).flatMap fun c =>
    let q := quarters.getD (c / nq) (0, 0, 0)
    let j := c % nq
    ((List.range ak).map fun k =>
      let p := bPlace fmt kb j (k / 16) (k % 16)
      (q.1, q.2.1 + bo + p.2.1, p.1)) ++
    (if isSe fmt then
      (List.range (kBlocks ak)).map fun b =>
        let p := scalePlace fmt kb ss j b
        (q.1, q.2.2 + p.2.1, p.1)
     else [])

/-- The cells of an mx.mma's operands, without repeats. -/
def mmaCells (m : MatOp) : List (Nat × Nat × Nat) :=
  match m with
  | .mma _ _ fmt ss _ _ gn gk _ an ak qs => (bCells fmt ss 0 gn gk an ak qs).eraseDups
  | _ => []

/-- Whether every partner lane that the engine reads is full (R382). -/
def cellsFull (s : State) (cells : List (Nat × Nat × Nat)) : Bool :=
  cells.all fun e => (getV (getCtx s e.1) e.2.1 e.2.2).fill == .full

/-- Every register named lies within its partner's allotment (R382). -/
def checkPartners (s : State) (fmt ss bo gn gk : Nat) (quarters : List (Nat × Nat × Nat)) : Res Unit :=
  need (quarters.all fun q =>
    decide (q.2.1 + bo + bRegisters fmt (gk / 16) ≤ (getCtx s q.1).allot) &&
      decide (q.2.2 + scaleRegisters fmt (gk / 16) (gn / 4) ss ≤ (getCtx s q.1).allot)) 0x04

/-! ## Values (R71, R77 to R80) -/

/-- An element: its bits, the scale word of its block, and whether poison feeds it. -/
structure Element where
  code : Nat := 0
  scale : Nat := 0
  bad : Bool := false
  deriving DecidableEq, Repr

/-- The value of element i of a block in a float format. -/
def elementNum (fmt i : Nat) (e : Element) : Num :=
  match fmt with
  | 2 => numOf binary16 e.code
  | 3 => numOf bfloat16 e.code
  | _ => seDecode (seMagnitude fmt) (e.scale / 256 % 256) (microBit e.scale i) e.code

/-- The flags of a signalling input (R57). -/
def elementFlags (fmt : Nat) (e : Element) : BitVec 6 :=
  match fmt with
  | 2 => snanFlag binary16 [e.code]
  | 3 => snanFlag bfloat16 [e.code]
  | _ => 0

/-- The value of an integer element. -/
def elementInt (fmt : Nat) (e : Element) : Int := toSigned e.code (elementBits fmt)

/-- One block added to a float accumulator (R79, R80). -/
def stepFloat (fa fb : Nat) (acc : Nat × BitVec 6) (xs : List (Nat × Element × Element)) : Nat × BitVec 6 :=
  let ps := xs.map fun x =>
    withNum (Num.mul (elementNum fa (x.1 % 16) x.2.1) (elementNum fb (x.1 % 16) x.2.2))
      (elementFlags fa x.2.1 ||| elementFlags fb x.2.2)
  let sum := Num.sum (ps.map Prod.fst)
  let total := Num.add (numOf binary32 acc.1) sum.1
  let flags := ps.foldl (fun f p => f ||| p.2) (acc.2 ||| sum.2 ||| total.2 ||| snanFlag binary32 [acc.1])
  withFlags (roundNum binary32 0 total.1) flags
where
  withNum (r : Num × BitVec 6) (g : BitVec 6) : Num × BitVec 6 := (r.1, r.2 ||| g)

/-- One block added to an integer accumulator, saturating (R78, R79). -/
def stepInt (fmt : Nat) (acc : Nat × BitVec 6) (xs : List (Nat × Element × Element)) : Nat × BitVec 6 :=
  let sum := xs.foldl (fun t x => t + elementInt fmt x.2.1 * elementInt fmt x.2.2) (0 : Int)
  withFlags (satInt 32 true (toSigned acc.1 32 + sum)) acc.2

/-- A row of A and a column of B multiplied into an accumulator in K-blocks of 16, ascending (R79, R386). -/
def dotBlocks (fa fb : Nat) (acc : Nat) (a b : List Element) (kb : Nat) : Nat × BitVec 6 :=
  (List.range kb).foldl
    (fun acc i =>
      let xs := (((a.zip b).zipIdx.map fun e => (e.2, e.1.1, e.1.2)).drop (16 * i)).take 16
      if fa = 7 ∨ fa = 8 then stepInt fa acc xs else stepFloat fa fb acc xs)
    (acc, 0)

/-! ## Reading operands -/

/-- The group-store home of a window address of an operation's workgroup. -/
def windowPlace (s : State) (k va : Nat) : Nat :=
  let w := getWg s k
  groupPlace w.core (w.gbase + (va - groupBase))

/-- Row x of a map, its first k elements (R379). -/
def mapRow (s : State) (wg : Nat) (m : OperandMap) (x k : Nat) : List Element :=
  let e := elementBits m.fmt
  let n := max 1 (e / 8)
  (List.range k).map fun i =>
    let o := i * e / 8
    let p := windowPlace s wg (m.elements + x * m.pitch + Nat.xor o (mapSwizzle m x))
    let sp := windowPlace s wg (m.scales + x * m.scalePitch + 2 * (i / 16))
    { code := readNat s p n / 2 ^ (i * e % 8) % 2 ^ e,
      scale := if isSe m.fmt then readNat s sp 2 else 0,
      bad := poisonedRun s p n || (isSe m.fmt && poisonedRun s sp 2) }

/-- Column c of B, its first k elements (R381). -/
def bColumn (s : State) (fmt ss gn gk c k : Nat) (quarters : List (Nat × Nat × Nat)) : List Element :=
  let nq := gn / 4
  let kb := gk / 16
  let q := quarters.getD (c / nq) (0, 0, 0)
  let t := getCtx s q.1
  (List.range k).map fun i =>
    let p := bPlace fmt kb (c % nq) (i / 16) (i % 16)
    let z := scalePlace fmt kb ss (c % nq) (i / 16)
    let r := getV t (q.2.1 + p.2.1) p.1
    let y := getV t (q.2.2 + z.2.1) z.1
    { code := r.val.toNat / 2 ^ p.2.2 % 2 ^ elementBits fmt,
      scale := if isSe fmt then y.val.toNat / 2 ^ (16 * z.2.2) % 2 ^ 16 else 0,
      bad := r.poison || (isSe fmt && y.poison) }

/-- `n` bytes of a span as an engine reads them: their number, and whether some byte is poisoned, failed or has no
place. -/
def spanNat (s : State) (o : EngineOp) (sp : Span) (off n : Nat) : Nat × Bool :=
  let rs := (List.range n).map fun i => readEngine s (enginePlace s (engineRequester o) false sp (off + i))
  (ofBytes (rs.map fun r => r.1.1), rs.any fun r => r.1.2 != 0)

/-- Row n of the weights of an mx.mv, its first k elements (R387). -/
def weightRow (s : State) (o : EngineOp) (r : Record) (src scales : Span) (fmt n k : Nat) : List Element :=
  let e := elementBits fmt
  (List.range k).map fun i =>
    let b := spanNat s o src (n * r.spitch + i * e / 8) 1
    let z := spanNat s o scales (n * r.dpitch + 2 * (i / 16)) 2
    { code := b.1 / 2 ^ (i * e % 8) % 2 ^ e, scale := z.1, bad := b.2 || z.2 }

/-- The places of the weights and their scale words that an mx.mv reads. -/
def weightPlaces (s : State) (o : EngineOp) (r : Record) (src scales : Span) (fmt an ak : Nat) : List EnginePlace :=
  (List.range an).flatMap fun n =>
    ((List.range (elementBytes fmt ak)).map fun i => enginePlace s (engineRequester o) false src (n * r.spitch + i)) ++
      ((List.range (2 * kBlocks ak)).map fun i => enginePlace s (engineRequester o) false scales (n * r.dpitch + i))

/-! ## Tiles (R376, R392) -/

/-- The number of an element in a core's accumulator store: tile `acc` of a workgroup. -/
def tileKey (w : Workgroup) (acc r c : Nat) : Nat := w.tiles.getD acc 0 * 16384 + r * 128 + c

/-- An element's bits. -/
def getTile (c : Core) (k : Nat) : BitVec 32 := mapGet 0 c.tiles k

/-- An element written, with its poison. -/
def putTile (c : Core) (k : Nat) (x : Nat) (bad : Bool) : Core :=
  { c with tiles := mapPut 0 c.tiles k (BitVec.ofNat 32 x), tilePoison := mapPut false c.tilePoison k bad }

/-- Whether an element is poisoned. -/
def tileBad (c : Core) (k : Nat) : Bool := mapGet false c.tilePoison k

/-- The rows of a tile that an operation updates: those of active lanes, within the active M (R376). -/
def updatedRows (lanes : Mask) (w am : Nat) : List Nat := (List.range am).filter fun r => lanes.getLsbD (r % w)

/-- The updated elements: rows and columns. -/
def cellsOf (rows : List Nat) (an : Nat) : List (Nat × Nat) := rows.flatMap fun r => (List.range an).map fun c => (r, c)

/-- Elements written one after the other, as ((row, column), bits, poison). -/
def putTiles (c : Core) (w : Workgroup) (acc : Nat) : List ((Nat × Nat) × Nat × Bool) → Core
  | [] => c
  | (rc, x, bad) :: rest => putTiles (putTile c (tileKey w acc rc.1 rc.2) x bad) w acc rest

/-- Rows of A and columns of B multiplied into a tile (R386, R387), with the flags; a poisoned element stays so, also where
it starts from zero (R392). -/
def multiply (s : State) (wg acc fa fb : Nat) (zero : Bool) (kb : Nat) (rows : List (Nat × List Element))
    (cols : List (List Element)) : State × BitVec 6 :=
  let w := getWg s wg
  let c := getCore s w.core
  let outs := rows.flatMap fun r => cols.zipIdx.map fun b =>
    let k := tileKey w acc r.1 b.2
    let x := dotBlocks fa fb (if zero then 0 else (getTile c k).toNat) r.2 b.1 kb
    (((r.1, b.2), x.1, tileBad c k || r.2.any (fun e => e.bad) || b.1.any fun e => e.bad), x.2)
  (putCore s w.core (putTiles c w acc (outs.map Prod.fst)), outs.foldl (fun f o => f ||| o.2) 0)

/-! ## mx.mma (R386) -/

/-- The format of an fmt field of mx.mma: 0 to 6 name FMT 4 to 8, 2 and 3. -/
def mmaFormat (f : BitVec 3) : Nat := if f.toNat < 5 then f.toNat + 4 else f.toNat - 3

/-- mx.mma. -/
def execMxMma (g h c : BitVec 3) (m : BitVec 4) (f : BitVec 3) (ss : BitVec 2) (b : BitVec 6) (z : BitVec 1)
    (s : State) : Host.Outcome State Fault Refusal :=
  let x := curStrand s
  let acc := c.toNat + x.overD
  let om := m.toNat + x.overA
  let bo := b.toNat + x.overB
  let fmt := mmaFormat f
  underLease s
    (do
      need (f != 7) 0x01
      need (if isSe fmt then fmt != 4 || ss != 3 else ss == 0) 0x01)
    fun s => do
      let y ← namedShape s h
      need (y.fmt == fmt) 0x01
      needTile s acc
      let map ← namedMap s om
      need (map.fmt == fmt) 0x01
      match quartersOf s with
      | none => .error (.trap 0x0B 0 0)
      | some qs => do
        checkPartners s fmt ss.toNat bo y.gn y.gk qs
        checkMap s map y.am y.ak
        let op : MatOp := .mma acc map fmt ss.toNat (z == 1) (activeMask s g) y.gn y.gk y.am y.an y.ak
          (qs.map fun q => (q.1, q.2.1 + bo, q.2.2))
        let waits := ((mmaCells op).map fun e => e.1 * 256 + e.2.1).eraseDups
        let w := getWg s (cur s).wg
        let lead := w.band.isOpen && mapGet 0 w.band.counts cntNmma == 0
        let s ← issueMatrix s op (mapHulls s map y.gm y.gk) true waits [] .matrixOperationCompletion lead
        .ok (countBand s (cur s).wg cntNmma)

/-! ## mx.mv (R387) -/

/-- mx.mv. -/
def execMxMv (n h c : BitVec 3) (m : BitVec 4) (r o : BitVec 6) (s : State) : Host.Outcome State Fault Refusal :=
  let nv := n.toNat + 1
  let acc := c.toNat
  underLease s (.ok ()) fun s => do
    let y ← namedShape s h
    let at_ ← rdS s r
    let off ← rdS s o
    let got := fetchRecord s at_
    match got with
    | .error _ => .ok ()
    | .ok (x, _) =>
      if matrixRecord x && isSe x.fmt && x.fmt == y.fmt && x.swz == 0 then need (bf off 31 0 % 16 == 0) 0x01
      else .error (.trap 0x01 at_ 0)
    needTile s acc
    let map ← namedMap s m.toNat
    need (map.fmt == 2 || map.fmt == 3) 0x01
    let (x, s) ← got
    let n0 := bf off 63 32
    let k0 := bf off 31 0
    let w0 := x.base + n0 * x.spitch + k0 * elementBits x.fmt / 8
    let g0 := x.scale + n0 * x.dpitch + 2 * (k0 / 16)
    checkMap s map nv y.ak
    checkRange s false (rowPieces w0 x.spitch (elementBytes x.fmt y.ak) y.an)
    checkRange s false (rowPieces g0 x.dpitch (2 * kBlocks y.ak) y.an)
    let key := s.focus.key
    let asid := (cur s).asid
    let src := spanAt s key w0
    let scales := spanAt s key g0
    let op : MatOp := .mv acc map nv x src scales x.fmt y.an y.ak
    let hs := (mapHulls s map nv y.gk).take 1 ++
      [hullOf src asid (hullLength y.gn x.spitch (y.gk * elementBits x.fmt / 8)) false,
       hullOf scales asid (hullLength y.gn x.dpitch (2 * (y.gk / 16))) false]
    issueMatrix s op hs false [] [] .matrixOperationCompletion

/-! ## mx.acc (R388) -/

/-- mx.acc.zero. -/
def execMxAccZero (g h c : BitVec 3) (s : State) : Host.Outcome State Fault Refusal :=
  underLease s (.ok ()) fun s => do
    let y ← namedShape s h
    needTile s c.toNat
    issueMatrix s (.accZero c.toNat (activeMask s g) y.am y.an) [] false [] [] .matrixOperationCompletion

/-- mx.acc.load. -/
def execMxAccLoad (g h c : BitVec 3) (m : BitVec 4) (s : State) : Host.Outcome State Fault Refusal :=
  underLease s (.ok ()) fun s => do
    let y ← namedShape s h
    needTile s c.toNat
    let map ← namedMap s m.toNat
    need (map.fmt == 1) 0x01
    checkMap s map y.am y.an
    issueMatrix s (.accLoad c.toNat map (spanAt s s.focus.key map.elements) (activeMask s g) y.am y.an) [] false [] []
      .matrixOperationCompletion

/-- The register and lane that mx.acc.get fills for an element (R388). -/
def resultCell (dst w gn r c : Nat) : Nat × Nat := (dst + r / w * (gn / 2) + c / 2, r % w)

/-- The lanes that mx.acc.get fills. -/
def resultCells (dst w gn an : Nat) (rows : List Nat) : List (Nat × Nat) :=
  rows.flatMap fun r => (List.range ((an + 1) / 2)).map fun i => resultCell dst w gn r (2 * i)

/-- Whether an element that an operation would read is poisoned. -/
def tilePoisoned (s : State) (wg acc : Nat) (rows : List Nat) (an : Nat) : Bool :=
  let w := getWg s wg
  let c := getCore s w.core
  rows.any fun r => (List.range an).any fun j => tileBad c (tileKey w acc r j)

/-- mx.acc.get. The bound of its first register comes before the lease and the shape (04 R106). -/
def execMxAccGet (g h c : BitVec 3) (d : BitVec 6) (s : State) : Host.Outcome State Fault Refusal :=
  underLease s (do let _ ← vxAt s d.toNat 0) fun s => do
    let y ← namedShape s h
    needTile s c.toNat
    let rd ← vxAt s d.toNat 0
    let w := laneCount (cur s)
    need (decide (rd + (y.gm + w - 1) / w * (y.gn / 2) ≤ (cur s).allot)) 0x04
    let lanes := activeMask s g
    let rows := updatedRows lanes w y.am
    await (tileQuiet s c.toNat) .table
    need (!tilePoisoned s (cur s).wg c.toNat rows y.an) 0x14
    let cells := resultCells rd w y.gn y.an rows
    let t := cur s
    await (cells.all fun e =>
      (getV t e.1 e.2).fill != .pending && !heldRegister s s.focus.key e.1) .fullEmpty
    let s := setCur s (cells.foldl (fun t e => pendLanes t e.1 [e.2]) t)
    issueMatrix s (.accGet c.toNat rd lanes y.gn y.am y.an) [] false [] [] .matrixOperationCompletion

/-! ## mx.drain (R389 to R391) -/

/-- The bytes of an element that a drain writes in a format. -/
def drainWidth (fmt : Nat) : Nat := if fmt = 2 ∨ fmt = 3 then 2 else 4

/-- mx.drain. -/
def execMxDrain (h c : BitVec 3) (d r : BitVec 6) (a p : BitVec 1) (q : BitVec 3) (s : State) :
    Host.Outcome State Fault Refusal :=
  underLease s (need (p == 1 || q == 0) 0x01) fun s => do
    let y ← namedShape s h
    let d0 ← rdS s d
    let at_ ← rdS s r
    let got := fetchRecord s at_
    let ints := y.fmt == 7 || y.fmt == 8
    match got with
    | .error _ => .ok ()
    | .ok (x, _) =>
      if copyLegal x && decide (x.fmt ≤ 3) && decide (y.gm ≤ x.rows) && decide (y.gn * drainWidth x.fmt ≤ x.rb) then
        need (x.fmt != 0 || a == 0 || ints) 0x01
      else .error (.trap 0x01 at_ 0)
    needTile s c.toNat
    need (p == 0 || (ringOf s q.toNat).isSome) 0x16
    let (x, s) ← got
    let rows := (List.range y.am).flatMap fun i =>
      swizzledRow (d0.toNat + i * x.dpitch) (y.an * drainWidth x.fmt) (i % 2 ^ x.swz * 16)
    if a = 1 then checkRange s false rows else .ok ()
    checkRange s true rows
    let dst := spanAt s s.focus.key d0.toNat
    let k := (cur s).wg
    let n := openBand (getWg s k)
    await (tileQuiet s c.toNat) .table
    need (!tilePoisoned s k c.toNat (List.range y.am) y.an) 0x14
    let parts := partStarts s (requester s s.focus.key)
      (rowPieces d0.toNat x.dpitch (y.an * drainWidth x.fmt) y.am)
    let s ← issueMatrix s (.drain c.toNat x dst (a == 1) (p == 1) q.toNat y.am y.an y.fmt)
      [hullOf dst (cur s).asid (hullLength x.rows x.dpitch x.rb) true] true [] parts .drainCompletion
    let s := stampBand (countBand s k cntNdr) k n stDrs true
    .ok (if inGroup dst then s else countBand s k cntNco)

/-- What a drain writes for an element of 32 bits over the old bits of its place, with flags (R389). -/
def drainValue (fmt shapeFmt : Nat) (add : Bool) (v old : Nat) : Nat × BitVec 6 :=
  let ints := shapeFmt == 7 || shapeFmt == 8
  let num := if ints then Num.ofInt (toSigned v 32) else numOf binary32 v
  let nv := if ints then 0 else snanFlag binary32 [v]
  match fmt with
  | 0 => if add then satInt 32 true (toSigned old 32 + toSigned v 32) else (v, 0)
  | _ =>
    let f := if fmt = 1 then binary32 else if fmt = 2 then binary16 else bfloat16
    if add then
      let t := Num.add (numOf f old) num
      withFlags (roundNum f 0 t.1) (t.2 ||| nv ||| snanFlag f [old])
    else withFlags (roundNum f 0 num) nv

/-- One element of a drain as it is written: its bytes, each with the part of the destination that it lies in, the parts that it
finds without a place, its flags and the errors it met. -/
structure Drained where
  out : List (Nat × OutByte)
  lost : List Nat
  flags : BitVec 6
  errors : BitVec 7
  deriving DecidableEq, Repr

/-- Element (r, c) of a drain; an add whose old bytes are in part poisoned or in a failed line is written poisoned (R391, 17
R341), but for its bytes in that line, which stays failed (R392). -/
def drainElement (s : State) (o : EngineOp) (acc : Nat) (x : Record) (dst : Span) (add : Bool) (fmt r c : Nat) :
    Drained :=
  let w := getWg s o.wg
  let n := drainWidth x.fmt
  let off := r * x.dpitch + Nat.xor (c * n) (r % 2 ^ x.swz * 16)
  let places := (List.range n).map fun i => enginePlace s (engineRequester o) true dst (off + i)
  let old := places.map (readEngine s)
  let parts := (List.range n).map fun i => partIndex o.parts (spanVa dst (off + i))
  let fails := places.map fun p => outFails [{ place := p, byte := 0, bad := false }]
  let bad := if add then old.foldl (fun e b => e ||| b.2) (0 : BitVec 7) else 0
  let v := drainValue x.fmt fmt add (getTile (getCore s w.core) (tileKey w acc r c)).toNat (ofBytes (old.map fun b => b.1.1))
  { out := ((parts.zip places).zip ((toBytes v.1 n).zip old)).filterMap fun e =>
      if add && e.2.2.2 &&& errInteg != 0 then none
      else some (e.1.1, { place := e.1.2, byte := e.2.1, bad := bad != 0 }),
    lost := ((parts.zip fails).filter fun e => e.2 != 0).map Prod.fst,
    flags := v.2, errors := fails.foldl (fun e x => e ||| x) bad }

/-- A drain performed: every active element at once (R389, R390). A part of the destination in which some byte has no place is not
written (17 R341); an add-on-store writes an element whose old bytes it finds bad poisoned (R391, 17 R341), and leaves a
failed line failed (R392). -/
def drainOut (s : State) (o : EngineOp) (acc : Nat) (x : Record) (dst : Span) (add : Bool) (am an fmt : Nat) :
    State × BitVec 6 × BitVec 7 :=
  let es := (cellsOf (List.range am) an).map fun e => drainElement s o acc x dst add fmt e.1 e.2
  let lost := es.flatMap fun e => e.lost
  let kept := es.filter fun e => e.out.any fun b => !lost.contains b.1
  let w := writeOut s (kept.flatMap fun e => (e.out.filter fun b => !lost.contains b.1).map Prod.snd)
  let flagged := es.filter fun e => e.out.isEmpty || e.out.any fun b => !lost.contains b.1
  (w.1, flagged.foldl (fun f e => f ||| e.flags) 0, es.foldl (fun f e => f ||| e.errors) w.2)

/-! ## Completion (R385) -/

/-- Whether an operation is the oldest matrix operation of its core, and its warp's earlier accesses are performed. -/
def engineTurn (s : State) (core : Nat) (o : EngineOp) : Bool :=
  (((getCore s core).engine.filter fun p => isMatrix p.kind).head?.map fun p => p.id) == some o.id && earlierDone s o

/-- A change of the warp that issued an operation, while it is there: one that has exited takes nothing more. -/
def updIssuer (s : State) (o : EngineOp) (f : Ctx → Ctx) : State :=
  let c := getCtx s o.ctx
  if c.live && ofWarp c o then putCtx s o.ctx (f c) else s

/-- The flags of an operation ORed into the FFLAGS of the warp that issued it (R80, R385). -/
def engineFlags (s : State) (o : EngineOp) (f : BitVec 6) : State := updIssuer s o fun c => orFlags c f

/-- Lanes filled by mx.acc.get, element by element. -/
def fillCells (t : Ctx) : List ((Nat × Nat) × Nat × Nat) → Ctx
  | [] => t
  | (e, c, x) :: rest =>
    let old := (getV t e.1 e.2).val.toNat
    let keepLow := old % 2 ^ 32
    let keepHigh := old / 2 ^ 32 * 2 ^ 32
    fillCells (putV t e.1 e.2 { val := BitVec.ofNat 64 (if c % 2 = 0 then keepHigh + x else keepLow + x * 2 ^ 32) }) rest

/-- The effect of a matrix operation that is no drain, with its flags. -/
def matrixEffect (s : State) (o : EngineOp) (m : MatOp) : State × BitVec 6 :=
  let w := getWg s o.wg
  let core := getCore s w.core
  let width := recWarpLanes (wgLaunch s w).record
  match m with
  | .mma acc map fmt ss zero lanes gn gk am an ak qs =>
    multiply s o.wg acc fmt fmt zero (gk / 16)
      ((updatedRows lanes width am).map fun r => (r, mapRow s o.wg map r ak))
      ((List.range an).map fun c => bColumn s fmt ss gn gk c ak qs)
  | .mv acc map n record src scales fmt an ak =>
    multiply s o.wg acc map.fmt fmt false (kBlocks ak)
      ((List.range n).map fun v => (v, mapRow s o.wg map v ak))
      ((List.range an).map fun j => weightRow s o record src scales fmt j ak)
  | .accZero acc lanes am an =>
    (putCore s w.core (putTiles core w acc
      ((cellsOf (updatedRows lanes width am) an).map fun e => (e, 0, false))), 0)
  | .accLoad acc map _ lanes am an =>
    (putCore s w.core (putTiles core w acc
      ((updatedRows lanes width am).flatMap fun r =>
        (mapRow s o.wg map r an).zipIdx.map fun e => ((r, e.2), e.1.code, e.1.bad))), 0)
  | .accGet acc dst lanes gn am an =>
    let cells := (cellsOf (updatedRows lanes width am) an).map fun e =>
      (resultCell dst width gn e.1 e.2, e.2, (getTile core (tileKey w acc e.1 e.2)).toNat)
    (updIssuer s o fun c => fillCells c cells, 0)
  | .drain _ _ _ _ _ _ _ _ _ => (s, 0)

/-- Whether memory holds some byte that an mx.mv reads. -/
def matrixHeld (s : State) (o : EngineOp) (m : MatOp) : Bool :=
  match m with
  | .mv _ _ _ record src scales fmt an ak => (weightPlaces s o record src scales fmt an ak).any (engineHeld s)
  | _ => false

/-- MATRIX_OPERATION_COMPLETION (R385): the oldest operation of a core reads its operands, updates its tile, frees its
entry and ORs its flags. -/
def matrixCompletion (s : State) (core id : Nat) : State :=
  match findEngine s core id with
  | none => s
  | some o =>
    match o.kind with
    | .matrix (.drain _ _ _ _ _ _ _ _ _) => s
    | .matrix m =>
      let retry := Act.event .matrixOperationCompletion { place := core, id := id }
      let isMma := m matches .mma _ _ _ _ _ _ _ _ _ _ _ _
      if !engineTurn s core o || !cellsFull s (mmaCells m) || matrixHeld s o m then again s retry
      else
        let r := matrixEffect s o m
        let s := finishEngine (engineFlags r.1 o r.2) core o
        if isMma then stampBand s o.wg o.bandSeq stMme false else s
    | _ => s

/-- The first mx.mma of each band that is open (20 R404), with its core. -/
def leadOps (s : State) : List (Nat × EngineOp) :=
  s.cores.flatMap fun c => (c.2.engine.filter fun o => o.lead).map fun o => (c.1, o)

/-- Such an operation is stamped when every partner lane that it reads is full, and when the engine begins it: its turn has
come. -/
def watchLead (s : State) (e : Nat × EngineOp) : State :=
  match e.2.kind with
  | .matrix m =>
    if cellsFull s (mmaCells m) then
      let s := stampBand s e.2.wg e.2.bandSeq stOpr true
      if engineTurn s e.1 e.2 then stampBand s e.2.wg e.2.bandSeq stMms true else s
    else s
  | _ => s

/-- The moments of OPR and MMS are noted as they come. -/
def watchEngines (s : State) : State := (leadOps s).foldl watchLead s

/-- MATRIX_OPERATION_COMPLETION. -/
def execMatrixOperationCompletion (s : State) : Host.Outcome State Fault Refusal :=
  .next (matrixCompletion s s.input.place s.input.id)

/-- The places that a drain writes. -/
def drainPlaces (s : State) (o : EngineOp) (x : Record) (dst : Span) (am an : Nat) : List EnginePlace :=
  (cellsOf (List.range am) an).map fun e =>
    enginePlace s (engineRequester o) true dst (e.1 * x.dpitch + Nat.xor (e.2 * drainWidth x.fmt) (e.1 % 2 ^ x.swz * 16))

/-- DRAIN_COMPLETION (R391): the tile is written at its destination, the entry freed, the errors joined to the batch,
the flags ORed, and the ring posted. -/
def drainCompletion (s : State) (core id : Nat) : State :=
  match findEngine s core id with
  | none => s
  | some o =>
    match o.kind with
    | .matrix (.drain acc x dst add post ring am an fmt) =>
      if !engineTurn s core o || markHeld s o || (drainPlaces s o x dst am an).any (engineHeld s) then
        again s (.event .drainCompletion { place := core, id := id })
      else
        let r := drainOut s o acc x dst add am an fmt
        let s := engineFlags r.1 o r.2.1
        let s := finishEngine s core { o with errors := o.errors ||| r.2.2 }
        let s := if inGroup dst then s else stampBand s o.wg o.bandSeq stCoc false
        if post then postRing s o.wg ring else s
    | _ => s

/-- DRAIN_COMPLETION. -/
def execDrainCompletion (s : State) : Host.Outcome State Fault Refusal :=
  .next (drainCompletion s s.input.place s.input.id)

end Sys2Proof.Machine
end

