-- ==== Sys2Proof/Machine/Translate.lean ====
section
/-! DEFINITION. The translation block of a die, its caches and the invalidations (11 R240 to R243). -/

namespace Sys2Proof.Machine

open Sys2Proof

/-- A block's BUSY falls: the system core that made the request has IPEND[3] set (02 R47). -/
def busyFalls (s : State) (by_ : Nat) : State := setIpend s by_ 3

/-- A translation cache. -/
def getTlb (s : State) (cache : Nat) : List TlbEntry := mapGet [] s.tlbs cache
def putTlb (s : State) (cache : Nat) (es : List TlbEntry) : State := { s with tlbs := mapPut [] s.tlbs cache es }

/-- The entries of a translation cache: 512 on a core, 128 on a system core (R240). -/
def tlbSize (cache : Nat) : Nat := if cache < 768 then 512 else 128

/-- The caches of a die: its cores' and its two system cores'. -/
def dieCaches (die : Nat) : List Nat :=
  ((List.range 32).map fun i => 32 * die + i) ++ [768 + 2 * die, 768 + 2 * die + 1]

/-! ## Walks (R240, R241) -/

/-- A table entry as a walker reads it: a pointer of the die's walk cache, else memory. -/
def walkReadCached (s : State) (die : Nat) (asid : BitVec 16) (a : Nat) : Except Bool (Word × Word) :=
  match listFind (fun e : WalkEntry => e.asid == asid && e.entry == a) (getDie s die).walk with
  | some e => .ok (BitVec.ofNat 64 e.pointer, 0)
  | none => walkRead s a

/-- Whether a walk for a cache comes to a table entry, not one of its die's walk cache, that is held just now. -/
def cacheWalkHeld (s : State) (cache : Nat) (asid : BitVec 16) (va : Nat) : Bool :=
  let die := cacheDie cache
  let cached := fun a => (getDie s die).walk.any fun e => e.asid == asid && e.entry == a
  let read := fun a =>
    if !cached a && entryHeld s die a then .error true
    else
      match walkReadCached s die asid a with
      | .ok e => .ok e
      | .error _ => .error false
  (cachedLeaf s cache asid va).isNone &&
    (match walkPath s read die asid va with
     | .error b => b
     | .ok _ => false)

/-- The pointers of a walk joined to a walk cache of 64 entries, latest first. -/
def cachePointers (asid : BitVec 16) (ps : List (Nat × Word)) (old : List WalkEntry) : List WalkEntry :=
  let new := ps.map fun p => ({ asid := asid, entry := p.1, pointer := p.2.toNat } : WalkEntry)
  (new ++ old.filter fun e => !new.any fun n => n.asid == e.asid && n.entry == e.entry).take 64

/-- TRANSLATION_WALK (R240, R241): a miss of a cache's core is walked, and a valid leaf fills the cache. -/
def translationWalk (s : State) (cache : Nat) (asid : BitVec 16) (va : Nat) : State :=
  let die := cacheDie cache
  match cachedLeaf s cache asid va with
  | some _ => s
  | none =>
    match walkPath s (walkReadCached s die asid) die asid va with
    | .error _ => s
    | .ok (l, ps) =>
      let d := getDie s die
      let s := putDie s die { d with walk := cachePointers asid ps d.walk }
      putTlb s cache (({ asid := asid, leaf := l } :: getTlb s cache).take (tlbSize cache))

/-- TRANSLATION_WALK; a walk that comes to an entry that main memory holds goes on later (18 R364 to R369). -/
def execTranslationWalk (s : State) : Host.Outcome State Fault Refusal :=
  let a := s.input
  let asid := BitVec.ofNat 16 a.id
  .next (if 816 ≤ a.place then s
    else if cacheWalkHeld s a.place asid a.value.toNat then again s (.event .translationWalk a)
    else translationWalk s a.place asid a.value.toNat)

/-! ## Invalidation (R243) -/

/-- A store to INVREQ whose turn it is: an invalidation starts, of the page that INVVA then names, or kind 3 is dropped. -/
def startInvalidation (s : State) (die : Nat) (kind : BitVec 2) (asid : BitVec 16) (by_ : Nat) : State :=
  if kind = 3 then s
  else
    let d := getDie s die
    later (putDie s die { d with invBusy := true, invKind := kind, invAsid := asid, invAddr := d.invva, invBy := by_ })
      (.event .invalidationComplete { place := die })

/-- A store to INVREQ: not performed while BUSY is 1. -/
def storeInvreq (s : State) (die : Nat) (x : Word) (by_ : Nat) : Option State :=
  if (getDie s die).invBusy then none
  else some (startInvalidation s die (BitVec.ofNat 2 (bf x 17 16)) (BitVec.ofNat 16 x.toNat) by_)

/-- INVSTAT. -/
def invStat (d : Die) : Word := BitVec.ofNat 64 (d.invBusy.toNat + d.invCount.toNat * 2 ^ 32)

/-- Whether an invalidation drops an entry of a translation cache. -/
def invMatches (d : Die) (e : TlbEntry) : Bool :=
  match d.invKind with
  | 0 => e.asid == d.invAsid && decide (e.leaf.va ≤ d.invAddr.toNat) && decide (d.invAddr.toNat < e.leaf.va + e.leaf.size)
  | 1 => e.asid == d.invAsid
  | _ => true

/-- Whether an invalidation drops a pointer entry: kind 0 drops all of them. -/
def invMatchesWalk (d : Die) (e : WalkEntry) : Bool := d.invKind != 1 || e.asid == d.invAsid

/-- The contexts of a die with an access that may have used a translation that the invalidation drops: one that issued under
its address space. -/
def invContexts (s : State) (die : Nat) : List Nat :=
  let d := getDie s die
  (s.ctxs.filter fun e =>
    keyDie e.1 == die && e.2.ops.any fun o => d.invKind == 2 || o.asid == d.invAsid).map Prod.fst

/-- Entries dropped from caches. -/
def dropTlb (s : State) (d : Die) : List Nat → State
  | [] => s
  | c :: rest => dropTlb (putTlb s c ((getTlb s c).filter fun e => !invMatches d e)) d rest

/-- The record caches of cores emptied. -/
def dropRecords (s : State) : List Nat → State
  | [] => s
  | c :: rest => dropRecords (putCore s c { getCore s c with records := [] }) rest

/-- Contexts settled one after the other. -/
def settleAll (s : State) : List Nat → State
  | [] => s
  | k :: rest => settleAll (settleCtx s k) rest

/-- INVALIDATION_COMPLETE (R243): the accesses that used a dropped translation are performed, the entries are dropped,
BUSY clears and the count increments. It waits while such an access is early in a replay (24 R475). -/
def invalidationComplete (s : State) (die : Nat) : State :=
  let d := getDie s die
  if d.invBusy then
    let keys := invContexts s die
    let s := settleAll s keys
    if keys.any (unsettled s) then again s (.event .invalidationComplete { place := die }) else
    let s := dropTlb s d (dieCaches die)
    let s := if d.invKind = 2 then dropRecords s ((List.range 32).map fun i => 32 * die + i) else s
    let e := getDie s die
    busyFalls (putDie s die { e with
      walk := e.walk.filter fun w => !invMatchesWalk d w, invBusy := false, invCount := e.invCount + 1 }) d.invBy
  else s

/-- A request of one kind by a step of the table, which waits while BUSY is 1. -/
def invRequest (s : State) (i : Instr) (kind : BitVec 2) : State :=
  let a := s.input
  if 24 ≤ a.place then s
  else if (getDie s a.place).invBusy then again s (.event i a)
  else startInvalidation s a.place kind (BitVec.ofNat 16 a.value.toNat) a.id

/-- INVALIDATE_PAGE: INVREQ kind 0. -/
def execInvalidatePage (s : State) : Host.Outcome State Fault Refusal := .next (invRequest s .invalidatePage 0)

/-- INVALIDATE_ASID: INVREQ kind 1. -/
def execInvalidateAsid (s : State) : Host.Outcome State Fault Refusal := .next (invRequest s .invalidateAsid 1)

/-- INVALIDATE_ALL: INVREQ kind 2. -/
def execInvalidateAll (s : State) : Host.Outcome State Fault Refusal := .next (invRequest s .invalidateAll 2)

/-- INVALIDATION_COMPLETE. -/
def execInvalidationComplete (s : State) : Host.Outcome State Fault Refusal :=
  .next (if s.input.place < 24 then invalidationComplete s s.input.place else s)

end Sys2Proof.Machine
end

