-- ==== Sys2Proof/Machine/Batt.lean ====
section
/-! DEFINITION. The batt control block of a die: enabling and disabling its sibling region (16 R306 to R310). -/

namespace Sys2Proof.Machine

open Sys2Proof

/-- The home of the first cell header, and of the first group of the pool. -/
def headerBase (die : Nat) : Nat := diePlace die 0x0E400000
def groupPoolBase (die : Nat) : Nat := diePlace die 0x0EC00000

/-- The bytes of the sibling region, and of the batt area. -/
def cellRegionSize : Nat := 0x1000000
def battAreaSize : Nat := 0xC00000

/-- Whether an access touches the batt area or the sibling region of a die. -/
def touchesBatt (die : Nat) (a : Access) : Bool :=
  decide (a.place < diePlace die 0x10000000) && decide (headerBase die < a.place + a.len)

/-- The contexts that have an access to them in flight. -/
def battContexts (s : State) (die : Nat) : List Nat :=
  (s.ctxs.filter fun e => e.2.ops.any fun o => o.accs.any fun a => !a.done && touchesBatt die a).map Prod.fst

/-- The places that an open operation of an engine has still to read or to write. -/
def opPlaces (s : State) (o : EngineOp) : List EnginePlace :=
  match o.kind with
  | .copy r src dst sparse verify _ _ =>
    (if o.rows.isSome then [] else readPlaces s o r src sparse verify) ++
      (List.range r.rows).flatMap fun i =>
        (List.range r.rb).map fun k => enginePlace s (engineRequester o) true dst (i * r.dpitch + k)
  | .mcast r src _ sparse verify _ => if o.rows.isSome then [] else readPlaces s o r src sparse verify
  | .band dst _ => (List.range 64).map fun k => enginePlace s (engineRequester o) true dst k
  | .matrix m =>
    match m with
    | .mv _ _ _ record src scales fmt an ak => weightPlaces s o record src scales fmt an ak
    | .drain _ x dst _ _ _ am an _ => drainPlaces s o x dst am an
    | .mma _ _ _ _ _ _ _ _ _ _ _ _ | .accZero _ _ _ _ | .accLoad _ _ _ _ _ _ | .accGet _ _ _ _ _ _ => []

/-- Whether an open operation of an engine has an access to the batt area or the sibling region of a die in flight; one
whose walk is held may. -/
def engineTouchesBatt (s : State) (die : Nat) : Bool :=
  s.cores.any fun c => c.2.engine.any fun o => (opPlaces s o).any fun pl =>
    match pl with
    | .home p => decide (headerBase die ≤ p) && decide (p < diePlace die 0x10000000)
    | .waits => true
    | .main _ _ _ | .fails _ => false

/-! ## The batt store as ordinary memory (R310) -/

/-- A cell's header. -/
def headerBytes (c : Cell) : List Byte := toBytes (c.link + c.gen.toNat * 2 ^ 16) 4

/-- The groups in use, each with its cell. -/
def usedGroups (d : Die) : List (Nat × Cell) :=
  (d.cells.filter fun e => e.2.link != 0).map fun e => (e.2.link, e.2)

/-- The free list from its head. -/
def freeList (d : Die) : List Nat := d.freed ++ (List.range (65536 - d.fresh)).map (d.fresh + ·)

/-- NEXT of a group: the group after it on the free list, the head in group 0, zero where it is in use or last. -/
def nextOf (d : Die) (g : Nat) : Nat :=
  if g = 0 then (freeList d).headD 0
  else ((freeList d).dropWhile (· != g)).getD 1 0

/-- The eight doublewords of a group: DOTS and the values of the cell that uses it; a group that was freed keeps bits
that the spec does not state, and one never used holds zeros beside NEXT. -/
def groupWords (die : Nat) (d : Die) (g : Nat) : List Word :=
  let w := match listFind (fun e : Nat × Cell => e.1 == g) (usedGroups d) with
    | some e => [tokenOf e.2, 0, slotValue e.2 1, slotValue e.2 2, slotValue e.2 3]
    | none =>
      let old := fun k => if d.freed.contains g then Config.freedGroup die g k else 0
      [old 0, BitVec.ofNat 64 (nextOf d g), old 2, old 3, old 4]
  w ++ [0, 0, 0]

/-- Poison marks for the words of poisoned cells. -/
def markCells (s : State) (die : Nat) (bad : List Nat) : State :=
  bad.foldl (fun s i => writeBytes s (cellBase die + 8 * i) (readBytes s (cellBase die + 8 * i) 8) true) s

/-- The cells, headers and groups of a die written into its die store, where they are ordinary memory. -/
def battToMemory (s : State) (die : Nat) : State :=
  let d := getDie s die
  let s := writeBytes s (headerBase die) ((List.range 2097152).flatMap fun i => headerBytes (getCell d i))
  let s := writeBytes s (groupPoolBase die) ((List.range 65536).flatMap fun g => wordsBytes (groupWords die d g))
  let s := writeBytes s (cellBase die) ((List.range 2097152).flatMap fun i => toBytes (slotValue (getCell d i) 0).toNat 8)
  markCells s die ((d.cells.filter fun e => e.2.poison).map Prod.fst)

/-! ## The block (R308, R309) -/

/-- The requested change is under way. -/
def battBegins (s : State) (die : Nat) (en : Bool) (by_ : Nat) : State :=
  later (putDie s die { getDie s die with battEn := en, battBusy := true, battBy := by_ })
    (.event .battChangeDone { place := die })

/-- A store to BATTCTL whose turn it is: BUSY is set where EN changes. On a change from 1 to 0 the sibling steps in
flight are performed, and the cells and the batt store become ordinary memory; the store waits while such a step is early in a
replay (24 R475). -/
def changeBatt (s : State) (die : Nat) (en : Bool) (by_ : Nat) : Option State :=
  if en = (getDie s die).battEn then some s
  else if en then some (battBegins s die true by_)
  else
    let keys := battContexts s die
    let t := settleAll s keys
    if keys.any (unsettled t) then none else some (battBegins (battToMemory t die) die false by_)

/-- A store to BATTCTL: not performed while BUSY is 1. -/
def storeBattctl (s : State) (die : Nat) (x : Word) (by_ : Nat) : Option State :=
  if (getDie s die).battBusy then none else changeBatt s die (bitAt x 0) by_

/-- BATTSTAT. -/
def battStat (d : Die) : Word :=
  BitVec.ofNat 64 (d.battBusy.toNat + (if d.battEn && !d.battBusy then freeGroups d else 0) * 2 ^ 16)

/-- BATTCNT. -/
def battCnt (d : Die) : Word := d.drop ++ d.coll

/-- BATT_CHANGE_DONE (R309): once every access there is performed, the engines' included, an enabled region is zeroed,
every cell holds one sibling of value 0 with dot 1, all groups are free; BUSY clears. -/
def battChangeDone (s : State) (die : Nat) : State :=
  if (getDie s die).battBusy then
    let keys := battContexts s die
    if (getDie s die).battEn && (engineTouchesBatt s die || keys.any (unsettled (settleAll s keys))) then again s (.event .battChangeDone { place := die }) else
    let s :=
      if (getDie s die).battEn then
        let s := settleAll s keys
        let s := writeBytes s (cellBase die) (List.replicate cellRegionSize 0)
        let s := writeBytes s (headerBase die) (List.replicate battAreaSize 0)
        putDie s die { getDie s die with cells := [], freed := [], fresh := 1 }
      else s
    let d := getDie s die
    busyFalls (putDie s die { d with battBusy := false }) d.battBy
  else s

/-- A step of the table that sets or clears EN; it waits while BUSY is 1. -/
def battRequest (s : State) (i : Instr) (en : Bool) : State :=
  let a := s.input
  if 24 ≤ a.place then s
  else if (getDie s a.place).battBusy then again s (.event i a)
  else (changeBatt s a.place en a.id).getD (again s (.event i a))

/-- BATT_ENABLE. -/
def execBattEnable (s : State) : Host.Outcome State Fault Refusal := .next (battRequest s .battEnable true)

/-- BATT_DISABLE. -/
def execBattDisable (s : State) : Host.Outcome State Fault Refusal := .next (battRequest s .battDisable false)

/-- BATT_CHANGE_DONE. -/
def execBattChangeDone (s : State) : Host.Outcome State Fault Refusal :=
  .next (if s.input.place < 24 then battChangeDone s s.input.place else s)

end Sys2Proof.Machine
end

