-- ==== Sys2Proof/Machine/MemInstr.lean ====
section
/-! DEFINITION. Memory and synchronisation instructions of warps (12; 13 R266 to R271; 16 R318 to R321), and the steps
that perform what they issue. -/

namespace Sys2Proof.Machine

open Sys2Proof

/-! ## Accesses of an instruction -/

/-- One lane's access at a checked target. -/
def accessAt (t : Target) (lane reg n : Nat) (data data2 : Nat) : Option Access :=
  match t with
  | .home p => some { lane := lane, reg := reg, place := p, len := n, pa := p, data := data, data2 := data2 }
  | .main p pa slot =>
    some { lane := lane, reg := reg, place := p, len := n, pa := pa, pol := slot, data := data, data2 := data2 }
  | .cell die i pol ty =>
    some { lane := lane, reg := reg, place := cellBase die + 8 * i, len := n, pa := cellBase die + 8 * i, cell := true,
           pol := pol + 8 * ty, data := data, data2 := data2 }
  | .io _ => none
  | .nowhere => none

/-- The accesses of one lane: a 16-byte access outside the group store is two 8-byte halves (R248). -/
def laneAccesses (s : State) (q : Requester) (lane va n data data2 : Nat) : List Access :=
  if n = 16 ∧ regionOf va ≠ .group then
    (accessAt (targetOf s q va) lane 0 8 (data % 2 ^ 64) data2).toList ++
      (accessAt (targetOf s q (va + 8)) lane 1 8 (data / 2 ^ 64) data2).toList
  else (accessAt (targetOf s q va) lane 0 n data data2).toList

/-- The lanes' addresses, base + V[r][l] modulo 2^64 (R250). -/
def laneAddresses (c : Ctx) (r : Nat) (base : Word) (lanes : List Nat) : List (Nat × Nat) :=
  lanes.map fun l => (l, (base + laneVal c r l).toNat)

/-- The checks of R236 for the executing strand's accesses; a walk that main memory holds is waited for (R241). -/
def checked (s : State) (a : Acc) (n : Nat) (addrs : List Nat) : Res Unit := do
  let q := requester s s.focus.key
  await (!walksHeld s q n addrs) .memory
  passed (checkAccess s q a n addrs (curStrand s).exempt)

/-- Issue of an operation: a recorded one where it reaches a sibling cell (R314), else a plain one. -/
def issueLoadStore (before : Ctx) (s : State) (kind : OpKind) (dst : Nat) (accs : List Access) : Res State :=
  if accs.any fun a => a.cell then issueRecorded before s kind dst accs 1 else .ok (retire (issueOp s kind dst accs) 1)

/-- Several registers' lanes made pending. -/
def pendRegs (c : Ctx) (lanes : List Nat) : List Nat → Ctx
  | [] => c
  | r :: rest => pendRegs (pendLanes c r lanes) lanes rest

/-! ## Loads and stores (R250, R251) -/

/-- m.ld. -/
def execMLd (g z : BitVec 3) (d a sb : BitVec 6) (e : BitVec 1) (s : State) : Host.Outcome State Fault Refusal :=
  run s (do
    let n := sizeBytes z
    let rd ← vxD s d
    let last ← nextReg s rd (if n = 16 then 1 else 0)
    let ra ← vxA s a
    let base ← rdS s sb
    let lanes := activeLanes s g
    rdV s e [ra] lanes
    let regs := if n = 16 then [rd, last] else [rd]
    let addrs := laneAddresses (cur s) ra base lanes
    checked s .load n (addrs.map Prod.snd)
    freeV s regs lanes
    let q := requester s s.focus.key
    let accs := addrs.flatMap fun l => laneAccesses s q l.1 l.2 n 0 0
    issueLoadStore (cur s) (setCur s (pendRegs (cur s) lanes regs)) (.load n (sizeSigned z)) rd accs)

/-- m.st. -/
def execMSt (g z : BitVec 3) (d a sb : BitVec 6) (e : BitVec 1) (s : State) : Host.Outcome State Fault Refusal :=
  run s (do
    let n := sizeBytes z
    let rd ← vxD s d
    let last ← nextReg s rd (if n = 16 then 1 else 0)
    let ra ← vxA s a
    let base ← rdS s sb
    let lanes := activeLanes s g
    rdV s e (if n = 16 then [ra, rd, last] else [ra, rd]) lanes
    let c := cur s
    let addrs := laneAddresses c ra base lanes
    checked s .store n (addrs.map Prod.snd)
    awaitRel s
    let q := requester s s.focus.key
    let data := fun l => (laneVal c rd l).toNat + (if n = 16 then (laneVal c last l).toNat * 2 ^ 64 else 0)
    let accs := addrs.flatMap fun l => laneAccesses s q l.1 l.2 n (data l.1 % 2 ^ (8 * n)) 0
    issueLoadStore (cur s) s .store 0 accs)

/-- m.lds: one access for every active lane (R251). -/
def execMLds (g z : BitVec 3) (d sb : BitVec 6) (s : State) : Host.Outcome State Fault Refusal :=
  run s (do
    let n := sizeBytes z
    let rd ← vxD s d
    let last ← nextReg s rd (if n = 16 then 1 else 0)
    let lanes := activeLanes s g
    let base ← rdS s sb
    if lanes.isEmpty then .ok (retire s 1)
    else
      let regs := if n = 16 then [rd, last] else [rd]
      checked s .load n [base.toNat]
      freeV s regs lanes
      let q := requester s s.focus.key
      let accs := lanes.flatMap fun l => laneAccesses s q l base.toNat n 0 0
      issueLoadStore (cur s) (setCur s (pendRegs (cur s) lanes regs)) (.loadSplat n (sizeSigned z)) rd accs)

/-- The lanes of one pass whose accesses have all been performed are filled, and leave their operation. -/
def fillPass (c : Ctx) (o : MemOp) (pass : Nat) : Ctx :=
  let mine := fun a : Access => a.lane / 32 == pass
  let c := fillAll c o (o.accs.filter mine)
  let rest := o.accs.filter fun a => !mine a
  if rest.isEmpty then dropOp c o.id else replaceOp c { o with accs := rest }

/-- The steps of one pass of a load on sibling cells that are next at their cells. -/
def readyCells (s : State) (key : Nat) (o : MemOp) (pass : Nat) : List Nat :=
  (o.accs.zipIdx.filter fun e => e.1.cell && e.1.lane / 32 == pass && !e.1.done && stepReady s key o e.2 e.1).map Prod.snd

/-- LOAD_FILL (R250, R135): the accesses of a pass are performed and its lanes filled at one moment; while one may not
be performed yet, the fill is made later; in a replay each step on a cell is performed at its own turn. -/
def loadFill (s : State) (key id pass : Nat) : State :=
  let c := getCtx s key
  match findOp c id with
  | none => s
  | some o =>
    match o.kind with
    | .load _ _ | .loadSplat _ _ =>
      let idx := (o.accs.zipIdx.filter fun e => e.1.lane / 32 == pass).map Prod.snd
      if o.accs.zipIdx.all fun e => e.1.lane / 32 != pass || e.1.done || stepReady s key o e.2 e.1 then
        let s := performList s key id idx
        let c := getCtx s key
        match findOp c id with
        | none => s
        | some o => putCtx s key (fillPass c o pass)
      else
        again (if replays s key then performList s key id (readyCells s key o pass) else s)
          (.event .loadFill { who := ⟨key, o.slot⟩, id := id, sub := pass })
    | _ => s

/-! ## Atomics (R252, R253) -/

/-- The scopes of R253. -/
def scopeWorkgroup : Nat := 1
def scopeDie : Nat := 2
def scopePackage : Nat := 3

/-- An atomic form: function `f` of `atomicOp`, its scope, and whether it is m.cas. -/
def atomicForm (f scope : Nat) (g : BitVec 3) (z : BitVec 1) (d a sb : BitVec 6) (s : State) : Res State := do
  let n := if z = 0 then 4 else 8
  let rd ← vxD s d
  let last ← nextReg s rd (if f = 9 then 1 else 0)
  let ra ← vxA s a
  let base ← rdS s sb
  let lanes := activeLanes s g
  rdV s 0 (if f = 9 then [ra, rd, last] else [ra, rd]) lanes
  let c := cur s
  let addrs := laneAddresses c ra base lanes
  checked s .atomic n (addrs.map Prod.snd)
  freeV s [rd] lanes
  awaitRel s
  let q := requester s s.focus.key
  let cut := fun r l => (laneVal c r l).toNat % 2 ^ (8 * n)
  let accs := addrs.flatMap fun l => laneAccesses s q l.1 l.2 n (cut (if f = 9 then last else rd) l.1) (cut rd l.1)
  issueRecorded (cur s) (setCur s (pendLanes c rd lanes)) (.atomic f n scope) rd accs 1

/-- ATOMIC_STEP (R252, R123): one indivisible step at a location, once it may be performed. -/
def atomicStep (s : State) (key id i : Nat) : State :=
  let c := getCtx s key
  match findOp c id with
  | none => s
  | some o =>
    match o.kind, o.accs[i]? with
    | .atomic _ _ _, some a | .scalarAtomic _, some a =>
      if a.done then s
      else if stepReady s key o i a then
        let s := performAt s key id i
        match o.kind with
        | .atomic _ _ _ => finishOp s key id
        | _ => s
      else again s (.event .atomicStep { who := ⟨key, o.slot⟩, id := id, sub := i })
    | _, _ => s

/-- SCALAR_FILL (02 R36): the value of a scalar load or atomic arrives. -/
def scalarFill (s : State) (key id : Nat) : State :=
  let c := getCtx s key
  match findOp c id with
  | none => s
  | some o =>
    let retry := again s (.event .scalarFill { who := ⟨key, o.slot⟩, id := id })
    match o.kind with
    | .scalarLoad _ _ =>
      if o.accs.zipIdx.all fun e => e.1.done || stepReady s key o e.2 e.1 then
        finishOp (performList s key id (List.range o.accs.length)) key id
      else retry
    | .scalarAtomic _ => if o.accs.all fun a => a.done then finishOp s key id else retry
    | _ => s

/-! ## Barrier words (R254 to R258; 13 R266 to R271) -/

/-- The address of m.arrive and m.wait (R255). -/
def barrierAddress (base : Word) (i : BitVec 10) : Word := base + 8 * sxField i

/-- The checks of R255. -/
def checkBarrier (s : State) (b : Word) : Res Unit :=
  if regionOf b.toNat ≠ .group then .error (.trap 0x0C b 0) else checked s .barrier 8 [b.toNat]

/-- m.arrive (R256). -/
def execMArrive (g : BitVec 3) (d a : BitVec 6) (i : BitVec 10) (s : State) : Host.Outcome State Fault Refusal :=
  run s (guarded g (fun s => do
    let x ← rdS s a
    let b := barrierAddress x i
    checkBarrier s b
    freeS s d
    awaitRel s
    let accs := laneAccesses s (requester s s.focus.key) 0 b.toNat 8 0 0
    let c := cur s
    let old := getS c d.toNat
    issueRecorded (cur s) (setCur s (putS c d.toNat { old with fill := .pending })) .arrive d.toNat accs 1) s)

/-- ARRIVAL_STEP (R256). -/
def arrivalStep (s : State) (key id : Nat) : State :=
  let c := getCtx s key
  match findOp c id with
  | none => s
  | some o =>
    if o.kind = .arrive then
      if o.accs.zipIdx.all fun e => e.1.done || stepReady s key o e.2 e.1 then
        finishOp (performList s key id (List.range o.accs.length)) key id
      else again s (.event .arrivalStep { who := ⟨key, o.slot⟩, id := id })
    else s

/-- The phase of a barrier word. -/
def phaseOf (w : Nat) : Nat := w / 2 ^ 32 % 2 ^ 16

/-- A park-table entry is one of a quad's reserved entries: 32 to 39, two for each quad (13 R266). -/
def reservedEntries (quad : Nat) : List Nat := [32 + 2 * quad, 33 + 2 * quad]

/-- The entry that a request gets (13 R267): one that holds the same warp, doubleword and token, the lowest free
shared one, or a reserved one for the head of the refusal queue. -/
def parkEntry (c : Core) (key token dw : Nat) : Option Nat :=
  let quad := keyQuad key
  let used := fun i => (mapGet ({} : Park) c.park i).valid
  match listFind (fun e : Nat × Park => e.2.valid && e.2.quad.toNat == quad && e.2.slot.toNat == key % 16 &&
      e.2.token.toNat == token && e.2.dw.toNat == dw) c.park with
  | some e => some e.1
  | none =>
    match listFind (fun i => !used i) (List.range 32) with
    | some i => some i
    | none =>
      if (getQuad c quad).refusals.head? = some key then listFind (fun i => !used i) (reservedEntries quad) else none

/-- The strand is parked in an entry, and its warp leaves the refusal queue (13 R267, R269). -/
def parkIn (c : Core) (i key slot token dw : Nat) : Core :=
  let e := mapGet ({} : Park) c.park i
  let e : Park :=
    { valid := true, rsv := decide (32 ≤ i), quad := BitVec.ofNat 2 (keyQuad key), slot := BitVec.ofNat 4 (key % 16),
      strands := e.strands ||| BitVec.ofNat 8 (2 ^ slot), token := BitVec.ofNat 16 token, dw := BitVec.ofNat 14 dw }
  let q := getQuad c (keyQuad key)
  putQuad { c with park := mapPut {} c.park i e } (keyQuad key)
    { q with refusals := q.refusals.filter fun k => k != key }

/-- A warp joins its quad's refusal queue (13 R269). -/
def refuseIn (c : Core) (key : Nat) : Core :=
  let q := getQuad c (keyQuad key)
  if q.refusals.contains key then c else putQuad c (keyQuad key) { q with refusals := q.refusals ++ [key] }

/-- A request for a park-table entry by the executing strand; a parked strand gives its pin back at once (13 R267), and a
refused one is made ready to ask again by a later step (R269). -/
def requestPark (s : State) (token place : Nat) : State :=
  let key := s.focus.key
  let core := (place - 2 ^ 56) / 131072
  let dw := (place - 2 ^ 56) % 131072 / 8
  let c := getCore s core
  match parkEntry c key token dw with
  | some i =>
    let t := putCore s core (parkIn c i key s.focus.slot token dw)
    hold (setStrand t { curStrand t with pinned := false, pinBack := true, inWait := true }) .barrier
  | none =>
    let t := putCore s core (refuseIn c key)
    later (hold (setStrand t { curStrand t with inWait := true }) .refused) (.event .parkRetry { who := s.focus })

/-- The window offset of a group-store home, for the record of a completed m.wait (24 R474). -/
def windowOffset (s : State) (key place : Nat) : Nat := (place - 2 ^ 56) % 131072 - (wgOf s key).gbase

/-- A strand's m.wait completes: it leaves the park table and goes on. -/
def completeWait (s : State) (place : Nat) : State :=
  let s := releasePark s s.focus.key (2 ^ s.focus.slot)
  completeRecorded s 1 ⟨5, windowOffset s s.focus.key place, s.focus⟩ 0

/-- The access by which an m.wait reads its word: a load of the strand, after its earlier accesses to those bytes (R247). -/
def waitAccess (p : Nat) : Access := { place := p, len := 8, pa := p }

/-- Whether the executing strand's m.wait may read its word. -/
def waitReady (s : State) (p : Nat) : Bool :=
  accessReady s (cur s) (newOp s (.scalarLoad 8 false) 0 [waitAccess p]) 0 (waitAccess p)

/-- The word at a place as some strands of a warp read it, under the stores that they see, and whether it is poisoned. -/
def barrierWord (s : State) (key : Nat) (slots : List Nat) (p : Nat) : Nat × Bool :=
  loadBytes s (seenOps (fun o => slots.any fun k => o.order.getLsbD k) (getCtx s key).ops) p 8 p 0

/-- A strand whose m.wait is turned off by its guard no longer waits in it (13 R269). -/
def leaveWait (s : State) : State :=
  if (curStrand s).inWait then releasePark s s.focus.key (2 ^ s.focus.slot) else s

/-- The trap of an m.wait that meets poisoned bytes (R257, 21 R417). -/
def waitPoison (s : State) (b : Word) : State := trapHere s 0x14 b 0x400000

/-- m.wait (R257). -/
def execMWait (g : BitVec 3) (d a : BitVec 6) (i : BitVec 10) (s : State) : Host.Outcome State Fault Refusal :=
  if guardP s g then
    match (do
        let t ← rdS s d
        let x ← rdS s a
        checkBarrier s (barrierAddress x i)
        .ok (t, barrierAddress x i) : Res (Word × Word)) with
    | .error e => run s (.error e)
    | .ok (t, b) =>
      match targetOf s (requester s s.focus.key) b.toNat with
      | .home p =>
        let r := barrierWord s s.focus.key [s.focus.slot] p
        if !waitReady s p then .next (hold s .memory)
        else if r.2 then .next (waitPoison s b)
        else if phaseOf r.1 = t.toNat % 2 ^ 16 then .next (requestPark s (t.toNat % 2 ^ 16) p)
        else .next (completeWait s p)
      | _ => .next (trapHere s 0x0C b 0)
  else .next (retire (leaveWait s) 1)

/-- The strands of a warp's mask of slots complete their m.wait, and the executing strand stays what it was. -/
def wakeSlots (s : State) (key place : Nat) : List Nat → State
  | [] => s
  | i :: rest =>
    let x := getStrand (getCtx s key) i
    let s :=
      if x.valid && (x.wait matches .held .barrier _) then
        { completeWait { s with focus := ⟨key, i⟩ } place with focus := s.focus }
      else s
    wakeSlots s key place rest

/-- PARK_WAKE (13 R268): the watched word is read again, as the entry's strands read it; with another phase every strand of the entry
goes on. Poisoned bytes trap the entry's lowest strand, and the others wait again after its handler (R257). -/
def parkWake (s : State) (core i : Nat) : State :=
  let e := mapGet ({} : Park) (getCore s core).park i
  let place := 2 ^ 56 + core * 131072 + 8 * e.dw.toNat
  let key := core * 64 + e.quad.toNat * 16 + e.slot.toNat
  let slots := (List.range 8).filter fun k => e.strands.getLsbD k
  let r := barrierWord s key slots place
  if !e.valid then s
  else if r.2 then
    match slots with
    | [] => s
    | k :: _ =>
      { waitPoison { s with focus := ⟨key, k⟩ } (BitVec.ofNat 64 (groupBase + windowOffset s key place)) with
        focus := s.focus }
  else if phaseOf r.1 != e.token.toNat then wakeSlots s key place slots
  else s

/-- PARK_RETRY (13 R269): a refused strand is ready to issue its m.wait again once it has waited for 32 cycles of its
quad. -/
def parkRetry (s : State) (a : Agent) : State :=
  let x := getStrand (getCtx s a.key) a.slot
  if x.valid && (x.wait matches .held .refused _) then
    if x.waitCount < 32 then again (cycleDue s a.key) (.event .parkRetry { who := a })
    else { putCtx s a.key (putStrand (getCtx s a.key) a.slot { x with wait := .ready }) with focus := a }
  else s

/-! ## Fences (R259, R260; 11 R245) -/

/-- The condition of a fence (R259): kinds 0 acq, 1 rel, 2 acqrel, 3 sc. -/
def fenceDone (s : State) (kind scope : Nat) : Bool :=
  let ops := (cur s).ops
  (kind == 1 || strandDone ops s.focus.slot true false) &&
    (kind == 0 || strandDone ops s.focus.slot true true (scope == 0))

/-- A fence that a strand passes: a release has its stores released, an acquire takes those that are (15 R294). -/
def passFence (s : State) (kind : Nat) : State :=
  let k := s.focus.slot
  let c := cur s
  let released := if kind = 0 then c.ops else releaseOps (fun p => p.order.getLsbD k) c.ops
  let ops := if kind = 1 then released else acquireOps k released
  if ops = c.ops then s else setCur s { c with ops := ops }

/-- A fence of kind acq, acqrel or sc: the strand waits at it (R260). -/
def holdFence (kind : Nat) (g sc : BitVec 3) (s : State) : Res State :=
  do
    need (decide (sc.toNat < 5)) 0x01
    guarded g (fun s => do
      await (fenceDone s kind sc.toNat) .fence
      .ok (retire (passFence s kind) 1)) s

/-- A fence of kind rel whose condition does not hold: the strand waits at it (R260), or goes on and later loads pass it,
while it holds the strand's later stores and atomics (R259). -/
def openRel (s : State) (scope : Nat) : State :=
  let t := { s with drawn := s.drawn + 1 }
  if Config.relGoesOn s.drawn then retire (issueOp t (.fence 1 scope) 0 []) 1 else hold t .fence

/-- A fence of kind rel. -/
def relFence (g sc : BitVec 3) (s : State) : Res State :=
  do
    need (decide (sc.toNat < 5)) 0x01
    guarded g (fun s =>
      .ok (if fenceDone s 1 sc.toNat then retire (passFence s 1) 1 else openRel s sc.toNat)) s

/-- fence acq (R259). -/
def execFenceAcq (g sc : BitVec 3) (s : State) : Host.Outcome State Fault Refusal := run s (holdFence 0 g sc s)

/-- fence rel (R259). -/
def execFenceRel (g sc : BitVec 3) (s : State) : Host.Outcome State Fault Refusal := run s (relFence g sc s)

/-- fence acqrel (R259). -/
def execFenceAcqrel (g sc : BitVec 3) (s : State) : Host.Outcome State Fault Refusal := run s (holdFence 2 g sc s)

/-- fence sc (R259). -/
def execFenceSc (g sc : BitVec 3) (s : State) : Host.Outcome State Fault Refusal := run s (holdFence 3 g sc s)

/-- FENCE_COMPLETE (R259): a fence that still holds later accesses is done once its condition holds. -/
def fenceComplete (s : State) (key id : Nat) : State :=
  let c := getCtx s key
  match findOp c id with
  | none => s
  | some o =>
    match o.kind with
    | .fence _ scope =>
      if priorDone c.ops o true true (scope == 0) then
        putCtx s key (dropOp { c with ops := releaseOps (fun p => o.prior.contains p.id) c.ops } id)
      else again s (.event .fenceComplete { who := ⟨key, o.slot⟩, id := id })
    | _ => s

/-- A copy, multicast or drain that a strand issued and that has not completed (R245). -/
def openTransfer (c : Ctx) (slot : Nat) (o : EngineOp) : Bool :=
  o.wg == c.wg && o.warp == c.warpid.toNat && o.slot == slot &&
    (match o.kind with
     | .copy _ _ _ _ _ _ _ | .mcast _ _ _ _ _ _ => true
     | .matrix (.drain _ _ _ _ _ _ _ _ _) => true
     | .matrix _ | .band _ _ => false)

/-- fence tlr (R245): the strand's stores are performed and its copies and drains complete; the core's record cache is
dropped. -/
def execFenceTlr (g : BitVec 3) (s : State) : Host.Outcome State Fault Refusal :=
  run s (guarded g (fun s => do
    await (strandDone (cur s).ops s.focus.slot false true) .fence
    if isSystem s.focus.key then .ok (retire s 1)
    else
      await (s.cores.all fun c => c.2.engine.all fun o => !openTransfer (cur s) s.focus.slot o) .fence
      .ok (retire (putCore s (keyCore s.focus.key) { curCore s with records := [] }) 1)) s)

/-! ## Push and pop (R261) -/

/-- The bytes that one register takes in a frame. -/
def frameBytes (c : Ctx) : Nat := if isWide c then 512 else 256

/-- The accesses of a push or a pop: register i of the run, lane by lane. -/
def spillAccesses (s : State) (o rd n : Nat) (lanes : List Nat) : List Access :=
  let key := s.focus.key
  let f := frameBytes (cur s)
  (List.range n).flatMap fun i => lanes.map fun l =>
    { lane := l, reg := i, place := spillPlace key (o + f * i + 8 * l), len := 8,
      pa := spillPlace key (o + f * i + 8 * l), data := (laneVal (cur s) (rd + i) l).toNat }

/-- The addresses of a push or a pop as they are checked: lane by lane, the lowest lane first (11 R236, 24 R467). -/
def spillChecks (s : State) (o n : Nat) (lanes : List Nat) : List Nat :=
  lanes.flatMap fun l => (List.range n).map fun i => spillBase + o + frameBytes (cur s) * i + 8 * l

/-- S[62] ← x. -/
def setS62 (s : State) (x : Nat) : State := wrS s 62 (BitVec.ofNat 64 x)

/-- A spill-window address as a trap reports it. DESIGN CHOICE (log entry 99): trap(0x08) for a misaligned S[62] reports it
too. -/
def spillAddress (o : Nat) : Word := BitVec.ofNat 64 (spillBase + o)

/-- m.push (R261). -/
def execMPush (g : BitVec 3) (d n : BitVec 6) (e : BitVec 1) (s : State) : Host.Outcome State Fault Refusal :=
  run s (do
    let k := n.toNat + 1
    let rd ← vxD s d
    let _ ← nextReg s rd (k - 1)
    let x ← rdS s 62
    let lanes := activeLanes s g
    rdV s e ((List.range k).map fun i => rd + i) lanes
    let o := x.toNat
    if o % 8 ≠ 0 then .error (.trap 0x08 (spillAddress o) 0)
    else if 0x3C00 < o + k * frameBytes (cur s) then .error (.trap 0x0C (spillAddress o) 0)
    else
      let accs := spillAccesses s o rd k lanes
      checked s .store 8 (spillChecks s o k lanes)
      awaitRel s
      .ok (retire (issueOp (setS62 s (o + k * frameBytes (cur s))) .store 0 accs) 1))

/-- m.pop (R261). -/
def execMPop (g : BitVec 3) (d n : BitVec 6) (s : State) : Host.Outcome State Fault Refusal :=
  run s (do
    let k := n.toNat + 1
    let rd ← vxD s d
    let _ ← nextReg s rd (k - 1)
    let x ← rdS s 62
    let lanes := activeLanes s g
    let size := k * frameBytes (cur s)
    let o := x.toNat - size
    if x.toNat % 8 ≠ 0 then .error (.trap 0x08 (spillAddress x.toNat) 0)
    else if x.toNat < size then .error (.trap 0x0C (spillAddress x.toNat) 0)
    else
      let regs := (List.range k).map fun i => rd + i
      let accs := spillAccesses s o rd k lanes
      checked s .load 8 (spillChecks s o k lanes)
      freeV s regs lanes
      let s := setS62 s o
      .ok (retire (issueOp (setCur s (pendRegs (cur s) lanes regs)) (.load 8 false) rd
        (accs.map fun a => { a with data := 0 })) 1))

/-! ## Sibling cells (16 R318 to R321) -/

/-- A sibling form: its kind, what it needs of its page, its destination registers, and each lane's datum and second
datum. -/
def siblingForm (s : State) (kind : OpKind) (acc : Acc) (rd : Nat) (dests : List Nat) (ra : Nat) (lanes : List Nat)
    (data data2 : Nat → Nat) : Res State := do
  let c := cur s
  let addrs := laneAddresses c ra 0 lanes
  checked s acc 8 (addrs.map Prod.snd)
  freeV s dests lanes
  if acc = .cellLoad then pure () else awaitRel s
  let q := requester s s.focus.key
  let accs := addrs.flatMap fun l => laneAccesses s q l.1 l.2 8 (data l.1) (data2 l.1)
  issueRecorded (cur s) (setCur s (pendRegs c lanes dests)) kind rd accs 1

/-- m.ldv (R319). -/
def execMLdv (g : BitVec 3) (_t : BitVec 1) (d a b : BitVec 6) (e : BitVec 1) (s : State) :
    Host.Outcome State Fault Refusal :=
  run s (do
    let rd ← vxD s d
    let last ← nextReg s rd 1
    let ra ← vxA s a
    let rb ← vxB s b
    let lanes := activeLanes s g
    rdV s e [ra, rb] lanes
    let c := cur s
    siblingForm s .cellLdv .cellLoad rd [rd, last] ra lanes (fun _ => 0) (fun l => (laneVal c rb l).toNat))

/-- m.stv (R320). -/
def execMStv (g : BitVec 3) (_t : BitVec 1) (d a b : BitVec 6) (e : BitVec 1) (s : State) :
    Host.Outcome State Fault Refusal :=
  run s (do
    let rd ← vxD s d
    let ra ← vxA s a
    let rb ← vxB s b
    let tk ← nextReg s rb 1
    let lanes := activeLanes s g
    rdV s e [ra, rb, tk] lanes
    let c := cur s
    siblingForm s .cellStv .cellStore rd [rd] ra lanes (fun l => (laneVal c rb l).toNat)
      (fun l => (laneVal c tk l).toNat))

/-- m.rcn (R321). -/
def reconcileForm (f : Nat) (g t : BitVec 3) (d a : BitVec 6) (e : BitVec 1) (s : State) : Res State := do
  let rd ← vxD s d
  let last ← nextReg s rd 1
  let ra ← vxA s a
  let lanes := activeLanes s g
  rdV s e [ra] lanes
  siblingForm s (.cellRcn f t.toNat) .cellBoth rd [rd, last] ra lanes (fun _ => 0) (fun _ => 0)

/-- CELL_STEP (16 R314, R318): the consecutive steps of one instruction on one cell. -/
def cellStep (s : State) (key id i : Nat) : State :=
  let c := getCtx s key
  match findOp c id with
  | none => s
  | some o =>
    match o.kind, o.accs[i]? with
    | .cellLdv, some a | .cellStv, some a | .cellRcn _ _, some a =>
      if a.done then s
      else if stepReady s key o i a then finishOp (performAt s key id i) key id
      else again s (.event .cellStep { who := ⟨key, o.slot⟩, id := id, sub := i })
    | _, _ => s

/-! ## Meanings of the atomics -/

/-- m.atom.w.add (R252, R253). -/
def execMAtomWAdd (g : BitVec 3) (z : BitVec 1) (d a sb : BitVec 6) (s : State) : Host.Outcome State Fault Refusal :=
  run s (atomicForm 0 scopeWorkgroup g z d a sb s)

/-- m.atom.w.min (R252, R253). -/
def execMAtomWMin (g : BitVec 3) (z : BitVec 1) (d a sb : BitVec 6) (s : State) : Host.Outcome State Fault Refusal :=
  run s (atomicForm 1 scopeWorkgroup g z d a sb s)

/-- m.atom.w.max (R252, R253). -/
def execMAtomWMax (g : BitVec 3) (z : BitVec 1) (d a sb : BitVec 6) (s : State) : Host.Outcome State Fault Refusal :=
  run s (atomicForm 2 scopeWorkgroup g z d a sb s)

/-- m.atom.w.minn (R252, R253). -/
def execMAtomWMinn (g : BitVec 3) (z : BitVec 1) (d a sb : BitVec 6) (s : State) : Host.Outcome State Fault Refusal :=
  run s (atomicForm 3 scopeWorkgroup g z d a sb s)

/-- m.atom.w.maxn (R252, R253). -/
def execMAtomWMaxn (g : BitVec 3) (z : BitVec 1) (d a sb : BitVec 6) (s : State) : Host.Outcome State Fault Refusal :=
  run s (atomicForm 4 scopeWorkgroup g z d a sb s)

/-- m.atom.w.and (R252, R253). -/
def execMAtomWAnd (g : BitVec 3) (z : BitVec 1) (d a sb : BitVec 6) (s : State) : Host.Outcome State Fault Refusal :=
  run s (atomicForm 5 scopeWorkgroup g z d a sb s)

/-- m.atom.w.or (R252, R253). -/
def execMAtomWOr (g : BitVec 3) (z : BitVec 1) (d a sb : BitVec 6) (s : State) : Host.Outcome State Fault Refusal :=
  run s (atomicForm 6 scopeWorkgroup g z d a sb s)

/-- m.atom.w.xor (R252, R253). -/
def execMAtomWXor (g : BitVec 3) (z : BitVec 1) (d a sb : BitVec 6) (s : State) : Host.Outcome State Fault Refusal :=
  run s (atomicForm 7 scopeWorkgroup g z d a sb s)

/-- m.atom.d.add (R252, R253). -/
def execMAtomDAdd (g : BitVec 3) (z : BitVec 1) (d a sb : BitVec 6) (s : State) : Host.Outcome State Fault Refusal :=
  run s (atomicForm 0 scopeDie g z d a sb s)

/-- m.atom.d.min (R252, R253). -/
def execMAtomDMin (g : BitVec 3) (z : BitVec 1) (d a sb : BitVec 6) (s : State) : Host.Outcome State Fault Refusal :=
  run s (atomicForm 1 scopeDie g z d a sb s)

/-- m.atom.d.max (R252, R253). -/
def execMAtomDMax (g : BitVec 3) (z : BitVec 1) (d a sb : BitVec 6) (s : State) : Host.Outcome State Fault Refusal :=
  run s (atomicForm 2 scopeDie g z d a sb s)

/-- m.atom.d.minn (R252, R253). -/
def execMAtomDMinn (g : BitVec 3) (z : BitVec 1) (d a sb : BitVec 6) (s : State) : Host.Outcome State Fault Refusal :=
  run s (atomicForm 3 scopeDie g z d a sb s)

/-- m.atom.d.maxn (R252, R253). -/
def execMAtomDMaxn (g : BitVec 3) (z : BitVec 1) (d a sb : BitVec 6) (s : State) : Host.Outcome State Fault Refusal :=
  run s (atomicForm 4 scopeDie g z d a sb s)

/-- m.atom.d.and (R252, R253). -/
def execMAtomDAnd (g : BitVec 3) (z : BitVec 1) (d a sb : BitVec 6) (s : State) : Host.Outcome State Fault Refusal :=
  run s (atomicForm 5 scopeDie g z d a sb s)

/-- m.atom.d.or (R252, R253). -/
def execMAtomDOr (g : BitVec 3) (z : BitVec 1) (d a sb : BitVec 6) (s : State) : Host.Outcome State Fault Refusal :=
  run s (atomicForm 6 scopeDie g z d a sb s)

/-- m.atom.d.xor (R252, R253). -/
def execMAtomDXor (g : BitVec 3) (z : BitVec 1) (d a sb : BitVec 6) (s : State) : Host.Outcome State Fault Refusal :=
  run s (atomicForm 7 scopeDie g z d a sb s)

/-- m.atom.p.add (R252, R253). -/
def execMAtomPAdd (g : BitVec 3) (z : BitVec 1) (d a sb : BitVec 6) (s : State) : Host.Outcome State Fault Refusal :=
  run s (atomicForm 0 scopePackage g z d a sb s)

/-- m.atom.p.min (R252, R253). -/
def execMAtomPMin (g : BitVec 3) (z : BitVec 1) (d a sb : BitVec 6) (s : State) : Host.Outcome State Fault Refusal :=
  run s (atomicForm 1 scopePackage g z d a sb s)

/-- m.atom.p.max (R252, R253). -/
def execMAtomPMax (g : BitVec 3) (z : BitVec 1) (d a sb : BitVec 6) (s : State) : Host.Outcome State Fault Refusal :=
  run s (atomicForm 2 scopePackage g z d a sb s)

/-- m.atom.p.minn (R252, R253). -/
def execMAtomPMinn (g : BitVec 3) (z : BitVec 1) (d a sb : BitVec 6) (s : State) : Host.Outcome State Fault Refusal :=
  run s (atomicForm 3 scopePackage g z d a sb s)

/-- m.atom.p.maxn (R252, R253). -/
def execMAtomPMaxn (g : BitVec 3) (z : BitVec 1) (d a sb : BitVec 6) (s : State) : Host.Outcome State Fault Refusal :=
  run s (atomicForm 4 scopePackage g z d a sb s)

/-- m.atom.p.and (R252, R253). -/
def execMAtomPAnd (g : BitVec 3) (z : BitVec 1) (d a sb : BitVec 6) (s : State) : Host.Outcome State Fault Refusal :=
  run s (atomicForm 5 scopePackage g z d a sb s)

/-- m.atom.p.or (R252, R253). -/
def execMAtomPOr (g : BitVec 3) (z : BitVec 1) (d a sb : BitVec 6) (s : State) : Host.Outcome State Fault Refusal :=
  run s (atomicForm 6 scopePackage g z d a sb s)

/-- m.atom.p.xor (R252, R253). -/
def execMAtomPXor (g : BitVec 3) (z : BitVec 1) (d a sb : BitVec 6) (s : State) : Host.Outcome State Fault Refusal :=
  run s (atomicForm 7 scopePackage g z d a sb s)

/-- m.xchg (R252, R253). -/
def execMXchg (g : BitVec 3) (z : BitVec 1) (d a sb : BitVec 6) (s : State) : Host.Outcome State Fault Refusal :=
  run s (atomicForm 8 scopePackage g z d a sb s)

/-- m.cas (R252, R253). -/
def execMCas (g : BitVec 3) (z : BitVec 1) (d a sb : BitVec 6) (s : State) : Host.Outcome State Fault Refusal :=
  run s (atomicForm 9 scopePackage g z d a sb s)

/-- m.rcn.add (16 R321). -/
def execMRcnAdd (g t : BitVec 3) (d a : BitVec 6) (e : BitVec 1) (s : State) : Host.Outcome State Fault Refusal :=
  run s (reconcileForm 0 g t d a e s)

/-- m.rcn.max (16 R321). -/
def execMRcnMax (g t : BitVec 3) (d a : BitVec 6) (e : BitVec 1) (s : State) : Host.Outcome State Fault Refusal :=
  run s (reconcileForm 1 g t d a e s)

/-- m.rcn.min (16 R321). -/
def execMRcnMin (g t : BitVec 3) (d a : BitVec 6) (e : BitVec 1) (s : State) : Host.Outcome State Fault Refusal :=
  run s (reconcileForm 2 g t d a e s)

/-- m.rcn.or (16 R321). -/
def execMRcnOr (g t : BitVec 3) (d a : BitVec 6) (e : BitVec 1) (s : State) : Host.Outcome State Fault Refusal :=
  run s (reconcileForm 3 g t d a e s)

/-- m.rcn.pick (16 R321). -/
def execMRcnPick (g t : BitVec 3) (d a : BitVec 6) (j : BitVec 2) (e : BitVec 1) (s : State) : Host.Outcome State Fault Refusal :=
  run s (reconcileForm (4 + j.toNat) g t d a e s)

/-! ## Steps -/

/-- LOAD_FILL (R250). -/
def execLoadFill (s : State) : Host.Outcome State Fault Refusal := .next (loadFill s s.input.who.key s.input.id s.input.sub)

/-- SCALAR_FILL (02 R36). -/
def execScalarFill (s : State) : Host.Outcome State Fault Refusal := .next (scalarFill s s.input.who.key s.input.id)

/-- ATOMIC_STEP (R252). -/
def execAtomicStep (s : State) : Host.Outcome State Fault Refusal := .next (atomicStep s s.input.who.key s.input.id s.input.sub)

/-- ARRIVAL_STEP (R256). -/
def execArrivalStep (s : State) : Host.Outcome State Fault Refusal := .next (arrivalStep s s.input.who.key s.input.id)

/-- PARK_WAKE (13 R268). -/
def execParkWake (s : State) : Host.Outcome State Fault Refusal :=
  let e := mapGet ({} : Park) (getCore s s.input.place).park s.input.id
  .next (arrivedOf s (parkWake s s.input.place s.input.id) (s.input.place * 64 + e.quad.toNat * 16 + e.slot.toNat))

/-- PARK_RETRY (13 R269). -/
def execParkRetry (s : State) : Host.Outcome State Fault Refusal := .next (parkRetry s s.input.who)

/-- FENCE_COMPLETE (R259). -/
def execFenceComplete (s : State) : Host.Outcome State Fault Refusal := .next (fenceComplete s s.input.who.key s.input.id)

/-- CELL_STEP (16 R315). -/
def execCellStep (s : State) : Host.Outcome State Fault Refusal := .next (cellStep s s.input.who.key s.input.id s.input.sub)

end Sys2Proof.Machine
end

