-- ==== Sys2Proof/Machine/Compat.lean ====
section
/-! DEFINITION. The compatibility forms lg.ld, lg.st and lg.bar (23 R459 to R461). -/

namespace Sys2Proof.Machine

open Sys2Proof

/-! ## lg.ld and lg.st (R459, R460) -/

/-- L0 of R459: the workgroup position of the span's first lane. -/
def lgFirst (s : State) : Nat := (cur s).warpid.toNat * laneCount (cur s) + spanBase (cur s) (curStrand s)

/-- The lanes' addresses (R459). -/
def lgAddresses (s : State) (ra n : Nat) (base : Word) (lanes : List Nat) : List (Nat × Nat) :=
  lanes.map fun l =>
    (l, (base + BitVec.ofNat 64 n * (BitVec.ofNat 64 (lgFirst s) + sxWord (laneVal (cur s) ra l).toNat 32)).toNat)

/-- lg.ld. -/
def execLgLd (z : BitVec 3) (d a sb : BitVec 6) (s : State) : Host.Outcome State Fault Refusal :=
  run s (do
    need (z != 7) 0x01
    let n := sizeBytes z
    let rd ← vxD s d
    let ra ← vxA s a
    let base ← rdS s sb
    let lanes := lanesOf (curStrand s).mask
    rdV s 0 [ra] lanes
    let addrs := lgAddresses s ra n base lanes
    checked s .lgLoad n (addrs.map Prod.snd)
    freeV s [rd] lanes
    let q := requester s s.focus.key
    let accs := addrs.flatMap fun l => laneAccesses s q l.1 l.2 n 0 0
    .ok (retire (issueOp (setCur s (pendRegs (cur s) lanes [rd])) (.load n (sizeSigned z)) rd accs true) 1))

/-- lg.st. -/
def execLgSt (z : BitVec 3) (d a sb : BitVec 6) (s : State) : Host.Outcome State Fault Refusal :=
  run s (do
    need (z != 7) 0x01
    let n := sizeBytes z
    let rd ← vxD s d
    let ra ← vxA s a
    let base ← rdS s sb
    let lanes := lanesOf (curStrand s).mask
    rdV s 0 [ra, rd] lanes
    let addrs := lgAddresses s ra n base lanes
    checked s .lgStore n (addrs.map Prod.snd)
    awaitRel s
    let q := requester s s.focus.key
    let accs := addrs.flatMap fun l => laneAccesses s q l.1 l.2 n ((laneVal (cur s) rd l.1).toNat % 2 ^ (8 * n)) 0
    .ok (retire (issueOp s .store 0 accs true) 1))

/-! ## lg.bar (R461) -/

/-- The root strands of the executing strand's workgroup that have not exited. -/
def workgroupRoots (s : State) : List Agent :=
  (wgOf s s.focus.key).warps.flatMap fun k =>
    if (getCtx s k).live then
      ((liveSlots (getCtx s k)).filter fun i => (getStrand (getCtx s k) i).root).map fun i => ⟨k, i⟩
    else []

/-- Whether a strand is at the barrier: it waits at an lg.bar, and is neither stopped nor suspended. -/
def atBarrier (s : State) (a : Agent) : Bool :=
  issuable s a &&
    (match (getStrand (getCtx s a.key) a.slot).wait with
     | .held .lgBar _ => true
     | _ => false)

/-- Strands that complete their lg.bar. -/
def passBarrier (s : State) : List Agent → State
  | [] => s
  | a :: rest => passBarrier (arrivedOf s { retire { s with focus := a } 1 with focus := s.focus } a.key) rest

/-- lg.bar. -/
def execLgBar (s : State) : Host.Outcome State Fault Refusal :=
  run s (do
    need (curStrand s).root 0x01
    await (strandDone (cur s).ops s.focus.slot true true) .fence
    let others := (workgroupRoots s).filter fun a => a != s.focus
    await (others.all (atBarrier s)) .lgBar
    .ok (passBarrier s (s.focus :: others)))

/-- LG_BAR_COMPLETE (R461): a strand at the barrier finds every root there, and all complete in one step. -/
def execLgBarComplete (s : State) : Host.Outcome State Fault Refusal :=
  reissue s s.input.who .lgBar fun i t =>
    match i with
    | .lgBar => execLgBar t
    | _ => .next s

end Sys2Proof.Machine
end

