-- ==== Sys2Proof/Machine/MainMem.lean ====
section
/-! DEFINITION. The memory-map block: the mapping, retirement, repair, rates and retraining, and what can fail in main
memory, its links and the fabric (18 R345 to R369, 22 R428). -/

namespace Sys2Proof.Machine

open Sys2Proof

/-! ## Mapping (R357) -/

/-- MAPR for an address: the place of R355 in the fields of R357, or zero outside every live part. -/
def mapWord (s : State) (a : Nat) : Word :=
  match domainOf s a with
  | none => 0
  | some n =>
    let m := mapPlaceIn s n a
    let kind := if n < 24 then 0 else if n < 26 then 1 else 2
    let k := m.g / 64
    BitVec.ofNat 64 (2 ^ 63 + kind * 2 ^ 61 + k / 2 * 2 ^ 56 + k % 2 * 2 ^ 55 + m.g % 64 * 2 ^ 49 + m.bg * 2 ^ 47 +
      m.bank * 2 ^ 45 + m.row * 2 ^ 29 + m.col * 2 ^ 26 + m.pidx)

/-- A store to MAPQ: MAPR takes the mapping of its value (R352). -/
def storeMapq (s : State) (x : Word) : State :=
  let a := keep x 51 0
  { s with mapq := a, mapr := mapWord s a.toNat }

/-- MAPQ. -/
def execMapq (s : State) : Host.Outcome State Fault Refusal := .next (storeMapq s s.input.value)

/-! ## Domains and folds (R351, R352) -/

/-- DGEOM as it reads. -/
def geomWord (d : Domain) : Word := BitVec.ofNat 64 (d.rc + d.rowBase * 2 ^ 32 + d.smask.toNat * 2 ^ 48)

/-- A store to DGEOM, refused with ROWBASE + RC above 65,536 or with an SMASK of a row or module domain (R352). -/
def storeGeom (s : State) (n : Nat) (x : Word) : State :=
  let rc := bf x 16 1 * 2
  let base := bf x 47 32
  let smask := bf x 49 48
  if 65536 < base + rc ∨ (24 ≤ n ∧ smask ≠ 0) then s
  else putDomain s n { getDomain s n with rc := rc, rowBase := base, smask := BitVec.ofNat 2 smask }

/-- A store to a register of domain n at an offset within its 0x80 bytes. -/
def storeDomain (s : State) (n off : Nat) (x : Word) : State :=
  let d := getDomain s n
  if off = 0 then putDomain s n { d with base := bf x 41 30 * 2 ^ 30 }
  else if off = 8 then storeGeom s n x
  else
    let j := (off - 0x40) / 8
    putDomain s n { d with folds := mapPut 0 d.folds j (keep x 34 (j + 1)) }

/-- MEMORY_MAP_CONFIG_WRITE (R352): the store at the block's offset `id`. -/
def execMemoryMapConfigWrite (s : State) : Host.Outcome State Fault Refusal :=
  let off := s.input.id
  let o := (off - 0x1000) % 0x80
  .next (if within off 0x1000 (0x1000 + 27 * 0x80) && off % 8 == 0 && (o == 0 || o == 8 || decide (0x40 ≤ o)) then
    storeDomain s ((off - 0x1000) / 0x80) o s.input.value else s)

/-! ## Retirement (R366, R367) -/

/-- The domains that use a pseudo-channel: its die's own where SMASK selects its stack, its row's, and the module's. -/
def domainsOf (s : State) (g : Nat) : List Nat := (List.range 27).filter fun n => (domainStacks s n).contains (g / 64)

/-- Whether a retirement of g is refused. -/
def retireRefused (s : State) (g : Nat) : Bool :=
  decide (3072 ≤ g) || !pcLive s g || (domainsOf s g).any fun n => domainP s n == 1

/-- A store to RETREQ: not performed while BUSY is 1; refused with REFUSED set, or a retirement starts. -/
def storeRetreq (s : State) (x : Word) (by_ : Nat) : Option State :=
  let g := bf x 11 0
  if s.retBusy then none
  else if retireRefused s g then some { s with retRefused := true }
  else
    some (later { s with retBusy := true, retRefused := false, retG := BitVec.ofNat 12 g, retBy := by_ }
      (.event .retirementComplete {}))

/-- RETSTAT. -/
def retStat (s : State) : Word :=
  BitVec.ofNat 64 (s.retBusy.toNat + s.retRefused.toNat * 2 + s.retCount.toNat * 2 ^ 32)

/-- The contexts with an access to one of some domains in flight. -/
def domainContexts (s : State) (ns : List Nat) : List Nat :=
  (s.ctxs.filter fun e => e.2.ops.any fun o => o.accs.any fun a =>
    !a.done && decide (a.place < mainTop) &&
      (match domainOf s a.pa with
       | none => false
       | some n => ns.contains n)).map Prod.fst

/-- RETIREMENT_COMPLETE (R366): the accesses in flight to the three domains are performed, LIVE loses the bit, the
retirement is logged, BUSY clears. -/
def retirementComplete (s : State) : State :=
  if s.retBusy then
    let g := s.retG.toNat
    let s := settleAll s (domainContexts s (domainsOf s g))
    let k := getStack s (g / 64)
    let s := putStack s (g / 64) { k with dead := k.dead ||| BitVec.ofNat 64 (2 ^ (g % 64)) }
    busyFalls (releaseWrites
      { s with retBusy := false, retCount := s.retCount + 1, repairLog := s.repairLog ++ [.retired g] }) s.retBy
  else s

/-- RETREQ. -/
def execRetreq (s : State) : Host.Outcome State Fault Refusal :=
  .next ((storeRetreq s s.input.value s.input.id).getD (again s (.event .retreq s.input)))

/-- RETIREMENT_COMPLETE. -/
def execRetirementComplete (s : State) : Host.Outcome State Fault Refusal := .next (retirementComplete s)

/-! ## Soft repair (R364, R365) -/

/-- The number of a bank in the module. -/
def bankOf (x : Word) : Nat := bf x 11 0 * 16 + bf x 13 12 * 4 + bf x 15 14

/-- The spare rows that a bank has used. -/
def sparesUsed (s : State) (bank : Nat) : Nat := mapGet 0 s.spares bank

/-- A store to PPRREQ: not performed while BUSY is 1; FAIL where no spare row is left or g is not live. -/
def storePprreq (s : State) (x : Word) (by_ : Nat) : Option State :=
  let g := bf x 11 0
  if s.pprBusy then none
  else if 3072 ≤ g ∨ pcLive s g = false ∨ 4 ≤ sparesUsed s (bankOf x) then some { s with pprFail := true }
  else
    some (later { s with pprBusy := true, pprFail := false, pprReq := keep x 31 0, pprBy := by_ }
      (.event .repairComplete {}))

/-- PPRSTAT. -/
def pprStat (s : State) : Word :=
  BitVec.ofNat 64 (s.pprBusy.toNat + s.pprFail.toNat * 2 + s.pprCount.toNat * 2 ^ 32)

/-- REPAIR_COMPLETE (R364): the row is remapped to a spare with its lines as they are, logged, and BUSY clears. -/
def repairComplete (s : State) : State :=
  if s.pprBusy then
    let x := s.pprReq
    busyFalls (releaseWrites { s with
      pprBusy := false, pprCount := s.pprCount + 1
      spares := mapPut 0 s.spares (bankOf x) (sparesUsed s (bankOf x) + 1)
      repairLog := s.repairLog ++ [.repaired (bf x 11 0) (bf x 13 12 * 4 + bf x 15 14) (bf x 31 16)] }) s.pprBy
  else s

/-- PPRREQ. -/
def execPprreq (s : State) : Host.Outcome State Fault Refusal :=
  .next ((storePprreq s s.input.value s.input.id).getD (again s (.event .pprreq s.input)))

/-- REPAIR_COMPLETE. -/
def execRepairComplete (s : State) : Host.Outcome State Fault Refusal := .next (repairComplete s)

/-! ## Rates (R368, R369) -/

/-- RATE of a stack as it reads. -/
def rateWord (k : Stack) : Word := BitVec.ofNat 64 (k.cur.toNat + k.tgt.toNat * 4 + k.pend.toNat * 16)

/-- The partition that holds a stack's die. -/
def stackPart (s : State) (k : Nat) : Nat := partOf s (k / 2)

/-- The saves under way in a partition; each has a deadline (21 R421). -/
def savesIn (s : State) (part : Nat) : List (Nat × Workgroup) :=
  s.wgs.filter fun e => e.2.live && e.2.saving && e.2.part == part

/-- A pending rate change starts where no save is under way in the stack's partition and no retrain holds the stack. -/
def startRetrain (s : State) (k : Nat) : State :=
  let x := getStack s k
  if x.pend && !x.retraining && (savesIn s (stackPart s k)).isEmpty then
    later (putStack s k { x with retraining := true, forced := false, since := s.time })
      (.event .retrainComplete { place := k })
  else s

/-- The pending rate changes of a partition start again after a save (R368). -/
def startRetrains (s : State) (part : Nat) : State :=
  (List.range 48).foldl (fun s k => if stackPart s k = part then startRetrain s k else s) s

/-- A save that begins aborts the rate changes under way in its partition; each stays pending (R368). -/
def abortRetrains (s : State) (part : Nat) : State :=
  (List.range 48).foldl
    (fun s k =>
      let x := getStack s k
      if stackPart s k = part && x.retraining && !x.forced then releaseWrites (putStack s k { x with retraining := false })
      else s) s

/-- A store to RATE: TGT = 3 is refused; a new TGT sets PEND. -/
def storeRate (s : State) (k : Nat) (x : Word) : State :=
  let t := BitVec.ofNat 2 (bf x 3 2)
  if t = 3 ∨ t = (getStack s k).tgt then s
  else startRetrain (putStack s k { getStack s k with tgt := t, pend := true }) k

/-- RATE_CHANGE. -/
def execRateChange (s : State) : Host.Outcome State Fault Refusal :=
  .next (if s.input.place < 48 then storeRate s s.input.place s.input.value else s)

/-- The longest extension by one forced retrain: 20 µs (R369, 21 R421). -/
def retrainCap : Nat := 20000

/-- The deadline of a save extended by the time of a forced retrain, of which 20 µs count at most (R369, 21 R421). -/
def extendSave (w : Workgroup) (ticks : Nat) : Workgroup :=
  { w with retrained := some ((w.retrained.getD 0) + min retrainCap ticks) }

/-- The saves of a partition extended. -/
def extendSaves (s : State) (part ticks : Nat) : State :=
  { s with wgs := s.wgs.map fun e =>
      if e.2.live && e.2.saving && e.2.part == part then (e.1, extendSave e.2 ticks) else e }

/-- RETRAIN_COMPLETE (R368, R369): CUR takes TGT and PEND clears; after a forced retrain CUR stays, and the saves of
the partition have their deadlines extended by its time. -/
def retrainComplete (s : State) (k : Nat) : State :=
  let x := getStack s k
  if !x.retraining then s
  else if x.forced then
    let s := releaseWrites (putStack s k { x with retraining := false, forced := false })
    startRetrain (extendSaves s (stackPart s k) (s.time - x.since).toNat) k
  else releaseWrites (putStack s k { x with retraining := false, cur := x.tgt, pend := false })

/-- RETRAIN_COMPLETE. -/
def execRetrainComplete (s : State) : Host.Outcome State Fault Refusal := .next (retrainComplete s s.input.place)

/-- FORCED_RETRAIN (R369): the stack's requests are held, whatever saves are under way. -/
def execForcedRetrain (s : State) : Host.Outcome State Fault Refusal :=
  let k := s.input.place
  let x := getStack s k
  .next (if 48 ≤ k ∨ x.forced = true then s
    else
      later (putStack s k { x with retraining := true, forced := true, since := s.time })
        (.event .retrainComplete { place := k }))

/-! ## Service (R360, R361) -/

/-- Whether an open operation of an engine has still to read or write at a pseudo-channel. -/
def opTouches (s : State) (o : EngineOp) (g : Nat) : Bool :=
  (opPlaces s o).any fun pl =>
    match pl with
    | .main p _ _ => p / 2 ^ 30 == g
    | .home _ | .fails _ | .waits => false

/-- The class of an operation's groups: the TC of a copy or multicast (17 R330), TC1 of the weights of an mx.mv (19 R387).
For drains and band records no class is given. -/
def classOf (k : EngineKind) : Option Nat :=
  match k with
  | .copy _ _ _ _ _ _ tc | .mcast _ _ _ _ _ tc => some tc.toNat
  | .matrix (.mv _ _ _ _ _ _ _ _ _) => some 1
  | .matrix _ | .band _ _ => none

/-- The first operation of a class that has still to read or write at a pseudo-channel. -/
def copyAt (s : State) (g cls : Nat) : Option (Nat × EngineOp) :=
  s.cores.findSome? fun e =>
    (listFind (fun o => classOf o.kind == some cls && opTouches s o g) e.2.engine).map fun o => (e.1, o)

/-- The groups of an operation served: a part of a copy, a delivery of a multicast, the operation of an engine. -/
def serveOp (s : State) (core : Nat) (o : EngineOp) : State :=
  match o.kind with
  | .copy _ _ _ _ _ _ _ => copyPartCompletion s core o.id (o.left.headD 0)
  | .mcast _ _ _ _ _ _ => mcastDelivery s core o.id (o.left.headD 0)
  | .matrix _ => matrixCompletion s core o.id
  | .band _ _ => bandRecordWrite s core o.id

/-- The first access of a system core at a pseudo-channel that may be performed. -/
def systemAccessAt (s : State) (g : Nat) : Option (Nat × Nat × Nat) :=
  (s.ctxs.filter fun e => isSystem e.1).findSome? fun e =>
    e.2.ops.findSome? fun o =>
      (o.accs.zipIdx.filter fun a =>
        !a.1.done && decide (a.1.place < mainTop) && a.1.place / 2 ^ 30 == g && accessReady s e.2 o a.2 a.1).head?.map
        fun a => (e.1, o.id, a.2)

/-- PSEUDO_CHANNEL_SERVICE (R361): pseudo-channel `place` serves the class `sub`: the groups of the first operation of the
class that has some there, or, in TC1, a system core's access. Turns decide only when an access is served (R363). -/
def execPseudoChannelService (s : State) : Host.Outcome State Fault Refusal :=
  let g := s.input.place
  .next (match (if s.input.sub = 1 then systemAccessAt s g else none) with
    | some (key, id, i) => performStore s key id i
    | none =>
      match copyAt s g s.input.sub with
      | some (core, o) => serveOp s core o
      | none => s)

/-! ## Errors (R349, R350) -/

/-- Every launch of a partition ended with KILL (14 R278). -/
def killPart (s : State) (part : Nat) : State :=
  (getPart s part).launches.foldl (fun s e => if e.2.live then endLaunch s part e.1 0 0 true else s) s

/-- The engine operations of a core cut off from what lies beyond its die's port: they go on without it. -/
def cutEngine (c : Core) : Core := { c with engine := c.engine.map fun o => { o with cut := true } }

/-- The accesses of a context that leave a die are dropped: a store loses their bytes, and what another operation
would have filled through them is not filled. -/
def dropLeaving (die : Nat) (c : Ctx) : Ctx :=
  { c with ops := c.ops.filterMap (cutOp fun a => homeDie a.place != die) }

/-- A die's fabric port frozen (25 R479): its outstanding transactions are dropped, the launches of its partition end
with KILL, and the event is logged. -/
def freezeDie (s : State) (die : Nat) : State :=
  let s := putDie s die { getDie s die with frozen := true }
  let s := { s with ctxs := s.ctxs.map fun e => if keyDie e.1 = die then (e.1, dropLeaving die e.2) else e }
  let s := killPart s (partOf s die)
  let s := { s with cores := s.cores.map fun c => if c.1 / 32 = die then (c.1, cutEngine c.2) else c }
  logEvent s (.freeze (.diePort die)) (some (partOf s die))

/-- LINK_FRAME_FAILURE (R349): a frame on the link of stack `place` fails authentication; `flag` says that it is the
frame that failed before. It is sent again, and with its fourth failure the link is declared failed. -/
def execLinkFrameFailure (s : State) : Host.Outcome State Fault Refusal :=
  let k := s.input.place
  let x := getStack s k
  let n := if s.input.flag then x.linkFails + 1 else 1
  .next (if 48 ≤ k ∨ x.linkDown = true then s
    else if n < 4 then putStack s k { x with linkFails := n }
    else
      let s := putStack s k { x with linkFails := n, linkDown := true }
      freezeDie (logEvent s (.linkFailed k) (some (stackPart s k))) (k / 2))

/-- SESSION_KEY_REPLACEMENT (R349): the monitor gives the link of a stack its next session key. -/
def execSessionKeyReplacement (s : State) : Host.Outcome State Fault Refusal :=
  let k := s.input.place
  .next (if k < 48 then putStack s k { getStack s k with sessionKey := (getStack s k).sessionKey + 1 } else s)

/-- The partition that holds a home. -/
def homePart (s : State) (place : Nat) : Nat := partOf s (homeDie place)

/-- A cell poisoned, with its group where the error is there (16 R323). -/
def poisonCell (d : Die) (i : Nat) (group : Bool) : Die :=
  let c := getCell d i
  putCell d i { c with poison := true, groupBad := c.groupBad || group }

/-- An error in an enabled batt area or sibling region (16 R323): it poisons the cell whose word, header or group it meets. A
group that no cell uses poisons none. -/
def cellError (d : Die) (off : Nat) : Die :=
  if 0x0F000000 ≤ off then poisonCell d ((off - 0x0F000000) / 8) false
  else if off < 0x0EC00000 then poisonCell d ((off - 0x0E400000) / 4) false
  else
    let g := (off - 0x0EC00000) / 64
    match (if g = 0 then none else listFind (fun e : Nat × Cell => e.2.link == g) d.cells) with
    | some e => poisonCell d e.1 true
    | none => d

/-- An uncorrectable error at a home: a line of main memory becomes a failed line and is logged (R350), an enabled
sibling cell is poisoned (16 R323), and a doubleword elsewhere is poisoned. -/
def uncorrectable (s : State) (place : Nat) : State :=
  if place < mainTop then
    logEvent { s with lines := mapErase s.lines (place / 64) } (.uncorrectable place) (some (homePart s place))
  else if place < 2 ^ 56 && siblingEnabled s (homeDie place) && decide (headerBase (homeDie place) ≤ place) then
    putDie s (homeDie place) (cellError (getDie s (homeDie place)) ((place - dieStoreBase) % 0x10000000))
  else writeBytes s (place / 8 * 8) (readBytes s (place / 8 * 8) 8) true

/-- UNCORRECTABLE_ERROR. -/
def execUncorrectableError (s : State) : Host.Outcome State Fault Refusal := .next (uncorrectable s s.input.place)

/-! ## The fabric (22 R428) -/

/-- Whether a die's link in a direction has failed; a crossing is one link between a column's two dies. -/
def linkDead (s : State) (die : Nat) (dir : LinkDir) : Bool :=
  match dir with
  | .east => s.deadLinks.contains (die, .east)
  | .cross => s.deadLinks.contains (die, .cross) || s.deadLinks.contains ((die + 12) % 24, .cross)

/-- Whether `n` hops east from a column of a row are all alive. -/
def eastAlive (s : State) (row col : Nat) : Nat → Bool
  | 0 => true
  | n + 1 => !linkDead s (12 * row + col % 12) .east && eastAlive s row (col + 1) n

/-- Whether a route remains from a die to another: the crossing at the source's column, then one way or the other
round the destination row's ring. -/
def routeExists (s : State) (a b : Nat) : Bool :=
  let row := b / 12
  (a / 12 == row || !linkDead s a .cross) &&
    (eastAlive s row (a % 12) ((b % 12 + 12 - a % 12) % 12) || eastAlive s row (b % 12) ((a % 12 + 12 - b % 12) % 12))

/-- FABRIC_LINK_FAILURE (R428): a link fails; every launch of a partition that holds one of two dies without a route
between them ends with KILL. -/
def execFabricLinkFailure (s : State) : Host.Outcome State Fault Refusal :=
  let s := { s with deadLinks := s.deadLinks ++ [(s.input.place, s.input.dir)] }
  let dies := List.range 24
  let cut := dies.filter fun a => dies.any fun b => !routeExists s a b || !routeExists s b a
  .next ((List.range s.partCount).foldl (fun s p => if cut.any fun d => partOf s d == p then killPart s p else s) s)

end Sys2Proof.Machine
end

