-- ==== Sys2Proof/Machine/Preempt.lean ====
section
/-! DEFINITION. Saving a workgroup into an image, holding and releasing it, and restoring it (21 R419 to R427); the
carder's pre-emptions (14 R281); and the trap entry and interrupt as steps (21 R409, R416). -/

namespace Sys2Proof.Machine

open Sys2Proof

/-! ## Trap entry and interrupt as steps -/

/-- Whether a watchpoint of the executing strand's partition and address space watches an address (24 R465). -/
def watches (s : State) (va : Nat) : Bool :=
  (getPart s (partOf s (keyDie s.focus.key))).watches.any fun e =>
    e.2.valid && e.2.asid == (cur s).asid && decide (e.2.base.toNat ≤ va) && decide (va < e.2.base.toNat + 2 ^ e.2.log2)

/-- What a trap of a cause reports in the executing strand (21 R407, R410), none where the strand cannot take that cause: 0x15
and codes outside the table are never delivered, 0x11 comes in a replay, 0x12 and 0x13 at a break- or watchpoint. The
trap address, DETAIL or SWCODE, and whether a c.wait raises 0x18, are the step's. -/
def trapOf (s : State) (cause : Nat) (taddr detail : Word) (wait : Bool) : Option TrapInfo :=
  let here := pcWord (curStrand s)
  let begun := (curStrand s).begun
  let t : TrapInfo := { cause := BitVec.ofNat 8 cause, resume := here }
  match cause with
  | 0x03 | 0x04 | 0x05 | 0x06 | 0x07 | 0x0E | 0x0F | 0x16 | 0x17 => some t
  | 0x01 | 0x02 | 0x08 | 0x09 | 0x0A | 0x0C | 0x0D => some { t with taddr := taddr }
  | 0x0B => some { t with taddr := taddr, detail := detail &&& 1 }
  | 0x10 => if begun then some { t with swcode := BitVec.ofNat 16 detail.toNat, resume := resumeAfter s 1 } else none
  | 0x11 =>
    if begun && replays s s.focus.key then some { t with taddr := taddr, detail := detail, resume := resumeAfter s 1 }
    else none
  | 0x12 => if begun && breakHit s then some t else none
  | 0x13 => if watches s taddr.toNat then some { t with taddr := taddr } else none
  | 0x14 => some { t with taddr := taddr, detail := detail &&& 0xFF01FF }
  | 0x18 => if wait && !begun then none else some { t with resume := if wait then resumeAfter s 1 else here }
  | _ => none

/-- TRAP_ENTRY (21 R409): the strand `who` takes the trap of cause `value`, with its trap address and DETAIL or SWCODE in
`words`; a strand whose flip is pending is not interrupted (07 R173), since it is not issuable. -/
def execTrapEntry (s : State) : Host.Outcome State Fault Refusal :=
  let a := s.input
  let t := { s with focus := a.who }
  .next (match trapOf t a.value.toNat (a.words.getD 0 0) (a.words.getD 1 0) a.flag with
    | some i => if issuable s a.who then arrived t (takeTrap t i) else s
    | none => s)

/-- INTERRUPT (21 R416): a system core takes cause 0x15, with IPEND as DETAIL, at an instruction boundary. -/
def execInterrupt (s : State) : Host.Outcome State Fault Refusal :=
  let a : Agent := ⟨systemBase + s.input.place, 0⟩
  let t := { s with focus := a }
  let taken := trapHere t 0x15 0 ((cur t).ipend.zeroExtend 64)
  .next (if issuable s a && interruptDue t && (isInTrap (cur t) || !frameHeld t) then
    systemEventBy taken a.key 3 (fun v => (cur t).ipend.getLsbD v.toNat) else s)

/-! ## Images (R422, R423) -/

/-- The bytes of a warp's block. -/
def blockSize (r : List Word) : Nat := 0x7000 + 256 * (if recWid r = 2 then 2 else 1) * recRegs r

/-- The bytes of a launch's image. -/
def imageSize (r : List Word) : Nat :=
  4096 + 4096 * recGranules r + recAcct r * 65536 + (if recAtag r = 0 then 0 else 16384) + recWarps r * blockSize r

/-- The record of a workgroup's launch. -/
def wgRecord (s : State) (k : Nat) : List Word := (wgLaunch s (getWg s k)).record

/-- The run that an image of a die's pool takes. -/
def imageRun (s : State) (e : Nat × Nat) : Nat × Nat := (e.2, (imageSize (wgRecord s e.1) + 4095) / 4096 * 4096)

/-- Whether a run of `n` bytes from `a` is free in a die's pool and lies in main memory. -/
def runFree (s : State) (die a n : Nat) : Bool :=
  let d := getDie s die
  decide (a + n ≤ d.saveLim.toNat) &&
    (d.images.all fun e => decide (a + n ≤ (imageRun s e).1) || decide ((imageRun s e).1 + (imageRun s e).2 ≤ a)) &&
    (List.range (n / 4096)).all fun i => (mainPlace s (a + 4096 * i)).isSome

/-- The lowest free run of a die's pool for an image. -/
def findRun (s : State) (die n : Nat) : Option Nat :=
  let d := getDie s die
  let n := (n + 4095) / 4096 * 4096
  (listFind (fun i => runFree s die (d.saveBase.toNat + 4096 * i) n)
    (List.range ((d.saveLim.toNat - d.saveBase.toNat) / 4096))).map fun i => d.saveBase.toNat + 4096 * i

/-- The deadline of a save in ticks, by the priority of its launch (R421). -/
def saveTicks (prio : Nat) : Nat :=
  match prio with
  | 4 => 1000000 | 5 => 500000 | 6 => 200000 | 7 => 100000 | _ => 5000000

/-- Bits of a list of flags as a doubleword, the first lowest. -/
def flagWord (bs : List Bool) : Word := BitVec.ofNat 64 (bs.zipIdx.foldl (fun acc b => acc + b.1.toNat * 2 ^ b.2) 0)

/-- Four phase counters in a doubleword. -/
def phaseWord (w : Workgroup) (j : Nat) : Word :=
  BitVec.ofNat 64 ((List.range 4).foldl (fun acc i => acc + (mapGet ({} : Ring) w.rings (j + i)).phase.toNat * 2 ^ (16 * i)) 0)

/-- A binding's doubleword. -/
def bindWord (b : Binding) : Word :=
  BitVec.ofNat 64 (b.valid.toNat * 2 ^ 63 + b.warp % 32 * 2 ^ 58 + b.base.toNat * 2 ^ 8 + b.scale.toNat)

/-- An operand map's eight doublewords: the two pitches share one. -/
def mapWords (m : OperandMap) : List Word :=
  if m.valid then
    [m.elements, m.scales, m.pitch + m.scalePitch * 2 ^ 32, m.rows, m.rowBytes, m.fmt, m.swz, m.firstRow].map
      (BitVec.ofNat 64)
  else List.replicate 8 0

/-- Doublewords padded with zeros to a length. -/
def padWords (ws : List Word) (n : Nat) : List Word := ws ++ List.replicate (n - ws.length) 0

/-- Whether a save is late: after its deadline, or extended by a forced retrain (R369, R421). -/
def saveLate (s : State) (w : Workgroup) (prio : Nat) : Bool :=
  w.retrained.isSome || decide (saveTicks prio < (s.time - w.saveStart).toNat)

/-- The header of an image. BSTAMP has room for doublewords 1 to 4 of R405. -/
def headerWords (s : State) (k : Nat) : List Word :=
  let w := getWg s k
  let l := wgLaunch s w
  let r := l.record
  let c := getCore s w.core
  let prio := recPrio r
  padWords
    (padWords (padWords
      ([1, w.launch, w.wgid,
        BitVec.ofNat 64 (0x15 + (saveLate s w prio).toNat * 2 ^ 8 + w.retrained.isSome.toNat * 2 ^ 9 + 2 ^ 10 +
          (recAtag r != 0).toNat * 2 ^ 11 + c.actBank.toNat * 2 ^ 12),
        w.saveStart.zeroExtend 64, s.time.zeroExtend 64,
        (w.saveStart + BitVec.ofNat 48 (saveTicks prio)).zeroExtend 64, BitVec.ofNat 64 (w.retrained.getD 0),
        phaseWord w 0, phaseWord w 4,
        BitVec.ofNat 64 (w.band.isOpen.toNat * 2 ^ 63 + w.band.number.toNat * 2 ^ 32),
        if w.band.isOpen then w.band.opened.zeroExtend 64 else 0] ++
        (if w.band.isOpen then (bandStamps w.band none).take 4 else List.replicate 4 0) ++
        ((List.range 4).map fun i => bindWord (mapGet ({} : Binding) w.binds i))) 32 ++
      padWords r 16 ++ padWords l.roles 8) 128 ++
    ((List.range 16).flatMap fun n => mapWords (mapGet {} w.maps n))) 512

/-- An image's line with its poison marks. -/
structure ImageByte where
  byte : Byte
  bad : Bool
  deriving DecidableEq, Repr

/-- Bytes at homes with their poison. -/
def homeBytes (s : State) (place n : Nat) : List ImageByte :=
  (List.range n).map fun i => { byte := readByte s (place + i), bad := poisonedRun s (place + i) 1 }

/-- Doublewords as sound bytes. -/
def soundBytes (ws : List Word) : List ImageByte := (wordsBytes ws).map fun b => { byte := b, bad := false }

/-- The elements of a core's tile. -/
def tileBytes (c : Core) (t : Nat) : List ImageByte :=
  (List.range 16384).flatMap fun i =>
    (toBytes (mapGet (0 : BitVec 32) c.tiles (16384 * t + i)).toNat 4).map fun b =>
      { byte := b, bad := mapGet false c.tilePoison (16384 * t + i) }

/-- The first doublewords of a warp block, to the spill window; its REPC is written as zero (04 R102). -/
def contextWords (s : State) (key : Nat) : List Word :=
  let c := getCtx s key
  let t := { s with focus := ⟨key, (liveSlots c).headD 0⟩ }
  let batch := fun (b : Batch) =>
    [BitVec.ofNat 64 (b.number.toNat + b.complete.toNat * 2 ^ 16 + (if b.reported then 0 else b.errors.toNat) * 2 ^ 17),
      b.frow]
  let part := padWords
    ((List.range 64).map (fun n => (getS c n).val) ++
      [flagWord ((List.range 64).map fun n => (getS c n).fill == .full), flagWord ((List.range 64).map fun n => (getS c n).poison),
        flagWord ((List.range 8).map fun n => getP c n), 0] ++
      (List.range 8).map (getK c)) 96
  let part := padWords (part ++ (List.range 18).map fun n => if n = 3 then 0 else crValue t n) 128
  let part := part ++ strandTableWords c ++ serialTableWords c ++ ((List.range 4).flatMap fun n => laneCallWords (getLaneCall c n))
  let part := padWords part 480 ++ padWords c.ras 16 ++ [BitVec.ofNat 64 c.ras.length]
  let part := padWords part 512
  let cursors := (List.range 8).map fun i =>
    BitVec.ofNat 64 ((List.range 8).foldl (fun acc j => acc + (getCursor c (8 * i + j)).toNat * 2 ^ (8 * j)) 0)
  let recent := c.batches.drop (c.batches.length - 32)
  let part := padWords (part ++ cursors ++ [c.batchNumber.zeroExtend 64]) 528 ++ padWords (recent.flatMap batch) 64
  padWords (part ++ (List.range 8).map (mapGet (0 : Word) c.shapes)) 1024

/-- The registers of a warp block. -/
def registerWords (c : Ctx) (regs wide : Nat) : List Word :=
  let mask := fun (f : Reg → Bool) i => flagWord ((List.range 64).map fun l => f (getV c i l))
  (List.range 256).map (fun i => if i < regs then mask (fun r => r.fill == .full) i else 0) ++
    (List.range 256).map (fun i => if i < regs then mask (fun r => r.poison) i else 0) ++
    (List.range regs).flatMap fun i => (List.range (32 * wide)).map fun l => (getV c i l).val

/-- A warp's block (R423). -/
def warpBlockBytes (s : State) (key regs wide : Nat) : List ImageByte :=
  soundBytes (contextWords s key) ++ homeBytes s (spillPlace key 0) 16384 ++
    soundBytes (registerWords (getCtx s key) regs wide)

/-- The whole image of a workgroup. -/
def imageBytes (s : State) (k : Nat) : List ImageByte :=
  let w := getWg s k
  let r := wgRecord s k
  let c := getCore s w.core
  soundBytes (headerWords s k) ++ homeBytes s (groupPlace w.core w.gbase) w.glen ++
    (w.tiles.flatMap (tileBytes c)) ++
    (if recAtag r = 0 then [] else soundBytes ((List.range 2048).map (mapGet (0 : Word) c.acts))) ++
    (w.warps.flatMap fun key => warpBlockBytes s key (recRegs r) (if recWid r = 2 then 2 else 1))

/-- An image written by a die line by line under a key slot; nothing of it passes a frozen port (25 R479). -/
def writeImageLines (s : State) (die slot pa : Nat) (bs : List ImageByte) : Nat → State
  | 0 => s
  | n + 1 =>
    let line := bs.take 64
    let s := match mainPlace s pa with
      | none => s
      | some p =>
        if portFrozen s die p then s
        else
          let t := (mainWrite s p pa slot (line.map ImageByte.byte)).1
          line.zipIdx.foldl (fun t e => if e.1.bad then writeBytes t (p + e.2) [e.1.byte] true else t) t
    writeImageLines s die slot (pa + 64) (bs.drop 64) n

/-! ## A save (R419 to R421, R424) -/

/-- The workgroup of a launch and WGID that runs on a die. -/
def placedOn (s : State) (die : Nat) (launch wgid : Word) : Option Nat :=
  (listFind (fun e : Nat × Workgroup =>
      e.2.live && !e.2.away && !e.2.saving && !e.2.warps.isEmpty && e.2.core / 32 == die && e.2.launch == launch &&
        e.2.wgid == wgid && !(wgLaunch s e.2).ending)
    s.wgs).map Prod.fst

/-- The saves that run on a die. -/
def savesOn (s : State) (die : Nat) : Nat := (s.wgs.filter fun e => e.2.live && e.2.saving && e.2.core / 32 == die).length

/-- The idle strands of a warp go on (05 R129). -/
def endIdles (s : State) (key : Nat) : State := (List.range 8).foldl (fun s i => endIdle s ⟨key, i⟩) s

/-- A save begins: every warp stops, rate changes of the partition yield, and the save's completion is due. -/
def beginSave (s : State) (k kind image : Nat) : State :=
  let w := getWg s k
  let s := w.warps.foldl endIdles s
  let s := abortRetrains s w.part
  let d := getDie s (w.core / 32)
  let s := putDie s (w.core / 32) { d with images := d.images ++ [(k, image)] }
  later (putWg s k { getWg s k with saving := true, saveKind := kind, saveStart := s.time, image := image, retrained := none })
    (.event .saveCompletion { place := k })

/-- An accepted request starts its save: it waits while 4 saves run on the die; NOWG where the workgroup is not placed
there, REFUSED where the pool has no free run or the image key's slot is empty. -/
def startSave (s : State) (die kind : Nat) (i : Instr) : State :=
  let d := getDie s die
  match placedOn s die d.plaunch d.pwg with
  | none => busyFalls (putDie s die { d with psBusy := false, psNowg := true }) d.psBy
  | some k =>
    if 4 ≤ savesOn s die then again s (.event i { place := die, flag := true })
    else
      match (if keyLoaded s d.saveKey.toNat then findRun s die (imageSize (wgRecord s k)) else none) with
      | none => busyFalls (putDie s die { d with psBusy := false, psRefused := true }) d.psBy
      | some a => beginSave (putDie s die { d with psWg := k }) k kind a

/-- A store to PREQ: not performed while BUSY is 1; kinds 2 and 3 are dropped. -/
def storePreq (s : State) (die : Nat) (x : Word) (by_ : Nat) : Option State :=
  let d := getDie s die
  let kind := bf x 1 0
  if d.psBusy then none
  else if 2 ≤ kind then some s
  else
    some (startSave (putDie s die { d with psBusy := true, psRefused := false, psLate := false, psNowg := false, psBy := by_ })
      die kind (if kind = 0 then .saveAndRequeue else .saveAndHold))

/-- PSTAT. -/
def preStat (d : Die) : Word :=
  BitVec.ofNat 64 (d.psBusy.toNat + d.psRefused.toNat * 2 + d.psLate.toNat * 4 + d.psNowg.toNat * 8 +
    d.psCount.toNat * 2 ^ 32)

/-- A request as a step of the table: the store, or with `flag` the start of a request that waited its turn. -/
def saveRequest (s : State) (i : Instr) (kind : Nat) : State :=
  let a := s.input
  if 24 ≤ a.place then s
  else if a.flag then (if (getDie s a.place).psBusy && (getDie s a.place).psWg == 0 then startSave s a.place kind i else s)
  else (storePreq s a.place (BitVec.ofNat 64 kind) a.id).getD (again s (.event i a))

/-- SAVE_AND_REQUEUE (R419). -/
def execSaveAndRequeue (s : State) : Host.Outcome State Fault Refusal := .next (saveRequest s .saveAndRequeue 0)

/-- SAVE_AND_HOLD (R419). -/
def execSaveAndHold (s : State) : Host.Outcome State Fault Refusal := .next (saveRequest s .saveAndHold 1)

/-- Whether a span lies in the group-store allocation of a workgroup. -/
def spanIn (w : Workgroup) (sp : Span) : Bool :=
  match sp with
  | .group core off => core == w.core && decide (w.gbase ≤ off) && decide (off < w.gbase + w.glen)
  | _ => false

/-- Whether the tags of verify mode lie in an allocation. -/
def tagsIn (s : State) (w : Workgroup) (o : EngineOp) (r : Record) (verify : Bool) : Bool :=
  verify && spanIn w (spanAt s o.ctx r.tags)

/-- Whether a span lies in the spill-stack window. -/
def inSpill (sp : Span) : Bool :=
  match sp with
  | .virt va => regionOf va == .spill
  | .group _ _ | .image _ => false

/-- Whether an open operation holds a save back (R344, R394): a matrix operation of the workgroup, or a copy or
multicast that has still to read the allocation, its tags in verify mode included; and a band record that goes to a spill
stack of the workgroup, which the redirect of R424 does not follow (log entry 123). -/
def holdsSave (s : State) (k : Nat) (w : Workgroup) (o : EngineOp) : Bool :=
  match o.kind with
  | .matrix _ => o.wg == k
  | .copy r src _ _ verify _ _ => o.rows.isNone && (spanIn w src || tagsIn s w o r verify)
  | .mcast r src _ _ verify _ => o.rows.isNone && (spanIn w src || tagsIn s w o r verify)
  | .band dst _ => o.wg == k && inSpill dst

/-- The destination of an operation of the issuing strand's own, if it has one; a multicast's deliveries are `deliversTo`. -/
def destOf (k : EngineKind) : Option Span :=
  match k with
  | .copy _ _ dst _ _ _ _ => some dst
  | .band dst _ => some dst
  | .mcast _ _ _ _ _ _ | .matrix _ => none

/-- Whether an open multicast of a core has still to deliver to a workgroup (R334, R424). -/
def deliversTo (s : State) (core k : Nat) (o : EngineOp) : Bool :=
  match o.kind with
  | .mcast r _ off _ _ _ =>
    (o.left.any fun j => mcastTarget s o.wg j == some k) &&
      takesDelivery s (core / 32) k off (hullLength r.rows r.dpitch r.rb)
  | .copy _ _ _ _ _ _ _ | .band _ _ | .matrix _ => false

/-- Whether an open operation of a core writes into a workgroup's allocation. -/
def writesInto (s : State) (core k : Nat) (w : Workgroup) (o : EngineOp) : Bool :=
  deliversTo s core k o ||
    (match destOf o.kind with
     | some sp => spanIn w sp
     | none => false)

/-- Whether an open operation of a core writes into an image's group-store section. -/
def intoImage (s : State) (core k : Nat) (w : Workgroup) (o : EngineOp) : Bool :=
  deliversTo s core k o ||
    (match destOf o.kind with
     | some (.image pa) => decide (w.image ≤ pa) && decide (pa < w.image + 4096 + w.glen)
     | _ => false)

/-- Whether an open operation of a core needs a redirect of a workgroup: it writes into its allocation or image, or its
warp's batch table is there. -/
def needsRedirect (s : State) (core k : Nat) (w : Workgroup) (o : EngineOp) : Bool :=
  o.wg == k || writesInto s core k w o || intoImage s core k w o

/-- The open operations that need a redirect of a workgroup, each by its core and number. -/
def redirectedOps (s : State) (k : Nat) (w : Workgroup) : List (Nat × Nat) :=
  s.cores.flatMap fun c => (c.2.engine.filter (needsRedirect s c.1 k w)).map fun o => (c.1, o.id)

/-- The redirect entries of a core that are still needed (R424): one of the operations for which an entry was taken is open, or
one that has issued since is to reach the image. -/
def liveRedirects (s : State) (c : Core) : List Redirect :=
  c.redirects.filter fun e =>
    let w := getWg s e.wg
    (e.ops.any fun x => (findEngine s x.1 x.2).isSome) ||
      (w.live && w.away && w.image == e.image && !(redirectedOps s e.wg w).isEmpty)

/-- The redirected form of a span. -/
def redirectSpan (w : Workgroup) (sp : Span) : Span :=
  match sp with
  | .group _ off => if spanIn w sp then .image (w.image + 4096 + (off - w.gbase)) else sp
  | _ => sp

/-- An operation whose destination follows the redirect. -/
def redirectOp (w : Workgroup) (o : EngineOp) : EngineOp :=
  match o.kind with
  | .copy r src dst sp v il tc => { o with kind := .copy r src (redirectSpan w dst) sp v il tc }
  | .band dst n => { o with kind := .band (redirectSpan w dst) n }
  | _ => o

/-- The fills that an operation has marked pending, as they were. -/
def undoFills (c : Ctx) (fs : List (Bool × Nat × Fill)) : Ctx :=
  fs.foldl (fun c e =>
    if e.1 then putV c (e.2.1 / 64) (e.2.1 % 64) { getV c (e.2.1 / 64) (e.2.1 % 64) with fill := e.2.2 }
    else putS c e.2.1 { getS c e.2.1 with fill := e.2.2 }) c

/-- A strand that waits in a replay for the steps of an operation of which none is performed: the operation is as if it had not
issued, and is issued again on resumption. -/
def unissue (c : Ctx) (e : Nat × Strand) : Ctx :=
  match e.2.replayOp with
  | none => c
  | some r =>
    match findOp c r.id with
    | none => c
    | some o =>
      if o.accs.all fun a => !a.done then
        undoFills (putStrand (dropOp c r.id) e.1 { e.2 with replayOp := none }) r.undo
      else c

/-- The workgroup's accesses performed for its save (R420). In a replay, a step that comes too early is not performed (24 R475):
an operation with no step performed is taken back (log entry 124). -/
def settleSave (s : State) (w : Workgroup) : State :=
  w.warps.foldl (fun s key => let s := settleCtx s key; putCtx s key ((getCtx s key).strands.foldl unissue (getCtx s key))) s

/-- A workgroup whose launch left its queue re-enters the head of its queue (14 R287). -/
def requeueHead (s : State) (part id : Nat) : State :=
  let p := getPart s part
  let l := getLaunch p id
  if l.queued then s
  else
    let p := putLaunch p id { l with queued := true, headSince := s.time }
    putPart s part (putQueue p (recPrio l.record) (id :: getQueue p (recPrio l.record)))

/-- A workgroup with an image returned to its launch, ahead of every unplaced workgroup (14 R287). DESIGN CHOICE (log entry
100): of several, the one returned first is placed first. -/
def returnWg (s : State) (k : Nat) : State :=
  let w := getWg s k
  let id := w.launch.toNat
  let p := getPart s w.part
  let l := getLaunch p id
  let s := putPart s w.part (putLaunch p id { l with
    wgs := l.wgs.filter (· != k), returned := l.returned ++ [(k, w.image)] })
  attemptDue (requeueHead s w.part id) w.part

/-- What a saved warp holds beyond its block. -/
def keptCtx (c : Ctx) : Ctx := { c with sregs := [], vregs := [], ops := [], ks := [], live := false }

/-- The times that the forced retrains still under way have taken in a partition (18 R369). -/
def forcedTicks (s : State) (part : Nat) : List Nat :=
  (s.memStacks.filter fun e => e.2.retraining && e.2.forced && stackPart s e.1 == part).map
    fun e => (s.time - e.2.since).toNat

/-- A save whose end forced retrains overlap has its deadline extended by the time of each (18 R369). -/
def overlapForced (s : State) (w : Workgroup) : Workgroup := (forcedTicks s w.part).foldl extendSave w

/-- SAVE_COMPLETION (R420): once nothing holds it back, the accesses of the warps are performed, the image is written
with VALID set, the core's resources are free, and the workgroup is returned or held. A line that main memory holds is
waited for. -/
def saveCompletion (s : State) (k : Nat) : State :=
  let w := getWg s k
  if !(w.live && w.saving) || s.shutdown then s
  else
    let all := s.cores.flatMap fun c => c.2.engine
    let allOn := fun (p : Nat → EngineOp → Bool) => s.cores.any fun c => c.2.engine.any (p c.1)
    let core := getCore s w.core
    let flip := match core.actFlip with
      | some a => w.warps.contains a.key
      | none => false
    let redirects := liveRedirects s core
    let full := decide (16 ≤ redirects.length)
    if flip || all.any (holdsSave s k w) || (full && allOn fun c => writesInto s c k w) ||
        runHeld s w.image (imageSize (wgRecord s k)) then
      again s (.event .saveCompletion { place := k })
    else if w.warps.any (unsettled (settleSave s w)) then again (settleSave s w) (.event .saveCompletion { place := k })
    else
      let die := w.core / 32
      let s := settleActs (settleSave s w) w.core
      let s := w.warps.foldl decideLaunches s
      let s := w.warps.foldl (fun s key => putCtx s key (stopLwaits (getCtx s key))) s
      let s := putWg s k (overlapForced s (getWg s k))
      let w := getWg s k
      let late := saveLate s w (recPrio (wgRecord s k))
      let bytes := imageBytes s k
      let s := writeImageLines s die (getDie s die).saveKey.toNat w.image bytes ((bytes.length + 63) / 64)
      let kept := w.warps.map fun key => keptCtx (getCtx s key)
      let pending := w.warps.zipIdx.foldl
        (fun m e => mapPut (0, 0) m e.2 ((getCtx s e.1).pendErrors, (getCtx s e.1).pendFrow)) []
      let redirected := redirectedOps s k w
      let s := freeOnCore s k false
      let s := { s with cores := s.cores.map fun c => (c.1, { c.2 with engine := c.2.engine.map (redirectOp w) }) }
      let c := getCore s w.core
      let s := putCore s w.core { c with
        redirects := if full || redirected.isEmpty then redirects else redirects ++ [⟨k, w.image, redirected⟩] }
      let s := putWg s k { w with
        saving := false, away := true, savedOn := w.core, savedBase := w.gbase, warps := [], tiles := [], kept := kept, pending := pending }
      let d := getDie s die
      let d := { d with psCount := d.psCount + 1, pimage := BitVec.ofNat 64 w.image }
      let mine := d.psBusy && d.psWg == k
      let s := if mine then busyFalls (putDie s die { d with psBusy := false, psLate := late, psWg := 0 }) d.psBy
        else putDie s die d
      let s := if w.saveKind = 1 then s else returnWg s k
      startRetrains (attemptDue s w.part) w.part

/-- SAVE_COMPLETION. -/
def execSaveCompletion (s : State) : Host.Outcome State Fault Refusal := .next (saveCompletion s s.input.place)

/-! ## Holding and releasing (R427) -/

/-- A store to PREL: the held workgroup whose image it names is returned to its launch. -/
def storePrel (s : State) (die : Nat) (x : Word) : State :=
  let a := keep x 51 12
  match listFind (fun e : Nat × Nat =>
      e.2 == a.toNat && (getWg s e.1).away && (getWg s e.1).saveKind == 1) (getDie s die).images with
  | some (k, _) => returnWg (putWg s k { getWg s k with saveKind := 0 }) k
  | none => s

/-- PREL. -/
def execPrel (s : State) : Host.Outcome State Fault Refusal :=
  .next (if s.input.place < 24 then storePrel s s.input.place s.input.value else s)

/-! ## A restore (R425, R426) -/

/-- A strand read from a strand table, over what was kept of it, its mask cut to the lanes that its root can have (06 R132,
R136). -/
def strandOf (c : Ctx) (x : Strand) (d0 d1 d2 : Word) : Strand :=
  { x with
    valid := bitAt d1 63, mask := d0 &&& rootLanes c x.mask, parent := BitVec.ofNat 3 (bf d1 62 60)
    root := bitAt d1 59, stop := bitAt d1 57
    ca := BitVec.ofNat 64 (bf d1 54 0 * 4), wi := if bf d2 63 60 = 0 then 1 else BitVec.ofNat 4 (bf d2 63 60)
    begun := bf d2 63 60 != 0, jv := bitAt d2 59, jlen := BitVec.ofNat 3 (bf d2 58 56)
    jbase := BitVec.ofNat 8 (bf d2 55 48), ser := bitAt d2 47, sidx := BitVec.ofNat 3 (bf d2 46 44)
    psv := bitAt d2 43, psr := BitVec.ofNat 3 (bf d2 42 40), srepc := BitVec.ofNat 7 (bf d2 38 32)
    inRep := false, overD := 0, overA := 0, overB := 0, wait := .ready, pinned := false, readyCount := 0, waitCount := 0
    pinBack := false, inWait := false, lwait := none, rwait := none, secondPass := none, writing := [], cursorsWere := [] }

/-- A serial record read from its five doublewords, its masks cut to the lanes that the kept record's root can have (06 R132,
R136). -/
def serialOf (c : Ctx) (r : Serial) (d : List Word) : Serial :=
  let w := fun i => d.getD i 0
  let lanes := rootLanes c r.outer
  { bmask := w 0 &&& lanes, outer := w 1 &&& lanes, stage := BitVec.ofNat 2 (bf (w 2) 63 62)
    bca := BitVec.ofNat 64 (bf (w 2) 54 0 * 4)
    cca := BitVec.ofNat 64 (bf (w 3) 54 0 * 4), pv := bitAt (w 4) 63, pidx := BitVec.ofNat 3 (bf (w 4) 62 60)
    ajv := bitAt (w 4) 59, ajlen := BitVec.ofNat 3 (bf (w 4) 58 56), ajbase := BitVec.ofNat 8 (bf (w 4) 55 48)
    bjv := bitAt (w 4) 47, bjlen := BitVec.ofNat 3 (bf (w 4) 46 44), bjbase := BitVec.ofNat 8 (bf (w 4) 43 36)
    rsd := BitVec.ofNat 8 (bf (w 4) 35 28), rlc := BitVec.ofNat 4 (bf (w 4) 27 24) }

/-- A lane-call record read from its 72 doublewords, its masks cut to the lanes that its owner's root can have (06 R132,
R136). -/
def laneCallOf (c : Ctx) (seq : Nat) (d : List Word) : LaneCall :=
  let w := fun i => d.getD i 0
  let owner := BitVec.ofNat 3 (bf (w 2) 62 60)
  let lanes := rootLanes c (getStrand c owner.toNat).mask
  if bitAt (w 2) 63 then
    { valid := true, owner := owner, outer := w 0 &&& lanes, pending := w 1 &&& lanes, seq := seq,
      targets := (lanesOf (w 1 &&& lanes)).filterMap fun l => if w (8 + l) = 0 then none else some (l, w (8 + l)) }
  else {}

/-- A run of an image's doublewords. -/
def imageWords (s : State) (pa n : Nat) : List Word := (List.range n).map fun i => readImage s (pa + 8 * i)

/-- Whether a byte of an image is poisoned or its line has failed. -/
def imageBad (s : State) (pa : Nat) : Bool :=
  match physPlace s pa (saveSlot s pa) with
  | .home p => poisonedRun s p 1
  | .main p pa slot => poisonedRun s p 1 || !lineOk s p pa slot
  | .fails _ | .waits => true

/-- A register file's entry from its value and its two flags. -/
def regOf (v : Word) (full bad : Bool) : Reg := { val := v, fill := if full then .full else .empty, poison := bad }

/-- A sparse map over the first `n` keys. -/
def mapOfFn {α : Type} [DecidableEq α] (d : α) (n : Nat) (f : Nat → α) : List (Nat × α) :=
  (List.range n).filterMap fun i => if f i = d then none else some (i, f i)

/-- A warp's context read from its block, over what was kept of it. DESIGN CHOICE: the registers of absent lanes (log entry 111) and
STATUS.WMODE (log entry 112) are the image's. -/
def ctxOf (s : State) (c : Ctx) (pa regs wide : Nat) : Ctx :=
  let w := fun off => readImage s (pa + off)
  let cr := fun n => w (0x300 + 8 * n)
  let sreg := fun n => if n = 0 then ({} : Reg) else
    regOf (w (8 * n)) (bitAt (w 0x200) n) (bitAt (w 0x208) n || imageBad s (pa + 8 * n))
  let lanes := 32 * wide
  let vreg := fun i =>
    let r := i / 64
    let l := i % 64
    if regs ≤ r ∨ lanes ≤ l then ({} : Reg)
    else regOf (w (0x7000 + 256 * wide * r + 8 * l)) (bitAt (w (0x6000 + 8 * r)) l)
      (bitAt (w (0x6800 + 8 * r)) l || imageBad s (pa + 0x7000 + 256 * wide * r + 8 * l))
  let strand := fun i => strandOf c (getStrand c i) (w (0x400 + 24 * i)) (w (0x408 + 24 * i)) (w (0x410 + 24 * i))
  let batch := fun n =>
    let b := w (0x1080 + 16 * n)
    ({ number := BitVec.ofNat 16 (bf b 15 0), complete := bitAt b 16, errors := BitVec.ofNat 7 (bf b 23 17),
       frow := w (0x1088 + 16 * n) } : Batch)
  { c with
    sregs := mapOfFn {} 64 sreg
    preds := BitVec.ofNat 8 (bf (w 0x210) 7 1 * 2)
    ks := mapOfFn 0 8 fun n => w (0x220 + 8 * n) &&& widthMask { c with status := BitVec.ofNat 12 (cr 0).toNat }
    vregs := mapOfFn {} (64 * regs) vreg
    status := BitVec.ofNat 12 (cr 0).toNat, xb := BitVec.ofNat 8 (cr 1).toNat, fflags := BitVec.ofNat 6 (cr 2).toNat
    tvec := cr 4, tframe := cr 5, mxlease := BitVec.ofNat 11 (cr 6).toNat, bandbase := cr 7
    asid := BitVec.ofNat 16 (cr 0xC).toNat, sizing := bitAt (cr 0xE) 0, scratch0 := cr 0x10, scratch1 := cr 0x11
    strands := mapOfFn {} 8 strand
    serials := mapOfFn {} 8 fun i => serialOf c (getSerial c i) (imageWords s (pa + 0x4C0 + 40 * i) 5)
    laneCalls := mapOfFn {} 4 fun n => laneCallOf c (getLaneCall c n).seq (imageWords s (pa + 0x600 + 0x240 * n) 72)
    ras := (imageWords s (pa + 0xF00) 16).take (bf (w 0xF80) 4 0)
    cursors := mapOfFn 0 64 fun l => BitVec.ofNat 7 (bf (w (0x1000 + l / 8 * 8)) (8 * (l % 8) + 6) (8 * (l % 8)))
    batchNumber := BitVec.ofNat 16 (w 0x1040).toNat
    batches := c.batches.take (c.batches.length - 32) ++
      ((List.range (min 32 c.batches.length)).map batch)
    shapes := mapOfFn 0 8 fun n => w (0x1280 + 8 * n) }

/-- A shape register as a restore on a die leaves it: revoked where the die does not support its grant (19 R374). -/
def revokeShape (die : Nat) (w : Word) : Word :=
  let x := shapeOf w
  if bitAt w 63 && !((supportedM die).contains x.gm && supportedN.contains x.gn && (supportedK x.fmt).contains x.gk) then
    (w &&& ~~~ (BitVec.ofNat 64 (2 ^ 63))) ||| BitVec.ofNat 64 (2 ^ 62)
  else w

/-- Bytes of an image copied to homes with their poison. -/
def loadHomes (s : State) (pa place n : Nat) : State :=
  let bs := (List.range n).map fun i =>
    ({ byte := (readEngine s (physPlace s (pa + i) (saveSlot s (pa + i)))).1.1, bad := imageBad s (pa + i) } : ImageByte)
  let s := writeBytes s place (bs.map ImageByte.byte)
  bs.zipIdx.foldl (fun t e => if e.1.bad then writeBytes t (place + e.2) [e.1.byte] true else t) s

/-- A tile loaded from an image. -/
def loadTile (s : State) (pa : Nat) (c : Core) (t : Nat) : Core :=
  (List.range 16384).foldl
    (fun c i => { c with
      tiles := mapPut 0 c.tiles (16384 * t + i)
        (BitVec.ofNat 32 (bf (readImage s (pa + i / 2 * 8)) (32 * (i % 2) + 31) (32 * (i % 2))))
      tilePoison := mapPut false c.tilePoison (16384 * t + i) (imageBad s (pa + 4 * i)) }) c

/-- Tiles loaded one after the other. -/
def loadTiles (s : State) (pa : Nat) (c : Core) : List Nat → Core
  | [] => c
  | t :: rest => loadTiles s (pa + 65536) (loadTile s pa c t) rest

/-- Warps loaded from their blocks in WARPID order; one without a live strand has retired. -/
def loadWarps (s : State) (k : Nat) (r : List Word) : List (Nat × Nat) → State
  | [] => s
  | (key, i) :: rest =>
    let w := getWg s k
    let pa := warpBlock s k i
    let c := ctxOf s (w.kept.getD i {}) pa (recRegs r) (if recWid r = 2 then 2 else 1)
    let e := mapGet ((0 : BitVec 7), (0 : Word)) w.pending i
    let c := { c with
      live := !(liveSlots c).isEmpty, wg := k, nextOp := (getCtx s key).nextOp, pendErrors := e.1, pendFrow := e.2
      shapes := c.shapes.map fun x => (x.1, revokeShape (keyDie key) x.2) }
    let s := loadHomes s (pa + 0x2000) (spillPlace key 0) 16384
    loadWarps (putCtx s key c) k r rest

/-- An open operation of a restored workgroup belongs to its warp's new place. -/
def adoptOp (k : Nat) (keys : List Nat) (o : EngineOp) : EngineOp :=
  if o.wg = k then { o with ctx := keys.getD o.warp o.ctx } else o

/-- A hull of a restored workgroup's operation on its new core: one in the allocation that it had lies at the same offsets of
the new one. -/
def movedHull (w : Workgroup) (h : Hull) : Hull :=
  if h.group && decide (w.savedBase ≤ h.lo) && decide (h.lo < w.savedBase + w.glen) then
    { h with lo := w.gbase + (h.lo - w.savedBase), hi := w.gbase + (h.hi - w.savedBase) }
  else h

/-- The entries that a restored workgroup's open operations take on its new core, with their hulls (R425): those that stand
there already as they are, are not taken again. -/
def adoptLocks (s : State) (k core : Nat) : List Lock :=
  let w := getWg s k
  if w.warps.isEmpty then []
  else
    s.cores.flatMap fun c =>
      (c.2.locks.filter fun e =>
        c.1 == w.savedOn && ((getCore s e.core).engine.any fun o => o.id == e.op && o.wg == k)).filterMap fun e =>
          let moved := { e with hulls := e.hulls.map (movedHull w) }
          if (getCore s core).locks.contains moved then none else some moved

/-- Whether a run of main memory lies in part beyond a die's frozen port (25 R479). -/
def runCut (s : State) (die pa n : Nat) : Bool :=
  (getDie s die).frozen && (List.range ((n + 63) / 64)).any fun i =>
    match mainPlace s (pa + 64 * i) with
    | some p => portFrozen s die p
    | none => false

/-- RESTORE (R425): once no redirected operation is open, the new core's table has room and main memory holds no line of it,
the image is loaded, with the activation tables where the core held no workgroup at the placement (R426), the shape
registers are revoked against the new die, and the strands go on, the loads of their windows started (09 R197). -/
def restoreWg (s : State) (k : Nat) : State :=
  let w := getWg s k
  if !(w.live && w.away) || w.warps.isEmpty then s
  else
    let locks := adoptLocks s k w.core
    if (s.cores.any fun c => c.2.engine.any (intoImage s c.1 k w)) || !lockRoom (getCore s w.core) locks.length ||
        runHeld s w.image (imageSize (wgRecord s k)) || runCut s (w.core / 32) w.image (imageSize (wgRecord s k)) then
      again s (.event .restore { place := k })
    else
      let r := wgRecord s k
      let s := loadHomes s (w.image + 4096) (groupPlace w.core w.gbase) w.glen
      let c := getCore s w.core
      let tilesPa := w.image + 4096 + w.glen
      let c := loadTiles s tilesPa c w.tiles
      let actsPa := tilesPa + 65536 * w.tiles.length
      let c := if recAtag r != 0 && w.alone then
          { c with acts := mapOfFn 0 2048 fun i => readImage s (actsPa + 8 * i),
                   actBank := bitAt (readImage s (w.image + 0x18)) 12 }
        else c
      let s := putCore s w.core { c with locks := c.locks ++ locks }
      let s := loadWarps s k r w.warps.zipIdx
      let s := { s with
        cores := s.cores.map fun c => (c.1, { c.2 with engine := c.2.engine.map (adoptOp k w.warps) })
        dies := s.dies.map fun d => (d.1, { d.2 with images := d.2.images.filter fun e => e.1 != k }) }
      let s := putWg s k { getWg s k with away := false, saveKind := 0, kept := [], pending := [], retrained := none }
      startLoads s (w.warps.flatMap fun key => (liveSlots (getCtx s key)).map fun i => ⟨key, i⟩)

/-- RESTORE. -/
def execRestore (s : State) : Host.Outcome State Fault Refusal := .next (restoreWg s s.input.place)

/-! ## The carder's pre-emptions (14 R281) -/

/-- The wait before pre-emption in ticks, by priority. -/
def preemptTicks (prio : Nat) : Option Nat :=
  match prio with
  | 4 => some 2000000 | 5 => some 500000 | 6 => some 100000 | 7 => some 20000 | _ => none

/-- The workgroups that a head may pre-empt: on its eligible cores, of a lower priority, running. -/
def victims (s : State) (part id : Nat) : List (Nat × Workgroup) :=
  let l := getLaunch (getPart s part) id
  let cores := (namedCores s part l.record).filter (eligible s part id)
  s.wgs.filter fun e =>
    e.2.live && !e.2.away && !e.2.saving && e.2.part == part && cores.contains e.2.core &&
      decide (recPrio (wgLaunch s e.2).record < recPrio l.record)

/-- The one of lowest priority and, among those, the most recently placed. -/
def chooseVictim (s : State) : List (Nat × Workgroup) → Option (Nat × Workgroup)
  | [] => none
  | e :: rest =>
    match chooseVictim s rest with
    | none => some e
    | some b =>
      let p := fun (x : Nat × Workgroup) => recPrio (wgLaunch s x.2).record
      if p e < p b ∨ (p e = p b ∧ b.2.placedAt < e.2.placedAt) then some e else some b

/-- Whether the head of a queue may start a pre-emption: it has waited its limit without placing, no save that the carder
made for the partition runs, and it fits nowhere now. -/
def mustPreempt (s : State) (part id limit : Nat) : Bool :=
  decide (limit ≤ (s.time - (getLaunch (getPart s part) id).headSince).toNat) &&
    !((savesIn s part).any fun e => e.2.saveKind == 2) && (placeNext s part id).isNone

/-- CARDER_PREEMPTION (R281): the head of queue `id` of partition `place`, having waited its limit, has a victim saved and
requeued, one save after the other until it fits; a head that fits is placed by an attempt. Without a free run in the pool
the next retirement tries again (21 R419). -/
def execCarderPreemption (s : State) : Host.Outcome State Fault Refusal :=
  let part := s.input.place
  let prio := s.input.id
  let watch := again s (.event .carderPreemption { place := part, id := prio })
  .next (match preemptTicks prio, (getQueue (getPart s part) prio).head? with
    | some limit, some id =>
      let l := getLaunch (getPart s part) id
      if unplaced l = false ∨ l.ending = true then s
      else if mustPreempt s part id limit = false then
        (if (placeNext s part id).isSome then attemptDue watch part else watch)
      else
        match chooseVictim s (victims s part id) with
        | none => watch
        | some (k, w) =>
          let die := w.core / 32
          if 4 ≤ savesOn s die then watch
          else if keyLoaded s (getDie s die).saveKey.toNat = false then s
          else
            match findRun s die (imageSize (wgRecord s k)) with
            | none => s
            | some a => again (beginSave s k 2 a) (.event .carderPreemption { place := part, id := prio })
    | _, _ => s)

end Sys2Proof.Machine
end

