-- ==== Sys2Proof/Machine/Hub.lean ====
section
/-! DEFINITION. The hub dies: the host's and the storage devices' accesses, messages, seals of image blocks, and the
scale-out block (22 R433 to R443). -/

namespace Sys2Proof.Machine

open Sys2Proof

/-! ## Freezing masters (25 R479) -/

/-- A hub's storage port. -/
def getPort (h : Hub) (n : Nat) : StoragePort := mapGet {} h.ports n
def putPort (h : Hub) (n : Nat) (x : StoragePort) : Hub := { h with ports := mapPut {} h.ports n x }

/-- A system core is frozen: what it has issued and not performed is dropped, and it issues nothing more. -/
def freezeSystemCore (s : State) (c : Nat) : State :=
  let d := getDie s (c / 2)
  let s := putDie s (c / 2) (putSc d (c % 2) { getSc d (c % 2) with frozen := true })
  let x := getCtx s (systemBase + c)
  logEvent (putCtx s (systemBase + c) { x with ops := [] }) (.freeze (.systemCore c)) (some (partOf s (c / 2)))

/-- A master that violates access control is frozen, and the event is logged; hub ports belong to the partition that
holds die 0. -/
def freezeMaster (s : State) (m : Master) : State :=
  match m with
  | .systemCore c => freezeSystemCore s c
  | .diePort die => freezeDie s die
  | .storage p =>
    let h := getHub s (p / 4)
    logEvent (putHub s (p / 4) (putPort h (p % 4) { getPort h (p % 4) with frozen := true, posted := [] })) (.freeze m)
      (some 0)
  | .hostPort h => logEvent (putHub s h { getHub s h with frozen := true, posted := [] }) (.freeze m) (some 0)

/-- A system core reset: it does not run, and its context is that of a core that has not started. -/
def resetSystemCore (s : State) (c : Nat) : State :=
  let d := getDie s (c / 2)
  let s := putDie s (c / 2) (putSc d (c % 2) { getSc d (c % 2) with running := false, stopped := false, frozen := false })
  putCtx s (systemBase + c) { nextOp := (getCtx s (systemBase + c)).nextOp }

/-- The monitor resets a master, which lifts its freeze. -/
def resetMaster (s : State) (m : Master) : State :=
  match m with
  | .systemCore c => if c < 48 then resetSystemCore s c else s
  | .diePort die => if die < 24 then putDie s die { getDie s die with frozen := false } else s
  | .storage p =>
    if p < 8 then
      let h := getHub s (p / 4)
      putHub s (p / 4) (putPort h (p % 4) { getPort h (p % 4) with frozen := false })
    else s
  | .hostPort h => if h < 2 then putHub s h { getHub s h with frozen := false } else s

/-- Whether a master exists. -/
def masterExists (m : Master) : Bool :=
  match m with
  | .systemCore c => decide (c < 48)
  | .diePort die => decide (die < 24)
  | .storage p => decide (p < 8)
  | .hostPort h => decide (h < 2)

/-- FREEZE (25 R479). -/
def execFreeze (s : State) : Host.Outcome State Fault Refusal :=
  .next (if masterExists s.input.master then freezeMaster s s.input.master else s)

/-- MASTER_RESET (25 R479). -/
def execMasterReset (s : State) : Host.Outcome State Fault Refusal := .next (resetMaster s s.input.master)

/-! ## Accesses from a bus (R434) -/

/-- The place of a physical byte for the host or a device under a key slot; none is an Unsupported Request: an empty
slot, an unpopulated address, or an enabled sibling region or batt area. -/
def busPlace (s : State) (slot pa : Nat) : Option EnginePlace :=
  match physPlace s pa slot with
  | .main p a k => if keyLoaded s slot then some (.main p a k) else none
  | .home p => if siblingEnabled s (homeDie p) && decide (headerBase (homeDie p) ≤ p) then none else some (.home p)
  | .fails _ | .waits => none

/-- The places of a run, if every byte has one. -/
def busPlaces (s : State) (slot pa : Nat) : Nat → Option (List EnginePlace)
  | 0 => some []
  | n + 1 =>
    match busPlace s slot pa, busPlaces s slot (pa + 1) n with
    | some p, some ps => some (p :: ps)
    | _, _ => none

/-- A read's answer: bytes, poisoned where some byte is or lies in a failed line. -/
def busRead (s : State) (ps : List EnginePlace) : Reply :=
  let rs := ps.map (readEngine s)
  let bytes := rs.map fun r => r.1.1
  if rs.all fun r => r.1.2 == 0 then .data bytes else .poisoned bytes

/-- A write's bytes. -/
def busWrite (s : State) (ps : List EnginePlace) (data : List Byte) : State :=
  (writeOut s ((ps.zip data).map fun e => { place := e.1, byte := e.2, bad := false })).1

/-- An answer sent by a hub. -/
def busAnswer (s : State) (h : Nat) (r : Reply) : State :=
  let x := getHub s h
  putHub s h { x with replies := x.replies ++ [r] }

/-- An access of a run under a key slot: a read is answered, a write is performed, and an unsupported one is answered so
or dropped. None where main memory holds a byte just now. -/
def busAccess (s : State) (h slot pa : Nat) (a : BusAccess) : Option State :=
  let n := if a.data.isEmpty then a.count else a.data.length
  match busPlaces s slot pa n with
  | none => some (if a.data.isEmpty then busAnswer s h .unsupported else s)
  | some ps =>
    if ps.any (engineHeld s) then none
    else if a.data.isEmpty then some (busAnswer s h (busRead s ps))
    else some (busWrite s ps a.data)

/-! ## BAR0: the MSI-X table (R434, R435) -/

/-- A byte of BAR0's table, which at reset is zero but for every vector's mask bit. -/
def tableByte (h : Hub) (o : Nat) : Byte := mapGet 0 h.msixTable o ^^^ (if o % 16 = 12 then 1 else 0)

/-- A table byte written. -/
def putTable (h : Hub) (o : Nat) (b : Byte) : Hub :=
  { h with msixTable := mapPut 0 h.msixTable o (b ^^^ (if o % 16 = 12 then 1 else 0)) }

/-- A number in the table. -/
def tableNat (h : Hub) (o n : Nat) : Nat := ofBytes ((List.range n).map fun i => tableByte h (o + i))

/-- Whether a vector is masked. -/
def vectorMasked (h : Hub) (v : Nat) : Bool := (tableByte h (16 * v + 12)).getLsbD 0

/-- A byte of BAR0. -/
def barByte (h : Hub) (o : Nat) : Byte :=
  if o < 1024 then tableByte h o
  else if within o 0x80000 0x80008 then BitVec.ofNat 8 (bf h.msixPending (8 * (o - 0x80000) + 7) (8 * (o - 0x80000)))
  else 0

/-- The message of a vector sent, or pending while it is masked. -/
def sendVector (h : Hub) (v : Nat) : Hub :=
  if vectorMasked h v then { h with msixPending := h.msixPending ||| BitVec.ofNat 64 (2 ^ v) }
  else
    { h with
      msixPending := h.msixPending &&& ~~~ BitVec.ofNat 64 (2 ^ v)
      outbound := h.outbound ++
        [.message (BitVec.ofNat 64 (tableNat h (16 * v) 8)) (BitVec.ofNat 32 (tableNat h (16 * v + 8) 4))] }

/-- The pending vectors that are no longer masked are sent. -/
def sendPending (h : Hub) : Hub :=
  (List.range 64).foldl
    (fun h v => if h.msixPending.getLsbD v && !vectorMasked h v then sendVector h v else h) h

/-- A write to BAR0: only the table takes it. -/
def barWrite (h : Hub) (o : Nat) (bs : List Byte) : Hub :=
  sendPending (bs.zipIdx.foldl (fun h e => if o + e.2 < 1024 then putTable h (o + e.2) e.1 else h) h)

/-- A store to HMSIX. -/
def storeHmsix (s : State) (h : Nat) (x : Word) : State := putHub s h (sendVector (getHub s h) (bf x 5 0))

/-- HMSIX. -/
def execHmsix (s : State) : Host.Outcome State Fault Refusal :=
  .next (if s.input.place < 2 then storeHmsix s s.input.place s.input.value else s)

/-! ## The host (R434, R436) -/

/-- An access through BAR2: offset o reaches HWINBASE + o under HKEY. -/
def windowAccess (s : State) (h : Nat) (a : BusAccess) : Option State :=
  let x := getHub s h
  let n := if a.data.isEmpty then a.count else a.data.length
  if 2 ^ 36 < a.offset + n then some (if a.data.isEmpty then busAnswer s h .unsupported else s)
  else busAccess s h x.hkey.toNat (x.hwinBase.toNat + a.offset) a

/-- An access of BAR0. -/
def tableAccess (s : State) (h : Nat) (a : BusAccess) : State :=
  let x := getHub s h
  if a.data.isEmpty then busAnswer s h (.data ((List.range a.count).map fun i => barByte x (a.offset + i)))
  else putHub s h (barWrite x a.offset a.data)

/-- An access of the host performed, or none where it must wait. -/
def hostAct (h : Nat) (s : State) (w : PortWork) : Option State :=
  match w with
  | .access a => if a.bar = 0 then some (tableAccess s h a) else windowAccess s h a
  | .message _ => some s

/-- What has arrived at a port performed in turn, up to what must wait (15 R301): the state and what still waits. -/
def drainPort (act : State → PortWork → Option State) (s : State) : List PortWork → State × List PortWork
  | [] => (s, [])
  | w :: rest =>
    match act s w with
    | some t => drainPort act t rest
    | none => (s, w :: rest)

/-- The host's accesses at a hub performed in the order of their arrival; those that wait are tried again. -/
def hostArrives (s : State) (h : Nat) (ws : List PortWork) : State :=
  let r := drainPort (hostAct h) (putHub s h { getHub s h with posted := [] }) ((getHub s h).posted ++ ws)
  let s := putHub r.1 h { getHub r.1 h with posted := r.2 }
  if r.2.isEmpty then s else again s (.event .hostBarAccess { place := h, flag := true })

/-- HOST_BAR_ACCESS (R434): an access arrives, or with `flag` those that wait are tried again. A frozen host port issues
nothing. -/
def execHostBarAccess (s : State) : Host.Outcome State Fault Refusal :=
  let h := s.input.place
  .next (if 2 ≤ h ∨ (getHub s h).frozen = true then s
    else hostArrives s h (if s.input.flag then [] else [.access s.input.acc]))

/-- CXL_MEM_ACCESS (R436): an access of CXL.mem behaves as one of BAR2, once the host has enabled CXL.mem. -/
def execCxlMemAccess (s : State) : Host.Outcome State Fault Refusal :=
  let h := s.input.place
  let x := getHub s h
  .next (if 2 ≤ h ∨ x.frozen = true then s
    else if x.cxlOn then hostArrives s h [.access { s.input.acc with bar := 2 }]
    else if s.input.acc.data.isEmpty then busAnswer s h .unsupported else s)

/-- HOST_LINK_STATE (R433). -/
def execHostLinkState (s : State) : Host.Outcome State Fault Refusal :=
  .next (if s.input.place < 2 then putHub s s.input.place { getHub s s.input.place with linkUp := s.input.flag } else s)

/-- CXL_MEM_ENABLE (R433). -/
def execCxlMemEnable (s : State) : Host.Outcome State Fault Refusal :=
  .next (if s.input.place < 2 then putHub s s.input.place { getHub s s.input.place with cxlOn := s.input.flag } else s)

/-- HSTAT. -/
def hubStat (h : Hub) : Word := BitVec.ofNat 64 (h.linkUp.toNat + h.cxlOn.toNat * 2)

/-- A write of a system core through the host window: it goes out to host physical HOSTBASE + o. -/
def hostWrite (s : State) (h off : Nat) (bs : List Byte) : State :=
  let x := getHub s h
  putHub s h { x with outbound := x.outbound ++ [.host ((x.hostBase.toNat + off) % 2 ^ 64) bs] }

/-! ## Storage (R437) -/

/-- Whether a DMA's bytes all lie from SWINBASE to SWINLIM of its port. -/
def inPortWindow (p : StoragePort) (a : BusAccess) : Bool :=
  let n := if a.data.isEmpty then a.count else a.data.length
  decide (p.winBase.toNat ≤ a.offset) && decide (a.offset + n ≤ p.winLim.toNat)

/-- A message written at a storage port (R437): it sets IPEND[2] and a bit of SCVEC of the core that SIRQ names, or is
dropped and counted. -/
def deviceMessage (s : State) (p : Nat) (data : Word) : State :=
  let port := getPort (getHub s (p / 4)) (p % 4)
  let c := port.irqCore.toNat
  if port.irqEnable && decide (c < 48) && partOf s (c / 2) == 0 then
    let d := getDie s (c / 2)
    let x := getSc d (c % 2)
    let s := putDie s (c / 2) (putSc d (c % 2) { x with vec := x.vec ||| BitVec.ofNat 64 (2 ^ (data.toNat % 64)) })
    setIpend s c 2
  else
    let h := getHub s (p / 4)
    let s := putHub s (p / 4) (putPort h (p % 4) { port with dropped := port.dropped + 1 })
    { s with log := s.log ++ [.messageDropped p] }

/-- A DMA or a message of storage port `p` acted on, or none where it must wait: a write into the port's message range is claimed
as a message (log entry 125); a DMA in the port's window is performed under
SKEY; any other is an Unsupported Request and its master is frozen (R437). -/
def storageAct (p : Nat) (s : State) (w : PortWork) : Option State :=
  let port := getPort (getHub s (p / 4)) (p % 4)
  if port.frozen then some s
  else
    match w with
    | .message data => some (deviceMessage s p data)
    | .access a =>
      if !a.data.isEmpty && decide (0xFFFFF000 ≤ a.offset) && decide (a.offset < 2 ^ 32) then
        some (deviceMessage s p (BitVec.ofNat 64 (ofBytes a.data)))
      else if inPortWindow port a then busAccess s (p / 4) port.key.toNat a.offset a
      else some (freezeMaster (if a.data.isEmpty then busAnswer s (p / 4) .unsupported else s) (.storage p))

/-- What waits at a storage port. -/
def setPosted (s : State) (p : Nat) (ws : List PortWork) : State :=
  let h := getHub s (p / 4)
  putHub s (p / 4) (putPort h (p % 4) { getPort h (p % 4) with posted := ws })

/-- What a storage device does arrives at its port and is acted on in order; what waits is tried again. -/
def storageArrives (s : State) (p : Nat) (ws : List PortWork) : State :=
  let r := drainPort (storageAct p) (setPosted s p []) ((getPort (getHub s (p / 4)) (p % 4)).posted ++ ws)
  let s := setPosted r.1 p r.2
  if r.2.isEmpty then s else again s (.event .nvmeDma { place := p, flag := true })

/-- NVME_DMA (R437): a DMA of storage port `place` arrives, or with `flag` what waits there is tried again. -/
def execNvmeDma (s : State) : Host.Outcome State Fault Refusal :=
  let p := s.input.place
  .next (if 8 ≤ p ∨ (getPort (getHub s (p / 4)) (p % 4)).frozen = true then s
    else storageArrives s p (if s.input.flag then [] else [.access s.input.acc]))

/-- STORAGE_MESSAGE (R437): a message arrives after every data write that the device made before it. -/
def execStorageMessage (s : State) : Host.Outcome State Fault Refusal :=
  let p := s.input.place
  .next (if 8 ≤ p ∨ (getPort (getHub s (p / 4)) (p % 4)).frozen = true then s
    else storageArrives s p [.message s.input.value])

/-- A write of a system core to a port's downstream space: a message where it lies in the message range, else a write
that goes out to the device. -/
def deviceWrite (s : State) (p off : Nat) (bs : List Byte) : State :=
  if 0xFFFFF000 ≤ off then deviceMessage s p (BitVec.ofNat 64 (ofBytes bs))
  else
    let x := getHub s (p / 4)
    putHub s (p / 4) { x with outbound := x.outbound ++ [.device p off bs] }

/-! ## Seals (R441) -/

/-- The key slot of hub 0's host accesses, under which seals and mailbox blocks are read. -/
def hubKey (s : State) (h : Nat) : Nat := (getHub s h).hkey.toNat

/-- Main-memory bytes of a run under a key slot, if every byte is readable. -/
def readMain (s : State) (slot pa n : Nat) : Option (List Byte) :=
  let ps := (List.range n).map fun i => physPlace s (pa + i) slot
  let main := ps.all fun p =>
    match p with
    | .main _ _ _ => true
    | _ => false
  if main && keyLoaded s slot then
    match busRead s ps with
    | .data bs => some bs
    | _ => none
  else none

/-- Bytes of a run of main memory or die store under a key slot, if every byte is readable. -/
def readBlock (s : State) (slot pa n : Nat) : Option (List Byte) :=
  match busPlaces s slot pa n with
  | none => none
  | some ps =>
    match busRead s ps with
    | .data bs => some bs
    | _ => none

/-- A store to SEALGO: not performed while BUSY is 1. -/
def storeSealgo (s : State) (die : Nat) (x : Word) (by_ : Nat) : Option State :=
  let d := getDie s die
  if d.sealBusy then none
  else
    some (later (putDie s die { d with
        sealBusy := true, sealEmpty := false, sealMemerr := false, sealGo := keep x 47 0, sealBy := by_ })
      (.event .sealComplete { place := die }))

/-- SEALSTAT. -/
def sealStat (d : Die) : Word :=
  BitVec.ofNat 64 (d.sealBusy.toNat + d.sealEmpty.toNat * 2 + d.sealMemerr.toNat * 4 + d.sealCount.toNat * 2 ^ 32)

/-- The tag of a row (17 R332). -/
def rowTag (key : List Byte) (nonce : Word) (row : Nat) (bs : List Byte) : List Byte :=
  gmac64 key (bigEndian nonce.toNat 8 ++ bigEndian (row % 2 ^ 32) 4) bs

/-- The rows of a seal from row `i` on: each tag is written, up to an empty slot or an unreadable row. -/
def sealRows (s : State) (die i : Nat) : Nat → State
  | 0 => s
  | n + 1 =>
    let d := getDie s die
    let slot := hubKey s 0
    match (getKey s 1 (bf d.sealGo 35 28)).key with
    | none => putDie s die { d with sealEmpty := true }
    | some key =>
      match readMain s slot (d.sealSrc.toNat + i * d.sealPit.toNat) (8 * (bf d.sealGo 27 12 + 1)) with
      | none => putDie s die { d with sealMemerr := true }
      | some bs =>
        let pl := (List.range 8).map fun k => physPlace s (d.sealDst.toNat + 8 * i + k) slot
        if pl.any fun p => (match p with | .main _ _ _ => false | _ => true) then
          putDie s die { d with sealMemerr := true }
        else
          let r := writeOut s ((pl.zip (rowTag key d.sealNonce (d.sealRow.toNat + i) bs)).map fun e =>
            { place := e.1, byte := e.2, bad := false })
          if r.2 = 0 then sealRows r.1 die (i + 1) n else putDie s die { d with sealMemerr := true }

/-- Whether main memory holds a row that a seal reads, or a tag that it writes, just now. -/
def sealHeld (s : State) (d : Die) : Bool :=
  let n := bf d.sealGo 11 0 + 1
  runHeld s d.sealDst.toNat (8 * n) ||
    (List.range n).any fun i => runHeld s (d.sealSrc.toNat + i * d.sealPit.toNat) (8 * (bf d.sealGo 27 12 + 1))

/-- SEAL_COMPLETE (R441). -/
def sealComplete (s : State) (die : Nat) : State :=
  if (getDie s die).sealBusy then
    if sealHeld s (getDie s die) then again s (.event .sealComplete { place := die }) else
    let s := sealRows s die 0 (bf (getDie s die).sealGo 11 0 + 1)
    let d := getDie s die
    busyFalls (putDie s die { d with sealBusy := false, sealCount := d.sealCount + 1 }) d.sealBy
  else s

/-- SEALGO. -/
def execSealgo (s : State) : Host.Outcome State Fault Refusal :=
  .next (if s.input.place < 24 then
    (storeSealgo s s.input.place s.input.value s.input.id).getD (again s (.event .sealgo s.input)) else s)

/-- SEAL_COMPLETE. -/
def execSealComplete (s : State) : Host.Outcome State Fault Refusal := .next (sealComplete s s.input.place)

/-! ## Scale-out (R442, R443) -/

/-- The record that a request names, in main memory or die store (17 R325). -/
def localRecord (s : State) (h : Nat) : Option (List Word) :=
  let x := getHub s h
  (readBlock s x.hkey.toNat x.xrec.toNat 64).map fun b =>
    (List.range 8).map fun i => BitVec.ofNat 64 (ofBytes ((b.drop (8 * i)).take 8))

/-- Whether main memory holds the record of a request or a row of its tile just now. -/
def localHeld (s : State) (h : Nat) : Bool :=
  let x := getHub s h
  runHeld s x.xrec.toNat 64 ||
    (match localRecord s h with
     | none => false
     | some words =>
       let r := readRecord words
       (List.range (min r.rows 128)).any fun i => runHeld s (x.xsrc.toNat + i * r.spitch) (min r.rb 512))

/-- The tile that a request sends: its record is legal, with at most 128 rows of at most 512 bytes, and every row of
the source can be read under the hub's key slot. -/
def localTile (s : State) (h : Nat) (op : BitVec 2) : Option RemoteTile :=
  let x := getHub s h
  let slot := x.hkey.toNat
  match localRecord s h with
  | none => none
  | some words =>
    let r := readRecord words
    if copyLegal r && decide (r.rows ≤ 128) && decide (r.rb ≤ 512) then
      let rows := (List.range r.rows).map fun i => readMain s slot (x.xsrc.toNat + i * r.spitch) r.rb
      if rows.all Option.isSome then
        some { op := op, dest := x.xdst.toNat, record := words, data := rows.flatMap fun o => o.getD [] }
      else none
    else none

/-- A store to XGO: not performed while BUSY is 1, nor while main memory holds what the request reads. The tile is read after
the storing core's earlier writes (R443); a request whose tile cannot be sent is refused. The wait for the
acknowledgement is timed. -/
def storeXgo (s : State) (h : Nat) (x : Word) (by_ : Nat) : Option State :=
  if (getHub s h).xbusy || localHeld s h then none
  else
    let s := settleCtx s (systemBase + by_)
    let b := getHub s h
    match localTile s h (BitVec.ofNat 2 (bf x 17 16)) with
    | none => some (putHub s h { b with xtimeout := false, xrefused := true })
    | some t =>
      some (later (putHub s h { b with
        xbusy := true, xtimeout := false, xrefused := false, xFrame := t, xPeer := BitVec.ofNat 16 x.toNat,
        xBy := by_, xSince := s.time }) (.event .scaleOutTimeout { place := h }))

/-- XSTAT. -/
def scaleStat (h : Hub) : Word :=
  BitVec.ofNat 64 (h.xbusy.toNat + h.xtimeout.toNat * 2 + h.xrefused.toNat * 4 + h.xcount.toNat * 2 ^ 32)

/-- A request of one XOP by a step of the table, to module `value`. -/
def scaleRequest (s : State) (i : Instr) (op : Nat) : State :=
  let a := s.input
  if 2 ≤ a.place then s
  else
    (storeXgo s a.place (BitVec.ofNat 64 (a.value.toNat % 65536 + op * 65536)) a.id).getD (again s (.event i a))

/-- XOP_WRITE. -/
def execXopWrite (s : State) : Host.Outcome State Fault Refusal := .next (scaleRequest s .xopWrite 0)

/-- XOP_ADD_FP32. -/
def execXopAddFp32 (s : State) : Host.Outcome State Fault Refusal := .next (scaleRequest s .xopAddFp32 1)

/-- XOP_ADD_BF16. -/
def execXopAddBf16 (s : State) : Host.Outcome State Fault Refusal := .next (scaleRequest s .xopAddBf16 2)

/-- XOP_ADD_FP16. -/
def execXopAddFp16 (s : State) : Host.Outcome State Fault Refusal := .next (scaleRequest s .xopAddFp16 3)

/-- 10 ms in ticks. -/
def scaleTicks : Nat := 10000000

/-- A request that no acknowledgement has met in time ends with TIMEOUT (R443). -/
def scaleTimesOut (s : State) (h : Nat) : State :=
  let x := getHub s h
  busyFalls (putHub s h { x with xbusy := false, xtimeout := true }) x.xBy

/-- SCALE_OUT_ACKNOWLEDGE (R443): the remote module has applied the request, or with `flag` refused it; one that comes after
10 ms finds TIMEOUT set. -/
def execScaleOutAcknowledge (s : State) : Host.Outcome State Fault Refusal :=
  let h := s.input.place
  let x := getHub s h
  .next (if 2 ≤ h ∨ x.xbusy = false then s
    else if scaleTicks < (s.time - x.xSince).toNat then scaleTimesOut s h
    else busyFalls (putHub s h { x with xbusy := false, xrefused := s.input.flag, xcount := x.xcount + 1 }) x.xBy)

/-- SCALE_OUT_TIMEOUT (R443): 10 ms have passed without an acknowledgement; before that the device waits on. -/
def execScaleOutTimeout (s : State) : Host.Outcome State Fault Refusal :=
  let h := s.input.place
  let x := getHub s h
  .next (if 2 ≤ h ∨ x.xbusy = false then s
    else if scaleTicks ≤ (s.time - x.xSince).toNat then scaleTimesOut s h
    else again s (.event .scaleOutTimeout { place := h }))

/-- The format of an add's elements. -/
def addFormat (op : BitVec 2) : Fmt := if op = 1 then binary32 else if op = 2 then bfloat16 else binary16

/-- The bytes of a tile as they are written: each with its offset from the destination (17 R327). -/
def tileOut (r : Record) (data : List Byte) : List (Nat × Byte) :=
  data.zipIdx.map fun e =>
    let i := e.2 / r.rb
    (i * r.dpitch + Nat.xor (e.2 % r.rb) (i % 2 ^ r.swz * 16), e.1)

/-- The bytes that an element's add leaves, given its places and its bytes; nothing where it cannot be read. -/
def addElement (s : State) (f : Fmt) (es : List (EnginePlace × Byte)) : List OutByte :=
  let old := es.map fun e => readEngine s e.1
  if old.all fun r => r.1.2 == 0 then
    let v := (roundNum f 0 (Num.add (numOf f (ofBytes (old.map fun r => r.1.1))) (numOf f (ofBytes (es.map Prod.snd)))).1).1
    (es.zip (toBytes v es.length)).map fun e => { place := e.1.1, byte := e.2, bad := false }
  else []

/-- Elements of `n` bytes. -/
def elementsOf (n : Nat) (es : List (EnginePlace × Byte)) : Nat → List (List (EnginePlace × Byte))
  | 0 => []
  | k + 1 => es.take n :: elementsOf n (es.drop n) k

/-- A tile applied at local main memory, whole and once (R443, 19 R390); none where a byte of its destination lies in
no live part or the key slot is empty. -/
def applyTile (s : State) (h : Nat) (t : RemoteTile) : Option State :=
  let r := readRecord t.record
  let slot := hubKey s h
  let outs := (tileOut r t.data).map fun b => (physPlace s (t.dest + b.1) slot, b.2)
  let main := outs.all fun o =>
    match o.1 with
    | .main _ _ _ => true
    | _ => false
  if !(main && keyLoaded s slot) then none
  else if t.op = 0 then some (writeOut s (outs.map fun o => { place := o.1, byte := o.2, bad := false })).1
  else
    let n := if t.op = 1 then 4 else 2
    some (writeOut s ((elementsOf n outs (outs.length / n)).flatMap (addElement s (addFormat t.op)))).1

/-- Whether main memory holds a byte at which a tile is applied just now. -/
def tileHeld (s : State) (h : Nat) (t : RemoteTile) : Bool :=
  (tileOut (readRecord t.record) t.data).any fun b => engineHeld s (physPlace s (t.dest + b.1) (hubKey s h))

/-- SCALE_OUT_REQUEST_ARRIVAL (R443): another module's request `id` arrives at hub `place` and is applied once, or is
refused with REFUSED set here. -/
def execScaleOutRequestArrival (s : State) : Host.Outcome State Fault Refusal :=
  let h := s.input.place
  let x := getHub s h
  .next (if 2 ≤ h ∨ x.seen.contains s.input.id = true then s
    else if tileHeld s h s.input.tile then again s (.event .scaleOutRequestArrival s.input)
    else
      match applyTile s h s.input.tile with
      | some t => putHub t h { getHub t h with seen := x.seen ++ [s.input.id] }
      | none => putHub s h { x with xrefused := true, seen := x.seen ++ [s.input.id] })

end Sys2Proof.Machine
end

