-- ==== Sys2Proof/Machine/Debug.lean ====
section
/-! DEFINITION. Debug sessions: opening and ending, their requests, and sampling (24 R462 to R476). A session is told by
its number; a request's doublewords after the first are the step's `words`, and the answer is left in the session. -/

namespace Sys2Proof.Machine

open Sys2Proof

/-! ## Key slots (18 R347, 25 R478, R486) -/

/-- The contexts with an access to main memory in flight under a slot. -/
def slotContexts (s : State) (slot : Nat) : List Nat :=
  (s.ctxs.filter fun e => e.2.ops.any fun o => o.accs.any fun a =>
    !a.done && decide (a.place < mainTop) && a.pol == slot).map Prod.fst

/-- Whether a slot is emptied or loaded only later (R478, 22 R441): an access under a memory slot is early in a replay (24 R475), or
an operation in verify mode has checked its rows under an image slot and has still to write some of them. -/
def slotBusy (s : State) (kind slot : Nat) : Bool :=
  (kind == 0 && (slotContexts s slot).any (unsettled (settleAll s (slotContexts s slot)))) ||
    kind == 1 && someEngine s fun o =>
    o.rows.isSome &&
      (match o.kind with
       | .copy r _ _ _ verify _ _ => verify && r.vkey.toNat == slot
       | .mcast r _ _ _ verify _ => verify && r.vkey.toNat == slot
       | .matrix _ | .band _ _ => false)

/-- A slot emptied, once the accesses that use it have been performed. -/
def emptyKey (s : State) (kind slot : Nat) : State :=
  let s := if kind = 0 then settleAll s (slotContexts s slot) else s
  putKey s kind slot { getKey s kind slot with key := none }

/-- Slots of a kind emptied. -/
def emptyKeys (s : State) (kind : Nat) : List Nat → State
  | [] => s
  | k :: rest => emptyKeys (emptyKey s kind k) kind rest

/-- A key loaded into a slot: the accesses that have checked the slot before are performed under its old key (25 R478). -/
def loadKeyIn (s : State) (kind slot : Nat) (key : List Byte) : State :=
  let s := if kind = 0 then settleAll s (slotContexts s slot) else s
  putKey { s with knownKeys := if s.knownKeys.contains key then s.knownKeys else s.knownKeys ++ [key] } kind slot
    { getKey s kind slot with key := some key }

/-! ## Scope -/

/-- Whether an ASID is in use by another context of a partition. -/
def asidForeign (s : State) (e : Session) (asid : Nat) : Bool :=
  !e.maker &&
    ((getPart s e.part).launches.any (fun l => l.2.live && l.2.asid.toNat == asid && l.2.context != e.context) ||
      s.ctxs.any fun c => c.2.live && !isSystem c.1 && partOf s (keyDie c.1) == e.part && c.2.asid.toNat == asid &&
        c.2.context != e.context)

/-- Partitions changed one after the other. -/
def mapParts (s : State) (f : Partition → Partition) : List Nat → State
  | [] => s
  | p :: rest => mapParts (putPart s p (f (getPart s p))) f rest

/-! ## Opening and ending (R462, R463) -/

/-- Whether a path carries session requests: the scale-out port always, the host's DOE mailbox in every division but
that of one partition. -/
def pathAdmits (s : State) (p : AskPath) : Bool :=
  match p with
  | .scaleOut => true
  | .hostDoe => s.partCount != 1
  | .coltaup => false

/-- Whether what a session's requester proves holds: both signatures verify (00 R11). -/
def proves (a : SessionAsk) : Bool := a.ed25519 == .valid && a.mldsa == .valid

/-- Whether a session may open: its path carries requests, both its signatures verify, and a tenant's context is
registered. -/
def mayOpen (s : State) (a : SessionAsk) : Bool :=
  pathAdmits s a.path && proves a &&
    (match a.level with
     | .maker => true
     | .tenant => decide (a.part < s.partCount) && (s.tenants.any fun t => t.1 == a.context.toNat))

/-- Every launch of every confidential context of a partition ended with KILL. -/
def killConfidential (s : State) (part : Nat) : State :=
  (getPart s part).launches.foldl
    (fun s l => if l.2.live && (l.2.confidential || isConfidential s l.2.context) then endLaunch s part l.1 0 0 true else s) s

/-- A maker session's effect at opening. -/
def makerOpens (s : State) : State :=
  let s := (List.range s.partCount).foldl killConfidential s
  emptyKeys (emptyKeys s 0 (List.range 256)) 1 (List.range 256)

/-- SESSION_OPEN (R462): session `place` is asked for. -/
def execSessionOpen (s : State) : Host.Outcome State Fault Refusal :=
  let k := s.input.place
  let a := s.input.ask
  .next (if (getSession s k).isOpen then s
    else if mayOpen s a && a.level == .maker && (List.range 256).any (fun i => slotBusy s 0 i || slotBusy s 1 i) then
      again s (.event .sessionOpen s.input)
    else if mayOpen s a then
      let maker := a.level == .maker
      let s := if maker then makerOpens s else s
      let s := putSession s k { isOpen := true, maker := maker, context := a.context, part := a.part, nonce := a.nonce,
                                last := s.time }
      notifyParts s 5 (sessionParts s (getSession s k))
    else
      let s := putSession s k { getSession s k with result := 1 }
      if a.level == .maker && !pathAdmits s a.path then { s with log := s.log ++ [.makerRefused] } else s)

/-- A launch in a session's scope runs on live. -/
def runLive (e : Session) (part : Nat) (p : Partition) : Partition :=
  { p with
    launches := p.launches.map fun l =>
      if inScope e l.2.context part then (l.1, { l.2 with replaying := false }) else l }

/-- A session ends (R463): its breakpoints and watchpoints are cleared, capture stops, replay is switched off. -/
def closeSession (s : State) (k : Nat) : State :=
  let e := getSession s k
  if !e.isOpen then s
  else
    let parts := sessionParts s e
    let clear := fun p : Partition =>
      { p with breaks := p.breaks.filter fun b => b.2.sess != k, watches := p.watches.filter fun b => b.2.sess != k }
    let s := mapParts s clear parts
    let s := parts.foldl (fun s p => putPart s p (runLive e p (getPart s p))) s
    notifyParts (putSession s k {}) 5 parts

/-- END_SESSION (R463). -/
def execEndSession (s : State) : Host.Outcome State Fault Refusal := .next (closeSession s s.input.place)

/-- SESSION_TIMEOUT (R463): no message for 10 s. -/
def execSessionTimeout (s : State) : Host.Outcome State Fault Refusal :=
  .next (if 10000000000 ≤ (s.time - (getSession s s.input.place).last).toNat then closeSession s s.input.place else s)

/-! ## Requests (R464) -/

/-- The answer to a request: RESULT, the doublewords after it, and the state. -/
abbrev Answer := Nat × List Word × State

/-- The first doubleword of a request or a response: OP, RESULT, and the payload bytes after it. -/
def payloadWord (op result bytes : Nat) : Word := BitVec.ofNat 64 (op % 256 + result % 256 * 2 ^ 8 + bytes % 65536 * 2 ^ 16)

/-- A request of an open session, with its OP and the payload bytes after its first doubleword, which is the step's `value`:
its message is noted, and its answer is left in the session. A first doubleword that is not the request's, with an OP that
is unknown, a bit set that must be zero, or another length, gives RESULT 3. -/
def sessionRequest (op bytes : Nat) (s : State) (body : State → Nat → Session → (Nat → Word) → Answer) :
    Host.Outcome State Fault Refusal :=
  let k := s.input.place
  let e := getSession s k
  .next (if e.isOpen then
      let e := { e with last := s.time }
      let s := putSession s k e
      let r := if s.input.value = payloadWord op 0 bytes then body s k e fun i => s.input.words.getD i 0 else (3, [], s)
      let x := getSession r.2.2 k
      putSession r.2.2 k { x with
        result := BitVec.ofNat 8 r.1, reply := r.2.1
        answer := payloadWord (bf s.input.value 7 0) r.1 (8 * r.2.1.length) }
    else s)

/-- A request that waits while something it needs is held, and is carried out then. -/
def heldRequest (i : Instr) (op bytes : Nat) (s : State) (held : Session → (Nat → Word) → Bool)
    (go : Host.Outcome State Fault Refusal) : Host.Outcome State Fault Refusal :=
  let e := getSession s s.input.place
  if e.isOpen && s.input.value == payloadWord op 0 bytes && held e (fun j => s.input.words.getD j 0) then
    .next (again s (.event i s.input))
  else go

/-- An answer without fields. -/
def answered (n : Nat) (s : State) : Answer := (n, [], s)

/-- The request's checks, the first that fails giving its RESULT, then its effect. -/
def judged (checks : List (Bool × Nat)) (s : State) (t : State) : Answer :=
  match listFind (fun c : Bool × Nat => !c.1) checks with
  | some c => answered c.2 s
  | none => answered 0 t

/-- SET_BREAKPOINT (R464, R465). -/
def execSetBreakpoint (s : State) : Host.Outcome State Fault Refusal :=
  sessionRequest 0x01 32 s fun s k e w =>
    let i := (w 0).toNat
    let b : Breakpoint := { valid := true, sess := k, asid := BitVec.ofNat 16 (w 1).toNat, addr := w 2, launch := w 3 }
    let taken := (sessionParts s e).any fun p =>
      let old := mapGet ({} : Breakpoint) (getPart s p).breaks i
      old.valid && old.sess != k
    judged
      [ (decide (i < 16) && decide ((w 1).toNat < 65536) && (w 2).toNat % 4 == 0 && decide ((w 2).toNat < 2 ^ 57), 3),
        (!asidForeign s e (w 1).toNat, 1), (!taken, 2) ] s
      (mapParts s (fun p => { p with breaks := mapPut {} p.breaks i b }) (sessionParts s e))

/-- CLEAR_BREAKPOINT. -/
def execClearBreakpoint (s : State) : Host.Outcome State Fault Refusal :=
  sessionRequest 0x02 8 s fun s k e w =>
    let i := (w 0).toNat
    let other := (sessionParts s e).any fun p =>
      let old := mapGet ({} : Breakpoint) (getPart s p).breaks i
      old.valid && old.sess != k
    judged [(decide (i < 16), 3), (e.maker || !other, 1)] s
      (mapParts s (fun p => { p with breaks := mapErase p.breaks i }) (sessionParts s e))

/-- SET_WATCHPOINT (R464, R465). -/
def execSetWatchpoint (s : State) : Host.Outcome State Fault Refusal :=
  sessionRequest 0x03 32 s fun s k e w =>
    let i := (w 0).toNat
    let n := bf (w 3) 4 0
    let kind := bf (w 3) 9 8
    let b : Watchpoint :=
      { valid := true, sess := k, asid := BitVec.ofNat 16 (w 1).toNat, base := w 2, log2 := n, kind := BitVec.ofNat 2 kind }
    let taken := (sessionParts s e).any fun p =>
      let old := mapGet ({} : Watchpoint) (getPart s p).watches i
      old.valid && old.sess != k
    judged
      [ (decide (i < 8) && decide ((w 1).toNat < 65536) && decide (3 ≤ n) && decide (n ≤ 30) && kind != 0 &&
          (w 2).toNat % 2 ^ n == 0 && decide ((w 2).toNat < 2 ^ 57), 3),
        (!asidForeign s e (w 1).toNat, 1), (!taken, 2) ] s
      (mapParts s (fun p => { p with watches := mapPut {} p.watches i b }) (sessionParts s e))

/-- CLEAR_WATCHPOINT. -/
def execClearWatchpoint (s : State) : Host.Outcome State Fault Refusal :=
  sessionRequest 0x04 8 s fun s k e w =>
    let i := (w 0).toNat
    let other := (sessionParts s e).any fun p =>
      let old := mapGet ({} : Watchpoint) (getPart s p).watches i
      old.valid && old.sess != k
    judged [(decide (i < 8), 3), (e.maker || !other, 1)] s
      (mapParts s (fun p => { p with watches := mapErase p.watches i }) (sessionParts s e))

/-! ## Capture (R469 to R472) -/

/-- The leaves below a table, level by level. -/
def tableLeaves (s : State) (part va table : Nat) : List Level → List Leaf
  | [] => []
  | lv :: rest =>
    (List.range lv.entries).flatMap fun i =>
      let at_ := va + i * 2 ^ lv.lo
      match walkRead s (table + 16 * i) with
      | .error _ => []
      | .ok (d0, d1) =>
        if !bitAt d0 63 then []
        else if bitAt d0 62 then
          match lv.leaf with
          | none => []
          | some size =>
            match leafOf at_ size d0 d1 with
            | some l => if leafValid s part l then [l] else []
            | none => []
        else tableLeaves s part at_ (bf d0 51 10 * 1024) rest

/-- The leaves of an ASID in a partition. -/
def asidLeaves (s : State) (part : Nat) (asid : BitVec 16) : List Leaf :=
  let die := (partDies s part).headD 0
  match walkRead s ((getDie s die).astbase.toNat + 16 * asid.toNat) with
  | .ok (d0, _) => if bitAt d0 63 then tableLeaves s part 0 (bf d0 51 13 * 8192) levels else []
  | .error _ => []

/-- The address spaces of a partition that lie in a session's scope: those of its live launches, and for a maker those of its
system cores. -/
def sessionAsids (s : State) (e : Session) (part : Nat) : List (BitVec 16) :=
  (((getPart s part).launches.filter fun l => l.2.live && inScope e l.2.context part).map fun l => l.2.asid) ++
    if e.maker then
      (partDies s part).flatMap fun d => [(getCtx s (systemBase + 2 * d)).asid, (getCtx s (systemBase + 2 * d + 1)).asid]
    else []

/-- The main pages of a session's scope in which a buffer may lie: for a tenant, those that its context may write. -/
def bufferLeaves (s : State) (e : Session) : List Leaf :=
  ((sessionParts s e).flatMap fun p => (sessionAsids s e p).flatMap (asidLeaves s p)).filter fun l =>
    l.type == 0 && (e.maker || (l.w && l.u))

/-- Whether a buffer lies in main pages that a session's context may write, 64 KiB by 64 KiB. -/
def bufferGranted (s : State) (e : Session) (base size : Nat) : Bool :=
  e.maker ||
    (List.range (size / 65536)).all fun i =>
      (bufferLeaves s e).any fun l => decide (l.pa ≤ base + 65536 * i) && decide (base + 65536 * (i + 1) ≤ l.pa + l.size)

/-- The pages that a buffer lies in, each with its KEY. -/
def bufferPages (s : State) (e : Session) (base size : Nat) : List (Nat × Nat × BitVec 8) :=
  ((bufferLeaves s e).filter fun l => decide (l.pa < base + size) && decide (base < l.pa + l.size)).map fun l =>
    (l.pa, l.size, l.key)

/-- Whether a session may capture: not a confidential context in a partition of more than four dies. -/
def captureAdmitted (s : State) (e : Session) : Bool := !sealsSession s e || decide (24 / s.partCount ≤ 4)

/-- Whether main memory holds some entry of a table, or of the tables below it, just now (18 R364 to R369). -/
def tableHeld (s : State) (die table : Nat) : List Level → Bool
  | [] => false
  | lv :: rest =>
    (List.range lv.entries).any fun i =>
      entryHeld s die (table + 16 * i) ||
        (match walkRead s (table + 16 * i) with
         | .ok (d0, _) => bitAt d0 63 && !bitAt d0 62 && tableHeld s die (bf d0 51 10 * 1024) rest
         | .error _ => false)

/-- Whether main memory holds a part of the tables of an ASID just now. -/
def asidHeld (s : State) (part : Nat) (asid : BitVec 16) : Bool :=
  let die := (partDies s part).headD 0
  let root := (getDie s die).astbase.toNat + 16 * asid.toNat
  entryHeld s die root ||
    (match walkRead s root with
     | .ok (d0, _) => bitAt d0 63 && tableHeld s die (bf d0 51 13 * 8192) levels
     | .error _ => false)

/-- Whether main memory holds a part of the tables that a capture's buffer is looked up in. -/
def bufferHeld (s : State) (e : Session) : Bool :=
  (sessionParts s e).any fun p => (sessionAsids s e p).any (asidHeld s p)

/-- SET_CAPTURE (R464, R469): it waits while main memory holds a table that it walks. -/
def execSetCapture (s : State) : Host.Outcome State Fault Refusal :=
  heldRequest .setCapture 0x05 32 s (fun e _ => bufferHeld s e) <|
  sessionRequest 0x05 32 s fun s k e w =>
    let n := bf (w 1) 4 0
    let period := (w 2).toNat
    judged
      [ (decide (16 ≤ n) && decide (n ≤ 30) && (w 0).toNat % 2 ^ n == 0 && decide ((w 0).toNat + 2 ^ n ≤ 0x30000000000) &&
          (period == 0 || (decide (256 ≤ period) && decide (period ≤ 2 ^ 24))), 3),
        (captureAdmitted s e && bufferGranted s e (w 0).toNat (2 ^ n), 1) ] s
      (putSession s k { e with
        bufBase := (w 0).toNat, bufLog2 := n, pages := bufferPages s e (w 0).toNat (2 ^ n),
        stopMode := bitAt (w 1) 8, period := period, kinds := BitVec.ofNat 12 (w 3).toNat, configured := true,
        capturing := false, frozenBuf := false, written := 0, lost := e.lost + e.chunk.length, chunk := [] })

/-- START_CAPTURE. -/
def execStartCapture (s : State) : Host.Outcome State Fault Refusal :=
  sessionRequest 0x06 0 s fun s k e _ => judged [(captureAdmitted s e, 1), (e.configured, 2)] s (startCaptureIn s k)

/-- FREEZE_CAPTURE. -/
def execFreezeCapture (s : State) : Host.Outcome State Fault Refusal :=
  sessionRequest 0x07 0 s fun s k e _ => judged [(e.configured, 2)] s (freezeCaptureIn s k)

/-- Whether a trigger's value is one that its event can have: an ASID, a SWCODE, an IPEND bit (R471, 02 R47). -/
def triggerValue (event : Nat) (x : Word) : Bool :=
  match event with
  | 1 | 2 => decide (x.toNat < 2 ^ 16)
  | 3 => decide (x.toNat < 16)
  | _ => true

/-- SET_TRIGGER (R464, R471). -/
def execSetTrigger (s : State) : Host.Outcome State Fault Refusal :=
  sessionRequest 0x08 32 s fun s k e w =>
    let i := (w 0).toNat
    let ev := bf (w 1) 2 0
    judged [(decide (i < 4) && decide (ev ≤ 4) && triggerValue ev (w 2), 3)] s
      (putSession s k { e with
        triggers := if ev = 0 then mapErase e.triggers i else mapInsert e.triggers i (ev, w 2, bitAt (w 3) 0) })

/-- A mark of a launch that is to be accepted: request 9 or 10 with its fields. -/
def markRequest (op : Nat) (s : State) (k : Nat) (e : Session) (w : Nat → Word) : Answer :=
  judged [(decide ((w 0).toNat < 65536) && decide ((w 2).toNat < 0x30000000000), 3),
      (!asidForeign s e (w 0).toNat, 1)] s
    (putSession s k { e with marks := e.marks ++ [(op, [w 0, w 1, w 2, w 3, w 4])] })

/-- MARK_FOR_RECORDING (R464, R473). -/
def execMarkForRecording (s : State) : Host.Outcome State Fault Refusal := sessionRequest 0x09 32 s (markRequest 9)

/-- REPLAY (R464, R475). -/
def execReplay (s : State) : Host.Outcome State Fault Refusal := sessionRequest 0x0A 40 s (markRequest 10)

/-- SET_CONTINUE_LIVE (R464, R476). -/
def execSetContinueLive (s : State) : Host.Outcome State Fault Refusal :=
  sessionRequest 0x0B 16 s fun s _ e w =>
    let id := (w 0).toNat
    let has := fun p => (getLaunch (getPart s p) id).live
    let mine := (sessionParts s e).filter fun p => has p && inScope e (getLaunch (getPart s p) id).context p
    judged [((sessionParts s e).any has, 3), (!mine.isEmpty, 1)] s
      (mapParts s (fun p => putLaunch p id { getLaunch p id with continueLive := bitAt (w 1) 0 }) mine)

/-- A park-table entry as a doubleword (13 R266). -/
def parkWord (p : Park) : Word :=
  BitVec.ofNat 64 (p.valid.toNat * 2 ^ 63 + p.rsv.toNat * 2 ^ 62 + p.quad.toNat * 2 ^ 60 + p.slot.toNat * 2 ^ 56 +
    p.strands.toNat * 2 ^ 48 + p.token.toNat * 2 ^ 32 + p.dw.toNat)

/-- DUMP_PARK_TABLE (R464): a record of kind 10 for each entry of a core that is in scope. -/
def execDumpParkTable (s : State) : Host.Outcome State Fault Refusal :=
  sessionRequest 0x0C 16 s fun s k e w =>
    let die := (w 0).toNat
    let core := 32 * die + (w 1).toNat
    let part := partOf s die
    let t := (getCore s core).park.foldl
      (fun s p =>
        let key := 64 * core + 16 * p.2.quad.toNat + p.2.slot.toNat
        let slot := trailingZeros p.2.strands.toNat 8
        if p.2.valid && inScope e (getCtx s key).context part then
          captureInto s k (sealsWarp s key) (traceRecord s 10 0 ⟨key, slot⟩ (parkWord p.2) 0)
        else s) s
    judged [(decide (die < 24) && decide ((w 1).toNat < 32), 3), (e.maker || part == e.part, 1), (e.capturing, 2)] s t

/-! ## Hits (R464, R468) -/

/-- The older of two hits, the first on a tie. -/
def olderHit (s : State) (a b : Nat × Nat × BitVec 48) : Nat × Nat × BitVec 48 :=
  if (s.time - a.2.2).toNat < (s.time - b.2.2).toNat then b else a

/-- The hits that wait and lie in a session's scope, as partition, key and TIME, oldest first within each partition. -/
def waitingHits (s : State) (e : Session) : List (Nat × Nat × BitVec 48) :=
  (sessionParts s e).flatMap fun p =>
    ((getPart s p).hits.filter fun h => inScope e (getCtx s h.1).context p).map fun h => (p, h)

/-- The oldest hit that waits. -/
def oldestHit (s : State) (e : Session) : Option (Nat × Nat × BitVec 48) :=
  match waitingHits s e with
  | [] => none
  | h :: rest => some (rest.foldl (olderHit s) h)

/-- The joined name of a warp's strand (21 R412). -/
def joinedName (s : State) (key slot : Nat) : List Word :=
  let c := getCtx s key
  [c.context.zeroExtend 64, if isSystem key then c.scratch0 else c.thread, c.launchid, c.wgid, c.warpid.zeroExtend 64,
    BitVec.ofNat 64 slot]

/-- A warp's frame as memory holds it. -/
def frameOf (s : State) (key : Nat) : List Word :=
  (List.range 384).map fun i => frameNat { s with focus := ⟨key, 0⟩ } (8 * i)

/-- Whether main memory holds a warp's frame, or the walk to it, just now. -/
def frameWaits (s : State) (key : Nat) : Bool :=
  let t := { s with focus := ⟨key, 0⟩ }
  frameWalkHeld t || frameHeld t

/-- POLL (R464): the joined name and the frame of the oldest hit that waits; it waits while main memory holds the frame. -/
def execPoll (s : State) : Host.Outcome State Fault Refusal :=
  heldRequest .poll 0x0D 0 s (fun e _ => (oldestHit s e).any fun h => frameWaits s h.2.1) <|
  sessionRequest 0x0D 0 s fun s _ e _ =>
    match oldestHit s e with
    | none => answered 5 s
    | some (_, key, _) =>
      let f := frameOf s key
      (0, joinedName s key (bf (f.headD 0) 10 8) ++ f, s)

/-- A doubleword of a warp's frame written. -/
def writeFrameWord (s : State) (key off : Nat) (x : Word) : State :=
  let t := { s with focus := ⟨key, 0⟩ }
  let va := frameAddress (getCtx s key) + off
  let bs := toBytes x.toNat 8
  match regionOf va with
  | .spill => writeBytes s (spillPlace key (va - spillBase)) bs
  | .group => writeBytes s (groupPlace (keyCore key) ((getWg s (getCtx s key).wg).gbase + (va - groupBase))) bs
  | _ => { writeFrameLines t key va [bs] with focus := s.focus }

/-- The released STOP bits written into a frame's strand table, as the standard handler does (R464). -/
def releaseStops (s : State) (key stops : Nat) : State :=
  (List.range 8).foldl
    (fun s i =>
      let off := 0x108 + 24 * i
      let w := frameNat { s with focus := ⟨key, 0⟩ } off
      let bit : Word := BitVec.ofNat 64 (2 ^ 57)
      writeFrameWord s key off (if stops / 2 ^ i % 2 = 1 then w ||| bit else w &&& ~~~ bit)) s

/-- The oldest hit of a warp gone from a list. -/
def eraseHit : List (Nat × BitVec 48) → Nat → List (Nat × BitVec 48)
  | [], _ => []
  | h :: rest, key => if h.1 = key then rest else h :: eraseHit rest key

/-- The waiting hit that a release names. -/
def namedHit (s : State) (e : Session) (w : Nat → Word) : Option (Nat × Nat × BitVec 48) :=
  listFind (fun h : Nat × Nat × BitVec 48 =>
    let c := getCtx s h.2.1
    c.launchid == w 0 && c.wgid == w 1 && c.warpid.toNat == bf (w 2) 4 0) (waitingHits s e)

/-- RELEASE (R464): a waiting hit is released by its warp's name, once main memory does not hold its frame. -/
def execRelease (s : State) : Host.Outcome State Fault Refusal :=
  heldRequest .release 0x0E 32 s (fun e w => (namedHit s e w).any fun h => frameWaits s h.2.1) <|
  sessionRequest 0x0E 32 s fun s _ e w =>
    match namedHit s e w with
    | none => answered 5 s
    | some (p, key, _) =>
      let s := releaseStops s key (bf (w 3) 7 0)
      let x := getPart s p
      answered 0 (putPart s p { x with hits := eraseHit x.hits key })

/-- LOAD_KEY (R464, 25 R478): the opened key material is `bytes`, and `flag` says that its seal verified. -/
def execLoadKey (s : State) : Host.Outcome State Fault Refusal :=
  let key := s.input.bytes
  let proved := s.input.flag
  heldRequest .loadKey 0x0F (8 + key.length + 16) s (fun _ w => slotBusy s (bf (w 0) 9 8) (bf (w 0) 7 0)) <|
  sessionRequest 0x0F (8 + key.length + 16) s fun s _ e w =>
    let slot := bf (w 0) 7 0
    let kind := bf (w 0) 9 8
    let x := getKey s kind slot
    judged
      [ (decide (kind < 3) && key.length == (if kind = 0 then 96 else 32) && proved, 3),
        (e.maker || (x.part == some e.part && x.context == e.context && e.context != 0), 1) ] s
      (loadKeyIn s kind slot key)

/-! ## Sampling (R470) -/

/-- The live strands of a quad that are in a session's scope, as 8 × warp slot + strand slot. -/
def quadStrands (s : State) (e : Session) (quad : Nat) : List Nat :=
  ((strandsOf s).filter fun a =>
    !isSystem a.key && a.key / 16 == quad && inScope e (getCtx s a.key).context (partOf s (keyDie a.key)) &&
      !(e.maker && sealsWarp s a.key)).map fun a => 8 * (a.key % 16) + a.slot

/-- DATA of a sample: 0 issued, 1 ready, 2 waiting, 3 stopped. -/
def sampleData (s : State) (a : Agent) : Word :=
  let x := getStrand (getCtx s a.key) a.slot
  if x.stop || x.suspended || !ctxRuns s a.key then 3
  else
    match x.wait with
    | .held _ _ => 2
    | .ready => if s.focus = a then 0 else 1

/-- One quad sampled: the next strand in rotation. -/
def sampleQuad (k : Nat) (s : State) (quad : Nat) : State :=
  let e := getSession s k
  let all := quadStrands s e quad
  let last := mapGet 0 e.sampled quad
  match all with
  | [] => s
  | first :: _ =>
    let x := ((all.filter fun i => decide (last ≤ i)).head?).getD first
    let a : Agent := ⟨16 * quad + x / 8, x % 8⟩
    let s := putSession s k { e with sampled := mapPut 0 e.sampled quad (x + 1) }
    captureInto s k (sealsWarp s a.key) (traceRecord s 1 0 a (getStrand (getCtx s a.key) a.slot).mask (sampleData s a))

/-- The quads that hold live strands. -/
def liveQuads (s : State) : List Nat :=
  (strandsOf s).foldl (fun acc a => if isSystem a.key || acc.contains (a.key / 16) then acc else acc ++ [a.key / 16]) []

/-- SAMPLE (R470): every S ticks, session `place` samples one live strand of each quad. -/
def execSample (s : State) : Host.Outcome State Fault Refusal :=
  let k := s.input.place
  let e := getSession s k
  .next (if e.isOpen && e.capturing && e.period != 0 && e.kinds.getLsbD 1 &&
        decide (e.period ≤ (s.time - e.sampledAt).toNat) then
      (liveQuads s).foldl (sampleQuad k) (putSession s k { e with sampledAt := s.time })
    else s)

end Sys2Proof.Machine
end

