-- ==== Sys2Proof/Machine/Monitor.lean ====
section
/-! DEFINITION. The system-core blocks, the monitor mailboxes, the power and thermal limits, and bring-up
(25 R481 to R487). -/

namespace Sys2Proof.Machine

open Sys2Proof

/-! ## Starting system cores (R485) -/

/-- The context of a system core that starts (R485, 02 R44): supervisor mode, MMR 2, s1 and ASID from the block, and
strand 0 at SCPC with no lane. -/
def startedCore (x : ScBlock) (nextOp : Nat) : Ctx :=
  putS
    { live := true, status := 0x201, asid := x.asid, nextOp := nextOp,
      strands := [(0, { valid := true, root := true, ca := x.pc, wi := 1 })] }
    1 { val := x.arg }

/-- START on a core that is not running and not frozen: what it issued is performed, it is reset and started. -/
def startCore (s : State) (c : Nat) : State :=
  let x := getSc (getDie s (c / 2)) (c % 2)
  if x.running || x.frozen then s
  else
    let key := systemBase + c
    let s := settleCtx s key
    let d := getDie s (c / 2)
    let s := putDie s (c / 2) (putSc d (c % 2) { x with running := true, stopped := false })
    putCtx s key (startedCore x (getCtx s key).nextOp)

/-- A store to SCCTL. -/
def storeScctl (s : State) (c : Nat) (x : Word) : State :=
  let s := if bitAt x 0 then startCore s c else s
  if bitAt x 1 then setIpend s c 1 else s

/-- A store to SCVEC clears the bits written as 1. -/
def storeScvec (s : State) (c : Nat) (x : Word) : State :=
  let d := getDie s (c / 2)
  putDie s (c / 2) (putSc d (c % 2) { getSc d (c % 2) with vec := (getSc d (c % 2)).vec &&& ~~~ x })

/-- SCSTAT. -/
def scStat (x : ScBlock) : Word := BitVec.ofNat 64 (x.running.toNat + x.stopped.toNat * 2 + x.frozen.toNat * 4)

/-- START (R485) of system core `place`. -/
def execStart (s : State) : Host.Outcome State Fault Refusal :=
  .next (if s.input.place < 48 then storeScctl s s.input.place 1 else s)

/-- SIGNAL (R485). -/
def execSignal (s : State) : Host.Outcome State Fault Refusal :=
  .next (if s.input.place < 48 then storeScctl s s.input.place 2 else s)

/-- SCVEC_CLEAR (R485). -/
def execScvecClear (s : State) : Host.Outcome State Fault Refusal :=
  .next (if s.input.place < 48 then storeScvec s s.input.place s.input.value else s)

/-- Coltaup started on both system cores of a die (R483 step 7, R484). -/
def startColtaup (s : State) (die : Nat) : State :=
  let boot := fun (s : State) (i : Nat) =>
    let d := getDie s die
    startCore (putDie s die (putSc d i { getSc d i with pc := keep (Config.coltaupEntry die) 56 2, arg := 0, asid := 0 }))
      (2 * die + i)
  boot (boot s 0) 1

/-! ## The mailbox (R486) -/

/-- The step of the table that a request's CODE names. -/
def mailStep (code : Nat) : Option Instr :=
  match code with
  | 1 => some .assignSlot
  | 2 => some .emptySlot
  | 3 => some .registerTenant
  | 4 => some .markConfidential
  | 5 => some .divide
  | 6 => some .powerLimit
  | 7 => some .ready
  | _ => none

/-- A request completed with a RESULT. -/
def finishMail (s : State) (die result : Nat) : State :=
  let d := getDie s die
  busyFalls (putDie s die { d with mBusy := false, mResult := BitVec.ofNat 8 result, mCount := d.mCount + 1 }) d.mBy

/-- A store to MREQ: not performed while BUSY is 1. The block is read once, under slot HKEY of hub 0. -/
def storeMreq (s : State) (die : Nat) (x : Word) (by_ : Nat) : Option State :=
  let d := getDie s die
  if d.mBusy || runHeld s (keep x 51 6).toNat 64 then none
  else
    match readMain s (hubKey s 0) (keep x 51 6).toNat 64 with
    | none => some (finishMail (putDie s die { d with mBusy := true, mBy := by_ }) die 5)
    | some bs =>
      let ws := (List.range 8).map fun i => BitVec.ofNat 64 (ofBytes ((bs.drop (8 * i)).take 8))
      let s := putDie s die { d with mBusy := true, mBy := by_, mWords := ws }
      match (if (ws.getD 0 0).toNat < 256 then mailStep (ws.getD 0 0).toNat else none) with
      | none => some (finishMail s die 2)
      | some i => some (later s (.event i { place := die }))

/-- MSTAT. -/
def mailStat (d : Die) : Word := BitVec.ofNat 64 (d.mBusy.toNat + d.mResult.toNat * 2 ^ 8 + d.mCount.toNat * 2 ^ 32)

/-- A mailbox request carried out: the step finds a request of its CODE on its die, whose doublewords from `fields` on
are zero; its body answers with a RESULT and the state. -/
def mailRequest (s : State) (code fields : Nat) (body : State → Nat → (Nat → Word) → Nat × State) :
    Host.Outcome State Fault Refusal :=
  let die := s.input.place
  let d := getDie s die
  .next (if d.mBusy && (d.mWords.getD 0 0).toNat == code then
      if (d.mWords.drop fields).any (· != 0) then finishMail s die 2
      else
        let r := body s die fun i => d.mWords.getD i 0
        finishMail r.2 die r.1
    else s)

/-- Whether a mailbox request about a slot waits for an operation that uses it (R478). -/
def slotWaits (s : State) (code : Nat) : Bool :=
  let d := getDie s s.input.place
  let w := d.mWords.getD 1 0
  d.mBusy && (d.mWords.getD 0 0).toNat == code && slotBusy s (bf w 9 8) (bf w 7 0)

/-- ASSIGN_SLOT (R486): the slot is emptied, then assigned to a context, or with context 0 released. -/
def execAssignSlot (s : State) : Host.Outcome State Fault Refusal :=
  if slotWaits s 1 then .next (again s (.event .assignSlot s.input))
  else
  mailRequest s 1 3 fun s die w =>
    let kind := bf (w 1) 9 8
    let slot := bf (w 1) 7 0
    let part := partOf s die
    let context := BitVec.ofNat 32 (w 2).toNat
    let x := getKey s kind slot
    let elsewhere := match x.part with
      | none => false
      | some p => p != part || (context != 0 && x.context != context)
    if kind = 3 ∨ 1024 ≤ (w 1).toNat ∨ 2 ^ 32 ≤ (w 2).toNat then (2, s)
    else if elsewhere then (3, s)
    else
      let s := emptyKey s kind slot
      (0, putKey s kind slot (if context = 0 then {} else { part := some part, context := context }))

/-- EMPTY_SLOT (R486): only the partition that the slot is assigned to may ask. -/
def execEmptySlot (s : State) : Host.Outcome State Fault Refusal :=
  if slotWaits s 2 then .next (again s (.event .emptySlot s.input))
  else
  mailRequest s 2 2 fun s die w =>
    let kind := bf (w 1) 9 8
    let slot := bf (w 1) 7 0
    if kind = 3 ∨ 1024 ≤ (w 1).toNat then (2, s)
    else if (getKey s kind slot).part = some (partOf s die) then (0, emptyKey s kind slot)
    else (1, s)

/-- The open sessions of a context ended. -/
def closeContext (s : State) (context : BitVec 32) : State :=
  s.sessions.foldl (fun s e => if e.2.isOpen && !e.2.maker && e.2.context == context then closeSession s e.1 else s) s

/-- REGISTER_TENANT (R486): both public keys are read, once main memory does not hold them, and recorded, and the context's
sessions end. -/
def execRegisterTenant (s : State) : Host.Outcome State Fault Refusal :=
  let d := getDie s s.input.place
  if d.mBusy && (d.mWords.getD 0 0).toNat == 3 &&
      (runHeld s (d.mWords.getD 2 0).toNat 32 || runHeld s (d.mWords.getD 3 0).toNat 1952) then
    .next (again s (.event .registerTenant s.input))
  else
  mailRequest s 3 4 fun s _ w =>
    if 2 ^ 32 ≤ (w 1).toNat then (2, s)
    else
      match readMain s (hubKey s 0) (w 2).toNat 32, readMain s (hubKey s 0) (w 3).toNat 1952 with
      | some a, some b =>
        (0, closeContext { s with tenants := mapInsert s.tenants (w 1).toNat (a, b) } (BitVec.ofNat 32 (w 1).toNat))
      | _, _ => (5, s)

/-- MARK_CONFIDENTIAL (R486). -/
def execMarkConfidential (s : State) : Host.Outcome State Fault Refusal :=
  mailRequest s 4 2 fun s _ w =>
    if 2 ^ 33 ≤ (w 1).toNat then (2, s)
    else (0, { s with confidential := mapPut false s.confidential (bf (w 1) 31 0) (bitAt (w 1) 32) })

/-- Whether some partition has a launch that has not completed, or an image held (22 R431). -/
def divisionBusy (s : State) : Bool :=
  (List.range s.partCount).any fun p =>
    (getPart s p).launches.any (fun l => l.2.live) || s.wgs.any fun w => w.2.live && w.2.away && w.2.part == p

/-- The slots assigned to partitions that no longer exist emptied and released: all but those of the partition that
holds die 0. -/
def releaseSlots (s : State) : State :=
  (List.range 768).foldl
    (fun s i =>
      match (getKey s (i / 256) (i % 256)).part with
      | some (_ + 1) => putKey (emptyKey s (i / 256) (i % 256)) (i / 256) (i % 256) {}
      | _ => s) s

/-- An accepted division into `n` partitions (00 R12, R484, R486): the system cores outside the partition that holds
die 0 are reset, the partitions other than it begin anew, and Coltaup starts on each of their lowest dies. -/
def divideInto (s : State) (n : Nat) : State :=
  let same := s.partCount == n
  let s := if same then s else releaseSlots s
  let s := s.sessions.foldl (fun s e => if e.2.isOpen && !e.2.maker && e.2.part != 0 then closeSession s e.1 else s) s
  let outside := (List.range 24).filter fun d => decide (24 / n ≤ d)
  let s := outside.foldl (fun s d => resetSystemCore (resetSystemCore s (2 * d)) (2 * d + 1)) s
  let s := { s with partCount := n, parts := s.parts.filter fun p => p.1 == 0, tlbs := [] }
  ((List.range n).filter (· != 0)).foldl (fun s p => startColtaup s (p * (24 / n))) s

/-- DIVIDE (R486). -/
def execDivide (s : State) : Host.Outcome State Fault Refusal :=
  mailRequest s 5 2 fun s die w =>
    if partOf s die ≠ 0 then (1, s)
    else if [1, 2, 4, 8, 24].contains (w 1).toNat = false then (2, s)
    else if divisionBusy s then (4, s)
    else (0, divideInto s (w 1).toNat)

/-! ## Power and heat (R481, R482, R487) -/

/-- A requested power limit: it stands, or while the flow hold is in force it is refused and applies later. -/
def askLimit (s : State) (watts : Nat) : Nat × State :=
  let s := { s with requestedLimit := watts }
  if s.flowHold then (1, s) else (0, { s with powerLimit := watts })

/-- POWER_LIMIT (R486). -/
def execPowerLimit (s : State) : Host.Outcome State Fault Refusal :=
  mailRequest s 6 2 fun s die w =>
    if partOf s die ≠ 0 then (1, s)
    else if (w 1).toNat < 8000 ∨ 16000 < (w 1).toNat then (2, s)
    else askLimit s (w 1).toNat

/-- READY (R486, R484): the partition accepts launches. -/
def execReady (s : State) : Host.Outcome State Fault Refusal :=
  mailRequest s 7 1 fun s die _ =>
    let p := partOf s die
    (0, putPart s p { getPart s p with ready := true })

/-- An answer of the module controller at the DOE mailbox of host port `h` (R487). -/
def doeAnswer (s : State) (h op result : Nat) (more : List (BitVec 32)) : State :=
  putHub s h { getHub s h with
    doeReply := BitVec.ofNat 32 (op + result * 2 ^ 8 + s.powerLimit / 100 * 2 ^ 16) :: more }

/-- The Vendor ID and data object type of an object that the module controller answers (R487). -/
def doeHeader : Nat := Config.vendorId.toNat + 0x80 * 2 ^ 16

/-- A request at the DOE mailbox of host port `place` (R487): an object whose first header dword `id` names the vendor and
type 0x80, with its first payload dword in `value`. It is answered as its OP asks, by the body given its argument; an OP that is
not listed is answered with RESULT 2. -/
def doeRequest (s : State) (own : Nat) (body : Nat → Nat → State) : Host.Outcome State Fault Refusal :=
  let a := s.input
  let op := bf a.value 7 0
  .next (if 2 ≤ a.place ∨ a.id ≠ doeHeader then s
    else if op = own then body a.place (bf a.value 31 16)
    else if op = 0 ∨ 4 ≤ op then doeAnswer s a.place op 2 []
    else s)

/-- SET_POWER_LIMIT (R487): the argument is in units of 100 W. -/
def execSetPowerLimit (s : State) : Host.Outcome State Fault Refusal :=
  doeRequest s 1 fun h x =>
    if x < 80 ∨ 160 < x then doeAnswer s h 1 2 []
    else
      let r := askLimit s (100 * x)
      doeAnswer r.2 h 1 r.1 []

/-- READ_POWER_LIMIT (R487). -/
def execReadPowerLimit (s : State) : Host.Outcome State Fault Refusal :=
  doeRequest s 2 fun h x => doeAnswer s h 2 (if x = 0 then 0 else 2) []

/-- READ_STATUS (R487): what is measured is free; the holds are the module controller's. -/
def execReadStatus (s : State) : Host.Outcome State Fault Refusal :=
  let n := s.drawn
  let t := { s with drawn := n + 1 }
  doeRequest s 3 fun h x =>
    if x ≠ 0 then doeAnswer s h 3 2 []
    else
      doeAnswer t h 3 0
        [Config.moduleWatts n, Config.junctionTenths n, Config.coolantFlow n,
          BitVec.ofNat 32 (s.flowHold.toNat + s.thermalLow.toNat * 2)]

/-- An event logged for every partition. -/
def logAll (s : State) (e : LogEntry) : State := notifyParts (logEvent s e none) 4 (List.range s.partCount)

/-- JUNCTION_LIMIT (R481): the limit or a die's junction at 105 °C is reached and clocks are lowered, or with `flag` the
lowering ends. -/
def execJunctionLimit (s : State) : Host.Outcome State Fault Refusal :=
  let die := s.input.place
  .next (if s.input.flag then { s with thermalLow := false }
    else logEvent { s with thermalLow := true } (.thermal die) (some (partOf s die)))

/-- The module shuts down: nothing runs and nothing in progress goes on; a save in progress is lost. -/
def shutDown (s : State) : State :=
  let s := logAll s .shutdown
  { s with
    shutdown := true, powered := false, due := []
    wgs := s.wgs.map fun e => (e.1, { e.2 with saving := false }) }

/-- THERMAL_SHUTDOWN (R481): 115 °C on die `place`. -/
def execThermalShutdown (s : State) : Host.Outcome State Fault Refusal :=
  .next (shutDown (logEvent s (.thermal s.input.place) (some (partOf s s.input.place))))

/-- FLOW_HOLD (R482): the flow falls below 8 L/min and the limit is held at 8 kW. -/
def execFlowHold (s : State) : Host.Outcome State Fault Refusal :=
  .next (logAll { s with flowHold := true, powerLimit := 8000 } .flow)

/-- FLOW_RECOVERY (R482). -/
def execFlowRecovery (s : State) : Host.Outcome State Fault Refusal :=
  .next (if s.flowHold then { s with flowHold := false, powerLimit := s.requestedLimit } else s)

/-- FLOW_LOSS (R482): no flow for 5 s. -/
def execFlowLoss (s : State) : Host.Outcome State Fault Refusal := .next (shutDown (logAll s .flow))

/-! ## Bring-up (R483) -/

/-- The repair log replayed: retired pseudo-channels and used spare rows. -/
def replayRepairs (s : State) : List LogEntry → State
  | [] => s
  | .retired g :: rest =>
    let k := getStack s (g / 64)
    replayRepairs (putStack s (g / 64) { k with dead := k.dead ||| BitVec.ofNat 64 (2 ^ (g % 64)) }) rest
  | .repaired g bank _ :: rest =>
    replayRepairs { s with spares := mapPut 0 s.spares (16 * g + bank) (sparesUsed s (16 * g + bank) + 1) } rest
  | _ :: rest => replayRepairs s rest

/-- A stack trained: it runs at its rate, or none of its pseudo-channels is live. -/
def trainStack (untrained : List Nat) (s : State) (k : Nat) : State :=
  let r := BitVec.ofNat 2 (Config.trainedRate k).val
  putStack s k { getStack s k with
    cur := r, tgt := r, dead := if untrained.contains k then BitVec.allOnes 64 else (getStack s k).dead }

/-- The state before bring-up: everything as at reset but the logs, the repair log, the fuses, and what is the model's own. -/
def cleared (s : State) : State :=
  { log := s.log, repairLog := s.repairLog, spares := [], agenda := s.agenda, pace := s.pace, drawn := s.drawn
    minSvn := s.minSvn }

/-- What verifying an image finds. -/
def imageReport (r : BringUp) (k : ImageKind) : ImageReport :=
  ((listFind (fun e : ImageKind × ImageReport => e.1 == k) r.images).map Prod.snd).getD {}

/-- The place of an image's minimum among the fuses, in the order of the table of R477. -/
def imageNumber (k : ImageKind) : Nat :=
  match k with
  | .secureMonitor => 0 | .controllerFirmware => 1 | .memoryTraining => 2 | .carderMicrocode => 3 | .coltaup => 4

/-- Whether an image is started (00 R11, R477): both signatures verify, the digest is the body's, and its SVN is not below the
minimum fused for its kind. -/
def imageOk (s : State) (r : BringUp) (k : ImageKind) : Bool :=
  let x := imageReport r k
  x.ed25519 == .valid && x.mldsa == .valid && x.digest && decide (mapGet 0 s.minSvn (imageNumber k) ≤ x.svn)

/-- The first image of a list that is refused. -/
def refusedImage (s : State) (r : BringUp) (ks : List ImageKind) : Option ImageKind := listFind (fun k => !imageOk s r k) ks

/-- The images that a step verifies. -/
def stepImages (n : Nat) : List ImageKind :=
  match n with
  | 2 => [.secureMonitor]
  | 3 => [.controllerFirmware, .memoryTraining, .carderMicrocode]
  | 7 => [.coltaup]
  | _ => []

/-- Bring-up stopped at a step, which the module controller reports, with the kind of the image where one is refused. -/
def stopAt (s : State) (r : BringUp) (n : Nat) : State :=
  let more := match refusedImage s r (stepImages n) with
    | some k => [.imageRefused k]
    | none => []
  { s with stopStep := n, log := s.log ++ [.bringUpStopped n] ++ more }

/-- Whether a step fails. -/
def stepFails (s : State) (r : BringUp) (n : Nat) : Bool :=
  r.failedStep == n || (refusedImage s r (stepImages n)).isSome

/-- The link session keys set (step 4). -/
def setSessionKeys (s : State) : State :=
  (List.range 48).foldl (fun s k => putStack s k { getStack s k with sessionKey := 1 }) s

/-- What a step of bring-up before the last does: the link session keys are set, memory is trained with the repair log
replayed, and the fabric links are trained. -/
def bringStep (r : BringUp) (s : State) (n : Nat) : State :=
  match n with
  | 4 => setSessionKeys s
  | 5 => (List.range 48).foldl (trainStack r.untrained) (replayRepairs s s.repairLog)
  | 6 => { s with deadLinks := r.deadLinks }
  | 7 => startColtaup { s with powered := true } 0
  | _ => s

/-- Steps run in order, up to the one that fails. -/
def bringSteps (r : BringUp) (s : State) : List Nat → State
  | [] => s
  | n :: rest => if stepFails s r n then stopAt s r n else bringSteps r (bringStep r s n) rest

/-- BRING_UP (R483): the steps run in order up to the one that fails. -/
def execBringUp (s : State) : Host.Outcome State Fault Refusal :=
  .next (bringSteps s.input.report (cleared s) [1, 2, 3, 4, 5, 6, 7])

end Sys2Proof.Machine
end

