-- ==== Sys2Proof/Machine/Io.lean ====
section
/-! DEFINITION. Loads and stores of I/O space (11 R239, 22 R432, R488): the registers of the blocks, the host windows and
the storage ports' spaces. They are performed when they issue, in program order, one at a time. -/

namespace Sys2Proof.Machine

open Sys2Proof

/-! ## Reads -/

/-- KEYV and IKEYV: which of 64 slots of a kind are loaded. -/
def keyBits (s : State) (kind m : Nat) : Word := flagWord ((List.range 64).map fun k => (getKey s kind (64 * m + k)).key.isSome)

/-- The memory-map block's registers (18 R351). -/
def readMemoryMap (s : State) (off : Nat) : Word :=
  if off = 0x18 then retStat s
  else if off = 0x28 then pprStat s
  else if off = 0x30 then s.mapq
  else if off = 0x38 then s.mapr
  else if within off 0x40 0x60 then keyBits s 0 ((off - 0x40) / 8)
  else if within off 0x400 0x700 then
    let k := (off - 0x400) / 16
    if off % 16 = 0 then ~~~ (getStack s k).dead else rateWord (getStack s k)
  else
    let n := (off - 0x1000) / 0x80
    let o := (off - 0x1000) % 0x80
    if o = 0 then BitVec.ofNat 64 (getDomain s n).base
    else if o = 8 then geomWord (getDomain s n)
    else if o = 0x10 then BitVec.ofNat 64 (domainP s n)
    else mapGet 0 (getDomain s n).folds ((o - 0x40) / 8)

/-- The image key block's registers (22 R441). -/
def readImageKey (s : State) (d : Die) (off : Nat) : Word :=
  match off with
  | 0x20 => d.sealSrc | 0x28 => d.sealDst | 0x30 => d.sealPit | 0x38 => d.sealNonce | 0x40 => d.sealRow
  | 0x50 => sealStat d
  | _ => keyBits s 1 (off / 8)

/-- The pre-emption block's registers (21 R419). -/
def readPreempt (d : Die) (off : Nat) : Word :=
  match off with
  | 0 => d.saveBase | 8 => d.saveLim | 0x10 => d.saveKey.zeroExtend 64 | 0x18 => d.plaunch | 0x20 => d.pwg
  | 0x30 => preStat d
  | _ => d.pimage

/-- The hub block's registers (22 R433). -/
def readHub (h : Hub) (off : Nat) : Word :=
  if off = 0 then h.hwinBase
  else if off = 8 then h.hkey.zeroExtend 64
  else if off = 0x18 then h.hostBase
  else if off = 0x20 then hubStat h
  else
    let p := getPort h ((off - 0x40) / 0x20)
    match (off - 0x40) % 0x20 with
    | 0 => p.winBase
    | 8 => p.winLim
    | 0x10 => p.key.zeroExtend 64
    | _ => BitVec.ofNat 64 (p.irqCore.toNat + p.irqEnable.toNat * 2 ^ 8)

/-- The scale-out block's registers (22 R442). -/
def readScaleOut (h : Hub) (off : Nat) : Word :=
  match off with
  | 0 => h.xmod.zeroExtend 64 | 8 => h.xsrc | 0x10 => h.xdst | 0x18 => h.xrec
  | _ => scaleStat h

/-- The system-core block's registers (25 R485). -/
def readSystemCore (d : Die) (off : Nat) : Word :=
  let x := getSc d (off / 0x40)
  match off % 0x40 with
  | 0 => x.pc | 8 => x.arg | 0x10 => x.asid.zeroExtend 64 | 0x20 => scStat x
  | _ => x.vec

/-- A register's value. -/
def ioRead (s : State) (b : IoBlock) (unit off : Nat) : Word :=
  let d := getDie s unit
  match b with
  | .translation => match off with | 0 => d.astbase | 8 => d.invva | _ => invStat d
  | .batt => match off with | 0 => flagWord [d.battEn] | 8 => battStat d | _ => battCnt d
  | .imageKey => readImageKey s d off
  | .memoryMap => readMemoryMap s off
  | .preempt => readPreempt d off
  | .hub => readHub (getHub s unit) off
  | .scaleOut => readScaleOut (getHub s unit) off
  | .systemCore => readSystemCore d off
  | .mailbox => mailStat d

/-- A load of `n` bytes at an I/O offset: a register, or what is beyond the module, whose value is free. -/
def ioLoad (s : State) (o n : Nat) : Nat × State :=
  let outside := ((Config.outsideRead s.drawn o).toNat % 2 ^ (8 * n), { s with drawn := s.drawn + 1 })
  match ioPlace o with
  | .reg b unit off => ((ioRead s b unit (off / 8 * 8)).toNat % 2 ^ (8 * n), s)
  | .hostWindow _ _ | .storageSpace _ _ | .hole => outside

/-! ## Writes -/

/-- The memory-map block's registers written; none while a request is busy. -/
def writeMemoryMap (s : State) (off : Nat) (x : Word) (by_ : Nat) : Option State :=
  if off = 0x10 then storeRetreq s x by_
  else if off = 0x20 then storePprreq s x by_
  else if off = 0x30 then some (storeMapq s x)
  else if within off 0x400 0x700 then some (storeRate s ((off - 0x400) / 16) x)
  else some (storeDomain s ((off - 0x1000) / 0x80) ((off - 0x1000) % 0x80) x)

/-- The image key block's registers written. -/
def writeImageKey (s : State) (die off : Nat) (x : Word) (by_ : Nat) : Option State :=
  let d := getDie s die
  match off with
  | 0x20 => some (putDie s die { d with sealSrc := keep x 51 3 })
  | 0x28 => some (putDie s die { d with sealDst := keep x 51 3 })
  | 0x30 => some (putDie s die { d with sealPit := keep x 31 3 })
  | 0x38 => some (putDie s die { d with sealNonce := x })
  | 0x40 => some (putDie s die { d with sealRow := keep x 31 0 })
  | _ => storeSealgo s die x by_

/-- The pre-emption block's registers written. -/
def writePreempt (s : State) (die off : Nat) (x : Word) (by_ : Nat) : Option State :=
  let d := getDie s die
  match off with
  | 0 => some (putDie s die { d with saveBase := keep x 51 12 })
  | 8 => some (putDie s die { d with saveLim := keep x 51 12 })
  | 0x10 => some (putDie s die { d with saveKey := BitVec.ofNat 8 x.toNat })
  | 0x18 => some (putDie s die { d with plaunch := keep x 62 0 })
  | 0x20 => some (putDie s die { d with pwg := x })
  | 0x28 => storePreq s die x by_
  | _ => some (storePrel s die x)

/-- The hub block's registers written. -/
def writeHub (s : State) (h off : Nat) (x : Word) : State :=
  let b := getHub s h
  if off = 0 then putHub s h { b with hwinBase := keep x 51 30 }
  else if off = 8 then putHub s h { b with hkey := BitVec.ofNat 8 x.toNat }
  else if off = 0x10 then storeHmsix s h x
  else if off = 0x18 then putHub s h { b with hostBase := keep x 63 12 }
  else
    let n := (off - 0x40) / 0x20
    let p := getPort b n
    putHub s h (putPort b n (match (off - 0x40) % 0x20 with
      | 0 => { p with winBase := keep x 51 12 }
      | 8 => { p with winLim := keep x 51 12 }
      | 0x10 => { p with key := BitVec.ofNat 8 x.toNat }
      | _ => { p with irqCore := BitVec.ofNat 6 x.toNat, irqEnable := bitAt x 8 }))

/-- The scale-out block's registers written. -/
def writeScaleOut (s : State) (h off : Nat) (x : Word) (by_ : Nat) : Option State :=
  let b := getHub s h
  match off with
  | 0 => some (putHub s h { b with xmod := BitVec.ofNat 16 x.toNat })
  | 8 => some (putHub s h { b with xsrc := keep x 51 3 })
  | 0x10 => some (putHub s h { b with xdst := keep x 51 3 })
  | 0x18 => some (putHub s h { b with xrec := keep x 51 6 })
  | _ => storeXgo s h x by_

/-- The system-core block's registers written. -/
def writeSystemCore (s : State) (die off : Nat) (x : Word) : State :=
  let i := off / 0x40
  let d := getDie s die
  let y := getSc d i
  match off % 0x40 with
  | 0 => putDie s die (putSc d i { y with pc := keep x 56 2 })
  | 8 => putDie s die (putSc d i { y with arg := x })
  | 0x10 => putDie s die (putSc d i { y with asid := BitVec.ofNat 16 x.toNat })
  | 0x18 => storeScctl s (2 * die + i) x
  | _ => storeScvec s (2 * die + i) x

/-- A register written by a system core; none while its block is busy. -/
def ioWrite (s : State) (b : IoBlock) (unit off : Nat) (x : Word) (by_ : Nat) : Option State :=
  let d := getDie s unit
  match b with
  | .translation =>
    match off with
    | 0 => some (putDie s unit { d with astbase := keep x 51 20 })
    | 8 => some (putDie s unit { d with invva := keep x 56 18 })
    | _ => storeInvreq s unit x by_
  | .batt =>
    match off with
    | 0 => storeBattctl s unit x by_
    | _ => some (putDie s unit { d with coll := BitVec.ofNat 32 (bf x 31 0), drop := BitVec.ofNat 32 (bf x 63 32) })
  | .imageKey => writeImageKey s unit off x by_
  | .memoryMap => writeMemoryMap s off x by_
  | .preempt => writePreempt s unit off x by_
  | .hub => some (writeHub s unit off x)
  | .scaleOut => writeScaleOut s unit off x by_
  | .systemCore => some (writeSystemCore s unit off x)
  | .mailbox => storeMreq s unit x by_

/-- A store of `n` bytes at an I/O offset by system core `by_`; none while the block is busy. -/
def ioStore (s : State) (o n x by_ : Nat) : Option State :=
  match ioPlace o with
  | .reg b unit off => ioWrite s b unit (off / 8 * 8) (BitVec.ofNat 64 x) by_
  | .hostWindow h off => some (hostWrite s h off (toBytes x n))
  | .storageSpace p off => some (deviceWrite s p off (toBytes x n))
  | .hole => some s

/-- IO_REGISTER_WRITE (22 R488): a supervisor store of doubleword `value` by system core `place` to the register at I/O
offset `id`; a store that its block's table does not grant has no effect, and one that would pass the core's die's frozen port
waits (25 R479). -/
def execIoRegisterWrite (s : State) : Host.Outcome State Fault Refusal :=
  let a := s.input
  .next (match ioPlace a.id with
    | .reg _ _ off =>
      if ioGranted a.id 8 true && off % 8 == 0 && decide (a.place < 48) &&
          ioReached s (partOf s (a.place / 2)) a.id then
        (if ioHeld s (a.place / 2) a.id then none else ioStore s a.id 8 a.value.toNat a.place).getD
          (again s (.event .ioRegisterWrite a))
      else s
    | _ => s)

end Sys2Proof.Machine
end

