-- ==== Sys2Proof/Machine/Quad.lean ====
section
/-! DEFINITION. Beginning a clause (04 R84 to R90), rep (04 R100 to R103), and a quad's fast file and issue choice
(09 R195 to R208). -/

namespace Sys2Proof.Machine

open Sys2Proof

/-! ## CLAUSE_BEGIN (04 R84 to R90) -/

/-- The classes that a role admits (04 R89). -/
def roleAdmits (r : Role) (ecl : Nat) : Bool :=
  match r with
  | .vector => ecl == 0 || ecl == 1 || ecl == 2
  | .matrix => ecl == 0 || ecl == 3
  | .copy => ecl == 0 || ecl == 4
  | .general => decide (ecl ≤ 4)

/-- The checks of a header in the order of R106: its own fields, privilege, role, and the window's bound. -/
def headerChecks (c : Ctx) (system : Bool) (h : ClauseHeader) : Res Unit := do
  need (h.n != 0) 0x03
  need (decide (h.ecl.toNat < 6)) 0x03
  need (h.low == 0) 0x03
  need (decide (h.wbase.toNat + h.wlen.toNat ≤ 255)) 0x03
  need (h.ecl != 5 || isPriv c) 0x07
  need (if system then (h.ecl == 0 || h.ecl == 5) && !h.lease else h.ecl == 5 || roleAdmits c.role h.ecl.toNat) 0x06
  need (system || decide (h.wbase.toNat + h.wlen.toNat < c.allot)) 0x04

/-- FULL: every window register is full in every lane of the strand's mask (R85). -/
def windowFull (c : Ctx) (x : Strand) (h : ClauseHeader) : Bool :=
  (windowRegs h).all fun r => (lanesOf x.mask).all fun l => (getV c r l).fill == .full

/-- QUIET: no copy that the warp issued is incomplete, on whichever core it issued (R85, 17 R324, R344). -/
def warpQuiet (s : State) : Bool :=
  !someEngine s fun o => ofWarp (cur s) o && inBatches o.kind

/-- The executing strand stands at a header: it is checked, and the clause begins once its window is resident and its
conditions hold. DESIGN CHOICE (log entry 79): at a LEASE clause the lease is asked for once the window is resident and FULL
and QUIET hold; until then its workgroup does not wait for it. -/
def beginClause (s : State) : Host.Outcome State Fault Refusal :=
  let key := s.focus.key
  if codeHeld s key (curStrand s).ca then .next (awaitCode s) else
  match fetchCode s key (curStrand s).ca with
  | .error (c, a, d) => run s (.error (.trap c a d))
  | .ok w =>
    if !isHeader w then run s (.error (.trap 0x03 0 0))
    else
      let h := decodeHeader w
      match headerChecks (cur s) (isSystem key) h with
      | .error e => run s (.error e)
      | .ok _ =>
        let s := setStrand s { curStrand s with hdr := h }
        let begun := fun (s : State) =>
          pinWindow (setStrand s { curStrand s with begun := true, wi := 1, wait := .ready })
        if isSystem key then .next (begun s)
        else if !windowResident s then .next (awaitWindow s)
        else if (h.full && !windowFull (cur s) (curStrand s) h) || (h.quiet && !warpQuiet s) then .next (hold s .clause)
        else if h.lease then
          let s := askLease s
          if holdsLease s then .next (begun s) else .next (hold s .lease)
        else .next (begun s)

/-- CLAUSE_BEGIN (R85). -/
def execClauseBegin (s : State) : Host.Outcome State Fault Refusal :=
  let a := s.input.who
  if issuable s a && !(getStrand (getCtx s a.key) a.slot).begun then
    (match beginClause { s with focus := a } with
     | .next t => .next (arrived { s with focus := a } t)
     | o => o)
  else .next s

/-! ## rep (04 R100 to R103; 19 R393) -/

/-- Whether a word may be the target of a rep whose STEP names the given fields. -/
def repTarget (w : Code) (d a b : Bool) : Bool :=
  let m := majorOf w
  !isHeader w && !isExtension w &&
    (match majorFormat m with
     | some .vr => m != 0x61 && m != 0x14
     | some .vi => !a && !b
     | some .mx => m == 0x73 || (m == 0x76 && !d && !a && !b)
     | _ => false)

/-- rep: it takes up its repeats, afresh unless REPC lies in 1 to n. An exemption of 24 R468 holds for the repeat that comes
next, with which the rep word is one instruction (R101). -/
def execRep (x y z : BitVec 1) (n : BitVec 6) (s : State) : Host.Outcome State Fault Refusal :=
  let t := curStrand s
  let fresh := fun (s : State) =>
    let k := n.toNat + 1
    let repc := if 1 ≤ t.srepc.toNat ∧ t.srepc.toNat ≤ k then t.srepc else BitVec.ofNat 7 k
    setStrand s { t with srepc := repc, inRep := true, overD := 0, overA := 0, overB := 0, wait := .ready }
  run s (
    if t.hdr.n.toNat ≤ t.wi.toNat then .error (.trap 0x17 0 0)
    else
      match fetchCode s s.focus.key (wordAddress t (t.wi.toNat + 1)) with
      | .error (c, a, d) => .error (.trap c a d)
      | .ok w => if repTarget w (x == 1) (y == 1) (z == 1) then .ok (fresh s) else .error (.trap 0x17 0 0))

/-- REP_REPEAT (R100): a strand with repeats left issues the next one. -/
def execRepRepeat (s : State) : Host.Outcome State Fault Refusal :=
  let a := s.input.who
  .next (if issuable s a && (getStrand (getCtx s a.key) a.slot).inRep then { s with agenda := .issue a :: s.agenda }
         else s)

/-! ## The fast file (09 R197 to R200) -/

/-- Whether a slot is pinned: some strand of its warp is inside a clause that began on it, and has not given the pin back
(R199, R200). -/
def slotPinned (s : State) (core quad i : Nat) : Bool :=
  let f := mapGet ({} : FastSlot) (getQuad (getCore s core) quad).fast i
  (getCtx s (core * 64 + quad * 16 + f.warp.toNat)).strands.any fun e =>
    e.2.valid && e.2.begun && e.2.pinned && e.2.pins.contains i

/-- The slot that the load of a window of a warp takes: a free one, else the unpinned slot issued from least recently, the
lowest on ties (R199). DESIGN CHOICE (log entry 115): of several free slots the lowest-numbered is taken. The slots in `taken` are those that the same load has just filled. -/
def slotForLoad (s : State) (key : Nat) (taken : List Nat) : Option Nat :=
  let q := getQuad (getCore s (keyCore key)) (keyQuad key)
  match listFind (fun i => !(mapGet ({} : FastSlot) q.fast i).valid) (List.range 8) with
  | some i => some i
  | none =>
    let free := (List.range 8).filter fun i =>
      !slotPinned s (keyCore key) (keyQuad key) i && !taken.contains i
    free.foldl
      (fun (best : Option Nat) i =>
        match best with
        | none => some i
        | some j =>
          if (mapGet ({} : FastSlot) q.fast i).lastUse < (mapGet ({} : FastSlot) q.fast j).lastUse then some i
          else some j)
      none

/-- A window of a warp loaded for one pass, where a slot can be taken, with the slots that its load has filled. A slot not
yet issued from ranks as if its warp had issued from it when it was loaded, and a load does not evict what it has just
loaded for the other pass (log entry 73). -/
def loadPass (key : Nat) (h : ClauseHeader) (r : State × List Nat) (pass : Bool) : State × List Nat :=
  let s := r.1
  if passResident s key h pass then r
  else
    match slotForLoad s key r.2 with
    | none => r
    | some i =>
      let k := getCore s (keyCore key)
      let q := getQuad k (keyQuad key)
      let f : FastSlot :=
        { valid := true, warp := BitVec.ofNat 4 key, pass := pass, base := h.wbase, len := h.wlen, lastUse := q.issues }
      (putCore s (keyCore key) (putQuad k (keyQuad key) { q with fast := mapPut {} q.fast i f }), i :: r.2)

/-- Whether a strand gives back its pin: it has waited inside its clause for 64 cycles of its quad (R200). -/
def mayGivePin (s : State) (a : Agent) : Bool :=
  let x := getStrand (getCtx s a.key) a.slot
  x.valid && x.begun && x.pinned && decide (64 ≤ x.waitCount) &&
    (match x.wait with
     | .held w _ => pinWait w
     | .ready => false)

/-- A pin given back; the load of the clause in which the strand resumes is started where its window is not resident
(R197). -/
def givePin (s : State) (a : Agent) : State :=
  let c := getCtx s a.key
  startLoad (putCtx s a.key (putStrand c a.slot { getStrand c a.slot with pinned := false, pinBack := true })) a

/-- The strands of a quad whose given-back windows an eviction has taken and whose waits have ended: inside a clause, without a
pin, their windows not resident. -/
def evicted (s : State) (core quad : Nat) : List Agent :=
  (strandsOf s).filter fun a =>
    let x := getStrand (getCtx s a.key) a.slot
    !isSystem a.key && a.key / 16 == core * 4 + quad && x.begun && !x.pinned && !isHeld s a &&
      ((standingHeader s a).map (residentWindow s a.key)) == some false

/-- WINDOW_LOAD (R197): the window of the clause at which a strand stands is loaded, and loads are started for the strands
whose windows it evicts; where every slot is pinned, the load
waits (R199) while the quad's cycles pass, in which strands that wait give their pins back (R200). -/
def windowLoad (s : State) (a : Agent) : State :=
  if isSystem a.key || !(getStrand (getCtx s a.key) a.slot).valid then s
  else
    match standingHeader s a with
    | none => s
    | some h =>
      let r := (passesOf (getCtx s a.key)).foldl (loadPass a.key h) (s, [])
      let t := startLoads r.1 (evicted r.1 (keyCore a.key) (keyQuad a.key))
      if residentWindow t a.key h then t else again (cycleDue t a.key) (.event .windowLoad { who := a })

/-- WINDOW_LOAD. -/
def execWindowLoad (s : State) : Host.Outcome State Fault Refusal := .next (windowLoad s s.input.who)

/-- PIN_GIVEBACK (R200). -/
def execPinGiveback (s : State) : Host.Outcome State Fault Refusal :=
  .next (if mayGivePin s s.input.who then givePin s s.input.who else s)

/-! ## Bank use (R208) -/

/-- The run of wide registers of x.sepk and x.seunpk. -/
def wideCount (w : Code) : Nat := seCodes (bits w 3 2) / subs (field w 19 3)

/-- The vector register fields of a word, as (field value, which excess applies: 0 d, 1 a, 2 b, 3 none), with the
successors that its form reads or writes. -/
def bankFields (w : Code) : List (Nat × Nat) :=
  let m := majorOf w
  let d := bits w 13 6
  let a := bits w 7 6
  let b := bits w 1 6
  let run := fun (x n k : Nat) => (List.range n).map fun i => (x + i, k)
  match majorFormat m with
  | some .vr =>
    let v := vectorFields m
    if m = 0x4A then run d 2 0 ++ run a (wideCount w) 1
    else if m = 0x4B then run d (wideCount w) 0 ++ run a 2 1
    else if m = 0x5B then run d (a + 1) 0
    else if m = 0x14 then [(a, 1)]
    else if m = 0x5C then run d 2 0 ++ [(a, 1), (b, 2)]
    else if m = 0x5D then [(d, 0), (a, 1)] ++ run b 2 2
    else if m = 0x5E then run d 2 0 ++ [(a, 1)]
    else if m = 0x47 then [(d, 0)] ++ run a 2 1
    else if m = 0x48 then [(d, 0)] ++ run a 2 1 ++ [(b, 2)]
    else if m = 0x49 then (if b = 0 then [(d, 0)] else [(a, 1)])
    else if m = 0x3C ∧ bits w 19 3 = 1 then []
    else (if v.1 then [(d, 0)] else []) ++ (if v.2.1 then [(a, 1)] else []) ++ (if v.2.2 then [(b, 2)] else [])
  | some .vi => [(d, 0)]
  | some .xi => [(d, 3), (a, 3)]
  | some .vm => run d (if bits w 19 3 = 7 then 2 else 1) 3 ++ (if m = 0x52 then [] else [(a, 3)])
  | some .va => run (bits w 12 6) (if m = 0x57 then 2 else 1) 3 ++ [(bits w 6 6, 3)]
  | some .lg => if bits w 22 3 = 2 then [] else [(d, 3), (a, 3)]
  | _ => []

/-- A word that a strand offers to its quad, with the excess of its stepped d, a and b fields (04 R100) and its clause's
header. -/
structure Offered where
  word : Code
  overD : Nat
  overA : Nat
  overB : Nat
  hdr : ClauseHeader
  deriving DecidableEq, Repr

/-- The absolute vector registers that an offered word uses; mx.acc.get uses those of its shape, and mx.lease.bind names
the first of its two runs (19 R380). -/
def bankRegs (c : Ctx) (o : Offered) : List Nat :=
  if majorOf o.word = 0x77 ∧ bits o.word 23 2 = 2 then [bits o.word 12 6 + c.xb.toNat, bits o.word 6 6 + c.xb.toNat]
  else if majorOf o.word = 0x76 ∧ bits o.word 14 2 = 2 then
    let y := shapeOf (mapGet 0 c.shapes (bits o.word 19 3))
    (List.range ((y.gm + laneCount c - 1) / laneCount c * (y.gn / 2))).map fun i =>
      bits o.word 8 6 + c.xb.toNat + i
  else
    (bankFields o.word).map fun e =>
      e.1 + c.xb.toNat +
        (match e.2 with
         | 0 => o.overD
         | 1 => o.overA
         | 2 => o.overB
         | _ => 0)

/-- An instruction that a quad could issue: its class, its banks, and whether it issues only alone (R201, R207). -/
structure Offer where
  who : Agent
  cls : Nat
  banks : List Nat
  alone : Bool
  deriving DecidableEq, Repr

/-- The repeat of a rep at which a strand stands (04 R100). -/
def repeatOf (x : Strand) (r : Code) : Nat :=
  let n := bits r 13 6 + 1
  if 1 ≤ x.srepc.toNat ∧ x.srepc.toNat ≤ n then n - x.srepc.toNat else 0

/-- The word that a strand offers: the next word of its clause, or a rep's target with its stepped fields (R203). -/
def offeredWord (s : State) (a : Agent) : Option Offered :=
  let x := getStrand (getCtx s a.key) a.slot
  match fetchCode s a.key x.ca with
  | .error _ => none
  | .ok h =>
    let wi := if x.begun then x.wi.toNat else 1
    match fetchCode s a.key (wordAddress x wi) with
    | .error _ => none
    | .ok w =>
      if majorOf w = 0x78 then
        match fetchCode s a.key (wordAddress x (wi + 1)) with
        | .error _ => none
        | .ok t =>
          (steppedWord w t (repeatOf x w)).map fun v => ⟨v.1, v.2.1, v.2.2.1, v.2.2.2, decodeHeader h⟩
      else some ⟨w, 0, 0, 0, decodeHeader h⟩

/-- The second pass that a strand has still to issue (06 R135). -/
def passDue (x : Strand) : Option SecondPass := x.secondPass.filter fun p => p.due

/-- What a strand offers: the second pass of its last instruction offers what the first did; an instruction that cannot be read
issues alone. -/
def offerOf (s : State) (a : Agent) : Offer :=
  let c := getCtx s a.key
  match passDue (getStrand c a.slot), offeredWord s a with
  | some p, _ => { who := a, cls := p.cls, banks := p.banks, alone := p.alone }
  | none, none => { who := a, cls := 0, banks := [], alone := true }
  | none, some o =>
    let regs := bankRegs c o
    { who := a, cls := (majorClass (majorOf o.word)).getD 0, banks := (regs.map (· % 8)).eraseDups,
      alone := (regs.any fun r => !(windowRegs o.hdr).contains r) || majorOf o.word == 0x60 || majorOf o.word == 0x14 ||
        (getStrand c a.slot).pinBack }

/-- What a chosen strand does in its issue: the header and the rep word before its instruction take no cycle (R198). -/
def issueActs (s : State) (a : Agent) : List Act :=
  let x := getStrand (getCtx s a.key) a.slot
  let wi := if x.begun then x.wi.toNat else 1
  let rep := match fetchCode s a.key (wordAddress x wi) with
    | .ok w => majorOf w == 0x78 && !x.inRep
    | .error _ => false
  if (passDue x).isSome then [.issue a]
  else (if x.begun then [] else [.event .clauseBegin { who := a }]) ++ (if rep then [.issue a] else []) ++ [.issue a]

/-- Whether a word's form covers the passes of a 64-lane warp one after the other: vector, memory, cross-lane and strand
forms (06 R135), call.lane, which works on groups of lanes, among the last. DESIGN CHOICE (log entry 113): the forms without
vector operands whose guard is a predicate or that name one address, m.arrive, m.wait, fence and lg.bar, take one issue. -/
def coversPasses (w : Code) : Bool :=
  match majorFormat (majorOf w) with
  | some .vr | some .vi | some .xi | some .vm | some .va | some .fk => true
  | some .lg => bits w 22 3 != 2
  | _ => majorOf w == 0x46 || majorOf w == 0x4C || (decide (0x62 ≤ majorOf w) && decide (majorOf w ≤ 0x66))

/-- The second pass that a strand's next instruction will have: the strand has lanes in both (06 R135). -/
def secondOf (s : State) (a : Agent) : Option SecondPass :=
  let x := getStrand (getCtx s a.key) a.slot
  match offeredWord s a with
  | none => none
  | some o =>
    if isWide (getCtx s a.key) && passMeets x.mask false && passMeets x.mask true && (passDue x).isNone &&
        coversPasses o.word then
      let f := offerOf s a
      some { cls := f.cls, banks := f.banks, alone := f.alone, hdr := o.hdr }
    else none

/-! ## Choosing what issues (R205 to R207) -/

/-- The ready strands of a quad, as the step has found them (08 R178). -/
def readyStrands (s : State) (core quad : Nat) : List Agent :=
  s.input.ready.filter fun a => a.key / 16 == core * 4 + quad

/-- The ready strands of a warp in the order of R205: round-robin by slot, from after the one that issued last. -/
def roundRobin (s : State) (ready : List Agent) (key : Nat) : List Agent :=
  let mine := ready.filter fun a => a.key == key
  let last := (getCtx s key).lastSlot
  (mine.filter fun a => decide (last < a.slot)) ++ mine.filter fun a => decide (a.slot ≤ last)

/-- The strand that a warp issues (R205). -/
def warpChoice (s : State) (ready : List Agent) (key : Nat) : Option Agent := (roundRobin s ready key).head?

/-- The starving strands, the longest-waiting first; on ties that of the older warp, and within a warp in the order of R205
(R206 rule 1). -/
def starving (s : State) (q : Quad) (ready : List Agent) : List Agent :=
  let count := fun a : Agent => (getStrand (getCtx s a.key) a.slot).readyCount
  let hungry := ready.filter fun a => decide (2 * ready.length ≤ count a + 2)
  let byAge := q.ages.flatMap fun k => roundRobin s hungry k
  byAge.mergeSort fun a b => decide (count b ≤ count a)

/-- Whether a strand is inside a class-3 clause. DESIGN CHOICE (log entry 118): one that stands at a header whose clause has not
begun is not. -/
def inMatrixClause (s : State) (a : Agent) : Bool :=
  let x := getStrand (getCtx s a.key) a.slot
  match passDue x with
  | some p => p.hdr.ecl == 3
  | none => x.begun && (standingHeader s a).any fun h => h.ecl == 3

/-- The strands that R205 chooses in the warps that hold the lease with a ready strand inside a class-3 clause (R206 rule
2); DESIGN CHOICE (log entry 117): of several such warps the oldest comes first. -/
def leaseWarps (s : State) (core : Nat) (q : Quad) (ready : List Agent) : List Agent :=
  if q.lastLease then []
  else
    q.ages.flatMap fun k =>
      if (getCore s core).leaseHolder = some (getCtx s k).wg ∧ (ready.any fun a => a.key == k && inMatrixClause s a) then
        (warpChoice s ready k).toList
      else []

/-- The strands in the order of R206. -/
def issueOrder (s : State) (core quad : Nat) : List Agent :=
  let q := getQuad (getCore s core) quad
  let ready := readyStrands s core quad
  starving s q ready ++ leaseWarps s core q ready ++ q.ages.flatMap fun k => (warpChoice s ready k).toList

/-- The second issue of a cycle (R207). DESIGN CHOICE (log entry 119): of a warp with several strands in the order, its starving
ones and its choice of R205, each is tried. -/
def secondIssue (s : State) (first : Agent) (order : List Agent) : Option Agent :=
  let f := offerOf s first
  if f.alone then none
  else
    listFind
      (fun a =>
        let o := offerOf s a
        a.key != first.key && o.cls != f.cls && !o.alone && o.banks.all fun b => !f.banks.contains b)
      order

/-- A strand after a cycle of its quad: ready without issuing, or waiting, it counts one more cycle (R200, R206); the count
of ready cycles is of consecutive ones, and a strand found ready has ended its wait. `second` is the second pass of what it
is about to issue (06 R135). -/
def cycleStrand (ready issues : Bool) (second : Option SecondPass) (x : Strand) : Strand :=
  { x with
    readyCount := if ready && !issues then x.readyCount + 1 else 0
    waitCount := match x.wait with
      | .held _ _ => if ready then 0 else x.waitCount + 1
      | .ready => 0
    secondPass := if (passDue x).isSome then x.secondPass else second }

/-- The strands of a quad count the cycle. -/
def countCycle (s : State) (core quad : Nat) (ready issue : List Agent) : State :=
  let second := fun a => if issue.contains a then secondOf s a else none
  { s with ctxs := s.ctxs.map fun e =>
      if isSystem e.1 || e.1 / 16 != core * 4 + quad then e
      else (e.1, { e.2 with strands := e.2.strands.map fun x =>
        (x.1, cycleStrand (ready.contains ⟨e.1, x.1⟩) (issue.contains ⟨e.1, x.1⟩) (second ⟨e.1, x.1⟩) x.2) }) }

/-- A strand was refused a park-table entry 32 cycles ago (13 R269). -/
def mayRetry (s : State) (a : Agent) : Bool :=
  let x := getStrand (getCtx s a.key) a.slot
  x.valid && (x.wait matches .held .refused _) && decide (32 ≤ x.waitCount)

/-- What a cycle brings about besides its issues: the ages rotate at a multiple of 256, strands give their pins back, and
refused strands become ready. -/
def cycleActs (s : State) (core quad : Nat) : List Act :=
  let mine := (strandsOf s).filter fun a => !isSystem a.key && a.key / 16 == core * 4 + quad
  (if (getQuad (getCore s core) quad).cycles % 256 = 0 then [.event .ageRotation { place := core, sub := quad }] else []) ++
    ((mine.filter (mayGivePin s)).map fun a => .event .pinGiveback { who := a }) ++
    ((mine.filter (mayRetry s)).map fun a => .event .parkRetry { who := a })

/-- QUAD_ISSUE_CYCLE (R205 to R207): the strands that the quad chooses issue next, and the quad's count goes up. Where a
chosen instruction has two passes, this issue is its first: both passes' checks, reads and effects come with it, and the second
pass takes the strand's next issue (06 R135; log entry 116). -/
def execQuadIssueCycle (s : State) : Host.Outcome State Fault Refusal :=
  let core := s.input.place
  let quad := s.input.sub % 4
  let k := getCore s core
  let q := getQuad k quad
  let ready := readyStrands s core quad
  let order := issueOrder s core quad
  let chosen := match order with
    | [] => []
    | a :: rest => a :: (secondIssue s a rest).toList
  let lease := match order with
    | [] => false
    | a :: _ => (leaseWarps s core q ready).contains a && !(starving s q ready).contains a
  let t := countCycle (putCore s core (putQuad k quad { q with cycles := q.cycles + 1, lastLease := lease })) core quad
    ready chosen
  .next { t with agenda := chosen.flatMap (issueActs s) ++ cycleActs t core quad ++ s.agenda }

/-- AGE_ROTATION (R205): at each multiple of 256 cycles the oldest warp becomes the youngest. -/
def execAgeRotation (s : State) : Host.Outcome State Fault Refusal :=
  let core := s.input.place
  let quad := s.input.sub % 4
  let k := getCore s core
  let q := getQuad k quad
  .next (if q.rotatedAt + 256 ≤ q.cycles then
      putCore s core (putQuad k quad { q with ages := q.ages.tail ++ q.ages.take 1, rotatedAt := q.rotatedAt + 256 })
    else s)

end Sys2Proof.Machine
end

