-- ==== Sys2Proof/Machine/Scalar.lean ====
section
/-! DEFINITION. Scalar arithmetic, comparisons, predicates, selection and bit fields (05 R107 to R117; 02 R48 to
R50). -/

namespace Sys2Proof.Machine

open Sys2Proof

/-! ## Forms -/

/-- S[d] ← f(S[a], y) of an SR form (05 R111). -/
def scalarSr (f : Word → Word → Word) (g : BitVec 3) (d a b : BitVec 6) (i : BitVec 1) (s : State) : Res State :=
  guarded g (fun s => do
    let x ← rdS s a
    let y ← srcB s b i
    freeS s d
    .ok (retire (wrS s d (f x y)) 1)) s

/-- S[d] ← f(S[a], sx(imm10)) of an SI form (05 R112). -/
def scalarSi (f : Word → Word → Word) (g : BitVec 3) (d a : BitVec 6) (i : BitVec 10) (s : State) : Res State :=
  guarded g (fun s => do
    let x ← rdS s a
    freeS s d
    .ok (retire (wrS s d (f x (sxField i))) 1)) s

/-- P[p] ← cond(S[a], y) of an SR form (05 R114). -/
def compareSr (k : Cond) (g p : BitVec 3) (a b : BitVec 6) (i : BitVec 1) (s : State) : Res State :=
  guarded g (fun s => do
    let x ← rdS s a
    let y ← srcB s b i
    .ok (retire (wrP s p (condHolds k x y)) 1)) s

/-- P[p] ← cond(S[a], sx(imm10)) (05 R114). -/
def compareSi (k : Cond) (g p : BitVec 3) (a : BitVec 6) (i : BitVec 10) (s : State) : Res State :=
  guarded g (fun s => do
    let x ← rdS s a
    .ok (retire (wrP s p (condHolds k x (sxField i))) 1)) s

/-- P[d] ← f(P[a], P[b]) (05 R115). -/
def predicateOp (f : Bool → Bool → Bool) (g d a b : BitVec 3) (s : State) : Res State :=
  guarded g (fun s => .ok (retire (wrP s d (f (getP (cur s) a.toNat) (getP (cur s) b.toNat))) 1)) s

/-- S[d] ← f(S[a]) (05 R117). -/
def scalarUnary (f : Word → Word) (g : BitVec 3) (d a : BitVec 6) (s : State) : Res State :=
  guarded g (fun s => do
    let x ← rdS s a
    freeS s d
    .ok (retire (wrS s d (f x)) 1)) s

/-! ## Functions (02 R48 to R50, 05 R117) -/

/-- The amount of a shift: its low six bits (R49). -/
def shiftAmount (y : Word) : Nat := y.toNat % 64

/-- Bits [127:64] of the exact signed product. -/
def mulHighSigned (x y : Word) : Word := BitVec.ofNat 64 (wrapInt (x.toInt * y.toInt / ((2 ^ 64 : Nat) : Int)) 64)

/-- Bits [127:64] of the exact unsigned product. -/
def mulHighUnsigned (x y : Word) : Word := BitVec.ofNat 64 (x.toNat * y.toNat / 2 ^ 64)

/-- Signed division truncating toward zero; by zero all ones (R50). -/
def divSigned (x y : Word) : Word := if y = 0 then BitVec.allOnes 64 else BitVec.ofInt 64 (Int.tdiv x.toInt y.toInt)

/-- Signed remainder with the sign of the dividend; by zero the dividend (R50). -/
def remSigned (x y : Word) : Word := if y = 0 then x else BitVec.ofInt 64 (Int.tmod x.toInt y.toInt)

/-- Unsigned division; by zero all ones (R50). -/
def divUnsigned (x y : Word) : Word := if y = 0 then BitVec.allOnes 64 else BitVec.ofNat 64 (x.toNat / y.toNat)

/-- Unsigned remainder; by zero the dividend (R50). -/
def remUnsigned (x y : Word) : Word := if y = 0 then x else BitVec.ofNat 64 (x.toNat % y.toNat)

/-- The position and the width, cut at bit 63, of a field control word (R117). -/
def fieldOf (c : Word) : Nat × Nat := (bf c 5 0, min (bf c 11 6 + 1) (64 - bf c 5 0))

/-- The field of a word that a control word names, zero-extended. -/
def extractZero (x c : Word) : Word := BitVec.ofNat 64 (x.toNat / 2 ^ (fieldOf c).1 % 2 ^ (fieldOf c).2)

/-- The field sign-extended. -/
def extractSigned (x c : Word) : Word := sxWord (x.toNat / 2 ^ (fieldOf c).1) (fieldOf c).2

/-- A word with the field replaced by another's low bits. -/
def insertField (old x c : Word) : Word :=
  let p := (fieldOf c).1
  let w := (fieldOf c).2
  BitVec.ofNat 64 (old.toNat % 2 ^ p + x.toNat % 2 ^ w * 2 ^ p + old.toNat / 2 ^ (p + w) * 2 ^ (p + w))

/-- The eight bytes reversed. -/
def swapBytes (x : Word) : Word := BitVec.ofNat 64 (ofBytes (toBytes x.toNat 8).reverse)

/-! ## Meanings -/

/-- s.alu.add (R111). -/
def execSAluAdd (g : BitVec 3) (d a b : BitVec 6) (i : BitVec 1) (s : State) : Host.Outcome State Fault Refusal :=
  run s (scalarSr (· + ·) g d a b i s)

/-- s.alu.sub (R111). -/
def execSAluSub (g : BitVec 3) (d a b : BitVec 6) (i : BitVec 1) (s : State) : Host.Outcome State Fault Refusal :=
  run s (scalarSr (· - ·) g d a b i s)

/-- s.alu.and (R111). -/
def execSAluAnd (g : BitVec 3) (d a b : BitVec 6) (i : BitVec 1) (s : State) : Host.Outcome State Fault Refusal :=
  run s (scalarSr (· &&& ·) g d a b i s)

/-- s.alu.or (R111). -/
def execSAluOr (g : BitVec 3) (d a b : BitVec 6) (i : BitVec 1) (s : State) : Host.Outcome State Fault Refusal :=
  run s (scalarSr (· ||| ·) g d a b i s)

/-- s.alu.xor (R111). -/
def execSAluXor (g : BitVec 3) (d a b : BitVec 6) (i : BitVec 1) (s : State) : Host.Outcome State Fault Refusal :=
  run s (scalarSr (· ^^^ ·) g d a b i s)

/-- s.alu.shl (R111). -/
def execSAluShl (g : BitVec 3) (d a b : BitVec 6) (i : BitVec 1) (s : State) : Host.Outcome State Fault Refusal :=
  run s (scalarSr (fun x y => x <<< shiftAmount y) g d a b i s)

/-- s.alu.shr (R111). -/
def execSAluShr (g : BitVec 3) (d a b : BitVec 6) (i : BitVec 1) (s : State) : Host.Outcome State Fault Refusal :=
  run s (scalarSr (fun x y => x >>> shiftAmount y) g d a b i s)

/-- s.alu.sar (R111). -/
def execSAluSar (g : BitVec 3) (d a b : BitVec 6) (i : BitVec 1) (s : State) : Host.Outcome State Fault Refusal :=
  run s (scalarSr (fun x y => x.sshiftRight (shiftAmount y)) g d a b i s)

/-- s.alu2.mul (R111). -/
def execSAlu2Mul (g : BitVec 3) (d a b : BitVec 6) (i : BitVec 1) (s : State) : Host.Outcome State Fault Refusal :=
  run s (scalarSr (· * ·) g d a b i s)

/-- s.alu2.mulhs (R111). -/
def execSAlu2Mulhs (g : BitVec 3) (d a b : BitVec 6) (i : BitVec 1) (s : State) : Host.Outcome State Fault Refusal :=
  run s (scalarSr mulHighSigned g d a b i s)

/-- s.alu2.mulhn (R111). -/
def execSAlu2Mulhn (g : BitVec 3) (d a b : BitVec 6) (i : BitVec 1) (s : State) : Host.Outcome State Fault Refusal :=
  run s (scalarSr mulHighUnsigned g d a b i s)

/-- s.alu2.min (R111). -/
def execSAlu2Min (g : BitVec 3) (d a b : BitVec 6) (i : BitVec 1) (s : State) : Host.Outcome State Fault Refusal :=
  run s (scalarSr (fun x y => if x.sle y then x else y) g d a b i s)

/-- s.alu2.max (R111). -/
def execSAlu2Max (g : BitVec 3) (d a b : BitVec 6) (i : BitVec 1) (s : State) : Host.Outcome State Fault Refusal :=
  run s (scalarSr (fun x y => if x.sle y then y else x) g d a b i s)

/-- s.alu2.minn (R111). -/
def execSAlu2Minn (g : BitVec 3) (d a b : BitVec 6) (i : BitVec 1) (s : State) : Host.Outcome State Fault Refusal :=
  run s (scalarSr (fun x y => if x.ule y then x else y) g d a b i s)

/-- s.alu2.maxn (R111). -/
def execSAlu2Maxn (g : BitVec 3) (d a b : BitVec 6) (i : BitVec 1) (s : State) : Host.Outcome State Fault Refusal :=
  run s (scalarSr (fun x y => if x.ule y then y else x) g d a b i s)

/-- s.alu2.rotr (R111). -/
def execSAlu2Rotr (g : BitVec 3) (d a b : BitVec 6) (i : BitVec 1) (s : State) : Host.Outcome State Fault Refusal :=
  run s (scalarSr (fun x y => x.rotateRight (shiftAmount y)) g d a b i s)

/-- s.div.divs (R111). -/
def execSDivDivs (g : BitVec 3) (d a b : BitVec 6) (i : BitVec 1) (s : State) : Host.Outcome State Fault Refusal :=
  run s (scalarSr divSigned g d a b i s)

/-- s.div.divn (R111). -/
def execSDivDivn (g : BitVec 3) (d a b : BitVec 6) (i : BitVec 1) (s : State) : Host.Outcome State Fault Refusal :=
  run s (scalarSr divUnsigned g d a b i s)

/-- s.div.rems (R111). -/
def execSDivRems (g : BitVec 3) (d a b : BitVec 6) (i : BitVec 1) (s : State) : Host.Outcome State Fault Refusal :=
  run s (scalarSr remSigned g d a b i s)

/-- s.div.remn (R111). -/
def execSDivRemn (g : BitVec 3) (d a b : BitVec 6) (i : BitVec 1) (s : State) : Host.Outcome State Fault Refusal :=
  run s (scalarSr remUnsigned g d a b i s)

/-- s.addi (R112). -/
def execSAddi (g : BitVec 3) (d a : BitVec 6) (i : BitVec 10) (s : State) : Host.Outcome State Fault Refusal :=
  run s (scalarSi (· + ·) g d a i s)

/-- s.andi (R112). -/
def execSAndi (g : BitVec 3) (d a : BitVec 6) (i : BitVec 10) (s : State) : Host.Outcome State Fault Refusal :=
  run s (scalarSi (· &&& ·) g d a i s)

/-- s.ori (R112). -/
def execSOri (g : BitVec 3) (d a : BitVec 6) (i : BitVec 10) (s : State) : Host.Outcome State Fault Refusal :=
  run s (scalarSi (· ||| ·) g d a i s)

/-- s.xori (R112). -/
def execSXori (g : BitVec 3) (d a : BitVec 6) (i : BitVec 10) (s : State) : Host.Outcome State Fault Refusal :=
  run s (scalarSi (· ^^^ ·) g d a i s)

/-- s.movi (R113). -/
def execSMovi (g : BitVec 3) (d : BitVec 6) (i : BitVec 16) (s : State) : Host.Outcome State Fault Refusal :=
  run s (guarded g (fun s => do
    freeS s d
    .ok (retire (wrS s d (sxField i)) 1)) s)

/-- A word with halfword h replaced (R113). -/
def replaceHalf (x : Word) (h : BitVec 2) (i : BitVec 16) : Word :=
  BitVec.ofNat 64 (x.toNat - bf x (16 * h.toNat + 15) (16 * h.toNat) * 2 ^ (16 * h.toNat) + i.toNat * 2 ^ (16 * h.toNat))

/-- s.movk: unguarded (R113). -/
def execSMovk (h : BitVec 2) (d : BitVec 6) (i : BitVec 16) (s : State) : Host.Outcome State Fault Refusal :=
  run s (do
    let x ← rdS s d
    .ok (retire (wrS s d (replaceHalf x h i)) 1))

/-- s.cmp.eq (R114). -/
def execSCmpEq (g p : BitVec 3) (a b : BitVec 6) (i : BitVec 1) (s : State) : Host.Outcome State Fault Refusal :=
  run s (compareSr .eq g p a b i s)

/-- s.cmp.ne (R114). -/
def execSCmpNe (g p : BitVec 3) (a b : BitVec 6) (i : BitVec 1) (s : State) : Host.Outcome State Fault Refusal :=
  run s (compareSr .ne g p a b i s)

/-- s.cmp.lts (R114). -/
def execSCmpLts (g p : BitVec 3) (a b : BitVec 6) (i : BitVec 1) (s : State) : Host.Outcome State Fault Refusal :=
  run s (compareSr .lts g p a b i s)

/-- s.cmp.les (R114). -/
def execSCmpLes (g p : BitVec 3) (a b : BitVec 6) (i : BitVec 1) (s : State) : Host.Outcome State Fault Refusal :=
  run s (compareSr .les g p a b i s)

/-- s.cmp.ltn (R114). -/
def execSCmpLtn (g p : BitVec 3) (a b : BitVec 6) (i : BitVec 1) (s : State) : Host.Outcome State Fault Refusal :=
  run s (compareSr .ltn g p a b i s)

/-- s.cmp.len (R114). -/
def execSCmpLen (g p : BitVec 3) (a b : BitVec 6) (i : BitVec 1) (s : State) : Host.Outcome State Fault Refusal :=
  run s (compareSr .len g p a b i s)

/-- s.cmp.tst (R114). -/
def execSCmpTst (g p : BitVec 3) (a b : BitVec 6) (i : BitVec 1) (s : State) : Host.Outcome State Fault Refusal :=
  run s (compareSr .tst g p a b i s)

/-- s.cmp.ntst (R114). -/
def execSCmpNtst (g p : BitVec 3) (a b : BitVec 6) (i : BitVec 1) (s : State) : Host.Outcome State Fault Refusal :=
  run s (compareSr .ntst g p a b i s)

/-- s.cmpi.eq (R114). -/
def execSCmpiEq (g p : BitVec 3) (a : BitVec 6) (i : BitVec 10) (s : State) : Host.Outcome State Fault Refusal :=
  run s (compareSi .eq g p a i s)

/-- s.cmpi.ne (R114). -/
def execSCmpiNe (g p : BitVec 3) (a : BitVec 6) (i : BitVec 10) (s : State) : Host.Outcome State Fault Refusal :=
  run s (compareSi .ne g p a i s)

/-- s.cmpi.lts (R114). -/
def execSCmpiLts (g p : BitVec 3) (a : BitVec 6) (i : BitVec 10) (s : State) : Host.Outcome State Fault Refusal :=
  run s (compareSi .lts g p a i s)

/-- s.cmpi.les (R114). -/
def execSCmpiLes (g p : BitVec 3) (a : BitVec 6) (i : BitVec 10) (s : State) : Host.Outcome State Fault Refusal :=
  run s (compareSi .les g p a i s)

/-- s.cmpi.ltn (R114). -/
def execSCmpiLtn (g p : BitVec 3) (a : BitVec 6) (i : BitVec 10) (s : State) : Host.Outcome State Fault Refusal :=
  run s (compareSi .ltn g p a i s)

/-- s.cmpi.len (R114). -/
def execSCmpiLen (g p : BitVec 3) (a : BitVec 6) (i : BitVec 10) (s : State) : Host.Outcome State Fault Refusal :=
  run s (compareSi .len g p a i s)

/-- s.cmpi.tst (R114). -/
def execSCmpiTst (g p : BitVec 3) (a : BitVec 6) (i : BitVec 10) (s : State) : Host.Outcome State Fault Refusal :=
  run s (compareSi .tst g p a i s)

/-- s.cmpi.ntst (R114). -/
def execSCmpiNtst (g p : BitVec 3) (a : BitVec 6) (i : BitVec 10) (s : State) : Host.Outcome State Fault Refusal :=
  run s (compareSi .ntst g p a i s)

/-- p.op.and (R115). -/
def execPOpAnd (g d a b : BitVec 3) (s : State) : Host.Outcome State Fault Refusal :=
  run s (predicateOp (· && ·) g d a b s)

/-- p.op.or (R115). -/
def execPOpOr (g d a b : BitVec 3) (s : State) : Host.Outcome State Fault Refusal :=
  run s (predicateOp (· || ·) g d a b s)

/-- p.op.xor (R115). -/
def execPOpXor (g d a b : BitVec 3) (s : State) : Host.Outcome State Fault Refusal :=
  run s (predicateOp (· != ·) g d a b s)

/-- p.op.andn (R115). -/
def execPOpAndn (g d a b : BitVec 3) (s : State) : Host.Outcome State Fault Refusal :=
  run s (predicateOp (fun x y => x && !y) g d a b s)

/-- p.op.orn (R115). -/
def execPOpOrn (g d a b : BitVec 3) (s : State) : Host.Outcome State Fault Refusal :=
  run s (predicateOp (fun x y => x || !y) g d a b s)

/-- p.op.mov (R115). -/
def execPOpMov (g d a : BitVec 3) (s : State) : Host.Outcome State Fault Refusal :=
  run s (predicateOp (fun x _ => x) g d a 0 s)

/-- p.op.set (R115). -/
def execPOpSet (g d : BitVec 3) (s : State) : Host.Outcome State Fault Refusal :=
  run s (predicateOp (fun _ _ => true) g d 0 0 s)

/-- p.op.clr (R115). -/
def execPOpClr (g d : BitVec 3) (s : State) : Host.Outcome State Fault Refusal :=
  run s (predicateOp (fun _ _ => false) g d 0 0 s)

/-- s.sel: both sources are read (R116). -/
def execSSel (g p : BitVec 3) (d a b : BitVec 6) (i : BitVec 1) (s : State) : Host.Outcome State Fault Refusal :=
  run s (scalarSr (fun x y => if getP (cur s) p.toNat then x else y) g d a b i s)

/-- s.bit.extz (R117). -/
def execSBitExtz (g : BitVec 3) (d a b : BitVec 6) (s : State) : Host.Outcome State Fault Refusal :=
  run s (scalarSr extractZero g d a b 0 s)

/-- s.bit.exts (R117). -/
def execSBitExts (g : BitVec 3) (d a b : BitVec 6) (s : State) : Host.Outcome State Fault Refusal :=
  run s (scalarSr extractSigned g d a b 0 s)

/-- s.bit.ins: reads S[d] (R117). -/
def execSBitIns (g : BitVec 3) (d a b : BitVec 6) (s : State) : Host.Outcome State Fault Refusal :=
  run s (guarded g (fun s => do
    let x ← rdS s a
    let c ← rdS s b
    let old ← rdS s d
    .ok (retire (wrS s d (insertField old x c)) 1)) s)

/-- s.bit.clz (R117). -/
def execSBitClz (g : BitVec 3) (d a : BitVec 6) (s : State) : Host.Outcome State Fault Refusal :=
  run s (scalarUnary (fun x => BitVec.ofNat 64 (leadingZeros x.toNat 64)) g d a s)

/-- s.bit.ctz (R117). -/
def execSBitCtz (g : BitVec 3) (d a : BitVec 6) (s : State) : Host.Outcome State Fault Refusal :=
  run s (scalarUnary (fun x => BitVec.ofNat 64 (trailingZeros x.toNat 64)) g d a s)

/-- s.bit.popc (R117). -/
def execSBitPopc (g : BitVec 3) (d a : BitVec 6) (s : State) : Host.Outcome State Fault Refusal :=
  run s (scalarUnary (fun x => BitVec.ofNat 64 (countOnes x.toNat 64)) g d a s)

/-- s.bit.rev (R117). -/
def execSBitRev (g : BitVec 3) (d a : BitVec 6) (s : State) : Host.Outcome State Fault Refusal :=
  run s (scalarUnary (fun x => BitVec.ofNat 64 (reverseBits x.toNat 64)) g d a s)

/-- s.bit.bswap (R117). -/
def execSBitBswap (g : BitVec 3) (d a : BitVec 6) (s : State) : Host.Outcome State Fault Refusal :=
  run s (scalarUnary swapBytes g d a s)

end Sys2Proof.Machine
end

