-- ==== Sys2Proof/Machine/ScalarMem.lean ====
section
/-! DEFINITION. s.ld, s.st, s.amo and s.lea (05 R121 to R125), on warps and on system cores. A system core's load
completes when it issues (21 R417). -/

namespace Sys2Proof.Machine

open Sys2Proof

/-- The one access of a scalar form at a target. -/
def scalarAccess (t : Target) (n data data2 : Nat) : List Access := (accessAt t 0 0 n data data2).toList

/-- Whether a system core's access to a home must wait: main memory holds it, or its die's port is frozen. -/
def scalarHeld (s : State) (a : Access) : Bool :=
  accessHeld s (keyDie s.focus.key) a.pa a.place

/-- A system core's accesses wait while they are held. -/
def awaitScalar (s : State) (accs : List Access) : Res Unit :=
  await (!isSystem s.focus.key || accs.all fun a => !scalarHeld s a) .memory

/-- A system core's load performed as it issues, after the earlier accesses that it must follow; poisoned or failed
bytes trap 0x14 at the load (21 R417, 18 R348). -/
def loadNow (s : State) (d : BitVec 6) (n : Nat) (signed : Bool) (a : Access) : Res State := do
  let c := cur s
  let o := newOp s (.scalarLoad n signed) d.toNat [a]
  await (accessReady s c o 0 a) .memory
  let r := performUnit s c.ops o [a]
  let x := r.2.headD a
  if x.poison then .error (.trap 0x14 0 (poisonS d.toNat))
  else .ok (retire (wrS r.1 d (extendLoad x.result n signed)) 1)

/-- An access of I/O space waits while its die's frozen port stands before it. -/
def awaitIo (s : State) (off : Nat) : Res Unit := await (!ioHeld s (keyDie s.focus.key) off) .memory

/-- A load of I/O space (11 R239). -/
def loadIo (s : State) (d : BitVec 6) (n : Nat) (signed : Bool) (off : Nat) : State :=
  let r := ioLoad s off n
  retire (wrS r.2 d (extendLoad r.1 n signed)) 1

/-- s.ld (R121). -/
def execSLd (g z : BitVec 3) (d a : BitVec 6) (o : BitVec 7) (s : State) : Host.Outcome State Fault Refusal :=
  run s (do
    need (decide (z.toNat < 7)) 0x01
    guarded g (fun s => do
      let n := sizeBytes z
      let base ← rdS s a
      let va := (smAddress base o n).toNat
      checked s .load n [va]
      freeS s d
      match targetOf s (requester s s.focus.key) va with
      | .io off =>
        awaitIo s off
        .ok (loadIo s d n (sizeSigned z) off)
      | t =>
        let accs := scalarAccess t n 0 0
        awaitScalar s accs
        if isSystem s.focus.key then
          match accs with
          | x :: _ => loadNow s d n (sizeSigned z) x
          | [] => .ok (retire s 1)
        else
          let c := cur s
          issueLoadStore (cur s) (setCur s (putS c d.toNat { getS c d.toNat with fill := .pending }))
            (.scalarLoad n (sizeSigned z)) d.toNat accs) s)

/-- A system core's write of a part of a failed line traps 0x14 with the address (18 R348, 21 R417). -/
def checkLine (s : State) (va : Nat) (accs : List Access) : Res Unit :=
  if isSystem s.focus.key && accs.any fun a => decide (a.place < mainTop) && !lineOk s a.place a.pa a.pol then
    .error (.trap 0x14 (BitVec.ofNat 64 va) (BitVec.ofNat 64 (2 ^ 22)))
  else .ok ()

/-- A store to I/O space: it waits while its block is busy (11 R243, 22 R488). -/
def storeIo (s : State) (off n : Nat) (x : Word) : Res State :=
  match ioStore s off n (x.toNat % 2 ^ (8 * n)) (s.focus.key - systemBase) with
  | some t => .ok (retire { t with focus := s.focus } 1)
  | none => .error (.wait .busy)

/-- s.st (R121). -/
def execSSt (g z : BitVec 3) (d a : BitVec 6) (o : BitVec 7) (s : State) : Host.Outcome State Fault Refusal :=
  run s (do
    need (decide (z.toNat < 7)) 0x01
    guarded g (fun s => do
      let n := sizeBytes z
      let base ← rdS s a
      let x ← rdS s d
      let va := (smAddress base o n).toNat
      checked s .store n [va]
      awaitRel s
      match targetOf s (requester s s.focus.key) va with
      | .io off =>
        awaitIo s off
        storeIo s off n x
      | t =>
        let accs := scalarAccess t n (x.toNat % 2 ^ (8 * n)) 0
        awaitScalar s accs
        checkLine s va accs
        issueLoadStore (cur s) s .store 0 accs) s)

/-- s.amo (R123): function 0 add, 1 and, 2 or, 3 xor, 4 max, 5 min, 6 xchg, 7 cas. -/
def scalarAmo (f : Nat) (g : BitVec 3) (d a b : BitVec 6) (s : State) : Res State :=
  guarded g (fun s => do
    let base ← rdS s a
    let x ← rdS s b
    let expected ← if f = 7 then rdS s d else .ok 0
    checked s .atomic 8 [base.toNat]
    freeS s d
    awaitRel s
    let accs := scalarAccess (targetOf s (requester s s.focus.key) base.toNat) 8 x.toNat expected.toNat
    awaitScalar s accs
    let c := cur s
    issueRecorded (cur s) (setCur s (putS c d.toNat { getS c d.toNat with fill := .pending })) (.scalarAtomic f) d.toNat accs 1) s

/-- s.amo.add. -/
def execSAmoAdd (g : BitVec 3) (d a b : BitVec 6) (s : State) : Host.Outcome State Fault Refusal := run s (scalarAmo 0 g d a b s)

/-- s.amo.and. -/
def execSAmoAnd (g : BitVec 3) (d a b : BitVec 6) (s : State) : Host.Outcome State Fault Refusal := run s (scalarAmo 1 g d a b s)

/-- s.amo.or. -/
def execSAmoOr (g : BitVec 3) (d a b : BitVec 6) (s : State) : Host.Outcome State Fault Refusal := run s (scalarAmo 2 g d a b s)

/-- s.amo.xor. -/
def execSAmoXor (g : BitVec 3) (d a b : BitVec 6) (s : State) : Host.Outcome State Fault Refusal := run s (scalarAmo 3 g d a b s)

/-- s.amo.max. -/
def execSAmoMax (g : BitVec 3) (d a b : BitVec 6) (s : State) : Host.Outcome State Fault Refusal := run s (scalarAmo 4 g d a b s)

/-- s.amo.min. -/
def execSAmoMin (g : BitVec 3) (d a b : BitVec 6) (s : State) : Host.Outcome State Fault Refusal := run s (scalarAmo 5 g d a b s)

/-- s.amo.xchg. -/
def execSAmoXchg (g : BitVec 3) (d a b : BitVec 6) (s : State) : Host.Outcome State Fault Refusal := run s (scalarAmo 6 g d a b s)

/-- s.amo.cas. -/
def execSAmoCas (g : BitVec 3) (d a b : BitVec 6) (s : State) : Host.Outcome State Fault Refusal := run s (scalarAmo 7 g d a b s)

/-- A window address (R125). -/
def windowAddress (base : Nat) (x : Word) (o : BitVec 8) : Word := BitVec.ofNat 64 base + x + 8 * o.zeroExtend 64

/-- The window forms of s.lea; a system core has no window. -/
def leaWindow (base : Nat) (g : BitVec 3) (d a : BitVec 6) (o : BitVec 8) (s : State) : Res State := do
  need (!isSystem s.focus.key) 0x01
  guarded g (fun s => do
    let x ← rdS s a
    freeS s d
    .ok (retire (wrS s d (windowAddress base x o)) 1)) s

/-- s.lea of the group-store window. -/
def execSLeaGstore (g : BitVec 3) (d a : BitVec 6) (o : BitVec 8) (s : State) : Host.Outcome State Fault Refusal :=
  run s (leaWindow groupBase g d a o s)

/-- s.lea of the spill-stack window. -/
def execSLeaSpill (g : BitVec 3) (d a : BitVec 6) (o : BitVec 8) (s : State) : Host.Outcome State Fault Refusal :=
  run s (leaWindow spillBase g d a o s)

/-- s.lea of a code address: CA + S[a] + 4 × the signed offset. -/
def execSLeaClause (g : BitVec 3) (d a : BitVec 6) (o : BitVec 8) (s : State) : Host.Outcome State Fault Refusal :=
  run s (guarded g (fun s => do
    let x ← rdS s a
    freeS s d
    .ok (retire (wrS s d ((curStrand s).ca + x + 4 * sxField o)) 1)) s)

end Sys2Proof.Machine
end

