-- ==== Sys2Proof/Machine/Sfu.lean ====
section
/-! DEFINITION. Special functions (07 R166 to R169). A value is computed in fixed point with 420 fraction bits, far
beyond what tells it from every number that a result could be rounded to, and is rounded once: to nearest in binary16
and bfloat16, to one of the two neighbours in binary32. Results that are exact are told apart first. -/

namespace Sys2Proof.Machine

open Sys2Proof

/-! ## Fixed point -/

/-- The fraction bits. -/
def fixBits : Nat := 420

/-- One. -/
def fixOne : Nat := 2 ^ fixBits

/-- The product of two fixed-point numbers. -/
def fixMul (x y : Nat) : Nat := x * y / fixOne

/-- Σ z^(2k+1) / (2k+1) from a power `p` = z^(2k+1) on: the series of artanh. -/
def artanhFrom (z2 p k : Nat) : Nat → Nat
  | 0 => 0
  | n + 1 => p / (2 * k + 1) + artanhFrom z2 (fixMul p z2) (k + 1) n

/-- artanh z for z of at most one third. -/
def artanh (z : Nat) : Nat := artanhFrom (fixMul z z) z 0 140

/-- ln 2 = 2 artanh (1/3). -/
def fixLn2 : Nat := 2 * artanh (fixOne / 3)

/-- The alternating series of arctan from a power `p` on; the sum is positive for z below one. -/
def arctanFrom (z2 p : Int) (k : Nat) : Nat → Int
  | 0 => 0
  | n + 1 => p / ((2 * k + 1 : Nat) : Int) - arctanFrom z2 (p * z2 / (fixOne : Int)) (k + 1) n

/-- arctan (1/q). -/
def arctanInv (q : Nat) : Int := arctanFrom ((fixOne / (q * q) : Nat) : Int) ((fixOne / q : Nat) : Int) 0 100

/-- π = 16 arctan (1/5) − 4 arctan (1/239). -/
def fixPi : Nat := (16 * arctanInv 5 - 4 * arctanInv 239).toNat

/-- Σ t^k / k! from a term on. -/
def expFrom (t term k : Nat) : Nat → Nat
  | 0 => 0
  | n + 1 => term + expFrom t (fixMul term t / (k + 1)) (k + 1) n

/-- e^t for t from 0 to 1. -/
def fixExp (t : Nat) : Nat := expFrom t fixOne 0 110

/-- The series of sine from a term on. -/
def sinFrom (t2 term k : Nat) : Nat → Int
  | 0 => 0
  | n + 1 => (term : Int) - sinFrom t2 (fixMul term t2 / ((2 * k + 2) * (2 * k + 3))) (k + 1) n

/-- sin (π r) for r from 0 to 1/2. -/
def fixSinPi (r : Nat) : Nat := (sinFrom (fixMul (fixMul fixPi r) (fixMul fixPi r)) (fixMul fixPi r) 0 60).toNat

/-- ln y for y from 1 to 2. -/
def fixLn (y : Nat) : Nat := 2 * artanh ((y - fixOne) * fixOne / (y + fixOne))

/-! ## Exact results and results in between -/

/-- What a function's value is: exact, or strictly between numbers, as ±m × 2^e and a little more. -/
inductive SfuValue where
  | special (bits : Nat) (flags : BitVec 6)
  | exact (x : Num)
  | between (neg : Bool) (m : Nat) (e : Int)
  deriving DecidableEq, Repr

/-- A finite number in fixed point; exponents reach down to −149. -/
def fixOf (m : Nat) (e : Int) : Nat := m * 2 ^ (e + fixBits).toNat

/-- A signed finite number in fixed point. -/
def fixSigned (neg : Bool) (m : Nat) (e : Int) : Int :=
  if neg then -(fixOf m e : Int) else (fixOf m e : Int)

/-- Numbers of magnitude 2^12 and more, whose exponential over- or underflows in every format. -/
def isHuge (m : Nat) (e : Int) : Bool := decide (12 ≤ (Nat.log2 m : Int) + e)

/-- 2^x. -/
def exp2Value (neg : Bool) (m : Nat) (e : Int) : SfuValue :=
  if isHuge m e then .between false 1 (if neg then -2000 else 2000)
  else
    let x := fixSigned neg m e
    let n := x / (fixOne : Int)
    let f := (x % (fixOne : Int)).toNat
    if f = 0 then .exact (.fin false 1 n) else .between false (fixExp (fixMul f fixLn2)) (n - fixBits)

/-- e^x for x other than 0. -/
def expeValue (neg : Bool) (m : Nat) (e : Int) : SfuValue :=
  if isHuge m e then .between false 1 (if neg then -2000 else 2000)
  else
    let x := fixSigned neg m e
    let n := x / (fixLn2 : Int)
    .between false (fixExp (x % (fixLn2 : Int)).toNat) (n - fixBits)

/-- ln x for x > 0, in fixed point. -/
def lnFixed (m : Nat) (e : Int) : Int :=
  let k := Nat.log2 m
  ((k : Int) + e) * (fixLn2 : Int) + (fixLn (m * 2 ^ (fixBits - k)) : Int)

/-- log2 x for x > 0. -/
def log2Value (m : Nat) (e : Int) : SfuValue :=
  let k := Nat.log2 m
  if m = 2 ^ k then .exact (Num.ofInt ((k : Int) + e))
  else
    let v := lnFixed m e
    .between (decide (v < 0)) (v.natAbs * fixOne / fixLn2) (-(fixBits : Int))

/-- ln x for x > 0. -/
def logeValue (m : Nat) (e : Int) : SfuValue :=
  let k := Nat.log2 m
  if m = 2 ^ k ∧ (k : Int) + e = 0 then .exact (.fin false 0 0)
  else
    let v := lnFixed m e
    .between (decide (v < 0)) v.natAbs (-(fixBits : Int))

/-- sin (π r) for r from 0 below 2, given in fixed point; a zero takes the given sign. -/
def sinPiValue (r : Nat) (zeroNeg : Bool) : SfuValue :=
  let neg := decide (fixOne ≤ r)
  let q := r % fixOne
  let q := if fixOne < 2 * q then fixOne - q else q
  if q = 0 then .exact (.fin zeroNeg 0 0)
  else if 2 * q = fixOne then .exact (.fin neg 1 0)
  else .between neg (fixSinPi q) (-(fixBits : Int))

/-- A finite number modulo 2, in fixed point. -/
def modTwo (neg : Bool) (m : Nat) (e : Int) : Nat := (fixSigned neg m e % (2 * fixOne : Int)).toNat

/-- 1/√x for x > 0, correctly rounded (R167). -/
def rsqrtF (f : Fmt) (m : Nat) (e : Int) : Nat × BitVec 6 :=
  let k : Nat := if e % 2 = 0 then 400 else 401
  let r := isqrtFrom (2 ^ k / m) 0 210
  roundMag f 0 false r (-((e + k) / 2)) (r * r * m != 2 ^ k)

/-! ## The functions -/

/-- The functions of v.sfu (R166). -/
inductive Sfu where
  | exp2 | expe | log2 | loge | rcp | rsqrt | sinpi | cospi
  deriving DecidableEq, Repr

/-- The function's number (R166). -/
def Sfu.code (k : Sfu) : Nat :=
  match k with
  | .exp2 => 0 | .expe => 1 | .log2 => 2 | .loge => 3 | .rcp => 4 | .rsqrt => 5 | .sinpi => 6 | .cospi => 7

/-- The value of a function on an operand that is no NaN, rcp and rsqrt of finite numbers apart (R166, R168). -/
def sfuValue (f : Fmt) (k : Sfu) (x : Num) : SfuValue :=
  let invalid := SfuValue.special f.nan flagNv
  match k, x with
  | _, .nan => .special f.nan 0
  | .exp2, .inf neg | .expe, .inf neg => .special (if neg then 0 else f.infBits) 0
  | .exp2, .fin neg m e => if m = 0 then .exact (.fin false 1 0) else exp2Value neg m e
  | .expe, .fin neg m e => if m = 0 then .exact (.fin false 1 0) else expeValue neg m e
  | .log2, .inf neg | .loge, .inf neg => if neg then invalid else .special f.infBits 0
  | .log2, .fin neg m e =>
    if m = 0 then .special (f.signBit + f.infBits) flagDz else if neg then invalid else log2Value m e
  | .loge, .fin neg m e =>
    if m = 0 then .special (f.signBit + f.infBits) flagDz else if neg then invalid else logeValue m e
  | .sinpi, .inf _ | .cospi, .inf _ => invalid
  | .sinpi, .fin neg m e => if m = 0 then .exact (.fin neg 0 0) else sinPiValue (modTwo neg m e) neg
  | .cospi, .fin neg m e =>
    if m = 0 then .exact (.fin false 1 0) else sinPiValue ((modTwo neg m e + fixOne / 2) % (2 * fixOne)) false
  | .rcp, .inf neg => .special (if neg then f.signBit else 0) 0
  | .rcp, .fin neg _ _ => .special ((if neg then f.signBit else 0) + f.infBits) flagDz
  | .rsqrt, .inf neg => if neg then invalid else .special 0 0
  | .rsqrt, .fin neg m _ =>
    if m = 0 then .special ((if neg then f.signBit else 0) + f.infBits) flagDz else invalid

/-- The order of finite patterns as numbers. -/
def orderKey (f : Fmt) (x : Nat) : Int :=
  if x / f.signBit % 2 = 1 then -((x % f.signBit : Nat) : Int) else ((x % f.signBit : Nat) : Int)

/-- Whether binary32 takes the upper of the two neighbours (R167), of which `down` is the lower. -/
def takesUpper (k : Sfu) (x down : Nat) : Bool :=
  match k with
  | .sinpi | .cospi => Config.sfuUpper k.code x
  | _ => decide (Config.sfuThreshold k.code down ≤ orderKey binary32 x)

/-- A value strictly between numbers, rounded as R167 says; from 2^128 on it overflows. -/
def roundSfu (t : BitVec 3) (k : Sfu) (x : Nat) (neg : Bool) (m : Nat) (e : Int) : Nat × BitVec 6 :=
  let f := fmtOf t
  if t ≠ 0 ∨ 128 ≤ (Nat.log2 m : Int) + e then roundMag f 0 neg m e true
  else if takesUpper k x (roundMag f 3 neg m e true).1 then roundMag f 2 neg m e true
  else roundMag f 3 neg m e true

/-- v.sfu on a sub-element (R166 to R168). A power of two below binary32's least number is not representable and takes
one of its neighbours as every other result there does, so that exp2 stays non-decreasing. -/
def sfuSub (k : Sfu) (t : BitVec 3) (x : Nat) : Nat × BitVec 6 :=
  let f := fmtOf t
  let general :=
    match sfuValue f k (numOf f x) with
    | .special bits flags => (bits, flags)
    | .exact (.fin neg m e) =>
      if t = 0 ∧ m ≠ 0 ∧ (Nat.log2 m : Int) + e < -149 then roundSfu t k x neg m e else roundNum f 0 (.fin neg m e)
    | .exact v => roundNum f 0 v
    | .between neg m e => roundSfu t k x neg m e
  if isNan f x then (f.nan, snanFlag f [x])
  else
    match k, numOf f x with
    | .rcp, .fin _ m _ => if m = 0 then general else divF f (f.bias * 2 ^ f.fbits) x
    | .rsqrt, .fin false m e => if m = 0 then general else rsqrtF f m e
    | _, _ => general

/-- v.sfu on a lane. -/
def sfuLane (k : Sfu) (t : BitVec 3) (x : Word) : Word × BitVec 6 := eachSub t fun j => sfuSub k t (sub x t j)

/-- v.sfu (R166): types 0, 1 and 2. -/
def sfuForm (k : Sfu) (g t : BitVec 3) (d a : BitVec 6) (e : BitVec 1) (s : State) : Res State := do
  need (decide (t.toNat < 3)) 0x01
  let rd ← vxD s d
  let ra ← vxA s a
  longForm s g e rd [ra] (fun c l => sfuLane k t (laneVal c ra l))

/-- v.sfu.exp2 (R166). -/
def execVSfuExp2 (g t : BitVec 3) (d a : BitVec 6) (e : BitVec 1) (s : State) : Host.Outcome State Fault Refusal :=
  run s (sfuForm .exp2 g t d a e s)

/-- v.sfu.expe (R166). -/
def execVSfuExpe (g t : BitVec 3) (d a : BitVec 6) (e : BitVec 1) (s : State) : Host.Outcome State Fault Refusal :=
  run s (sfuForm .expe g t d a e s)

/-- v.sfu.log2 (R166). -/
def execVSfuLog2 (g t : BitVec 3) (d a : BitVec 6) (e : BitVec 1) (s : State) : Host.Outcome State Fault Refusal :=
  run s (sfuForm .log2 g t d a e s)

/-- v.sfu.loge (R166). -/
def execVSfuLoge (g t : BitVec 3) (d a : BitVec 6) (e : BitVec 1) (s : State) : Host.Outcome State Fault Refusal :=
  run s (sfuForm .loge g t d a e s)

/-- v.sfu.rcp (R166). -/
def execVSfuRcp (g t : BitVec 3) (d a : BitVec 6) (e : BitVec 1) (s : State) : Host.Outcome State Fault Refusal :=
  run s (sfuForm .rcp g t d a e s)

/-- v.sfu.rsqrt (R166). -/
def execVSfuRsqrt (g t : BitVec 3) (d a : BitVec 6) (e : BitVec 1) (s : State) : Host.Outcome State Fault Refusal :=
  run s (sfuForm .rsqrt g t d a e s)

/-- v.sfu.sinpi (R166). -/
def execVSfuSinpi (g t : BitVec 3) (d a : BitVec 6) (e : BitVec 1) (s : State) : Host.Outcome State Fault Refusal :=
  run s (sfuForm .sinpi g t d a e s)

/-- v.sfu.cospi (R166). -/
def execVSfuCospi (g t : BitVec 3) (d a : BitVec 6) (e : BitVec 1) (s : State) : Host.Outcome State Fault Refusal :=
  run s (sfuForm .cospi g t d a e s)

end Sys2Proof.Machine
end

