-- ==== Sys2Proof/Machine/Dispatch.lean ====
section
/-! DEFINITION. The dispatch of every row of the opcode table to its meaning. -/

namespace Sys2Proof.Machine

open Sys2Proof

def exec (i : Instr) (s : State) : Host.Outcome State Fault Refusal :=
  match i with
  | .nop g => Sys2Proof.Machine.execNop g s
  | .sAluAdd g d a b iv => Sys2Proof.Machine.execSAluAdd g d a b iv s
  | .sAluSub g d a b iv => Sys2Proof.Machine.execSAluSub g d a b iv s
  | .sAluAnd g d a b iv => Sys2Proof.Machine.execSAluAnd g d a b iv s
  | .sAluOr g d a b iv => Sys2Proof.Machine.execSAluOr g d a b iv s
  | .sAluXor g d a b iv => Sys2Proof.Machine.execSAluXor g d a b iv s
  | .sAluShl g d a b iv => Sys2Proof.Machine.execSAluShl g d a b iv s
  | .sAluShr g d a b iv => Sys2Proof.Machine.execSAluShr g d a b iv s
  | .sAluSar g d a b iv => Sys2Proof.Machine.execSAluSar g d a b iv s
  | .sAlu2Mul g d a b iv => Sys2Proof.Machine.execSAlu2Mul g d a b iv s
  | .sAlu2Mulhs g d a b iv => Sys2Proof.Machine.execSAlu2Mulhs g d a b iv s
  | .sAlu2Mulhn g d a b iv => Sys2Proof.Machine.execSAlu2Mulhn g d a b iv s
  | .sAlu2Min g d a b iv => Sys2Proof.Machine.execSAlu2Min g d a b iv s
  | .sAlu2Max g d a b iv => Sys2Proof.Machine.execSAlu2Max g d a b iv s
  | .sAlu2Minn g d a b iv => Sys2Proof.Machine.execSAlu2Minn g d a b iv s
  | .sAlu2Maxn g d a b iv => Sys2Proof.Machine.execSAlu2Maxn g d a b iv s
  | .sAlu2Rotr g d a b iv => Sys2Proof.Machine.execSAlu2Rotr g d a b iv s
  | .sDivDivs g d a b iv => Sys2Proof.Machine.execSDivDivs g d a b iv s
  | .sDivDivn g d a b iv => Sys2Proof.Machine.execSDivDivn g d a b iv s
  | .sDivRems g d a b iv => Sys2Proof.Machine.execSDivRems g d a b iv s
  | .sDivRemn g d a b iv => Sys2Proof.Machine.execSDivRemn g d a b iv s
  | .sAddi g d a iv => Sys2Proof.Machine.execSAddi g d a iv s
  | .sAndi g d a iv => Sys2Proof.Machine.execSAndi g d a iv s
  | .sOri g d a iv => Sys2Proof.Machine.execSOri g d a iv s
  | .sXori g d a iv => Sys2Proof.Machine.execSXori g d a iv s
  | .sMovi g d iv => Sys2Proof.Machine.execSMovi g d iv s
  | .sMovk h d iv => Sys2Proof.Machine.execSMovk h d iv s
  | .sCmpEq g p a b iv => Sys2Proof.Machine.execSCmpEq g p a b iv s
  | .sCmpNe g p a b iv => Sys2Proof.Machine.execSCmpNe g p a b iv s
  | .sCmpLts g p a b iv => Sys2Proof.Machine.execSCmpLts g p a b iv s
  | .sCmpLes g p a b iv => Sys2Proof.Machine.execSCmpLes g p a b iv s
  | .sCmpLtn g p a b iv => Sys2Proof.Machine.execSCmpLtn g p a b iv s
  | .sCmpLen g p a b iv => Sys2Proof.Machine.execSCmpLen g p a b iv s
  | .sCmpTst g p a b iv => Sys2Proof.Machine.execSCmpTst g p a b iv s
  | .sCmpNtst g p a b iv => Sys2Proof.Machine.execSCmpNtst g p a b iv s
  | .sCmpiEq g p a iv => Sys2Proof.Machine.execSCmpiEq g p a iv s
  | .sCmpiNe g p a iv => Sys2Proof.Machine.execSCmpiNe g p a iv s
  | .sCmpiLts g p a iv => Sys2Proof.Machine.execSCmpiLts g p a iv s
  | .sCmpiLes g p a iv => Sys2Proof.Machine.execSCmpiLes g p a iv s
  | .sCmpiLtn g p a iv => Sys2Proof.Machine.execSCmpiLtn g p a iv s
  | .sCmpiLen g p a iv => Sys2Proof.Machine.execSCmpiLen g p a iv s
  | .sCmpiTst g p a iv => Sys2Proof.Machine.execSCmpiTst g p a iv s
  | .sCmpiNtst g p a iv => Sys2Proof.Machine.execSCmpiNtst g p a iv s
  | .pOpAnd g d a b => Sys2Proof.Machine.execPOpAnd g d a b s
  | .pOpOr g d a b => Sys2Proof.Machine.execPOpOr g d a b s
  | .pOpXor g d a b => Sys2Proof.Machine.execPOpXor g d a b s
  | .pOpAndn g d a b => Sys2Proof.Machine.execPOpAndn g d a b s
  | .pOpOrn g d a b => Sys2Proof.Machine.execPOpOrn g d a b s
  | .pOpMov g d a => Sys2Proof.Machine.execPOpMov g d a s
  | .pOpSet g d => Sys2Proof.Machine.execPOpSet g d s
  | .pOpClr g d => Sys2Proof.Machine.execPOpClr g d s
  | .sSel g p d a b iv => Sys2Proof.Machine.execSSel g p d a b iv s
  | .sBitExtz g d a b => Sys2Proof.Machine.execSBitExtz g d a b s
  | .sBitExts g d a b => Sys2Proof.Machine.execSBitExts g d a b s
  | .sBitIns g d a b => Sys2Proof.Machine.execSBitIns g d a b s
  | .sBitClz g d a => Sys2Proof.Machine.execSBitClz g d a s
  | .sBitCtz g d a => Sys2Proof.Machine.execSBitCtz g d a s
  | .sBitPopc g d a => Sys2Proof.Machine.execSBitPopc g d a s
  | .sBitRev g d a => Sys2Proof.Machine.execSBitRev g d a s
  | .sBitBswap g d a => Sys2Proof.Machine.execSBitBswap g d a s
  | .b g o => Sys2Proof.Machine.execB g o s
  | .bInd g a iv => Sys2Proof.Machine.execBInd g a iv s
  | .call g o => Sys2Proof.Machine.execCall g o s
  | .callInd g a iv => Sys2Proof.Machine.execCallInd g a iv s
  | .callLane g a e => Sys2Proof.Machine.execCallLane g a e s
  | .ret g => Sys2Proof.Machine.execRet g s
  | .sLd g z d a o => Sys2Proof.Machine.execSLd g z d a o s
  | .sSt g z d a o => Sys2Proof.Machine.execSSt g z d a o s
  | .sAmoAdd g d a b => Sys2Proof.Machine.execSAmoAdd g d a b s
  | .sAmoAnd g d a b => Sys2Proof.Machine.execSAmoAnd g d a b s
  | .sAmoOr g d a b => Sys2Proof.Machine.execSAmoOr g d a b s
  | .sAmoXor g d a b => Sys2Proof.Machine.execSAmoXor g d a b s
  | .sAmoMax g d a b => Sys2Proof.Machine.execSAmoMax g d a b s
  | .sAmoMin g d a b => Sys2Proof.Machine.execSAmoMin g d a b s
  | .sAmoXchg g d a b => Sys2Proof.Machine.execSAmoXchg g d a b s
  | .sAmoCas g d a b => Sys2Proof.Machine.execSAmoCas g d a b s
  | .sLeaGstore g d a o => Sys2Proof.Machine.execSLeaGstore g d a o s
  | .sLeaSpill g d a o => Sys2Proof.Machine.execSLeaSpill g d a o s
  | .sLeaClause g d a o => Sys2Proof.Machine.execSLeaClause g d a o s
  | .trap g c => Sys2Proof.Machine.execTrap g c s
  | .crRd g d n => Sys2Proof.Machine.execCrRd g d n s
  | .crWr g a n => Sys2Proof.Machine.execCrWr g a n s
  | .launch g d a => Sys2Proof.Machine.execLaunch g d a s
  | .lwait g d a => Sys2Proof.Machine.execLwait g d a s
  | .launchCtx g d a => Sys2Proof.Machine.execLaunchCtx g d a s
  | .vAdd g t d a b e => Sys2Proof.Machine.execVAdd g t d a b e s
  | .vSub g t d a b e => Sys2Proof.Machine.execVSub g t d a b e s
  | .vMul g t d a b e => Sys2Proof.Machine.execVMul g t d a b e s
  | .vFma g t d a b e => Sys2Proof.Machine.execVFma g t d a b e s
  | .vFnma g t d a b e => Sys2Proof.Machine.execVFnma g t d a b e s
  | .vMin g t d a b e => Sys2Proof.Machine.execVMin g t d a b e s
  | .vMax g t d a b e => Sys2Proof.Machine.execVMax g t d a b e s
  | .vDiv g t d a b e => Sys2Proof.Machine.execVDiv g t d a b e s
  | .vRem g t d a b e => Sys2Proof.Machine.execVRem g t d a b e s
  | .vSqrt g t d a e => Sys2Proof.Machine.execVSqrt g t d a e s
  | .vAnd g t d a b e => Sys2Proof.Machine.execVAnd g t d a b e s
  | .vOr g t d a b e => Sys2Proof.Machine.execVOr g t d a b e s
  | .vXor g t d a b e => Sys2Proof.Machine.execVXor g t d a b e s
  | .vShl g t d a b e => Sys2Proof.Machine.execVShl g t d a b e s
  | .vShr g t d a b e => Sys2Proof.Machine.execVShr g t d a b e s
  | .vUnAbs g t d a e => Sys2Proof.Machine.execVUnAbs g t d a e s
  | .vUnNeg g t d a e => Sys2Proof.Machine.execVUnNeg g t d a e s
  | .vUnNot g t d a e => Sys2Proof.Machine.execVUnNot g t d a e s
  | .vUnPopc g t d a e => Sys2Proof.Machine.execVUnPopc g t d a e s
  | .vUnClz g t d a e => Sys2Proof.Machine.execVUnClz g t d a e s
  | .vUnCtz g t d a e => Sys2Proof.Machine.execVUnCtz g t d a e s
  | .vUnBrev g t d a e => Sys2Proof.Machine.execVUnBrev g t d a e s
  | .vUnRint g t d a m e => Sys2Proof.Machine.execVUnRint g t d a m e s
  | .vCmpEq g t k a b e => Sys2Proof.Machine.execVCmpEq g t k a b e s
  | .vCmpNe g t k a b e => Sys2Proof.Machine.execVCmpNe g t k a b e s
  | .vCmpLt g t k a b e => Sys2Proof.Machine.execVCmpLt g t k a b e s
  | .vCmpLe g t k a b e => Sys2Proof.Machine.execVCmpLe g t k a b e s
  | .vCmpGt g t k a b e => Sys2Proof.Machine.execVCmpGt g t k a b e s
  | .vCmpGe g t k a b e => Sys2Proof.Machine.execVCmpGe g t k a b e s
  | .vCmpsEq g t d a b e => Sys2Proof.Machine.execVCmpsEq g t d a b e s
  | .vCmpsLt g t d a b e => Sys2Proof.Machine.execVCmpsLt g t d a b e s
  | .vCmpsLe g t d a b e => Sys2Proof.Machine.execVCmpsLe g t d a b e s
  | .vBsel g t d a b e => Sys2Proof.Machine.execVBsel g t d a b e s
  | .vCvt g t d a m sv e => Sys2Proof.Machine.execVCvt g t d a m sv e s
  | .vMov g t d a e => Sys2Proof.Machine.execVMov g t d a e s
  | .vMovi g t d iv => Sys2Proof.Machine.execVMovi g t d iv s
  | .vBcs g t d a => Sys2Proof.Machine.execVBcs g t d a s
  | .vSfuExp2 g t d a e => Sys2Proof.Machine.execVSfuExp2 g t d a e s
  | .vSfuExpe g t d a e => Sys2Proof.Machine.execVSfuExpe g t d a e s
  | .vSfuLog2 g t d a e => Sys2Proof.Machine.execVSfuLog2 g t d a e s
  | .vSfuLoge g t d a e => Sys2Proof.Machine.execVSfuLoge g t d a e s
  | .vSfuRcp g t d a e => Sys2Proof.Machine.execVSfuRcp g t d a e s
  | .vSfuRsqrt g t d a e => Sys2Proof.Machine.execVSfuRsqrt g t d a e s
  | .vSfuSinpi g t d a e => Sys2Proof.Machine.execVSfuSinpi g t d a e s
  | .vSfuCospi g t d a e => Sys2Proof.Machine.execVSfuCospi g t d a e s
  | .vAct g t d a n e => Sys2Proof.Machine.execVAct g t d a n e s
  | .actLd g n a b e => Sys2Proof.Machine.execActLd g n a b e s
  | .vMulhi g t d a b e => Sys2Proof.Machine.execVMulhi g t d a b e s
  | .vPack g t d a b e => Sys2Proof.Machine.execVPack g t d a b e s
  | .vDot g t d a b e => Sys2Proof.Machine.execVDot g t d a b e s
  | .xShfl g t d a b e => Sys2Proof.Machine.execXShfl g t d a b e s
  | .xShfliXor g d a sv => Sys2Proof.Machine.execXShfliXor g d a sv s
  | .xShfliUp g d a sv => Sys2Proof.Machine.execXShfliUp g d a sv s
  | .xShfliDown g d a sv => Sys2Proof.Machine.execXShfliDown g d a sv s
  | .xShfliRot g d a sv => Sys2Proof.Machine.execXShfliRot g d a sv s
  | .xBcast g t d a n e => Sys2Proof.Machine.execXBcast g t d a n e s
  | .xRedAdd g t d a e => Sys2Proof.Machine.execXRedAdd g t d a e s
  | .xRedMin g t d a e => Sys2Proof.Machine.execXRedMin g t d a e s
  | .xRedMax g t d a e => Sys2Proof.Machine.execXRedMax g t d a e s
  | .xRedAnd g t d a e => Sys2Proof.Machine.execXRedAnd g t d a e s
  | .xRedOr g t d a e => Sys2Proof.Machine.execXRedOr g t d a e s
  | .xRedXor g t d a e => Sys2Proof.Machine.execXRedXor g t d a e s
  | .xScanAdd g t d a x e => Sys2Proof.Machine.execXScanAdd g t d a x e s
  | .xScanMin g t d a x e => Sys2Proof.Machine.execXScanMin g t d a x e s
  | .xScanMax g t d a x e => Sys2Proof.Machine.execXScanMax g t d a x e s
  | .xScanAnd g t d a x e => Sys2Proof.Machine.execXScanAnd g t d a x e s
  | .xScanOr g t d a x e => Sys2Proof.Machine.execXScanOr g t d a x e s
  | .xScanXor g t d a x e => Sys2Proof.Machine.execXScanXor g t d a x e s
  | .xBallot g t k a e => Sys2Proof.Machine.execXBallot g t k a e s
  | .kOpAnd g d a b => Sys2Proof.Machine.execKOpAnd g d a b s
  | .kOpOr g d a b => Sys2Proof.Machine.execKOpOr g d a b s
  | .kOpXor g d a b => Sys2Proof.Machine.execKOpXor g d a b s
  | .kOpAndn g d a b => Sys2Proof.Machine.execKOpAndn g d a b s
  | .kOpNot g d a => Sys2Proof.Machine.execKOpNot g d a s
  | .kOpMov g d a => Sys2Proof.Machine.execKOpMov g d a s
  | .kOpFrom g d a => Sys2Proof.Machine.execKOpFrom g d a s
  | .kOpTo g d a => Sys2Proof.Machine.execKOpTo g d a s
  | .kOpPopc g d a => Sys2Proof.Machine.execKOpPopc g d a s
  | .bsRd g t d a n e => Sys2Proof.Machine.execBsRd g t d a n e s
  | .bsFill g d a b e => Sys2Proof.Machine.execBsFill g d a b e s
  | .bsCurGet g d => Sys2Proof.Machine.execBsCurGet g d s
  | .bsCurSet g a e => Sys2Proof.Machine.execBsCurSet g a e s
  | .xSepk g t d a f sv e => Sys2Proof.Machine.execXSepk g t d a f sv e s
  | .xSeunpk g t d a f sv e => Sys2Proof.Machine.execXSeunpk g t d a f sv e s
  | .kTestAny g p k => Sys2Proof.Machine.execKTestAny g p k s
  | .kTestAll g p k => Sys2Proof.Machine.execKTestAll g p k s
  | .mLd g z d a sv e => Sys2Proof.Machine.execMLd g z d a sv e s
  | .mSt g z d a sv e => Sys2Proof.Machine.execMSt g z d a sv e s
  | .mLds g z d sv => Sys2Proof.Machine.execMLds g z d sv s
  | .mAtomWAdd g z d a sv => Sys2Proof.Machine.execMAtomWAdd g z d a sv s
  | .mAtomWMin g z d a sv => Sys2Proof.Machine.execMAtomWMin g z d a sv s
  | .mAtomWMax g z d a sv => Sys2Proof.Machine.execMAtomWMax g z d a sv s
  | .mAtomWMinn g z d a sv => Sys2Proof.Machine.execMAtomWMinn g z d a sv s
  | .mAtomWMaxn g z d a sv => Sys2Proof.Machine.execMAtomWMaxn g z d a sv s
  | .mAtomWAnd g z d a sv => Sys2Proof.Machine.execMAtomWAnd g z d a sv s
  | .mAtomWOr g z d a sv => Sys2Proof.Machine.execMAtomWOr g z d a sv s
  | .mAtomWXor g z d a sv => Sys2Proof.Machine.execMAtomWXor g z d a sv s
  | .mAtomDAdd g z d a sv => Sys2Proof.Machine.execMAtomDAdd g z d a sv s
  | .mAtomDMin g z d a sv => Sys2Proof.Machine.execMAtomDMin g z d a sv s
  | .mAtomDMax g z d a sv => Sys2Proof.Machine.execMAtomDMax g z d a sv s
  | .mAtomDMinn g z d a sv => Sys2Proof.Machine.execMAtomDMinn g z d a sv s
  | .mAtomDMaxn g z d a sv => Sys2Proof.Machine.execMAtomDMaxn g z d a sv s
  | .mAtomDAnd g z d a sv => Sys2Proof.Machine.execMAtomDAnd g z d a sv s
  | .mAtomDOr g z d a sv => Sys2Proof.Machine.execMAtomDOr g z d a sv s
  | .mAtomDXor g z d a sv => Sys2Proof.Machine.execMAtomDXor g z d a sv s
  | .mAtomPAdd g z d a sv => Sys2Proof.Machine.execMAtomPAdd g z d a sv s
  | .mAtomPMin g z d a sv => Sys2Proof.Machine.execMAtomPMin g z d a sv s
  | .mAtomPMax g z d a sv => Sys2Proof.Machine.execMAtomPMax g z d a sv s
  | .mAtomPMinn g z d a sv => Sys2Proof.Machine.execMAtomPMinn g z d a sv s
  | .mAtomPMaxn g z d a sv => Sys2Proof.Machine.execMAtomPMaxn g z d a sv s
  | .mAtomPAnd g z d a sv => Sys2Proof.Machine.execMAtomPAnd g z d a sv s
  | .mAtomPOr g z d a sv => Sys2Proof.Machine.execMAtomPOr g z d a sv s
  | .mAtomPXor g z d a sv => Sys2Proof.Machine.execMAtomPXor g z d a sv s
  | .mXchg g z d a sv => Sys2Proof.Machine.execMXchg g z d a sv s
  | .mCas g z d a sv => Sys2Proof.Machine.execMCas g z d a sv s
  | .mArrive g d a iv => Sys2Proof.Machine.execMArrive g d a iv s
  | .mWait g d a iv => Sys2Proof.Machine.execMWait g d a iv s
  | .fenceAcq g sv => Sys2Proof.Machine.execFenceAcq g sv s
  | .fenceRel g sv => Sys2Proof.Machine.execFenceRel g sv s
  | .fenceAcqrel g sv => Sys2Proof.Machine.execFenceAcqrel g sv s
  | .fenceSc g sv => Sys2Proof.Machine.execFenceSc g sv s
  | .fenceTlr g => Sys2Proof.Machine.execFenceTlr g s
  | .mPush g d n e => Sys2Proof.Machine.execMPush g d n e s
  | .mPop g d n => Sys2Proof.Machine.execMPop g d n s
  | .mLdv g t d a b e => Sys2Proof.Machine.execMLdv g t d a b e s
  | .mStv g t d a b e => Sys2Proof.Machine.execMStv g t d a b e s
  | .mRcnAdd g t d a e => Sys2Proof.Machine.execMRcnAdd g t d a e s
  | .mRcnMax g t d a e => Sys2Proof.Machine.execMRcnMax g t d a e s
  | .mRcnMin g t d a e => Sys2Proof.Machine.execMRcnMin g t d a e s
  | .mRcnOr g t d a e => Sys2Proof.Machine.execMRcnOr g t d a e s
  | .mRcnPick g t d a j e => Sys2Proof.Machine.execMRcnPick g t d a j e s
  | .fork k offA offC av ab al bv bb bl => Sys2Proof.Machine.execFork k offA offC av ab al bv bb bl s
  | .join k d a b e => Sys2Proof.Machine.execJoin k d a b e s
  | .smask k => Sys2Proof.Machine.execSmask k s
  | .setx g a iv => Sys2Proof.Machine.execSetx g a iv s
  | .cCopy g d a b ilov verify sparse tc => Sys2Proof.Machine.execCCopy g d a b ilov verify sparse tc s
  | .cMcast g d a b targets verify sparse tc => Sys2Proof.Machine.execCMcast g d a b targets verify sparse tc s
  | .cClose g d => Sys2Proof.Machine.execCClose g d s
  | .cWait g d a => Sys2Proof.Machine.execCWait g d a s
  | .rPost g q => Sys2Proof.Machine.execRPost g q s
  | .rWait g q a n => Sys2Proof.Machine.execRWait g q a n s
  | .tBandOpen g => Sys2Proof.Machine.execTBandOpen g s
  | .tBandClose g => Sys2Proof.Machine.execTBandClose g s
  | .shpSet g h d a b => Sys2Proof.Machine.execShpSet g h d a b s
  | .shpGet g h d sv => Sys2Proof.Machine.execShpGet g h d sv s
  | .mxMap m r k w => Sys2Proof.Machine.execMxMap m r k w s
  | .mxMma g h c m f sv b z => Sys2Proof.Machine.execMxMma g h c m f sv b z s
  | .mxMv n h c m r o => Sys2Proof.Machine.execMxMv n h c m r o s
  | .mxDrain h c d r a p q => Sys2Proof.Machine.execMxDrain h c d r a p q s
  | .mxAccZero g h c => Sys2Proof.Machine.execMxAccZero g h c s
  | .mxAccLoad g h c m => Sys2Proof.Machine.execMxAccLoad g h c m s
  | .mxAccGet g h c d => Sys2Proof.Machine.execMxAccGet g h c d s
  | .mxLeaseBind q b sv => Sys2Proof.Machine.execMxLeaseBind q b sv s
  | .rep x y z n => Sys2Proof.Machine.execRep x y z n s
  | .lgLd z d a sv => Sys2Proof.Machine.execLgLd z d a sv s
  | .lgSt z d a sv => Sys2Proof.Machine.execLgSt z d a sv s
  | .vIota g t d iv => Sys2Proof.Machine.execVIota g t d iv s
  | .sysret => Sys2Proof.Machine.execSysret s
  | .idle => Sys2Proof.Machine.execIdle s
  | .actFlip => Sys2Proof.Machine.execActFlip s
  | .ends => Sys2Proof.Machine.execEnds s
  | .armwait => Sys2Proof.Machine.execArmwait s
  | .exit => Sys2Proof.Machine.execExit s
  | .mxLeaseAcq => Sys2Proof.Machine.execMxLeaseAcq s
  | .mxLeaseRel => Sys2Proof.Machine.execMxLeaseRel s
  | .lgBar => Sys2Proof.Machine.execLgBar s
  | .repRepeat => Sys2Proof.Machine.execRepRepeat s
  | .clauseBegin => Sys2Proof.Machine.execClauseBegin s
  | .windowLoad => Sys2Proof.Machine.execWindowLoad s
  | .pinGiveback => Sys2Proof.Machine.execPinGiveback s
  | .quadIssueCycle => Sys2Proof.Machine.execQuadIssueCycle s
  | .ageRotation => Sys2Proof.Machine.execAgeRotation s
  | .longResultFill => Sys2Proof.Machine.execLongResultFill s
  | .scalarFill => Sys2Proof.Machine.execScalarFill s
  | .loadFill => Sys2Proof.Machine.execLoadFill s
  | .atomicStep => Sys2Proof.Machine.execAtomicStep s
  | .arrivalStep => Sys2Proof.Machine.execArrivalStep s
  | .parkWake => Sys2Proof.Machine.execParkWake s
  | .parkRetry => Sys2Proof.Machine.execParkRetry s
  | .fenceComplete => Sys2Proof.Machine.execFenceComplete s
  | .armwaitComplete => Sys2Proof.Machine.execArmwaitComplete s
  | .joinIssue => Sys2Proof.Machine.execJoinIssue s
  | .ringWaitComplete => Sys2Proof.Machine.execRingWaitComplete s
  | .cWaitComplete => Sys2Proof.Machine.execCWaitComplete s
  | .lgBarComplete => Sys2Proof.Machine.execLgBarComplete s
  | .actLdWrite => Sys2Proof.Machine.execActLdWrite s
  | .actFlipComplete => Sys2Proof.Machine.execActFlipComplete s
  | .translationWalk => Sys2Proof.Machine.execTranslationWalk s
  | .invalidatePage => Sys2Proof.Machine.execInvalidatePage s
  | .invalidateAsid => Sys2Proof.Machine.execInvalidateAsid s
  | .invalidateAll => Sys2Proof.Machine.execInvalidateAll s
  | .invalidationComplete => Sys2Proof.Machine.execInvalidationComplete s
  | .carderDecision => Sys2Proof.Machine.execCarderDecision s
  | .queueEntry => Sys2Proof.Machine.execQueueEntry s
  | .placementAttempt => Sys2Proof.Machine.execPlacementAttempt s
  | .carderPreemption => Sys2Proof.Machine.execCarderPreemption s
  | .launchCompletion => Sys2Proof.Machine.execLaunchCompletion s
  | .copyPartCompletion => Sys2Proof.Machine.execCopyPartCompletion s
  | .mcastDelivery => Sys2Proof.Machine.execMcastDelivery s
  | .matrixOperationCompletion => Sys2Proof.Machine.execMatrixOperationCompletion s
  | .drainCompletion => Sys2Proof.Machine.execDrainCompletion s
  | .leaseGrant => Sys2Proof.Machine.execLeaseGrant s
  | .leasePass => Sys2Proof.Machine.execLeasePass s
  | .bandRecordWrite => Sys2Proof.Machine.execBandRecordWrite s
  | .cellStep => Sys2Proof.Machine.execCellStep s
  | .battEnable => Sys2Proof.Machine.execBattEnable s
  | .battDisable => Sys2Proof.Machine.execBattDisable s
  | .battChangeDone => Sys2Proof.Machine.execBattChangeDone s
  | .trapEntry => Sys2Proof.Machine.execTrapEntry s
  | .interrupt => Sys2Proof.Machine.execInterrupt s
  | .timer => Sys2Proof.Machine.execTimer s
  | .warpIdleTimeout => Sys2Proof.Machine.execWarpIdleTimeout s
  | .saveAndRequeue => Sys2Proof.Machine.execSaveAndRequeue s
  | .saveAndHold => Sys2Proof.Machine.execSaveAndHold s
  | .prel => Sys2Proof.Machine.execPrel s
  | .saveCompletion => Sys2Proof.Machine.execSaveCompletion s
  | .restore => Sys2Proof.Machine.execRestore s
  | .mapq => Sys2Proof.Machine.execMapq s
  | .memoryMapConfigWrite => Sys2Proof.Machine.execMemoryMapConfigWrite s
  | .retreq => Sys2Proof.Machine.execRetreq s
  | .retirementComplete => Sys2Proof.Machine.execRetirementComplete s
  | .pprreq => Sys2Proof.Machine.execPprreq s
  | .repairComplete => Sys2Proof.Machine.execRepairComplete s
  | .rateChange => Sys2Proof.Machine.execRateChange s
  | .retrainComplete => Sys2Proof.Machine.execRetrainComplete s
  | .forcedRetrain => Sys2Proof.Machine.execForcedRetrain s
  | .pseudoChannelService => Sys2Proof.Machine.execPseudoChannelService s
  | .linkFrameFailure => Sys2Proof.Machine.execLinkFrameFailure s
  | .sessionKeyReplacement => Sys2Proof.Machine.execSessionKeyReplacement s
  | .uncorrectableError => Sys2Proof.Machine.execUncorrectableError s
  | .fabricLinkFailure => Sys2Proof.Machine.execFabricLinkFailure s
  | .hmsix => Sys2Proof.Machine.execHmsix s
  | .hostBarAccess => Sys2Proof.Machine.execHostBarAccess s
  | .cxlMemAccess => Sys2Proof.Machine.execCxlMemAccess s
  | .nvmeDma => Sys2Proof.Machine.execNvmeDma s
  | .storageMessage => Sys2Proof.Machine.execStorageMessage s
  | .sealgo => Sys2Proof.Machine.execSealgo s
  | .sealComplete => Sys2Proof.Machine.execSealComplete s
  | .xopWrite => Sys2Proof.Machine.execXopWrite s
  | .xopAddFp32 => Sys2Proof.Machine.execXopAddFp32 s
  | .xopAddBf16 => Sys2Proof.Machine.execXopAddBf16 s
  | .xopAddFp16 => Sys2Proof.Machine.execXopAddFp16 s
  | .scaleOutAcknowledge => Sys2Proof.Machine.execScaleOutAcknowledge s
  | .scaleOutTimeout => Sys2Proof.Machine.execScaleOutTimeout s
  | .start => Sys2Proof.Machine.execStart s
  | .signal => Sys2Proof.Machine.execSignal s
  | .scvecClear => Sys2Proof.Machine.execScvecClear s
  | .assignSlot => Sys2Proof.Machine.execAssignSlot s
  | .emptySlot => Sys2Proof.Machine.execEmptySlot s
  | .registerTenant => Sys2Proof.Machine.execRegisterTenant s
  | .markConfidential => Sys2Proof.Machine.execMarkConfidential s
  | .divide => Sys2Proof.Machine.execDivide s
  | .powerLimit => Sys2Proof.Machine.execPowerLimit s
  | .ready => Sys2Proof.Machine.execReady s
  | .setPowerLimit => Sys2Proof.Machine.execSetPowerLimit s
  | .readPowerLimit => Sys2Proof.Machine.execReadPowerLimit s
  | .readStatus => Sys2Proof.Machine.execReadStatus s
  | .sessionOpen => Sys2Proof.Machine.execSessionOpen s
  | .endSession => Sys2Proof.Machine.execEndSession s
  | .sessionTimeout => Sys2Proof.Machine.execSessionTimeout s
  | .setBreakpoint => Sys2Proof.Machine.execSetBreakpoint s
  | .clearBreakpoint => Sys2Proof.Machine.execClearBreakpoint s
  | .setWatchpoint => Sys2Proof.Machine.execSetWatchpoint s
  | .clearWatchpoint => Sys2Proof.Machine.execClearWatchpoint s
  | .setCapture => Sys2Proof.Machine.execSetCapture s
  | .startCapture => Sys2Proof.Machine.execStartCapture s
  | .freezeCapture => Sys2Proof.Machine.execFreezeCapture s
  | .setTrigger => Sys2Proof.Machine.execSetTrigger s
  | .markForRecording => Sys2Proof.Machine.execMarkForRecording s
  | .replay => Sys2Proof.Machine.execReplay s
  | .setContinueLive => Sys2Proof.Machine.execSetContinueLive s
  | .dumpParkTable => Sys2Proof.Machine.execDumpParkTable s
  | .poll => Sys2Proof.Machine.execPoll s
  | .release => Sys2Proof.Machine.execRelease s
  | .loadKey => Sys2Proof.Machine.execLoadKey s
  | .sample => Sys2Proof.Machine.execSample s
  | .junctionLimit => Sys2Proof.Machine.execJunctionLimit s
  | .thermalShutdown => Sys2Proof.Machine.execThermalShutdown s
  | .flowHold => Sys2Proof.Machine.execFlowHold s
  | .flowRecovery => Sys2Proof.Machine.execFlowRecovery s
  | .flowLoss => Sys2Proof.Machine.execFlowLoss s
  | .bringUp => Sys2Proof.Machine.execBringUp s
  | .freeze => Sys2Proof.Machine.execFreeze s
  | .masterReset => Sys2Proof.Machine.execMasterReset s
  | .ioRegisterWrite => Sys2Proof.Machine.execIoRegisterWrite s
  | .scaleOutRequestArrival => Sys2Proof.Machine.execScaleOutRequestArrival s
  | .hostLinkState => Sys2Proof.Machine.execHostLinkState s
  | .cxlMemEnable => Sys2Proof.Machine.execCxlMemEnable s
  | .killLaunch => Sys2Proof.Machine.execKillLaunch s

end Sys2Proof.Machine
end

