-- ==== Sys2Proof/Machine/Survey.lean ====
section
/-! DEFINITION. What a quad finds before it chooses what issues (08 R178, 09 R198): which of its strands can issue now.
QUAD_ISSUE_CYCLE has the answer in its operands. -/

namespace Sys2Proof.Machine

open Sys2Proof

/-- What a strand's next issue comes to. -/
def attemptOf (s : State) (a : Agent) (r : Issue) : Host.Outcome State Fault Refusal :=
  match r with
  | .exec i t => if isWordInstr i then issued i (getStrand (getCtx s a.key) a.slot).pinned t (exec i (raceView t)) else exec i t
  | .done t => .next (arrived { s with focus := a } t)

/-- A strand's next instruction issued, or the state in which it traps or waits; a wait whose strand has given its pin back goes
on without its window (R200). -/
def attempt (s : State) (a : Agent) : Host.Outcome State Fault Refusal :=
  if waitGoesOn s a exec then .next { s with focus := a } else attemptOf s a (issueNext { s with focus := a })

/-- Whether what a strand would do next takes no issue cycle: evaluating a clause header, or a rep word (R198). -/
def takesNoCycle (s : State) (a : Agent) : Bool :=
  match issueNext { s with focus := a } with
  | .exec i _ =>
    (match i with
     | .clauseBegin | .rep _ _ _ _ => true
     | _ => false)
  | .done _ => false

/-- Whether a strand has gone on past a header or a rep word, and has not trapped there. -/
def goesOn (t : State) (a : Agent) : Bool :=
  let x := getStrand (getCtx t a.key) a.slot
  x.valid && x.begun

/-- Whether a strand's next instruction can issue now, after the header and the rep word that may stand before it
(R178, R198); an instruction that traps can. -/
def canIssue : Nat → State → Agent → Bool
  | 0, _, _ => false
  | n + 1, s, a =>
    issuable s a &&
      (match attempt s a with
       | .next t => !onlyWaits t a && (!(takesNoCycle s a && goesOn t a) || canIssue n t a)
       | _ => false)

/-- A header, a rep word and an instruction stand in one issue at most. -/
def issueDepth : Nat := 3

/-- A strand that cannot issue comes to its wait: it takes its header and rep word, and its wait is noted. -/
def settleWait : Nat → State → Agent → State
  | 0, s, _ => s
  | n + 1, s, a =>
    if !issuable s a then s
    else
      match attempt s a with
      | .next t =>
        if onlyWaits t a then { t with focus := s.focus }
        else if takesNoCycle s a && goesOn t a then settleWait n { t with focus := s.focus } a
        else s
      | _ => s

/-- The live strands of a quad. -/
def liveStrands (s : State) (core quad : Nat) : List Agent :=
  (strandsOf s).filter fun a => !isSystem a.key && a.key / 16 == core * 4 + quad

/-- Strands that cannot issue come to their waits, one after the other: a wait that goes on stays, one for another reason
begins (R200), and the load of a window that has been evicted is started (R197). -/
def settleWaits (s : State) : List Agent → State
  | [] => s
  | a :: rest => settleWaits (if canIssue issueDepth s a then s else settleWait issueDepth s a) rest

/-- The state in which a step of the table is taken: before a quad's cycle, waits are noted and the strands that can issue
are found; other steps find nothing. -/
def survey (i : Instr) (s : State) : State :=
  match i with
  | .quadIssueCycle =>
    let core := s.input.place
    let quad := s.input.sub % 4
    let t := settleWaits s (liveStrands s core quad)
    { t with input := { s.input with ready := (liveStrands t core quad).filter (canIssue issueDepth t) } }
  | _ => s

/-- Whether a move is not made because the module has shut down (25 R481): every move but BRING_UP, with which a reset begins. -/
def staysDown (s : State) (a : Act) : Bool :=
  s.shutdown &&
    (match a with
     | .event .bringUp _ => false
     | _ => true)

end Sys2Proof.Machine
end

