-- ==== Sys2Proof/Machine/Step.lean ====
section
/-! DEFINITION. One step of the module: time passes, and the head of the agenda is done, else the head of what the
machine has started, else the executing strand's next instruction, the strands taking turns. Where work that the machine has started
was not ready, a strand issues before the next such work. -/

namespace Sys2Proof.Machine

open Sys2Proof

/-- The executing strand's next instruction. -/
def issueStep (s : State) : Host.Outcome State Fault Refusal := attempt s s.focus

/-- One move, of a module that has not shut down. An encoded instruction is no step of the table's kind and is only issued, never
scheduled. -/
def move (a : Act) (s : State) : Host.Outcome State Fault Refusal :=
  match a with
  | .event i args => if isWordInstr i then .next s else exec i (survey i { s with input := args })
  | .issue who => issueStep { s with focus := who }
  | .perform ctx id sub => .next (performStore s ctx id sub)
  | .showStore ctx id sub => .next (showStore s ctx id sub)

/-- One move. In a module that has shut down nothing moves but bring-up after a reset (25 R481, R483). -/
def act (a : Act) (s : State) : Host.Outcome State Fault Refusal := if staysDown s a then .next s else move a s

/-- One step of the machine: what the engines have come to is noted, and time passes, before the move. -/
def step (s : State) : Host.Outcome State Fault Refusal :=
  let s := elapse (watchEngines s)
  match s.agenda with
  | a :: rest => act a { s with agenda := rest }
  | [] =>
    match s.due, s.postponed with
    | a :: rest, false => act a { s with due := rest }
    | _, _ => issueStep { s with postponed := false, focus := nextStrand s s.focus }

/-- The state with an instruction placed so that the very next step runs it. -/
def State.withFetchWord (s : State) (nbits w : Nat) : State :=
  let v := w % 2 ^ nbits
  placeCode s (BitVec.ofNat 32 v) (BitVec.ofNat 32 (v / 2 ^ 32))

end Sys2Proof.Machine
end

