-- ==== Sys2Proof/Laws/Encoding.lean ====
section
/-! SUPPORT. The bits of encoded words: one lemma for each layout of fields that the encoding tables use, saying what the
decoder reads of a word so laid out, and the numbers of a family's words. -/

namespace Sys2Proof.Laws.Encoding

open Sys2Proof

/-- A field read back. -/
theorem field_eq {n : Nat} (x : BitVec n) {y : Nat} (h : y % 2 ^ n = x.toNat) : BitVec.ofNat n y = x := by
  apply BitVec.eq_of_toNat_eq; simpa using h

theorem word1 (base a0 p0 : Nat) : (word base [(a0, p0)]).toNat =
    (base + a0 * 2 ^ p0) % 4294967296 := by
  simp [word]

theorem word2 (base a0 p0 a1 p1 : Nat) : (word base [(a0, p0), (a1, p1)]).toNat =
    (base + a0 * 2 ^ p0 + a1 * 2 ^ p1) % 4294967296 := by
  simp [word]

theorem word3 (base a0 p0 a1 p1 a2 p2 : Nat) : (word base [(a0, p0), (a1, p1), (a2, p2)]).toNat =
    (base + a0 * 2 ^ p0 + a1 * 2 ^ p1 + a2 * 2 ^ p2) % 4294967296 := by
  simp [word]

theorem word4 (base a0 p0 a1 p1 a2 p2 a3 p3 : Nat) : (word base [(a0, p0), (a1, p1), (a2, p2), (a3, p3)]).toNat =
    (base + a0 * 2 ^ p0 + a1 * 2 ^ p1 + a2 * 2 ^ p2 + a3 * 2 ^ p3) % 4294967296 := by
  simp [word]

theorem word5 (base a0 p0 a1 p1 a2 p2 a3 p3 a4 p4 : Nat) : (word base [(a0, p0), (a1, p1), (a2, p2), (a3, p3), (a4, p4)]).toNat =
    (base + a0 * 2 ^ p0 + a1 * 2 ^ p1 + a2 * 2 ^ p2 + a3 * 2 ^ p3 + a4 * 2 ^ p4) % 4294967296 := by
  simp [word]

theorem word6 (base a0 p0 a1 p1 a2 p2 a3 p3 a4 p4 a5 p5 : Nat) : (word base [(a0, p0), (a1, p1), (a2, p2), (a3, p3), (a4, p4), (a5, p5)]).toNat =
    (base + a0 * 2 ^ p0 + a1 * 2 ^ p1 + a2 * 2 ^ p2 + a3 * 2 ^ p3 + a4 * 2 ^ p4 + a5 * 2 ^ p5) % 4294967296 := by
  simp [word]

theorem word7 (base a0 p0 a1 p1 a2 p2 a3 p3 a4 p4 a5 p5 a6 p6 : Nat) : (word base [(a0, p0), (a1, p1), (a2, p2), (a3, p3), (a4, p4), (a5, p5), (a6, p6)]).toNat =
    (base + a0 * 2 ^ p0 + a1 * 2 ^ p1 + a2 * 2 ^ p2 + a3 * 2 ^ p3 + a4 * 2 ^ p4 + a5 * 2 ^ p5 + a6 * 2 ^ p6) % 4294967296 := by
  simp [word]

theorem word8 (base a0 p0 a1 p1 a2 p2 a3 p3 a4 p4 a5 p5 a6 p6 a7 p7 : Nat) : (word base [(a0, p0), (a1, p1), (a2, p2), (a3, p3), (a4, p4), (a5, p5), (a6, p6), (a7, p7)]).toNat =
    (base + a0 * 2 ^ p0 + a1 * 2 ^ p1 + a2 * 2 ^ p2 + a3 * 2 ^ p3 + a4 * 2 ^ p4 + a5 * 2 ^ p5 + a6 * 2 ^ p6 + a7 * 2 ^ p7) % 4294967296 := by
  simp [word]

theorem word9 (base a0 p0 a1 p1 a2 p2 a3 p3 a4 p4 a5 p5 a6 p6 a7 p7 a8 p8 : Nat) : (word base [(a0, p0), (a1, p1), (a2, p2), (a3, p3), (a4, p4), (a5, p5), (a6, p6), (a7, p7), (a8, p8)]).toNat =
    (base + a0 * 2 ^ p0 + a1 * 2 ^ p1 + a2 * 2 ^ p2 + a3 * 2 ^ p3 + a4 * 2 ^ p4 + a5 * 2 ^ p5 + a6 * 2 ^ p6 + a7 * 2 ^ p7 + a8 * 2 ^ p8) % 4294967296 := by
  simp [word]

theorem layout0 (base m : Nat) (hb : base = m * 33554432) (hm : m < 128)
    (x0 : BitVec 3) :
    majorOf (word base [(x0.toNat, 22)]) = m ∧
    bits (word base [(x0.toNat, 22)]) 0 22 = 0 ∧
    field (word base [(x0.toNat, 22)]) 22 3 = x0 := by
  have hx0 := x0.isLt
  have hw : (word base [(x0.toNat, 22)]).toNat = m * 33554432 + x0.toNat * 4194304 := by
    subst hb; rw [word1]; omega
  generalize word base [(x0.toNat, 22)] = w at *
  refine ⟨by simp only [majorOf, bits]; omega, by simp only [bits]; omega, field_eq _ (by omega)⟩

theorem layout1 (base m f0 : Nat) (hb : base = m * 33554432 + f0 * 524288) (hm : m < 128) (hf0 : f0 < 8)
    (x0 : BitVec 3) (x1 : BitVec 6) (x2 : BitVec 6) (x3 : BitVec 6) (x4 : BitVec 1) :
    majorOf (word base [(x0.toNat, 22), (x1.toNat, 13), (x2.toNat, 7), (x3.toNat, 1), (x4.toNat, 0)]) = m ∧
    bits (word base [(x0.toNat, 22), (x1.toNat, 13), (x2.toNat, 7), (x3.toNat, 1), (x4.toNat, 0)]) 19 3 = f0 ∧
    field (word base [(x0.toNat, 22), (x1.toNat, 13), (x2.toNat, 7), (x3.toNat, 1), (x4.toNat, 0)]) 22 3 = x0 ∧
    field (word base [(x0.toNat, 22), (x1.toNat, 13), (x2.toNat, 7), (x3.toNat, 1), (x4.toNat, 0)]) 13 6 = x1 ∧
    field (word base [(x0.toNat, 22), (x1.toNat, 13), (x2.toNat, 7), (x3.toNat, 1), (x4.toNat, 0)]) 7 6 = x2 ∧
    field (word base [(x0.toNat, 22), (x1.toNat, 13), (x2.toNat, 7), (x3.toNat, 1), (x4.toNat, 0)]) 1 6 = x3 ∧
    field (word base [(x0.toNat, 22), (x1.toNat, 13), (x2.toNat, 7), (x3.toNat, 1), (x4.toNat, 0)]) 0 1 = x4 := by
  have hx0 := x0.isLt
  have hx1 := x1.isLt
  have hx2 := x2.isLt
  have hx3 := x3.isLt
  have hx4 := x4.isLt
  have hw : (word base [(x0.toNat, 22), (x1.toNat, 13), (x2.toNat, 7), (x3.toNat, 1), (x4.toNat, 0)]).toNat = m * 33554432 + f0 * 524288 + x0.toNat * 4194304 + x1.toNat * 8192 + x2.toNat * 128 + x3.toNat * 2 + x4.toNat := by
    subst hb; rw [word5]; omega
  generalize word base [(x0.toNat, 22), (x1.toNat, 13), (x2.toNat, 7), (x3.toNat, 1), (x4.toNat, 0)] = w at *
  refine ⟨by simp only [majorOf, bits]; omega, by simp only [bits]; omega, field_eq _ (by omega), field_eq _ (by omega), field_eq _ (by omega), field_eq _ (by omega), field_eq _ (by omega)⟩

theorem layout2 (base m : Nat) (hb : base = m * 33554432) (hm : m < 128)
    (x0 : BitVec 3) (x1 : BitVec 6) (x2 : BitVec 6) (x3 : BitVec 10) :
    majorOf (word base [(x0.toNat, 22), (x1.toNat, 16), (x2.toNat, 10), (x3.toNat, 0)]) = m ∧
    field (word base [(x0.toNat, 22), (x1.toNat, 16), (x2.toNat, 10), (x3.toNat, 0)]) 22 3 = x0 ∧
    field (word base [(x0.toNat, 22), (x1.toNat, 16), (x2.toNat, 10), (x3.toNat, 0)]) 16 6 = x1 ∧
    field (word base [(x0.toNat, 22), (x1.toNat, 16), (x2.toNat, 10), (x3.toNat, 0)]) 10 6 = x2 ∧
    field (word base [(x0.toNat, 22), (x1.toNat, 16), (x2.toNat, 10), (x3.toNat, 0)]) 0 10 = x3 := by
  have hx0 := x0.isLt
  have hx1 := x1.isLt
  have hx2 := x2.isLt
  have hx3 := x3.isLt
  have hw : (word base [(x0.toNat, 22), (x1.toNat, 16), (x2.toNat, 10), (x3.toNat, 0)]).toNat = m * 33554432 + x0.toNat * 4194304 + x1.toNat * 65536 + x2.toNat * 1024 + x3.toNat := by
    subst hb; rw [word4]; omega
  generalize word base [(x0.toNat, 22), (x1.toNat, 16), (x2.toNat, 10), (x3.toNat, 0)] = w at *
  refine ⟨by simp only [majorOf, bits]; omega, field_eq _ (by omega), field_eq _ (by omega), field_eq _ (by omega), field_eq _ (by omega)⟩

theorem layout3 (base m : Nat) (hb : base = m * 33554432) (hm : m < 128)
    (x0 : BitVec 3) (x1 : BitVec 6) (x2 : BitVec 16) :
    majorOf (word base [(x0.toNat, 22), (x1.toNat, 16), (x2.toNat, 0)]) = m ∧
    field (word base [(x0.toNat, 22), (x1.toNat, 16), (x2.toNat, 0)]) 22 3 = x0 ∧
    field (word base [(x0.toNat, 22), (x1.toNat, 16), (x2.toNat, 0)]) 16 6 = x1 ∧
    field (word base [(x0.toNat, 22), (x1.toNat, 16), (x2.toNat, 0)]) 0 16 = x2 := by
  have hx0 := x0.isLt
  have hx1 := x1.isLt
  have hx2 := x2.isLt
  have hw : (word base [(x0.toNat, 22), (x1.toNat, 16), (x2.toNat, 0)]).toNat = m * 33554432 + x0.toNat * 4194304 + x1.toNat * 65536 + x2.toNat := by
    subst hb; rw [word3]; omega
  generalize word base [(x0.toNat, 22), (x1.toNat, 16), (x2.toNat, 0)] = w at *
  refine ⟨by simp only [majorOf, bits]; omega, field_eq _ (by omega), field_eq _ (by omega), field_eq _ (by omega)⟩

theorem layout4 (base m f0 : Nat) (hb : base = m * 33554432 + f0 * 4194304) (hm : m < 128) (hf0 : f0 < 2)
    (x0 : BitVec 2) (x1 : BitVec 6) (x2 : BitVec 16) :
    majorOf (word base [(x0.toNat, 23), (x1.toNat, 16), (x2.toNat, 0)]) = m ∧
    bits (word base [(x0.toNat, 23), (x1.toNat, 16), (x2.toNat, 0)]) 22 1 = f0 ∧
    field (word base [(x0.toNat, 23), (x1.toNat, 16), (x2.toNat, 0)]) 23 2 = x0 ∧
    field (word base [(x0.toNat, 23), (x1.toNat, 16), (x2.toNat, 0)]) 16 6 = x1 ∧
    field (word base [(x0.toNat, 23), (x1.toNat, 16), (x2.toNat, 0)]) 0 16 = x2 := by
  have hx0 := x0.isLt
  have hx1 := x1.isLt
  have hx2 := x2.isLt
  have hw : (word base [(x0.toNat, 23), (x1.toNat, 16), (x2.toNat, 0)]).toNat = m * 33554432 + f0 * 4194304 + x0.toNat * 8388608 + x1.toNat * 65536 + x2.toNat := by
    subst hb; rw [word3]; omega
  generalize word base [(x0.toNat, 23), (x1.toNat, 16), (x2.toNat, 0)] = w at *
  refine ⟨by simp only [majorOf, bits]; omega, by simp only [bits]; omega, field_eq _ (by omega), field_eq _ (by omega), field_eq _ (by omega)⟩

theorem layout5 (base m f0 : Nat) (hb : base = m * 33554432 + f0 * 65536) (hm : m < 128) (hf0 : f0 < 64)
    (x0 : BitVec 3) (x1 : BitVec 3) (x2 : BitVec 6) (x3 : BitVec 6) (x4 : BitVec 1) :
    majorOf (word base [(x0.toNat, 22), (x1.toNat, 13), (x2.toNat, 7), (x3.toNat, 1), (x4.toNat, 0)]) = m ∧
    bits (word base [(x0.toNat, 22), (x1.toNat, 13), (x2.toNat, 7), (x3.toNat, 1), (x4.toNat, 0)]) 16 6 = f0 ∧
    field (word base [(x0.toNat, 22), (x1.toNat, 13), (x2.toNat, 7), (x3.toNat, 1), (x4.toNat, 0)]) 22 3 = x0 ∧
    field (word base [(x0.toNat, 22), (x1.toNat, 13), (x2.toNat, 7), (x3.toNat, 1), (x4.toNat, 0)]) 13 3 = x1 ∧
    field (word base [(x0.toNat, 22), (x1.toNat, 13), (x2.toNat, 7), (x3.toNat, 1), (x4.toNat, 0)]) 7 6 = x2 ∧
    field (word base [(x0.toNat, 22), (x1.toNat, 13), (x2.toNat, 7), (x3.toNat, 1), (x4.toNat, 0)]) 1 6 = x3 ∧
    field (word base [(x0.toNat, 22), (x1.toNat, 13), (x2.toNat, 7), (x3.toNat, 1), (x4.toNat, 0)]) 0 1 = x4 := by
  have hx0 := x0.isLt
  have hx1 := x1.isLt
  have hx2 := x2.isLt
  have hx3 := x3.isLt
  have hx4 := x4.isLt
  have hw : (word base [(x0.toNat, 22), (x1.toNat, 13), (x2.toNat, 7), (x3.toNat, 1), (x4.toNat, 0)]).toNat = m * 33554432 + f0 * 65536 + x0.toNat * 4194304 + x1.toNat * 8192 + x2.toNat * 128 + x3.toNat * 2 + x4.toNat := by
    subst hb; rw [word5]; omega
  generalize word base [(x0.toNat, 22), (x1.toNat, 13), (x2.toNat, 7), (x3.toNat, 1), (x4.toNat, 0)] = w at *
  refine ⟨by simp only [majorOf, bits]; omega, by simp only [bits]; omega, field_eq _ (by omega), field_eq _ (by omega), field_eq _ (by omega), field_eq _ (by omega), field_eq _ (by omega)⟩

theorem layout6 (base m f0 : Nat) (hb : base = m * 33554432 + f0 * 524288) (hm : m < 128) (hf0 : f0 < 8)
    (x0 : BitVec 3) (x1 : BitVec 3) (x2 : BitVec 6) (x3 : BitVec 10) :
    majorOf (word base [(x0.toNat, 22), (x1.toNat, 16), (x2.toNat, 10), (x3.toNat, 0)]) = m ∧
    bits (word base [(x0.toNat, 22), (x1.toNat, 16), (x2.toNat, 10), (x3.toNat, 0)]) 19 3 = f0 ∧
    field (word base [(x0.toNat, 22), (x1.toNat, 16), (x2.toNat, 10), (x3.toNat, 0)]) 22 3 = x0 ∧
    field (word base [(x0.toNat, 22), (x1.toNat, 16), (x2.toNat, 10), (x3.toNat, 0)]) 16 3 = x1 ∧
    field (word base [(x0.toNat, 22), (x1.toNat, 16), (x2.toNat, 10), (x3.toNat, 0)]) 10 6 = x2 ∧
    field (word base [(x0.toNat, 22), (x1.toNat, 16), (x2.toNat, 10), (x3.toNat, 0)]) 0 10 = x3 := by
  have hx0 := x0.isLt
  have hx1 := x1.isLt
  have hx2 := x2.isLt
  have hx3 := x3.isLt
  have hw : (word base [(x0.toNat, 22), (x1.toNat, 16), (x2.toNat, 10), (x3.toNat, 0)]).toNat = m * 33554432 + f0 * 524288 + x0.toNat * 4194304 + x1.toNat * 65536 + x2.toNat * 1024 + x3.toNat := by
    subst hb; rw [word4]; omega
  generalize word base [(x0.toNat, 22), (x1.toNat, 16), (x2.toNat, 10), (x3.toNat, 0)] = w at *
  refine ⟨by simp only [majorOf, bits]; omega, by simp only [bits]; omega, field_eq _ (by omega), field_eq _ (by omega), field_eq _ (by omega), field_eq _ (by omega)⟩

theorem layout7 (base m f0 f1 f2 f3 : Nat) (hb : base = m * 33554432 + f0 + f1 * 16 + f2 * 1024 + f3 * 65536) (hm : m < 128) (hf0 : f0 < 2) (hf1 : f1 < 8) (hf2 : f2 < 8) (hf3 : f3 < 64)
    (x0 : BitVec 3) (x1 : BitVec 3) (x2 : BitVec 3) (x3 : BitVec 3) :
    majorOf (word base [(x0.toNat, 22), (x1.toNat, 13), (x2.toNat, 7), (x3.toNat, 1)]) = m ∧
    bits (word base [(x0.toNat, 22), (x1.toNat, 13), (x2.toNat, 7), (x3.toNat, 1)]) 0 1 = f0 ∧
    bits (word base [(x0.toNat, 22), (x1.toNat, 13), (x2.toNat, 7), (x3.toNat, 1)]) 4 3 = f1 ∧
    bits (word base [(x0.toNat, 22), (x1.toNat, 13), (x2.toNat, 7), (x3.toNat, 1)]) 10 3 = f2 ∧
    bits (word base [(x0.toNat, 22), (x1.toNat, 13), (x2.toNat, 7), (x3.toNat, 1)]) 16 6 = f3 ∧
    field (word base [(x0.toNat, 22), (x1.toNat, 13), (x2.toNat, 7), (x3.toNat, 1)]) 22 3 = x0 ∧
    field (word base [(x0.toNat, 22), (x1.toNat, 13), (x2.toNat, 7), (x3.toNat, 1)]) 13 3 = x1 ∧
    field (word base [(x0.toNat, 22), (x1.toNat, 13), (x2.toNat, 7), (x3.toNat, 1)]) 7 3 = x2 ∧
    field (word base [(x0.toNat, 22), (x1.toNat, 13), (x2.toNat, 7), (x3.toNat, 1)]) 1 3 = x3 := by
  have hx0 := x0.isLt
  have hx1 := x1.isLt
  have hx2 := x2.isLt
  have hx3 := x3.isLt
  have hw : (word base [(x0.toNat, 22), (x1.toNat, 13), (x2.toNat, 7), (x3.toNat, 1)]).toNat = m * 33554432 + f0 + f1 * 16 + f2 * 1024 + f3 * 65536 + x0.toNat * 4194304 + x1.toNat * 8192 + x2.toNat * 128 + x3.toNat * 2 := by
    subst hb; rw [word4]; omega
  generalize word base [(x0.toNat, 22), (x1.toNat, 13), (x2.toNat, 7), (x3.toNat, 1)] = w at *
  refine ⟨by simp only [majorOf, bits]; omega, by simp only [bits]; omega, by simp only [bits]; omega, by simp only [bits]; omega, by simp only [bits]; omega, field_eq _ (by omega), field_eq _ (by omega), field_eq _ (by omega), field_eq _ (by omega)⟩

theorem layout8 (base m f0 f1 f2 : Nat) (hb : base = m * 33554432 + f0 + f1 * 1024 + f2 * 65536) (hm : m < 128) (hf0 : f0 < 128) (hf1 : f1 < 8) (hf2 : f2 < 64)
    (x0 : BitVec 3) (x1 : BitVec 3) (x2 : BitVec 3) :
    majorOf (word base [(x0.toNat, 22), (x1.toNat, 13), (x2.toNat, 7)]) = m ∧
    bits (word base [(x0.toNat, 22), (x1.toNat, 13), (x2.toNat, 7)]) 0 7 = f0 ∧
    bits (word base [(x0.toNat, 22), (x1.toNat, 13), (x2.toNat, 7)]) 10 3 = f1 ∧
    bits (word base [(x0.toNat, 22), (x1.toNat, 13), (x2.toNat, 7)]) 16 6 = f2 ∧
    field (word base [(x0.toNat, 22), (x1.toNat, 13), (x2.toNat, 7)]) 22 3 = x0 ∧
    field (word base [(x0.toNat, 22), (x1.toNat, 13), (x2.toNat, 7)]) 13 3 = x1 ∧
    field (word base [(x0.toNat, 22), (x1.toNat, 13), (x2.toNat, 7)]) 7 3 = x2 := by
  have hx0 := x0.isLt
  have hx1 := x1.isLt
  have hx2 := x2.isLt
  have hw : (word base [(x0.toNat, 22), (x1.toNat, 13), (x2.toNat, 7)]).toNat = m * 33554432 + f0 + f1 * 1024 + f2 * 65536 + x0.toNat * 4194304 + x1.toNat * 8192 + x2.toNat * 128 := by
    subst hb; rw [word3]; omega
  generalize word base [(x0.toNat, 22), (x1.toNat, 13), (x2.toNat, 7)] = w at *
  refine ⟨by simp only [majorOf, bits]; omega, by simp only [bits]; omega, by simp only [bits]; omega, by simp only [bits]; omega, field_eq _ (by omega), field_eq _ (by omega), field_eq _ (by omega)⟩

theorem layout9 (base m f1 : Nat) (hb : base = m * 33554432 + f1 * 65536) (hm : m < 128) (hf1 : f1 < 64)
    (x0 : BitVec 3) (x1 : BitVec 3) :
    majorOf (word base [(x0.toNat, 22), (x1.toNat, 13)]) = m ∧
    bits (word base [(x0.toNat, 22), (x1.toNat, 13)]) 0 13 = 0 ∧
    bits (word base [(x0.toNat, 22), (x1.toNat, 13)]) 16 6 = f1 ∧
    field (word base [(x0.toNat, 22), (x1.toNat, 13)]) 22 3 = x0 ∧
    field (word base [(x0.toNat, 22), (x1.toNat, 13)]) 13 3 = x1 := by
  have hx0 := x0.isLt
  have hx1 := x1.isLt
  have hw : (word base [(x0.toNat, 22), (x1.toNat, 13)]).toNat = m * 33554432 + f1 * 65536 + x0.toNat * 4194304 + x1.toNat * 8192 := by
    subst hb; rw [word2]; omega
  generalize word base [(x0.toNat, 22), (x1.toNat, 13)] = w at *
  refine ⟨by simp only [majorOf, bits]; omega, by simp only [bits]; omega, by simp only [bits]; omega, field_eq _ (by omega), field_eq _ (by omega)⟩

theorem layout10 (base m : Nat) (hb : base = m * 33554432) (hm : m < 128)
    (x0 : BitVec 3) (x1 : BitVec 3) (x2 : BitVec 6) (x3 : BitVec 6) (x4 : BitVec 6) (x5 : BitVec 1) :
    majorOf (word base [(x0.toNat, 22), (x1.toNat, 19), (x2.toNat, 13), (x3.toNat, 7), (x4.toNat, 1), (x5.toNat, 0)]) = m ∧
    field (word base [(x0.toNat, 22), (x1.toNat, 19), (x2.toNat, 13), (x3.toNat, 7), (x4.toNat, 1), (x5.toNat, 0)]) 22 3 = x0 ∧
    field (word base [(x0.toNat, 22), (x1.toNat, 19), (x2.toNat, 13), (x3.toNat, 7), (x4.toNat, 1), (x5.toNat, 0)]) 19 3 = x1 ∧
    field (word base [(x0.toNat, 22), (x1.toNat, 19), (x2.toNat, 13), (x3.toNat, 7), (x4.toNat, 1), (x5.toNat, 0)]) 13 6 = x2 ∧
    field (word base [(x0.toNat, 22), (x1.toNat, 19), (x2.toNat, 13), (x3.toNat, 7), (x4.toNat, 1), (x5.toNat, 0)]) 7 6 = x3 ∧
    field (word base [(x0.toNat, 22), (x1.toNat, 19), (x2.toNat, 13), (x3.toNat, 7), (x4.toNat, 1), (x5.toNat, 0)]) 1 6 = x4 ∧
    field (word base [(x0.toNat, 22), (x1.toNat, 19), (x2.toNat, 13), (x3.toNat, 7), (x4.toNat, 1), (x5.toNat, 0)]) 0 1 = x5 := by
  have hx0 := x0.isLt
  have hx1 := x1.isLt
  have hx2 := x2.isLt
  have hx3 := x3.isLt
  have hx4 := x4.isLt
  have hx5 := x5.isLt
  have hw : (word base [(x0.toNat, 22), (x1.toNat, 19), (x2.toNat, 13), (x3.toNat, 7), (x4.toNat, 1), (x5.toNat, 0)]).toNat = m * 33554432 + x0.toNat * 4194304 + x1.toNat * 524288 + x2.toNat * 8192 + x3.toNat * 128 + x4.toNat * 2 + x5.toNat := by
    subst hb; rw [word6]; omega
  generalize word base [(x0.toNat, 22), (x1.toNat, 19), (x2.toNat, 13), (x3.toNat, 7), (x4.toNat, 1), (x5.toNat, 0)] = w at *
  refine ⟨by simp only [majorOf, bits]; omega, field_eq _ (by omega), field_eq _ (by omega), field_eq _ (by omega), field_eq _ (by omega), field_eq _ (by omega), field_eq _ (by omega)⟩

theorem layout11 (base m f0 f1 : Nat) (hb : base = m * 33554432 + f0 + f1 * 524288) (hm : m < 128) (hf0 : f0 < 2) (hf1 : f1 < 8)
    (x0 : BitVec 3) (x1 : BitVec 6) (x2 : BitVec 6) (x3 : BitVec 6) :
    majorOf (word base [(x0.toNat, 22), (x1.toNat, 13), (x2.toNat, 7), (x3.toNat, 1)]) = m ∧
    bits (word base [(x0.toNat, 22), (x1.toNat, 13), (x2.toNat, 7), (x3.toNat, 1)]) 0 1 = f0 ∧
    bits (word base [(x0.toNat, 22), (x1.toNat, 13), (x2.toNat, 7), (x3.toNat, 1)]) 19 3 = f1 ∧
    field (word base [(x0.toNat, 22), (x1.toNat, 13), (x2.toNat, 7), (x3.toNat, 1)]) 22 3 = x0 ∧
    field (word base [(x0.toNat, 22), (x1.toNat, 13), (x2.toNat, 7), (x3.toNat, 1)]) 13 6 = x1 ∧
    field (word base [(x0.toNat, 22), (x1.toNat, 13), (x2.toNat, 7), (x3.toNat, 1)]) 7 6 = x2 ∧
    field (word base [(x0.toNat, 22), (x1.toNat, 13), (x2.toNat, 7), (x3.toNat, 1)]) 1 6 = x3 := by
  have hx0 := x0.isLt
  have hx1 := x1.isLt
  have hx2 := x2.isLt
  have hx3 := x3.isLt
  have hw : (word base [(x0.toNat, 22), (x1.toNat, 13), (x2.toNat, 7), (x3.toNat, 1)]).toNat = m * 33554432 + f0 + f1 * 524288 + x0.toNat * 4194304 + x1.toNat * 8192 + x2.toNat * 128 + x3.toNat * 2 := by
    subst hb; rw [word4]; omega
  generalize word base [(x0.toNat, 22), (x1.toNat, 13), (x2.toNat, 7), (x3.toNat, 1)] = w at *
  refine ⟨by simp only [majorOf, bits]; omega, by simp only [bits]; omega, by simp only [bits]; omega, field_eq _ (by omega), field_eq _ (by omega), field_eq _ (by omega), field_eq _ (by omega)⟩

theorem layout12 (base m f0 f1 : Nat) (hb : base = m * 33554432 + f0 + f1 * 524288) (hm : m < 128) (hf0 : f0 < 128) (hf1 : f1 < 8)
    (x0 : BitVec 3) (x1 : BitVec 6) (x2 : BitVec 6) :
    majorOf (word base [(x0.toNat, 22), (x1.toNat, 13), (x2.toNat, 7)]) = m ∧
    bits (word base [(x0.toNat, 22), (x1.toNat, 13), (x2.toNat, 7)]) 0 7 = f0 ∧
    bits (word base [(x0.toNat, 22), (x1.toNat, 13), (x2.toNat, 7)]) 19 3 = f1 ∧
    field (word base [(x0.toNat, 22), (x1.toNat, 13), (x2.toNat, 7)]) 22 3 = x0 ∧
    field (word base [(x0.toNat, 22), (x1.toNat, 13), (x2.toNat, 7)]) 13 6 = x1 ∧
    field (word base [(x0.toNat, 22), (x1.toNat, 13), (x2.toNat, 7)]) 7 6 = x2 := by
  have hx0 := x0.isLt
  have hx1 := x1.isLt
  have hx2 := x2.isLt
  have hw : (word base [(x0.toNat, 22), (x1.toNat, 13), (x2.toNat, 7)]).toNat = m * 33554432 + f0 + f1 * 524288 + x0.toNat * 4194304 + x1.toNat * 8192 + x2.toNat * 128 := by
    subst hb; rw [word3]; omega
  generalize word base [(x0.toNat, 22), (x1.toNat, 13), (x2.toNat, 7)] = w at *
  refine ⟨by simp only [majorOf, bits]; omega, by simp only [bits]; omega, by simp only [bits]; omega, field_eq _ (by omega), field_eq _ (by omega), field_eq _ (by omega)⟩

theorem layout13 (base m : Nat) (hb : base = m * 33554432) (hm : m < 128)
    (x0 : BitVec 3) (x1 : BitVec 22) :
    majorOf (word base [(x0.toNat, 22), (x1.toNat, 0)]) = m ∧
    field (word base [(x0.toNat, 22), (x1.toNat, 0)]) 22 3 = x0 ∧
    field (word base [(x0.toNat, 22), (x1.toNat, 0)]) 0 22 = x1 := by
  have hx0 := x0.isLt
  have hx1 := x1.isLt
  have hw : (word base [(x0.toNat, 22), (x1.toNat, 0)]).toNat = m * 33554432 + x0.toNat * 4194304 + x1.toNat := by
    subst hb; rw [word2]; omega
  generalize word base [(x0.toNat, 22), (x1.toNat, 0)] = w at *
  refine ⟨by simp only [majorOf, bits]; omega, field_eq _ (by omega), field_eq _ (by omega)⟩

theorem layout14 (base m f0 : Nat) (hb : base = m * 33554432 + f0 * 65536) (hm : m < 128) (hf0 : f0 < 64)
    (x0 : BitVec 3) (x1 : BitVec 6) (x2 : BitVec 10) :
    majorOf (word base [(x0.toNat, 22), (x1.toNat, 10), (x2.toNat, 0)]) = m ∧
    bits (word base [(x0.toNat, 22), (x1.toNat, 10), (x2.toNat, 0)]) 16 6 = f0 ∧
    field (word base [(x0.toNat, 22), (x1.toNat, 10), (x2.toNat, 0)]) 22 3 = x0 ∧
    field (word base [(x0.toNat, 22), (x1.toNat, 10), (x2.toNat, 0)]) 10 6 = x1 ∧
    field (word base [(x0.toNat, 22), (x1.toNat, 10), (x2.toNat, 0)]) 0 10 = x2 := by
  have hx0 := x0.isLt
  have hx1 := x1.isLt
  have hx2 := x2.isLt
  have hw : (word base [(x0.toNat, 22), (x1.toNat, 10), (x2.toNat, 0)]).toNat = m * 33554432 + f0 * 65536 + x0.toNat * 4194304 + x1.toNat * 1024 + x2.toNat := by
    subst hb; rw [word3]; omega
  generalize word base [(x0.toNat, 22), (x1.toNat, 10), (x2.toNat, 0)] = w at *
  refine ⟨by simp only [majorOf, bits]; omega, by simp only [bits]; omega, field_eq _ (by omega), field_eq _ (by omega), field_eq _ (by omega)⟩

theorem layout15 (base m f0 f1 : Nat) (hb : base = m * 33554432 + f0 * 2 + f1 * 8192) (hm : m < 128) (hf0 : f0 < 64) (hf1 : f1 < 512)
    (x0 : BitVec 3) (x1 : BitVec 6) (x2 : BitVec 1) :
    majorOf (word base [(x0.toNat, 22), (x1.toNat, 7), (x2.toNat, 0)]) = m ∧
    bits (word base [(x0.toNat, 22), (x1.toNat, 7), (x2.toNat, 0)]) 1 6 = f0 ∧
    bits (word base [(x0.toNat, 22), (x1.toNat, 7), (x2.toNat, 0)]) 13 9 = f1 ∧
    field (word base [(x0.toNat, 22), (x1.toNat, 7), (x2.toNat, 0)]) 22 3 = x0 ∧
    field (word base [(x0.toNat, 22), (x1.toNat, 7), (x2.toNat, 0)]) 7 6 = x1 ∧
    field (word base [(x0.toNat, 22), (x1.toNat, 7), (x2.toNat, 0)]) 0 1 = x2 := by
  have hx0 := x0.isLt
  have hx1 := x1.isLt
  have hx2 := x2.isLt
  have hw : (word base [(x0.toNat, 22), (x1.toNat, 7), (x2.toNat, 0)]).toNat = m * 33554432 + f0 * 2 + f1 * 8192 + x0.toNat * 4194304 + x1.toNat * 128 + x2.toNat := by
    subst hb; rw [word3]; omega
  generalize word base [(x0.toNat, 22), (x1.toNat, 7), (x2.toNat, 0)] = w at *
  refine ⟨by simp only [majorOf, bits]; omega, by simp only [bits]; omega, by simp only [bits]; omega, field_eq _ (by omega), field_eq _ (by omega), field_eq _ (by omega)⟩

theorem layout16 (base m : Nat) (hb : base = m * 33554432) (hm : m < 128)
    (x0 : BitVec 3) (x1 : BitVec 3) (x2 : BitVec 6) (x3 : BitVec 6) (x4 : BitVec 7) :
    majorOf (word base [(x0.toNat, 22), (x1.toNat, 19), (x2.toNat, 13), (x3.toNat, 7), (x4.toNat, 0)]) = m ∧
    field (word base [(x0.toNat, 22), (x1.toNat, 19), (x2.toNat, 13), (x3.toNat, 7), (x4.toNat, 0)]) 22 3 = x0 ∧
    field (word base [(x0.toNat, 22), (x1.toNat, 19), (x2.toNat, 13), (x3.toNat, 7), (x4.toNat, 0)]) 19 3 = x1 ∧
    field (word base [(x0.toNat, 22), (x1.toNat, 19), (x2.toNat, 13), (x3.toNat, 7), (x4.toNat, 0)]) 13 6 = x2 ∧
    field (word base [(x0.toNat, 22), (x1.toNat, 19), (x2.toNat, 13), (x3.toNat, 7), (x4.toNat, 0)]) 7 6 = x3 ∧
    field (word base [(x0.toNat, 22), (x1.toNat, 19), (x2.toNat, 13), (x3.toNat, 7), (x4.toNat, 0)]) 0 7 = x4 := by
  have hx0 := x0.isLt
  have hx1 := x1.isLt
  have hx2 := x2.isLt
  have hx3 := x3.isLt
  have hx4 := x4.isLt
  have hw : (word base [(x0.toNat, 22), (x1.toNat, 19), (x2.toNat, 13), (x3.toNat, 7), (x4.toNat, 0)]).toNat = m * 33554432 + x0.toNat * 4194304 + x1.toNat * 524288 + x2.toNat * 8192 + x3.toNat * 128 + x4.toNat := by
    subst hb; rw [word5]; omega
  generalize word base [(x0.toNat, 22), (x1.toNat, 19), (x2.toNat, 13), (x3.toNat, 7), (x4.toNat, 0)] = w at *
  refine ⟨by simp only [majorOf, bits]; omega, field_eq _ (by omega), field_eq _ (by omega), field_eq _ (by omega), field_eq _ (by omega), field_eq _ (by omega)⟩

theorem layout17 (base m f0 : Nat) (hb : base = m * 33554432 + f0 * 256) (hm : m < 128) (hf0 : f0 < 4)
    (x0 : BitVec 3) (x1 : BitVec 6) (x2 : BitVec 6) (x3 : BitVec 8) :
    majorOf (word base [(x0.toNat, 22), (x1.toNat, 16), (x2.toNat, 10), (x3.toNat, 0)]) = m ∧
    bits (word base [(x0.toNat, 22), (x1.toNat, 16), (x2.toNat, 10), (x3.toNat, 0)]) 8 2 = f0 ∧
    field (word base [(x0.toNat, 22), (x1.toNat, 16), (x2.toNat, 10), (x3.toNat, 0)]) 22 3 = x0 ∧
    field (word base [(x0.toNat, 22), (x1.toNat, 16), (x2.toNat, 10), (x3.toNat, 0)]) 16 6 = x1 ∧
    field (word base [(x0.toNat, 22), (x1.toNat, 16), (x2.toNat, 10), (x3.toNat, 0)]) 10 6 = x2 ∧
    field (word base [(x0.toNat, 22), (x1.toNat, 16), (x2.toNat, 10), (x3.toNat, 0)]) 0 8 = x3 := by
  have hx0 := x0.isLt
  have hx1 := x1.isLt
  have hx2 := x2.isLt
  have hx3 := x3.isLt
  have hw : (word base [(x0.toNat, 22), (x1.toNat, 16), (x2.toNat, 10), (x3.toNat, 0)]).toNat = m * 33554432 + f0 * 256 + x0.toNat * 4194304 + x1.toNat * 65536 + x2.toNat * 1024 + x3.toNat := by
    subst hb; rw [word4]; omega
  generalize word base [(x0.toNat, 22), (x1.toNat, 16), (x2.toNat, 10), (x3.toNat, 0)] = w at *
  refine ⟨by simp only [majorOf, bits]; omega, by simp only [bits]; omega, field_eq _ (by omega), field_eq _ (by omega), field_eq _ (by omega), field_eq _ (by omega)⟩

theorem layout18 (base m f0 : Nat) (hb : base = m * 33554432 + f0 * 65536) (hm : m < 128) (hf0 : f0 < 64)
    (x0 : BitVec 3) (x1 : BitVec 16) :
    majorOf (word base [(x0.toNat, 22), (x1.toNat, 0)]) = m ∧
    bits (word base [(x0.toNat, 22), (x1.toNat, 0)]) 16 6 = f0 ∧
    field (word base [(x0.toNat, 22), (x1.toNat, 0)]) 22 3 = x0 ∧
    field (word base [(x0.toNat, 22), (x1.toNat, 0)]) 0 16 = x1 := by
  have hx0 := x0.isLt
  have hx1 := x1.isLt
  have hw : (word base [(x0.toNat, 22), (x1.toNat, 0)]).toNat = m * 33554432 + f0 * 65536 + x0.toNat * 4194304 + x1.toNat := by
    subst hb; rw [word2]; omega
  generalize word base [(x0.toNat, 22), (x1.toNat, 0)] = w at *
  refine ⟨by simp only [majorOf, bits]; omega, by simp only [bits]; omega, field_eq _ (by omega), field_eq _ (by omega)⟩

theorem layout19 (base m f0 : Nat) (hb : base = m * 33554432 + f0 * 1024) (hm : m < 128) (hf0 : f0 < 64)
    (x0 : BitVec 3) (x1 : BitVec 6) (x2 : BitVec 10) :
    majorOf (word base [(x0.toNat, 22), (x1.toNat, 16), (x2.toNat, 0)]) = m ∧
    bits (word base [(x0.toNat, 22), (x1.toNat, 16), (x2.toNat, 0)]) 10 6 = f0 ∧
    field (word base [(x0.toNat, 22), (x1.toNat, 16), (x2.toNat, 0)]) 22 3 = x0 ∧
    field (word base [(x0.toNat, 22), (x1.toNat, 16), (x2.toNat, 0)]) 16 6 = x1 ∧
    field (word base [(x0.toNat, 22), (x1.toNat, 16), (x2.toNat, 0)]) 0 10 = x2 := by
  have hx0 := x0.isLt
  have hx1 := x1.isLt
  have hx2 := x2.isLt
  have hw : (word base [(x0.toNat, 22), (x1.toNat, 16), (x2.toNat, 0)]).toNat = m * 33554432 + f0 * 1024 + x0.toNat * 4194304 + x1.toNat * 65536 + x2.toNat := by
    subst hb; rw [word3]; omega
  generalize word base [(x0.toNat, 22), (x1.toNat, 16), (x2.toNat, 0)] = w at *
  refine ⟨by simp only [majorOf, bits]; omega, by simp only [bits]; omega, field_eq _ (by omega), field_eq _ (by omega), field_eq _ (by omega)⟩

theorem layout20 (base m f0 : Nat) (hb : base = m * 33554432 + f0 * 2) (hm : m < 128) (hf0 : f0 < 64)
    (x0 : BitVec 3) (x1 : BitVec 3) (x2 : BitVec 6) (x3 : BitVec 6) (x4 : BitVec 1) :
    majorOf (word base [(x0.toNat, 22), (x1.toNat, 19), (x2.toNat, 13), (x3.toNat, 7), (x4.toNat, 0)]) = m ∧
    bits (word base [(x0.toNat, 22), (x1.toNat, 19), (x2.toNat, 13), (x3.toNat, 7), (x4.toNat, 0)]) 1 6 = f0 ∧
    field (word base [(x0.toNat, 22), (x1.toNat, 19), (x2.toNat, 13), (x3.toNat, 7), (x4.toNat, 0)]) 22 3 = x0 ∧
    field (word base [(x0.toNat, 22), (x1.toNat, 19), (x2.toNat, 13), (x3.toNat, 7), (x4.toNat, 0)]) 19 3 = x1 ∧
    field (word base [(x0.toNat, 22), (x1.toNat, 19), (x2.toNat, 13), (x3.toNat, 7), (x4.toNat, 0)]) 13 6 = x2 ∧
    field (word base [(x0.toNat, 22), (x1.toNat, 19), (x2.toNat, 13), (x3.toNat, 7), (x4.toNat, 0)]) 7 6 = x3 ∧
    field (word base [(x0.toNat, 22), (x1.toNat, 19), (x2.toNat, 13), (x3.toNat, 7), (x4.toNat, 0)]) 0 1 = x4 := by
  have hx0 := x0.isLt
  have hx1 := x1.isLt
  have hx2 := x2.isLt
  have hx3 := x3.isLt
  have hx4 := x4.isLt
  have hw : (word base [(x0.toNat, 22), (x1.toNat, 19), (x2.toNat, 13), (x3.toNat, 7), (x4.toNat, 0)]).toNat = m * 33554432 + f0 * 2 + x0.toNat * 4194304 + x1.toNat * 524288 + x2.toNat * 8192 + x3.toNat * 128 + x4.toNat := by
    subst hb; rw [word5]; omega
  generalize word base [(x0.toNat, 22), (x1.toNat, 19), (x2.toNat, 13), (x3.toNat, 7), (x4.toNat, 0)] = w at *
  refine ⟨by simp only [majorOf, bits]; omega, by simp only [bits]; omega, field_eq _ (by omega), field_eq _ (by omega), field_eq _ (by omega), field_eq _ (by omega), field_eq _ (by omega)⟩

theorem layout21 (base m f0 : Nat) (hb : base = m * 33554432 + f0 * 8) (hm : m < 128) (hf0 : f0 < 16)
    (x0 : BitVec 3) (x1 : BitVec 3) (x2 : BitVec 6) (x3 : BitVec 6) (x4 : BitVec 2) (x5 : BitVec 1) :
    majorOf (word base [(x0.toNat, 22), (x1.toNat, 19), (x2.toNat, 13), (x3.toNat, 7), (x4.toNat, 1), (x5.toNat, 0)]) = m ∧
    bits (word base [(x0.toNat, 22), (x1.toNat, 19), (x2.toNat, 13), (x3.toNat, 7), (x4.toNat, 1), (x5.toNat, 0)]) 3 4 = f0 ∧
    field (word base [(x0.toNat, 22), (x1.toNat, 19), (x2.toNat, 13), (x3.toNat, 7), (x4.toNat, 1), (x5.toNat, 0)]) 22 3 = x0 ∧
    field (word base [(x0.toNat, 22), (x1.toNat, 19), (x2.toNat, 13), (x3.toNat, 7), (x4.toNat, 1), (x5.toNat, 0)]) 19 3 = x1 ∧
    field (word base [(x0.toNat, 22), (x1.toNat, 19), (x2.toNat, 13), (x3.toNat, 7), (x4.toNat, 1), (x5.toNat, 0)]) 13 6 = x2 ∧
    field (word base [(x0.toNat, 22), (x1.toNat, 19), (x2.toNat, 13), (x3.toNat, 7), (x4.toNat, 1), (x5.toNat, 0)]) 7 6 = x3 ∧
    field (word base [(x0.toNat, 22), (x1.toNat, 19), (x2.toNat, 13), (x3.toNat, 7), (x4.toNat, 1), (x5.toNat, 0)]) 1 2 = x4 ∧
    field (word base [(x0.toNat, 22), (x1.toNat, 19), (x2.toNat, 13), (x3.toNat, 7), (x4.toNat, 1), (x5.toNat, 0)]) 0 1 = x5 := by
  have hx0 := x0.isLt
  have hx1 := x1.isLt
  have hx2 := x2.isLt
  have hx3 := x3.isLt
  have hx4 := x4.isLt
  have hx5 := x5.isLt
  have hw : (word base [(x0.toNat, 22), (x1.toNat, 19), (x2.toNat, 13), (x3.toNat, 7), (x4.toNat, 1), (x5.toNat, 0)]).toNat = m * 33554432 + f0 * 8 + x0.toNat * 4194304 + x1.toNat * 524288 + x2.toNat * 8192 + x3.toNat * 128 + x4.toNat * 2 + x5.toNat := by
    subst hb; rw [word6]; omega
  generalize word base [(x0.toNat, 22), (x1.toNat, 19), (x2.toNat, 13), (x3.toNat, 7), (x4.toNat, 1), (x5.toNat, 0)] = w at *
  refine ⟨by simp only [majorOf, bits]; omega, by simp only [bits]; omega, field_eq _ (by omega), field_eq _ (by omega), field_eq _ (by omega), field_eq _ (by omega), field_eq _ (by omega), field_eq _ (by omega)⟩

theorem layout22 (base m f0 : Nat) (hb : base = m * 33554432 + f0 * 65536) (hm : m < 128) (hf0 : f0 < 8)
    (x0 : BitVec 3) (x1 : BitVec 3) (x2 : BitVec 3) (x3 : BitVec 6) (x4 : BitVec 6) (x5 : BitVec 1) :
    majorOf (word base [(x0.toNat, 22), (x1.toNat, 19), (x2.toNat, 13), (x3.toNat, 7), (x4.toNat, 1), (x5.toNat, 0)]) = m ∧
    bits (word base [(x0.toNat, 22), (x1.toNat, 19), (x2.toNat, 13), (x3.toNat, 7), (x4.toNat, 1), (x5.toNat, 0)]) 16 3 = f0 ∧
    field (word base [(x0.toNat, 22), (x1.toNat, 19), (x2.toNat, 13), (x3.toNat, 7), (x4.toNat, 1), (x5.toNat, 0)]) 22 3 = x0 ∧
    field (word base [(x0.toNat, 22), (x1.toNat, 19), (x2.toNat, 13), (x3.toNat, 7), (x4.toNat, 1), (x5.toNat, 0)]) 19 3 = x1 ∧
    field (word base [(x0.toNat, 22), (x1.toNat, 19), (x2.toNat, 13), (x3.toNat, 7), (x4.toNat, 1), (x5.toNat, 0)]) 13 3 = x2 ∧
    field (word base [(x0.toNat, 22), (x1.toNat, 19), (x2.toNat, 13), (x3.toNat, 7), (x4.toNat, 1), (x5.toNat, 0)]) 7 6 = x3 ∧
    field (word base [(x0.toNat, 22), (x1.toNat, 19), (x2.toNat, 13), (x3.toNat, 7), (x4.toNat, 1), (x5.toNat, 0)]) 1 6 = x4 ∧
    field (word base [(x0.toNat, 22), (x1.toNat, 19), (x2.toNat, 13), (x3.toNat, 7), (x4.toNat, 1), (x5.toNat, 0)]) 0 1 = x5 := by
  have hx0 := x0.isLt
  have hx1 := x1.isLt
  have hx2 := x2.isLt
  have hx3 := x3.isLt
  have hx4 := x4.isLt
  have hx5 := x5.isLt
  have hw : (word base [(x0.toNat, 22), (x1.toNat, 19), (x2.toNat, 13), (x3.toNat, 7), (x4.toNat, 1), (x5.toNat, 0)]).toNat = m * 33554432 + f0 * 65536 + x0.toNat * 4194304 + x1.toNat * 524288 + x2.toNat * 8192 + x3.toNat * 128 + x4.toNat * 2 + x5.toNat := by
    subst hb; rw [word6]; omega
  generalize word base [(x0.toNat, 22), (x1.toNat, 19), (x2.toNat, 13), (x3.toNat, 7), (x4.toNat, 1), (x5.toNat, 0)] = w at *
  refine ⟨by simp only [majorOf, bits]; omega, by simp only [bits]; omega, field_eq _ (by omega), field_eq _ (by omega), field_eq _ (by omega), field_eq _ (by omega), field_eq _ (by omega), field_eq _ (by omega)⟩

theorem layout23 (base m f0 : Nat) (hb : base = m * 33554432 + f0 * 64) (hm : m < 128) (hf0 : f0 < 2)
    (x0 : BitVec 3) (x1 : BitVec 3) (x2 : BitVec 6) (x3 : BitVec 6) (x4 : BitVec 2) (x5 : BitVec 3) (x6 : BitVec 1) :
    majorOf (word base [(x0.toNat, 22), (x1.toNat, 19), (x2.toNat, 13), (x3.toNat, 7), (x4.toNat, 4), (x5.toNat, 1), (x6.toNat, 0)]) = m ∧
    bits (word base [(x0.toNat, 22), (x1.toNat, 19), (x2.toNat, 13), (x3.toNat, 7), (x4.toNat, 4), (x5.toNat, 1), (x6.toNat, 0)]) 6 1 = f0 ∧
    field (word base [(x0.toNat, 22), (x1.toNat, 19), (x2.toNat, 13), (x3.toNat, 7), (x4.toNat, 4), (x5.toNat, 1), (x6.toNat, 0)]) 22 3 = x0 ∧
    field (word base [(x0.toNat, 22), (x1.toNat, 19), (x2.toNat, 13), (x3.toNat, 7), (x4.toNat, 4), (x5.toNat, 1), (x6.toNat, 0)]) 19 3 = x1 ∧
    field (word base [(x0.toNat, 22), (x1.toNat, 19), (x2.toNat, 13), (x3.toNat, 7), (x4.toNat, 4), (x5.toNat, 1), (x6.toNat, 0)]) 13 6 = x2 ∧
    field (word base [(x0.toNat, 22), (x1.toNat, 19), (x2.toNat, 13), (x3.toNat, 7), (x4.toNat, 4), (x5.toNat, 1), (x6.toNat, 0)]) 7 6 = x3 ∧
    field (word base [(x0.toNat, 22), (x1.toNat, 19), (x2.toNat, 13), (x3.toNat, 7), (x4.toNat, 4), (x5.toNat, 1), (x6.toNat, 0)]) 4 2 = x4 ∧
    field (word base [(x0.toNat, 22), (x1.toNat, 19), (x2.toNat, 13), (x3.toNat, 7), (x4.toNat, 4), (x5.toNat, 1), (x6.toNat, 0)]) 1 3 = x5 ∧
    field (word base [(x0.toNat, 22), (x1.toNat, 19), (x2.toNat, 13), (x3.toNat, 7), (x4.toNat, 4), (x5.toNat, 1), (x6.toNat, 0)]) 0 1 = x6 := by
  have hx0 := x0.isLt
  have hx1 := x1.isLt
  have hx2 := x2.isLt
  have hx3 := x3.isLt
  have hx4 := x4.isLt
  have hx5 := x5.isLt
  have hx6 := x6.isLt
  have hw : (word base [(x0.toNat, 22), (x1.toNat, 19), (x2.toNat, 13), (x3.toNat, 7), (x4.toNat, 4), (x5.toNat, 1), (x6.toNat, 0)]).toNat = m * 33554432 + f0 * 64 + x0.toNat * 4194304 + x1.toNat * 524288 + x2.toNat * 8192 + x3.toNat * 128 + x4.toNat * 16 + x5.toNat * 2 + x6.toNat := by
    subst hb; rw [word7]; omega
  generalize word base [(x0.toNat, 22), (x1.toNat, 19), (x2.toNat, 13), (x3.toNat, 7), (x4.toNat, 4), (x5.toNat, 1), (x6.toNat, 0)] = w at *
  refine ⟨by simp only [majorOf, bits]; omega, by simp only [bits]; omega, field_eq _ (by omega), field_eq _ (by omega), field_eq _ (by omega), field_eq _ (by omega), field_eq _ (by omega), field_eq _ (by omega), field_eq _ (by omega)⟩

theorem layout24 (base m : Nat) (hb : base = m * 33554432) (hm : m < 128)
    (x0 : BitVec 3) (x1 : BitVec 3) (x2 : BitVec 6) (x3 : BitVec 13) :
    majorOf (word base [(x0.toNat, 22), (x1.toNat, 19), (x2.toNat, 13), (x3.toNat, 0)]) = m ∧
    field (word base [(x0.toNat, 22), (x1.toNat, 19), (x2.toNat, 13), (x3.toNat, 0)]) 22 3 = x0 ∧
    field (word base [(x0.toNat, 22), (x1.toNat, 19), (x2.toNat, 13), (x3.toNat, 0)]) 19 3 = x1 ∧
    field (word base [(x0.toNat, 22), (x1.toNat, 19), (x2.toNat, 13), (x3.toNat, 0)]) 13 6 = x2 ∧
    field (word base [(x0.toNat, 22), (x1.toNat, 19), (x2.toNat, 13), (x3.toNat, 0)]) 0 13 = x3 := by
  have hx0 := x0.isLt
  have hx1 := x1.isLt
  have hx2 := x2.isLt
  have hx3 := x3.isLt
  have hw : (word base [(x0.toNat, 22), (x1.toNat, 19), (x2.toNat, 13), (x3.toNat, 0)]).toNat = m * 33554432 + x0.toNat * 4194304 + x1.toNat * 524288 + x2.toNat * 8192 + x3.toNat := by
    subst hb; rw [word4]; omega
  generalize word base [(x0.toNat, 22), (x1.toNat, 19), (x2.toNat, 13), (x3.toNat, 0)] = w at *
  refine ⟨by simp only [majorOf, bits]; omega, field_eq _ (by omega), field_eq _ (by omega), field_eq _ (by omega), field_eq _ (by omega)⟩

theorem layout25 (base m f0 : Nat) (hb : base = m * 33554432 + f0) (hm : m < 128) (hf0 : f0 < 128)
    (x0 : BitVec 3) (x1 : BitVec 3) (x2 : BitVec 6) (x3 : BitVec 6) :
    majorOf (word base [(x0.toNat, 22), (x1.toNat, 19), (x2.toNat, 13), (x3.toNat, 7)]) = m ∧
    bits (word base [(x0.toNat, 22), (x1.toNat, 19), (x2.toNat, 13), (x3.toNat, 7)]) 0 7 = f0 ∧
    field (word base [(x0.toNat, 22), (x1.toNat, 19), (x2.toNat, 13), (x3.toNat, 7)]) 22 3 = x0 ∧
    field (word base [(x0.toNat, 22), (x1.toNat, 19), (x2.toNat, 13), (x3.toNat, 7)]) 19 3 = x1 ∧
    field (word base [(x0.toNat, 22), (x1.toNat, 19), (x2.toNat, 13), (x3.toNat, 7)]) 13 6 = x2 ∧
    field (word base [(x0.toNat, 22), (x1.toNat, 19), (x2.toNat, 13), (x3.toNat, 7)]) 7 6 = x3 := by
  have hx0 := x0.isLt
  have hx1 := x1.isLt
  have hx2 := x2.isLt
  have hx3 := x3.isLt
  have hw : (word base [(x0.toNat, 22), (x1.toNat, 19), (x2.toNat, 13), (x3.toNat, 7)]).toNat = m * 33554432 + f0 + x0.toNat * 4194304 + x1.toNat * 524288 + x2.toNat * 8192 + x3.toNat * 128 := by
    subst hb; rw [word4]; omega
  generalize word base [(x0.toNat, 22), (x1.toNat, 19), (x2.toNat, 13), (x3.toNat, 7)] = w at *
  refine ⟨by simp only [majorOf, bits]; omega, by simp only [bits]; omega, field_eq _ (by omega), field_eq _ (by omega), field_eq _ (by omega), field_eq _ (by omega)⟩

theorem layout26 (base m f0 : Nat) (hb : base = m * 33554432 + f0 * 32768) (hm : m < 128) (hf0 : f0 < 128)
    (x0 : BitVec 3) (x1 : BitVec 2) (x2 : BitVec 6) (x3 : BitVec 6) (x4 : BitVec 1) :
    majorOf (word base [(x0.toNat, 22), (x1.toNat, 13), (x2.toNat, 7), (x3.toNat, 1), (x4.toNat, 0)]) = m ∧
    bits (word base [(x0.toNat, 22), (x1.toNat, 13), (x2.toNat, 7), (x3.toNat, 1), (x4.toNat, 0)]) 15 7 = f0 ∧
    field (word base [(x0.toNat, 22), (x1.toNat, 13), (x2.toNat, 7), (x3.toNat, 1), (x4.toNat, 0)]) 22 3 = x0 ∧
    field (word base [(x0.toNat, 22), (x1.toNat, 13), (x2.toNat, 7), (x3.toNat, 1), (x4.toNat, 0)]) 13 2 = x1 ∧
    field (word base [(x0.toNat, 22), (x1.toNat, 13), (x2.toNat, 7), (x3.toNat, 1), (x4.toNat, 0)]) 7 6 = x2 ∧
    field (word base [(x0.toNat, 22), (x1.toNat, 13), (x2.toNat, 7), (x3.toNat, 1), (x4.toNat, 0)]) 1 6 = x3 ∧
    field (word base [(x0.toNat, 22), (x1.toNat, 13), (x2.toNat, 7), (x3.toNat, 1), (x4.toNat, 0)]) 0 1 = x4 := by
  have hx0 := x0.isLt
  have hx1 := x1.isLt
  have hx2 := x2.isLt
  have hx3 := x3.isLt
  have hx4 := x4.isLt
  have hw : (word base [(x0.toNat, 22), (x1.toNat, 13), (x2.toNat, 7), (x3.toNat, 1), (x4.toNat, 0)]).toNat = m * 33554432 + f0 * 32768 + x0.toNat * 4194304 + x1.toNat * 8192 + x2.toNat * 128 + x3.toNat * 2 + x4.toNat := by
    subst hb; rw [word5]; omega
  generalize word base [(x0.toNat, 22), (x1.toNat, 13), (x2.toNat, 7), (x3.toNat, 1), (x4.toNat, 0)] = w at *
  refine ⟨by simp only [majorOf, bits]; omega, by simp only [bits]; omega, field_eq _ (by omega), field_eq _ (by omega), field_eq _ (by omega), field_eq _ (by omega), field_eq _ (by omega)⟩

theorem layout27 (base m f0 f1 : Nat) (hb : base = m * 33554432 + f0 * 32 + f1 * 524288) (hm : m < 128) (hf0 : f0 < 4) (hf1 : f1 < 8)
    (x0 : BitVec 3) (x1 : BitVec 6) (x2 : BitVec 6) (x3 : BitVec 5) :
    majorOf (word base [(x0.toNat, 22), (x1.toNat, 13), (x2.toNat, 7), (x3.toNat, 0)]) = m ∧
    bits (word base [(x0.toNat, 22), (x1.toNat, 13), (x2.toNat, 7), (x3.toNat, 0)]) 5 2 = f0 ∧
    bits (word base [(x0.toNat, 22), (x1.toNat, 13), (x2.toNat, 7), (x3.toNat, 0)]) 19 3 = f1 ∧
    field (word base [(x0.toNat, 22), (x1.toNat, 13), (x2.toNat, 7), (x3.toNat, 0)]) 22 3 = x0 ∧
    field (word base [(x0.toNat, 22), (x1.toNat, 13), (x2.toNat, 7), (x3.toNat, 0)]) 13 6 = x1 ∧
    field (word base [(x0.toNat, 22), (x1.toNat, 13), (x2.toNat, 7), (x3.toNat, 0)]) 7 6 = x2 ∧
    field (word base [(x0.toNat, 22), (x1.toNat, 13), (x2.toNat, 7), (x3.toNat, 0)]) 0 5 = x3 := by
  have hx0 := x0.isLt
  have hx1 := x1.isLt
  have hx2 := x2.isLt
  have hx3 := x3.isLt
  have hw : (word base [(x0.toNat, 22), (x1.toNat, 13), (x2.toNat, 7), (x3.toNat, 0)]).toNat = m * 33554432 + f0 * 32 + f1 * 524288 + x0.toNat * 4194304 + x1.toNat * 8192 + x2.toNat * 128 + x3.toNat := by
    subst hb; rw [word4]; omega
  generalize word base [(x0.toNat, 22), (x1.toNat, 13), (x2.toNat, 7), (x3.toNat, 0)] = w at *
  refine ⟨by simp only [majorOf, bits]; omega, by simp only [bits]; omega, by simp only [bits]; omega, field_eq _ (by omega), field_eq _ (by omega), field_eq _ (by omega), field_eq _ (by omega)⟩

theorem layout28 (base m f0 f1 : Nat) (hb : base = m * 33554432 + f0 * 2 + f1 * 32) (hm : m < 128) (hf0 : f0 < 8) (hf1 : f1 < 4)
    (x0 : BitVec 3) (x1 : BitVec 3) (x2 : BitVec 6) (x3 : BitVec 6) (x4 : BitVec 1) (x5 : BitVec 1) :
    majorOf (word base [(x0.toNat, 22), (x1.toNat, 19), (x2.toNat, 13), (x3.toNat, 7), (x4.toNat, 4), (x5.toNat, 0)]) = m ∧
    bits (word base [(x0.toNat, 22), (x1.toNat, 19), (x2.toNat, 13), (x3.toNat, 7), (x4.toNat, 4), (x5.toNat, 0)]) 1 3 = f0 ∧
    bits (word base [(x0.toNat, 22), (x1.toNat, 19), (x2.toNat, 13), (x3.toNat, 7), (x4.toNat, 4), (x5.toNat, 0)]) 5 2 = f1 ∧
    field (word base [(x0.toNat, 22), (x1.toNat, 19), (x2.toNat, 13), (x3.toNat, 7), (x4.toNat, 4), (x5.toNat, 0)]) 22 3 = x0 ∧
    field (word base [(x0.toNat, 22), (x1.toNat, 19), (x2.toNat, 13), (x3.toNat, 7), (x4.toNat, 4), (x5.toNat, 0)]) 19 3 = x1 ∧
    field (word base [(x0.toNat, 22), (x1.toNat, 19), (x2.toNat, 13), (x3.toNat, 7), (x4.toNat, 4), (x5.toNat, 0)]) 13 6 = x2 ∧
    field (word base [(x0.toNat, 22), (x1.toNat, 19), (x2.toNat, 13), (x3.toNat, 7), (x4.toNat, 4), (x5.toNat, 0)]) 7 6 = x3 ∧
    field (word base [(x0.toNat, 22), (x1.toNat, 19), (x2.toNat, 13), (x3.toNat, 7), (x4.toNat, 4), (x5.toNat, 0)]) 4 1 = x4 ∧
    field (word base [(x0.toNat, 22), (x1.toNat, 19), (x2.toNat, 13), (x3.toNat, 7), (x4.toNat, 4), (x5.toNat, 0)]) 0 1 = x5 := by
  have hx0 := x0.isLt
  have hx1 := x1.isLt
  have hx2 := x2.isLt
  have hx3 := x3.isLt
  have hx4 := x4.isLt
  have hx5 := x5.isLt
  have hw : (word base [(x0.toNat, 22), (x1.toNat, 19), (x2.toNat, 13), (x3.toNat, 7), (x4.toNat, 4), (x5.toNat, 0)]).toNat = m * 33554432 + f0 * 2 + f1 * 32 + x0.toNat * 4194304 + x1.toNat * 524288 + x2.toNat * 8192 + x3.toNat * 128 + x4.toNat * 16 + x5.toNat := by
    subst hb; rw [word6]; omega
  generalize word base [(x0.toNat, 22), (x1.toNat, 19), (x2.toNat, 13), (x3.toNat, 7), (x4.toNat, 4), (x5.toNat, 0)] = w at *
  refine ⟨by simp only [majorOf, bits]; omega, by simp only [bits]; omega, by simp only [bits]; omega, field_eq _ (by omega), field_eq _ (by omega), field_eq _ (by omega), field_eq _ (by omega), field_eq _ (by omega), field_eq _ (by omega)⟩

theorem layout29 (base m f0 f1 : Nat) (hb : base = m * 33554432 + f0 * 2 + f1 * 65536) (hm : m < 128) (hf0 : f0 < 64) (hf1 : f1 < 8)
    (x0 : BitVec 3) (x1 : BitVec 3) (x2 : BitVec 3) (x3 : BitVec 6) (x4 : BitVec 1) :
    majorOf (word base [(x0.toNat, 22), (x1.toNat, 19), (x2.toNat, 13), (x3.toNat, 7), (x4.toNat, 0)]) = m ∧
    bits (word base [(x0.toNat, 22), (x1.toNat, 19), (x2.toNat, 13), (x3.toNat, 7), (x4.toNat, 0)]) 1 6 = f0 ∧
    bits (word base [(x0.toNat, 22), (x1.toNat, 19), (x2.toNat, 13), (x3.toNat, 7), (x4.toNat, 0)]) 16 3 = f1 ∧
    field (word base [(x0.toNat, 22), (x1.toNat, 19), (x2.toNat, 13), (x3.toNat, 7), (x4.toNat, 0)]) 22 3 = x0 ∧
    field (word base [(x0.toNat, 22), (x1.toNat, 19), (x2.toNat, 13), (x3.toNat, 7), (x4.toNat, 0)]) 19 3 = x1 ∧
    field (word base [(x0.toNat, 22), (x1.toNat, 19), (x2.toNat, 13), (x3.toNat, 7), (x4.toNat, 0)]) 13 3 = x2 ∧
    field (word base [(x0.toNat, 22), (x1.toNat, 19), (x2.toNat, 13), (x3.toNat, 7), (x4.toNat, 0)]) 7 6 = x3 ∧
    field (word base [(x0.toNat, 22), (x1.toNat, 19), (x2.toNat, 13), (x3.toNat, 7), (x4.toNat, 0)]) 0 1 = x4 := by
  have hx0 := x0.isLt
  have hx1 := x1.isLt
  have hx2 := x2.isLt
  have hx3 := x3.isLt
  have hx4 := x4.isLt
  have hw : (word base [(x0.toNat, 22), (x1.toNat, 19), (x2.toNat, 13), (x3.toNat, 7), (x4.toNat, 0)]).toNat = m * 33554432 + f0 * 2 + f1 * 65536 + x0.toNat * 4194304 + x1.toNat * 524288 + x2.toNat * 8192 + x3.toNat * 128 + x4.toNat := by
    subst hb; rw [word5]; omega
  generalize word base [(x0.toNat, 22), (x1.toNat, 19), (x2.toNat, 13), (x3.toNat, 7), (x4.toNat, 0)] = w at *
  refine ⟨by simp only [majorOf, bits]; omega, by simp only [bits]; omega, by simp only [bits]; omega, field_eq _ (by omega), field_eq _ (by omega), field_eq _ (by omega), field_eq _ (by omega), field_eq _ (by omega)⟩

theorem layout30 (base m f0 f1 : Nat) (hb : base = m * 33554432 + f0 + f1 * 65536) (hm : m < 128) (hf0 : f0 < 128) (hf1 : f1 < 64)
    (x0 : BitVec 3) (x1 : BitVec 3) (x2 : BitVec 6) :
    majorOf (word base [(x0.toNat, 22), (x1.toNat, 13), (x2.toNat, 7)]) = m ∧
    bits (word base [(x0.toNat, 22), (x1.toNat, 13), (x2.toNat, 7)]) 0 7 = f0 ∧
    bits (word base [(x0.toNat, 22), (x1.toNat, 13), (x2.toNat, 7)]) 16 6 = f1 ∧
    field (word base [(x0.toNat, 22), (x1.toNat, 13), (x2.toNat, 7)]) 22 3 = x0 ∧
    field (word base [(x0.toNat, 22), (x1.toNat, 13), (x2.toNat, 7)]) 13 3 = x1 ∧
    field (word base [(x0.toNat, 22), (x1.toNat, 13), (x2.toNat, 7)]) 7 6 = x2 := by
  have hx0 := x0.isLt
  have hx1 := x1.isLt
  have hx2 := x2.isLt
  have hw : (word base [(x0.toNat, 22), (x1.toNat, 13), (x2.toNat, 7)]).toNat = m * 33554432 + f0 + f1 * 65536 + x0.toNat * 4194304 + x1.toNat * 8192 + x2.toNat * 128 := by
    subst hb; rw [word3]; omega
  generalize word base [(x0.toNat, 22), (x1.toNat, 13), (x2.toNat, 7)] = w at *
  refine ⟨by simp only [majorOf, bits]; omega, by simp only [bits]; omega, by simp only [bits]; omega, field_eq _ (by omega), field_eq _ (by omega), field_eq _ (by omega)⟩

theorem layout31 (base m f0 f1 f2 : Nat) (hb : base = m * 33554432 + f0 + f1 * 1024 + f2 * 524288) (hm : m < 128) (hf0 : f0 < 128) (hf1 : f1 < 8) (hf2 : f2 < 8)
    (x0 : BitVec 3) (x1 : BitVec 6) (x2 : BitVec 3) :
    majorOf (word base [(x0.toNat, 22), (x1.toNat, 13), (x2.toNat, 7)]) = m ∧
    bits (word base [(x0.toNat, 22), (x1.toNat, 13), (x2.toNat, 7)]) 0 7 = f0 ∧
    bits (word base [(x0.toNat, 22), (x1.toNat, 13), (x2.toNat, 7)]) 10 3 = f1 ∧
    bits (word base [(x0.toNat, 22), (x1.toNat, 13), (x2.toNat, 7)]) 19 3 = f2 ∧
    field (word base [(x0.toNat, 22), (x1.toNat, 13), (x2.toNat, 7)]) 22 3 = x0 ∧
    field (word base [(x0.toNat, 22), (x1.toNat, 13), (x2.toNat, 7)]) 13 6 = x1 ∧
    field (word base [(x0.toNat, 22), (x1.toNat, 13), (x2.toNat, 7)]) 7 3 = x2 := by
  have hx0 := x0.isLt
  have hx1 := x1.isLt
  have hx2 := x2.isLt
  have hw : (word base [(x0.toNat, 22), (x1.toNat, 13), (x2.toNat, 7)]).toNat = m * 33554432 + f0 + f1 * 1024 + f2 * 524288 + x0.toNat * 4194304 + x1.toNat * 8192 + x2.toNat * 128 := by
    subst hb; rw [word3]; omega
  generalize word base [(x0.toNat, 22), (x1.toNat, 13), (x2.toNat, 7)] = w at *
  refine ⟨by simp only [majorOf, bits]; omega, by simp only [bits]; omega, by simp only [bits]; omega, by simp only [bits]; omega, field_eq _ (by omega), field_eq _ (by omega), field_eq _ (by omega)⟩

theorem layout32 (base m f0 : Nat) (hb : base = m * 33554432 + f0 * 1048576) (hm : m < 128) (hf0 : f0 < 4)
    (x0 : BitVec 3) (x1 : BitVec 1) (x2 : BitVec 6) (x3 : BitVec 6) (x4 : BitVec 6) (x5 : BitVec 1) :
    majorOf (word base [(x0.toNat, 22), (x1.toNat, 19), (x2.toNat, 13), (x3.toNat, 7), (x4.toNat, 1), (x5.toNat, 0)]) = m ∧
    bits (word base [(x0.toNat, 22), (x1.toNat, 19), (x2.toNat, 13), (x3.toNat, 7), (x4.toNat, 1), (x5.toNat, 0)]) 20 2 = f0 ∧
    field (word base [(x0.toNat, 22), (x1.toNat, 19), (x2.toNat, 13), (x3.toNat, 7), (x4.toNat, 1), (x5.toNat, 0)]) 22 3 = x0 ∧
    field (word base [(x0.toNat, 22), (x1.toNat, 19), (x2.toNat, 13), (x3.toNat, 7), (x4.toNat, 1), (x5.toNat, 0)]) 19 1 = x1 ∧
    field (word base [(x0.toNat, 22), (x1.toNat, 19), (x2.toNat, 13), (x3.toNat, 7), (x4.toNat, 1), (x5.toNat, 0)]) 13 6 = x2 ∧
    field (word base [(x0.toNat, 22), (x1.toNat, 19), (x2.toNat, 13), (x3.toNat, 7), (x4.toNat, 1), (x5.toNat, 0)]) 7 6 = x3 ∧
    field (word base [(x0.toNat, 22), (x1.toNat, 19), (x2.toNat, 13), (x3.toNat, 7), (x4.toNat, 1), (x5.toNat, 0)]) 1 6 = x4 ∧
    field (word base [(x0.toNat, 22), (x1.toNat, 19), (x2.toNat, 13), (x3.toNat, 7), (x4.toNat, 1), (x5.toNat, 0)]) 0 1 = x5 := by
  have hx0 := x0.isLt
  have hx1 := x1.isLt
  have hx2 := x2.isLt
  have hx3 := x3.isLt
  have hx4 := x4.isLt
  have hx5 := x5.isLt
  have hw : (word base [(x0.toNat, 22), (x1.toNat, 19), (x2.toNat, 13), (x3.toNat, 7), (x4.toNat, 1), (x5.toNat, 0)]).toNat = m * 33554432 + f0 * 1048576 + x0.toNat * 4194304 + x1.toNat * 524288 + x2.toNat * 8192 + x3.toNat * 128 + x4.toNat * 2 + x5.toNat := by
    subst hb; rw [word6]; omega
  generalize word base [(x0.toNat, 22), (x1.toNat, 19), (x2.toNat, 13), (x3.toNat, 7), (x4.toNat, 1), (x5.toNat, 0)] = w at *
  refine ⟨by simp only [majorOf, bits]; omega, by simp only [bits]; omega, field_eq _ (by omega), field_eq _ (by omega), field_eq _ (by omega), field_eq _ (by omega), field_eq _ (by omega), field_eq _ (by omega)⟩

theorem layout33 (base m f1 : Nat) (hb : base = m * 33554432 + f1 * 524288) (hm : m < 128) (hf1 : f1 < 8)
    (x0 : BitVec 3) (x1 : BitVec 6) :
    majorOf (word base [(x0.toNat, 22), (x1.toNat, 13)]) = m ∧
    bits (word base [(x0.toNat, 22), (x1.toNat, 13)]) 0 13 = 0 ∧
    bits (word base [(x0.toNat, 22), (x1.toNat, 13)]) 19 3 = f1 ∧
    field (word base [(x0.toNat, 22), (x1.toNat, 13)]) 22 3 = x0 ∧
    field (word base [(x0.toNat, 22), (x1.toNat, 13)]) 13 6 = x1 := by
  have hx0 := x0.isLt
  have hx1 := x1.isLt
  have hw : (word base [(x0.toNat, 22), (x1.toNat, 13)]).toNat = m * 33554432 + f1 * 524288 + x0.toNat * 4194304 + x1.toNat * 8192 := by
    subst hb; rw [word2]; omega
  generalize word base [(x0.toNat, 22), (x1.toNat, 13)] = w at *
  refine ⟨by simp only [majorOf, bits]; omega, by simp only [bits]; omega, by simp only [bits]; omega, field_eq _ (by omega), field_eq _ (by omega)⟩

theorem layout34 (base m f0 : Nat) (hb : base = m * 33554432 + f0 * 32) (hm : m < 128) (hf0 : f0 < 4)
    (x0 : BitVec 3) (x1 : BitVec 3) (x2 : BitVec 6) (x3 : BitVec 6) (x4 : BitVec 2) (x5 : BitVec 2) (x6 : BitVec 1) :
    majorOf (word base [(x0.toNat, 22), (x1.toNat, 19), (x2.toNat, 13), (x3.toNat, 7), (x4.toNat, 3), (x5.toNat, 1), (x6.toNat, 0)]) = m ∧
    bits (word base [(x0.toNat, 22), (x1.toNat, 19), (x2.toNat, 13), (x3.toNat, 7), (x4.toNat, 3), (x5.toNat, 1), (x6.toNat, 0)]) 5 2 = f0 ∧
    field (word base [(x0.toNat, 22), (x1.toNat, 19), (x2.toNat, 13), (x3.toNat, 7), (x4.toNat, 3), (x5.toNat, 1), (x6.toNat, 0)]) 22 3 = x0 ∧
    field (word base [(x0.toNat, 22), (x1.toNat, 19), (x2.toNat, 13), (x3.toNat, 7), (x4.toNat, 3), (x5.toNat, 1), (x6.toNat, 0)]) 19 3 = x1 ∧
    field (word base [(x0.toNat, 22), (x1.toNat, 19), (x2.toNat, 13), (x3.toNat, 7), (x4.toNat, 3), (x5.toNat, 1), (x6.toNat, 0)]) 13 6 = x2 ∧
    field (word base [(x0.toNat, 22), (x1.toNat, 19), (x2.toNat, 13), (x3.toNat, 7), (x4.toNat, 3), (x5.toNat, 1), (x6.toNat, 0)]) 7 6 = x3 ∧
    field (word base [(x0.toNat, 22), (x1.toNat, 19), (x2.toNat, 13), (x3.toNat, 7), (x4.toNat, 3), (x5.toNat, 1), (x6.toNat, 0)]) 3 2 = x4 ∧
    field (word base [(x0.toNat, 22), (x1.toNat, 19), (x2.toNat, 13), (x3.toNat, 7), (x4.toNat, 3), (x5.toNat, 1), (x6.toNat, 0)]) 1 2 = x5 ∧
    field (word base [(x0.toNat, 22), (x1.toNat, 19), (x2.toNat, 13), (x3.toNat, 7), (x4.toNat, 3), (x5.toNat, 1), (x6.toNat, 0)]) 0 1 = x6 := by
  have hx0 := x0.isLt
  have hx1 := x1.isLt
  have hx2 := x2.isLt
  have hx3 := x3.isLt
  have hx4 := x4.isLt
  have hx5 := x5.isLt
  have hx6 := x6.isLt
  have hw : (word base [(x0.toNat, 22), (x1.toNat, 19), (x2.toNat, 13), (x3.toNat, 7), (x4.toNat, 3), (x5.toNat, 1), (x6.toNat, 0)]).toNat = m * 33554432 + f0 * 32 + x0.toNat * 4194304 + x1.toNat * 524288 + x2.toNat * 8192 + x3.toNat * 128 + x4.toNat * 8 + x5.toNat * 2 + x6.toNat := by
    subst hb; rw [word7]; omega
  generalize word base [(x0.toNat, 22), (x1.toNat, 19), (x2.toNat, 13), (x3.toNat, 7), (x4.toNat, 3), (x5.toNat, 1), (x6.toNat, 0)] = w at *
  refine ⟨by simp only [majorOf, bits]; omega, by simp only [bits]; omega, field_eq _ (by omega), field_eq _ (by omega), field_eq _ (by omega), field_eq _ (by omega), field_eq _ (by omega), field_eq _ (by omega), field_eq _ (by omega)⟩

theorem layout35 (base m f0 f1 : Nat) (hb : base = m * 33554432 + f0 + f1 * 128) (hm : m < 128) (hf0 : f0 < 2) (hf1 : f1 < 64)
    (x0 : BitVec 3) (x1 : BitVec 3) (x2 : BitVec 6) (x3 : BitVec 6) :
    majorOf (word base [(x0.toNat, 22), (x1.toNat, 19), (x2.toNat, 13), (x3.toNat, 1)]) = m ∧
    bits (word base [(x0.toNat, 22), (x1.toNat, 19), (x2.toNat, 13), (x3.toNat, 1)]) 0 1 = f0 ∧
    bits (word base [(x0.toNat, 22), (x1.toNat, 19), (x2.toNat, 13), (x3.toNat, 1)]) 7 6 = f1 ∧
    field (word base [(x0.toNat, 22), (x1.toNat, 19), (x2.toNat, 13), (x3.toNat, 1)]) 22 3 = x0 ∧
    field (word base [(x0.toNat, 22), (x1.toNat, 19), (x2.toNat, 13), (x3.toNat, 1)]) 19 3 = x1 ∧
    field (word base [(x0.toNat, 22), (x1.toNat, 19), (x2.toNat, 13), (x3.toNat, 1)]) 13 6 = x2 ∧
    field (word base [(x0.toNat, 22), (x1.toNat, 19), (x2.toNat, 13), (x3.toNat, 1)]) 1 6 = x3 := by
  have hx0 := x0.isLt
  have hx1 := x1.isLt
  have hx2 := x2.isLt
  have hx3 := x3.isLt
  have hw : (word base [(x0.toNat, 22), (x1.toNat, 19), (x2.toNat, 13), (x3.toNat, 1)]).toNat = m * 33554432 + f0 + f1 * 128 + x0.toNat * 4194304 + x1.toNat * 524288 + x2.toNat * 8192 + x3.toNat * 2 := by
    subst hb; rw [word4]; omega
  generalize word base [(x0.toNat, 22), (x1.toNat, 19), (x2.toNat, 13), (x3.toNat, 1)] = w at *
  refine ⟨by simp only [majorOf, bits]; omega, by simp only [bits]; omega, by simp only [bits]; omega, field_eq _ (by omega), field_eq _ (by omega), field_eq _ (by omega), field_eq _ (by omega)⟩

theorem layout36 (base m f0 : Nat) (hb : base = m * 33554432 + f0 * 524288) (hm : m < 128) (hf0 : f0 < 8)
    (x0 : BitVec 3) (x1 : BitVec 1) (x2 : BitVec 6) (x3 : BitVec 6) (x4 : BitVec 6) :
    majorOf (word base [(x0.toNat, 22), (x1.toNat, 18), (x2.toNat, 12), (x3.toNat, 6), (x4.toNat, 0)]) = m ∧
    bits (word base [(x0.toNat, 22), (x1.toNat, 18), (x2.toNat, 12), (x3.toNat, 6), (x4.toNat, 0)]) 19 3 = f0 ∧
    field (word base [(x0.toNat, 22), (x1.toNat, 18), (x2.toNat, 12), (x3.toNat, 6), (x4.toNat, 0)]) 22 3 = x0 ∧
    field (word base [(x0.toNat, 22), (x1.toNat, 18), (x2.toNat, 12), (x3.toNat, 6), (x4.toNat, 0)]) 18 1 = x1 ∧
    field (word base [(x0.toNat, 22), (x1.toNat, 18), (x2.toNat, 12), (x3.toNat, 6), (x4.toNat, 0)]) 12 6 = x2 ∧
    field (word base [(x0.toNat, 22), (x1.toNat, 18), (x2.toNat, 12), (x3.toNat, 6), (x4.toNat, 0)]) 6 6 = x3 ∧
    field (word base [(x0.toNat, 22), (x1.toNat, 18), (x2.toNat, 12), (x3.toNat, 6), (x4.toNat, 0)]) 0 6 = x4 := by
  have hx0 := x0.isLt
  have hx1 := x1.isLt
  have hx2 := x2.isLt
  have hx3 := x3.isLt
  have hx4 := x4.isLt
  have hw : (word base [(x0.toNat, 22), (x1.toNat, 18), (x2.toNat, 12), (x3.toNat, 6), (x4.toNat, 0)]).toNat = m * 33554432 + f0 * 524288 + x0.toNat * 4194304 + x1.toNat * 262144 + x2.toNat * 4096 + x3.toNat * 64 + x4.toNat := by
    subst hb; rw [word5]; omega
  generalize word base [(x0.toNat, 22), (x1.toNat, 18), (x2.toNat, 12), (x3.toNat, 6), (x4.toNat, 0)] = w at *
  refine ⟨by simp only [majorOf, bits]; omega, by simp only [bits]; omega, field_eq _ (by omega), field_eq _ (by omega), field_eq _ (by omega), field_eq _ (by omega), field_eq _ (by omega)⟩

theorem layout37 (base m f0 : Nat) (hb : base = m * 33554432 + f0) (hm : m < 128) (hf0 : f0 < 16)
    (x0 : BitVec 3) (x1 : BitVec 3) :
    majorOf (word base [(x0.toNat, 22), (x1.toNat, 4)]) = m ∧
    bits (word base [(x0.toNat, 22), (x1.toNat, 4)]) 0 4 = f0 ∧
    bits (word base [(x0.toNat, 22), (x1.toNat, 4)]) 7 15 = 0 ∧
    field (word base [(x0.toNat, 22), (x1.toNat, 4)]) 22 3 = x0 ∧
    field (word base [(x0.toNat, 22), (x1.toNat, 4)]) 4 3 = x1 := by
  have hx0 := x0.isLt
  have hx1 := x1.isLt
  have hw : (word base [(x0.toNat, 22), (x1.toNat, 4)]).toNat = m * 33554432 + f0 + x0.toNat * 4194304 + x1.toNat * 16 := by
    subst hb; rw [word2]; omega
  generalize word base [(x0.toNat, 22), (x1.toNat, 4)] = w at *
  refine ⟨by simp only [majorOf, bits]; omega, by simp only [bits]; omega, by simp only [bits]; omega, field_eq _ (by omega), field_eq _ (by omega)⟩

theorem layout38 (base m : Nat) (hb : base = m * 33554432 + 4) (hm : m < 128)
    (x0 : BitVec 3) :
    majorOf (word base [(x0.toNat, 22)]) = m ∧
    bits (word base [(x0.toNat, 22)]) 0 22 = 4 ∧
    field (word base [(x0.toNat, 22)]) 22 3 = x0 := by
  have hx0 := x0.isLt
  have hw : (word base [(x0.toNat, 22)]).toNat = m * 33554432 + 4 + x0.toNat * 4194304 := by
    subst hb; rw [word1]; omega
  generalize word base [(x0.toNat, 22)] = w at *
  refine ⟨by simp only [majorOf, bits]; omega, by simp only [bits]; omega, field_eq _ (by omega)⟩

theorem layout39 (base m f0 f1 : Nat) (hb : base = m * 33554432 + f0 * 2 + f1 * 524288) (hm : m < 128) (hf0 : f0 < 64) (hf1 : f1 < 8)
    (x0 : BitVec 3) (x1 : BitVec 6) (x2 : BitVec 6) (x3 : BitVec 1) :
    majorOf (word base [(x0.toNat, 22), (x1.toNat, 13), (x2.toNat, 7), (x3.toNat, 0)]) = m ∧
    bits (word base [(x0.toNat, 22), (x1.toNat, 13), (x2.toNat, 7), (x3.toNat, 0)]) 1 6 = f0 ∧
    bits (word base [(x0.toNat, 22), (x1.toNat, 13), (x2.toNat, 7), (x3.toNat, 0)]) 19 3 = f1 ∧
    field (word base [(x0.toNat, 22), (x1.toNat, 13), (x2.toNat, 7), (x3.toNat, 0)]) 22 3 = x0 ∧
    field (word base [(x0.toNat, 22), (x1.toNat, 13), (x2.toNat, 7), (x3.toNat, 0)]) 13 6 = x1 ∧
    field (word base [(x0.toNat, 22), (x1.toNat, 13), (x2.toNat, 7), (x3.toNat, 0)]) 7 6 = x2 ∧
    field (word base [(x0.toNat, 22), (x1.toNat, 13), (x2.toNat, 7), (x3.toNat, 0)]) 0 1 = x3 := by
  have hx0 := x0.isLt
  have hx1 := x1.isLt
  have hx2 := x2.isLt
  have hx3 := x3.isLt
  have hw : (word base [(x0.toNat, 22), (x1.toNat, 13), (x2.toNat, 7), (x3.toNat, 0)]).toNat = m * 33554432 + f0 * 2 + f1 * 524288 + x0.toNat * 4194304 + x1.toNat * 8192 + x2.toNat * 128 + x3.toNat := by
    subst hb; rw [word4]; omega
  generalize word base [(x0.toNat, 22), (x1.toNat, 13), (x2.toNat, 7), (x3.toNat, 0)] = w at *
  refine ⟨by simp only [majorOf, bits]; omega, by simp only [bits]; omega, by simp only [bits]; omega, field_eq _ (by omega), field_eq _ (by omega), field_eq _ (by omega), field_eq _ (by omega)⟩

theorem layout40 (base m f0 : Nat) (hb : base = m * 33554432 + f0 * 4194304) (hm : m < 128) (hf0 : f0 < 8)
    (x0 : BitVec 3) (x1 : BitVec 6) (x2 : BitVec 6) (x3 : BitVec 6) (x4 : BitVec 1) :
    majorOf (word base [(x0.toNat, 19), (x1.toNat, 13), (x2.toNat, 7), (x3.toNat, 1), (x4.toNat, 0)]) = m ∧
    bits (word base [(x0.toNat, 19), (x1.toNat, 13), (x2.toNat, 7), (x3.toNat, 1), (x4.toNat, 0)]) 22 3 = f0 ∧
    field (word base [(x0.toNat, 19), (x1.toNat, 13), (x2.toNat, 7), (x3.toNat, 1), (x4.toNat, 0)]) 19 3 = x0 ∧
    field (word base [(x0.toNat, 19), (x1.toNat, 13), (x2.toNat, 7), (x3.toNat, 1), (x4.toNat, 0)]) 13 6 = x1 ∧
    field (word base [(x0.toNat, 19), (x1.toNat, 13), (x2.toNat, 7), (x3.toNat, 1), (x4.toNat, 0)]) 7 6 = x2 ∧
    field (word base [(x0.toNat, 19), (x1.toNat, 13), (x2.toNat, 7), (x3.toNat, 1), (x4.toNat, 0)]) 1 6 = x3 ∧
    field (word base [(x0.toNat, 19), (x1.toNat, 13), (x2.toNat, 7), (x3.toNat, 1), (x4.toNat, 0)]) 0 1 = x4 := by
  have hx0 := x0.isLt
  have hx1 := x1.isLt
  have hx2 := x2.isLt
  have hx3 := x3.isLt
  have hx4 := x4.isLt
  have hw : (word base [(x0.toNat, 19), (x1.toNat, 13), (x2.toNat, 7), (x3.toNat, 1), (x4.toNat, 0)]).toNat = m * 33554432 + f0 * 4194304 + x0.toNat * 524288 + x1.toNat * 8192 + x2.toNat * 128 + x3.toNat * 2 + x4.toNat := by
    subst hb; rw [word5]; omega
  generalize word base [(x0.toNat, 19), (x1.toNat, 13), (x2.toNat, 7), (x3.toNat, 1), (x4.toNat, 0)] = w at *
  refine ⟨by simp only [majorOf, bits]; omega, by simp only [bits]; omega, field_eq _ (by omega), field_eq _ (by omega), field_eq _ (by omega), field_eq _ (by omega), field_eq _ (by omega)⟩

theorem layout41 (base m f1 : Nat) (hb : base = m * 33554432 + f1 * 524288) (hm : m < 128) (hf1 : f1 < 64)
    (x0 : BitVec 3) :
    majorOf (word base [(x0.toNat, 16)]) = m ∧
    bits (word base [(x0.toNat, 16)]) 0 16 = 0 ∧
    bits (word base [(x0.toNat, 16)]) 19 6 = f1 ∧
    field (word base [(x0.toNat, 16)]) 16 3 = x0 := by
  have hx0 := x0.isLt
  have hw : (word base [(x0.toNat, 16)]).toNat = m * 33554432 + f1 * 524288 + x0.toNat * 65536 := by
    subst hb; rw [word1]; omega
  generalize word base [(x0.toNat, 16)] = w at *
  refine ⟨by simp only [majorOf, bits]; omega, by simp only [bits]; omega, by simp only [bits]; omega, field_eq _ (by omega)⟩

theorem layout42 (base m f1 : Nat) (hb : base = m * 33554432 + f1 * 524288) (hm : m < 128) (hf1 : f1 < 8)
    (x0 : BitVec 3) (x1 : BitVec 3) :
    majorOf (word base [(x0.toNat, 22), (x1.toNat, 16)]) = m ∧
    bits (word base [(x0.toNat, 22), (x1.toNat, 16)]) 0 16 = 0 ∧
    bits (word base [(x0.toNat, 22), (x1.toNat, 16)]) 19 3 = f1 ∧
    field (word base [(x0.toNat, 22), (x1.toNat, 16)]) 22 3 = x0 ∧
    field (word base [(x0.toNat, 22), (x1.toNat, 16)]) 16 3 = x1 := by
  have hx0 := x0.isLt
  have hx1 := x1.isLt
  have hw : (word base [(x0.toNat, 22), (x1.toNat, 16)]).toNat = m * 33554432 + f1 * 524288 + x0.toNat * 4194304 + x1.toNat * 65536 := by
    subst hb; rw [word2]; omega
  generalize word base [(x0.toNat, 22), (x1.toNat, 16)] = w at *
  refine ⟨by simp only [majorOf, bits]; omega, by simp only [bits]; omega, by simp only [bits]; omega, field_eq _ (by omega), field_eq _ (by omega)⟩

theorem layout43 (base m : Nat) (hb : base = m * 33554432 + 1) (hm : m < 128)
    (x0 : BitVec 3) :
    majorOf (word base [(x0.toNat, 22)]) = m ∧
    bits (word base [(x0.toNat, 22)]) 0 22 = 1 ∧
    field (word base [(x0.toNat, 22)]) 22 3 = x0 := by
  have hx0 := x0.isLt
  have hw : (word base [(x0.toNat, 22)]).toNat = m * 33554432 + 1 + x0.toNat * 4194304 := by
    subst hb; rw [word1]; omega
  generalize word base [(x0.toNat, 22)] = w at *
  refine ⟨by simp only [majorOf, bits]; omega, by simp only [bits]; omega, field_eq _ (by omega)⟩

theorem layout44 (base m f0 : Nat) (hb : base = m * 33554432 + f0) (hm : m < 128) (hf0 : f0 < 2)
    (x0 : BitVec 3) (x1 : BitVec 3) (x2 : BitVec 6) (x3 : BitVec 6) (x4 : BitVec 6) :
    majorOf (word base [(x0.toNat, 22), (x1.toNat, 19), (x2.toNat, 13), (x3.toNat, 7), (x4.toNat, 1)]) = m ∧
    bits (word base [(x0.toNat, 22), (x1.toNat, 19), (x2.toNat, 13), (x3.toNat, 7), (x4.toNat, 1)]) 0 1 = f0 ∧
    field (word base [(x0.toNat, 22), (x1.toNat, 19), (x2.toNat, 13), (x3.toNat, 7), (x4.toNat, 1)]) 22 3 = x0 ∧
    field (word base [(x0.toNat, 22), (x1.toNat, 19), (x2.toNat, 13), (x3.toNat, 7), (x4.toNat, 1)]) 19 3 = x1 ∧
    field (word base [(x0.toNat, 22), (x1.toNat, 19), (x2.toNat, 13), (x3.toNat, 7), (x4.toNat, 1)]) 13 6 = x2 ∧
    field (word base [(x0.toNat, 22), (x1.toNat, 19), (x2.toNat, 13), (x3.toNat, 7), (x4.toNat, 1)]) 7 6 = x3 ∧
    field (word base [(x0.toNat, 22), (x1.toNat, 19), (x2.toNat, 13), (x3.toNat, 7), (x4.toNat, 1)]) 1 6 = x4 := by
  have hx0 := x0.isLt
  have hx1 := x1.isLt
  have hx2 := x2.isLt
  have hx3 := x3.isLt
  have hx4 := x4.isLt
  have hw : (word base [(x0.toNat, 22), (x1.toNat, 19), (x2.toNat, 13), (x3.toNat, 7), (x4.toNat, 1)]).toNat = m * 33554432 + f0 + x0.toNat * 4194304 + x1.toNat * 524288 + x2.toNat * 8192 + x3.toNat * 128 + x4.toNat * 2 := by
    subst hb; rw [word5]; omega
  generalize word base [(x0.toNat, 22), (x1.toNat, 19), (x2.toNat, 13), (x3.toNat, 7), (x4.toNat, 1)] = w at *
  refine ⟨by simp only [majorOf, bits]; omega, by simp only [bits]; omega, field_eq _ (by omega), field_eq _ (by omega), field_eq _ (by omega), field_eq _ (by omega), field_eq _ (by omega)⟩

theorem layout45 (base m f0 : Nat) (hb : base = m * 33554432 + f0 * 4194304) (hm : m < 128) (hf0 : f0 < 8)
    (x0 : BitVec 4) (x1 : BitVec 6) (x2 : BitVec 6) (x3 : BitVec 6) :
    majorOf (word base [(x0.toNat, 18), (x1.toNat, 12), (x2.toNat, 6), (x3.toNat, 0)]) = m ∧
    bits (word base [(x0.toNat, 18), (x1.toNat, 12), (x2.toNat, 6), (x3.toNat, 0)]) 22 3 = f0 ∧
    field (word base [(x0.toNat, 18), (x1.toNat, 12), (x2.toNat, 6), (x3.toNat, 0)]) 18 4 = x0 ∧
    field (word base [(x0.toNat, 18), (x1.toNat, 12), (x2.toNat, 6), (x3.toNat, 0)]) 12 6 = x1 ∧
    field (word base [(x0.toNat, 18), (x1.toNat, 12), (x2.toNat, 6), (x3.toNat, 0)]) 6 6 = x2 ∧
    field (word base [(x0.toNat, 18), (x1.toNat, 12), (x2.toNat, 6), (x3.toNat, 0)]) 0 6 = x3 := by
  have hx0 := x0.isLt
  have hx1 := x1.isLt
  have hx2 := x2.isLt
  have hx3 := x3.isLt
  have hw : (word base [(x0.toNat, 18), (x1.toNat, 12), (x2.toNat, 6), (x3.toNat, 0)]).toNat = m * 33554432 + f0 * 4194304 + x0.toNat * 262144 + x1.toNat * 4096 + x2.toNat * 64 + x3.toNat := by
    subst hb; rw [word4]; omega
  generalize word base [(x0.toNat, 18), (x1.toNat, 12), (x2.toNat, 6), (x3.toNat, 0)] = w at *
  refine ⟨by simp only [majorOf, bits]; omega, by simp only [bits]; omega, field_eq _ (by omega), field_eq _ (by omega), field_eq _ (by omega), field_eq _ (by omega)⟩

theorem layout46 (base m : Nat) (hb : base = m * 33554432) (hm : m < 128)
    (x0 : BitVec 3) (x1 : BitVec 3) (x2 : BitVec 3) (x3 : BitVec 4) (x4 : BitVec 3) (x5 : BitVec 2) (x6 : BitVec 6) (x7 : BitVec 1) :
    majorOf (word base [(x0.toNat, 22), (x1.toNat, 19), (x2.toNat, 16), (x3.toNat, 12), (x4.toNat, 9), (x5.toNat, 7), (x6.toNat, 1), (x7.toNat, 0)]) = m ∧
    field (word base [(x0.toNat, 22), (x1.toNat, 19), (x2.toNat, 16), (x3.toNat, 12), (x4.toNat, 9), (x5.toNat, 7), (x6.toNat, 1), (x7.toNat, 0)]) 22 3 = x0 ∧
    field (word base [(x0.toNat, 22), (x1.toNat, 19), (x2.toNat, 16), (x3.toNat, 12), (x4.toNat, 9), (x5.toNat, 7), (x6.toNat, 1), (x7.toNat, 0)]) 19 3 = x1 ∧
    field (word base [(x0.toNat, 22), (x1.toNat, 19), (x2.toNat, 16), (x3.toNat, 12), (x4.toNat, 9), (x5.toNat, 7), (x6.toNat, 1), (x7.toNat, 0)]) 16 3 = x2 ∧
    field (word base [(x0.toNat, 22), (x1.toNat, 19), (x2.toNat, 16), (x3.toNat, 12), (x4.toNat, 9), (x5.toNat, 7), (x6.toNat, 1), (x7.toNat, 0)]) 12 4 = x3 ∧
    field (word base [(x0.toNat, 22), (x1.toNat, 19), (x2.toNat, 16), (x3.toNat, 12), (x4.toNat, 9), (x5.toNat, 7), (x6.toNat, 1), (x7.toNat, 0)]) 9 3 = x4 ∧
    field (word base [(x0.toNat, 22), (x1.toNat, 19), (x2.toNat, 16), (x3.toNat, 12), (x4.toNat, 9), (x5.toNat, 7), (x6.toNat, 1), (x7.toNat, 0)]) 7 2 = x5 ∧
    field (word base [(x0.toNat, 22), (x1.toNat, 19), (x2.toNat, 16), (x3.toNat, 12), (x4.toNat, 9), (x5.toNat, 7), (x6.toNat, 1), (x7.toNat, 0)]) 1 6 = x6 ∧
    field (word base [(x0.toNat, 22), (x1.toNat, 19), (x2.toNat, 16), (x3.toNat, 12), (x4.toNat, 9), (x5.toNat, 7), (x6.toNat, 1), (x7.toNat, 0)]) 0 1 = x7 := by
  have hx0 := x0.isLt
  have hx1 := x1.isLt
  have hx2 := x2.isLt
  have hx3 := x3.isLt
  have hx4 := x4.isLt
  have hx5 := x5.isLt
  have hx6 := x6.isLt
  have hx7 := x7.isLt
  have hw : (word base [(x0.toNat, 22), (x1.toNat, 19), (x2.toNat, 16), (x3.toNat, 12), (x4.toNat, 9), (x5.toNat, 7), (x6.toNat, 1), (x7.toNat, 0)]).toNat = m * 33554432 + x0.toNat * 4194304 + x1.toNat * 524288 + x2.toNat * 65536 + x3.toNat * 4096 + x4.toNat * 512 + x5.toNat * 128 + x6.toNat * 2 + x7.toNat := by
    subst hb; rw [word8]; omega
  generalize word base [(x0.toNat, 22), (x1.toNat, 19), (x2.toNat, 16), (x3.toNat, 12), (x4.toNat, 9), (x5.toNat, 7), (x6.toNat, 1), (x7.toNat, 0)] = w at *
  refine ⟨by simp only [majorOf, bits]; omega, field_eq _ (by omega), field_eq _ (by omega), field_eq _ (by omega), field_eq _ (by omega), field_eq _ (by omega), field_eq _ (by omega), field_eq _ (by omega), field_eq _ (by omega)⟩

theorem layout47 (base m : Nat) (hb : base = m * 33554432) (hm : m < 128)
    (x0 : BitVec 3) (x1 : BitVec 3) (x2 : BitVec 3) (x3 : BitVec 4) (x4 : BitVec 6) (x5 : BitVec 6) :
    majorOf (word base [(x0.toNat, 22), (x1.toNat, 19), (x2.toNat, 16), (x3.toNat, 12), (x4.toNat, 6), (x5.toNat, 0)]) = m ∧
    field (word base [(x0.toNat, 22), (x1.toNat, 19), (x2.toNat, 16), (x3.toNat, 12), (x4.toNat, 6), (x5.toNat, 0)]) 22 3 = x0 ∧
    field (word base [(x0.toNat, 22), (x1.toNat, 19), (x2.toNat, 16), (x3.toNat, 12), (x4.toNat, 6), (x5.toNat, 0)]) 19 3 = x1 ∧
    field (word base [(x0.toNat, 22), (x1.toNat, 19), (x2.toNat, 16), (x3.toNat, 12), (x4.toNat, 6), (x5.toNat, 0)]) 16 3 = x2 ∧
    field (word base [(x0.toNat, 22), (x1.toNat, 19), (x2.toNat, 16), (x3.toNat, 12), (x4.toNat, 6), (x5.toNat, 0)]) 12 4 = x3 ∧
    field (word base [(x0.toNat, 22), (x1.toNat, 19), (x2.toNat, 16), (x3.toNat, 12), (x4.toNat, 6), (x5.toNat, 0)]) 6 6 = x4 ∧
    field (word base [(x0.toNat, 22), (x1.toNat, 19), (x2.toNat, 16), (x3.toNat, 12), (x4.toNat, 6), (x5.toNat, 0)]) 0 6 = x5 := by
  have hx0 := x0.isLt
  have hx1 := x1.isLt
  have hx2 := x2.isLt
  have hx3 := x3.isLt
  have hx4 := x4.isLt
  have hx5 := x5.isLt
  have hw : (word base [(x0.toNat, 22), (x1.toNat, 19), (x2.toNat, 16), (x3.toNat, 12), (x4.toNat, 6), (x5.toNat, 0)]).toNat = m * 33554432 + x0.toNat * 4194304 + x1.toNat * 524288 + x2.toNat * 65536 + x3.toNat * 4096 + x4.toNat * 64 + x5.toNat := by
    subst hb; rw [word6]; omega
  generalize word base [(x0.toNat, 22), (x1.toNat, 19), (x2.toNat, 16), (x3.toNat, 12), (x4.toNat, 6), (x5.toNat, 0)] = w at *
  refine ⟨by simp only [majorOf, bits]; omega, field_eq _ (by omega), field_eq _ (by omega), field_eq _ (by omega), field_eq _ (by omega), field_eq _ (by omega), field_eq _ (by omega)⟩

theorem layout48 (base m f0 : Nat) (hb : base = m * 33554432 + f0 * 8388608) (hm : m < 128) (hf0 : f0 < 4)
    (x0 : BitVec 3) (x1 : BitVec 3) (x2 : BitVec 6) (x3 : BitVec 6) (x4 : BitVec 1) (x5 : BitVec 1) (x6 : BitVec 3) :
    majorOf (word base [(x0.toNat, 20), (x1.toNat, 17), (x2.toNat, 11), (x3.toNat, 5), (x4.toNat, 4), (x5.toNat, 3), (x6.toNat, 0)]) = m ∧
    bits (word base [(x0.toNat, 20), (x1.toNat, 17), (x2.toNat, 11), (x3.toNat, 5), (x4.toNat, 4), (x5.toNat, 3), (x6.toNat, 0)]) 23 2 = f0 ∧
    field (word base [(x0.toNat, 20), (x1.toNat, 17), (x2.toNat, 11), (x3.toNat, 5), (x4.toNat, 4), (x5.toNat, 3), (x6.toNat, 0)]) 20 3 = x0 ∧
    field (word base [(x0.toNat, 20), (x1.toNat, 17), (x2.toNat, 11), (x3.toNat, 5), (x4.toNat, 4), (x5.toNat, 3), (x6.toNat, 0)]) 17 3 = x1 ∧
    field (word base [(x0.toNat, 20), (x1.toNat, 17), (x2.toNat, 11), (x3.toNat, 5), (x4.toNat, 4), (x5.toNat, 3), (x6.toNat, 0)]) 11 6 = x2 ∧
    field (word base [(x0.toNat, 20), (x1.toNat, 17), (x2.toNat, 11), (x3.toNat, 5), (x4.toNat, 4), (x5.toNat, 3), (x6.toNat, 0)]) 5 6 = x3 ∧
    field (word base [(x0.toNat, 20), (x1.toNat, 17), (x2.toNat, 11), (x3.toNat, 5), (x4.toNat, 4), (x5.toNat, 3), (x6.toNat, 0)]) 4 1 = x4 ∧
    field (word base [(x0.toNat, 20), (x1.toNat, 17), (x2.toNat, 11), (x3.toNat, 5), (x4.toNat, 4), (x5.toNat, 3), (x6.toNat, 0)]) 3 1 = x5 ∧
    field (word base [(x0.toNat, 20), (x1.toNat, 17), (x2.toNat, 11), (x3.toNat, 5), (x4.toNat, 4), (x5.toNat, 3), (x6.toNat, 0)]) 0 3 = x6 := by
  have hx0 := x0.isLt
  have hx1 := x1.isLt
  have hx2 := x2.isLt
  have hx3 := x3.isLt
  have hx4 := x4.isLt
  have hx5 := x5.isLt
  have hx6 := x6.isLt
  have hw : (word base [(x0.toNat, 20), (x1.toNat, 17), (x2.toNat, 11), (x3.toNat, 5), (x4.toNat, 4), (x5.toNat, 3), (x6.toNat, 0)]).toNat = m * 33554432 + f0 * 8388608 + x0.toNat * 1048576 + x1.toNat * 131072 + x2.toNat * 2048 + x3.toNat * 32 + x4.toNat * 16 + x5.toNat * 8 + x6.toNat := by
    subst hb; rw [word7]; omega
  generalize word base [(x0.toNat, 20), (x1.toNat, 17), (x2.toNat, 11), (x3.toNat, 5), (x4.toNat, 4), (x5.toNat, 3), (x6.toNat, 0)] = w at *
  refine ⟨by simp only [majorOf, bits]; omega, by simp only [bits]; omega, field_eq _ (by omega), field_eq _ (by omega), field_eq _ (by omega), field_eq _ (by omega), field_eq _ (by omega), field_eq _ (by omega), field_eq _ (by omega)⟩

theorem layout49 (base m : Nat) (hb : base = m * 33554432) (hm : m < 128)
    (x0 : BitVec 3) (x1 : BitVec 3) (x2 : BitVec 3) :
    majorOf (word base [(x0.toNat, 22), (x1.toNat, 19), (x2.toNat, 16)]) = m ∧
    bits (word base [(x0.toNat, 22), (x1.toNat, 19), (x2.toNat, 16)]) 0 16 = 0 ∧
    field (word base [(x0.toNat, 22), (x1.toNat, 19), (x2.toNat, 16)]) 22 3 = x0 ∧
    field (word base [(x0.toNat, 22), (x1.toNat, 19), (x2.toNat, 16)]) 19 3 = x1 ∧
    field (word base [(x0.toNat, 22), (x1.toNat, 19), (x2.toNat, 16)]) 16 3 = x2 := by
  have hx0 := x0.isLt
  have hx1 := x1.isLt
  have hx2 := x2.isLt
  have hw : (word base [(x0.toNat, 22), (x1.toNat, 19), (x2.toNat, 16)]).toNat = m * 33554432 + x0.toNat * 4194304 + x1.toNat * 524288 + x2.toNat * 65536 := by
    subst hb; rw [word3]; omega
  generalize word base [(x0.toNat, 22), (x1.toNat, 19), (x2.toNat, 16)] = w at *
  refine ⟨by simp only [majorOf, bits]; omega, by simp only [bits]; omega, field_eq _ (by omega), field_eq _ (by omega), field_eq _ (by omega)⟩

theorem layout50 (base m f0 f1 : Nat) (hb : base = m * 33554432 + f0 + f1 * 256) (hm : m < 128) (hf0 : f0 < 16) (hf1 : f1 < 256)
    (x0 : BitVec 3) (x1 : BitVec 3) (x2 : BitVec 3) (x3 : BitVec 4) :
    majorOf (word base [(x0.toNat, 22), (x1.toNat, 19), (x2.toNat, 16), (x3.toNat, 4)]) = m ∧
    bits (word base [(x0.toNat, 22), (x1.toNat, 19), (x2.toNat, 16), (x3.toNat, 4)]) 0 4 = f0 ∧
    bits (word base [(x0.toNat, 22), (x1.toNat, 19), (x2.toNat, 16), (x3.toNat, 4)]) 8 8 = f1 ∧
    field (word base [(x0.toNat, 22), (x1.toNat, 19), (x2.toNat, 16), (x3.toNat, 4)]) 22 3 = x0 ∧
    field (word base [(x0.toNat, 22), (x1.toNat, 19), (x2.toNat, 16), (x3.toNat, 4)]) 19 3 = x1 ∧
    field (word base [(x0.toNat, 22), (x1.toNat, 19), (x2.toNat, 16), (x3.toNat, 4)]) 16 3 = x2 ∧
    field (word base [(x0.toNat, 22), (x1.toNat, 19), (x2.toNat, 16), (x3.toNat, 4)]) 4 4 = x3 := by
  have hx0 := x0.isLt
  have hx1 := x1.isLt
  have hx2 := x2.isLt
  have hx3 := x3.isLt
  have hw : (word base [(x0.toNat, 22), (x1.toNat, 19), (x2.toNat, 16), (x3.toNat, 4)]).toNat = m * 33554432 + f0 + f1 * 256 + x0.toNat * 4194304 + x1.toNat * 524288 + x2.toNat * 65536 + x3.toNat * 16 := by
    subst hb; rw [word4]; omega
  generalize word base [(x0.toNat, 22), (x1.toNat, 19), (x2.toNat, 16), (x3.toNat, 4)] = w at *
  refine ⟨by simp only [majorOf, bits]; omega, by simp only [bits]; omega, by simp only [bits]; omega, field_eq _ (by omega), field_eq _ (by omega), field_eq _ (by omega), field_eq _ (by omega)⟩

theorem layout51 (base m f0 f1 : Nat) (hb : base = m * 33554432 + f0 + f1 * 16384) (hm : m < 128) (hf0 : f0 < 256) (hf1 : f1 < 4)
    (x0 : BitVec 3) (x1 : BitVec 3) (x2 : BitVec 3) (x3 : BitVec 6) :
    majorOf (word base [(x0.toNat, 22), (x1.toNat, 19), (x2.toNat, 16), (x3.toNat, 8)]) = m ∧
    bits (word base [(x0.toNat, 22), (x1.toNat, 19), (x2.toNat, 16), (x3.toNat, 8)]) 0 8 = f0 ∧
    bits (word base [(x0.toNat, 22), (x1.toNat, 19), (x2.toNat, 16), (x3.toNat, 8)]) 14 2 = f1 ∧
    field (word base [(x0.toNat, 22), (x1.toNat, 19), (x2.toNat, 16), (x3.toNat, 8)]) 22 3 = x0 ∧
    field (word base [(x0.toNat, 22), (x1.toNat, 19), (x2.toNat, 16), (x3.toNat, 8)]) 19 3 = x1 ∧
    field (word base [(x0.toNat, 22), (x1.toNat, 19), (x2.toNat, 16), (x3.toNat, 8)]) 16 3 = x2 ∧
    field (word base [(x0.toNat, 22), (x1.toNat, 19), (x2.toNat, 16), (x3.toNat, 8)]) 8 6 = x3 := by
  have hx0 := x0.isLt
  have hx1 := x1.isLt
  have hx2 := x2.isLt
  have hx3 := x3.isLt
  have hw : (word base [(x0.toNat, 22), (x1.toNat, 19), (x2.toNat, 16), (x3.toNat, 8)]).toNat = m * 33554432 + f0 + f1 * 16384 + x0.toNat * 4194304 + x1.toNat * 524288 + x2.toNat * 65536 + x3.toNat * 256 := by
    subst hb; rw [word4]; omega
  generalize word base [(x0.toNat, 22), (x1.toNat, 19), (x2.toNat, 16), (x3.toNat, 8)] = w at *
  refine ⟨by simp only [majorOf, bits]; omega, by simp only [bits]; omega, by simp only [bits]; omega, field_eq _ (by omega), field_eq _ (by omega), field_eq _ (by omega), field_eq _ (by omega)⟩

theorem layout52 (base m f0 f1 f2 : Nat) (hb : base = m * 33554432 + f0 + f1 * 262144 + f2 * 8388608) (hm : m < 128) (hf0 : f0 < 64) (hf1 : f1 < 8) (hf2 : f2 < 4)
    (x0 : BitVec 2) (x1 : BitVec 6) (x2 : BitVec 6) :
    majorOf (word base [(x0.toNat, 21), (x1.toNat, 12), (x2.toNat, 6)]) = m ∧
    bits (word base [(x0.toNat, 21), (x1.toNat, 12), (x2.toNat, 6)]) 0 6 = f0 ∧
    bits (word base [(x0.toNat, 21), (x1.toNat, 12), (x2.toNat, 6)]) 18 3 = f1 ∧
    bits (word base [(x0.toNat, 21), (x1.toNat, 12), (x2.toNat, 6)]) 23 2 = f2 ∧
    field (word base [(x0.toNat, 21), (x1.toNat, 12), (x2.toNat, 6)]) 21 2 = x0 ∧
    field (word base [(x0.toNat, 21), (x1.toNat, 12), (x2.toNat, 6)]) 12 6 = x1 ∧
    field (word base [(x0.toNat, 21), (x1.toNat, 12), (x2.toNat, 6)]) 6 6 = x2 := by
  have hx0 := x0.isLt
  have hx1 := x1.isLt
  have hx2 := x2.isLt
  have hw : (word base [(x0.toNat, 21), (x1.toNat, 12), (x2.toNat, 6)]).toNat = m * 33554432 + f0 + f1 * 262144 + f2 * 8388608 + x0.toNat * 2097152 + x1.toNat * 4096 + x2.toNat * 64 := by
    subst hb; rw [word3]; omega
  generalize word base [(x0.toNat, 21), (x1.toNat, 12), (x2.toNat, 6)] = w at *
  refine ⟨by simp only [majorOf, bits]; omega, by simp only [bits]; omega, by simp only [bits]; omega, by simp only [bits]; omega, field_eq _ (by omega), field_eq _ (by omega), field_eq _ (by omega)⟩

theorem layout53 (base m f1 : Nat) (hb : base = m * 33554432 + f1 * 4194304) (hm : m < 128) (hf1 : f1 < 8)
    (x0 : BitVec 1) (x1 : BitVec 1) (x2 : BitVec 1) (x3 : BitVec 6) :
    majorOf (word base [(x0.toNat, 21), (x1.toNat, 20), (x2.toNat, 19), (x3.toNat, 13)]) = m ∧
    bits (word base [(x0.toNat, 21), (x1.toNat, 20), (x2.toNat, 19), (x3.toNat, 13)]) 0 13 = 0 ∧
    bits (word base [(x0.toNat, 21), (x1.toNat, 20), (x2.toNat, 19), (x3.toNat, 13)]) 22 3 = f1 ∧
    field (word base [(x0.toNat, 21), (x1.toNat, 20), (x2.toNat, 19), (x3.toNat, 13)]) 21 1 = x0 ∧
    field (word base [(x0.toNat, 21), (x1.toNat, 20), (x2.toNat, 19), (x3.toNat, 13)]) 20 1 = x1 ∧
    field (word base [(x0.toNat, 21), (x1.toNat, 20), (x2.toNat, 19), (x3.toNat, 13)]) 19 1 = x2 ∧
    field (word base [(x0.toNat, 21), (x1.toNat, 20), (x2.toNat, 19), (x3.toNat, 13)]) 13 6 = x3 := by
  have hx0 := x0.isLt
  have hx1 := x1.isLt
  have hx2 := x2.isLt
  have hx3 := x3.isLt
  have hw : (word base [(x0.toNat, 21), (x1.toNat, 20), (x2.toNat, 19), (x3.toNat, 13)]).toNat = m * 33554432 + f1 * 4194304 + x0.toNat * 2097152 + x1.toNat * 1048576 + x2.toNat * 524288 + x3.toNat * 8192 := by
    subst hb; rw [word4]; omega
  generalize word base [(x0.toNat, 21), (x1.toNat, 20), (x2.toNat, 19), (x3.toNat, 13)] = w at *
  refine ⟨by simp only [majorOf, bits]; omega, by simp only [bits]; omega, by simp only [bits]; omega, field_eq _ (by omega), field_eq _ (by omega), field_eq _ (by omega), field_eq _ (by omega)⟩

theorem layout54 (base m f0 f1 : Nat) (hb : base = m * 33554432 + f0 + f1 * 4194304) (hm : m < 128) (hf0 : f0 < 2) (hf1 : f1 < 8)
    (x0 : BitVec 3) (x1 : BitVec 6) (x2 : BitVec 6) (x3 : BitVec 6) :
    majorOf (word base [(x0.toNat, 19), (x1.toNat, 13), (x2.toNat, 7), (x3.toNat, 1)]) = m ∧
    bits (word base [(x0.toNat, 19), (x1.toNat, 13), (x2.toNat, 7), (x3.toNat, 1)]) 0 1 = f0 ∧
    bits (word base [(x0.toNat, 19), (x1.toNat, 13), (x2.toNat, 7), (x3.toNat, 1)]) 22 3 = f1 ∧
    field (word base [(x0.toNat, 19), (x1.toNat, 13), (x2.toNat, 7), (x3.toNat, 1)]) 19 3 = x0 ∧
    field (word base [(x0.toNat, 19), (x1.toNat, 13), (x2.toNat, 7), (x3.toNat, 1)]) 13 6 = x1 ∧
    field (word base [(x0.toNat, 19), (x1.toNat, 13), (x2.toNat, 7), (x3.toNat, 1)]) 7 6 = x2 ∧
    field (word base [(x0.toNat, 19), (x1.toNat, 13), (x2.toNat, 7), (x3.toNat, 1)]) 1 6 = x3 := by
  have hx0 := x0.isLt
  have hx1 := x1.isLt
  have hx2 := x2.isLt
  have hx3 := x3.isLt
  have hw : (word base [(x0.toNat, 19), (x1.toNat, 13), (x2.toNat, 7), (x3.toNat, 1)]).toNat = m * 33554432 + f0 + f1 * 4194304 + x0.toNat * 524288 + x1.toNat * 8192 + x2.toNat * 128 + x3.toNat * 2 := by
    subst hb; rw [word4]; omega
  generalize word base [(x0.toNat, 19), (x1.toNat, 13), (x2.toNat, 7), (x3.toNat, 1)] = w at *
  refine ⟨by simp only [majorOf, bits]; omega, by simp only [bits]; omega, by simp only [bits]; omega, field_eq _ (by omega), field_eq _ (by omega), field_eq _ (by omega), field_eq _ (by omega)⟩

theorem forkWord (k : BitVec 3) (x : BitVec 11) (y : BitVec 11) :
    majorOf (word 0xC0000000 [(k.toNat, 22), (x.toNat, 11), (y.toNat, 0)]) = 0x60 ∧
    field (word 0xC0000000 [(k.toNat, 22), (x.toNat, 11), (y.toNat, 0)]) 22 3 = k ∧
    field (word 0xC0000000 [(k.toNat, 22), (x.toNat, 11), (y.toNat, 0)]) 11 11 = x ∧
    field (word 0xC0000000 [(k.toNat, 22), (x.toNat, 11), (y.toNat, 0)]) 0 11 = y := by
  have hk := k.isLt
  have hx := x.isLt
  have hy := y.isLt
  have hw : (word 0xC0000000 [(k.toNat, 22), (x.toNat, 11), (y.toNat, 0)]).toNat = 0xC0000000 + k.toNat * 4194304 + x.toNat * 2048 + y.toNat := by
    rw [word3]; omega
  generalize word 0xC0000000 [(k.toNat, 22), (x.toNat, 11), (y.toNat, 0)] = w at *
  refine ⟨by simp only [majorOf, bits]; omega, field_eq _ (by omega), field_eq _ (by omega), field_eq _ (by omega)⟩

theorem forkExtension (av : BitVec 1) (ab : BitVec 6) (al : BitVec 3) (bv : BitVec 1) (bb : BitVec 6) (bl : BitVec 3) :
    bits (word 0xFC000000 [(av.toNat, 25), (ab.toNat, 19), (al.toNat, 16), (bv.toNat, 15), (bb.toNat, 9), (bl.toNat, 6)]) 26 6 = 0x3F ∧
    bits (word 0xFC000000 [(av.toNat, 25), (ab.toNat, 19), (al.toNat, 16), (bv.toNat, 15), (bb.toNat, 9), (bl.toNat, 6)]) 0 6 = 0 ∧
    field (word 0xFC000000 [(av.toNat, 25), (ab.toNat, 19), (al.toNat, 16), (bv.toNat, 15), (bb.toNat, 9), (bl.toNat, 6)]) 25 1 = av ∧
    field (word 0xFC000000 [(av.toNat, 25), (ab.toNat, 19), (al.toNat, 16), (bv.toNat, 15), (bb.toNat, 9), (bl.toNat, 6)]) 19 6 = ab ∧
    field (word 0xFC000000 [(av.toNat, 25), (ab.toNat, 19), (al.toNat, 16), (bv.toNat, 15), (bb.toNat, 9), (bl.toNat, 6)]) 16 3 = al ∧
    field (word 0xFC000000 [(av.toNat, 25), (ab.toNat, 19), (al.toNat, 16), (bv.toNat, 15), (bb.toNat, 9), (bl.toNat, 6)]) 15 1 = bv ∧
    field (word 0xFC000000 [(av.toNat, 25), (ab.toNat, 19), (al.toNat, 16), (bv.toNat, 15), (bb.toNat, 9), (bl.toNat, 6)]) 9 6 = bb ∧
    field (word 0xFC000000 [(av.toNat, 25), (ab.toNat, 19), (al.toNat, 16), (bv.toNat, 15), (bb.toNat, 9), (bl.toNat, 6)]) 6 3 = bl := by
  have hav := av.isLt
  have hab := ab.isLt
  have hal := al.isLt
  have hbv := bv.isLt
  have hbb := bb.isLt
  have hbl := bl.isLt
  have hw : (word 0xFC000000 [(av.toNat, 25), (ab.toNat, 19), (al.toNat, 16), (bv.toNat, 15), (bb.toNat, 9), (bl.toNat, 6)]).toNat = 0xFC000000 + av.toNat * 33554432 + ab.toNat * 524288 + al.toNat * 65536 + bv.toNat * 32768 + bb.toNat * 512 + bl.toNat * 64 := by
    rw [word6]; omega
  generalize word 0xFC000000 [(av.toNat, 25), (ab.toNat, 19), (al.toNat, 16), (bv.toNat, 15), (bb.toNat, 9), (bl.toNat, 6)] = w at *
  refine ⟨by simp only [bits]; omega, by simp only [bits]; omega, field_eq _ (by omega), field_eq _ (by omega), field_eq _ (by omega), field_eq _ (by omega), field_eq _ (by omega), field_eq _ (by omega)⟩

theorem copyWord (base m : Nat) (hbase : base = m * 33554432) (hm : m < 128) (g : BitVec 3) (d : BitVec 6) (a : BitVec 6) (b : BitVec 6) :
    majorOf (word base [(g.toNat, 22), (d.toNat, 13), (a.toNat, 7), (b.toNat, 1)]) = m ∧
    bits (word base [(g.toNat, 22), (d.toNat, 13), (a.toNat, 7), (b.toNat, 1)]) 19 3 = 0 ∧
    bits (word base [(g.toNat, 22), (d.toNat, 13), (a.toNat, 7), (b.toNat, 1)]) 0 1 = 0 ∧
    field (word base [(g.toNat, 22), (d.toNat, 13), (a.toNat, 7), (b.toNat, 1)]) 22 3 = g ∧
    field (word base [(g.toNat, 22), (d.toNat, 13), (a.toNat, 7), (b.toNat, 1)]) 13 6 = d ∧
    field (word base [(g.toNat, 22), (d.toNat, 13), (a.toNat, 7), (b.toNat, 1)]) 7 6 = a ∧
    field (word base [(g.toNat, 22), (d.toNat, 13), (a.toNat, 7), (b.toNat, 1)]) 1 6 = b := by
  have hg := g.isLt
  have hd := d.isLt
  have ha := a.isLt
  have hb := b.isLt
  have hw : (word base [(g.toNat, 22), (d.toNat, 13), (a.toNat, 7), (b.toNat, 1)]).toNat = m * 33554432 + g.toNat * 4194304 + d.toNat * 8192 + a.toNat * 128 + b.toNat * 2 := by
    subst hbase; rw [word4]; omega
  generalize word base [(g.toNat, 22), (d.toNat, 13), (a.toNat, 7), (b.toNat, 1)] = w at *
  refine ⟨by simp only [majorOf, bits]; omega, by simp only [bits]; omega, by simp only [bits]; omega, field_eq _ (by omega), field_eq _ (by omega), field_eq _ (by omega), field_eq _ (by omega)⟩

theorem copyExtension (i : BitVec 1) (v : BitVec 1) (s : BitVec 1) (tc : BitVec 2) :
    bits (word 0xFC000000 [(i.toNat, 4), (v.toNat, 3), (s.toNat, 2), (tc.toNat, 0)]) 26 6 = 0x3F ∧
    bits (word 0xFC000000 [(i.toNat, 4), (v.toNat, 3), (s.toNat, 2), (tc.toNat, 0)]) 5 21 = 0 ∧
    field (word 0xFC000000 [(i.toNat, 4), (v.toNat, 3), (s.toNat, 2), (tc.toNat, 0)]) 4 1 = i ∧
    field (word 0xFC000000 [(i.toNat, 4), (v.toNat, 3), (s.toNat, 2), (tc.toNat, 0)]) 3 1 = v ∧
    field (word 0xFC000000 [(i.toNat, 4), (v.toNat, 3), (s.toNat, 2), (tc.toNat, 0)]) 2 1 = s ∧
    field (word 0xFC000000 [(i.toNat, 4), (v.toNat, 3), (s.toNat, 2), (tc.toNat, 0)]) 0 2 = tc := by
  have hi := i.isLt
  have hv := v.isLt
  have hs := s.isLt
  have htc := tc.isLt
  have hw : (word 0xFC000000 [(i.toNat, 4), (v.toNat, 3), (s.toNat, 2), (tc.toNat, 0)]).toNat = 0xFC000000 + i.toNat * 16 + v.toNat * 8 + s.toNat * 4 + tc.toNat := by
    rw [word4]; omega
  generalize word 0xFC000000 [(i.toNat, 4), (v.toNat, 3), (s.toNat, 2), (tc.toNat, 0)] = w at *
  refine ⟨by simp only [bits]; omega, by simp only [bits]; omega, field_eq _ (by omega), field_eq _ (by omega), field_eq _ (by omega), field_eq _ (by omega)⟩

theorem mcastExtension (ts : BitVec 16) (v : BitVec 1) (s : BitVec 1) (tc : BitVec 2) :
    bits (word 0xFC000000 [(ts.toNat, 10), (v.toNat, 3), (s.toNat, 2), (tc.toNat, 0)]) 26 6 = 0x3F ∧
    bits (word 0xFC000000 [(ts.toNat, 10), (v.toNat, 3), (s.toNat, 2), (tc.toNat, 0)]) 4 6 = 0 ∧
    field (word 0xFC000000 [(ts.toNat, 10), (v.toNat, 3), (s.toNat, 2), (tc.toNat, 0)]) 10 16 = ts ∧
    field (word 0xFC000000 [(ts.toNat, 10), (v.toNat, 3), (s.toNat, 2), (tc.toNat, 0)]) 3 1 = v ∧
    field (word 0xFC000000 [(ts.toNat, 10), (v.toNat, 3), (s.toNat, 2), (tc.toNat, 0)]) 2 1 = s ∧
    field (word 0xFC000000 [(ts.toNat, 10), (v.toNat, 3), (s.toNat, 2), (tc.toNat, 0)]) 0 2 = tc := by
  have hts := ts.isLt
  have hv := v.isLt
  have hs := s.isLt
  have htc := tc.isLt
  have hw : (word 0xFC000000 [(ts.toNat, 10), (v.toNat, 3), (s.toNat, 2), (tc.toNat, 0)]).toNat = 0xFC000000 + ts.toNat * 1024 + v.toNat * 8 + s.toNat * 4 + tc.toNat := by
    rw [word4]; omega
  generalize word 0xFC000000 [(ts.toNat, 10), (v.toNat, 3), (s.toNat, 2), (tc.toNat, 0)] = w at *
  refine ⟨by simp only [bits]; omega, by simp only [bits]; omega, field_eq _ (by omega), field_eq _ (by omega), field_eq _ (by omega), field_eq _ (by omega)⟩

end Sys2Proof.Laws.Encoding
end

