-- ==== Sys2Proof/Laws/PerInstr.lean ====
section
/-! SUPPORT. The family Encoding: for each instruction, its words decode to it, field for field. A row of the table that
has no encoding has no words. -/

namespace Sys2Proof.Laws.Encoding

open Sys2Proof

/-- An encoded instruction is one word, or a word that takes an extension word with that word, and the decoder reads it
back; a step has no words (04 R81, R91, R96). -/
def Statement (i : Instr) : Prop :=
  match encode i with
  | [] => isWordInstr i = false
  | [w] => takesExtension w = false ∧ decodeWord w none = .ok i
  | [w, x] => takesExtension w = true ∧ decodeWord w (some x) = .ok i
  | _ => False

/-- A one-word instruction. -/
theorem oneWord {i : Instr} {w : Code} (he : encode i = [w]) (hx : takesExtension w = false)
    (hd : decodeWord w none = .ok i) : Statement i := by
  unfold Statement; rw [he]; exact ⟨hx, hd⟩

/-- An instruction with an extension word. -/
theorem twoWords {i : Instr} {w x : Code} (he : encode i = [w, x]) (hx : takesExtension w = true)
    (hd : decodeWord w (some x) = .ok i) : Statement i := by
  unfold Statement; rw [he]; exact ⟨hx, hd⟩

/-- A major without an extension word. -/
theorem noExtension {w : Code} {m : Nat} (hm : majorOf w = m)
    (h : (m == 0x60 || m == 0x68 || m == 0x69) = false) : takesExtension w = false := by
  unfold takesExtension; rw [hm]; exact h

theorem bits_upper (w : Code) : bits w 1 6 / 4 = bits w 3 4 := by simp only [bits]; omega

theorem bits_low (w : Code) : bits w 0 1 = bits w 0 7 % 2 := by simp only [bits]; omega

theorem bits_mid (w : Code) : bits w 16 6 / 8 = bits w 19 3 := by simp only [bits]; omega

theorem bits_cur (w : Code) : bits w 1 6 = bits w 0 13 / 2 % 64 := by simp only [bits]; omega

theorem bits_fence (w : Code) : bits w 0 4 = bits w 0 22 % 16 := by simp only [bits]; omega

theorem bits_pop (w : Code) : bits w 1 6 = bits w 0 7 / 2 := by simp only [bits]; omega

theorem bits_acc (w : Code) : bits w 8 8 = bits w 0 16 / 256 ∧ bits w 14 2 = bits w 8 8 / 64 := by
  simp only [bits]; omega

theorem nop (g : BitVec 3) : Statement (.nop g) := by
  obtain ⟨hm, h0, p0⟩ := layout0 0x02000000 0x01 rfl (by decide) g
  refine oneWord rfl (noExtension hm rfl) ?_
  rw [decodeWord, hm, decodeRow0, hm]
  simp only [decode01, h0, p0]
  rfl

theorem sAluAdd (g : BitVec 3) (d : BitVec 6) (a : BitVec 6) (b : BitVec 6) (i : BitVec 1) : Statement (.sAluAdd g d a b i) := by
  obtain ⟨hm, h0, p0, p1, p2, p3, p4⟩ := layout1 0x04000000 0x02 0 rfl (by decide) (by decide) g d a b i
  refine oneWord rfl (noExtension hm rfl) ?_
  rw [decodeWord, hm, decodeRow0, hm]
  simp only [decode02, h0, p0, p1, p2, p3, p4]
  rfl

theorem sAluSub (g : BitVec 3) (d : BitVec 6) (a : BitVec 6) (b : BitVec 6) (i : BitVec 1) : Statement (.sAluSub g d a b i) := by
  obtain ⟨hm, h0, p0, p1, p2, p3, p4⟩ := layout1 0x04080000 0x02 1 rfl (by decide) (by decide) g d a b i
  refine oneWord rfl (noExtension hm rfl) ?_
  rw [decodeWord, hm, decodeRow0, hm]
  simp only [decode02, h0, p0, p1, p2, p3, p4]
  rfl

theorem sAluAnd (g : BitVec 3) (d : BitVec 6) (a : BitVec 6) (b : BitVec 6) (i : BitVec 1) : Statement (.sAluAnd g d a b i) := by
  obtain ⟨hm, h0, p0, p1, p2, p3, p4⟩ := layout1 0x04100000 0x02 2 rfl (by decide) (by decide) g d a b i
  refine oneWord rfl (noExtension hm rfl) ?_
  rw [decodeWord, hm, decodeRow0, hm]
  simp only [decode02, h0, p0, p1, p2, p3, p4]
  rfl

theorem sAluOr (g : BitVec 3) (d : BitVec 6) (a : BitVec 6) (b : BitVec 6) (i : BitVec 1) : Statement (.sAluOr g d a b i) := by
  obtain ⟨hm, h0, p0, p1, p2, p3, p4⟩ := layout1 0x04180000 0x02 3 rfl (by decide) (by decide) g d a b i
  refine oneWord rfl (noExtension hm rfl) ?_
  rw [decodeWord, hm, decodeRow0, hm]
  simp only [decode02, h0, p0, p1, p2, p3, p4]
  rfl

theorem sAluXor (g : BitVec 3) (d : BitVec 6) (a : BitVec 6) (b : BitVec 6) (i : BitVec 1) : Statement (.sAluXor g d a b i) := by
  obtain ⟨hm, h0, p0, p1, p2, p3, p4⟩ := layout1 0x04200000 0x02 4 rfl (by decide) (by decide) g d a b i
  refine oneWord rfl (noExtension hm rfl) ?_
  rw [decodeWord, hm, decodeRow0, hm]
  simp only [decode02, h0, p0, p1, p2, p3, p4]
  rfl

theorem sAluShl (g : BitVec 3) (d : BitVec 6) (a : BitVec 6) (b : BitVec 6) (i : BitVec 1) : Statement (.sAluShl g d a b i) := by
  obtain ⟨hm, h0, p0, p1, p2, p3, p4⟩ := layout1 0x04280000 0x02 5 rfl (by decide) (by decide) g d a b i
  refine oneWord rfl (noExtension hm rfl) ?_
  rw [decodeWord, hm, decodeRow0, hm]
  simp only [decode02, h0, p0, p1, p2, p3, p4]
  rfl

theorem sAluShr (g : BitVec 3) (d : BitVec 6) (a : BitVec 6) (b : BitVec 6) (i : BitVec 1) : Statement (.sAluShr g d a b i) := by
  obtain ⟨hm, h0, p0, p1, p2, p3, p4⟩ := layout1 0x04300000 0x02 6 rfl (by decide) (by decide) g d a b i
  refine oneWord rfl (noExtension hm rfl) ?_
  rw [decodeWord, hm, decodeRow0, hm]
  simp only [decode02, h0, p0, p1, p2, p3, p4]
  rfl

theorem sAluSar (g : BitVec 3) (d : BitVec 6) (a : BitVec 6) (b : BitVec 6) (i : BitVec 1) : Statement (.sAluSar g d a b i) := by
  obtain ⟨hm, h0, p0, p1, p2, p3, p4⟩ := layout1 0x04380000 0x02 7 rfl (by decide) (by decide) g d a b i
  refine oneWord rfl (noExtension hm rfl) ?_
  rw [decodeWord, hm, decodeRow0, hm]
  simp only [decode02, h0, p0, p1, p2, p3, p4]
  rfl

theorem sAlu2Mul (g : BitVec 3) (d : BitVec 6) (a : BitVec 6) (b : BitVec 6) (i : BitVec 1) : Statement (.sAlu2Mul g d a b i) := by
  obtain ⟨hm, h0, p0, p1, p2, p3, p4⟩ := layout1 0x06000000 0x03 0 rfl (by decide) (by decide) g d a b i
  refine oneWord rfl (noExtension hm rfl) ?_
  rw [decodeWord, hm, decodeRow0, hm]
  simp only [decode03, h0, p0, p1, p2, p3, p4]
  rfl

theorem sAlu2Mulhs (g : BitVec 3) (d : BitVec 6) (a : BitVec 6) (b : BitVec 6) (i : BitVec 1) : Statement (.sAlu2Mulhs g d a b i) := by
  obtain ⟨hm, h0, p0, p1, p2, p3, p4⟩ := layout1 0x06080000 0x03 1 rfl (by decide) (by decide) g d a b i
  refine oneWord rfl (noExtension hm rfl) ?_
  rw [decodeWord, hm, decodeRow0, hm]
  simp only [decode03, h0, p0, p1, p2, p3, p4]
  rfl

theorem sAlu2Mulhn (g : BitVec 3) (d : BitVec 6) (a : BitVec 6) (b : BitVec 6) (i : BitVec 1) : Statement (.sAlu2Mulhn g d a b i) := by
  obtain ⟨hm, h0, p0, p1, p2, p3, p4⟩ := layout1 0x06100000 0x03 2 rfl (by decide) (by decide) g d a b i
  refine oneWord rfl (noExtension hm rfl) ?_
  rw [decodeWord, hm, decodeRow0, hm]
  simp only [decode03, h0, p0, p1, p2, p3, p4]
  rfl

theorem sAlu2Min (g : BitVec 3) (d : BitVec 6) (a : BitVec 6) (b : BitVec 6) (i : BitVec 1) : Statement (.sAlu2Min g d a b i) := by
  obtain ⟨hm, h0, p0, p1, p2, p3, p4⟩ := layout1 0x06180000 0x03 3 rfl (by decide) (by decide) g d a b i
  refine oneWord rfl (noExtension hm rfl) ?_
  rw [decodeWord, hm, decodeRow0, hm]
  simp only [decode03, h0, p0, p1, p2, p3, p4]
  rfl

theorem sAlu2Max (g : BitVec 3) (d : BitVec 6) (a : BitVec 6) (b : BitVec 6) (i : BitVec 1) : Statement (.sAlu2Max g d a b i) := by
  obtain ⟨hm, h0, p0, p1, p2, p3, p4⟩ := layout1 0x06200000 0x03 4 rfl (by decide) (by decide) g d a b i
  refine oneWord rfl (noExtension hm rfl) ?_
  rw [decodeWord, hm, decodeRow0, hm]
  simp only [decode03, h0, p0, p1, p2, p3, p4]
  rfl

theorem sAlu2Minn (g : BitVec 3) (d : BitVec 6) (a : BitVec 6) (b : BitVec 6) (i : BitVec 1) : Statement (.sAlu2Minn g d a b i) := by
  obtain ⟨hm, h0, p0, p1, p2, p3, p4⟩ := layout1 0x06280000 0x03 5 rfl (by decide) (by decide) g d a b i
  refine oneWord rfl (noExtension hm rfl) ?_
  rw [decodeWord, hm, decodeRow0, hm]
  simp only [decode03, h0, p0, p1, p2, p3, p4]
  rfl

theorem sAlu2Maxn (g : BitVec 3) (d : BitVec 6) (a : BitVec 6) (b : BitVec 6) (i : BitVec 1) : Statement (.sAlu2Maxn g d a b i) := by
  obtain ⟨hm, h0, p0, p1, p2, p3, p4⟩ := layout1 0x06300000 0x03 6 rfl (by decide) (by decide) g d a b i
  refine oneWord rfl (noExtension hm rfl) ?_
  rw [decodeWord, hm, decodeRow0, hm]
  simp only [decode03, h0, p0, p1, p2, p3, p4]
  rfl

theorem sAlu2Rotr (g : BitVec 3) (d : BitVec 6) (a : BitVec 6) (b : BitVec 6) (i : BitVec 1) : Statement (.sAlu2Rotr g d a b i) := by
  obtain ⟨hm, h0, p0, p1, p2, p3, p4⟩ := layout1 0x06380000 0x03 7 rfl (by decide) (by decide) g d a b i
  refine oneWord rfl (noExtension hm rfl) ?_
  rw [decodeWord, hm, decodeRow0, hm]
  simp only [decode03, h0, p0, p1, p2, p3, p4]
  rfl

theorem sDivDivs (g : BitVec 3) (d : BitVec 6) (a : BitVec 6) (b : BitVec 6) (i : BitVec 1) : Statement (.sDivDivs g d a b i) := by
  obtain ⟨hm, h0, p0, p1, p2, p3, p4⟩ := layout1 0x08000000 0x04 0 rfl (by decide) (by decide) g d a b i
  refine oneWord rfl (noExtension hm rfl) ?_
  rw [decodeWord, hm, decodeRow0, hm]
  simp only [decode04, h0, p0, p1, p2, p3, p4]
  rfl

theorem sDivDivn (g : BitVec 3) (d : BitVec 6) (a : BitVec 6) (b : BitVec 6) (i : BitVec 1) : Statement (.sDivDivn g d a b i) := by
  obtain ⟨hm, h0, p0, p1, p2, p3, p4⟩ := layout1 0x08080000 0x04 1 rfl (by decide) (by decide) g d a b i
  refine oneWord rfl (noExtension hm rfl) ?_
  rw [decodeWord, hm, decodeRow0, hm]
  simp only [decode04, h0, p0, p1, p2, p3, p4]
  rfl

theorem sDivRems (g : BitVec 3) (d : BitVec 6) (a : BitVec 6) (b : BitVec 6) (i : BitVec 1) : Statement (.sDivRems g d a b i) := by
  obtain ⟨hm, h0, p0, p1, p2, p3, p4⟩ := layout1 0x08100000 0x04 2 rfl (by decide) (by decide) g d a b i
  refine oneWord rfl (noExtension hm rfl) ?_
  rw [decodeWord, hm, decodeRow0, hm]
  simp only [decode04, h0, p0, p1, p2, p3, p4]
  rfl

theorem sDivRemn (g : BitVec 3) (d : BitVec 6) (a : BitVec 6) (b : BitVec 6) (i : BitVec 1) : Statement (.sDivRemn g d a b i) := by
  obtain ⟨hm, h0, p0, p1, p2, p3, p4⟩ := layout1 0x08180000 0x04 3 rfl (by decide) (by decide) g d a b i
  refine oneWord rfl (noExtension hm rfl) ?_
  rw [decodeWord, hm, decodeRow0, hm]
  simp only [decode04, h0, p0, p1, p2, p3, p4]
  rfl

theorem sAddi (g : BitVec 3) (d : BitVec 6) (a : BitVec 6) (i : BitVec 10) : Statement (.sAddi g d a i) := by
  obtain ⟨hm, p0, p1, p2, p3⟩ := layout2 0x0A000000 0x05 rfl (by decide) g d a i
  refine oneWord rfl (noExtension hm rfl) ?_
  rw [decodeWord, hm, decodeRow0, hm]
  simp only [decode05, p0, p1, p2, p3]

theorem sAndi (g : BitVec 3) (d : BitVec 6) (a : BitVec 6) (i : BitVec 10) : Statement (.sAndi g d a i) := by
  obtain ⟨hm, p0, p1, p2, p3⟩ := layout2 0x0C000000 0x06 rfl (by decide) g d a i
  refine oneWord rfl (noExtension hm rfl) ?_
  rw [decodeWord, hm, decodeRow0, hm]
  simp only [decode06, p0, p1, p2, p3]

theorem sOri (g : BitVec 3) (d : BitVec 6) (a : BitVec 6) (i : BitVec 10) : Statement (.sOri g d a i) := by
  obtain ⟨hm, p0, p1, p2, p3⟩ := layout2 0x0E000000 0x07 rfl (by decide) g d a i
  refine oneWord rfl (noExtension hm rfl) ?_
  rw [decodeWord, hm, decodeRow0, hm]
  simp only [decode07, p0, p1, p2, p3]

theorem sXori (g : BitVec 3) (d : BitVec 6) (a : BitVec 6) (i : BitVec 10) : Statement (.sXori g d a i) := by
  obtain ⟨hm, p0, p1, p2, p3⟩ := layout2 0x10000000 0x08 rfl (by decide) g d a i
  refine oneWord rfl (noExtension hm rfl) ?_
  rw [decodeWord, hm, decodeRow0, hm]
  simp only [decode08, p0, p1, p2, p3]

theorem sMovi (g : BitVec 3) (d : BitVec 6) (i : BitVec 16) : Statement (.sMovi g d i) := by
  obtain ⟨hm, p0, p1, p2⟩ := layout3 0x12000000 0x09 rfl (by decide) g d i
  refine oneWord rfl (noExtension hm rfl) ?_
  rw [decodeWord, hm, decodeRow0, hm]
  simp only [decode09, p0, p1, p2]

theorem sMovk (h : BitVec 2) (d : BitVec 6) (i : BitVec 16) : Statement (.sMovk h d i) := by
  obtain ⟨hm, h0, p0, p1, p2⟩ := layout4 0x14000000 0x0A 0 rfl (by decide) (by decide) h d i
  refine oneWord rfl (noExtension hm rfl) ?_
  rw [decodeWord, hm, decodeRow0, hm]
  simp only [decode0A, h0, p0, p1, p2]
  rfl

theorem sCmpEq (g : BitVec 3) (p : BitVec 3) (a : BitVec 6) (b : BitVec 6) (i : BitVec 1) : Statement (.sCmpEq g p a b i) := by
  obtain ⟨hm, h0, p0, p1, p2, p3, p4⟩ := layout5 0x16000000 0x0B 0 rfl (by decide) (by decide) g p a b i
  refine oneWord rfl (noExtension hm rfl) ?_
  rw [decodeWord, hm, decodeRow0, hm]
  simp only [decode0B, h0, p0, p1, p2, p3, p4]
  rfl

theorem sCmpNe (g : BitVec 3) (p : BitVec 3) (a : BitVec 6) (b : BitVec 6) (i : BitVec 1) : Statement (.sCmpNe g p a b i) := by
  obtain ⟨hm, h0, p0, p1, p2, p3, p4⟩ := layout5 0x16080000 0x0B 8 rfl (by decide) (by decide) g p a b i
  refine oneWord rfl (noExtension hm rfl) ?_
  rw [decodeWord, hm, decodeRow0, hm]
  simp only [decode0B, h0, p0, p1, p2, p3, p4]
  rfl

theorem sCmpLts (g : BitVec 3) (p : BitVec 3) (a : BitVec 6) (b : BitVec 6) (i : BitVec 1) : Statement (.sCmpLts g p a b i) := by
  obtain ⟨hm, h0, p0, p1, p2, p3, p4⟩ := layout5 0x16100000 0x0B 16 rfl (by decide) (by decide) g p a b i
  refine oneWord rfl (noExtension hm rfl) ?_
  rw [decodeWord, hm, decodeRow0, hm]
  simp only [decode0B, h0, p0, p1, p2, p3, p4]
  rfl

theorem sCmpLes (g : BitVec 3) (p : BitVec 3) (a : BitVec 6) (b : BitVec 6) (i : BitVec 1) : Statement (.sCmpLes g p a b i) := by
  obtain ⟨hm, h0, p0, p1, p2, p3, p4⟩ := layout5 0x16180000 0x0B 24 rfl (by decide) (by decide) g p a b i
  refine oneWord rfl (noExtension hm rfl) ?_
  rw [decodeWord, hm, decodeRow0, hm]
  simp only [decode0B, h0, p0, p1, p2, p3, p4]
  rfl

theorem sCmpLtn (g : BitVec 3) (p : BitVec 3) (a : BitVec 6) (b : BitVec 6) (i : BitVec 1) : Statement (.sCmpLtn g p a b i) := by
  obtain ⟨hm, h0, p0, p1, p2, p3, p4⟩ := layout5 0x16200000 0x0B 32 rfl (by decide) (by decide) g p a b i
  refine oneWord rfl (noExtension hm rfl) ?_
  rw [decodeWord, hm, decodeRow0, hm]
  simp only [decode0B, h0, p0, p1, p2, p3, p4]
  rfl

theorem sCmpLen (g : BitVec 3) (p : BitVec 3) (a : BitVec 6) (b : BitVec 6) (i : BitVec 1) : Statement (.sCmpLen g p a b i) := by
  obtain ⟨hm, h0, p0, p1, p2, p3, p4⟩ := layout5 0x16280000 0x0B 40 rfl (by decide) (by decide) g p a b i
  refine oneWord rfl (noExtension hm rfl) ?_
  rw [decodeWord, hm, decodeRow0, hm]
  simp only [decode0B, h0, p0, p1, p2, p3, p4]
  rfl

theorem sCmpTst (g : BitVec 3) (p : BitVec 3) (a : BitVec 6) (b : BitVec 6) (i : BitVec 1) : Statement (.sCmpTst g p a b i) := by
  obtain ⟨hm, h0, p0, p1, p2, p3, p4⟩ := layout5 0x16300000 0x0B 48 rfl (by decide) (by decide) g p a b i
  refine oneWord rfl (noExtension hm rfl) ?_
  rw [decodeWord, hm, decodeRow0, hm]
  simp only [decode0B, h0, p0, p1, p2, p3, p4]
  rfl

theorem sCmpNtst (g : BitVec 3) (p : BitVec 3) (a : BitVec 6) (b : BitVec 6) (i : BitVec 1) : Statement (.sCmpNtst g p a b i) := by
  obtain ⟨hm, h0, p0, p1, p2, p3, p4⟩ := layout5 0x16380000 0x0B 56 rfl (by decide) (by decide) g p a b i
  refine oneWord rfl (noExtension hm rfl) ?_
  rw [decodeWord, hm, decodeRow0, hm]
  simp only [decode0B, h0, p0, p1, p2, p3, p4]
  rfl

theorem sCmpiEq (g : BitVec 3) (p : BitVec 3) (a : BitVec 6) (i : BitVec 10) : Statement (.sCmpiEq g p a i) := by
  obtain ⟨hm, h0, p0, p1, p2, p3⟩ := layout6 0x18000000 0x0C 0 rfl (by decide) (by decide) g p a i
  refine oneWord rfl (noExtension hm rfl) ?_
  rw [decodeWord, hm, decodeRow0, hm]
  simp only [decode0C, h0, p0, p1, p2, p3]
  rfl

theorem sCmpiNe (g : BitVec 3) (p : BitVec 3) (a : BitVec 6) (i : BitVec 10) : Statement (.sCmpiNe g p a i) := by
  obtain ⟨hm, h0, p0, p1, p2, p3⟩ := layout6 0x18080000 0x0C 1 rfl (by decide) (by decide) g p a i
  refine oneWord rfl (noExtension hm rfl) ?_
  rw [decodeWord, hm, decodeRow0, hm]
  simp only [decode0C, h0, p0, p1, p2, p3]
  rfl

theorem sCmpiLts (g : BitVec 3) (p : BitVec 3) (a : BitVec 6) (i : BitVec 10) : Statement (.sCmpiLts g p a i) := by
  obtain ⟨hm, h0, p0, p1, p2, p3⟩ := layout6 0x18100000 0x0C 2 rfl (by decide) (by decide) g p a i
  refine oneWord rfl (noExtension hm rfl) ?_
  rw [decodeWord, hm, decodeRow0, hm]
  simp only [decode0C, h0, p0, p1, p2, p3]
  rfl

theorem sCmpiLes (g : BitVec 3) (p : BitVec 3) (a : BitVec 6) (i : BitVec 10) : Statement (.sCmpiLes g p a i) := by
  obtain ⟨hm, h0, p0, p1, p2, p3⟩ := layout6 0x18180000 0x0C 3 rfl (by decide) (by decide) g p a i
  refine oneWord rfl (noExtension hm rfl) ?_
  rw [decodeWord, hm, decodeRow0, hm]
  simp only [decode0C, h0, p0, p1, p2, p3]
  rfl

theorem sCmpiLtn (g : BitVec 3) (p : BitVec 3) (a : BitVec 6) (i : BitVec 10) : Statement (.sCmpiLtn g p a i) := by
  obtain ⟨hm, h0, p0, p1, p2, p3⟩ := layout6 0x18200000 0x0C 4 rfl (by decide) (by decide) g p a i
  refine oneWord rfl (noExtension hm rfl) ?_
  rw [decodeWord, hm, decodeRow0, hm]
  simp only [decode0C, h0, p0, p1, p2, p3]
  rfl

theorem sCmpiLen (g : BitVec 3) (p : BitVec 3) (a : BitVec 6) (i : BitVec 10) : Statement (.sCmpiLen g p a i) := by
  obtain ⟨hm, h0, p0, p1, p2, p3⟩ := layout6 0x18280000 0x0C 5 rfl (by decide) (by decide) g p a i
  refine oneWord rfl (noExtension hm rfl) ?_
  rw [decodeWord, hm, decodeRow0, hm]
  simp only [decode0C, h0, p0, p1, p2, p3]
  rfl

theorem sCmpiTst (g : BitVec 3) (p : BitVec 3) (a : BitVec 6) (i : BitVec 10) : Statement (.sCmpiTst g p a i) := by
  obtain ⟨hm, h0, p0, p1, p2, p3⟩ := layout6 0x18300000 0x0C 6 rfl (by decide) (by decide) g p a i
  refine oneWord rfl (noExtension hm rfl) ?_
  rw [decodeWord, hm, decodeRow0, hm]
  simp only [decode0C, h0, p0, p1, p2, p3]
  rfl

theorem sCmpiNtst (g : BitVec 3) (p : BitVec 3) (a : BitVec 6) (i : BitVec 10) : Statement (.sCmpiNtst g p a i) := by
  obtain ⟨hm, h0, p0, p1, p2, p3⟩ := layout6 0x18380000 0x0C 7 rfl (by decide) (by decide) g p a i
  refine oneWord rfl (noExtension hm rfl) ?_
  rw [decodeWord, hm, decodeRow0, hm]
  simp only [decode0C, h0, p0, p1, p2, p3]
  rfl

theorem pOpAnd (g : BitVec 3) (d : BitVec 3) (a : BitVec 3) (b : BitVec 3) : Statement (.pOpAnd g d a b) := by
  obtain ⟨hm, h0, h1, h2, h3, p0, p1, p2, p3⟩ := layout7 0x1A000000 0x0D 0 0 0 0 rfl (by decide) (by decide) (by decide) (by decide) (by decide) g d a b
  refine oneWord rfl (noExtension hm rfl) ?_
  rw [decodeWord, hm, decodeRow0, hm]
  simp only [decode0D, h0, h1, h2, h3, p0, p1, p2, p3]
  rfl

theorem pOpOr (g : BitVec 3) (d : BitVec 3) (a : BitVec 3) (b : BitVec 3) : Statement (.pOpOr g d a b) := by
  obtain ⟨hm, h0, h1, h2, h3, p0, p1, p2, p3⟩ := layout7 0x1A080000 0x0D 0 0 0 8 rfl (by decide) (by decide) (by decide) (by decide) (by decide) g d a b
  refine oneWord rfl (noExtension hm rfl) ?_
  rw [decodeWord, hm, decodeRow0, hm]
  simp only [decode0D, h0, h1, h2, h3, p0, p1, p2, p3]
  rfl

theorem pOpXor (g : BitVec 3) (d : BitVec 3) (a : BitVec 3) (b : BitVec 3) : Statement (.pOpXor g d a b) := by
  obtain ⟨hm, h0, h1, h2, h3, p0, p1, p2, p3⟩ := layout7 0x1A100000 0x0D 0 0 0 16 rfl (by decide) (by decide) (by decide) (by decide) (by decide) g d a b
  refine oneWord rfl (noExtension hm rfl) ?_
  rw [decodeWord, hm, decodeRow0, hm]
  simp only [decode0D, h0, h1, h2, h3, p0, p1, p2, p3]
  rfl

theorem pOpAndn (g : BitVec 3) (d : BitVec 3) (a : BitVec 3) (b : BitVec 3) : Statement (.pOpAndn g d a b) := by
  obtain ⟨hm, h0, h1, h2, h3, p0, p1, p2, p3⟩ := layout7 0x1A180000 0x0D 0 0 0 24 rfl (by decide) (by decide) (by decide) (by decide) (by decide) g d a b
  refine oneWord rfl (noExtension hm rfl) ?_
  rw [decodeWord, hm, decodeRow0, hm]
  simp only [decode0D, h0, h1, h2, h3, p0, p1, p2, p3]
  rfl

theorem pOpOrn (g : BitVec 3) (d : BitVec 3) (a : BitVec 3) (b : BitVec 3) : Statement (.pOpOrn g d a b) := by
  obtain ⟨hm, h0, h1, h2, h3, p0, p1, p2, p3⟩ := layout7 0x1A200000 0x0D 0 0 0 32 rfl (by decide) (by decide) (by decide) (by decide) (by decide) g d a b
  refine oneWord rfl (noExtension hm rfl) ?_
  rw [decodeWord, hm, decodeRow0, hm]
  simp only [decode0D, h0, h1, h2, h3, p0, p1, p2, p3]
  rfl

theorem pOpMov (g : BitVec 3) (d : BitVec 3) (a : BitVec 3) : Statement (.pOpMov g d a) := by
  obtain ⟨hm, h0, h1, h2, p0, p1, p2⟩ := layout8 0x1A280000 0x0D 0 0 40 rfl (by decide) (by decide) (by decide) (by decide) g d a
  refine oneWord rfl (noExtension hm rfl) ?_
  rw [decodeWord, hm, decodeRow0, hm]
  simp only [decode0D, h0, h1, h2, p0, p1, p2]
  simp

theorem pOpSet (g : BitVec 3) (d : BitVec 3) : Statement (.pOpSet g d) := by
  obtain ⟨hm, h0, h1, p0, p1⟩ := layout9 0x1A300000 0x0D 48 rfl (by decide) (by decide) g d
  refine oneWord rfl (noExtension hm rfl) ?_
  rw [decodeWord, hm, decodeRow0, hm]
  simp only [decode0D, h0, h1, p0, p1]
  simp

theorem pOpClr (g : BitVec 3) (d : BitVec 3) : Statement (.pOpClr g d) := by
  obtain ⟨hm, h0, h1, p0, p1⟩ := layout9 0x1A380000 0x0D 56 rfl (by decide) (by decide) g d
  refine oneWord rfl (noExtension hm rfl) ?_
  rw [decodeWord, hm, decodeRow0, hm]
  simp only [decode0D, h0, h1, p0, p1]
  simp

theorem sSel (g : BitVec 3) (p : BitVec 3) (d : BitVec 6) (a : BitVec 6) (b : BitVec 6) (i : BitVec 1) : Statement (.sSel g p d a b i) := by
  obtain ⟨hm, p0, p1, p2, p3, p4, p5⟩ := layout10 0x1C000000 0x0E rfl (by decide) g p d a b i
  refine oneWord rfl (noExtension hm rfl) ?_
  rw [decodeWord, hm, decodeRow0, hm]
  simp only [decode0E, p0, p1, p2, p3, p4, p5]

theorem sBitExtz (g : BitVec 3) (d : BitVec 6) (a : BitVec 6) (b : BitVec 6) : Statement (.sBitExtz g d a b) := by
  obtain ⟨hm, h0, h1, p0, p1, p2, p3⟩ := layout11 0x1E000000 0x0F 0 0 rfl (by decide) (by decide) (by decide) g d a b
  refine oneWord rfl (noExtension hm rfl) ?_
  rw [decodeWord, hm, decodeRow0, hm]
  simp only [decode0F, h0, h1, p0, p1, p2, p3]
  rfl

theorem sBitExts (g : BitVec 3) (d : BitVec 6) (a : BitVec 6) (b : BitVec 6) : Statement (.sBitExts g d a b) := by
  obtain ⟨hm, h0, h1, p0, p1, p2, p3⟩ := layout11 0x1E080000 0x0F 0 1 rfl (by decide) (by decide) (by decide) g d a b
  refine oneWord rfl (noExtension hm rfl) ?_
  rw [decodeWord, hm, decodeRow0, hm]
  simp only [decode0F, h0, h1, p0, p1, p2, p3]
  rfl

theorem sBitIns (g : BitVec 3) (d : BitVec 6) (a : BitVec 6) (b : BitVec 6) : Statement (.sBitIns g d a b) := by
  obtain ⟨hm, h0, h1, p0, p1, p2, p3⟩ := layout11 0x1E100000 0x0F 0 2 rfl (by decide) (by decide) (by decide) g d a b
  refine oneWord rfl (noExtension hm rfl) ?_
  rw [decodeWord, hm, decodeRow0, hm]
  simp only [decode0F, h0, h1, p0, p1, p2, p3]
  rfl

theorem sBitClz (g : BitVec 3) (d : BitVec 6) (a : BitVec 6) : Statement (.sBitClz g d a) := by
  obtain ⟨hm, h0, h1, p0, p1, p2⟩ := layout12 0x1E180000 0x0F 0 3 rfl (by decide) (by decide) (by decide) g d a
  refine oneWord rfl (noExtension hm rfl) ?_
  rw [decodeWord, hm, decodeRow0, hm]
  simp only [decode0F, h0, h1, p0, p1, p2]
  simp

theorem sBitCtz (g : BitVec 3) (d : BitVec 6) (a : BitVec 6) : Statement (.sBitCtz g d a) := by
  obtain ⟨hm, h0, h1, p0, p1, p2⟩ := layout12 0x1E200000 0x0F 0 4 rfl (by decide) (by decide) (by decide) g d a
  refine oneWord rfl (noExtension hm rfl) ?_
  rw [decodeWord, hm, decodeRow0, hm]
  simp only [decode0F, h0, h1, p0, p1, p2]
  simp

theorem sBitPopc (g : BitVec 3) (d : BitVec 6) (a : BitVec 6) : Statement (.sBitPopc g d a) := by
  obtain ⟨hm, h0, h1, p0, p1, p2⟩ := layout12 0x1E280000 0x0F 0 5 rfl (by decide) (by decide) (by decide) g d a
  refine oneWord rfl (noExtension hm rfl) ?_
  rw [decodeWord, hm, decodeRow0, hm]
  simp only [decode0F, h0, h1, p0, p1, p2]
  simp

theorem sBitRev (g : BitVec 3) (d : BitVec 6) (a : BitVec 6) : Statement (.sBitRev g d a) := by
  obtain ⟨hm, h0, h1, p0, p1, p2⟩ := layout12 0x1E300000 0x0F 0 6 rfl (by decide) (by decide) (by decide) g d a
  refine oneWord rfl (noExtension hm rfl) ?_
  rw [decodeWord, hm, decodeRow0, hm]
  simp only [decode0F, h0, h1, p0, p1, p2]
  simp

theorem sBitBswap (g : BitVec 3) (d : BitVec 6) (a : BitVec 6) : Statement (.sBitBswap g d a) := by
  obtain ⟨hm, h0, h1, p0, p1, p2⟩ := layout12 0x1E380000 0x0F 0 7 rfl (by decide) (by decide) (by decide) g d a
  refine oneWord rfl (noExtension hm rfl) ?_
  rw [decodeWord, hm, decodeRow0, hm]
  simp only [decode0F, h0, h1, p0, p1, p2]
  simp

theorem b (g : BitVec 3) (o : BitVec 22) : Statement (.b g o) := by
  obtain ⟨hm, p0, p1⟩ := layout13 0x20000000 0x10 rfl (by decide) g o
  refine oneWord rfl (noExtension hm rfl) ?_
  rw [decodeWord, hm, decodeRow1, hm]
  simp only [decode10, p0, p1]

theorem bInd (g : BitVec 3) (a : BitVec 6) (i : BitVec 10) : Statement (.bInd g a i) := by
  obtain ⟨hm, h0, p0, p1, p2⟩ := layout14 0x22000000 0x11 0 rfl (by decide) (by decide) g a i
  refine oneWord rfl (noExtension hm rfl) ?_
  rw [decodeWord, hm, decodeRow1, hm]
  simp only [decode11, h0, p0, p1, p2]
  rfl

theorem call (g : BitVec 3) (o : BitVec 22) : Statement (.call g o) := by
  obtain ⟨hm, p0, p1⟩ := layout13 0x24000000 0x12 rfl (by decide) g o
  refine oneWord rfl (noExtension hm rfl) ?_
  rw [decodeWord, hm, decodeRow1, hm]
  simp only [decode12, p0, p1]

theorem callInd (g : BitVec 3) (a : BitVec 6) (i : BitVec 10) : Statement (.callInd g a i) := by
  obtain ⟨hm, h0, p0, p1, p2⟩ := layout14 0x26000000 0x13 0 rfl (by decide) (by decide) g a i
  refine oneWord rfl (noExtension hm rfl) ?_
  rw [decodeWord, hm, decodeRow1, hm]
  simp only [decode13, h0, p0, p1, p2]
  rfl

theorem callLane (g : BitVec 3) (a : BitVec 6) (e : BitVec 1) : Statement (.callLane g a e) := by
  obtain ⟨hm, h0, h1, p0, p1, p2⟩ := layout15 0x28380000 0x14 0 448 rfl (by decide) (by decide) (by decide) g a e
  refine oneWord rfl (noExtension hm rfl) ?_
  rw [decodeWord, hm, decodeRow1, hm]
  simp only [decode14, h0, h1, p0, p1, p2]
  rfl

theorem ret (g : BitVec 3) : Statement (.ret g) := by
  obtain ⟨hm, h0, p0⟩ := layout0 0x2A000000 0x15 rfl (by decide) g
  refine oneWord rfl (noExtension hm rfl) ?_
  rw [decodeWord, hm, decodeRow1, hm]
  simp only [decode15, h0, p0]
  rfl

theorem sLd (g : BitVec 3) (z : BitVec 3) (d : BitVec 6) (a : BitVec 6) (o : BitVec 7) : Statement (.sLd g z d a o) := by
  obtain ⟨hm, p0, p1, p2, p3, p4⟩ := layout16 0x2C000000 0x16 rfl (by decide) g z d a o
  refine oneWord rfl (noExtension hm rfl) ?_
  rw [decodeWord, hm, decodeRow1, hm]
  simp only [decode16, p0, p1, p2, p3, p4]

theorem sSt (g : BitVec 3) (z : BitVec 3) (d : BitVec 6) (a : BitVec 6) (o : BitVec 7) : Statement (.sSt g z d a o) := by
  obtain ⟨hm, p0, p1, p2, p3, p4⟩ := layout16 0x2E000000 0x17 rfl (by decide) g z d a o
  refine oneWord rfl (noExtension hm rfl) ?_
  rw [decodeWord, hm, decodeRow1, hm]
  simp only [decode17, p0, p1, p2, p3, p4]

theorem sAmoAdd (g : BitVec 3) (d : BitVec 6) (a : BitVec 6) (b : BitVec 6) : Statement (.sAmoAdd g d a b) := by
  obtain ⟨hm, h0, h1, p0, p1, p2, p3⟩ := layout11 0x30000000 0x18 0 0 rfl (by decide) (by decide) (by decide) g d a b
  refine oneWord rfl (noExtension hm rfl) ?_
  rw [decodeWord, hm, decodeRow1, hm]
  simp only [decode18, h0, h1, p0, p1, p2, p3]
  rfl

theorem sAmoAnd (g : BitVec 3) (d : BitVec 6) (a : BitVec 6) (b : BitVec 6) : Statement (.sAmoAnd g d a b) := by
  obtain ⟨hm, h0, h1, p0, p1, p2, p3⟩ := layout11 0x30080000 0x18 0 1 rfl (by decide) (by decide) (by decide) g d a b
  refine oneWord rfl (noExtension hm rfl) ?_
  rw [decodeWord, hm, decodeRow1, hm]
  simp only [decode18, h0, h1, p0, p1, p2, p3]
  rfl

theorem sAmoOr (g : BitVec 3) (d : BitVec 6) (a : BitVec 6) (b : BitVec 6) : Statement (.sAmoOr g d a b) := by
  obtain ⟨hm, h0, h1, p0, p1, p2, p3⟩ := layout11 0x30100000 0x18 0 2 rfl (by decide) (by decide) (by decide) g d a b
  refine oneWord rfl (noExtension hm rfl) ?_
  rw [decodeWord, hm, decodeRow1, hm]
  simp only [decode18, h0, h1, p0, p1, p2, p3]
  rfl

theorem sAmoXor (g : BitVec 3) (d : BitVec 6) (a : BitVec 6) (b : BitVec 6) : Statement (.sAmoXor g d a b) := by
  obtain ⟨hm, h0, h1, p0, p1, p2, p3⟩ := layout11 0x30180000 0x18 0 3 rfl (by decide) (by decide) (by decide) g d a b
  refine oneWord rfl (noExtension hm rfl) ?_
  rw [decodeWord, hm, decodeRow1, hm]
  simp only [decode18, h0, h1, p0, p1, p2, p3]
  rfl

theorem sAmoMax (g : BitVec 3) (d : BitVec 6) (a : BitVec 6) (b : BitVec 6) : Statement (.sAmoMax g d a b) := by
  obtain ⟨hm, h0, h1, p0, p1, p2, p3⟩ := layout11 0x30200000 0x18 0 4 rfl (by decide) (by decide) (by decide) g d a b
  refine oneWord rfl (noExtension hm rfl) ?_
  rw [decodeWord, hm, decodeRow1, hm]
  simp only [decode18, h0, h1, p0, p1, p2, p3]
  rfl

theorem sAmoMin (g : BitVec 3) (d : BitVec 6) (a : BitVec 6) (b : BitVec 6) : Statement (.sAmoMin g d a b) := by
  obtain ⟨hm, h0, h1, p0, p1, p2, p3⟩ := layout11 0x30280000 0x18 0 5 rfl (by decide) (by decide) (by decide) g d a b
  refine oneWord rfl (noExtension hm rfl) ?_
  rw [decodeWord, hm, decodeRow1, hm]
  simp only [decode18, h0, h1, p0, p1, p2, p3]
  rfl

theorem sAmoXchg (g : BitVec 3) (d : BitVec 6) (a : BitVec 6) (b : BitVec 6) : Statement (.sAmoXchg g d a b) := by
  obtain ⟨hm, h0, h1, p0, p1, p2, p3⟩ := layout11 0x30300000 0x18 0 6 rfl (by decide) (by decide) (by decide) g d a b
  refine oneWord rfl (noExtension hm rfl) ?_
  rw [decodeWord, hm, decodeRow1, hm]
  simp only [decode18, h0, h1, p0, p1, p2, p3]
  rfl

theorem sAmoCas (g : BitVec 3) (d : BitVec 6) (a : BitVec 6) (b : BitVec 6) : Statement (.sAmoCas g d a b) := by
  obtain ⟨hm, h0, h1, p0, p1, p2, p3⟩ := layout11 0x30380000 0x18 0 7 rfl (by decide) (by decide) (by decide) g d a b
  refine oneWord rfl (noExtension hm rfl) ?_
  rw [decodeWord, hm, decodeRow1, hm]
  simp only [decode18, h0, h1, p0, p1, p2, p3]
  rfl

theorem sLeaGstore (g : BitVec 3) (d : BitVec 6) (a : BitVec 6) (o : BitVec 8) : Statement (.sLeaGstore g d a o) := by
  obtain ⟨hm, h0, p0, p1, p2, p3⟩ := layout17 0x32000000 0x19 0 rfl (by decide) (by decide) g d a o
  refine oneWord rfl (noExtension hm rfl) ?_
  rw [decodeWord, hm, decodeRow1, hm]
  simp only [decode19, h0, p0, p1, p2, p3]
  rfl

theorem sLeaSpill (g : BitVec 3) (d : BitVec 6) (a : BitVec 6) (o : BitVec 8) : Statement (.sLeaSpill g d a o) := by
  obtain ⟨hm, h0, p0, p1, p2, p3⟩ := layout17 0x32000100 0x19 1 rfl (by decide) (by decide) g d a o
  refine oneWord rfl (noExtension hm rfl) ?_
  rw [decodeWord, hm, decodeRow1, hm]
  simp only [decode19, h0, p0, p1, p2, p3]
  rfl

theorem sLeaClause (g : BitVec 3) (d : BitVec 6) (a : BitVec 6) (o : BitVec 8) : Statement (.sLeaClause g d a o) := by
  obtain ⟨hm, h0, p0, p1, p2, p3⟩ := layout17 0x32000200 0x19 2 rfl (by decide) (by decide) g d a o
  refine oneWord rfl (noExtension hm rfl) ?_
  rw [decodeWord, hm, decodeRow1, hm]
  simp only [decode19, h0, p0, p1, p2, p3]
  rfl

theorem trap (g : BitVec 3) (c : BitVec 16) : Statement (.trap g c) := by
  obtain ⟨hm, h0, p0, p1⟩ := layout18 0x34000000 0x1A 0 rfl (by decide) (by decide) g c
  refine oneWord rfl (noExtension hm rfl) ?_
  rw [decodeWord, hm, decodeRow1, hm]
  simp only [decode1A, h0, p0, p1]
  rfl

theorem crRd (g : BitVec 3) (d : BitVec 6) (n : BitVec 10) : Statement (.crRd g d n) := by
  obtain ⟨hm, h0, p0, p1, p2⟩ := layout19 0x38000000 0x1C 0 rfl (by decide) (by decide) g d n
  refine oneWord rfl (noExtension hm rfl) ?_
  rw [decodeWord, hm, decodeRow1, hm]
  simp only [decode1C, h0, p0, p1, p2]
  rfl

theorem crWr (g : BitVec 3) (a : BitVec 6) (n : BitVec 10) : Statement (.crWr g a n) := by
  obtain ⟨hm, h0, p0, p1, p2⟩ := layout14 0x3A000000 0x1D 0 rfl (by decide) (by decide) g a n
  refine oneWord rfl (noExtension hm rfl) ?_
  rw [decodeWord, hm, decodeRow1, hm]
  simp only [decode1D, h0, p0, p1, p2]
  rfl

theorem launch (g : BitVec 3) (d : BitVec 6) (a : BitVec 6) : Statement (.launch g d a) := by
  obtain ⟨hm, h0, h1, p0, p1, p2⟩ := layout12 0x3E000000 0x1F 0 0 rfl (by decide) (by decide) (by decide) g d a
  refine oneWord rfl (noExtension hm rfl) ?_
  rw [decodeWord, hm, decodeRow1, hm]
  simp only [decode1F, h0, h1, p0, p1, p2]
  rfl

theorem lwait (g : BitVec 3) (d : BitVec 6) (a : BitVec 6) : Statement (.lwait g d a) := by
  obtain ⟨hm, h0, h1, p0, p1, p2⟩ := layout12 0x3E080000 0x1F 0 1 rfl (by decide) (by decide) (by decide) g d a
  refine oneWord rfl (noExtension hm rfl) ?_
  rw [decodeWord, hm, decodeRow1, hm]
  simp only [decode1F, h0, h1, p0, p1, p2]
  rfl

theorem launchCtx (g : BitVec 3) (d : BitVec 6) (a : BitVec 6) : Statement (.launchCtx g d a) := by
  obtain ⟨hm, h0, h1, p0, p1, p2⟩ := layout12 0x3E100000 0x1F 0 2 rfl (by decide) (by decide) (by decide) g d a
  refine oneWord rfl (noExtension hm rfl) ?_
  rw [decodeWord, hm, decodeRow1, hm]
  simp only [decode1F, h0, h1, p0, p1, p2]
  rfl

theorem vAdd (g : BitVec 3) (t : BitVec 3) (d : BitVec 6) (a : BitVec 6) (b : BitVec 6) (e : BitVec 1) : Statement (.vAdd g t d a b e) := by
  obtain ⟨hm, p0, p1, p2, p3, p4, p5⟩ := layout10 0x40000000 0x20 rfl (by decide) g t d a b e
  refine oneWord rfl (noExtension hm rfl) ?_
  rw [decodeWord, hm, decodeRow2, hm]
  simp only [decode20, p0, p1, p2, p3, p4, p5]

theorem vSub (g : BitVec 3) (t : BitVec 3) (d : BitVec 6) (a : BitVec 6) (b : BitVec 6) (e : BitVec 1) : Statement (.vSub g t d a b e) := by
  obtain ⟨hm, p0, p1, p2, p3, p4, p5⟩ := layout10 0x42000000 0x21 rfl (by decide) g t d a b e
  refine oneWord rfl (noExtension hm rfl) ?_
  rw [decodeWord, hm, decodeRow2, hm]
  simp only [decode21, p0, p1, p2, p3, p4, p5]

theorem vMul (g : BitVec 3) (t : BitVec 3) (d : BitVec 6) (a : BitVec 6) (b : BitVec 6) (e : BitVec 1) : Statement (.vMul g t d a b e) := by
  obtain ⟨hm, p0, p1, p2, p3, p4, p5⟩ := layout10 0x44000000 0x22 rfl (by decide) g t d a b e
  refine oneWord rfl (noExtension hm rfl) ?_
  rw [decodeWord, hm, decodeRow2, hm]
  simp only [decode22, p0, p1, p2, p3, p4, p5]

theorem vFma (g : BitVec 3) (t : BitVec 3) (d : BitVec 6) (a : BitVec 6) (b : BitVec 6) (e : BitVec 1) : Statement (.vFma g t d a b e) := by
  obtain ⟨hm, p0, p1, p2, p3, p4, p5⟩ := layout10 0x46000000 0x23 rfl (by decide) g t d a b e
  refine oneWord rfl (noExtension hm rfl) ?_
  rw [decodeWord, hm, decodeRow2, hm]
  simp only [decode23, p0, p1, p2, p3, p4, p5]

theorem vFnma (g : BitVec 3) (t : BitVec 3) (d : BitVec 6) (a : BitVec 6) (b : BitVec 6) (e : BitVec 1) : Statement (.vFnma g t d a b e) := by
  obtain ⟨hm, p0, p1, p2, p3, p4, p5⟩ := layout10 0x48000000 0x24 rfl (by decide) g t d a b e
  refine oneWord rfl (noExtension hm rfl) ?_
  rw [decodeWord, hm, decodeRow2, hm]
  simp only [decode24, p0, p1, p2, p3, p4, p5]

theorem vMin (g : BitVec 3) (t : BitVec 3) (d : BitVec 6) (a : BitVec 6) (b : BitVec 6) (e : BitVec 1) : Statement (.vMin g t d a b e) := by
  obtain ⟨hm, p0, p1, p2, p3, p4, p5⟩ := layout10 0x4A000000 0x25 rfl (by decide) g t d a b e
  refine oneWord rfl (noExtension hm rfl) ?_
  rw [decodeWord, hm, decodeRow2, hm]
  simp only [decode25, p0, p1, p2, p3, p4, p5]

theorem vMax (g : BitVec 3) (t : BitVec 3) (d : BitVec 6) (a : BitVec 6) (b : BitVec 6) (e : BitVec 1) : Statement (.vMax g t d a b e) := by
  obtain ⟨hm, p0, p1, p2, p3, p4, p5⟩ := layout10 0x4C000000 0x26 rfl (by decide) g t d a b e
  refine oneWord rfl (noExtension hm rfl) ?_
  rw [decodeWord, hm, decodeRow2, hm]
  simp only [decode26, p0, p1, p2, p3, p4, p5]

theorem vDiv (g : BitVec 3) (t : BitVec 3) (d : BitVec 6) (a : BitVec 6) (b : BitVec 6) (e : BitVec 1) : Statement (.vDiv g t d a b e) := by
  obtain ⟨hm, p0, p1, p2, p3, p4, p5⟩ := layout10 0x4E000000 0x27 rfl (by decide) g t d a b e
  refine oneWord rfl (noExtension hm rfl) ?_
  rw [decodeWord, hm, decodeRow2, hm]
  simp only [decode27, p0, p1, p2, p3, p4, p5]

theorem vRem (g : BitVec 3) (t : BitVec 3) (d : BitVec 6) (a : BitVec 6) (b : BitVec 6) (e : BitVec 1) : Statement (.vRem g t d a b e) := by
  obtain ⟨hm, p0, p1, p2, p3, p4, p5⟩ := layout10 0x50000000 0x28 rfl (by decide) g t d a b e
  refine oneWord rfl (noExtension hm rfl) ?_
  rw [decodeWord, hm, decodeRow2, hm]
  simp only [decode28, p0, p1, p2, p3, p4, p5]

theorem vSqrt (g : BitVec 3) (t : BitVec 3) (d : BitVec 6) (a : BitVec 6) (e : BitVec 1) : Statement (.vSqrt g t d a e) := by
  obtain ⟨hm, h0, p0, p1, p2, p3, p4⟩ := layout20 0x52000000 0x29 0 rfl (by decide) (by decide) g t d a e
  refine oneWord rfl (noExtension hm rfl) ?_
  rw [decodeWord, hm, decodeRow2, hm]
  simp only [decode29, h0, p0, p1, p2, p3, p4]
  rfl

theorem vAnd (g : BitVec 3) (t : BitVec 3) (d : BitVec 6) (a : BitVec 6) (b : BitVec 6) (e : BitVec 1) : Statement (.vAnd g t d a b e) := by
  obtain ⟨hm, p0, p1, p2, p3, p4, p5⟩ := layout10 0x54000000 0x2A rfl (by decide) g t d a b e
  refine oneWord rfl (noExtension hm rfl) ?_
  rw [decodeWord, hm, decodeRow2, hm]
  simp only [decode2A, p0, p1, p2, p3, p4, p5]

theorem vOr (g : BitVec 3) (t : BitVec 3) (d : BitVec 6) (a : BitVec 6) (b : BitVec 6) (e : BitVec 1) : Statement (.vOr g t d a b e) := by
  obtain ⟨hm, p0, p1, p2, p3, p4, p5⟩ := layout10 0x56000000 0x2B rfl (by decide) g t d a b e
  refine oneWord rfl (noExtension hm rfl) ?_
  rw [decodeWord, hm, decodeRow2, hm]
  simp only [decode2B, p0, p1, p2, p3, p4, p5]

theorem vXor (g : BitVec 3) (t : BitVec 3) (d : BitVec 6) (a : BitVec 6) (b : BitVec 6) (e : BitVec 1) : Statement (.vXor g t d a b e) := by
  obtain ⟨hm, p0, p1, p2, p3, p4, p5⟩ := layout10 0x58000000 0x2C rfl (by decide) g t d a b e
  refine oneWord rfl (noExtension hm rfl) ?_
  rw [decodeWord, hm, decodeRow2, hm]
  simp only [decode2C, p0, p1, p2, p3, p4, p5]

theorem vShl (g : BitVec 3) (t : BitVec 3) (d : BitVec 6) (a : BitVec 6) (b : BitVec 6) (e : BitVec 1) : Statement (.vShl g t d a b e) := by
  obtain ⟨hm, p0, p1, p2, p3, p4, p5⟩ := layout10 0x5A000000 0x2D rfl (by decide) g t d a b e
  refine oneWord rfl (noExtension hm rfl) ?_
  rw [decodeWord, hm, decodeRow2, hm]
  simp only [decode2D, p0, p1, p2, p3, p4, p5]

theorem vShr (g : BitVec 3) (t : BitVec 3) (d : BitVec 6) (a : BitVec 6) (b : BitVec 6) (e : BitVec 1) : Statement (.vShr g t d a b e) := by
  obtain ⟨hm, p0, p1, p2, p3, p4, p5⟩ := layout10 0x5C000000 0x2E rfl (by decide) g t d a b e
  refine oneWord rfl (noExtension hm rfl) ?_
  rw [decodeWord, hm, decodeRow2, hm]
  simp only [decode2E, p0, p1, p2, p3, p4, p5]

theorem vUnAbs (g : BitVec 3) (t : BitVec 3) (d : BitVec 6) (a : BitVec 6) (e : BitVec 1) : Statement (.vUnAbs g t d a e) := by
  obtain ⟨hm, h0, p0, p1, p2, p3, p4⟩ := layout20 0x5E000000 0x2F 0 rfl (by decide) (by decide) g t d a e
  refine oneWord rfl (noExtension hm rfl) ?_
  rw [decodeWord, hm, decodeRow2, hm]
  simp only [decode2F, h0, p0, p1, p2, p3, p4]
  rfl

theorem vUnNeg (g : BitVec 3) (t : BitVec 3) (d : BitVec 6) (a : BitVec 6) (e : BitVec 1) : Statement (.vUnNeg g t d a e) := by
  obtain ⟨hm, h0, p0, p1, p2, p3, p4⟩ := layout20 0x5E000002 0x2F 1 rfl (by decide) (by decide) g t d a e
  refine oneWord rfl (noExtension hm rfl) ?_
  rw [decodeWord, hm, decodeRow2, hm]
  simp only [decode2F, h0, p0, p1, p2, p3, p4]
  rfl

theorem vUnNot (g : BitVec 3) (t : BitVec 3) (d : BitVec 6) (a : BitVec 6) (e : BitVec 1) : Statement (.vUnNot g t d a e) := by
  obtain ⟨hm, h0, p0, p1, p2, p3, p4⟩ := layout20 0x5E000004 0x2F 2 rfl (by decide) (by decide) g t d a e
  refine oneWord rfl (noExtension hm rfl) ?_
  rw [decodeWord, hm, decodeRow2, hm]
  simp only [decode2F, h0, p0, p1, p2, p3, p4]
  rfl

theorem vUnPopc (g : BitVec 3) (t : BitVec 3) (d : BitVec 6) (a : BitVec 6) (e : BitVec 1) : Statement (.vUnPopc g t d a e) := by
  obtain ⟨hm, h0, p0, p1, p2, p3, p4⟩ := layout20 0x5E000006 0x2F 3 rfl (by decide) (by decide) g t d a e
  refine oneWord rfl (noExtension hm rfl) ?_
  rw [decodeWord, hm, decodeRow2, hm]
  simp only [decode2F, h0, p0, p1, p2, p3, p4]
  rfl

theorem vUnClz (g : BitVec 3) (t : BitVec 3) (d : BitVec 6) (a : BitVec 6) (e : BitVec 1) : Statement (.vUnClz g t d a e) := by
  obtain ⟨hm, h0, p0, p1, p2, p3, p4⟩ := layout20 0x5E000008 0x2F 4 rfl (by decide) (by decide) g t d a e
  refine oneWord rfl (noExtension hm rfl) ?_
  rw [decodeWord, hm, decodeRow2, hm]
  simp only [decode2F, h0, p0, p1, p2, p3, p4]
  rfl

theorem vUnCtz (g : BitVec 3) (t : BitVec 3) (d : BitVec 6) (a : BitVec 6) (e : BitVec 1) : Statement (.vUnCtz g t d a e) := by
  obtain ⟨hm, h0, p0, p1, p2, p3, p4⟩ := layout20 0x5E00000A 0x2F 5 rfl (by decide) (by decide) g t d a e
  refine oneWord rfl (noExtension hm rfl) ?_
  rw [decodeWord, hm, decodeRow2, hm]
  simp only [decode2F, h0, p0, p1, p2, p3, p4]
  rfl

theorem vUnBrev (g : BitVec 3) (t : BitVec 3) (d : BitVec 6) (a : BitVec 6) (e : BitVec 1) : Statement (.vUnBrev g t d a e) := by
  obtain ⟨hm, h0, p0, p1, p2, p3, p4⟩ := layout20 0x5E00000C 0x2F 6 rfl (by decide) (by decide) g t d a e
  refine oneWord rfl (noExtension hm rfl) ?_
  rw [decodeWord, hm, decodeRow2, hm]
  simp only [decode2F, h0, p0, p1, p2, p3, p4]
  rfl

theorem vUnRint (g : BitVec 3) (t : BitVec 3) (d : BitVec 6) (a : BitVec 6) (m : BitVec 2) (e : BitVec 1) : Statement (.vUnRint g t d a m e) := by
  obtain ⟨hm, h0, p0, p1, p2, p3, p4, p5⟩ := layout21 0x5E000010 0x2F 2 rfl (by decide) (by decide) g t d a m e
  refine oneWord rfl (noExtension hm rfl) ?_
  have hq := bits_upper (word 0x5E000010 [(g.toNat, 22), (t.toNat, 19), (d.toNat, 13), (a.toNat, 7), (m.toNat, 1), (e.toNat, 0)])
  rw [h0] at hq
  rw [decodeWord, hm, decodeRow2, hm]
  simp only [decode2F, h0, p0, p1, p2, p3, p4, p5, beq_iff_eq]
  rw [if_neg (by omega), if_neg (by omega), if_neg (by omega), if_neg (by omega), if_neg (by omega), if_neg (by omega), if_neg (by omega)]
  rfl

theorem vCmpEq (g : BitVec 3) (t : BitVec 3) (k : BitVec 3) (a : BitVec 6) (b : BitVec 6) (e : BitVec 1) : Statement (.vCmpEq g t k a b e) := by
  obtain ⟨hm, h0, p0, p1, p2, p3, p4, p5⟩ := layout22 0x60000000 0x30 0 rfl (by decide) (by decide) g t k a b e
  refine oneWord rfl (noExtension hm rfl) ?_
  rw [decodeWord, hm, decodeRow3, hm]
  simp only [decode30, h0, p0, p1, p2, p3, p4, p5]
  rfl

theorem vCmpNe (g : BitVec 3) (t : BitVec 3) (k : BitVec 3) (a : BitVec 6) (b : BitVec 6) (e : BitVec 1) : Statement (.vCmpNe g t k a b e) := by
  obtain ⟨hm, h0, p0, p1, p2, p3, p4, p5⟩ := layout22 0x60010000 0x30 1 rfl (by decide) (by decide) g t k a b e
  refine oneWord rfl (noExtension hm rfl) ?_
  rw [decodeWord, hm, decodeRow3, hm]
  simp only [decode30, h0, p0, p1, p2, p3, p4, p5]
  rfl

theorem vCmpLt (g : BitVec 3) (t : BitVec 3) (k : BitVec 3) (a : BitVec 6) (b : BitVec 6) (e : BitVec 1) : Statement (.vCmpLt g t k a b e) := by
  obtain ⟨hm, h0, p0, p1, p2, p3, p4, p5⟩ := layout22 0x60020000 0x30 2 rfl (by decide) (by decide) g t k a b e
  refine oneWord rfl (noExtension hm rfl) ?_
  rw [decodeWord, hm, decodeRow3, hm]
  simp only [decode30, h0, p0, p1, p2, p3, p4, p5]
  rfl

theorem vCmpLe (g : BitVec 3) (t : BitVec 3) (k : BitVec 3) (a : BitVec 6) (b : BitVec 6) (e : BitVec 1) : Statement (.vCmpLe g t k a b e) := by
  obtain ⟨hm, h0, p0, p1, p2, p3, p4, p5⟩ := layout22 0x60030000 0x30 3 rfl (by decide) (by decide) g t k a b e
  refine oneWord rfl (noExtension hm rfl) ?_
  rw [decodeWord, hm, decodeRow3, hm]
  simp only [decode30, h0, p0, p1, p2, p3, p4, p5]
  rfl

theorem vCmpGt (g : BitVec 3) (t : BitVec 3) (k : BitVec 3) (a : BitVec 6) (b : BitVec 6) (e : BitVec 1) : Statement (.vCmpGt g t k a b e) := by
  obtain ⟨hm, h0, p0, p1, p2, p3, p4, p5⟩ := layout22 0x60040000 0x30 4 rfl (by decide) (by decide) g t k a b e
  refine oneWord rfl (noExtension hm rfl) ?_
  rw [decodeWord, hm, decodeRow3, hm]
  simp only [decode30, h0, p0, p1, p2, p3, p4, p5]
  rfl

theorem vCmpGe (g : BitVec 3) (t : BitVec 3) (k : BitVec 3) (a : BitVec 6) (b : BitVec 6) (e : BitVec 1) : Statement (.vCmpGe g t k a b e) := by
  obtain ⟨hm, h0, p0, p1, p2, p3, p4, p5⟩ := layout22 0x60050000 0x30 5 rfl (by decide) (by decide) g t k a b e
  refine oneWord rfl (noExtension hm rfl) ?_
  rw [decodeWord, hm, decodeRow3, hm]
  simp only [decode30, h0, p0, p1, p2, p3, p4, p5]
  rfl

theorem vCmpsEq (g : BitVec 3) (t : BitVec 3) (d : BitVec 6) (a : BitVec 6) (b : BitVec 6) (e : BitVec 1) : Statement (.vCmpsEq g t d a b e) := by
  obtain ⟨hm, p0, p1, p2, p3, p4, p5⟩ := layout10 0x62000000 0x31 rfl (by decide) g t d a b e
  refine oneWord rfl (noExtension hm rfl) ?_
  rw [decodeWord, hm, decodeRow3, hm]
  simp only [decode31, p0, p1, p2, p3, p4, p5]

theorem vCmpsLt (g : BitVec 3) (t : BitVec 3) (d : BitVec 6) (a : BitVec 6) (b : BitVec 6) (e : BitVec 1) : Statement (.vCmpsLt g t d a b e) := by
  obtain ⟨hm, p0, p1, p2, p3, p4, p5⟩ := layout10 0x64000000 0x32 rfl (by decide) g t d a b e
  refine oneWord rfl (noExtension hm rfl) ?_
  rw [decodeWord, hm, decodeRow3, hm]
  simp only [decode32, p0, p1, p2, p3, p4, p5]

theorem vCmpsLe (g : BitVec 3) (t : BitVec 3) (d : BitVec 6) (a : BitVec 6) (b : BitVec 6) (e : BitVec 1) : Statement (.vCmpsLe g t d a b e) := by
  obtain ⟨hm, p0, p1, p2, p3, p4, p5⟩ := layout10 0x66000000 0x33 rfl (by decide) g t d a b e
  refine oneWord rfl (noExtension hm rfl) ?_
  rw [decodeWord, hm, decodeRow3, hm]
  simp only [decode33, p0, p1, p2, p3, p4, p5]

theorem vBsel (g : BitVec 3) (t : BitVec 3) (d : BitVec 6) (a : BitVec 6) (b : BitVec 6) (e : BitVec 1) : Statement (.vBsel g t d a b e) := by
  obtain ⟨hm, p0, p1, p2, p3, p4, p5⟩ := layout10 0x68000000 0x34 rfl (by decide) g t d a b e
  refine oneWord rfl (noExtension hm rfl) ?_
  rw [decodeWord, hm, decodeRow3, hm]
  simp only [decode34, p0, p1, p2, p3, p4, p5]

theorem vCvt (g : BitVec 3) (t : BitVec 3) (d : BitVec 6) (a : BitVec 6) (m : BitVec 2) (s : BitVec 3) (e : BitVec 1) : Statement (.vCvt g t d a m s e) := by
  obtain ⟨hm, h0, p0, p1, p2, p3, p4, p5, p6⟩ := layout23 0x6A000000 0x35 0 rfl (by decide) (by decide) g t d a m s e
  refine oneWord rfl (noExtension hm rfl) ?_
  rw [decodeWord, hm, decodeRow3, hm]
  simp only [decode35, h0, p0, p1, p2, p3, p4, p5, p6]
  rfl

theorem vMov (g : BitVec 3) (t : BitVec 3) (d : BitVec 6) (a : BitVec 6) (e : BitVec 1) : Statement (.vMov g t d a e) := by
  obtain ⟨hm, h0, p0, p1, p2, p3, p4⟩ := layout20 0x6C000000 0x36 0 rfl (by decide) (by decide) g t d a e
  refine oneWord rfl (noExtension hm rfl) ?_
  rw [decodeWord, hm, decodeRow3, hm]
  simp only [decode36, h0, p0, p1, p2, p3, p4]
  rfl

theorem vMovi (g : BitVec 3) (t : BitVec 3) (d : BitVec 6) (i : BitVec 13) : Statement (.vMovi g t d i) := by
  obtain ⟨hm, p0, p1, p2, p3⟩ := layout24 0x6E000000 0x37 rfl (by decide) g t d i
  refine oneWord rfl (noExtension hm rfl) ?_
  rw [decodeWord, hm, decodeRow3, hm]
  simp only [decode37, p0, p1, p2, p3]

theorem vBcs (g : BitVec 3) (t : BitVec 3) (d : BitVec 6) (a : BitVec 6) : Statement (.vBcs g t d a) := by
  obtain ⟨hm, h0, p0, p1, p2, p3⟩ := layout25 0x70000000 0x38 0 rfl (by decide) (by decide) g t d a
  refine oneWord rfl (noExtension hm rfl) ?_
  rw [decodeWord, hm, decodeRow3, hm]
  simp only [decode38, h0, p0, p1, p2, p3]
  rfl

theorem vSfuExp2 (g : BitVec 3) (t : BitVec 3) (d : BitVec 6) (a : BitVec 6) (e : BitVec 1) : Statement (.vSfuExp2 g t d a e) := by
  obtain ⟨hm, h0, p0, p1, p2, p3, p4⟩ := layout20 0x74000000 0x3A 0 rfl (by decide) (by decide) g t d a e
  refine oneWord rfl (noExtension hm rfl) ?_
  rw [decodeWord, hm, decodeRow3, hm]
  simp only [decode3A, h0, p0, p1, p2, p3, p4]
  rfl

theorem vSfuExpe (g : BitVec 3) (t : BitVec 3) (d : BitVec 6) (a : BitVec 6) (e : BitVec 1) : Statement (.vSfuExpe g t d a e) := by
  obtain ⟨hm, h0, p0, p1, p2, p3, p4⟩ := layout20 0x74000002 0x3A 1 rfl (by decide) (by decide) g t d a e
  refine oneWord rfl (noExtension hm rfl) ?_
  rw [decodeWord, hm, decodeRow3, hm]
  simp only [decode3A, h0, p0, p1, p2, p3, p4]
  rfl

theorem vSfuLog2 (g : BitVec 3) (t : BitVec 3) (d : BitVec 6) (a : BitVec 6) (e : BitVec 1) : Statement (.vSfuLog2 g t d a e) := by
  obtain ⟨hm, h0, p0, p1, p2, p3, p4⟩ := layout20 0x74000004 0x3A 2 rfl (by decide) (by decide) g t d a e
  refine oneWord rfl (noExtension hm rfl) ?_
  rw [decodeWord, hm, decodeRow3, hm]
  simp only [decode3A, h0, p0, p1, p2, p3, p4]
  rfl

theorem vSfuLoge (g : BitVec 3) (t : BitVec 3) (d : BitVec 6) (a : BitVec 6) (e : BitVec 1) : Statement (.vSfuLoge g t d a e) := by
  obtain ⟨hm, h0, p0, p1, p2, p3, p4⟩ := layout20 0x74000006 0x3A 3 rfl (by decide) (by decide) g t d a e
  refine oneWord rfl (noExtension hm rfl) ?_
  rw [decodeWord, hm, decodeRow3, hm]
  simp only [decode3A, h0, p0, p1, p2, p3, p4]
  rfl

theorem vSfuRcp (g : BitVec 3) (t : BitVec 3) (d : BitVec 6) (a : BitVec 6) (e : BitVec 1) : Statement (.vSfuRcp g t d a e) := by
  obtain ⟨hm, h0, p0, p1, p2, p3, p4⟩ := layout20 0x74000008 0x3A 4 rfl (by decide) (by decide) g t d a e
  refine oneWord rfl (noExtension hm rfl) ?_
  rw [decodeWord, hm, decodeRow3, hm]
  simp only [decode3A, h0, p0, p1, p2, p3, p4]
  rfl

theorem vSfuRsqrt (g : BitVec 3) (t : BitVec 3) (d : BitVec 6) (a : BitVec 6) (e : BitVec 1) : Statement (.vSfuRsqrt g t d a e) := by
  obtain ⟨hm, h0, p0, p1, p2, p3, p4⟩ := layout20 0x7400000A 0x3A 5 rfl (by decide) (by decide) g t d a e
  refine oneWord rfl (noExtension hm rfl) ?_
  rw [decodeWord, hm, decodeRow3, hm]
  simp only [decode3A, h0, p0, p1, p2, p3, p4]
  rfl

theorem vSfuSinpi (g : BitVec 3) (t : BitVec 3) (d : BitVec 6) (a : BitVec 6) (e : BitVec 1) : Statement (.vSfuSinpi g t d a e) := by
  obtain ⟨hm, h0, p0, p1, p2, p3, p4⟩ := layout20 0x7400000C 0x3A 6 rfl (by decide) (by decide) g t d a e
  refine oneWord rfl (noExtension hm rfl) ?_
  rw [decodeWord, hm, decodeRow3, hm]
  simp only [decode3A, h0, p0, p1, p2, p3, p4]
  rfl

theorem vSfuCospi (g : BitVec 3) (t : BitVec 3) (d : BitVec 6) (a : BitVec 6) (e : BitVec 1) : Statement (.vSfuCospi g t d a e) := by
  obtain ⟨hm, h0, p0, p1, p2, p3, p4⟩ := layout20 0x7400000E 0x3A 7 rfl (by decide) (by decide) g t d a e
  refine oneWord rfl (noExtension hm rfl) ?_
  rw [decodeWord, hm, decodeRow3, hm]
  simp only [decode3A, h0, p0, p1, p2, p3, p4]
  rfl

theorem vAct (g : BitVec 3) (t : BitVec 3) (d : BitVec 6) (a : BitVec 6) (n : BitVec 2) (e : BitVec 1) : Statement (.vAct g t d a n e) := by
  obtain ⟨hm, h0, p0, p1, p2, p3, p4, p5⟩ := layout21 0x76000000 0x3B 0 rfl (by decide) (by decide) g t d a n e
  refine oneWord rfl (noExtension hm rfl) ?_
  rw [decodeWord, hm, decodeRow3, hm]
  simp only [decode3B, h0, p0, p1, p2, p3, p4, p5]
  rfl

theorem actLd (g : BitVec 3) (n : BitVec 2) (a : BitVec 6) (b : BitVec 6) (e : BitVec 1) : Statement (.actLd g n a b e) := by
  obtain ⟨hm, h0, p0, p1, p2, p3, p4⟩ := layout26 0x78000000 0x3C 0 rfl (by decide) (by decide) g n a b e
  refine oneWord rfl (noExtension hm rfl) ?_
  rw [decodeWord, hm, decodeRow3, hm]
  simp only [decode3C, h0, p0, p1, p2, p3, p4]
  rfl

theorem vMulhi (g : BitVec 3) (t : BitVec 3) (d : BitVec 6) (a : BitVec 6) (b : BitVec 6) (e : BitVec 1) : Statement (.vMulhi g t d a b e) := by
  obtain ⟨hm, p0, p1, p2, p3, p4, p5⟩ := layout10 0x7A000000 0x3D rfl (by decide) g t d a b e
  refine oneWord rfl (noExtension hm rfl) ?_
  rw [decodeWord, hm, decodeRow3, hm]
  simp only [decode3D, p0, p1, p2, p3, p4, p5]

theorem vPack (g : BitVec 3) (t : BitVec 3) (d : BitVec 6) (a : BitVec 6) (b : BitVec 6) (e : BitVec 1) : Statement (.vPack g t d a b e) := by
  obtain ⟨hm, p0, p1, p2, p3, p4, p5⟩ := layout10 0x7C000000 0x3E rfl (by decide) g t d a b e
  refine oneWord rfl (noExtension hm rfl) ?_
  rw [decodeWord, hm, decodeRow3, hm]
  simp only [decode3E, p0, p1, p2, p3, p4, p5]

theorem vDot (g : BitVec 3) (t : BitVec 3) (d : BitVec 6) (a : BitVec 6) (b : BitVec 6) (e : BitVec 1) : Statement (.vDot g t d a b e) := by
  obtain ⟨hm, p0, p1, p2, p3, p4, p5⟩ := layout10 0x7E000000 0x3F rfl (by decide) g t d a b e
  refine oneWord rfl (noExtension hm rfl) ?_
  rw [decodeWord, hm, decodeRow3, hm]
  simp only [decode3F, p0, p1, p2, p3, p4, p5]

theorem xShfl (g : BitVec 3) (t : BitVec 3) (d : BitVec 6) (a : BitVec 6) (b : BitVec 6) (e : BitVec 1) : Statement (.xShfl g t d a b e) := by
  obtain ⟨hm, p0, p1, p2, p3, p4, p5⟩ := layout10 0x80000000 0x40 rfl (by decide) g t d a b e
  refine oneWord rfl (noExtension hm rfl) ?_
  rw [decodeWord, hm, decodeRow4, hm]
  simp only [decode40, p0, p1, p2, p3, p4, p5]

theorem xShfliXor (g : BitVec 3) (d : BitVec 6) (a : BitVec 6) (s : BitVec 5) : Statement (.xShfliXor g d a s) := by
  obtain ⟨hm, h0, h1, p0, p1, p2, p3⟩ := layout27 0x82380000 0x41 0 7 rfl (by decide) (by decide) (by decide) g d a s
  refine oneWord rfl (noExtension hm rfl) ?_
  rw [decodeWord, hm, decodeRow4, hm]
  simp only [decode41, h0, h1, p0, p1, p2, p3]
  rfl

theorem xShfliUp (g : BitVec 3) (d : BitVec 6) (a : BitVec 6) (s : BitVec 5) : Statement (.xShfliUp g d a s) := by
  obtain ⟨hm, h0, h1, p0, p1, p2, p3⟩ := layout27 0x82380020 0x41 1 7 rfl (by decide) (by decide) (by decide) g d a s
  refine oneWord rfl (noExtension hm rfl) ?_
  rw [decodeWord, hm, decodeRow4, hm]
  simp only [decode41, h0, h1, p0, p1, p2, p3]
  rfl

theorem xShfliDown (g : BitVec 3) (d : BitVec 6) (a : BitVec 6) (s : BitVec 5) : Statement (.xShfliDown g d a s) := by
  obtain ⟨hm, h0, h1, p0, p1, p2, p3⟩ := layout27 0x82380040 0x41 2 7 rfl (by decide) (by decide) (by decide) g d a s
  refine oneWord rfl (noExtension hm rfl) ?_
  rw [decodeWord, hm, decodeRow4, hm]
  simp only [decode41, h0, h1, p0, p1, p2, p3]
  rfl

theorem xShfliRot (g : BitVec 3) (d : BitVec 6) (a : BitVec 6) (s : BitVec 5) : Statement (.xShfliRot g d a s) := by
  obtain ⟨hm, h0, h1, p0, p1, p2, p3⟩ := layout27 0x82380060 0x41 3 7 rfl (by decide) (by decide) (by decide) g d a s
  refine oneWord rfl (noExtension hm rfl) ?_
  rw [decodeWord, hm, decodeRow4, hm]
  simp only [decode41, h0, h1, p0, p1, p2, p3]
  rfl

theorem xBcast (g : BitVec 3) (t : BitVec 3) (d : BitVec 6) (a : BitVec 6) (n : BitVec 6) (e : BitVec 1) : Statement (.xBcast g t d a n e) := by
  obtain ⟨hm, p0, p1, p2, p3, p4, p5⟩ := layout10 0x84000000 0x42 rfl (by decide) g t d a n e
  refine oneWord rfl (noExtension hm rfl) ?_
  rw [decodeWord, hm, decodeRow4, hm]
  simp only [decode42, p0, p1, p2, p3, p4, p5]

theorem xRedAdd (g : BitVec 3) (t : BitVec 3) (d : BitVec 6) (a : BitVec 6) (e : BitVec 1) : Statement (.xRedAdd g t d a e) := by
  obtain ⟨hm, h0, p0, p1, p2, p3, p4⟩ := layout20 0x86000000 0x43 0 rfl (by decide) (by decide) g t d a e
  refine oneWord rfl (noExtension hm rfl) ?_
  rw [decodeWord, hm, decodeRow4, hm]
  simp only [decode43, h0, p0, p1, p2, p3, p4]
  rfl

theorem xRedMin (g : BitVec 3) (t : BitVec 3) (d : BitVec 6) (a : BitVec 6) (e : BitVec 1) : Statement (.xRedMin g t d a e) := by
  obtain ⟨hm, h0, p0, p1, p2, p3, p4⟩ := layout20 0x86000002 0x43 1 rfl (by decide) (by decide) g t d a e
  refine oneWord rfl (noExtension hm rfl) ?_
  rw [decodeWord, hm, decodeRow4, hm]
  simp only [decode43, h0, p0, p1, p2, p3, p4]
  rfl

theorem xRedMax (g : BitVec 3) (t : BitVec 3) (d : BitVec 6) (a : BitVec 6) (e : BitVec 1) : Statement (.xRedMax g t d a e) := by
  obtain ⟨hm, h0, p0, p1, p2, p3, p4⟩ := layout20 0x86000004 0x43 2 rfl (by decide) (by decide) g t d a e
  refine oneWord rfl (noExtension hm rfl) ?_
  rw [decodeWord, hm, decodeRow4, hm]
  simp only [decode43, h0, p0, p1, p2, p3, p4]
  rfl

theorem xRedAnd (g : BitVec 3) (t : BitVec 3) (d : BitVec 6) (a : BitVec 6) (e : BitVec 1) : Statement (.xRedAnd g t d a e) := by
  obtain ⟨hm, h0, p0, p1, p2, p3, p4⟩ := layout20 0x86000006 0x43 3 rfl (by decide) (by decide) g t d a e
  refine oneWord rfl (noExtension hm rfl) ?_
  rw [decodeWord, hm, decodeRow4, hm]
  simp only [decode43, h0, p0, p1, p2, p3, p4]
  rfl

theorem xRedOr (g : BitVec 3) (t : BitVec 3) (d : BitVec 6) (a : BitVec 6) (e : BitVec 1) : Statement (.xRedOr g t d a e) := by
  obtain ⟨hm, h0, p0, p1, p2, p3, p4⟩ := layout20 0x86000008 0x43 4 rfl (by decide) (by decide) g t d a e
  refine oneWord rfl (noExtension hm rfl) ?_
  rw [decodeWord, hm, decodeRow4, hm]
  simp only [decode43, h0, p0, p1, p2, p3, p4]
  rfl

theorem xRedXor (g : BitVec 3) (t : BitVec 3) (d : BitVec 6) (a : BitVec 6) (e : BitVec 1) : Statement (.xRedXor g t d a e) := by
  obtain ⟨hm, h0, p0, p1, p2, p3, p4⟩ := layout20 0x8600000A 0x43 5 rfl (by decide) (by decide) g t d a e
  refine oneWord rfl (noExtension hm rfl) ?_
  rw [decodeWord, hm, decodeRow4, hm]
  simp only [decode43, h0, p0, p1, p2, p3, p4]
  rfl

theorem xScanAdd (g : BitVec 3) (t : BitVec 3) (d : BitVec 6) (a : BitVec 6) (x : BitVec 1) (e : BitVec 1) : Statement (.xScanAdd g t d a x e) := by
  obtain ⟨hm, h0, h1, p0, p1, p2, p3, p4, p5⟩ := layout28 0x88000000 0x44 0 0 rfl (by decide) (by decide) (by decide) g t d a x e
  refine oneWord rfl (noExtension hm rfl) ?_
  rw [decodeWord, hm, decodeRow4, hm]
  simp only [decode44, h0, h1, p0, p1, p2, p3, p4, p5]
  rfl

theorem xScanMin (g : BitVec 3) (t : BitVec 3) (d : BitVec 6) (a : BitVec 6) (x : BitVec 1) (e : BitVec 1) : Statement (.xScanMin g t d a x e) := by
  obtain ⟨hm, h0, h1, p0, p1, p2, p3, p4, p5⟩ := layout28 0x88000002 0x44 1 0 rfl (by decide) (by decide) (by decide) g t d a x e
  refine oneWord rfl (noExtension hm rfl) ?_
  rw [decodeWord, hm, decodeRow4, hm]
  simp only [decode44, h0, h1, p0, p1, p2, p3, p4, p5]
  rfl

theorem xScanMax (g : BitVec 3) (t : BitVec 3) (d : BitVec 6) (a : BitVec 6) (x : BitVec 1) (e : BitVec 1) : Statement (.xScanMax g t d a x e) := by
  obtain ⟨hm, h0, h1, p0, p1, p2, p3, p4, p5⟩ := layout28 0x88000004 0x44 2 0 rfl (by decide) (by decide) (by decide) g t d a x e
  refine oneWord rfl (noExtension hm rfl) ?_
  rw [decodeWord, hm, decodeRow4, hm]
  simp only [decode44, h0, h1, p0, p1, p2, p3, p4, p5]
  rfl

theorem xScanAnd (g : BitVec 3) (t : BitVec 3) (d : BitVec 6) (a : BitVec 6) (x : BitVec 1) (e : BitVec 1) : Statement (.xScanAnd g t d a x e) := by
  obtain ⟨hm, h0, h1, p0, p1, p2, p3, p4, p5⟩ := layout28 0x88000006 0x44 3 0 rfl (by decide) (by decide) (by decide) g t d a x e
  refine oneWord rfl (noExtension hm rfl) ?_
  rw [decodeWord, hm, decodeRow4, hm]
  simp only [decode44, h0, h1, p0, p1, p2, p3, p4, p5]
  rfl

theorem xScanOr (g : BitVec 3) (t : BitVec 3) (d : BitVec 6) (a : BitVec 6) (x : BitVec 1) (e : BitVec 1) : Statement (.xScanOr g t d a x e) := by
  obtain ⟨hm, h0, h1, p0, p1, p2, p3, p4, p5⟩ := layout28 0x88000008 0x44 4 0 rfl (by decide) (by decide) (by decide) g t d a x e
  refine oneWord rfl (noExtension hm rfl) ?_
  rw [decodeWord, hm, decodeRow4, hm]
  simp only [decode44, h0, h1, p0, p1, p2, p3, p4, p5]
  rfl

theorem xScanXor (g : BitVec 3) (t : BitVec 3) (d : BitVec 6) (a : BitVec 6) (x : BitVec 1) (e : BitVec 1) : Statement (.xScanXor g t d a x e) := by
  obtain ⟨hm, h0, h1, p0, p1, p2, p3, p4, p5⟩ := layout28 0x8800000A 0x44 5 0 rfl (by decide) (by decide) (by decide) g t d a x e
  refine oneWord rfl (noExtension hm rfl) ?_
  rw [decodeWord, hm, decodeRow4, hm]
  simp only [decode44, h0, h1, p0, p1, p2, p3, p4, p5]
  rfl

theorem xBallot (g : BitVec 3) (t : BitVec 3) (k : BitVec 3) (a : BitVec 6) (e : BitVec 1) : Statement (.xBallot g t k a e) := by
  obtain ⟨hm, h0, h1, p0, p1, p2, p3, p4⟩ := layout29 0x8A000000 0x45 0 0 rfl (by decide) (by decide) (by decide) g t k a e
  refine oneWord rfl (noExtension hm rfl) ?_
  rw [decodeWord, hm, decodeRow4, hm]
  simp only [decode45, h0, h1, p0, p1, p2, p3, p4]
  rfl

theorem kOpAnd (g : BitVec 3) (d : BitVec 3) (a : BitVec 3) (b : BitVec 3) : Statement (.kOpAnd g d a b) := by
  obtain ⟨hm, h0, h1, h2, h3, p0, p1, p2, p3⟩ := layout7 0x8C000000 0x46 0 0 0 0 rfl (by decide) (by decide) (by decide) (by decide) (by decide) g d a b
  refine oneWord rfl (noExtension hm rfl) ?_
  rw [decodeWord, hm, decodeRow4, hm]
  simp only [decode46, h0, h1, h2, h3, p0, p1, p2, p3]
  rfl

theorem kOpOr (g : BitVec 3) (d : BitVec 3) (a : BitVec 3) (b : BitVec 3) : Statement (.kOpOr g d a b) := by
  obtain ⟨hm, h0, h1, h2, h3, p0, p1, p2, p3⟩ := layout7 0x8C080000 0x46 0 0 0 8 rfl (by decide) (by decide) (by decide) (by decide) (by decide) g d a b
  refine oneWord rfl (noExtension hm rfl) ?_
  rw [decodeWord, hm, decodeRow4, hm]
  simp only [decode46, h0, h1, h2, h3, p0, p1, p2, p3]
  rfl

theorem kOpXor (g : BitVec 3) (d : BitVec 3) (a : BitVec 3) (b : BitVec 3) : Statement (.kOpXor g d a b) := by
  obtain ⟨hm, h0, h1, h2, h3, p0, p1, p2, p3⟩ := layout7 0x8C100000 0x46 0 0 0 16 rfl (by decide) (by decide) (by decide) (by decide) (by decide) g d a b
  refine oneWord rfl (noExtension hm rfl) ?_
  rw [decodeWord, hm, decodeRow4, hm]
  simp only [decode46, h0, h1, h2, h3, p0, p1, p2, p3]
  rfl

theorem kOpAndn (g : BitVec 3) (d : BitVec 3) (a : BitVec 3) (b : BitVec 3) : Statement (.kOpAndn g d a b) := by
  obtain ⟨hm, h0, h1, h2, h3, p0, p1, p2, p3⟩ := layout7 0x8C180000 0x46 0 0 0 24 rfl (by decide) (by decide) (by decide) (by decide) (by decide) g d a b
  refine oneWord rfl (noExtension hm rfl) ?_
  rw [decodeWord, hm, decodeRow4, hm]
  simp only [decode46, h0, h1, h2, h3, p0, p1, p2, p3]
  rfl

theorem kOpNot (g : BitVec 3) (d : BitVec 3) (a : BitVec 3) : Statement (.kOpNot g d a) := by
  obtain ⟨hm, h0, h1, h2, p0, p1, p2⟩ := layout8 0x8C200000 0x46 0 0 32 rfl (by decide) (by decide) (by decide) (by decide) g d a
  refine oneWord rfl (noExtension hm rfl) ?_
  rw [decodeWord, hm, decodeRow4, hm]
  simp only [decode46, h0, h1, h2, p0, p1, p2]
  simp

theorem kOpMov (g : BitVec 3) (d : BitVec 3) (a : BitVec 3) : Statement (.kOpMov g d a) := by
  obtain ⟨hm, h0, h1, h2, p0, p1, p2⟩ := layout8 0x8C280000 0x46 0 0 40 rfl (by decide) (by decide) (by decide) (by decide) g d a
  refine oneWord rfl (noExtension hm rfl) ?_
  rw [decodeWord, hm, decodeRow4, hm]
  simp only [decode46, h0, h1, h2, p0, p1, p2]
  simp

theorem kOpFrom (g : BitVec 3) (d : BitVec 3) (a : BitVec 6) : Statement (.kOpFrom g d a) := by
  obtain ⟨hm, h0, h1, p0, p1, p2⟩ := layout30 0x8C000001 0x46 1 0 rfl (by decide) (by decide) (by decide) g d a
  refine oneWord rfl (noExtension hm rfl) ?_
  rw [decodeWord, hm, decodeRow4, hm]
  have e0 := bits_low (word 0x8C000001 [(g.toNat, 22), (d.toNat, 13), (a.toNat, 7)])
  rw [h0] at e0
  simp [decode46, h0, h1, p0, p1, p2, e0]

theorem kOpTo (g : BitVec 3) (d : BitVec 6) (a : BitVec 3) : Statement (.kOpTo g d a) := by
  obtain ⟨hm, h0, h1, h2, p0, p1, p2⟩ := layout31 0x8C080001 0x46 1 0 1 rfl (by decide) (by decide) (by decide) (by decide) g d a
  refine oneWord rfl (noExtension hm rfl) ?_
  rw [decodeWord, hm, decodeRow4, hm]
  have e0 := bits_low (word 0x8C080001 [(g.toNat, 22), (d.toNat, 13), (a.toNat, 7)])
  rw [h0] at e0
  have e1 : ¬bits (word 0x8C080001 [(g.toNat, 22), (d.toNat, 13), (a.toNat, 7)]) 16 6 = 0 := by
    have := bits_mid (word 0x8C080001 [(g.toNat, 22), (d.toNat, 13), (a.toNat, 7)])
    omega
  simp [decode46, h0, h1, h2, p0, p1, p2, e0, e1]

theorem kOpPopc (g : BitVec 3) (d : BitVec 6) (a : BitVec 3) : Statement (.kOpPopc g d a) := by
  obtain ⟨hm, h0, h1, h2, p0, p1, p2⟩ := layout31 0x8C100001 0x46 1 0 2 rfl (by decide) (by decide) (by decide) (by decide) g d a
  refine oneWord rfl (noExtension hm rfl) ?_
  rw [decodeWord, hm, decodeRow4, hm]
  have e0 := bits_low (word 0x8C100001 [(g.toNat, 22), (d.toNat, 13), (a.toNat, 7)])
  rw [h0] at e0
  have e1 : ¬bits (word 0x8C100001 [(g.toNat, 22), (d.toNat, 13), (a.toNat, 7)]) 16 6 = 0 := by
    have := bits_mid (word 0x8C100001 [(g.toNat, 22), (d.toNat, 13), (a.toNat, 7)])
    omega
  simp [decode46, h0, h1, h2, p0, p1, p2, e0, e1]

theorem bsRd (g : BitVec 3) (t : BitVec 1) (d : BitVec 6) (a : BitVec 6) (n : BitVec 6) (e : BitVec 1) : Statement (.bsRd g t d a n e) := by
  obtain ⟨hm, h0, p0, p1, p2, p3, p4, p5⟩ := layout32 0x8E300000 0x47 3 rfl (by decide) (by decide) g t d a n e
  refine oneWord rfl (noExtension hm rfl) ?_
  rw [decodeWord, hm, decodeRow4, hm]
  simp only [decode47, h0, p0, p1, p2, p3, p4, p5]
  rfl

theorem bsFill (g : BitVec 3) (d : BitVec 6) (a : BitVec 6) (b : BitVec 6) (e : BitVec 1) : Statement (.bsFill g d a b e) := by
  obtain ⟨hm, h0, p0, p1, p2, p3, p4⟩ := layout1 0x90000000 0x48 0 rfl (by decide) (by decide) g d a b e
  refine oneWord rfl (noExtension hm rfl) ?_
  rw [decodeWord, hm, decodeRow4, hm]
  simp only [decode48, h0, p0, p1, p2, p3, p4]
  rfl

theorem bsCurGet (g : BitVec 3) (d : BitVec 6) : Statement (.bsCurGet g d) := by
  obtain ⟨hm, h0, h1, p0, p1⟩ := layout33 0x92000000 0x49 0 rfl (by decide) (by decide) g d
  refine oneWord rfl (noExtension hm rfl) ?_
  rw [decodeWord, hm, decodeRow4, hm]
  simp only [decode49, h0, h1, p0, p1]
  rfl

theorem bsCurSet (g : BitVec 3) (a : BitVec 6) (e : BitVec 1) : Statement (.bsCurSet g a e) := by
  obtain ⟨hm, h0, h1, p0, p1, p2⟩ := layout15 0x92000002 0x49 1 0 rfl (by decide) (by decide) (by decide) g a e
  refine oneWord rfl (noExtension hm rfl) ?_
  rw [decodeWord, hm, decodeRow4, hm]
  have e0 : ¬bits (word 0x92000002 [(g.toNat, 22), (a.toNat, 7), (e.toNat, 0)]) 0 13 = 0 := by
    have := bits_cur (word 0x92000002 [(g.toNat, 22), (a.toNat, 7), (e.toNat, 0)])
    omega
  simp [decode49, h0, h1, p0, p1, p2, e0]

theorem xSepk (g : BitVec 3) (t : BitVec 3) (d : BitVec 6) (a : BitVec 6) (f : BitVec 2) (s : BitVec 2) (e : BitVec 1) : Statement (.xSepk g t d a f s e) := by
  obtain ⟨hm, h0, p0, p1, p2, p3, p4, p5, p6⟩ := layout34 0x94000000 0x4A 0 rfl (by decide) (by decide) g t d a f s e
  refine oneWord rfl (noExtension hm rfl) ?_
  rw [decodeWord, hm, decodeRow4, hm]
  simp only [decode4A, h0, p0, p1, p2, p3, p4, p5, p6]
  rfl

theorem xSeunpk (g : BitVec 3) (t : BitVec 3) (d : BitVec 6) (a : BitVec 6) (f : BitVec 2) (s : BitVec 2) (e : BitVec 1) : Statement (.xSeunpk g t d a f s e) := by
  obtain ⟨hm, h0, p0, p1, p2, p3, p4, p5, p6⟩ := layout34 0x96000000 0x4B 0 rfl (by decide) (by decide) g t d a f s e
  refine oneWord rfl (noExtension hm rfl) ?_
  rw [decodeWord, hm, decodeRow4, hm]
  simp only [decode4B, h0, p0, p1, p2, p3, p4, p5, p6]
  rfl

theorem kTestAny (g : BitVec 3) (p : BitVec 3) (k : BitVec 3) : Statement (.kTestAny g p k) := by
  obtain ⟨hm, h0, h1, h2, p0, p1, p2⟩ := layout8 0x98000000 0x4C 0 0 0 rfl (by decide) (by decide) (by decide) (by decide) g p k
  refine oneWord rfl (noExtension hm rfl) ?_
  rw [decodeWord, hm, decodeRow4, hm]
  simp only [decode4C, h0, h1, h2, p0, p1, p2]
  rfl

theorem kTestAll (g : BitVec 3) (p : BitVec 3) (k : BitVec 3) : Statement (.kTestAll g p k) := by
  obtain ⟨hm, h0, h1, h2, p0, p1, p2⟩ := layout8 0x98080000 0x4C 0 0 8 rfl (by decide) (by decide) (by decide) (by decide) g p k
  refine oneWord rfl (noExtension hm rfl) ?_
  rw [decodeWord, hm, decodeRow4, hm]
  simp only [decode4C, h0, h1, h2, p0, p1, p2]
  rfl

theorem mLd (g : BitVec 3) (z : BitVec 3) (d : BitVec 6) (a : BitVec 6) (s : BitVec 6) (e : BitVec 1) : Statement (.mLd g z d a s e) := by
  obtain ⟨hm, p0, p1, p2, p3, p4, p5⟩ := layout10 0xA0000000 0x50 rfl (by decide) g z d a s e
  refine oneWord rfl (noExtension hm rfl) ?_
  rw [decodeWord, hm, decodeRow5, hm]
  simp only [decode50, p0, p1, p2, p3, p4, p5]

theorem mSt (g : BitVec 3) (z : BitVec 3) (d : BitVec 6) (a : BitVec 6) (s : BitVec 6) (e : BitVec 1) : Statement (.mSt g z d a s e) := by
  obtain ⟨hm, p0, p1, p2, p3, p4, p5⟩ := layout10 0xA2000000 0x51 rfl (by decide) g z d a s e
  refine oneWord rfl (noExtension hm rfl) ?_
  rw [decodeWord, hm, decodeRow5, hm]
  simp only [decode51, p0, p1, p2, p3, p4, p5]

theorem mLds (g : BitVec 3) (z : BitVec 3) (d : BitVec 6) (s : BitVec 6) : Statement (.mLds g z d s) := by
  obtain ⟨hm, h0, h1, p0, p1, p2, p3⟩ := layout35 0xA4000000 0x52 0 0 rfl (by decide) (by decide) (by decide) g z d s
  refine oneWord rfl (noExtension hm rfl) ?_
  rw [decodeWord, hm, decodeRow5, hm]
  simp only [decode52, h0, h1, p0, p1, p2, p3]
  rfl

theorem mAtomWAdd (g : BitVec 3) (z : BitVec 1) (d : BitVec 6) (a : BitVec 6) (s : BitVec 6) : Statement (.mAtomWAdd g z d a s) := by
  obtain ⟨hm, h0, p0, p1, p2, p3, p4⟩ := layout36 0xA6000000 0x53 0 rfl (by decide) (by decide) g z d a s
  refine oneWord rfl (noExtension hm rfl) ?_
  rw [decodeWord, hm, decodeRow5, hm]
  simp only [decode53, h0, p0, p1, p2, p3, p4]
  rfl

theorem mAtomWMin (g : BitVec 3) (z : BitVec 1) (d : BitVec 6) (a : BitVec 6) (s : BitVec 6) : Statement (.mAtomWMin g z d a s) := by
  obtain ⟨hm, h0, p0, p1, p2, p3, p4⟩ := layout36 0xA6080000 0x53 1 rfl (by decide) (by decide) g z d a s
  refine oneWord rfl (noExtension hm rfl) ?_
  rw [decodeWord, hm, decodeRow5, hm]
  simp only [decode53, h0, p0, p1, p2, p3, p4]
  rfl

theorem mAtomWMax (g : BitVec 3) (z : BitVec 1) (d : BitVec 6) (a : BitVec 6) (s : BitVec 6) : Statement (.mAtomWMax g z d a s) := by
  obtain ⟨hm, h0, p0, p1, p2, p3, p4⟩ := layout36 0xA6100000 0x53 2 rfl (by decide) (by decide) g z d a s
  refine oneWord rfl (noExtension hm rfl) ?_
  rw [decodeWord, hm, decodeRow5, hm]
  simp only [decode53, h0, p0, p1, p2, p3, p4]
  rfl

theorem mAtomWMinn (g : BitVec 3) (z : BitVec 1) (d : BitVec 6) (a : BitVec 6) (s : BitVec 6) : Statement (.mAtomWMinn g z d a s) := by
  obtain ⟨hm, h0, p0, p1, p2, p3, p4⟩ := layout36 0xA6180000 0x53 3 rfl (by decide) (by decide) g z d a s
  refine oneWord rfl (noExtension hm rfl) ?_
  rw [decodeWord, hm, decodeRow5, hm]
  simp only [decode53, h0, p0, p1, p2, p3, p4]
  rfl

theorem mAtomWMaxn (g : BitVec 3) (z : BitVec 1) (d : BitVec 6) (a : BitVec 6) (s : BitVec 6) : Statement (.mAtomWMaxn g z d a s) := by
  obtain ⟨hm, h0, p0, p1, p2, p3, p4⟩ := layout36 0xA6200000 0x53 4 rfl (by decide) (by decide) g z d a s
  refine oneWord rfl (noExtension hm rfl) ?_
  rw [decodeWord, hm, decodeRow5, hm]
  simp only [decode53, h0, p0, p1, p2, p3, p4]
  rfl

theorem mAtomWAnd (g : BitVec 3) (z : BitVec 1) (d : BitVec 6) (a : BitVec 6) (s : BitVec 6) : Statement (.mAtomWAnd g z d a s) := by
  obtain ⟨hm, h0, p0, p1, p2, p3, p4⟩ := layout36 0xA6280000 0x53 5 rfl (by decide) (by decide) g z d a s
  refine oneWord rfl (noExtension hm rfl) ?_
  rw [decodeWord, hm, decodeRow5, hm]
  simp only [decode53, h0, p0, p1, p2, p3, p4]
  rfl

theorem mAtomWOr (g : BitVec 3) (z : BitVec 1) (d : BitVec 6) (a : BitVec 6) (s : BitVec 6) : Statement (.mAtomWOr g z d a s) := by
  obtain ⟨hm, h0, p0, p1, p2, p3, p4⟩ := layout36 0xA6300000 0x53 6 rfl (by decide) (by decide) g z d a s
  refine oneWord rfl (noExtension hm rfl) ?_
  rw [decodeWord, hm, decodeRow5, hm]
  simp only [decode53, h0, p0, p1, p2, p3, p4]
  rfl

theorem mAtomWXor (g : BitVec 3) (z : BitVec 1) (d : BitVec 6) (a : BitVec 6) (s : BitVec 6) : Statement (.mAtomWXor g z d a s) := by
  obtain ⟨hm, h0, p0, p1, p2, p3, p4⟩ := layout36 0xA6380000 0x53 7 rfl (by decide) (by decide) g z d a s
  refine oneWord rfl (noExtension hm rfl) ?_
  rw [decodeWord, hm, decodeRow5, hm]
  simp only [decode53, h0, p0, p1, p2, p3, p4]
  rfl

theorem mAtomDAdd (g : BitVec 3) (z : BitVec 1) (d : BitVec 6) (a : BitVec 6) (s : BitVec 6) : Statement (.mAtomDAdd g z d a s) := by
  obtain ⟨hm, h0, p0, p1, p2, p3, p4⟩ := layout36 0xA8000000 0x54 0 rfl (by decide) (by decide) g z d a s
  refine oneWord rfl (noExtension hm rfl) ?_
  rw [decodeWord, hm, decodeRow5, hm]
  simp only [decode54, h0, p0, p1, p2, p3, p4]
  rfl

theorem mAtomDMin (g : BitVec 3) (z : BitVec 1) (d : BitVec 6) (a : BitVec 6) (s : BitVec 6) : Statement (.mAtomDMin g z d a s) := by
  obtain ⟨hm, h0, p0, p1, p2, p3, p4⟩ := layout36 0xA8080000 0x54 1 rfl (by decide) (by decide) g z d a s
  refine oneWord rfl (noExtension hm rfl) ?_
  rw [decodeWord, hm, decodeRow5, hm]
  simp only [decode54, h0, p0, p1, p2, p3, p4]
  rfl

theorem mAtomDMax (g : BitVec 3) (z : BitVec 1) (d : BitVec 6) (a : BitVec 6) (s : BitVec 6) : Statement (.mAtomDMax g z d a s) := by
  obtain ⟨hm, h0, p0, p1, p2, p3, p4⟩ := layout36 0xA8100000 0x54 2 rfl (by decide) (by decide) g z d a s
  refine oneWord rfl (noExtension hm rfl) ?_
  rw [decodeWord, hm, decodeRow5, hm]
  simp only [decode54, h0, p0, p1, p2, p3, p4]
  rfl

theorem mAtomDMinn (g : BitVec 3) (z : BitVec 1) (d : BitVec 6) (a : BitVec 6) (s : BitVec 6) : Statement (.mAtomDMinn g z d a s) := by
  obtain ⟨hm, h0, p0, p1, p2, p3, p4⟩ := layout36 0xA8180000 0x54 3 rfl (by decide) (by decide) g z d a s
  refine oneWord rfl (noExtension hm rfl) ?_
  rw [decodeWord, hm, decodeRow5, hm]
  simp only [decode54, h0, p0, p1, p2, p3, p4]
  rfl

theorem mAtomDMaxn (g : BitVec 3) (z : BitVec 1) (d : BitVec 6) (a : BitVec 6) (s : BitVec 6) : Statement (.mAtomDMaxn g z d a s) := by
  obtain ⟨hm, h0, p0, p1, p2, p3, p4⟩ := layout36 0xA8200000 0x54 4 rfl (by decide) (by decide) g z d a s
  refine oneWord rfl (noExtension hm rfl) ?_
  rw [decodeWord, hm, decodeRow5, hm]
  simp only [decode54, h0, p0, p1, p2, p3, p4]
  rfl

theorem mAtomDAnd (g : BitVec 3) (z : BitVec 1) (d : BitVec 6) (a : BitVec 6) (s : BitVec 6) : Statement (.mAtomDAnd g z d a s) := by
  obtain ⟨hm, h0, p0, p1, p2, p3, p4⟩ := layout36 0xA8280000 0x54 5 rfl (by decide) (by decide) g z d a s
  refine oneWord rfl (noExtension hm rfl) ?_
  rw [decodeWord, hm, decodeRow5, hm]
  simp only [decode54, h0, p0, p1, p2, p3, p4]
  rfl

theorem mAtomDOr (g : BitVec 3) (z : BitVec 1) (d : BitVec 6) (a : BitVec 6) (s : BitVec 6) : Statement (.mAtomDOr g z d a s) := by
  obtain ⟨hm, h0, p0, p1, p2, p3, p4⟩ := layout36 0xA8300000 0x54 6 rfl (by decide) (by decide) g z d a s
  refine oneWord rfl (noExtension hm rfl) ?_
  rw [decodeWord, hm, decodeRow5, hm]
  simp only [decode54, h0, p0, p1, p2, p3, p4]
  rfl

theorem mAtomDXor (g : BitVec 3) (z : BitVec 1) (d : BitVec 6) (a : BitVec 6) (s : BitVec 6) : Statement (.mAtomDXor g z d a s) := by
  obtain ⟨hm, h0, p0, p1, p2, p3, p4⟩ := layout36 0xA8380000 0x54 7 rfl (by decide) (by decide) g z d a s
  refine oneWord rfl (noExtension hm rfl) ?_
  rw [decodeWord, hm, decodeRow5, hm]
  simp only [decode54, h0, p0, p1, p2, p3, p4]
  rfl

theorem mAtomPAdd (g : BitVec 3) (z : BitVec 1) (d : BitVec 6) (a : BitVec 6) (s : BitVec 6) : Statement (.mAtomPAdd g z d a s) := by
  obtain ⟨hm, h0, p0, p1, p2, p3, p4⟩ := layout36 0xAA000000 0x55 0 rfl (by decide) (by decide) g z d a s
  refine oneWord rfl (noExtension hm rfl) ?_
  rw [decodeWord, hm, decodeRow5, hm]
  simp only [decode55, h0, p0, p1, p2, p3, p4]
  rfl

theorem mAtomPMin (g : BitVec 3) (z : BitVec 1) (d : BitVec 6) (a : BitVec 6) (s : BitVec 6) : Statement (.mAtomPMin g z d a s) := by
  obtain ⟨hm, h0, p0, p1, p2, p3, p4⟩ := layout36 0xAA080000 0x55 1 rfl (by decide) (by decide) g z d a s
  refine oneWord rfl (noExtension hm rfl) ?_
  rw [decodeWord, hm, decodeRow5, hm]
  simp only [decode55, h0, p0, p1, p2, p3, p4]
  rfl

theorem mAtomPMax (g : BitVec 3) (z : BitVec 1) (d : BitVec 6) (a : BitVec 6) (s : BitVec 6) : Statement (.mAtomPMax g z d a s) := by
  obtain ⟨hm, h0, p0, p1, p2, p3, p4⟩ := layout36 0xAA100000 0x55 2 rfl (by decide) (by decide) g z d a s
  refine oneWord rfl (noExtension hm rfl) ?_
  rw [decodeWord, hm, decodeRow5, hm]
  simp only [decode55, h0, p0, p1, p2, p3, p4]
  rfl

theorem mAtomPMinn (g : BitVec 3) (z : BitVec 1) (d : BitVec 6) (a : BitVec 6) (s : BitVec 6) : Statement (.mAtomPMinn g z d a s) := by
  obtain ⟨hm, h0, p0, p1, p2, p3, p4⟩ := layout36 0xAA180000 0x55 3 rfl (by decide) (by decide) g z d a s
  refine oneWord rfl (noExtension hm rfl) ?_
  rw [decodeWord, hm, decodeRow5, hm]
  simp only [decode55, h0, p0, p1, p2, p3, p4]
  rfl

theorem mAtomPMaxn (g : BitVec 3) (z : BitVec 1) (d : BitVec 6) (a : BitVec 6) (s : BitVec 6) : Statement (.mAtomPMaxn g z d a s) := by
  obtain ⟨hm, h0, p0, p1, p2, p3, p4⟩ := layout36 0xAA200000 0x55 4 rfl (by decide) (by decide) g z d a s
  refine oneWord rfl (noExtension hm rfl) ?_
  rw [decodeWord, hm, decodeRow5, hm]
  simp only [decode55, h0, p0, p1, p2, p3, p4]
  rfl

theorem mAtomPAnd (g : BitVec 3) (z : BitVec 1) (d : BitVec 6) (a : BitVec 6) (s : BitVec 6) : Statement (.mAtomPAnd g z d a s) := by
  obtain ⟨hm, h0, p0, p1, p2, p3, p4⟩ := layout36 0xAA280000 0x55 5 rfl (by decide) (by decide) g z d a s
  refine oneWord rfl (noExtension hm rfl) ?_
  rw [decodeWord, hm, decodeRow5, hm]
  simp only [decode55, h0, p0, p1, p2, p3, p4]
  rfl

theorem mAtomPOr (g : BitVec 3) (z : BitVec 1) (d : BitVec 6) (a : BitVec 6) (s : BitVec 6) : Statement (.mAtomPOr g z d a s) := by
  obtain ⟨hm, h0, p0, p1, p2, p3, p4⟩ := layout36 0xAA300000 0x55 6 rfl (by decide) (by decide) g z d a s
  refine oneWord rfl (noExtension hm rfl) ?_
  rw [decodeWord, hm, decodeRow5, hm]
  simp only [decode55, h0, p0, p1, p2, p3, p4]
  rfl

theorem mAtomPXor (g : BitVec 3) (z : BitVec 1) (d : BitVec 6) (a : BitVec 6) (s : BitVec 6) : Statement (.mAtomPXor g z d a s) := by
  obtain ⟨hm, h0, p0, p1, p2, p3, p4⟩ := layout36 0xAA380000 0x55 7 rfl (by decide) (by decide) g z d a s
  refine oneWord rfl (noExtension hm rfl) ?_
  rw [decodeWord, hm, decodeRow5, hm]
  simp only [decode55, h0, p0, p1, p2, p3, p4]
  rfl

theorem mXchg (g : BitVec 3) (z : BitVec 1) (d : BitVec 6) (a : BitVec 6) (s : BitVec 6) : Statement (.mXchg g z d a s) := by
  obtain ⟨hm, h0, p0, p1, p2, p3, p4⟩ := layout36 0xAC000000 0x56 0 rfl (by decide) (by decide) g z d a s
  refine oneWord rfl (noExtension hm rfl) ?_
  rw [decodeWord, hm, decodeRow5, hm]
  simp only [decode56, h0, p0, p1, p2, p3, p4]
  rfl

theorem mCas (g : BitVec 3) (z : BitVec 1) (d : BitVec 6) (a : BitVec 6) (s : BitVec 6) : Statement (.mCas g z d a s) := by
  obtain ⟨hm, h0, p0, p1, p2, p3, p4⟩ := layout36 0xAE000000 0x57 0 rfl (by decide) (by decide) g z d a s
  refine oneWord rfl (noExtension hm rfl) ?_
  rw [decodeWord, hm, decodeRow5, hm]
  simp only [decode57, h0, p0, p1, p2, p3, p4]
  rfl

theorem mArrive (g : BitVec 3) (d : BitVec 6) (a : BitVec 6) (i : BitVec 10) : Statement (.mArrive g d a i) := by
  obtain ⟨hm, p0, p1, p2, p3⟩ := layout2 0xB0000000 0x58 rfl (by decide) g d a i
  refine oneWord rfl (noExtension hm rfl) ?_
  rw [decodeWord, hm, decodeRow5, hm]
  simp only [decode58, p0, p1, p2, p3]

theorem mWait (g : BitVec 3) (d : BitVec 6) (a : BitVec 6) (i : BitVec 10) : Statement (.mWait g d a i) := by
  obtain ⟨hm, p0, p1, p2, p3⟩ := layout2 0xB2000000 0x59 rfl (by decide) g d a i
  refine oneWord rfl (noExtension hm rfl) ?_
  rw [decodeWord, hm, decodeRow5, hm]
  simp only [decode59, p0, p1, p2, p3]

theorem fenceAcq (g : BitVec 3) (s : BitVec 3) : Statement (.fenceAcq g s) := by
  obtain ⟨hm, h0, h1, p0, p1⟩ := layout37 0xB4000000 0x5A 0 rfl (by decide) (by decide) g s
  refine oneWord rfl (noExtension hm rfl) ?_
  rw [decodeWord, hm, decodeRow5, hm]
  simp only [decode5A, h0, h1, p0, p1]
  rfl

theorem fenceRel (g : BitVec 3) (s : BitVec 3) : Statement (.fenceRel g s) := by
  obtain ⟨hm, h0, h1, p0, p1⟩ := layout37 0xB4000001 0x5A 1 rfl (by decide) (by decide) g s
  refine oneWord rfl (noExtension hm rfl) ?_
  rw [decodeWord, hm, decodeRow5, hm]
  simp only [decode5A, h0, h1, p0, p1]
  rfl

theorem fenceAcqrel (g : BitVec 3) (s : BitVec 3) : Statement (.fenceAcqrel g s) := by
  obtain ⟨hm, h0, h1, p0, p1⟩ := layout37 0xB4000002 0x5A 2 rfl (by decide) (by decide) g s
  refine oneWord rfl (noExtension hm rfl) ?_
  rw [decodeWord, hm, decodeRow5, hm]
  simp only [decode5A, h0, h1, p0, p1]
  rfl

theorem fenceSc (g : BitVec 3) (s : BitVec 3) : Statement (.fenceSc g s) := by
  obtain ⟨hm, h0, h1, p0, p1⟩ := layout37 0xB4000003 0x5A 3 rfl (by decide) (by decide) g s
  refine oneWord rfl (noExtension hm rfl) ?_
  rw [decodeWord, hm, decodeRow5, hm]
  simp only [decode5A, h0, h1, p0, p1]
  rfl

theorem fenceTlr (g : BitVec 3) : Statement (.fenceTlr g) := by
  obtain ⟨hm, h0, p0⟩ := layout38 0xB4000004 0x5A rfl (by decide) g
  refine oneWord rfl (noExtension hm rfl) ?_
  rw [decodeWord, hm, decodeRow5, hm]
  have e0 : bits (word 0xB4000004 [(g.toNat, 22)]) 0 4 = 4 := by
    have := bits_fence (word 0xB4000004 [(g.toNat, 22)])
    omega
  simp [decode5A, h0, p0, e0]

theorem mPush (g : BitVec 3) (d : BitVec 6) (n : BitVec 6) (e : BitVec 1) : Statement (.mPush g d n e) := by
  obtain ⟨hm, h0, h1, p0, p1, p2, p3⟩ := layout39 0xB6380000 0x5B 0 7 rfl (by decide) (by decide) (by decide) g d n e
  refine oneWord rfl (noExtension hm rfl) ?_
  rw [decodeWord, hm, decodeRow5, hm]
  simp only [decode5B, h0, h1, p0, p1, p2, p3]
  rfl

theorem mPop (g : BitVec 3) (d : BitVec 6) (n : BitVec 6) : Statement (.mPop g d n) := by
  obtain ⟨hm, h0, h1, p0, p1, p2⟩ := layout12 0xB6380002 0x5B 2 7 rfl (by decide) (by decide) (by decide) g d n
  refine oneWord rfl (noExtension hm rfl) ?_
  rw [decodeWord, hm, decodeRow5, hm]
  have e0 : bits (word 0xB6380002 [(g.toNat, 22), (d.toNat, 13), (n.toNat, 7)]) 1 6 = 1 := by
    have := bits_pop (word 0xB6380002 [(g.toNat, 22), (d.toNat, 13), (n.toNat, 7)])
    omega
  simp [decode5B, h0, h1, p0, p1, p2, e0]

theorem mLdv (g : BitVec 3) (t : BitVec 1) (d : BitVec 6) (a : BitVec 6) (b : BitVec 6) (e : BitVec 1) : Statement (.mLdv g t d a b e) := by
  obtain ⟨hm, h0, p0, p1, p2, p3, p4, p5⟩ := layout32 0xB8300000 0x5C 3 rfl (by decide) (by decide) g t d a b e
  refine oneWord rfl (noExtension hm rfl) ?_
  rw [decodeWord, hm, decodeRow5, hm]
  simp only [decode5C, h0, p0, p1, p2, p3, p4, p5]
  rfl

theorem mStv (g : BitVec 3) (t : BitVec 1) (d : BitVec 6) (a : BitVec 6) (b : BitVec 6) (e : BitVec 1) : Statement (.mStv g t d a b e) := by
  obtain ⟨hm, h0, p0, p1, p2, p3, p4, p5⟩ := layout32 0xBA300000 0x5D 3 rfl (by decide) (by decide) g t d a b e
  refine oneWord rfl (noExtension hm rfl) ?_
  rw [decodeWord, hm, decodeRow5, hm]
  simp only [decode5D, h0, p0, p1, p2, p3, p4, p5]
  rfl

theorem mRcnAdd (g : BitVec 3) (t : BitVec 3) (d : BitVec 6) (a : BitVec 6) (e : BitVec 1) : Statement (.mRcnAdd g t d a e) := by
  obtain ⟨hm, h0, p0, p1, p2, p3, p4⟩ := layout20 0xBC000000 0x5E 0 rfl (by decide) (by decide) g t d a e
  refine oneWord rfl (noExtension hm rfl) ?_
  rw [decodeWord, hm, decodeRow5, hm]
  simp only [decode5E, h0, p0, p1, p2, p3, p4]
  rfl

theorem mRcnMax (g : BitVec 3) (t : BitVec 3) (d : BitVec 6) (a : BitVec 6) (e : BitVec 1) : Statement (.mRcnMax g t d a e) := by
  obtain ⟨hm, h0, p0, p1, p2, p3, p4⟩ := layout20 0xBC000002 0x5E 1 rfl (by decide) (by decide) g t d a e
  refine oneWord rfl (noExtension hm rfl) ?_
  rw [decodeWord, hm, decodeRow5, hm]
  simp only [decode5E, h0, p0, p1, p2, p3, p4]
  rfl

theorem mRcnMin (g : BitVec 3) (t : BitVec 3) (d : BitVec 6) (a : BitVec 6) (e : BitVec 1) : Statement (.mRcnMin g t d a e) := by
  obtain ⟨hm, h0, p0, p1, p2, p3, p4⟩ := layout20 0xBC000004 0x5E 2 rfl (by decide) (by decide) g t d a e
  refine oneWord rfl (noExtension hm rfl) ?_
  rw [decodeWord, hm, decodeRow5, hm]
  simp only [decode5E, h0, p0, p1, p2, p3, p4]
  rfl

theorem mRcnOr (g : BitVec 3) (t : BitVec 3) (d : BitVec 6) (a : BitVec 6) (e : BitVec 1) : Statement (.mRcnOr g t d a e) := by
  obtain ⟨hm, h0, p0, p1, p2, p3, p4⟩ := layout20 0xBC000006 0x5E 3 rfl (by decide) (by decide) g t d a e
  refine oneWord rfl (noExtension hm rfl) ?_
  rw [decodeWord, hm, decodeRow5, hm]
  simp only [decode5E, h0, p0, p1, p2, p3, p4]
  rfl

theorem mRcnPick (g : BitVec 3) (t : BitVec 3) (d : BitVec 6) (a : BitVec 6) (j : BitVec 2) (e : BitVec 1) : Statement (.mRcnPick g t d a j e) := by
  obtain ⟨hm, h0, p0, p1, p2, p3, p4, p5⟩ := layout21 0xBC000008 0x5E 1 rfl (by decide) (by decide) g t d a j e
  refine oneWord rfl (noExtension hm rfl) ?_
  have hq := bits_upper (word 0xBC000008 [(g.toNat, 22), (t.toNat, 19), (d.toNat, 13), (a.toNat, 7), (j.toNat, 1), (e.toNat, 0)])
  rw [h0] at hq
  rw [decodeWord, hm, decodeRow5, hm]
  simp only [decode5E, h0, p0, p1, p2, p3, p4, p5, beq_iff_eq]
  rw [if_neg (by omega), if_neg (by omega), if_neg (by omega), if_neg (by omega)]
  rfl

theorem fork (k : BitVec 3) (offA offC : BitVec 11) (av : BitVec 1) (ab : BitVec 6) (al : BitVec 3) (bv : BitVec 1) (bb : BitVec 6) (bl : BitVec 3) : Statement (.fork k offA offC av ab al bv bb bl) := by
  obtain ⟨hm, p0, p1, p2⟩ := forkWord k offA offC
  obtain ⟨hx, h0, q0, q1, q2, q3, q4, q5⟩ := forkExtension av ab al bv bb bl
  refine twoWords rfl (by unfold takesExtension; rw [hm]; rfl) ?_
  rw [decodeWord, hm, decodeRow6, hm]
  simp [decodeFork, isExtension, hx, h0, p0, p1, p2, q0, q1, q2, q3, q4, q5]

theorem join (k : BitVec 3) (d : BitVec 6) (a : BitVec 6) (b : BitVec 6) (e : BitVec 1) : Statement (.join k d a b e) := by
  obtain ⟨hm, h0, p0, p1, p2, p3, p4⟩ := layout40 0xC2000000 0x61 0 rfl (by decide) (by decide) k d a b e
  refine oneWord rfl (noExtension hm rfl) ?_
  rw [decodeWord, hm, decodeRow6, hm]
  simp only [decode61, h0, p0, p1, p2, p3, p4]
  rfl

theorem smask (k : BitVec 3) : Statement (.smask k) := by
  obtain ⟨hm, h0, h1, p0⟩ := layout41 0xC8000000 0x64 0 rfl (by decide) (by decide) k
  refine oneWord rfl (noExtension hm rfl) ?_
  rw [decodeWord, hm, decodeRow6, hm]
  simp only [decode64, h0, h1, p0]
  rfl

theorem setx (g : BitVec 3) (a : BitVec 6) (i : BitVec 10) : Statement (.setx g a i) := by
  obtain ⟨hm, h0, p0, p1, p2⟩ := layout14 0xCC000000 0x66 0 rfl (by decide) (by decide) g a i
  refine oneWord rfl (noExtension hm rfl) ?_
  rw [decodeWord, hm, decodeRow6, hm]
  simp only [decode66, h0, p0, p1, p2]
  rfl

theorem cCopy (g : BitVec 3) (d : BitVec 6) (a : BitVec 6) (b : BitVec 6) (ilov : BitVec 1) (verify : BitVec 1) (sparse : BitVec 1) (tc : BitVec 2) : Statement (.cCopy g d a b ilov verify sparse tc) := by
  obtain ⟨hm, h1, h2, p0, p1, p2, p3⟩ := copyWord 0xD0000000 0x68 rfl (by decide) g d a b
  obtain ⟨hx, h0, q0, q1, q2, q3⟩ := copyExtension ilov verify sparse tc
  refine twoWords rfl (by unfold takesExtension; rw [hm]; rfl) ?_
  rw [decodeWord, hm, decodeRow6, hm]
  simp [decodeCopy, isExtension, hx, h0, h1, h2, p0, p1, p2, p3, q0, q1, q2, q3]

theorem cMcast (g : BitVec 3) (d : BitVec 6) (a : BitVec 6) (b : BitVec 6) (targets : BitVec 16) (verify : BitVec 1) (sparse : BitVec 1) (tc : BitVec 2) : Statement (.cMcast g d a b targets verify sparse tc) := by
  obtain ⟨hm, h1, h2, p0, p1, p2, p3⟩ := copyWord 0xD2000000 0x69 rfl (by decide) g d a b
  obtain ⟨hx, h0, q0, q1, q2, q3⟩ := mcastExtension targets verify sparse tc
  refine twoWords rfl (by unfold takesExtension; rw [hm]; rfl) ?_
  rw [decodeWord, hm, decodeRow6, hm]
  simp [decodeMcast, isExtension, hx, h0, h1, h2, p0, p1, p2, p3, q0, q1, q2, q3]

theorem cClose (g : BitVec 3) (d : BitVec 6) : Statement (.cClose g d) := by
  obtain ⟨hm, h0, h1, p0, p1⟩ := layout33 0xD4000000 0x6A 0 rfl (by decide) (by decide) g d
  refine oneWord rfl (noExtension hm rfl) ?_
  rw [decodeWord, hm, decodeRow6, hm]
  simp only [decode6A, h0, h1, p0, p1]
  rfl

theorem cWait (g : BitVec 3) (d : BitVec 6) (a : BitVec 6) : Statement (.cWait g d a) := by
  obtain ⟨hm, h0, h1, p0, p1, p2⟩ := layout12 0xD6000000 0x6B 0 0 rfl (by decide) (by decide) (by decide) g d a
  refine oneWord rfl (noExtension hm rfl) ?_
  rw [decodeWord, hm, decodeRow6, hm]
  simp only [decode6B, h0, h1, p0, p1, p2]
  rfl

theorem rPost (g : BitVec 3) (q : BitVec 3) : Statement (.rPost g q) := by
  obtain ⟨hm, h0, h1, p0, p1⟩ := layout42 0xD8000000 0x6C 0 rfl (by decide) (by decide) g q
  refine oneWord rfl (noExtension hm rfl) ?_
  rw [decodeWord, hm, decodeRow6, hm]
  simp only [decode6C, h0, h1, p0, p1]
  rfl

theorem rWait (g : BitVec 3) (q : BitVec 3) (a : BitVec 6) (n : BitVec 10) : Statement (.rWait g q a n) := by
  obtain ⟨hm, h0, p0, p1, p2, p3⟩ := layout6 0xDA000000 0x6D 0 rfl (by decide) (by decide) g q a n
  refine oneWord rfl (noExtension hm rfl) ?_
  rw [decodeWord, hm, decodeRow6, hm]
  simp only [decode6D, h0, p0, p1, p2, p3]
  rfl

theorem tBandOpen (g : BitVec 3) : Statement (.tBandOpen g) := by
  obtain ⟨hm, h0, p0⟩ := layout0 0xDC000000 0x6E rfl (by decide) g
  refine oneWord rfl (noExtension hm rfl) ?_
  rw [decodeWord, hm, decodeRow6, hm]
  simp only [decode6E, h0, p0]
  rfl

theorem tBandClose (g : BitVec 3) : Statement (.tBandClose g) := by
  obtain ⟨hm, h0, p0⟩ := layout43 0xDC000001 0x6E rfl (by decide) g
  refine oneWord rfl (noExtension hm rfl) ?_
  rw [decodeWord, hm, decodeRow6, hm]
  simp only [decode6E, h0, p0]
  rfl

theorem shpSet (g : BitVec 3) (h : BitVec 3) (d : BitVec 6) (a : BitVec 6) (b : BitVec 6) : Statement (.shpSet g h d a b) := by
  obtain ⟨hm, h0, p0, p1, p2, p3, p4⟩ := layout44 0xE0000000 0x70 0 rfl (by decide) (by decide) g h d a b
  refine oneWord rfl (noExtension hm rfl) ?_
  rw [decodeWord, hm, decodeRow7, hm]
  simp only [decode70, h0, p0, p1, p2, p3, p4]
  rfl

theorem shpGet (g : BitVec 3) (h : BitVec 3) (d : BitVec 6) (s : BitVec 6) : Statement (.shpGet g h d s) := by
  obtain ⟨hm, h0, h1, p0, p1, p2, p3⟩ := layout35 0xE2000000 0x71 0 0 rfl (by decide) (by decide) (by decide) g h d s
  refine oneWord rfl (noExtension hm rfl) ?_
  rw [decodeWord, hm, decodeRow7, hm]
  simp only [decode71, h0, h1, p0, p1, p2, p3]
  rfl

theorem mxMap (m : BitVec 4) (r : BitVec 6) (k : BitVec 6) (w : BitVec 6) : Statement (.mxMap m r k w) := by
  obtain ⟨hm, h0, p0, p1, p2, p3⟩ := layout45 0xE4000000 0x72 0 rfl (by decide) (by decide) m r k w
  refine oneWord rfl (noExtension hm rfl) ?_
  rw [decodeWord, hm, decodeRow7, hm]
  simp only [decode72, h0, p0, p1, p2, p3]
  rfl

theorem mxMma (g : BitVec 3) (h : BitVec 3) (c : BitVec 3) (m : BitVec 4) (f : BitVec 3) (s : BitVec 2) (b : BitVec 6) (z : BitVec 1) : Statement (.mxMma g h c m f s b z) := by
  obtain ⟨hm, p0, p1, p2, p3, p4, p5, p6, p7⟩ := layout46 0xE6000000 0x73 rfl (by decide) g h c m f s b z
  refine oneWord rfl (noExtension hm rfl) ?_
  rw [decodeWord, hm, decodeRow7, hm]
  simp only [decode73, p0, p1, p2, p3, p4, p5, p6, p7]
  rfl

theorem mxMv (n : BitVec 3) (h : BitVec 3) (c : BitVec 3) (m : BitVec 4) (r : BitVec 6) (o : BitVec 6) : Statement (.mxMv n h c m r o) := by
  obtain ⟨hm, p0, p1, p2, p3, p4, p5⟩ := layout47 0xE8000000 0x74 rfl (by decide) n h c m r o
  refine oneWord rfl (noExtension hm rfl) ?_
  rw [decodeWord, hm, decodeRow7, hm]
  simp only [decode74, p0, p1, p2, p3, p4, p5]
  rfl

theorem mxDrain (h : BitVec 3) (c : BitVec 3) (d : BitVec 6) (r : BitVec 6) (a : BitVec 1) (p : BitVec 1) (q : BitVec 3) : Statement (.mxDrain h c d r a p q) := by
  obtain ⟨hm, h0, p0, p1, p2, p3, p4, p5, p6⟩ := layout48 0xEA000000 0x75 0 rfl (by decide) (by decide) h c d r a p q
  refine oneWord rfl (noExtension hm rfl) ?_
  rw [decodeWord, hm, decodeRow7, hm]
  simp only [decode75, h0, p0, p1, p2, p3, p4, p5, p6]
  rfl

theorem mxAccZero (g : BitVec 3) (h : BitVec 3) (c : BitVec 3) : Statement (.mxAccZero g h c) := by
  obtain ⟨hm, h0, p0, p1, p2⟩ := layout49 0xEC000000 0x76 rfl (by decide) g h c
  refine oneWord rfl (noExtension hm rfl) ?_
  rw [decodeWord, hm, decodeRow7, hm]
  simp only [decode76, h0, p0, p1, p2]
  rfl

theorem mxAccLoad (g : BitVec 3) (h : BitVec 3) (c : BitVec 3) (m : BitVec 4) : Statement (.mxAccLoad g h c m) := by
  obtain ⟨hm, h0, h1, p0, p1, p2, p3⟩ := layout50 0xEC004000 0x76 0 64 rfl (by decide) (by decide) (by decide) g h c m
  refine oneWord rfl (noExtension hm rfl) ?_
  rw [decodeWord, hm, decodeRow7, hm]
  have hs := bits_acc (word 0xEC004000 [(g.toNat, 22), (h.toNat, 19), (c.toNat, 16), (m.toNat, 4)])
  have e0 : ¬bits (word 0xEC004000 [(g.toNat, 22), (h.toNat, 19), (c.toNat, 16), (m.toNat, 4)]) 0 16 = 0 := by omega
  simp [decode76, h0, h1, p0, p1, p2, p3, e0]

theorem mxAccGet (g : BitVec 3) (h : BitVec 3) (c : BitVec 3) (d : BitVec 6) : Statement (.mxAccGet g h c d) := by
  obtain ⟨hm, h0, h1, p0, p1, p2, p3⟩ := layout51 0xEC008000 0x76 0 2 rfl (by decide) (by decide) (by decide) g h c d
  refine oneWord rfl (noExtension hm rfl) ?_
  rw [decodeWord, hm, decodeRow7, hm]
  have hs := bits_acc (word 0xEC008000 [(g.toNat, 22), (h.toNat, 19), (c.toNat, 16), (d.toNat, 8)])
  have e0 : ¬bits (word 0xEC008000 [(g.toNat, 22), (h.toNat, 19), (c.toNat, 16), (d.toNat, 8)]) 0 16 = 0 := by omega
  have e1 : ¬bits (word 0xEC008000 [(g.toNat, 22), (h.toNat, 19), (c.toNat, 16), (d.toNat, 8)]) 8 8 = 64 := by omega
  simp [decode76, h0, h1, p0, p1, p2, p3, e0, e1]

theorem mxLeaseBind (q : BitVec 2) (b : BitVec 6) (s : BitVec 6) : Statement (.mxLeaseBind q b s) := by
  obtain ⟨hm, h0, h1, h2, p0, p1, p2⟩ := layout52 0xEF000000 0x77 0 0 2 rfl (by decide) (by decide) (by decide) (by decide) q b s
  refine oneWord rfl (noExtension hm rfl) ?_
  rw [decodeWord, hm, decodeRow7, hm]
  simp only [decode77, h0, h1, h2, p0, p1, p2]
  rfl

theorem rep (x : BitVec 1) (y : BitVec 1) (z : BitVec 1) (n : BitVec 6) : Statement (.rep x y z n) := by
  obtain ⟨hm, h0, h1, p0, p1, p2, p3⟩ := layout53 0xF0000000 0x78 0 rfl (by decide) (by decide) x y z n
  refine oneWord rfl (noExtension hm rfl) ?_
  rw [decodeWord, hm, decodeRow7, hm]
  simp only [decode78, h0, h1, p0, p1, p2, p3]
  rfl

theorem lgLd (z : BitVec 3) (d : BitVec 6) (a : BitVec 6) (s : BitVec 6) : Statement (.lgLd z d a s) := by
  obtain ⟨hm, h0, h1, p0, p1, p2, p3⟩ := layout54 0xF2000000 0x79 0 0 rfl (by decide) (by decide) (by decide) z d a s
  refine oneWord rfl (noExtension hm rfl) ?_
  rw [decodeWord, hm, decodeRow7, hm]
  simp only [decode79, h0, h1, p0, p1, p2, p3]
  rfl

theorem lgSt (z : BitVec 3) (d : BitVec 6) (a : BitVec 6) (s : BitVec 6) : Statement (.lgSt z d a s) := by
  obtain ⟨hm, h0, h1, p0, p1, p2, p3⟩ := layout54 0xF2400000 0x79 0 1 rfl (by decide) (by decide) (by decide) z d a s
  refine oneWord rfl (noExtension hm rfl) ?_
  rw [decodeWord, hm, decodeRow7, hm]
  simp only [decode79, h0, h1, p0, p1, p2, p3]
  rfl

theorem vIota (g : BitVec 3) (t : BitVec 3) (d : BitVec 6) (i : BitVec 13) : Statement (.vIota g t d i) := by
  obtain ⟨hm, p0, p1, p2, p3⟩ := layout24 0x72000000 0x39 rfl (by decide) g t d i
  refine oneWord rfl (noExtension hm rfl) ?_
  rw [decodeWord, hm, decodeRow3, hm]
  simp only [decode39, p0, p1, p2, p3]

theorem sysret : Statement .sysret := oneWord rfl (by decide) (by rfl)

theorem idle : Statement .idle := oneWord rfl (by decide) (by rfl)

theorem actFlip : Statement .actFlip := oneWord rfl (by decide) (by rfl)

theorem ends : Statement .ends := oneWord rfl (by decide) (by rfl)

theorem armwait : Statement .armwait := oneWord rfl (by decide) (by rfl)

theorem exit : Statement .exit := oneWord rfl (by decide) (by rfl)

theorem mxLeaseAcq : Statement .mxLeaseAcq := oneWord rfl (by decide) (by rfl)

theorem mxLeaseRel : Statement .mxLeaseRel := oneWord rfl (by decide) (by rfl)

theorem lgBar : Statement .lgBar := oneWord rfl (by decide) (by rfl)

theorem repRepeat : Statement .repRepeat := rfl

theorem clauseBegin : Statement .clauseBegin := rfl

theorem windowLoad : Statement .windowLoad := rfl

theorem pinGiveback : Statement .pinGiveback := rfl

theorem quadIssueCycle : Statement .quadIssueCycle := rfl

theorem ageRotation : Statement .ageRotation := rfl

theorem longResultFill : Statement .longResultFill := rfl

theorem scalarFill : Statement .scalarFill := rfl

theorem loadFill : Statement .loadFill := rfl

theorem atomicStep : Statement .atomicStep := rfl

theorem arrivalStep : Statement .arrivalStep := rfl

theorem parkWake : Statement .parkWake := rfl

theorem parkRetry : Statement .parkRetry := rfl

theorem fenceComplete : Statement .fenceComplete := rfl

theorem armwaitComplete : Statement .armwaitComplete := rfl

theorem joinIssue : Statement .joinIssue := rfl

theorem ringWaitComplete : Statement .ringWaitComplete := rfl

theorem cWaitComplete : Statement .cWaitComplete := rfl

theorem lgBarComplete : Statement .lgBarComplete := rfl

theorem actLdWrite : Statement .actLdWrite := rfl

theorem actFlipComplete : Statement .actFlipComplete := rfl

theorem translationWalk : Statement .translationWalk := rfl

theorem invalidatePage : Statement .invalidatePage := rfl

theorem invalidateAsid : Statement .invalidateAsid := rfl

theorem invalidateAll : Statement .invalidateAll := rfl

theorem invalidationComplete : Statement .invalidationComplete := rfl

theorem carderDecision : Statement .carderDecision := rfl

theorem queueEntry : Statement .queueEntry := rfl

theorem placementAttempt : Statement .placementAttempt := rfl

theorem carderPreemption : Statement .carderPreemption := rfl

theorem launchCompletion : Statement .launchCompletion := rfl

theorem copyPartCompletion : Statement .copyPartCompletion := rfl

theorem mcastDelivery : Statement .mcastDelivery := rfl

theorem matrixOperationCompletion : Statement .matrixOperationCompletion := rfl

theorem drainCompletion : Statement .drainCompletion := rfl

theorem leaseGrant : Statement .leaseGrant := rfl

theorem leasePass : Statement .leasePass := rfl

theorem bandRecordWrite : Statement .bandRecordWrite := rfl

theorem cellStep : Statement .cellStep := rfl

theorem battEnable : Statement .battEnable := rfl

theorem battDisable : Statement .battDisable := rfl

theorem battChangeDone : Statement .battChangeDone := rfl

theorem trapEntry : Statement .trapEntry := rfl

theorem interrupt : Statement .interrupt := rfl

theorem timer : Statement .timer := rfl

theorem warpIdleTimeout : Statement .warpIdleTimeout := rfl

theorem saveAndRequeue : Statement .saveAndRequeue := rfl

theorem saveAndHold : Statement .saveAndHold := rfl

theorem prel : Statement .prel := rfl

theorem saveCompletion : Statement .saveCompletion := rfl

theorem restore : Statement .restore := rfl

theorem mapq : Statement .mapq := rfl

theorem memoryMapConfigWrite : Statement .memoryMapConfigWrite := rfl

theorem retreq : Statement .retreq := rfl

theorem retirementComplete : Statement .retirementComplete := rfl

theorem pprreq : Statement .pprreq := rfl

theorem repairComplete : Statement .repairComplete := rfl

theorem rateChange : Statement .rateChange := rfl

theorem retrainComplete : Statement .retrainComplete := rfl

theorem forcedRetrain : Statement .forcedRetrain := rfl

theorem pseudoChannelService : Statement .pseudoChannelService := rfl

theorem linkFrameFailure : Statement .linkFrameFailure := rfl

theorem sessionKeyReplacement : Statement .sessionKeyReplacement := rfl

theorem uncorrectableError : Statement .uncorrectableError := rfl

theorem fabricLinkFailure : Statement .fabricLinkFailure := rfl

theorem hmsix : Statement .hmsix := rfl

theorem hostBarAccess : Statement .hostBarAccess := rfl

theorem cxlMemAccess : Statement .cxlMemAccess := rfl

theorem nvmeDma : Statement .nvmeDma := rfl

theorem storageMessage : Statement .storageMessage := rfl

theorem sealgo : Statement .sealgo := rfl

theorem sealComplete : Statement .sealComplete := rfl

theorem xopWrite : Statement .xopWrite := rfl

theorem xopAddFp32 : Statement .xopAddFp32 := rfl

theorem xopAddBf16 : Statement .xopAddBf16 := rfl

theorem xopAddFp16 : Statement .xopAddFp16 := rfl

theorem scaleOutAcknowledge : Statement .scaleOutAcknowledge := rfl

theorem scaleOutTimeout : Statement .scaleOutTimeout := rfl

theorem start : Statement .start := rfl

theorem signal : Statement .signal := rfl

theorem scvecClear : Statement .scvecClear := rfl

theorem assignSlot : Statement .assignSlot := rfl

theorem emptySlot : Statement .emptySlot := rfl

theorem registerTenant : Statement .registerTenant := rfl

theorem markConfidential : Statement .markConfidential := rfl

theorem divide : Statement .divide := rfl

theorem powerLimit : Statement .powerLimit := rfl

theorem ready : Statement .ready := rfl

theorem setPowerLimit : Statement .setPowerLimit := rfl

theorem readPowerLimit : Statement .readPowerLimit := rfl

theorem readStatus : Statement .readStatus := rfl

theorem sessionOpen : Statement .sessionOpen := rfl

theorem endSession : Statement .endSession := rfl

theorem sessionTimeout : Statement .sessionTimeout := rfl

theorem setBreakpoint : Statement .setBreakpoint := rfl

theorem clearBreakpoint : Statement .clearBreakpoint := rfl

theorem setWatchpoint : Statement .setWatchpoint := rfl

theorem clearWatchpoint : Statement .clearWatchpoint := rfl

theorem setCapture : Statement .setCapture := rfl

theorem startCapture : Statement .startCapture := rfl

theorem freezeCapture : Statement .freezeCapture := rfl

theorem setTrigger : Statement .setTrigger := rfl

theorem markForRecording : Statement .markForRecording := rfl

theorem replay : Statement .replay := rfl

theorem setContinueLive : Statement .setContinueLive := rfl

theorem dumpParkTable : Statement .dumpParkTable := rfl

theorem poll : Statement .poll := rfl

theorem release : Statement .release := rfl

theorem loadKey : Statement .loadKey := rfl

theorem sample : Statement .sample := rfl

theorem junctionLimit : Statement .junctionLimit := rfl

theorem thermalShutdown : Statement .thermalShutdown := rfl

theorem flowHold : Statement .flowHold := rfl

theorem flowRecovery : Statement .flowRecovery := rfl

theorem flowLoss : Statement .flowLoss := rfl

theorem bringUp : Statement .bringUp := rfl

theorem freeze : Statement .freeze := rfl

theorem masterReset : Statement .masterReset := rfl

theorem ioRegisterWrite : Statement .ioRegisterWrite := rfl

theorem scaleOutRequestArrival : Statement .scaleOutRequestArrival := rfl

theorem hostLinkState : Statement .hostLinkState := rfl

theorem cxlMemEnable : Statement .cxlMemEnable := rfl

theorem killLaunch : Statement .killLaunch := rfl

end Sys2Proof.Laws.Encoding
end

