-- ==== Sys2Proof/Safety.lean ====
section
/-! DEFINITION. What counts as a safe step and a safe state, and the terms in which claims say when an instruction
completes: operands that can be read, registers that can be written, and the state after a completed instruction. -/

namespace Sys2Proof.Machine

open Sys2Proof

/-! ## Steps and states -/

/-- A step that neither faults nor refuses. -/
def stepAnswers (s : State) : Prop := ∃ t, step s = .next t

/-- The memory has its canonical form. -/
def memoryOk (s : State) : Prop := Memory.wf s.mem

/-- Every byte of memory reads the same in two states. -/
def sameMemory (s t : State) : Prop := ∀ p, readByte t p = readByte s p

/-- Two states differ in the executing strand's context alone: memory, every other context, every core, die, table and
queue are the same. -/
def onlyCur (s t : State) : Prop :=
  t = { s with ctxs := t.ctxs } ∧ (∀ k, k ≠ s.focus.key → getCtx t k = getCtx s k) ∧ sameMemory s t

/-- The other strands of the context are the same, and so are the executing strand's lanes and its place in its tree. -/
def sameStrands (s t : State) : Prop :=
  (∀ i, i ≠ s.focus.slot → getStrand (cur t) i = getStrand (cur s) i) ∧ (curStrand t).mask = (curStrand s).mask ∧
    (curStrand t).parent = (curStrand s).parent ∧ (curStrand t).root = (curStrand s).root ∧
    (curStrand t).valid = (curStrand s).valid ∧ (curStrand t).ser = (curStrand s).ser

/-- The frame of a form whose one destination is S[d]: nothing else changes but the strand's own place. -/
def frameS (s t : State) (d : BitVec 6) : Prop :=
  onlyCur s t ∧ sameStrands s t ∧
    cur t = { cur s with sregs := (cur t).sregs, strands := (cur t).strands } ∧
    ∀ n, n ≠ d.toNat ∨ n = 0 → getS (cur t) n = getS (cur s) n

/-- The frame of a form whose one destination is P[p]. -/
def frameP (s t : State) (p : BitVec 3) : Prop :=
  onlyCur s t ∧ sameStrands s t ∧
    cur t = { cur s with preds := (cur t).preds, strands := (cur t).strands } ∧
    ∀ n, n < 8 → n ≠ p.toNat ∨ n = 0 → getP (cur t) n = getP (cur s) n

/-- The frame of a form that writes the given lanes of V[r] and ORs flags into FFLAGS. -/
def frameV (s t : State) (r : Nat) (lanes : List Nat) : Prop :=
  onlyCur s t ∧ sameStrands s t ∧
    cur t = { cur s with vregs := (cur t).vregs, fflags := (cur t).fflags, strands := (cur t).strands } ∧
    (∀ q l, l < 64 → q ≠ r ∨ l ∉ lanes → getV (cur t) q l = getV (cur s) q l) ∧
    (cur s).fflags &&& (cur t).fflags = (cur s).fflags

/-- The frame of a form that writes bits of K[k] and ORs flags into FFLAGS. -/
def frameK (s t : State) (k : Nat) : Prop :=
  onlyCur s t ∧ sameStrands s t ∧
    cur t = { cur s with ks := (cur t).ks, fflags := (cur t).fflags, strands := (cur t).strands } ∧
    (∀ n, n ≠ k → getK (cur t) n = getK (cur s) n) ∧ (cur s).fflags &&& (cur t).fflags = (cur s).fflags

/-! ## Operands that can be read -/

/-- S[n] can be read and holds x: it is full and not poisoned (02 R36, 21 R417). -/
def holdsS (s : State) (n : BitVec 6) (x : Word) : Prop := getS (cur s) n.toNat = { val := x }

/-- S[n] can be written: no fill is in flight (02 R36). -/
def writableS (s : State) (n : BitVec 6) : Prop := (getS (cur s) n.toNat).fill ≠ .pending

/-- The second operand of an SR form: a register, or with i = 1 a signed six-bit immediate (04 R92, 05 R111). -/
def operandB (s : State) (b : BitVec 6) (i : BitVec 1) (y : Word) : Prop :=
  (i = 1 ∧ y = b.signExtend 64) ∨ (i = 0 ∧ holdsS s b y)

/-- A vector field names register r, within the warp's allotment (04 R93, R100). -/
def namesV (s : State) (f : BitVec 6) (excess r : Nat) : Prop :=
  r = f.toNat + excess + (cur s).xb.toNat ∧ r < (cur s).allot

/-- The vector fields d, a and b name three registers. -/
def namesDab (s : State) (d a b : BitVec 6) (rd ra rb : Nat) : Prop :=
  namesV s d (curStrand s).overD rd ∧ namesV s a (curStrand s).overA ra ∧ namesV s b (curStrand s).overB rb

/-- The vector fields d and a name two registers. -/
def namesDa (s : State) (d a : BitVec 6) (rd ra : Nat) : Prop :=
  namesV s d (curStrand s).overD rd ∧ namesV s a (curStrand s).overA ra

/-- The lanes of registers can be read: each is full and not poisoned (07 R147, 21 R417). -/
def lanesHold (s : State) (regs lanes : List Nat) : Prop :=
  ∀ l ∈ lanes, ∀ r ∈ regs, (getV (cur s) r l).fill = .full ∧ (getV (cur s) r l).poison = false

/-- The lanes of registers can be written: no fill is in flight, and the matrix engine does not hold the register
(04 R95, 19 R382). -/
def lanesFree (s : State) (regs lanes : List Nat) : Prop :=
  ∀ l ∈ lanes, ∀ r ∈ regs, (getV (cur s) r l).fill ≠ .pending ∧ heldRegister s s.focus.key r = false

/-- Registers r to r + k lie within the allotment (04 R93). -/
def runFits (s : State) (r k : Nat) : Prop := r + k < (cur s).allot

/-- The executing warp's launch is not being replayed, so that no recorded choice is forced (24 R475). -/
def notReplayed (s : State) : Prop := replays s s.focus.key = false

/-- The executing warp's launch is neither recorded nor replayed (24 R473). -/
def unrecorded (s : State) : Prop := notReplayed s ∧ (launchOf s s.focus.key).recording = false

/-- No fence of kind rel holds the strand's stores and atomics (12 R259). -/
def noFenceHolds (s : State) : Prop := relHolds s = false

/-- An indirect target that the checks admit: aligned, fetchable, not held by main memory, and a clause header (04 R99). -/
def legalTarget (s : State) (t : Word) : Prop :=
  t.toNat % 4 = 0 ∧ codeHeld s s.focus.key t = false ∧ ∃ w, fetchCode s s.focus.key t = .ok w ∧ isHeader w = true

/-- The accesses of one instruction pass every check of 11 R236, with no table entry that is held and no watchpoint hit. -/
def accessesPass (s : State) (a : Acc) (n : Nat) (addrs : List Nat) : Prop :=
  walksHeld s (requester s s.focus.key) n addrs = false ∧
    checkAccess s (requester s s.focus.key) a n addrs (curStrand s).exempt = none

/-- Main memory holds neither the record at an address nor the role table that it names (14 R273, 18 R364 to R369). -/
def carderMayRead (s : State) (at_ : Word) (l : LaunchRead) : Prop :=
  carderHeld s (requester s s.focus.key) at_.toNat 128 = false ∧
    (recRoles (l.record.getD []) = 0 ∨ carderHeld s (requester s s.focus.key) (recRoles (l.record.getD [])) 64 = false)

/-- Where the executing strand's access to a virtual address goes. -/
def targetAt (s : State) (va : Nat) : Target := targetOf s (requester s s.focus.key) va

/-- The address of a lane's access under the base S[b] of a memory form: S[b] + V[r][l] (12 R250). -/
def laneAt (s : State) (base : Word) (r l : Nat) : Nat := (base + laneVal (cur s) r l).toNat

/-- The accesses of the given lanes, of n bytes each, with their data. -/
def accessesOf (s : State) (lanes : List Nat) (va : Nat → Nat) (n : Nat) (data data2 : Nat → Nat) : List Access :=
  lanes.flatMap fun l => laneAccesses s (requester s s.focus.key) l (va l) n (data l) (data2 l)

/-- The strand that a step is for waits for `why`, and issues instruction i in state t when it issues again. -/
def reissues (s : State) (why : Why) (i : Instr) (t : State) : Prop :=
  issuable s s.input.who = true ∧ (∃ n, (getStrand (getCtx s s.input.who.key) s.input.who.slot).wait = .held why n) ∧
    issueNext { s with focus := s.input.who } = .exec i t

/-- The operation that a step is for is the only one of its context, with one access, which has not been performed and
lies outside main memory, past no frozen port; its launch is neither recorded nor replayed. -/
def soleAccess (s : State) (o : MemOp) (a : Access) : Prop :=
  (getCtx s s.input.who.key).ops = [o] ∧ s.input.id = o.id ∧ o.accs = [a] ∧ a.done = false ∧ a.poison = false ∧
    a.lane < 64 ∧ mainTop ≤ a.place ∧ portFrozen s (keyDie s.input.who.key) a.place = false ∧ replays s s.input.who.key = false ∧
    (launchOf s s.input.who.key).recording = false

/-- The engine operation that a step is for: it is its core's only one, its warp has no access outstanding, its
workgroup is not saved away, and the port of the die that issued it is not frozen and was not while it was open. -/
def soleEngine (s : State) (o : EngineOp) : Prop :=
  (getCore s s.input.place).engine = [o] ∧ s.input.id = o.id ∧ (getCtx s o.ctx).ops = [] ∧ (getWg s o.wg).away = false ∧
    o.cut = false ∧ (getDie s (keyDie o.by_)).frozen = false

/-- The place of byte k of row i of a copy's destination: rows a pitch apart, each swizzled in 16-byte chunks (17 R326,
R327). -/
def copyByte (r : Record) (i k : Nat) : Nat := i * r.dpitch + Nat.xor k (i % 2 ^ r.swz * 16)

/-- Every row of a copy stands at its destination, and every other byte of memory is as before (17 R327). -/
def rowsCopied (s u : State) (r : Record) (src dst : Nat) : Prop :=
  (∀ i k, i < r.rows → k < r.rb → readByte u (dst + copyByte r i k) = readByte s (src + (i * r.spitch + k))) ∧
    ∀ q, (∀ i k, i < r.rows → k < r.rb → q ≠ dst + copyByte r i k) → readByte u q = readByte s q

/-- The source rows hold no poisoned byte. -/
def rowsSound (s : State) (r : Record) (src : Nat) : Prop :=
  ∀ i k, i < r.rows → k < r.rb → poisonedRun s (src + (i * r.spitch + k)) 1 = false

/-! ## The step of a strand's next word -/

/-- The state with what the engines have come to noted and time passed, in which a step makes its move. -/
def onward (s : State) : State := elapse (watchEngines s)

/-- The state in which a step is a strand's turn: the outside names the strand, or nothing else is ready and the strands
take turns. -/
def turnIn (s t : State) : Prop :=
  (∃ who rest, s.agenda = .issue who :: rest ∧ t = { onward s with agenda := rest, focus := who }) ∨
    (s.agenda = [] ∧ (s.due = [] ∨ s.postponed = true) ∧
      t = { onward s with postponed := false, focus := nextStrand (onward s) s.focus })

/-- A step is the issue of a strand's next word: it is the strand's turn in state t, and the word is looked at in state r. The
strand can issue, no interrupt is due, no recorded operation of it waits for its steps, no second pass of it is to come, its
clause has begun and its header can be fetched, main memory holds none of its words, it is pinned or its window is resident,
and no breakpoint names the word. -/
def issuesIn (s t r : State) : Prop :=
  turnIn s t ∧ issuable t t.focus = true ∧ interruptDue t = false ∧ (curStrand t).replayOp = none ∧
    passDue (curStrand t) = none ∧ (curStrand t).begun = true ∧ codeHeld t t.focus.key (curStrand t).ca = false ∧
    ∃ h, fetchCode t t.focus.key (curStrand t).ca = .ok h ∧
    (let q := readyToIssue t h
     wordsHeld q = false ∧
     if isSystem t.focus.key = true ∨ (curStrand q).pinned = true then r = q
     else windowResident q = true ∧ r = pinWindow q) ∧
    breakHit r = false

/-- A strand whose turn it is in state t traps at its next word, looked at in state r, and the load of the handler's window is
started (09 R197, 21 R410). -/
def trapsAt (t r : State) (cause : BitVec 8) (taddr detail : Word) : Host.Outcome State Fault Refusal :=
  .next (arrived t (trapHere r cause taddr detail))

/-- Word k of the executing strand's clause can be fetched, and is w. -/
def wordAt (r : State) (k : Nat) (w : Code) : Prop := fetchCode r r.focus.key (wordAddress (curStrand r) k) = .ok w

/-- The clause's class admits a word (04 R87, R88). -/
def classAdmits (r : State) (w : Code) : Prop :=
  match majorClass (majorOf w) with
  | none => True
  | some k => k = 0 ∨ k = (curStrand r).hdr.ecl.toNat

/-- Word w in place k of the clause is, with its extension word where it takes one, instruction i (04 R104 to R106). -/
def standsFor (r : State) (w : Code) (k : Nat) (i : Instr) : Prop :=
  isHeader w = false ∧ isExtension w = false ∧ classAdmits r w ∧
    ((takesExtension w = false ∧ decodeWord w none = .ok i) ∨
      (takesExtension w = true ∧ k < (curStrand r).hdr.n.toNat ∧
        (majorOf w = 0x60 → k + 1 = (curStrand r).hdr.n.toNat) ∧
        ∃ e, wordAt r (k + 1) e ∧ isExtension e = true ∧ decodeWord w (some e) = .ok i))

/-! ## Completed instructions -/

/-- The next state in which the strand has gone on past one word. -/
def done (s : State) : Host.Outcome State Fault Refusal := .next (retire s 1)

/-- The executing strand, which stands in state t in its clause outside a rep, has gone on past two words in state u. -/
def pastTwo (t u : State) : Prop :=
  let x := curStrand t
  let y := curStrand u
  if x.wi.toNat + 2 ≤ x.hdr.n.toNat then y.ca = x.ca ∧ y.wi.toNat = x.wi.toNat + 2 ∧ y.begun = x.begun
  else y.ca = nextClause t ∧ y.wi = 1 ∧ y.begun = false

/-- S[d] ← v, and the strand has gone on. -/
def doneS (s : State) (d : BitVec 6) (v : Word) : Host.Outcome State Fault Refusal := done (wrS s d v)

/-- P[p] ← v, and the strand has gone on. -/
def doneP (s : State) (p : BitVec 3) (v : Bool) : Host.Outcome State Fault Refusal := done (wrP s p v)

/-- V[r] gets a value in each given lane, the flags are ORed into FFLAGS, and the strand has gone on (07 R147). -/
def doneV (s : State) (r : Nat) (outs : List (Nat × (Word × BitVec 6))) : Host.Outcome State Fault Refusal :=
  done (setCur s (deliver (cur s) r outs))

/-- The lanes in which an instruction works, each with a function of it. -/
def perLane {α : Type} (s : State) (g : BitVec 3) (f : Nat → α) : List (Nat × α) := (activeLanes s g).map fun l => (l, f l)

/-- V[r] gets a function of each active lane, with no flag raised. -/
def doneLanes (s : State) (g : BitVec 3) (r : Nat) (f : Nat → Word) : Host.Outcome State Fault Refusal :=
  doneV s r (perLane s g fun l => (f l, 0))

/-- The given lanes of V[r] are pending, their values on the way, and the strand has gone on (07 R148). -/
def doneLong (s : State) (r : Nat) (outs : List (Nat × (Word × BitVec 6))) : Host.Outcome State Fault Refusal :=
  if outs.isEmpty then done s
  else
    done (issueOp (setCur s (pendLanes (cur s) r (outs.map Prod.fst))) .longResult r
      (outs.map fun o => { lane := o.1, data := o.2.1.toNat, flags := o.2.2 }))

/-- S[d] is pending, the operation that will fill it is on its way, and the strand has gone on (02 R36). -/
def doneFill (s : State) (kind : OpKind) (d : BitVec 6) (accs : List Access) : Host.Outcome State Fault Refusal :=
  done (issueOp (setCur s (putS (cur s) d.toNat { getS (cur s) d.toNat with fill := .pending })) kind d.toNat accs)

/-- The given lanes of registers are pending, the operation that will fill them is on its way, and the strand has gone
on. -/
def doneFillV (s : State) (kind : OpKind) (r : Nat) (regs lanes : List Nat) (accs : List Access) :
    Host.Outcome State Fault Refusal :=
  done (issueOp (setCur s (pendRegs (cur s) lanes regs)) kind r accs)

/-- The instruction traps at itself with a cause, a trap address and a DETAIL (21 R410). -/
def traps (s : State) (cause : BitVec 8) (taddr detail : Word) : Host.Outcome State Fault Refusal :=
  .next (trapHere s cause taddr detail)

/-- The instruction waits, to be issued again (08 R178). -/
def waits (s : State) (why : Why) : Host.Outcome State Fault Refusal := .next (hold s why)

end Sys2Proof.Machine
end

