-- ==== Sys2Proof/WellFormed.lean ====
section
/-! DEFINITION. Well-formed instructions: what the word alone settles beyond its fixed bits (04 R92: the type and size
codes that an operation accepts, reserved selectors, and fields that must be zero). A word that fails here decodes, and
traps 0x01 when it executes; whether it also names registers, grants or modes that the state lacks is asked then. The
table below is written from the spec's rules apart from the meanings, which ask the same questions. -/

namespace Sys2Proof

/-- Integer type codes: s32, n32, s64, n64 (01 R18, 07 R151). -/
def integerType (t : BitVec 3) : Bool := 4 ≤ t.toNat

/-- Float type codes: f32, f16, bf16, f64 (01 R18). -/
def floatType (t : BitVec 3) : Bool := t.toNat ≤ 3

/-- Float type codes other than f64 (07 R166, R171; 10 R221). -/
def narrowType (t : BitVec 3) : Bool := t.toNat ≤ 2

/-- The source types of v.dot: f16 and bf16 (07 R165). -/
def dotType (t : BitVec 3) : Bool := t == 1 || t == 2

/-- The destination types of v.pack: those that have a type of twice their width (07 R160). -/
def packType (t : BitVec 3) : Bool := t == 0 || t == 1 || t == 2 || t == 4 || t == 5

/-- The sizes of scalar and group-indexed accesses: up to a doubleword (05 R121, 23 R459). -/
def scalarSize (z : BitVec 3) : Bool := z.toNat ≤ 6

/-- The scopes of a fence (12 R259). -/
def fenceScope (s : BitVec 3) : Bool := s.toNat ≤ 4

/-- A format of a shared-exponent block and the halfword of its scale; two scale words need two halfwords (10 R220,
R221). -/
def blockPlace (f s : BitVec 2) : Bool := (f == 0 && s != 3) || f == 1 || f == 2

/-- The format and scale halfword of mx.mma: the shared-exponent formats take a halfword, the others none (19 R386). -/
def mmaOperand (f : BitVec 3) (s : BitVec 2) : Bool :=
  match f.toNat with
  | 0 => s != 3
  | 1 | 2 => true
  | 3 | 4 | 5 | 6 => s == 0
  | _ => false

/-- The selectors of shp.get (19 R373). -/
def gauge (s : BitVec 6) : Bool := s.toNat ≤ 6

/-- The control registers that some core has (02 R43). -/
def listedRegister (n : BitVec 10) : Bool := n.toNat ≤ 0x11 || (0x20 ≤ n.toNat && n.toNat ≤ 0x22)

/-- A join set of a fork: absent, its fields are zero (04 R97). -/
def emptySet (v : BitVec 1) (base : BitVec 6) (len : BitVec 3) : Bool := v == 1 || (base == 0 && len == 0)

/-- The well-formed instructions. A step without an encoding has no fields, and is well-formed. -/
def Instr.wf (i : Instr) : Bool :=
  match i with
  | .sLd _ z _ _ _ => scalarSize z
  | .sSt _ z _ _ _ => scalarSize z
  | .crRd _ _ n => listedRegister n
  | .crWr _ _ n => listedRegister n
  | .vRem _ t _ _ _ _ => integerType t
  | .vSqrt _ t _ _ _ => floatType t
  | .vShl _ t _ _ _ _ => integerType t
  | .vShr _ t _ _ _ _ => integerType t
  | .vUnPopc _ t _ _ _ => integerType t
  | .vUnClz _ t _ _ _ => integerType t
  | .vUnCtz _ t _ _ _ => integerType t
  | .vUnBrev _ t _ _ _ => integerType t
  | .vUnRint _ t _ _ _ _ => floatType t
  | .vSfuExp2 _ t _ _ _ => narrowType t
  | .vSfuExpe _ t _ _ _ => narrowType t
  | .vSfuLog2 _ t _ _ _ => narrowType t
  | .vSfuLoge _ t _ _ _ => narrowType t
  | .vSfuRcp _ t _ _ _ => narrowType t
  | .vSfuRsqrt _ t _ _ _ => narrowType t
  | .vSfuSinpi _ t _ _ _ => narrowType t
  | .vSfuCospi _ t _ _ _ => narrowType t
  | .vAct _ t _ _ _ _ => narrowType t
  | .vMulhi _ t _ _ _ _ => integerType t
  | .vPack _ t _ _ _ _ => packType t
  | .vDot _ t _ _ _ _ => dotType t
  | .xSepk _ t _ _ f s _ => narrowType t && blockPlace f s
  | .xSeunpk _ t _ _ f s _ => narrowType t && blockPlace f s
  | .fenceAcq _ s => fenceScope s
  | .fenceRel _ s => fenceScope s
  | .fenceAcqrel _ s => fenceScope s
  | .fenceSc _ s => fenceScope s
  | .fork _ _ _ av ab al bv bb bl => emptySet av ab al && emptySet bv bb bl
  | .cMcast _ _ _ _ targets _ _ _ => targets != 0
  | .mxDrain _ _ _ _ _ p q => p == 1 || q == 0
  | .shpGet _ _ _ s => gauge s
  | .mxMma _ _ _ _ f s _ _ => mmaOperand f s
  | .lgLd z _ _ _ => scalarSize z
  | .lgSt z _ _ _ => scalarSize z
  | .nop .. | .sAluAdd .. | .sAluSub .. | .sAluAnd .. | .sAluOr .. | .sAluXor .. | .sAluShl .. | .sAluShr ..
  | .sAluSar .. | .sAlu2Mul .. | .sAlu2Mulhs .. | .sAlu2Mulhn .. | .sAlu2Min .. | .sAlu2Max .. | .sAlu2Minn ..
  | .sAlu2Maxn .. | .sAlu2Rotr .. | .sDivDivs .. | .sDivDivn .. | .sDivRems .. | .sDivRemn .. | .sAddi ..
  | .sAndi .. | .sOri .. | .sXori .. | .sMovi .. | .sMovk .. | .sCmpEq .. | .sCmpNe .. | .sCmpLts ..
  | .sCmpLes .. | .sCmpLtn .. | .sCmpLen .. | .sCmpTst .. | .sCmpNtst .. | .sCmpiEq .. | .sCmpiNe ..
  | .sCmpiLts .. | .sCmpiLes .. | .sCmpiLtn .. | .sCmpiLen .. | .sCmpiTst .. | .sCmpiNtst .. | .pOpAnd ..
  | .pOpOr .. | .pOpXor .. | .pOpAndn .. | .pOpOrn .. | .pOpMov .. | .pOpSet .. | .pOpClr .. | .sSel ..
  | .sBitExtz .. | .sBitExts .. | .sBitIns .. | .sBitClz .. | .sBitCtz .. | .sBitPopc .. | .sBitRev ..
  | .sBitBswap .. | .b .. | .bInd .. | .call .. | .callInd .. | .callLane .. | .ret .. | .sAmoAdd ..
  | .sAmoAnd .. | .sAmoOr .. | .sAmoXor .. | .sAmoMax .. | .sAmoMin .. | .sAmoXchg .. | .sAmoCas ..
  | .sLeaGstore .. | .sLeaSpill .. | .sLeaClause .. | .trap .. | .launch .. | .lwait .. | .launchCtx ..
  | .vAdd .. | .vSub .. | .vMul .. | .vFma .. | .vFnma .. | .vMin .. | .vMax .. | .vDiv .. | .vAnd .. | .vOr ..
  | .vXor .. | .vUnAbs .. | .vUnNeg .. | .vUnNot .. | .vCmpEq .. | .vCmpNe .. | .vCmpLt .. | .vCmpLe ..
  | .vCmpGt .. | .vCmpGe .. | .vCmpsEq .. | .vCmpsLt .. | .vCmpsLe .. | .vBsel .. | .vCvt .. | .vMov ..
  | .vMovi .. | .vBcs .. | .actLd .. | .xShfl .. | .xShfliXor .. | .xShfliUp .. | .xShfliDown ..
  | .xShfliRot .. | .xBcast .. | .xRedAdd .. | .xRedMin .. | .xRedMax .. | .xRedAnd .. | .xRedOr ..
  | .xRedXor .. | .xScanAdd .. | .xScanMin .. | .xScanMax .. | .xScanAnd .. | .xScanOr .. | .xScanXor ..
  | .xBallot .. | .kOpAnd .. | .kOpOr .. | .kOpXor .. | .kOpAndn .. | .kOpNot .. | .kOpMov .. | .kOpFrom ..
  | .kOpTo .. | .kOpPopc .. | .bsRd .. | .bsFill .. | .bsCurGet .. | .bsCurSet .. | .kTestAny .. | .kTestAll ..
  | .mLd .. | .mSt .. | .mLds .. | .mAtomWAdd .. | .mAtomWMin .. | .mAtomWMax .. | .mAtomWMinn ..
  | .mAtomWMaxn .. | .mAtomWAnd .. | .mAtomWOr .. | .mAtomWXor .. | .mAtomDAdd .. | .mAtomDMin ..
  | .mAtomDMax .. | .mAtomDMinn .. | .mAtomDMaxn .. | .mAtomDAnd .. | .mAtomDOr .. | .mAtomDXor ..
  | .mAtomPAdd .. | .mAtomPMin .. | .mAtomPMax .. | .mAtomPMinn .. | .mAtomPMaxn .. | .mAtomPAnd ..
  | .mAtomPOr .. | .mAtomPXor .. | .mXchg .. | .mCas .. | .mArrive .. | .mWait .. | .fenceTlr .. | .mPush ..
  | .mPop .. | .mLdv .. | .mStv .. | .mRcnAdd .. | .mRcnMax .. | .mRcnMin .. | .mRcnOr .. | .mRcnPick ..
  | .join .. | .smask .. | .setx .. | .cCopy .. | .cClose .. | .cWait .. | .rPost .. | .rWait ..
  | .tBandOpen .. | .tBandClose .. | .shpSet .. | .mxMap .. | .mxMv .. | .mxAccZero ..
  | .mxAccLoad .. | .mxAccGet .. | .mxLeaseBind .. | .rep .. | .vIota .. | .sysret | .idle | .actFlip | .ends
  | .armwait | .exit | .mxLeaseAcq | .mxLeaseRel | .lgBar | .repRepeat | .clauseBegin | .windowLoad
  | .pinGiveback | .quadIssueCycle | .ageRotation | .longResultFill | .scalarFill | .loadFill | .atomicStep
  | .arrivalStep | .parkWake | .parkRetry | .fenceComplete | .armwaitComplete | .joinIssue | .ringWaitComplete
  | .cWaitComplete | .lgBarComplete | .actLdWrite | .actFlipComplete | .translationWalk | .invalidatePage
  | .invalidateAsid | .invalidateAll | .invalidationComplete | .carderDecision | .queueEntry
  | .placementAttempt | .carderPreemption | .launchCompletion | .copyPartCompletion | .mcastDelivery
  | .matrixOperationCompletion | .drainCompletion | .leaseGrant | .leasePass | .bandRecordWrite | .cellStep
  | .battEnable | .battDisable | .battChangeDone | .trapEntry | .interrupt | .timer | .warpIdleTimeout
  | .saveAndRequeue | .saveAndHold | .prel | .saveCompletion | .restore | .mapq | .memoryMapConfigWrite
  | .retreq | .retirementComplete | .pprreq | .repairComplete | .rateChange | .retrainComplete | .forcedRetrain
  | .pseudoChannelService | .linkFrameFailure | .sessionKeyReplacement | .uncorrectableError
  | .fabricLinkFailure | .hmsix | .hostBarAccess | .cxlMemAccess | .nvmeDma | .storageMessage | .sealgo
  | .sealComplete | .xopWrite | .xopAddFp32 | .xopAddBf16 | .xopAddFp16 | .scaleOutAcknowledge
  | .scaleOutTimeout | .start | .signal | .scvecClear | .assignSlot | .emptySlot | .registerTenant
  | .markConfidential | .divide | .powerLimit | .ready | .setPowerLimit | .readPowerLimit | .readStatus
  | .sessionOpen | .endSession | .sessionTimeout | .setBreakpoint | .clearBreakpoint | .setWatchpoint
  | .clearWatchpoint | .setCapture | .startCapture | .freezeCapture | .setTrigger | .markForRecording | .replay
  | .setContinueLive | .dumpParkTable | .poll | .release | .loadKey | .sample | .junctionLimit
  | .thermalShutdown | .flowHold | .flowRecovery | .flowLoss | .bringUp | .freeze | .masterReset
  | .ioRegisterWrite | .scaleOutRequestArrival | .hostLinkState | .cxlMemEnable | .killLaunch => true

end Sys2Proof
end

