-- ==== Sys2Proof/Certificates/Slice0/Obligations.lean ====
section
/-! DEFINITION. The statements about the Ulural 7 model that the provers are asked to prove. Each is one `Prop`; the terms
in which they say that an operand can be read and that an instruction has completed are in Safety.lean. -/

open Sys2Proof Sys2Proof.Machine

/-! ## Encoding and decoding (04) -/

/-- 04 R81, R91, R96, R104: the bytes of every encoded instruction, followed by any others, decode to that
instruction with every field at its value, and leave the bytes that follow. -/
def Obligations.EncodedInstructionsDecodeToThemselves : Prop :=
  ∀ (i : Instr) (rest : List Byte), isWordInstr i = true → decode (encodeBytes i ++ rest) = .ok (i, rest)

/-- 04 R92, R104: each word has one meaning. Whatever bytes decode to an instruction are the bytes of that
instruction, so no two encodings mean one instruction and no fixed bit is free. -/
def Obligations.DecodedBytesAreTheEncoding : Prop :=
  ∀ (i : Instr) (bs rest : List Byte), decode bs = .ok (i, rest) → isWordInstr i = true ∧ bs = encodeBytes i ++ rest

/-- Words written out from the spec's encoding tables decode to the instructions they stand for: s.alu.add s1, s2,
s3; s.addi s1, s2, −1; v.add.f32 v1, v2, v3; x.sepk.se3.f32 v20, v8, 0 (10 R222's own example); m.ld of doublewords
into v1 from v2 and s3; b 5 words on under p1; nop; rep of the a field, 8 times; and the all-zero word is none
(R82). -/
def Obligations.SpecWordsDecode : Prop :=
  decodeWord 0x04002106 none = .ok (.sAluAdd 0 1 2 3 0) ∧
  decodeWord 0x0A010BFF none = .ok (.sAddi 0 1 2 0x3FF) ∧
  decodeWord 0x40002106 none = .ok (.vAdd 0 0 1 2 3 0) ∧
  decodeWord 0x94028408 none = .ok (.xSepk 0 0 20 8 1 0 0) ∧
  decodeWord 0xA0302106 none = .ok (.mLd 0 6 1 2 3 0) ∧
  decodeWord 0x20400005 none = .ok (.b 1 5) ∧
  decodeWord 0x02000000 none = .ok (.nop 0) ∧
  decodeWord 0xF010E000 none = .ok (.rep 0 1 0 7) ∧
  decodeWord 0 none = .error .majorZero

/-! ## The step and reset (02, 04, 25) -/

/-- 04 R84, R104 to R106: where a step is the issue of a strand's next word, and the word with its extension word
stands for instruction i, the step is exec of i, in the state in which the word is looked at; inside a rep it is
exec of the target with its stepped fields (R100). A lane that another strand of the warp is writing is seen old or new
before exec (08 R188, log entry 16), and after it the issue is noted: the pin, the slots' use and the loads of 09 R197 to
R205. A step for which a step of the table stands at the head of the agenda, or of what the machine has started, is exec of
that, a quad's cycle with the strands that can issue as its operand; the other moves perform a store at its home or at warp
scope (15 R292). Only what the engines have come to (20 R404), and TIME with what it strikes, come first. 25 R481: in a module
that has shut down no move is made but the bring-up after a reset. What moves next, and by how much TIME goes up, are the
model's choice (log entries 4 and 5). -/
def Obligations.StepRunsDecodedInstruction : Prop :=
  (∀ (s t₀ r : State) (w : Code) (i : Instr), issuesIn s t₀ r →
    let x := curStrand r
    let pinned := (curStrand t₀).pinned
    wordAt r x.wi.toNat w →
      (x.inRep = false → standsFor r w x.wi.toNat i → step s = issued i pinned r (exec i (raceView r))) ∧
      ∀ t v od oa ob, x.inRep = true → wordAt r (x.wi.toNat + 1) t →
        steppedWord w t (bits w 13 6 + 1 - x.srepc.toNat) = some (v, od, oa, ob) →
          let q := setStrand r { x with overD := od, overA := oa, overB := ob }
          standsFor q v (x.wi.toNat + 1) i → step s = issued i pinned q (exec i (raceView q))) ∧
  (∀ (s : State) (i : Instr) (args : EventArgs) (rest : List Act), isWordInstr i = false →
    s.shutdown = false ∨ i = .bringUp →
    (s.agenda = .event i args :: rest → step s = exec i (survey i { onward s with agenda := rest, input := args })) ∧
    (s.agenda = [] → s.postponed = false → s.due = .event i args :: rest →
      step s = exec i (survey i { onward s with due := rest, input := args }))) ∧
  (∀ (s : State) (key id n : Nat) (rest : List Act), s.shutdown = false →
    (s.agenda = .perform key id n :: rest → step s = .next (performStore { onward s with agenda := rest } key id n)) ∧
    (s.agenda = .showStore key id n :: rest → step s = .next (showStore { onward s with agenda := rest } key id n))) ∧
  (∀ (s : State) (a : Act) (rest : List Act), s.shutdown = true → (∀ args, a ≠ .event .bringUp args) →
    (s.agenda = a :: rest → step s = .next { onward s with agenda := rest }) ∧
    (s.agenda = [] → s.postponed = false → s.due = a :: rest → step s = .next { onward s with due := rest }))

/-- 04 R87, R88, R105, R106: a word that cannot be fetched traps with its fetch's cause; a header or an extension
word in an instruction's place, or a word of another class than the clause's, traps 0x03; and an undecodable word
traps 0x01. 04 R104 to R106: a word that takes an extension traps 0x03 where its extension lies past the clause's end, where
the next word is no extension word, or, in a branch with two targets, where it is not the clause's last; with its extension it
is classified and decoded as a word without one is. The load of the window of the handler's clause is started (09 R197). -/
def Obligations.UndecodableWordsTrap : Prop :=
  ∀ (s t₀ r : State), issuesIn s t₀ r →
    let x := curStrand r
    let traps := trapsAt t₀ r
    (∀ t, fetchCode r r.focus.key (wordAddress x x.wi.toNat) = .error t →
      step s = traps t.1 t.2.1 t.2.2) ∧
    ∀ w, wordAt r x.wi.toNat w → x.inRep = false →
      (isHeader w = true ∨ isExtension w = true → step s = traps 0x03 0 0) ∧
      (isHeader w = false → isExtension w = false → takesExtension w = false →
        (¬classAdmits r w → step s = traps 0x03 0 0) ∧
        (classAdmits r w → (∃ e, decodeWord w none = .error e) → step s = traps 0x01 0 0)) ∧
      (isHeader w = false → isExtension w = false → takesExtension w = true →
        let n := x.hdr.n.toNat
        let at_ := x.wi.toNat
        (n ≤ at_ → step s = traps 0x03 0 0) ∧
        (at_ < n →
          (∀ t, fetchCode r r.focus.key (wordAddress x (at_ + 1)) = .error t → step s = traps t.1 t.2.1 t.2.2) ∧
          ∀ e, wordAt r (at_ + 1) e →
            (isExtension e = false ∨ majorOf w = 0x60 ∧ at_ + 1 ≠ n ∨ ¬classAdmits r w → step s = traps 0x03 0 0) ∧
            (isExtension e = true → (majorOf w = 0x60 → at_ + 1 = n) → classAdmits r w →
              (∃ f, decodeWord w (some e) = .error f) → step s = traps 0x01 0 0)))

/-- 02 R44, 25 R483, R485: at reset no context runs, every key slot is empty, no partition accepts
launches, the power limit is 16 kW and memory has its canonical form; the first step is the bring-up, after which
both system cores of die 0 run in supervisor mode with MMR 2, every other scalar register zero, from the entry that
the monitor gives. That every byte reads as 0 before then, and that TIME is 0 (02 R43 gives it no reset value), are the model's
choice (log entries 3, 1 and 5). -/
def Obligations.ResetState : Prop :=
  let r := State.reset
  memoryOk r ∧ (∀ p, readByte r p = 0) ∧ r.time = 0 ∧ (∀ k, (getCtx r k).live = false) ∧
    (∀ kind slot, (getKey r kind slot).key = none) ∧ (∀ p, (getPart r p).ready = false) ∧ r.partCount = 1 ∧
    r.powerLimit = 16000 ∧ (∀ d, (getDie r d).astbase = 0 ∧ (getDie r d).battEn = false) ∧
    ∃ u, step r = .next u ∧ u.powered = true ∧ ∀ i, i < 2 →
      (getSc (getDie u 0) i).running = true ∧
        let c := getCtx u (systemBase + i)
        c.live = true ∧ c.status = 0x201 ∧ c.asid = 0 ∧ (∀ n, getS c n = { val := 0 }) ∧
          (getStrand c 0).ca = keep (Config.coltaupEntry 0) 56 2 ∧ (getStrand c 0).wi = 1 ∧ (getStrand c 0).mask = 0

/-- The memory keeps its canonical form: from every state that has it, a step that answers a next state gives one
that has it, whatever the step is. -/
def Obligations.StepKeepsMemoryForm : Prop :=
  ∀ (s t : State), memoryOk s → step s = .next t → memoryOk t

/-! ## Scalar instructions (05) -/

/-- 05 R111 with 02 R48 to R50: with its guard 1 and its operands readable, each SR form writes S[d] and goes on.
Arithmetic is modulo 2^64, shifts and rotates use the low six bits of the amount, mulhs and mulhn give bits [127:64]
of the exact product, and division truncates toward zero and never traps: by zero it gives all ones, or the dividend
as the remainder. s0 takes no write (02 R34, in the register write itself). -/
def Obligations.ScalarArithmeticResults : Prop :=
  ∀ (s : State) (g : BitVec 3) (d a b : BitVec 6) (i : BitVec 1) (x y : Word),
    guardP s g = true → holdsS s a x → operandB s b i y → writableS s d →
      exec (.sAluAdd g d a b i) s = doneS s d (x + y) ∧
      exec (.sAluSub g d a b i) s = doneS s d (x - y) ∧
      exec (.sAluAnd g d a b i) s = doneS s d (x &&& y) ∧
      exec (.sAluOr g d a b i) s = doneS s d (x ||| y) ∧
      exec (.sAluXor g d a b i) s = doneS s d (x ^^^ y) ∧
      exec (.sAluShl g d a b i) s = doneS s d (x <<< (y.toNat % 64)) ∧
      exec (.sAluShr g d a b i) s = doneS s d (x >>> (y.toNat % 64)) ∧
      exec (.sAluSar g d a b i) s = doneS s d (x.sshiftRight (y.toNat % 64)) ∧
      exec (.sAlu2Mul g d a b i) s = doneS s d (x * y) ∧
      exec (.sAlu2Mulhs g d a b i) s = doneS s d (BitVec.ofInt 64 (x.toInt * y.toInt / 2 ^ 64)) ∧
      exec (.sAlu2Mulhn g d a b i) s = doneS s d (BitVec.ofNat 64 (x.toNat * y.toNat / 2 ^ 64)) ∧
      exec (.sAlu2Min g d a b i) s = doneS s d (if x.toInt ≤ y.toInt then x else y) ∧
      exec (.sAlu2Max g d a b i) s = doneS s d (if x.toInt ≤ y.toInt then y else x) ∧
      exec (.sAlu2Minn g d a b i) s = doneS s d (if x.toNat ≤ y.toNat then x else y) ∧
      exec (.sAlu2Maxn g d a b i) s = doneS s d (if x.toNat ≤ y.toNat then y else x) ∧
      exec (.sAlu2Rotr g d a b i) s = doneS s d (x.rotateRight (y.toNat % 64)) ∧
      exec (.sDivDivs g d a b i) s =
        doneS s d (if y = 0 then BitVec.allOnes 64 else BitVec.ofInt 64 (Int.tdiv x.toInt y.toInt)) ∧
      exec (.sDivDivn g d a b i) s =
        doneS s d (if y = 0 then BitVec.allOnes 64 else BitVec.ofNat 64 (x.toNat / y.toNat)) ∧
      exec (.sDivRems g d a b i) s = doneS s d (if y = 0 then x else BitVec.ofInt 64 (Int.tmod x.toInt y.toInt)) ∧
      exec (.sDivRemn g d a b i) s = doneS s d (if y = 0 then x else BitVec.ofNat 64 (x.toNat % y.toNat))

/-- 05 R112, R113: the immediate forms. The ten-bit and sixteen-bit immediates are sign-extended; s.movk replaces
halfword h of S[d] and keeps the others, and has no guard. 05 R116, R117: s.sel reads both sources and takes one by
P[p]; the field of a control word starts at its bits [5:0] and is one more than its bits [11:6] wide, cut at bit 63.
-/
def Obligations.ScalarImmediatesAndFields : Prop :=
  ((∀ (s : State) (g : BitVec 3) (d a : BitVec 6) (i : BitVec 10) (x : Word),
     guardP s g = true → holdsS s a x → writableS s d →
       exec (.sAddi g d a i) s = doneS s d (x + i.signExtend 64) ∧
       exec (.sAndi g d a i) s = doneS s d (x &&& i.signExtend 64) ∧
       exec (.sOri g d a i) s = doneS s d (x ||| i.signExtend 64) ∧
       exec (.sXori g d a i) s = doneS s d (x ^^^ i.signExtend 64)) ∧
   (∀ (s : State) (g : BitVec 3) (d : BitVec 6) (i : BitVec 16),
     guardP s g = true → writableS s d → exec (.sMovi g d i) s = doneS s d (i.signExtend 64)) ∧
   (∀ (s : State) (h : BitVec 2) (d : BitVec 6) (i : BitVec 16) (x : Word),
     holdsS s d x → ∃ v : Word, exec (.sMovk h d i) s = doneS s d v ∧
       ∀ n, n < 64 → v.getLsbD n =
         if n / 16 = h.toNat then i.getLsbD (n % 16) else x.getLsbD n)) ∧
  (∀ (s : State) (g p : BitVec 3) (d a b : BitVec 6) (i : BitVec 1) (x y : Word),
     guardP s g = true → holdsS s a x → writableS s d →
       (operandB s b i y → exec (.sSel g p d a b i) s = doneS s d (if getP (cur s) p.toNat then x else y)) ∧
       (holdsS s b y →
         let pos := y.toNat % 64
         let wid := min (y.toNat / 64 % 64 + 1) (64 - pos)
         exec (.sBitExtz g d a b) s = doneS s d (BitVec.ofNat 64 (x.toNat / 2 ^ pos % 2 ^ wid)) ∧
         exec (.sBitExts g d a b) s = doneS s d (sxWord (x.toNat / 2 ^ pos) wid) ∧
         (∀ old, holdsS s d old → ∃ v : Word, exec (.sBitIns g d a b) s = doneS s d v ∧
           ∀ n, n < 64 → v.getLsbD n = if pos ≤ n ∧ n < pos + wid then x.getLsbD (n - pos) else old.getLsbD n)) ∧
       exec (.sBitClz g d a) s = doneS s d (BitVec.ofNat 64 (leadingZeros x.toNat 64)) ∧
       exec (.sBitCtz g d a) s = doneS s d (BitVec.ofNat 64 (trailingZeros x.toNat 64)) ∧
       exec (.sBitPopc g d a) s = doneS s d (BitVec.ofNat 64 (countOnes x.toNat 64)) ∧
       (∃ v : Word, exec (.sBitRev g d a) s = doneS s d v ∧ ∀ n, n < 64 → v.getLsbD n = x.getLsbD (63 - n)) ∧
       (∃ v : Word, exec (.sBitBswap g d a) s = doneS s d v ∧
         ∀ n, n < 64 → v.getLsbD n = x.getLsbD (56 - n / 8 * 8 + n % 8)))

/-- 05 R114: s.cmp and s.cmpi set P[p] to the condition's value, signed for lts and les and unsigned for ltn and
len; tst and ntst test the and of the operands. 05 R115: the predicate operations, with p0 reading 1 and taking no
write (02 R35). -/
def Obligations.PredicatesAreSet : Prop :=
  ((∀ (s : State) (g p : BitVec 3) (a b : BitVec 6) (i : BitVec 1) (x y : Word),
     guardP s g = true → holdsS s a x → operandB s b i y →
       exec (.sCmpEq g p a b i) s = doneP s p (decide (x = y)) ∧
       exec (.sCmpNe g p a b i) s = doneP s p (decide (x ≠ y)) ∧
       exec (.sCmpLts g p a b i) s = doneP s p (decide (x.toInt < y.toInt)) ∧
       exec (.sCmpLes g p a b i) s = doneP s p (decide (x.toInt ≤ y.toInt)) ∧
       exec (.sCmpLtn g p a b i) s = doneP s p (decide (x.toNat < y.toNat)) ∧
       exec (.sCmpLen g p a b i) s = doneP s p (decide (x.toNat ≤ y.toNat)) ∧
       exec (.sCmpTst g p a b i) s = doneP s p (decide (x &&& y ≠ 0)) ∧
       exec (.sCmpNtst g p a b i) s = doneP s p (decide (x &&& y = 0))) ∧
   (∀ (s : State) (g p : BitVec 3) (a : BitVec 6) (i : BitVec 10) (x : Word),
     guardP s g = true → holdsS s a x →
       exec (.sCmpiEq g p a i) s = doneP s p (decide (x = i.signExtend 64)) ∧
       exec (.sCmpiNe g p a i) s = doneP s p (decide (x ≠ i.signExtend 64)) ∧
       exec (.sCmpiLts g p a i) s = doneP s p (decide (x.toInt < i.toInt)) ∧
       exec (.sCmpiLes g p a i) s = doneP s p (decide (x.toInt ≤ i.toInt)) ∧
       exec (.sCmpiLtn g p a i) s = doneP s p (decide (x.toNat < (i.signExtend 64).toNat)) ∧
       exec (.sCmpiLen g p a i) s = doneP s p (decide (x.toNat ≤ (i.signExtend 64).toNat)) ∧
       exec (.sCmpiTst g p a i) s = doneP s p (decide (x &&& i.signExtend 64 ≠ 0)) ∧
       exec (.sCmpiNtst g p a i) s = doneP s p (decide (x &&& i.signExtend 64 = 0)))) ∧
  (∀ (s : State) (g d a b : BitVec 3), guardP s g = true →
     let x := getP (cur s) a.toNat
     let y := getP (cur s) b.toNat
     exec (.pOpAnd g d a b) s = doneP s d (x && y) ∧
     exec (.pOpOr g d a b) s = doneP s d (x || y) ∧
     exec (.pOpXor g d a b) s = doneP s d (x ^^ y) ∧
     exec (.pOpAndn g d a b) s = doneP s d (x && !y) ∧
     exec (.pOpOrn g d a b) s = doneP s d (x || !y) ∧
     exec (.pOpMov g d a) s = doneP s d x ∧
     exec (.pOpSet g d) s = doneP s d true ∧
     exec (.pOpClr g d) s = doneP s d false)

/-- 05 R108: with its predicate guard 0 a scalar form has no effect, reads nothing, and goes on; s.ld and s.st of a
legal size, the window forms of s.lea on a warp, the accesses to a control register that exists, and a launch wait or a
ring wait that issues (one that already waits has read its guard). 02 R36, 21 R417: a scalar source that is empty makes the
instruction wait, and a poisoned one traps 0x14 with the register in DETAIL, in each case with no other effect: S[a], then
S[b] where no immediate stands for it, then S[d] where the form reads it; so does a destination whose fill is in flight make
it wait. -/
def Obligations.ScalarFormsThatDoNothing : Prop :=
  (∀ (s : State) (g p h k : BitVec 3) (d a b : BitVec 6) (i : BitVec 1) (imm : BitVec 10) (w : BitVec 16) (o : BitVec 22)
     (off : BitVec 7) (lea : BitVec 8), guardP s g = false →
       (∀ j ∈ [Instr.sAluAdd g d a b i, .sAluSub g d a b i, .sAluAnd g d a b i, .sAluOr g d a b i, .sAluXor g d a b i,
           .sAluShl g d a b i, .sAluShr g d a b i, .sAluSar g d a b i, .sAlu2Mul g d a b i, .sAlu2Mulhs g d a b i,
           .sAlu2Mulhn g d a b i, .sAlu2Min g d a b i, .sAlu2Max g d a b i, .sAlu2Minn g d a b i, .sAlu2Maxn g d a b i,
           .sAlu2Rotr g d a b i, .sDivDivs g d a b i, .sDivDivn g d a b i, .sDivRems g d a b i, .sDivRemn g d a b i,
           .sAddi g d a imm, .sAndi g d a imm, .sOri g d a imm, .sXori g d a imm, .sMovi g d w, .sSel g p d a b i,
           .sCmpEq g p a b i, .sCmpNe g p a b i, .sCmpLts g p a b i, .sCmpLes g p a b i, .sCmpLtn g p a b i,
           .sCmpLen g p a b i, .sCmpTst g p a b i, .sCmpNtst g p a b i, .sCmpiEq g p a imm, .sCmpiNe g p a imm,
           .sCmpiLts g p a imm, .sCmpiLes g p a imm, .sCmpiLtn g p a imm, .sCmpiLen g p a imm, .sCmpiTst g p a imm,
           .sCmpiNtst g p a imm, .pOpAnd g p h k, .pOpOr g p h k, .pOpXor g p h k, .pOpAndn g p h k, .pOpOrn g p h k,
           .pOpMov g p h, .pOpSet g p, .pOpClr g p, .sBitExtz g d a b, .sBitExts g d a b, .sBitIns g d a b, .sBitClz g d a,
           .sBitCtz g d a, .sBitPopc g d a, .sBitRev g d a, .sBitBswap g d a, .b g o, .bInd g a imm, .call g o,
           .callInd g a imm, .ret g, .sLeaClause g d a lea, .sAmoAdd g d a b, .sAmoAnd g d a b, .sAmoOr g d a b,
           .sAmoXor g d a b, .sAmoMax g d a b, .sAmoMin g d a b, .sAmoXchg g d a b, .sAmoCas g d a b, .trap g w,
           .launch g d a, .launchCtx g d a, .setx g a imm, .mArrive g d a imm, .mWait g d a imm, .kOpAnd g p h k,
           .kOpOr g p h k, .kOpXor g p h k, .kOpAndn g p h k, .kOpNot g p h, .kOpMov g p h, .kOpFrom g p a, .kOpTo g d p,
           .kOpPopc g d p, .kTestAny g p h, .kTestAll g p h, .fenceTlr g, .cClose g d, .cWait g d a, .rPost g h,
           .tBandOpen g, .tBandClose g, .shpSet g h d a b],
         exec j s = done s) ∧
       (k.toNat < 7 → exec (.sLd g k d a off) s = done s ∧ exec (.sSt g k d a off) s = done s) ∧
       (isSystem s.focus.key = false →
         exec (.sLeaGstore g d a lea) s = done s ∧ exec (.sLeaSpill g d a lea) s = done s) ∧
       (crRight (isSystem s.focus.key) (isPriv (cur s)) imm.toNat ≠ .undefined →
         exec (.crRd g d imm) s = done s ∧ exec (.crWr g a imm) s = done s) ∧
       ((curStrand s).lwait = none → exec (.lwait g d a) s = done s) ∧
       ((curStrand s).rwait = none → exec (.rWait g h a imm) s = done s)) ∧
  (∀ (s : State) (g p : BitVec 3) (d a b : BitVec 6) (i : BitVec 1) (imm : BitVec 10) (w : BitVec 16) (x y : Word),
     guardP s g = true →
       let stops := fun (n : BitVec 6) (j : Instr) =>
         ((getS (cur s) n.toNat).fill ≠ .full → exec j s = waits s .fullEmpty) ∧
         ((getS (cur s) n.toNat).fill = .full → (getS (cur s) n.toNat).poison = true →
           exec j s = traps s 0x14 0 (BitVec.ofNat 64 (256 + n.toNat)))
       let sr := [Instr.sAluAdd g d a b i, .sAluSub g d a b i, .sAluAnd g d a b i, .sAluOr g d a b i, .sAluXor g d a b i,
         .sAluShl g d a b i, .sAluShr g d a b i, .sAluSar g d a b i, .sAlu2Mul g d a b i, .sAlu2Mulhs g d a b i,
         .sAlu2Mulhn g d a b i, .sAlu2Min g d a b i, .sAlu2Max g d a b i, .sAlu2Minn g d a b i, .sAlu2Maxn g d a b i,
         .sAlu2Rotr g d a b i, .sDivDivs g d a b i, .sDivDivn g d a b i, .sDivRems g d a b i, .sDivRemn g d a b i,
         .sSel g p d a b i]
       let compared := [Instr.sCmpEq g p a b i, .sCmpNe g p a b i, .sCmpLts g p a b i, .sCmpLes g p a b i,
         .sCmpLtn g p a b i, .sCmpLen g p a b i, .sCmpTst g p a b i, .sCmpNtst g p a b i]
       let comparedI := [Instr.sCmpiEq g p a imm, .sCmpiNe g p a imm, .sCmpiLts g p a imm, .sCmpiLes g p a imm,
         .sCmpiLtn g p a imm, .sCmpiLen g p a imm, .sCmpiTst g p a imm, .sCmpiNtst g p a imm]
       let one := [Instr.sAddi g d a imm, .sAndi g d a imm, .sOri g d a imm, .sXori g d a imm, .sBitClz g d a, .sBitCtz g d a,
         .sBitPopc g d a, .sBitRev g d a, .sBitBswap g d a]
       let field := [Instr.sBitExtz g d a b, .sBitExts g d a b]
       (∀ j ∈ sr ++ compared ++ comparedI ++ one ++ field ++ [.sBitIns g d a b], stops a j) ∧
       (holdsS s a x →
         (i = 0 → ∀ j ∈ sr ++ compared, stops b j) ∧
         (∀ j ∈ field ++ [.sBitIns g d a b], stops b j) ∧
         (holdsS s b y → stops d (.sBitIns g d a b)) ∧
         (¬writableS s d →
           (operandB s b i y → ∀ j ∈ sr, exec j s = waits s .fullEmpty) ∧
           (holdsS s b y → ∀ j ∈ field, exec j s = waits s .fullEmpty) ∧ ∀ j ∈ one, exec j s = waits s .fullEmpty)) ∧
       (¬writableS s d → exec (.sMovi g d w) s = waits s .fullEmpty)) ∧
  (∀ (s : State) (h : BitVec 2) (d : BitVec 6) (w : BitVec 16),
     ((getS (cur s) d.toNat).fill ≠ .full → exec (.sMovk h d w) s = waits s .fullEmpty) ∧
     ((getS (cur s) d.toNat).fill = .full → (getS (cur s) d.toNat).poison = true →
       exec (.sMovk h d w) s = traps s 0x14 0 (BitVec.ofNat 64 (256 + d.toNat))))

/-- 05 R111, R112, R113, R116, R117, 02 R34: what the scalar forms leave alone. Nothing but S[d] and the strand's own place
changes: no other register, predicate, lane mask, vector register, flag, control register, strand or context, no byte of
memory, and with d = 0 no register at all. 05 R114, R115, 02 R35, 10 R219: what the forms with a predicate
destination leave alone: everything but P[p] and the strand's own place, and with p = 0 every predicate. -/
def Obligations.ScalarAndPredicateFrames : Prop :=
  (∀ (s t : State) (g p : BitVec 3) (h : BitVec 2) (d a b : BitVec 6) (i : BitVec 1) (imm : BitVec 10) (w : BitVec 16)
     (x y z : Word),
     let frames := fun (js : List Instr) => ∀ j ∈ js, exec j s = .next t → frameS s t d
     (holdsS s a x → writableS s d →
       (operandB s b i y →
         frames [.sAluAdd g d a b i, .sAluSub g d a b i, .sAluAnd g d a b i, .sAluOr g d a b i, .sAluXor g d a b i,
           .sAluShl g d a b i, .sAluShr g d a b i, .sAluSar g d a b i, .sAlu2Mul g d a b i, .sAlu2Mulhs g d a b i,
           .sAlu2Mulhn g d a b i, .sAlu2Min g d a b i, .sAlu2Max g d a b i, .sAlu2Minn g d a b i, .sAlu2Maxn g d a b i,
           .sAlu2Rotr g d a b i, .sDivDivs g d a b i, .sDivDivn g d a b i, .sDivRems g d a b i, .sDivRemn g d a b i,
           .sSel g p d a b i]) ∧
       frames [.sAddi g d a imm, .sAndi g d a imm, .sOri g d a imm, .sXori g d a imm, .sBitClz g d a, .sBitCtz g d a,
         .sBitPopc g d a, .sBitRev g d a, .sBitBswap g d a] ∧
       (holdsS s b y → frames [.sBitExtz g d a b, .sBitExts g d a b] ∧ (holdsS s d z → frames [.sBitIns g d a b]))) ∧
     (writableS s d → frames [.sMovi g d w]) ∧
     (holdsS s d z → frames [.sMovk h d w])) ∧
  (∀ (s t : State) (g p q r : BitVec 3) (a b : BitVec 6) (i : BitVec 1) (imm : BitVec 10) (x y : Word),
     let frames := fun (js : List Instr) => ∀ j ∈ js, exec j s = .next t → frameP s t p
     (holdsS s a x →
       (operandB s b i y →
         frames [.sCmpEq g p a b i, .sCmpNe g p a b i, .sCmpLts g p a b i, .sCmpLes g p a b i, .sCmpLtn g p a b i,
           .sCmpLen g p a b i, .sCmpTst g p a b i, .sCmpNtst g p a b i]) ∧
       frames [.sCmpiEq g p a imm, .sCmpiNe g p a imm, .sCmpiLts g p a imm, .sCmpiLes g p a imm, .sCmpiLtn g p a imm,
         .sCmpiLen g p a imm, .sCmpiTst g p a imm, .sCmpiNtst g p a imm]) ∧
     frames [.pOpAnd g p q r, .pOpOr g p q r, .pOpXor g p q r, .pOpAndn g p q r, .pOpOrn g p q r, .pOpMov g p q, .pOpSet g p,
       .pOpClr g p, .kTestAny g p q, .kTestAll g p q])

/-! ## Control flow (05 R118 to R120, 02 R51 to R54, 04 R100) -/

/-- 04 R98, R99, 05 R118: a taken direct branch stands at its clause's address plus four times the signed offset; an
indirect one at S[a] plus four times its immediate, once the target passes its checks, and a target that is not
aligned or is no clause header is rejected with trap 0x02 at that address, with no other effect. 05 R119, 02 R51: a
call whose target is a clause header pushes the address of the next clause, tagged with the strand's slot, above the
entries on chip while fewer than 16 are in use, and transfers; a direct call to a word that is no header pushes nothing and
traps 0x03 there. 02 R53: ret takes the strand's most recent entry off
the stack and goes to its address; with no entry it traps 0x02. The entry here is the last one on chip, pushed by a
call, in a strand outside a serial arm. -/
def Obligations.BranchesCallsAndReturnsTransfer : Prop :=
  (∀ (s : State) (g : BitVec 3) (o : BitVec 22) (a : BitVec 6) (i : BitVec 10) (x : Word), guardP s g = true →
     exec (.b g o) s = .next (transfer s ((curStrand s).ca + 4 * o.signExtend 64)) ∧
     (holdsS s a x →
       let t := x + 4 * i.signExtend 64
       (legalTarget s t → exec (.bInd g a i) s = .next (transfer s t)) ∧
       (t.toNat % 4 ≠ 0 → exec (.bInd g a i) s = traps s 0x02 t 0) ∧
       (∀ w, t.toNat % 4 = 0 → codeHeld s s.focus.key t = false → fetchCode s s.focus.key t = .ok w →
         isHeader w = false → exec (.bInd g a i) s = traps s 0x02 t 0))) ∧
  (∀ (s : State) (g : BitVec 3) (o : BitVec 22) (a : BitVec 6) (i : BitVec 10) (x : Word),
     guardP s g = true → (cur s).ras.length < 16 →
       let pushed := setCur s { cur s with ras := (cur s).ras ++ [rasWord (nextClause s) s.focus.slot false] }
       (legalTarget s ((curStrand s).ca + 4 * o.signExtend 64) →
         exec (.call g o) s = .next (transfer pushed ((curStrand s).ca + 4 * o.signExtend 64))) ∧
       (∀ w, let t := (curStrand s).ca + 4 * o.signExtend 64
         codeHeld s s.focus.key t = false → fetchCode s s.focus.key t = .ok w → isHeader w = false →
         exec (.call g o) s = traps (transfer s t) 0x03 0 0) ∧
       (holdsS s a x → legalTarget s (x + 4 * i.signExtend 64) →
         exec (.callInd g a i) s = .next (transfer pushed (x + 4 * i.signExtend 64)))) ∧
  (∀ (s : State) (g : BitVec 3) (pre : List Word) (addr : Word), guardP s g = true →
     ((cur s).ras = pre ++ [rasWord addr s.focus.slot false] → s.focus.slot < 8 → (curStrand s).ser = false →
       exec (.ret g) s =
         .next (transfer (setCur s { cur s with ras := pre }) (BitVec.ofNat 64 (addr.toNat / 4 % 2 ^ 55 * 4)))) ∧
     (rasVisible s = [] → exec (.ret g) s = traps s 0x02 0 0))

/-- 05 R120: call.lane without an active lane only goes on. Otherwise, once every target passes its checks and a
record is free, the lanes that share the lowest target run there first, as the strand's mask. -/
def Obligations.LaneCallRunsTheLowestGroup : Prop :=
  ∀ (s : State) (g : BitVec 3) (a : BitVec 6) (e : BitVec 1) (r n : Nat) (t : Word),
    namesV s a (curStrand s).overA r → lanesHold s [r] (activeLanes s g) →
      (activeLanes s g = [] → exec (.callLane g a e) s = done s) ∧
      ((∃ l ∈ activeLanes s g, laneVal (cur s) r l = t) →
        (∀ l ∈ activeLanes s g, legalTarget s (laneVal (cur s) r l) ∧ t.toNat ≤ (laneVal (cur s) r l).toNat) →
        freeLaneCall (cur s) = some n → (cur s).ras.length < 16 →
        ∃ u, exec (.callLane g a e) s = .next u ∧ (curStrand u).ca = t ∧ (curStrand u).begun = false ∧
          ∀ l, l < 64 → (curStrand u).mask.getLsbD l = (decide (l ∈ activeLanes s g) && laneVal (cur s) r l == t))

/-- 04 R100, R101: rep before a word that a rep may repeat sets REPC to n + 1, unless it stands between 1 and n + 1
already, and the strand repeats that word; before any other word, or at its clause's end, it traps 0x17. -/
def Obligations.RepTakesUpItsCount : Prop :=
  ∀ (s : State) (x y z : BitVec 1) (n : BitVec 6),
    let at_ := (curStrand s).wi.toNat
    let next := fetchCode s s.focus.key ((curStrand s).ca + BitVec.ofNat 64 (4 * (at_ + 1)))
    (at_ < (curStrand s).hdr.n.toNat → ∀ w, next = .ok w →
      (repTarget w (x == 1) (y == 1) (z == 1) = true → ∃ u, exec (.rep x y z n) s = .next u ∧ onlyCur s u ∧
        (curStrand u).inRep = true ∧ (curStrand u).wi = (curStrand s).wi ∧
        (curStrand u).srepc.toNat =
          if 1 ≤ (curStrand s).srepc.toNat ∧ (curStrand s).srepc.toNat ≤ n.toNat + 1 then (curStrand s).srepc.toNat
          else n.toNat + 1) ∧
      (repTarget w (x == 1) (y == 1) (z == 1) = false → exec (.rep x y z n) s = traps s 0x17 0 0)) ∧
    ((curStrand s).hdr.n.toNat ≤ at_ → exec (.rep x y z n) s = traps s 0x17 0 0)

/-! ## Scalar memory and control registers (05 R121 to R126, 02) -/

/-- 05 R121, R123, 02 R36, R38: a warp's scalar access whose address S[a] + offset × size passes the checks issues:
S[d] is pending for a load or an atomic, the access stands at the home that the address translates to with the datum
of its size, and the strand goes on. 05 R121, 21 R417: a system core's load of sound bytes at a home outside main
memory completes as it issues: S[d] gets the bytes, little-endian, extended as the size says. That a system core's
access is performed as it issues is the model's reading (log entry 50). 05 R125: s.lea forms the address of the
group-store or spill window plus S[a] plus eight times the unsigned offset, on a warp, and the clause form CA plus
S[a] plus four times the signed offset, on either kind of core. -/
def Obligations.ScalarAccessesComplete : Prop :=
  (∀ (s : State) (g z : BitVec 3) (d a b : BitVec 6) (o : BitVec 7) (base x old : Word),
     guardP s g = true → isSystem s.focus.key = false → notReplayed s → scalarSize z = true → holdsS s a base →
       let n := sizeBytes z
       let va := (base + o.signExtend 64 * BitVec.ofNat 64 n).toNat
       let amo := fun f expected =>
         doneFill s (.scalarAtomic f) d (scalarAccess (targetAt s base.toNat) 8 x.toNat expected)
       (accessesPass s .load n [va] → writableS s d → (∀ off, targetAt s va ≠ .io off) →
         exec (.sLd g z d a o) s =
           doneFill s (.scalarLoad n (sizeSigned z)) d (scalarAccess (targetAt s va) n 0 0)) ∧
       (accessesPass s .store n [va] → holdsS s d x → noFenceHolds s → (∀ off, targetAt s va ≠ .io off) →
         exec (.sSt g z d a o) s =
           done (issueOp s .store 0 (scalarAccess (targetAt s va) n (x.toNat % 2 ^ (8 * n)) 0))) ∧
       (accessesPass s .atomic 8 [base.toNat] → holdsS s b x → writableS s d → noFenceHolds s →
         exec (.sAmoAdd g d a b) s = amo 0 0 ∧ exec (.sAmoAnd g d a b) s = amo 1 0 ∧
         exec (.sAmoOr g d a b) s = amo 2 0 ∧ exec (.sAmoXor g d a b) s = amo 3 0 ∧
         exec (.sAmoMax g d a b) s = amo 4 0 ∧ exec (.sAmoMin g d a b) s = amo 5 0 ∧
         exec (.sAmoXchg g d a b) s = amo 6 0 ∧
         (holdsS s d old → exec (.sAmoCas g d a b) s = amo 7 old.toNat))) ∧
  (∀ (s : State) (g z : BitVec 3) (d a : BitVec 6) (o : BitVec 7) (base : Word) (p : Nat),
     guardP s g = true → isSystem s.focus.key = true → scalarSize z = true → holdsS s a base → writableS s d →
       let n := sizeBytes z
       let va := (base + o.signExtend 64 * BitVec.ofNat 64 n).toNat
       accessesPass s .load n [va] → targetAt s va = .home p → mainTop ≤ p → (cur s).ops = [] →
       portFrozen s (keyDie s.focus.key) p = false → poisonedRun s p n = false →
         exec (.sLd g z d a o) s = doneS s d (extendLoad (readNat s p n) n (sizeSigned z))) ∧
  (∀ (s : State) (g : BitVec 3) (d a : BitVec 6) (o : BitVec 8) (x : Word),
     guardP s g = true → holdsS s a x → writableS s d →
       (isSystem s.focus.key = false →
         exec (.sLeaGstore g d a o) s = doneS s d (0x1FFFF0000000000 + x + 8 * o.zeroExtend 64) ∧
         exec (.sLeaSpill g d a o) s = doneS s d (0x1FFFE0000000000 + x + 8 * o.zeroExtend 64)) ∧
       (isSystem s.focus.key = true →
         exec (.sLeaGstore g d a o) s = traps s 0x01 0 0 ∧ exec (.sLeaSpill g d a o) s = traps s 0x01 0 0) ∧
       exec (.sLeaClause g d a o) s = doneS s d ((curStrand s).ca + x + 4 * o.signExtend 64))

/-- 02 R43, 05 R126: on a warp, cr.rd of a register that the mode may read writes S[d]; a number that is no register
traps 0x01; a register that user mode may not read traps 0x07. 02 R43 to R46, 05 R126: a write that the mode may
make takes effect and the strand goes on; what the register then reads as is the value's own fields: XB eight bits,
FFLAGS six, REPC seven, TVEC and the two frame addresses without their low bits, MXLEASE clamped to 1 to 1024. In
user mode STATUS takes CPYTRAP and SREGRANT alone, and a write of a register that the mode may not write traps 0x07. 02 R43,
R46, R47: on a system core in supervisor mode the registers read too, IPEND, IENABLE and TCMP among them; a write of IPEND
clears the bits that it has as 1, IENABLE keeps sixteen bits and TCMP forty-eight, with IPEND[0] set where TIME equals it; in
user mode each access to the three traps 0x07. -/
def Obligations.ControlRegistersReadAndWrite : Prop :=
  (∀ (s : State) (g : BitVec 3) (d : BitVec 6) (n : BitVec 10),
     guardP s g = true → isSystem s.focus.key = false → writableS s d → unrecorded s →
       ((n.toNat ≤ 0x0F ∧ n.toNat ≠ 0x04 ∧ n.toNat ≠ 0x05 ∨ n.toNat ≤ 0x11 ∧ isPriv (cur s) = true) →
         exec (.crRd g d n) s = doneS s d (crValue s n.toNat)) ∧
       ((n.toNat = 0x04 ∨ n.toNat = 0x05 ∨ n.toNat = 0x10 ∨ n.toNat = 0x11) → isPriv (cur s) = false →
         exec (.crRd g d n) s = traps s 0x07 0 0) ∧
       (0x12 ≤ n.toNat → exec (.crRd g d n) s = traps s 0x01 0 0)) ∧
  (∀ (s : State) (g : BitVec 3) (a : BitVec 6) (n : BitVec 10) (x : Word),
     guardP s g = true → isSystem s.focus.key = false → holdsS s a x →
       let after := fun (v : Word) => exec (.crWr g a n) s = done (crWrite s n.toNat x) ∧
         crValue (crWrite s n.toNat x) n.toNat = v
       (n = 0x001 → after (x &&& 0xFF)) ∧
       (n = 0x002 → after (x &&& 0x3F)) ∧
       (n = 0x007 → after (x &&& 0x1FFFFFFFFFFFFC0)) ∧
       (n = 0x000 → isPriv (cur s) = false →
         after ((cur s).status.zeroExtend 64 &&& 0xFF3 ||| x &&& 0xC)) ∧
       (n = 0x000 → isPriv (cur s) = true →
         after ((cur s).status.zeroExtend 64 &&& 0xFF2 ||| x &&& 0xD)) ∧
       (isPriv (cur s) = true →
         (n = 0x003 → after (x &&& 0x7F)) ∧
         (n = 0x004 → after (x &&& 0x1FFFFFFFFFFFFFC)) ∧
         (n = 0x005 → after (x &&& 0x1FFFFFFFFFFFFC0)) ∧
         (n = 0x006 → after (if x = 0 then 1 else if 1024 < x.toNat then 1024 else x)) ∧
         (n = 0x00C → after (x &&& 0xFFFF)) ∧
         (n = 0x00E → after (x &&& 1)) ∧
         (n = 0x010 → after x) ∧ (n = 0x011 → after x)) ∧
       ((n = 0x003 ∨ n = 0x004 ∨ n = 0x005 ∨ n = 0x006 ∨ n = 0x00C ∨ n = 0x00E ∨ n = 0x010 ∨ n = 0x011) →
         isPriv (cur s) = false → exec (.crWr g a n) s = traps s 0x07 0 0) ∧
       ((n = 0x008 ∨ n = 0x009 ∨ n = 0x00A ∨ n = 0x00B ∨ n = 0x00D ∨ n = 0x00F) →
         exec (.crWr g a n) s = traps s 0x07 0 0)) ∧
  (∀ (s : State) (g : BitVec 3) (d a : BitVec 6) (n : BitVec 10), guardP s g = true → isSystem s.focus.key = true →
     (writableS s d →
       (isPriv (cur s) = true →
         (n.toNat ≤ 0x11 → n.toNat ≠ 0x0D → n.toNat ≠ 0x0F → exec (.crRd g d n) s = doneS s d (crValue s n.toNat)) ∧
         (n = 0x020 → exec (.crRd g d n) s = doneS s d ((cur s).ipend.zeroExtend 64)) ∧
         (n = 0x021 → exec (.crRd g d n) s = doneS s d ((cur s).ienable.zeroExtend 64)) ∧
         (n = 0x022 → exec (.crRd g d n) s = doneS s d ((cur s).tcmp.zeroExtend 64))) ∧
       (isPriv (cur s) = false → 0x020 ≤ n.toNat → n.toNat ≤ 0x022 → exec (.crRd g d n) s = traps s 0x07 0 0)) ∧
     ((0x012 ≤ n.toNat ∧ n.toNat < 0x020 ∨ 0x022 < n.toNat) →
       exec (.crRd g d n) s = traps s 0x01 0 0 ∧ exec (.crWr g a n) s = traps s 0x01 0 0) ∧
     ∀ x, holdsS s a x →
       let after := fun (c : Ctx) => exec (.crWr g a n) s = done (crWrite s n.toNat x) ∧
         onlyCur s (crWrite s n.toNat x) ∧ cur (crWrite s n.toNat x) = c
       (isPriv (cur s) = true →
         (n = 0x020 → after { cur s with ipend := (cur s).ipend &&& ~~~(x.setWidth 16) }) ∧
         (n = 0x021 → after { cur s with ienable := x.setWidth 16 }) ∧
         (n = 0x022 → after { cur s with
           tcmp := x.setWidth 48
           ipend := if x.setWidth 48 = s.time then (cur s).ipend ||| 1 else (cur s).ipend })) ∧
       (isPriv (cur s) = false → 0x020 ≤ n.toNat → n.toNat ≤ 0x022 → exec (.crWr g a n) s = traps s 0x07 0 0))

/-! ## Traps, interrupts, system instructions, launches (05, 14, 21) -/

/-- 21 R409, R410, R411: a trap of a warp that is in no handler, and whose frame address is in its spill window and
passes its checks, with no debug session open and, in a replay, no access to the frame that comes too early (24 R475). PRIV and INTRAP are set; the strand stands at TVEC's header with its
lanes unchanged and REPC 0; every other strand is suspended; and the frame holds the cause, the strand and the
earlier PRIV, the PC, the resume point, the trap address, the mask, REPC with the mark of each lane-call record in use (LCV),
and the DETAIL. -/
def Obligations.TrapEntryWritesTheFrame : Prop :=
  ∀ (s : State) (i : TrapInfo), isSystem s.focus.key = false → isInTrap (cur s) = false → frameFailure s = none →
    regionOf (cur s).tframe.toNat = .spill → s.sessions = [] → entryEarly s = false → (curStrand s).valid = true →
      s.focus.slot < 8 →
      let t := takeTrap s i
      let used := fun n => (getLaneCall (cur s) n).valid.toNat
      let p := spillPlace s.focus.key ((cur s).tframe.toNat - spillBase)
      let x := curStrand s
      isPriv (cur t) = true ∧ isInTrap (cur t) = true ∧
      (curStrand t).ca = (cur s).tvec ∧ (curStrand t).begun = false ∧ (curStrand t).mask = x.mask ∧
      (curStrand t).srepc = 0 ∧
      (∀ e ∈ (cur t).strands, e.1 ≠ s.focus.slot → e.2.suspended = true) ∧
      readNat t p 8 =
        i.cause.toNat + s.focus.slot * 2 ^ 8 + (isPriv (cur s)).toNat * 2 ^ 11 + i.swcode.toNat * 2 ^ 16 ∧
      readNat t (p + 8) 8 = (pcWord x).toNat ∧ readNat t (p + 16) 8 = i.resume.toNat ∧
      readNat t (p + 24) 8 = i.taddr.toNat ∧ readNat t (p + 32) 8 = x.mask.toNat ∧
      readNat t (p + 40) 8 = x.srepc.toNat + 2 ^ 8 * (used 0 + 2 * used 1 + 4 * used 2 + 8 * used 3) ∧ readNat t (p + 48) 8 = i.detail.toNat

/-- 21 R409, 02 R42: a trap in a warp that is already in a handler, or whose frame fails its checks, is a double
trap: the warp stops for good and no byte of the frame is written. 21 R407, R409, R416, 02 R46, R47: a trap entry
takes the trap of a cause that the table gives an instruction, with what that cause carries, in the strand it is for (which
of them an entry may carry is the model's choice, log entry 67), unless an act.flip of it is pending (07 R173); a system core
that may take an interrupt takes cause 0x15 and stands at TVEC in supervisor mode with IE clear, and where its frame lies in a
page of a die's store, the frame holds IPEND in DETAIL; TIME at TCMP sets IPEND[0], and a step of so many ticks sets it
on every live system core whose TCMP it reaches. -/
def Obligations.TrapsAndInterruptsStrike : Prop :=
  (∀ (s : State) (i : TrapInfo), isSystem s.focus.key = false → s.sessions = [] →
     (isInTrap (cur s) = true → (cur (takeTrap s i)).doubleTrap = true ∧
       (cur (takeTrap s i)).cause1 = (cur s).cause1 ∧ (cur (takeTrap s i)).cause2 = i.cause ∧
       sameMemory s (takeTrap s i)) ∧
     (∀ e, isInTrap (cur s) = false → entryEarly s = false → frameFailure s = some e → (cur (takeTrap s i)).doubleTrap = true ∧
       (cur (takeTrap s i)).cause1 = i.cause ∧ (cur (takeTrap s i)).cause2 = e ∧ sameMemory s (takeTrap s i))) ∧
  (∀ s : State,
     (let t := { s with focus := s.input.who }
      let cause := s.input.value.toNat
      (∀ i, trapOf t cause (s.input.words.getD 0 0) (s.input.words.getD 1 0) s.input.flag = some i →
        i.cause = BitVec.ofNat 8 cause ∧
        (issuable s s.input.who = true → exec .trapEntry s = .next (arrived t (takeTrap t i)))) ∧
      (flipPending s s.input.who = true → exec .trapEntry s = .next s) ∧
      (cause = 0 ∨ cause = 0x15 ∨ 0x18 < cause → exec .trapEntry s = .next s)) ∧
     (let a : Agent := ⟨systemBase + s.input.place, 0⟩
      let t := { s with focus := a }
      s.input.place < 48 → issuable s a = true → interruptDue t = true → isInTrap (cur t) = false →
        frameFailure t = none → frameHeld t = false → entryEarly t = false → s.sessions = [] →
          ∃ u, exec .interrupt s = .next u ∧ (getCtx u a.key).cause1 = 0x15 ∧ isPriv (getCtx u a.key) = true ∧
            isInTrap (getCtx u a.key) = true ∧ isIe (getCtx u a.key) = false ∧
            (getStrand (getCtx u a.key) 0).ca = (cur t).tvec ∧
            ∀ l : Leaf, l.type = 1 →
              (∀ k, k < 48 → cachedLeaf t (keyCache a.key) (cur t).asid (frameAddress (cur t) + 64 * k) = some l ∧
                ∃ d off, physOf (leafPa l (frameAddress (cur t) + 64 * k)) = .die d off) →
              readNat u (leafPa l (frameAddress (cur t) + 48)) 8 = (cur t).ipend.toNat) ∧
     (let k := systemBase + s.input.place
      (getCtx s k).live = true → (getCtx s k).tcmp = s.time → exec .timer s = .next (putCtx s k (strike (getCtx s k)))) ∧
     (∀ k, isSystem k = true → (getCtx s k).live = true →
       (getCtx (elapse s) k).ipend =
         if 0 < ((getCtx s k).tcmp - s.time).toNat ∧ ((getCtx s k).tcmp - s.time).toNat ≤ ticksNow s then
           (getCtx s k).ipend ||| 1
         else (getCtx s k).ipend))

/-- 05 R127, R128, R129, R130, 08 R187: trap takes cause 0x10 with its software code, resuming at the next word;
sysret and idle trap 0x07 in user mode; a warp's idle goes on after 4,096 ticks, a system core's once an enabled
interrupt is pending; nop goes on whatever its guard; setx sets XB where the sum lies from 0 to 255 and else traps
0x04. -/
def Obligations.SystemInstructions : Prop :=
  ∀ (s : State) (g : BitVec 3) (c : BitVec 16) (a : BitVec 6) (i : BitVec 10) (x : Word),
    exec (.nop g) s = done s ∧
    (guardP s g = true → isSystem s.focus.key = false →
      exec (.trap g c) s = .next (takeTrap s { cause := 0x10, swcode := c, resume := resumeAfter s 1 })) ∧
    (isPriv (cur s) = false → exec .sysret s = traps s 0x07 0 0 ∧ exec .idle s = traps s 0x07 0 0) ∧
    (isPriv (cur s) = true →
      (isSystem s.focus.key = true → (cur s).ipend &&& (cur s).ienable ≠ 0 → exec .idle s = done s) ∧
      (∀ t, isSystem s.focus.key = false → (curStrand s).wait = .held .idle t → 4096 ≤ (s.time - t).toNat →
        exec .idle s = done s) ∧
      (isSystem s.focus.key = false → (curStrand s).wait = .ready → exec .idle s = waits s .idle)) ∧
    (guardP s g = true → holdsS s a x →
      (∀ v : Nat, x.toInt + i.toInt = v → v < 256 →
        exec (.setx g a i) s = done (setCur s { cur s with xb := BitVec.ofNat 8 v })) ∧
      ((x.toInt + i.toInt < 0 ∨ 256 ≤ x.toInt + i.toInt) → exec (.setx g a i) s = traps s 0x04 0 0))

/-- 05 R128, 21 R414: sysret in a handler whose frame is in the warp's spill window and has END clear. The strand
continues at RESUME, with the frame's mask cut to the lanes it had at entry and REPC reloaded, PRIV comes back,
INTRAP clears, and the suspended strands run again. What the warp has stored to the frame and is not performed is performed
first (15 R299), which in a replay none of it comes too early for (24 R475), and the frame's bytes are sound (21 R417). With END the launch ends with the frame's cause; that it does so
too after a divergence, where the launch does not go on live, is the model's reading of 24 R476 (log entry 104). -/
def Obligations.SysretRestoresFromTheFrame : Prop :=
  ∀ (s : State), isSystem s.focus.key = false → isPriv (cur s) = true → isInTrap (cur s) = true →
    frameFailure (settleFrame s) .load = none → regionOf (cur s).tframe.toNat = .spill → (curStrand s).valid = true →
      let p := spillPlace s.focus.key ((cur s).tframe.toNat - spillBase)
      let word := fun k => BitVec.ofNat 64 (readNat (settleFrame s) (p + 8 * k) 8)
      let ends := bitAt (word 0) 12 = true ∨
        (cur s).cause1 = 0x11 ∧ (launchOf (settleFrame s) s.focus.key).continueLive = false
      (cur (settleFrame s)).ops.any (touchesFrame (settleFrame s)) = false →
      (∀ k, k < 384 → poisonedRun (settleFrame s) (p + 8 * k) 8 = false) →
      (¬ ends → ∃ t, exec .sysret s = .next t ∧ isInTrap (cur t) = false ∧ isPriv (cur t) = bitAt (word 0) 11 ∧
        (curStrand t).ca = BitVec.ofNat 64 (bf (word 2) 54 0 * 4) ∧
        (curStrand t).mask = word 4 &&& (cur s).entryMask ∧
        (curStrand t).srepc = BitVec.ofNat 7 (readNat (settleFrame s) (p + 40) 8) ∧
        (∀ e ∈ (cur t).strands, e.2.valid = true → e.2.suspended = false) ∧ sameMemory (settleFrame s) t) ∧
      (ends → exec .sysret s = .next (endLaunch (settleFrame s) (partOf s (keyDie s.focus.key)) (cur s).launchid.toNat
        (BitVec.ofNat 8 (bf (word 0) 7 0)) 0 false))

/-- 14 R273, R275, R278, 20 R395, 21 R412: once the strand's earlier accesses are performed and main memory holds nothing of
it, launch issues with the record at S[a], its role table and THREAD as they are then, S[d] pending; launch.ctx does so in
supervisor mode and traps 0x07 in user mode; lwait of an identifier that is not live writes its status, and of a live one
waits with S[d] pending (02 R36), to read that identifier's status when it issues again, whatever its guard and S[a] are
then. That a launch waits for the
strand's earlier accesses, so that it reads once, is the model's reading (log entry 71). -/
def Obligations.LaunchesIssue : Prop :=
  (∀ (s : State) (g : BitVec 3) (d a : BitVec 6) (x st : Word),
    guardP s g = true → holdsS s a x → writableS s d →
      let reads := fun u => readLaunch s u x
      let record := fun u => doneFill s (.launch (reads u)) d []
      (strandDone (cur s).ops s.focus.slot true true = true → carderMayRead s x (reads false) →
        exec (.launch g d a) s = record false) ∧
      (strandDone (cur s).ops s.focus.slot true true = false → exec (.launch g d a) s = waits s .fence) ∧
      (isPriv (cur s) = true → strandDone (cur s).ops s.focus.slot true true = true → carderMayRead s x (reads true) →
        exec (.launchCtx g d a) s = record true) ∧
      (isPriv (cur s) = false → exec (.launchCtx g d a) s = traps s 0x07 0 0) ∧
      ((reads true).thread = if isSystem s.focus.key then (cur s).scratch0 else (cur s).thread) ∧
      (isSystem s.focus.key = false → unrecorded s → (curStrand s).lwait = none →
        launchStatus (getPart s (partOf s (keyDie s.focus.key))) x = some st →
          exec (.lwait g d a) s = doneS (setStrand s { curStrand s with lwait := none }) d st) ∧
      (isSystem s.focus.key = false → notReplayed s → (curStrand s).lwait = none →
        launchStatus (getPart s (partOf s (keyDie s.focus.key))) x = none →
          let t := setCur s (putS (cur s) d.toNat { getS (cur s) d.toNat with fill := .pending })
          exec (.lwait g d a) s =
            .next (hold (setStrand t { curStrand t with lwait := some { d := d, a := a, id := x } }) .launch))) ∧
  ∀ (s : State) (g : BitVec 3) (d a : BitVec 6) (w : LaunchWait) (st : Word),
    isSystem s.focus.key = false → unrecorded s → (curStrand s).lwait = some w →
      launchStatus (getPart s (partOf s (keyDie s.focus.key))) w.id = some st →
        exec (.lwait g d a) s = doneS (setStrand s { curStrand s with lwait := none }) w.d st

/-! ## Vector instructions (07) -/

/-- 07 R151, R147, 04 R93: with its fields naming registers of the allotment, its sources readable and its
destination lanes free, each short two-source form writes V[d] in every active lane with its operation on the lane's
sub-elements, ORs their flags into FFLAGS and goes on. The shifts and v.mulhi take the integer types; the logic
forms work on whole lanes. 07 R153, R158, R165, 04 R94: the forms that read V[d] as a third source. v.fma and v.fnma
are fused on each sub-element: on a float type the result is one rounding, to nearest even, of the exact ±x × y + c (03 R61),
a zero sum with its sign under 03 R60, and 0 × ∞ gives the canonical NaN with NV; on an integer type it is modulo 2^w. v.bsel takes bits of V[a] where V[d] has ones and of V[b] elsewhere, and v.dot takes
types 1 and 2. -/
def Obligations.VectorArithmeticForms : Prop :=
  (∀ (s : State) (g t : BitVec 3) (d a b : BitVec 6) (e : BitVec 1) (rd ra rb : Nat),
     namesDab s d a b rd ra rb → lanesHold s [ra, rb] (activeLanes s g) → lanesFree s [rd] (activeLanes s g) →
       let x := laneVal (cur s) ra
       let y := laneVal (cur s) rb
       let out := fun op => doneV s rd (perLane s g fun l => arithLane op t (x l) (y l))
       exec (.vAdd g t d a b e) s = out .add ∧ exec (.vSub g t d a b e) s = out .sub ∧
       exec (.vMul g t d a b e) s = out .mul ∧ exec (.vMin g t d a b e) s = out .min ∧
       exec (.vMax g t d a b e) s = out .max ∧
       (integerType t = true → exec (.vShl g t d a b e) s = out .shl ∧ exec (.vShr g t d a b e) s = out .shr ∧
         exec (.vMulhi g t d a b e) s = out .mulhi) ∧
       (integerType t = false → exec (.vShl g t d a b e) s = traps s 0x01 0 0 ∧
         exec (.vShr g t d a b e) s = traps s 0x01 0 0 ∧ exec (.vMulhi g t d a b e) s = traps s 0x01 0 0) ∧
       exec (.vAnd g t d a b e) s = doneLanes s g rd (fun l => x l &&& y l) ∧
       exec (.vOr g t d a b e) s = doneLanes s g rd (fun l => x l ||| y l) ∧
       exec (.vXor g t d a b e) s = doneLanes s g rd (fun l => x l ^^^ y l)) ∧
  (∀ (s : State) (g t : BitVec 3) (d a b : BitVec 6) (e : BitVec 1) (rd ra rb : Nat),
     namesDab s d a b rd ra rb → lanesHold s [ra, rb, rd] (activeLanes s g) → lanesFree s [rd] (activeLanes s g) →
       let x := laneVal (cur s) ra
       let y := laneVal (cur s) rb
       let z := laneVal (cur s) rd
       exec (.vFma g t d a b e) s = doneV s rd (perLane s g fun l => fmaLane t false (x l) (y l) (z l)) ∧
       exec (.vFnma g t d a b e) s = doneV s rd (perLane s g fun l => fmaLane t true (x l) (y l) (z l)) ∧
       (∃ f, exec (.vBsel g t d a b e) s = doneLanes s g rd f ∧
         ∀ l n, n < 64 → (f l).getLsbD n = if (z l).getLsbD n then (x l).getLsbD n else (y l).getLsbD n) ∧
       (t = 1 ∨ t = 2 → exec (.vDot g t d a b e) s = doneV s rd (perLane s g fun l => dotLane t (x l) (y l) (z l))) ∧
       (t ≠ 1 → t ≠ 2 → exec (.vDot g t d a b e) s = traps s 0x01 0 0) ∧
       ∀ l j, integerType t = true → j < subs t →
         let w := subWidth t
         let p := fun (v : Word) => BitVec.ofNat w (sub v t j)
         sub (fmaLane t false (x l) (y l) (z l)).1 t j = (p (z l) + p (x l) * p (y l)).toNat ∧
         sub (fmaLane t true (x l) (y l) (z l)).1 t j = (p (z l) - p (x l) * p (y l)).toNat) ∧
  (∀ (t : BitVec 3) (neg : Bool) (x y z : Word) (j : Nat), floatType t = true → j < subs t →
     let f := fmtOf t
     let p := fun (v : Word) => numOf f (sub v t j)
     let r := fmaLane t neg x y z
     (∀ (nx ny nz : Bool) (mx my mz : Nat) (ex ey ez : Int),
        p x = .fin nx mx ex → p y = .fin ny my ey → p z = .fin nz mz ez →
        let minus := (nx != ny) != neg
        let u := min (ex + ey) ez
        let exact : Int := (if minus then -1 else 1) * (mx * my : Nat) * 2 ^ (ex + ey - u).toNat +
          (if nz then -1 else 1) * mz * 2 ^ (ez - u).toNat
        sub r.1 t j = (roundNum f 0 (if exact = 0 then .fin (minus && nz && mz == 0) 0 0
          else .fin (decide (exact < 0)) exact.natAbs u)).1) ∧
     ((∃ a b c, (p x = .inf a ∧ p y = .fin b 0 c) ∨ (p x = .fin b 0 c ∧ p y = .inf a)) →
        sub r.1 t j = f.nan ∧ r.2 &&& flagNv = flagNv))

/-- 07 R155, R161: the one-source forms complete in every active lane; on an integer type each sub-element is the
function of the operand's, and v.mov copies whole lanes. popc, clz, ctz and brev take integer types, rint float
types. -/
def Obligations.VectorOneSourceForms : Prop :=
  ∀ (s : State) (g t : BitVec 3) (d a : BitVec 6) (m : BitVec 2) (e : BitVec 1) (rd ra : Nat),
    namesDa s d a rd ra → lanesHold s [ra] (activeLanes s g) → lanesFree s [rd] (activeLanes s g) →
      let x := laneVal (cur s) ra
      let w := subWidth t
      let out := fun (i : Instr) (h : Nat → Nat) => ∃ f, exec i s = doneLanes s g rd f ∧
        ∀ l j, j < subs t → sub (f l) t j = h (sub (x l) t j)
      exec (.vMov g t d a e) s = doneLanes s g rd x ∧
      out (.vUnNot g t d a e) (fun v => 2 ^ w - 1 - v) ∧
      (integerType t = true →
        out (.vUnAbs g t d a e) (fun v => if isSignedType t ∧ 2 ^ (w - 1) ≤ v then 2 ^ w - v else v) ∧
        out (.vUnNeg g t d a e) (fun v => (2 ^ w - v) % 2 ^ w) ∧
        out (.vUnPopc g t d a e) (fun v => countOnes v w) ∧ out (.vUnClz g t d a e) (fun v => leadingZeros v w) ∧
        out (.vUnCtz g t d a e) (fun v => trailingZeros v w) ∧ out (.vUnBrev g t d a e) (fun v => reverseBits v w)) ∧
      (floatType t = true →
        out (.vUnAbs g t d a e) (fun v => v % 2 ^ (w - 1)) ∧
        out (.vUnNeg g t d a e) (fun v => if v < 2 ^ (w - 1) then v + 2 ^ (w - 1) else v - 2 ^ (w - 1)) ∧
        exec (.vUnRint g t d a m e) s =
          doneV s rd (perLane s g fun l => eachSub t fun j => rintF (fmtOf t) m.toNat (sub (x l) t j)))

/-- 07 R143, R144, R151, R152, 03 R69: on an integer type with sub-elements of w bits, each sub-element of the
result is the operation on the operands' sub-elements of that position, modulo 2^w, with no flag: min, max, div,
rem, shr and mulhi signed for the s types and unsigned for the n types, shifts by the amount's low log2 w bits, and
division by zero all ones or the dividend. -/
def Obligations.IntegerSubElementsAreTheOperation : Prop :=
  ∀ (t : BitVec 3) (x y : Word) (j : Nat), integerType t = true → j < subs t →
    let w := subWidth t
    let p : BitVec w := BitVec.ofNat w (sub x t j)
    let q : BitVec w := BitVec.ofNat w (sub y t j)
    let is := fun op (v : BitVec w) => sub (arithLane op t x y).1 t j = v.toNat ∧ (arithLane op t x y).2 = 0
    let pick := fun (sv nv : BitVec w) => if isSignedType t then sv else nv
    is .add (p + q) ∧ is .sub (p - q) ∧ is .mul (p * q) ∧
    is .min (pick (if p.toInt ≤ q.toInt then p else q) (if p.toNat ≤ q.toNat then p else q)) ∧
    is .max (pick (if p.toInt ≤ q.toInt then q else p) (if p.toNat ≤ q.toNat then q else p)) ∧
    is .div (if q = 0 then BitVec.allOnes w
      else pick (BitVec.ofInt w (Int.tdiv p.toInt q.toInt)) (BitVec.ofNat w (p.toNat / q.toNat))) ∧
    is .rem (if q = 0 then p
      else pick (BitVec.ofInt w (Int.tmod p.toInt q.toInt)) (BitVec.ofNat w (p.toNat % q.toNat))) ∧
    is .shl (p <<< (q.toNat % w)) ∧
    is .shr (pick (p.sshiftRight (q.toNat % w)) (p >>> (q.toNat % w))) ∧
    is .mulhi (pick (BitVec.ofInt w (p.toInt * q.toInt / 2 ^ w)) (BitVec.ofNat w (p.toNat * q.toNat / 2 ^ w)))

/-- 03 R55, R58: a pattern of a float format that is no NaN is the rounding of its own value, in every mode, with no
flag: no pattern is read wrong, and an exact value is never rounded. 03 R58, R59: rounding to nearest, ties to even,
in magnitudes: no finite number of the format lies nearer to the exact magnitude m × 2^e than the result, and where
another lies as near, the result is the even one. The result is finite exactly while the magnitude lies below the largest
finite one and half a unit in its last place; from there on it overflows, and is infinity, in the mode to nearest even and in
the directed mode away from zero, and else the largest finite magnitude, with OF and NX (03 R59). Here the magnitudes are
counted in units of 2^u, with u at or below every exponent in sight. -/
def Obligations.FloatsRoundToNearestEven : Prop :=
  (∀ f ∈ [binary64, binary32, binary16, bfloat16], ∀ (x mode : Nat), x < 2 * f.signBit → isNan f x = false →
     roundNum f mode (numOf f x) = (x, 0)) ∧
  (∀ f ∈ [binary64, binary32, binary16, bfloat16], ∀ (neg : Bool) (m : Nat) (e u : Int), m ≠ 0 → u ≤ e →
     u ≤ f.emin - f.fbits →
       let r := (roundNum f 0 (.fin neg m e)).1
       let size := fun (p : Nat) => match numOf f p with
         | .fin _ n h => (n : Int) * 2 ^ (h - u).toNat
         | _ => 0
       let exact := (m : Int) * 2 ^ (e - u).toNat
       let ulp : Int := 2 ^ (f.emin + 2 ^ f.ebits - 3 - f.fbits - u).toNat
       let largest := size (f.infBits - 1)
       let sign := if neg then f.signBit else 0
       (2 * exact < 2 * largest + ulp → r % f.signBit < f.infBits ∧ (r / f.signBit = 1 ↔ neg = true) ∧
         ∀ p, p < f.infBits → |exact - size (r % f.signBit)| ≤ |exact - size p| ∧
           (p ≠ r % f.signBit → |exact - size (r % f.signBit)| = |exact - size p| → r % 2 = 0)) ∧
       (2 * largest + ulp ≤ 2 * exact → roundNum f 0 (.fin neg m e) = (sign + f.infBits, flagOf ||| flagNx)) ∧
       (largest + ulp ≤ exact →
         roundNum f 1 (.fin neg m e) = (sign + (f.infBits - 1), flagOf ||| flagNx) ∧
         roundNum f 2 (.fin neg m e) = (sign + (if neg then f.infBits - 1 else f.infBits), flagOf ||| flagNx) ∧
         roundNum f 3 (.fin neg m e) = (sign + (if neg then f.infBits else f.infBits - 1), flagOf ||| flagNx)) ∧
       (largest < exact → exact < largest + ulp →
         (roundNum f 1 (.fin neg m e)).1 = sign + (f.infBits - 1) ∧
         (roundNum f 2 (.fin neg m e)).1 = sign + (if neg then f.infBits - 1 else f.infBits) ∧
         (roundNum f 3 (.fin neg m e)).1 = sign + (if neg then f.infBits else f.infBits - 1)))

/-- 07 R156, 06 R140: v.cmp writes bit l of K[k] for each active lane from sub-element 0, keeps the bits of the
other lanes, and raises the flags of the comparisons; on integer types the comparison is signed or unsigned with the
type. 07 R157, R159, R160, R162 to R164: v.cmps, v.cvt, v.pack and the forms without a vector source complete; on
integer types v.movi gives the signed immediate in every sub-element, v.iota the element index times the immediate,
and v.bcs the low bits of S[a]. -/
def Obligations.VectorComparisonsMovesAndConversions : Prop :=
  (∀ (s : State) (g t k : BitVec 3) (a b : BitVec 6) (e : BitVec 1) (ra rb : Nat),
     namesV s a (curStrand s).overA ra → namesV s b (curStrand s).overB rb →
       lanesHold s [ra, rb] (activeLanes s g) →
         let p := fun l => sub (laneVal (cur s) ra l) t 0
         let q := fun l => sub (laneVal (cur s) rb l) t 0
         let i := fun v => intOf (subWidth t) (isSignedType t) v
         let out := fun (j : Instr) (c : Nat) (h : Int → Int → Bool) => ∃ u, exec j s = .next u ∧ frameK s u k.toNat ∧
           (∀ l, (widthMask (cur s)).getLsbD l = true → (getK (cur u) k.toNat).getLsbD l =
             if l ∈ activeLanes s g then (compareSub c t (p l) (q l)).1 else (getK (cur s) k.toNat).getLsbD l) ∧
           (∀ n, (cur u).fflags.getLsbD n = ((cur s).fflags.getLsbD n ||
             (activeLanes s g).any fun l => (compareSub c t (p l) (q l)).2.getLsbD n)) ∧
           (integerType t = true → ∀ l, compareSub c t (p l) (q l) = (h (i (p l)) (i (q l)), 0))
         out (.vCmpEq g t k a b e) 0 (fun x y => decide (x = y)) ∧ out (.vCmpNe g t k a b e) 1 (fun x y => decide (x ≠ y)) ∧
         out (.vCmpLt g t k a b e) 2 (fun x y => decide (x < y)) ∧ out (.vCmpLe g t k a b e) 3 (fun x y => decide (x ≤ y)) ∧
         out (.vCmpGt g t k a b e) 4 (fun x y => decide (y < x)) ∧ out (.vCmpGe g t k a b e) 5 (fun x y => decide (y ≤ x))) ∧
  (∀ (s : State) (g t ts : BitVec 3) (d a b : BitVec 6) (m : BitVec 2) (i : BitVec 13) (e : BitVec 1) (rd : Nat),
     namesV s d (curStrand s).overD rd → lanesFree s [rd] (activeLanes s g) →
       let w := subWidth t
       (∀ ra, namesV s a (curStrand s).overA ra → lanesHold s [ra] (activeLanes s g) →
         let x := laneVal (cur s) ra
         exec (.vCvt g t d a m ts e) s = doneV s rd (perLane s g fun l => cvtLane t ts m.toNat (x l)) ∧
         (∀ rb, namesV s b (curStrand s).overB rb → lanesHold s [ra, rb] (activeLanes s g) →
           let y := laneVal (cur s) rb
           let mask := fun (j : Instr) (c : Nat) =>
             exec j s = doneV s rd (perLane s g fun l => cmpsLane c t (x l) (y l))
           mask (.vCmpsEq g t d a b e) 0 ∧ mask (.vCmpsLt g t d a b e) 2 ∧ mask (.vCmpsLe g t d a b e) 3 ∧
           (packType t = true → exec (.vPack g t d a b e) s = doneV s rd (perLane s g fun l => packLane t (x l) (y l))) ∧
           (packType t = false → exec (.vPack g t d a b e) s = traps s 0x01 0 0))) ∧
       (∃ v, exec (.vMovi g t d i) s = doneLanes s g rd (fun _ => v) ∧
         (integerType t = true → ∀ j, j < subs t → sub v t j = (i.signExtend w).toNat)) ∧
       (∃ f, exec (.vIota g t d i) s = doneLanes s g rd f ∧
         (integerType t = true → ∀ l j, j < subs t →
           sub (f l) t j =
             (BitVec.ofNat w ((l - spanBase (cur s) (curStrand s)) * subs t + j) * i.signExtend w).toNat)) ∧
       (∀ x, holdsS s a x → ∃ v, exec (.vBcs g t d a) s = doneLanes s g rd (fun _ => v) ∧
         ∀ j, j < subs t → sub v t j = x.toNat % 2 ^ w))

/-- 07 R148, R152, R154, R166: the long forms mark the active lanes of V[d] pending and send their results on the
way: v.div, v.rem on integer types, v.sqrt on float types, and the eight functions of v.sfu on types 0 to 2; on
other types they trap 0x01. 07 R170 to R174: with no flip pending, v.act evaluates the active bank's table in each
active lane, act.ld sends one write of the shadow bank for each active lane on its way, and act.flip makes the flip
pending, and its strand waits in its place, issuing nothing until the flip completes. -/
def Obligations.LongVectorFormsAndActivation : Prop :=
  (∀ (s : State) (g t : BitVec 3) (d a b : BitVec 6) (e : BitVec 1) (rd ra : Nat),
     namesDa s d a rd ra → lanesHold s [ra] (activeLanes s g) → lanesFree s [rd] (activeLanes s g) →
       let x := laneVal (cur s) ra
       let sfu := fun k => doneLong s rd (perLane s g fun l => sfuLane k t (x l))
       (∀ rb, namesV s b (curStrand s).overB rb → lanesHold s [ra, rb] (activeLanes s g) →
         let y := laneVal (cur s) rb
         exec (.vDiv g t d a b e) s = doneLong s rd (perLane s g fun l => arithLane .div t (x l) (y l)) ∧
         (integerType t = true →
           exec (.vRem g t d a b e) s = doneLong s rd (perLane s g fun l => arithLane .rem t (x l) (y l))) ∧
         (integerType t = false → exec (.vRem g t d a b e) s = traps s 0x01 0 0)) ∧
       (floatType t = true → exec (.vSqrt g t d a e) s = doneLong s rd (perLane s g fun l => sqrtLane t (x l))) ∧
       (floatType t = false → exec (.vSqrt g t d a e) s = traps s 0x01 0 0) ∧
       (narrowType t = true →
         exec (.vSfuExp2 g t d a e) s = sfu .exp2 ∧ exec (.vSfuExpe g t d a e) s = sfu .expe ∧
         exec (.vSfuLog2 g t d a e) s = sfu .log2 ∧ exec (.vSfuLoge g t d a e) s = sfu .loge ∧
         exec (.vSfuRcp g t d a e) s = sfu .rcp ∧ exec (.vSfuRsqrt g t d a e) s = sfu .rsqrt ∧
         exec (.vSfuSinpi g t d a e) s = sfu .sinpi ∧ exec (.vSfuCospi g t d a e) s = sfu .cospi) ∧
       (narrowType t = false → ∀ i ∈ [Instr.vSfuExp2 g t d a e, .vSfuExpe g t d a e, .vSfuLog2 g t d a e,
         .vSfuLoge g t d a e, .vSfuRcp g t d a e, .vSfuRsqrt g t d a e, .vSfuSinpi g t d a e, .vSfuCospi g t d a e],
         exec i s = traps s 0x01 0 0)) ∧
  (∀ (s : State) (g t : BitVec 3) (d a b : BitVec 6) (n : BitVec 2) (e : BitVec 1) (ra : Nat),
     (curCore s).actFlip = none → namesV s a (curStrand s).overA ra → lanesHold s [ra] (activeLanes s g) →
       (∀ rd, namesV s d (curStrand s).overD rd → lanesFree s [rd] (activeLanes s g) → narrowType t = true →
         exec (.vAct g t d a n e) s =
           doneV s rd (perLane s g fun l => actLane (curCore s) n.toNat t (laneVal (cur s) ra l))) ∧
       (∀ rb, namesV s b (curStrand s).overB rb → lanesHold s [ra, rb] (activeLanes s g) →
         ∃ u, exec (.actLd g n a b e) s = .next u ∧ (curCore u).acts = (curCore s).acts ∧
           (curCore u).actWrites = (curCore s).actWrites ++ (activeLanes s g).map fun l =>
             { bank := !(curCore s).actBank, index := n.toNat * 256 + (laneVal (cur s) rb l).toNat % 256,
               value := laneVal (cur s) ra l }) ∧
       (∃ u n, exec .actFlip s = .next u ∧ (curCore u).actFlip = some s.focus ∧ (curCore u).actBank = (curCore s).actBank ∧
         (curStrand u).wait = .held .table n ∧ (curStrand u).ca = (curStrand s).ca ∧ (curStrand u).wi = (curStrand s).wi ∧
         (isSystem s.focus.key = false → issuable u s.focus = false)))

/-- 07 R147, 06 R141: what delivering results in lanes of V[r] does. Each given lane holds its value, full and not
poisoned; every other lane of every register is as before; FFLAGS holds its old bits and the flags of the results;
and nothing but V[r], FFLAGS and the strand's own place changes, in any context and in memory. -/
def Obligations.DeliveredLanesAndTheirFrame : Prop :=
  ∀ (s t : State) (r : Nat) (outs : List (Nat × (Word × BitVec 6))), (outs.map Prod.fst).Nodup →
    (∀ o ∈ outs, o.1 < 64) → doneV s r outs = .next t →
      (∀ o ∈ outs, getV (cur t) r o.1 = { val := o.2.1 }) ∧ frameV s t r (outs.map Prod.fst) ∧
        ∀ n, (cur t).fflags.getLsbD n = ((cur s).fflags.getLsbD n || outs.any fun o => o.2.2.getLsbD n)

/-! ## Cross-lane, mask, bit-stream and shared-exponent instructions (10) -/

/-- 10 R209, R212 to R214: shuffles and the broadcast write every active lane. A source lane outside the active ones
gives zero; x.shfl picks the sub-element that each index names within the span; x.shfli moves by a fixed distance
and keeps the lane's own value where no source lies in the span; x.bcast gives every lane the one named. 10 R215,
R216: each reduction gives every active lane the combination of all active lanes, and each scan gives lane l that of
the active lanes at or below it (strictly below with excl), position by position, in ascending lane order; an
integer sum is modulo 2^w, and an exclusive scan gives the lowest lane the identity. -/
def Obligations.ShufflesReductionsAndScans : Prop :=
  (∀ (s : State) (g t : BitVec 3) (d a b : BitVec 6) (dist : BitVec 5) (e : BitVec 1) (rd ra : Nat),
     namesDa s d a rd ra → lanesHold s [ra] (activeLanes s g) → lanesFree s [rd] (activeLanes s g) →
       let sb := spanBase (cur s) (curStrand s)
       let sw := spanWidth (cur s)
       let x := fun l => if l ∈ activeLanes s g then laneVal (cur s) ra l else 0
       let own := laneVal (cur s) ra
       let k := dist.toNat
       (∀ rb, namesV s b (curStrand s).overB rb → lanesHold s [ra, rb] (activeLanes s g) →
         ∃ f, exec (.xShfl g t d a b e) s = doneLanes s g rd f ∧
           ∀ l j, j < subs t →
             let n := sub (laneVal (cur s) rb l) t j
             sub (f l) t j = if n < sw * subs t then sub (x (sb + n / subs t)) t (n % subs t) else 0) ∧
       exec (.xShfliXor g d a dist) s = doneLanes s g rd
         (fun l => if Nat.xor (l - sb) k < sw then x (sb + Nat.xor (l - sb) k) else own l) ∧
       exec (.xShfliUp g d a dist) s = doneLanes s g rd (fun l => if k ≤ l - sb then x (sb + (l - sb - k)) else own l) ∧
       exec (.xShfliDown g d a dist) s =
         doneLanes s g rd (fun l => if l - sb + k < sw then x (sb + (l - sb + k)) else own l) ∧
       exec (.xShfliRot g d a dist) s = doneLanes s g rd (fun l => x (sb + (l - sb + k) % sw)) ∧
       exec (.xBcast g t d a b e) s = doneLanes s g rd (fun _ => if b.toNat < sw then x (sb + b.toNat) else 0)) ∧
  (∀ (s : State) (g t : BitVec 3) (d a : BitVec 6) (ex e : BitVec 1) (rd ra : Nat),
     namesDa s d a rd ra → lanesHold s [ra] (activeLanes s g) → lanesFree s [rd] (activeLanes s g) →
       let x := laneVal (cur s) ra
       let lanes := activeLanes s g
       let below := fun l => lanes.filter fun m => decide (m < l) || (decide (m = l) && decide (ex = 0))
       let red := fun k => doneV s rd (lanes.map fun l => (l, combineLanes k t (lanes.map x)))
       let scan := fun k => doneV s rd (lanes.map fun l => (l, combineLanes k t ((below l).map x)))
       (exec (.xRedAdd g t d a e) s = red .add ∧ exec (.xRedMin g t d a e) s = red .min ∧
         exec (.xRedMax g t d a e) s = red .max ∧ exec (.xRedAnd g t d a e) s = red .and ∧
         exec (.xRedOr g t d a e) s = red .or ∧ exec (.xRedXor g t d a e) s = red .xor) ∧
       (exec (.xScanAdd g t d a ex e) s = scan .add ∧ exec (.xScanMin g t d a ex e) s = scan .min ∧
         exec (.xScanMax g t d a ex e) s = scan .max ∧ exec (.xScanAnd g t d a ex e) s = scan .and ∧
         exec (.xScanOr g t d a ex e) s = scan .or ∧ exec (.xScanXor g t d a ex e) s = scan .xor) ∧
       ∀ (k : Fold) (vs : List Word) (j : Nat), j < subs t →
         (vs = [] → sub (combineLanes k t vs).1 t j = foldIdentity k t) ∧
         (integerType t = true →
           sub (combineLanes .add t vs).1 t j = (vs.map fun v => sub v t j).sum % 2 ^ subWidth t))

/-- 10 R217 to R219: x.ballot and the lane-mask forms. The i = 0 forms of k.op write the bits of the strand's own
lanes and keep the others; from writes the whole span; to and popc read it; k.test asks whether any or every lane of
the mask is set. -/
def Obligations.LaneMaskForms : Prop :=
  (∀ (s : State) (g t k : BitVec 3) (a : BitVec 6) (e : BitVec 1) (ra : Nat),
    namesV s a (curStrand s).overA ra → lanesHold s [ra] (activeLanes s g) →
      ∃ u, exec (.xBallot g t k a e) s = .next u ∧ frameK s u k.toNat ∧
        ∀ l, (widthMask (cur s)).getLsbD l = true → (getK (cur u) k.toNat).getLsbD l =
          if l ∈ activeLanes s g then nonzeroSub t (sub (laneVal (cur s) ra l) t 0)
          else (getK (cur s) k.toNat).getLsbD l) ∧
  (∀ (s : State) (g d a b : BitVec 3), guardP s g = true →
    let x := fun l => (getK (cur s) a.toNat).getLsbD l
    let y := fun l => (getK (cur s) b.toNat).getLsbD l
    let out := fun (i : Instr) (h : Nat → Bool) => ∃ u, exec i s = .next u ∧ frameK s u d.toNat ∧
      ∀ l, (widthMask (cur s)).getLsbD l = true → (getK (cur u) d.toNat).getLsbD l =
        if (curStrand s).mask.getLsbD l then h l else (getK (cur s) d.toNat).getLsbD l
    out (.kOpAnd g d a b) (fun l => x l && y l) ∧ out (.kOpOr g d a b) (fun l => x l || y l) ∧
    out (.kOpXor g d a b) (fun l => x l ^^ y l) ∧ out (.kOpAndn g d a b) (fun l => x l && !y l) ∧
    out (.kOpNot g d a) (fun l => !x l) ∧ out (.kOpMov g d a) x ∧
    ∀ p, ∃ v w, exec (.kTestAny g p a) s = doneP s p v ∧ exec (.kTestAll g p a) s = doneP s p w ∧
      (v = true ↔ ∃ l, x l = true ∧ (curStrand s).mask.getLsbD l = true) ∧
      (w = true ↔ ∀ l, (curStrand s).mask.getLsbD l = true → x l = true)) ∧
  (∀ (s : State) (g k : BitVec 3) (n : BitVec 6) (v : Word), guardP s g = true →
    let sb := spanBase (cur s) (curStrand s)
    let sw := spanWidth (cur s)
    (holdsS s n v → ∃ u, exec (.kOpFrom g k n) s = .next u ∧ frameK s u k.toNat ∧
      ∀ l, (widthMask (cur s)).getLsbD l = true → (getK (cur u) k.toNat).getLsbD l =
        if sb ≤ l ∧ l < sb + sw then v.getLsbD (l - sb) else (getK (cur s) k.toNat).getLsbD l) ∧
    (writableS s n → ∃ w : Word, exec (.kOpTo g n k) s = doneS s n w ∧
      exec (.kOpPopc g n k) s = doneS s n (BitVec.ofNat 64 (countOnes w.toNat 64)) ∧
      ∀ i, i < 64 → w.getLsbD i = (decide (i < sw) && (getK (cur s) k.toNat).getLsbD (sb + i))))

/-- 10 R223 to R226: bs.rd gives n + 1 bits of each lane's 128-bit window from its cursor on and moves the cursor,
no further than 127; bs.fill slides the windows whose cursor has reached 64; bs.cur reads and writes the cursors. 10
R220 to R222, 03 R73, R76: x.sepk and x.seunpk complete for the formats SE1, SE3 and SE7 (f = 0, 1, 2). For SE3,
each active lane's 16 inputs are packed into one block: the codes fill V[d], and the scale word takes halfword ss of
V[d + 1]. Where only one lane of an SE7 pair is active, the pair is not worked on. -/
def Obligations.BitStreamsAndSharedExponents : Prop :=
  (∀ (s : State) (g : BitVec 3) (d a b n : BitVec 6) (t e : BitVec 1) (rd ra : Nat),
     namesDa s d a rd ra → lanesFree s [rd] (activeLanes s g) →
       let lanes := activeLanes s g
       let at_ := fun l => (getCursor (cur s) l).toNat
       let k := n.toNat + 1
       let window := fun l => (laneVal (cur s) ra l).toNat + (laneVal (cur s) (ra + 1) l).toNat * 2 ^ 64
       (runFits s ra 1 → lanesHold s [ra, ra + 1] lanes → ∃ u, exec (.bsRd g t d a n e) s = .next u ∧
         (∀ l ∈ lanes, getV (cur u) rd l =
           { val := if t = 0 then sxWord (window l / 2 ^ at_ l) k else BitVec.ofNat 64 (window l / 2 ^ at_ l % 2 ^ k) }) ∧
         ∀ l, l < 64 → (getCursor (cur u) l).toNat = if l ∈ lanes then min 127 (at_ l + k) else at_ l) ∧
       (∀ rb, namesV s b (curStrand s).overB rb → runFits s ra 1 →
         let slide := lanes.filter fun l => decide (64 ≤ at_ l)
         lanesHold s [ra + 1, rb] slide → lanesFree s [ra, ra + 1] slide →
           ∃ u, exec (.bsFill g d a b e) s = .next u ∧
             (∀ l ∈ lanes, getV (cur u) rd l = { val := if 64 ≤ at_ l then 1 else 0 }) ∧
             (rd ≠ ra → ∀ l ∈ slide, getV (cur u) ra l = { val := laneVal (cur s) (ra + 1) l }) ∧
             (rd ≠ ra + 1 → ∀ l ∈ slide, getV (cur u) (ra + 1) l = { val := laneVal (cur s) rb l }) ∧
             ∀ l, l < 64 → (getCursor (cur u) l).toNat = if l ∈ slide then at_ l - 64 else at_ l) ∧
       exec (.bsCurGet g d) s = doneLanes s g rd (fun l => BitVec.ofNat 64 (at_ l)) ∧
       (lanesHold s [ra] lanes → ∃ u, exec (.bsCurSet g a e) s = .next u ∧
         ∀ l, l < 64 → (getCursor (cur u) l).toNat = if l ∈ lanes then (laneVal (cur s) ra l).toNat % 128 else at_ l)) ∧
  (∀ (s : State) (g t : BitVec 3) (d a : BitVec 6) (f ss : BitVec 2) (e : BitVec 1) (rd ra : Nat),
     namesDa s d a rd ra → narrowType t = true → f ≠ 3 → (f = 0 → ss ≠ 3) →
       let n := 32 / 2 ^ f.toNat / subs t
       let wide := fun r => (List.range n).map fun k => r + k
       let all := activeLanes s g
       let worked := if f = 2 then all.filter fun l => decide ((if l % 2 = 0 then l + 1 else l - 1) ∈ all) else all
       let heads := if f = 2 then worked.filter fun l => decide (l % 2 = 0) else worked
       (runFits s ra (n - 1) → runFits s rd 1 → lanesHold s (wide ra) worked → lanesHold s [rd + 1] heads →
         lanesFree s [rd] worked → lanesFree s [rd + 1] heads →
           ∃ u, exec (.xSepk g t d a f ss e) s = .next u ∧
             (∀ l, l < 64 → l ∉ worked → getV (cur u) rd l = getV (cur s) rd l) ∧
             (f = 1 → ∀ l ∈ all,
               let xs := (List.range 16).map fun i =>
                 numOf (fmtOf t) (sub (laneVal (cur s) (ra + i / subs t) l) t (i % subs t))
               let p := sePack 3 xs
               getV (cur u) rd l = { val := BitVec.ofNat 64 p.2.1 } ∧
               (getV (cur u) (rd + 1) l).fill = .full ∧
               ∀ h, h < 4 → halfOf (getV (cur u) (rd + 1) l).val h =
                 if h = ss.toNat then p.1 % 2 ^ 16 else halfOf (laneVal (cur s) (rd + 1) l) h)) ∧
       (runFits s ra 1 → runFits s rd (n - 1) → lanesHold s [ra] worked → lanesHold s [ra + 1] heads →
         lanesFree s (wide rd) worked →
           ∃ u, exec (.xSeunpk g t d a f ss e) s = .next u ∧
             (f = 1 → ∀ l ∈ all, ∀ k, k < n → ∀ j, j < subs t →
               sub (laneVal (cur u) (rd + k) l) t j = (roundNum (fmtOf t) 0
                 (seElement 3 (halfOf (laneVal (cur s) (ra + 1) l) ss.toNat) (laneVal (cur s) ra l).toNat
                   (k * subs t + j))).1)))

/-! ## Vector memory, atomics, barriers, fences, spills, cells, group-indexed forms (12, 13, 16, 23) -/

/-- 12 R246, R250, R251: a vector load or store whose lanes pass the checks issues with one access for each active
lane at S[b] + V[a][l] (two halves for 16 bytes outside the group store), the loads with their destination lanes
pending, and the strand goes on. m.lds makes the accesses of all active lanes at S[b], and none where no lane is
active. That each access is performed later by a step of its own is the model's reading (log entry 15). 12 R252,
R253: every atomic whose lanes pass the checks issues with V[d] pending, as the operation of its function on 4 bytes
(z = 0) or 8, with each lane's operand cut to them; m.xchg exchanges, and m.cas compares with V[d] and stores V[d +
1]. The scope is carried with the operation and plays no part in it. -/
def Obligations.VectorAccessesAndAtomicsIssue : Prop :=
  (∀ (s : State) (g z : BitVec 3) (d a b : BitVec 6) (e : BitVec 1) (rd : Nat) (base : Word),
     namesV s d (curStrand s).overD rd → holdsS s b base → notReplayed s →
       let n := sizeBytes z
       let lanes := activeLanes s g
       let regs := if z = 7 then [rd, rd + 1] else [rd]
       let datum := fun l =>
         ((laneVal (cur s) rd l).toNat + if z = 7 then (laneVal (cur s) (rd + 1) l).toNat * 2 ^ 64 else 0) % 2 ^ (8 * n)
       runFits s rd (if z = 7 then 1 else 0) →
         (∀ ra, namesV s a (curStrand s).overA ra →
           let va := laneAt s base ra
           (lanesHold s [ra] lanes → accessesPass s .load n (lanes.map va) → lanesFree s regs lanes →
             exec (.mLd g z d a b e) s =
               doneFillV s (.load n (sizeSigned z)) rd regs lanes (accessesOf s lanes va n (fun _ => 0) fun _ => 0)) ∧
           (lanesHold s (ra :: regs) lanes → accessesPass s .store n (lanes.map va) → noFenceHolds s →
             exec (.mSt g z d a b e) s = done (issueOp s .store 0 (accessesOf s lanes va n datum fun _ => 0)))) ∧
         (lanes = [] → exec (.mLds g z d b) s = done s) ∧
         (lanes ≠ [] → accessesPass s .load n [base.toNat] → lanesFree s regs lanes →
           exec (.mLds g z d b) s = doneFillV s (.loadSplat n (sizeSigned z)) rd regs lanes
             (accessesOf s lanes (fun _ => base.toNat) n (fun _ => 0) fun _ => 0))) ∧
  (∀ (s : State) (g : BitVec 3) (z : BitVec 1) (d a b : BitVec 6) (rd ra : Nat) (base : Word),
     namesDa s d a rd ra → holdsS s b base → notReplayed s → noFenceHolds s →
       let n := if z = 0 then 4 else 8
       let lanes := activeLanes s g
       let va := laneAt s base ra
       let cut := fun r l => (laneVal (cur s) r l).toNat % 2 ^ (8 * n)
       let out := fun f scope r => doneFillV s (.atomic f n scope) rd [rd] lanes (accessesOf s lanes va n (cut r) (cut rd))
       lanesHold s [ra, rd] lanes → lanesFree s [rd] lanes → accessesPass s .atomic n (lanes.map va) →
         (exec (.mAtomWAdd g z d a b) s = out 0 1 rd ∧ exec (.mAtomWMin g z d a b) s = out 1 1 rd ∧
           exec (.mAtomWMax g z d a b) s = out 2 1 rd ∧ exec (.mAtomWMinn g z d a b) s = out 3 1 rd ∧
           exec (.mAtomWMaxn g z d a b) s = out 4 1 rd ∧ exec (.mAtomWAnd g z d a b) s = out 5 1 rd ∧
           exec (.mAtomWOr g z d a b) s = out 6 1 rd ∧ exec (.mAtomWXor g z d a b) s = out 7 1 rd) ∧
         (exec (.mAtomDAdd g z d a b) s = out 0 2 rd ∧ exec (.mAtomDMin g z d a b) s = out 1 2 rd ∧
           exec (.mAtomDMax g z d a b) s = out 2 2 rd ∧ exec (.mAtomDMinn g z d a b) s = out 3 2 rd ∧
           exec (.mAtomDMaxn g z d a b) s = out 4 2 rd ∧ exec (.mAtomDAnd g z d a b) s = out 5 2 rd ∧
           exec (.mAtomDOr g z d a b) s = out 6 2 rd ∧ exec (.mAtomDXor g z d a b) s = out 7 2 rd) ∧
         (exec (.mAtomPAdd g z d a b) s = out 0 3 rd ∧ exec (.mAtomPMin g z d a b) s = out 1 3 rd ∧
           exec (.mAtomPMax g z d a b) s = out 2 3 rd ∧ exec (.mAtomPMinn g z d a b) s = out 3 3 rd ∧
           exec (.mAtomPMaxn g z d a b) s = out 4 3 rd ∧ exec (.mAtomPAnd g z d a b) s = out 5 3 rd ∧
           exec (.mAtomPOr g z d a b) s = out 6 3 rd ∧ exec (.mAtomPXor g z d a b) s = out 7 3 rd) ∧
         exec (.mXchg g z d a b) s = out 8 3 rd ∧
         (runFits s rd 1 → lanesHold s [ra, rd, rd + 1] lanes → exec (.mCas g z d a b) s = out 9 3 (rd + 1)))

/-- 12 R252: one step at an address takes its lanes in ascending order. From the value at the home each lane gets
the value that the lanes below it have left, and the last leaves the value stored; so a sum is the old value and all
the operands, and lane k of an exchange gets the operand of the lane before it. 12 R247, R248, 15 R292: performing
one access of a buffered store at a home outside main memory writes the datum's bytes, lowest address first, and
nothing else: every byte of memory outside them reads as before, and the access is done. 01 R28, 14 R273, 12 R248:
bytes written read back, lowest address first, and every other byte keeps its value. -/
def Obligations.PerformedAccessesActOnMemory : Prop :=
  (∀ (f n v : Nat) (as : List Access) (k : Nat) (a : Access), as[k]? = some a →
     let left := fun j => (as.take j).foldl (fun x b => atomicOp f n x b.data b.data2) v
     ((atomicLanes f n v as).2[k]?).map (fun b => (b.lane, b.result, b.done)) = some (a.lane, left k, true) ∧
     (atomicLanes f n v as).1 = left as.length ∧
     (f = 0 → v < 2 ^ (8 * n) → left k = (v + ((as.take k).map fun b => b.data).sum) % 2 ^ (8 * n)) ∧
     (f = 8 → 0 < k → left k = ((as[k - 1]?).map fun b => b.data).getD v)) ∧
  (∀ (s : State) (key id i : Nat) (o : MemOp) (a : Access),
     findOp (getCtx s key) id = some o → o.id = id → o.kind = .store → o.accs[i]? = some a → a.done = false →
       a.cell = false → mainTop ≤ a.place → replays s key = false → (launchOf s key).recording = false →
         let t := performAt s key id i
         (∀ k, k < a.len → readByte t (a.place + k) = BitVec.ofNat 8 (a.data / 256 ^ k)) ∧
         (∀ p, (p < a.place ∨ a.place + a.len ≤ p) → readByte t p = readByte s p) ∧
         ∃ q, findOp (getCtx t key) id = some q ∧ (q.accs[i]?).map (fun b => b.done) = some true) ∧
  (∀ (s : State) (p : Nat) (bs : List Byte) (bad : Bool),
     let t := writeBytes s p bs bad
     (∀ k, k < bs.length → readByte t (p + k) = bs.getD k 0) ∧
     (∀ q, (q < p ∨ p + bs.length ≤ q) → readByte t q = readByte s q) ∧
     readNat t p bs.length = ofBytes bs ∧ (∀ x, ofBytes (toBytes x bs.length) = x % 256 ^ bs.length))

/-- 12 R255 to R257: on a barrier word that passes its checks, m.arrive marks S[d] empty and issues one step, and
m.wait goes on at once where it reads sound bytes with another phase than its token. The step of m.arrive counts the
arrival, or completes the phase when the count reaches EX. 12 R247: the wait reads the word after the strand's own
earlier accesses to it. 12 R259, R260, 11 R245: a fence of a scope from 0 to 4 goes on at once when what it waits for
is performed: acq, every earlier load and atomic of the strand; rel, acqrel and sc, every store too. Before that a
fence rel either makes the strand wait at it, or goes on and holds later stores and atomics (which, the spec leaves
open: log 84). Passing a fence changes nothing but which stores of the warp, performed for their own strands alone, are
released and who has them before its next access: a release releases the strand's, and an acquire puts the released ones
before its strand (15 R294, R296; log 120). fence tlr drops the core's record cache once the strand's stores are performed and no copy, multicast or
drain of it is open in any core's engine. -/
def Obligations.BarriersAndFences : Prop :=
  ((∀ (s : State) (g : BitVec 3) (d a : BitVec 6) (i : BitVec 10) (x t : Word) (p : Nat),
     guardP s g = true → holdsS s a x → notReplayed s →
       let b := x + 8 * i.signExtend 64
       regionOf b.toNat = .group → accessesPass s .barrier 8 [b.toNat] → targetAt s b.toNat = .home p →
         (writableS s d → noFenceHolds s →
           exec (.mArrive g d a i) s = doneFill s .arrive d [{ place := p, len := 8, pa := p }]) ∧
         (holdsS s d t → unrecorded s → waitReady s p = true →
           (barrierWord s s.focus.key [s.focus.slot] p).2 = false →
           phaseOf (barrierWord s s.focus.key [s.focus.slot] p).1 ≠ t.toNat % 2 ^ 16 →
             exec (.mWait g d a i) s = done (releasePark s s.focus.key (2 ^ s.focus.slot)))) ∧
   (∀ w : Word,
     let ex := bf w 15 0
     let ar := bf w 31 16
     let v := arriveWord w
     bf v 15 0 = ex ∧ bf v 63 48 = bf w 63 48 ∧
     (ex ≤ ar + 1 → bf v 31 16 = 0 ∧ bf v 47 32 = (bf w 47 32 + 1) % 2 ^ 16) ∧
     (ar + 1 < ex → bf v 31 16 = ar + 1 ∧ bf v 47 32 = bf w 47 32))) ∧
  (∀ (s : State) (g sc : BitVec 3), guardP s g = true →
     let reads := ∀ o ∈ (cur s).ops, o.order.getLsbD s.focus.slot = true → opReads o.kind = true → ∀ b ∈ o.accs, b.done = true
     let all := ∀ o ∈ (cur s).ops, o.order.getLsbD s.focus.slot = true → opAccesses o.kind = true →
       ∀ b ∈ o.accs, b.done = true
     (sc.toNat < 5 →
       (reads → exec (.fenceAcq g sc) s = done (passFence s 0)) ∧
       (all → exec (.fenceRel g sc) s = done (passFence s 1) ∧ exec (.fenceAcqrel g sc) s = done (passFence s 2) ∧
         exec (.fenceSc g sc) s = done (passFence s 3)) ∧
       (fenceDone s 1 sc.toNat = false →
         let t := { s with drawn := s.drawn + 1 }
         exec (.fenceRel g sc) s = done (issueOp t (.fence 1 sc.toNat) 0 []) ∨
           exec (.fenceRel g sc) s = waits t .fence)) ∧
     (5 ≤ sc.toNat → exec (.fenceAcq g sc) s = traps s 0x01 0 0) ∧
     (∀ kind,
       let t := passFence s kind
       let bare := fun (o : MemOp) => { o with order := 0, released := false }
       onlyCur s t ∧ cur t = { cur s with ops := (cur t).ops } ∧ (cur t).ops.map bare = (cur s).ops.map bare ∧
         ∀ o ∈ (cur t).ops,
           (kind ≠ 0 → o.order.getLsbD s.focus.slot = true → o.kind = .store → (∃ b ∈ o.accs, b.done = false) →
             o.released = true) ∧
           (kind ≠ 1 → s.focus.slot < 8 → o.released = true → o.order.getLsbD s.focus.slot = true)) ∧
     (all → isSystem s.focus.key = false →
       (∀ c ∈ s.cores, ∀ o ∈ c.2.engine, openTransfer (cur s) s.focus.slot o = false) → ∃ u, exec (.fenceTlr g) s = .next u ∧
       curCore u = { curCore s with records := [] }))

/-- 12 R261: m.push stores the active lanes of its registers as frames in the warp's spill stack from S[62] on, and
moves S[62] past them; m.pop moves S[62] back and loads the frames there, with the lanes pending. A frame is 256
bytes, or 512 in 64-lane width. In both forms an S[62] that is no multiple of 8 traps 0x08, and a frame past 0x3C00 or below 0
traps 0x0C; that 0x08 names the address of S[62] in the spill window is the model's choice (log entry 99). -/
def Obligations.PushAndPop : Prop :=
  ∀ (s : State) (g : BitVec 3) (d n : BitVec 6) (e : BitVec 1) (rd : Nat) (x : Word),
    namesV s d (curStrand s).overD rd → holdsS s 62 x → runFits s rd n.toNat →
      let k := n.toNat + 1
      let f := if isWide (cur s) then 512 else 256
      let lanes := activeLanes s g
      let regs := (List.range k).map fun i => rd + i
      let frame := fun (o : Nat) (v : Nat → Nat → Nat) => (List.range k).flatMap fun i => lanes.map fun l =>
        ({ lane := l, reg := i, place := spillPlace s.focus.key (o + f * i + 8 * l), len := 8,
           pa := spillPlace s.focus.key (o + f * i + 8 * l), data := v i l } : Access)
      let addrs := fun o => lanes.flatMap fun l => (List.range k).map fun i => spillBase + o + f * i + 8 * l
      let down := x.toNat - k * f
      let at_ := BitVec.ofNat 64 (spillBase + x.toNat)
      (lanesHold s regs lanes →
        (x.toNat % 8 = 0 → x.toNat + k * f ≤ 0x3C00 → accessesPass s .store 8 (addrs x.toNat) → noFenceHolds s →
          exec (.mPush g d n e) s =
            done (issueOp (wrS s 62 (x + BitVec.ofNat 64 (k * f))) .store 0
              (frame x.toNat fun i l => (laneVal (cur s) (rd + i) l).toNat))) ∧
        (x.toNat % 8 ≠ 0 → exec (.mPush g d n e) s = traps s 0x08 at_ 0) ∧
        (x.toNat % 8 = 0 → 0x3C00 < x.toNat + k * f → exec (.mPush g d n e) s = traps s 0x0C at_ 0)) ∧
      (x.toNat % 8 = 0 → k * f ≤ x.toNat → accessesPass s .load 8 (addrs down) → lanesFree s regs lanes →
        exec (.mPop g d n) s =
          doneFillV (wrS s 62 (BitVec.ofNat 64 down)) (.load 8 false) rd regs lanes (frame down fun _ _ => 0)) ∧
      (x.toNat % 8 ≠ 0 → exec (.mPop g d n) s = traps s 0x08 at_ 0) ∧
      (x.toNat % 8 = 0 → x.toNat < k * f → exec (.mPop g d n) s = traps s 0x0C at_ 0)

/-- 16 R318 to R321: the sibling forms on lanes that pass the checks issue with their destinations pending. m.ldv
gives each cell's indexed value and token, m.stv carries the value and the token that it was read with, and m.rcn
merges under its function. 23 R459 to R461: lg.ld and lg.st take each lane's address from S[b] plus the access size
times the workgroup position of the span's first lane plus the signed 32-bit index of the lane. lg.bar, in a warp's
root strand with its accesses performed and every other root of the workgroup at the barrier, completes for all of
them. -/
def Obligations.SiblingAndCompatibilityForms : Prop :=
  (∀ (s : State) (g t : BitVec 3) (y : BitVec 1) (d a b : BitVec 6) (j : BitVec 2) (e : BitVec 1) (rd ra : Nat),
     namesDa s d a rd ra → notReplayed s →
       let lanes := activeLanes s g
       let va := laneAt s 0 ra
       let data := fun r l => (laneVal (cur s) r l).toNat
       let rcn := fun f => doneFillV s (.cellRcn f t.toNat) rd [rd, rd + 1] lanes
         (accessesOf s lanes va 8 (fun _ => 0) fun _ => 0)
       (∀ rb, namesV s b (curStrand s).overB rb →
         (runFits s rd 1 → lanesHold s [ra, rb] lanes → accessesPass s .cellLoad 8 (lanes.map va) →
           lanesFree s [rd, rd + 1] lanes →
             exec (.mLdv g y d a b e) s =
               doneFillV s .cellLdv rd [rd, rd + 1] lanes (accessesOf s lanes va 8 (fun _ => 0) (data rb))) ∧
         (runFits s rb 1 → lanesHold s [ra, rb, rb + 1] lanes → accessesPass s .cellStore 8 (lanes.map va) →
           lanesFree s [rd] lanes → noFenceHolds s →
             exec (.mStv g y d a b e) s =
               doneFillV s .cellStv rd [rd] lanes (accessesOf s lanes va 8 (data rb) (data (rb + 1))))) ∧
       (runFits s rd 1 → lanesHold s [ra] lanes → accessesPass s .cellBoth 8 (lanes.map va) →
         lanesFree s [rd, rd + 1] lanes → noFenceHolds s →
           exec (.mRcnAdd g t d a e) s = rcn 0 ∧ exec (.mRcnMax g t d a e) s = rcn 1 ∧
           exec (.mRcnMin g t d a e) s = rcn 2 ∧ exec (.mRcnOr g t d a e) s = rcn 3 ∧
           exec (.mRcnPick g t d a j e) s = rcn (4 + j.toNat))) ∧
  (∀ (s : State) (z : BitVec 3) (d a b : BitVec 6) (rd ra : Nat) (base : Word),
     namesDa s d a rd ra → holdsS s b base → z ≠ 7 →
       let n := sizeBytes z
       let lanes := lanesOf (curStrand s).mask
       let first := (cur s).warpid.toNat * laneCount (cur s) + spanBase (cur s) (curStrand s)
       let index := fun l => BitVec.ofNat 64 first + ((laneVal (cur s) ra l).truncate 32).signExtend 64
       let va := fun l => (base + BitVec.ofNat 64 n * index l).toNat
       (lanesHold s [ra] lanes → accessesPass s .lgLoad n (lanes.map va) → lanesFree s [rd] lanes →
         exec (.lgLd z d a b) s =
           done (issueOp (setCur s (pendRegs (cur s) lanes [rd])) (.load n (sizeSigned z)) rd
             (accessesOf s lanes va n (fun _ => 0) fun _ => 0) true)) ∧
       (lanesHold s [ra, rd] lanes → accessesPass s .lgStore n (lanes.map va) → noFenceHolds s →
         exec (.lgSt z d a b) s =
           done (issueOp s .store 0
             (accessesOf s lanes va n (fun l => (laneVal (cur s) rd l).toNat % 2 ^ (8 * n)) fun _ => 0) true)) ∧
       ((curStrand s).root = true → (cur s).ops = [] →
         (∀ r ∈ workgroupRoots s, r ≠ s.focus → atBarrier s r = true) →
           exec .lgBar s = .next (passBarrier s (s.focus :: (workgroupRoots s).filter fun r => r != s.focus))))

/-! ## Strands (08), transfers (17), rings and bands (20), matrices (19) -/

/-- 08 R179, R180, 21 R414: fork, with any join sets that lie in the allotment and that nothing is filling, leaves them
empty in their arms' lanes. Where the free slots suffice and no handler runs, the arms that have lanes stand in the
lowest free slots at their clauses with their lanes, and the strand goes to its continuation; with too few, or in a
handler, the strand itself takes the first arm that has lanes, in the lowest free serial record, and with no free record
it traps 0x0C. 08 R182: join takes V[a] in the lanes of K[k] and V[b] in the others, once the lanes it picks are full;
before that it waits, or with X set traps 0x05. R183: ends fills what is empty of its join set with 0; an arm with a slot
of its own frees it, a serial arm goes on to arm B where that has lanes and else to the continuation, and in a root
strand it is exit. R184: armwait goes on when the strand has no live descendant and waits else. R185: smask puts the
strand's mask into K[k]. R186, 17 R342: exit of the last strand of its root outside a serial arm, with its accesses,
copies and drains done and no unreported error under CPYTRAP: a system core stops running; a warp's slot is freed, and
with its last strand the warp, and with its last warp the workgroup; that exit stops a system core is the model's reading (log
entry 58). With another strand of the root live, or in a serial
arm, it traps 0x0F, and with an unreported error under CPYTRAP 0x18. -/
def Obligations.StrandsForkWaitAndExit : Prop :=
  (∀ (s : State) (k : BitVec 3) (oa oc : BitVec 11) (av bv : BitVec 1) (ab bb : BitVec 6) (al bl : BitVec 3)
     (ja jb : Option (Nat × Nat)),
     (av = 0 → ab = 0 ∧ al = 0) → (bv = 0 → bb = 0 ∧ bl = 0) → joinSet s av ab al = .ok ja → joinSet s bv bb bl = .ok jb →
       unrecorded s → (curStrand s).valid = true → s.focus.slot < 8 →
         let t := (curStrand s).mask &&& getK (cur s) k.toNat
         let f := (curStrand s).mask &&& ~~~ getK (cur s) k.toNat
         lanesFree s (joinRegs ja) (lanesOf t) → lanesFree s (joinRegs jb) (lanesOf f) →
           let armA := (curStrand s).ca + 4 * oa.signExtend 64
           let armB := nextClause s
           let cont := (curStrand s).ca + 4 * oc.signExtend 64
           let i := .fork k oa oc av ab al bv bb bl
           let arms := (if t = 0 then [] else [armStrand (curStrand s) s.focus.slot t armA ja]) ++
             (if f = 0 then [] else [armStrand (curStrand s) s.focus.slot f armB jb])
           let record := (List.range 8).find? fun j => decide ((getSerial (cur s) j).stage = 0)
           let serial := arms ≠ [] ∧ ((openSlots (cur s)).length < arms.length ∨ isInTrap (cur s) = true)
           let pended := fun (u : State) => sameMemory s u ∧
             (∀ l ∈ lanesOf t, ∀ r ∈ joinRegs ja, (getV (cur u) r l).fill = .empty) ∧
             ∀ l ∈ lanesOf f, ∀ r ∈ joinRegs jb, (getV (cur u) r l).fill = .empty
           (¬ serial → ∃ u, exec i s = .next u ∧ (curStrand u).ca = cont ∧ (curStrand u).mask = (curStrand s).mask ∧
             (∀ e ∈ (openSlots (cur s)).zip arms, getStrand (cur u) e.1 = e.2) ∧ pended u) ∧
           (serial → ∀ n, record = some n →
             ∃ u, exec i s = .next u ∧ (curStrand u).ca = (if t = 0 then armB else armA) ∧
               (curStrand u).mask = (if t = 0 then f else t) ∧ (curStrand u).ser = true ∧
               (getSerial (cur u) n).outer = (curStrand s).mask ∧ (getSerial (cur u) n).bmask = f ∧
               (getSerial (cur u) n).stage = (if t = 0 then 2 else 1) ∧ (getSerial (cur u) n).cca = cont ∧ pended u) ∧
           (serial → record = none → exec i s = traps s 0x0C 0 0)) ∧
  (∀ (s : State) (k : BitVec 3) (d a b : BitVec 6) (e : BitVec 1) (rd ra rb : Nat),
     (namesDab s d a b rd ra rb →
       let lanes := lanesOf (curStrand s).mask
       let pick := fun l => if (getK (cur s) k.toNat).getLsbD l then ra else rb
       ((∀ l ∈ lanes, (getV (cur s) (pick l) l).fill = .full ∧ (getV (cur s) (pick l) l).poison = false) →
         lanesFree s [rd] lanes →
           ∃ u, exec (.join k d a b e) s = .next u ∧ sameMemory s u ∧
             (∀ l ∈ lanes, getV (cur u) rd l = { val := laneVal (cur s) (pick l) l }) ∧
             ∀ q l, l < 64 → (q ≠ rd ∨ l ∉ lanes) → getV (cur u) q l = getV (cur s) q l) ∧
       ((∃ l ∈ lanes, (getV (cur s) (pick l) l).fill ≠ .full) →
         (e = 0 → exec (.join k d a b e) s = waits s .join) ∧ (e = 1 → exec (.join k d a b e) s = traps s 0x05 0 0))) ∧
     (descendants s = [] → ∃ u, exec .armwait s = .next u ∧ sameMemory s u ∧
       (curStrand u).wait = .ready ∧ (curStrand u).valid = (curStrand s).valid) ∧
     (descendants s ≠ [] → exec .armwait s = waits s .armwait) ∧
     (∃ u, exec (.smask k) s = .next u ∧ frameK s u k.toNat ∧
       getK (cur u) k.toNat = (curStrand s).mask &&& widthMask (cur s)) ∧
     (let zeroed := fun (u : State) (regs : List Nat) => sameMemory s u ∧
        ∀ l ∈ lanesOf (armLanes s), ∀ r ∈ regs,
          getV (cur u) r l = if (getV (cur s) r l).fill = .empty then {} else getV (cur s) r l
      (isSystem s.focus.key = false → (curStrand s).ser = false → (curStrand s).root = false →
        ∃ u, exec .ends s = .next u ∧ getStrand (cur u) s.focus.slot = {} ∧
          zeroed u (setRegs (curStrand s).jv (curStrand s).jbase (curStrand s).jlen)) ∧
      ((curStrand s).ser = true →
        let r := getSerial (cur s) (curStrand s).sidx.toNat
        ∃ u, exec .ends s = .next u ∧
          (if r.stage = 1 ∧ r.bmask ≠ 0 then
             (curStrand u).ca = r.bca ∧ (curStrand u).mask = r.bmask ∧
               (getSerial (cur u) (curStrand s).sidx.toNat).stage = 2
           else
             (curStrand u).ca = r.cca ∧ (curStrand u).mask = r.outer ∧ (curStrand u).ser = r.pv ∧
               (curStrand u).sidx = r.pidx) ∧
          zeroed u (if r.stage = 1 then setRegs r.ajv r.ajbase r.ajlen else setRegs r.bjv r.bjbase r.bjlen)) ∧
      ((curStrand s).root = true ∨ isSystem s.focus.key = true → (curStrand s).ser = false →
        exec .ends s = exec .exit s))) ∧
  (∀ s : State,
     let others := (liveSlots (cur s)).filter fun i => i != s.focus.slot && sameRoot (cur s) (curStrand s) (getStrand (cur s) i)
     let alone := ∀ i, i < 8 → i ≠ s.focus.slot → (getStrand (cur s) i).valid = false
     ((curStrand s).ser = false → others = [] → storesDone (cur s) = true →
       (isSystem s.focus.key = true ∨ transfersDone s s.focus.key = true) →
         ((isCpyTrap (cur s) = false ∨ unreported (cur s) = false) →
           (isSystem s.focus.key = true → ∃ u, exec .exit s = .next u ∧ getStrand (cur u) s.focus.slot = {} ∧
             (getSc (getDie u (keyDie s.focus.key)) ((s.focus.key - systemBase) % 2)).running = false) ∧
           (isSystem s.focus.key = false → ¬ alone → ∃ u, exec .exit s = .next u ∧
             getStrand (cur u) s.focus.slot = {} ∧ (cur u).live = (cur s).live ∧ sameMemory s u) ∧
           (isSystem s.focus.key = false → alone → s.focus.slot < 8 →
             exec .exit s = .next (retireWarp (freeSlot s)))) ∧
         (isCpyTrap (cur s) = true → unreported (cur s) = true → exec .exit s = traps s 0x18 0 0)) ∧
     (others ≠ [] ∨ (curStrand s).ser = true → exec .exit s = traps s 0x0F 0 0)) ∧
  (∀ s : State,
     let w := getWg s (cur s).wg
     let u := retireWarp s
     (w.live = false ∨ (∃ j ∈ w.warps, j ≠ s.focus.key ∧ (getCtx s j).live = true) →
       (cur u).live = false ∧ (cur u).strands = [] ∧ sameMemory s u) ∧
     (w.live = true → (∀ j ∈ w.warps, j ≠ s.focus.key → (getCtx s j).live = false) →
       ∃ v, u = retireWorkgroup v (cur s).wg ∧ (cur v).live = false ∧ sameMemory s v))

/-- 17 R326 to R330, R335: a copy whose record at S[b] is legal under its flags, whose ranges pass the checks and do
not meet, and which finds room in its core's lock table issues: the core's engine holds it, with one part of work
for each destination part, and the strand goes on past its two words, to the next word of the clause or to the next clause.
Without supervisor mode the interleave
override traps 0x07. 17 R334: a multicast under the same conditions, with a group-store destination, some target,
and room on every core that holds one, issues with one delivery for each bit of its targets. With no target it traps
0x01, whatever its guard reads (04 R106, R108). 17 R339, R340: c.close gathers every open copy, multicast, drain and band record of the warp that is in no batch yet, and no
other operation, into the batch of the next number, which it writes to S[d], and which is complete where there was none; c.wait of a batch among the 32 most recent goes on once it and those before it are complete, with their
errors in S[d], and of any other number with BADN. -/
def Obligations.TransfersIssue : Prop :=
  (∀ (s t : State) (g : BitVec 3) (d a b : BitVec 6) (iv vf sp : BitVec 1) (tc : BitVec 2) (dst src rec : Word) (r : Record),
     guardP s g = true → holdsS s d dst → holdsS s a src → holdsS s b rec → fetchRecord s rec = .ok (r, t) →
       flagsLegal r (sp == 1) (vf == 1) = true → checkCopy t r src.toNat dst.toNat (sp == 1) (vf == 1) = .ok () →
         let q := requester t t.focus.key
         let from_ := spanAt t t.focus.key src.toNat
         let onto := spanAt t t.focus.key dst.toNat
         let hs := hullOf from_ q.asid (hullLength r.rows r.spitch (sourceBytes r (sp == 1))) false
         let hd := hullOf onto q.asid (hullLength r.rows r.dpitch r.rb) true
         let parts := partStarts t q (rowPieces dst.toNat r.dpitch r.rb r.rows)
         hullsShare hs hd = false → (curCore t).locks.length < 64 → locksClash (curCore t) [hs, hd] = false →
           (iv = 0 ∨ isPriv (cur s) = true →
             ∃ u o, exec (.cCopy g d a b iv vf sp tc) s = .next u ∧ (curCore u).engine = (curCore t).engine ++ [o] ∧
               o.kind = .copy r from_ onto (sp == 1) (vf == 1) (iv == 1) tc ∧ o.left = List.range parts.length ∧
               o.ctx = s.focus.key ∧ sameMemory s u ∧ ((curStrand t).inRep = false → pastTwo t u)) ∧
           (iv = 1 → isPriv (cur s) = false → exec (.cCopy g d a b iv vf sp tc) s = traps s 0x07 0 0)) ∧
  (∀ (s t : State) (g : BitVec 3) (d a b : BitVec 6) (ts : BitVec 16) (vf sp : BitVec 1) (tc : BitVec 2)
     (dst src rec : Word) (r : Record),
     guardP s g = true → holdsS s d dst → holdsS s a src → holdsS s b rec → fetchRecord s rec = .ok (r, t) →
       regionOf dst.toNat = .group → flagsLegal r (sp == 1) (vf == 1) = true →
         checkCopy t r src.toNat dst.toNat (sp == 1) (vf == 1) = .ok () →
         let core := keyCore t.focus.key
         let q := requester t t.focus.key
         let from_ := spanAt t t.focus.key src.toNat
         let off := dst.toNat - groupBase
         let len := hullLength r.rows r.dpitch r.rb
         let hs := hullOf from_ q.asid (hullLength r.rows r.spitch (sourceBytes r (sp == 1))) false
         let cores := targetCores t (cur t).wg (core / 32) off len ts
         hullsShare hs (hullOf (spanAt t t.focus.key dst.toNat) q.asid len true) = false →
           (curCore t).locks.length < 63 → (∀ c ∈ cores, (getCore t c).locks.length < 63) →
             locksClash (curCore t) (hs :: targetHulls t (cur t).wg core off len ts) = false →
               (ts ≠ 0 → ∃ u o, exec (.cMcast g d a b ts vf sp tc) s = .next u ∧
                 (curCore u).engine = (curCore t).engine ++ [o] ∧ o.kind = .mcast r from_ off (sp == 1) (vf == 1) tc ∧
                 o.left = (List.range 16).filter (fun j => ts.getLsbD j) ∧ sameMemory s u ∧
                 ((curStrand t).inRep = false → pastTwo t u))) ∧
  (∀ (s : State) (g : BitVec 3) (d a b : BitVec 6) (vf sp : BitVec 1) (tc : BitVec 2),
     exec (.cMcast g d a b 0 vf sp tc) s = traps s 0x01 0 0) ∧
  (∀ (s : State) (g : BitVec 3) (d a : BitVec 6) (x : Word), guardP s g = true → writableS s d →
     (((cur s).batches.filter fun b => !b.complete).length < 32 →
       let n := nextBatch (cur s).batchNumber
       let mine := fun (o : EngineOp) => o.wg = (cur s).wg ∧ o.warp = (cur s).warpid.toNat ∧ inBatches o.kind = true ∧
         o.closed = false
       ∃ u, exec (.cClose g d) s = .next u ∧ (cur u).batchNumber = n ∧
         (∀ c, (getCore u c).engine.length = (getCore s c).engine.length) ∧
         (∀ c (i : Nat) o, (getCore s c).engine[i]? = some o →
           (mine o → (getCore u c).engine[i]? = some { o with closed := true, batch := n }) ∧
           (¬ mine o → (getCore u c).engine[i]? = some o)) ∧
         (∃ b, (cur u).batches.getLast? = some b ∧ b.number = n ∧ b.errors = (cur s).pendErrors ∧
           (b.complete = true ↔ ∀ c ∈ s.cores, ∀ o ∈ c.2.engine, ¬ mine o)) ∧
         (d ≠ 0 → getS (cur u) d.toNat = { val := (nextBatch (cur s).batchNumber).zeroExtend 64 }) ∧
         ∀ n, d.toNat ≠ n → getS (cur u) n = getS (cur s) n) ∧
     (holdsS s a x → unrecorded s → isCpyTrap (cur s) = false →
       let n := BitVec.ofNat 16 x.toNat
       (batchesUpTo (cur s).batches n = none → ∃ u, exec (.cWait g d a) s = .next u ∧
         (d ≠ 0 → getS (cur u) d.toNat = { val := 0x1000000 })) ∧
       (∀ bs, batchesUpTo (cur s).batches n = some bs → (∀ b ∈ bs, b.complete = true) →
         ∃ u, exec (.cWait g d a) s = .next u ∧
           (d ≠ 0 → getS (cur u) d.toNat = { val := batchStatus bs })) ∧
       (∀ bs, batchesUpTo (cur s).batches n = some bs → (∃ b ∈ bs, b.complete = false) →
         exec (.cWait g d a) s = waits s .batch)))

/-- 20 R399 to R401: r.post of a ring that the warp owns, with the strand's accesses performed, adds 1 to its phase;
r.wait goes on once the phase has passed its token by 1 to 32,767, with p7 saying whether more posts than the ring's
depth lie after the token; one that waits keeps its token, whatever its guard and S[a] are when it issues again. A ring
that the warp does not own traps 0x16. 20 R403: on a warp, t.band open begins the
band of the next number, with nothing counted or stamped, and close ends the open one; with BANDBASE 0 no record is written:
no engine holds one, none is due and memory is as before. 20 R406: with BANDBASE not 0, a close whose record's 64 bytes pass
the checks of a write (the spill window among them) has the core's engine hold the record, which is due, and the band as it
was closed; where a copy has locked them it traps 0x0D. A system core has no band and traps 0x16. -/
def Obligations.RingsAndBands : Prop :=
  (∀ (s : State) (g q : BitVec 3) (a : BitVec 6) (n : BitVec 10) (x : Word) (r : Ring), guardP s g = true →
     (ringOf s q.toNat = none → exec (.rPost g q) s = traps s 0x16 0 0 ∧ exec (.rWait g q a n) s = traps s 0x16 0 0) ∧
     (ringOf s q.toNat = some r →
       ((cur s).ops = [] → exec (.rPost g q) s = done (postRing s (cur s).wg q.toNat)) ∧
       (holdsS s a x → unrecorded s → (curStrand s).rwait = none →
         let t := BitVec.ofNat 16 (x + n.signExtend 64).toNat
         let gap := (r.phase - t).toNat
         (1 ≤ gap → gap ≤ 32767 → exec (.rWait g q a n) s =
           doneP (setStrand s { curStrand s with rwait := none }) 7 (decide (r.depth.toNat < gap))) ∧
         ((gap = 0 ∨ 32767 < gap) → exec (.rWait g q a n) s =
           waits (setStrand s { curStrand s with rwait := some t }) .ring)))) ∧
  (∀ (s : State) (g q : BitVec 3) (a : BitVec 6) (n : BitVec 10) (r : Ring) (t : BitVec 16),
     (curStrand s).rwait = some t → ringOf s q.toNat = some r → unrecorded s →
       let gap := (r.phase - t).toNat
       (1 ≤ gap → gap ≤ 32767 → exec (.rWait g q a n) s =
         doneP (setStrand s { curStrand s with rwait := none }) 7 (decide (r.depth.toNat < gap))) ∧
       ((gap = 0 ∨ 32767 < gap) → exec (.rWait g q a n) s =
         waits (setStrand s { curStrand s with rwait := some t }) .ring)) ∧
  (∀ (s : State) (g : BitVec 3), guardP s g = true →
     (isSystem s.focus.key = false → (cur s).bandbase = 0 →
       let w := getWg s (cur s).wg
       (∃ u, exec (.tBandOpen g) s = .next u ∧ (getWg u (cur s).wg).band =
         { isOpen := true, seq := w.band.seq + 1, number := nextBand w.band.number, opened := s.time }) ∧
       (∃ u, exec (.tBandClose g) s = .next u ∧ (getWg u (cur s).wg).band.isOpen = false ∧
         u.cores = s.cores ∧ u.due = s.due ∧ sameMemory s u ∧
         (w.band.isOpen = true → (getWg u (cur s).wg).band.closed = s.time) ∧
         (w.band.isOpen = false → u = retire s 1))) ∧
     (isSystem s.focus.key = false → (cur s).bandbase ≠ 0 → (wgOf s s.focus.key).band.isOpen = true →
       let w := wgOf s s.focus.key
       let addr := bandAddress (cur s).bandbase w.band.number.toNat
       let q := requester s s.focus.key
       let closed := { w.band with isOpen := false, closed := s.time }
       (regionOf addr = .spill ∨ engineChecked s q true [(addr, 64)] = .ok ()) →
         (failsLock s q .store addr 64 = true → exec (.tBandClose g) s = traps s 0x0D (BitVec.ofNat 64 addr) 0) ∧
         (failsLock s q .store addr 64 = false →
           ∃ u o, exec (.tBandClose g) s = .next u ∧ (getWg u (cur s).wg).band = closed ∧
             mapGet {} (getWg u (cur s).wg).oldBands closed.seq = closed ∧ (curCore u).engine = (curCore s).engine ++ [o] ∧
             o.kind = .band (spanAt s s.focus.key addr) closed.seq ∧ o.ctx = s.focus.key ∧
             u.due = s.due ++ [.event .bandRecordWrite { place := keyCore s.focus.key, id := o.id }] ∧ sameMemory s u)) ∧
     (isSystem s.focus.key = true → exec (.tBandOpen g) s = traps s 0x16 0 0 ∧ exec (.tBandClose g) s = traps s 0x16 0 0))

/-- 19 R370 to R373: shp.set writes register h with the grant of its three requests on the die, or 0 where one of
them is 0; shp.get reads the register, or a field of its grant; a revoked grant traps 0x0E and an absent one 0x01.
19 R377, R378, R380, R384: mx.map of a legal group-store record leaves the map of its columns and rows;
mx.lease.bind binds a quarter of B to the warp's registers; mx.lease.acq goes on when the workgroup holds the lease
after asking for it, as it does where the lease is free with no waiter, with the count of MXLEASE, and where it holds the
lease already with operations left or no waiter and has not given it up, with the count unchanged; mx.lease.rel goes on, and
gives the lease up where the workgroup holds it: with no waiter it becomes free, but not while a strand of the workgroup is
inside a clause begun under LEASE (04 R86), which keeps it with the workgroup until then (log entry 74). -/
def Obligations.ShapesMapsAndLeases : Prop :=
  (∀ (s : State) (g h : BitVec 3) (d a b sel : BitVec 6) (qm qn qk : Word), guardP s g = true →
     (holdsS s d qm → holdsS s a qn → holdsS s b qk → 2 ≤ qk.toNat / 2 ^ 60 → qk.toNat / 2 ^ 60 ≤ 8 →
       ∃ u, exec (.shpSet g h d a b) s = .next u ∧ sameMemory s u ∧
         mapGet 0 (cur u).shapes h.toNat =
           grantWord (keyDie s.focus.key) qm.toNat qn.toNat (qk.toNat % 2 ^ 60) (qk.toNat / 2 ^ 60)) ∧
     (writableS s d →
       let w : Word := mapGet 0 (cur s).shapes h.toNat
       exec (.shpGet g h d 0) s = doneS s d w ∧
       (bitAt w 62 = false → bitAt w 63 = true → 1 ≤ sel.toNat → sel.toNat ≤ 6 →
         exec (.shpGet g h d sel) s = doneS s d (BitVec.ofNat 64 (shapeField (shapeOf w) sel.toNat))) ∧
       (bitAt w 62 = true → 1 ≤ sel.toNat → sel.toNat ≤ 6 → exec (.shpGet g h d sel) s = traps s 0x0E 0 0) ∧
       (bitAt w 62 = false → bitAt w 63 = false → 1 ≤ sel.toNat → sel.toNat ≤ 6 →
         exec (.shpGet g h d sel) s = traps s 0x01 0 0))) ∧
  (∀ (s : State) (m : BitVec 4) (r k w a b : BitVec 6) (q : BitVec 2),
     (∀ at_ k0 w0 x t, m.toNat < 2 * acctOf s → holdsS s r at_ → holdsS s k k0 → holdsS s w w0 →
       fetchRecord s at_ = .ok (x, t) → matrixRecord x = true → inWindow x.base = true →
         (isSe x.fmt = true → inWindow x.scale = true) → k0.toNat % 16 = 0 →
           k0.toNat * elementBits x.fmt / 8 < x.rb → w0.toNat < x.rows →
             ∃ u, exec (.mxMap m r k w) s = .next u ∧
               mapGet {} (getWg u (cur s).wg).maps m.toNat = mapOf x k0.toNat w0.toNat) ∧
     (∀ rb rs, namesV s a 0 rb → namesV s b 0 rs →
       ∃ u, exec (.mxLeaseBind q a b) s = .next u ∧ mapGet {} (getWg u (cur s).wg).binds q.toNat =
         { valid := true, warp := (cur s).warpid.toNat, base := BitVec.ofNat 8 rb, scale := BitVec.ofNat 8 rs }) ∧
     (holdsLease (askLease s) = true → exec .mxLeaseAcq s = done (askLease s)) ∧
     (holdsLease (askLease s) = false → exec .mxLeaseAcq s = waits (askLease s) .lease) ∧
     ((curCore s).leaseHolder = none → (curCore s).leaseWaiters = [] →
       ∃ u, exec .mxLeaseAcq s = .next u ∧ (curCore u).leaseHolder = some (cur s).wg ∧
         (curCore u).leaseCount = (cur s).mxlease.toNat ∧ sameMemory s u) ∧
     ((curCore s).leaseHolder = some (cur s).wg → ((curCore s).leaseCount ≠ 0 ∨ (curCore s).leaseWaiters = []) →
       (curCore s).leaseGiven = false →
       ∃ u, exec .mxLeaseAcq s = .next u ∧ (curCore u).leaseHolder = some (cur s).wg ∧
         (curCore u).leaseCount = (curCore s).leaseCount ∧ sameMemory s u) ∧
     (holdsLease s = false → exec .mxLeaseRel s = done s) ∧
     (holdsLease s = true →
       let u := retire s 1
       let v := dropStale u (keyCore s.focus.key)
       let given := putCore v (keyCore s.focus.key) { curCore v with leaseGiven := true }
       exec .mxLeaseRel s = .next (releaseLease u) ∧
         (inLeaseClause given (cur s).wg = true → (curCore (releaseLease u)).leaseHolder = some (cur s).wg) ∧
         (inLeaseClause given (cur s).wg = false → (curCore v).leaseWaiters = [] →
           (curCore (releaseLease u)).leaseHolder = none)))

/-- 19 R376, R383, R385, R388: with a grant in the shape register, a tile of the workgroup, the lease held after asking
for it and room in the lock table, mx.acc.zero, mx.acc.load and mx.acc.get issue: the core's engine holds the operation
on that tile, over the rows of the active lanes. In each of the six forms a tile beyond the workgroup's traps 0x04. Without the lease each form
waits for it, before any check of its operands. The lock entry of mx.acc.load without a hull is the model's reading (log
entry 51). 19 R385 to R387, R389: under the same conditions mx.mma, mx.mv and mx.drain issue when their formats agree and
their operands pass the checks: mx.mma takes A from a map and B from the four quarters' holders, mx.mv takes weights from
the record at S[r], and mx.drain writes the tile to S[d] as its record says. A drain that posts to no ring and has a ring
in its q field traps 0x01 (04 R92), and so does mx.mma of format 7 or of a scale select that its format does not have. -/
def Obligations.MatrixFormsIssue : Prop :=
  (∀ (s : State) (g h c : BitVec 3) (m : BitVec 4) (d : BitVec 6) (rd : Nat), namesV s d 0 rd →
     let t := askLease s
     let issued := fun (i : Instr) (op : MatOp) => ∃ u o, exec i s = .next u ∧ (curCore u).engine = (curCore t).engine ++ [o] ∧
       o.kind = .matrix op ∧ o.ctx = s.focus.key ∧ sameMemory s u
     (holdsLease t = false → exec (.mxAccZero g h c) s = waits t .lease ∧ exec (.mxAccLoad g h c m) s = waits t .lease ∧
       exec (.mxAccGet g h c d) s = waits t .lease) ∧
     (∀ y, namedShape t h = .ok y → holdsLease t = true →
       (acctOf t ≤ c.toNat → exec (.mxAccZero g h c) s = traps t 0x04 0 0 ∧ exec (.mxAccLoad g h c m) s = traps t 0x04 0 0 ∧
         exec (.mxAccGet g h c d) s = traps t 0x04 0 0) ∧
       (c.toNat < acctOf t → (curCore t).locks.length < 64 →
         issued (.mxAccZero g h c) (.accZero c.toNat (activeMask t g) y.am y.an) ∧
         (∀ x, namedMap t m.toNat = .ok x → x.fmt = 1 → checkMap t x y.am y.an = .ok () →
           issued (.mxAccLoad g h c m)
             (.accLoad c.toNat x (spanAt t t.focus.key x.elements) (activeMask t g) y.am y.an)) ∧
         (rd + (y.gm + laneCount (cur t) - 1) / laneCount (cur t) * (y.gn / 2) ≤ (cur t).allot →
           tileQuiet t c.toNat = true →
             tilePoisoned t (cur t).wg c.toNat (updatedRows (activeMask t g) (laneCount (cur t)) y.am) y.an = false →
               (∀ e ∈ resultCells rd (laneCount (cur t)) y.gn y.an (updatedRows (activeMask t g) (laneCount (cur t)) y.am),
                 (getV (cur t) e.1 e.2).fill ≠ .pending ∧ heldRegister t t.focus.key e.1 = false) →
                   issued (.mxAccGet g h c d) (.accGet c.toNat rd (activeMask t g) y.gn y.am y.an))))) ∧
  (∀ (s : State) (g n h c f : BitVec 3) (m : BitVec 4) (ss : BitVec 2) (b d r o : BitVec 6) (z a p : BitVec 1) (q : BitVec 3),
     let v := askLease s
     let issued := fun (i : Instr) (t : State) (op : MatOp) => ∃ u e, exec i s = .next u ∧
       (curCore u).engine = (curCore t).engine ++ [e] ∧ e.kind = .matrix op ∧ e.ctx = s.focus.key ∧ sameMemory s u
     let free := fun (t : State) (hs : List Hull) => (curCore t).locks.length < 64 ∧ locksClash (curCore t) hs = false
     let codes := f ≠ 7 ∧ if isSe (mmaFormat f) then mmaFormat f = 4 → ss ≠ 3 else ss = 0
     (¬ codes → exec (.mxMma g h c m f ss b z) s = traps s 0x01 0 0) ∧
     (p = 0 → q ≠ 0 → exec (.mxDrain h c d r a p q) s = traps s 0x01 0 0) ∧
     (holdsLease v = false →
       (codes → exec (.mxMma g h c m f ss b z) s = waits v .lease) ∧ exec (.mxMv n h c m r o) s = waits v .lease ∧
       (p = 1 ∨ q = 0 → exec (.mxDrain h c d r a p q) s = waits v .lease)) ∧
     (∀ y, namedShape v h = .ok y → holdsLease v = true → acctOf v ≤ c.toNat →
       ((curStrand v).overD = 0 → codes → y.fmt = mmaFormat f → exec (.mxMma g h c m f ss b z) s = traps v 0x04 0 0) ∧
       (∀ rec x t dst, (p = 1 ∨ q = 0) → holdsS v r rec → holdsS v d dst → fetchRecord v rec = .ok (x, t) →
         copyLegal x = true → x.fmt ≤ 3 → y.gm ≤ x.rows → y.gn * drainWidth x.fmt ≤ x.rb →
           (x.fmt = 0 → a = 0 ∨ y.fmt = 7 ∨ y.fmt = 8) → exec (.mxDrain h c d r a p q) s = traps v 0x04 0 0) ∧
       (∀ rec off x t, holdsS v r rec → holdsS v o off → fetchRecord v rec = .ok (x, t) → matrixRecord x = true →
         isSe x.fmt = true → x.fmt = y.fmt → x.swz = 0 → bf off 31 0 % 16 = 0 →
           exec (.mxMv n h c m r o) s = traps v 0x04 0 0)) ∧
     (∀ y, namedShape v h = .ok y → holdsLease v = true → c.toNat < acctOf v →
       (∀ x qs, (curStrand v).overD = 0 → (curStrand v).overA = 0 → (curStrand v).overB = 0 → codes → y.fmt = mmaFormat f →
         namedMap v m.toNat = .ok x → x.fmt = y.fmt → quartersOf v = some qs →
           checkPartners v y.fmt ss.toNat b.toNat y.gn y.gk qs = .ok () → checkMap v x y.am y.ak = .ok () →
             free v (mapHulls v x y.gm y.gk) →
               issued (.mxMma g h c m f ss b z) v
                 (.mma c.toNat x y.fmt ss.toNat (z == 1) (activeMask v g) y.gn y.gk y.am y.an y.ak
                   (qs.map fun e => (e.1, e.2.1 + b.toNat, e.2.2)))) ∧
       (∀ rec x t dst, (p = 1 ∨ q = 0) → holdsS v r rec → holdsS v d dst → fetchRecord v rec = .ok (x, t) →
         copyLegal x = true → x.fmt ≤ 3 → y.gm ≤ x.rows → y.gn * drainWidth x.fmt ≤ x.rb →
           (x.fmt = 0 → a = 0 ∨ y.fmt = 7 ∨ y.fmt = 8) → (p = 1 → (ringOf v q.toNat).isSome = true) →
             let rows := (List.range y.am).flatMap fun i =>
               swizzledRow (dst.toNat + i * x.dpitch) (y.an * drainWidth x.fmt) (i % 2 ^ x.swz * 16)
             (a = 1 → checkRange t false rows = .ok ()) → checkRange t true rows = .ok () →
               tileQuiet t c.toNat = true → tilePoisoned t (cur t).wg c.toNat (List.range y.am) y.an = false →
                 free t [hullOf (spanAt t t.focus.key dst.toNat) (cur t).asid (hullLength x.rows x.dpitch x.rb) true] →
                   issued (.mxDrain h c d r a p q) t (.drain c.toNat x (spanAt t t.focus.key dst.toNat) (a == 1) (p == 1)
                     q.toNat y.am y.an y.fmt)) ∧
       (∀ rec off x t map, holdsS v r rec → holdsS v o off → fetchRecord v rec = .ok (x, t) →
         matrixRecord x = true → isSe x.fmt = true → x.fmt = y.fmt → x.swz = 0 → bf off 31 0 % 16 = 0 →
           namedMap v m.toNat = .ok map → (map.fmt = 2 ∨ map.fmt = 3) →
             let w0 := x.base + bf off 63 32 * x.spitch + bf off 31 0 * elementBits x.fmt / 8
             let g0 := x.scale + bf off 63 32 * x.dpitch + 2 * (bf off 31 0 / 16)
             checkMap t map (n.toNat + 1) y.ak = .ok () →
               checkRange t false (rowPieces w0 x.spitch (elementBytes x.fmt y.ak) y.an) = .ok () →
                 checkRange t false (rowPieces g0 x.dpitch (2 * kBlocks y.ak) y.an) = .ok () →
                   free t ((mapHulls t map (n.toNat + 1) y.gk).take 1 ++
                     [hullOf (spanAt t t.focus.key w0) (cur t).asid
                        (hullLength y.gn x.spitch (y.gk * elementBits x.fmt / 8)) false,
                      hullOf (spanAt t t.focus.key g0) (cur t).asid (hullLength y.gn x.dpitch (2 * (y.gk / 16))) false]) →
                     issued (.mxMv n h c m r o) t
                       (.mv c.toNat map (n.toNat + 1) x (spanAt t t.focus.key w0) (spanAt t t.focus.key g0) x.fmt y.an
                         y.ak))))

/-! ## Steps of the table: issuing, waiting, performing (02, 04, 07 to 09, 12, 13, 16, 17, 19) -/

/-- 04 R85, R100, 09 R197 to R200, R205 to R207: a strand at a legal header that can be fetched begins its clause at word
1, once its window is resident, its window's registers are full under FULL, no copy of its warp is open under QUIET, and
its workgroup holds the lease under LEASE; a system core begins it at once. A strand with repeats left issues the next. A
window of which no pass is resident is loaded, pass by pass, into slots that it can take, and is then resident. A strand that has waited in its clause
for 64 cycles gives its pin back, and not before. A quad's cycle counts, and the strand that it chooses issues next, its
header and rep word with it, and after it the second that it can issue. 06 R135: an instruction that has both passes of a
64-lane warp to issue has a second pass from the cycle that chooses it on, which takes the strand's next issue by itself; that
both passes' effects come with the first issue is the model's choice (log entry 116). After 256 cycles the oldest
warp becomes the youngest. That a clause under LEASE asks for the lease, taking one that is free (19 R383), is the model's
reading beside 04 R85 (log entry 56), and that it asks when the other conditions of the clause hold is its choice (log entry
79). -/
def Obligations.ClausesBeginAndQuadsIssue : Prop :=
  ∀ s : State,
    let a := s.input.who
    let t := { s with focus := a }
    (issuable s a = true →
      ((curStrand t).inRep = true → exec .repRepeat s = .next { s with agenda := .issue a :: s.agenda }) ∧
      (∀ p, passDue (curStrand t) = some p → issueNext t = .done (issueSecond t p) ∧ (cur (issueSecond t p)).lastSlot = a.slot ∧
        curStrand (issueSecond t p) = { curStrand t with secondPass := none, readyCount := 0 } ∧
        sameMemory s (issueSecond t p)) ∧
      (∀ w, (curStrand t).begun = false → codeHeld t a.key (curStrand t).ca = false →
        fetchCode t a.key (curStrand t).ca = .ok w → isHeader w = true →
          headerChecks (cur t) (isSystem a.key) (decodeHeader w) = .ok () →
            let h := decodeHeader w
            let v := setStrand t { curStrand t with hdr := h }
            let begun := fun (v : State) => pinWindow (setStrand v { curStrand v with begun := true, wi := 1, wait := .ready })
            let open_ := (h.full = true → windowFull (cur v) (curStrand v) h = true) ∧ (h.quiet = true → warpQuiet v = true)
            (isSystem a.key = true → exec .clauseBegin s = .next (begun v)) ∧
            (isSystem a.key = false → windowResident v = true →
              (¬ open_ → exec .clauseBegin s = .next (hold v .clause)) ∧
              (open_ → h.lease = false → exec .clauseBegin s = .next (begun v)) ∧
              (open_ → h.lease = true → holdsLease (askLease v) = true →
                exec .clauseBegin s = .next (begun (askLease v)))))) ∧
    (∀ h, isSystem a.key = false → (getStrand (getCtx s a.key) a.slot).valid = true → standingHeader s a = some h →
      (slotForLoad s a.key []).isSome = true →
        (isWide (getCtx s a.key) = true → passResident s a.key h false = false ∧
          (let r := loadPass a.key h (s, []) false
           (slotForLoad r.1 a.key r.2).isSome = true)) →
          ∃ u, exec .windowLoad s = .next u ∧ residentWindow u a.key h = true ∧ sameMemory s u) ∧
    (let x := getStrand (getCtx s a.key) a.slot
     x.valid = true → x.begun = true → x.pinned = true →
       (∃ n, x.wait = .held .fullEmpty n ∨ x.wait = .held .join n ∨ x.wait = .held .armwait n ∨ x.wait = .held .ring n) →
         (64 ≤ x.waitCount → ∃ u, exec .pinGiveback s = .next u ∧
           getStrand (getCtx u a.key) a.slot = { x with pinned := false, pinBack := true }) ∧
         (x.waitCount < 64 → exec .pinGiveback s = .next s)) ∧
    (let core := s.input.place
     let quad := s.input.sub % 4
     let q := getQuad (getCore s core) quad
     let acts := issueActs s
     (∃ u, exec .quadIssueCycle s = .next u ∧ (getQuad (getCore u core) quad).cycles = q.cycles + 1 ∧
       ∀ b rest, issueOrder s core quad = b :: rest →
         (∃ l, u.agenda = acts b ++ l) ∧
         (core < 768 → passDue (getStrand (getCtx s b.key) b.slot) = none →
           (getStrand (getCtx u b.key) b.slot).secondPass = secondOf s b) ∧
         ∀ e, secondIssue s b rest = some e → ∃ l, u.agenda = acts b ++ acts e ++ l) ∧
     (∀ k rest, q.ages = k :: rest → q.rotatedAt + 256 ≤ q.cycles →
       ∃ u, exec .ageRotation s = .next u ∧ (getQuad (getCore u core) quad).ages = rest ++ [k]))

/-- 08 R182, R184, 12 R256, R257, 13 R268, R269, 17 R340, 20 R401, 21 R417, 23 R461, 05 R129, 07 R173: what a strand
waits for comes. A join whose lanes are full, an armwait without a live descendant, an r.wait whose phase has passed its
token, a c.wait whose batches are complete and an lg.bar at which every root stands issue again and complete, on the
lanes as the strand finds them; a changed barrier word lets the strands parked on it go on, and a poisoned one traps the
lowest of them with 0x14; a strand refused 32 cycles ago is ready again; a warp's idle ends after 4,096 ticks; and with
every earlier act.ld written a flip exchanges the banks. -/
def Obligations.WaitsEnd : Prop :=
  ∀ (s r : State),
    let t := raceView r
    let ends := fun (i : Instr) (o : Host.Outcome State Fault Refusal) =>
      issued i (getStrand (getCtx s s.input.who.key) s.input.who.slot).pinned r o
    (∀ (k : BitVec 3) (d a b : BitVec 6) (e : BitVec 1) (rd ra rb : Nat), reissues s .join (.join k d a b e) r →
      namesDab t d a b rd ra rb →
        let lanes := lanesOf (curStrand t).mask
        let pick := fun l => if (getK (cur t) k.toNat).getLsbD l then ra else rb
        exec .joinIssue s = ends (.join k d a b e) (exec (.join k d a b e) t) ∧
        ((∀ l ∈ lanes, (getV (cur t) (pick l) l).fill = .full ∧ (getV (cur t) (pick l) l).poison = false) →
          lanesFree t [rd] lanes → ∃ u, exec .joinIssue s = .next u ∧ (curStrand u).wait = .ready ∧
            (racingLanes (cur r) r.focus.slot = [] →
              ∀ l ∈ lanes, getV (cur u) rd l = { val := laneVal (cur t) (pick l) l }))) ∧
    (reissues s .armwait .armwait r → descendants t = [] →
      ∃ u, exec .armwaitComplete s = .next u ∧ (curStrand u).wait = .ready) ∧
    (∀ (g q : BitVec 3) (a : BitVec 6) (n : BitVec 10) (c : Ring) (token : BitVec 16),
      reissues s .ring (.rWait g q a n) r → ringOf t q.toNat = some c → unrecorded t →
        ((curStrand t).rwait = some token ∨ (curStrand t).rwait = none ∧ guardP t g = true ∧
          ∃ x, holdsS t a x ∧ token = BitVec.ofNat 16 (x + n.signExtend 64).toNat) →
          let gap := (c.phase - token).toNat
          1 ≤ gap → gap ≤ 32767 → exec .ringWaitComplete s =
            ends (.rWait g q a n) (doneP (setStrand t { curStrand t with rwait := none }) 7 (decide (c.depth.toNat < gap)))) ∧
    (∀ (g : BitVec 3) (d a : BitVec 6) (x : Word) (bs : List Batch), reissues s .batch (.cWait g d a) r →
      guardP t g = true → writableS t d → holdsS t a x → unrecorded t → isCpyTrap (cur t) = false →
        batchesUpTo (cur t).batches (BitVec.ofNat 16 x.toNat) = some bs → (∀ b ∈ bs, b.complete = true) →
          ∃ u, exec .cWaitComplete s = .next u ∧ (curStrand u).wait = .ready ∧
            (d ≠ 0 → getS (cur u) d.toNat = { val := batchStatus bs })) ∧
    (reissues s .lgBar .lgBar r → (curStrand t).root = true → (cur t).ops = [] →
      (∀ x ∈ workgroupRoots t, x ≠ t.focus → atBarrier t x = true) →
        exec .lgBarComplete s =
          ends .lgBar (.next (passBarrier t (t.focus :: (workgroupRoots t).filter fun x => x != t.focus)))) ∧
    (let e := mapGet ({} : Park) (getCore s s.input.place).park s.input.id
     let key := s.input.place * 64 + e.quad.toNat * 16 + e.slot.toNat
     let place := 2 ^ 56 + s.input.place * 131072 + 8 * e.dw.toNat
     let word := barrierWord s key ((List.range 8).filter fun k => e.strands.getLsbD k) place
     e.valid = true →
       (word.2 = false → phaseOf word.1 ≠ e.token.toNat → replays s key = false → (launchOf s key).recording = false →
         ∃ u, exec .parkWake s = .next u ∧ sameMemory s u ∧
           ∀ i, i < 8 → e.strands.getLsbD i = true → (getStrand (getCtx s key) i).valid = true →
             (∃ n, (getStrand (getCtx s key) i).wait = .held .barrier n) →
               (getStrand (getCtx u key) i).wait = .ready) ∧
       (word.2 = true → ∀ k rest, (List.range 8).filter (fun k => e.strands.getLsbD k) = k :: rest →
         exec .parkWake s = .next (arrivedOf s { trapHere { s with focus := ⟨key, k⟩ } 0x14
           (BitVec.ofNat 64 (groupBase + windowOffset s key place)) 0x400000 with focus := s.focus } key))) ∧
    (let a := s.input.who
     let x := getStrand (getCtx s a.key) a.slot
     x.valid = true →
       (∀ n, x.wait = .held .refused n → 32 ≤ x.waitCount → ∃ u, exec .parkRetry s = .next u ∧ u.focus = a ∧
         curStrand u = { x with wait := .ready }) ∧
       (∀ n, x.wait = .held .idle n → isSystem a.key = false → 4096 ≤ (s.time - n).toNat →
         exec .warpIdleTimeout s = .next { retire { s with focus := a } 1 with focus := s.focus })) ∧
    (let k := getCore s s.input.place
     k.actWrites = [] → k.actFlip.isSome = true → ∃ u, exec .actFlipComplete s = .next u ∧
       (getCore u s.input.place).actBank = !k.actBank ∧ (getCore u s.input.place).actFlip = none)

/-- 02 R36, 07 R148, R172, 12 R250, R252, R256, R259, 16 R314 to R320: the steps that perform what has issued, shown
on an operation that stands alone with one access. Long results fill their lanes; a load fills its lane or register
with the bytes at its home, extended, and with their poison; an atomic leaves its function's value and gives the old
one; an arrival steps its barrier word and gives the phase; a sibling form makes its step on the cell; a fence with
nothing before it is done; and the oldest act.ld write lands in its table. -/
def Obligations.IssuedOperationsComplete : Prop :=
  ∀ (s : State) (o : MemOp) (a : Access),
    let key := s.input.who.key
    let gone := fun (u : State) => findOp (getCtx u key) o.id = none
    (soleAccess s o a → a.cell = false →
      (o.kind = .longResult → a.lane / 32 = s.input.sub →
        ∃ u, exec .longResultFill s = .next u ∧ gone u ∧ sameMemory s u ∧
          getV (getCtx u key) (o.dst + a.reg) a.lane = { val := BitVec.ofNat 64 a.data }) ∧
      (∀ n sg, o.kind = .load n sg ∨ o.kind = .loadSplat n sg → n < 16 → a.len = n → a.lane / 32 = s.input.sub →
        ∃ u, exec .loadFill s = .next u ∧ gone u ∧ sameMemory s u ∧ getV (getCtx u key) (o.dst + a.reg) a.lane =
          { val := extendLoad (readNat s a.place n) n sg, poison := poisonedRun s a.place n }) ∧
      (∀ n sg, o.kind = .scalarLoad n sg → a.len = n → 0 < o.dst →
        ∃ u, exec .scalarFill s = .next u ∧ gone u ∧ sameMemory s u ∧ getS (getCtx u key) o.dst =
          { val := extendLoad (readNat s a.place n) n sg, poison := poisonedRun s a.place n }) ∧
      (∀ f n scope, o.kind = .atomic f n scope → s.input.sub = 0 → poisonedRun s a.place n = false →
        ∃ u, exec .atomicStep s = .next u ∧ gone u ∧
          readNat u a.place n = atomicOp f n (readNat s a.place n) a.data a.data2 % 256 ^ n ∧
          (∀ q, (q < a.place ∨ a.place + n ≤ q) → readByte u q = readByte s q) ∧
          getV (getCtx u key) o.dst a.lane = { val := BitVec.ofNat 64 (readNat s a.place n) }) ∧
      (o.kind = .arrive → poisonedRun s a.place 8 = false → 0 < o.dst →
        let w := BitVec.ofNat 64 (readNat s a.place 8)
        ∃ u, exec .arrivalStep s = .next u ∧ gone u ∧ readNat u a.place 8 = (arriveWord w).toNat ∧
          (∀ q, (q < a.place ∨ a.place + 8 ≤ q) → readByte u q = readByte s q) ∧
          getS (getCtx u key) o.dst = { val := BitVec.ofNat 64 (bf w 47 32) })) ∧
    (soleAccess s o a → a.cell = true → siblingEnabled s (cellDie a.place) = true → s.input.sub = 0 →
      let d := getDie s (cellDie a.place)
      let r := cellStepOn d o.kind a
      (o.kind = .cellLdv → ∃ u, exec .cellStep s = .next u ∧ gone u ∧
        getV (getCtx u key) o.dst a.lane = { val := r.value, poison := r.poison } ∧
        getV (getCtx u key) (o.dst + 1) a.lane = { val := r.token, poison := r.poison }) ∧
      (o.kind = .cellStv ∨ (∃ f ty, o.kind = .cellRcn f ty) → ∃ u, exec .cellStep s = .next u ∧ gone u ∧
        getDie u (cellDie a.place) = r.die ∧
        getV (getCtx u key) o.dst a.lane = { val := r.value, poison := r.poison })) ∧
    (∀ k sc, (getCtx s key).ops = [o] → s.input.id = o.id → o.kind = .fence k sc →
      exec .fenceComplete s = .next (putCtx s key (dropOp (getCtx s key) o.id))) ∧
    (∀ w rest, (getCore s s.input.place).actWrites = w :: rest →
      ∃ u, exec .actLdWrite s = .next u ∧ (getCore u s.input.place).actWrites = rest ∧
        ∀ n, mapGet 0 (getCore u s.input.place).acts n =
          if n = w.bank.toNat * 1024 + w.index then w.value else mapGet 0 (getCore s s.input.place).acts n)

/-- 17 R327, R329, R334, 20 R405, R406: a copy between group stores, a delivery of a multicast and a band record,
each its core's only operation, complete. Each row of a copy stands at its place under the swizzle and every other
byte is as it was; a delivery does so in its target's allocation; the record's eight doublewords stand in the order
of R405. -/
def Obligations.TransfersComplete : Prop :=
  ∀ (s : State) (o : EngineOp), soleEngine s o →
    let gone := fun (u : State) => findEngine u s.input.place o.id = none
    (∀ r c1 o1 c2 o2 tc x, o.kind = .copy r (.group c1 o1) (.group c2 o2) false false false tc → o.rows = none →
      o.parts = [x] → o.left = [0] → s.input.sub = 0 → copyLegal r = true → rowsSound s r (groupPlace c1 o1) →
        ∃ u, exec .copyPartCompletion s = .next u ∧ gone u ∧ rowsCopied s u r (groupPlace c1 o1) (groupPlace c2 o2)) ∧
    (∀ r c1 o1 off tc k, o.kind = .mcast r (.group c1 o1) off false false tc → o.rows = none →
      o.left = [s.input.sub] → copyLegal r = true → rowsSound s r (groupPlace c1 o1) →
        mcastTarget s o.wg s.input.sub = some k →
          takesDelivery s (s.input.place / 32) k off (hullLength r.rows r.dpitch r.rb) = true →
            (getWg s k).saving = false → (getWg s k).away = false →
              ∃ u, exec .mcastDelivery s = .next u ∧ gone u ∧
                rowsCopied s u r (groupPlace c1 o1) (groupPlace (getWg s k).core ((getWg s k).gbase + off))) ∧
    (∀ c off n, o.kind = .band (.group c off) n → (∀ e ∈ s.cores, ∀ p ∈ e.2.engine, p.wg = o.wg → p.bandSeq ≠ n) →
      let w := getWg s o.wg
      let ws := bandWords (mapGet {} w.oldBands n) w.launch w.wgid
      ∃ u, exec .bandRecordWrite s = .next u ∧ gone u ∧ ws.length = 8 ∧
        (∀ i, i < 8 → readNat u (groupPlace c off + 8 * i) 8 = (ws.getD i 0).toNat) ∧
        ∀ q, (q < groupPlace c off ∨ groupPlace c off + 64 ≤ q) → readByte u q = readByte s q)

/-- 19 R376, R383, R385, R386, R389, R391, 03 R78, R79: the oldest matrix operation of a core completes. mx.acc.zero
clears the elements of its tile in the active rows and leaves every other; mx.mma, its operands' lanes full, leaves
each element the product of its row and column into it; a block of an integer product saturates once, on its exact
sum; a drain of 32-bit integers writes each element at its place. A free lease goes to a workgroup that waits,
and an exhausted one passes on. That a core's matrix operations complete in the order of issue is the model's reading (log entry 55).
-/
def Obligations.MatrixOperationsComplete : Prop :=
  (∀ (s : State) (o : EngineOp), soleEngine s o →
    let w := getWg s o.wg
    let width := recWarpLanes (wgLaunch s w).record
    let tile := fun (u : State) n => getTile (getCore u w.core) n
    w.core = s.input.place →
      (∀ acc lanes am an, o.kind = .matrix (.accZero acc lanes am an) →
        ∃ u, exec .matrixOperationCompletion s = .next u ∧ findEngine u s.input.place o.id = none ∧ sameMemory s u ∧
          (∀ r c, r ∈ updatedRows lanes width am → c < an → tile u (tileKey w acc r c) = 0) ∧
          ∀ n, (∀ r c, r ∈ updatedRows lanes width am → c < an → n ≠ tileKey w acc r c) → tile u n = tile s n) ∧
      (∀ acc map fmt ss zero lanes gn gk am an ak qs,
        o.kind = .matrix (.mma acc map fmt ss zero lanes gn gk am an ak qs) → am ≤ 128 → an ≤ 128 →
          cellsFull s (bCells fmt ss 0 gn gk an ak qs) = true → o.bandSeq = 0 →
            ∃ u, exec .matrixOperationCompletion s = .next u ∧ findEngine u s.input.place o.id = none ∧ sameMemory s u ∧
              ∀ r c, r ∈ updatedRows lanes width am → c < an → tile u (tileKey w acc r c) =
                BitVec.ofNat 32 (dotBlocks fmt fmt (if zero then 0 else (tile s (tileKey w acc r c)).toNat)
                  (mapRow s o.wg map r ak) (bColumn s fmt ss gn gk c ak qs) (gk / 16)).1) ∧
      (∀ acc x c2 off ring am an fmt post, o.kind = .matrix (.drain acc x (.group c2 off) false post ring am an fmt) →
        x.fmt = 0 → copyLegal x = true → am ≤ x.rows → an * 4 ≤ x.rb →
          ∃ u, exec .drainCompletion s = .next u ∧ findEngine u s.input.place o.id = none ∧
            (∀ r c, r < am → c < an →
              readNat u (groupPlace c2 off + copyByte x r (4 * c)) 4 = (tile s (tileKey w acc r c)).toNat) ∧
            (post = true → ∀ q, mapGet {} w.rings ring = q → w.rings.any (fun e => e.1 == ring) = true →
              (mapGet ({} : Ring) (getWg u o.wg).rings ring).phase = q.phase + 1))) ∧
  (∀ (f x : Nat) (a b : List Element), f = 7 ∨ f = 8 → x < 2 ^ 32 → a.length ≤ 16 → b.length ≤ 16 →
    let sum := toSigned x 32 + ((a.zip b).map fun e => elementInt f e.1 * elementInt f e.2).sum
    (dotBlocks f f x a b 1).1 = (BitVec.ofInt 32 (max (-(2 ^ 31)) (min (2 ^ 31 - 1) sum))).toNat) ∧
  (∀ (s : State) (k : Nat) (n : BitVec 11),
    let c := getCore s s.input.place
    (waitsForLease s k = true → c.leaseHolder = none → c.leaseWaiters = [(k, n)] → ∃ u, exec .leaseGrant s = .next u ∧
      (getCore u s.input.place).leaseHolder = some k ∧ (getCore u s.input.place).leaseCount = n.toNat ∧
      (getCore u s.input.place).leaseWaiters = []) ∧
    (∀ h, waitsForLease s k = true → c.leaseHolder = some h → c.leaseCount = 0 → c.leaseWaiters = [(k, n)] →
      inLeaseClause s h = false →
      ∃ u, exec .leasePass s = .next u ∧ (getCore u s.input.place).leaseHolder = some k ∧
        (getCore u s.input.place).leaseCount = n.toNat ∧ (getCore u s.input.place).leaseWaiters = []))

/-! ## Steps of the table: translation, batt, launches, pre-emption (11, 14, 16, 21) -/

/-- 11 R240, R241, R243: a walk that finds a valid leaf, no entry of it held, puts it into the cache, from which the address is
then translated. An accepted invalidation sets BUSY with its kind, its ASID and the address that INVVA then holds, and is due; its completion leaves no entry
that it matches in any cache of the die, clears BUSY and counts. That only a walk's own step fills a cache is the
model's choice (log entry 17). 16 R308 to R310: on a die whose batt block is not busy, a change of EN sets BUSY.
Enabling, once
done with no operation of an engine in flight there, and in a replay no access that comes too early (24 R475; so does an
invalidation complete), leaves every byte of the cells and the batt store zero and every cell with one sibling;
disabling leaves each cell's first value in its eight bytes. That a disable works at once on die store is the
model's choice (log entry 19). -/
def Obligations.TranslationAndBattChange : Prop :=
  (∀ (s : State),
     let place := s.input.place
     let d := getDie s place
     (∀ l ps, place < 816 → cachedLeaf s place (BitVec.ofNat 16 s.input.id) s.input.value.toNat = none →
       cacheWalkHeld s place (BitVec.ofNat 16 s.input.id) s.input.value.toNat = false →
       walkPath s (walkReadCached s (cacheDie place) (BitVec.ofNat 16 s.input.id)) (cacheDie place)
           (BitVec.ofNat 16 s.input.id) s.input.value.toNat = .ok (l, ps) →
         ∃ u, exec .translationWalk s = .next u ∧ sameMemory s u ∧
           cachedLeaf u place (BitVec.ofNat 16 s.input.id) s.input.value.toNat = some l) ∧
     (place < 24 → d.invBusy = false →
       let asked := fun (i : Instr) (k : BitVec 2) => ∃ u, exec i s = .next u ∧ (getDie u place).invBusy = true ∧
         (getDie u place).invKind = k ∧ (getDie u place).invAsid = BitVec.ofNat 16 s.input.value.toNat ∧
         (getDie u place).invAddr = d.invva ∧
         u.due = s.due ++ [.event .invalidationComplete { place := place }]
       asked .invalidatePage 0 ∧ asked .invalidateAsid 1 ∧ asked .invalidateAll 2) ∧
     (place < 24 → d.invBusy = true → (invContexts s place).any (unsettled (settleAll s (invContexts s place))) = false →
       ∃ u, exec .invalidationComplete s = .next u ∧ (getDie u place).invBusy = false ∧
       (∀ cache ∈ dieCaches place, ∀ e ∈ getTlb u cache, invMatches d e = false) ∧
       (invContexts s place = [] → (getDie u place).invCount = d.invCount + 1))) ∧
  (∀ (s : State),
     let die := s.input.place
     let d := getDie s die
     die < 24 →
       (d.battBusy = false → d.battEn = false → ∃ u, exec .battEnable s = .next u ∧ sameMemory s u ∧
         (getDie u die).battEn = true ∧ (getDie u die).battBusy = true) ∧
       (d.battBusy = false → d.battEn = true → battContexts s die = [] → ∃ u, exec .battDisable s = .next u ∧
         (getDie u die).battEn = false ∧ (getDie u die).battBusy = true ∧
         ∀ i, i < 2097152 → readNat u (cellBase die + 8 * i) 8 = (slotValue (getCell d i) 0).toNat) ∧
       (d.battBusy = true → (d.battEn = true → engineTouchesBatt s die = false ∧
           (battContexts s die).any (unsettled (settleAll s (battContexts s die))) = false) →
         ∃ u, exec .battChangeDone s = .next u ∧ (getDie u die).battBusy = false ∧
         (d.battEn = true → (∀ i, getCell (getDie u die) i = {}) ∧
           ∀ p, headerBase die ≤ p → p < diePlace die 0x10000000 → readByte u p = 0)))

/-- 14 R274, R275, R278 to R281, R284: from what it read as the launch issued, the carder fills S[d] with the next
identifier, or with bit 63 and the code of a refusal; a launch with workgroups to place whose dependences are done enters
the tail of its queue; a placement puts the last workgroup
of the only queued launch where it fits, with its warps at their entry, and takes the launch from its queue; a
completed launch counts DONE up and keeps its status; and a killed one ends and is due to complete. -/
def Obligations.LaunchesAreDecidedPlacedAndCompleted : Prop :=
  (∀ (s : State) (o : MemOp) (x : LaunchRead),
    let key := s.input.who.key
    let part := partOf s (keyDie key)
    let p := getPart s part
    let decided := refusalCode s part (fun r => if x.ctxForm then recContext r else (getCtx s key).context) x
    (getCtx s key).ops = [o] → s.input.id = o.id → o.kind = .launch x → 0 < o.dst → s.sessions = [] →
      (∀ code, decided = .error code → ∃ u, exec .carderDecision s = .next u ∧ sameMemory s u ∧
        getS (getCtx u key) o.dst = { val := BitVec.ofNat 64 (2 ^ 63 + code) } ∧ (getPart u part).issued = p.issued) ∧
      (∀ r roles, decided = .ok (r, roles) → ∃ u, exec .carderDecision s = .next u ∧ sameMemory s u ∧
        getS (getCtx u key) o.dst = { val := BitVec.ofNat 64 (p.issued + 1) } ∧
        (getPart u part).issued = p.issued + 1 ∧ (getLaunch (getPart u part) (p.issued + 1)).live = true ∧
        (getLaunch (getPart u part) (p.issued + 1)).record = r)) ∧
  (∀ (s : State),
    let part := s.input.place
    let id := s.input.id
    let p := getPart s part
    let l := getLaunch p id
    (l.live = true → l.queued = false → l.ending = false → unplaced l = true → depsDone p l = true →
      ∃ u, exec .queueEntry s = .next u ∧
      getQueue (getPart u part) (recPrio l.record) = getQueue p (recPrio l.record) ++ [id] ∧
      (getLaunch (getPart u part) id).queued = true) ∧
    (∀ n c f keys, getQueue p 7 = [n] → (∀ q, q < 7 → getQueue p q = []) →
      let m := getLaunch p n
      m.ending = false → m.returned = [] → m.nextWg + 1 = recGrid m.record →
        choosePlace s part n m.nextWg false = some (c, f, keys) →
          ∃ u, exec .placementAttempt s = .next u ∧ getQueue (getPart u part) 7 = [] ∧
            (getLaunch (getPart u part) n).nextWg = recGrid m.record ∧
            (getWg u s.nextWgKey).live = true ∧ (getWg u s.nextWgKey).core = c ∧
            (getWg u s.nextWgKey).wgid = BitVec.ofNat 64 m.nextWg ∧ (getWg u s.nextWgKey).warps = keys ∧
            (keys.Nodup → ∀ i k, keys[i]? = some k →
              getCtx u k = entryWarp m n m.nextWg s.nextWgKey i (getCtx s k).nextOp)) ∧
    (let q : Requester := { key := systemBase + 2 * (partDies s part).headD 0, user := l.user, asid := l.asid }
     mayComplete s part id = true → launchWgs s part id = [] →
      (recDone l.record = 0 ∨ carderHeld s q (recDone l.record) 8 = false) →
      let counted := if recDone l.record = 0 then some s else countDone s q (recDone l.record)
      ∃ u, exec .launchCompletion s = .next u ∧ sameMemory (counted.getD s) u ∧
        (getLaunch (getPart u part) id).live = false ∧
        (getPart u part).done.head? = some (id, statusWordOf l counted.isNone)) ∧
    (l.live = true → l.ending = false → ∃ u, exec .killLaunch s = .next u ∧
      (getLaunch (getPart u part) id).ending = true ∧ (getLaunch (getPart u part) id).killed = true ∧
      u.due = s.due ++ [.event .launchCompletion { place := part, id := id }]))

/-- 14 R281, 21 R419 to R427: a request to save a workgroup that runs on the die, with fewer than four saves there,
the image key loaded and a free run in the pool, begins its save; a head that has waited its limit and fits nowhere has
its victim saved. The save completes, once main memory holds no line of the image, with the workgroup away and the die's
count one higher; a held workgroup is released to
its launch; and a restore, with its image not beyond a frozen port (25 R479), sets the warps that have a live strand running in their new
place. The count of completed saves and what a save
waits for follow log entries 27 and 29; one victim at a time is the model's choice (log entry 33). -/
def Obligations.WorkgroupsAreSavedAndRestored : Prop :=
  ∀ (s : State) (k a : Nat),
    let place := s.input.place
    let d := getDie s place
    let begins := fun (i : Instr) (kind : Nat) => ∃ u, exec i s = .next u ∧ (getWg u k).saving = true ∧
      (getWg u k).saveKind = kind ∧ (getWg u k).image = a ∧ (getWg u k).saveStart = s.time
    (place < 24 → s.input.flag = false → d.psBusy = false → placedOn s place d.plaunch d.pwg = some k →
      savesOn s place < 4 → keyLoaded s d.saveKey.toNat = true → findRun s place (imageSize (wgRecord s k)) = some a →
        begins .saveAndRequeue 0 ∧ begins .saveAndHold 1) ∧
    (∀ limit id rest w, preemptTicks s.input.id = some limit → getQueue (getPart s place) s.input.id = id :: rest →
      let part := place
      let l := getLaunch (getPart s part) id
      limit ≤ (s.time - l.headSince).toNat → unplaced l = true → l.ending = false → placeNext s part id = none →
        (savesIn s place).any (fun e => e.2.saveKind == 2) = false → chooseVictim s (victims s place id) = some (k, w) →
          savesOn s (w.core / 32) < 4 → keyLoaded s (getDie s (w.core / 32)).saveKey.toNat = true →
            findRun s (w.core / 32) (imageSize (wgRecord s k)) = some a → begins .carderPreemption 2) ∧
    (let w := getWg s place
     w.live = true → w.saving = true → s.shutdown = false → (∀ c ∈ s.cores, c.2.engine = []) → (getCore s w.core).actFlip = none →
       (∀ key ∈ w.warps, (getCtx s key).ops = []) → runHeld s w.image (imageSize (wgRecord s place)) = false →
         ∃ u, exec .saveCompletion s = .next u ∧ (getWg u place).saving = false ∧ (getWg u place).away = true ∧
           (getWg u place).warps = [] ∧ (getDie u (w.core / 32)).psCount = (getDie s (w.core / 32)).psCount + 1 ∧
           (getDie u (w.core / 32)).pimage = BitVec.ofNat 64 w.image) ∧
    (place < 24 → (k, a) ∈ d.images →
      (∀ e ∈ d.images, e.2 = a → e = (k, a)) → (keep s.input.value 51 12).toNat = a → (getWg s k).away = true →
        (getWg s k).saveKind = 1 → ∃ u, exec .prel s = .next u ∧ (getWg u k).saveKind = 0 ∧
          (k, (getWg s k).image) ∈
            (getLaunch (getPart u (getWg s k).part) (getWg s k).launch.toNat).returned) ∧
    (let w := getWg s place
     w.live = true → w.away = true → w.warps ≠ [] →
       (s.cores.any fun c => c.2.engine.any (intoImage s c.1 place w)) = false →
       runHeld s w.image (imageSize (wgRecord s place)) = false →
         runCut s (w.core / 32) w.image (imageSize (wgRecord s place)) = false →
           lockRoom (getCore s w.core) (adoptLocks s place w.core).length = true →
             ∃ u, exec .restore s = .next u ∧ (getWg u place).away = false ∧ ∀ key ∈ w.warps,
               (getCtx u key).wg = place ∧ ((getCtx u key).live = true ↔ liveSlots (getCtx u key) ≠ []))

/-! ## Steps of the table: main memory, the fabric, the hub dies, I/O space (18, 22) -/

/-- 18 R351 to R355: within one domain no two addresses share a byte of main memory, in any state whose domain
stands as a store to its registers leaves it: the base a multiple of 128, an even number of rows that ends by row
65,536, and each fold mask with bits above its own alone. -/
def Obligations.DomainsMapAddressesToDistinctCells : Prop :=
  ∀ (s : State) (n a b : Nat), (getDomain s n).base % 128 = 0 → (getDomain s n).rc % 2 = 0 →
    (getDomain s n).rowBase + (getDomain s n).rc ≤ 65536 → (∀ j, j < 8 → foldMask s n j % 2 ^ (j + 1) = 0) →
      inDomain s n a = true → inDomain s n b = true → mainPlaceIn s n a = mainPlaceIn s n b → a = b

/-- 18 R352, R357, R361, R364, R366, R368, R369: what the memory-map block does with a request, and
how an accepted one ends: MAPR takes the mapping; a domain's registers take their fields; a retirement takes its
pseudo-channel out of use, and one that is refused sets REFUSED alone (that a number of 3,072 or above is refused is the
model's choice, log entry 22); a repair uses a spare row; a rate change retrains its stack, whose held writes then go on, and
a forced retrain holds it; and a pseudo-channel serves a system core's access, a part of a copy, a delivery of a multicast or the weights of an
mx.mv in its class. Which access a turn serves comes from outside (log entry 26). -/
def Obligations.MemoryMapRequestsComplete : Prop :=
  ∀ (s : State),
    let x := s.input.value
    let place := s.input.place
    let k := getStack s place
    exec .mapq s = .next { s with mapq := keep x 51 0, mapr := mapWord s (keep x 51 0).toNat } ∧
    (∀ n j, n < 27 → j < 8 →
      let d := getDomain s n
      let becomes := fun (off : Nat) (e : Domain) => s.input.id = 0x1000 + 0x80 * n + off →
        exec .memoryMapConfigWrite s = .next (putDomain s n e)
      becomes 0 { d with base := bf x 41 30 * 2 ^ 30 } ∧
      (bf x 47 32 + bf x 16 1 * 2 ≤ 65536 → (n < 24 ∨ bf x 49 48 = 0) →
        becomes 8 { d with rc := bf x 16 1 * 2, rowBase := bf x 47 32, smask := BitVec.ofNat 2 (bf x 49 48) }) ∧
      becomes (0x40 + 8 * j) { d with folds := mapPut 0 d.folds j (keep x 34 (j + 1)) }) ∧
    (s.retBusy = false →
      (retireRefused s (bf x 11 0) = false → ∃ u, exec .retreq s = .next u ∧ u.retBusy = true ∧ u.retRefused = false ∧
        u.retG.toNat = bf x 11 0 ∧ u.due = s.due ++ [.event .retirementComplete {}]) ∧
      (retireRefused s (bf x 11 0) = true → exec .retreq s = .next { s with retRefused := true })) ∧
    (s.retBusy = true → ∃ u, exec .retirementComplete s = .next u ∧ u.retBusy = false ∧
      pcLive u s.retG.toNat = false ∧
      (domainContexts s (domainsOf s s.retG.toNat) = [] → u.retCount = s.retCount + 1)) ∧
    (s.pprBusy = false → bf x 11 0 < 3072 → pcLive s (bf x 11 0) = true → sparesUsed s (bankOf x) < 4 →
      ∃ u, exec .pprreq s = .next u ∧ u.pprBusy = true ∧ u.pprReq = keep x 31 0 ∧
        u.due = s.due ++ [.event .repairComplete {}]) ∧
    (s.pprBusy = true → ∃ u, exec .repairComplete s = .next u ∧ u.pprBusy = false ∧ u.pprCount = s.pprCount + 1 ∧
      sparesUsed u (bankOf s.pprReq) = sparesUsed s (bankOf s.pprReq) + 1 ∧ (s.heldWrites = [] → sameMemory s u)) ∧
    (place < 48 → bf x 3 2 ≠ 3 → BitVec.ofNat 2 (bf x 3 2) ≠ k.tgt → ∃ u, exec .rateChange s = .next u ∧
      (getStack u place).tgt = BitVec.ofNat 2 (bf x 3 2) ∧ (getStack u place).pend = true ∧
      ((savesIn s (stackPart s place)).isEmpty = true → (getStack u place).retraining = true)) ∧
    (k.retraining = true → k.forced = false → exec .retrainComplete s =
      .next (releaseWrites (putStack s place { k with retraining := false, cur := k.tgt, pend := false }))) ∧
    (place < 48 → k.forced = false → ∃ u, exec .forcedRetrain s = .next u ∧ (getStack u place).retraining = true ∧
      (getStack u place).forced = true ∧ (getStack u place).cur = k.cur) ∧
    (∀ key id i, s.input.sub = 1 → systemAccessAt s place = some (key, id, i) →
      exec .pseudoChannelService s = .next (performStore s key id i)) ∧
    (∀ core o, (s.input.sub = 1 → systemAccessAt s place = none) → copyAt s place s.input.sub = some (core, o) →
      (∃ p ∈ opPlaces s o, ∃ a x y, p = .main a x y ∧ a / 2 ^ 30 = place) ∧
      (∀ r src dst sp vf il tc, o.kind = .copy r src dst sp vf il tc → tc.toNat = s.input.sub ∧
        exec .pseudoChannelService s = .next (copyPartCompletion s core o.id (o.left.headD 0))) ∧
      (∀ r src off sp vf tc, o.kind = .mcast r src off sp vf tc → tc.toNat = s.input.sub ∧
        exec .pseudoChannelService s = .next (mcastDelivery s core o.id (o.left.headD 0))) ∧
      (∀ m, o.kind = .matrix m → s.input.sub = 1 ∧
        exec .pseudoChannelService s = .next (matrixCompletion s core o.id)))

/-- 18 R349, R350, 16 R323, 22 R428: a frame that fails authentication is counted, and with its fourth failure the
link is declared failed and its die's port is frozen; the monitor's next session key takes the place of a link's; an
uncorrectable error makes a line of main memory fail, poisons the enabled cell whose word, header or group it meets, or
poisons a doubleword; and a failed
fabric link ends every launch of a partition that has lost a route, and only then: a partition with no such die is as it was,
whatever others lost. Which frame failed comes from
outside (log entry 23); that a failed cross link has no way round and that an error elsewhere poisons a doubleword
are the model's (log entries 24 and 25). -/
def Obligations.ErrorsAndLinkFailuresTakeEffect : Prop :=
  ∀ (s : State),
    let place := s.input.place
    let k := getStack s place
    (place < 48 → k.linkDown = false →
      (s.input.flag = false → exec .linkFrameFailure s = .next (putStack s place { k with linkFails := 1 })) ∧
      (s.input.flag = true → k.linkFails < 3 →
        exec .linkFrameFailure s = .next (putStack s place { k with linkFails := k.linkFails + 1 })) ∧
      (s.input.flag = true → k.linkFails = 3 → ∃ u, exec .linkFrameFailure s = .next u ∧
        (getStack u place).linkDown = true ∧ (getDie u (place / 2)).frozen = true)) ∧
    (place < 48 →
      exec .sessionKeyReplacement s = .next (putStack s place { k with sessionKey := k.sessionKey + 1 })) ∧
    (∃ u, exec .uncorrectableError s = .next u ∧ sameMemory s u ∧
      (place < mainTop → ∀ a slot, lineOk u place a slot = false) ∧
      (mainTop ≤ place → place < 2 ^ 56 → siblingEnabled s (homeDie place) = true → cellBase (homeDie place) ≤ place →
        (getCell (getDie u (homeDie place)) (cellIndex place)).poison = true) ∧
      (∀ die, siblingEnabled s die = true → die < 24 →
        (∀ i k, i < 2097152 → k < 4 → place = headerBase die + 4 * i + k → (getCell (getDie u die) i).poison = true) ∧
        (∀ g k i, 0 < g → g < 65536 → k < 64 → place = groupPoolBase die + 64 * g + k →
          (∃ c, (i, c) ∈ (getDie s die).cells ∧ c.link = g) → (∀ e ∈ (getDie s die).cells, e.2.link = g → e.1 = i) →
            (getCell (getDie u die) i).poison = true ∧ (getCell (getDie u die) i).groupBad = true)) ∧
      (mainTop ≤ place → siblingEnabled s (homeDie place) = false → poisonedRun u place 1 = true)) ∧
    (let t := { s with deadLinks := s.deadLinks ++ [(place, s.input.dir)] }
     let cut := fun a => ∃ b, b < 24 ∧ (routeExists t a b = false ∨ routeExists t b a = false)
     ((∀ a, a < 24 → ¬cut a) → exec .fabricLinkFailure s = .next t) ∧
     ∃ u, exec .fabricLinkFailure s = .next u ∧ u.deadLinks = t.deadLinks ∧
       (∀ p, (∀ a, a < 24 → cut a → partOf s a ≠ p) → getPart u p = getPart s p) ∧
       ∀ a id, a < 24 → cut a → partOf s a < s.partCount →
         (getLaunch (getPart u (partOf s a)) id).live = true → (getLaunch (getPart u (partOf s a)) id).ending = true)

/-- 22 R433 to R437: what the host and the storage devices do. A host's access through BAR2 and CXL.mem, and a
storage port's DMA in its window, read and write the module's bytes under their key slot, where nothing that came
before waits at the port; where main memory holds a byte of it, the access waits, and what comes after it waits behind it
(15 R301); a DMA outside the window is no access and freezes its port, but one that writes into the port's message range is a
message with what it writes; a write of HMSIX sends a vector's message, or leaves it pending while the vector
is masked; a storage message sets its bit of SCVEC and IPEND[2] on the core that SIRQ names, or is dropped; and the
link's state and the CXL enable are the host's. The MSI-X table is presumed (log entry 34), and the hub ports belong
to die 0's partition (log entry 37). -/
def Obligations.HubAccessesAndMessagesComplete : Prop :=
  ∀ (s : State),
    let h := s.input.place
    let x := getHub s h
    let a := s.input.acc
    let waiting := fun (u : State) (hub : Nat) (storage : Bool) =>
      if storage then (getPort (getHub u hub) (h % 4)).posted else (getHub u hub).posted
    let served := fun (i : Instr) (hub slot pa : Nat) (storage : Bool) (arrived : BusAccess) =>
      s.input.flag = false → waiting s hub storage = [] →
        ∀ ps, busPlaces s slot pa (if a.data.isEmpty then a.count else a.data.length) = some ps →
          (ps.any (engineHeld s) = false → ∃ u, exec i s = .next u ∧ waiting u hub storage = [] ∧
            (a.data.isEmpty = true → sameMemory s u ∧
              (getHub u hub).replies = (getHub s hub).replies ++ [busRead s ps]) ∧
            (a.data.isEmpty = false → sameMemory (busWrite s ps a.data) u ∧
              (getHub u hub).replies = (getHub s hub).replies)) ∧
          (ps.any (engineHeld s) = true → ∃ u, exec i s = .next u ∧ sameMemory s u ∧
            waiting u hub storage = [.access arrived])
    let port := getPort (getHub s (h / 4)) (h % 4)
    (h < 2 →
      (x.frozen = false → a.bar ≠ 0 → a.offset + (if a.data.isEmpty then a.count else a.data.length) ≤ 2 ^ 36 →
        served .hostBarAccess h x.hkey.toNat (x.hwinBase.toNat + a.offset) false a) ∧
      (x.frozen = false → x.cxlOn = true →
        a.offset + (if a.data.isEmpty then a.count else a.data.length) ≤ 2 ^ 36 →
          served .cxlMemAccess h x.hkey.toNat (x.hwinBase.toNat + a.offset) false { a with bar := 2 }) ∧
      (vectorMasked x (bf s.input.value 5 0) = true → exec .hmsix s = .next (putHub s h { x with
        msixPending := x.msixPending ||| BitVec.ofNat 64 (2 ^ bf s.input.value 5 0) })) ∧
      (vectorMasked x (bf s.input.value 5 0) = false → ∃ u, exec .hmsix s = .next u ∧
        let v := bf s.input.value 5 0
        (getHub u h).outbound = x.outbound ++
          [.message (BitVec.ofNat 64 (tableNat x (16 * v) 8)) (BitVec.ofNat 32 (tableNat x (16 * v + 8) 4))]) ∧
      exec .hostLinkState s = .next (putHub s h { x with linkUp := s.input.flag }) ∧
      exec .cxlMemEnable s = .next (putHub s h { x with cxlOn := s.input.flag })) ∧
    (h < 8 → port.frozen = false →
      let claimed := a.data ≠ [] ∧ 0xFFFFF000 ≤ a.offset ∧ a.offset < 2 ^ 32
      (claimed → s.input.flag = false → port.posted = [] → ∃ u, exec .nvmeDma s = .next u ∧ sameMemory s u ∧
        exec .storageMessage { s with input := { s.input with value := BitVec.ofNat 64 (ofBytes a.data) } } =
          .next { u with input := { s.input with value := BitVec.ofNat 64 (ofBytes a.data) } }) ∧
      (¬ claimed → inPortWindow port a = true → served .nvmeDma (h / 4) port.key.toNat a.offset true a) ∧
      (¬ claimed → inPortWindow port a = false → s.input.flag = false → port.posted = [] → ∃ u, exec .nvmeDma s = .next u ∧
        (getPort (getHub u (h / 4)) (h % 4)).frozen = true ∧ sameMemory s u) ∧
      (port.irqEnable = true → port.posted = [] → port.irqCore.toNat < 48 → partOf s (port.irqCore.toNat / 2) = 0 →
        ∃ u, exec .storageMessage s = .next u ∧
          let c := port.irqCore.toNat
          (getSc (getDie u (c / 2)) (c % 2)).vec.getLsbD (s.input.value.toNat % 64) = true ∧
          (getCtx u (systemBase + c)).ipend.getLsbD 2 = true) ∧
      (port.irqEnable = false → port.posted = [] → ∃ u, exec .storageMessage s = .next u ∧
        (getPort (getHub u (h / 4)) (h % 4)).dropped = port.dropped + 1))

/-- 22 R441, 25 R479, R485, R488: a store to SEALGO starts a seal, which ends with BUSY cleared and one more
counted; a frozen master issues nothing more until the monitor's reset lifts its freeze; and a system core's store
to a register that its table grants it, past no frozen port, writes the register. That a reset leaves a system core not running is the
model's choice (log entry 40). 22 R442, R443: a scale-out request whose tile can be sent after the core's earlier writes
is in flight until it is acknowledged within 10 ms, which is counted, or 10 ms have passed, which sets TIMEOUT; another
module's request is applied once, and never a second time. That a seal's start clears
EMPTY and MEMERR is the model's choice (log entry 38). When XGO takes its request, that its start clears TIMEOUT and REFUSED,
that a request which times out is no longer BUSY and that a later acknowledgement finds it timed out are the model's too (log
entry 39). -/
def Obligations.SealsFreezesAndRequestsComplete : Prop :=
  (∀ (s : State),
     let a := s.input
     let d := getDie s a.place
     (a.place < 24 → d.sealBusy = false → ∃ u, exec .sealgo s = .next u ∧ (getDie u a.place).sealBusy = true ∧
       (getDie u a.place).sealGo = keep a.value 47 0 ∧ (getDie u a.place).sealEmpty = false ∧
       (getDie u a.place).sealMemerr = false ∧ u.due = s.due ++ [.event .sealComplete { place := a.place }]) ∧
     (a.place < 24 → d.sealBusy = true → sealHeld s d = false → ∃ u, exec .sealComplete s = .next u ∧ (getDie u a.place).sealBusy = false ∧
       (getDie u a.place).sealCount = d.sealCount + 1) ∧
     (masterExists a.master = true → ∃ u, exec .freeze s = .next u ∧
       match a.master with
       | .systemCore c => (getSc (getDie u (c / 2)) (c % 2)).frozen = true ∧ issuable u ⟨systemBase + c, 0⟩ = false
       | .diePort die => (getDie u die).frozen = true
       | .storage p => (getPort (getHub u (p / 4)) (p % 4)).frozen = true
       | .hostPort h => (getHub u h).frozen = true) ∧
     (masterExists a.master = true → ∃ u, exec .masterReset s = .next u ∧ sameMemory s u ∧
       match a.master with
       | .systemCore c => (getSc (getDie u (c / 2)) (c % 2)).frozen = false ∧
           (getSc (getDie u (c / 2)) (c % 2)).running = false
       | .diePort die => (getDie u die).frozen = false
       | .storage p => (getPort (getHub u (p / 4)) (p % 4)).frozen = false
       | .hostPort h => (getHub u h).frozen = false) ∧
     (∀ b unit off t, ioPlace a.id = .reg b unit off → ioGranted a.id 8 true = true → off % 8 = 0 → a.place < 48 →
       ioReached s (partOf s (a.place / 2)) a.id = true → ioHeld s (a.place / 2) a.id = false →
       ioStore s a.id 8 a.value.toNat a.place = some t →
         exec .ioRegisterWrite s = .next t) ∧
     (∀ die, die < 24 → ioPlace a.id = .reg .translation die 0 → ioGranted a.id 8 true = true → a.place < 48 →
       ioReached s (partOf s (a.place / 2)) a.id = true → ioHeld s (a.place / 2) a.id = false →
         exec .ioRegisterWrite s = .next (putDie s die { getDie s die with astbase := keep a.value 51 20 }))) ∧
  (∀ (s : State),
     let h := s.input.place
     let x := getHub s h
     let sent := fun (i : Instr) (op : BitVec 2) => ∀ t, localTile (settleCtx s (systemBase + s.input.id)) h op = some t →
       ∃ u, exec i s = .next u ∧ u.due.getLast? = some (.event .scaleOutTimeout { place := h }) ∧ (getHub u h).xSince = s.time ∧
       (getHub u h).xbusy = true ∧ (getHub u h).xFrame = t ∧ (getHub u h).xPeer.toNat = s.input.value.toNat % 65536 ∧
       (getHub u h).xtimeout = false ∧ (getHub u h).xrefused = false
     (h < 2 →
       (x.xbusy = false → localHeld s h = false → sent .xopWrite 0 ∧ sent .xopAddFp32 1 ∧ sent .xopAddBf16 2 ∧ sent .xopAddFp16 3) ∧
       (x.xbusy = true → (s.time - x.xSince).toNat ≤ 10000000 → ∃ u, exec .scaleOutAcknowledge s = .next u ∧
         (getHub u h).xbusy = false ∧ (getHub u h).xcount = x.xcount + 1 ∧ (getHub u h).xrefused = s.input.flag) ∧
       (let late := fun (i : Instr) => ∃ u, exec i s = .next u ∧ (getHub u h).xbusy = false ∧
          (getHub u h).xtimeout = true ∧ (getHub u h).xcount = x.xcount
        (x.xbusy = true → 10000000 ≤ (s.time - x.xSince).toNat → late .scaleOutTimeout) ∧
        (x.xbusy = true → 10000000 < (s.time - x.xSince).toNat → late .scaleOutAcknowledge)) ∧
       (x.seen.contains s.input.id = false → tileHeld s h s.input.tile = false → ∀ t, applyTile s h s.input.tile = some t →
         exec .scaleOutRequestArrival s = .next (putHub t h { getHub t h with seen := x.seen ++ [s.input.id] })) ∧
       (x.seen.contains s.input.id = true → exec .scaleOutRequestArrival s = .next s)))

/-! ## Steps of the table: the monitor and debug sessions (24, 25) -/

/-- 25 R485: START starts a core that neither runs nor is frozen, in supervisor mode with MMR 2, s1 and ASID from
its block and strand 0 at SCPC without a lane; SIGNAL sets IPEND[1]; and a store to SCVEC clears the bits written as
1. That START settles what the core had issued is the model's choice (log entry 49). 25 R483: a bring-up without a
failing step leaves a module of one partition with its memory zeroed (die store and group store by step 6; that main memory,
of which no line is then sound, holds zeros too is the model's choice, log entries 3 and 48), every stack at its trained rate and under its
session key, the pseudo-channels of an untrained stack not live, the links that failed down, and both system cores
of die 0 running; one with a failing step stops there and is logged. 00 R11, 25 R477: an image is started only where
both its signatures verify, its digest is its body's and its SVN is not below the minimum fused for it; otherwise bring-up
stops at the image's step and the image is logged. What verification finds, and which other step fails, come from outside
(log entry 48), TIME 0 after bring-up is the model's choice (log entry 5), and the rates are free values (log entry 9). -/
def Obligations.SystemCoresStartAndBringUpRuns : Prop :=
  (∀ (s : State),
     let c := s.input.place
     let x := getSc (getDie s (c / 2)) (c % 2)
     c < 48 →
       (x.running = false → x.frozen = false → ∃ u n, exec .start s = .next u ∧
         (getSc (getDie u (c / 2)) (c % 2)).running = true ∧ (getSc (getDie u (c / 2)) (c % 2)).stopped = false ∧
         getCtx u (systemBase + c) = startedCore x n) ∧
       (x.running = true → exec .start s = .next s) ∧
       exec .signal s = .next (setIpend s c 1) ∧
       exec .scvecClear s = .next (putDie s (c / 2) (putSc (getDie s (c / 2)) (c % 2)
         { x with vec := x.vec &&& ~~~ s.input.value }))) ∧
  (∀ (s : State),
     let r := s.input.report
     let bad := fun (k : ImageKind) =>
       let x := imageReport r k
       x.ed25519 ≠ .valid ∨ x.mldsa ≠ .valid ∨ x.digest = false ∨ x.svn < mapGet 0 s.minSvn (imageNumber k)
     let stops := fun (n : Nat) (e : LogEntry) => ∃ u, exec .bringUp s = .next u ∧ u.powered = false ∧
       u.stopStep = n ∧ e ∈ u.log ∧ ∀ a, issuable u a = false
     (∀ k, bad k → (∀ j, j ≠ k → ¬ bad j) → r.failedStep = 0 →
       stops (match k with | .secureMonitor => 2 | .coltaup => 7 | .controllerFirmware | .memoryTraining | .carderMicrocode => 3)
         (.imageRefused k)) ∧
     (r.failedStep = 0 → (∀ k, ¬ bad k) → ∃ u, exec .bringUp s = .next u ∧ u.powered = true ∧ u.partCount = 1 ∧ u.mem = [] ∧
       (∀ p at_ k, lineOk u p at_ k = false) ∧
       u.time = 0 ∧ u.deadLinks = r.deadLinks ∧
       (∀ k, k < 48 → (getStack u k).cur = BitVec.ofNat 2 (Config.trainedRate k).val ∧ (getStack u k).cur ≠ 3 ∧
         (getStack u k).tgt = (getStack u k).cur ∧ (getStack u k).sessionKey = 1 ∧ (k ∈ r.untrained → (getStack u k).dead = BitVec.allOnes 64)) ∧
       (getSc (getDie u 0) 0).running = true ∧ (getSc (getDie u 0) 1).running = true) ∧
     (0 < r.failedStep → r.failedStep < 8 → (∀ k, ¬ bad k) → stops r.failedStep (.bringUpStopped r.failedStep)))

/-- 25 R486, R484, 22 R431: the mailbox's requests. Each ends with BUSY cleared and a RESULT: a slot is assigned to
a context or released, or emptied, once no access and no open transfer in verify mode is to come under it (25 R478, 22 R441);
a tenant's keys are registered and its sessions end; a context is marked; the
module is divided, the cores of the other partitions are reset, and their lowest dies' cores start; a power limit
stands at once, or once the flow hold ends; and a partition accepts launches. When the block is read, and what a
division releases, are the model's choice (log entries 45 and 46). -/
def Obligations.MailboxRequestsComplete : Prop :=
  ∀ (s : State),
    let die := s.input.place
    let d := getDie s die
    let w := fun i => d.mWords.getD i 0
    let part := partOf s die
    let asked := fun (code fields : Nat) =>
      d.mBusy = true ∧ (w 0).toNat = code ∧ (d.mWords.drop fields).any (· != 0) = false
    let ends := fun (i : Instr) (result : BitVec 8) (p : State → Prop) => ∃ u, exec i s = .next u ∧
      (getDie u die).mBusy = false ∧ (getDie u die).mResult = result ∧ p u
    let kind := bf (w 1) 9 8
    let slot := bf (w 1) 7 0
    let x := getKey s kind slot
    (asked 1 3 → kind < 3 → (w 1).toNat < 1024 → (w 2).toNat < 2 ^ 32 → slotBusy s kind slot = false →
      (x.part = none ∨ (x.part = some part ∧ (w 2 = 0 ∨ x.context = BitVec.ofNat 32 (w 2).toNat))) →
        ends .assignSlot 0 fun u => getKey u kind slot =
          if BitVec.ofNat 32 (w 2).toNat = 0 then {} else { part := some part, context := BitVec.ofNat 32 (w 2).toNat }) ∧
    (asked 2 2 → kind < 3 → (w 1).toNat < 1024 → slotBusy s kind slot = false →
      (x.part = some part → ends .emptySlot 0 fun u => (getKey u kind slot).key = none) ∧
      (x.part ≠ some part → ends .emptySlot 1 fun u => getKey u kind slot = x)) ∧
    (∀ a b, asked 3 4 → (w 1).toNat < 2 ^ 32 → runHeld s (w 2).toNat 32 = false → runHeld s (w 3).toNat 1952 = false →
      readMain s (hubKey s 0) (w 2).toNat 32 = some a →
      readMain s (hubKey s 0) (w 3).toNat 1952 = some b →
        ends .registerTenant 0 fun u => u.tenants = mapInsert s.tenants (w 1).toNat (a, b) ∧
          ∀ k, (getSession s k).isOpen = true → (getSession s k).maker = false →
            (getSession s k).context.toNat = (w 1).toNat → (getSession u k).isOpen = false) ∧
    (asked 4 2 → (w 1).toNat < 2 ^ 33 →
      ends .markConfidential 0 fun u => isConfidential u (BitVec.ofNat 32 (bf (w 1) 31 0)) = bitAt (w 1) 32) ∧
    (asked 5 2 → part = 0 → [1, 2, 4, 8, 24].contains (w 1).toNat = true → divisionBusy s = false →
      ends .divide 0 fun u => u.partCount = (w 1).toNat ∧ u.tlbs = [] ∧
        ∀ k i, k < 24 → 24 / (w 1).toNat ≤ k → i < 2 →
          ((getSc (getDie u k) i).running = true ↔ k % (24 / (w 1).toNat) = 0)) ∧
    (asked 6 2 → part = 0 → 8000 ≤ (w 1).toNat → (w 1).toNat ≤ 16000 →
      (s.flowHold = false → ends .powerLimit 0 fun u => u.powerLimit = (w 1).toNat) ∧
      (s.flowHold = true → ends .powerLimit 1 fun u => u.powerLimit = s.powerLimit ∧
        u.requestedLimit = (w 1).toNat)) ∧
    (asked 7 1 → ends .ready 0 fun u => (getPart u part).ready = true)

/-- 25 R481, R482, R487: power, heat and flow. The controller's mailbox at each host port sets the limit, in units of 100 W, and reads
the limit and the holds; an OP that is not listed gets RESULT 2, and an object of another kind no answer of its; a die at its junction limit lowers clocks until they are raised again; a low flow holds the
limit at 8 kW until the flow recovers and the limit last asked for stands; and 115 °C or a lost flow shuts the
module down, after which no strand issues and nothing in progress goes on. The places in the mailbox's answer are
the model's choice (log entry 47). -/
def Obligations.PowerAndHeatRequestsComplete : Prop :=
  ∀ (s : State),
    let die := s.input.place
    let h := s.input.place
    let op := bf s.input.value 7 0
    let x := bf s.input.value 31 16
    let reply := fun (u : State) => (getHub u h).doeReply
    let answer := fun (result watts : Nat) => BitVec.ofNat 32 (op + result * 2 ^ 8 + watts / 100 * 2 ^ 16)
    (h < 2 → s.input.id = doeHeader →
      (op = 1 → 80 ≤ x → x ≤ 160 →
        (s.flowHold = false → ∃ u, exec .setPowerLimit s = .next u ∧ u.powerLimit = 100 * x ∧
          u.requestedLimit = 100 * x ∧ reply u = [answer 0 (100 * x)]) ∧
        (s.flowHold = true → ∃ u, exec .setPowerLimit s = .next u ∧ u.powerLimit = s.powerLimit ∧
          u.requestedLimit = 100 * x ∧ reply u = [answer 1 s.powerLimit])) ∧
      (op = 1 → (x < 80 ∨ 160 < x) → ∃ u, exec .setPowerLimit s = .next u ∧ u.powerLimit = s.powerLimit ∧
        u.requestedLimit = s.requestedLimit ∧ reply u = [answer 2 s.powerLimit]) ∧
      (op = 2 → x = 0 → exec .readPowerLimit s =
        .next (putHub s h { getHub s h with doeReply := [answer 0 s.powerLimit] })) ∧
      (op = 3 → x = 0 → ∃ u a b c, exec .readStatus s = .next u ∧
        reply u = [answer 0 s.powerLimit, a, b, c, BitVec.ofNat 32 (s.flowHold.toNat + s.thermalLow.toNat * 2)]) ∧
      (op = 0 ∨ 4 ≤ op → ∀ i ∈ [Instr.setPowerLimit, .readPowerLimit, .readStatus],
        exec i s = .next (putHub s h { getHub s h with doeReply := [answer 2 s.powerLimit] }))) ∧
    (s.input.id ≠ doeHeader → ∀ i ∈ [Instr.setPowerLimit, .readPowerLimit, .readStatus], exec i s = .next s) ∧
    (s.input.flag = true → exec .junctionLimit s = .next { s with thermalLow := false }) ∧
    (s.input.flag = false → ∃ u, exec .junctionLimit s = .next u ∧ u.thermalLow = true ∧
      u.log = s.log ++ [.thermal die]) ∧
    (∃ u, exec .thermalShutdown s = .next u ∧ u.shutdown = true ∧ u.due = [] ∧ (∀ a, issuable u a = false) ∧
      u.log = s.log ++ [.thermal die, .shutdown]) ∧
    (∃ u, exec .flowHold s = .next u ∧ u.flowHold = true ∧ u.powerLimit = 8000 ∧
      u.requestedLimit = s.requestedLimit ∧ u.log = s.log ++ [.flow]) ∧
    (s.flowHold = true →
      exec .flowRecovery s = .next { s with flowHold := false, powerLimit := s.requestedLimit }) ∧
    (∃ u, exec .flowLoss s = .next u ∧ u.shutdown = true ∧ u.due = [] ∧ (∀ a, issuable u a = false) ∧
      u.log = s.log ++ [.flow, .shutdown])

/-- 24 R462, R463: a session opens where its path admits it, its signatures verify and a tenant's context is
registered, and not where one of the two does not verify (00 R11), and IPEND[5] is set in its scope, on the cores of its
lowest die (the model's choice, log entry 76); a maker's, once no slot waits for an access or a transfer under it, empties
every image key slot; and a session ends by request,
or after 10 s without a message, with its breakpoints and watchpoints cleared. Judgements of signatures come from
outside (log entry 61). 24 R464, R465, R471, R473, R475: the requests that set what a session watches for. Each that
passes its checks is answered 0, with its OP and the length of its answer, and one whose first doubleword is not its own
is answered 3: a breakpoint or a watchpoint stands, or is cleared, in every partition of the
scope; a trigger is set; a launch is marked for recording or for replay; and a launch in scope goes on live after
its log, or not. The operands of the requests are the model's choice (log entries 41 and 42). -/
def Obligations.DebugSessionsAndSettings : Prop :=
  (∀ (s : State),
     let k := s.input.place
     let a := s.input.ask
     let e := getSession s k
     let gone := fun u : State => getSession u k = {} ∧ ∀ p ∈ sessionParts s e,
       ((getPart u p).breaks.all fun b => b.2.sess != k) = true ∧ ((getPart u p).watches.all fun b => b.2.sess != k) = true
     (e.isOpen = false → mayOpen s a = true →
       (a.level = .maker → ∀ i, i < 256 → slotBusy s 0 i = false ∧ slotBusy s 1 i = false) →
       ∃ u, exec .sessionOpen s = .next u ∧
       (getSession u k).isOpen = true ∧ (getSession u k).maker = (a.level == .maker) ∧
       (getSession u k).context = a.context ∧ (getSession u k).part = a.part ∧ (getSession u k).nonce = a.nonce ∧
       (a.level = .tenant → (getSession u k).last = s.time ∧ ∀ i, i < 2 →
         (getCtx u (systemBase + (2 * (a.part * (24 / s.partCount)) + i))).ipend.getLsbD 5 = true) ∧
       (a.level = .maker → ∀ slot, slot < 256 → (getKey u 1 slot).key = none)) ∧
     (e.isOpen = false → (a.ed25519 ≠ .valid ∨ a.mldsa ≠ .valid) → ∃ u, exec .sessionOpen s = .next u ∧
       (getSession u k).isOpen = false ∧ (getSession u k).result = 1) ∧
     (e.isOpen = true → ∃ u, exec .endSession s = .next u ∧ gone u) ∧
     (e.isOpen = true → 10000000000 ≤ (s.time - e.last).toNat → ∃ u, exec .sessionTimeout s = .next u ∧ gone u) ∧
     (e.isOpen = true → (s.time - e.last).toNat < 10000000000 → exec .sessionTimeout s = .next s)) ∧
  (∀ (s : State),
     let k := s.input.place
     let e := { getSession s k with last := s.time }
     let t := putSession s k e
     let w := fun i => s.input.words.getD i 0
     let i := (w 0).toNat
     let ends := fun (q : Instr) (op len : Nat) (p : State → Prop) => s.input.value = payloadWord op 0 len →
       ∃ u, exec q s = .next u ∧ (getSession u k).result = 0 ∧ (getSession u k).answer = payloadWord op 0 0 ∧ p u
     let n := bf (w 3) 4 0
     let kind := bf (w 3) 9 8
     let b := fun p => mapGet ({} : Breakpoint) (getPart s p).breaks i
     let wp := fun p => mapGet ({} : Watchpoint) (getPart s p).watches i
     let freeB := ∀ p ∈ sessionParts s e, (b p).valid = true → (b p).sess = k
     let freeW := ∀ p ∈ sessionParts s e, (wp p).valid = true → (wp p).sess = k
     e.isOpen = true →
       (i < 16 → (w 1).toNat < 65536 → (w 2).toNat % 4 = 0 → (w 2).toNat < 2 ^ 57 →
         asidForeign t e (w 1).toNat = false → freeB →
           ends .setBreakpoint 0x01 32 fun u => ∀ p ∈ sessionParts s e, mapGet ({} : Breakpoint) (getPart u p).breaks i =
             { valid := true, sess := k, asid := BitVec.ofNat 16 (w 1).toNat, addr := w 2, launch := w 3 }) ∧
       (i < 16 → (e.maker = true ∨ freeB) → ends .clearBreakpoint 0x02 8 fun u => ∀ p ∈ sessionParts s e,
         (mapGet ({} : Breakpoint) (getPart u p).breaks i).valid = false) ∧
       (i < 8 → (w 1).toNat < 65536 → 3 ≤ n → n ≤ 30 → kind ≠ 0 → (w 2).toNat % 2 ^ n = 0 → (w 2).toNat < 2 ^ 57 →
         asidForeign t e (w 1).toNat = false → freeW →
           ends .setWatchpoint 0x03 32 fun u => ∀ p ∈ sessionParts s e, mapGet ({} : Watchpoint) (getPart u p).watches i =
             { valid := true, sess := k, asid := BitVec.ofNat 16 (w 1).toNat, base := w 2, log2 := n,
               kind := BitVec.ofNat 2 kind }) ∧
       (i < 8 → (e.maker = true ∨ freeW) → ends .clearWatchpoint 0x04 8 fun u => ∀ p ∈ sessionParts s e,
         (mapGet ({} : Watchpoint) (getPart u p).watches i).valid = false) ∧
       (i < 4 → bf (w 1) 2 0 ≤ 4 → bf (w 1) 2 0 ≠ 0 → triggerValue (bf (w 1) 2 0) (w 2) = true → ends .setTrigger 0x08 32 fun u =>
         (getSession u k).triggers = mapInsert e.triggers i (bf (w 1) 2 0, w 2, bitAt (w 3) 0)) ∧
       (i < 4 → bf (w 1) 2 0 = 0 → ends .setTrigger 0x08 32 fun u => (getSession u k).triggers = mapErase e.triggers i) ∧
       (i < 65536 → (w 2).toNat < 0x30000000000 → asidForeign t e i = false →
         (ends .markForRecording 0x09 32 fun u => (getSession u k).marks = e.marks ++ [(9, [w 0, w 1, w 2, w 3, w 4])]) ∧
         (ends .replay 0x0A 40 fun u => (getSession u k).marks = e.marks ++ [(10, [w 0, w 1, w 2, w 3, w 4])])) ∧
       (∀ p ∈ sessionParts s e, (getLaunch (getPart s p) i).live = true →
         inScope e (getLaunch (getPart s p) i).context p = true →
           ends .setContinueLive 0x0B 16 fun u => (getLaunch (getPart u p) i).continueLive = bitAt (w 1) 0) ∧
       (∀ q ∈ [(Instr.setBreakpoint, 0x01, 32), (.clearBreakpoint, 0x02, 8), (.setWatchpoint, 0x03, 32),
           (.clearWatchpoint, 0x04, 8), (.setCapture, 0x05, 32), (.startCapture, 0x06, 0), (.freezeCapture, 0x07, 0),
           (.setTrigger, 0x08, 32), (.markForRecording, 0x09, 32), (.replay, 0x0A, 40), (.setContinueLive, 0x0B, 16),
           (.dumpParkTable, 0x0C, 16), (.poll, 0x0D, 0), (.release, 0x0E, 32)],
         s.input.value ≠ payloadWord q.2.1 0 q.2.2 → ∃ u, exec q.1 s = .next u ∧ (getSession u k).result = 3))

/-- 24 R464, R468, R470 to R472, 25 R478: the requests that capture, hits, and keys. A capture buffer is set,
started and frozen; a core's park table and the next strand of a quad are captured as records, sealed where the warp's launch was accepted confidential; the oldest hit is
answered with its joined name and frame, and a released hit waits no more, once main memory holds neither the frame nor a table
that they need (18 R364 to R369); and a key whose seal verified is loaded into a slot of its context, once nothing waits under
it. The operands of the requests are the model's choice (log entries 41 and 44). -/
def Obligations.CapturesHitsAndKeysComplete : Prop :=
  ∀ (s : State),
    let k := s.input.place
    let e := { getSession s k with last := s.time }
    let t := putSession s k e
    let w := fun i => s.input.words.getD i 0
    let ends := fun (q : Instr) (op len : Nat) (p : State → Prop) => s.input.value = payloadWord op 0 len →
      ∃ u, exec q s = .next u ∧ (getSession u k).result = 0 ∧
        (getSession u k).answer = payloadWord op 0 (8 * (getSession u k).reply.length) ∧ p u
    let n := bf (w 1) 4 0
    let core := 32 * (w 0).toNat + (w 1).toNat
    let kind := bf (w 0) 9 8
    let slot := bf (w 0) 7 0
    let old := getSession s k
    let dated := putSession s k { old with sampledAt := s.time }
    (e.isOpen = true →
      (16 ≤ n → n ≤ 30 → (w 0).toNat % 2 ^ n = 0 → (w 0).toNat + 2 ^ n ≤ 0x30000000000 →
        ((w 2).toNat = 0 ∨ 256 ≤ (w 2).toNat ∧ (w 2).toNat ≤ 2 ^ 24) → captureAdmitted t e = true →
        bufferHeld s (getSession s k) = false →
        bufferGranted t e (w 0).toNat (2 ^ n) = true → ends .setCapture 0x05 32 fun u =>
          let x := getSession u k
          x.configured = true ∧ x.capturing = false ∧ x.frozenBuf = false ∧ x.written = 0 ∧ x.bufBase = (w 0).toNat ∧
            x.bufLog2 = n ∧ x.pages = bufferPages t e (w 0).toNat (2 ^ n) ∧ x.stopMode = bitAt (w 1) 8 ∧ x.period = (w 2).toNat ∧
            x.kinds = BitVec.ofNat 12 (w 3).toNat) ∧
      (e.configured = true →
        (captureAdmitted t e = true → ends .startCapture 0x06 0 fun u => (getSession u k).capturing = true ∧
          (getSession u k).frozenBuf = false) ∧
        (ends .freezeCapture 0x07 0 fun u => (getSession u k).frozenBuf = true)) ∧
      (∀ i p, (w 0).toNat < 24 → (w 1).toNat < 32 → (e.maker = true ∨ partOf s (w 0).toNat = e.part) →
        e.capturing = true → (getCore s core).park = [(i, p)] → p.valid = true →
          let key := 64 * core + 16 * p.quad.toNat + p.slot.toNat
          inScope e (getCtx s key).context (partOf s (w 0).toNat) = true →
            let v := captureInto t k (sealsWarp t key)
              (traceRecord t 10 0 ⟨key, trailingZeros p.strands.toNat 8⟩ (parkWord p) 0)
            s.input.value = payloadWord 0x0C 0 16 → exec .dumpParkTable s =
              .next (putSession v k { getSession v k with result := 0, reply := [], answer := payloadWord 0x0C 0 0 })) ∧
      (∀ p key since, oldestHit t e = some (p, key, since) → frameWaits s key = false →
        let f := frameOf t key
        (∀ x ∈ waitingHits t e, (s.time - x.2.2).toNat ≤ (s.time - since).toNat) ∧
        (ends .poll 0x0D 0 fun u => (getSession u k).reply = joinedName t key (bf (f.headD 0) 10 8) ++ f)) ∧
      (∀ p key since rest, waitingHits t e = (p, key, since) :: rest → frameWaits s key = false →
        ((getCtx s key).launchid = w 0 → (getCtx s key).wgid = w 1 → (getCtx s key).warpid.toNat = bf (w 2) 4 0 →
          ends .release 0x0E 32 fun u => (getPart u p).hits = eraseHit (getPart s p).hits key)) ∧
      (kind < 3 → s.input.bytes.length = (if kind = 0 then 96 else 32) → s.input.flag = true → slotBusy s kind slot = false →
        (e.maker = true ∨ (getKey s kind slot).part = some e.part ∧ (getKey s kind slot).context = e.context ∧
          e.context ≠ 0) →
          ends .loadKey 0x0F (8 + s.input.bytes.length + 16) fun u => getKey u kind slot = { getKey s kind slot with key := some s.input.bytes })) ∧
    (old.isOpen = true → old.capturing = true → old.period ≠ 0 → old.kinds.getLsbD 1 = true →
      old.period ≤ (s.time - old.sampledAt).toNat →
        (liveQuads s = [] → exec .sample s = .next dated) ∧
        (∀ q x, liveQuads s = [q] → quadStrands s { old with sampledAt := s.time } q = [x] →
          let a : Agent := ⟨16 * q + x / 8, x % 8⟩
          let v := putSession dated k { old with sampledAt := s.time, sampled := mapPut 0 old.sampled q (x + 1) }
          exec .sample s =
            .next (captureInto v k (sealsWarp v a.key) (traceRecord v 1 0 a (getStrand (getCtx s a.key) a.slot).mask (sampleData s a)))))
end

