-- ==== Sys2Proof/Laws/Sparse.lean ====
section
/-! SUPPORT. The laws of sparse maps: a read after a write, and that every operation keeps the canonical form. -/

namespace Sys2Proof.Laws

open Sys2Proof.Machine

theorem mapGet_erase_ne {α : Type} (d : α) (m : List (Nat × α)) {k j : Nat} (h : j ≠ k) :
    mapGet d (mapErase m k) j = mapGet d m j := by
  induction m with
  | nil => rfl
  | cons e rest ih =>
    obtain ⟨i, v⟩ := e
    by_cases hki : k = i
    · subst hki; simp [mapErase, mapGet, h, ih]
    · by_cases hji : j = i
      · simp [mapErase, hki, mapGet, hji]
      · simp [mapErase, hki, mapGet, hji, ih]

theorem mapGet_insert_same {α : Type} (d : α) (m : List (Nat × α)) (k : Nat) (x : α) :
    mapGet d (mapInsert m k x) k = x := by
  induction m with
  | nil => simp [mapInsert, mapGet]
  | cons e rest ih =>
    obtain ⟨i, v⟩ := e
    by_cases h1 : k < i
    · simp [mapInsert, h1, mapGet]
    · by_cases h2 : k = i
      · simp [mapInsert, h2, mapGet]
      · simp [mapInsert, h1, h2, mapGet, ih]

theorem mapGet_insert_ne {α : Type} (d : α) (m : List (Nat × α)) {k j : Nat} (x : α) (h : j ≠ k) :
    mapGet d (mapInsert m k x) j = mapGet d m j := by
  induction m with
  | nil => simp [mapInsert, mapGet, h]
  | cons e rest ih =>
    obtain ⟨i, v⟩ := e
    by_cases h1 : k < i
    · simp [mapInsert, h1, mapGet, h]
    · by_cases h2 : k = i
      · subst h2; simp [mapInsert, mapGet, h]
      · by_cases hji : j = i
        · simp [mapInsert, h1, h2, mapGet, hji]
        · simp [mapInsert, h1, h2, mapGet, hji, ih]

theorem mapWfFrom_mono {α : Type} [DecidableEq α] (d : α) (m : List (Nat × α)) {lo lo' : Nat} (h : lo' ≤ lo)
    (hm : mapWfFrom d lo m = true) : mapWfFrom d lo' m = true := by
  cases m with
  | nil => rfl
  | cons e rest =>
    obtain ⟨i, v⟩ := e
    simp only [mapWfFrom, Bool.and_eq_true, decide_eq_true_eq] at hm ⊢
    exact ⟨⟨by omega, hm.1.2⟩, hm.2⟩

theorem mapGet_below {α : Type} [DecidableEq α] (d : α) (m : List (Nat × α)) {lo k : Nat}
    (hm : mapWfFrom d lo m = true) (h : k < lo) : mapGet d m k = d := by
  induction m generalizing lo with
  | nil => rfl
  | cons e rest ih =>
    obtain ⟨i, v⟩ := e
    simp only [mapWfFrom, Bool.and_eq_true, decide_eq_true_eq] at hm
    have hki : k ≠ i := by omega
    simp only [mapGet, hki, if_false]
    exact ih hm.2 (by omega)

theorem mapGet_erase_same {α : Type} (d : α) (m : List (Nat × α)) (k : Nat) : mapGet d (mapErase m k) k = d := by
  induction m with
  | nil => rfl
  | cons e rest ih =>
    obtain ⟨i, v⟩ := e
    by_cases hki : k = i
    · simp only [mapErase, hki, if_true]
      exact hki ▸ ih
    · simp only [mapErase, hki, if_false, mapGet]
      exact ih

theorem mapWfFrom_erase {α : Type} [DecidableEq α] (d : α) (m : List (Nat × α)) {lo : Nat} (k : Nat)
    (hm : mapWfFrom d lo m = true) : mapWfFrom d lo (mapErase m k) = true := by
  induction m generalizing lo with
  | nil => rfl
  | cons e rest ih =>
    obtain ⟨i, v⟩ := e
    simp only [mapWfFrom, Bool.and_eq_true, decide_eq_true_eq] at hm
    by_cases hki : k = i
    · simp only [mapErase, hki, if_true]
      subst hki
      exact mapWfFrom_mono d _ (Nat.le_succ_of_le hm.1.1) (ih hm.2)
    · simp only [mapErase, hki, if_false, mapWfFrom, Bool.and_eq_true, decide_eq_true_eq]
      exact ⟨hm.1, ih hm.2⟩

theorem mapWfFrom_insert {α : Type} [DecidableEq α] (d : α) (m : List (Nat × α)) {lo : Nat} (k : Nat) (x : α)
    (hx : x ≠ d) (hk : lo ≤ k) (hm : mapWfFrom d lo m = true) :
    mapWfFrom d lo (mapInsert m k x) = true := by
  induction m generalizing lo with
  | nil => simp [mapInsert, mapWfFrom, hx, hk]
  | cons e rest ih =>
    obtain ⟨i, v⟩ := e
    simp only [mapWfFrom, Bool.and_eq_true, decide_eq_true_eq] at hm
    by_cases h1 : k < i
    · simp only [mapInsert, h1, if_true, mapWfFrom, Bool.and_eq_true, decide_eq_true_eq]
      exact ⟨⟨hk, hx⟩, ⟨by omega, hm.1.2⟩, hm.2⟩
    · by_cases h2 : k = i
      · subst h2
        simp only [mapInsert, lt_irrefl, if_false, if_true, mapWfFrom, Bool.and_eq_true, decide_eq_true_eq]
        exact ⟨⟨hk, hx⟩, hm.2⟩
      · simp only [mapInsert, h1, h2, if_false, mapWfFrom, Bool.and_eq_true, decide_eq_true_eq]
        exact ⟨hm.1, ih (by omega) hm.2⟩

/-- A write keeps the canonical form. -/
theorem mapWf_put {α : Type} [DecidableEq α] (d : α) (m : List (Nat × α)) (k : Nat) (x : α)
    (hm : mapWf d m = true) : mapWf d (mapPut d m k x) = true := by
  unfold mapPut mapWf at *
  split
  · exact mapWfFrom_erase d m k hm
  · exact mapWfFrom_insert d m k x ‹_› (Nat.zero_le _) hm

/-- A read of the key just written gives the value written. -/
@[simp] theorem mapGet_put_same {α : Type} [DecidableEq α] (d : α) (m : List (Nat × α)) (k : Nat) (x : α) :
    mapGet d (mapPut d m k x) k = x := by
  unfold mapPut
  split
  · next h => rw [h]; exact mapGet_erase_same d m k
  · exact mapGet_insert_same d m k x

/-- A write leaves every other key alone. -/
theorem mapGet_put_ne {α : Type} [DecidableEq α] (d : α) (m : List (Nat × α)) {k j : Nat} (x : α) (h : j ≠ k) :
    mapGet d (mapPut d m k x) j = mapGet d m j := by
  unfold mapPut
  split
  · exact mapGet_erase_ne d m h
  · exact mapGet_insert_ne d m x h

end Sys2Proof.Laws
end

