-- ==== Sys2Proof/Laws/Memory.lean ====
section
/-! SUPPORT. The laws of memory: every operation on its cells keeps the canonical form, a byte just written reads as it was
written, and every other byte reads as before. -/

namespace Sys2Proof.Laws

open Sys2Proof.Machine

/-- A form of two parts, the second from a bound above the first. -/
theorem mapWfFrom_append {α : Type} [DecidableEq α] (d : α) (a b : List (Nat × α)) {lo hi : Nat} (h : lo ≤ hi)
    (ha : mapWfFrom d lo a = true) (hlt : ∀ e ∈ a, e.1 < hi) (hb : mapWfFrom d hi b = true) :
    mapWfFrom d lo (a ++ b) = true := by
  induction a generalizing lo with
  | nil => exact mapWfFrom_mono d b h hb
  | cons e rest ih =>
    obtain ⟨i, v⟩ := e
    simp only [mapWfFrom, List.cons_append, Bool.and_eq_true, decide_eq_true_eq] at ha ⊢
    exact ⟨ha.1, ih (hlt (i, v) (by simp)) ha.2 fun e he => hlt e (by simp [he])⟩

/-- The entries from a bound up. -/
theorem mapWfFrom_filter {α : Type} [DecidableEq α] (d : α) (m : List (Nat × α)) (p : Nat × α → Bool) {lo hi : Nat}
    (hm : mapWfFrom d lo m = true) (hp : ∀ e, p e = true → lo ≤ e.1 → hi ≤ e.1) : mapWfFrom d hi (m.filter p) = true := by
  induction m generalizing lo hi with
  | nil => rfl
  | cons e rest ih =>
    obtain ⟨i, v⟩ := e
    simp only [mapWfFrom, Bool.and_eq_true, decide_eq_true_eq] at hm
    by_cases hpe : p (i, v) = true
    · simp only [List.filter_cons, hpe, if_true, mapWfFrom, Bool.and_eq_true, decide_eq_true_eq]
      exact ⟨⟨hp _ hpe hm.1.1, hm.1.2⟩, ih hm.2 fun e _ h => h⟩
    · simp only [List.filter_cons, hpe, Bool.false_eq_true, if_false]
      exact ih hm.2 fun e he h => hp e he (by omega)

theorem cellRun_wf (place : Nat) (bs : List Byte) : mapWfFrom unlistedByte place (cellRun place bs) = true := by
  induction bs generalizing place with
  | nil => rfl
  | cons b rest ih =>
    by_cases hb : b = unlistedByte
    · simp only [cellRun, hb, if_true]
      exact mapWfFrom_mono _ _ (Nat.le_succ _) (ih _)
    · simp only [cellRun, hb, if_false, mapWfFrom, Bool.and_eq_true, decide_eq_true_eq]
      exact ⟨⟨le_refl _, hb⟩, ih _⟩

theorem cellRun_below (place : Nat) (bs : List Byte) : ∀ e ∈ cellRun place bs, e.1 < place + bs.length := by
  induction bs generalizing place with
  | nil => simp [cellRun]
  | cons b rest ih =>
    intro e he
    have hrest : e ∈ cellRun (place + 1) rest → e.1 < place + (b :: rest).length := fun h => by
      have := ih (place + 1) e h
      simp only [List.length_cons]; omega
    by_cases hb : b = unlistedByte
    · simp only [cellRun, hb, if_true] at he
      exact hrest he
    · simp only [cellRun, hb, if_false, List.mem_cons] at he
      rcases he with rfl | he
      · simp
      · exact hrest he

/-- The cells below a place followed by ones from it up. -/
theorem wf_below_append (m b : List Host.Cell) {place : Nat} (hm : Memory.wf m)
    (hb : mapWfFrom unlistedByte place b = true) :
    Memory.wf (m.filter (fun c => decide (c.1 < place)) ++ b) :=
  mapWfFrom_append _ _ _ (Nat.zero_le _) (mapWfFrom_filter _ _ _ hm fun _ _ h => h) (fun e he => by simpa using
    (List.mem_filter.mp he).2) hb

/-- A write of bytes keeps the canonical form of memory. -/
theorem writeCells_wf (m : List Host.Cell) (place : Nat) (bs : List Byte) (hm : Memory.wf m) :
    Memory.wf (writeCells m place bs) := by
  unfold writeCells
  rw [List.append_assoc]
  exact wf_below_append m _ hm (mapWfFrom_append _ _ _ (Nat.le_add_right _ _) (cellRun_wf place bs)
    (cellRun_below place bs) (mapWfFrom_filter _ _ _ hm fun e he _ => by simpa using he))

theorem writeBytes_wf (s : State) (place : Nat) (bs : List Byte) (bad : Bool) (hm : Memory.wf s.mem) :
    Memory.wf (writeBytes s place bs bad).mem := writeCells_wf s.mem place bs hm

/-- Clearing bytes keeps the canonical form of memory. -/
theorem clearBytes_wf (s : State) (place n : Nat) (hm : Memory.wf s.mem) : Memory.wf (clearBytes s place n).mem :=
  wf_below_append s.mem _ hm (mapWfFrom_filter _ _ _ hm fun e he _ => le_trans (Nat.le_add_right _ n) (by simpa using he))

/-! ## Reads -/

theorem mapGet_append_above {α : Type} [DecidableEq α] (d : α) (a b : List (Nat × α)) {hi k : Nat} (hk : k < hi)
    (hb : mapWfFrom d hi b = true) : mapGet d (a ++ b) k = mapGet d a k := by
  induction a with
  | nil => exact mapGet_below d b hb hk
  | cons e rest ih =>
    obtain ⟨i, v⟩ := e
    simp [mapGet, ih]

theorem mapGet_append_below {α : Type} (d : α) (a b : List (Nat × α)) {k : Nat} (ha : ∀ e ∈ a, e.1 ≠ k) :
    mapGet d (a ++ b) k = mapGet d b k := by
  induction a with
  | nil => rfl
  | cons e rest ih =>
    obtain ⟨i, v⟩ := e
    have hi : k ≠ i := fun h => ha (i, v) (by simp) h.symm
    simpa [mapGet, hi] using ih fun e he => ha e (by simp [he])

theorem mapGet_filter {α : Type} (d : α) (m : List (Nat × α)) (p : Nat → Bool) {k : Nat} (hk : p k = true) :
    mapGet d (m.filter fun c => p c.1) k = mapGet d m k := by
  induction m with
  | nil => rfl
  | cons e rest ih =>
    obtain ⟨i, v⟩ := e
    by_cases hki : k = i
    · subst hki; simp [hk, mapGet]
    · by_cases hp : p i = true
      · simp [hp, mapGet, hki, ih]
      · simp [hp, mapGet, hki, ih]

theorem mapGet_cellRun (place i : Nat) (bs : List Byte) :
    mapGet unlistedByte (cellRun place bs) (place + i) = bs.getD i unlistedByte := by
  induction bs generalizing place i with
  | nil => simp [cellRun, mapGet]
  | cons b rest ih =>
    cases i with
    | zero =>
      by_cases hb : b = unlistedByte
      · simp only [cellRun, hb, if_true, Nat.add_zero, List.getD_cons_zero]
        exact mapGet_below _ _ (cellRun_wf (place + 1) rest) (Nat.lt_succ_self _)
      · simp [cellRun, hb, mapGet]
    | succ i =>
      have hne : place + (i + 1) ≠ place := by omega
      have hs : place + (i + 1) = place + 1 + i := by omega
      by_cases hb : b = unlistedByte
      · simp only [cellRun, hb, if_true, List.getD_cons_succ]
        rw [hs]; exact ih (place + 1) i
      · simp only [cellRun, hb, if_false, mapGet, hne, List.getD_cons_succ]
        rw [hs]; exact ih (place + 1) i

/-- A byte just written reads as it was written. -/
theorem writeCells_same (m : List Host.Cell) (place i : Nat) (bs : List Byte) (hm : Memory.wf m) (hi : i < bs.length) :
    mapGet unlistedByte (writeCells m place bs) (place + i) = bs.getD i unlistedByte := by
  unfold writeCells
  rw [mapGet_append_above (hi := place + bs.length) _ _ _ (by omega)
      (mapWfFrom_filter _ _ _ hm fun e he _ => by simpa using he),
    mapGet_append_below _ _ _ fun e he => by have := (List.mem_filter.mp he).2; simp at this; omega]
  exact mapGet_cellRun place i bs

/-- A write leaves every other byte as it was. -/
theorem writeCells_other (m : List Host.Cell) (place a : Nat) (bs : List Byte) (hm : Memory.wf m)
    (ha : a < place ∨ place + bs.length ≤ a) :
    mapGet unlistedByte (writeCells m place bs) a = mapGet unlistedByte m a := by
  have habove := mapWfFrom_filter unlistedByte m (fun c => decide (place + bs.length ≤ c.1)) (hi := place + bs.length) hm
    fun e he _ => by simpa using he
  unfold writeCells
  rcases ha with h | h
  · rw [mapGet_append_above (hi := place + bs.length) _ _ _ (by omega) habove,
      mapGet_append_above (hi := place) _ _ _ h (cellRun_wf place bs)]
    exact mapGet_filter _ m (fun j => decide (j < place)) (by simpa using h)
  · rw [mapGet_append_below _ _ _ fun e he => by
      rcases List.mem_append.mp he with he | he
      · have := (List.mem_filter.mp he).2; simp at this; omega
      · have := cellRun_below place bs e he; omega]
    exact mapGet_filter _ m (fun j => decide (place + bs.length ≤ j)) (by simpa using h)

end Sys2Proof.Laws
end

