-- ==== Sys2Proof/Laws/Ops.lean ====
section
/-! SUPPORT. What the shared operations answer: one lemma for each way in which reading an operand, claiming a
destination and a guard come out. -/

namespace Sys2Proof.Laws

open Sys2Proof Sys2Proof.Machine

theorem rdS_holds {s : State} {n : BitVec 6} {x : Word} (h : holdsS s n x) : rdS s n = .ok x := by
  unfold holdsS at h; simp [rdS, h]

theorem rdS_empty {s : State} {n : BitVec 6} (h : (getS (cur s) n.toNat).fill ≠ .full) :
    rdS s n = .error (.wait .fullEmpty) := by
  simp [rdS, h]

theorem rdS_poison {s : State} {n : BitVec 6} (hf : (getS (cur s) n.toNat).fill = .full)
    (hp : (getS (cur s) n.toNat).poison = true) : rdS s n = .error (.trap 0x14 0 (poisonS n.toNat)) := by
  simp [rdS, hf, hp]

theorem freeS_writable {s : State} {n : BitVec 6} (h : writableS s n) : freeS s n = .ok () := by
  unfold writableS at h; simp [freeS, await, bne_iff_ne, h]

theorem freeS_pending {s : State} {n : BitVec 6} (h : ¬writableS s n) : freeS s n = .error (.wait .fullEmpty) := by
  unfold writableS at h; simp [freeS, await, not_not.mp h]

theorem srcB_operand {s : State} {b : BitVec 6} {i : BitVec 1} {y : Word} (h : operandB s b i y) :
    srcB s b i = .ok y := by
  rcases h with ⟨rfl, rfl⟩ | ⟨rfl, h⟩
  · rfl
  · simp [srcB, rdS_holds h]

theorem vxD_names {s : State} {d : BitVec 6} {r : Nat} (h : namesV s d (curStrand s).overD r) : vxD s d = .ok r := by
  obtain ⟨rfl, h⟩ := h; simp [vxD, vxAt, h]

theorem vxA_names {s : State} {a : BitVec 6} {r : Nat} (h : namesV s a (curStrand s).overA r) : vxA s a = .ok r := by
  obtain ⟨rfl, h⟩ := h; simp [vxA, vxAt, h]

theorem vxB_names {s : State} {b : BitVec 6} {r : Nat} (h : namesV s b (curStrand s).overB r) : vxB s b = .ok r := by
  obtain ⟨rfl, h⟩ := h; simp [vxB, vxAt, h]

theorem rdV_hold {s : State} {fe : BitVec 1} {regs lanes : List Nat} (h : lanesHold s regs lanes) :
    rdV s fe regs lanes = .ok () := by
  have h1 : someLane (cur s) (fun r => r.fill != .full) regs lanes = false := by
    simp only [someLane, List.any_eq_false]
    intro l hl; simp only [Bool.not_eq_true, List.any_eq_false, bne_iff_ne, ne_eq, not_not]
    exact fun r hr => (h l hl r hr).1
  have h2 : firstPoison (cur s) regs lanes = none := by
    simp only [firstPoison, List.findSome?_eq_none_iff, Option.map_eq_none_iff, List.find?_eq_none]
    exact fun l hl r hr => by simp [(h l hl r hr).2]
  simp [rdV, h1, h2]

theorem freeV_free {s : State} {regs lanes : List Nat} (h : lanesFree s regs lanes) :
    freeV s regs lanes = .ok () := by
  have h1 : someLane (cur s) (fun r => r.fill == .pending) regs lanes = false := by
    simp only [someLane, List.any_eq_false]
    intro l hl; simp only [Bool.not_eq_true, List.any_eq_false, beq_iff_eq]
    exact fun r hr => (h l hl r hr).1
  have h2 : (!lanes.isEmpty && regs.any fun r => heldRegister s s.focus.key r) = false := by
    cases lanes with
    | nil => rfl
    | cons l ls =>
      simp only [List.isEmpty_cons, Bool.not_false, Bool.true_and, List.any_eq_false, Bool.not_eq_true]
      exact fun r hr => (h l (List.mem_cons_self) r hr).2
  simp [freeV, h1, h2]

theorem nextReg_fits {s : State} {r k : Nat} (h : runFits s r k) : nextReg s r k = .ok (r + k) := by
  unfold runFits at h; simp [nextReg, h]

theorem need_true (c : BitVec 8) : need true c = .ok () := rfl
theorem need_false (c : BitVec 8) : need false c = .error (.trap c 0 0) := rfl
theorem await_true (w : Why) : await true w = .ok () := rfl
theorem await_false (w : Why) : await false w = .error (.wait w) := rfl

/-- Accesses that pass their checks, no walk of theirs held, go on. -/
theorem checked_passes {s : State} {a : Acc} {n : Nat} {addrs : List Nat} (h : accessesPass s a n addrs) :
    checked s a n addrs = .ok () := by
  unfold accessesPass at h; simp [checked, h.1, h.2, await, passed, Bind.bind, Except.bind]

theorem guarded_on {s : State} {g : BitVec 3} (body : State → Res State) (h : guardP s g = true) :
    guarded g body s = body s := by
  simp [guarded, h]

theorem guarded_off {s : State} {g : BitVec 3} (body : State → Res State) (h : guardP s g = false) :
    guarded g body s = .ok (retire s 1) := by
  simp [guarded, h]

end Sys2Proof.Laws
end

