-- ==== Sys2Proof/Laws/State.lean ====
section
/-! SUPPORT. The fields of the state after each of its updates: what an update leaves as it is, and that a read of the
part just written gives what was written. -/

namespace Sys2Proof.Laws

open Sys2Proof Sys2Proof.Machine

/-! ## The parts of the module -/

@[simp] theorem putCtx_mem (s : State) (k : Nat) (x : Ctx) : (putCtx s k x).mem = s.mem := rfl
@[simp] theorem putCtx_poison (s : State) (k : Nat) (x : Ctx) : (putCtx s k x).poison = s.poison := rfl
@[simp] theorem putCtx_heldWrites (s : State) (k : Nat) (x : Ctx) : (putCtx s k x).heldWrites = s.heldWrites := rfl
@[simp] theorem putCtx_shutdown (s : State) (k : Nat) (x : Ctx) : (putCtx s k x).shutdown = s.shutdown := rfl
@[simp] theorem putCtx_powered (s : State) (k : Nat) (x : Ctx) : (putCtx s k x).powered = s.powered := rfl
@[simp] theorem putCtx_log (s : State) (k : Nat) (x : Ctx) : (putCtx s k x).log = s.log := rfl
@[simp] theorem putCtx_time (s : State) (k : Nat) (x : Ctx) : (putCtx s k x).time = s.time := rfl
@[simp] theorem putCtx_focus (s : State) (k : Nat) (x : Ctx) : (putCtx s k x).focus = s.focus := rfl
@[simp] theorem putCtx_cores (s : State) (k : Nat) (x : Ctx) : (putCtx s k x).cores = s.cores := rfl
@[simp] theorem putCtx_wgs (s : State) (k : Nat) (x : Ctx) : (putCtx s k x).wgs = s.wgs := rfl
@[simp] theorem putCtx_parts (s : State) (k : Nat) (x : Ctx) : (putCtx s k x).parts = s.parts := rfl
@[simp] theorem putCtx_partCount (s : State) (k : Nat) (x : Ctx) : (putCtx s k x).partCount = s.partCount := rfl
@[simp] theorem putCtx_dies (s : State) (k : Nat) (x : Ctx) : (putCtx s k x).dies = s.dies := rfl
@[simp] theorem putCtx_hubs (s : State) (k : Nat) (x : Ctx) : (putCtx s k x).hubs = s.hubs := rfl
@[simp] theorem putCtx_lines (s : State) (k : Nat) (x : Ctx) : (putCtx s k x).lines = s.lines := rfl
@[simp] theorem putCtx_domains (s : State) (k : Nat) (x : Ctx) : (putCtx s k x).domains = s.domains := rfl
@[simp] theorem putCtx_memStacks (s : State) (k : Nat) (x : Ctx) : (putCtx s k x).memStacks = s.memStacks := rfl
@[simp] theorem putCtx_keys (s : State) (k : Nat) (x : Ctx) : (putCtx s k x).keys = s.keys := rfl
@[simp] theorem putCtx_tlbs (s : State) (k : Nat) (x : Ctx) : (putCtx s k x).tlbs = s.tlbs := rfl
@[simp] theorem putCtx_sessions (s : State) (k : Nat) (x : Ctx) : (putCtx s k x).sessions = s.sessions := rfl
@[simp] theorem putCtx_due (s : State) (k : Nat) (x : Ctx) : (putCtx s k x).due = s.due := rfl
@[simp] theorem putCtx_agenda (s : State) (k : Nat) (x : Ctx) : (putCtx s k x).agenda = s.agenda := rfl
@[simp] theorem putCtx_input (s : State) (k : Nat) (x : Ctx) : (putCtx s k x).input = s.input := rfl
@[simp] theorem getCtx_putCtx (s : State) (k : Nat) (x : Ctx) : getCtx (putCtx s k x) k = x := mapGet_put_same _ _ _ _
theorem getCtx_putCtx_ne (s : State) {k j : Nat} (x : Ctx) (h : j ≠ k) : getCtx (putCtx s k x) j = getCtx s j :=
  mapGet_put_ne _ _ _ h
@[simp] theorem getCore_putCtx (s : State) (k j : Nat) (x : Ctx) : getCore (putCtx s k x) j = getCore s j := rfl
@[simp] theorem getWg_putCtx (s : State) (k j : Nat) (x : Ctx) : getWg (putCtx s k x) j = getWg s j := rfl
@[simp] theorem getPart_putCtx (s : State) (k j : Nat) (x : Ctx) : getPart (putCtx s k x) j = getPart s j := rfl
@[simp] theorem getDie_putCtx (s : State) (k j : Nat) (x : Ctx) : getDie (putCtx s k x) j = getDie s j := rfl
@[simp] theorem getHub_putCtx (s : State) (k j : Nat) (x : Ctx) : getHub (putCtx s k x) j = getHub s j := rfl
@[simp] theorem getStack_putCtx (s : State) (k j : Nat) (x : Ctx) : getStack (putCtx s k x) j = getStack s j := rfl
@[simp] theorem getDomain_putCtx (s : State) (k j : Nat) (x : Ctx) : getDomain (putCtx s k x) j = getDomain s j := rfl
@[simp] theorem getSession_putCtx (s : State) (k j : Nat) (x : Ctx) : getSession (putCtx s k x) j = getSession s j := rfl

@[simp] theorem putCore_mem (s : State) (k : Nat) (x : Core) : (putCore s k x).mem = s.mem := rfl
@[simp] theorem putCore_poison (s : State) (k : Nat) (x : Core) : (putCore s k x).poison = s.poison := rfl
@[simp] theorem putCore_heldWrites (s : State) (k : Nat) (x : Core) : (putCore s k x).heldWrites = s.heldWrites := rfl
@[simp] theorem putCore_shutdown (s : State) (k : Nat) (x : Core) : (putCore s k x).shutdown = s.shutdown := rfl
@[simp] theorem putCore_powered (s : State) (k : Nat) (x : Core) : (putCore s k x).powered = s.powered := rfl
@[simp] theorem putCore_log (s : State) (k : Nat) (x : Core) : (putCore s k x).log = s.log := rfl
@[simp] theorem putCore_time (s : State) (k : Nat) (x : Core) : (putCore s k x).time = s.time := rfl
@[simp] theorem putCore_focus (s : State) (k : Nat) (x : Core) : (putCore s k x).focus = s.focus := rfl
@[simp] theorem putCore_ctxs (s : State) (k : Nat) (x : Core) : (putCore s k x).ctxs = s.ctxs := rfl
@[simp] theorem putCore_wgs (s : State) (k : Nat) (x : Core) : (putCore s k x).wgs = s.wgs := rfl
@[simp] theorem putCore_parts (s : State) (k : Nat) (x : Core) : (putCore s k x).parts = s.parts := rfl
@[simp] theorem putCore_partCount (s : State) (k : Nat) (x : Core) : (putCore s k x).partCount = s.partCount := rfl
@[simp] theorem putCore_dies (s : State) (k : Nat) (x : Core) : (putCore s k x).dies = s.dies := rfl
@[simp] theorem putCore_hubs (s : State) (k : Nat) (x : Core) : (putCore s k x).hubs = s.hubs := rfl
@[simp] theorem putCore_lines (s : State) (k : Nat) (x : Core) : (putCore s k x).lines = s.lines := rfl
@[simp] theorem putCore_domains (s : State) (k : Nat) (x : Core) : (putCore s k x).domains = s.domains := rfl
@[simp] theorem putCore_memStacks (s : State) (k : Nat) (x : Core) : (putCore s k x).memStacks = s.memStacks := rfl
@[simp] theorem putCore_keys (s : State) (k : Nat) (x : Core) : (putCore s k x).keys = s.keys := rfl
@[simp] theorem putCore_tlbs (s : State) (k : Nat) (x : Core) : (putCore s k x).tlbs = s.tlbs := rfl
@[simp] theorem putCore_sessions (s : State) (k : Nat) (x : Core) : (putCore s k x).sessions = s.sessions := rfl
@[simp] theorem putCore_due (s : State) (k : Nat) (x : Core) : (putCore s k x).due = s.due := rfl
@[simp] theorem putCore_agenda (s : State) (k : Nat) (x : Core) : (putCore s k x).agenda = s.agenda := rfl
@[simp] theorem putCore_input (s : State) (k : Nat) (x : Core) : (putCore s k x).input = s.input := rfl
@[simp] theorem getCore_putCore (s : State) (k : Nat) (x : Core) : getCore (putCore s k x) k = x := mapGet_put_same _ _ _ _
theorem getCore_putCore_ne (s : State) {k j : Nat} (x : Core) (h : j ≠ k) : getCore (putCore s k x) j = getCore s j :=
  mapGet_put_ne _ _ _ h
@[simp] theorem getCtx_putCore (s : State) (k j : Nat) (x : Core) : getCtx (putCore s k x) j = getCtx s j := rfl
@[simp] theorem getWg_putCore (s : State) (k j : Nat) (x : Core) : getWg (putCore s k x) j = getWg s j := rfl
@[simp] theorem getPart_putCore (s : State) (k j : Nat) (x : Core) : getPart (putCore s k x) j = getPart s j := rfl
@[simp] theorem getDie_putCore (s : State) (k j : Nat) (x : Core) : getDie (putCore s k x) j = getDie s j := rfl
@[simp] theorem getHub_putCore (s : State) (k j : Nat) (x : Core) : getHub (putCore s k x) j = getHub s j := rfl
@[simp] theorem getStack_putCore (s : State) (k j : Nat) (x : Core) : getStack (putCore s k x) j = getStack s j := rfl
@[simp] theorem getDomain_putCore (s : State) (k j : Nat) (x : Core) : getDomain (putCore s k x) j = getDomain s j := rfl
@[simp] theorem getSession_putCore (s : State) (k j : Nat) (x : Core) : getSession (putCore s k x) j = getSession s j := rfl

@[simp] theorem putWg_mem (s : State) (k : Nat) (x : Workgroup) : (putWg s k x).mem = s.mem := rfl
@[simp] theorem putWg_poison (s : State) (k : Nat) (x : Workgroup) : (putWg s k x).poison = s.poison := rfl
@[simp] theorem putWg_heldWrites (s : State) (k : Nat) (x : Workgroup) : (putWg s k x).heldWrites = s.heldWrites := rfl
@[simp] theorem putWg_shutdown (s : State) (k : Nat) (x : Workgroup) : (putWg s k x).shutdown = s.shutdown := rfl
@[simp] theorem putWg_powered (s : State) (k : Nat) (x : Workgroup) : (putWg s k x).powered = s.powered := rfl
@[simp] theorem putWg_log (s : State) (k : Nat) (x : Workgroup) : (putWg s k x).log = s.log := rfl
@[simp] theorem putWg_time (s : State) (k : Nat) (x : Workgroup) : (putWg s k x).time = s.time := rfl
@[simp] theorem putWg_focus (s : State) (k : Nat) (x : Workgroup) : (putWg s k x).focus = s.focus := rfl
@[simp] theorem putWg_ctxs (s : State) (k : Nat) (x : Workgroup) : (putWg s k x).ctxs = s.ctxs := rfl
@[simp] theorem putWg_cores (s : State) (k : Nat) (x : Workgroup) : (putWg s k x).cores = s.cores := rfl
@[simp] theorem putWg_parts (s : State) (k : Nat) (x : Workgroup) : (putWg s k x).parts = s.parts := rfl
@[simp] theorem putWg_partCount (s : State) (k : Nat) (x : Workgroup) : (putWg s k x).partCount = s.partCount := rfl
@[simp] theorem putWg_dies (s : State) (k : Nat) (x : Workgroup) : (putWg s k x).dies = s.dies := rfl
@[simp] theorem putWg_hubs (s : State) (k : Nat) (x : Workgroup) : (putWg s k x).hubs = s.hubs := rfl
@[simp] theorem putWg_lines (s : State) (k : Nat) (x : Workgroup) : (putWg s k x).lines = s.lines := rfl
@[simp] theorem putWg_domains (s : State) (k : Nat) (x : Workgroup) : (putWg s k x).domains = s.domains := rfl
@[simp] theorem putWg_memStacks (s : State) (k : Nat) (x : Workgroup) : (putWg s k x).memStacks = s.memStacks := rfl
@[simp] theorem putWg_keys (s : State) (k : Nat) (x : Workgroup) : (putWg s k x).keys = s.keys := rfl
@[simp] theorem putWg_tlbs (s : State) (k : Nat) (x : Workgroup) : (putWg s k x).tlbs = s.tlbs := rfl
@[simp] theorem putWg_sessions (s : State) (k : Nat) (x : Workgroup) : (putWg s k x).sessions = s.sessions := rfl
@[simp] theorem putWg_due (s : State) (k : Nat) (x : Workgroup) : (putWg s k x).due = s.due := rfl
@[simp] theorem putWg_agenda (s : State) (k : Nat) (x : Workgroup) : (putWg s k x).agenda = s.agenda := rfl
@[simp] theorem putWg_input (s : State) (k : Nat) (x : Workgroup) : (putWg s k x).input = s.input := rfl
@[simp] theorem getWg_putWg (s : State) (k : Nat) (x : Workgroup) : getWg (putWg s k x) k = x := mapGet_put_same _ _ _ _
theorem getWg_putWg_ne (s : State) {k j : Nat} (x : Workgroup) (h : j ≠ k) : getWg (putWg s k x) j = getWg s j :=
  mapGet_put_ne _ _ _ h
@[simp] theorem getCtx_putWg (s : State) (k j : Nat) (x : Workgroup) : getCtx (putWg s k x) j = getCtx s j := rfl
@[simp] theorem getCore_putWg (s : State) (k j : Nat) (x : Workgroup) : getCore (putWg s k x) j = getCore s j := rfl
@[simp] theorem getPart_putWg (s : State) (k j : Nat) (x : Workgroup) : getPart (putWg s k x) j = getPart s j := rfl
@[simp] theorem getDie_putWg (s : State) (k j : Nat) (x : Workgroup) : getDie (putWg s k x) j = getDie s j := rfl
@[simp] theorem getHub_putWg (s : State) (k j : Nat) (x : Workgroup) : getHub (putWg s k x) j = getHub s j := rfl
@[simp] theorem getStack_putWg (s : State) (k j : Nat) (x : Workgroup) : getStack (putWg s k x) j = getStack s j := rfl
@[simp] theorem getDomain_putWg (s : State) (k j : Nat) (x : Workgroup) : getDomain (putWg s k x) j = getDomain s j := rfl
@[simp] theorem getSession_putWg (s : State) (k j : Nat) (x : Workgroup) : getSession (putWg s k x) j = getSession s j := rfl

@[simp] theorem putPart_mem (s : State) (k : Nat) (x : Partition) : (putPart s k x).mem = s.mem := rfl
@[simp] theorem putPart_poison (s : State) (k : Nat) (x : Partition) : (putPart s k x).poison = s.poison := rfl
@[simp] theorem putPart_heldWrites (s : State) (k : Nat) (x : Partition) : (putPart s k x).heldWrites = s.heldWrites := rfl
@[simp] theorem putPart_shutdown (s : State) (k : Nat) (x : Partition) : (putPart s k x).shutdown = s.shutdown := rfl
@[simp] theorem putPart_powered (s : State) (k : Nat) (x : Partition) : (putPart s k x).powered = s.powered := rfl
@[simp] theorem putPart_log (s : State) (k : Nat) (x : Partition) : (putPart s k x).log = s.log := rfl
@[simp] theorem putPart_time (s : State) (k : Nat) (x : Partition) : (putPart s k x).time = s.time := rfl
@[simp] theorem putPart_focus (s : State) (k : Nat) (x : Partition) : (putPart s k x).focus = s.focus := rfl
@[simp] theorem putPart_ctxs (s : State) (k : Nat) (x : Partition) : (putPart s k x).ctxs = s.ctxs := rfl
@[simp] theorem putPart_cores (s : State) (k : Nat) (x : Partition) : (putPart s k x).cores = s.cores := rfl
@[simp] theorem putPart_wgs (s : State) (k : Nat) (x : Partition) : (putPart s k x).wgs = s.wgs := rfl
@[simp] theorem putPart_partCount (s : State) (k : Nat) (x : Partition) : (putPart s k x).partCount = s.partCount := rfl
@[simp] theorem putPart_dies (s : State) (k : Nat) (x : Partition) : (putPart s k x).dies = s.dies := rfl
@[simp] theorem putPart_hubs (s : State) (k : Nat) (x : Partition) : (putPart s k x).hubs = s.hubs := rfl
@[simp] theorem putPart_lines (s : State) (k : Nat) (x : Partition) : (putPart s k x).lines = s.lines := rfl
@[simp] theorem putPart_domains (s : State) (k : Nat) (x : Partition) : (putPart s k x).domains = s.domains := rfl
@[simp] theorem putPart_memStacks (s : State) (k : Nat) (x : Partition) : (putPart s k x).memStacks = s.memStacks := rfl
@[simp] theorem putPart_keys (s : State) (k : Nat) (x : Partition) : (putPart s k x).keys = s.keys := rfl
@[simp] theorem putPart_tlbs (s : State) (k : Nat) (x : Partition) : (putPart s k x).tlbs = s.tlbs := rfl
@[simp] theorem putPart_sessions (s : State) (k : Nat) (x : Partition) : (putPart s k x).sessions = s.sessions := rfl
@[simp] theorem putPart_due (s : State) (k : Nat) (x : Partition) : (putPart s k x).due = s.due := rfl
@[simp] theorem putPart_agenda (s : State) (k : Nat) (x : Partition) : (putPart s k x).agenda = s.agenda := rfl
@[simp] theorem putPart_input (s : State) (k : Nat) (x : Partition) : (putPart s k x).input = s.input := rfl
@[simp] theorem getPart_putPart (s : State) (k : Nat) (x : Partition) : getPart (putPart s k x) k = x := mapGet_put_same _ _ _ _
theorem getPart_putPart_ne (s : State) {k j : Nat} (x : Partition) (h : j ≠ k) : getPart (putPart s k x) j = getPart s j :=
  mapGet_put_ne _ _ _ h
@[simp] theorem getCtx_putPart (s : State) (k j : Nat) (x : Partition) : getCtx (putPart s k x) j = getCtx s j := rfl
@[simp] theorem getCore_putPart (s : State) (k j : Nat) (x : Partition) : getCore (putPart s k x) j = getCore s j := rfl
@[simp] theorem getWg_putPart (s : State) (k j : Nat) (x : Partition) : getWg (putPart s k x) j = getWg s j := rfl
@[simp] theorem getDie_putPart (s : State) (k j : Nat) (x : Partition) : getDie (putPart s k x) j = getDie s j := rfl
@[simp] theorem getHub_putPart (s : State) (k j : Nat) (x : Partition) : getHub (putPart s k x) j = getHub s j := rfl
@[simp] theorem getStack_putPart (s : State) (k j : Nat) (x : Partition) : getStack (putPart s k x) j = getStack s j := rfl
@[simp] theorem getDomain_putPart (s : State) (k j : Nat) (x : Partition) : getDomain (putPart s k x) j = getDomain s j := rfl
@[simp] theorem getSession_putPart (s : State) (k j : Nat) (x : Partition) : getSession (putPart s k x) j = getSession s j := rfl

@[simp] theorem putDie_mem (s : State) (k : Nat) (x : Die) : (putDie s k x).mem = s.mem := rfl
@[simp] theorem putDie_poison (s : State) (k : Nat) (x : Die) : (putDie s k x).poison = s.poison := rfl
@[simp] theorem putDie_heldWrites (s : State) (k : Nat) (x : Die) : (putDie s k x).heldWrites = s.heldWrites := rfl
@[simp] theorem putDie_shutdown (s : State) (k : Nat) (x : Die) : (putDie s k x).shutdown = s.shutdown := rfl
@[simp] theorem putDie_powered (s : State) (k : Nat) (x : Die) : (putDie s k x).powered = s.powered := rfl
@[simp] theorem putDie_log (s : State) (k : Nat) (x : Die) : (putDie s k x).log = s.log := rfl
@[simp] theorem putDie_time (s : State) (k : Nat) (x : Die) : (putDie s k x).time = s.time := rfl
@[simp] theorem putDie_focus (s : State) (k : Nat) (x : Die) : (putDie s k x).focus = s.focus := rfl
@[simp] theorem putDie_ctxs (s : State) (k : Nat) (x : Die) : (putDie s k x).ctxs = s.ctxs := rfl
@[simp] theorem putDie_cores (s : State) (k : Nat) (x : Die) : (putDie s k x).cores = s.cores := rfl
@[simp] theorem putDie_wgs (s : State) (k : Nat) (x : Die) : (putDie s k x).wgs = s.wgs := rfl
@[simp] theorem putDie_parts (s : State) (k : Nat) (x : Die) : (putDie s k x).parts = s.parts := rfl
@[simp] theorem putDie_partCount (s : State) (k : Nat) (x : Die) : (putDie s k x).partCount = s.partCount := rfl
@[simp] theorem putDie_hubs (s : State) (k : Nat) (x : Die) : (putDie s k x).hubs = s.hubs := rfl
@[simp] theorem putDie_lines (s : State) (k : Nat) (x : Die) : (putDie s k x).lines = s.lines := rfl
@[simp] theorem putDie_domains (s : State) (k : Nat) (x : Die) : (putDie s k x).domains = s.domains := rfl
@[simp] theorem putDie_memStacks (s : State) (k : Nat) (x : Die) : (putDie s k x).memStacks = s.memStacks := rfl
@[simp] theorem putDie_keys (s : State) (k : Nat) (x : Die) : (putDie s k x).keys = s.keys := rfl
@[simp] theorem putDie_tlbs (s : State) (k : Nat) (x : Die) : (putDie s k x).tlbs = s.tlbs := rfl
@[simp] theorem putDie_sessions (s : State) (k : Nat) (x : Die) : (putDie s k x).sessions = s.sessions := rfl
@[simp] theorem putDie_due (s : State) (k : Nat) (x : Die) : (putDie s k x).due = s.due := rfl
@[simp] theorem putDie_agenda (s : State) (k : Nat) (x : Die) : (putDie s k x).agenda = s.agenda := rfl
@[simp] theorem putDie_input (s : State) (k : Nat) (x : Die) : (putDie s k x).input = s.input := rfl
@[simp] theorem getDie_putDie (s : State) (k : Nat) (x : Die) : getDie (putDie s k x) k = x := mapGet_put_same _ _ _ _
theorem getDie_putDie_ne (s : State) {k j : Nat} (x : Die) (h : j ≠ k) : getDie (putDie s k x) j = getDie s j :=
  mapGet_put_ne _ _ _ h
@[simp] theorem getCtx_putDie (s : State) (k j : Nat) (x : Die) : getCtx (putDie s k x) j = getCtx s j := rfl
@[simp] theorem getCore_putDie (s : State) (k j : Nat) (x : Die) : getCore (putDie s k x) j = getCore s j := rfl
@[simp] theorem getWg_putDie (s : State) (k j : Nat) (x : Die) : getWg (putDie s k x) j = getWg s j := rfl
@[simp] theorem getPart_putDie (s : State) (k j : Nat) (x : Die) : getPart (putDie s k x) j = getPart s j := rfl
@[simp] theorem getHub_putDie (s : State) (k j : Nat) (x : Die) : getHub (putDie s k x) j = getHub s j := rfl
@[simp] theorem getStack_putDie (s : State) (k j : Nat) (x : Die) : getStack (putDie s k x) j = getStack s j := rfl
@[simp] theorem getDomain_putDie (s : State) (k j : Nat) (x : Die) : getDomain (putDie s k x) j = getDomain s j := rfl
@[simp] theorem getSession_putDie (s : State) (k j : Nat) (x : Die) : getSession (putDie s k x) j = getSession s j := rfl

@[simp] theorem putHub_mem (s : State) (k : Nat) (x : Hub) : (putHub s k x).mem = s.mem := rfl
@[simp] theorem putHub_poison (s : State) (k : Nat) (x : Hub) : (putHub s k x).poison = s.poison := rfl
@[simp] theorem putHub_heldWrites (s : State) (k : Nat) (x : Hub) : (putHub s k x).heldWrites = s.heldWrites := rfl
@[simp] theorem putHub_shutdown (s : State) (k : Nat) (x : Hub) : (putHub s k x).shutdown = s.shutdown := rfl
@[simp] theorem putHub_powered (s : State) (k : Nat) (x : Hub) : (putHub s k x).powered = s.powered := rfl
@[simp] theorem putHub_log (s : State) (k : Nat) (x : Hub) : (putHub s k x).log = s.log := rfl
@[simp] theorem putHub_time (s : State) (k : Nat) (x : Hub) : (putHub s k x).time = s.time := rfl
@[simp] theorem putHub_focus (s : State) (k : Nat) (x : Hub) : (putHub s k x).focus = s.focus := rfl
@[simp] theorem putHub_ctxs (s : State) (k : Nat) (x : Hub) : (putHub s k x).ctxs = s.ctxs := rfl
@[simp] theorem putHub_cores (s : State) (k : Nat) (x : Hub) : (putHub s k x).cores = s.cores := rfl
@[simp] theorem putHub_wgs (s : State) (k : Nat) (x : Hub) : (putHub s k x).wgs = s.wgs := rfl
@[simp] theorem putHub_parts (s : State) (k : Nat) (x : Hub) : (putHub s k x).parts = s.parts := rfl
@[simp] theorem putHub_partCount (s : State) (k : Nat) (x : Hub) : (putHub s k x).partCount = s.partCount := rfl
@[simp] theorem putHub_dies (s : State) (k : Nat) (x : Hub) : (putHub s k x).dies = s.dies := rfl
@[simp] theorem putHub_lines (s : State) (k : Nat) (x : Hub) : (putHub s k x).lines = s.lines := rfl
@[simp] theorem putHub_domains (s : State) (k : Nat) (x : Hub) : (putHub s k x).domains = s.domains := rfl
@[simp] theorem putHub_memStacks (s : State) (k : Nat) (x : Hub) : (putHub s k x).memStacks = s.memStacks := rfl
@[simp] theorem putHub_keys (s : State) (k : Nat) (x : Hub) : (putHub s k x).keys = s.keys := rfl
@[simp] theorem putHub_tlbs (s : State) (k : Nat) (x : Hub) : (putHub s k x).tlbs = s.tlbs := rfl
@[simp] theorem putHub_sessions (s : State) (k : Nat) (x : Hub) : (putHub s k x).sessions = s.sessions := rfl
@[simp] theorem putHub_due (s : State) (k : Nat) (x : Hub) : (putHub s k x).due = s.due := rfl
@[simp] theorem putHub_agenda (s : State) (k : Nat) (x : Hub) : (putHub s k x).agenda = s.agenda := rfl
@[simp] theorem putHub_input (s : State) (k : Nat) (x : Hub) : (putHub s k x).input = s.input := rfl
@[simp] theorem getHub_putHub (s : State) (k : Nat) (x : Hub) : getHub (putHub s k x) k = x := mapGet_put_same _ _ _ _
theorem getHub_putHub_ne (s : State) {k j : Nat} (x : Hub) (h : j ≠ k) : getHub (putHub s k x) j = getHub s j :=
  mapGet_put_ne _ _ _ h
@[simp] theorem getCtx_putHub (s : State) (k j : Nat) (x : Hub) : getCtx (putHub s k x) j = getCtx s j := rfl
@[simp] theorem getCore_putHub (s : State) (k j : Nat) (x : Hub) : getCore (putHub s k x) j = getCore s j := rfl
@[simp] theorem getWg_putHub (s : State) (k j : Nat) (x : Hub) : getWg (putHub s k x) j = getWg s j := rfl
@[simp] theorem getPart_putHub (s : State) (k j : Nat) (x : Hub) : getPart (putHub s k x) j = getPart s j := rfl
@[simp] theorem getDie_putHub (s : State) (k j : Nat) (x : Hub) : getDie (putHub s k x) j = getDie s j := rfl
@[simp] theorem getStack_putHub (s : State) (k j : Nat) (x : Hub) : getStack (putHub s k x) j = getStack s j := rfl
@[simp] theorem getDomain_putHub (s : State) (k j : Nat) (x : Hub) : getDomain (putHub s k x) j = getDomain s j := rfl
@[simp] theorem getSession_putHub (s : State) (k j : Nat) (x : Hub) : getSession (putHub s k x) j = getSession s j := rfl

@[simp] theorem putStack_mem (s : State) (k : Nat) (x : Stack) : (putStack s k x).mem = s.mem := rfl
@[simp] theorem putStack_poison (s : State) (k : Nat) (x : Stack) : (putStack s k x).poison = s.poison := rfl
@[simp] theorem putStack_heldWrites (s : State) (k : Nat) (x : Stack) : (putStack s k x).heldWrites = s.heldWrites := rfl
@[simp] theorem putStack_shutdown (s : State) (k : Nat) (x : Stack) : (putStack s k x).shutdown = s.shutdown := rfl
@[simp] theorem putStack_powered (s : State) (k : Nat) (x : Stack) : (putStack s k x).powered = s.powered := rfl
@[simp] theorem putStack_log (s : State) (k : Nat) (x : Stack) : (putStack s k x).log = s.log := rfl
@[simp] theorem putStack_time (s : State) (k : Nat) (x : Stack) : (putStack s k x).time = s.time := rfl
@[simp] theorem putStack_focus (s : State) (k : Nat) (x : Stack) : (putStack s k x).focus = s.focus := rfl
@[simp] theorem putStack_ctxs (s : State) (k : Nat) (x : Stack) : (putStack s k x).ctxs = s.ctxs := rfl
@[simp] theorem putStack_cores (s : State) (k : Nat) (x : Stack) : (putStack s k x).cores = s.cores := rfl
@[simp] theorem putStack_wgs (s : State) (k : Nat) (x : Stack) : (putStack s k x).wgs = s.wgs := rfl
@[simp] theorem putStack_parts (s : State) (k : Nat) (x : Stack) : (putStack s k x).parts = s.parts := rfl
@[simp] theorem putStack_partCount (s : State) (k : Nat) (x : Stack) : (putStack s k x).partCount = s.partCount := rfl
@[simp] theorem putStack_dies (s : State) (k : Nat) (x : Stack) : (putStack s k x).dies = s.dies := rfl
@[simp] theorem putStack_hubs (s : State) (k : Nat) (x : Stack) : (putStack s k x).hubs = s.hubs := rfl
@[simp] theorem putStack_lines (s : State) (k : Nat) (x : Stack) : (putStack s k x).lines = s.lines := rfl
@[simp] theorem putStack_domains (s : State) (k : Nat) (x : Stack) : (putStack s k x).domains = s.domains := rfl
@[simp] theorem putStack_keys (s : State) (k : Nat) (x : Stack) : (putStack s k x).keys = s.keys := rfl
@[simp] theorem putStack_tlbs (s : State) (k : Nat) (x : Stack) : (putStack s k x).tlbs = s.tlbs := rfl
@[simp] theorem putStack_sessions (s : State) (k : Nat) (x : Stack) : (putStack s k x).sessions = s.sessions := rfl
@[simp] theorem putStack_due (s : State) (k : Nat) (x : Stack) : (putStack s k x).due = s.due := rfl
@[simp] theorem putStack_agenda (s : State) (k : Nat) (x : Stack) : (putStack s k x).agenda = s.agenda := rfl
@[simp] theorem putStack_input (s : State) (k : Nat) (x : Stack) : (putStack s k x).input = s.input := rfl
@[simp] theorem getStack_putStack (s : State) (k : Nat) (x : Stack) : getStack (putStack s k x) k = x := mapGet_put_same _ _ _ _
theorem getStack_putStack_ne (s : State) {k j : Nat} (x : Stack) (h : j ≠ k) : getStack (putStack s k x) j = getStack s j :=
  mapGet_put_ne _ _ _ h
@[simp] theorem getCtx_putStack (s : State) (k j : Nat) (x : Stack) : getCtx (putStack s k x) j = getCtx s j := rfl
@[simp] theorem getCore_putStack (s : State) (k j : Nat) (x : Stack) : getCore (putStack s k x) j = getCore s j := rfl
@[simp] theorem getWg_putStack (s : State) (k j : Nat) (x : Stack) : getWg (putStack s k x) j = getWg s j := rfl
@[simp] theorem getPart_putStack (s : State) (k j : Nat) (x : Stack) : getPart (putStack s k x) j = getPart s j := rfl
@[simp] theorem getDie_putStack (s : State) (k j : Nat) (x : Stack) : getDie (putStack s k x) j = getDie s j := rfl
@[simp] theorem getHub_putStack (s : State) (k j : Nat) (x : Stack) : getHub (putStack s k x) j = getHub s j := rfl
@[simp] theorem getDomain_putStack (s : State) (k j : Nat) (x : Stack) : getDomain (putStack s k x) j = getDomain s j := rfl
@[simp] theorem getSession_putStack (s : State) (k j : Nat) (x : Stack) : getSession (putStack s k x) j = getSession s j := rfl

@[simp] theorem putDomain_mem (s : State) (k : Nat) (x : Domain) : (putDomain s k x).mem = s.mem := rfl
@[simp] theorem putDomain_poison (s : State) (k : Nat) (x : Domain) : (putDomain s k x).poison = s.poison := rfl
@[simp] theorem putDomain_heldWrites (s : State) (k : Nat) (x : Domain) : (putDomain s k x).heldWrites = s.heldWrites := rfl
@[simp] theorem putDomain_shutdown (s : State) (k : Nat) (x : Domain) : (putDomain s k x).shutdown = s.shutdown := rfl
@[simp] theorem putDomain_powered (s : State) (k : Nat) (x : Domain) : (putDomain s k x).powered = s.powered := rfl
@[simp] theorem putDomain_log (s : State) (k : Nat) (x : Domain) : (putDomain s k x).log = s.log := rfl
@[simp] theorem putDomain_time (s : State) (k : Nat) (x : Domain) : (putDomain s k x).time = s.time := rfl
@[simp] theorem putDomain_focus (s : State) (k : Nat) (x : Domain) : (putDomain s k x).focus = s.focus := rfl
@[simp] theorem putDomain_ctxs (s : State) (k : Nat) (x : Domain) : (putDomain s k x).ctxs = s.ctxs := rfl
@[simp] theorem putDomain_cores (s : State) (k : Nat) (x : Domain) : (putDomain s k x).cores = s.cores := rfl
@[simp] theorem putDomain_wgs (s : State) (k : Nat) (x : Domain) : (putDomain s k x).wgs = s.wgs := rfl
@[simp] theorem putDomain_parts (s : State) (k : Nat) (x : Domain) : (putDomain s k x).parts = s.parts := rfl
@[simp] theorem putDomain_partCount (s : State) (k : Nat) (x : Domain) : (putDomain s k x).partCount = s.partCount := rfl
@[simp] theorem putDomain_dies (s : State) (k : Nat) (x : Domain) : (putDomain s k x).dies = s.dies := rfl
@[simp] theorem putDomain_hubs (s : State) (k : Nat) (x : Domain) : (putDomain s k x).hubs = s.hubs := rfl
@[simp] theorem putDomain_lines (s : State) (k : Nat) (x : Domain) : (putDomain s k x).lines = s.lines := rfl
@[simp] theorem putDomain_memStacks (s : State) (k : Nat) (x : Domain) : (putDomain s k x).memStacks = s.memStacks := rfl
@[simp] theorem putDomain_keys (s : State) (k : Nat) (x : Domain) : (putDomain s k x).keys = s.keys := rfl
@[simp] theorem putDomain_tlbs (s : State) (k : Nat) (x : Domain) : (putDomain s k x).tlbs = s.tlbs := rfl
@[simp] theorem putDomain_sessions (s : State) (k : Nat) (x : Domain) : (putDomain s k x).sessions = s.sessions := rfl
@[simp] theorem putDomain_due (s : State) (k : Nat) (x : Domain) : (putDomain s k x).due = s.due := rfl
@[simp] theorem putDomain_agenda (s : State) (k : Nat) (x : Domain) : (putDomain s k x).agenda = s.agenda := rfl
@[simp] theorem putDomain_input (s : State) (k : Nat) (x : Domain) : (putDomain s k x).input = s.input := rfl
@[simp] theorem getDomain_putDomain (s : State) (k : Nat) (x : Domain) : getDomain (putDomain s k x) k = x := mapGet_put_same _ _ _ _
theorem getDomain_putDomain_ne (s : State) {k j : Nat} (x : Domain) (h : j ≠ k) : getDomain (putDomain s k x) j = getDomain s j :=
  mapGet_put_ne _ _ _ h
@[simp] theorem getCtx_putDomain (s : State) (k j : Nat) (x : Domain) : getCtx (putDomain s k x) j = getCtx s j := rfl
@[simp] theorem getCore_putDomain (s : State) (k j : Nat) (x : Domain) : getCore (putDomain s k x) j = getCore s j := rfl
@[simp] theorem getWg_putDomain (s : State) (k j : Nat) (x : Domain) : getWg (putDomain s k x) j = getWg s j := rfl
@[simp] theorem getPart_putDomain (s : State) (k j : Nat) (x : Domain) : getPart (putDomain s k x) j = getPart s j := rfl
@[simp] theorem getDie_putDomain (s : State) (k j : Nat) (x : Domain) : getDie (putDomain s k x) j = getDie s j := rfl
@[simp] theorem getHub_putDomain (s : State) (k j : Nat) (x : Domain) : getHub (putDomain s k x) j = getHub s j := rfl
@[simp] theorem getStack_putDomain (s : State) (k j : Nat) (x : Domain) : getStack (putDomain s k x) j = getStack s j := rfl
@[simp] theorem getSession_putDomain (s : State) (k j : Nat) (x : Domain) : getSession (putDomain s k x) j = getSession s j := rfl

@[simp] theorem putSession_mem (s : State) (k : Nat) (x : Session) : (putSession s k x).mem = s.mem := rfl
@[simp] theorem putSession_poison (s : State) (k : Nat) (x : Session) : (putSession s k x).poison = s.poison := rfl
@[simp] theorem putSession_heldWrites (s : State) (k : Nat) (x : Session) : (putSession s k x).heldWrites = s.heldWrites := rfl
@[simp] theorem putSession_shutdown (s : State) (k : Nat) (x : Session) : (putSession s k x).shutdown = s.shutdown := rfl
@[simp] theorem putSession_powered (s : State) (k : Nat) (x : Session) : (putSession s k x).powered = s.powered := rfl
@[simp] theorem putSession_log (s : State) (k : Nat) (x : Session) : (putSession s k x).log = s.log := rfl
@[simp] theorem putSession_time (s : State) (k : Nat) (x : Session) : (putSession s k x).time = s.time := rfl
@[simp] theorem putSession_focus (s : State) (k : Nat) (x : Session) : (putSession s k x).focus = s.focus := rfl
@[simp] theorem putSession_ctxs (s : State) (k : Nat) (x : Session) : (putSession s k x).ctxs = s.ctxs := rfl
@[simp] theorem putSession_cores (s : State) (k : Nat) (x : Session) : (putSession s k x).cores = s.cores := rfl
@[simp] theorem putSession_wgs (s : State) (k : Nat) (x : Session) : (putSession s k x).wgs = s.wgs := rfl
@[simp] theorem putSession_parts (s : State) (k : Nat) (x : Session) : (putSession s k x).parts = s.parts := rfl
@[simp] theorem putSession_partCount (s : State) (k : Nat) (x : Session) : (putSession s k x).partCount = s.partCount := rfl
@[simp] theorem putSession_dies (s : State) (k : Nat) (x : Session) : (putSession s k x).dies = s.dies := rfl
@[simp] theorem putSession_hubs (s : State) (k : Nat) (x : Session) : (putSession s k x).hubs = s.hubs := rfl
@[simp] theorem putSession_lines (s : State) (k : Nat) (x : Session) : (putSession s k x).lines = s.lines := rfl
@[simp] theorem putSession_domains (s : State) (k : Nat) (x : Session) : (putSession s k x).domains = s.domains := rfl
@[simp] theorem putSession_memStacks (s : State) (k : Nat) (x : Session) : (putSession s k x).memStacks = s.memStacks := rfl
@[simp] theorem putSession_keys (s : State) (k : Nat) (x : Session) : (putSession s k x).keys = s.keys := rfl
@[simp] theorem putSession_tlbs (s : State) (k : Nat) (x : Session) : (putSession s k x).tlbs = s.tlbs := rfl
@[simp] theorem putSession_due (s : State) (k : Nat) (x : Session) : (putSession s k x).due = s.due := rfl
@[simp] theorem putSession_agenda (s : State) (k : Nat) (x : Session) : (putSession s k x).agenda = s.agenda := rfl
@[simp] theorem putSession_input (s : State) (k : Nat) (x : Session) : (putSession s k x).input = s.input := rfl
@[simp] theorem getSession_putSession (s : State) (k : Nat) (x : Session) : getSession (putSession s k x) k = x := mapGet_put_same _ _ _ _
theorem getSession_putSession_ne (s : State) {k j : Nat} (x : Session) (h : j ≠ k) : getSession (putSession s k x) j = getSession s j :=
  mapGet_put_ne _ _ _ h
@[simp] theorem getCtx_putSession (s : State) (k j : Nat) (x : Session) : getCtx (putSession s k x) j = getCtx s j := rfl
@[simp] theorem getCore_putSession (s : State) (k j : Nat) (x : Session) : getCore (putSession s k x) j = getCore s j := rfl
@[simp] theorem getWg_putSession (s : State) (k j : Nat) (x : Session) : getWg (putSession s k x) j = getWg s j := rfl
@[simp] theorem getPart_putSession (s : State) (k j : Nat) (x : Session) : getPart (putSession s k x) j = getPart s j := rfl
@[simp] theorem getDie_putSession (s : State) (k j : Nat) (x : Session) : getDie (putSession s k x) j = getDie s j := rfl
@[simp] theorem getHub_putSession (s : State) (k j : Nat) (x : Session) : getHub (putSession s k x) j = getHub s j := rfl
@[simp] theorem getStack_putSession (s : State) (k j : Nat) (x : Session) : getStack (putSession s k x) j = getStack s j := rfl
@[simp] theorem getDomain_putSession (s : State) (k j : Nat) (x : Session) : getDomain (putSession s k x) j = getDomain s j := rfl

/-! ## The executing strand -/

@[simp] theorem setCur_mem (s : State) (x : Ctx) : (setCur s x).mem = s.mem := rfl
@[simp] theorem setCur_poison (s : State) (x : Ctx) : (setCur s x).poison = s.poison := rfl
@[simp] theorem setCur_heldWrites (s : State) (x : Ctx) : (setCur s x).heldWrites = s.heldWrites := rfl
@[simp] theorem setCur_shutdown (s : State) (x : Ctx) : (setCur s x).shutdown = s.shutdown := rfl
@[simp] theorem setCur_powered (s : State) (x : Ctx) : (setCur s x).powered = s.powered := rfl
@[simp] theorem setCur_log (s : State) (x : Ctx) : (setCur s x).log = s.log := rfl
@[simp] theorem setCur_time (s : State) (x : Ctx) : (setCur s x).time = s.time := rfl
@[simp] theorem setCur_focus (s : State) (x : Ctx) : (setCur s x).focus = s.focus := rfl
@[simp] theorem setCur_cores (s : State) (x : Ctx) : (setCur s x).cores = s.cores := rfl
@[simp] theorem setCur_wgs (s : State) (x : Ctx) : (setCur s x).wgs = s.wgs := rfl
@[simp] theorem setCur_parts (s : State) (x : Ctx) : (setCur s x).parts = s.parts := rfl
@[simp] theorem setCur_partCount (s : State) (x : Ctx) : (setCur s x).partCount = s.partCount := rfl
@[simp] theorem setCur_dies (s : State) (x : Ctx) : (setCur s x).dies = s.dies := rfl
@[simp] theorem setCur_hubs (s : State) (x : Ctx) : (setCur s x).hubs = s.hubs := rfl
@[simp] theorem setCur_lines (s : State) (x : Ctx) : (setCur s x).lines = s.lines := rfl
@[simp] theorem setCur_domains (s : State) (x : Ctx) : (setCur s x).domains = s.domains := rfl
@[simp] theorem setCur_memStacks (s : State) (x : Ctx) : (setCur s x).memStacks = s.memStacks := rfl
@[simp] theorem setCur_keys (s : State) (x : Ctx) : (setCur s x).keys = s.keys := rfl
@[simp] theorem setCur_tlbs (s : State) (x : Ctx) : (setCur s x).tlbs = s.tlbs := rfl
@[simp] theorem setCur_sessions (s : State) (x : Ctx) : (setCur s x).sessions = s.sessions := rfl
@[simp] theorem setCur_due (s : State) (x : Ctx) : (setCur s x).due = s.due := rfl
@[simp] theorem setCur_agenda (s : State) (x : Ctx) : (setCur s x).agenda = s.agenda := rfl
@[simp] theorem setCur_input (s : State) (x : Ctx) : (setCur s x).input = s.input := rfl
@[simp] theorem setStrand_mem (s : State) (x : Strand) : (setStrand s x).mem = s.mem := rfl
@[simp] theorem setStrand_poison (s : State) (x : Strand) : (setStrand s x).poison = s.poison := rfl
@[simp] theorem setStrand_heldWrites (s : State) (x : Strand) : (setStrand s x).heldWrites = s.heldWrites := rfl
@[simp] theorem setStrand_shutdown (s : State) (x : Strand) : (setStrand s x).shutdown = s.shutdown := rfl
@[simp] theorem setStrand_powered (s : State) (x : Strand) : (setStrand s x).powered = s.powered := rfl
@[simp] theorem setStrand_log (s : State) (x : Strand) : (setStrand s x).log = s.log := rfl
@[simp] theorem setStrand_time (s : State) (x : Strand) : (setStrand s x).time = s.time := rfl
@[simp] theorem setStrand_focus (s : State) (x : Strand) : (setStrand s x).focus = s.focus := rfl
@[simp] theorem setStrand_cores (s : State) (x : Strand) : (setStrand s x).cores = s.cores := rfl
@[simp] theorem setStrand_wgs (s : State) (x : Strand) : (setStrand s x).wgs = s.wgs := rfl
@[simp] theorem setStrand_parts (s : State) (x : Strand) : (setStrand s x).parts = s.parts := rfl
@[simp] theorem setStrand_partCount (s : State) (x : Strand) : (setStrand s x).partCount = s.partCount := rfl
@[simp] theorem setStrand_dies (s : State) (x : Strand) : (setStrand s x).dies = s.dies := rfl
@[simp] theorem setStrand_hubs (s : State) (x : Strand) : (setStrand s x).hubs = s.hubs := rfl
@[simp] theorem setStrand_lines (s : State) (x : Strand) : (setStrand s x).lines = s.lines := rfl
@[simp] theorem setStrand_domains (s : State) (x : Strand) : (setStrand s x).domains = s.domains := rfl
@[simp] theorem setStrand_memStacks (s : State) (x : Strand) : (setStrand s x).memStacks = s.memStacks := rfl
@[simp] theorem setStrand_keys (s : State) (x : Strand) : (setStrand s x).keys = s.keys := rfl
@[simp] theorem setStrand_tlbs (s : State) (x : Strand) : (setStrand s x).tlbs = s.tlbs := rfl
@[simp] theorem setStrand_sessions (s : State) (x : Strand) : (setStrand s x).sessions = s.sessions := rfl
@[simp] theorem setStrand_due (s : State) (x : Strand) : (setStrand s x).due = s.due := rfl
@[simp] theorem setStrand_agenda (s : State) (x : Strand) : (setStrand s x).agenda = s.agenda := rfl
@[simp] theorem setStrand_input (s : State) (x : Strand) : (setStrand s x).input = s.input := rfl

@[simp] theorem cur_setCur (s : State) (c : Ctx) : cur (setCur s c) = c := mapGet_put_same _ _ _ _
@[simp] theorem getCtx_setCur (s : State) (c : Ctx) : getCtx (setCur s c) s.focus.key = c := mapGet_put_same _ _ _ _
theorem getCtx_setCur_ne (s : State) (c : Ctx) {k : Nat} (h : k ≠ s.focus.key) : getCtx (setCur s c) k = getCtx s k :=
  mapGet_put_ne _ _ _ h
@[simp] theorem getStrand_putStrand (c : Ctx) (i : Nat) (x : Strand) : getStrand (putStrand c i x) i = x :=
  mapGet_put_same _ _ _ _
theorem getStrand_putStrand_ne (c : Ctx) {i j : Nat} (x : Strand) (h : j ≠ i) :
    getStrand (putStrand c i x) j = getStrand c j := mapGet_put_ne _ _ _ h
@[simp] theorem cur_setStrand (s : State) (x : Strand) : cur (setStrand s x) = putStrand (cur s) s.focus.slot x :=
  cur_setCur _ _
@[simp] theorem curStrand_setStrand (s : State) (x : Strand) : curStrand (setStrand s x) = x := by
  simp [curStrand]

/-! ## Registers of a context -/

@[simp] theorem getS_zero (c : Ctx) : getS c 0 = {} := rfl
theorem getS_putS (c : Ctx) {n : Nat} (r : Reg) (h : n ≠ 0) : getS (putS c n r) n = r := by
  simp [getS, putS, h]
theorem getS_putS_ne (c : Ctx) {n m : Nat} (r : Reg) (h : m ≠ n) : getS (putS c n r) m = getS c m := by
  unfold getS putS; split
  · rfl
  · split
    · rfl
    · exact mapGet_put_ne _ _ _ h
@[simp] theorem putS_zero (c : Ctx) (r : Reg) : putS c 0 r = c := rfl
@[simp] theorem getV_putV (c : Ctx) (r l : Nat) (x : Reg) : getV (putV c r l x) r l = x := mapGet_put_same _ _ _ _
theorem getV_putV_ne (c : Ctx) {r l q m : Nat} (x : Reg) (h : q * 64 + m ≠ r * 64 + l) :
    getV (putV c r l x) q m = getV c q m := mapGet_put_ne _ _ _ h
@[simp] theorem getK_putK (c : Ctx) (n : Nat) (m : Mask) : getK (putK c n m) n = m &&& widthMask c :=
  mapGet_put_same _ _ _ _
theorem getK_putK_ne (c : Ctx) {n j : Nat} (m : Mask) (h : j ≠ n) : getK (putK c n m) j = getK c j :=
  mapGet_put_ne _ _ _ h
@[simp] theorem getCursor_putCursor (c : Ctx) (l : Nat) (x : BitVec 7) : getCursor (putCursor c l x) l = x :=
  mapGet_put_same _ _ _ _
@[simp] theorem getP_zero (c : Ctx) : getP c 0 = true := rfl

@[simp] theorem putS_live (c : Ctx) (n : Nat) (r : Reg) : (putS c n r).live = c.live := by unfold putS; split <;> rfl
@[simp] theorem putS_preds (c : Ctx) (n : Nat) (r : Reg) : (putS c n r).preds = c.preds := by unfold putS; split <;> rfl
@[simp] theorem putS_ks (c : Ctx) (n : Nat) (r : Reg) : (putS c n r).ks = c.ks := by unfold putS; split <;> rfl
@[simp] theorem putS_vregs (c : Ctx) (n : Nat) (r : Reg) : (putS c n r).vregs = c.vregs := by unfold putS; split <;> rfl
@[simp] theorem putS_allot (c : Ctx) (n : Nat) (r : Reg) : (putS c n r).allot = c.allot := by unfold putS; split <;> rfl
@[simp] theorem putS_launched (c : Ctx) (n : Nat) (r : Reg) : (putS c n r).launched = c.launched := by unfold putS; split <;> rfl
@[simp] theorem putS_status (c : Ctx) (n : Nat) (r : Reg) : (putS c n r).status = c.status := by unfold putS; split <;> rfl
@[simp] theorem putS_xb (c : Ctx) (n : Nat) (r : Reg) : (putS c n r).xb = c.xb := by unfold putS; split <;> rfl
@[simp] theorem putS_fflags (c : Ctx) (n : Nat) (r : Reg) : (putS c n r).fflags = c.fflags := by unfold putS; split <;> rfl
@[simp] theorem putS_tvec (c : Ctx) (n : Nat) (r : Reg) : (putS c n r).tvec = c.tvec := by unfold putS; split <;> rfl
@[simp] theorem putS_tframe (c : Ctx) (n : Nat) (r : Reg) : (putS c n r).tframe = c.tframe := by unfold putS; split <;> rfl
@[simp] theorem putS_mxlease (c : Ctx) (n : Nat) (r : Reg) : (putS c n r).mxlease = c.mxlease := by unfold putS; split <;> rfl
@[simp] theorem putS_bandbase (c : Ctx) (n : Nat) (r : Reg) : (putS c n r).bandbase = c.bandbase := by unfold putS; split <;> rfl
@[simp] theorem putS_wgid (c : Ctx) (n : Nat) (r : Reg) : (putS c n r).wgid = c.wgid := by unfold putS; split <;> rfl
@[simp] theorem putS_warpid (c : Ctx) (n : Nat) (r : Reg) : (putS c n r).warpid = c.warpid := by unfold putS; split <;> rfl
@[simp] theorem putS_launchid (c : Ctx) (n : Nat) (r : Reg) : (putS c n r).launchid = c.launchid := by unfold putS; split <;> rfl
@[simp] theorem putS_context (c : Ctx) (n : Nat) (r : Reg) : (putS c n r).context = c.context := by unfold putS; split <;> rfl
@[simp] theorem putS_asid (c : Ctx) (n : Nat) (r : Reg) : (putS c n r).asid = c.asid := by unfold putS; split <;> rfl
@[simp] theorem putS_sizing (c : Ctx) (n : Nat) (r : Reg) : (putS c n r).sizing = c.sizing := by unfold putS; split <;> rfl
@[simp] theorem putS_scratch0 (c : Ctx) (n : Nat) (r : Reg) : (putS c n r).scratch0 = c.scratch0 := by unfold putS; split <;> rfl
@[simp] theorem putS_scratch1 (c : Ctx) (n : Nat) (r : Reg) : (putS c n r).scratch1 = c.scratch1 := by unfold putS; split <;> rfl
@[simp] theorem putS_ipend (c : Ctx) (n : Nat) (r : Reg) : (putS c n r).ipend = c.ipend := by unfold putS; split <;> rfl
@[simp] theorem putS_ienable (c : Ctx) (n : Nat) (r : Reg) : (putS c n r).ienable = c.ienable := by unfold putS; split <;> rfl
@[simp] theorem putS_tcmp (c : Ctx) (n : Nat) (r : Reg) : (putS c n r).tcmp = c.tcmp := by unfold putS; split <;> rfl
@[simp] theorem putS_strands (c : Ctx) (n : Nat) (r : Reg) : (putS c n r).strands = c.strands := by unfold putS; split <;> rfl
@[simp] theorem putS_serials (c : Ctx) (n : Nat) (r : Reg) : (putS c n r).serials = c.serials := by unfold putS; split <;> rfl
@[simp] theorem putS_laneCalls (c : Ctx) (n : Nat) (r : Reg) : (putS c n r).laneCalls = c.laneCalls := by unfold putS; split <;> rfl
@[simp] theorem putS_ras (c : Ctx) (n : Nat) (r : Reg) : (putS c n r).ras = c.ras := by unfold putS; split <;> rfl
@[simp] theorem putS_spilled (c : Ctx) (n : Nat) (r : Reg) : (putS c n r).spilled = c.spilled := by unfold putS; split <;> rfl
@[simp] theorem putS_cursors (c : Ctx) (n : Nat) (r : Reg) : (putS c n r).cursors = c.cursors := by unfold putS; split <;> rfl
@[simp] theorem putS_ops (c : Ctx) (n : Nat) (r : Reg) : (putS c n r).ops = c.ops := by unfold putS; split <;> rfl
@[simp] theorem putS_nextOp (c : Ctx) (n : Nat) (r : Reg) : (putS c n r).nextOp = c.nextOp := by unfold putS; split <;> rfl
@[simp] theorem putS_shapes (c : Ctx) (n : Nat) (r : Reg) : (putS c n r).shapes = c.shapes := by unfold putS; split <;> rfl
@[simp] theorem putS_wg (c : Ctx) (n : Nat) (r : Reg) : (putS c n r).wg = c.wg := by unfold putS; split <;> rfl

@[simp] theorem putP_live (c : Ctx) (n : Nat) (b : Bool) : (putP c n b).live = c.live := by unfold putP; split <;> rfl
@[simp] theorem putP_sregs (c : Ctx) (n : Nat) (b : Bool) : (putP c n b).sregs = c.sregs := by unfold putP; split <;> rfl
@[simp] theorem putP_ks (c : Ctx) (n : Nat) (b : Bool) : (putP c n b).ks = c.ks := by unfold putP; split <;> rfl
@[simp] theorem putP_vregs (c : Ctx) (n : Nat) (b : Bool) : (putP c n b).vregs = c.vregs := by unfold putP; split <;> rfl
@[simp] theorem putP_allot (c : Ctx) (n : Nat) (b : Bool) : (putP c n b).allot = c.allot := by unfold putP; split <;> rfl
@[simp] theorem putP_launched (c : Ctx) (n : Nat) (b : Bool) : (putP c n b).launched = c.launched := by unfold putP; split <;> rfl
@[simp] theorem putP_status (c : Ctx) (n : Nat) (b : Bool) : (putP c n b).status = c.status := by unfold putP; split <;> rfl
@[simp] theorem putP_xb (c : Ctx) (n : Nat) (b : Bool) : (putP c n b).xb = c.xb := by unfold putP; split <;> rfl
@[simp] theorem putP_fflags (c : Ctx) (n : Nat) (b : Bool) : (putP c n b).fflags = c.fflags := by unfold putP; split <;> rfl
@[simp] theorem putP_tvec (c : Ctx) (n : Nat) (b : Bool) : (putP c n b).tvec = c.tvec := by unfold putP; split <;> rfl
@[simp] theorem putP_tframe (c : Ctx) (n : Nat) (b : Bool) : (putP c n b).tframe = c.tframe := by unfold putP; split <;> rfl
@[simp] theorem putP_mxlease (c : Ctx) (n : Nat) (b : Bool) : (putP c n b).mxlease = c.mxlease := by unfold putP; split <;> rfl
@[simp] theorem putP_bandbase (c : Ctx) (n : Nat) (b : Bool) : (putP c n b).bandbase = c.bandbase := by unfold putP; split <;> rfl
@[simp] theorem putP_wgid (c : Ctx) (n : Nat) (b : Bool) : (putP c n b).wgid = c.wgid := by unfold putP; split <;> rfl
@[simp] theorem putP_warpid (c : Ctx) (n : Nat) (b : Bool) : (putP c n b).warpid = c.warpid := by unfold putP; split <;> rfl
@[simp] theorem putP_launchid (c : Ctx) (n : Nat) (b : Bool) : (putP c n b).launchid = c.launchid := by unfold putP; split <;> rfl
@[simp] theorem putP_context (c : Ctx) (n : Nat) (b : Bool) : (putP c n b).context = c.context := by unfold putP; split <;> rfl
@[simp] theorem putP_asid (c : Ctx) (n : Nat) (b : Bool) : (putP c n b).asid = c.asid := by unfold putP; split <;> rfl
@[simp] theorem putP_sizing (c : Ctx) (n : Nat) (b : Bool) : (putP c n b).sizing = c.sizing := by unfold putP; split <;> rfl
@[simp] theorem putP_scratch0 (c : Ctx) (n : Nat) (b : Bool) : (putP c n b).scratch0 = c.scratch0 := by unfold putP; split <;> rfl
@[simp] theorem putP_scratch1 (c : Ctx) (n : Nat) (b : Bool) : (putP c n b).scratch1 = c.scratch1 := by unfold putP; split <;> rfl
@[simp] theorem putP_ipend (c : Ctx) (n : Nat) (b : Bool) : (putP c n b).ipend = c.ipend := by unfold putP; split <;> rfl
@[simp] theorem putP_ienable (c : Ctx) (n : Nat) (b : Bool) : (putP c n b).ienable = c.ienable := by unfold putP; split <;> rfl
@[simp] theorem putP_tcmp (c : Ctx) (n : Nat) (b : Bool) : (putP c n b).tcmp = c.tcmp := by unfold putP; split <;> rfl
@[simp] theorem putP_strands (c : Ctx) (n : Nat) (b : Bool) : (putP c n b).strands = c.strands := by unfold putP; split <;> rfl
@[simp] theorem putP_serials (c : Ctx) (n : Nat) (b : Bool) : (putP c n b).serials = c.serials := by unfold putP; split <;> rfl
@[simp] theorem putP_laneCalls (c : Ctx) (n : Nat) (b : Bool) : (putP c n b).laneCalls = c.laneCalls := by unfold putP; split <;> rfl
@[simp] theorem putP_ras (c : Ctx) (n : Nat) (b : Bool) : (putP c n b).ras = c.ras := by unfold putP; split <;> rfl
@[simp] theorem putP_spilled (c : Ctx) (n : Nat) (b : Bool) : (putP c n b).spilled = c.spilled := by unfold putP; split <;> rfl
@[simp] theorem putP_cursors (c : Ctx) (n : Nat) (b : Bool) : (putP c n b).cursors = c.cursors := by unfold putP; split <;> rfl
@[simp] theorem putP_ops (c : Ctx) (n : Nat) (b : Bool) : (putP c n b).ops = c.ops := by unfold putP; split <;> rfl
@[simp] theorem putP_nextOp (c : Ctx) (n : Nat) (b : Bool) : (putP c n b).nextOp = c.nextOp := by unfold putP; split <;> rfl
@[simp] theorem putP_shapes (c : Ctx) (n : Nat) (b : Bool) : (putP c n b).shapes = c.shapes := by unfold putP; split <;> rfl
@[simp] theorem putP_wg (c : Ctx) (n : Nat) (b : Bool) : (putP c n b).wg = c.wg := by unfold putP; split <;> rfl

@[simp] theorem putK_live (c : Ctx) (n : Nat) (m : Mask) : (putK c n m).live = c.live := rfl
@[simp] theorem putK_sregs (c : Ctx) (n : Nat) (m : Mask) : (putK c n m).sregs = c.sregs := rfl
@[simp] theorem putK_preds (c : Ctx) (n : Nat) (m : Mask) : (putK c n m).preds = c.preds := rfl
@[simp] theorem putK_vregs (c : Ctx) (n : Nat) (m : Mask) : (putK c n m).vregs = c.vregs := rfl
@[simp] theorem putK_allot (c : Ctx) (n : Nat) (m : Mask) : (putK c n m).allot = c.allot := rfl
@[simp] theorem putK_launched (c : Ctx) (n : Nat) (m : Mask) : (putK c n m).launched = c.launched := rfl
@[simp] theorem putK_status (c : Ctx) (n : Nat) (m : Mask) : (putK c n m).status = c.status := rfl
@[simp] theorem putK_xb (c : Ctx) (n : Nat) (m : Mask) : (putK c n m).xb = c.xb := rfl
@[simp] theorem putK_fflags (c : Ctx) (n : Nat) (m : Mask) : (putK c n m).fflags = c.fflags := rfl
@[simp] theorem putK_tvec (c : Ctx) (n : Nat) (m : Mask) : (putK c n m).tvec = c.tvec := rfl
@[simp] theorem putK_tframe (c : Ctx) (n : Nat) (m : Mask) : (putK c n m).tframe = c.tframe := rfl
@[simp] theorem putK_mxlease (c : Ctx) (n : Nat) (m : Mask) : (putK c n m).mxlease = c.mxlease := rfl
@[simp] theorem putK_bandbase (c : Ctx) (n : Nat) (m : Mask) : (putK c n m).bandbase = c.bandbase := rfl
@[simp] theorem putK_wgid (c : Ctx) (n : Nat) (m : Mask) : (putK c n m).wgid = c.wgid := rfl
@[simp] theorem putK_warpid (c : Ctx) (n : Nat) (m : Mask) : (putK c n m).warpid = c.warpid := rfl
@[simp] theorem putK_launchid (c : Ctx) (n : Nat) (m : Mask) : (putK c n m).launchid = c.launchid := rfl
@[simp] theorem putK_context (c : Ctx) (n : Nat) (m : Mask) : (putK c n m).context = c.context := rfl
@[simp] theorem putK_asid (c : Ctx) (n : Nat) (m : Mask) : (putK c n m).asid = c.asid := rfl
@[simp] theorem putK_sizing (c : Ctx) (n : Nat) (m : Mask) : (putK c n m).sizing = c.sizing := rfl
@[simp] theorem putK_scratch0 (c : Ctx) (n : Nat) (m : Mask) : (putK c n m).scratch0 = c.scratch0 := rfl
@[simp] theorem putK_scratch1 (c : Ctx) (n : Nat) (m : Mask) : (putK c n m).scratch1 = c.scratch1 := rfl
@[simp] theorem putK_ipend (c : Ctx) (n : Nat) (m : Mask) : (putK c n m).ipend = c.ipend := rfl
@[simp] theorem putK_ienable (c : Ctx) (n : Nat) (m : Mask) : (putK c n m).ienable = c.ienable := rfl
@[simp] theorem putK_tcmp (c : Ctx) (n : Nat) (m : Mask) : (putK c n m).tcmp = c.tcmp := rfl
@[simp] theorem putK_strands (c : Ctx) (n : Nat) (m : Mask) : (putK c n m).strands = c.strands := rfl
@[simp] theorem putK_serials (c : Ctx) (n : Nat) (m : Mask) : (putK c n m).serials = c.serials := rfl
@[simp] theorem putK_laneCalls (c : Ctx) (n : Nat) (m : Mask) : (putK c n m).laneCalls = c.laneCalls := rfl
@[simp] theorem putK_ras (c : Ctx) (n : Nat) (m : Mask) : (putK c n m).ras = c.ras := rfl
@[simp] theorem putK_spilled (c : Ctx) (n : Nat) (m : Mask) : (putK c n m).spilled = c.spilled := rfl
@[simp] theorem putK_cursors (c : Ctx) (n : Nat) (m : Mask) : (putK c n m).cursors = c.cursors := rfl
@[simp] theorem putK_ops (c : Ctx) (n : Nat) (m : Mask) : (putK c n m).ops = c.ops := rfl
@[simp] theorem putK_nextOp (c : Ctx) (n : Nat) (m : Mask) : (putK c n m).nextOp = c.nextOp := rfl
@[simp] theorem putK_shapes (c : Ctx) (n : Nat) (m : Mask) : (putK c n m).shapes = c.shapes := rfl
@[simp] theorem putK_wg (c : Ctx) (n : Nat) (m : Mask) : (putK c n m).wg = c.wg := rfl

@[simp] theorem putV_live (c : Ctx) (r l : Nat) (x : Reg) : (putV c r l x).live = c.live := rfl
@[simp] theorem putV_sregs (c : Ctx) (r l : Nat) (x : Reg) : (putV c r l x).sregs = c.sregs := rfl
@[simp] theorem putV_preds (c : Ctx) (r l : Nat) (x : Reg) : (putV c r l x).preds = c.preds := rfl
@[simp] theorem putV_ks (c : Ctx) (r l : Nat) (x : Reg) : (putV c r l x).ks = c.ks := rfl
@[simp] theorem putV_allot (c : Ctx) (r l : Nat) (x : Reg) : (putV c r l x).allot = c.allot := rfl
@[simp] theorem putV_launched (c : Ctx) (r l : Nat) (x : Reg) : (putV c r l x).launched = c.launched := rfl
@[simp] theorem putV_status (c : Ctx) (r l : Nat) (x : Reg) : (putV c r l x).status = c.status := rfl
@[simp] theorem putV_xb (c : Ctx) (r l : Nat) (x : Reg) : (putV c r l x).xb = c.xb := rfl
@[simp] theorem putV_fflags (c : Ctx) (r l : Nat) (x : Reg) : (putV c r l x).fflags = c.fflags := rfl
@[simp] theorem putV_tvec (c : Ctx) (r l : Nat) (x : Reg) : (putV c r l x).tvec = c.tvec := rfl
@[simp] theorem putV_tframe (c : Ctx) (r l : Nat) (x : Reg) : (putV c r l x).tframe = c.tframe := rfl
@[simp] theorem putV_mxlease (c : Ctx) (r l : Nat) (x : Reg) : (putV c r l x).mxlease = c.mxlease := rfl
@[simp] theorem putV_bandbase (c : Ctx) (r l : Nat) (x : Reg) : (putV c r l x).bandbase = c.bandbase := rfl
@[simp] theorem putV_wgid (c : Ctx) (r l : Nat) (x : Reg) : (putV c r l x).wgid = c.wgid := rfl
@[simp] theorem putV_warpid (c : Ctx) (r l : Nat) (x : Reg) : (putV c r l x).warpid = c.warpid := rfl
@[simp] theorem putV_launchid (c : Ctx) (r l : Nat) (x : Reg) : (putV c r l x).launchid = c.launchid := rfl
@[simp] theorem putV_context (c : Ctx) (r l : Nat) (x : Reg) : (putV c r l x).context = c.context := rfl
@[simp] theorem putV_asid (c : Ctx) (r l : Nat) (x : Reg) : (putV c r l x).asid = c.asid := rfl
@[simp] theorem putV_sizing (c : Ctx) (r l : Nat) (x : Reg) : (putV c r l x).sizing = c.sizing := rfl
@[simp] theorem putV_scratch0 (c : Ctx) (r l : Nat) (x : Reg) : (putV c r l x).scratch0 = c.scratch0 := rfl
@[simp] theorem putV_scratch1 (c : Ctx) (r l : Nat) (x : Reg) : (putV c r l x).scratch1 = c.scratch1 := rfl
@[simp] theorem putV_ipend (c : Ctx) (r l : Nat) (x : Reg) : (putV c r l x).ipend = c.ipend := rfl
@[simp] theorem putV_ienable (c : Ctx) (r l : Nat) (x : Reg) : (putV c r l x).ienable = c.ienable := rfl
@[simp] theorem putV_tcmp (c : Ctx) (r l : Nat) (x : Reg) : (putV c r l x).tcmp = c.tcmp := rfl
@[simp] theorem putV_strands (c : Ctx) (r l : Nat) (x : Reg) : (putV c r l x).strands = c.strands := rfl
@[simp] theorem putV_serials (c : Ctx) (r l : Nat) (x : Reg) : (putV c r l x).serials = c.serials := rfl
@[simp] theorem putV_laneCalls (c : Ctx) (r l : Nat) (x : Reg) : (putV c r l x).laneCalls = c.laneCalls := rfl
@[simp] theorem putV_ras (c : Ctx) (r l : Nat) (x : Reg) : (putV c r l x).ras = c.ras := rfl
@[simp] theorem putV_spilled (c : Ctx) (r l : Nat) (x : Reg) : (putV c r l x).spilled = c.spilled := rfl
@[simp] theorem putV_cursors (c : Ctx) (r l : Nat) (x : Reg) : (putV c r l x).cursors = c.cursors := rfl
@[simp] theorem putV_ops (c : Ctx) (r l : Nat) (x : Reg) : (putV c r l x).ops = c.ops := rfl
@[simp] theorem putV_nextOp (c : Ctx) (r l : Nat) (x : Reg) : (putV c r l x).nextOp = c.nextOp := rfl
@[simp] theorem putV_shapes (c : Ctx) (r l : Nat) (x : Reg) : (putV c r l x).shapes = c.shapes := rfl
@[simp] theorem putV_wg (c : Ctx) (r l : Nat) (x : Reg) : (putV c r l x).wg = c.wg := rfl

@[simp] theorem putStrand_live (c : Ctx) (i : Nat) (x : Strand) : (putStrand c i x).live = c.live := rfl
@[simp] theorem putStrand_sregs (c : Ctx) (i : Nat) (x : Strand) : (putStrand c i x).sregs = c.sregs := rfl
@[simp] theorem putStrand_preds (c : Ctx) (i : Nat) (x : Strand) : (putStrand c i x).preds = c.preds := rfl
@[simp] theorem putStrand_ks (c : Ctx) (i : Nat) (x : Strand) : (putStrand c i x).ks = c.ks := rfl
@[simp] theorem putStrand_vregs (c : Ctx) (i : Nat) (x : Strand) : (putStrand c i x).vregs = c.vregs := rfl
@[simp] theorem putStrand_allot (c : Ctx) (i : Nat) (x : Strand) : (putStrand c i x).allot = c.allot := rfl
@[simp] theorem putStrand_launched (c : Ctx) (i : Nat) (x : Strand) : (putStrand c i x).launched = c.launched := rfl
@[simp] theorem putStrand_status (c : Ctx) (i : Nat) (x : Strand) : (putStrand c i x).status = c.status := rfl
@[simp] theorem putStrand_xb (c : Ctx) (i : Nat) (x : Strand) : (putStrand c i x).xb = c.xb := rfl
@[simp] theorem putStrand_fflags (c : Ctx) (i : Nat) (x : Strand) : (putStrand c i x).fflags = c.fflags := rfl
@[simp] theorem putStrand_tvec (c : Ctx) (i : Nat) (x : Strand) : (putStrand c i x).tvec = c.tvec := rfl
@[simp] theorem putStrand_tframe (c : Ctx) (i : Nat) (x : Strand) : (putStrand c i x).tframe = c.tframe := rfl
@[simp] theorem putStrand_mxlease (c : Ctx) (i : Nat) (x : Strand) : (putStrand c i x).mxlease = c.mxlease := rfl
@[simp] theorem putStrand_bandbase (c : Ctx) (i : Nat) (x : Strand) : (putStrand c i x).bandbase = c.bandbase := rfl
@[simp] theorem putStrand_wgid (c : Ctx) (i : Nat) (x : Strand) : (putStrand c i x).wgid = c.wgid := rfl
@[simp] theorem putStrand_warpid (c : Ctx) (i : Nat) (x : Strand) : (putStrand c i x).warpid = c.warpid := rfl
@[simp] theorem putStrand_launchid (c : Ctx) (i : Nat) (x : Strand) : (putStrand c i x).launchid = c.launchid := rfl
@[simp] theorem putStrand_context (c : Ctx) (i : Nat) (x : Strand) : (putStrand c i x).context = c.context := rfl
@[simp] theorem putStrand_asid (c : Ctx) (i : Nat) (x : Strand) : (putStrand c i x).asid = c.asid := rfl
@[simp] theorem putStrand_sizing (c : Ctx) (i : Nat) (x : Strand) : (putStrand c i x).sizing = c.sizing := rfl
@[simp] theorem putStrand_scratch0 (c : Ctx) (i : Nat) (x : Strand) : (putStrand c i x).scratch0 = c.scratch0 := rfl
@[simp] theorem putStrand_scratch1 (c : Ctx) (i : Nat) (x : Strand) : (putStrand c i x).scratch1 = c.scratch1 := rfl
@[simp] theorem putStrand_ipend (c : Ctx) (i : Nat) (x : Strand) : (putStrand c i x).ipend = c.ipend := rfl
@[simp] theorem putStrand_ienable (c : Ctx) (i : Nat) (x : Strand) : (putStrand c i x).ienable = c.ienable := rfl
@[simp] theorem putStrand_tcmp (c : Ctx) (i : Nat) (x : Strand) : (putStrand c i x).tcmp = c.tcmp := rfl
@[simp] theorem putStrand_serials (c : Ctx) (i : Nat) (x : Strand) : (putStrand c i x).serials = c.serials := rfl
@[simp] theorem putStrand_laneCalls (c : Ctx) (i : Nat) (x : Strand) : (putStrand c i x).laneCalls = c.laneCalls := rfl
@[simp] theorem putStrand_ras (c : Ctx) (i : Nat) (x : Strand) : (putStrand c i x).ras = c.ras := rfl
@[simp] theorem putStrand_spilled (c : Ctx) (i : Nat) (x : Strand) : (putStrand c i x).spilled = c.spilled := rfl
@[simp] theorem putStrand_cursors (c : Ctx) (i : Nat) (x : Strand) : (putStrand c i x).cursors = c.cursors := rfl
@[simp] theorem putStrand_ops (c : Ctx) (i : Nat) (x : Strand) : (putStrand c i x).ops = c.ops := rfl
@[simp] theorem putStrand_nextOp (c : Ctx) (i : Nat) (x : Strand) : (putStrand c i x).nextOp = c.nextOp := rfl
@[simp] theorem putStrand_shapes (c : Ctx) (i : Nat) (x : Strand) : (putStrand c i x).shapes = c.shapes := rfl
@[simp] theorem putStrand_wg (c : Ctx) (i : Nat) (x : Strand) : (putStrand c i x).wg = c.wg := rfl

@[simp] theorem putCursor_live (c : Ctx) (l : Nat) (x : BitVec 7) : (putCursor c l x).live = c.live := rfl
@[simp] theorem putCursor_sregs (c : Ctx) (l : Nat) (x : BitVec 7) : (putCursor c l x).sregs = c.sregs := rfl
@[simp] theorem putCursor_preds (c : Ctx) (l : Nat) (x : BitVec 7) : (putCursor c l x).preds = c.preds := rfl
@[simp] theorem putCursor_ks (c : Ctx) (l : Nat) (x : BitVec 7) : (putCursor c l x).ks = c.ks := rfl
@[simp] theorem putCursor_vregs (c : Ctx) (l : Nat) (x : BitVec 7) : (putCursor c l x).vregs = c.vregs := rfl
@[simp] theorem putCursor_allot (c : Ctx) (l : Nat) (x : BitVec 7) : (putCursor c l x).allot = c.allot := rfl
@[simp] theorem putCursor_launched (c : Ctx) (l : Nat) (x : BitVec 7) : (putCursor c l x).launched = c.launched := rfl
@[simp] theorem putCursor_status (c : Ctx) (l : Nat) (x : BitVec 7) : (putCursor c l x).status = c.status := rfl
@[simp] theorem putCursor_xb (c : Ctx) (l : Nat) (x : BitVec 7) : (putCursor c l x).xb = c.xb := rfl
@[simp] theorem putCursor_fflags (c : Ctx) (l : Nat) (x : BitVec 7) : (putCursor c l x).fflags = c.fflags := rfl
@[simp] theorem putCursor_tvec (c : Ctx) (l : Nat) (x : BitVec 7) : (putCursor c l x).tvec = c.tvec := rfl
@[simp] theorem putCursor_tframe (c : Ctx) (l : Nat) (x : BitVec 7) : (putCursor c l x).tframe = c.tframe := rfl
@[simp] theorem putCursor_mxlease (c : Ctx) (l : Nat) (x : BitVec 7) : (putCursor c l x).mxlease = c.mxlease := rfl
@[simp] theorem putCursor_bandbase (c : Ctx) (l : Nat) (x : BitVec 7) : (putCursor c l x).bandbase = c.bandbase := rfl
@[simp] theorem putCursor_wgid (c : Ctx) (l : Nat) (x : BitVec 7) : (putCursor c l x).wgid = c.wgid := rfl
@[simp] theorem putCursor_warpid (c : Ctx) (l : Nat) (x : BitVec 7) : (putCursor c l x).warpid = c.warpid := rfl
@[simp] theorem putCursor_launchid (c : Ctx) (l : Nat) (x : BitVec 7) : (putCursor c l x).launchid = c.launchid := rfl
@[simp] theorem putCursor_context (c : Ctx) (l : Nat) (x : BitVec 7) : (putCursor c l x).context = c.context := rfl
@[simp] theorem putCursor_asid (c : Ctx) (l : Nat) (x : BitVec 7) : (putCursor c l x).asid = c.asid := rfl
@[simp] theorem putCursor_sizing (c : Ctx) (l : Nat) (x : BitVec 7) : (putCursor c l x).sizing = c.sizing := rfl
@[simp] theorem putCursor_scratch0 (c : Ctx) (l : Nat) (x : BitVec 7) : (putCursor c l x).scratch0 = c.scratch0 := rfl
@[simp] theorem putCursor_scratch1 (c : Ctx) (l : Nat) (x : BitVec 7) : (putCursor c l x).scratch1 = c.scratch1 := rfl
@[simp] theorem putCursor_ipend (c : Ctx) (l : Nat) (x : BitVec 7) : (putCursor c l x).ipend = c.ipend := rfl
@[simp] theorem putCursor_ienable (c : Ctx) (l : Nat) (x : BitVec 7) : (putCursor c l x).ienable = c.ienable := rfl
@[simp] theorem putCursor_tcmp (c : Ctx) (l : Nat) (x : BitVec 7) : (putCursor c l x).tcmp = c.tcmp := rfl
@[simp] theorem putCursor_strands (c : Ctx) (l : Nat) (x : BitVec 7) : (putCursor c l x).strands = c.strands := rfl
@[simp] theorem putCursor_serials (c : Ctx) (l : Nat) (x : BitVec 7) : (putCursor c l x).serials = c.serials := rfl
@[simp] theorem putCursor_laneCalls (c : Ctx) (l : Nat) (x : BitVec 7) : (putCursor c l x).laneCalls = c.laneCalls := rfl
@[simp] theorem putCursor_ras (c : Ctx) (l : Nat) (x : BitVec 7) : (putCursor c l x).ras = c.ras := rfl
@[simp] theorem putCursor_spilled (c : Ctx) (l : Nat) (x : BitVec 7) : (putCursor c l x).spilled = c.spilled := rfl
@[simp] theorem putCursor_ops (c : Ctx) (l : Nat) (x : BitVec 7) : (putCursor c l x).ops = c.ops := rfl
@[simp] theorem putCursor_nextOp (c : Ctx) (l : Nat) (x : BitVec 7) : (putCursor c l x).nextOp = c.nextOp := rfl
@[simp] theorem putCursor_shapes (c : Ctx) (l : Nat) (x : BitVec 7) : (putCursor c l x).shapes = c.shapes := rfl
@[simp] theorem putCursor_wg (c : Ctx) (l : Nat) (x : BitVec 7) : (putCursor c l x).wg = c.wg := rfl

@[simp] theorem orFlags_live (c : Ctx) (x : BitVec 6) : (orFlags c x).live = c.live := rfl
@[simp] theorem orFlags_sregs (c : Ctx) (x : BitVec 6) : (orFlags c x).sregs = c.sregs := rfl
@[simp] theorem orFlags_preds (c : Ctx) (x : BitVec 6) : (orFlags c x).preds = c.preds := rfl
@[simp] theorem orFlags_ks (c : Ctx) (x : BitVec 6) : (orFlags c x).ks = c.ks := rfl
@[simp] theorem orFlags_vregs (c : Ctx) (x : BitVec 6) : (orFlags c x).vregs = c.vregs := rfl
@[simp] theorem orFlags_allot (c : Ctx) (x : BitVec 6) : (orFlags c x).allot = c.allot := rfl
@[simp] theorem orFlags_launched (c : Ctx) (x : BitVec 6) : (orFlags c x).launched = c.launched := rfl
@[simp] theorem orFlags_status (c : Ctx) (x : BitVec 6) : (orFlags c x).status = c.status := rfl
@[simp] theorem orFlags_xb (c : Ctx) (x : BitVec 6) : (orFlags c x).xb = c.xb := rfl
@[simp] theorem orFlags_tvec (c : Ctx) (x : BitVec 6) : (orFlags c x).tvec = c.tvec := rfl
@[simp] theorem orFlags_tframe (c : Ctx) (x : BitVec 6) : (orFlags c x).tframe = c.tframe := rfl
@[simp] theorem orFlags_mxlease (c : Ctx) (x : BitVec 6) : (orFlags c x).mxlease = c.mxlease := rfl
@[simp] theorem orFlags_bandbase (c : Ctx) (x : BitVec 6) : (orFlags c x).bandbase = c.bandbase := rfl
@[simp] theorem orFlags_wgid (c : Ctx) (x : BitVec 6) : (orFlags c x).wgid = c.wgid := rfl
@[simp] theorem orFlags_warpid (c : Ctx) (x : BitVec 6) : (orFlags c x).warpid = c.warpid := rfl
@[simp] theorem orFlags_launchid (c : Ctx) (x : BitVec 6) : (orFlags c x).launchid = c.launchid := rfl
@[simp] theorem orFlags_context (c : Ctx) (x : BitVec 6) : (orFlags c x).context = c.context := rfl
@[simp] theorem orFlags_asid (c : Ctx) (x : BitVec 6) : (orFlags c x).asid = c.asid := rfl
@[simp] theorem orFlags_sizing (c : Ctx) (x : BitVec 6) : (orFlags c x).sizing = c.sizing := rfl
@[simp] theorem orFlags_scratch0 (c : Ctx) (x : BitVec 6) : (orFlags c x).scratch0 = c.scratch0 := rfl
@[simp] theorem orFlags_scratch1 (c : Ctx) (x : BitVec 6) : (orFlags c x).scratch1 = c.scratch1 := rfl
@[simp] theorem orFlags_ipend (c : Ctx) (x : BitVec 6) : (orFlags c x).ipend = c.ipend := rfl
@[simp] theorem orFlags_ienable (c : Ctx) (x : BitVec 6) : (orFlags c x).ienable = c.ienable := rfl
@[simp] theorem orFlags_tcmp (c : Ctx) (x : BitVec 6) : (orFlags c x).tcmp = c.tcmp := rfl
@[simp] theorem orFlags_strands (c : Ctx) (x : BitVec 6) : (orFlags c x).strands = c.strands := rfl
@[simp] theorem orFlags_serials (c : Ctx) (x : BitVec 6) : (orFlags c x).serials = c.serials := rfl
@[simp] theorem orFlags_laneCalls (c : Ctx) (x : BitVec 6) : (orFlags c x).laneCalls = c.laneCalls := rfl
@[simp] theorem orFlags_ras (c : Ctx) (x : BitVec 6) : (orFlags c x).ras = c.ras := rfl
@[simp] theorem orFlags_spilled (c : Ctx) (x : BitVec 6) : (orFlags c x).spilled = c.spilled := rfl
@[simp] theorem orFlags_cursors (c : Ctx) (x : BitVec 6) : (orFlags c x).cursors = c.cursors := rfl
@[simp] theorem orFlags_ops (c : Ctx) (x : BitVec 6) : (orFlags c x).ops = c.ops := rfl
@[simp] theorem orFlags_nextOp (c : Ctx) (x : BitVec 6) : (orFlags c x).nextOp = c.nextOp := rfl
@[simp] theorem orFlags_shapes (c : Ctx) (x : BitVec 6) : (orFlags c x).shapes = c.shapes := rfl
@[simp] theorem orFlags_wg (c : Ctx) (x : BitVec 6) : (orFlags c x).wg = c.wg := rfl

@[simp] theorem orFlags_fflags (c : Ctx) (x : BitVec 6) : (orFlags c x).fflags = c.fflags ||| x := rfl

end Sys2Proof.Laws
end

