-- ==== Sys2Proof/Tests/Slice0.lean ====
section
/-! SUPPORT. Tests of the model: ill-formed terms that the well-formedness check refuses, words written out from the
spec's encoding tables, results that the spec's rules give, and, for the statements of Obligations.lean, states and
operands that meet their hypotheses together. -/

namespace Sys2Proof.Tests

set_option Elab.async false

open Sys2Proof Sys2Proof.Machine

/-! ## Ill-formed terms -/

/-- The accesses of s.ld, s.st, lg.ld and lg.st go up to a doubleword, and a fence's scope to 4; v.add has no further
check (05 R121, 23 R459, 12 R259). -/
theorem test_wf_sizes_and_scopes : Instr.wf (.sLd 0 7 1 2 0) = false ∧ Instr.wf (.sSt 0 7 1 2 0) = false ∧
    Instr.wf (.lgLd 7 1 2 3) = false ∧ Instr.wf (.lgSt 7 1 2 3) = false ∧ Instr.wf (.sLd 0 6 1 2 0) = true ∧
    Instr.wf (.fenceAcq 0 5) = false ∧ Instr.wf (.fenceRel 0 5) = false ∧ Instr.wf (.fenceAcqrel 0 7) = false ∧
    Instr.wf (.fenceSc 0 6) = false ∧ Instr.wf (.fenceSc 0 4) = true ∧ Instr.wf (.vAdd 0 7 1 2 3 0) = true := by
  decide

/-- Control registers 0x12 to 0x1F and from 0x23 on are none (02 R43). -/
theorem test_wf_control_registers : Instr.wf (.crRd 0 1 0x12) = false ∧ Instr.wf (.crWr 0 1 0x23) = false ∧
    Instr.wf (.crRd 0 1 0x11) = true ∧ Instr.wf (.crWr 0 1 0x22) = true := by decide

/-- The types that the vector forms accept (07 R151, R152, R155, R160, R165, R166, R171). -/
theorem test_wf_vector_types : Instr.wf (.vRem 0 3 1 2 3 0) = false ∧ Instr.wf (.vShl 0 0 1 2 3 0) = false ∧
    Instr.wf (.vShr 0 3 1 2 3 0) = false ∧ Instr.wf (.vMulhi 0 2 1 2 3 0) = false ∧
    Instr.wf (.vUnPopc 0 1 1 2 0) = false ∧ Instr.wf (.vUnClz 0 0 1 2 0) = false ∧ Instr.wf (.vUnCtz 0 3 1 2 0) = false ∧
    Instr.wf (.vUnBrev 0 2 1 2 0) = false ∧ Instr.wf (.vUnRint 0 4 1 2 0 0) = false ∧ Instr.wf (.vSqrt 0 4 1 2 0) = false ∧
    Instr.wf (.vSfuExp2 0 3 1 2 0) = false ∧ Instr.wf (.vSfuExpe 0 4 1 2 0) = false ∧ Instr.wf (.vSfuLog2 0 3 1 2 0) = false ∧
    Instr.wf (.vSfuLoge 0 7 1 2 0) = false ∧ Instr.wf (.vSfuRcp 0 3 1 2 0) = false ∧ Instr.wf (.vSfuRsqrt 0 3 1 2 0) = false ∧
    Instr.wf (.vSfuSinpi 0 5 1 2 0) = false ∧ Instr.wf (.vSfuCospi 0 3 1 2 0) = false ∧ Instr.wf (.vAct 0 3 1 2 0 0) = false ∧
    Instr.wf (.vPack 0 3 1 2 3 0) = false ∧ Instr.wf (.vDot 0 0 1 2 3 0) = false ∧ Instr.wf (.vShl 0 4 1 2 3 0) = true := by
  decide

/-- Shared-exponent blocks, mx.mma's formats, shp.get's selectors, a fork's absent join set and a multicast's targets
(10 R221, 19 R373, R386, 04 R97, 17 R334). -/
theorem test_wf_selectors : Instr.wf (.xSepk 0 3 1 2 1 0 0) = false ∧ Instr.wf (.xSepk 0 0 1 2 3 0 0) = false ∧
    Instr.wf (.xSeunpk 0 0 1 2 0 3 0) = false ∧ Instr.wf (.mxMma 0 0 0 0 7 0 0 0) = false ∧
    Instr.wf (.mxMma 0 0 0 0 3 1 0 0) = false ∧ Instr.wf (.mxMma 0 0 0 0 0 3 0 0) = false ∧
    Instr.wf (.shpGet 0 0 1 7) = false ∧ Instr.wf (.fork 1 2 3 0 4 0 0 0 0) = false ∧
    Instr.wf (.fork 1 2 3 0 0 0 0 0 1) = false ∧ Instr.wf (.cMcast 0 1 2 3 0 0 0 0) = false ∧
    Instr.wf (.mxDrain 0 1 2 3 0 0 5) = false ∧ Instr.wf (.mxDrain 0 1 2 3 0 1 5) = true ∧
    Instr.wf (.fork 1 2 3 1 4 1 0 0 0) = true := by decide

/-! ## Words of the encoding tables -/

/-- The two-word instructions with their extension words (04 R91, R96): fork k1, +3, +9 with join sets V4, V5 and V9 to
V11; c.copy and c.mcast under p1 with d = 2, a = 3, b = 4; and their words without one. -/
theorem test_decode_two_words :
    (decodeWord 0xC0401809 (some 0xFE219280)).toOption = some (.fork 1 3 9 1 4 1 1 9 2) ∧
    (decodeWord 0xD0404188 (some 0xFC000016)).toOption = some (.cCopy 1 2 3 4 1 0 1 2) ∧
    (decodeWord 0xD2404188 (some 0xFE00040B)).toOption = some (.cMcast 1 2 3 4 0x8001 1 0 3) ∧
    (decodeWord 0xC0401809 none).toOption = none ∧ (decodeWord 0xC0401809 (some 0x02000000)).toOption = none ∧
    (decodeWord 0xC0401809 (some 0xFE219281)).toOption = none := by
  decide +kernel

/-- Words of the encodings of 05 R111. -/
theorem test_decode_scalar_arithmetic : ∀ x ∈ ([
    (0x05037153, .sAluAdd 4 0x1B 0x22 0x29 1), (0x050B7153, .sAluSub 4 0x1B 0x22 0x29 1),
    (0x05137153, .sAluAnd 4 0x1B 0x22 0x29 1), (0x051B7153, .sAluOr 4 0x1B 0x22 0x29 1),
    (0x05237153, .sAluXor 4 0x1B 0x22 0x29 1), (0x052B7153, .sAluShl 4 0x1B 0x22 0x29 1),
    (0x05337153, .sAluShr 4 0x1B 0x22 0x29 1), (0x053B7153, .sAluSar 4 0x1B 0x22 0x29 1),
    (0x07037153, .sAlu2Mul 4 0x1B 0x22 0x29 1), (0x070B7153, .sAlu2Mulhs 4 0x1B 0x22 0x29 1),
    (0x07137153, .sAlu2Mulhn 4 0x1B 0x22 0x29 1), (0x071B7153, .sAlu2Min 4 0x1B 0x22 0x29 1),
    (0x07237153, .sAlu2Max 4 0x1B 0x22 0x29 1), (0x072B7153, .sAlu2Minn 4 0x1B 0x22 0x29 1),
    (0x07337153, .sAlu2Maxn 4 0x1B 0x22 0x29 1), (0x073B7153, .sAlu2Rotr 4 0x1B 0x22 0x29 1),
    (0x09037153, .sDivDivs 4 0x1B 0x22 0x29 1), (0x090B7153, .sDivDivn 4 0x1B 0x22 0x29 1),
    (0x09137153, .sDivRems 4 0x1B 0x22 0x29 1), (0x091B7153, .sDivRemn 4 0x1B 0x22 0x29 1)] : List (Nat × Instr)),
    decodeTableWord 32 x.1 = some x.2 := by decide +kernel

/-- Words of the encodings of 05 R112, R113. -/
theorem test_decode_scalar_immediates : ∀ x ∈ ([
    (0x0B1B8AA9, .sAddi 4 0x1B 0x22 0x2A9), (0x0D1B8AA9, .sAndi 4 0x1B 0x22 0x2A9),
    (0x0F1B8AA9, .sOri 4 0x1B 0x22 0x2A9), (0x111B8AA9, .sXori 4 0x1B 0x22 0x2A9),
    (0x131B62E2, .sMovi 4 0x1B 0x62E2), (0x149B62E2, .sMovk 1 0x1B 0x62E2)] : List (Nat × Instr)),
    decodeTableWord 32 x.1 = some x.2 := by decide +kernel

/-- Words of the encodings of 05 R114. -/
theorem test_decode_scalar_comparisons : ∀ x ∈ ([
    (0x17007153, .sCmpEq 4 3 0x22 0x29 1), (0x17087153, .sCmpNe 4 3 0x22 0x29 1),
    (0x17107153, .sCmpLts 4 3 0x22 0x29 1), (0x17187153, .sCmpLes 4 3 0x22 0x29 1),
    (0x17207153, .sCmpLtn 4 3 0x22 0x29 1), (0x17287153, .sCmpLen 4 3 0x22 0x29 1),
    (0x17307153, .sCmpTst 4 3 0x22 0x29 1), (0x17387153, .sCmpNtst 4 3 0x22 0x29 1),
    (0x19038AA9, .sCmpiEq 4 3 0x22 0x2A9), (0x190B8AA9, .sCmpiNe 4 3 0x22 0x2A9),
    (0x19138AA9, .sCmpiLts 4 3 0x22 0x2A9), (0x191B8AA9, .sCmpiLes 4 3 0x22 0x2A9),
    (0x19238AA9, .sCmpiLtn 4 3 0x22 0x2A9), (0x192B8AA9, .sCmpiLen 4 3 0x22 0x2A9),
    (0x19338AA9, .sCmpiTst 4 3 0x22 0x2A9), (0x193B8AA9, .sCmpiNtst 4 3 0x22 0x2A9)] : List (Nat × Instr)),
    decodeTableWord 32 x.1 = some x.2 := by decide +kernel

/-- Words of the encodings of 05 R115 to R117. -/
theorem test_decode_predicates_and_fields : ∀ x ∈ ([
    (0x1B006102, .pOpAnd 4 3 2 1), (0x1B086102, .pOpOr 4 3 2 1), (0x1B106102, .pOpXor 4 3 2 1),
    (0x1B186102, .pOpAndn 4 3 2 1), (0x1B206102, .pOpOrn 4 3 2 1), (0x1B286100, .pOpMov 4 3 2),
    (0x1B306000, .pOpSet 4 3), (0x1B386000, .pOpClr 4 3), (0x1D1C54E1, .sSel 4 3 0x22 0x29 0x30 1),
    (0x1F037152, .sBitExtz 4 0x1B 0x22 0x29), (0x1F0B7152, .sBitExts 4 0x1B 0x22 0x29),
    (0x1F137152, .sBitIns 4 0x1B 0x22 0x29), (0x1F1B7100, .sBitClz 4 0x1B 0x22), (0x1F237100, .sBitCtz 4 0x1B 0x22),
    (0x1F2B7100, .sBitPopc 4 0x1B 0x22), (0x1F337100, .sBitRev 4 0x1B 0x22), (0x1F3B7100, .sBitBswap 4 0x1B 0x22)] : List (Nat × Instr)),
    decodeTableWord 32 x.1 = some x.2 := by decide +kernel

/-- Words of the encodings of 05 R118 to R120, 02 R53, 04 R100, 08 R182 to R187. -/
theorem test_decode_control_flow : ∀ x ∈ ([
    (0x21004F1B, .b 4 0x4F1B), (0x23006EE2, .bInd 4 0x1B 0x2E2), (0x25004F1B, .call 4 0x4F1B),
    (0x27006EE2, .callInd 4 0x1B 0x2E2), (0x29380D81, .callLane 4 0x1B 1), (0x2B000000, .ret 4),
    (0xC2237153, .join 4 0x1B 0x22 0x29 1), (0xC4000000, .ends), (0xC6000000, .armwait), (0xC8040000, .smask 4),
    (0xCA000000, .exit), (0xCD006EE2, .setx 4 0x1B 0x2E2), (0xF03D2000, .rep 1 1 1 0x29)] : List (Nat × Instr)),
    decodeTableWord 32 x.1 = some x.2 := by decide +kernel

/-- Words of the encodings of 05 R121 to R130, 14 R275, R278. -/
theorem test_decode_scalar_memory_and_system : ∀ x ∈ ([
    (0x03000000, .nop 4), (0x2D1C54F0, .sLd 4 3 0x22 0x29 0x70), (0x2F1C54F0, .sSt 4 3 0x22 0x29 0x70),
    (0x31037152, .sAmoAdd 4 0x1B 0x22 0x29), (0x310B7152, .sAmoAnd 4 0x1B 0x22 0x29),
    (0x31137152, .sAmoOr 4 0x1B 0x22 0x29), (0x311B7152, .sAmoXor 4 0x1B 0x22 0x29),
    (0x31237152, .sAmoMax 4 0x1B 0x22 0x29), (0x312B7152, .sAmoMin 4 0x1B 0x22 0x29),
    (0x31337152, .sAmoXchg 4 0x1B 0x22 0x29), (0x313B7152, .sAmoCas 4 0x1B 0x22 0x29),
    (0x331B88A9, .sLeaGstore 4 0x1B 0x22 0xA9), (0x331B89A9, .sLeaSpill 4 0x1B 0x22 0xA9),
    (0x331B8AA9, .sLeaClause 4 0x1B 0x22 0xA9), (0x35004F1B, .trap 4 0x4F1B), (0x36000000, .sysret),
    (0x391B02E2, .crRd 4 0x1B 0x2E2), (0x3B006EE2, .crWr 4 0x1B 0x2E2), (0x3C000000, .idle),
    (0x3F037100, .launch 4 0x1B 0x22), (0x3F0B7100, .lwait 4 0x1B 0x22), (0x3F137100, .launchCtx 4 0x1B 0x22)] : List (Nat × Instr)),
    decodeTableWord 32 x.1 = some x.2 := by decide +kernel

/-- Words of the encodings of 07 R151 to R158, R165. -/
theorem test_decode_vector_arithmetic : ∀ x ∈ ([
    (0x411C54E1, .vAdd 4 3 0x22 0x29 0x30 1), (0x431C54E1, .vSub 4 3 0x22 0x29 0x30 1),
    (0x451C54E1, .vMul 4 3 0x22 0x29 0x30 1), (0x471C54E1, .vFma 4 3 0x22 0x29 0x30 1),
    (0x491C54E1, .vFnma 4 3 0x22 0x29 0x30 1), (0x4B1C54E1, .vMin 4 3 0x22 0x29 0x30 1),
    (0x4D1C54E1, .vMax 4 3 0x22 0x29 0x30 1), (0x4F1C54E1, .vDiv 4 3 0x22 0x29 0x30 1),
    (0x511C54E1, .vRem 4 3 0x22 0x29 0x30 1), (0x531C5481, .vSqrt 4 3 0x22 0x29 1),
    (0x551C54E1, .vAnd 4 3 0x22 0x29 0x30 1), (0x571C54E1, .vOr 4 3 0x22 0x29 0x30 1),
    (0x591C54E1, .vXor 4 3 0x22 0x29 0x30 1), (0x5B1C54E1, .vShl 4 3 0x22 0x29 0x30 1),
    (0x5D1C54E1, .vShr 4 3 0x22 0x29 0x30 1), (0x5F1C5481, .vUnAbs 4 3 0x22 0x29 1),
    (0x5F1C5483, .vUnNeg 4 3 0x22 0x29 1), (0x5F1C5485, .vUnNot 4 3 0x22 0x29 1),
    (0x5F1C5487, .vUnPopc 4 3 0x22 0x29 1), (0x5F1C5489, .vUnClz 4 3 0x22 0x29 1),
    (0x5F1C548B, .vUnCtz 4 3 0x22 0x29 1), (0x5F1C548D, .vUnBrev 4 3 0x22 0x29 1),
    (0x5F1C5493, .vUnRint 4 3 0x22 0x29 1 1), (0x691C54E1, .vBsel 4 3 0x22 0x29 0x30 1),
    (0x6D1C5481, .vMov 4 3 0x22 0x29 1), (0x7B1C54E1, .vMulhi 4 3 0x22 0x29 0x30 1),
    (0x7F1C54E1, .vDot 4 3 0x22 0x29 0x30 1)] : List (Nat × Instr)),
    decodeTableWord 32 x.1 = some x.2 := by decide +kernel

/-- Words of the encodings of 07 R156 to R173. -/
theorem test_decode_vector_moves_and_functions : ∀ x ∈ ([
    (0x611854E1, .vCmpEq 4 3 2 0x29 0x30 1), (0x611954E1, .vCmpNe 4 3 2 0x29 0x30 1),
    (0x611A54E1, .vCmpLt 4 3 2 0x29 0x30 1), (0x611B54E1, .vCmpLe 4 3 2 0x29 0x30 1),
    (0x611C54E1, .vCmpGt 4 3 2 0x29 0x30 1), (0x611D54E1, .vCmpGe 4 3 2 0x29 0x30 1),
    (0x631C54E1, .vCmpsEq 4 3 0x22 0x29 0x30 1), (0x651C54E1, .vCmpsLt 4 3 0x22 0x29 0x30 1),
    (0x671C54E1, .vCmpsLe 4 3 0x22 0x29 0x30 1), (0x6B1C549F, .vCvt 4 3 0x22 0x29 1 7 1),
    (0x6F1C56A9, .vMovi 4 3 0x22 0x16A9), (0x711C5480, .vBcs 4 3 0x22 0x29), (0x751C5481, .vSfuExp2 4 3 0x22 0x29 1),
    (0x751C5483, .vSfuExpe 4 3 0x22 0x29 1), (0x751C5485, .vSfuLog2 4 3 0x22 0x29 1),
    (0x751C5487, .vSfuLoge 4 3 0x22 0x29 1), (0x751C5489, .vSfuRcp 4 3 0x22 0x29 1),
    (0x751C548B, .vSfuRsqrt 4 3 0x22 0x29 1), (0x751C548D, .vSfuSinpi 4 3 0x22 0x29 1),
    (0x751C548F, .vSfuCospi 4 3 0x22 0x29 1), (0x771C5483, .vAct 4 3 0x22 0x29 1 1),
    (0x79007153, .actLd 4 3 0x22 0x29 1), (0x78080000, .actFlip), (0x7D1C54E1, .vPack 4 3 0x22 0x29 0x30 1)] : List (Nat × Instr)),
    decodeTableWord 32 x.1 = some x.2 := by decide +kernel

/-- Words of the encodings of 10 R212 to R226. -/
theorem test_decode_cross_lane : ∀ x ∈ ([
    (0x811C54E1, .xShfl 4 3 0x22 0x29 0x30 1), (0x833B7109, .xShfliXor 4 0x1B 0x22 9),
    (0x833B7129, .xShfliUp 4 0x1B 0x22 9), (0x833B7149, .xShfliDown 4 0x1B 0x22 9),
    (0x833B7169, .xShfliRot 4 0x1B 0x22 9), (0x851C54E1, .xBcast 4 3 0x22 0x29 0x30 1),
    (0x871C5481, .xRedAdd 4 3 0x22 0x29 1), (0x871C5483, .xRedMin 4 3 0x22 0x29 1),
    (0x871C5485, .xRedMax 4 3 0x22 0x29 1), (0x871C5487, .xRedAnd 4 3 0x22 0x29 1),
    (0x871C5489, .xRedOr 4 3 0x22 0x29 1), (0x871C548B, .xRedXor 4 3 0x22 0x29 1),
    (0x891C5491, .xScanAdd 4 3 0x22 0x29 1 1), (0x891C5493, .xScanMin 4 3 0x22 0x29 1 1),
    (0x891C5495, .xScanMax 4 3 0x22 0x29 1 1), (0x891C5497, .xScanAnd 4 3 0x22 0x29 1 1),
    (0x891C5499, .xScanOr 4 3 0x22 0x29 1 1), (0x891C549B, .xScanXor 4 3 0x22 0x29 1 1),
    (0x8B185481, .xBallot 4 3 2 0x29 1), (0x8D006102, .kOpAnd 4 3 2 1), (0x8D086102, .kOpOr 4 3 2 1),
    (0x8D106102, .kOpXor 4 3 2 1), (0x8D186102, .kOpAndn 4 3 2 1), (0x8D206100, .kOpNot 4 3 2),
    (0x8D286100, .kOpMov 4 3 2), (0x8D007101, .kOpFrom 4 3 0x22), (0x8D0B6101, .kOpTo 4 0x1B 2),
    (0x8D136101, .kOpPopc 4 0x1B 2), (0x8F3C54E1, .bsRd 4 1 0x22 0x29 0x30 1),
    (0x91037153, .bsFill 4 0x1B 0x22 0x29 1), (0x93036000, .bsCurGet 4 0x1B), (0x93000D83, .bsCurSet 4 0x1B 1),
    (0x951C548D, .xSepk 4 3 0x22 0x29 1 2 1), (0x971C548D, .xSeunpk 4 3 0x22 0x29 1 2 1),
    (0x99006100, .kTestAny 4 3 2), (0x99086100, .kTestAll 4 3 2)] : List (Nat × Instr)),
    decodeTableWord 32 x.1 = some x.2 := by decide +kernel

/-- Words of the encodings of 12 R250 to R261, 11 R245, 23 R459, R461. -/
theorem test_decode_vector_memory : ∀ x ∈ ([
    (0xA11C54E1, .mLd 4 3 0x22 0x29 0x30 1), (0xA31C54E1, .mSt 4 3 0x22 0x29 0x30 1),
    (0xA51C4052, .mLds 4 3 0x22 0x29), (0xB11B8AA9, .mArrive 4 0x1B 0x22 0x2A9),
    (0xB31B8AA9, .mWait 4 0x1B 0x22 0x2A9), (0xB5000030, .fenceAcq 4 3), (0xB5000031, .fenceRel 4 3),
    (0xB5000032, .fenceAcqrel 4 3), (0xB5000033, .fenceSc 4 3), (0xB5000004, .fenceTlr 4),
    (0xB73B7101, .mPush 4 0x1B 0x22 1), (0xB73B7102, .mPop 4 0x1B 0x22), (0xF2237152, .lgLd 4 0x1B 0x22 0x29),
    (0xF2637152, .lgSt 4 0x1B 0x22 0x29), (0xF2800000, .lgBar)] : List (Nat × Instr)),
    decodeTableWord 32 x.1 = some x.2 := by decide +kernel

/-- Words of the encodings of 12 R252, 16 R319 to R321. -/
theorem test_decode_vector_atomics : ∀ x ∈ ([
    (0xA7062A70, .mAtomWAdd 4 1 0x22 0x29 0x30), (0xA70E2A70, .mAtomWMin 4 1 0x22 0x29 0x30),
    (0xA7162A70, .mAtomWMax 4 1 0x22 0x29 0x30), (0xA71E2A70, .mAtomWMinn 4 1 0x22 0x29 0x30),
    (0xA7262A70, .mAtomWMaxn 4 1 0x22 0x29 0x30), (0xA72E2A70, .mAtomWAnd 4 1 0x22 0x29 0x30),
    (0xA7362A70, .mAtomWOr 4 1 0x22 0x29 0x30), (0xA73E2A70, .mAtomWXor 4 1 0x22 0x29 0x30),
    (0xA9062A70, .mAtomDAdd 4 1 0x22 0x29 0x30), (0xA90E2A70, .mAtomDMin 4 1 0x22 0x29 0x30),
    (0xA9162A70, .mAtomDMax 4 1 0x22 0x29 0x30), (0xA91E2A70, .mAtomDMinn 4 1 0x22 0x29 0x30),
    (0xA9262A70, .mAtomDMaxn 4 1 0x22 0x29 0x30), (0xA92E2A70, .mAtomDAnd 4 1 0x22 0x29 0x30),
    (0xA9362A70, .mAtomDOr 4 1 0x22 0x29 0x30), (0xA93E2A70, .mAtomDXor 4 1 0x22 0x29 0x30),
    (0xAB062A70, .mAtomPAdd 4 1 0x22 0x29 0x30), (0xAB0E2A70, .mAtomPMin 4 1 0x22 0x29 0x30),
    (0xAB162A70, .mAtomPMax 4 1 0x22 0x29 0x30), (0xAB1E2A70, .mAtomPMinn 4 1 0x22 0x29 0x30),
    (0xAB262A70, .mAtomPMaxn 4 1 0x22 0x29 0x30), (0xAB2E2A70, .mAtomPAnd 4 1 0x22 0x29 0x30),
    (0xAB362A70, .mAtomPOr 4 1 0x22 0x29 0x30), (0xAB3E2A70, .mAtomPXor 4 1 0x22 0x29 0x30),
    (0xAD062A70, .mXchg 4 1 0x22 0x29 0x30), (0xAF062A70, .mCas 4 1 0x22 0x29 0x30),
    (0xB93C54E1, .mLdv 4 1 0x22 0x29 0x30 1), (0xBB3C54E1, .mStv 4 1 0x22 0x29 0x30 1),
    (0xBD1C5481, .mRcnAdd 4 3 0x22 0x29 1), (0xBD1C5483, .mRcnMax 4 3 0x22 0x29 1),
    (0xBD1C5485, .mRcnMin 4 3 0x22 0x29 1), (0xBD1C5487, .mRcnOr 4 3 0x22 0x29 1),
    (0xBD1C548B, .mRcnPick 4 3 0x22 0x29 1 1)] : List (Nat × Instr)),
    decodeTableWord 32 x.1 = some x.2 := by decide +kernel

/-- Words of the encodings of 17 R339, R340, 20 R400 to R403, 19 R372 to R389. -/
theorem test_decode_engines : ∀ x ∈ ([
    (0xD5036000, .cClose 4 0x1B), (0xD7037100, .cWait 4 0x1B 0x22), (0xD9030000, .rPost 4 3),
    (0xDB038AA9, .rWait 4 3 0x22 0x2A9), (0xDD000000, .tBandOpen 4), (0xDD000001, .tBandClose 4),
    (0xE11C54E0, .shpSet 4 3 0x22 0x29 0x30), (0xE31C4052, .shpGet 4 3 0x22 0x29),
    (0xE411B8A9, .mxMap 4 0x1B 0x22 0x29), (0xE71A9AFB, .mxMma 4 3 2 9 5 1 0x3D 1),
    (0xE91A9C37, .mxMv 4 3 2 9 0x30 0x37), (0xEA47153D, .mxDrain 4 3 0x22 0x29 1 1 5),
    (0xED1A0000, .mxAccZero 4 3 2), (0xED1A4090, .mxAccLoad 4 3 2 9), (0xED1AA900, .mxAccGet 4 3 2 0x29),
    (0xEE000000, .mxLeaseAcq), (0xEE800000, .mxLeaseRel), (0xEF21B880, .mxLeaseBind 1 0x1B 0x22)] : List (Nat × Instr)),
    decodeTableWord 32 x.1 = some x.2 := by decide +kernel


/-- Words that are none (04 R82, R92): the all-zero word, a major that no row has, a header, and v.add with a zero field
that is not zero. -/
theorem test_decode_refused : decodeTableWord 32 0 = none ∧ decodeTableWord 32 0xFE000000 = none ∧
    decodeTableWord 32 0xF8800000 = none ∧ decodeTableWord 32 0x02000001 = none ∧ decodeTableWord 32 0x1E000001 = none := by
  decide +kernel

/-- The words that the spec's own worked examples work out: the tour's fork, loads, load of lanes and guarded add (04, 01),
s.lea (05), call.lane (05 R120's example), v.fma (07), v.cmp (06), and the bit-stream reader's words (10). -/
theorem test_decode_worked_words :
    decodeTableWord 32 0x2C306080 = some (.sLd 0 6 3 1 0) ∧ decodeTableWord 32 0x2C308081 = some (.sLd 0 6 4 1 1) ∧
    (decodeWord 0xC040380B (some 0xFE208C00)).toOption = some (.fork 1 7 11 1 4 0 1 6 0) ∧
    decodeTableWord 32 0xA0302006 = some (.mLd 0 6 1 0 3 0) ∧ decodeTableWord 32 0x40710407 = some (.vAdd 1 6 8 8 3 1) ∧
    decodeTableWord 32 0x32050213 = some (.sLeaClause 0 5 0 19) ∧ decodeTableWord 32 0x28B80200 = some (.callLane 2 4 0) ∧
    decodeTableWord 32 0x46014598 = some (.vFma 0 0 10 11 12 0) ∧ decodeTableWord 32 0x60A24084 = some (.vCmpLt 2 4 2 1 2 0) ∧
    decodeTableWord 32 0x92000002 = some (.bsCurSet 0 0 0) ∧ decodeTableWord 32 0x8E388096 = some (.bsRd 0 1 4 1 11 0) ∧
    decodeTableWord 32 0x9000C086 = some (.bsFill 0 6 1 3 0) := by decide +kernel

/-- The tour's clause headers (01 R23, 04): a full vector clause of one word with window v0 to v15, and scalar clauses of
two words. -/
theorem test_decode_headers : (decodeHeader 0xF84C0078).n = 1 ∧ (decodeHeader 0xF84C0078).ecl = 1 ∧
    (decodeHeader 0xF84C0078).full = true ∧ (decodeHeader 0xF84C0078).quiet = false ∧ (decodeHeader 0xF84C0078).wbase = 0 ∧
    (decodeHeader 0xF84C0078).wlen = 15 ∧ (decodeHeader 0xF8800078).n = 2 ∧ (decodeHeader 0xF8800078).ecl = 0 ∧
    encodeHeader (decodeHeader 0xF84C0078) = 0xF84C0078 := by decide +kernel

/-! ## States that meet the statements' hypotheses

The states below are the reset state with one warp, or one system core, standing at a one-word clause, and a few fields
set. The vector states have lanes 0 and 31 alone active. -/

/-- Warp 0 at the clause of a word, with fields of its context set. -/
def warpAt (w x : Code) (f : Ctx → Ctx) : State := putCtx (placeCode State.reset w x) 0 (f (codeWarp w))

/-- Warp 0 at s.alu.add s1, s2, s3. -/
def warp (f : Ctx → Ctx) : State := warpAt 0x04002106 0 f

/-- Its strand, with fields set. -/
def strand (f : Strand → Strand) : List (Nat × Strand) :=
  [(0, f { valid := true, root := true, mask := 0x80000001, ca := 0x3000000, wi := 1, begun := true, pinned := true,
           hdr := { n := 1, ecl := 0, full := false, quiet := false, lease := false, wbase := 0, wlen := 0, low := 0 } })]

/-- Scalar registers of full values. -/
def sregs (vs : List (Nat × Word)) : List (Nat × Reg) := vs.map fun v => (v.1, { val := v.2 })

/-- Lanes 0 and 31 of vector registers. -/
def vregs (vs : List (Nat × Word × Word)) : List (Nat × Reg) :=
  vs.flatMap fun v => [(v.1 * 64, { val := v.2.1 }), (v.1 * 64 + 31, { val := v.2.2 })]

/-- A result with a value equals that value. -/
theorem ok_of {α β : Type} {e : Except α β} {x : β} (h : e.toOption = some x) : e = .ok x := by
  cases e <;> simp_all [Except.toOption]

/-- s2 = 5, s3 = 0xFFFFFFFFFFFFFFFE, s4 empty, s5 poisoned, s6 being filled; p1 to p7 are 0. -/
def scalars : State := warp fun c =>
  { c with sregs := sregs [(2, 5), (3, 0xFFFFFFFFFFFFFFFE)] ++ [(4, { fill := .empty }), (5, { poison := true }), (6, { fill := .pending })] }

/-- The same with every predicate 1, in supervisor mode. -/
def supervisor : State := warp fun c => { c with sregs := sregs [(2, 5), (3, 0xFFFFFFFFFFFFFFFE)], status := 0x201, preds := 0xFE }

/-- System core 0 at the same clause, running, with fields of its context set. -/
def system (f : Ctx → Ctx) : State :=
  { placeCode State.reset 0x04002106 0 with
    ctxs := [(systemBase, f { live := true, status := 0x201, sregs := sregs [(2, 0x3010008)],
                              strands := [(0, { valid := true, root := true, ca := 0x3000000, wi := 1, begun := true })] })]
    focus := ⟨systemBase, 0⟩
    tlbs := [(768, [{ asid := 0, leaf := codeLeaf }])]
    dies := [(0, { sc := [(0, { running := true })] })] }

/-- A step's operands, put into the state. -/
def given (s : State) (x : EventArgs) : State := { s with input := x }

/-- A warp of workgroup 1, which has 32 KiB of group store, four tiles and two owned rings. -/
def grouped (f : Ctx → Ctx) : State :=
  { warp fun c => f { c with wg := 1, strands := strand id } with
    wgs := [(1, { live := true, glen := 0x8000, warps := [0], tiles := [0, 1, 2, 3],
                  rings := [(0, { phase := 5, depth := 2, owners := 1 })] })]
    nextWgKey := 2 }

/-- Its lanes 0 and 31 with V1, offsets of 8 bytes a lane in V2, and V3; s2 a page of die store, s5 the group store. -/
def vectors : State := grouped fun c =>
  { c with vregs := vregs [(1, 0x0102030405060708, 0x80000000FFFFFFFF), (2, 0, 248), (3, 0xFFFFFFFF00000005, 3)]
           sregs := sregs [(2, 0x3010000), (3, 0x7C), (5, BitVec.ofNat 64 groupBase), (62, 0x3A00)] }

/-- The words of a tile-layout record (17 R325). -/
def recordWords (base rb swz fmt rows dp sp scale : Nat) : List Word :=
  [BitVec.ofNat 64 base, BitVec.ofNat 64 ((rb / 8 - 1) * 2 ^ 32 + swz * 2 ^ 16 + fmt * 2 ^ 12 + rows - 1),
   BitVec.ofNat 64 (dp * 2 ^ 32 + sp), BitVec.ofNat 64 scale, 0, 0, 0, 0]

/-- A record stored in die store. -/
def withRecord (s : State) (off : Nat) (ws : List Word) : State := writeBytes s (dieStoreBase + off) (wordsBytes ws)

/-- The record at an address, with the state that its reading leaves. -/
def recordAt (s : State) (rec : Word) : Record × State :=
  match fetchRecord s rec with
  | .ok x => x
  | .error _ => ({}, s)

theorem recordAt_ok {s : State} {rec : Word} (h : (fetchRecord s rec).toOption.isSome = true) :
    fetchRecord s rec = .ok (recordAt s rec) := by
  unfold recordAt; split <;> simp_all [Except.toOption]

/-- A warp whose s5 names a record of 4 rows of 32 bytes; s9 and s10 two places in the group store, s11 zero. -/
def copying : State :=
  let vs := [(5, 0x3010000), (9, BitVec.ofNat 64 (groupBase + 0x1000)), (10, BitVec.ofNat 64 (groupBase + 0x4000))]
  withRecord (grouped fun c => { c with sregs := sregs vs })
    0x3010000 (recordWords 0 32 0 0 4 40 48 0)

/-- ScalarArithmeticResults, ScalarImmediatesAndFields, PredicatesAreSet and ScalarAndPredicateFrames: registers that
hold values, an immediate operand, a destination that is writable, s0 among them. -/
theorem test_wit_scalar_operands : guardP scalars 0 = true ∧ holdsS scalars 2 5 ∧ operandB scalars 3 0 0xFFFFFFFFFFFFFFFE ∧
    operandB scalars 0x3F 1 0xFFFFFFFFFFFFFFFF ∧ holdsS scalars 3 0xFFFFFFFFFFFFFFFE ∧ writableS scalars 1 ∧
    writableS scalars 0 ∧ holdsS scalars 0 0 ∧ operandB scalars 0 0 0 := by
  unfold operandB holdsS writableS; decide +kernel

/-- The frames are of instructions that go on. -/
theorem test_wit_scalar_next : ∃ t p, exec (.sAluAdd 0 1 2 3 0) scalars = .next t ∧ exec (.sCmpEq 0 1 2 3 0) scalars = .next p :=
  ⟨_, _, rfl, rfl⟩

/-- ScalarFormsThatDoNothing: a guard that is 0; a source that is empty, one that is poisoned, and a destination that is
being filled. -/
theorem test_wit_scalar_waits : guardP scalars 7 = false ∧ guardP scalars 0 = true ∧
    (getS (cur scalars) 4).fill ≠ .full ∧ (getS (cur scalars) 5).fill = .full ∧ (getS (cur scalars) 5).poison = true ∧
    holdsS scalars 2 5 ∧ operandB scalars 3 0 0xFFFFFFFFFFFFFFFE ∧ holdsS scalars 3 0xFFFFFFFFFFFFFFFE ∧ ¬writableS scalars 6 ∧
    (6 : BitVec 3).toNat < 7 ∧ isSystem scalars.focus.key = false ∧ crRight false false (0x011 : BitVec 10).toNat ≠ .undefined ∧
    (curStrand scalars).lwait = none ∧ (curStrand scalars).rwait = none := by
  unfold operandB holdsS writableS; decide +kernel

/-- BranchesCallsAndReturnsTransfer: s2 names the clause itself, s3 its word 1 and s4 no multiple of 4; 15 entries of the
return-address stack in use. -/
def branching : State := warp fun c =>
  { c with sregs := sregs [(2, 0x3000000), (3, 0x3000004), (4, 0x3000002)], ras := List.replicate 14 7 ++ [rasWord 0x3000040 0 false] }

theorem test_wit_branches : guardP branching 0 = true ∧ holdsS branching 2 0x3000000 ∧ legalTarget branching 0x3000000 ∧
    holdsS branching 3 0x3000004 ∧ codeHeld branching branching.focus.key 0x3000004 = false ∧
    (∃ w, fetchCode branching branching.focus.key 0x3000004 = .ok w ∧ isHeader w = false) ∧
    holdsS branching 4 0x3000002 ∧ (0x3000002 : Word).toNat % 4 ≠ 0 ∧ (cur branching).ras.length < 16 ∧
    legalTarget branching ((curStrand branching).ca + 4 * (0 : BitVec 22).signExtend 64) := by
  refine ⟨by decide +kernel, by unfold holdsS; decide +kernel,
    ⟨by decide, by decide +kernel, _, ok_of (x := 0xF8800000) ?_, by decide +kernel⟩,
    by unfold holdsS; decide +kernel, by decide +kernel, ⟨_, ok_of (x := 0x04002106) ?_, by decide +kernel⟩,
    by unfold holdsS; decide +kernel, by decide, by decide +kernel,
    ⟨by decide +kernel, by decide +kernel, _, ok_of (x := 0xF8800000) ?_, by decide +kernel⟩⟩ <;> decide +kernel

theorem test_wit_returns : (cur branching).ras = List.replicate 14 7 ++ [rasWord 0x3000040 branching.focus.slot false] ∧
    branching.focus.slot < 8 ∧ (curStrand branching).ser = false ∧ rasVisible scalars = [] := by decide +kernel

/-- A direct call one word on is to a word that is no header. -/
theorem test_wit_call_to_no_header :
    (curStrand branching).ca + 4 * (1 : BitVec 22).signExtend 64 = 0x3000004 ∧ guardP branching 0 = true ∧
    codeHeld branching branching.focus.key 0x3000004 = false ∧
    (fetchCode branching branching.focus.key 0x3000004).toOption = some 0x04002106 ∧ isHeader 0x04002106 = false := by
  decide +kernel

/-- LaneCallRunsTheLowestGroup: lanes 0 and 31 with two targets; and a strand without an active lane. -/
def laneCalling (m : Mask) : State := warp fun c =>
  { c with strands := strand fun x => { x with mask := m }, vregs := vregs [(2, 0x3000000, 0x3000000)] }

theorem test_wit_lane_call : namesV (laneCalling 0x80000001) 2 (curStrand (laneCalling 0x80000001)).overA 2 ∧
    lanesHold (laneCalling 0x80000001) [2] (activeLanes (laneCalling 0x80000001) 0) ∧
    (∃ l ∈ activeLanes (laneCalling 0x80000001) 0, laneVal (cur (laneCalling 0x80000001)) 2 l = 0x3000000) ∧
    (∀ l ∈ activeLanes (laneCalling 0x80000001) 0, legalTarget (laneCalling 0x80000001) 0x3000000 ∧
      laneVal (cur (laneCalling 0x80000001)) 2 l = 0x3000000) ∧
    freeLaneCall (cur (laneCalling 0x80000001)) = some 0 ∧ (cur (laneCalling 0x80000001)).ras.length < 16 ∧
    activeLanes (laneCalling 0) 0 = [] := by
  have h : legalTarget (laneCalling 0x80000001) 0x3000000 :=
    ⟨by decide, by decide +kernel, _, ok_of (x := 0xF8800000) (by decide +kernel), by decide +kernel⟩
  refine ⟨by unfold namesV; decide +kernel, by unfold lanesHold; decide +kernel, by decide +kernel, fun l hl => ⟨h, ?_⟩,
    by decide +kernel, by decide +kernel, by decide +kernel⟩
  revert l; decide +kernel

/-- RepTakesUpItsCount: rep of the a field before v.add, which it may repeat; before s.alu.add, which it may not; and at
the end of its clause. -/
def repAt (next : Code) (wi : BitVec 4) : State := warpAt 0xF010E000 next fun c =>
  { c with strands := strand fun x => { x with wi := wi, hdr := { x.hdr with n := 2 } } }

theorem test_wit_rep : (curStrand (repAt 0x40002106 1)).wi.toNat < (curStrand (repAt 0x40002106 1)).hdr.n.toNat ∧
    (fetchCode (repAt 0x40002106 1) 0 0x3000008).toOption = some 0x40002106 ∧ repTarget 0x40002106 false true false = true ∧
    (fetchCode (repAt 0x04002106 1) 0 0x3000008).toOption = some 0x04002106 ∧ repTarget 0x04002106 false true false = false ∧
    (curStrand (repAt 0x40002106 2)).hdr.n.toNat ≤ (curStrand (repAt 0x40002106 2)).wi.toNat := by decide +kernel

/-- ScalarAccessesComplete: a warp's accesses at S[2] + (−1) × 8; the last byte of the page at S[4]; an atomic at S[2]. -/
def accessing : State := warp fun c => { c with sregs := sregs [(2, 0x3010008), (3, 9), (4, 0x303FFFF)] }

theorem test_wit_warp_accesses : guardP accessing 0 = true ∧ isSystem accessing.focus.key = false ∧ notReplayed accessing ∧
    scalarSize 6 = true ∧ holdsS accessing 2 0x3010008 ∧ holdsS accessing 4 0x303FFFF ∧
    accessesPass accessing .load 8 [0x3010000] ∧ accessesPass accessing .store 8 [0x3010000] ∧
    accessesPass accessing .load 1 [0x303FFFF] ∧ accessesPass accessing .store 1 [0x303FFFF] ∧
    accessesPass accessing .atomic 8 [0x3010008] ∧ noFenceHolds accessing ∧ writableS accessing 1 ∧ holdsS accessing 3 9 ∧
    targetAt accessing 0x3010000 = .home (dieStoreBase + 0x3010000) ∧
    targetAt accessing 0x303FFFF = .home (dieStoreBase + 0x303FFFF) := by
  unfold notReplayed holdsS accessesPass noFenceHolds writableS targetAt; decide +kernel

theorem test_wit_system_load : guardP (system id) 0 = true ∧ isSystem (system id).focus.key = true ∧ holdsS (system id) 2 0x3010008 ∧
    writableS (system id) 1 ∧ accessesPass (system id) .load 8 [0x3010000] ∧
    targetAt (system id) 0x3010000 = .home (dieStoreBase + 0x3010000) ∧ mainTop ≤ dieStoreBase + 0x3010000 ∧
    (cur (system id)).ops = [] ∧ portFrozen (system id) (keyDie systemBase) (dieStoreBase + 0x3010000) = false ∧
    poisonedRun (system id) (dieStoreBase + 0x3010000) 8 = false := by
  unfold holdsS accessesPass writableS targetAt; decide +kernel

/-- ControlRegistersReadAndWrite: a warp in either mode, and numbers at the ends of each clause's range. -/
theorem test_wit_control_registers : unrecorded scalars ∧ unrecorded supervisor ∧ isPriv (cur scalars) = false ∧
    isPriv (cur supervisor) = true ∧ guardP supervisor 0 = true ∧ isSystem supervisor.focus.key = false ∧
    holdsS supervisor 3 0xFFFFFFFFFFFFFFFE ∧ writableS supervisor 1 ∧
    (0x0F : BitVec 10).toNat ≤ 0x0F ∧ (0x11 : BitVec 10).toNat ≤ 0x11 ∧ 0x12 ≤ (0x12 : BitVec 10).toNat := by
  unfold unrecorded notReplayed holdsS writableS; decide +kernel

/-- A system core in both modes, and the numbers that none of its registers has. -/
theorem test_wit_system_registers :
    let u := system fun c => { c with status := 0x200 }
    guardP (system id) 0 = true ∧ isSystem (system id).focus.key = true ∧ isPriv (cur (system id)) = true ∧
    writableS (system id) 1 ∧ holdsS (system id) 2 0x3010008 ∧ guardP u 0 = true ∧ isSystem u.focus.key = true ∧
    isPriv (cur u) = false ∧ writableS u 1 ∧ holdsS u 2 0x3010008 ∧ (0x11 : BitVec 10).toNat ≤ 0x11 ∧
    0x012 ≤ (0x012 : BitVec 10).toNat ∧ (0x01F : BitVec 10).toNat < 0x020 ∧ 0x020 ≤ (0x020 : BitVec 10).toNat ∧
    (0x022 : BitVec 10).toNat ≤ 0x022 ∧ 0x022 < (0x023 : BitVec 10).toNat := by
  unfold holdsS writableS; decide +kernel

/-- TrapEntryWritesTheFrame and SysretRestoresFromTheFrame: a frame at the last place of the spill window that holds one,
and a warp in a handler whose frame is there. -/
def handling (status : BitVec 12) : State := warp fun c =>
  { c with status := status, tvec := 0x3000000, tframe := BitVec.ofNat 64 (spillBase + 0x3000) }

theorem test_wit_trap_entry : isSystem (handling 0x200).focus.key = false ∧ isInTrap (cur (handling 0x200)) = false ∧
    frameFailure (handling 0x200) = none ∧ regionOf (cur (handling 0x200)).tframe.toNat = .spill ∧
    (handling 0x200).sessions = [] ∧ (curStrand (handling 0x200)).valid = true ∧ (handling 0x200).focus.slot < 8 ∧
    entryEarly (handling 0x200) = false := by
  decide +kernel

theorem test_wit_sysret : isPriv (cur (handling 0x221)) = true ∧ isInTrap (cur (handling 0x221)) = true ∧
    frameFailure (settleFrame (handling 0x221)) .load = none ∧ (curStrand (handling 0x221)).valid = true ∧
    isSystem (handling 0x221).focus.key = false ∧ regionOf (cur (handling 0x221)).tframe.toNat = .spill ∧
    (cur (handling 0x221)).cause1 ≠ 0x11 ∧
    (cur (settleFrame (handling 0x221))).ops.any (touchesFrame (settleFrame (handling 0x221))) = false ∧
    bitAt (BitVec.ofNat 64 (readNat (settleFrame (handling 0x221)) (spillPlace 0 0x3000 + 8 * 0) 8)) 12 = false := by decide +kernel

/-- The frame's doublewords are sound; and a frame with END. -/
theorem test_wit_sysret_frame : (∀ k, k < 384 → poisonedRun (settleFrame (handling 0x221)) (spillPlace 0 0x3000 + 8 * k) 8 = false) ∧
    bitAt (BitVec.ofNat 64 (readNat (settleFrame (writeBytes (handling 0x221) (spillPlace 0 0x3000) [0x10, 0x10])) (spillPlace 0 0x3000 + 8 * 0) 8)) 12 =
      true := by decide +kernel

/-- TrapsAndInterruptsStrike: a warp in a handler; one whose frame is in no window that it may write; a strand that can
issue; a system core with an enabled interrupt pending and a frame in its memory; and TCMP at TIME and after it. -/
theorem test_wit_double_trap : isInTrap (cur (handling 0x221)) = true ∧ (handling 0x221).sessions = [] ∧
    isInTrap (cur scalars) = false ∧ entryEarly scalars = false ∧ frameFailure scalars = some 0x0C ∧
    issuable scalars scalars.input.who = true := by
  decide +kernel

def interrupted : State := { given (system fun c =>
  { c with status := 0x203, ipend := 3, ienable := 2, tvec := 0x3000000, tframe := 0x3020000, tcmp := 7 }) {} with time := 7 }

/-- Causes 0x0E and 0x18 for the strand, and one that no instruction takes; and a strand whose act.flip is pending. -/
theorem test_wit_causes :
    let s := given scalars { value := 0x0E }
    flipPending { scalars with cores := [(0, { actFlip := some ⟨0, 0⟩ })] } scalars.input.who = true ∧
    (trapOf s 0x0E 0 0 false).isSome = true ∧ (trapOf s 0x18 0 0 true).isSome = true ∧ trapOf s 0x15 0 0 false = none ∧
    s.input.value.toNat = 0x0E ∧ issuable s s.input.who = true ∧ flipPending s s.input.who = false := by decide +kernel

theorem test_wit_interrupt : frameHeld interrupted = false ∧ issuable interrupted ⟨systemBase, 0⟩ = true ∧ interruptDue interrupted = true ∧
    isInTrap (cur interrupted) = false ∧ frameFailure interrupted = none ∧ interrupted.sessions = [] ∧
    entryEarly interrupted = false ∧ codeLeaf.type = 1 ∧
    (∀ k, k < 48 → cachedLeaf interrupted (keyCache systemBase) (cur interrupted).asid (frameAddress (cur interrupted) + 64 * k) = some codeLeaf ∧
      physOf (leafPa codeLeaf (frameAddress (cur interrupted) + 64 * k)) = .die 0 (0x3020000 + 64 * k)) ∧
    (getCtx interrupted systemBase).live = true ∧ (getCtx interrupted systemBase).tcmp = interrupted.time ∧
    isSystem systemBase = true := by decide +kernel

/-- SystemInstructions: both modes, an enabled interrupt pending on a system core, a warp that has been idle for 4,096
ticks and one that has not begun to be, and sums of setx at 0, 255, −1 and 256. -/
def idling (w : Wait) : State :=
  { warp fun c => { c with status := 0x201, strands := strand fun x => { x with wait := w } } with time := 5000 }

theorem test_wit_system_instructions : guardP scalars 0 = true ∧ isPriv (cur scalars) = false ∧ isPriv (cur supervisor) = true ∧
    isPriv (cur interrupted) = true ∧ isSystem interrupted.focus.key = true ∧
    (cur interrupted).ipend &&& (cur interrupted).ienable ≠ 0 ∧
    (curStrand (idling (.held .idle 904))).wait = .held .idle 904 ∧ isPriv (cur (idling .ready)) = true ∧
    4096 ≤ ((idling (.held .idle 904)).time - 904).toNat ∧ (curStrand (idling .ready)).wait = .ready ∧
    holdsS scalars 2 5 ∧ (5 : Word).toInt + (0x3FB : BitVec 10).toInt = 0 ∧ (5 : Word).toInt + (250 : BitVec 10).toInt = 255 ∧
    (5 : Word).toInt + (0x3FA : BitVec 10).toInt < 0 ∧ 256 ≤ (5 : Word).toInt + (251 : BitVec 10).toInt := by
  unfold holdsS; decide +kernel

/-- LaunchesIssue: a launch that is live, and one that has completed with status 7. -/
def waitingFor (p : Partition) : State := { scalars with parts := [(0, p)] }

theorem test_wit_launches : guardP scalars 0 = true ∧ holdsS scalars 2 5 ∧ writableS scalars 1 ∧ isPriv (cur supervisor) = true ∧
    unrecorded (waitingFor { done := [(5, 7)], issued := 6 }) ∧
    launchStatus (getPart (waitingFor { done := [(5, 7)], issued := 6 }) 0) 5 = some 7 ∧
    notReplayed (waitingFor { launches := [(5, { live := true })], issued := 6 }) ∧
    launchStatus (getPart (waitingFor { launches := [(5, { live := true })], issued := 6 }) 0) 5 = none ∧
    (curStrand (waitingFor {})).lwait = none := by
  unfold unrecorded notReplayed holdsS writableS; decide +kernel

/-- What a launch waits for: nothing, or the strand's own store; and an lwait that has issued, for launch 5. -/
theorem test_wit_launch_reads :
    let t := warp fun c => { c with ops := [{ id := 3, slot := 0, order := 1, kind := .store, dst := 0, accs := [{}] }] }
    let u := waitingFor { done := [(5, 7)], issued := 6 }
    let v := setStrand u { curStrand u with lwait := some { d := 1, a := 2, id := 5 } }
    strandDone (cur scalars).ops scalars.focus.slot true true = true ∧
    carderMayRead scalars 5 (readLaunch scalars false 5) ∧ carderMayRead supervisor 5 (readLaunch supervisor true 5) ∧
    holdsS supervisor 2 5 ∧ strandDone (cur t).ops t.focus.slot true true = false ∧ holdsS t 2 0 ∧ writableS t 1 ∧
    isSystem v.focus.key = false ∧ unrecorded v ∧ (curStrand v).lwait = some { d := 1, a := 2, id := 5 } ∧
    launchStatus (getPart v (partOf v (keyDie v.focus.key))) 5 = some 7 ∧ holdsS v 2 5 ∧ writableS v 1 := by
  unfold carderMayRead unrecorded notReplayed holdsS writableS; decide +kernel

/-- VectorArithmeticForms, VectorOneSourceForms, VectorComparisonsMovesAndConversions, the long forms, the shuffles,
reductions and scans: three registers of the allotment with readable sources and a free destination, apart and the
same, on types of each kind. -/
theorem test_wit_vector_operands : namesDab vectors 4 1 3 4 1 3 ∧ namesDab vectors 1 1 3 1 1 3 ∧ namesDa vectors 4 1 4 1 ∧
    lanesHold vectors [1, 3] (activeLanes vectors 0) ∧ lanesHold vectors [1, 3, 4] (activeLanes vectors 0) ∧
    lanesFree vectors [4] (activeLanes vectors 0) ∧ lanesFree vectors [1] (activeLanes vectors 0) ∧
    activeLanes vectors 0 = [0, 31] := by
  unfold namesDab namesDa namesV lanesHold lanesFree; decide +kernel

theorem test_wit_vector_types : integerType 4 = true ∧ integerType 7 = true ∧ integerType 3 = false ∧ floatType 0 = true ∧
    floatType 3 = true ∧ floatType 4 = false ∧ narrowType 2 = true ∧ narrowType 3 = false ∧ packType 5 = true ∧
    packType 3 = false ∧ (1 : BitVec 3) = 1 ∧ (0 : BitVec 3) ≠ 1 ∧ 1 < subs 4 ∧ 0 < subs 6 := by decide

/-- VectorArithmeticForms on a float type: 1.0 × 2.0 + 0.25 in the low sub-elements of binary32 (type 0), whose exact sum in
units of 2^−25 is no 0, and 0 × ∞ in both orders. -/
theorem test_wit_fused : floatType 0 = true ∧ 1 < subs 0 ∧ fmtOf 0 = binary32 ∧
    numOf binary32 (sub 0x3F800000 0 0) = .fin false 0x800000 (-23) ∧ numOf binary32 (sub 0x40000000 0 0) = .fin false 0x800000 (-22) ∧
    numOf binary32 (sub 0x3E800000 0 0) = .fin false 0x800000 (-25) ∧ numOf binary32 (sub 0 0 0) = .fin false 0 (-149) ∧
    numOf binary32 (sub 0xFF800000 0 0) = .inf true := by decide +kernel

/-- FloatsRoundToNearestEven: patterns that are no NaNs, the greatest among them; a magnitude between two numbers, and
one half-way. -/
theorem test_wit_float_patterns : (∀ f ∈ [binary64, binary32, binary16, bfloat16], f.infBits < 2 * f.signBit ∧
      isNan f f.infBits = false ∧ isNan f (2 * f.signBit - 1) = true ∧ (-1100 : Int) ≤ f.emin - f.fbits) ∧
    (roundNum binary16 0 (.fin true 0x12345678 (-25))).1 % binary16.signBit < binary16.infBits ∧
    (roundNum bfloat16 0 (.fin false 0x101 (-8))).1 = 0x3F80 ∧ 0x3F81 < bfloat16.infBits := by decide +kernel

/-- Magnitudes about the largest finite binary16, 65504, whose last place is 32: below it and half a unit, at half a unit, below
and at a whole one; in units of 2^−24. -/
theorem test_wit_overflow : numOf binary16 (binary16.infBits - 1) = .fin false 2047 5 ∧
    (2 : Int) ^ (binary16.emin + 2 ^ binary16.ebits - 3 - binary16.fbits - -24).toNat = 32 * 2 ^ 24 ∧
    (-24 : Int) ≤ binary16.emin - binary16.fbits ∧ 2 * (65519 * 2 ^ 24) < 2 * (2047 * 2 ^ 29) + 32 * 2 ^ 24 ∧
    2 * (2047 * 2 ^ 29) + 32 * 2 ^ 24 ≤ 2 * (65520 * 2 ^ 24) ∧ 2047 * 2 ^ 29 < 65505 * 2 ^ 24 ∧
    65535 * 2 ^ 24 < 2047 * 2 ^ 29 + 32 * 2 ^ 24 ∧ 2047 * 2 ^ 29 + 32 * 2 ^ 24 ≤ 65536 * 2 ^ 24 := by decide +kernel

theorem test_wit_scalar_source : holdsS vectors 3 0x7C ∧ narrowType 1 = true ∧ (curCore vectors).actFlip = none := by
  unfold holdsS; decide +kernel

/-- DeliveredLanesAndTheirFrame: results for lanes 0 and 63. -/
theorem test_wit_delivered : ((([(0, (5, 1)), (63, (7, 4))] : List (Nat × (Word × BitVec 6)))).map Prod.fst).Nodup ∧
    (∀ o ∈ ([(0, (5, 1)), (63, (7, 4))] : List (Nat × (Word × BitVec 6))), o.1 < 64) ∧
    ∃ t, doneV vectors 5 [(0, (5, 1)), (63, (7, 4))] = .next t := ⟨by decide, by decide, _, rfl⟩

/-- LaneMaskForms: a guard that is 1, S[3] that holds a value, S[1] that is writable. -/
theorem test_wit_lane_masks : guardP vectors 0 = true ∧ holdsS vectors 3 0x7C ∧ writableS vectors 1 ∧
    lanesHold vectors [1] (activeLanes vectors 0) ∧ namesV vectors 1 (curStrand vectors).overA 1 := by
  unfold holdsS writableS lanesHold namesV; decide +kernel

/-- BitStreamsAndSharedExponents: windows with cursors at 0 and 64, of which the second slides; and for each format and
a type whose wide operand has 8 registers or more, registers that fit. -/
def streaming : State := grouped fun c =>
  { c with vregs := vregs [(1, 0x0102030405060708, 9), (2, 7, 8), (3, 5, 6)], cursors := [(31, 64)] }

theorem test_wit_bit_streams : namesDa streaming 5 1 5 1 ∧ lanesFree streaming [5] [0, 31] ∧ activeLanes streaming 0 = [0, 31] ∧
    runFits streaming 1 1 ∧ lanesHold streaming [1, 2] [0, 31] ∧ namesV streaming 3 (curStrand streaming).overB 3 ∧
    ([0, 31].filter fun l => decide (64 ≤ (getCursor (cur streaming) l).toNat)) = [31] ∧
    lanesHold streaming [2, 3] [31] ∧ lanesFree streaming [1, 2] [31] ∧ lanesHold streaming [1] [0, 31] := by
  unfold namesDa namesV lanesHold lanesFree runFits; decide +kernel

theorem test_wit_shared_exponents : namesDa vectors 5 8 5 8 ∧ narrowType 0 = true ∧ (1 : BitVec 2) ≠ 3 ∧ (0 : BitVec 2) ≠ 3 ∧
    (2 : BitVec 2) ≠ 3 ∧ runFits vectors 8 15 ∧ runFits vectors 5 15 ∧
    lanesHold vectors ((List.range 16).map fun k => 8 + k) (activeLanes vectors 0) ∧
    lanesHold vectors [6] (activeLanes vectors 0) ∧ lanesHold vectors [9] (activeLanes vectors 0) ∧
    lanesFree vectors [5] (activeLanes vectors 0) ∧ lanesFree vectors [6] (activeLanes vectors 0) ∧
    lanesFree vectors ((List.range 16).map fun k => 5 + k) (activeLanes vectors 0) := by
  unfold namesDa namesV lanesHold lanesFree runFits; decide +kernel

/-- VectorAccessesAndAtomicsIssue: the lanes' addresses S[2] + V2 in a page of die store, for loads, stores and atomics
of 8 bytes and of 16; and no active lane. -/
theorem test_wit_vector_accesses : namesV vectors 6 (curStrand vectors).overD 6 ∧ holdsS vectors 2 0x3010000 ∧ notReplayed vectors ∧
    noFenceHolds vectors ∧ runFits vectors 6 1 ∧ namesV vectors 2 (curStrand vectors).overA 2 ∧
    [0, 31].map (laneAt vectors 0x3010000 2) = [0x3010000, 0x30100F8] ∧
    lanesHold vectors [2, 6, 7] [0, 31] ∧ lanesFree vectors [6, 7] [0, 31] ∧
    accessesPass vectors .load 8 [0x3010000, 0x30100F8] ∧ accessesPass vectors .store 8 [0x3010000, 0x30100F8] ∧
    accessesPass vectors .atomic 8 [0x3010000, 0x30100F8] ∧ accessesPass vectors .load 16 [0x3010000, 0x30100F0] ∧
    activeLanes (laneCalling 0) 0 = [] ∧ activeLanes vectors 0 ≠ [] := by
  unfold namesV holdsS notReplayed noFenceHolds runFits lanesHold lanesFree accessesPass; decide +kernel

/-- PerformedAccessesActOnMemory: a store that waits at a home in die store, the only operation of its warp. -/
def storing : MemOp :=
  { id := 3, slot := 0, order := 1, kind := .store, dst := 0, accs := [{ lane := 2, place := dieStoreBase + 0x3010000, len := 8, pa := dieStoreBase + 0x3010000, data := 0x1122334455667788 }] }

def stored : State := grouped fun c => { c with ops := [storing] }

theorem test_wit_performed : findOp (getCtx stored 0) 3 = some storing ∧ storing.id = 3 ∧ storing.kind = .store ∧
    storing.accs[0]?.isSome = true ∧ (storing.accs.map fun a => (a.done, a.cell, decide (mainTop ≤ a.place))) = [(false, false, true)] ∧
    replays stored 0 = false ∧ (launchOf stored 0).recording = false ∧
    ([{ data := 3 }, { data := 4 }] : List Access)[1]? = some { data := 4 } ∧ (5 : Nat) < 2 ^ (8 * 4) := by decide +kernel

/-- BarriersAndFences: a barrier word at the group store's start that passes the checks of m.arrive and m.wait, with a
token of another phase; a fence with nothing before it, one before which a store waits, and a reserved scope. -/
def barred : State := grouped fun c => { c with sregs := sregs [(5, BitVec.ofNat 64 groupBase), (6, 9)] }

theorem test_wit_barriers : guardP barred 0 = true ∧ holdsS barred 5 (BitVec.ofNat 64 groupBase) ∧ notReplayed barred ∧
    regionOf groupBase = .group ∧ accessesPass barred .barrier 8 [groupBase] ∧
    targetAt barred groupBase = .home (groupPlace 0 0) ∧ writableS barred 6 ∧ noFenceHolds barred ∧ holdsS barred 6 9 ∧
    unrecorded barred ∧ waitReady barred (groupPlace 0 0) = true ∧ (barrierWord barred 0 [0] (groupPlace 0 0)).2 = false ∧
    phaseOf (barrierWord barred 0 [0] (groupPlace 0 0)).1 ≠ (9 : Word).toNat % 2 ^ 16 ∧
    bf (0x5000600000002 : Word) 15 0 ≤ bf (0x5000600010002 : Word) 31 16 + 1 ∧
    bf (0x5000600000002 : Word) 31 16 + 1 < bf (0x5000600000002 : Word) 15 0 := by
  unfold holdsS notReplayed accessesPass targetAt writableS noFenceHolds unrecorded notReplayed; decide +kernel

theorem test_wit_fences : (cur barred).ops = [] ∧ isSystem barred.focus.key = false ∧ (∀ c ∈ barred.cores, c.2.engine = []) ∧
    (4 : BitVec 3).toNat < 5 ∧ 5 ≤ (5 : BitVec 3).toNat ∧ fenceDone stored 1 4 = false ∧ storing ∈ (cur stored).ops ∧
    storing.order.getLsbD stored.focus.slot = true ∧ (storing.accs.map fun a => a.done) = [false] ∧
    ((cur (passFence stored 1)).ops.map fun o => o.released) = [true] := by decide +kernel

/-- PushAndPop: two frames that end at 0x3C00, two that begin at 0, one more in each case, and an offset of 4. -/
def spilling (x : Word) : State := grouped fun c => { c with sregs := sregs [(62, x)] }

theorem test_wit_push : namesV (spilling 0x3A00) 1 (curStrand (spilling 0x3A00)).overD 1 ∧ holdsS (spilling 0x3A00) 62 0x3A00 ∧
    runFits (spilling 0x3A00) 1 1 ∧ lanesHold (spilling 0x3A00) [1, 2] [0, 31] ∧ isWide (cur (spilling 0x3A00)) = false ∧
    (0x3A00 : Word).toNat + 2 * 256 ≤ 0x3C00 ∧ noFenceHolds (spilling 0x3A00) ∧
    accessesPass (spilling 0x3A00) .store 8 [spillBase + 0x3A00, spillBase + 0x3B00, spillBase + 0x3AF8, spillBase + 0x3BF8] ∧
    holdsS (spilling 0x3A08) 62 0x3A08 ∧ 0x3C00 < (0x3A08 : Word).toNat + 2 * 256 ∧ holdsS (spilling 4) 62 4 := by
  unfold namesV holdsS runFits lanesHold noFenceHolds accessesPass; decide +kernel

theorem test_wit_pop : holdsS (spilling 0x200) 62 0x200 ∧ lanesFree (spilling 0x200) [1, 2] [0, 31] ∧
    accessesPass (spilling 0x200) .load 8 [spillBase, spillBase + 0x100, spillBase + 0xF8, spillBase + 0x1F8] ∧
    holdsS (spilling 0x1F8) 62 0x1F8 ∧ (0x1F8 : Word).toNat < 2 * 256 := by
  unfold holdsS lanesFree accessesPass; decide +kernel

/-- SiblingAndCompatibilityForms: lanes at two cells of a die whose batt is enabled; and lanes in the group store, the
strand a root with no access outstanding. -/
def celled : State :=
  { grouped fun c => { c with vregs := vregs [(2, 0x4000000, 0x40000F8), (3, 0, 1)] } with
    dies := [(0, { battEn := true })]
    tlbs := [(0, [{ asid := 0, leaf := codeLeaf }, { asid := 0, leaf := { codeLeaf with va := 0x4000000, pa := cellBase 0, type := 2, stype := 2, spol := 1 } }])] }

theorem test_wit_sibling_forms : namesDa celled 6 2 6 2 ∧ notReplayed celled ∧ namesV celled 3 (curStrand celled).overB 3 ∧
    runFits celled 6 1 ∧ runFits celled 3 1 ∧ lanesHold celled [2, 3, 4] [0, 31] ∧ lanesFree celled [6, 7] [0, 31] ∧
    [0, 31].map (laneAt celled 0 2) = [0x4000000, 0x40000F8] ∧ accessesPass celled .cellLoad 8 [0x4000000, 0x40000F8] ∧
    accessesPass celled .cellStore 8 [0x4000000, 0x40000F8] ∧ accessesPass celled .cellBoth 8 [0x4000000, 0x40000F8] ∧
    noFenceHolds celled := by
  unfold namesDa namesV notReplayed runFits lanesHold lanesFree accessesPass noFenceHolds; decide +kernel

theorem test_wit_compatibility_forms : namesDa vectors 6 2 6 2 ∧ holdsS vectors 5 (BitVec.ofNat 64 groupBase) ∧ (6 : BitVec 3) ≠ 7 ∧
    lanesHold vectors [2, 6] [0, 31] ∧ lanesFree vectors [6] [0, 31] ∧
    accessesPass vectors .lgLoad 8 [groupBase, groupBase + 8 * 248] ∧ accessesPass vectors .lgStore 8 [groupBase, groupBase + 8 * 248] ∧
    noFenceHolds vectors ∧ (curStrand vectors).root = true ∧ (cur vectors).ops = [] ∧
    ((workgroupRoots vectors).all fun r => r == vectors.focus || atBarrier vectors r) = true := by
  unfold namesDa namesV holdsS lanesHold lanesFree accessesPass noFenceHolds; decide +kernel

/-- StrandsForkWaitAndExit: both arms with lanes and free slots, without join sets and with V4, V5; no free slot, in a
handler too, and a free serial record or none. -/
def forking (others : List (Nat × Strand)) : State := warp fun c => { c with strands := strand id ++ others, ks := [(1, 1)] }

def crowd : List (Nat × Strand) := (List.range 7).map fun i => (i + 1, { valid := true })

theorem test_wit_fork : isInTrap (cur (forking [])) = false ∧ unrecorded (forking []) ∧ (curStrand (forking [])).valid = true ∧
    (forking []).focus.slot < 8 ∧ (curStrand (forking [])).mask &&& getK (cur (forking [])) 1 ≠ 0 ∧
    (curStrand (forking [])).mask &&& ~~~ getK (cur (forking [])) 1 ≠ 0 ∧
    openSlots (cur (forking [])) = 1 :: 2 :: [3, 4, 5, 6, 7] ∧ unrecorded (forking crowd) ∧
    isInTrap (cur (forking crowd)) = false ∧ openSlots (cur (forking crowd)) = [] ∧
    ((List.range 8).find? fun j => decide ((getSerial (cur (forking crowd)) j).stage = 0)) = some 0 := by
  unfold unrecorded notReplayed; decide +kernel

theorem test_wit_join_sets : (joinSet (forking []) 1 4 1).toOption = some (some (4, 1)) ∧
    (joinSet (forking []) 0 0 0).toOption = some none ∧ joinRegs (some (4, 1)) = [4, 5] ∧ joinRegs none = [] ∧
    lanesOf ((curStrand (forking [])).mask &&& 1) = [0] ∧ lanesOf ((curStrand (forking [])).mask &&& ~~~ 1) = [31] ∧
    lanesFree (forking []) [4, 5] [0] ∧ lanesFree (forking []) [] [31] := by
  unfold lanesFree; decide +kernel

/-- A fork in a handler has free slots and runs its arms in turn; with every serial record taken it cannot. -/
theorem test_wit_serial_fork :
    let h := warp fun c => { c with status := 0x221, strands := strand id, ks := [(1, 1)] }
    let t := warp fun c => { c with strands := strand id ++ crowd, ks := [(1, 1)]
                                    serials := (List.range 8).map fun j => (j, { stage := 1 }) }
    isInTrap (cur h) = true ∧ (openSlots (cur h)).length = 7 ∧ unrecorded h ∧ (curStrand h).valid = true ∧
    (curStrand h).mask &&& getK (cur h) 1 ≠ 0 ∧ openSlots (cur t) = [] ∧ unrecorded t ∧
    ((List.range 8).find? fun j => decide ((getSerial (cur t) j).stage = 0)) = none := by
  unfold unrecorded notReplayed; decide +kernel

/-- join of two sources by a mask, with full lanes and with an empty one, an arm that ends, and a strand without
descendants and with one. -/
theorem test_wit_join : namesDab vectors 4 1 3 4 1 3 ∧
    (∀ l ∈ [0, 31], ∀ r ∈ [1, 3], (getV (cur vectors) r l).fill = .full ∧ (getV (cur vectors) r l).poison = false) ∧
    lanesFree vectors [4] [0, 31] ∧ lanesOf (curStrand vectors).mask = [0, 31] ∧ descendants (forking []) = [] ∧
    (curStrand (warp fun c => { c with strands := strand fun x => { x with root := false } })).root = false ∧
    (curStrand (forking [])).ser = false ∧
    (getV (cur (grouped fun c => { c with vregs := [(3 * 64 + 31, { fill := .empty })] })) 3 31).fill ≠ .full ∧
    descendants (forking [(1, { valid := true, parent := 0 })]) ≠ [] := by unfold namesDab namesV lanesFree; decide +kernel

/-- Arms that end: one with a slot of its own, and serial ones whose record has arm B to come and has none. -/
theorem test_wit_ends :
    let s := fun (r : Serial) => warp fun c => { c with strands := strand fun x => { x with ser := true }, serials := [(0, r)] }
    let t := warp fun c => { c with strands := strand fun x => { x with root := false } }
    isSystem t.focus.key = false ∧ (curStrand t).ser = false ∧ (curStrand t).root = false ∧
    (curStrand (s { stage := 1, bmask := 8 })).ser = true ∧
    (getSerial (cur (s { stage := 1, bmask := 8 })) (curStrand (s { stage := 1, bmask := 8 })).sidx.toNat).bmask ≠ 0 ∧
    (getSerial (cur (s { stage := 2, bmask := 8 })) (curStrand (s { stage := 2, bmask := 8 })).sidx.toNat).stage ≠ 1 ∧
    (curStrand (forking [])).root = true := by decide +kernel

/-- exit of a warp's last strand, of a system core's, and with another strand of the root live, or in a serial arm; with
another root's strand live; and with an error that CPYTRAP makes trap. -/
theorem test_wit_exit :
    let others := fun s : State =>
      (liveSlots (cur s)).filter fun i => i != s.focus.slot && sameRoot (cur s) (curStrand s) (getStrand (cur s) i)
    let two := warp fun c => { c with status := 0x240, strands := strand (fun x => { x with mask := 1 }) ++
      [(1, { valid := true, root := true, mask := 0x10000 })] }
    let bad := warp fun c => { c with status := 0x204, batches := [{ number := 7, complete := true, errors := 2 }] }
    others scalars = [] ∧ (curStrand scalars).ser = false ∧ storesDone (cur scalars) = true ∧ isCpyTrap (cur scalars) = false ∧
    transfersDone scalars scalars.focus.key = true ∧ unreported (cur scalars) = false ∧ storesDone (cur (system id)) = true ∧
    others two = [] ∧ (getStrand (cur two) 1).valid = true ∧ (curStrand two).ser = false ∧ storesDone (cur two) = true ∧
    transfersDone two two.focus.key = true ∧ others bad = [] ∧ isCpyTrap (cur bad) = true ∧ unreported (cur bad) = true ∧
    storesDone (cur bad) = true ∧ transfersDone bad bad.focus.key = true ∧ (∀ i, i < 8 → i ≠ scalars.focus.slot → (getStrand (cur scalars) i).valid = false) ∧
    (getWg scalars (cur scalars).wg).live = false ∧ others (system id) = [] ∧ isSystem (system id).focus.key = true ∧
    (curStrand (system id)).ser = false ∧ isCpyTrap (cur (system id)) = false ∧ others (forking crowd) ≠ [] := by
  decide +kernel

/-- TransfersIssue: a legal record, a copy between two places of the group store, and room in the lock table; a
multicast of it to workgroups 0 and 15. Results are written as options: some x where they are ok x. -/
theorem test_wit_copy : guardP copying 0 = true ∧ holdsS copying 10 (BitVec.ofNat 64 (groupBase + 0x4000)) ∧
    holdsS copying 9 (BitVec.ofNat 64 (groupBase + 0x1000)) ∧ holdsS copying 5 0x3010000 ∧
    (fetchRecord copying 0x3010000).toOption.isSome = true ∧ flagsLegal (recordAt copying 0x3010000).1 false false = true ∧
    (checkCopy (recordAt copying 0x3010000).2 (recordAt copying 0x3010000).1 (groupBase + 0x1000) (groupBase + 0x4000)
      false false).toOption = some () ∧
    hullsShare (hullOf (.group 0 0x1000) 0 (hullLength 4 48 32) false) (hullOf (.group 0 0x4000) 0 (hullLength 4 40 32) true) =
      false ∧
    (curCore (recordAt copying 0x3010000).2).locks = [] ∧ isPriv (cur copying) = false ∧
    regionOf (groupBase + 0x4000) = .group ∧ (0x8001 : BitVec 16) ≠ 0 ∧
    (targetCores (recordAt copying 0x3010000).2 1 0 0x4000 (hullLength 4 40 32) 0x8001).length ≤ 1 ∧
    (curStrand (recordAt copying 0x3010000).2).inRep = false := by
  unfold holdsS; decide +kernel

/-- c.close with room for a batch; c.wait of a number that is none, of a complete batch and of one that is not. -/
def batched (done : Bool) : State :=
  grouped fun c => { c with sregs := sregs [(11, 7)], batchNumber := 7, batches := [{ number := 7, complete := done, errors := 2 }] }

theorem test_wit_batches : writableS (batched true) 6 ∧ ((cur (batched true)).batches.filter fun b => !b.complete).length < 32 ∧
    holdsS (batched true) 11 7 ∧ unrecorded (batched true) ∧ isCpyTrap (cur (batched true)) = false ∧
    batchesUpTo (cur (batched true)).batches 8 = none ∧
    batchesUpTo (cur (batched true)).batches 7 = some [{ number := 7, complete := true, errors := 2 }] ∧
    batchesUpTo (cur (batched false)).batches 7 = some [{ number := 7, complete := false, errors := 2 }] := by
  unfold writableS holdsS unrecorded notReplayed; decide +kernel

/-- A core's engine with an open copy of the warp, one of another warp, and one that is in a batch already. -/
theorem test_wit_close :
    let o : EngineOp := { id := 3, wg := 1, kind := .copy {} (.group 0 0) (.group 0 0x4000) false false false 0 }
    let s := { batched true with cores := [(0, { engine := [o, { o with id := 4, warp := 1 }, { o with id := 5, closed := true }] })] }
    guardP s 0 = true ∧ writableS s 6 ∧ ((cur s).batches.filter fun b => !b.complete).length < 32 ∧
    (getCore s 0).engine[0]? = some o ∧ o.wg = (cur s).wg ∧ o.warp = (cur s).warpid.toNat ∧ inBatches o.kind = true ∧
    o.closed = false ∧ ((getCore s 0).engine[1]?.map fun p => p.warp) = some 1 ∧
    ((getCore s 0).engine[2]?.map fun p => p.closed) = some true := by
  unfold writableS; decide +kernel

/-- RingsAndBands: an owned ring whose phase has passed the token by 1, by 32,767, by 0 and by 32,768; no ring; a band
that is open and one that is not; a system core. -/
theorem test_wit_rings : guardP vectors 0 = true ∧ ringOf vectors 0 = some { phase := 5, depth := 2, owners := 1 } ∧
    ringOf vectors 1 = none ∧ unrecorded vectors ∧ ((5 : BitVec 16) - 4).toNat = 1 ∧ ((5 : BitVec 16) - 0x8006).toNat = 32767 ∧
    ((5 : BitVec 16) - 5).toNat = 0 ∧ 32767 < ((5 : BitVec 16) - 0x8005).toNat ∧ (curStrand vectors).rwait = none ∧
    (curStrand (setStrand vectors { curStrand vectors with rwait := some 4 })).rwait = some 4 ∧
    ringOf (setStrand vectors { curStrand vectors with rwait := some 4 }) 0 = some { phase := 5, depth := 2, owners := 1 } ∧
    isSystem vectors.focus.key = false ∧ (cur vectors).bandbase = 0 ∧ (getWg vectors (cur vectors).wg).band.isOpen = false ∧
    (putWg vectors 1 { getWg vectors 1 with band := { isOpen := true, number := 3 } }).focus = vectors.focus := by
  unfold unrecorded notReplayed; decide +kernel

/-- Band 3 open, with its records in the group store, there under a copy's lock, and in the spill window. -/
def banded (base : Word) (locks : List Lock) : State :=
  let s := grouped fun c => { c with bandbase := base }
  { putWg s 1 { getWg s 1 with band := { isOpen := true, number := 3, seq := 3 } } with cores := [(0, { locks := locks })] }

theorem test_wit_bands :
    let b := BitVec.ofNat 64 groupBase
    let at_ := groupBase + 128
    let free := banded b []
    let held := banded b [{ core := 0, op := 9, hulls := [hullOf (.group 0 0) 0 4096 true] }]
    let spill := banded (BitVec.ofNat 64 spillBase) []
    guardP free 0 = true ∧ isSystem free.focus.key = false ∧ (cur free).bandbase ≠ 0 ∧ (wgOf free 0).band.isOpen = true ∧
    bandAddress b 3 = at_ ∧ (engineChecked free (requester free 0) true [(at_, 64)]).toOption = some () ∧
    failsLock free (requester free 0) .store at_ 64 = false ∧
    (engineChecked held (requester held 0) true [(at_, 64)]).toOption = some () ∧
    failsLock held (requester held 0) .store at_ 64 = true ∧ regionOf (bandAddress (BitVec.ofNat 64 spillBase) 3) = .spill ∧
    (cur spill).bandbase ≠ 0 ∧ (wgOf spill 0).band.isOpen = true ∧
    failsLock spill (requester spill 0) .store (bandAddress (BitVec.ofNat 64 spillBase) 3) 64 = false := by decide +kernel

/-- The grant of 32 × 32 × 32 for int8 (format 8), and for SE3 (format 5), as R370 lays it out. -/
def grantI8 : Word := 0x9000010020020020
def grantSe3 : Word := 0x8A00010020020020

/-- The matrix states: the workgroup's four tiles, a grant of 32 × 32 × 32 in shape register 0, map 0, the lease held,
one warp in each quad and the quarters of B bound. -/
def shaped (w : Word) (mapFmt : Nat) (vs : List (Nat × Word)) : State :=
  let s := grouped fun c => { c with shapes := [(0, w)], sregs := sregs vs }
  { s with
    ctxs := [(0, cur s), (16, { cur s with warpid := 1 }), (32, { cur s with warpid := 2 }), (48, { cur s with warpid := 3 })]
    wgs := [(1, { getWg s 1 with
                  warps := [0, 16, 32, 48]
                  maps := [(0, mapOf (readRecord (recordWords (groupBase + 0x1000) 128 0 mapFmt 64 128 128 (groupBase + 0x4000))) 0 0)]
                  binds := (List.range 4).map fun q => (q, { valid := true, warp := q, base := 20, scale := 30 }) })]
    cores := [(0, { leaseHolder := some 1, leaseCount := 9 })] }

/-- A warp that retires with another warp of its workgroup live, and as the last one. -/
theorem test_wit_retire :
    let s := shaped 0 8 []
    (getWg s (cur s).wg).live = true ∧ (∃ j ∈ (getWg s (cur s).wg).warps, j ≠ s.focus.key ∧ (getCtx s j).live = true) ∧
    (getWg vectors (cur vectors).wg).live = true ∧
    ∀ j ∈ (getWg vectors (cur vectors).wg).warps, j ≠ vectors.focus.key → (getCtx vectors j).live = false := by decide +kernel

/-- ShapesMapsAndLeases: requests of 32 of a format, at both ends of the formats; a grant, a revoked one, and none. -/
def granting (w : Word) : State := grouped fun c => { c with shapes := [(0, w)], sregs := sregs [(12, 32), (14, 0x8000000000000020), (15, 0x2000000000000020)] }

theorem test_wit_shapes : holdsS (granting 0) 12 32 ∧ holdsS (granting 0) 14 0x8000000000000020 ∧
    holdsS (granting 0) 15 0x2000000000000020 ∧ (0x8000000000000020 : Word).toNat / 2 ^ 60 ≤ 8 ∧
    2 ≤ (0x2000000000000020 : Word).toNat / 2 ^ 60 ∧ writableS (granting 0) 1 ∧
    bitAt grantI8 62 = false ∧ bitAt grantI8 63 = true ∧
    bitAt (0xC000000000000000 : Word) 62 = true ∧ bitAt (0 : Word) 63 = false := by
  unfold holdsS writableS; decide +kernel

/-- A matrix record in the group store, read from column 16 and row 3; quarters of B; the lease in each case. -/
def mapping : State := withRecord (grouped fun c => { c with sregs := sregs [(6, 0x3010040), (7, 16), (8, 3)] }) 0x3010040
  (recordWords (groupBase + 0x1000) 64 0 8 64 64 64 (groupBase + 0x2000))

theorem test_wit_maps : 7 < 2 * acctOf mapping ∧ holdsS mapping 6 0x3010040 ∧ holdsS mapping 7 16 ∧ holdsS mapping 8 3 ∧
    (fetchRecord mapping 0x3010040).toOption.isSome = true ∧ matrixRecord (recordAt mapping 0x3010040).1 = true ∧
    inWindow (recordAt mapping 0x3010040).1.base = true ∧ isSe (recordAt mapping 0x3010040).1.fmt = false ∧
    16 * elementBits (recordAt mapping 0x3010040).1.fmt / 8 < (recordAt mapping 0x3010040).1.rb ∧
    3 < (recordAt mapping 0x3010040).1.rows ∧ namesV mapping 20 0 20 := by
  unfold holdsS namesV; decide +kernel

theorem test_wit_leases : holdsLease (askLease vectors) = true ∧ holdsLease vectors = false ∧ holdsLease (shaped grantI8 8 []) = true ∧
    holdsLease (askLease { vectors with cores := [(0, { leaseHolder := some 2, leaseCount := 9 })]
                                        wgs := vectors.wgs ++ [(2, { live := true })] }) = false := by decide +kernel

/-- A lease to give up with no waiter, the warp in a clause without LEASE and in one with it. -/
def leasing (header : Code) : State := writeBytes (shaped grantI8 8 []) (dieStoreBase + 0x3000000) (wordBytes header)

/-- The same as the release leaves it to be decided. -/
def leaving (header : Code) : State :=
  let v := dropStale (retire (leasing header) 1) 0
  putCore v 0 { curCore v with leaseGiven := true }

theorem test_wit_lease_release : holdsLease (leasing 0xF8800000) = true ∧ holdsLease (leasing 0xF8870000) = true ∧
    (curCore (leasing 0xF8870000)).leaseGiven = false ∧ (curCore (dropStale (retire (leasing 0xF8800000) 1) 0)).leaseWaiters = [] :=
  by decide +kernel

theorem test_wit_lease_left : inLeaseClause (leaving 0xF8800000) 1 = false := by decide +kernel

theorem test_wit_lease_kept : inLeaseClause (leaving 0xF8870000) 1 = true := by decide +kernel

/-- MatrixFormsIssue: the lease held, the named shape, tiles 1 and 4 of four, and the conditions of each form. -/
def accReady : State := askLease (shaped grantI8 1 [])
def mmaReady : State := askLease (shaped grantI8 8 [])

theorem test_wit_accumulator_forms : (namedShape accReady 0).toOption = some (shapeOf grantI8) ∧
    acctOf accReady = 4 ∧ holdsLease accReady = true ∧ (curCore accReady).locks = [] ∧
    (namedMap accReady 0).toOption.isSome = true ∧
    (mapGet {} (getWg accReady 1).maps 0).fmt = 1 ∧
    (checkMap accReady (mapGet {} (getWg accReady 1).maps 0) 32 32).toOption = some () ∧
    namesV accReady 1 0 1 ∧ 1 + (32 + 31) / 32 * (32 / 2) ≤ (cur accReady).allot ∧
    tileQuiet accReady 1 = true ∧
    tilePoisoned accReady 1 1 (updatedRows (activeMask accReady 0) 32 32) 32 = false := by
  unfold namesV; decide +kernel

theorem test_wit_accumulator_registers : ∀ e ∈ resultCells 1 32 32 32 (updatedRows (activeMask accReady 0) 32 32),
    (getV (cur accReady) e.1 e.2).fill ≠ .pending ∧ heldRegister accReady 0 e.1 = false := by
  decide +kernel

/-- Tile 4 is the first beyond the workgroup's four. -/
theorem test_wit_tiles : acctOf accReady ≤ (4 : BitVec 3).toNat ∧ acctOf mmaReady ≤ (4 : BitVec 3).toNat ∧
    acctOf (askLease (shaped grantSe3 2 [])) ≤ (4 : BitVec 3).toNat := by decide +kernel

theorem test_wit_mma : (curStrand mmaReady).overD = 0 ∧ holdsLease mmaReady = true ∧ (4 : BitVec 3) ≠ 7 ∧
    (namedShape mmaReady 0).toOption.isSome = true ∧ (shapeOf grantI8).fmt = mmaFormat 4 ∧
    isSe (shapeOf grantI8).fmt = false ∧ (mapGet {} (getWg mmaReady 1).maps 0).fmt = 8 ∧
    quartersOf mmaReady = some [(0, 20, 30), (16, 20, 30), (32, 20, 30), (48, 20, 30)] ∧
    (checkPartners mmaReady 8 0 0 32 32 [(0, 20, 30), (16, 20, 30), (32, 20, 30), (48, 20, 30)]).toOption = some () ∧
    (checkMap mmaReady (mapGet {} (getWg mmaReady 1).maps 0) 32 32).toOption = some () ∧
    locksClash (curCore mmaReady)
      (mapHulls mmaReady (mapGet {} (getWg mmaReady 1).maps 0) 32 32) = false := by decide +kernel

/-- A drain of 32-bit elements to a place in the group store; and SE3 weights in die store for a map of f16. -/
def draining : State := withRecord (shaped grantI8 8 [(7, 0x3010080), (9, BitVec.ofNat 64 (groupBase + 0x1000))]) 0x3010080
  (recordWords 0 128 0 0 32 128 128 0)

def drainReady : State := askLease draining

theorem test_wit_drain : holdsS drainReady 7 0x3010080 ∧ holdsS drainReady 9 (BitVec.ofNat 64 (groupBase + 0x1000)) ∧
    (fetchRecord drainReady 0x3010080).toOption.isSome = true ∧ copyLegal (recordAt drainReady 0x3010080).1 = true ∧
    (recordAt drainReady 0x3010080).1.fmt = 0 ∧ (recordAt drainReady 0x3010080).1.rows = 32 ∧
    (recordAt drainReady 0x3010080).1.rb = 32 * drainWidth 0 ∧ (ringOf drainReady 0).isSome = true ∧
    holdsLease drainReady = true ∧
    tileQuiet (recordAt drainReady 0x3010080).2 1 = true ∧
    tilePoisoned (recordAt drainReady 0x3010080).2 1 1 (List.range 32) 32 = false ∧
    locksClash (curCore (recordAt drainReady 0x3010080).2)
      [hullOf (.group 0 0x1000) 0 (hullLength 32 128 128) true] = false := by
  unfold holdsS; decide +kernel

theorem test_wit_drain_range : (checkRange (recordAt drainReady 0x3010080).2 true ((List.range 32).flatMap fun i =>
      swizzledRow (groupBase + 0x1000 + i * 128) (32 * drainWidth 0) (i % 2 ^ 0 * 16))).toOption = some () ∧
    (checkRange (recordAt drainReady 0x3010080).2 false ((List.range 32).flatMap fun i =>
      swizzledRow (groupBase + 0x1000 + i * 128) (32 * drainWidth 0) (i % 2 ^ 0 * 16))).toOption = some () := by decide +kernel

def weighing : State := withRecord (shaped grantSe3 2 [(8, 0x30100C0)]) 0x30100C0 (recordWords 0x3010400 64 0 5 64 8 64 0x3012000)

def mvReady : State := askLease weighing

theorem test_wit_mv : holdsS mvReady 8 0x30100C0 ∧ holdsS mvReady 11 0 ∧ (fetchRecord mvReady 0x30100C0).toOption.isSome = true ∧
    matrixRecord (recordAt mvReady 0x30100C0).1 = true ∧ (recordAt mvReady 0x30100C0).1.fmt = 5 ∧ isSe 5 = true ∧
    (recordAt mvReady 0x30100C0).1.swz = 0 ∧ (namedShape mvReady 0).toOption = some (shapeOf grantSe3) ∧
    (shapeOf grantSe3).fmt = 5 ∧ (mapGet {} (getWg mvReady 1).maps 0).fmt = 2 ∧
    (checkMap (recordAt mvReady 0x30100C0).2 (mapGet {} (getWg mvReady 1).maps 0) 8 32).toOption = some () ∧
    (checkRange (recordAt mvReady 0x30100C0).2 false (rowPieces 0x3010400 64 (elementBytes 5 32) 32)).toOption = some () ∧
    (checkRange (recordAt mvReady 0x30100C0).2 false (rowPieces 0x3012000 8 (2 * kBlocks 32) 32)).toOption = some () ∧
    holdsLease mvReady = true := by
  unfold holdsS; decide +kernel

/-- ClausesBeginAndQuadsIssue: a strand at its clause's header, with its window resident; one inside a rep; a window to
load; a pin to give back; and a quad at cycle 256. -/
def beginning : State :=
  { warp fun c => { c with strands := strand fun x => { x with begun := false, pinned := false, wi := 0 } } with
    cores := [(0, { quads := [(0, { fast := [(0, { valid := true })], ages := [0, 5], cycles := 256, rotatedAt := 0 })] })]
    input := { ready := [⟨0, 0⟩] } }

theorem test_wit_clause : issuable beginning ⟨0, 0⟩ = true ∧ (curStrand beginning).begun = false ∧
    codeHeld beginning 0 (curStrand beginning).ca = false ∧
    (fetchCode beginning 0 (curStrand beginning).ca).toOption = some 0xF8800000 ∧ isHeader 0xF8800000 = true ∧
    (headerChecks (cur beginning) (isSystem 0) (decodeHeader 0xF8800000)).toOption = some () ∧
    windowResident (setStrand beginning { curStrand beginning with hdr := decodeHeader 0xF8800000 }) = true ∧
    (decodeHeader 0xF8800000).full = false ∧ (decodeHeader 0xF8800000).quiet = false ∧
    (decodeHeader 0xF8800000).lease = false := by decide +kernel

/-- The same strand at a header with FULL, QUIET and LEASE set, with one register's lane and the core's engine as given. -/
def conditioned (r : Reg) (ops : List EngineOp) : State :=
  let s := writeBytes beginning (dieStoreBase + 0x3000000) (wordBytes 0xF8870000)
  let c := { cur s with wg := 1, vregs := [(31, r)] }
  let k := getCore s 0
  setStrand { setCur s c with cores := [(0, { k with engine := ops })], wgs := vectors.wgs, nextWgKey := 2 }
    { curStrand s with hdr := decodeHeader 0xF8870000 }

def openCopy : EngineOp := { id := 3, wg := 1, kind := .copy {} (.group 0 0) (.group 0 0x4000) false false false 0 }

theorem test_wit_clause_conditions :
    (fetchCode (conditioned {} []) 0 (curStrand (conditioned {} [])).ca).toOption = some 0xF8870000 ∧
    (headerChecks (cur (conditioned {} [])) false (decodeHeader 0xF8870000)).toOption = some () ∧
    (decodeHeader 0xF8870000).full = true ∧ (decodeHeader 0xF8870000).quiet = true ∧ (decodeHeader 0xF8870000).lease = true ∧
    windowResident (conditioned {} []) = true ∧
    windowFull (cur (conditioned {} [])) (curStrand (conditioned {} [])) (decodeHeader 0xF8870000) = true ∧
    warpQuiet (conditioned {} []) = true ∧ holdsLease (askLease (conditioned {} [])) = true ∧
    windowFull (cur (conditioned { fill := .pending } [])) (curStrand (conditioned {} [])) (decodeHeader 0xF8870000) = false ∧
    warpQuiet (conditioned {} [openCopy]) = false := by decide +kernel

/-- A system core's strand at its header. -/
theorem test_wit_system_clause :
    let s := system fun c => { c with strands := [(0, { valid := true, root := true, ca := 0x3000000 })] }
    issuable s ⟨systemBase, 0⟩ = true ∧ isSystem systemBase = true ∧ (curStrand s).begun = false ∧
    codeHeld s systemBase 0x3000000 = false ∧ (fetchCode s systemBase 0x3000000).toOption = some 0xF8800000 ∧
    (headerChecks (cur s) true (decodeHeader 0xF8800000)).toOption = some () := by decide +kernel

theorem test_wit_repeat : issuable (warp fun c => { c with strands := strand fun x => { x with inRep := true } }) ⟨0, 0⟩ = true ∧
    (curStrand (warp fun c => { c with strands := strand fun x => { x with inRep := true } })).inRep = true ∧
    (curStrand scalars).valid = true ∧ standingHeader scalars ⟨0, 0⟩ = some (decodeHeader (codeHeader 0x04002106)) ∧
    slotForLoad scalars 0 [] = some 0 ∧ isWide (cur scalars) = false := by decide +kernel

/-- A strand whose second pass is to come; and a quad whose first strand has none. -/
theorem test_wit_second_pass :
    let s := warp fun c => { c with strands := strand fun x => { x with secondPass := some { due := true } } }
    issuable s s.input.who = true ∧ passDue (curStrand s) = some { due := true } ∧
    passDue (getStrand (getCtx beginning 0) 0) = none := by decide +kernel

/-- A window of both passes. -/
theorem test_wit_wide_window :
    let s := warp fun c => { c with status := 0x280, strands := strand id }
    let h := decodeHeader (codeHeader 0x04002106)
    isWide (getCtx s 0) = true ∧ standingHeader s ⟨0, 0⟩ = some h ∧
    (slotForLoad s 0 []).isSome = true ∧ passResident s 0 h false = false ∧
    (let r := loadPass 0 h (s, []) false
     (slotForLoad r.1 0 r.2).isSome = true) := by decide +kernel

theorem test_wit_pin :
    let x := fun n => getStrand (getCtx (warp fun c => { c with strands := strand fun x => { x with wait := .held .ring 0, waitCount := n } }) 0) 0
    (x 64).valid = true ∧ (x 64).begun = true ∧ (x 64).pinned = true ∧ (x 64).wait = .held .ring 0 ∧ 64 ≤ (x 64).waitCount ∧
    (x 63).waitCount < 64 ∧ (x 63).pinned = true ∧
    (getQuad (getCore beginning 0) 0).ages = 0 :: [5] ∧
    (getQuad (getCore beginning 0) 0).rotatedAt + 256 ≤ (getQuad (getCore beginning 0) 0).cycles := by decide +kernel

theorem test_wit_issue_order : ∃ b rest, issueOrder beginning 0 0 = b :: rest := by
  have h : ((getQuad (getCore beginning 0) 0).ages.flatMap fun k =>
      (warpChoice beginning (readyStrands beginning 0 0) k).toList) = [⟨0, 0⟩] := by decide +kernel
  unfold issueOrder
  simp only [h]
  exact List.exists_cons_of_ne_nil (by simp)

/-- Beside a strand of warp 0 at a scalar form, one of warp 1 at v.add v0, v0, v0 in a clause of its own. -/
def pairing : State :=
  let s := writeBytes scalars (dieStoreBase + 0x3001000) (wordBytes (codeHeader 0x40000000) ++ wordBytes 0x40000000)
  { s with ctxs := [(0, cur s), (1, { cur s with warpid := 1, strands := strand fun x => { x with ca := 0x3001000 } })] }

theorem test_wit_second_issue : secondIssue pairing ⟨0, 0⟩ [⟨1, 0⟩] = some ⟨1, 0⟩ := by decide +kernel

/-- WaitsEnd: a strand that waits for a reason, its word i, and the state in which it issues again. -/
def waitingOn (i : Instr) (y : Why) (f : Ctx → Ctx) : State :=
  { warpAt ((encode i).headD 0) 0 fun c => f { c with wg := 1, strands := strand fun x => { x with wait := .held y 5 } } with
    wgs := vectors.wgs, nextWgKey := 2 }

def issuing (s : State) : Option Instr × State :=
  match issueNext { s with focus := s.input.who } with
  | .exec i t => (some i, t)
  | .done t => (none, t)

theorem issuing_ok {s : State} {i : Instr} (h : (issuing s).1 = some i) :
    issueNext { s with focus := s.input.who } = .exec i (issuing s).2 := by
  unfold issuing at *; split at h <;> simp_all

def joining : State := waitingOn (.join 1 4 1 3 0) .join id

theorem test_wit_join_issue : issuable joining joining.input.who = true ∧ (curStrand joining).wait = .held .join 5 ∧
    (issuing joining).1 = some (.join 1 4 1 3 0) ∧
    racingLanes (cur (issuing joining).2) (issuing joining).2.focus.slot = [] ∧ namesDab (raceView (issuing joining).2) 4 1 3 4 1 3 ∧
    (∀ l ∈ lanesOf (curStrand (raceView (issuing joining).2)).mask, ∀ r ∈ [1, 3], (getV (cur (raceView (issuing joining).2)) r l).fill = .full ∧
      (getV (cur (raceView (issuing joining).2)) r l).poison = false) ∧ lanesFree (raceView (issuing joining).2) [4] [0, 31] := by
  unfold namesDab namesV lanesFree; decide +kernel

def arming : State := waitingOn .armwait .armwait id
def ringing : State := waitingOn (.rWait 0 0 3 0) .ring fun c => { c with sregs := sregs [(3, 4)] }
def keeping : State := waitingOn (.rWait 1 0 3 0) .ring fun c => { c with strands := c.strands.map fun e => (e.1, { e.2 with rwait := some 4 }) }
def batching : State := waitingOn (.cWait 0 4 3) .batch fun c => { c with sregs := sregs [(3, 7)], batches := [{ number := 7, complete := true, errors := 2 }] }
def grouping : State := waitingOn .lgBar .lgBar id

theorem test_wit_waits : issuable arming ⟨0, 0⟩ = true ∧ (issuing arming).1 = some .armwait ∧ descendants (raceView (issuing arming).2) = [] ∧
    (issuing ringing).1 = some (.rWait 0 0 3 0) ∧ guardP (raceView (issuing ringing).2) 0 = true ∧
    ringOf (raceView (issuing ringing).2) 0 = some { phase := 5, depth := 2, owners := 1 } ∧ holdsS (raceView (issuing ringing).2) 3 4 ∧
    unrecorded (raceView (issuing ringing).2) ∧ (curStrand (raceView (issuing ringing).2)).rwait = none ∧
    (issuing keeping).1 = some (.rWait 1 0 3 0) ∧ (curStrand (raceView (issuing keeping).2)).rwait = some 4 ∧
    unrecorded (raceView (issuing keeping).2) ∧ ringOf (raceView (issuing keeping).2) 0 = some { phase := 5, depth := 2, owners := 1 } ∧
    (issuing batching).1 = some (.cWait 0 4 3) ∧ writableS (raceView (issuing batching).2) 4 ∧
    holdsS (raceView (issuing batching).2) 3 7 ∧ unrecorded (raceView (issuing batching).2) ∧ isCpyTrap (cur (raceView (issuing batching).2)) = false ∧
    batchesUpTo (cur (raceView (issuing batching).2)).batches 7 = some [{ number := 7, complete := true, errors := 2 }] := by
  unfold holdsS writableS unrecorded notReplayed; decide +kernel

theorem test_wit_group_barrier : issuable grouping ⟨0, 0⟩ = true ∧ (curStrand grouping).wait = .held .lgBar 5 ∧
    (issuing grouping).1 = some .lgBar ∧ (curStrand (raceView (issuing grouping).2)).root = true ∧ (cur (raceView (issuing grouping).2)).ops = [] ∧
    ((workgroupRoots (raceView (issuing grouping).2)).all fun r => r == (raceView (issuing grouping).2).focus || atBarrier (raceView (issuing grouping).2) r) = true := by
  decide +kernel

def parked : State :=
  { warp fun c => { c with strands := strand fun x => { x with wait := .held .barrier 5 } } with
    cores := [(0, { park := [(0, { valid := true, token := 9, strands := 1 })], actFlip := some ⟨0, 0⟩ })] }

/-- The same with the barrier word poisoned. -/
def parkedBad : State := writeBytes parked (2 ^ 56) [7, 0, 0, 0, 0, 0, 0, 0] true

theorem test_wit_wakes : (mapGet ({} : Park) (getCore parked 0).park 0).valid = true ∧
    (barrierWord parked 0 [0] (2 ^ 56 + 0 * 131072 + 8 * 0)).2 = false ∧
    phaseOf (barrierWord parked 0 [0] (2 ^ 56 + 0 * 131072 + 8 * 0)).1 ≠ (9 : BitVec 16).toNat ∧
    (barrierWord parkedBad 0 [0] (2 ^ 56 + 0 * 131072 + 8 * 0)).2 = true ∧
    (mapGet ({} : Park) (getCore parkedBad 0).park 0).valid = true ∧
    ((List.range 8).filter fun k => (1 : BitVec 8).getLsbD k) = [0] ∧ replays parked 0 = false ∧
    (launchOf parked 0).recording = false ∧ (curStrand parked).valid = true ∧ (curStrand parked).wait = .held .barrier 5 ∧
    (getCore parked 0).actWrites = [] ∧ (getCore parked 0).actFlip.isSome = true ∧
    (curStrand (warp fun c => { c with strands := strand fun x => { x with wait := .held .refused 5, waitCount := 32 } })).wait =
      .held .refused 5 ∧
    (curStrand (warp fun c => { c with strands := strand fun x => { x with wait := .held .refused 5, waitCount := 32 } })).waitCount =
      32 ∧ (curStrand (idling (.held .idle 904))).valid = true := by
  decide +kernel

/-- IssuedOperationsComplete: an operation with one access, of each kind. -/
def performing (k : OpKind) (a : Access) : State :=
  given { grouped fun c => { c with ops := [{ id := 3, slot := 0, order := 1, kind := k, dst := 6, accs := [a] }], nextOp := 4 } with
            dies := [(0, { battEn := true })] } { id := 3 }

def atStore (n : Nat) : Access := { lane := 2, place := dieStoreBase + 0x3000000, pa := dieStoreBase + 0x3000000, len := n, data := 77 }
def atCell : Access := { lane := 2, place := cellBase 0 + 16, pa := cellBase 0 + 16, cell := true, len := 8, data := 77 }

theorem test_wit_issued : ∀ x ∈ [(OpKind.longResult, atStore 8), (.load 8 false, atStore 8), (.loadSplat 4 true, atStore 4),
      (.scalarLoad 2 true, atStore 2), (.atomic 0 4 1, atStore 4), (.arrive, atStore 8), (.cellLdv, atCell), (.cellStv, atCell),
      (.cellRcn 1 2, atCell), (.fence 1 2, atStore 8)],
    let s := performing x.1 x.2
    let o : MemOp := { id := 3, slot := 0, order := 1, kind := x.1, dst := 6, accs := [x.2] }
    soleAccess s o x.2 ∧ x.2.lane / 32 = s.input.sub ∧ 0 < o.dst ∧ poisonedRun s x.2.place 8 = false ∧ s.input.sub = 0 ∧
      x.2.cell = (x.2 == atCell) ∧ siblingEnabled s (cellDie (cellBase 0 + 16)) = true := by
  unfold soleAccess; decide +kernel

theorem test_wit_table_write : (getCore { scalars with cores := [(0, { actWrites := [{ bank := true, index := 5, value := 9 }] })] } 0).actWrites =
    { bank := true, index := 5, value := 9 } :: [] := by decide +kernel

/-- TransfersComplete: a copy, a delivery and a band record, each its core's only operation. -/
def engaged (s : State) (o : EngineOp) : State :=
  given { s with cores := [(0, { leaseHolder := some 1, engine := [o], locks := [{ core := 0, op := o.id, hulls := [] }] })] } { place := 0, id := o.id }

def swizzled : Record := readRecord (recordWords 0 32 1 0 4 40 48 0)
def copyOp : EngineOp := { id := 3, wg := 1, kind := .copy swizzled (.group 0 0x1000) (.group 0 0x4000) false false false 0, parts := [0], left := [0] }
def castOp : EngineOp := { id := 3, wg := 1, kind := .mcast swizzled (.group 0 0x1000) 0x4000 false false 0, left := [0] }
def bandOp : EngineOp := { id := 3, wg := 1, kind := .band (.group 0 0x4000) 1 }

def delivering : State :=
  engaged { vectors with wgs := [(1, { getWg vectors 1 with launch := 4 })] } castOp

theorem test_wit_transfers : soleEngine (engaged vectors copyOp) copyOp ∧ copyOp.rows = none ∧ castOp.rows = none ∧ copyLegal swizzled = true ∧ soleEngine delivering castOp ∧
    mcastTarget delivering 1 0 = some 1 ∧
    takesDelivery delivering 0 1 0x4000 (hullLength swizzled.rows swizzled.dpitch swizzled.rb) = true ∧
    (getWg delivering 1).saving = false ∧ (getWg delivering 1).away = false ∧ soleEngine (engaged vectors bandOp) bandOp ∧
    (∀ e ∈ (engaged vectors bandOp).cores, ∀ p ∈ e.2.engine, p.wg = 1 → p.bandSeq ≠ 1) := by
  unfold soleEngine; decide +kernel

theorem test_wit_rows_sound : rowsSound (engaged vectors copyOp) swizzled (groupPlace 0 0x1000) := by
  intro i k hi hk
  have h : ∀ i, i < 4 → ∀ k, k < 32 → poisonedRun (engaged vectors copyOp) (groupPlace 0 0x1000 + (i * 48 + k)) 1 = false := by
    decide +kernel
  exact h i hi k hk

/-- MatrixOperationsComplete: mx.acc.zero, mx.mma and mx.drain alone on a core; blocks of two elements; a lease that is
free, and one that is exhausted. -/
def matrixOp (m : MatOp) : EngineOp := { id := 3, wg := 1, kind := .matrix m, parts := [0], left := [0] }

def zeroOp : EngineOp := matrixOp (.accZero 1 0xFFFFFFFF 32 32)
def mmaOp : EngineOp :=
  matrixOp (.mma 1 (mapOf (readRecord (recordWords (groupBase + 0x1000) 128 0 8 64 128 128 0)) 0 0) 8 0 true 0xF 32 16 4 3 16
    [(0, 20, 30), (16, 20, 30), (32, 20, 30), (48, 20, 30)])
def drainOp : EngineOp := matrixOp (.drain 1 (readRecord (recordWords 0 128 0 0 32 128 128 0)) (.group 0 0x4000) false true 0 4 3 8)

theorem test_wit_matrix_operations : soleEngine (engaged (shaped grantI8 8 []) zeroOp) zeroOp ∧
    (getWg (engaged (shaped grantI8 8 []) zeroOp) 1).core = 0 ∧ soleEngine (engaged (shaped grantI8 8 []) mmaOp) mmaOp ∧
    cellsFull (engaged (shaped grantI8 8 []) mmaOp) (bCells 8 0 0 32 16 3 16 [(0, 20, 30), (16, 20, 30), (32, 20, 30), (48, 20, 30)]) = true ∧
    mmaOp.bandSeq = 0 ∧ soleEngine (engaged (shaped grantI8 8 []) drainOp) drainOp ∧
    copyLegal (readRecord (recordWords 0 128 0 0 32 128 128 0)) = true ∧
    (readRecord (recordWords 0 128 0 0 32 128 128 0)).rows = 32 ∧ (readRecord (recordWords 0 128 0 0 32 128 128 0)).rb = 128 ∧
    (getWg (engaged (shaped grantI8 8 []) drainOp) 1).rings.any (fun e => e.1 == 0) = true := by
  unfold soleEngine; decide +kernel

theorem test_wit_lease_steps :
    let s := grouped fun c => c
    let s := setStrand s { curStrand s with wait := .held .lease 0 }
    let free := getCore { s with cores := [(0, { leaseWaiters := [(1, 64)] })] } 0
    let spent := { s with cores := [(0, { leaseHolder := some 2, leaseWaiters := [(1, 64)] })] }
    waitsForLease { s with cores := [(0, { leaseWaiters := [(1, 64)] })] } 1 = true ∧ waitsForLease spent 1 = true ∧
    free.leaseHolder = none ∧ free.leaseWaiters = [(1, 64)] ∧ (getCore spent 0).leaseHolder = some 2 ∧
    (getCore spent 0).leaseCount = 0 ∧ inLeaseClause spent 2 = false ∧ (2 ^ 32 - 1 : Nat) < 2 ^ 32 := by decide +kernel

/-- TranslationAndBattChange: tables of ASID 1 of die 0 that map 0x5040000 to a page of its die store. -/
def entries (s : State) : List (Nat × Nat × Nat) → State
  | [] => s
  | (at_, d0, d1) :: rest => entries (writeBytes s (dieStoreBase + at_) (wordsBytes [BitVec.ofNat 64 d0, BitVec.ofNat 64 d1])) rest

def tabled : State :=
  let next := fun n => 2 ^ 63 + dieStoreBase + n
  let t := entries { scalars with dies := [(0, { astbase := BitVec.ofNat 64 (dieStoreBase + 0x3000000) })] }
    [(0x3000010, next 0x3102000, 0), (0x3102000, next 0x3104000, 0), (0x3104000, next 0x3106000, 0), (0x3106000, next 0x3108000, 0),
     (0x3108050, next 0x3108400, 0), (0x3108410, 2 ^ 63 + 2 ^ 62 + dieStoreBase + 0x4040000, 1 + 4 + 8 + 32)]
  given t { place := 5, id := 1, value := 0x5041234 }

def page : Leaf := { va := 0x5040000, size := 262144, pa := dieStoreBase + 0x4040000, type := 1, r := true, w := true, u := true }

theorem test_wit_walk : cachedLeaf tabled 5 1 0x5041234 = none ∧ cacheWalkHeld tabled 5 1 0x5041234 = false ∧
    ((walkPath tabled (walkReadCached tabled 0 1) 0 1 0x5041234).toOption.map Prod.fst) = some page := by decide +kernel

def invalidating (busy : Bool) : State :=
  given { scalars with ctxs := [], dies := [(23, { invBusy := busy, invKind := 1, invAsid := 1 })], tlbs := [(23 * 32 + 5, [{ asid := 1, leaf := page }])] }
    { place := 23, value := 1 }

theorem test_wit_invalidation : (23 : Nat) < 24 ∧ (getDie (invalidating false) 23).invBusy = false ∧
    (getDie (invalidating true) 23).invBusy = true ∧ (getTlb (invalidating true) (23 * 32 + 5)).length = 1 ∧
    (invContexts (invalidating true) 23).any (unsettled (settleAll (invalidating true) (invContexts (invalidating true) 23))) = false := by
  decide +kernel

def changing (en busy : Bool) : State :=
  given { scalars with ctxs := [], dies := [(3, { battEn := en, battBusy := busy, cells := [(5, { sibs := [(1, 7), (2, 3)], link := 1 })], fresh := 2 })] } { place := 3 }

theorem test_wit_batt : (getDie (changing false false) 3).battEn = false ∧ (getDie (changing true false) 3).battEn = true ∧
    (battContexts (changing true true) 3).any (unsettled (settleAll (changing true true) (battContexts (changing true true) 3))) = false ∧
    engineTouchesBatt (changing true true) 3 = false ∧ (getDie (changing true true) 3).battBusy = true ∧
    headerBase 3 ≤ headerBase 3 ∧ headerBase 3 < diePlace 3 0x10000000 := by decide +kernel

/-- LaunchesAreDecidedPlacedAndCompleted: a record of one workgroup of three warps; a warp whose launch waits for the
carder's decision, which is 3 before launch 6 is issued and which accepts it then. -/
def launchWords (priority done dep : Nat) : List Word :=
  [0x3000000, BitVec.ofNat 64 (priority * 2 ^ 48 + 80 * 2 ^ 32 + 2 ^ 19 + 3 * 2 ^ 10 + 1), 0x100000001, BitVec.ofNat 64 (1 + 4096 * 2 ^ 32), 8, 0, 0x77,
   BitVec.ofNat 64 done, BitVec.ofNat 64 dep, 0, 0, 0, 0, 0x1F00, 0, 0]

def recorded : State := writeBytes (warp id) (dieStoreBase + 0x3010000) (wordsBytes (launchWords 7 0 6))

def launchedRead : LaunchRead := readLaunch { recorded with parts := [(0, { ready := true })] } false 0x3010000

def launchOp : MemOp := { id := 9, slot := 0, kind := .launch launchedRead, dst := 5, accs := [] }

def launching (p : Partition) : State :=
  given { setCur recorded { cur recorded with ops := [launchOp] } with parts := [(0, p)] } { who := ⟨0, 0⟩, id := 9 }

def decided (s : State) : Except Nat (List Word × List Word) :=
  refusalCode s 0 (fun r => if launchedRead.ctxForm then recContext r else (getCtx s 0).context) launchedRead

theorem test_wit_launch_decision : (getCtx (launching {}) 0).ops = [launchOp] ∧ (launching {}).sessions = [] ∧
    launchedRead.record = some (launchWords 7 0 6) ∧
    (match decided (launching {}) with | .error n => n == 3 | .ok _ => false) = true ∧
    ((decided (launching { ready := true, issued := 6, launches := [(6, { live := true })] })).toOption.map Prod.fst) =
      some (launchWords 7 0 6) := by decide +kernel

def launched (l : Launch) (queue : List Nat) : State :=
  given { State.reset with parts := [(0, { launches := [(6, l)], queues := [(7, queue)] })], nextWgKey := 3 } { place := 0, id := 6 }

def waitingLaunch : Launch := { live := true, record := launchWords 7 0 0, user := true }

theorem test_wit_launch_steps : depsDone (getPart (launched waitingLaunch [4]) 0) waitingLaunch = true ∧
    unplaced waitingLaunch = true ∧ recDone waitingLaunch.record = 0 ∧
    getQueue (getPart (launched { waitingLaunch with queued := true } [6]) 0) 7 = [6] ∧
    (∀ q, q < 7 → getQueue (getPart (launched waitingLaunch [6]) 0) q = []) ∧ recGrid waitingLaunch.record = 1 ∧
    (choosePlace (launched { waitingLaunch with queued := true } [6]) 0 6 0 false).map (fun x => x.2.2) = some [0, 16, 32] ∧
    [0, 16, 32].Nodup ∧ mayComplete (launched { waitingLaunch with queued := true, nextWg := 1 } []) 0 6 = true ∧
    launchWgs (launched { waitingLaunch with nextWg := 1 } []) 0 6 = [] := by decide +kernel

/-- WorkgroupsAreSavedAndRestored: a running workgroup of launch 6, behind which launch 7 has waited; its save begun; its
image held; and its image placed again. -/
def key32 : List Byte := List.replicate 32 7

def placedWg : Workgroup :=
  { live := true, launch := 6, wgid := 2, core := 0, glen := 4096, warps := [0, 16], rings := [(0, { phase := 5, depth := 2 })], placedAt := 1 }

/-- A record's words with core 0 of die 0 alone named. -/
def onCoreZero (ws : List Word) : List Word := (ws.set 12 0x100000000).set 13 0

def preempting (w : Workgroup) (d : Die) (x : EventArgs) : State :=
  let s := warp fun c => { c with wg := 1, launchid := 6, wgid := 2 }
  given { s with
    ctxs := [(0, cur s), (16, { cur s with warpid := 1 })]
    wgs := [(1, w)], time := 0x100000, cores := [(0, { wgs := [1] })]
    dies := [(0, { d with saveBase := 0x1000, saveLim := 0x200000, plaunch := 6, pwg := 2, saveKey := 5 })]
    domains := [(0, { rc := 4, smask := 1 })]
    keys := [(5, { key := some key32 })], knownKeys := [key32]
    parts := [(0, { launches := [(6, { waitingLaunch with nextWg := 1, wgs := [1], record := launchWords 3 0 0 }), (7, { waitingLaunch with queued := true, record := onCoreZero (launchWords 7 0 0) })]
                    queues := [(7, [7])] })] } x

theorem test_wit_save : placedOn (preempting placedWg {} {}) 0 6 2 = some 1 ∧ savesOn (preempting placedWg {} {}) 0 < 4 ∧
    keyLoaded (preempting placedWg {} {}) 5 = true ∧
    findRun (preempting placedWg {} {}) 0 (imageSize (wgRecord (preempting placedWg {} {}) 1)) = some 0x1000 := by decide +kernel

/-- The same workgroup with all of its core's group store. -/
def fullWg : Workgroup := { placedWg with glen := 131072 }

theorem test_wit_preemption : (preemptTicks 7).isSome = true ∧
    getQueue (getPart (preempting fullWg {} { id := 7 }) 0) 7 = 7 :: [] ∧
    ((preempting fullWg {} { id := 7 }).time - 0).toNat ≥ (preemptTicks 7).getD 0 ∧
    unplaced (getLaunch (getPart (preempting fullWg {} { id := 7 }) 0) 7) = true ∧
    placeNext (preempting fullWg {} { id := 7 }) 0 7 = none ∧
    (savesIn (preempting fullWg {} { id := 7 }) 0).any (fun e => e.2.saveKind == 2) = false ∧
    (chooseVictim (preempting fullWg {} { id := 7 }) (victims (preempting fullWg {} { id := 7 }) 0 7)).map Prod.fst = some 1 := by
  decide +kernel

def savingWg : Workgroup := { placedWg with saving := true, saveKind := 1, image := 0x1000 }
def heldWg : Workgroup := { savingWg with saving := false, away := true, warps := [] }

theorem test_wit_save_ends :
    let s := preempting savingWg {} { place := 1 }
    (getWg s 1).saving = true ∧ s.shutdown = false ∧ (∀ c ∈ s.cores, c.2.engine = []) ∧ (getCore s 0).actFlip = none ∧
    (∀ key ∈ (getWg s 1).warps, (getCtx s key).ops = []) ∧
    runHeld s (getWg s 1).image (imageSize (wgRecord s 1)) = false ∧
    let h := preempting heldWg { images := [(1, 0x1000)] } { value := 0x1FFF }
    (1, 0x1000) ∈ (getDie h 0).images ∧ (∀ e ∈ (getDie h 0).images, e.2 = 0x1000 → e = (1, 0x1000)) ∧
    (keep h.input.value 51 12).toNat = 0x1000 ∧ (getWg h 1).away = true ∧ (getWg h 1).saveKind = 1 ∧
    let r := preempting { heldWg with warps := [16, 32] } {} { place := 1 }
    (getWg r 1).warps ≠ [] ∧ (r.cores.any fun c => c.2.engine.any (intoImage r c.1 1 (getWg r 1))) = false ∧
    runHeld r (getWg r 1).image (imageSize (wgRecord r 1)) = false ∧
    runCut r ((getWg r 1).core / 32) (getWg r 1).image (imageSize (wgRecord r 1)) = false ∧
    lockRoom (getCore r 0) (adoptLocks r 1 0).length = true := by decide +kernel

/-- A module with main memory: domain 0 with four rows a bank and a fold, key slot 5 with a key, and the lines of its
first bytes, up to a count, written under it. -/
def filled (n : Nat) : State :=
  let s := { scalars with domains := [(0, { rc := 4, smask := 1, folds := [(0, 0x10)] }), (26, { base := 2 ^ 30, rc := 2, rowBase := 8 })], keys := [(5, { key := some key32, part := some 0, context := 3 })], knownKeys := [key32] }
  { s with lines := (List.range n).map fun i => (i / 2 * 16777216 + i % 2, { valid := true, addr := i, slot := 5 }) }

/-- The homes of those lines. -/
theorem filled_homes : (List.range 32).map (fun i => (mainPlace (filled 0) (64 * i)).getD 0 / 64) =
    (List.range 32).map fun i => i / 2 * 16777216 + i % 2 := by decide +kernel

/-- DomainsMapAddressesToDistinctCells: a domain as a store to its registers leaves it, and its first and last
addresses. -/
theorem test_wit_domain : (getDomain (filled 0) 0).base % 128 = 0 ∧ (getDomain (filled 0) 0).rc % 2 = 0 ∧
    (getDomain (filled 0) 0).rowBase + (getDomain (filled 0) 0).rc ≤ 65536 ∧
    (∀ j, j < 8 → foldMask (filled 0) 0 j % 2 ^ (j + 1) = 0) ∧ inDomain (filled 0) 0 0 = true ∧
    inDomain (filled 0) 0 4095 = true ∧ mainPlaceIn (filled 0) 0 0 = mainPlaceIn (filled 0) 0 0 := by decide +kernel

/-- MemoryMapRequestsComplete: values of a domain's registers at their limits; retirements of a live pseudo-channel and
of one that is none; a repair of a bank with three spare rows used; rates; a system core's access and a part of a copy
at a pseudo-channel. -/
theorem test_wit_domain_values : bf (0x0001FFF40003456 : Word) 47 32 + bf (0x0001FFF40003456 : Word) 16 1 * 2 ≤ 65536 ∧
    (23 : Nat) < 24 ∧ bf (0x0001FFF40003456 : Word) 49 48 = 0 ∧ retireRefused (filled 0) (bf (0xBFF : Word) 11 0) = false ∧
    retireRefused (filled 0) (bf (0xC00 : Word) 11 0) = true ∧ bf (0xBFF : Word) 11 0 < 3072 ∧
    pcLive (filled 0) (bf (0xBFF : Word) 11 0) = true ∧ sparesUsed (filled 0) (bankOf 0xBFF) < 4 ∧
    bf (0x4 : Word) 3 2 ≠ 3 ∧ BitVec.ofNat 2 (bf (0x4 : Word) 3 2) ≠ (getStack (filled 0) 47).tgt ∧
    (savesIn (filled 0) (stackPart (filled 0) 47)).isEmpty = true ∧ (getStack (filled 0) 47).forced = false := by decide +kernel

theorem test_wit_requests_under_way :
    let s := { filled 0 with retBusy := true, retG := 3, pprBusy := true, pprReq := 0x10F003, spares := [(bankOf 0x10F003, 2)], memStacks := [(47, { retraining := true, tgt := 2 })] }
    s.retBusy = true ∧ s.pprBusy = true ∧ (getStack s 47).retraining = true ∧ (getStack s 47).forced = false ∧
    s.heldWrites = [] ∧ (filled 0).retBusy = false ∧ (filled 0).pprBusy = false := by decide +kernel

def loadOp : MemOp :=
  { id := 4, slot := 0, kind := .scalarLoad 8 false, dst := 7, accs := [{ place := (mainPlace (filled 0) 0x88).getD 0, pa := 0x88, len := 8, pol := 5 }] }

theorem test_wit_service : systemAccessAt (putCtx (filled 32) systemBase { live := true, ops := [loadOp] })
    ((mainPlace (filled 0) 0x88).getD 0 / 2 ^ 30) = some (systemBase, 4, 0) := by decide +kernel

def readingMain (k : EngineKind) : State :=
  let o : EngineOp := { id := 3, wg := 1, user := true, kind := k, parts := [0], left := [0] }
  { filled 4 with
    cores := [(0, { engine := [o] })]
    tlbs := [(0, [{ asid := 0, leaf := { page with va := 0x5000000, pa := 0, type := 0, key := 5 } }])] }

theorem test_wit_copy_service :
    let g := (mainPlace (filled 0) 0).getD 0 / 2 ^ 30
    (copyAt (readingMain (.copy swizzled (.virt 0x5000000) (.group 0 0x4000) false false false 2)) g 2).isSome = true ∧
    (copyAt (readingMain (.mcast swizzled (.virt 0x5000000) 0x4000 false false 2)) g 2).isSome = true := by decide +kernel

theorem test_wit_weights_service :
    (copyAt (readingMain (.matrix (.mv 0 {} 1 swizzled (.virt 0x5000000) (.virt 0x5000000) 5 2 32)))
      ((mainPlace (filled 0) 0).getD 0 / 2 ^ 30) 1).isSome = true := by decide +kernel

/-- ErrorsAndLinkFailuresTakeEffect: a frame's first and its fourth failure; places in main memory, in an enabled cell
and elsewhere; a second failed link that cuts a route. -/
theorem test_wit_errors : (getStack (filled 0) 47).linkDown = false ∧
    (getStack { filled 0 with memStacks := [(47, { linkFails := 2 })] } 47).linkFails < 3 ∧
    (getStack { filled 0 with memStacks := [(47, { linkFails := 3 })] } 47).linkFails = 3 ∧ (0 : Nat) < mainTop ∧
    mainTop ≤ cellBase 0 + 8 ∧ cellBase 0 + 8 < 2 ^ 56 ∧
    siblingEnabled { filled 0 with dies := [(0, { battEn := true })] } (homeDie (cellBase 0 + 8)) = true ∧
    cellBase (homeDie (cellBase 0 + 8)) ≤ cellBase 0 + 8 ∧
    (let d : Die := { battEn := true, cells := [(5, { link := 3 })] }
     (5, { link := 3 }) ∈ d.cells ∧ (∀ e ∈ d.cells, e.2.link = 3 → e.1 = 5)) ∧ siblingEnabled (filled 0) (homeDie (cellBase 0 + 8)) = false := by
  decide +kernel

theorem test_wit_cut :
    let t := { filled 0 with deadLinks := [(3, .east), (3, .cross)] ++ [(2, .east)], parts := [(0, { launches := [(4, { live := true })] })] }
    (routeExists t 3 0 = false ∨ routeExists t 0 3 = false) ∧ partOf t 3 < t.partCount ∧
    (getLaunch (getPart t 0) 4).live = true := by decide +kernel

/-- Beside the cut, a partition with none of the module's dies. Under R428's fixed routes a pair without a route is never alone:
each die is then one of such a pair, so a partition with dies is unharmed only where no pair has lost its route. -/
theorem test_wit_unharmed :
    let t := { filled 0 with deadLinks := [(3, .east), (3, .cross)] ++ [(2, .east)] }
    (∀ a, a < 24 → partOf t a ≠ 1) ∧
      ∀ d ∈ [[(3, LinkDir.cross)], [(2, .east), (7, .east)]], ∀ a, a < 24 →
        ((List.range 24).any fun b => !routeExists { t with deadLinks := d } a b || !routeExists { t with deadLinks := d } b a) = true := by
  decide +kernel

theorem test_wit_uncut : ∀ a, a < 24 → ∀ b, b < 24 →
    routeExists { filled 0 with deadLinks := [] ++ [(2, .east)] } a b = true := by decide +kernel

/-- HubAccessesAndMessagesComplete: a host window and a storage window over the first lines, with accesses at their ends;
a vector unmasked and one masked; a port whose messages go to a core, and one whose are dropped. -/
def hubbed (n : Nat) (x : EventArgs) : State :=
  let h : Hub := { hkey := 5, cxlOn := true, ports := [(1, { winBase := 0x100, winLim := 0x800, key := 5, irqEnable := true, irqCore := 47 })] }
  given { filled n with hubs := [(0, { h with msixTable := [(16 * 3, 9), (16 * 3 + 12, 1)], xsrc := 0x40, xdst := 0x100 })] } x

theorem test_wit_host_access : (getHub (hubbed 32 {}) 0).frozen = false ∧ (getHub (hubbed 32 {}) 0).cxlOn = true ∧
    2 ^ 36 - 4 + 4 ≤ 2 ^ 36 ∧ (busPlaces (hubbed 32 {}) 5 (0 + 0x7FC) 4).isSome = true ∧
    ((busPlaces (hubbed 32 {}) 5 (0 + 0x7FC) 4).map fun ps => ps.any (engineHeld (hubbed 32 {}))) = some false ∧
    (hubbed 32 {}).input.flag = false ∧ (getHub (hubbed 32 {}) 0).posted = [] ∧
    vectorMasked (getHub (hubbed 32 {}) 0) 3 = false ∧ vectorMasked (getHub (hubbed 32 {}) 0) 63 = true := by decide +kernel

theorem test_wit_storage : (getPort (getHub (hubbed 32 {}) 0) 1).frozen = false ∧
    inPortWindow (getPort (getHub (hubbed 32 {}) 0) 1) { offset := 0x7FB, count := 5 } = true ∧
    inPortWindow (getPort (getHub (hubbed 32 {}) 0) 1) { offset := 0x7FC, count := 5 } = false ∧
    (getPort (getHub (hubbed 32 {}) 0) 1).irqEnable = true ∧ (getPort (getHub (hubbed 32 {}) 0) 1).irqCore.toNat < 48 ∧
    partOf (hubbed 32 {}) ((getPort (getHub (hubbed 32 {}) 0) 1).irqCore.toNat / 2) = 0 ∧
    (getPort (getHub (hubbed 32 {}) 0) 2).irqEnable = false ∧ (getPort (getHub (hubbed 32 {}) 0) 1).posted = [] ∧
    (getPort (getHub (hubbed 32 {}) 0) 2).posted = [] ∧
    (let a : BusAccess := { offset := 0xFFFFF000, data := [7] }
     a.data ≠ [] ∧ 0xFFFFF000 ≤ a.offset ∧ a.offset < 2 ^ 32) := by decide +kernel

/-- An access that waits for a retrain of its stack. -/
theorem test_wit_held_access :
    let p := (mainPlace (filled 0) 0x7FC).getD 0
    let s := { hubbed 32 {} with memStacks := (List.range 48).map fun k => (k, { retraining := true }) }
    p < mainTop ∧ ((busPlaces s 5 0x7FC 4).map fun ps => ps.any (engineHeld s)) = some true := by decide +kernel

/-- SealsFreezesAndRequestsComplete: seals; masters of each kind, the highest numbers among them; the registers that a
table grants; a tile that can be sent, a request that times out now, and one that has been applied. -/
theorem test_wit_seals : (getDie (filled 0) 23).sealBusy = false ∧
    (getDie { filled 0 with dies := [(23, { sealBusy := true })] } 23).sealBusy = true ∧
    sealHeld (filled 0) { sealBusy := true } = false ∧ masterExists (.systemCore 47) = true ∧
    masterExists (.diePort 23) = true ∧ masterExists (.storage 7) = true ∧ masterExists (.hostPort 1) = true ∧
    ioPlace 0x7000018 = .reg .systemCore 0 0x18 ∧ ioGranted 0x7000018 8 true = true ∧
    ioReached (filled 0) (partOf (filled 0) (47 / 2)) 0x7000018 = true ∧ ioHeld (filled 0) (47 / 2) 0x7000018 = false ∧
    ioHeld (filled 0) 0 0 = false ∧ (ioStore (filled 0) 0x7000018 8 1 2).isSome = true ∧
    ioPlace 0 = .reg .translation 0 0 ∧ ioGranted 0 8 true = true ∧ ioReached (filled 0) 0 0 = true := by decide +kernel

def sending : State :=
  match mainPlace (filled 4) 0 with
  | some p => writeBytes (hubbed 4 {}) p (wordsBytes (recordWords 0 32 0 0 2 40 48 0))
  | none => hubbed 4 {}

theorem test_wit_tile : (localTile (settleCtx sending (systemBase + 1)) 0 3).isSome = true ∧ localHeld sending 0 = false ∧
    tileHeld (hubbed 8 {}) 0 { dest := 0x100, record := recordWords 0 32 0 0 2 40 48 0, data := List.replicate 64 7 } = false ∧ (getHub sending 0).xbusy = false ∧
    (getHub sending 0).seen.contains 8 = false ∧
    (applyTile (hubbed 8 {}) 0 { dest := 0x100, record := recordWords 0 32 0 0 2 40 48 0, data := List.replicate 64 7 }).isSome = true := by
  decide +kernel

theorem test_wit_timeout :
    let s := { filled 0 with time := 10000005, hubs := [(0, { xbusy := true, xSince := 5, seen := [7] })] }
    (getHub s 0).xbusy = true ∧ 10000000 ≤ (s.time - (getHub s 0).xSince).toNat ∧
    (s.time - (getHub s 0).xSince).toNat ≤ 10000000 ∧ 10000000 < (s.time + 1 - (getHub s 0).xSince).toNat ∧ (getHub s 0).seen.contains 7 = true := by
  decide +kernel

/-- SystemCoresStartAndBringUpRuns: a stopped core and a running one; a bring-up without a failing step and ones whose
first and last steps fail; and one whose Coltaup image alone has a signature missing. -/
theorem test_wit_images :
    let r : BringUp := { images := [(.coltaup, { mldsa := .missing })] }
    let bad := fun r k => let x := imageReport r k
      x.ed25519 ≠ .valid ∨ x.mldsa ≠ .valid ∨ x.digest = false ∨ x.svn < mapGet 0 (filled 0).minSvn (imageNumber k)
    bad r .coltaup ∧ r.failedStep = 0 ∧
    (∀ k ∈ [ImageKind.secureMonitor, .controllerFirmware, .memoryTraining, .carderMicrocode], ¬ bad r k) ∧
    ∀ k ∈ [ImageKind.secureMonitor, .controllerFirmware, .memoryTraining, .carderMicrocode, .coltaup], ¬ bad {} k := by
  decide +kernel

theorem test_wit_start : (getSc (getDie (filled 0) 23) 1).running = false ∧ (getSc (getDie (filled 0) 23) 1).frozen = false ∧
    (getSc (getDie (system id) 0) 0).running = true ∧ (given (filled 0) { report := {} }).input.report.failedStep = 0 ∧
    0 < (given (filled 0) { report := { failedStep := 1 } }).input.report.failedStep ∧
    (given (filled 0) { report := { failedStep := 7 } }).input.report.failedStep < 8 := by decide +kernel

/-- MailboxRequestsComplete: a request that stands in a die's mailbox. -/
def asked (s : State) (die : Nat) (ws : List Word) : State :=
  given { s with dies := [(die, { mBusy := true, mWords := ws ++ List.replicate (8 - ws.length) 0 })] } { place := die }

theorem test_wit_mailbox : (∀ x ∈ ([([1, 0x2FF, 0xFFFFFFFF], 3), ([1, 5, 0], 3), ([2, 5], 2), ([2, 0x105], 2), ([3, 0x105, 0, 0x40], 4), ([4, 0x1FFFFFFFF], 2),
      ([5, 24], 2), ([5, 1], 2), ([6, 8000], 2), ([6, 16000], 2), ([7], 1)] : List (List Word × Nat)),
      (getDie (asked (filled 0) 0 x.1) 0).mBusy = true ∧
      ((getDie (asked (filled 0) 0 x.1) 0).mWords.getD 0 0).toNat = (x.1.getD 0 0).toNat ∧
      ((getDie (asked (filled 0) 0 x.1) 0).mWords.drop x.2).any (· != 0) = false) ∧
    bf (0x2FF : Word) 9 8 < 3 ∧ (getKey (filled 0) 2 0xFF).part = none ∧ (getKey (filled 0) 0 5).part = some (partOf (filled 0) 0) ∧
    slotBusy (filled 0) 2 0xFF = false ∧ slotBusy (filled 0) 0 5 = false ∧ slotBusy (filled 0) 1 5 = false ∧
    (getKey (filled 0) 1 5).part ≠ some (partOf (filled 0) 0) ∧ ((0x1FFFFFFFF : Word).toNat < 2 ^ 33) ∧
    [1, 2, 4, 8, 24].contains 24 = true ∧ divisionBusy (filled 0) = false ∧ (filled 0).flowHold = false := by decide +kernel

theorem test_wit_tenant_key : runHeld (hubbed 32 {}) 0 32 = false ∧ runHeld (hubbed 32 {}) 0x40 1952 = false ∧ hubKey (hubbed 32 {}) 0 = 5 ∧ (readMain (hubbed 32 {}) 5 0 32).isSome = true := by decide +kernel

theorem test_wit_tenant_list : (readMain (hubbed 32 {}) 5 0x40 1952).isSome = true := by decide +kernel

/-- PowerAndHeatRequestsComplete: an object that the module controller answers; limits at 8 kW and 16 kW and past them, with
the flow hold off and on, the readings, OPs that are not listed, and a lowering and a raising. -/
theorem test_wit_doe : (given (filled 0) { id := doeHeader }).input.id = doeHeader ∧ doeHeader + 1 ≠ doeHeader := by
  refine ⟨by unfold given; rfl, by omega⟩

theorem test_wit_power : bf (0x500001 : Word) 7 0 = 1 ∧ bf (0x500001 : Word) 31 16 = 80 ∧ bf (0xA00001 : Word) 31 16 = 160 ∧
    bf (0x4F0001 : Word) 31 16 < 80 ∧ 160 < bf (0xA10001 : Word) 31 16 ∧ bf (2 : Word) 7 0 = 2 ∧ bf (3 : Word) 7 0 = 3 ∧
    bf (2 : Word) 31 16 = 0 ∧ 4 ≤ bf (4 : Word) 7 0 ∧ bf (0 : Word) 7 0 = 0 ∧ (filled 0).flowHold = false ∧
    ({ filled 0 with flowHold := true } : State).flowHold = true ∧
    (given (filled 0) { flag := true }).input.flag = true ∧ (given (filled 0) {}).input.flag = false := by decide +kernel

/-- DebugSessionsAndSettings: requests that may open a session at each level; a session 10 s old and one younger; and a
session's requests. -/
def tenanted : State := { scalars with tenants := [(3, ([], []))], keys := [(256, { key := some key32 })] }

theorem test_wit_sessions : (getSession tenanted 2).isOpen = false ∧
    mayOpen tenanted { level := .tenant, context := 3, part := 0, nonce := 9, ed25519 := .valid, mldsa := .valid } = true ∧
    mayOpen tenanted { level := .maker, context := 3, part := 0, nonce := 9, ed25519 := .valid, mldsa := .valid } = true ∧
    (∀ i, i < 256 → slotBusy tenanted 0 i = false ∧ slotBusy tenanted 1 i = false) ∧
    (given tenanted { ask := { ed25519 := .valid, mldsa := .invalid } }).input.ask.mldsa ≠ .valid ∧
    10000000000 ≤ ((10000000000 : BitVec 48) - 0).toNat ∧ ((9999999999 : BitVec 48) - 0).toNat < 10000000000 := by decide +kernel

def debugging (e : Session) (ws : List Word) : State :=
  given { warp fun c => { c with context := 3, launchid := 7, wgid := 5, warpid := 2 } with
            tenants := [(3, ([], []))]
            sessions := [(2, { e with isOpen := true, context := 3 })]
            parts := [(0, { breaks := [(1, { valid := true, sess := 2 })], watches := [(1, { valid := true, sess := 2 })], hits := [(0, 0)],
                            launches := [(7, { live := true, context := 3, asid := 1 })] })]
            keys := [(0, { part := some 0, context := 3 })]
            cores := [(0, { park := [(0, { valid := true, strands := 4, token := 9, dw := 5 })] })] }
    { place := 2, words := ws }

theorem test_wit_settings :
    let s := debugging {} []
    let e := getSession s 2
    e.isOpen = true ∧ sessionParts s e = [0] ∧ asidForeign s e 1 = false ∧ asidForeign s e 7 = false ∧
    (∀ p ∈ sessionParts s e, (mapGet ({} : Breakpoint) (getPart s p).breaks 15).valid = true →
      (mapGet ({} : Breakpoint) (getPart s p).breaks 15).sess = 2) ∧
    (∀ p ∈ sessionParts s e, (mapGet ({} : Breakpoint) (getPart s p).breaks 1).valid = true →
      (mapGet ({} : Breakpoint) (getPart s p).breaks 1).sess = 2) ∧
    (∀ p ∈ sessionParts s e, (mapGet ({} : Watchpoint) (getPart s p).watches 1).valid = true →
      (mapGet ({} : Watchpoint) (getPart s p).watches 1).sess = 2) ∧
    (given s { value := payloadWord 0x01 0 32 }).input.value = payloadWord 0x01 0 32 ∧ payloadWord 0x01 0 32 ≠ 0 ∧
    3 ≤ bf (0x103 : Word) 4 0 ∧ bf (0x31E : Word) 4 0 ≤ 30 ∧ bf (0x103 : Word) 9 8 ≠ 0 ∧ (0x1000 : Word).toNat % 2 ^ 3 = 0 ∧
    bf (4 : Word) 2 0 ≤ 4 ∧ bf (4 : Word) 2 0 ≠ 0 ∧ triggerValue 4 0 = true ∧ triggerValue 3 15 = true ∧ bf (0 : Word) 2 0 = 0 ∧
    (getLaunch (getPart s 0) 7).live = true ∧ inScope e (getLaunch (getPart s 0) 7).context 0 = true := by decide +kernel

/-- CapturesHitsAndKeysComplete: buffers of 64 KiB and of 1 GiB, a park table with one entry, a hit in scope, keys of
each length, and a sample that is due, of one live quad and of none. -/
def capturing : Session := { configured := true, capturing := true, kinds := 0xFFF, period := 256 }

theorem test_wit_capture :
    let s := debugging { maker := true } []
    let e := getSession s 2
    captureAdmitted s e = true ∧ bufferGranted s e 0x10000 (2 ^ 16) = true ∧ bufferGranted s e 0 (2 ^ 30) = true ∧
    bufferHeld s e = false ∧ bf (0x110 : Word) 4 0 = 16 ∧ bf (0x1E : Word) 4 0 = 30 ∧ e.maker = true := by decide +kernel

theorem test_wit_hits :
    let s := debugging capturing []
    let e := getSession s 2
    (getCore s 0).park = [(0, { valid := true, strands := 4, token := 9, dw := 5 })] ∧ e.capturing = true ∧
    inScope e (getCtx s 0).context (partOf s 0) = true ∧
    waitingHits s e = [(0, 0, 0)] ∧ oldestHit s e = some (0, 0, 0) ∧ (getCtx s 0).launchid = 7 ∧ (getCtx s 0).wgid = 5 ∧ (getCtx s 0).warpid.toNat = bf (2 : Word) 4 0 ∧
    frameWaits s 0 = false ∧ slotBusy s 0 0 = false ∧
    (getKey s 0 0).part = some e.part ∧ (getKey s 0 0).context = e.context ∧ e.context ≠ 0 := by decide +kernel

theorem test_wit_sample :
    let s := { debugging capturing [] with time := 256 }
    let old := getSession s 2
    old.kinds.getLsbD 1 = true ∧ old.period ≠ 0 ∧ old.period ≤ (s.time - old.sampledAt).toNat ∧ liveQuads s = [0] ∧
    quadStrands s { old with sampledAt := s.time } 0 = [0] ∧ liveQuads { s with ctxs := [] } = [] := by decide +kernel

/-- StepRunsDecodedInstruction and UndecodableWordsTrap: the strand's next word is looked at in a state, and is an
instruction; the word is undecodable; the step is named by the agenda, or is one that the machine has started. -/
def turned (w : Code) : State :=
  let s := placeCode State.reset w 0
  { onward s with postponed := false, focus := nextStrand (onward s) s.focus }

def looked (w : Code) : State := readyToIssue (turned w) (codeHeader w)

theorem issuesIn_of {s t : State} {h : Code} (turn : turnIn s t) (h1 : issuable t t.focus = true) (h2 : interruptDue t = false)
    (h0 : (curStrand t).replayOp = none) (h7 : passDue (curStrand t) = none) (h3 : (curStrand t).begun = true)
    (h4 : codeHeld t t.focus.key (curStrand t).ca = false)
    (h5 : fetchCode t t.focus.key (curStrand t).ca = .ok h) (h6 : wordsHeld (readyToIssue t h) = false)
    (h8 : (curStrand (readyToIssue t h)).pinned = true) (h9 : breakHit (readyToIssue t h) = false) :
    issuesIn s t (readyToIssue t h) := ⟨turn, h1, h2, h0, h7, h3, h4, h, h5, ⟨h6, by simp [h8]⟩, h9⟩

theorem test_wit_issues : issuesIn (placeCode State.reset 0x04002106 0) (turned 0x04002106) (looked 0x04002106) :=
  issuesIn_of (t := turned 0x04002106) (Or.inr ⟨by decide +kernel, Or.inl (by decide +kernel), rfl⟩) (by decide +kernel)
    (by decide +kernel) (by decide +kernel) (by decide +kernel) (by decide +kernel) (by decide +kernel)
    (ok_of (x := codeHeader 0x04002106) (by decide +kernel)) (by decide +kernel) (by decide +kernel) (by decide +kernel)

theorem test_wit_issues_zero : issuesIn (placeCode State.reset 0 0) (turned 0) (looked 0) :=
  issuesIn_of (t := turned 0) (Or.inr ⟨by decide +kernel, Or.inl (by decide +kernel), rfl⟩) (by decide +kernel)
    (by decide +kernel) (by decide +kernel) (by decide +kernel) (by decide +kernel) (by decide +kernel)
    (ok_of (x := codeHeader 0) (by decide +kernel)) (by decide +kernel) (by decide +kernel) (by decide +kernel)

theorem test_wit_word : (fetchCode (looked 0x04002106) 0 0x3000004).toOption = some 0x04002106 ∧
    (curStrand (looked 0x04002106)).inRep = false ∧ isHeader 0x04002106 = false ∧ isExtension 0x04002106 = false ∧
    majorClass (majorOf 0x04002106) = some 0 ∧ takesExtension 0x04002106 = false ∧
    (decodeWord 0x04002106 none).toOption = some (.sAluAdd 0 1 2 3 0) ∧ (decodeWord 0 none).toOption = none ∧
    (looked 0x04002106).focus.key = 0 ∧ isWordInstr .readStatus = false := by decide +kernel

/-- What a word that takes an extension stands before: none in its clause; a word that is none; and one with which it is not
decoded. -/
def unextended (w x : Code) (wi : BitVec 4) : State :=
  warpAt w x fun c => { c with strands := strand fun y => { y with wi := wi } }

def turnedOf (s : State) : State := { onward s with postponed := false, focus := nextStrand (onward s) s.focus }

def extended (w x : Code) (wi : BitVec 4) : State := readyToIssue (turnedOf (unextended w x wi)) (codeHeader w)

theorem issues_at {w x : Code} {wi : BitVec 4}
    (h : let s := unextended w x wi
      let t := turnedOf s
      s.agenda = [] ∧ s.due = [] ∧ issuable t t.focus = true ∧ interruptDue t = false ∧ (curStrand t).replayOp = none ∧
        passDue (curStrand t) = none ∧ (curStrand t).begun = true ∧ codeHeld t t.focus.key (curStrand t).ca = false ∧
        (fetchCode t t.focus.key (curStrand t).ca).toOption = some (codeHeader w) ∧
        wordsHeld (readyToIssue t (codeHeader w)) = false ∧
        (curStrand (readyToIssue t (codeHeader w))).pinned = true ∧ breakHit (readyToIssue t (codeHeader w)) = false) :
    issuesIn (unextended w x wi) (turnedOf (unextended w x wi)) (extended w x wi) :=
  let ⟨a, d, h1, h2, h0, h7, h3, h4, h5, h6, h8, h9⟩ := h
  issuesIn_of (Or.inr ⟨a, Or.inl d, rfl⟩) h1 h2 h0 h7 h3 h4 (ok_of h5) h6 h8 h9

theorem test_wit_no_extension : issuesIn (unextended 0xD0404188 0xD0404188 2) (turnedOf (unextended 0xD0404188 0xD0404188 2)) (extended 0xD0404188 0xD0404188 2) ∧
    takesExtension 0xD0404188 = true ∧ isHeader 0xD0404188 = false ∧ isExtension 0xD0404188 = false ∧
    (curStrand (extended 0xD0404188 0xD0404188 2)).hdr.n.toNat ≤ (curStrand (extended 0xD0404188 0xD0404188 2)).wi.toNat ∧
    (fetchCode (extended 0xD0404188 0xD0404188 2) 0 0x3000008).toOption = some 0xD0404188 :=
  ⟨issues_at (by decide +kernel), by decide +kernel, by decide +kernel, by decide +kernel, by decide +kernel, by decide +kernel⟩

theorem test_wit_bad_extension : issuesIn (unextended 0xD0404188 0xFFFFFFFF 1) (turnedOf (unextended 0xD0404188 0xFFFFFFFF 1)) (extended 0xD0404188 0xFFFFFFFF 1) ∧
    (curStrand (extended 0xD0404188 0xFFFFFFFF 1)).wi.toNat < (curStrand (extended 0xD0404188 0xFFFFFFFF 1)).hdr.n.toNat ∧
    (fetchCode (extended 0xD0404188 0xFFFFFFFF 1) 0 0x3000008).toOption = some 0xFFFFFFFF ∧ isExtension 0xFFFFFFFF = true ∧
    isExtension 0 = false ∧ majorOf 0xD0404188 ≠ 0x60 ∧ (decodeWord 0xD0404188 (some 0xFFFFFFFF)).toOption = none ∧
    (majorClass (majorOf 0xD0404188)).all (fun k => k == 0 || k == (curStrand (extended 0xD0404188 0xFFFFFFFF 1)).hdr.ecl.toNat) = true :=
  ⟨issues_at (by decide +kernel), by decide +kernel, by decide +kernel, by decide +kernel, by decide +kernel, by decide +kernel,
    by decide +kernel, by decide +kernel⟩

/-- Inside a rep of the a field with 7 of its 8 repeats left, v.add v1, v2, v3 stands for v.add v1, v3, v3 (04 R100). -/
def repeating : State :=
  let s := warpAt 0xF010E000 0x40002106 fun c => { c with strands := strand fun x => { x with inRep := true, srepc := 7 } }
  writeBytes s (dieStoreBase + 0x3000000) (wordBytes (codeHeader 0x40002106))

def repeated : State := readyToIssue (turnedOf repeating) (codeHeader 0x40002106)

theorem test_wit_repeats : issuesIn repeating (turnedOf repeating) repeated :=
  issuesIn_of (Or.inr ⟨by decide +kernel, Or.inl (by decide +kernel), rfl⟩) (by decide +kernel)
    (by decide +kernel) (by decide +kernel) (by decide +kernel) (by decide +kernel) (by decide +kernel)
    (ok_of (x := codeHeader 0x40002106) (by decide +kernel)) (by decide +kernel) (by decide +kernel) (by decide +kernel)

/-- A step of the table at the agenda's head in a module that runs; the same, a store to be shown, and the bring-up in one that
has shut down. -/
theorem test_wit_moves :
    let e : Act := .event .readStatus {}
    let s := { scalars with agenda := [e] }
    let t := { s with shutdown := true }
    s.shutdown = false ∧ s.agenda = e :: [] ∧ isWordInstr .bringUp = false ∧ t.shutdown = true ∧ t.agenda = e :: [] ∧
    (∀ args, e ≠ .event .bringUp args) ∧ ({ scalars with agenda := [.showStore 0 3 0] } : State).agenda = .showStore 0 3 0 :: [] ∧
    ({ t with agenda := [], due := [e] } : State).due = e :: [] := by
  refine ⟨rfl, rfl, by decide, rfl, rfl, fun args h => ?_, rfl, rfl⟩
  injection h with h; cases h

theorem test_wit_stepped : (fetchCode repeated 0 0x3000004).toOption = some 0xF010E000 ∧
    (fetchCode repeated 0 0x3000008).toOption = some 0x40002106 ∧ (curStrand repeated).inRep = true ∧
    (steppedWord 0xF010E000 0x40002106 (bits 0xF010E000 13 6 + 1 - (curStrand repeated).srepc.toNat)) = some (0x40002186, 0, 0, 0) ∧
    (decodeWord 0x40002186 none).toOption = some (.vAdd 0 0 1 3 3 0) ∧ classAdmits repeated 0x40002186 := by
  have h : majorClass (majorOf 0x40002186) = some 1 := by decide +kernel
  refine ⟨by decide +kernel, by decide +kernel, by decide +kernel, by decide +kernel, by decide +kernel, ?_⟩
  unfold classAdmits
  rw [h]
  exact Or.inr (by decide +kernel)

/-! ## Results that the spec gives -/

/-- The next state of an instruction. -/
def after (i : Instr) (s : State) : State :=
  match exec i s with
  | .next u => u
  | _ => { s with powered := false }

/-- A scalar register after an instruction. -/
def sAfter (i : Instr) (n : Nat) (vs : List (Nat × Word)) : Word := (getS (cur (after i (warp fun c => { c with sregs := sregs vs }))) n).val

/-- 02 R50's examples of division, and both corners of its table. -/
theorem test_division : sAfter (.sDivDivs 0 1 2 3 0) 1 [(2, 0xFFFFFFFFFFFFFFF9), (3, 2)] = 0xFFFFFFFFFFFFFFFD ∧
    sAfter (.sDivRems 0 1 2 3 0) 1 [(2, 0xFFFFFFFFFFFFFFF9), (3, 2)] = 0xFFFFFFFFFFFFFFFF ∧
    sAfter (.sDivDivn 0 1 2 3 0) 1 [(2, 0xFFFFFFFFFFFFFFF9), (3, 2)] = 0x7FFFFFFFFFFFFFFC ∧
    sAfter (.sDivRemn 0 1 2 3 0) 1 [(2, 0xFFFFFFFFFFFFFFF9), (3, 2)] = 1 ∧
    sAfter (.sDivDivs 0 1 2 3 0) 1 [(2, 5)] = 0xFFFFFFFFFFFFFFFF ∧ sAfter (.sDivRems 0 1 2 3 0) 1 [(2, 5)] = 5 ∧
    sAfter (.sDivDivs 0 1 2 3 0) 1 [(2, 0x8000000000000000), (3, 0xFFFFFFFFFFFFFFFF)] = 0x8000000000000000 ∧
    sAfter (.sDivRems 0 1 2 3 0) 1 [(2, 0x8000000000000000), (3, 0xFFFFFFFFFFFFFFFF)] = 0 := by decide +kernel

/-- 05 R111, R113, R116: a sum wraps and takes a signed immediate, s0 stays 0, a halfword alone is replaced, and a rotate
goes right. -/
theorem test_scalar_results : sAfter (.sAluAdd 0 2 2 0x3F 1) 2 [(2, 0)] = 0xFFFFFFFFFFFFFFFF ∧
    sAfter (.sAluAdd 0 0 2 2 0) 0 [(2, 7)] = 0 ∧ sAfter (.sMovk 3 2 0xABCD) 2 [(2, 0x1122334455667788)] = 0xABCD334455667788 ∧
    sAfter (.sAlu2Rotr 0 1 2 3 0) 1 [(2, 3), (3, 65)] = 0x8000000000000001 ∧
    sAfter (.sAlu2Mulhs 0 1 2 3 0) 1 [(2, 0xFFFFFFFFFFFFFFFE), (3, 5)] = 0xFFFFFFFFFFFFFFFF ∧
    sAfter (.sAlu2Mulhn 0 1 2 3 0) 1 [(2, 0xFFFFFFFFFFFFFFFE), (3, 5)] = 4 := by decide +kernel

/-- 05 R125's example: lc.entry's s.lea of lc.f1, 76 bytes on; and the windows' bases. -/
theorem test_lea : sAfter (.sLeaClause 0 5 0 19) 5 [] = 0x300004C ∧ sAfter (.sLeaGstore 0 5 2 1) 5 [(2, 1)] = 0x1FFFF0000000009 ∧
    sAfter (.sLeaSpill 0 5 2 0) 5 [(2, 1)] = 0x1FFFE0000000001 := by decide +kernel

/-- 06 R142's worked example: with k2 as guard and destination, bits 1 and 3 alone change. -/
theorem test_guard_is_destination :
    let s := warp fun c => { c with strands := strand fun x => { x with mask := 0xFF }, ks := [(2, 0xF0F)], vregs := [(64, { val := 0xFFFFFFFB }), (65, { val := 7 }), (66, { val := 2 }), (67, { val := 4 }), (69, { val := 1 }), (129, { val := 3 }), (130, { val := 9 }), (131, { val := 4 }), (133, { val := 5 })] }
    getK (cur (after (.vCmpLt 2 4 2 1 2 0) s)) 2 = 0xF05 := by decide +kernel

/-- A vector form's lanes 0 and 31 and FFLAGS after it. -/
def vAfter (i : Instr) (r : Nat) (vs : List (Nat × Word × Word)) : Word × Word × BitVec 6 :=
  let c := cur (after i (grouped fun c => { c with vregs := vregs vs }))
  ((getV c r 0).val, (getV c r 31).val, c.fflags)

/-- 07 R151, 03 R59, R64: f32 sums in both sub-elements, and an overflow that sets OF and NX in one of them. -/
theorem test_float_sums : vAfter (.vAdd 0 0 4 1 2 0) 4 [(1, 0x3F8000007F7FFFFF, 0xBFC0000040400000), (2, 0x3F8000007F7FFFFF, 0x3FC000003F000000)] =
    (0x400000007F800000, 0x0000000040600000, 0x14) := by decide +kernel

/-- 07 R153: v.fma with x × y = +0 and c = −0 gives +0, and 07 R151: 32-bit products of either sign agree. -/
theorem test_fma_and_products : (vAfter (.vFma 0 0 4 1 2 0) 4 [(4, 0x8000000080000000, 0)]).1 = 0 ∧
    (vAfter (.vMul 0 4 4 1 2 0) 4 [(1, 0xFFFFFFFF, 0), (2, 7, 0)]).1 = 0xFFFFFFF9 ∧
    (vAfter (.vMulhi 0 4 4 1 2 0) 4 [(1, 0xFFFFFFFF, 0), (2, 7, 0)]).1 = 0xFFFFFFFF ∧
    (vAfter (.vMulhi 0 5 4 1 2 0) 4 [(1, 0xFFFFFFFF, 0), (2, 7, 0)]).1 = 6 := by decide +kernel

/-- 07 R152, 02 R36: a division marks its lanes pending and takes 1 ÷ 0 to infinity with DZ. -/
theorem test_division_by_zero :
    let c := cur (after (.vDiv 0 3 4 1 2 0) (grouped fun c => { c with vregs := vregs [(1, 0x3FF0000000000000, 0)] }))
    (getV c 4 0).fill = .pending ∧ (c.ops.map fun o => o.accs.map fun a => (a.data, a.flags)) =
      [[(0x7FF0000000000000, 2), (0x7FF8000000000000, 1)]] := by decide +kernel

/-- 10 R222's worked example: the block of 03 R76 packs to 0x0974_12B6 with scale halfword 0x80FE, NX and UF. -/
theorem test_shared_exponent_block :
    let s := grouped fun c => { c with strands := strand fun x => { x with mask := 1 }, vregs := [(512, { val := 0xBFC0000040400000 }), (576, { val := 0x3E8000003F000000 }), (640, { val := 0x3FE000003F800000 }), (704, { val := 0x3DCCCCCDBE99999A })] }
    let c := cur (after (.xSepk 0 0 20 8 1 0 0) s)
    (getV c 20 0).val = 0x097412B6 ∧ halfOf (getV c 21 0).val 0 = 0x80FE ∧ c.fflags = 0x18 := by decide +kernel

/-- 10's worked program bitrd: the 60-bit read of lane 1 from its cursor 16, the fill after it, and the signed read. -/
def streams (vs : List (Nat × Word)) (k : BitVec 7) : State :=
  grouped fun c => { c with strands := strand fun x => { x with mask := 2 }, vregs := vs.map fun v => (v.1 * 64 + 1, { val := v.2 }), cursors := [(1, k)] }

theorem test_bit_streams :
    let a := cur (after (.bsRd 0 1 5 1 59 0) (streams [(1, 0x0123456789ABCDEF), (2, 0xFEDCBA987654F8A0)] 16))
    let b := cur (after (.bsFill 0 6 1 3 0) (streams [(1, 0x0123456789ABCDEF), (2, 0xFEDCBA987654F8A0), (3, 0xA5)] 76))
    let d := cur (after (.bsRd 0 0 7 1 7 0) (streams [(1, 0xFEDCBA987654F8A0), (2, 0xA5)] 12))
    (getV a 5 1).val = 0x08A00123456789AB ∧ getCursor a 1 = 76 ∧ (getV b 1 1).val = 0xFEDCBA987654F8A0 ∧ (getV b 2 1).val = 0xA5 ∧
    getCursor b 1 = 12 ∧ (getV b 6 1).val = 1 ∧ (getV d 7 1).val = 79 ∧ getCursor d 1 = 20 := by decide +kernel

/-- 10 R212 to R215: an index beyond the span gives 0; x.shfli.up keeps a lane's own value below the distance; a scan
that excludes the own lane starts at the identity. -/
theorem test_cross_lane : vAfter (.xShfl 0 6 4 1 2 0) 4 [(1, 5, 6), (2, 31, 32)] = (6, 0, 0) ∧
    vAfter (.xShfliUp 0 4 1 31) 4 [(1, 5, 6)] = (5, 5, 0) ∧ vAfter (.xRedAdd 0 6 4 1 0) 4 [(1, 5, 6)] = (11, 11, 0) ∧
    vAfter (.xScanAdd 0 6 4 1 1 0) 4 [(1, 5, 6)] = (0, 5, 0) ∧ vAfter (.xScanMax 0 6 4 1 0 0) 4 [(1, 5, 0xFFFFFFFFFFFFFFFF)] = (5, 5, 0) := by
  decide +kernel

/-- 12 R252's worked example: the lanes that address X get 100, 101, 104 and 108, and leave 114. -/
theorem test_combining : (atomicLanes 0 8 100 [{ lane := 0, data := 1 }, { lane := 2, data := 3 }, { lane := 3, data := 4 }, { lane := 5, data := 6 }]).1 = 114 ∧
    (atomicLanes 0 8 100 [{ lane := 0, data := 1 }, { lane := 2, data := 3 }, { lane := 3, data := 4 }, { lane := 5, data := 6 }]).2.map
      (fun a => a.result) = [100, 101, 104, 108] := by decide +kernel

/-- 12 R254, R256: the last of two arrivals completes the phase, and the first counts. -/
theorem test_arrivals : arriveWord 0x0007FFFF00000002 = 0x0007FFFF00010002 ∧ arriveWord 0x0007FFFF00010002 = 0x0007000000000002 := by
  decide +kernel

/-- 12 R250: a store issues with the lanes' addresses and data, and its accesses write their bytes when performed. -/
theorem test_store :
    let u := after (.mSt 0 4 1 2 2 0) vectors
    ((cur u).ops.map fun o => o.accs.map fun a => (a.place, a.len, a.data)) =
      [[(dieStoreBase + 0x3010000, 4, 0x05060708), (dieStoreBase + 0x30100F8, 4, 0xFFFFFFFF)]] ∧
    readNat (performAt u 0 0 0) (dieStoreBase + 0x3010000) 8 = 0x05060708 := by decide +kernel

/-- 05 R127, 21 R410, R411: trap 0xBEEF stands in its frame with cause 0x10, the PC at word 1 and the resume point at
word 2, and the warp goes on at TVEC in supervisor mode. -/
theorem test_trap :
    let u := after (.trap 0 0xBEEF) (warp fun c => { c with status := 0x200, tvec := 0x3000040, tframe := BitVec.ofNat 64 spillBase, strands := strand id })
    readNat u (spillPlace 0 0) 8 = 0xBEEF0010 ∧ isPriv (cur u) = true ∧ isInTrap (cur u) = true ∧ (curStrand u).ca = 0x3000040 := by
  decide +kernel

/-- 17's worked swizzled fill: the record of 4 rows of 256 bytes, and where its bytes go. -/
theorem test_swizzle :
    let r := readRecord [0, 0x0000001F00010003, 0x0000010000000400, 0, 0, 0, 0, 0]
    r.rows = 4 ∧ r.rb = 256 ∧ r.swz = 1 ∧ r.spitch = 1024 ∧ r.dpitch = 256 ∧ copyLegal r = true ∧
    0x1000 + copyByte r 0 0x10 = 0x1010 ∧ 0x1000 + copyByte r 1 0 = 0x1110 ∧ 0x1000 + copyByte r 1 0x10 = 0x1100 ∧
    0x1000 + copyByte r 3 0xF0 = 0x13E0 ∧ hullLength r.rows r.spitch 256 = 0xD00 ∧ hullLength r.rows r.dpitch r.rb = 0x400 := by
  decide +kernel

/-- 05 R130, 04 R39: the placed instruction is what the next step runs, and one tick passes. -/
theorem test_step :
    (match step (State.reset.withFetchWord 32 0x0A010BFF) with
     | .next u => decide ((getS (cur u) 1).val = 0xFFFFFFFFFFFFFFFF) && decide (u.time = 1)
     | _ => false) = true := by decide +kernel

end Sys2Proof.Tests
end

section
/-! SUPPORT. The scalar instructions of 05 R111 to R113, R116 and R117: what each shape of body does when its guard is 1
and its operands can be read, and the bits of the words that s.movk and s.bit compute. -/

namespace Sys2Proof.Proofs

open Sys2Proof Sys2Proof.Machine Sys2Proof.Laws

/-! ## Bodies that go on -/

section Bodies

variable {s : State} {g : BitVec 3} {d a b : BitVec 6} {x y : Word}

theorem scalarSr_writes {i : BitVec 1} (f : Word → Word → Word) (hg : guardP s g = true) (ha : holdsS s a x)
    (hb : operandB s b i y) (hd : writableS s d) : run s (scalarSr f g d a b i s) = doneS s d (f x y) := by
  rw [scalarSr, guarded_on _ hg, rdS_holds ha, srcB_operand hb, freeS_writable hd]; rfl

theorem scalarSi_writes {i : BitVec 10} (f : Word → Word → Word) (hg : guardP s g = true) (ha : holdsS s a x)
    (hd : writableS s d) : run s (scalarSi f g d a i s) = doneS s d (f x (i.signExtend 64)) := by
  rw [scalarSi, guarded_on _ hg, rdS_holds ha, freeS_writable hd]; rfl

theorem scalarUnary_writes (f : Word → Word) (hg : guardP s g = true) (ha : holdsS s a x) (hd : writableS s d) :
    run s (scalarUnary f g d a s) = doneS s d (f x) := by
  rw [scalarUnary, guarded_on _ hg, rdS_holds ha, freeS_writable hd]; rfl

theorem exec_sMovi_writes (i : BitVec 16) (hg : guardP s g = true) (hd : writableS s d) :
    exec (.sMovi g d i) s = doneS s d (i.signExtend 64) := by
  show execSMovi g d i s = _
  rw [execSMovi, guarded_on _ hg, freeS_writable hd]; rfl

theorem exec_sMovk_writes (h : BitVec 2) (i : BitVec 16) (hx : holdsS s d x) :
    exec (.sMovk h d i) s = doneS s d (replaceHalf x h i) := by
  show execSMovk h d i s = _
  rw [execSMovk, rdS_holds hx]; rfl

theorem exec_sBitIns_writes {old : Word} (hg : guardP s g = true) (ha : holdsS s a x) (hb : holdsS s b y)
    (hd : holdsS s d old) : exec (.sBitIns g d a b) s = doneS s d (insertField old x y) := by
  show execSBitIns g d a b s = _
  rw [execSBitIns, guarded_on _ hg, rdS_holds ha, rdS_holds hb, rdS_holds hd]; rfl

/-- A register named where the encoding leaves no room for an immediate. -/
theorem operandB_register (h : holdsS s b y) : operandB s b 0 y := .inr ⟨rfl, h⟩

end Bodies

/-! ## Products and comparisons (02 R48) -/

theorem ofNat_wrapInt (z : Int) (n : Nat) : BitVec.ofNat n (wrapInt z n) = BitVec.ofInt n z := by
  apply BitVec.eq_of_toNat_eq
  rw [BitVec.toNat_ofNat, BitVec.toNat_ofInt, wrapInt, Nat.mod_eq_of_lt]
  have := Nat.two_pow_pos n
  omega

theorem mulHighSigned_eq (x y : Word) :
    mulHighSigned x y = BitVec.ofInt 64 (x.toInt * y.toInt / 2 ^ 64) := ofNat_wrapInt _ 64

theorem ite_sle {α : Type} (x y : Word) (p q : α) :
    (if x.sle y then p else q) = if x.toInt ≤ y.toInt then p else q := by
  simp only [BitVec.sle_iff_toInt_le]

theorem ite_ule {α : Type} (x y : Word) (p q : α) :
    (if x.ule y then p else q) = if x.toNat ≤ y.toNat then p else q := by
  simp only [BitVec.ule_iff_toNat_le]

/-! ## Fields of a word (05 R113, R117) -/

/-- A number between its low `p` bits and those from `p + w` up, put together again around `w` bits of another. -/
theorem testBit_splice (old x p w n : Nat) :
    (old % 2 ^ p + x % 2 ^ w * 2 ^ p + old / 2 ^ (p + w) * 2 ^ (p + w)).testBit n =
      if p ≤ n ∧ n < p + w then x.testBit (n - p) else old.testBit n := by
  have low : old % 2 ^ p < 2 ^ p := Nat.mod_lt _ (Nat.two_pow_pos p)
  have shape : old % 2 ^ p + x % 2 ^ w * 2 ^ p + old / 2 ^ (p + w) * 2 ^ (p + w) =
      2 ^ p * (2 ^ w * (old / 2 ^ (p + w)) + x % 2 ^ w) + old % 2 ^ p := by ring
  rw [shape, Nat.testBit_two_pow_mul_add _ low, Nat.testBit_two_pow_mul_add _ (Nat.mod_lt _ (Nat.two_pow_pos w))]
  by_cases below : n < p
  · simp [below, Nat.not_le.mpr below, Nat.testBit_mod_two_pow]
  · by_cases inside : n - p < w
    · have : p ≤ n ∧ n < p + w := by omega
      simp [below, inside, this, Nat.testBit_mod_two_pow]
    · have : ¬(p ≤ n ∧ n < p + w) := by omega
      have back : n - p - w + (p + w) = n := by omega
      simp only [below, inside, this, if_false, Nat.testBit_div_two_pow, back]

theorem fieldOf_eq (c : Word) :
    fieldOf c = (c.toNat % 64, min (c.toNat / 64 % 64 + 1) (64 - c.toNat % 64)) := by
  simp [fieldOf, bf]

theorem insertField_getLsbD (old x c : Word) {n : Nat} (hn : n < 64) :
    (insertField old x c).getLsbD n =
      if (fieldOf c).1 ≤ n ∧ n < (fieldOf c).1 + (fieldOf c).2 then x.getLsbD (n - (fieldOf c).1)
      else old.getLsbD n := by
  simp only [insertField, BitVec.getLsbD_ofNat, hn, testBit_splice, BitVec.testBit_toNat, decide_true, Bool.true_and]

/-- Taking a field away leaves what lies below it and what lies above it. -/
theorem sub_field_eq (x k w : Nat) :
    x - x / 2 ^ k % 2 ^ w * 2 ^ k = x % 2 ^ k + x / 2 ^ (k + w) * 2 ^ (k + w) := by
  have low := Nat.div_add_mod x (2 ^ k)
  have high := Nat.div_add_mod (x / 2 ^ k) (2 ^ w)
  rw [Nat.div_div_eq_div_mul, ← pow_add] at high
  have whole : x = x % 2 ^ k + x / 2 ^ (k + w) * 2 ^ (k + w) + x / 2 ^ k % 2 ^ w * 2 ^ k := by
    calc x = 2 ^ k * (2 ^ w * (x / 2 ^ (k + w)) + x / 2 ^ k % 2 ^ w) + x % 2 ^ k := by rw [high, low]
      _ = _ := by ring
  exact Nat.sub_eq_of_eq_add whole

theorem replaceHalf_eq_splice (x : Word) (h : BitVec 2) (i : BitVec 16) :
    replaceHalf x h i = BitVec.ofNat 64 (x.toNat % 2 ^ (16 * h.toNat) + i.toNat % 2 ^ 16 * 2 ^ (16 * h.toNat) +
      x.toNat / 2 ^ (16 * h.toNat + 16) * 2 ^ (16 * h.toNat + 16)) := by
  have width : 16 * h.toNat + 15 + 1 - 16 * h.toNat = 16 := by omega
  rw [replaceHalf, bf, width, sub_field_eq, Nat.mod_eq_of_lt i.isLt, Nat.add_right_comm]

theorem replaceHalf_getLsbD (x : Word) (h : BitVec 2) (i : BitVec 16) {n : Nat} (hn : n < 64) :
    (replaceHalf x h i).getLsbD n = if n / 16 = h.toNat then i.getLsbD (n % 16) else x.getLsbD n := by
  rw [replaceHalf_eq_splice, BitVec.getLsbD_ofNat, testBit_splice]
  simp only [hn, decide_true, Bool.true_and, BitVec.testBit_toNat]
  by_cases here : n / 16 = h.toNat
  · have inside : 16 * h.toNat ≤ n ∧ n < 16 * h.toNat + 16 := by omega
    have offset : n - 16 * h.toNat = n % 16 := by omega
    rw [if_pos inside, if_pos here, offset]
  · have outside : ¬(16 * h.toNat ≤ n ∧ n < 16 * h.toNat + 16) := by omega
    rw [if_neg outside, if_neg here]

/-! ## Bits and bytes in reverse order (05 R117) -/

theorem reverseBits_lt (x n : Nat) : reverseBits x n < 2 ^ n := by
  induction n generalizing x with
  | zero => simp [reverseBits]
  | succ n ih =>
    have bit := Nat.mod_lt x (show 0 < 2 by decide)
    have rest := ih (x / 2)
    have : x % 2 * 2 ^ n ≤ 1 * 2 ^ n := Nat.mul_le_mul_right _ (by omega)
    rw [reverseBits, pow_succ]; omega

theorem testBit_reverseBits (x : Nat) {n i : Nat} (hi : i < n) :
    (reverseBits x n).testBit i = x.testBit (n - 1 - i) := by
  induction n generalizing x with
  | zero => omega
  | succ n ih =>
    rw [reverseBits, Nat.mul_comm, Nat.testBit_two_pow_mul_add _ (reverseBits_lt _ n)]
    by_cases below : i < n
    · have next : n + 1 - 1 - i = n - 1 - i + 1 := by omega
      rw [if_pos below, ih _ below, next, Nat.testBit_succ]
    · obtain rfl : i = n := by omega
      simp [Nat.testBit_zero]

theorem testBit_ofBytes (bs : List Byte) (i : Nat) :
    (ofBytes bs).testBit i = (bs.getD (i / 8) 0).getLsbD (i % 8) := by
  induction bs generalizing i with
  | nil => simp [ofBytes]
  | cons b bs ih =>
    rw [ofBytes, Nat.add_comm, show 256 = 2 ^ 8 from rfl, Nat.testBit_two_pow_mul_add _ b.isLt]
    by_cases first : i < 8
    · rw [if_pos first, Nat.div_eq_of_lt first, Nat.mod_eq_of_lt first, BitVec.testBit_toNat, List.getD_cons_zero]
    · have next : i / 8 = (i - 8) / 8 + 1 := by omega
      have same : (i - 8) % 8 = i % 8 := by omega
      rw [if_neg first, ih, next, same, List.getD_cons_succ]

@[simp] theorem length_toBytes (x n : Nat) : (toBytes x n).length = n := by
  induction n generalizing x with
  | zero => rfl
  | succ n ih => simp [toBytes, ih]

theorem getElem_toBytes (x n k : Nat) (h : k < (toBytes x n).length) :
    (toBytes x n)[k] = BitVec.ofNat 8 (x / 2 ^ (8 * k)) := by
  induction n generalizing x k with
  | zero => simp [toBytes] at h
  | succ n ih =>
    cases k with
    | zero => simp [toBytes]
    | succ k =>
      have scale : 256 * 2 ^ (8 * k) = 2 ^ (8 * (k + 1)) := by ring
      simp only [toBytes, List.getElem_cons_succ, ih, Nat.div_div_eq_div_mul, scale]

theorem swapBytes_getLsbD (x : Word) {n : Nat} (hn : n < 64) :
    (swapBytes x).getLsbD n = x.getLsbD (56 - n / 8 * 8 + n % 8) := by
  have inside : n / 8 < (toBytes x.toNat 8).reverse.length := by rw [List.length_reverse, length_toBytes]; omega
  have byte : (toBytes x.toNat 8).reverse.getD (n / 8) 0 = BitVec.ofNat 8 (x.toNat / 2 ^ (8 * (7 - n / 8))) := by
    rw [List.getD_eq_getElem _ _ inside, List.getElem_reverse, getElem_toBytes, length_toBytes]
  have source : n % 8 + 8 * (7 - n / 8) = 56 - n / 8 * 8 + n % 8 := by omega
  have bit : n % 8 < 8 := Nat.mod_lt n (by decide)
  rw [swapBytes, BitVec.getLsbD_ofNat, testBit_ofBytes, byte, BitVec.getLsbD_ofNat, Nat.testBit_div_two_pow, source,
    BitVec.testBit_toNat]
  simp [hn, bit]

/-! ## The obligations -/

/-- Settles O8: every SR form is one body under a function of its operands, so what is left is each function's value. -/
theorem scalarArithmeticResults : Obligations.ScalarArithmeticResults := by
  unfold Obligations.ScalarArithmeticResults
  intro s g d a b i x y hg ha hb hd
  have writes (f : Word → Word → Word) := scalarSr_writes f hg ha hb hd
  refine ⟨writes (· + ·), writes (· - ·), writes (· &&& ·), writes (· ||| ·), writes (· ^^^ ·),
    writes fun x y => x <<< shiftAmount y, writes fun x y => x >>> shiftAmount y,
    writes fun x y => x.sshiftRight (shiftAmount y), writes (· * ·), ?mulhs, writes mulHighUnsigned, ?min, ?max, ?minn,
    ?maxn, writes fun x y => x.rotateRight (shiftAmount y), writes divSigned, writes divUnsigned, writes remSigned,
    writes remUnsigned⟩
  case mulhs => exact mulHighSigned_eq x y ▸ writes mulHighSigned
  case min => exact ite_sle x y x y ▸ writes fun x y => if x.sle y then x else y
  case max => exact ite_sle x y y x ▸ writes fun x y => if x.sle y then y else x
  case minn => exact ite_ule x y x y ▸ writes fun x y => if x.ule y then x else y
  case maxn => exact ite_ule x y y x ▸ writes fun x y => if x.ule y then y else x

theorem exec_immediateForms (s : State) (g : BitVec 3) (d a : BitVec 6) (i : BitVec 10) (x : Word) (hg : guardP s g = true)
    (ha : holdsS s a x) (hd : writableS s d) :
    exec (.sAddi g d a i) s = doneS s d (x + i.signExtend 64) ∧
    exec (.sAndi g d a i) s = doneS s d (x &&& i.signExtend 64) ∧
    exec (.sOri g d a i) s = doneS s d (x ||| i.signExtend 64) ∧
    exec (.sXori g d a i) s = doneS s d (x ^^^ i.signExtend 64) :=
  have writes (f : Word → Word → Word) := scalarSi_writes (i := i) f hg ha hd
  ⟨writes (· + ·), writes (· &&& ·), writes (· ||| ·), writes (· ^^^ ·)⟩

/-- Settles O9: each form writes its function of what it reads, and the bits of the words that s.movk, s.bit.ins, s.bit.rev
and s.bit.bswap write are those of the splice and reversal lemmas above. -/
theorem scalarImmediatesAndFields : Obligations.ScalarImmediatesAndFields := by
  unfold Obligations.ScalarImmediatesAndFields
  refine ⟨⟨exec_immediateForms, fun s g d i => exec_sMovi_writes i, fun s h d i x hx =>
    ⟨_, exec_sMovk_writes h i hx, fun n => replaceHalf_getLsbD x h i⟩⟩, ?_⟩
  intro s g p d a b i x y hg ha hd
  have unary (f : Word → Word) := scalarUnary_writes f hg ha hd
  refine ⟨fun hb => scalarSr_writes (fun x y => if getP (cur s) p.toNat then x else y) hg ha hb hd, ?fields,
    unary _, unary _, unary _, ⟨_, unary _, ?reversed⟩, _, unary _, fun n => swapBytes_getLsbD x⟩
  case fields =>
    intro hb
    have binary (f : Word → Word → Word) := scalarSr_writes f hg ha (operandB_register hb) hd
    have ins (old : Word) (n : Nat) := insertField_getLsbD old x y (n := n)
    have extz := binary extractZero
    have exts := binary extractSigned
    simp only [extractZero, extractSigned, fieldOf_eq] at extz exts ins
    exact ⟨extz, exts, fun old hold => ⟨_, exec_sBitIns_writes hg ha hb hold, ins old⟩⟩
  case reversed =>
    intro n hn
    rw [BitVec.getLsbD_ofNat, testBit_reverseBits _ hn, BitVec.testBit_toNat]
    simp [hn]

end Sys2Proof.Proofs
end

section
/-! SUPPORT. The comparisons, conversions, packs, moves and sourceless forms of 07 R156 to R164: the sub-elements of a lane
put together, the bits of a mask of lanes, what a completed short form does, and what v.cmp records in K[k] and FFLAGS. -/

namespace Sys2Proof.Proofs

open Sys2Proof Sys2Proof.Machine Sys2Proof.Laws

/-! ## A lane put together from its sub-elements (06 R138) -/

/-- Digits of width `w`, the lowest first, as one number: each can be read back. -/
theorem digits_div_mod (w : Nat) (xs : List Nat) (j : Nat) :
    xs.foldr (fun x acc => x % 2 ^ w + acc * 2 ^ w) 0 / 2 ^ (w * j) % 2 ^ w = xs.getD j 0 % 2 ^ w := by
  induction xs generalizing j with
  | nil => simp
  | cons x xs ih =>
    cases j with
    | zero => simp
    | succ j =>
      have shift : 2 ^ (w * (j + 1)) = 2 ^ w * 2 ^ (w * j) := by rw [← pow_add, Nat.mul_succ, Nat.add_comm]
      rw [List.foldr_cons, shift, ← Nat.div_div_eq_div_mul, Nat.add_mul_div_right _ _ (Nat.two_pow_pos w),
        Nat.div_eq_of_lt (Nat.mod_lt x (Nat.two_pow_pos w)), Nat.zero_add, ih, List.getD_cons_succ]

/-- A field that lies within the first `n` bits is the same in a number cut to `n` bits. -/
theorem mod_two_pow_field (x : Nat) {n p w : Nat} (h : p + w ≤ n) :
    x % 2 ^ n / 2 ^ p % 2 ^ w = x / 2 ^ p % 2 ^ w := by
  obtain ⟨k, rfl⟩ := Nat.exists_eq_add_of_le h
  rw [Nat.add_assoc, pow_add, Nat.mod_mul_right_div_self, Nat.mod_mod_of_dvd _ (pow_dvd_pow 2 (Nat.le_add_right w k))]

theorem field_fits (t : BitVec 3) {j : Nat} (hj : j < subs t) : subWidth t * j + subWidth t ≤ 64 := by
  rw [← Nat.mul_succ]
  exact (Nat.mul_le_mul_left _ hj).trans (Nat.div_mul_le_self 64 (subs t))

theorem sub_ofSubs (t : BitVec 3) (xs : List Nat) {j : Nat} (hj : j < subs t) :
    sub (ofSubs t xs) t j = xs.getD j 0 % 2 ^ subWidth t := by
  rw [sub, ofSubs, BitVec.toNat_ofNat, mod_two_pow_field _ (field_fits t hj), digits_div_mod]

theorem sub_eachSub (t : BitVec 3) (f : Nat → Nat × BitVec 6) {j : Nat} (hj : j < subs t) :
    sub (eachSub t f).1 t j = (f j).1 % 2 ^ subWidth t := by
  rw [eachSub, sub_ofSubs t _ hj]
  simp [List.getD_eq_getElem?_getD, hj]

/-! ## Integers as sub-elements (R162, R164) -/

theorem isFloatType_of_integerType {t : BitVec 3} (h : integerType t = true) : isFloatType t = false := by
  simpa [isFloatType, integerType] using h

theorem wrapInt_eq (x : Int) (w : Nat) : wrapInt x w = (BitVec.ofInt w x).toNat := (BitVec.toNat_ofInt ..).symm

theorem intSub_integer {t : BitVec 3} (h : integerType t = true) (x : Int) :
    intSub t x % 2 ^ subWidth t = (BitVec.ofInt (subWidth t) x).toNat := by
  rw [intSub, isFloatType_of_integerType h, if_neg Bool.false_ne_true, wrapInt_eq, Nat.mod_eq_of_lt (BitVec.isLt _)]

theorem sub_moviLane {t : BitVec 3} (h : integerType t = true) (i : BitVec 13) {j : Nat} (hj : j < subs t) :
    sub (moviLane t i) t j = (i.signExtend (subWidth t)).toNat := by
  rw [moviLane, sub_eachSub t _ hj]
  exact intSub_integer h i.toInt

theorem sub_iotaLane {t : BitVec 3} (h : integerType t = true) (i : BitVec 13) (r : Nat) {j : Nat} (hj : j < subs t) :
    sub (iotaLane t i r) t j =
      (BitVec.ofNat (subWidth t) (r * subs t + j) * i.signExtend (subWidth t)).toNat := by
  rw [iotaLane, sub_eachSub t _ hj, intSub_integer h, BitVec.ofInt_mul, BitVec.ofInt_natCast]; rfl

theorem sub_bcsLane (t : BitVec 3) (x : Word) {j : Nat} (hj : j < subs t) :
    sub (bcsLane t x) t j = x.toNat % 2 ^ subWidth t := by
  rw [bcsLane, sub_eachSub t _ hj, Nat.mod_mod]

/-! ## Masks of lanes (06 R139) -/

theorem lanesOf_sorted (m : Mask) : (lanesOf m).SortedLT :=
  (List.pairwise_lt_range.filter _).sortedLT

theorem maskOf_getLsbD {ls : List Nat} (sorted : ls.SortedLT) {l : Nat} (hl : l < 64) :
    (maskOf ls).getLsbD l = decide (l ∈ ls) := by
  have sum : ls.foldl (fun acc l => acc + 2 ^ l) 0 = (ls.map fun i => 2 ^ i).sum := by
    rw [List.sum_eq_foldl, List.foldl_map]
  rw [maskOf, BitVec.getLsbD_ofNat, sum, Bool.eq_iff_iff, Bool.and_eq_true, ← Nat.mem_bitIndices,
    Nat.bitIndices_sum_map_two_pow sorted]
  simp [hl]

/-- K[k] gets the lanes' bits, and keeps those of every other lane (06 R140). -/
theorem getK_setLanesK (c : Ctx) (k : Nat) {lanes : List Nat} (sorted : lanes.SortedLT) (f : Nat → Bool) {l : Nat}
    (hl : (widthMask c).getLsbD l = true) :
    (getK (setLanesK c k (lanes.map fun l => (l, f l))) k).getLsbD l =
      if l ∈ lanes then f l else (getK c k).getLsbD l := by
  have below : l < 64 := BitVec.lt_of_getLsbD hl
  have all : (lanes.map fun l => (l, f l)).map Prod.fst = lanes := by simp [Function.comp_def]
  have on : ((lanes.map fun l => (l, f l)).filter fun e => e.2).map Prod.fst = lanes.filter f := by
    simp [List.filter_map, Function.comp_def]
  have onSorted : (lanes.filter f).SortedLT := (sorted.pairwise.filter _).sortedLT
  simp only [setLanesK, getK_putK, all, on, BitVec.getLsbD_and, BitVec.getLsbD_or, BitVec.getLsbD_not, below, hl,
    maskOf_getLsbD sorted below, maskOf_getLsbD onSorted below]
  by_cases active : l ∈ lanes <;> simp [active]

/-! ## Flags of several results (02 R45) -/

/-- The flags of several results, together. -/
def flagsOf {α : Type} (outs : List (Nat × (α × BitVec 6))) : BitVec 6 := outs.foldr (fun o f => o.2.2 ||| f) 0

theorem foldl_orFlags {α : Type} (c : Ctx) (outs : List (Nat × (α × BitVec 6))) :
    outs.foldl (fun c o => orFlags c o.2.2) c = orFlags c (flagsOf outs) := by
  induction outs generalizing c with
  | nil => simp [flagsOf, orFlags]
  | cons o outs ih => rw [List.foldl_cons, ih]; simp [flagsOf, orFlags, BitVec.or_assoc]

theorem flagsOf_getLsbD {α : Type} (lanes : List Nat) (f : Nat → α × BitVec 6) (n : Nat) :
    (flagsOf (lanes.map fun l => (l, f l))).getLsbD n = lanes.any fun l => (f l).2.getLsbD n := by
  induction lanes with
  | nil => simp [flagsOf]
  | cons l lanes ih => simpa [flagsOf] using congrArg _ ih

/-! ## Going on -/

/-- Going on past an instruction moves the strand's own place, and keeps its lanes and its place in its tree. -/
theorem retire_eq_setStrand (s : State) (words : Nat) :
    ∃ y, retire s words = setStrand s y ∧ y.mask = (curStrand s).mask ∧ y.parent = (curStrand s).parent ∧
      y.root = (curStrand s).root ∧ y.valid = (curStrand s).valid ∧ y.ser = (curStrand s).ser := by
  simp only [retire]
  split
  · split
    · refine ⟨_, rfl, ?_⟩
      split <;> exact ⟨rfl, rfl, rfl, rfl, rfl⟩
    · exact ⟨_, rfl, rfl, rfl, rfl, rfl, rfl⟩
  · refine ⟨_, rfl, ?_⟩
    split <;> exact ⟨rfl, rfl, rfl, rfl, rfl⟩

/-- A completed instruction that changed its own context alone, and none of its strands. -/
theorem retire_setCur {s : State} {c : Ctx} (words : Nat) (hc : c.strands = (cur s).strands) :
    let u := retire (setCur s c) words
    onlyCur s u ∧ sameStrands s u ∧ cur u = { c with strands := (cur u).strands } := by
  obtain ⟨y, hy, kept⟩ := retire_eq_setStrand (setCur s c) words
  have old (i : Nat) : getStrand c i = getStrand (cur s) i := congrArg (fun m => mapGet ({} : Strand) m i) hc
  have same : curStrand (setCur s c) = curStrand s := by
    rw [curStrand, cur_setCur, setCur_focus, old, curStrand]
  rw [same] at kept
  simp only [hy]
  refine ⟨⟨rfl, fun k hk => ?_, fun _ => rfl⟩, ⟨fun i hi => ?_, ?_⟩, ?_⟩
  · exact (getCtx_setCur_ne (setCur s c) _ hk).trans (getCtx_setCur_ne s c hk)
  · rw [cur_setStrand, setCur_focus, getStrand_putStrand_ne _ _ hi, cur_setCur, old]
  · rw [curStrand_setStrand]; exact kept
  · rw [cur_setStrand, cur_setCur]; rfl

/-! ## Forms with a destination register (R147) -/

theorem ok_bind {α β : Type} (x : α) (f : α → Res β) : (Except.ok x >>= f) = f x := rfl

/-- The body of v.cmps, and of v.pack once its type is taken: two sources, and a function of their lanes (R157, R160). -/
def twoSourceForm (f : Word → Word → Word × BitVec 6) (g : BitVec 3) (d a b : BitVec 6) (e : BitVec 1) (s : State) :
    Res State := do
  let rd ← vxD s d
  let ra ← vxA s a
  let rb ← vxB s b
  shortForm s g e rd [ra, rb] (fun c l => f (laneVal c ra l) (laneVal c rb l))

theorem packType_eq (t : BitVec 3) : (t != 3 && t != 6 && t != 7) = packType t := by
  revert t; decide

theorem exec_vPack (g t : BitVec 3) (d a b : BitVec 6) (e : BitVec 1) (s : State) :
    exec (.vPack g t d a b e) s = run s (need (packType t) 0x01 >>= fun _ => twoSourceForm (packLane t) g d a b e s) := by
  rw [← packType_eq]; rfl

section Forms

variable {s : State} {g t : BitVec 3} {d a b : BitVec 6} {e : BitVec 1} {rd ra rb : Nat}

theorem shortForm_completes {srcs : List Nat} (f : LaneFn) (hold : lanesHold s srcs (activeLanes s g))
    (free : lanesFree s [rd] (activeLanes s g)) :
    run s (shortForm s g e rd srcs f) = doneV s rd (perLane s g fun l => f (cur s) l) := by
  rw [shortForm, rdV_hold hold, freeV_free free]; rfl

theorem lanesHold_nil (lanes : List Nat) : lanesHold s [] lanes := fun _ _ _ h => absurd h List.not_mem_nil

theorem sourceless_completes (f : Nat → Word) (hd : namesV s d (curStrand s).overD rd)
    (free : lanesFree s [rd] (activeLanes s g)) :
    run s (sourceless f g d s) = doneLanes s g rd f := by
  rw [sourceless, vxD_names hd, ok_bind]
  exact shortForm_completes _ (lanesHold_nil _) free

theorem exec_vCvt_completes (m : BitVec 2) (ts : BitVec 3) (hd : namesV s d (curStrand s).overD rd)
    (ha : namesV s a (curStrand s).overA ra) (hold : lanesHold s [ra] (activeLanes s g))
    (free : lanesFree s [rd] (activeLanes s g)) :
    exec (.vCvt g t d a m ts e) s = doneV s rd (perLane s g fun l => cvtLane t ts m.toNat (laneVal (cur s) ra l)) := by
  show run s (unaryForm true _ g d a e s) = _
  rw [unaryForm, need_true, ok_bind, vxD_names hd, ok_bind, vxA_names ha, ok_bind]
  exact shortForm_completes _ hold free

theorem exec_vBcs_completes {x : Word} (hd : namesV s d (curStrand s).overD rd) (hx : holdsS s a x)
    (free : lanesFree s [rd] (activeLanes s g)) :
    exec (.vBcs g t d a) s = doneLanes s g rd fun _ => bcsLane t x := by
  show run s (vxD s d >>= _) = _
  rw [vxD_names hd, ok_bind, rdS_holds hx, ok_bind]
  exact sourceless_completes _ hd free

theorem twoSourceForm_completes (f : Word → Word → Word × BitVec 6) (hd : namesV s d (curStrand s).overD rd)
    (ha : namesV s a (curStrand s).overA ra) (hb : namesV s b (curStrand s).overB rb)
    (hold : lanesHold s [ra, rb] (activeLanes s g)) (free : lanesFree s [rd] (activeLanes s g)) :
    run s (twoSourceForm f g d a b e s) =
      doneV s rd (perLane s g fun l => f (laneVal (cur s) ra l) (laneVal (cur s) rb l)) := by
  rw [twoSourceForm, vxD_names hd, ok_bind, vxA_names ha, ok_bind, vxB_names hb, ok_bind]
  exact shortForm_completes _ hold free

end Forms

/-! ## Comparisons into K[k] (R156, 06 R140) -/

/-- What v.cmp leaves in a context: the lanes' bits in K[k], and the flags of the comparisons. -/
def recordComparisons (c : Ctx) (k : Nat) (lanes : List Nat) (f : Nat → Bool × BitVec 6) : Ctx :=
  orFlags (setLanesK c k (lanes.map fun l => (l, (f l).1))) (flagsOf (lanes.map fun l => (l, f l)))

theorem frameK_retire {s : State} {c : Ctx} {k : Nat} (words : Nat)
    (hc : c = { cur s with ks := c.ks, fflags := c.fflags }) (hk : ∀ n, n ≠ k → getK c n = getK (cur s) n)
    (hf : (cur s).fflags &&& c.fflags = (cur s).fflags) : frameK s (retire (setCur s c) words) k := by
  obtain ⟨only, same, here⟩ := retire_setCur (s := s) (c := c) words (by rw [hc])
  refine ⟨only, same, ?_, fun n hn => ?_, ?_⟩
  · rw [here, hc]
  · rw [here]; exact hk n hn
  · rw [here]; exact hf

theorem run_compareForm {s : State} {g t kd : BitVec 3} {a b : BitVec 6} {e : BitVec 1} {ra rb : Nat} (k : Nat)
    (ha : namesV s a (curStrand s).overA ra) (hb : namesV s b (curStrand s).overB rb)
    (hold : lanesHold s [ra, rb] (activeLanes s g)) :
    run s (compareForm k g t kd a b e s) =
      done (setCur s (recordComparisons (cur s) kd.toNat (activeLanes s g) fun l =>
        compareSub k t (sub (laneVal (cur s) ra l) t 0) (sub (laneVal (cur s) rb l) t 0))) := by
  rw [compareForm, vxA_names ha, ok_bind, vxB_names hb, ok_bind]
  show run s (rdV s e [ra, rb] (activeLanes s g) >>= _) = _
  rw [rdV_hold hold, ok_bind]
  simp only [foldl_orFlags, List.map_map, Function.comp_def, recordComparisons, run, done]

theorem recordComparisons_completes (s : State) (g : BitVec 3) (k : Nat) (f : Nat → Bool × BitVec 6) :
    ∃ u, done (setCur s (recordComparisons (cur s) k (activeLanes s g) f)) = .next u ∧ frameK s u k ∧
      (∀ l, (widthMask (cur s)).getLsbD l = true → (getK (cur u) k).getLsbD l =
        if l ∈ activeLanes s g then (f l).1 else (getK (cur s) k).getLsbD l) ∧
      (∀ n, (cur u).fflags.getLsbD n =
        ((cur s).fflags.getLsbD n || (activeLanes s g).any fun l => (f l).2.getLsbD n)) := by
  have kept : ∀ x y : BitVec 6, x &&& (x ||| y) = x := fun x y => by ext i; simp +contextual
  obtain ⟨-, -, here⟩ := retire_setCur (s := s) (c := recordComparisons (cur s) k (activeLanes s g) f) 1 rfl
  refine ⟨_, rfl, frameK_retire 1 rfl (fun n hn => getK_putK_ne _ _ hn) (kept _ _), fun l hl => ?_, fun n => ?_⟩
  · rw [here]
    exact getK_setLanesK (cur s) k (lanesOf_sorted _) (fun l => (f l).1) hl
  · rw [here]
    show ((cur s).fflags ||| flagsOf _).getLsbD n = _
    rw [BitVec.getLsbD_or, flagsOf_getLsbD]

/-- The comparisons of integers, numbered as v.cmp's are (R156). -/
def intCompare (k : Nat) (x y : Int) : Bool :=
  match k with
  | 0 => decide (x = y)
  | 1 => decide (x ≠ y)
  | 2 => decide (x < y)
  | 4 => decide (y < x)
  | 5 => decide (y ≤ x)
  | _ => decide (x ≤ y)

theorem compareSub_integer {t : BitVec 3} (h : integerType t = true) (k x y : Nat) :
    compareSub k t x y =
      (intCompare k (intOf (subWidth t) (isSignedType t) x) (intOf (subWidth t) (isSignedType t) y), 0) := by
  have notFloat := isFloatType_of_integerType h
  match k with
  | 0 | 1 | 2 | 3 | 4 | 5 | _ + 6 => simp [compareSub, intCompare, notFloat, beq_eq_decide, bne]

theorem compareForm_completes {s : State} {g t kd : BitVec 3} {a b : BitVec 6} {e : BitVec 1} {ra rb : Nat} (k : Nat)
    (ha : namesV s a (curStrand s).overA ra) (hb : namesV s b (curStrand s).overB rb)
    (hold : lanesHold s [ra, rb] (activeLanes s g)) :
    let p := fun l => sub (laneVal (cur s) ra l) t 0
    let q := fun l => sub (laneVal (cur s) rb l) t 0
    let i := fun v => intOf (subWidth t) (isSignedType t) v
    ∃ u, run s (compareForm k g t kd a b e s) = .next u ∧ frameK s u kd.toNat ∧
      (∀ l, (widthMask (cur s)).getLsbD l = true → (getK (cur u) kd.toNat).getLsbD l =
        if l ∈ activeLanes s g then (compareSub k t (p l) (q l)).1 else (getK (cur s) kd.toNat).getLsbD l) ∧
      (∀ n, (cur u).fflags.getLsbD n = ((cur s).fflags.getLsbD n ||
        (activeLanes s g).any fun l => (compareSub k t (p l) (q l)).2.getLsbD n)) ∧
      (integerType t = true → ∀ l, compareSub k t (p l) (q l) = (intCompare k (i (p l)) (i (q l)), 0)) := by
  intro p q i
  obtain ⟨u, next, frame, bits, flags⟩ :=
    recordComparisons_completes s g kd.toNat fun l => compareSub k t (p l) (q l)
  exact ⟨u, (run_compareForm k ha hb hold).trans next, frame, bits, flags, fun ht l => compareSub_integer ht k _ _⟩

/-! ## The obligation -/

/-- Settles O27: v.cmp leaves `recordComparisons` and every other form its short form's lanes; what is left is what the
sub-elements of v.movi, v.iota and v.bcs hold. -/
theorem vectorComparisonsMovesAndConversions : Obligations.VectorComparisonsMovesAndConversions := by
  unfold Obligations.VectorComparisonsMovesAndConversions
  refine ⟨fun s g t k a b e ra rb ha hb hold => ?comparisons, fun s g t ts d a b m i e rd hd free =>
    ⟨fun ra ha hold => ⟨exec_vCvt_completes m ts hd ha hold free, fun rb hb hold => ?sources⟩,
      ⟨_, sourceless_completes _ hd free, fun ht j hj => sub_moviLane ht i hj⟩,
      ⟨_, sourceless_completes _ hd free, fun ht l j hj => sub_iotaLane ht i _ hj⟩,
      fun x hx => ⟨_, exec_vBcs_completes hd hx free, fun j hj => sub_bcsLane t x hj⟩⟩⟩
  case comparisons =>
    have out (c : Nat) := compareForm_completes (t := t) (kd := k) (e := e) c ha hb hold
    exact ⟨out 0, out 1, out 2, out 3, out 4, out 5⟩
  case sources =>
    have writes (f : Word → Word → Word × BitVec 6) := twoSourceForm_completes (e := e) f hd ha hb hold free
    refine ⟨writes (cmpsLane 0 t), writes (cmpsLane 2 t), writes (cmpsLane 3 t), fun ht => ?_, fun ht => ?_⟩
    · rw [exec_vPack, ht, need_true, ok_bind]; exact writes (packLane t)
    · rw [exec_vPack, ht, need_false]; rfl

end Sys2Proof.Proofs
end

section
/-! SUPPORT. The cross-lane moves, reductions and scans of 10 R212 to R216 and the lane masks of R217 to R219: what a form
reads of the lanes of its span, what the identities and sums of a combination are, and the bits that a form leaves in K[k]. -/

namespace Sys2Proof.Proofs

open Sys2Proof Sys2Proof.Machine Sys2Proof.Laws

/-! ## Source lanes (R209) -/

theorem mem_activeLanes {s : State} {g : BitVec 3} {l : Nat} :
    l ∈ activeLanes s g ↔ (activeMask s g).getLsbD l = true := by
  simp only [activeLanes, lanesOf, List.mem_filter, List.mem_range, and_iff_right_iff_imp]
  exact BitVec.lt_of_getLsbD

theorem crossVal_active (s : State) (g : BitVec 3) (r l : Nat) :
    crossVal (cur s) (activeMask s g) r l = if l ∈ activeLanes s g then laneVal (cur s) r l else 0 := by
  simp only [crossVal, mem_activeLanes]

theorem sub_shflLane (s : State) (g t : BitVec 3) (ra : Nat) (x : Word) {j : Nat} (hj : j < subs t) :
    sub (shflLane (cur s) (activeMask s g) (spanOf s) t ra x) t j =
      if sub x t j < spanWidth (cur s) * subs t then
        sub (if spanBase (cur s) (curStrand s) + sub x t j / subs t ∈ activeLanes s g then
          laneVal (cur s) ra (spanBase (cur s) (curStrand s) + sub x t j / subs t) else 0) t (sub x t j % subs t)
      else 0 := by
  rw [shflLane, sub_eachSub t _ hj]
  simp only [spanOf, crossVal_active]
  split
  · exact Nat.mod_mod _ _
  · exact Nat.zero_mod _

theorem elim_ite_some {α β : Type} (c : Prop) [Decidable c] (x : α) (y : β) (f : α → β) :
    (if c then some x else none).elim y f = if c then f x else y := by
  split <;> rfl

/-! ## Shuffles, the broadcast, reductions and scans that complete -/

section CrossForms

variable {s : State} {g t : BitVec 3} {d a b : BitVec 6} {e : BitVec 1} {rd ra rb : Nat}

theorem xShfl_completes (hd : namesV s d (curStrand s).overD rd) (ha : namesV s a (curStrand s).overA ra)
    (hb : namesV s b (curStrand s).overB rb) (hold : lanesHold s [ra, rb] (activeLanes s g))
    (free : lanesFree s [rd] (activeLanes s g)) :
    exec (.xShfl g t d a b e) s =
      doneLanes s g rd fun l => shflLane (cur s) (activeMask s g) (spanOf s) t ra (laneVal (cur s) rb l) := by
  show execXShfl g t d a b e s = _
  rw [execXShfl, vxD_names hd, ok_bind, vxA_names ha, ok_bind, vxB_names hb, ok_bind]
  exact shortForm_completes _ hold free

theorem crossForm_completes {srcs : List Nat} (f : Ctx → List Nat → List (Nat × (Word × BitVec 6)))
    (hold : lanesHold s srcs (activeLanes s g)) (free : lanesFree s [rd] (activeLanes s g)) :
    run s (crossForm s g e rd srcs f) = doneV s rd (f (cur s) (activeLanes s g)) := by
  rw [crossForm, rdV_hold hold, freeV_free free]; rfl

variable (hd : namesV s d (curStrand s).overD rd) (ha : namesV s a (curStrand s).overA ra)
  (hold : lanesHold s [ra] (activeLanes s g)) (free : lanesFree s [rd] (activeLanes s g))

include hd ha hold free

theorem moveForm_completes (m : Move) (dist : BitVec 5) :
    run s (moveForm m g d a dist s) = doneLanes s g rd fun l =>
      (moveSource m dist.toNat (spanWidth (cur s)) (l - spanBase (cur s) (curStrand s))).elim (laneVal (cur s) ra l)
        fun r => crossVal (cur s) (activeMask s g) ra (spanBase (cur s) (curStrand s) + r) := by
  rw [moveForm, vxD_names hd, ok_bind, vxA_names ha, ok_bind]
  refine (shortForm_completes _ hold free).trans (congrArg (doneV s rd) (List.map_congr_left fun l _ => ?_))
  simp only [spanOf]
  cases moveSource m dist.toNat (spanWidth (cur s)) (l - spanBase (cur s) (curStrand s)) with
  | none => rfl
  | some r => rfl

theorem xBcast_completes (n : BitVec 6) :
    exec (.xBcast g t d a n e) s = doneLanes s g rd fun _ =>
      if n.toNat < spanWidth (cur s) then
        crossVal (cur s) (activeMask s g) ra (spanBase (cur s) (curStrand s) + n.toNat) else 0 := by
  show execXBcast g t d a n e s = _
  rw [execXBcast, vxD_names hd, ok_bind, vxA_names ha, ok_bind]
  exact shortForm_completes _ hold free

theorem reduceForm_completes (k : Fold) :
    run s (reduceForm k g t d a e s) = doneV s rd ((activeLanes s g).map fun l =>
      (l, combineLanes k t ((activeLanes s g).map (laneVal (cur s) ra)))) := by
  rw [reduceForm, vxD_names hd, ok_bind, vxA_names ha, ok_bind]
  exact crossForm_completes _ hold free

theorem scanForm_completes (k : Fold) (ex : BitVec 1) :
    run s (scanForm k g t d a ex e s) = doneV s rd ((activeLanes s g).map fun l =>
      (l, combineLanes k t (((activeLanes s g).filter fun m => decide (m < l) || (decide (m = l) && decide (ex = 0))).map
        (laneVal (cur s) ra)))) := by
  rw [scanForm, vxD_names hd, ok_bind, vxA_names ha, ok_bind]
  simp only [← beq_eq_decide]
  exact crossForm_completes _ hold free

end CrossForms

/-! ## Combinations (R215, R216) -/

theorem foldIdentity_lt (k : Fold) (t : BitVec 3) : foldIdentity k t < 2 ^ subWidth t := by
  revert t
  cases k <;> decide

theorem sub_combineLanes_nil (k : Fold) (t : BitVec 3) {j : Nat} (hj : j < subs t) :
    sub (combineLanes k t []).1 t j = foldIdentity k t := by
  rw [combineLanes, sub_eachSub t _ hj]
  exact Nat.mod_eq_of_lt (foldIdentity_lt k t)

theorem sub_combineLanes_add {t : BitVec 3} (h : integerType t = true) (vs : List Word) {j : Nat} (hj : j < subs t) :
    sub (combineLanes .add t vs).1 t j = (vs.map fun v => sub v t j).sum % 2 ^ subWidth t := by
  cases vs with
  | nil => rw [sub_combineLanes_nil .add t hj]; exact (Nat.zero_mod _).symm
  | cons v vs =>
    rw [combineLanes, sub_eachSub t _ hj]
    simp only [List.isEmpty_cons, Bool.false_eq_true, if_false, combineSub, isFloatType_of_integerType h, Nat.mod_mod,
      List.sum_eq_foldl]

/-! ## Bits of masks -/

theorem mask_eq_iff {x y : Mask} : x = y ↔ ∀ l, x.getLsbD l = y.getLsbD l :=
  ⟨fun h _ => h ▸ rfl, fun h => BitVec.eq_of_getLsbD_eq fun l _ => h l⟩

theorem mask_meets_iff (x m : Mask) : (x &&& m != 0) = true ↔ ∃ l, x.getLsbD l = true ∧ m.getLsbD l = true := by
  simp [mask_eq_iff]

theorem mask_covers_iff (x m : Mask) : (x &&& m == m) = true ↔ ∀ l, m.getLsbD l = true → x.getLsbD l = true := by
  simp [mask_eq_iff]

theorem getLsbD_complement (x : Mask) {l : Nat} (hl : l < 64) : (~~~ x).getLsbD l = !x.getLsbD l := by
  simp [hl]

/-- A mask with the bits under another mask replaced. -/
theorem getLsbD_replaced (old new m : Mask) {l : Nat} (hl : l < 64) :
    ((old &&& ~~~ m) ||| (new &&& m)).getLsbD l = if m.getLsbD l then new.getLsbD l else old.getLsbD l := by
  rw [BitVec.getLsbD_or, BitVec.getLsbD_and, BitVec.getLsbD_and, getLsbD_complement m hl]
  cases m.getLsbD l <;> simp

theorem spanMask_getLsbD (sb sw : Nat) {l : Nat} (hl : l < 64) :
    (spanMask (sb, sw)).getLsbD l = decide (sb ≤ l ∧ l < sb + sw) := by
  rw [spanMask, BitVec.getLsbD_ofNat, Nat.mul_comm, Nat.testBit_two_pow_mul, Nat.testBit_two_pow_sub_one]
  by_cases below : sb ≤ l
  · simp [hl, below]; omega
  · simp [below]

/-! ## Lane-mask forms (R217 to R219) -/

theorem writeK_completes (s : State) (k : Nat) (m : Mask) :
    ∃ u, done (setCur s (putK (cur s) k m)) = .next u ∧ frameK s u k ∧ getK (cur u) k = getK (putK (cur s) k m) k := by
  obtain ⟨-, -, here⟩ := retire_setCur (s := s) (c := putK (cur s) k m) 1 rfl
  refine ⟨_, rfl, frameK_retire 1 rfl (fun n hn => getK_putK_ne _ _ hn) BitVec.and_self, ?_⟩
  rw [here]; rfl

theorem replaceK_completes (s : State) (k : Nat) (new m : Mask) :
    ∃ u, done (setCur s (putK (cur s) k ((getK (cur s) k &&& ~~~ m) ||| (new &&& m)))) = .next u ∧ frameK s u k ∧
      ∀ l, (widthMask (cur s)).getLsbD l = true → (getK (cur u) k).getLsbD l =
        if m.getLsbD l then new.getLsbD l else (getK (cur s) k).getLsbD l := by
  obtain ⟨u, next, frame, value⟩ := writeK_completes s k ((getK (cur s) k &&& ~~~ m) ||| (new &&& m))
  refine ⟨u, next, frame, fun l hl => ?_⟩
  rw [value, getK_putK, BitVec.getLsbD_and, hl, Bool.and_true, getLsbD_replaced _ _ _ (BitVec.lt_of_getLsbD hl)]

theorem xBallot_completes {s : State} {g t k : BitVec 3} {a : BitVec 6} {e : BitVec 1} {ra : Nat}
    (ha : namesV s a (curStrand s).overA ra) (hold : lanesHold s [ra] (activeLanes s g)) :
    exec (.xBallot g t k a e) s = done (setCur s (setLanesK (cur s) k.toNat ((activeLanes s g).map fun l =>
      (l, nonzeroSub t (sub (laneVal (cur s) ra l) t 0))))) := by
  show execXBallot g t k a e s = _
  rw [execXBallot, vxA_names ha, ok_bind]
  show run s (rdV s e [ra] (activeLanes s g) >>= _) = _
  rw [rdV_hold hold]; rfl

theorem maskOp_completes {s : State} {g d a b : BitVec 3} (f : Mask → Mask → Mask) (h : Nat → Bool)
    (hg : guardP s g = true)
    (value : ∀ l, l < 64 → (f (getK (cur s) a.toNat) (getK (cur s) b.toNat)).getLsbD l = h l) :
    ∃ u, run s (maskOp f g d a b s) = .next u ∧ frameK s u d.toNat ∧
      ∀ l, (widthMask (cur s)).getLsbD l = true → (getK (cur u) d.toNat).getLsbD l =
        if (curStrand s).mask.getLsbD l then h l else (getK (cur s) d.toNat).getLsbD l := by
  rw [maskOp, guarded_on _ hg]
  obtain ⟨u, next, frame, bits⟩ := replaceK_completes s d.toNat (f (getK (cur s) a.toNat) (getK (cur s) b.toNat))
    (curStrand s).mask
  exact ⟨u, next, frame, fun l hl => value l (BitVec.lt_of_getLsbD hl) ▸ bits l hl⟩

theorem kOpFrom_completes {s : State} {g k : BitVec 3} {n : BitVec 6} {v : Word} (hg : guardP s g = true)
    (hn : holdsS s n v) :
    let sb := spanBase (cur s) (curStrand s)
    ∃ u, exec (.kOpFrom g k n) s = .next u ∧ frameK s u k.toNat ∧
      ∀ l, (widthMask (cur s)).getLsbD l = true → (getK (cur u) k.toNat).getLsbD l =
        if sb ≤ l ∧ l < sb + spanWidth (cur s) then v.getLsbD (l - sb) else (getK (cur s) k.toNat).getLsbD l := by
  intro sb
  obtain ⟨u, next, frame, bits⟩ := replaceK_completes s k.toNat (v <<< sb) (spanMask (sb, spanWidth (cur s)))
  refine ⟨u, ?_, frame, fun l hl => ?_⟩
  · show execKOpFrom g k n s = _
    rw [execKOpFrom, guarded_on _ hg, rdS_holds hn, ← next]; rfl
  · have below := BitVec.lt_of_getLsbD hl
    rw [bits l hl, spanMask_getLsbD _ _ below]
    by_cases inside : sb ≤ l ∧ l < sb + spanWidth (cur s)
    · simp only [inside, decide_true, if_true, BitVec.getLsbD_shiftLeft, below, Nat.not_lt.mpr inside.1, and_self,
        decide_false, Bool.not_false, Bool.true_and]
    · simp only [inside, decide_false, Bool.false_eq_true, if_false]

theorem spanBits_getLsbD (s : State) (k : BitVec 3) (i : Nat) :
    (spanBits s k).getLsbD i = (decide (i < spanWidth (cur s)) &&
      (getK (cur s) k.toNat).getLsbD (spanBase (cur s) (curStrand s) + i)) := by
  rw [spanBits, spanOf, BitVec.getLsbD_ushiftRight, BitVec.getLsbD_and, Bool.and_comm]
  by_cases below : spanBase (cur s) (curStrand s) + i < 64
  · simp [spanMask_getLsbD _ _ below]
  · simp [BitVec.getLsbD_of_ge _ _ (Nat.le_of_not_lt below)]

theorem kOpTo_writes {s : State} {g k : BitVec 3} {n : BitVec 6} (hg : guardP s g = true) (hn : writableS s n) :
    exec (.kOpTo g n k) s = doneS s n (spanBits s k) := by
  show execKOpTo g n k s = _
  rw [execKOpTo, guarded_on _ hg, freeS_writable hn]; rfl

theorem kOpPopc_writes {s : State} {g k : BitVec 3} {n : BitVec 6} (hg : guardP s g = true) (hn : writableS s n) :
    exec (.kOpPopc g n k) s = doneS s n (BitVec.ofNat 64 (countOnes (spanBits s k).toNat 64)) := by
  show execKOpPopc g n k s = _
  rw [execKOpPopc, guarded_on _ hg, freeS_writable hn]; rfl

theorem kTestAny_writes {s : State} {g k : BitVec 3} (p : BitVec 3) (hg : guardP s g = true) :
    exec (.kTestAny g p k) s = doneP s p (getK (cur s) k.toNat &&& (curStrand s).mask != 0) := by
  show execKTestAny g p k s = _
  rw [execKTestAny, guarded_on _ hg]; rfl

theorem kTestAll_writes {s : State} {g k : BitVec 3} (p : BitVec 3) (hg : guardP s g = true) :
    exec (.kTestAll g p k) s = doneP s p (getK (cur s) k.toNat &&& (curStrand s).mask == (curStrand s).mask) := by
  show execKTestAll g p k s = _
  rw [execKTestAll, guarded_on _ hg]; rfl

/-! ## The obligations -/

/-- Settles O30: each form's completion gives the lanes that it writes; what is left is what the lanes read outside the
active ones, the sub-elements that x.shfl gathers, and the identity and the integer sum of a combination. -/
theorem shufflesReductionsAndScans : Obligations.ShufflesReductionsAndScans := by
  unfold Obligations.ShufflesReductionsAndScans
  refine ⟨fun s g t d a b dist e rd ra ⟨hd, ha⟩ hold free => ?moves, fun s g t d a ex e rd ra ⟨hd, ha⟩ hold free =>
    ⟨?reductions, ?scans, fun k vs j hj => ⟨?identity, fun ht => sub_combineLanes_add ht vs hj⟩⟩⟩
  case moves =>
    have moved (m : Move) := moveForm_completes hd ha hold free m dist
    have given := xBcast_completes (t := t) (e := e) hd ha hold free b
    simp only [crossVal_active] at moved given
    refine ⟨fun rb hb hold => ⟨_, xShfl_completes hd ha hb hold free, fun l j hj => sub_shflLane s g t ra _ hj⟩,
      (moved .xor).trans ?_, (moved .up).trans ?_, (moved .down).trans ?_, moved .rot, given⟩ <;>
    simp only [moveSource, elim_ite_some]
  case reductions =>
    have red (k : Fold) := reduceForm_completes (t := t) (e := e) hd ha hold free k
    exact ⟨red .add, red .min, red .max, red .and, red .or, red .xor⟩
  case scans =>
    have scan (k : Fold) := scanForm_completes (t := t) (e := e) hd ha hold free k ex
    exact ⟨scan .add, scan .min, scan .max, scan .and, scan .or, scan .xor⟩
  case identity =>
    rintro rfl
    exact sub_combineLanes_nil k t hj

/-- Settles O31: x.ballot, k.op and k.op.from each replace the bits of K[k] under one mask (the active lanes, the strand's
lanes, the span), and the other forms read the mask through `spanBits`, `mask_meets_iff` and `mask_covers_iff`. -/
theorem laneMaskForms : Obligations.LaneMaskForms := by
  unfold Obligations.LaneMaskForms
  refine ⟨fun s g t k a e ra ha hold => ?ballot, fun s g d a b hg => ?operations, fun s g k n v hg =>
    ⟨kOpFrom_completes hg, fun hn => ⟨_, kOpTo_writes hg hn, kOpPopc_writes hg hn, fun i _ => spanBits_getLsbD s k i⟩⟩⟩
  case ballot =>
    obtain ⟨u, next, frame, value⟩ := writeK_completes s k.toNat _
    refine ⟨u, (xBallot_completes ha hold).trans next, frame, fun l hl => ?_⟩
    rw [value]
    exact getK_setLanesK (cur s) k.toNat (lanesOf_sorted _) _ hl
  case operations =>
    intro x y out
    have writes (f : Mask → Mask → Mask) (c : BitVec 3) (h : Nat → Bool) :=
      maskOp_completes (d := d) (a := a) (b := c) f h hg
    exact ⟨writes (· &&& ·) b _ fun _ _ => BitVec.getLsbD_and, writes (· ||| ·) b _ fun _ _ => BitVec.getLsbD_or,
      writes (· ^^^ ·) b _ fun _ _ => BitVec.getLsbD_xor,
      writes (fun x y => x &&& ~~~ y) b _ fun _ hl => BitVec.getLsbD_and.trans (congrArg _ (getLsbD_complement _ hl)),
      writes (fun x _ => ~~~ x) a _ fun _ hl => getLsbD_complement _ hl,
      writes (fun x _ => x) a _ fun _ _ => rfl, fun p =>
        ⟨_, _, kTestAny_writes p hg, kTestAll_writes p hg, mask_meets_iff _ _, mask_covers_iff _ _⟩⟩

end Sys2Proof.Proofs
end

section
/-! SUPPORT. The decoder of 04 read backwards: a word that decodes is put together from its fields, field by field, so it is the
encoding of what it decodes to; and the round trip of every encoded instruction. -/

namespace Sys2Proof.Proofs

open Sys2Proof Sys2Proof.Machine Sys2Proof.Laws

/-! ## A word as its fields, each in its place -/

/-- The fields of the given widths that a word holds from bit `p` up, each in its place. -/
def tiles (w : Code) : Nat → List Nat → Nat
  | _, [] => 0
  | p, n :: ns => bits w p n * 2 ^ p + tiles w (p + n) ns

/- The equations of `tiles` and `placed` are proved by rewriting and not by `rfl`, so that no product by a large literal is
unfolded when a proof that uses them is checked. -/

@[simp] theorem tiles_nil (w : Code) (p : Nat) : tiles w p [] = 0 := by rw [tiles]

@[simp] theorem tiles_cons (w : Code) (p n : Nat) (ns : List Nat) :
    tiles w p (n :: ns) = bits w p n * 2 ^ p + tiles w (p + n) ns := by rw [tiles]

theorem tiles_eq (w : Code) (p : Nat) (ns : List Nat) :
    tiles w p ns = w.toNat / 2 ^ p % 2 ^ ns.sum * 2 ^ p := by
  induction ns generalizing p with
  | nil => simp [tiles, Nat.mod_one]
  | cons n ns ih =>
    rw [tiles, ih, bits, List.sum_cons, pow_add _ n, Nat.mod_mul, Nat.div_div_eq_div_mul, pow_add]
    ring

theorem toNat_eq_tiles (w : Code) {ns : List Nat} (h : ns.sum = 32) : w.toNat = tiles w 0 ns := by
  rw [tiles_eq, h, pow_zero, Nat.div_one, Nat.mul_one, Nat.mod_eq_of_lt w.isLt]

@[simp] theorem toNat_field (w : Code) (p n : Nat) : (field w p n).toNat = bits w p n := BitVec.toNat_ofNat _ _

/-- The number that fields in their places make, above fixed bits. -/
def placed (base : Nat) (fields : List (Nat × Nat)) : Nat := fields.foldl (fun acc f => acc + f.1 * 2 ^ f.2) base

@[simp] theorem placed_nil (base : Nat) : placed base [] = base := by rw [placed, List.foldl_nil]

@[simp] theorem placed_cons (base x p : Nat) (fields : List (Nat × Nat)) :
    placed base ((x, p) :: fields) = placed (base + x * 2 ^ p) fields := by rw [placed, List.foldl_cons, placed]

/-- A word is put together again from its fields once fields of some widths fill it: what is left is linear in the fields, of
which the decoder's conditions give the fixed ones. -/
theorem word_of_tiles {w : Code} {base : Nat} {fields : List (Nat × Nat)} {ns : List Nat} (h : ns.sum = 32)
    (hw : placed base fields = tiles w 0 ns) : word base fields = w := by
  rw [word, ← placed, hw, ← toNat_eq_tiles w h, BitVec.ofNat_toNat, BitVec.setWidth_eq]

theorem encode_of_tiles {i : Instr} {w : Code} {base : Nat} {fields : List (Nat × Nat)} (ns : List Nat)
    (he : encode i = [word base fields]) (h : ns.sum = 32)
    (hw : placed base fields = tiles w 0 ns) : encode i = [w] := by
  rw [he, word_of_tiles h hw]

section Majors

variable {w : Code} {i : Instr}

theorem decode01_encode (hm : bits w 25 7 = 0x01) (h : decode01 w = .ok i) : encode i = [w] := by
  simp only [decode01, beq_iff_eq] at h
  split_ifs at h; cases h; exact encode_of_tiles [22, 3, 7] rfl rfl (by simp; omega)

theorem decode02_encode (hm : bits w 25 7 = 0x02) (h : decode02 w = .ok i) : encode i = [w] := by
  simp only [decode02, beq_iff_eq] at h
  split_ifs at h <;> cases h <;> exact encode_of_tiles [1, 6, 6, 6, 3, 3, 7] rfl rfl (by simp; omega)

theorem decode03_encode (hm : bits w 25 7 = 0x03) (h : decode03 w = .ok i) : encode i = [w] := by
  simp only [decode03, beq_iff_eq] at h
  split_ifs at h <;> cases h <;> exact encode_of_tiles [1, 6, 6, 6, 3, 3, 7] rfl rfl (by simp; omega)

theorem decode04_encode (hm : bits w 25 7 = 0x04) (h : decode04 w = .ok i) : encode i = [w] := by
  simp only [decode04, beq_iff_eq] at h
  split_ifs at h <;> cases h <;> exact encode_of_tiles [1, 6, 6, 6, 3, 3, 7] rfl rfl (by simp; omega)

theorem decode05_encode (hm : bits w 25 7 = 0x05) (h : decode05 w = .ok i) : encode i = [w] := by
  cases h; exact encode_of_tiles [10, 6, 6, 3, 7] rfl rfl (by simp; omega)

theorem decode06_encode (hm : bits w 25 7 = 0x06) (h : decode06 w = .ok i) : encode i = [w] := by
  cases h; exact encode_of_tiles [10, 6, 6, 3, 7] rfl rfl (by simp; omega)

theorem decode07_encode (hm : bits w 25 7 = 0x07) (h : decode07 w = .ok i) : encode i = [w] := by
  cases h; exact encode_of_tiles [10, 6, 6, 3, 7] rfl rfl (by simp; omega)

theorem decode08_encode (hm : bits w 25 7 = 0x08) (h : decode08 w = .ok i) : encode i = [w] := by
  cases h; exact encode_of_tiles [10, 6, 6, 3, 7] rfl rfl (by simp; omega)

theorem decode09_encode (hm : bits w 25 7 = 0x09) (h : decode09 w = .ok i) : encode i = [w] := by
  cases h; exact encode_of_tiles [16, 6, 3, 7] rfl rfl (by simp; omega)

theorem decode0A_encode (hm : bits w 25 7 = 0x0A) (h : decode0A w = .ok i) : encode i = [w] := by
  simp only [decode0A, beq_iff_eq] at h
  split_ifs at h; cases h; exact encode_of_tiles [16, 6, 1, 2, 7] rfl rfl (by simp; omega)

theorem decode0B_encode (hm : bits w 25 7 = 0x0B) (h : decode0B w = .ok i) : encode i = [w] := by
  simp only [decode0B, beq_iff_eq] at h
  split_ifs at h <;> cases h <;> exact encode_of_tiles [1, 6, 6, 3, 6, 3, 7] rfl rfl (by simp; omega)

theorem decode0C_encode (hm : bits w 25 7 = 0x0C) (h : decode0C w = .ok i) : encode i = [w] := by
  simp only [decode0C, beq_iff_eq] at h
  split_ifs at h <;> cases h <;> exact encode_of_tiles [10, 6, 3, 3, 3, 7] rfl rfl (by simp; omega)

theorem decode0D_encode (hm : bits w 25 7 = 0x0D) (h : decode0D w = .ok i) : encode i = [w] := by
  simp only [decode0D, beq_iff_eq, Bool.and_eq_true] at h
  split_ifs at h <;> cases h
  · exact encode_of_tiles [1, 3, 3, 3, 3, 3, 6, 3, 7] rfl rfl (by simp; omega)
  · exact encode_of_tiles [1, 3, 3, 3, 3, 3, 6, 3, 7] rfl rfl (by simp; omega)
  · exact encode_of_tiles [1, 3, 3, 3, 3, 3, 6, 3, 7] rfl rfl (by simp; omega)
  · exact encode_of_tiles [1, 3, 3, 3, 3, 3, 6, 3, 7] rfl rfl (by simp; omega)
  · exact encode_of_tiles [1, 3, 3, 3, 3, 3, 6, 3, 7] rfl rfl (by simp; omega)
  · exact encode_of_tiles [7, 3, 3, 3, 6, 3, 7] rfl rfl (by simp; omega)
  · exact encode_of_tiles [13, 3, 6, 3, 7] rfl rfl (by simp; omega)
  · exact encode_of_tiles [13, 3, 6, 3, 7] rfl rfl (by simp; omega)

theorem decode0E_encode (hm : bits w 25 7 = 0x0E) (h : decode0E w = .ok i) : encode i = [w] := by
  cases h; exact encode_of_tiles [1, 6, 6, 6, 3, 3, 7] rfl rfl (by simp; omega)

theorem decode0F_encode (hm : bits w 25 7 = 0x0F) (h : decode0F w = .ok i) : encode i = [w] := by
  simp only [decode0F, beq_iff_eq, Bool.and_eq_true] at h
  split_ifs at h <;> cases h
  · exact encode_of_tiles [1, 6, 6, 6, 3, 3, 7] rfl rfl (by simp; omega)
  · exact encode_of_tiles [1, 6, 6, 6, 3, 3, 7] rfl rfl (by simp; omega)
  · exact encode_of_tiles [1, 6, 6, 6, 3, 3, 7] rfl rfl (by simp; omega)
  · exact encode_of_tiles [7, 6, 6, 3, 3, 7] rfl rfl (by simp; omega)
  · exact encode_of_tiles [7, 6, 6, 3, 3, 7] rfl rfl (by simp; omega)
  · exact encode_of_tiles [7, 6, 6, 3, 3, 7] rfl rfl (by simp; omega)
  · exact encode_of_tiles [7, 6, 6, 3, 3, 7] rfl rfl (by simp; omega)
  · exact encode_of_tiles [7, 6, 6, 3, 3, 7] rfl rfl (by simp; omega)

theorem decode10_encode (hm : bits w 25 7 = 0x10) (h : decode10 w = .ok i) : encode i = [w] := by
  cases h; exact encode_of_tiles [22, 3, 7] rfl rfl (by simp; omega)

theorem decode11_encode (hm : bits w 25 7 = 0x11) (h : decode11 w = .ok i) : encode i = [w] := by
  simp only [decode11, beq_iff_eq] at h
  split_ifs at h; cases h; exact encode_of_tiles [10, 6, 6, 3, 7] rfl rfl (by simp; omega)

theorem decode12_encode (hm : bits w 25 7 = 0x12) (h : decode12 w = .ok i) : encode i = [w] := by
  cases h; exact encode_of_tiles [22, 3, 7] rfl rfl (by simp; omega)

theorem decode13_encode (hm : bits w 25 7 = 0x13) (h : decode13 w = .ok i) : encode i = [w] := by
  simp only [decode13, beq_iff_eq] at h
  split_ifs at h; cases h; exact encode_of_tiles [10, 6, 6, 3, 7] rfl rfl (by simp; omega)

theorem decode14_encode (hm : bits w 25 7 = 0x14) (h : decode14 w = .ok i) : encode i = [w] := by
  simp only [decode14, beq_iff_eq, Bool.and_eq_true] at h
  split_ifs at h; cases h; exact encode_of_tiles [1, 6, 6, 9, 3, 7] rfl rfl (by simp; omega)

theorem decode15_encode (hm : bits w 25 7 = 0x15) (h : decode15 w = .ok i) : encode i = [w] := by
  simp only [decode15, beq_iff_eq] at h
  split_ifs at h; cases h; exact encode_of_tiles [22, 3, 7] rfl rfl (by simp; omega)

theorem decode16_encode (hm : bits w 25 7 = 0x16) (h : decode16 w = .ok i) : encode i = [w] := by
  cases h; exact encode_of_tiles [7, 6, 6, 3, 3, 7] rfl rfl (by simp; omega)

theorem decode17_encode (hm : bits w 25 7 = 0x17) (h : decode17 w = .ok i) : encode i = [w] := by
  cases h; exact encode_of_tiles [7, 6, 6, 3, 3, 7] rfl rfl (by simp; omega)

theorem decode18_encode (hm : bits w 25 7 = 0x18) (h : decode18 w = .ok i) : encode i = [w] := by
  simp only [decode18, beq_iff_eq, Bool.and_eq_true] at h
  split_ifs at h <;> cases h <;> exact encode_of_tiles [1, 6, 6, 6, 3, 3, 7] rfl rfl (by simp; omega)

theorem decode19_encode (hm : bits w 25 7 = 0x19) (h : decode19 w = .ok i) : encode i = [w] := by
  simp only [decode19, beq_iff_eq] at h
  split_ifs at h <;> cases h <;> exact encode_of_tiles [8, 2, 6, 6, 3, 7] rfl rfl (by simp; omega)

theorem decode1A_encode (hm : bits w 25 7 = 0x1A) (h : decode1A w = .ok i) : encode i = [w] := by
  simp only [decode1A, beq_iff_eq] at h
  split_ifs at h; cases h; exact encode_of_tiles [16, 6, 3, 7] rfl rfl (by simp; omega)

theorem decode1B_encode (hm : bits w 25 7 = 0x1B) (h : decode1B w = .ok i) : encode i = [w] := by
  simp only [decode1B, beq_iff_eq] at h
  split_ifs at h; cases h; exact encode_of_tiles [25, 7] rfl rfl (by simp; omega)

theorem decode1C_encode (hm : bits w 25 7 = 0x1C) (h : decode1C w = .ok i) : encode i = [w] := by
  simp only [decode1C, beq_iff_eq] at h
  split_ifs at h; cases h; exact encode_of_tiles [10, 6, 6, 3, 7] rfl rfl (by simp; omega)

theorem decode1D_encode (hm : bits w 25 7 = 0x1D) (h : decode1D w = .ok i) : encode i = [w] := by
  simp only [decode1D, beq_iff_eq] at h
  split_ifs at h; cases h; exact encode_of_tiles [10, 6, 6, 3, 7] rfl rfl (by simp; omega)

theorem decode1E_encode (hm : bits w 25 7 = 0x1E) (h : decode1E w = .ok i) : encode i = [w] := by
  simp only [decode1E, beq_iff_eq] at h
  split_ifs at h; cases h; exact encode_of_tiles [25, 7] rfl rfl (by simp; omega)

theorem decode1F_encode (hm : bits w 25 7 = 0x1F) (h : decode1F w = .ok i) : encode i = [w] := by
  simp only [decode1F, beq_iff_eq, Bool.and_eq_true] at h
  split_ifs at h <;> cases h <;> exact encode_of_tiles [7, 6, 6, 3, 3, 7] rfl rfl (by simp; omega)

theorem decode20_encode (hm : bits w 25 7 = 0x20) (h : decode20 w = .ok i) : encode i = [w] := by
  cases h; exact encode_of_tiles [1, 6, 6, 6, 3, 3, 7] rfl rfl (by simp; omega)

theorem decode21_encode (hm : bits w 25 7 = 0x21) (h : decode21 w = .ok i) : encode i = [w] := by
  cases h; exact encode_of_tiles [1, 6, 6, 6, 3, 3, 7] rfl rfl (by simp; omega)

theorem decode22_encode (hm : bits w 25 7 = 0x22) (h : decode22 w = .ok i) : encode i = [w] := by
  cases h; exact encode_of_tiles [1, 6, 6, 6, 3, 3, 7] rfl rfl (by simp; omega)

theorem decode23_encode (hm : bits w 25 7 = 0x23) (h : decode23 w = .ok i) : encode i = [w] := by
  cases h; exact encode_of_tiles [1, 6, 6, 6, 3, 3, 7] rfl rfl (by simp; omega)

theorem decode24_encode (hm : bits w 25 7 = 0x24) (h : decode24 w = .ok i) : encode i = [w] := by
  cases h; exact encode_of_tiles [1, 6, 6, 6, 3, 3, 7] rfl rfl (by simp; omega)

theorem decode25_encode (hm : bits w 25 7 = 0x25) (h : decode25 w = .ok i) : encode i = [w] := by
  cases h; exact encode_of_tiles [1, 6, 6, 6, 3, 3, 7] rfl rfl (by simp; omega)

theorem decode26_encode (hm : bits w 25 7 = 0x26) (h : decode26 w = .ok i) : encode i = [w] := by
  cases h; exact encode_of_tiles [1, 6, 6, 6, 3, 3, 7] rfl rfl (by simp; omega)

theorem decode27_encode (hm : bits w 25 7 = 0x27) (h : decode27 w = .ok i) : encode i = [w] := by
  cases h; exact encode_of_tiles [1, 6, 6, 6, 3, 3, 7] rfl rfl (by simp; omega)

theorem decode28_encode (hm : bits w 25 7 = 0x28) (h : decode28 w = .ok i) : encode i = [w] := by
  cases h; exact encode_of_tiles [1, 6, 6, 6, 3, 3, 7] rfl rfl (by simp; omega)

theorem decode29_encode (hm : bits w 25 7 = 0x29) (h : decode29 w = .ok i) : encode i = [w] := by
  simp only [decode29, beq_iff_eq] at h
  split_ifs at h; cases h; exact encode_of_tiles [1, 6, 6, 6, 3, 3, 7] rfl rfl (by simp; omega)

theorem decode2A_encode (hm : bits w 25 7 = 0x2A) (h : decode2A w = .ok i) : encode i = [w] := by
  cases h; exact encode_of_tiles [1, 6, 6, 6, 3, 3, 7] rfl rfl (by simp; omega)

theorem decode2B_encode (hm : bits w 25 7 = 0x2B) (h : decode2B w = .ok i) : encode i = [w] := by
  cases h; exact encode_of_tiles [1, 6, 6, 6, 3, 3, 7] rfl rfl (by simp; omega)

theorem decode2C_encode (hm : bits w 25 7 = 0x2C) (h : decode2C w = .ok i) : encode i = [w] := by
  cases h; exact encode_of_tiles [1, 6, 6, 6, 3, 3, 7] rfl rfl (by simp; omega)

theorem decode2D_encode (hm : bits w 25 7 = 0x2D) (h : decode2D w = .ok i) : encode i = [w] := by
  cases h; exact encode_of_tiles [1, 6, 6, 6, 3, 3, 7] rfl rfl (by simp; omega)

theorem decode2E_encode (hm : bits w 25 7 = 0x2E) (h : decode2E w = .ok i) : encode i = [w] := by
  cases h; exact encode_of_tiles [1, 6, 6, 6, 3, 3, 7] rfl rfl (by simp; omega)

theorem decode2F_encode (hm : bits w 25 7 = 0x2F) (h : decode2F w = .ok i) : encode i = [w] := by
  simp only [decode2F, beq_iff_eq] at h
  split_ifs at h <;> cases h
  · exact encode_of_tiles [1, 6, 6, 6, 3, 3, 7] rfl rfl (by simp; omega)
  · exact encode_of_tiles [1, 6, 6, 6, 3, 3, 7] rfl rfl (by simp; omega)
  · exact encode_of_tiles [1, 6, 6, 6, 3, 3, 7] rfl rfl (by simp; omega)
  · exact encode_of_tiles [1, 6, 6, 6, 3, 3, 7] rfl rfl (by simp; omega)
  · exact encode_of_tiles [1, 6, 6, 6, 3, 3, 7] rfl rfl (by simp; omega)
  · exact encode_of_tiles [1, 6, 6, 6, 3, 3, 7] rfl rfl (by simp; omega)
  · exact encode_of_tiles [1, 6, 6, 6, 3, 3, 7] rfl rfl (by simp; omega)
  · exact encode_of_tiles [1, 2, 4, 6, 6, 3, 3, 7] rfl rfl (by simp; omega)

theorem decode30_encode (hm : bits w 25 7 = 0x30) (h : decode30 w = .ok i) : encode i = [w] := by
  simp only [decode30, beq_iff_eq] at h
  split_ifs at h <;> cases h <;> exact encode_of_tiles [1, 6, 6, 3, 3, 3, 3, 7] rfl rfl (by simp; omega)

theorem decode31_encode (hm : bits w 25 7 = 0x31) (h : decode31 w = .ok i) : encode i = [w] := by
  cases h; exact encode_of_tiles [1, 6, 6, 6, 3, 3, 7] rfl rfl (by simp; omega)

theorem decode32_encode (hm : bits w 25 7 = 0x32) (h : decode32 w = .ok i) : encode i = [w] := by
  cases h; exact encode_of_tiles [1, 6, 6, 6, 3, 3, 7] rfl rfl (by simp; omega)

theorem decode33_encode (hm : bits w 25 7 = 0x33) (h : decode33 w = .ok i) : encode i = [w] := by
  cases h; exact encode_of_tiles [1, 6, 6, 6, 3, 3, 7] rfl rfl (by simp; omega)

theorem decode34_encode (hm : bits w 25 7 = 0x34) (h : decode34 w = .ok i) : encode i = [w] := by
  cases h; exact encode_of_tiles [1, 6, 6, 6, 3, 3, 7] rfl rfl (by simp; omega)

theorem decode35_encode (hm : bits w 25 7 = 0x35) (h : decode35 w = .ok i) : encode i = [w] := by
  simp only [decode35, beq_iff_eq] at h
  split_ifs at h; cases h; exact encode_of_tiles [1, 3, 2, 1, 6, 6, 3, 3, 7] rfl rfl (by simp; omega)

theorem decode36_encode (hm : bits w 25 7 = 0x36) (h : decode36 w = .ok i) : encode i = [w] := by
  simp only [decode36, beq_iff_eq] at h
  split_ifs at h; cases h; exact encode_of_tiles [1, 6, 6, 6, 3, 3, 7] rfl rfl (by simp; omega)

theorem decode37_encode (hm : bits w 25 7 = 0x37) (h : decode37 w = .ok i) : encode i = [w] := by
  cases h; exact encode_of_tiles [13, 6, 3, 3, 7] rfl rfl (by simp; omega)

theorem decode38_encode (hm : bits w 25 7 = 0x38) (h : decode38 w = .ok i) : encode i = [w] := by
  simp only [decode38, beq_iff_eq] at h
  split_ifs at h; cases h; exact encode_of_tiles [7, 6, 6, 3, 3, 7] rfl rfl (by simp; omega)

theorem decode39_encode (hm : bits w 25 7 = 0x39) (h : decode39 w = .ok i) : encode i = [w] := by
  cases h; exact encode_of_tiles [13, 6, 3, 3, 7] rfl rfl (by simp; omega)

theorem decode3A_encode (hm : bits w 25 7 = 0x3A) (h : decode3A w = .ok i) : encode i = [w] := by
  simp only [decode3A, beq_iff_eq] at h
  split_ifs at h <;> cases h <;> exact encode_of_tiles [1, 6, 6, 6, 3, 3, 7] rfl rfl (by simp; omega)

theorem decode3B_encode (hm : bits w 25 7 = 0x3B) (h : decode3B w = .ok i) : encode i = [w] := by
  simp only [decode3B, beq_iff_eq] at h
  split_ifs at h; cases h; exact encode_of_tiles [1, 2, 4, 6, 6, 3, 3, 7] rfl rfl (by simp; omega)

theorem decode3C_encode (hm : bits w 25 7 = 0x3C) (h : decode3C w = .ok i) : encode i = [w] := by
  simp only [decode3C, beq_iff_eq] at h
  split_ifs at h <;> cases h
  · exact encode_of_tiles [1, 6, 6, 2, 7, 3, 7] rfl rfl (by simp; omega)
  · exact encode_of_tiles [25, 7] rfl rfl (by simp; omega)

theorem decode3D_encode (hm : bits w 25 7 = 0x3D) (h : decode3D w = .ok i) : encode i = [w] := by
  cases h; exact encode_of_tiles [1, 6, 6, 6, 3, 3, 7] rfl rfl (by simp; omega)

theorem decode3E_encode (hm : bits w 25 7 = 0x3E) (h : decode3E w = .ok i) : encode i = [w] := by
  cases h; exact encode_of_tiles [1, 6, 6, 6, 3, 3, 7] rfl rfl (by simp; omega)

theorem decode3F_encode (hm : bits w 25 7 = 0x3F) (h : decode3F w = .ok i) : encode i = [w] := by
  cases h; exact encode_of_tiles [1, 6, 6, 6, 3, 3, 7] rfl rfl (by simp; omega)

theorem decode40_encode (hm : bits w 25 7 = 0x40) (h : decode40 w = .ok i) : encode i = [w] := by
  cases h; exact encode_of_tiles [1, 6, 6, 6, 3, 3, 7] rfl rfl (by simp; omega)

theorem decode41_encode (hm : bits w 25 7 = 0x41) (h : decode41 w = .ok i) : encode i = [w] := by
  simp only [decode41, beq_iff_eq, Bool.and_eq_true] at h
  split_ifs at h <;> cases h <;> exact encode_of_tiles [5, 2, 6, 6, 3, 3, 7] rfl rfl (by simp; omega)

theorem decode42_encode (hm : bits w 25 7 = 0x42) (h : decode42 w = .ok i) : encode i = [w] := by
  cases h; exact encode_of_tiles [1, 6, 6, 6, 3, 3, 7] rfl rfl (by simp; omega)

theorem decode43_encode (hm : bits w 25 7 = 0x43) (h : decode43 w = .ok i) : encode i = [w] := by
  simp only [decode43, beq_iff_eq] at h
  split_ifs at h <;> cases h <;> exact encode_of_tiles [1, 6, 6, 6, 3, 3, 7] rfl rfl (by simp; omega)

theorem decode44_encode (hm : bits w 25 7 = 0x44) (h : decode44 w = .ok i) : encode i = [w] := by
  simp only [decode44, beq_iff_eq, Bool.and_eq_true] at h
  split_ifs at h <;> cases h <;> exact encode_of_tiles [1, 3, 1, 2, 6, 6, 3, 3, 7] rfl rfl (by simp; omega)

theorem decode45_encode (hm : bits w 25 7 = 0x45) (h : decode45 w = .ok i) : encode i = [w] := by
  simp only [decode45, beq_iff_eq, Bool.and_eq_true] at h
  split_ifs at h; cases h; exact encode_of_tiles [1, 6, 6, 3, 3, 3, 3, 7] rfl rfl (by simp; omega)

theorem decode46_encode (hm : bits w 25 7 = 0x46) (h : decode46 w = .ok i) : encode i = [w] := by
  simp only [decode46, beq_iff_eq, Bool.and_eq_true] at h
  split_ifs at h <;> cases h
  · exact encode_of_tiles [1, 3, 3, 3, 3, 3, 6, 3, 7] rfl rfl (by simp; omega)
  · exact encode_of_tiles [1, 3, 3, 3, 3, 3, 6, 3, 7] rfl rfl (by simp; omega)
  · exact encode_of_tiles [1, 3, 3, 3, 3, 3, 6, 3, 7] rfl rfl (by simp; omega)
  · exact encode_of_tiles [1, 3, 3, 3, 3, 3, 6, 3, 7] rfl rfl (by simp; omega)
  · exact encode_of_tiles [7, 3, 3, 3, 6, 3, 7] rfl rfl (by simp; omega)
  · exact encode_of_tiles [7, 3, 3, 3, 6, 3, 7] rfl rfl (by simp; omega)
  · exact encode_of_tiles [7, 6, 3, 6, 3, 7] rfl rfl (by simp; omega)
  · exact encode_of_tiles [7, 3, 3, 6, 3, 3, 7] rfl rfl (by simp; omega)
  · exact encode_of_tiles [7, 3, 3, 6, 3, 3, 7] rfl rfl (by simp; omega)

theorem decode47_encode (hm : bits w 25 7 = 0x47) (h : decode47 w = .ok i) : encode i = [w] := by
  simp only [decode47, beq_iff_eq] at h
  split_ifs at h; cases h; exact encode_of_tiles [1, 6, 6, 6, 1, 2, 3, 7] rfl rfl (by simp; omega)

theorem decode48_encode (hm : bits w 25 7 = 0x48) (h : decode48 w = .ok i) : encode i = [w] := by
  simp only [decode48, beq_iff_eq] at h
  split_ifs at h; cases h; exact encode_of_tiles [1, 6, 6, 6, 3, 3, 7] rfl rfl (by simp; omega)

theorem decode49_encode (hm : bits w 25 7 = 0x49) (h : decode49 w = .ok i) : encode i = [w] := by
  simp only [decode49, beq_iff_eq, Bool.and_eq_true] at h
  split_ifs at h <;> cases h
  · exact encode_of_tiles [13, 6, 3, 3, 7] rfl rfl (by simp; omega)
  · exact encode_of_tiles [1, 6, 6, 9, 3, 7] rfl rfl (by simp; omega)

theorem decode4A_encode (hm : bits w 25 7 = 0x4A) (h : decode4A w = .ok i) : encode i = [w] := by
  simp only [decode4A, beq_iff_eq] at h
  split_ifs at h; cases h; exact encode_of_tiles [1, 2, 2, 2, 6, 6, 3, 3, 7] rfl rfl (by simp; omega)

theorem decode4B_encode (hm : bits w 25 7 = 0x4B) (h : decode4B w = .ok i) : encode i = [w] := by
  simp only [decode4B, beq_iff_eq] at h
  split_ifs at h; cases h; exact encode_of_tiles [1, 2, 2, 2, 6, 6, 3, 3, 7] rfl rfl (by simp; omega)

theorem decode4C_encode (hm : bits w 25 7 = 0x4C) (h : decode4C w = .ok i) : encode i = [w] := by
  simp only [decode4C, beq_iff_eq, Bool.and_eq_true] at h
  split_ifs at h <;> cases h <;> exact encode_of_tiles [7, 3, 3, 3, 6, 3, 7] rfl rfl (by simp; omega)

theorem decode50_encode (hm : bits w 25 7 = 0x50) (h : decode50 w = .ok i) : encode i = [w] := by
  cases h; exact encode_of_tiles [1, 6, 6, 6, 3, 3, 7] rfl rfl (by simp; omega)

theorem decode51_encode (hm : bits w 25 7 = 0x51) (h : decode51 w = .ok i) : encode i = [w] := by
  cases h; exact encode_of_tiles [1, 6, 6, 6, 3, 3, 7] rfl rfl (by simp; omega)

theorem decode52_encode (hm : bits w 25 7 = 0x52) (h : decode52 w = .ok i) : encode i = [w] := by
  simp only [decode52, beq_iff_eq, Bool.and_eq_true] at h
  split_ifs at h; cases h; exact encode_of_tiles [1, 6, 6, 6, 3, 3, 7] rfl rfl (by simp; omega)

theorem decode53_encode (hm : bits w 25 7 = 0x53) (h : decode53 w = .ok i) : encode i = [w] := by
  simp only [decode53, beq_iff_eq] at h
  split_ifs at h <;> cases h <;> exact encode_of_tiles [6, 6, 6, 1, 3, 3, 7] rfl rfl (by simp; omega)

theorem decode54_encode (hm : bits w 25 7 = 0x54) (h : decode54 w = .ok i) : encode i = [w] := by
  simp only [decode54, beq_iff_eq] at h
  split_ifs at h <;> cases h <;> exact encode_of_tiles [6, 6, 6, 1, 3, 3, 7] rfl rfl (by simp; omega)

theorem decode55_encode (hm : bits w 25 7 = 0x55) (h : decode55 w = .ok i) : encode i = [w] := by
  simp only [decode55, beq_iff_eq] at h
  split_ifs at h <;> cases h <;> exact encode_of_tiles [6, 6, 6, 1, 3, 3, 7] rfl rfl (by simp; omega)

theorem decode56_encode (hm : bits w 25 7 = 0x56) (h : decode56 w = .ok i) : encode i = [w] := by
  simp only [decode56, beq_iff_eq] at h
  split_ifs at h; cases h; exact encode_of_tiles [6, 6, 6, 1, 3, 3, 7] rfl rfl (by simp; omega)

theorem decode57_encode (hm : bits w 25 7 = 0x57) (h : decode57 w = .ok i) : encode i = [w] := by
  simp only [decode57, beq_iff_eq] at h
  split_ifs at h; cases h; exact encode_of_tiles [6, 6, 6, 1, 3, 3, 7] rfl rfl (by simp; omega)

theorem decode58_encode (hm : bits w 25 7 = 0x58) (h : decode58 w = .ok i) : encode i = [w] := by
  cases h; exact encode_of_tiles [10, 6, 6, 3, 7] rfl rfl (by simp; omega)

theorem decode59_encode (hm : bits w 25 7 = 0x59) (h : decode59 w = .ok i) : encode i = [w] := by
  cases h; exact encode_of_tiles [10, 6, 6, 3, 7] rfl rfl (by simp; omega)

theorem decode5A_encode (hm : bits w 25 7 = 0x5A) (h : decode5A w = .ok i) : encode i = [w] := by
  simp only [decode5A, beq_iff_eq, Bool.and_eq_true] at h
  split_ifs at h <;> cases h
  · exact encode_of_tiles [4, 3, 15, 3, 7] rfl rfl (by simp; omega)
  · exact encode_of_tiles [4, 3, 15, 3, 7] rfl rfl (by simp; omega)
  · exact encode_of_tiles [4, 3, 15, 3, 7] rfl rfl (by simp; omega)
  · exact encode_of_tiles [4, 3, 15, 3, 7] rfl rfl (by simp; omega)
  · exact encode_of_tiles [22, 3, 7] rfl rfl (by simp; omega)

theorem decode5B_encode (hm : bits w 25 7 = 0x5B) (h : decode5B w = .ok i) : encode i = [w] := by
  simp only [decode5B, beq_iff_eq, Bool.and_eq_true] at h
  split_ifs at h <;> cases h
  · exact encode_of_tiles [1, 6, 6, 6, 3, 3, 7] rfl rfl (by simp; omega)
  · exact encode_of_tiles [7, 6, 6, 3, 3, 7] rfl rfl (by simp; omega)

theorem decode5C_encode (hm : bits w 25 7 = 0x5C) (h : decode5C w = .ok i) : encode i = [w] := by
  simp only [decode5C, beq_iff_eq] at h
  split_ifs at h; cases h; exact encode_of_tiles [1, 6, 6, 6, 1, 2, 3, 7] rfl rfl (by simp; omega)

theorem decode5D_encode (hm : bits w 25 7 = 0x5D) (h : decode5D w = .ok i) : encode i = [w] := by
  simp only [decode5D, beq_iff_eq] at h
  split_ifs at h; cases h; exact encode_of_tiles [1, 6, 6, 6, 1, 2, 3, 7] rfl rfl (by simp; omega)

theorem decode5E_encode (hm : bits w 25 7 = 0x5E) (h : decode5E w = .ok i) : encode i = [w] := by
  simp only [decode5E, beq_iff_eq] at h
  split_ifs at h <;> cases h
  · exact encode_of_tiles [1, 6, 6, 6, 3, 3, 7] rfl rfl (by simp; omega)
  · exact encode_of_tiles [1, 6, 6, 6, 3, 3, 7] rfl rfl (by simp; omega)
  · exact encode_of_tiles [1, 6, 6, 6, 3, 3, 7] rfl rfl (by simp; omega)
  · exact encode_of_tiles [1, 6, 6, 6, 3, 3, 7] rfl rfl (by simp; omega)
  · exact encode_of_tiles [1, 2, 4, 6, 6, 3, 3, 7] rfl rfl (by simp; omega)

theorem decode61_encode (hm : bits w 25 7 = 0x61) (h : decode61 w = .ok i) : encode i = [w] := by
  simp only [decode61, beq_iff_eq] at h
  split_ifs at h; cases h; exact encode_of_tiles [1, 6, 6, 6, 3, 3, 7] rfl rfl (by simp; omega)

theorem decode62_encode (hm : bits w 25 7 = 0x62) (h : decode62 w = .ok i) : encode i = [w] := by
  simp only [decode62, beq_iff_eq] at h
  split_ifs at h; cases h; exact encode_of_tiles [25, 7] rfl rfl (by simp; omega)

theorem decode63_encode (hm : bits w 25 7 = 0x63) (h : decode63 w = .ok i) : encode i = [w] := by
  simp only [decode63, beq_iff_eq] at h
  split_ifs at h; cases h; exact encode_of_tiles [25, 7] rfl rfl (by simp; omega)

theorem decode64_encode (hm : bits w 25 7 = 0x64) (h : decode64 w = .ok i) : encode i = [w] := by
  simp only [decode64, beq_iff_eq, Bool.and_eq_true] at h
  split_ifs at h; cases h; exact encode_of_tiles [16, 3, 6, 7] rfl rfl (by simp; omega)

theorem decode65_encode (hm : bits w 25 7 = 0x65) (h : decode65 w = .ok i) : encode i = [w] := by
  simp only [decode65, beq_iff_eq] at h
  split_ifs at h; cases h; exact encode_of_tiles [25, 7] rfl rfl (by simp; omega)

theorem decode66_encode (hm : bits w 25 7 = 0x66) (h : decode66 w = .ok i) : encode i = [w] := by
  simp only [decode66, beq_iff_eq] at h
  split_ifs at h; cases h; exact encode_of_tiles [10, 6, 6, 3, 7] rfl rfl (by simp; omega)

theorem decode6A_encode (hm : bits w 25 7 = 0x6A) (h : decode6A w = .ok i) : encode i = [w] := by
  simp only [decode6A, beq_iff_eq, Bool.and_eq_true] at h
  split_ifs at h; cases h; exact encode_of_tiles [13, 6, 3, 3, 7] rfl rfl (by simp; omega)

theorem decode6B_encode (hm : bits w 25 7 = 0x6B) (h : decode6B w = .ok i) : encode i = [w] := by
  simp only [decode6B, beq_iff_eq, Bool.and_eq_true] at h
  split_ifs at h; cases h; exact encode_of_tiles [7, 6, 6, 3, 3, 7] rfl rfl (by simp; omega)

theorem decode6C_encode (hm : bits w 25 7 = 0x6C) (h : decode6C w = .ok i) : encode i = [w] := by
  simp only [decode6C, beq_iff_eq, Bool.and_eq_true] at h
  split_ifs at h; cases h; exact encode_of_tiles [16, 3, 3, 3, 7] rfl rfl (by simp; omega)

theorem decode6D_encode (hm : bits w 25 7 = 0x6D) (h : decode6D w = .ok i) : encode i = [w] := by
  simp only [decode6D, beq_iff_eq] at h
  split_ifs at h; cases h; exact encode_of_tiles [10, 6, 3, 3, 3, 7] rfl rfl (by simp; omega)

theorem decode6E_encode (hm : bits w 25 7 = 0x6E) (h : decode6E w = .ok i) : encode i = [w] := by
  simp only [decode6E, beq_iff_eq] at h
  split_ifs at h <;> cases h <;> exact encode_of_tiles [22, 3, 7] rfl rfl (by simp; omega)

theorem decode70_encode (hm : bits w 25 7 = 0x70) (h : decode70 w = .ok i) : encode i = [w] := by
  simp only [decode70, beq_iff_eq] at h
  split_ifs at h; cases h; exact encode_of_tiles [1, 6, 6, 6, 3, 3, 7] rfl rfl (by simp; omega)

theorem decode71_encode (hm : bits w 25 7 = 0x71) (h : decode71 w = .ok i) : encode i = [w] := by
  simp only [decode71, beq_iff_eq, Bool.and_eq_true] at h
  split_ifs at h; cases h; exact encode_of_tiles [1, 6, 6, 6, 3, 3, 7] rfl rfl (by simp; omega)

theorem decode72_encode (hm : bits w 25 7 = 0x72) (h : decode72 w = .ok i) : encode i = [w] := by
  simp only [decode72, beq_iff_eq] at h
  split_ifs at h; cases h; exact encode_of_tiles [6, 6, 6, 4, 3, 7] rfl rfl (by simp; omega)

theorem decode73_encode (hm : bits w 25 7 = 0x73) (h : decode73 w = .ok i) : encode i = [w] := by
  cases h; exact encode_of_tiles [1, 6, 2, 3, 4, 3, 3, 3, 7] rfl rfl (by simp; omega)

theorem decode74_encode (hm : bits w 25 7 = 0x74) (h : decode74 w = .ok i) : encode i = [w] := by
  cases h; exact encode_of_tiles [6, 6, 4, 3, 3, 3, 7] rfl rfl (by simp; omega)

theorem decode75_encode (hm : bits w 25 7 = 0x75) (h : decode75 w = .ok i) : encode i = [w] := by
  simp only [decode75, beq_iff_eq] at h
  split_ifs at h; cases h; exact encode_of_tiles [3, 1, 1, 6, 6, 3, 3, 2, 7] rfl rfl (by simp; omega)

theorem decode76_encode (hm : bits w 25 7 = 0x76) (h : decode76 w = .ok i) : encode i = [w] := by
  simp only [decode76, beq_iff_eq, Bool.and_eq_true] at h
  split_ifs at h <;> cases h
  · exact encode_of_tiles [16, 3, 3, 3, 7] rfl rfl (by simp; omega)
  · exact encode_of_tiles [4, 4, 8, 3, 3, 3, 7] rfl rfl (by simp; omega)
  · exact encode_of_tiles [8, 6, 2, 3, 3, 3, 7] rfl rfl (by simp; omega)

theorem decode77_encode (hm : bits w 25 7 = 0x77) (h : decode77 w = .ok i) : encode i = [w] := by
  simp only [decode77, beq_iff_eq, Bool.and_eq_true] at h
  split_ifs at h <;> cases h
  · exact encode_of_tiles [6, 6, 6, 3, 2, 2, 7] rfl rfl (by simp; omega)
  · exact encode_of_tiles [25, 7] rfl rfl (by simp; omega)
  · exact encode_of_tiles [25, 7] rfl rfl (by simp; omega)

theorem decode78_encode (hm : bits w 25 7 = 0x78) (h : decode78 w = .ok i) : encode i = [w] := by
  simp only [decode78, beq_iff_eq, Bool.and_eq_true] at h
  split_ifs at h; cases h; exact encode_of_tiles [13, 6, 1, 1, 1, 3, 7] rfl rfl (by simp; omega)

theorem decode79_encode (hm : bits w 25 7 = 0x79) (h : decode79 w = .ok i) : encode i = [w] := by
  simp only [decode79, beq_iff_eq, Bool.and_eq_true] at h
  split_ifs at h <;> cases h
  · exact encode_of_tiles [1, 6, 6, 6, 3, 3, 7] rfl rfl (by simp; omega)
  · exact encode_of_tiles [1, 6, 6, 6, 3, 3, 7] rfl rfl (by simp; omega)
  · exact encode_of_tiles [25, 7] rfl rfl (by simp; omega)

end Majors

section Rows

variable {w : Code} {i : Instr}

theorem decodeRow0_encode (h : decodeRow0 w = .ok i) : encode i = [w] := by
  unfold decodeRow0 at h
  split at h
  · cases h
  · exact decode01_encode ‹_› h
  · exact decode02_encode ‹_› h
  · exact decode03_encode ‹_› h
  · exact decode04_encode ‹_› h
  · exact decode05_encode ‹_› h
  · exact decode06_encode ‹_› h
  · exact decode07_encode ‹_› h
  · exact decode08_encode ‹_› h
  · exact decode09_encode ‹_› h
  · exact decode0A_encode ‹_› h
  · exact decode0B_encode ‹_› h
  · exact decode0C_encode ‹_› h
  · exact decode0D_encode ‹_› h
  · exact decode0E_encode ‹_› h
  · exact decode0F_encode ‹_› h
  · cases h

theorem decodeRow1_encode (h : decodeRow1 w = .ok i) : encode i = [w] := by
  unfold decodeRow1 at h
  split at h
  · exact decode10_encode ‹_› h
  · exact decode11_encode ‹_› h
  · exact decode12_encode ‹_› h
  · exact decode13_encode ‹_› h
  · exact decode14_encode ‹_› h
  · exact decode15_encode ‹_› h
  · exact decode16_encode ‹_› h
  · exact decode17_encode ‹_› h
  · exact decode18_encode ‹_› h
  · exact decode19_encode ‹_› h
  · exact decode1A_encode ‹_› h
  · exact decode1B_encode ‹_› h
  · exact decode1C_encode ‹_› h
  · exact decode1D_encode ‹_› h
  · exact decode1E_encode ‹_› h
  · exact decode1F_encode ‹_› h
  · cases h

theorem decodeRow2_encode (h : decodeRow2 w = .ok i) : encode i = [w] := by
  unfold decodeRow2 at h
  split at h
  · exact decode20_encode ‹_› h
  · exact decode21_encode ‹_› h
  · exact decode22_encode ‹_› h
  · exact decode23_encode ‹_› h
  · exact decode24_encode ‹_› h
  · exact decode25_encode ‹_› h
  · exact decode26_encode ‹_› h
  · exact decode27_encode ‹_› h
  · exact decode28_encode ‹_› h
  · exact decode29_encode ‹_› h
  · exact decode2A_encode ‹_› h
  · exact decode2B_encode ‹_› h
  · exact decode2C_encode ‹_› h
  · exact decode2D_encode ‹_› h
  · exact decode2E_encode ‹_› h
  · exact decode2F_encode ‹_› h
  · cases h

theorem decodeRow3_encode (h : decodeRow3 w = .ok i) : encode i = [w] := by
  unfold decodeRow3 at h
  split at h
  · exact decode30_encode ‹_› h
  · exact decode31_encode ‹_› h
  · exact decode32_encode ‹_› h
  · exact decode33_encode ‹_› h
  · exact decode34_encode ‹_› h
  · exact decode35_encode ‹_› h
  · exact decode36_encode ‹_› h
  · exact decode37_encode ‹_› h
  · exact decode38_encode ‹_› h
  · exact decode39_encode ‹_› h
  · exact decode3A_encode ‹_› h
  · exact decode3B_encode ‹_› h
  · exact decode3C_encode ‹_› h
  · exact decode3D_encode ‹_› h
  · exact decode3E_encode ‹_› h
  · exact decode3F_encode ‹_› h
  · cases h

theorem decodeRow4_encode (h : decodeRow4 w = .ok i) : encode i = [w] := by
  unfold decodeRow4 at h
  split at h
  · exact decode40_encode ‹_› h
  · exact decode41_encode ‹_› h
  · exact decode42_encode ‹_› h
  · exact decode43_encode ‹_› h
  · exact decode44_encode ‹_› h
  · exact decode45_encode ‹_› h
  · exact decode46_encode ‹_› h
  · exact decode47_encode ‹_› h
  · exact decode48_encode ‹_› h
  · exact decode49_encode ‹_› h
  · exact decode4A_encode ‹_› h
  · exact decode4B_encode ‹_› h
  · exact decode4C_encode ‹_› h
  · cases h

theorem decodeRow5_encode (h : decodeRow5 w = .ok i) : encode i = [w] := by
  unfold decodeRow5 at h
  split at h
  · exact decode50_encode ‹_› h
  · exact decode51_encode ‹_› h
  · exact decode52_encode ‹_› h
  · exact decode53_encode ‹_› h
  · exact decode54_encode ‹_› h
  · exact decode55_encode ‹_› h
  · exact decode56_encode ‹_› h
  · exact decode57_encode ‹_› h
  · exact decode58_encode ‹_› h
  · exact decode59_encode ‹_› h
  · exact decode5A_encode ‹_› h
  · exact decode5B_encode ‹_› h
  · exact decode5C_encode ‹_› h
  · exact decode5D_encode ‹_› h
  · exact decode5E_encode ‹_› h
  · cases h

theorem decodeRow7_encode (h : decodeRow7 w = .ok i) : encode i = [w] := by
  unfold decodeRow7 at h
  split at h
  · exact decode70_encode ‹_› h
  · exact decode71_encode ‹_› h
  · exact decode72_encode ‹_› h
  · exact decode73_encode ‹_› h
  · exact decode74_encode ‹_› h
  · exact decode75_encode ‹_› h
  · exact decode76_encode ‹_› h
  · exact decode77_encode ‹_› h
  · exact decode78_encode ‹_› h
  · exact decode79_encode ‹_› h
  · cases h
  · cases h
  · cases h
  · cases h
  · cases h

theorem decodeRow6_encode (h : decodeRow6 w none = .ok i) : encode i = [w] := by
  unfold decodeRow6 at h
  split at h
  · cases h
  · exact decode61_encode ‹_› h
  · exact decode62_encode ‹_› h
  · exact decode63_encode ‹_› h
  · exact decode64_encode ‹_› h
  · exact decode65_encode ‹_› h
  · exact decode66_encode ‹_› h
  · cases h
  · cases h
  · exact decode6A_encode ‹_› h
  · exact decode6B_encode ‹_› h
  · exact decode6C_encode ‹_› h
  · exact decode6D_encode ‹_› h
  · exact decode6E_encode ‹_› h
  · cases h

theorem decodeWord_one_encode (h : decodeWord w none = .ok i) : encode i = [w] := by
  unfold decodeWord at h
  split at h
  · exact decodeRow0_encode h
  · exact decodeRow1_encode h
  · exact decodeRow2_encode h
  · exact decodeRow3_encode h
  · exact decodeRow4_encode h
  · exact decodeRow5_encode h
  · exact decodeRow6_encode h
  · exact decodeRow7_encode h

end Rows

/-! ## Every instruction -/

/-- Every instruction's words decode to it, and every other step of the table has none: the laws of the family Encoding, put
together. -/
theorem encoding_statement (i : Instr) : Encoding.Statement i := by
  cases i with
  | nop => exact Encoding.nop ..
  | sAluAdd => exact Encoding.sAluAdd ..
  | sAluSub => exact Encoding.sAluSub ..
  | sAluAnd => exact Encoding.sAluAnd ..
  | sAluOr => exact Encoding.sAluOr ..
  | sAluXor => exact Encoding.sAluXor ..
  | sAluShl => exact Encoding.sAluShl ..
  | sAluShr => exact Encoding.sAluShr ..
  | sAluSar => exact Encoding.sAluSar ..
  | sAlu2Mul => exact Encoding.sAlu2Mul ..
  | sAlu2Mulhs => exact Encoding.sAlu2Mulhs ..
  | sAlu2Mulhn => exact Encoding.sAlu2Mulhn ..
  | sAlu2Min => exact Encoding.sAlu2Min ..
  | sAlu2Max => exact Encoding.sAlu2Max ..
  | sAlu2Minn => exact Encoding.sAlu2Minn ..
  | sAlu2Maxn => exact Encoding.sAlu2Maxn ..
  | sAlu2Rotr => exact Encoding.sAlu2Rotr ..
  | sDivDivs => exact Encoding.sDivDivs ..
  | sDivDivn => exact Encoding.sDivDivn ..
  | sDivRems => exact Encoding.sDivRems ..
  | sDivRemn => exact Encoding.sDivRemn ..
  | sAddi => exact Encoding.sAddi ..
  | sAndi => exact Encoding.sAndi ..
  | sOri => exact Encoding.sOri ..
  | sXori => exact Encoding.sXori ..
  | sMovi => exact Encoding.sMovi ..
  | sMovk => exact Encoding.sMovk ..
  | sCmpEq => exact Encoding.sCmpEq ..
  | sCmpNe => exact Encoding.sCmpNe ..
  | sCmpLts => exact Encoding.sCmpLts ..
  | sCmpLes => exact Encoding.sCmpLes ..
  | sCmpLtn => exact Encoding.sCmpLtn ..
  | sCmpLen => exact Encoding.sCmpLen ..
  | sCmpTst => exact Encoding.sCmpTst ..
  | sCmpNtst => exact Encoding.sCmpNtst ..
  | sCmpiEq => exact Encoding.sCmpiEq ..
  | sCmpiNe => exact Encoding.sCmpiNe ..
  | sCmpiLts => exact Encoding.sCmpiLts ..
  | sCmpiLes => exact Encoding.sCmpiLes ..
  | sCmpiLtn => exact Encoding.sCmpiLtn ..
  | sCmpiLen => exact Encoding.sCmpiLen ..
  | sCmpiTst => exact Encoding.sCmpiTst ..
  | sCmpiNtst => exact Encoding.sCmpiNtst ..
  | pOpAnd => exact Encoding.pOpAnd ..
  | pOpOr => exact Encoding.pOpOr ..
  | pOpXor => exact Encoding.pOpXor ..
  | pOpAndn => exact Encoding.pOpAndn ..
  | pOpOrn => exact Encoding.pOpOrn ..
  | pOpMov => exact Encoding.pOpMov ..
  | pOpSet => exact Encoding.pOpSet ..
  | pOpClr => exact Encoding.pOpClr ..
  | sSel => exact Encoding.sSel ..
  | sBitExtz => exact Encoding.sBitExtz ..
  | sBitExts => exact Encoding.sBitExts ..
  | sBitIns => exact Encoding.sBitIns ..
  | sBitClz => exact Encoding.sBitClz ..
  | sBitCtz => exact Encoding.sBitCtz ..
  | sBitPopc => exact Encoding.sBitPopc ..
  | sBitRev => exact Encoding.sBitRev ..
  | sBitBswap => exact Encoding.sBitBswap ..
  | b => exact Encoding.b ..
  | bInd => exact Encoding.bInd ..
  | call => exact Encoding.call ..
  | callInd => exact Encoding.callInd ..
  | callLane => exact Encoding.callLane ..
  | ret => exact Encoding.ret ..
  | sLd => exact Encoding.sLd ..
  | sSt => exact Encoding.sSt ..
  | sAmoAdd => exact Encoding.sAmoAdd ..
  | sAmoAnd => exact Encoding.sAmoAnd ..
  | sAmoOr => exact Encoding.sAmoOr ..
  | sAmoXor => exact Encoding.sAmoXor ..
  | sAmoMax => exact Encoding.sAmoMax ..
  | sAmoMin => exact Encoding.sAmoMin ..
  | sAmoXchg => exact Encoding.sAmoXchg ..
  | sAmoCas => exact Encoding.sAmoCas ..
  | sLeaGstore => exact Encoding.sLeaGstore ..
  | sLeaSpill => exact Encoding.sLeaSpill ..
  | sLeaClause => exact Encoding.sLeaClause ..
  | trap => exact Encoding.trap ..
  | crRd => exact Encoding.crRd ..
  | crWr => exact Encoding.crWr ..
  | launch => exact Encoding.launch ..
  | lwait => exact Encoding.lwait ..
  | launchCtx => exact Encoding.launchCtx ..
  | vAdd => exact Encoding.vAdd ..
  | vSub => exact Encoding.vSub ..
  | vMul => exact Encoding.vMul ..
  | vFma => exact Encoding.vFma ..
  | vFnma => exact Encoding.vFnma ..
  | vMin => exact Encoding.vMin ..
  | vMax => exact Encoding.vMax ..
  | vDiv => exact Encoding.vDiv ..
  | vRem => exact Encoding.vRem ..
  | vSqrt => exact Encoding.vSqrt ..
  | vAnd => exact Encoding.vAnd ..
  | vOr => exact Encoding.vOr ..
  | vXor => exact Encoding.vXor ..
  | vShl => exact Encoding.vShl ..
  | vShr => exact Encoding.vShr ..
  | vUnAbs => exact Encoding.vUnAbs ..
  | vUnNeg => exact Encoding.vUnNeg ..
  | vUnNot => exact Encoding.vUnNot ..
  | vUnPopc => exact Encoding.vUnPopc ..
  | vUnClz => exact Encoding.vUnClz ..
  | vUnCtz => exact Encoding.vUnCtz ..
  | vUnBrev => exact Encoding.vUnBrev ..
  | vUnRint => exact Encoding.vUnRint ..
  | vCmpEq => exact Encoding.vCmpEq ..
  | vCmpNe => exact Encoding.vCmpNe ..
  | vCmpLt => exact Encoding.vCmpLt ..
  | vCmpLe => exact Encoding.vCmpLe ..
  | vCmpGt => exact Encoding.vCmpGt ..
  | vCmpGe => exact Encoding.vCmpGe ..
  | vCmpsEq => exact Encoding.vCmpsEq ..
  | vCmpsLt => exact Encoding.vCmpsLt ..
  | vCmpsLe => exact Encoding.vCmpsLe ..
  | vBsel => exact Encoding.vBsel ..
  | vCvt => exact Encoding.vCvt ..
  | vMov => exact Encoding.vMov ..
  | vMovi => exact Encoding.vMovi ..
  | vBcs => exact Encoding.vBcs ..
  | vSfuExp2 => exact Encoding.vSfuExp2 ..
  | vSfuExpe => exact Encoding.vSfuExpe ..
  | vSfuLog2 => exact Encoding.vSfuLog2 ..
  | vSfuLoge => exact Encoding.vSfuLoge ..
  | vSfuRcp => exact Encoding.vSfuRcp ..
  | vSfuRsqrt => exact Encoding.vSfuRsqrt ..
  | vSfuSinpi => exact Encoding.vSfuSinpi ..
  | vSfuCospi => exact Encoding.vSfuCospi ..
  | vAct => exact Encoding.vAct ..
  | actLd => exact Encoding.actLd ..
  | vMulhi => exact Encoding.vMulhi ..
  | vPack => exact Encoding.vPack ..
  | vDot => exact Encoding.vDot ..
  | xShfl => exact Encoding.xShfl ..
  | xShfliXor => exact Encoding.xShfliXor ..
  | xShfliUp => exact Encoding.xShfliUp ..
  | xShfliDown => exact Encoding.xShfliDown ..
  | xShfliRot => exact Encoding.xShfliRot ..
  | xBcast => exact Encoding.xBcast ..
  | xRedAdd => exact Encoding.xRedAdd ..
  | xRedMin => exact Encoding.xRedMin ..
  | xRedMax => exact Encoding.xRedMax ..
  | xRedAnd => exact Encoding.xRedAnd ..
  | xRedOr => exact Encoding.xRedOr ..
  | xRedXor => exact Encoding.xRedXor ..
  | xScanAdd => exact Encoding.xScanAdd ..
  | xScanMin => exact Encoding.xScanMin ..
  | xScanMax => exact Encoding.xScanMax ..
  | xScanAnd => exact Encoding.xScanAnd ..
  | xScanOr => exact Encoding.xScanOr ..
  | xScanXor => exact Encoding.xScanXor ..
  | xBallot => exact Encoding.xBallot ..
  | kOpAnd => exact Encoding.kOpAnd ..
  | kOpOr => exact Encoding.kOpOr ..
  | kOpXor => exact Encoding.kOpXor ..
  | kOpAndn => exact Encoding.kOpAndn ..
  | kOpNot => exact Encoding.kOpNot ..
  | kOpMov => exact Encoding.kOpMov ..
  | kOpFrom => exact Encoding.kOpFrom ..
  | kOpTo => exact Encoding.kOpTo ..
  | kOpPopc => exact Encoding.kOpPopc ..
  | bsRd => exact Encoding.bsRd ..
  | bsFill => exact Encoding.bsFill ..
  | bsCurGet => exact Encoding.bsCurGet ..
  | bsCurSet => exact Encoding.bsCurSet ..
  | xSepk => exact Encoding.xSepk ..
  | xSeunpk => exact Encoding.xSeunpk ..
  | kTestAny => exact Encoding.kTestAny ..
  | kTestAll => exact Encoding.kTestAll ..
  | mLd => exact Encoding.mLd ..
  | mSt => exact Encoding.mSt ..
  | mLds => exact Encoding.mLds ..
  | mAtomWAdd => exact Encoding.mAtomWAdd ..
  | mAtomWMin => exact Encoding.mAtomWMin ..
  | mAtomWMax => exact Encoding.mAtomWMax ..
  | mAtomWMinn => exact Encoding.mAtomWMinn ..
  | mAtomWMaxn => exact Encoding.mAtomWMaxn ..
  | mAtomWAnd => exact Encoding.mAtomWAnd ..
  | mAtomWOr => exact Encoding.mAtomWOr ..
  | mAtomWXor => exact Encoding.mAtomWXor ..
  | mAtomDAdd => exact Encoding.mAtomDAdd ..
  | mAtomDMin => exact Encoding.mAtomDMin ..
  | mAtomDMax => exact Encoding.mAtomDMax ..
  | mAtomDMinn => exact Encoding.mAtomDMinn ..
  | mAtomDMaxn => exact Encoding.mAtomDMaxn ..
  | mAtomDAnd => exact Encoding.mAtomDAnd ..
  | mAtomDOr => exact Encoding.mAtomDOr ..
  | mAtomDXor => exact Encoding.mAtomDXor ..
  | mAtomPAdd => exact Encoding.mAtomPAdd ..
  | mAtomPMin => exact Encoding.mAtomPMin ..
  | mAtomPMax => exact Encoding.mAtomPMax ..
  | mAtomPMinn => exact Encoding.mAtomPMinn ..
  | mAtomPMaxn => exact Encoding.mAtomPMaxn ..
  | mAtomPAnd => exact Encoding.mAtomPAnd ..
  | mAtomPOr => exact Encoding.mAtomPOr ..
  | mAtomPXor => exact Encoding.mAtomPXor ..
  | mXchg => exact Encoding.mXchg ..
  | mCas => exact Encoding.mCas ..
  | mArrive => exact Encoding.mArrive ..
  | mWait => exact Encoding.mWait ..
  | fenceAcq => exact Encoding.fenceAcq ..
  | fenceRel => exact Encoding.fenceRel ..
  | fenceAcqrel => exact Encoding.fenceAcqrel ..
  | fenceSc => exact Encoding.fenceSc ..
  | fenceTlr => exact Encoding.fenceTlr ..
  | mPush => exact Encoding.mPush ..
  | mPop => exact Encoding.mPop ..
  | mLdv => exact Encoding.mLdv ..
  | mStv => exact Encoding.mStv ..
  | mRcnAdd => exact Encoding.mRcnAdd ..
  | mRcnMax => exact Encoding.mRcnMax ..
  | mRcnMin => exact Encoding.mRcnMin ..
  | mRcnOr => exact Encoding.mRcnOr ..
  | mRcnPick => exact Encoding.mRcnPick ..
  | fork => exact Encoding.fork ..
  | join => exact Encoding.join ..
  | smask => exact Encoding.smask ..
  | setx => exact Encoding.setx ..
  | cCopy => exact Encoding.cCopy ..
  | cMcast => exact Encoding.cMcast ..
  | cClose => exact Encoding.cClose ..
  | cWait => exact Encoding.cWait ..
  | rPost => exact Encoding.rPost ..
  | rWait => exact Encoding.rWait ..
  | tBandOpen => exact Encoding.tBandOpen ..
  | tBandClose => exact Encoding.tBandClose ..
  | shpSet => exact Encoding.shpSet ..
  | shpGet => exact Encoding.shpGet ..
  | mxMap => exact Encoding.mxMap ..
  | mxMma => exact Encoding.mxMma ..
  | mxMv => exact Encoding.mxMv ..
  | mxDrain => exact Encoding.mxDrain ..
  | mxAccZero => exact Encoding.mxAccZero ..
  | mxAccLoad => exact Encoding.mxAccLoad ..
  | mxAccGet => exact Encoding.mxAccGet ..
  | mxLeaseBind => exact Encoding.mxLeaseBind ..
  | rep => exact Encoding.rep ..
  | lgLd => exact Encoding.lgLd ..
  | lgSt => exact Encoding.lgSt ..
  | vIota => exact Encoding.vIota ..
  | sysret => exact Encoding.sysret
  | idle => exact Encoding.idle
  | actFlip => exact Encoding.actFlip
  | ends => exact Encoding.ends
  | armwait => exact Encoding.armwait
  | exit => exact Encoding.exit
  | mxLeaseAcq => exact Encoding.mxLeaseAcq
  | mxLeaseRel => exact Encoding.mxLeaseRel
  | lgBar => exact Encoding.lgBar
  | _ => rfl

/-! ## Two words (R96) -/

theorem encode_of_two_tiles {i : Instr} {w x : Code} {base ext : Nat} {fields payload : List (Nat × Nat)} (ns ms : List Nat)
    (he : encode i = [word base fields, word ext payload]) (hn : ns.sum = 32) (hm : ms.sum = 32)
    (hw : placed base fields = tiles w 0 ns) (hx : placed ext payload = tiles x 0 ms) : encode i = [w, x] := by
  rw [he, word_of_tiles hn hw, word_of_tiles hm hx]

section Extensions

variable {w x : Code} {i : Instr}

theorem decodeFork_encode (hm : bits w 25 7 = 0x60) (h : decodeFork w (some x) = .ok i) : encode i = [w, x] := by
  simp only [decodeFork, isExtension, beq_iff_eq] at h
  split_ifs at h; cases h
  exact encode_of_two_tiles [11, 11, 3, 7] [6, 3, 6, 1, 3, 6, 1, 6] rfl rfl rfl (by simp; omega) (by simp; omega)

theorem decodeCopy_encode (hm : bits w 25 7 = 0x68) (h : decodeCopy w (some x) = .ok i) : encode i = [w, x] := by
  simp only [decodeCopy, isExtension, beq_iff_eq, Bool.and_eq_true] at h
  split_ifs at h; cases h
  exact encode_of_two_tiles [1, 6, 6, 6, 3, 3, 7] [2, 1, 1, 1, 21, 6] rfl rfl rfl (by simp; omega) (by simp; omega)

theorem decodeMcast_encode (hm : bits w 25 7 = 0x69) (h : decodeMcast w (some x) = .ok i) : encode i = [w, x] := by
  simp only [decodeMcast, isExtension, beq_iff_eq, Bool.and_eq_true] at h
  split_ifs at h; cases h
  exact encode_of_two_tiles [1, 6, 6, 6, 3, 3, 7] [2, 1, 1, 6, 16, 6] rfl rfl rfl (by simp; omega) (by simp; omega)

theorem decodeWord_two_encode (hx : takesExtension w = true) (h : decodeWord w (some x) = .ok i) : encode i = [w, x] := by
  simp only [takesExtension, Bool.or_eq_true, beq_iff_eq] at hx
  rcases hx with (hm | hm) | hm <;> simp only [decodeWord, decodeRow6, hm] at h
  · exact decodeFork_encode hm h
  · exact decodeCopy_encode hm h
  · exact decodeMcast_encode hm h

end Extensions

/-! ## Bytes (04: little-endian) -/

theorem takeWord_wordBytes (w : Code) (rest : List Byte) : takeWord (wordBytes w ++ rest) = some (w, rest) := by
  have hw := w.isLt
  simp only [wordBytes, List.cons_append, List.nil_append, takeWord, Option.some.injEq, Prod.mk.injEq, and_true]
  apply BitVec.eq_of_toNat_eq
  simp only [BitVec.toNat_ofNat, toNat_field, bits]
  omega

theorem eq_wordBytes_of_takeWord {bs rest : List Byte} {w : Code} (h : takeWord bs = some (w, rest)) :
    bs = wordBytes w ++ rest := by
  match bs with
  | [] | [_] | [_, _] | [_, _, _] => cases h
  | b0 :: b1 :: b2 :: b3 :: bs =>
    simp only [takeWord, Option.some.injEq, Prod.mk.injEq] at h
    obtain ⟨rfl, rfl⟩ := h
    have h0 := b0.isLt
    have h1 := b1.isLt
    have h2 := b2.isLt
    have h3 := b3.isLt
    simp only [wordBytes, List.cons_append, List.nil_append, List.cons.injEq, and_true]
    refine ⟨?_, ?_, ?_, ?_⟩ <;> apply BitVec.eq_of_toNat_eq <;> simp only [toNat_field, bits, BitVec.toNat_ofNat] <;> omega

/-! ## The obligations -/

/-- Settles O1: the decoder takes the word, or the word and its extension, that the encoder gives, and reads it back by the
law of the instruction. -/
theorem encodedInstructionsDecodeToThemselves : Obligations.EncodedInstructionsDecodeToThemselves := by
  unfold Obligations.EncodedInstructionsDecodeToThemselves
  intro i rest hi
  have law := encoding_statement i
  unfold Encoding.Statement at law
  unfold encodeBytes
  split at law
  next he => exact absurd hi (by rw [law]; exact Bool.false_ne_true)
  next w he =>
    obtain ⟨hx, hd⟩ := law
    simp [he, decode, takeWord_wordBytes, hx, hd]
  next w x he =>
    obtain ⟨hx, hd⟩ := law
    simp [he, decode, takeWord_wordBytes, hx, hd]
  next => exact law.elim

/-- Settles O3: each word is run through the decoder. -/
theorem specWordsDecode : Obligations.SpecWordsDecode := by
  unfold Obligations.SpecWordsDecode
  exact ⟨rfl, rfl, rfl, rfl, rfl, rfl, rfl, rfl, rfl⟩

/-- Settles O2: each decoder of a major reads its word field by field, so that the encoder puts the same word together
again. -/
theorem decodedBytesAreTheEncoding : Obligations.DecodedBytesAreTheEncoding := by
  unfold Obligations.DecodedBytesAreTheEncoding
  intro i bs rest h
  unfold decode at h
  split at h
  next => cases h
  next w rest₁ hw =>
    obtain rfl := eq_wordBytes_of_takeWord hw
    split at h
    case isTrue hx =>
      split at h
      next => cases h
      next x rest₂ hy =>
        obtain rfl := eq_wordBytes_of_takeWord hy
        split at h
        next j hd =>
          cases h
          have he := decodeWord_two_encode hx hd
          simp [isWordInstr, encodeBytes, he]
        next => cases h
    case isFalse =>
      split at h
      next j hd =>
        cases h
        have he := decodeWord_one_encode hd
        simp [isWordInstr, encodeBytes, he]
      next => cases h

end Sys2Proof.Proofs
end

section
/-! SUPPORT. Comparisons and predicate operations (05 R114, R115), the frames of the scalar and predicate forms, and why not
every scalar form is without effect under a 0 guard: m.wait takes its strand out of the refusal queue (13 R269). -/

namespace Sys2Proof.Proofs

open Sys2Proof Sys2Proof.Machine Sys2Proof.Laws

/-! ## Comparisons (05 R114) -/

/-- What each condition asks of two words. -/
def condProp (k : Cond) (x y : Word) : Prop :=
  match k with
  | .eq => x = y
  | .ne => x ≠ y
  | .lts => x.toInt < y.toInt
  | .les => x.toInt ≤ y.toInt
  | .ltn => x.toNat < y.toNat
  | .len => x.toNat ≤ y.toNat
  | .tst => x &&& y ≠ 0
  | .ntst => x &&& y = 0

theorem condHolds_iff (k : Cond) (x y : Word) : condHolds k x y = true ↔ condProp k x y := by
  cases k with
  | eq | ntst => exact beq_iff_eq
  | ne | tst => exact bne_iff_ne
  | lts => exact BitVec.slt_iff_toInt_lt
  | les => exact BitVec.sle_iff_toInt_le
  | ltn => exact BitVec.ult_iff_toNat_lt
  | len => exact BitVec.ule_iff_toNat_le

theorem condHolds_eq_decide (k : Cond) (x y : Word) {p : Prop} [Decidable p] (h : condProp k x y ↔ p) :
    condHolds k x y = decide p := by
  rw [Bool.eq_iff_iff, condHolds_iff, h, decide_eq_true_iff]

section Forms

variable {s : State} {g p : BitVec 3} {a b : BitVec 6} {x y : Word} (hg : guardP s g = true)

include hg

theorem compareSr_writes {i : BitVec 1} (k : Cond) {q : Prop} [Decidable q] (ha : holdsS s a x) (hb : operandB s b i y)
    (h : condProp k x y ↔ q) : run s (compareSr k g p a b i s) = doneP s p (decide q) := by
  rw [compareSr, guarded_on _ hg, rdS_holds ha, srcB_operand hb, ← condHolds_eq_decide k x y h]; rfl

theorem compareSi_writes {i : BitVec 10} (k : Cond) {q : Prop} [Decidable q] (ha : holdsS s a x)
    (h : condProp k x (i.signExtend 64) ↔ q) : run s (compareSi k g p a i s) = doneP s p (decide q) := by
  rw [compareSi, guarded_on _ hg, rdS_holds ha, ← condHolds_eq_decide k x (i.signExtend 64) h]; rfl

theorem predicateOp_writes {d a b : BitVec 3} (f : Bool → Bool → Bool) :
    run s (predicateOp f g d a b s) = doneP s d (f (getP (cur s) a.toNat) (getP (cur s) b.toNat)) := by
  rw [predicateOp, guarded_on _ hg]; rfl

end Forms

theorem toInt_signExtend_word (i : BitVec 10) : (i.signExtend 64).toInt = i.toInt :=
  BitVec.toInt_signExtend_of_le (by decide)

/-! ## Frames (05 R107 to R117, 02 R34, R35) -/

theorem getS_putS_ne (c : Ctx) (d : Nat) (r : Reg) {n : Nat} (h : n ≠ d ∨ n = 0) : getS (putS c d r) n = getS c n := by
  rcases eq_or_ne d 0 with rfl | hd
  · rfl
  rcases eq_or_ne n 0 with rfl | hn
  · rfl
  · simp [getS, putS, hd, hn, mapGet_put_ne _ _ _ (h.resolve_right hn)]

theorem getLsbD_predBit {p n : Nat} (h : n ≠ p) : (BitVec.ofNat 8 (2 ^ p)).getLsbD n = false := by
  rw [BitVec.getLsbD_ofNat, Nat.testBit_two_pow_of_ne h.symm, Bool.and_false]

theorem getP_putP_ne (c : Ctx) (p : Nat) (b : Bool) {n : Nat} (hn : n < 8) (h : n ≠ p ∨ n = 0) :
    getP (putP c p b) n = getP c n := by
  rcases eq_or_ne p 0 with rfl | hp
  · rfl
  rcases eq_or_ne n 0 with rfl | hz
  · rfl
  · have off := getLsbD_predBit (h.resolve_right hz)
    cases b <;> simp only [getP, putP, hp, if_false, if_true, Bool.false_eq_true, BitVec.getLsbD_and, BitVec.getLsbD_or,
      BitVec.getLsbD_not, hn, off, decide_true, Bool.not_false, Bool.and_true, Bool.or_false]

theorem putS_eq (c : Ctx) (n : Nat) (r : Reg) : putS c n r = { c with sregs := (putS c n r).sregs } := by
  rw [putS]; split <;> rfl

theorem putP_eq (c : Ctx) (n : Nat) (b : Bool) : putP c n b = { c with preds := (putP c n b).preds } := by
  rw [putP]; split <;> rfl

/-- A strand that goes on, with nothing else done. -/
theorem retire_frames (s : State) (words : Nat) :
    let u := retire s words
    onlyCur s u ∧ sameStrands s u ∧ cur u = { cur s with strands := (cur u).strands } := by
  obtain ⟨y, hy, kept⟩ := retire_eq_setStrand s words
  simp only [hy]
  refine ⟨⟨rfl, fun k hk => getCtx_setCur_ne s _ hk, fun _ => rfl⟩, ⟨fun i hi => ?_, ?_⟩, ?_⟩
  · rw [cur_setStrand, getStrand_putStrand_ne _ _ hi]
  · rw [curStrand_setStrand]; exact kept
  · rw [cur_setStrand]; rfl

theorem frameS_done {s t : State} {d : BitVec 6} (h : done s = .next t) : frameS s t d := by
  cases h
  obtain ⟨only, same, here⟩ := retire_frames s 1
  exact ⟨only, same, by rw [here], fun n _ => by rw [here]; rfl⟩

theorem frameP_done {s t : State} {p : BitVec 3} (h : done s = .next t) : frameP s t p := by
  cases h
  obtain ⟨only, same, here⟩ := retire_frames s 1
  exact ⟨only, same, by rw [here], fun n _ _ => by rw [here]; rfl⟩

theorem frameS_doneS {s t : State} {d : BitVec 6} {v : Word} (h : doneS s d v = .next t) : frameS s t d := by
  cases h
  have regs := putS_eq (cur s) d.toNat { val := v }
  obtain ⟨only, same, here⟩ := retire_setCur (s := s) (c := putS (cur s) d.toNat { val := v }) 1 (by rw [regs])
  refine ⟨only, same, ?_, fun n hn => ?_⟩ <;> rw [wrS, here]
  · rw [regs]
  · exact getS_putS_ne _ _ _ hn

theorem frameP_doneP {s t : State} {p : BitVec 3} {b : Bool} (h : doneP s p b = .next t) : frameP s t p := by
  cases h
  have bits := putP_eq (cur s) p.toNat b
  obtain ⟨only, same, here⟩ := retire_setCur (s := s) (c := putP (cur s) p.toNat b) 1 (by rw [bits])
  refine ⟨only, same, ?_, fun n hn h => ?_⟩ <;> rw [wrP, here]
  · rw [bits]
  · exact getP_putP_ne _ _ _ hn h

/-- A form under a guard has a frame once its body has it: with the guard 0 only the strand's own place changes. -/
theorem guarded_frameS {s t : State} {g : BitVec 3} {d : BitVec 6} {body : State → Res State}
    (h : guardP s g = true → run s (guarded g body s) = .next t → frameS s t d)
    (next : run s (guarded g body s) = .next t) : frameS s t d := by
  cases hg : guardP s g with
  | true => exact h hg next
  | false =>
    rw [guarded_off body hg] at next
    exact frameS_done next

theorem guarded_frameP {s t : State} {g : BitVec 3} {p : BitVec 3} {body : State → Res State}
    (h : guardP s g = true → run s (guarded g body s) = .next t → frameP s t p)
    (next : run s (guarded g body s) = .next t) : frameP s t p := by
  cases hg : guardP s g with
  | true => exact h hg next
  | false =>
    rw [guarded_off body hg] at next
    exact frameP_done next

section Frames

variable {s t : State} {g p : BitVec 3} {d a b : BitVec 6} {x y z : Word}

theorem scalarSr_frame {i : BitVec 1} (f : Word → Word → Word) (ha : holdsS s a x) (hb : operandB s b i y)
    (hd : writableS s d) : run s (scalarSr f g d a b i s) = .next t → frameS s t d :=
  guarded_frameS fun hg next => frameS_doneS ((scalarSr_writes f hg ha hb hd).symm.trans next)

theorem scalarSi_frame {i : BitVec 10} (f : Word → Word → Word) (ha : holdsS s a x) (hd : writableS s d) :
    run s (scalarSi f g d a i s) = .next t → frameS s t d :=
  guarded_frameS fun hg next => frameS_doneS ((scalarSi_writes f hg ha hd).symm.trans next)

theorem scalarUnary_frame (f : Word → Word) (ha : holdsS s a x) (hd : writableS s d) :
    run s (scalarUnary f g d a s) = .next t → frameS s t d :=
  guarded_frameS fun hg next => frameS_doneS ((scalarUnary_writes f hg ha hd).symm.trans next)

theorem exec_sBitIns_frame (ha : holdsS s a x) (hb : holdsS s b y) (hd : holdsS s d z) :
    exec (.sBitIns g d a b) s = .next t → frameS s t d :=
  guarded_frameS fun hg next => frameS_doneS ((exec_sBitIns_writes hg ha hb hd).symm.trans next)

theorem exec_sMovi_frame {w : BitVec 16} (hd : writableS s d) : exec (.sMovi g d w) s = .next t → frameS s t d :=
  guarded_frameS fun hg next => frameS_doneS ((exec_sMovi_writes w hg hd).symm.trans next)

theorem compareSr_frame {i : BitVec 1} (k : Cond) (ha : holdsS s a x) (hb : operandB s b i y) :
    run s (compareSr k g p a b i s) = .next t → frameP s t p := by
  classical
  exact guarded_frameP fun hg next => frameP_doneP ((compareSr_writes hg k ha hb Iff.rfl).symm.trans next)

theorem compareSi_frame {i : BitVec 10} (k : Cond) (ha : holdsS s a x) :
    run s (compareSi k g p a i s) = .next t → frameP s t p := by
  classical
  exact guarded_frameP fun hg next => frameP_doneP ((compareSi_writes hg k ha Iff.rfl).symm.trans next)

theorem predicateOp_frame {q r : BitVec 3} (f : Bool → Bool → Bool) :
    run s (predicateOp f g p q r s) = .next t → frameP s t p :=
  guarded_frameP fun hg next => frameP_doneP ((predicateOp_writes hg f).symm.trans next)

theorem kTestAny_frame {k : BitVec 3} : exec (.kTestAny g p k) s = .next t → frameP s t p :=
  guarded_frameP fun hg next => frameP_doneP ((kTestAny_writes p hg).symm.trans next)

theorem kTestAll_frame {k : BitVec 3} : exec (.kTestAll g p k) s = .next t → frameP s t p :=
  guarded_frameP fun hg next => frameP_doneP ((kTestAll_writes p hg).symm.trans next)

end Frames

/-! ## The obligations -/

/-- Settles O10: each comparison is one body under a condition, each predicate operation one body under its function. -/
theorem predicatesAreSet : Obligations.PredicatesAreSet := by
  unfold Obligations.PredicatesAreSet
  refine ⟨⟨fun s g p a b i x y hg ha hb => ?registers, fun s g p a i x hg ha => ?immediates⟩, fun s g d a b hg => ?operations⟩
  case registers =>
    have writes (k : Cond) {q : Prop} [Decidable q] := compareSr_writes (p := p) (q := q) hg k ha hb
    exact ⟨writes .eq Iff.rfl, writes .ne Iff.rfl, writes .lts Iff.rfl, writes .les Iff.rfl, writes .ltn Iff.rfl,
      writes .len Iff.rfl, writes .tst Iff.rfl, writes .ntst Iff.rfl⟩
  case immediates =>
    have writes (k : Cond) {q : Prop} [Decidable q] := compareSi_writes (p := p) (i := i) (q := q) hg k ha
    have signed := toInt_signExtend_word i
    exact ⟨writes .eq Iff.rfl, writes .ne Iff.rfl, writes .lts (by rw [condProp, signed]),
      writes .les (by rw [condProp, signed]), writes .ltn Iff.rfl, writes .len Iff.rfl, writes .tst Iff.rfl,
      writes .ntst Iff.rfl⟩
  case operations =>
    have writes (a b : BitVec 3) (f : Bool → Bool → Bool) := predicateOp_writes (d := d) (a := a) (b := b) hg f
    exact ⟨writes a b (· && ·), writes a b (· || ·), writes a b (· != ·), writes a b fun x y => x && !y, writes a b fun x y => x || !y,
      writes a 0 fun x _ => x, writes 0 0 fun _ _ => true, writes 0 0 fun _ _ => false⟩

/-- Settles O12: a form under a guard writes its destination or only goes on, and each of the two has the frame. -/
theorem scalarAndPredicateFrames : Obligations.ScalarAndPredicateFrames := by
  unfold Obligations.ScalarAndPredicateFrames
  simp only [List.forall_mem_cons]
  have nil {P : Instr → Prop} : ∀ j ∈ [], P j := List.forall_mem_nil P
  refine ⟨fun s t g p h d a b i imm w x y z => ⟨fun ha hd => ⟨fun hb => ?sources, ?immediates, fun hb => ?fields⟩,
    fun hd => ⟨exec_sMovi_frame hd, nil⟩, fun hd => ⟨fun next => frameS_doneS ((exec_sMovk_writes h w hd).symm.trans next), nil⟩⟩,
    fun s t g p q r a b i imm x y => ⟨fun ha => ⟨fun hb => ?comparisons, ?comparisonsI⟩, ?operations⟩⟩
  case sources =>
    have sr (f : Word → Word → Word) := scalarSr_frame (t := t) (g := g) f ha hb hd
    exact ⟨sr _, sr _, sr _, sr _, sr _, sr _, sr _, sr _, sr _, sr _, sr _, sr _, sr _, sr _, sr _, sr _, sr _, sr _, sr _,
      sr _, sr _, nil⟩
  case immediates =>
    have si (f : Word → Word → Word) := scalarSi_frame (t := t) (g := g) (i := imm) f ha hd
    have unary (f : Word → Word) := scalarUnary_frame (t := t) (g := g) f ha hd
    exact ⟨si _, si _, si _, si _, unary _, unary _, unary _, unary _, unary _, nil⟩
  case fields =>
    have sr (f : Word → Word → Word) := scalarSr_frame (t := t) (g := g) f ha (operandB_register hb) hd
    exact ⟨⟨sr _, sr _, nil⟩, fun hz => ⟨exec_sBitIns_frame ha hb hz, nil⟩⟩
  case comparisons =>
    have sr (k : Cond) := compareSr_frame (t := t) (g := g) (p := p) k ha hb
    exact ⟨sr _, sr _, sr _, sr _, sr _, sr _, sr _, sr _, nil⟩
  case comparisonsI =>
    have si (k : Cond) := compareSi_frame (t := t) (g := g) (p := p) (i := imm) k ha
    exact ⟨si _, si _, si _, si _, si _, si _, si _, si _, nil⟩
  case operations =>
    have op (q r : BitVec 3) (f : Bool → Bool → Bool) := predicateOp_frame (s := s) (t := t) (g := g) (p := p) (q := q) (r := r) f
    exact ⟨op q r _, op q r _, op q r _, op q r _, op q r _, op q 0 _, op 0 0 _, op 0 0 _, kTestAny_frame, kTestAll_frame, nil⟩

/-- A warp that alone stands in its quad's refusal queue, its strand at an m.wait that was refused a park-table entry. -/
def refusedState : State :=
  { ctxs := [(0, { strands := [(0, { valid := true, inWait := true })] })]
    cores := [(0, { quads := [(0, { refusals := [0] })] })] }

/-- Refutes O11: with its guard 0, m.wait takes its strand's warp out of the refusal queue (13 R269, R271), where `done` leaves
the queue as it is. -/
theorem not_scalarFormsThatDoNothing : ¬ Obligations.ScalarFormsThatDoNothing := by
  unfold Obligations.ScalarFormsThatDoNothing
  intro h
  obtain ⟨nothing, -⟩ := h
  obtain ⟨all, -⟩ := nothing refusedState 1 0 0 0 0 0 0 0 0 0 0 0 0 rfl
  have wait := all (.mWait 1 0 0 0) (by simp)
  have queues := congrArg (fun r => match r with
    | .next t => (getQuad (getCore t 0) 0).refusals
    | _ => []) wait
  exact absurd queues (by decide)

end Sys2Proof.Proofs
end

section
/-! SUPPORT. Branches, calls and returns (05 R118 to R120, 02 R51 to R54), and rep (04 R100): the checks of an indirect target,
what a push and a pop do to the return-address stack, and the group of lanes that a lane call runs first. -/

namespace Sys2Proof.Proofs

open Sys2Proof Sys2Proof.Machine Sys2Proof.Laws

/-! ## Targets (04 R98, R99) -/

theorem checkTarget_legal {s : State} {t : Word} (h : legalTarget s t) : checkTarget s t = .ok () := by
  obtain ⟨aligned, free, w, fetched, header⟩ := h
  simp [checkTarget, aligned, free, fetched, header]

theorem checkTarget_unaligned {s : State} {t : Word} (h : t.toNat % 4 ≠ 0) : checkTarget s t = .error (.trap 0x02 t 0) := by
  simp [checkTarget, h]

theorem checkTarget_noHeader {s : State} {t : Word} {w : Code} (aligned : t.toNat % 4 = 0)
    (free : codeHeld s s.focus.key t = false) (fetched : fetchCode s s.focus.key t = .ok w) (h : isHeader w = false) :
    checkTarget s t = .error (.trap 0x02 t 0) := by
  simp [checkTarget, aligned, free, fetched, h]

theorem checkTargets_legal {s : State} {ts : List Word} (h : ∀ t ∈ ts, legalTarget s t) : checkTargets s ts = .ok () := by
  induction ts with
  | nil => rfl
  | cons t ts ih =>
    rw [checkTargets, checkTarget_legal (h t List.mem_cons_self)]
    exact ih fun u hu => h u (List.mem_cons_of_mem t hu)

/-! ## The return-address stack (02 R51 to R53) -/

/-- The context with an entry pushed above those on chip. -/
def pushedRas (s : State) (addr : Word) (lane : Bool) : Ctx :=
  { cur s with ras := (cur s).ras ++ [rasWord addr s.focus.slot lane] }

theorem pushRas_room {s : State} (addr : Word) (lane : Bool) (h : (cur s).ras.length < 16) :
    pushRas s addr lane = .ok (setCur s (pushedRas s addr lane)) := by
  simp only [pushRas, h, if_true, pushedRas]

theorem rasWord_toNat (addr : Word) (slot : Nat) :
    (rasWord addr slot false).toNat = addr.toNat / 4 % 2 ^ 55 * 4 + slot % 8 * 2 ^ 57 := by
  have address : bf addr 56 2 = addr.toNat / 4 % 2 ^ 55 := by simp [bf]
  have small : addr.toNat / 4 % 2 ^ 55 * 4 + slot % 8 * 2 ^ 57 < 2 ^ 64 := by omega
  rw [rasWord, BitVec.toNat_ofNat, address, if_neg Bool.false_ne_true, Nat.add_zero, Nat.mod_eq_of_lt small]

theorem rasSlot_rasWord (addr : Word) {slot : Nat} (h : slot < 8) : rasSlot (rasWord addr slot false) = slot := by
  rw [rasSlot, bf, rasWord_toNat]
  omega

theorem rasWord_address (addr : Word) (slot : Nat) :
    bf (rasWord addr slot false) 56 2 = addr.toNat / 4 % 2 ^ 55 := by
  rw [bf, rasWord_toNat]
  omega

theorem rasWord_plain (addr : Word) (slot : Nat) : bitAt (rasWord addr slot false) 60 = false := by
  have address : addr.toNat / 4 % 2 ^ 55 * 4 + slot % 8 * 2 ^ 57 < 2 ^ 60 := by omega
  rw [bitAt, BitVec.getLsbD, rasWord_toNat, Nat.testBit_lt_two_pow address]

theorem rasVisible_last {s : State} {pre : List Word} {e : Word} (top : (cur s).ras = pre ++ [e])
    (mine : rasSlot e = s.focus.slot) (plain : (curStrand s).ser = false) :
    (rasVisible s).getLast? = some (.chip pre.length, e) := by
  have all : rasHidden (cur s) (curStrand s) = 0 := by simp [rasHidden, runningSerial, plain]
  have ras : (getCtx s s.focus.key).ras = pre ++ [e] := top
  simp [rasVisible, all, rasEntries, ras, List.zipIdx_append, mine, -List.append_assoc]

section Control

variable {s : State} {g : BitVec 3} {a : BitVec 6} {x : Word} (hg : guardP s g = true)

include hg

theorem exec_b_transfers (o : BitVec 22) :
    exec (.b g o) s = .next (transfer s ((curStrand s).ca + 4 * o.signExtend 64)) := by
  show execB g o s = _
  rw [execB, guarded_on _ hg]; rfl

theorem exec_bInd_checked (i : BitVec 10) (ha : holdsS s a x) :
    exec (.bInd g a i) s = run s (checkTarget s (x + 4 * i.signExtend 64) >>= fun _ =>
      .ok (transfer s (x + 4 * i.signExtend 64))) := by
  show execBInd g a i s = _
  rw [execBInd, guarded_on _ hg, rdS_holds ha]; rfl

theorem exec_call_transfers {o : BitVec 22} (room : (cur s).ras.length < 16)
    (h : legalTarget s ((curStrand s).ca + 4 * o.signExtend 64)) :
    exec (.call g o) s =
      .next (transfer (setCur s (pushedRas s (nextClause s) false)) ((curStrand s).ca + 4 * o.signExtend 64)) := by
  obtain ⟨-, free, w, fetched, header⟩ := h
  show execCall g o s = _
  rw [execCall, guarded_on _ hg]
  simp only [directTarget, sxField, free, callTarget, fetched, header, pushRas_room _ _ room]
  rfl

theorem exec_call_noHeader {o : BitVec 22} {w : Code}
    (free : codeHeld s s.focus.key ((curStrand s).ca + 4 * o.signExtend 64) = false)
    (fetched : fetchCode s s.focus.key ((curStrand s).ca + 4 * o.signExtend 64) = .ok w) (h : isHeader w = false) :
    exec (.call g o) s = traps (transfer s ((curStrand s).ca + 4 * o.signExtend 64)) 0x03 0 0 := by
  show execCall g o s = _
  rw [execCall, guarded_on _ hg]
  simp only [directTarget, sxField, free, callTarget, fetched, h]
  rfl

theorem exec_callInd_transfers {i : BitVec 10} (room : (cur s).ras.length < 16) (ha : holdsS s a x)
    (h : legalTarget s (x + 4 * i.signExtend 64)) :
    exec (.callInd g a i) s =
      .next (transfer (setCur s (pushedRas s (nextClause s) false)) (x + 4 * i.signExtend 64)) := by
  show execCallInd g a i s = _
  rw [execCallInd, guarded_on _ hg, rdS_holds ha, ok_bind]
  simp only [indirectTarget, sxField, checkTarget_legal h, ok_bind, pushRas_room _ _ room]
  rfl

theorem exec_ret_pops {pre : List Word} {addr : Word} (top : (cur s).ras = pre ++ [rasWord addr s.focus.slot false])
    (slot : s.focus.slot < 8) (plain : (curStrand s).ser = false) :
    exec (.ret g) s =
      .next (transfer (setCur s { cur s with ras := pre }) (BitVec.ofNat 64 (addr.toNat / 4 % 2 ^ 55 * 4))) := by
  have last := rasVisible_last top (rasSlot_rasWord addr slot) plain
  have popped : dropRas (cur s) (.chip pre.length) = { cur s with ras := pre } := by
    simp [dropRas, top, List.eraseIdx_append_of_length_le]
  show execRet g s = _
  rw [execRet, guarded_on _ hg, last]
  simp only [soundEntry, ok_bind, rasWord_plain, rasWord_address, popped]
  rfl

theorem exec_ret_empty (h : rasVisible s = []) : exec (.ret g) s = traps s 0x02 0 0 := by
  show execRet g s = _
  rw [execRet, guarded_on _ hg, h]; rfl

end Control

/-- Settles O13: each transfer is the body of its form once its target's checks and its push or pop have come out. -/
theorem branchesCallsAndReturnsTransfer : Obligations.BranchesCallsAndReturnsTransfer := by
  unfold Obligations.BranchesCallsAndReturnsTransfer
  refine ⟨fun s g o a i x hg => ⟨exec_b_transfers hg o, fun ha => ?indirect⟩,
    fun s g o a i x hg room => ⟨exec_call_transfers hg room, fun w => exec_call_noHeader hg, exec_callInd_transfers hg room⟩,
    fun s g pre addr hg => ⟨exec_ret_pops hg, exec_ret_empty hg⟩⟩
  case indirect =>
    rw [exec_bInd_checked hg i ha]
    refine ⟨fun legal => ?_, fun unaligned => ?_, fun w aligned free fetched noHeader => ?_⟩
    · rw [checkTarget_legal legal]; rfl
    · rw [checkTarget_unaligned unaligned]; rfl
    · rw [checkTarget_noHeader aligned free fetched noHeader]; rfl

/-! ## The lowest group of a lane call (05 R120) -/

theorem mem_insertSorted {x y : Nat} {xs : List Nat} : y ∈ insertSorted x xs ↔ y = x ∨ y ∈ xs := by
  induction xs with
  | nil => simp [insertSorted]
  | cons z xs ih =>
    rw [insertSorted]
    split
    · simp
    · simp [ih]; tauto

theorem mem_sortUp {y : Nat} {xs : List Nat} : y ∈ sortUp xs ↔ y ∈ xs := by
  induction xs with
  | nil => rfl
  | cons x xs ih =>
    have step : sortUp (x :: xs) = insertSorted x (sortUp xs) := rfl
    rw [step, mem_insertSorted, ih, List.mem_cons]

theorem lanesOf_lt {m : Mask} {l : Nat} (h : l ∈ lanesOf m) : l < 64 := by
  simpa using (List.mem_filter.mp h).1

theorem mem_lanesOf {m : Mask} {l : Nat} : l ∈ lanesOf m ↔ m.getLsbD l = true := by
  simp only [lanesOf, List.mem_filter, List.mem_range, and_iff_right_iff_imp]
  exact BitVec.lt_of_getLsbD

/-- The lanes of the mask of ascending lanes are those lanes. -/
theorem lanesOf_maskOf_lanesOf (m : Mask) : lanesOf (maskOf (lanesOf m)) = lanesOf m := by
  refine List.filter_congr fun l hl => ?_
  have below : l < 64 := by simpa using hl
  rw [maskOf_getLsbD (lanesOf_sorted m) below, Bool.eq_iff_iff, decide_eq_true_iff, mem_lanesOf]

/-- A table of lanes with the zero entries left out reads as the function that it was made of. -/
theorem mapGet_nonzero (f : Nat → Word) {lanes : List Nat} {l : Nat} (h : l ∈ lanes) :
    mapGet (0 : Word) ((lanes.map fun l => (l, f l)).filter fun t => t.2 != 0) l = f l := by
  have absent : ∀ ls : List Nat, l ∉ ls →
      mapGet (0 : Word) ((ls.map fun l => (l, f l)).filter fun t => t.2 != 0) l = 0 := fun ls hl => by
    induction ls with
    | nil => rfl
    | cons k ls ih =>
      obtain ⟨hk, hl⟩ := not_or.mp (mt List.mem_cons.mpr hl)
      rw [List.map_cons, List.filter_cons]
      split
      · rw [mapGet, if_neg hk, ih hl]
      · exact ih hl
  induction lanes with
  | nil => cases h
  | cons k lanes ih =>
    rw [List.map_cons, List.filter_cons]
    by_cases here : l = k
    · subst here
      by_cases zero : f l = 0
      · simp only [zero, bne_self_eq_false, Bool.false_eq_true, if_false]
        by_cases again : l ∈ lanes
        · exact (ih again).trans zero
        · exact absent lanes again
      · rw [if_pos (bne_iff_ne.mpr zero), mapGet, if_pos rfl]
    · have rest := ih ((List.mem_cons.mp h).resolve_left here)
      split
      · rw [mapGet, if_neg here, rest]
      · exact rest

theorem foldl_min_eq {f : Nat → Nat} {ls : List Nat} {start t : Nat} (bound : t ≤ start) (least : ∀ l ∈ ls, t ≤ f l)
    (met : t = start ∨ ∃ l ∈ ls, f l = t) : ls.foldl (fun m l => min m (f l)) start = t := by
  induction ls generalizing start with
  | nil => simpa [eq_comm] using met
  | cons k ls ih =>
    have below := least k List.mem_cons_self
    refine ih (le_min bound below) (fun l hl => least l (List.mem_cons_of_mem k hl)) ?_
    rcases met with rfl | ⟨l, hl, hf⟩
    · exact .inl (min_eq_left below).symm
    · rcases List.mem_cons.mp hl with rfl | hl
      · exact .inl (hf ▸ (min_eq_right (hf.symm ▸ bound)).symm)
      · exact .inr ⟨l, hl, hf⟩

/-- The strand that next_group leaves, where the record's pending lanes have `t` as their lowest target (05 R120). -/
theorem nextGroup_strand (s : State) (n : Nat) (r : LaneCall) {t : Word}
    (least : ∀ l ∈ lanesOf r.pending, t.toNat ≤ (mapGet (0 : Word) r.targets l).toNat)
    (met : ∃ l ∈ lanesOf r.pending, (mapGet (0 : Word) r.targets l).toNat = t.toNat) :
    let x := curStrand (nextGroup s n r)
    x.ca = t ∧ x.begun = false ∧
      x.mask = maskOf ((lanesOf r.pending).filter fun l => (mapGet (0 : Word) r.targets l).toNat == t.toNat) := by
  have lowest := foldl_min_eq (f := fun l => (mapGet (0 : Word) r.targets l).toNat) t.isLt.le least (.inr met)
  simp only [nextGroup, lowest, transfer, curStrand_setStrand, BitVec.ofNat_toNat, BitVec.setWidth_eq, and_self]

/-- The record that a lane call takes. -/
def laneCallRecord (s : State) (c : Ctx) (r : Nat) (lanes : List Nat) : LaneCall :=
  { valid := true, owner := BitVec.ofNat 3 s.focus.slot, outer := (curStrand s).mask, pending := maskOf lanes,
    targets := (lanes.map fun l => (l, laneVal c r l)).filter fun t => t.2 != 0, seq := (cur s).callSeq + 1 }

theorem exec_callLane_none {s : State} {g : BitVec 3} {a : BitVec 6} {e : BitVec 1} {r : Nat}
    (ha : namesV s a (curStrand s).overA r) (hold : lanesHold s [r] (activeLanes s g)) (none : activeLanes s g = []) :
    exec (.callLane g a e) s = done s := by
  show execCallLane g a e s = _
  rw [execCallLane, vxA_names ha, ok_bind]
  show run s (rdV s e [r] (activeLanes s g) >>= _) = _
  rw [rdV_hold hold, ok_bind, none]; rfl

theorem exec_callLane_runs {s : State} {g : BitVec 3} {a : BitVec 6} {e : BitVec 1} {r n : Nat}
    (ha : namesV s a (curStrand s).overA r) (hold : lanesHold s [r] (activeLanes s g)) (some : activeLanes s g ≠ [])
    (legal : ∀ l ∈ activeLanes s g, legalTarget s (laneVal (cur s) r l)) (free : freeLaneCall (cur s) = Option.some n)
    (room : (cur s).ras.length < 16) :
    let p := setCur s (pushedRas s (nextClause s) true)
    let q := laneCallRecord p (cur s) r (activeLanes s g)
    exec (.callLane g a e) s =
      .next (nextGroup (setCur p (putLaneCall { cur p with callSeq := (cur p).callSeq + 1 } n q)) n q) := by
  have checks : checkTargets s ((sortUp (((activeLanes s g).map fun l => (l, laneVal (cur s) r l)).map fun t => t.2.toNat)).map
      (BitVec.ofNat 64)) = .ok () := by
    refine checkTargets_legal fun t ht => ?_
    obtain ⟨x, hx, rfl⟩ := List.mem_map.mp ht
    obtain ⟨y, hy, rfl⟩ := List.mem_map.mp (mem_sortUp.mp hx)
    obtain ⟨l, hl, rfl⟩ := List.mem_map.mp hy
    simpa using legal l hl
  intro p q
  show execCallLane g a e s = _
  rw [execCallLane, vxA_names ha, ok_bind]
  simp only [rdV_hold hold, ok_bind, List.isEmpty_iff, some, if_false, checks, free, pushRas_room _ _ room]
  rfl

/-- Settles O14: the record's targets read as the lanes' values, so `nextGroup_strand` gives the group that runs first. -/
theorem laneCallRunsTheLowestGroup : Obligations.LaneCallRunsTheLowestGroup := by
  unfold Obligations.LaneCallRunsTheLowestGroup
  intro s g a e r n t ha hold
  refine ⟨exec_callLane_none ha hold, fun ⟨l₀, hl₀, ht⟩ legal free room => ?_⟩
  have all : lanesOf (maskOf (activeLanes s g)) = activeLanes s g := lanesOf_maskOf_lanesOf _
  have reads {l : Nat} (hl : l ∈ activeLanes s g) := mapGet_nonzero (laneVal (cur s) r) hl
  have some : activeLanes s g ≠ [] := List.ne_nil_of_mem hl₀
  refine ⟨_, exec_callLane_runs ha hold some (fun l hl => (legal l hl).1) free room, ?_⟩
  obtain ⟨ca, begun, mask⟩ := nextGroup_strand (t := t) _ n
    (laneCallRecord (setCur s (pushedRas s (nextClause s) true)) (cur s) r (activeLanes s g))
    (fun l hl => by
      simp only [laneCallRecord, all] at hl ⊢
      rw [reads hl]
      exact (legal l hl).2)
    ⟨l₀, by simpa only [laneCallRecord, all] using hl₀, by simp only [laneCallRecord]; rw [reads hl₀, ht]⟩
  refine ⟨ca, begun, fun l hl => ?_⟩
  rw [mask]
  simp only [laneCallRecord, all]
  have sorted := ((lanesOf_sorted (activeMask s g)).pairwise.filter fun l => (mapGet (0 : Word)
    ((activeLanes s g |>.map fun l => (l, laneVal (cur s) r l)).filter fun t => t.2 != 0) l).toNat == t.toNat).sortedLT
  refine (maskOf_getLsbD sorted hl).trans ?_
  rw [Bool.eq_iff_iff, decide_eq_true_iff, List.mem_filter, Bool.and_eq_true, decide_eq_true_iff]
  exact and_congr_right fun active => by rw [reads active, beq_iff_eq, beq_iff_eq, BitVec.toNat_inj]

/-! ## rep (04 R100) -/

theorem onlyCur_setStrand (s : State) (x : Strand) : onlyCur s (setStrand s x) :=
  ⟨rfl, fun _ hk => getCtx_setCur_ne s _ hk, fun _ => rfl⟩

/-- A strand that takes up a rep of count `k` (04 R100). -/
def takesRep (x : Strand) (k : Nat) : Strand :=
  { x with
    srepc := if 1 ≤ x.srepc.toNat ∧ x.srepc.toNat ≤ k then x.srepc else BitVec.ofNat 7 k
    inRep := true, overD := 0, overA := 0, overB := 0, wait := .ready }

theorem takesRep_srepc (x : Strand) {k : Nat} (h : k < 128) : (takesRep x k).srepc.toNat =
    if 1 ≤ x.srepc.toNat ∧ x.srepc.toNat ≤ k then x.srepc.toNat else k := by
  rw [takesRep]
  split
  · rfl
  · rw [BitVec.toNat_ofNat, Nat.mod_eq_of_lt h]

/-- Settles O15: rep's body on each outcome of the fetch of the word after it. -/
theorem repTakesUpItsCount : Obligations.RepTakesUpItsCount := by
  unfold Obligations.RepTakesUpItsCount
  intro s x y z n
  refine ⟨fun inside w fetched => ⟨fun target => ?repeats, fun target => ?other⟩, fun last => ?atEnd⟩
  case atEnd =>
    show execRep x y z n s = _
    rw [execRep, if_pos last]; rfl
  case other =>
    show execRep x y z n s = _
    rw [execRep, if_neg (Nat.not_le.mpr inside)]
    simp only [wordAddress, fetched, target]
    rfl
  case repeats =>
    refine ⟨setStrand s (takesRep (curStrand s) (n.toNat + 1)), ?_, onlyCur_setStrand s _, ?_⟩
    · show execRep x y z n s = _
      rw [execRep, if_neg (Nat.not_le.mpr inside)]
      simp only [wordAddress, fetched, target]
      rfl
    · rw [curStrand_setStrand]
      exact ⟨rfl, rfl, takesRep_srepc _ (by omega)⟩

end Sys2Proof.Proofs
end

section
/-! SUPPORT. Scalar accesses (05 R121 to R125): what the checks, the waits and the issue of an access come to on a warp, and a
system core's load, which is performed as it issues. -/

namespace Sys2Proof.Proofs

open Sys2Proof Sys2Proof.Machine Sys2Proof.Laws

/-! ## Waits and issues -/

theorem awaitRel_free {s : State} (h : noFenceHolds s) : awaitRel s = .ok () := by
  simp [awaitRel, show relHolds s = false from h, await_true]

theorem awaitScalar_warp {s : State} (accs : List Access) (h : isSystem s.focus.key = false) :
    awaitScalar s accs = .ok () := by
  simp [awaitScalar, h, await_true]

theorem checkLine_warp {s : State} (va : Nat) (accs : List Access) (h : isSystem s.focus.key = false) :
    checkLine s va accs = .ok () := by
  simp [checkLine, h]

/-- Whether a launch is replayed does not depend on a context's registers. -/
theorem replays_setCur {s : State} {c : Ctx} (h : c.launchid = (cur s).launchid) :
    replays (setCur s c) s.focus.key = replays s s.focus.key := by
  unfold cur at h
  simp only [replays, launchOf, getCtx_setCur, h]
  rfl

theorem issueRecorded_live {s : State} (before : Ctx) (kind : OpKind) (dst : Nat) (accs : List Access) (words : Nat)
    (h : notReplayed s) :
    issueRecorded before s kind dst accs words = .ok (retire (issueOp s kind dst accs) words) := by
  simp [issueRecorded, show replays s s.focus.key = false from h]

theorem issueLoadStore_live {s : State} (before : Ctx) (kind : OpKind) (dst : Nat) (accs : List Access)
    (h : notReplayed s) : issueLoadStore before s kind dst accs = .ok (retire (issueOp s kind dst accs) 1) := by
  rw [issueLoadStore, issueRecorded_live before kind dst accs 1 h, ite_self]

/-- A register marked pending leaves the launch as it is. -/
theorem notReplayed_putS {s : State} (n : Nat) (r : Reg) (h : notReplayed s) : notReplayed (setCur s (putS (cur s) n r)) :=
  (replays_setCur (putS_launchid _ _ _)).trans h

/-! ## A warp's accesses -/

section
variable {s : State} {g z : BitVec 3} {d a b : BitVec 6} {o : BitVec 7} {base x : Word}

theorem scalarSize_need (hz : scalarSize z = true) : need (decide (z.toNat < 7)) 0x01 = .ok () := by
  have : z.toNat < 7 := by simpa [scalarSize, Nat.lt_succ_iff] using hz
  simp [this, need_true]

theorem exec_sLd_issues (hg : guardP s g = true) (warp : isSystem s.focus.key = false) (live : notReplayed s)
    (hz : scalarSize z = true) (ha : holdsS s a base)
    (pass : accessesPass s .load (sizeBytes z) [(smAddress base o (sizeBytes z)).toNat]) (free : writableS s d)
    (memory : ∀ off, targetAt s (smAddress base o (sizeBytes z)).toNat ≠ .io off) :
    exec (.sLd g z d a o) s = doneFill s (.scalarLoad (sizeBytes z) (sizeSigned z)) d
      (scalarAccess (targetAt s (smAddress base o (sizeBytes z)).toNat) (sizeBytes z) 0 0) := by
  show execSLd g z d a o s = _
  rw [execSLd, scalarSize_need hz, ok_bind, guarded_on _ hg, rdS_holds ha, ok_bind]
  dsimp only
  rw [checked_passes pass, ok_bind, freeS_writable free, ok_bind]
  have issued := fun accs => issueLoadStore_live (cur s) (.scalarLoad (sizeBytes z) (sizeSigned z)) d.toNat accs
    (notReplayed_putS d.toNat { getS (cur s) d.toNat with fill := .pending } live)
  change ∀ off, targetOf s (requester s s.focus.key) _ ≠ .io off at memory
  unfold targetAt
  split
  · next off target => exact absurd target (memory off)
  · rw [awaitScalar_warp _ warp, ok_bind, if_neg (by simp [warp]), issued]
    rfl

theorem exec_sSt_issues (hg : guardP s g = true) (warp : isSystem s.focus.key = false) (live : notReplayed s)
    (hz : scalarSize z = true) (ha : holdsS s a base)
    (pass : accessesPass s .store (sizeBytes z) [(smAddress base o (sizeBytes z)).toNat]) (hx : holdsS s d x)
    (fence : noFenceHolds s) (memory : ∀ off, targetAt s (smAddress base o (sizeBytes z)).toNat ≠ .io off) :
    exec (.sSt g z d a o) s = done (issueOp s .store 0
      (scalarAccess (targetAt s (smAddress base o (sizeBytes z)).toNat) (sizeBytes z) (x.toNat % 2 ^ (8 * sizeBytes z)) 0)) := by
  show execSSt g z d a o s = _
  rw [execSSt, scalarSize_need hz, ok_bind, guarded_on _ hg, rdS_holds ha, ok_bind, rdS_holds hx, ok_bind]
  dsimp only
  rw [checked_passes pass, ok_bind, awaitRel_free fence, ok_bind]
  change ∀ off, targetOf s (requester s s.focus.key) _ ≠ .io off at memory
  unfold targetAt
  split
  · next off target => exact absurd target (memory off)
  · rw [awaitScalar_warp _ warp, ok_bind, checkLine_warp _ _ warp, ok_bind, issueLoadStore_live _ _ _ _ live]
    rfl

/-- The value that a compare-and-swap expects is read from S[d]; the other functions expect none. -/
theorem amoExpected {f : Nat} {old : Word} {α : Type} (k : Word → Res α)
    (h : f = 7 ∧ holdsS s d old ∨ f ≠ 7 ∧ old = 0) :
    (if f = 7 then rdS s d >>= k else (.ok 0 : Res Word) >>= k) = k old := by
  obtain ⟨rfl, hold⟩ | ⟨hf, rfl⟩ := h
  · rw [if_pos rfl, rdS_holds hold, ok_bind]
  · rw [if_neg hf, ok_bind]

theorem scalarAmo_issues {old : Word} (f : Nat) (hg : guardP s g = true) (warp : isSystem s.focus.key = false)
    (live : notReplayed s) (ha : holdsS s a base) (hx : holdsS s b x) (expected : f = 7 ∧ holdsS s d old ∨ f ≠ 7 ∧ old = 0)
    (pass : accessesPass s .atomic 8 [base.toNat]) (free : writableS s d) (fence : noFenceHolds s) :
    run s (scalarAmo f g d a b s) =
      doneFill s (.scalarAtomic f) d (scalarAccess (targetAt s base.toNat) 8 x.toNat old.toNat) := by
  rw [scalarAmo, guarded_on _ hg, rdS_holds ha, ok_bind, rdS_holds hx, ok_bind]
  dsimp only
  rw [amoExpected _ expected, checked_passes pass, ok_bind, freeS_writable free, ok_bind, awaitRel_free fence, ok_bind,
    awaitScalar_warp _ warp, ok_bind, issueRecorded_live _ _ _ _ _ (notReplayed_putS _ _ live)]
  rfl

end

/-! ## A system core's load -/

theorem forwarded_nil (p : Nat) : forwarded [] p = none := rfl

theorem poisonedRun_part {s : State} {p n k : Nat} (hk : k < n) (h : poisonedRun s p n = false) :
    poisonedRun s (p + k) 1 = false := by
  simp only [poisonedRun, List.any_eq_false, Bool.and_eq_true, decide_eq_true_eq, not_and, not_lt] at h ⊢
  intro e he
  have := h e he
  omega

/-- With no store before it, and no line of main memory in it, a load reads the bytes as they stand. -/
theorem loadBytes_plain {s : State} {p n : Nat} (pa slot : Nat) (outside : mainTop ≤ p) (sound : poisonedRun s p n = false) :
    loadBytes s [] p n pa slot = (readNat s p n, false) := by
  have none_ : (List.range n).map (fun k => forwarded [] (p + k)) = List.replicate n none := by
    simp [forwarded_nil, List.map_const']
  have indices : (List.replicate n (none : Option Byte)).zipIdx = (List.range n).map fun k => (none, k) := by
    apply List.ext_getElem <;> simp
  unfold loadBytes
  simp only [none_, indices, List.map_map, List.any_filter, List.any_map, Nat.not_lt.mpr outside, decide_false,
    Bool.false_and, Bool.or_false, Prod.mk.injEq]
  refine ⟨rfl, List.any_eq_false.mpr fun k hk => ?_⟩
  simpa using poisonedRun_part (List.mem_range.mp hk) sound

/-- A system core's load of sound bytes outside main memory, with nothing before it, is performed as it issues. -/
theorem loadNow_completes {s : State} (d : BitVec 6) {n p : Nat} (signed : Bool) (a : Access) (place : a.place = p)
    (len : a.len = n) (plain : a.cell = false) (alone : (cur s).ops = []) (outside : mainTop ≤ p)
    (sound : poisonedRun s p n = false) :
    loadNow s d n signed a = .ok (retire (wrS s d (extendLoad (readNat s p n) n signed)) 1) := by
  subst place len
  have ready : accessReady s (cur s) (newOp s (.scalarLoad a.len signed) d.toNat [a]) 0 a = true := by
    simp [accessReady, earlierOps, alone, newOp, Nat.not_lt.mpr outside]
  have performed : performUnit s (cur s).ops (newOp s (.scalarLoad a.len signed) d.toNat [a]) [a] =
      (s, [{ a with done := true, result := readNat s a.place a.len, result2 := 0, poison := false }]) := by
    simp [performUnit, plain, newOp, plainLanes, plainStep, alone, loadBytes_plain a.pa a.pol outside sound]
  simp only [loadNow]
  rw [ready, await_true, ok_bind, performed]
  rfl

theorem exec_sLd_system {s : State} {g z : BitVec 3} {d a : BitVec 6} {o : BitVec 7} {base : Word} {p : Nat}
    (hg : guardP s g = true) (core : isSystem s.focus.key = true) (hz : scalarSize z = true) (ha : holdsS s a base)
    (free : writableS s d)
    (pass : accessesPass s .load (sizeBytes z) [(smAddress base o (sizeBytes z)).toNat])
    (target : targetAt s (smAddress base o (sizeBytes z)).toNat = .home p) (outside : mainTop ≤ p) (alone : (cur s).ops = [])
    (port : portFrozen s (keyDie s.focus.key) p = false) (sound : poisonedRun s p (sizeBytes z) = false) :
    exec (.sLd g z d a o) s = doneS s d (extendLoad (readNat s p (sizeBytes z)) (sizeBytes z) (sizeSigned z)) := by
  have reached : awaitScalar s (scalarAccess (.home p) (sizeBytes z) 0 0) = .ok () := by
    simp [awaitScalar, scalarAccess, accessAt, scalarHeld, accessHeld, port, Nat.not_lt.mpr outside, await_true]
  unfold targetAt at target
  show execSLd g z d a o s = _
  rw [execSLd, scalarSize_need hz, ok_bind, guarded_on _ hg, rdS_holds ha, ok_bind]
  dsimp only
  rw [checked_passes pass, ok_bind, freeS_writable free, ok_bind, target]
  dsimp only
  rw [reached, ok_bind, if_pos core]
  exact congrArg (run s) (loadNow_completes d (sizeSigned z) _ rfl rfl rfl alone outside sound)

/-! ## s.lea (05 R125) -/

theorem leaWindow_writes {s : State} {g : BitVec 3} {d a : BitVec 6} {x : Word} (base : Nat) (o : BitVec 8)
    (hg : guardP s g = true) (warp : isSystem s.focus.key = false) (ha : holdsS s a x) (free : writableS s d) :
    run s (leaWindow base g d a o s) = doneS s d (windowAddress base x o) := by
  rw [leaWindow, warp, Bool.not_false, need_true, ok_bind, guarded_on _ hg, rdS_holds ha, ok_bind, freeS_writable free]
  rfl

theorem leaWindow_system {s : State} (base : Nat) (g : BitVec 3) (d a : BitVec 6) (o : BitVec 8)
    (core : isSystem s.focus.key = true) : run s (leaWindow base g d a o s) = traps s 0x01 0 0 := by
  rw [leaWindow, core]
  rfl

theorem exec_sLeaClause_writes {s : State} {g : BitVec 3} {d a : BitVec 6} {x : Word} (o : BitVec 8)
    (hg : guardP s g = true) (ha : holdsS s a x) (free : writableS s d) :
    exec (.sLeaClause g d a o) s = doneS s d ((curStrand s).ca + x + 4 * sxField o) := by
  show execSLeaClause g d a o s = _
  rw [execSLeaClause, guarded_on _ hg, rdS_holds ha, ok_bind, freeS_writable free]
  rfl

/-! ## The obligation -/

theorem smAddress_eq (base : Word) (o : BitVec 7) (n : Nat) :
    smAddress base o n = base + o.signExtend 64 * BitVec.ofNat 64 n := rfl

/-- Settles O16: an access that passes its checks is not held, and its issue does not depend on where it goes, but that it is
no register of I/O space. -/
theorem scalarAccessesComplete : Obligations.ScalarAccessesComplete := by
  refine ⟨fun s g z d a b o base x old hg warp live hz ha => ⟨?load, ?store, ?atomic⟩, ?system, ?lea⟩
  case load => exact exec_sLd_issues hg warp live hz ha
  case store => exact exec_sSt_issues hg warp live hz ha
  case atomic =>
    intro pass hx free fence
    have amo := fun f (h : f ≠ 7) => scalarAmo_issues f hg warp live ha hx (old := 0) (.inr ⟨h, rfl⟩) pass free fence
    exact ⟨amo 0 (by decide), amo 1 (by decide), amo 2 (by decide), amo 3 (by decide), amo 4 (by decide),
      amo 5 (by decide), amo 6 (by decide),
      fun hold => scalarAmo_issues 7 hg warp live ha hx (.inl ⟨rfl, hold⟩) pass free fence⟩
  case system =>
    intro s g z d a o base p hg core hz ha free
    exact fun pass target outside alone port sound => exec_sLd_system hg core hz ha free pass target outside alone port sound
  case lea =>
    exact fun s g d a o x hg ha free =>
      ⟨fun warp => ⟨leaWindow_writes groupBase o hg warp ha free, leaWindow_writes spillBase o hg warp ha free⟩,
        fun core => ⟨leaWindow_system groupBase g d a o core, leaWindow_system spillBase g d a o core⟩,
        exec_sLeaClause_writes o hg ha free⟩

end Sys2Proof.Proofs
end

section
/-! SUPPORT. Control registers (02 R43 to R47, 05 R126) and the system instructions (05 R127 to R130, 08 R187): what a mode may
do with a register, what a write leaves in it, and that an event of a launch that is neither recorded nor replayed leaves
nothing behind. -/

namespace Sys2Proof.Proofs

open Sys2Proof Sys2Proof.Machine Sys2Proof.Laws

/-! ## Events of a launch that is neither recorded nor replayed (24 R473 to R475) -/

theorem launchOf_setCur {s : State} {c : Ctx} (h : c.launchid = (cur s).launchid) :
    launchOf (setCur s c) s.focus.key = launchOf s s.focus.key := by
  unfold cur at h
  simp only [launchOf, getCtx_setCur, h]
  rfl

theorem unrecorded_setCur {s : State} {c : Ctx} (h : c.launchid = (cur s).launchid) (plain : unrecorded s) :
    unrecorded (setCur s c) :=
  ⟨(replays_setCur h).trans plain.1, (congrArg Launch.recording (launchOf_setCur h)).trans plain.2⟩

theorem gateOf_live {s : State} {m : Mark} (h : replays s m.who.key = false) : gateOf s m = .live := by
  have free : (isSystem m.who.key || !(launchOf s m.who.key).replaying) = true := by
    cases hs : isSystem m.who.key <;> simp_all [replays]
  simp [gateOf, free]

theorem awaitGate_live {s : State} {m : Mark} (h : replays s m.who.key = false) : awaitGate s m = .ok () := by
  simp [awaitGate, gatesOpen, gateOf_live h, await_true]

theorem forcedValue_live {s : State} {m : Mark} (h : replays s m.who.key = false) : forcedValue s m = none := by
  simp [forcedValue, gateOf_live h]

theorem meetEvents_live {s : State} {es : List (Mark × Word)} (h : ∀ e ∈ es, replays s e.1.who.key = false) :
    meetEvents s es = (s, none) := by
  induction es with
  | nil => rfl
  | cons e es ih =>
    obtain ⟨m, v⟩ := e
    rw [meetEvents, gateOf_live (h _ List.mem_cons_self)]
    exact ih fun e he => h e (List.mem_cons_of_mem _ he)

theorem recordEvent_unrecorded {s : State} {m : Mark} (v : Word) (h : (launchOf s m.who.key).recording = false) :
    recordEvent s m v = s := by
  simp [recordEvent, h]

/-- An event of the executing strand of a launch that is neither recorded nor replayed only lets the strand go on. -/
theorem completeRecorded_plain {s : State} (words kind at_ : Nat) (v : Word) (h : unrecorded s) :
    completeRecorded s words ⟨kind, at_, s.focus⟩ v = retire s words := by
  have live : replays s s.focus.key = false := h.1
  rw [completeRecorded, recordEvent_unrecorded v h.2, finishRecorded, meetEvents_live (by simpa using live)]

/-! ## What a mode may do with a register (02 R43) -/

theorem crRight_readable : ∀ system priv : Bool, ∀ n < 0x12, n < 0x10 ∧ n ≠ 0x04 ∧ n ≠ 0x05 ∨ priv = true →
    crRight system priv n ≠ .undefined ∧ crRight system priv n ≠ .none := by
  decide

theorem crRight_listed (system priv : Bool) {n : Nat} (h : 0x12 ≤ n) (h' : n < 0x20 ∨ 0x22 < n ∨ system = false) :
    crRight system priv n = .undefined := by
  unfold crRight
  dsimp only
  split
  case h_22 => rfl
  case h_19 | h_20 | h_21 => exact if_neg (by simpa using h')
  all_goals omega

/-- A register whose reading is no event, or a launch of which none is kept. -/
theorem exec_crRd_reads {s : State} {g : BitVec 3} {d : BitVec 6} {n : BitVec 10} (hg : guardP s g = true)
    (free : writableS s d)
    (right : crRight (isSystem s.focus.key) (isPriv (cur s)) n.toNat ≠ .undefined ∧
      crRight (isSystem s.focus.key) (isPriv (cur s)) n.toNat ≠ .none)
    (quiet : n.toNat ≠ 0x0D ∧ n.toNat ≠ 0x0F ∨ unrecorded s) :
    exec (.crRd g d n) s = doneS s d (crValue s n.toNat) := by
  show execCrRd g d n s = _
  rw [execCrRd]
  dsimp only
  rw [bne_iff_ne.mpr right.1, need_true, ok_bind, guarded_on _ hg, bne_iff_ne.mpr right.2, need_true, ok_bind,
    freeS_writable free, ok_bind]
  have event : crMark s n.toNat = none ∨
      unrecorded s ∧ ∃ k, crMark s n.toNat = some ⟨k, (pcWord (curStrand s)).toNat, s.focus⟩ := by
    unfold crMark
    by_cases h9 : n.toNat = 0x0D
    · exact .inr ⟨quiet.resolve_left fun q => q.1 h9, 9, by simp [h9]⟩
    · by_cases h10 : n.toNat = 0x0F
      · exact .inr ⟨quiet.resolve_left fun q => q.2 h10, 10, by simp [h10]⟩
      · exact .inl (by simp [h9, h10])
  obtain none_ | ⟨plain, k, some_⟩ := event
  · rw [none_]
    rfl
  · have live : replays s s.focus.key = false := plain.1
    rw [some_]
    dsimp only
    rw [awaitGate_live (by exact live), ok_bind, forcedValue_live (by exact live), Option.getD_none]
    exact congrArg (fun t => run s (.ok t)) (completeRecorded_plain (s := wrS s d _) 1 k _ _
      (unrecorded_setCur (putS_launchid _ _ _) plain))

theorem exec_crRd_denied {s : State} {g : BitVec 3} {d : BitVec 6} {n : BitVec 10} (hg : guardP s g = true)
    (right : crRight (isSystem s.focus.key) (isPriv (cur s)) n.toNat = .none) :
    exec (.crRd g d n) s = traps s 0x07 0 0 := by
  show execCrRd g d n s = _
  rw [execCrRd, right]
  dsimp only
  rw [show (CrRight.none != .undefined) = true from rfl, need_true, ok_bind, guarded_on _ hg]
  rfl

theorem exec_cr_undefined {s : State} {g : BitVec 3} {d a : BitVec 6} {n : BitVec 10}
    (right : crRight (isSystem s.focus.key) (isPriv (cur s)) n.toNat = .undefined) :
    exec (.crRd g d n) s = traps s 0x01 0 0 ∧ exec (.crWr g a n) s = traps s 0x01 0 0 := by
  show execCrRd g d n s = _ ∧ execCrWr g a n s = _
  rw [execCrRd, execCrWr, right]
  exact ⟨rfl, rfl⟩

theorem exec_crWr_writes {s : State} {g : BitVec 3} {a : BitVec 6} {n : BitVec 10} {x : Word} (hg : guardP s g = true)
    (ha : holdsS s a x) (right : crRight (isSystem s.focus.key) (isPriv (cur s)) n.toNat = .write) :
    exec (.crWr g a n) s = done (crWrite s n.toNat x) := by
  show execCrWr g a n s = _
  rw [execCrWr, right, show (CrRight.write != .undefined) = true from rfl, need_true, ok_bind, guarded_on _ hg,
    show (CrRight.write == .write) = true from rfl, need_true, ok_bind, rdS_holds ha]
  rfl

theorem exec_crWr_denied {s : State} {g : BitVec 3} {a : BitVec 6} {n : BitVec 10} (hg : guardP s g = true)
    (right : crRight (isSystem s.focus.key) (isPriv (cur s)) n.toNat = .none ∨
      crRight (isSystem s.focus.key) (isPriv (cur s)) n.toNat = .read) :
    exec (.crWr g a n) s = traps s 0x07 0 0 := by
  show execCrWr g a n s = _
  rw [execCrWr]
  obtain right | right := right <;>
  · rw [right, need, if_pos (by rfl), ok_bind, guarded_on _ hg]
    rfl

/-! ## What a write leaves (02 R43 to R46) -/

/-- The write of a register of its own, which is no REPC, no TCMP and no ASID of a system core. -/
theorem crWrite_plain {s : State} {n : Nat} (x : Word) (repc : n ≠ 0x003) (tcmp : n ≠ 0x022)
    (asid : isSystem s.focus.key = false ∨ n ≠ 0x00C) :
    crWrite s n x = setCur s (crWritten (isSystem s.focus.key) (cur s) n x) := by
  have no_event : (isSystem s.focus.key && n == 0x00C) = false := by
    obtain h | h := asid <;> simp [h]
  simp [crWrite, repc, tcmp, no_event]

theorem low_bits (k : Nat) (x : Word) :
    (BitVec.ofNat k x.toNat).zeroExtend 64 = x &&& BitVec.ofNat 64 (2 ^ k - 1) := by
  apply BitVec.eq_of_getLsbD_eq
  intro i hi
  simp only [BitVec.truncate_eq_setWidth, BitVec.getLsbD_setWidth, BitVec.getLsbD_and, BitVec.getLsbD_ofNat,
    Nat.testBit_two_pow_sub_one, BitVec.testBit_toNat, hi, decide_true, Bool.true_and, Bool.and_comm]

theorem keep_eq (x : Word) (hi lo : Nat) :
    keep x hi lo = x &&& BitVec.ofNat 64 ((2 ^ (hi + 1 - lo) - 1) * 2 ^ lo) := by
  apply BitVec.eq_of_getLsbD_eq
  intro i hi
  simp only [keep, place, bf, BitVec.getLsbD_ofNat, BitVec.getLsbD_and, Nat.testBit_mul_two_pow, Nat.testBit_mod_two_pow,
    Nat.testBit_div_two_pow, Nat.testBit_two_pow_sub_one, BitVec.testBit_toNat, hi, decide_true, Bool.true_and]
  by_cases h : lo ≤ i
  · simp [h, Bool.and_comm]
  · simp [h]

theorem getLsbD_statusBit (st : BitVec 12) {i : Nat} (b : Bool) (hi : i < 12) (j : Nat) :
    (statusBit st i b).getLsbD j = if j = i then b else st.getLsbD j := by
  have bit : (BitVec.ofNat 12 (2 ^ i)).getLsbD j = decide (j = i) := by
    rw [BitVec.getLsbD_ofNat, Nat.testBit_two_pow]
    by_cases h : j = i
    · simp [h, hi]
    · simp [h, Ne.symm h]
  have beyond : 12 ≤ j → st.getLsbD j = false := BitVec.getLsbD_of_ge st j
  unfold statusBit
  cases b
  · simp only [Bool.false_eq_true, if_false, BitVec.getLsbD_and, BitVec.getLsbD_not, bit]
    by_cases h : j = i
    · simp [h]
    · by_cases hj : j < 12
      · simp [h, hj]
      · simp [h, beyond (Nat.not_lt.mp hj)]
  · simp only [if_true, BitVec.getLsbD_or, bit]
    by_cases h : j = i <;> simp [h]

/-- The fields that a write of STATUS takes: the others stay. -/
theorem status_written (st st' : BitVec 12) (x kept taken : Word) (hst : ∀ j < 64, st'.getLsbD j =
    if taken.getLsbD j = true then x.getLsbD j else st.getLsbD j)
    (disjoint : ∀ j < 64, kept.getLsbD j = (decide (j < 12) && !taken.getLsbD j)) :
    st'.zeroExtend 64 = (st.zeroExtend 64 &&& kept ||| x &&& taken) := by
  apply BitVec.eq_of_getLsbD_eq
  intro j hj
  simp only [BitVec.truncate_eq_setWidth, BitVec.getLsbD_setWidth, hj, decide_true, Bool.true_and, hst j hj,
    BitVec.getLsbD_or, BitVec.getLsbD_and, disjoint j hj]
  by_cases h12 : j < 12
  · cases taken.getLsbD j <;> simp [h12]
  · cases ht : taken.getLsbD j <;> simp [h12, BitVec.getLsbD_of_ge st j (by omega)]

theorem status_user (st : BitVec 12) (x : Word) :
    (statusBit (statusBit st 2 (bitAt x 2)) 3 (bitAt x 3)).zeroExtend 64 =
      (st.zeroExtend 64 &&& 0xFF3 ||| x &&& 0xC) := by
  refine status_written st _ x 0xFF3 0xC (fun j hj => ?_) (by decide)
  rw [getLsbD_statusBit _ _ (by decide), getLsbD_statusBit _ _ (by decide),
    show (0xC : Word).getLsbD j = (decide (j = 2) || decide (j = 3)) by revert j; decide]
  by_cases h3 : j = 3
  · simp [h3, bitAt]
  · by_cases h2 : j = 2 <;> simp [h2, h3, bitAt]

theorem status_supervisor (st : BitVec 12) (x : Word) :
    (statusBit (statusBit (statusBit st 2 (bitAt x 2)) 3 (bitAt x 3)) 0 (bitAt x 0)).zeroExtend 64 =
      (st.zeroExtend 64 &&& 0xFF2 ||| x &&& 0xD) := by
  refine status_written st _ x 0xFF2 0xD (fun j hj => ?_) (by decide)
  rw [getLsbD_statusBit _ _ (by decide), getLsbD_statusBit _ _ (by decide), getLsbD_statusBit _ _ (by decide),
    show (0xD : Word).getLsbD j = (decide (j = 0) || decide (j = 2) || decide (j = 3)) by revert j; decide]
  by_cases h0 : j = 0
  · simp [h0, bitAt]
  · by_cases h3 : j = 3
    · simp [h3, bitAt]
    · by_cases h2 : j = 2 <;> simp [h0, h2, h3, bitAt]

theorem clampLease_eq (x : Word) :
    (clampLease x).zeroExtend 64 = if x = 0 then 1 else if 1024 < x.toNat then 1024 else x := by
  unfold clampLease
  split_ifs with zero big
  · rfl
  · rfl
  · apply BitVec.eq_of_toNat_eq
    simp only [BitVec.truncate_eq_setWidth, BitVec.toNat_setWidth, BitVec.toNat_ofNat]
    omega

theorem bitAt_zero (x : Word) : (if bitAt x 0 then (1 : Word) else 0) = x &&& 1 := by
  apply BitVec.eq_of_getLsbD_eq
  intro j hj
  rw [BitVec.getLsbD_and, show (1 : Word).getLsbD j = decide (j = 0) by revert j; decide, bitAt]
  by_cases h : j = 0
  · subst h
    cases x.getLsbD 0 <;> decide
  · cases x.getLsbD 0
    · simp [h]
    · rw [if_pos rfl, show (1 : Word).getLsbD j = decide (j = 0) by revert j; decide]
      simp [h]

theorem onlyCur_setCur (s : State) (c : Ctx) : onlyCur s (setCur s c) :=
  ⟨rfl, fun _ hk => getCtx_setCur_ne s c hk, fun _ => rfl⟩

theorem onlyCur_trans {s t u : State} (h : onlyCur s t) (h' : onlyCur t u) : onlyCur s u := by
  obtain ⟨eq, others, mem⟩ := h
  obtain ⟨eq', others', mem'⟩ := h'
  have focus : t.focus = s.focus := by rw [eq]
  refine ⟨by rw [eq', eq], fun k hk => ?_, fun p => (mem' p).trans (mem p)⟩
  rw [others' k (focus ▸ hk), others k hk]

/-- A write of a register on a warp, and what the register then reads as. -/
theorem crWr_warp {s : State} {g : BitVec 3} {a : BitVec 6} {n : BitVec 10} {x v : Word} (hg : guardP s g = true)
    (warp : isSystem s.focus.key = false) (ha : holdsS s a x) (right : crRight false (isPriv (cur s)) n.toNat = .write)
    (repc : n.toNat ≠ 0x003) (tcmp : n.toNat ≠ 0x022)
    (reads : crValue (setCur s (crWritten false (cur s) n.toNat x)) n.toNat = v) :
    exec (.crWr g a n) s = done (crWrite s n.toNat x) ∧ crValue (crWrite s n.toNat x) n.toNat = v := by
  refine ⟨exec_crWr_writes hg ha (by rw [warp, right]), ?_⟩
  rw [crWrite_plain x repc tcmp (.inl warp), warp, reads]

theorem crValue_setCur_status (s : State) (c : Ctx) : crValue (setCur s c) 0x000 = c.status.zeroExtend 64 := by
  rw [crValue, cur_setCur]

theorem crWritten_status_user (c : Ctx) (x : Word) (h : isPriv c = false) :
    (crWritten false c 0x000 x).status = statusBit (statusBit c.status 2 (bitAt x 2)) 3 (bitAt x 3) := by
  simp [crWritten, writeStatus, h]

theorem crWritten_status_supervisor (c : Ctx) (x : Word) (h : isPriv c = true) :
    (crWritten false c 0x000 x).status =
      statusBit (statusBit (statusBit c.status 2 (bitAt x 2)) 3 (bitAt x 3)) 0 (bitAt x 0) := by
  simp [crWritten, writeStatus, h]

/-- The writes of a warp that its mode may make. -/
theorem crWr_warp_values {s : State} {g : BitVec 3} {a : BitVec 6} {n : BitVec 10} {x : Word} (hg : guardP s g = true)
    (warp : isSystem s.focus.key = false) (ha : holdsS s a x) :
    let after := fun (v : Word) => exec (.crWr g a n) s = done (crWrite s n.toNat x) ∧
      crValue (crWrite s n.toNat x) n.toNat = v
    (n = 0x001 → after (x &&& 0xFF)) ∧
    (n = 0x002 → after (x &&& 0x3F)) ∧
    (n = 0x007 → after (x &&& 0x1FFFFFFFFFFFFC0)) ∧
    (n = 0x000 → isPriv (cur s) = false → after ((cur s).status.zeroExtend 64 &&& 0xFF3 ||| x &&& 0xC)) ∧
    (n = 0x000 → isPriv (cur s) = true → after ((cur s).status.zeroExtend 64 &&& 0xFF2 ||| x &&& 0xD)) ∧
    (isPriv (cur s) = true →
      (n = 0x003 → after (x &&& 0x7F)) ∧
      (n = 0x004 → after (x &&& 0x1FFFFFFFFFFFFFC)) ∧
      (n = 0x005 → after (x &&& 0x1FFFFFFFFFFFFC0)) ∧
      (n = 0x006 → after (if x = 0 then 1 else if 1024 < x.toNat then 1024 else x)) ∧
      (n = 0x00C → after (x &&& 0xFFFF)) ∧
      (n = 0x00E → after (x &&& 1)) ∧
      (n = 0x010 → after x) ∧ (n = 0x011 → after x)) := by
  dsimp only
  refine ⟨?xb, ?fflags, ?bandbase, ?user, ?status, fun priv => ⟨?repc, ?tvec, ?tframe, ?mxlease, ?asid, ?sizing, ?scratch0,
    ?scratch1⟩⟩
  case xb =>
    rintro rfl
    exact crWr_warp hg warp ha rfl (by decide) (by decide)
      ((congrArg (fun c : Ctx => c.xb.zeroExtend 64) (cur_setCur s _)).trans (low_bits 8 x))
  case fflags =>
    rintro rfl
    exact crWr_warp hg warp ha rfl (by decide) (by decide)
      ((congrArg (fun c : Ctx => c.fflags.zeroExtend 64) (cur_setCur s _)).trans (low_bits 6 x))
  case bandbase =>
    rintro rfl
    exact crWr_warp hg warp ha rfl (by decide) (by decide) ((congrArg Ctx.bandbase (cur_setCur s _)).trans (keep_eq x 56 6))
  case user =>
    rintro rfl user
    refine crWr_warp hg warp ha rfl (by decide) (by decide) ?_
    exact (crValue_setCur_status s _).trans ((congrArg _ (crWritten_status_user _ x user)).trans (status_user _ x))
  case status =>
    rintro rfl priv
    refine crWr_warp hg warp ha rfl (by decide) (by decide) ?_
    exact (crValue_setCur_status s _).trans ((congrArg _ (crWritten_status_supervisor _ x priv)).trans (status_supervisor _ x))
  case repc =>
    rintro rfl
    refine ⟨exec_crWr_writes hg ha (by rw [warp, priv]; rfl), ?_⟩
    have written : crWrite s 0x003 x = setStrand s { curStrand s with srepc := BitVec.ofNat 7 x.toNat } := by
      simp [crWrite]
    rw [show (0x003 : BitVec 10).toNat = 0x003 from rfl, written, crValue]
    exact (congrArg (fun y : Strand => y.srepc.zeroExtend 64) (curStrand_setStrand s _)).trans (low_bits 7 x)
  case tvec =>
    rintro rfl
    exact crWr_warp hg warp ha (by rw [priv]; rfl) (by decide) (by decide)
      ((congrArg Ctx.tvec (cur_setCur s _)).trans (keep_eq x 56 2))
  case tframe =>
    rintro rfl
    exact crWr_warp hg warp ha (by rw [priv]; rfl) (by decide) (by decide)
      ((congrArg Ctx.tframe (cur_setCur s _)).trans (keep_eq x 56 6))
  case mxlease =>
    rintro rfl
    exact crWr_warp hg warp ha (by rw [priv]; rfl) (by decide) (by decide)
      ((congrArg (fun c : Ctx => c.mxlease.zeroExtend 64) (cur_setCur s _)).trans (clampLease_eq x))
  case asid =>
    rintro rfl
    exact crWr_warp hg warp ha (by rw [priv]; rfl) (by decide) (by decide)
      ((congrArg (fun c : Ctx => c.asid.zeroExtend 64) (cur_setCur s _)).trans (low_bits 16 x))
  case sizing =>
    rintro rfl
    exact crWr_warp hg warp ha (by rw [priv]; rfl) (by decide) (by decide)
      ((congrArg (fun c : Ctx => if c.sizing then (1 : Word) else 0) (cur_setCur s _)).trans (bitAt_zero x))
  case scratch0 =>
    rintro rfl
    exact crWr_warp hg warp ha (by rw [priv]; rfl) (by decide) (by decide) (congrArg Ctx.scratch0 (cur_setCur s _))
  case scratch1 =>
    rintro rfl
    exact crWr_warp hg warp ha (by rw [priv]; rfl) (by decide) (by decide) (congrArg Ctx.scratch1 (cur_setCur s _))

/-- A system core's write of a register of its own that is neither REPC, TCMP nor ASID. -/
theorem crWrite_system {s : State} {n : Nat} {x : Word} {c : Ctx} (repc : n ≠ 0x003) (tcmp : n ≠ 0x022) (asid : n ≠ 0x00C)
    (hc : crWritten (isSystem s.focus.key) (cur s) n x = c) :
    onlyCur s (crWrite s n x) ∧ cur (crWrite s n x) = c := by
  rw [crWrite_plain x repc tcmp (.inr asid), hc]
  exact ⟨onlyCur_setCur s c, cur_setCur s c⟩

/-- A write of TCMP strikes at once where it makes TCMP equal to TIME (02 R46, R47). -/
theorem crWrite_tcmp (s : State) (x : Word) :
    onlyCur s (crWrite s 0x022 x) ∧ cur (crWrite s 0x022 x) = { cur s with
      tcmp := x.setWidth 48
      ipend := if x.setWidth 48 = s.time then (cur s).ipend ||| 1 else (cur s).ipend } := by
  have value : crWritten (isSystem s.focus.key) (cur s) 0x022 x = { cur s with tcmp := x.setWidth 48 } := by
    rw [crWritten, BitVec.ofNat_toNat]
  have written : crWrite s 0x022 x =
      if x.setWidth 48 = s.time then
        setCur (setCur s { cur s with tcmp := x.setWidth 48 }) (strike { cur s with tcmp := x.setWidth 48 })
      else setCur s { cur s with tcmp := x.setWidth 48 } := by
    simp [crWrite, value]
  rw [written]
  split_ifs with struck
  · exact ⟨onlyCur_trans (onlyCur_setCur _ _) (onlyCur_setCur _ _), cur_setCur _ _⟩
  · exact ⟨onlyCur_setCur _ _, cur_setCur _ _⟩

/-- Settles O17: the mode's right to a register, and then what the register's write leaves in it. -/
theorem controlRegistersReadAndWrite : Obligations.ControlRegistersReadAndWrite := by
  refine ⟨?reads, ?writes, ?system⟩
  case reads =>
    intro s g d n hg warp free plain
    refine ⟨fun allowed => ?_, fun listed user => ?_, fun beyond => ?_⟩
    · have right := crRight_readable (isSystem s.focus.key) (isPriv (cur s)) n.toNat (by omega)
        (allowed.imp (fun h => ⟨by omega, h.2⟩) And.right)
      exact exec_crRd_reads hg free right (.inr plain)
    · refine exec_crRd_denied hg ?_
      rw [user]
      obtain h | h | h | h := listed <;> rw [h] <;> rfl
    · exact (exec_cr_undefined (a := 0) (crRight_listed _ _ beyond (.inr (.inr warp)))).1
  case writes =>
    intro s g a n x hg warp ha
    obtain ⟨xb, fflags, bandbase, user, status, supervisor⟩ := crWr_warp_values (n := n) hg warp ha
    refine ⟨xb, fflags, bandbase, user, status, supervisor, fun listed user => ?_, fun readOnly => ?_⟩
    · refine exec_crWr_denied hg ?_
      rw [warp, user]
      obtain rfl | rfl | rfl | rfl | rfl | rfl | rfl | rfl := listed <;> decide
    · refine exec_crWr_denied hg (.inr ?_)
      obtain rfl | rfl | rfl | rfl | rfl | rfl := readOnly <;> rfl
  case system =>
    intro s g d a n hg core
    refine ⟨fun free => ⟨fun priv => ⟨fun listed time locus => ?_, ?_, ?_, ?_⟩, fun user low high => ?_⟩,
      fun unlisted => ?_, fun x ha => ⟨fun priv => ⟨?_, ?_, ?_⟩, fun user low high => ?_⟩⟩
    · exact exec_crRd_reads hg free (crRight_readable _ _ _ (by omega) (.inr priv)) (.inl ⟨time, locus⟩)
    · rintro rfl
      exact exec_crRd_reads hg free (by rw [core, priv]; decide) (.inl (by decide))
    · rintro rfl
      exact exec_crRd_reads hg free (by rw [core, priv]; decide) (.inl (by decide))
    · rintro rfl
      exact exec_crRd_reads hg free (by rw [core, priv]; decide) (.inl (by decide))
    · refine exec_crRd_denied hg ?_
      rw [core, user]
      obtain h | h | h : n.toNat = 0x20 ∨ n.toNat = 0x21 ∨ n.toNat = 0x22 := by omega
      all_goals rw [h]; rfl
    · exact exec_cr_undefined (crRight_listed _ _ (by omega) (by omega))
    · rintro rfl
      exact ⟨exec_crWr_writes hg ha (by rw [core, priv]; rfl),
        crWrite_system (by decide) (by decide) (by decide) (by rw [← BitVec.ofNat_toNat]; rfl)⟩
    · rintro rfl
      exact ⟨exec_crWr_writes hg ha (by rw [core, priv]; rfl),
        crWrite_system (by decide) (by decide) (by decide) (by rw [← BitVec.ofNat_toNat]; rfl)⟩
    · rintro rfl
      exact ⟨exec_crWr_writes hg ha (by rw [core, priv]; rfl), crWrite_tcmp s x⟩
    · refine exec_crWr_denied hg (.inl ?_)
      rw [core, user]
      obtain h | h | h : n.toNat = 0x20 ∨ n.toNat = 0x21 ∨ n.toNat = 0x22 := by omega
      all_goals rw [h]; rfl

end Sys2Proof.Proofs
end

section
/-! SUPPORT. The system instructions (05 R127 to R130) and setx (08 R187). -/

namespace Sys2Proof.Proofs

open Sys2Proof Sys2Proof.Machine Sys2Proof.Laws

section
variable {s : State} {g : BitVec 3}

/-- A trap whose frame main memory holds waits, whether its instruction or its entry asks. -/
theorem exec_trap_warp {c : BitVec 16} (hg : guardP s g = true) (warp : isSystem s.focus.key = false) :
    exec (.trap g c) s = .next (takeTrap s { cause := 0x10, swcode := c, resume := resumeAfter s 1 }) := by
  have quiet : trapEvents s c = s := by simp [trapEvents, warp]
  show execTrap g c s = _
  rw [execTrap, guarded_on _ hg, quiet]
  by_cases held : (isInTrap (cur s) || !frameHeld s) = true
  · rw [held]
    rfl
  · have waits_ : takeTrap s { cause := 0x10, swcode := c, resume := resumeAfter s 1 } = hold s .memory := by
      rw [takeTrap, if_pos]
      simp_all
    rw [Bool.eq_false_of_not_eq_true held, waits_]
    rfl

theorem exec_sysret_user (user : isPriv (cur s) = false) : exec .sysret s = traps s 0x07 0 0 := by
  show execSysret s = _
  rw [execSysret, user]
  rfl

theorem exec_idle_user (user : isPriv (cur s) = false) : exec .idle s = traps s 0x07 0 0 := by
  show execIdle s = _
  rw [execIdle, user]
  rfl

theorem exec_idle_supervisor (priv : isPriv (cur s) = true) :
    exec .idle s = if idleEnds s = true then done s else waits s .idle := by
  show execIdle s = _
  rw [execIdle, priv]
  cases idleEnds s <;> rfl

theorem exec_setx {a : BitVec 6} {i : BitVec 10} {x : Word} (hg : guardP s g = true) (ha : holdsS s a x) :
    exec (.setx g a i) s =
      if 0 ≤ x.toInt + i.toInt ∧ x.toInt + i.toInt < 256 then
        done (setCur s { cur s with xb := BitVec.ofInt 8 (x.toInt + i.toInt) })
      else traps s 0x04 0 0 := by
  show execSetx g a i s = _
  rw [execSetx, guarded_on _ hg, rdS_holds ha, ok_bind]
  dsimp only
  rw [← Bool.decide_and]
  split_ifs with fits
  · rw [decide_eq_true fits]
    rfl
  · rw [decide_eq_false fits]
    rfl

end

/-- Settles O20: each instruction's mode, then what ends its wait or takes effect. -/
theorem systemInstructions : Obligations.SystemInstructions := by
  intro s g c a i x
  refine ⟨rfl, fun hg warp => exec_trap_warp hg warp, fun user => ⟨exec_sysret_user user, exec_idle_user user⟩,
    fun priv => ⟨fun core pending => ?core, fun t warp held long => ?long, fun warp ready => ?ready⟩,
    fun hg ha => ⟨fun v sum small => ?sets, fun out => ?out⟩⟩
  case core =>
    rw [exec_idle_supervisor priv, if_pos]
    simpa [idleEnds, core] using pending
  case long =>
    rw [exec_idle_supervisor priv, if_pos]
    simpa [idleEnds, warp, waited, held, -BitVec.toNat_sub] using long
  case ready =>
    rw [exec_idle_supervisor priv, if_neg]
    simp [idleEnds, warp, waited, ready]
  case sets =>
    rw [exec_setx hg ha, sum, if_pos (by omega)]
    rfl
  case out => rw [exec_setx hg ha, if_neg (by omega)]

end Sys2Proof.Proofs
end

section
/-! SUPPORT. What performing the memory operations that a context has issued can change (15 R292, R299): memory and what goes
with it, and of a context its registers, flags and operations. Its strands stay where they are. -/

namespace Sys2Proof.Proofs

open Sys2Proof Sys2Proof.Machine Sys2Proof.Laws

/-! ## The relation -/

/-- What of a strand its memory operations leave as it is: everything but the replayed operation that it waits for. -/
def placeOf (x : Strand) : Strand := { x with replayOp := none }

/-- What of a context its memory operations leave as it is, beside its strands' places. -/
def keptOf (c : Ctx) : Ctx := { c with sregs := [], vregs := [], fflags := 0, ops := [], strands := [], ipend := 0 }

/-- Two contexts differ in what memory operations change alone. -/
def sameCtx (c d : Ctx) : Prop := keptOf d = keptOf c ∧ ∀ i, placeOf (getStrand d i) = placeOf (getStrand c i)

/-- What of the module memory operations leave as it is, beside the contexts. -/
def keptState (s : State) : State :=
  { s with ctxs := [], dies := [], parts := [], mem := [], poison := [], lines := [], heldWrites := [], due := [],
           sessions := [], postponed := false }

/-- State t comes from state s by changes of what memory operations, their recording and their captures can change. -/
structure Changes (s t : State) : Prop where
  kept : keptState t = keptState s
  ctxs : ∀ k, sameCtx (getCtx s k) (getCtx t k)
  form : memoryOk s → memoryOk t

/-- State t comes from state s by memory operations performed: without a session nothing is captured. -/
structure Settles (s t : State) : Prop extends Changes s t where
  sessions : s.sessions = [] → t.sessions = []

theorem sameCtx.refl (c : Ctx) : sameCtx c c := ⟨rfl, fun _ => rfl⟩

theorem sameCtx.trans {c d e : Ctx} (h : sameCtx c d) (h' : sameCtx d e) : sameCtx c e :=
  ⟨h'.1.trans h.1, fun i => (h'.2 i).trans (h.2 i)⟩

/-- Contexts with the same strands that agree beside what memory operations change. -/
theorem sameCtx.of_strands {c d : Ctx} (kept : keptOf d = keptOf c) (strands : d.strands = c.strands) : sameCtx c d :=
  ⟨kept, fun i => by rw [getStrand, getStrand, strands]⟩

theorem Changes.trans {s t u : State} (h : Changes s t) (h' : Changes t u) : Changes s u :=
  ⟨h'.kept.trans h.kept, fun k => (h.ctxs k).trans (h'.ctxs k), h'.form ∘ h.form⟩

theorem changes_putSession (s : State) (k : Nat) (x : Session) : Changes s (putSession s k x) :=
  ⟨rfl, fun _ => sameCtx.refl _, id⟩

namespace Settles

theorem refl (s : State) : Settles s s := ⟨⟨rfl, fun _ => sameCtx.refl _, id⟩, id⟩

theorem trans {s t u : State} (h : Settles s t) (h' : Settles t u) : Settles s u :=
  ⟨h.toChanges.trans h'.toChanges, h'.sessions ∘ h.sessions⟩

/-- A change of neither a context nor a session, with memory in its form. -/
theorem of_quiet {s t : State} (kept : keptState t = keptState s) (sessions : t.sessions = s.sessions) (ctxs : t.ctxs = s.ctxs)
    (form : memoryOk s → memoryOk t) : Settles s t :=
  ⟨⟨kept, fun k => by rw [getCtx, getCtx, ctxs]; exact sameCtx.refl _, form⟩, fun h => sessions.trans h⟩

theorem putCtx {s : State} {k : Nat} {c : Ctx} (h : sameCtx (getCtx s k) c) : Settles s (putCtx s k c) := by
  refine ⟨⟨rfl, fun j => ?_, id⟩, id⟩
  by_cases hj : j = k
  · subst hj
    rwa [getCtx_putCtx]
  · rw [getCtx_putCtx_ne s c hj]
    exact sameCtx.refl _

theorem foldl {α : Type} {f : State → α → State} (h : ∀ s x, Settles s (f s x)) (s : State) (xs : List α) :
    Settles s (xs.foldl f s) := by
  induction xs generalizing s with
  | nil => exact refl s
  | cons x xs ih => exact (h s x).trans (ih (f s x))

theorem focus {s t : State} (h : Settles s t) : t.focus = s.focus := by
  change (keptState t).focus = (keptState s).focus
  rw [h.kept]

theorem partCount {s t : State} (h : Settles s t) : t.partCount = s.partCount := by
  change (keptState t).partCount = (keptState s).partCount
  rw [h.kept]

theorem cur {s t : State} (h : Settles s t) : sameCtx (cur s) (cur t) := by
  rw [Machine.cur, Machine.cur, h.focus]
  exact h.ctxs _

end Settles

/-! ## Contexts -/

theorem sameCtx.orFlags (c : Ctx) (f : BitVec 6) : sameCtx c (orFlags c f) := .of_strands rfl rfl

theorem sameCtx.putV (c : Ctx) (r l : Nat) (x : Reg) : sameCtx c (putV c r l x) := .of_strands rfl rfl

theorem sameCtx.putS (c : Ctx) (n : Nat) (x : Reg) : sameCtx c (putS c n x) := by
  unfold Machine.putS
  split
  · exact .refl c
  · exact .of_strands rfl rfl

theorem sameCtx.foldl {α : Type} {f : Ctx → α → Ctx} (h : ∀ c x, sameCtx c (f c x)) (c : Ctx) (xs : List α) :
    sameCtx c (xs.foldl f c) := by
  induction xs generalizing c with
  | nil => exact .refl c
  | cons x xs ih => exact (h c x).trans (ih (f c x))

theorem sameCtx.fillLanes (c : Ctx) (dst : Nat) (as : List Access) : sameCtx c (fillLanes c dst as) := by
  induction as generalizing c with
  | nil => exact .refl c
  | cons a as ih => exact ((sameCtx.putV c _ _ _).trans (sameCtx.orFlags _ _)).trans (ih _)

theorem sameCtx.settleLong (c : Ctx) : sameCtx c (settleLong c) :=
  (sameCtx.foldl (fun c (o : MemOp) => sameCtx.fillLanes c o.dst _) c _).trans (.of_strands rfl rfl)

theorem sameCtx.fillAccess (c : Ctx) (o : MemOp) (a : Access) : sameCtx c (fillAccess c o a) := by
  have lane := fun c r x bad => sameCtx.putV c (o.dst + r) a.lane { val := x, poison := bad }
  unfold Machine.fillAccess
  cases o.kind <;> dsimp only [fillLane]
  case load | loadSplat =>
    split_ifs
    · exact (lane _ _ _ _).trans (lane _ _ _ _)
    · exact lane _ _ _ _
    · exact lane _ _ _ _
  case atomic => exact lane _ _ _ _
  case cellStv => exact lane _ _ _ _
  case cellLdv => exact (lane _ _ _ _).trans (lane _ _ _ _)
  case cellRcn => exact (lane _ _ _ _).trans (lane _ _ _ _)
  case scalarLoad => exact sameCtx.putS _ _ _
  case scalarAtomic => exact sameCtx.putS _ _ _
  case arrive => exact sameCtx.putS _ _ _
  all_goals exact .refl c

theorem sameCtx.fillAll (c : Ctx) (o : MemOp) (as : List Access) : sameCtx c (fillAll c o as) := by
  induction as generalizing c with
  | nil => exact .refl c
  | cons a as ih => exact (sameCtx.fillAccess c o a).trans (ih _)

/-- A strand that learns of an event that differed stays in its place. -/
theorem sameCtx.putStrand_replay (c : Ctx) (i : Nat) (r : Option ReplayOp) :
    sameCtx c (putStrand c i { getStrand c i with replayOp := r }) := by
  refine ⟨rfl, fun j => ?_⟩
  by_cases h : j = i
  · subst h
    rw [getStrand_putStrand]
    rfl
  · rw [getStrand_putStrand_ne c _ h]

/-! ## Memory -/

theorem settles_writeBytes (s : State) (p : Nat) (bs : List Byte) (bad : Bool) : Settles s (writeBytes s p bs bad) :=
  .of_quiet rfl rfl rfl (writeBytes_wf s p bs bad)

theorem settles_later (s : State) (a : Act) : Settles s (later s a) := .of_quiet rfl rfl rfl id

theorem settles_notePark (s : State) (p n : Nat) : Settles s (notePark s p n) := by
  unfold notePark
  split
  · exact .refl s
  · refine Settles.foldl (fun s e => ?_) s _
    split
    · exact settles_later s _
    · exact .refl s

theorem settles_storeHome (s : State) (p : Nat) (bs : List Byte) (bad : Bool) : Settles s (storeHome s p bs bad) :=
  (settles_writeBytes s p bs bad).trans (settles_notePark _ p _)

theorem settles_mainWrite (s : State) (p a slot : Nat) (bs : List Byte) (bad : Bool) :
    Settles s (mainWrite s p a slot bs bad).1 := by
  unfold mainWrite
  split_ifs
  · exact .refl s
  · exact (settles_writeBytes s p bs bad).trans (.of_quiet rfl rfl rfl id)
  · exact settles_writeBytes s p bs bad
  · exact .refl s

theorem settles_postWrite (s : State) (pa slot : Nat) (bs : List Byte) : Settles s (postWrite s pa slot bs) := by
  unfold postWrite
  split
  · exact .refl s
  · split
    · exact .of_quiet rfl rfl rfl id
    · exact settles_mainWrite s _ pa slot bs false

theorem settles_storeAccess (s : State) (a : Access) (x : Nat) : Settles s (storeAccess s a x) := by
  unfold storeAccess
  split
  · exact settles_mainWrite s _ _ _ _ _
  · exact settles_storeHome s _ _ _

/-! ## Recording, replaying and capturing -/

theorem settles_putPart (s : State) (k : Nat) (x : Partition) : Settles s (putPart s k x) := .of_quiet rfl rfl rfl id

theorem settles_updLaunch (s : State) (key : Nat) (f : Launch → Launch) : Settles s (updLaunch s key f) :=
  settles_putPart s _ _

theorem settles_writeOwnKey (s : State) (pa : Nat) (bs : List Byte) : Settles s (writeOwnKey s pa bs) := by
  unfold writeOwnKey
  dsimp only
  split
  · exact settles_postWrite s _ _ _
  · exact (settles_postWrite s _ _ _).trans (settles_postWrite _ _ _ _)

theorem settles_recordEvent (s : State) (m : Mark) (v : Word) : Settles s (recordEvent s m v) := by
  unfold recordEvent
  dsimp only
  split
  · exact (settles_writeOwnKey s _ _).trans (settles_updLaunch _ _ _)
  · exact .refl s

theorem settles_recordAll (s : State) (es : List (Mark × Word)) : Settles s (recordAll s es) := by
  induction es generalizing s with
  | nil => exact .refl s
  | cons e es ih => exact (settles_recordEvent s e.1 e.2).trans (ih _)

theorem settles_setIpend (s : State) (c bit : Nat) : Settles s (setIpend s c bit) := .putCtx (.of_strands rfl rfl)

theorem settles_notifyParts (s : State) (bit : Nat) (ps : List Nat) : Settles s (notifyParts s bit ps) := by
  induction ps generalizing s with
  | nil => exact .refl s
  | cons p ps ih => exact ((settles_setIpend s _ bit).trans (settles_setIpend _ _ bit)).trans (ih _)

theorem settles_writeLineOwnKey (s : State) (e : Session) (pa : Nat) (bs : List Byte) :
    Settles s (writeLineOwnKey s e pa bs) := by
  unfold writeLineOwnKey
  split
  · exact settles_postWrite s _ _ _
  · exact .refl s

theorem settles_writeLinesOwnKey (s : State) (e : Session) (pa : Nat) (ls : List (List Byte)) :
    Settles s (writeLinesOwnKey s e pa ls) := by
  induction ls generalizing s pa with
  | nil => exact .refl s
  | cons l ls ih => exact (settles_writeLineOwnKey s e pa l).trans (ih _ _)

theorem changes_countWritten (s : State) (k n : Nat) : Changes s (countWritten s k n) := by
  unfold countWritten
  dsimp only
  split
  · exact (changes_putSession s k _).trans (settles_notifyParts _ 5 _).toChanges
  · exact changes_putSession s k _

theorem changes_flushChunk (s : State) (k : Nat) : Changes s (flushChunk s k) := by
  unfold flushChunk
  dsimp only
  split
  · exact changes_putSession s k _
  · split
    · exact (changes_putSession s k _).trans (changes_countWritten _ k _)
    · exact ((settles_writeLinesOwnKey s _ _ _).toChanges.trans (changes_putSession _ k _)).trans (changes_countWritten _ k _)

theorem changes_captureInto (s : State) (k : Nat) (isSealed : Bool) (words : List Word) :
    Changes s (captureInto s k isSealed words) := by
  unfold captureInto
  dsimp only
  split_ifs
  · exact (Settles.refl s).toChanges
  · exact changes_putSession s k _
  · exact changes_putSession s k _
  · exact (changes_putSession s k _).trans (changes_flushChunk _ k)
  · exact (settles_writeLineOwnKey s _ _ _).toChanges.trans (changes_countWritten _ k _)

theorem changes_foldl {α : Type} {f : State → α → State} (h : ∀ s x, Changes s (f s x)) (s : State) (xs : List α) :
    Changes s (xs.foldl f s) := by
  induction xs generalizing s with
  | nil => exact (Settles.refl s).toChanges
  | cons x xs ih => exact (h s x).trans (ih (f s x))

/-- Without a session nothing is captured. -/
theorem capture_closed {s : State} (h : s.sessions = []) (kind key : Nat) (words : List Word) :
    capture s kind key words = s := by
  rw [capture, h, List.foldl_nil]

theorem settles_capture (s : State) (kind key : Nat) (words : List Word) : Settles s (capture s kind key words) := by
  refine ⟨changes_foldl (fun t p => ?_) s s.sessions, fun h => (capture_closed h kind key words).symm ▸ h⟩
  split
  · exact changes_captureInto t p.1 _ words
  · exact (Settles.refl t).toChanges

theorem settles_captureStrand (s : State) (kind code : Nat) (who : Agent) (mask data : Word) :
    Settles s (captureStrand s kind code who mask data) := settles_capture s _ _ _

theorem settles_meetEvents (s : State) (es : List (Mark × Word)) : Settles s (meetEvents s es).1 := by
  induction es generalizing s with
  | nil => exact .refl s
  | cons e es ih =>
    obtain ⟨m, v⟩ := e
    rw [meetEvents]
    split
    · dsimp only
      split
      · exact (settles_updLaunch s _ _).trans (ih _)
      · dsimp only
        exact (((settles_updLaunch s _ _).trans (settles_captureStrand _ _ _ _ _ _)).trans
          (settles_captureStrand _ _ _ _ _ _)).trans (settles_updLaunch _ _ _)
    · exact ih s
    · exact ih s

theorem settles_meetStep (s : State) (key : Nat) (o : MemOp) (as : List Access) : Settles s (meetStep s key o as) := by
  have met := settles_meetEvents s (stepMarks s key o as)
  unfold meetStep
  split
  · next t h => simpa [h] using met
  · next t d h =>
    rw [h] at met
    dsimp only
    split
    · split
      · exact met.trans (.putCtx (sameCtx.putStrand_replay _ _ _))
      · exact met
    · exact met

/-! ## One step at a home -/

theorem settles_plainStep (s : State) (earlier : List MemOp) (k : OpKind) (a : Access) :
    Settles s (plainStep s earlier k a).1 := by
  unfold plainStep
  split
  · exact settles_storeAccess s a _
  · exact settles_storeAccess s a _
  · exact .refl s

theorem settles_plainLanes (s : State) (earlier : List MemOp) (k : OpKind) (as : List Access) :
    Settles s (plainLanes s earlier k as).1 := by
  induction as generalizing s with
  | nil => exact .refl s
  | cons a as ih => exact (settles_plainStep s earlier k a).trans (ih _)

theorem settles_atomicHome (s : State) (f n : Nat) (as : List Access) : Settles s (atomicHome s f n as).1 := by
  unfold atomicHome
  split
  · exact .refl s
  · split
    · exact .refl s
    · dsimp only
      split
      · exact .refl s
      · exact settles_storeHome s _ _ _

theorem settles_arriveHome (s : State) (as : List Access) : Settles s (arriveHome s as).1 := by
  unfold arriveHome
  split
  · exact .refl s
  · split
    · exact .refl s
    · exact settles_storeHome s _ _ _

theorem settles_putDie (s : State) (d : Nat) (x : Die) : Settles s (putDie s d x) := .of_quiet rfl rfl rfl id

theorem settles_performUnit (s : State) (earlier : List MemOp) (o : MemOp) (as : List Access) :
    Settles s (performUnit s earlier o as).1 := by
  unfold performUnit
  split
  · exact .refl s
  · split
    · exact settles_putDie s _ _
    · split
      · exact settles_atomicHome s _ _ _
      · exact settles_atomicHome s _ _ _
      · exact settles_arriveHome s _
      · exact settles_plainLanes s earlier _ _

/-! ## Operations performed -/

theorem settles_performAt (s : State) (key id i : Nat) : Settles s (performAt s key id i) := by
  unfold performAt
  dsimp only
  split
  · exact .refl s
  · split
    · exact .refl s
    · split
      · exact .refl s
      · refine ((settles_performUnit s _ _ _).trans (.putCtx ?_)).trans
          ((settles_recordAll _ _).trans (settles_meetStep _ key _ _))
        exact (sameCtx.foldl (fun c b => sameCtx.orFlags c _) _ _).trans (.of_strands rfl rfl)

theorem settles_performList (s : State) (key id : Nat) (is : List Nat) : Settles s (performList s key id is) := by
  induction is generalizing s with
  | nil => exact .refl s
  | cons i is ih =>
    rw [performList]
    split
    · exact (settles_performAt s key id i).trans (ih _)
    · exact ih s

theorem settles_finishOp (s : State) (key id : Nat) : Settles s (finishOp s key id) := by
  unfold finishOp
  dsimp only
  split
  · exact .refl s
  · split
    · exact .putCtx ((sameCtx.fillAll _ _ _).trans (.of_strands rfl rfl))
    · exact .refl s

theorem settles_cutFrozen (s : State) (key id : Nat) : Settles s (cutFrozen s key id) := by
  unfold cutFrozen
  split
  · exact .putCtx (.of_strands rfl rfl)
  · exact .refl s

theorem settles_completeOp (s : State) (key id : Nat) : Settles s (completeOp s key id) := by
  refine (settles_cutFrozen s key id).trans ?_
  unfold completeOp
  dsimp only
  split
  · exact .refl _
  · split
    · exact (settles_performList _ key id _).trans (settles_finishOp _ key id)
    · split
      · exact .putCtx (.of_strands rfl rfl)
      · exact .refl _

theorem settles_completeOps (s : State) (key : Nat) (ids : List Nat) : Settles s (completeOps s key ids) := by
  induction ids generalizing s with
  | nil => exact .refl s
  | cons id ids ih => exact (settles_completeOp s key id).trans (ih _)

theorem settles_settleThose (s : State) (key : Nat) (want : MemOp → Bool) : Settles s (settleThose s key want) :=
  settles_completeOps s key _

theorem settles_settleFrame (s : State) : Settles s (settleFrame s) := settles_settleThose s _ _

theorem settles_settleEntry (s : State) : Settles s (settleEntry s) :=
  (settles_settleThose s _ _).trans (settles_settleFrame _)

theorem settles_settleCtx (s : State) (key : Nat) : Settles s (settleCtx s key) :=
  (Settles.putCtx (sameCtx.settleLong _)).trans (settles_completeOps _ key _)

end Sys2Proof.Proofs
end

section
/-! SUPPORT. Bytes of memory after a write (01 R28, 12 R248): what was written reads back, lowest address first, and every other
byte keeps its value, whatever form memory has. -/

namespace Sys2Proof.Proofs

open Sys2Proof Sys2Proof.Machine Sys2Proof.Laws

theorem mapGet_append_above_miss {α : Type} (d : α) (a b : List (Nat × α)) {k : Nat} (hb : ∀ e ∈ b, e.1 ≠ k) :
    mapGet d (a ++ b) k = mapGet d a k := by
  induction a with
  | nil =>
    induction b with
    | nil => rfl
    | cons e b ih =>
      have miss : k ≠ e.1 := Ne.symm (hb e List.mem_cons_self)
      have rest := ih fun x hx => hb x (List.mem_cons_of_mem e hx)
      simp only [List.nil_append] at rest ⊢
      rw [← rest]
      simp [mapGet, miss]
  | cons e a ih =>
    obtain ⟨j, v⟩ := e
    simp only [List.cons_append, mapGet, ih]

theorem mapGet_writeCells (m : List Host.Cell) (p : Nat) (bs : List Byte) (a : Nat) :
    mapGet unlistedByte (writeCells m p bs) a =
      if p ≤ a ∧ a < p + bs.length then bs.getD (a - p) unlistedByte else mapGet unlistedByte m a := by
  have below : ∀ e ∈ m.filter (fun c => decide (c.1 < p)), e.1 < p := fun e he => by
    simpa using (List.mem_filter.mp he).2
  have above : ∀ e ∈ m.filter (fun c => decide (p + bs.length ≤ c.1)), p + bs.length ≤ e.1 := fun e he => by
    simpa using (List.mem_filter.mp he).2
  have run := cellRun_below p bs
  have run_from : ∀ e ∈ cellRun p bs, p ≤ e.1 := fun e he => by
    clear run above below
    induction bs generalizing p with
    | nil => exact absurd he List.not_mem_nil
    | cons b bs ih =>
      by_cases hb : b = unlistedByte
      · rw [cellRun, if_pos hb] at he
        exact (Nat.le_succ p).trans (ih (p + 1) he)
      · rw [cellRun, if_neg hb] at he
        obtain rfl | he := List.mem_cons.mp he
        · exact le_refl _
        · exact (Nat.le_succ p).trans (ih (p + 1) he)
  unfold writeCells
  split_ifs with inside
  · rw [mapGet_append_above_miss _ _ _ fun e he => by have := above e he; omega,
      mapGet_append_below _ _ _ fun e he => by have := below e he; omega]
    have := mapGet_cellRun p (a - p) bs
    rwa [Nat.add_sub_cancel' inside.1] at this
  · by_cases h : a < p
    · rw [List.append_assoc, mapGet_append_above_miss _ _ _ fun e he => by
        obtain he | he := List.mem_append.mp he
        · have := run_from e he; omega
        · have := above e he; omega]
      exact mapGet_filter _ m (fun j => decide (j < p)) (by simpa using h)
    · rw [mapGet_append_below _ _ _ fun e he => by
        obtain he | he := List.mem_append.mp he
        · have := below e he; omega
        · have := run e he; omega]
      exact mapGet_filter _ m (fun j => decide (p + bs.length ≤ j)) (by simpa using by omega)

theorem readByte_writeBytes (s : State) (p : Nat) (bs : List Byte) (bad : Bool) (a : Nat) :
    readByte (writeBytes s p bs bad) a = if p ≤ a ∧ a < p + bs.length then bs.getD (a - p) 0 else readByte s a :=
  mapGet_writeCells s.mem p bs a

theorem readByte_writeBytes_in (s : State) (p : Nat) (bs : List Byte) (bad : Bool) {i : Nat} (h : i < bs.length) :
    readByte (writeBytes s p bs bad) (p + i) = bs.getD i 0 := by
  rw [readByte_writeBytes, if_pos (by omega), Nat.add_sub_cancel_left]

theorem readByte_writeBytes_out (s : State) (p : Nat) (bs : List Byte) (bad : Bool) {a : Nat}
    (h : a < p ∨ p + bs.length ≤ a) : readByte (writeBytes s p bs bad) a = readByte s a := by
  rw [readByte_writeBytes, if_neg (by omega)]

/-- A write that a core watches only makes something due. -/
theorem notePark_eq (s : State) (p n : Nat) : ∃ acts, notePark s p n = { s with due := s.due ++ acts } := by
  have folds : ∀ (es : List (Nat × Park)) (watched : Nat × Park → Bool) (act : Nat × Park → Act) (t : State),
      ∃ acts, es.foldl (fun acc e => if watched e then later acc (act e) else acc) t = { t with due := t.due ++ acts } := by
    intro es watched act
    induction es with
    | nil => exact fun t => ⟨[], by simp⟩
    | cons e es ih =>
      intro t
      rw [List.foldl_cons]
      split
      · obtain ⟨acts, h⟩ := ih (later t (act e))
        exact ⟨act e :: acts, by rw [h]; simp [later]⟩
      · exact ih t
  unfold notePark
  split
  · exact ⟨[], by simp⟩
  · exact folds _ _ _ s

theorem notePark_mem (s : State) (p n : Nat) : (notePark s p n).mem = s.mem := by
  obtain ⟨acts, h⟩ := notePark_eq s p n
  rw [h]

theorem readByte_storeHome (s : State) (p : Nat) (bs : List Byte) (bad : Bool) (a : Nat) :
    readByte (storeHome s p bs bad) a = if p ≤ a ∧ a < p + bs.length then bs.getD (a - p) 0 else readByte s a := by
  rw [storeHome, readByte, notePark_mem]
  exact readByte_writeBytes s p bs bad a

/-! ## Numbers as bytes -/

theorem ofBytes_toBytes (x n : Nat) : ofBytes (toBytes x n) = x % 256 ^ n := by
  induction n generalizing x with
  | zero => simp [toBytes, ofBytes, Nat.mod_one]
  | succ n ih =>
    have split_ := Nat.mod_mul (x := x) (a := 256) (b := 256 ^ n)
    rw [toBytes, ofBytes, ih, BitVec.toNat_ofNat, Nat.pow_succ' (m := 256), split_]

theorem readNat_congr {s t : State} {p q n : Nat} (h : ∀ i < n, readByte t (q + i) = readByte s (p + i)) :
    readNat t q n = readNat s p n := by
  rw [readNat, readNat, readBytes, readBytes]
  exact congrArg ofBytes (List.map_congr_left fun i hi => h i (List.mem_range.mp hi))

/-- A run that holds given bytes reads as their number. -/
theorem readNat_of_bytes {s : State} {p : Nat} {bs : List Byte} (h : ∀ i < bs.length, readByte s (p + i) = bs.getD i 0) :
    readNat s p bs.length = ofBytes bs := by
  rw [readNat, readBytes]
  congr 1
  apply List.ext_getElem (by simp)
  intro i hi hi'
  rw [List.getElem_map, List.getElem_range, h i hi', List.getD_eq_getElem _ _ hi']

theorem readNat_writeBytes (s : State) (p x n : Nat) (bad : Bool) :
    readNat (writeBytes s p (toBytes x n) bad) p n = x % 256 ^ n := by
  have read := readNat_of_bytes (s := writeBytes s p (toBytes x n) bad) (p := p) (bs := toBytes x n)
    fun i hi => readByte_writeBytes_in s p _ bad hi
  rwa [length_toBytes, ofBytes_toBytes] at read

theorem length_wordsBytes (ws : List Word) : (wordsBytes ws).length = 8 * ws.length := by
  induction ws with
  | nil => rfl
  | cons w ws ih =>
    rw [wordsBytes, List.flatMap_cons, List.length_append, length_toBytes, List.length_cons]
    rw [wordsBytes] at ih
    omega

/-- Byte i of doubleword k of a list of doublewords. -/
theorem getD_wordsBytes (ws : List Word) {k i : Nat} (hk : k < ws.length) (hi : i < 8) :
    (wordsBytes ws).getD (8 * k + i) 0 = (toBytes (ws.getD k 0).toNat 8).getD i 0 := by
  induction ws generalizing k with
  | nil => exact absurd hk (Nat.not_lt_zero k)
  | cons w ws ih =>
    rw [wordsBytes, List.flatMap_cons]
    cases k with
    | zero =>
      rw [List.getD_append _ _ _ _ (by simpa using hi)]
      simp
    | succ k =>
      rw [List.getD_append_right _ _ _ _ (by simp; omega), length_toBytes, List.getD_cons_succ,
        ← ih (Nat.lt_of_succ_lt_succ hk), wordsBytes]
      congr 1
      omega

/-- Doubleword k of a run of memory that holds a list of doublewords. -/
theorem readNat_words {s : State} {p : Nat} {ws : List Word}
    (h : ∀ i < 8 * ws.length, readByte s (p + i) = (wordsBytes ws).getD i 0) {k : Nat} (hk : k < ws.length) :
    readNat s (p + 8 * k) 8 = (ws.getD k 0).toNat := by
  have read := readNat_of_bytes (s := s) (p := p + 8 * k) (bs := toBytes (ws.getD k 0).toNat 8) fun i hi => by
    rw [length_toBytes] at hi
    rw [Nat.add_assoc, h _ (by omega), getD_wordsBytes ws hk hi]
  rw [length_toBytes, ofBytes_toBytes] at read
  rw [read, Nat.mod_eq_of_lt (by simpa using (ws.getD k 0).isLt)]

end Sys2Proof.Proofs
end

section
/-! SUPPORT. Taking a trap on a warp (21 R409 to R411) and returning from one (21 R414): the frame as it is written and as it is
read, and the context before and after. -/

namespace Sys2Proof.Proofs

open Sys2Proof Sys2Proof.Machine Sys2Proof.Laws

/-! ## What settling leaves -/

section
variable {c d : Ctx}

theorem sameCtx.status (h : sameCtx c d) : d.status = c.status := by
  change (keptOf d).status = (keptOf c).status
  rw [h.1]

theorem sameCtx.tvec (h : sameCtx c d) : d.tvec = c.tvec := by
  change (keptOf d).tvec = (keptOf c).tvec
  rw [h.1]

theorem sameCtx.tframe (h : sameCtx c d) : d.tframe = c.tframe := by
  change (keptOf d).tframe = (keptOf c).tframe
  rw [h.1]

theorem sameCtx.warpid (h : sameCtx c d) : d.warpid = c.warpid := by
  change (keptOf d).warpid = (keptOf c).warpid
  rw [h.1]

theorem sameCtx.laneCalls (h : sameCtx c d) : d.laneCalls = c.laneCalls := by
  change (keptOf d).laneCalls = (keptOf c).laneCalls
  rw [h.1]

theorem sameCtx.entryMask (h : sameCtx c d) : d.entryMask = c.entryMask := by
  change (keptOf d).entryMask = (keptOf c).entryMask
  rw [h.1]

theorem sameCtx.cause1 (h : sameCtx c d) : d.cause1 = c.cause1 := by
  change (keptOf d).cause1 = (keptOf c).cause1
  rw [h.1]

theorem sameCtx.launchid (h : sameCtx c d) : d.launchid = c.launchid := by
  change (keptOf d).launchid = (keptOf c).launchid
  rw [h.1]

theorem sameCtx.isPriv (h : sameCtx c d) : isPriv d = isPriv c := by rw [Machine.isPriv, Machine.isPriv, h.status]

theorem sameCtx.isInTrap (h : sameCtx c d) : isInTrap d = isInTrap c := by
  rw [Machine.isInTrap, Machine.isInTrap, h.status]

end

section
variable {x y : Strand}

theorem mask_of_placeOf (h : placeOf y = placeOf x) : y.mask = x.mask := by
  change (placeOf y).mask = (placeOf x).mask
  rw [h]

theorem valid_of_placeOf (h : placeOf y = placeOf x) : y.valid = x.valid := by
  change (placeOf y).valid = (placeOf x).valid
  rw [h]

theorem srepc_of_placeOf (h : placeOf y = placeOf x) : y.srepc = x.srepc := by
  change (placeOf y).srepc = (placeOf x).srepc
  rw [h]

theorem pcWord_of_placeOf (h : placeOf y = placeOf x) : pcWord y = pcWord x := by
  change pcWord (placeOf y) = pcWord (placeOf x)
  rw [h]

end

theorem Settles.curStrand {s t : State} (h : Settles s t) : placeOf (curStrand t) = placeOf (curStrand s) := by
  rw [Machine.curStrand, Machine.curStrand, h.focus]
  exact h.cur.2 _

/-! ## The frame in the spill window (21 R411) -/

/-- Where the frame of a warp whose TFRAME lies in its spill window stands. -/
def framePlace (s : State) : Nat := spillPlace s.focus.key ((cur s).tframe.toNat - spillBase)

theorem frameAddress_spill {c : Ctx} (h : regionOf c.tframe.toNat = .spill) : frameAddress c = c.tframe.toNat := by
  rw [frameAddress, h]

theorem spill_range {va : Nat} : regionOf va = .spill ↔ spillBase ≤ va ∧ va < spillBase + 0x4000 := by
  unfold regionOf spillBase groupBase
  split_ifs <;> simp_all
  omega

/-- Whether a frame in the spill window fails its checks depends on the address alone. -/
theorem frameFailure_spill {s : State} (a : Acc) (warp : isSystem s.focus.key = false)
    (spill : regionOf (cur s).tframe.toNat = .spill) :
    frameFailure s a = if regionOf ((cur s).tframe.toNat + frameSize - 1) ≠ .spill then some 0x0B
      else if spillBase + 0x3C00 ≤ (cur s).tframe.toNat + frameSize - 1 then some 0x0C else none := by
  simp only [frameFailure, frameAddress_spill spill, warp, spill, Bool.false_eq_true, if_false]

theorem frameFailure_same {s t : State} (a b : Acc) (warp : isSystem s.focus.key = false)
    (spill : regionOf (cur s).tframe.toNat = .spill) (focus : t.focus = s.focus) (same : sameCtx (cur s) (cur t)) :
    frameFailure t b = frameFailure s a := by
  rw [frameFailure_spill a warp spill, frameFailure_spill b (focus ▸ warp) (same.tframe ▸ spill), same.tframe]

/-- The address of a frame that passes its checks, with the room for all of it. -/
theorem frame_fits {s : State} (a : Acc) (warp : isSystem s.focus.key = false) (spill : regionOf (cur s).tframe.toNat = .spill)
    (good : frameFailure s a = none) :
    spillBase ≤ (cur s).tframe.toNat ∧ (cur s).tframe.toNat + frameSize ≤ spillBase + 0x3C00 := by
  rw [frameFailure_spill a warp spill] at good
  have low := (spill_range.mp spill).1
  split_ifs at good with h h'
  rw [frameSize] at h' ⊢
  omega

theorem frameHeld_warp {s : State} (warp : isSystem s.focus.key = false) : frameHeld s = false := by
  simp [frameHeld, frameWalkHeld, warp]

theorem settles_writeFrameLines (s : State) (key va : Nat) (ls : List (List Byte)) :
    Settles s (writeFrameLines s key va ls) := by
  induction ls generalizing s va with
  | nil => exact .refl s
  | cons l ls ih =>
    rw [writeFrameLines]
    refine Settles.trans ?_ (ih _ _)
    split
    · exact settles_writeBytes s _ _ _
    · exact settles_mainWrite s _ _ _ _ _
    · exact .refl s

theorem settles_writeFrame (s : State) (ws : List Word) : Settles s (writeFrame s ws) := by
  unfold writeFrame
  dsimp only
  split
  · exact settles_storeHome s _ _ _
  · exact settles_storeHome s _ _ _
  · exact settles_writeFrameLines s _ _ _

theorem readByte_writeFrame {s : State} (ws : List Word) (spill : regionOf (cur s).tframe.toNat = .spill) {i : Nat}
    (h : i < 8 * ws.length) : readByte (writeFrame s ws) (framePlace s + i) = (wordsBytes ws).getD i 0 := by
  rw [writeFrame]
  simp only [frameAddress_spill spill, spill]
  rw [readByte_storeHome, length_wordsBytes, if_pos (by rw [framePlace]; omega), framePlace, Nat.add_sub_cancel_left]

theorem length_laneCallWords (r : LaneCall) : (laneCallWords r).length = 72 := by simp [laneCallWords]

theorem length_strandWords (x : Strand) : (strandWords x).length = 3 := by simp [strandWords]

theorem length_serialWords (r : Serial) : (serialWords r).length = 5 := by simp [serialWords]

theorem length_frameWords (s : State) (t : TrapInfo) : (frameWords s t).length = 384 := by
  simp [frameWords, strandTableWords, serialTableWords, List.length_flatMap, length_laneCallWords, length_strandWords,
    length_serialWords, List.map_const']

/-! ## Entering a handler (21 R409) -/

theorem releasePark_focus (s : State) (key slots : Nat) : (releasePark s key slots).focus = s.focus := by
  unfold releasePark
  split <;> rfl

theorem releasePark_ctxs (s : State) (key slots : Nat) : (releasePark s key slots).ctxs = s.ctxs := by
  unfold releasePark
  split <;> rfl

theorem cur_releasePark (s : State) (key slots : Nat) : cur (releasePark s key slots) = cur s := by
  rw [cur, cur, getCtx, getCtx, releasePark_focus, releasePark_ctxs]

theorem curStrand_releasePark (s : State) (key slots : Nat) : curStrand (releasePark s key slots) = curStrand s := by
  rw [curStrand, curStrand, cur_releasePark, releasePark_focus]

/-- The state in which a trap's frame is written: what must be performed before has been. -/
def readyToFrame (s : State) : State := settleEntry (releasePark s s.focus.key 255)

/-- The state in which a trap's frame has been written. -/
def framed (s : State) (t : TrapInfo) : State := writeFrame (readyToFrame s) (frameWords (readyToFrame s) t)

/-- The context with its other strands suspended, before the trapping strand moves (21 R409). -/
def handlerCtx (s : State) (cause : BitVec 8) : Ctx :=
  let st := statusBit (statusBit (stopLwaits (cur s)).status 0 true) 5 true
  suspendOthers { stopLwaits (cur s) with
    status := if isSystem s.focus.key then statusBit st 1 false else st, cause1 := cause,
    entryMask := (curStrand s).mask } s.focus.slot

/-- The state after a hit of a breakpoint or a watchpoint has been noted. -/
def noteHit (s : State) (cause : BitVec 8) : State :=
  let part := partOf s (keyDie s.focus.key)
  let p := getPart s part
  if cause = 0x12 ∨ cause = 0x13 then
    setIpendPart (putPart s part { p with hits := p.hits ++ [(s.focus.key, s.time)] }) part 5
  else s

/-- The state in which the handler is entered, from the one in which the frame has been written. -/
def handlerState (u : State) (cause : BitVec 8) : State :=
  noteHit (setCur u (putStrand (handlerCtx u cause) u.focus.slot (enterHandler (handlerCtx u cause) (curStrand u)))) cause

/-- The state in which a trap's checks are made: long results have landed and the trap is captured. -/
def trapped (s : State) (t : TrapInfo) : State :=
  let u := setCur s (settleLong (cur s))
  captureStrand u (traceKind t.cause) (if traceKind t.cause = 4 then t.cause.toNat else 0) u.focus (curStrand u).mask
    (if t.cause = 0x13 then t.taddr else 0)

theorem enterTrap_eq (s : State) (t : TrapInfo) :
    enterTrap s t =
      if isInTrap (settleLong (cur s)) then doubleTrap (trapped s t) (settleLong (cur s)).cause1 t.cause
      else
        match frameFailure (trapped s t) with
        | some e => doubleTrap (trapped s t) t.cause e
        | none => handlerState (framed (trapped s t) t) t.cause := by
  unfold enterTrap trapped
  dsimp only
  rw [cur_setCur]
  generalize captureStrand (setCur s (settleLong (cur s))) _ _ _ _ _ = u
  refine if_congr Iff.rfl rfl ?_
  generalize frameFailure u = failure
  cases failure
  case some e => rfl
  case none =>
    unfold handlerState noteHit handlerCtx framed readyToFrame
    rfl

/-- Without a session a trap is not captured. -/
theorem trapped_closed {s : State} (t : TrapInfo) (closed : s.sessions = []) :
    trapped s t = setCur s (settleLong (cur s)) :=
  capture_closed (s := setCur s (settleLong (cur s))) closed _ _ _

theorem settles_trapped (s : State) (t : TrapInfo) : Settles s (trapped s t) :=
  (Settles.putCtx (sameCtx.settleLong _)).trans (settles_captureStrand _ _ _ _ _ _)

theorem takeTrap_enters {s : State} {t : TrapInfo} (warp : isSystem s.focus.key = false) (outside : isInTrap (cur s) = false)
    (good : frameFailure s = none) (spill : regionOf (cur s).tframe.toNat = .spill) (ready : entryEarly s = false) :
    takeTrap s t = handlerState (framed (trapped s t) t) t.cause := by
  have settled := settles_trapped s t
  rw [takeTrap, frameHeld_warp warp, ready, Bool.or_self, Bool.and_false, if_neg Bool.false_ne_true, enterTrap_eq,
    (sameCtx.settleLong (cur s)).isInTrap, outside, if_neg Bool.false_ne_true,
    frameFailure_same .store .store warp spill settled.focus settled.cur, good]

/-- What the frame holds is what the trapping strand and its context were. -/
theorem sameCtx_entry (s : State) (t : TrapInfo) :
    (readyToFrame (trapped s t)).focus = s.focus ∧ sameCtx (cur s) (cur (readyToFrame (trapped s t))) ∧
      placeOf (curStrand (readyToFrame (trapped s t))) = placeOf (curStrand s) := by
  have first := settles_trapped s t
  have last := settles_settleEntry (releasePark (trapped s t) (trapped s t).focus.key 255)
  unfold readyToFrame
  refine ⟨?_, ?_, ?_⟩
  · rw [last.focus, releasePark_focus, first.focus]
  · have settled := last.cur
    rw [cur_releasePark] at settled
    exact first.cur.trans settled
  · rw [last.curStrand, curStrand_releasePark, first.curStrand]

theorem sameCtx_unmarkLwait (c : Ctx) (x : Strand) : sameCtx c (unmarkLwait c x) := by
  unfold unmarkLwait
  split
  · exact .refl c
  · exact sameCtx.putS _ _ _

theorem keptOf_stopLwaits (c : Ctx) : keptOf (stopLwaits c) = keptOf c :=
  (sameCtx.foldl (fun c (e : Nat × Strand) => sameCtx_unmarkLwait c e.2) c c.strands).1

theorem setIpendPart_warp {s : State} (part bit : Nat) {k : Nat} (warp : isSystem k = false) :
    getCtx (setIpendPart s part bit) k = getCtx s k := by
  have other (c : Nat) : k ≠ systemBase + c := by
    rintro rfl
    simp [isSystem] at warp
  simp only [setIpendPart, setIpend]
  rw [getCtx_putCtx_ne _ _ (other _), getCtx_putCtx_ne _ _ (other _)]

theorem cur_noteHit {s : State} (cause : BitVec 8) (warp : isSystem s.focus.key = false) :
    cur (noteHit s cause) = cur s ∧ (noteHit s cause).focus = s.focus ∧ (noteHit s cause).mem = s.mem := by
  unfold noteHit
  dsimp only
  split_ifs
  · exact ⟨setIpendPart_warp _ _ warp, rfl, rfl⟩
  · exact ⟨rfl, rfl, rfl⟩

theorem mem_mapPut {α : Type} [DecidableEq α] {d : α} {m : List (Nat × α)} {k : Nat} {x : α} {e : Nat × α}
    (h : e ∈ mapPut d m k x) : e ∈ m ∨ e = (k, x) := by
  have erased : ∀ m : List (Nat × α), e ∈ mapErase m k → e ∈ m := fun m => by
    induction m with
    | nil => exact id
    | cons a m ih =>
      obtain ⟨j, v⟩ := a
      rw [mapErase]
      split_ifs
      · exact fun h => List.mem_cons_of_mem _ (ih h)
      · exact fun h => (List.mem_cons.mp h).elim (fun h => h ▸ List.mem_cons_self) fun h => List.mem_cons_of_mem _ (ih h)
  have inserted : ∀ m : List (Nat × α), e ∈ mapInsert m k x → e ∈ m ∨ e = (k, x) := fun m => by
    induction m with
    | nil => exact fun h => .inr (List.mem_singleton.mp h)
    | cons a m ih =>
      obtain ⟨j, v⟩ := a
      rw [mapInsert]
      intro h
      split_ifs at h
      all_goals simp only [List.mem_cons] at h ⊢
      all_goals tauto
  unfold mapPut at h
  split_ifs at h
  · exact .inl (erased m h)
  · exact inserted m h

/-! ## The context in the handler -/

theorem handlerCtx_mode (u : State) (cause : BitVec 8) :
    isPriv (handlerCtx u cause) = true ∧ isInTrap (handlerCtx u cause) = true := by
  have bit := fun st b j => (getLsbD_statusBit st (i := 0) b (by decide) j)
  have bit1 := fun st b j => (getLsbD_statusBit st (i := 1) b (by decide) j)
  have bit5 := fun st b j => (getLsbD_statusBit st (i := 5) b (by decide) j)
  rw [isPriv, isInTrap, handlerCtx, suspendOthers]
  dsimp only
  split <;> simp [-BitVec.getLsbD_eq_getElem, bit, bit1, bit5]

theorem isPriv_putStrand (c : Ctx) (i : Nat) (x : Strand) : isPriv (putStrand c i x) = isPriv c := rfl

theorem isInTrap_putStrand (c : Ctx) (i : Nat) (x : Strand) : isInTrap (putStrand c i x) = isInTrap c := rfl

theorem strands_putStrand (c : Ctx) (i : Nat) (x : Strand) : (putStrand c i x).strands = mapPut {} c.strands i x := rfl

theorem handlerCtx_tvec (u : State) (cause : BitVec 8) : (handlerCtx u cause).tvec = (cur u).tvec := by
  change (keptOf (stopLwaits (cur u))).tvec = (keptOf (cur u)).tvec
  rw [keptOf_stopLwaits]

theorem handlerCtx_suspends {u : State} {cause : BitVec 8} {e : Nat × Strand} (h : e ∈ (handlerCtx u cause).strands)
    (other : e.1 ≠ u.focus.slot) : e.2.suspended = true := by
  rw [handlerCtx, suspendOthers] at h
  obtain ⟨x, -, rfl⟩ := List.mem_map.mp h
  dsimp only at other ⊢
  split at other
  · next here => exact absurd here other
  · next away => rw [if_neg away]

/-- A warp in its handler: the other context fields are those of the state in which the frame was written. -/
theorem cur_handlerState {u : State} (cause : BitVec 8) (warp : isSystem u.focus.key = false) :
    cur (handlerState u cause) =
        putStrand (handlerCtx u cause) u.focus.slot (enterHandler (handlerCtx u cause) (curStrand u)) ∧
      (handlerState u cause).focus = u.focus ∧ (handlerState u cause).mem = u.mem := by
  obtain ⟨c, focus, mem⟩ := cur_noteHit (s := setCur u _) cause warp
  exact ⟨c.trans (cur_setCur u _), focus, mem⟩

theorem curStrand_handlerState {u : State} (cause : BitVec 8) (warp : isSystem u.focus.key = false) :
    curStrand (handlerState u cause) = enterHandler (handlerCtx u cause) (curStrand u) := by
  obtain ⟨c, focus, -⟩ := cur_handlerState cause warp
  rw [curStrand, c, focus, getStrand_putStrand]

/-! ## What the frame holds -/

/-- The mark of each lane-call record in use (LCV). -/
theorem frame_lcv (c : Ctx) :
    (List.range 4).foldl (fun acc n => acc + (getLaneCall c n).valid.toNat * 2 ^ n) 0 =
      (getLaneCall c 0).valid.toNat + 2 * (getLaneCall c 1).valid.toNat + 4 * (getLaneCall c 2).valid.toNat +
        8 * (getLaneCall c 3).valid.toNat := by
  rw [show List.range 4 = [0, 1, 2, 3] from rfl]
  simp only [List.foldl_cons, List.foldl_nil]
  omega

theorem frameWords_head {s : State} (t : TrapInfo) (warp : isSystem s.focus.key = false) (slot : s.focus.slot < 8) :
    let ws := frameWords s t
    let used := fun n => (getLaneCall (cur s) n).valid.toNat
    (ws.getD 0 0).toNat =
      t.cause.toNat + s.focus.slot * 2 ^ 8 + (isPriv (cur s)).toNat * 2 ^ 11 + t.swcode.toNat * 2 ^ 16 ∧
    (ws.getD 1 0) = pcWord (curStrand s) ∧ (ws.getD 2 0) = t.resume ∧ (ws.getD 3 0) = t.taddr ∧
    (ws.getD 4 0) = (curStrand s).mask ∧
    (ws.getD 5 0).toNat = (curStrand s).srepc.toNat + 2 ^ 8 * (used 0 + 2 * used 1 + 4 * used 2 + 8 * used 3) ∧
    (ws.getD 6 0) = t.detail := by
  intro ws used
  have bit (b : Bool) : b.toNat ≤ 1 := Bool.toNat_le b
  refine ⟨?_, rfl, rfl, rfl, rfl, ?_, rfl⟩
  · have word : ws.getD 0 0 = BitVec.ofNat 64 (t.cause.toNat + s.focus.slot % 8 * 2 ^ 8 + (isPriv (cur s)).toNat * 2 ^ 11 +
        (isSystem s.focus.key && isIe (cur s)).toNat * 2 ^ 13 + t.swcode.toNat * 2 ^ 16) := rfl
    rw [word, warp, Bool.false_and, Bool.toNat_false, Nat.zero_mul, Nat.add_zero, Nat.mod_eq_of_lt slot, BitVec.toNat_ofNat,
      Nat.mod_eq_of_lt]
    have := t.cause.isLt
    have := t.swcode.isLt
    have := bit (isPriv (cur s))
    omega
  · have word : ws.getD 5 0 = BitVec.ofNat 64 ((curStrand s).srepc.toNat +
        (List.range 4).foldl (fun acc n => acc + (getLaneCall (cur s) n).valid.toNat * 2 ^ n) 0 * 2 ^ 8) := rfl
    have := (curStrand s).srepc.isLt
    have := bit (getLaneCall (cur s) 0).valid
    have := bit (getLaneCall (cur s) 1).valid
    have := bit (getLaneCall (cur s) 2).valid
    have := bit (getLaneCall (cur s) 3).valid
    rw [word, frame_lcv, BitVec.toNat_ofNat, Nat.mod_eq_of_lt]
    · dsimp only [used]
      omega
    · omega

/-- Doubleword k of a warp's frame, in memory once the handler is entered. -/
theorem readNat_frame {s : State} (t : TrapInfo) (warp : isSystem s.focus.key = false)
    (spill : regionOf (cur s).tframe.toNat = .spill) {k : Nat} (hk : k < 384) :
    readNat (handlerState (framed (trapped s t) t) t.cause) (framePlace s + 8 * k) 8 =
      ((frameWords (readyToFrame (trapped s t)) t).getD k 0).toNat := by
  obtain ⟨focus, same, -⟩ := sameCtx_entry s t
  have focus' : (framed (trapped s t) t).focus = s.focus := (settles_writeFrame _ _).focus.trans focus
  have place : framePlace (readyToFrame (trapped s t)) = framePlace s := by
    rw [framePlace, framePlace, same.tframe, focus]
  have mem : (handlerState (framed (trapped s t) t) t.cause).mem = (framed (trapped s t) t).mem :=
    (cur_handlerState t.cause (by rw [focus', warp])).2.2
  have spill' : regionOf (cur (readyToFrame (trapped s t))).tframe.toNat = .spill := by rw [same.tframe, spill]
  refine readNat_words (fun i hi => ?_) (by rwa [length_frameWords])
  rw [readByte, mem, ← readByte, framed, ← place]
  exact readByte_writeFrame _ spill' hi

/-- Settles O18: nothing that is performed before the frame is written moves a strand or changes what the frame holds. -/
theorem trapEntryWritesTheFrame : Obligations.TrapEntryWritesTheFrame := by
  intro s i warp outside good spill _ ready _ slot
  dsimp only
  obtain ⟨focus, same, strand⟩ := sameCtx_entry s i
  have written : Settles (readyToFrame (trapped s i)) (framed (trapped s i) i) := settles_writeFrame _ _
  have focus' : (framed (trapped s i) i).focus = s.focus := written.focus.trans focus
  have warp' : isSystem (framed (trapped s i) i).focus.key = false := by rw [focus', warp]
  have entered := curStrand_handlerState i.cause warp'
  have strand' : placeOf (curStrand (framed (trapped s i) i)) = placeOf (curStrand s) := written.curStrand.trans strand
  obtain ⟨ctx, -, -⟩ := cur_handlerState i.cause warp'
  obtain ⟨w0, w1, w2, w3, w4, w5, w6⟩ := frameWords_head i (by rw [focus, warp]) (by rw [focus]; exact slot)
  have read (a k : Nat) (ha : a = framePlace s + 8 * k) (hk : k < 384) :
      readNat (handlerState (framed (trapped s i) i) i.cause) a 8 =
        ((frameWords (readyToFrame (trapped s i)) i).getD k 0).toNat := by
    rw [ha]
    exact readNat_frame i warp spill hk
  rw [takeTrap_enters warp outside good spill ready, ctx, entered,
    show spillPlace s.focus.key ((cur s).tframe.toNat - spillBase) = framePlace s from rfl,
    isPriv_putStrand, isInTrap_putStrand]
  have mode := handlerCtx_mode (framed (trapped s i) i) i.cause
  refine ⟨mode.1, mode.2, ?ca, rfl, ?mask, rfl, ?others, ?_⟩
  case ca =>
    rw [enterHandler, handlerCtx_tvec, written.cur.tvec, same.tvec]
  case mask =>
    rw [enterHandler, mask_of_placeOf strand']
  case others =>
    intro e he other
    rw [← focus'] at other
    rw [strands_putStrand] at he
    obtain inTable | moved := mem_mapPut he
    · exact handlerCtx_suspends inTable other
    · exact (other (by rw [moved])).elim
  have lanes (n : Nat) : getLaneCall (cur (readyToFrame (trapped s i))) n = getLaneCall (cur s) n := by
    rw [getLaneCall, getLaneCall, same.laneCalls]
  generalize framePlace s = p at read ⊢
  rw [read (p) 0 (by norm_num) (by decide), read (p + 8) 1 (by norm_num) (by decide),
    read (p + 16) 2 (by norm_num) (by decide), read (p + 24) 3 (by norm_num) (by decide),
    read (p + 32) 4 (by norm_num) (by decide), read (p + 40) 5 (by norm_num) (by decide),
    read (p + 48) 6 (by norm_num) (by decide), w0, w1, w2, w3, w4, w5, w6]
  refine ⟨?_, ?_, rfl, rfl, ?_, ?_, rfl⟩
  · rw [same.isPriv, focus]
  · rw [pcWord_of_placeOf strand]
  · rw [mask_of_placeOf strand]
  · rw [srepc_of_placeOf strand]
    simp only [lanes]

end Sys2Proof.Proofs
end

section
/-! SUPPORT. Returning from a trap (05 R128, 21 R414): the frame read back from the spill window, and the context that comes of
it. -/

namespace Sys2Proof.Proofs

open Sys2Proof Sys2Proof.Machine Sys2Proof.Laws

/-! ## Reading the frame -/

/-- Doubleword k of the frame in the spill window. -/
def frameDoubleword (u : State) (k : Nat) : Word := BitVec.ofNat 64 (readNat u (framePlace u + 8 * k) 8)

theorem spillPlace_add (key a b : Nat) : spillPlace key (a + b) = spillPlace key a + b := by
  simp only [spillPlace, diePlace, Nat.add_assoc]

section
variable {u : State} (warp : isSystem u.focus.key = false) (spill : regionOf (cur u).tframe.toNat = .spill)
  (good : frameFailure u .load = none)
  (sound : ∀ k, k < 384 → poisonedRun u (framePlace u + 8 * k) 8 = false)

include warp spill good sound

/-- A doubleword of a sound frame in the spill window is what its bytes hold. -/
theorem frameWord_spill {k : Nat} (hk : k < 384) :
    frameWord u (8 * k) = .ok (frameDoubleword u k) := by
  obtain ⟨low, high⟩ := frame_fits .load warp spill good
  have region : regionOf ((cur u).tframe.toNat + 8 * k) = .spill := by
    rw [spill_range]
    rw [frameSize] at high
    omega
  have place : spillPlace u.focus.key ((cur u).tframe.toNat + 8 * k - spillBase) = framePlace u + 8 * k := by
    rw [Nat.sub_add_comm low, spillPlace_add, framePlace]
  rw [frameWord, frameDoubleword]
  simp only [frameAddress_spill spill, region, place, sound k hk, Bool.false_eq_true, if_false]

theorem frameWord_ok {off : Nat} (h : off % 8 = 0) (h' : off < 3072) : ∃ w, frameWord u off = .ok w := by
  have word := frameWord_spill warp spill good sound (k := off / 8) (by omega)
  rw [Nat.mul_div_cancel' (Nat.dvd_of_mod_eq_zero h)] at word
  exact ⟨_, word⟩

theorem frameReads_ok (offs : List Nat) (h : ∀ off ∈ offs, off % 8 = 0 ∧ off < 3072) : ∃ ws, frameReads u offs = .ok ws := by
  induction offs with
  | nil => exact ⟨[], rfl⟩
  | cons off offs ih =>
    obtain ⟨w, hw⟩ := frameWord_ok warp spill good sound (h off List.mem_cons_self).1 (h off List.mem_cons_self).2
    obtain ⟨ws, hws⟩ := ih fun o ho => h o (List.mem_cons_of_mem off ho)
    exact ⟨w :: ws, by rw [frameReads, hw, ok_bind, hws]; rfl⟩

theorem reloadLaneCall_ok (n lcv : Nat) (hn : n < 4) : ∃ r, reloadLaneCall u n lcv = .ok r := by
  have word := fun off h h' => frameWord_ok warp spill good sound (off := off) h h'
  rw [reloadLaneCall]
  dsimp only
  split
  · obtain ⟨outer, h0⟩ := word (0x300 + 0x240 * n) (by omega) (by omega)
    obtain ⟨pending, h1⟩ := word (0x300 + 0x240 * n + 8) (by omega) (by omega)
    obtain ⟨w, h2⟩ := word (0x300 + 0x240 * n + 16) (by omega) (by omega)
    rw [h0, ok_bind, h1, ok_bind, h2, ok_bind]
    obtain ⟨ts, hts⟩ := frameReads_ok warp spill good sound ((lanesOf (pending &&& rootLanes (cur u)
        (getStrand (cur u) (BitVec.ofNat 3 (bf w 62 60)).toNat).mask)).map fun l => 0x300 + 0x240 * n + 0x40 + 8 * l)
      fun off hoff => by
        obtain ⟨l, hl, rfl⟩ := List.mem_map.mp hoff
        have := lanesOf_lt hl
        omega
    rw [hts, ok_bind]
    exact ⟨_, rfl⟩
  · exact ⟨_, rfl⟩

theorem reloadLaneCalls_ok (lcv : Nat) (ns : List Nat) (h : ∀ n ∈ ns, n < 4) : ∃ rs, reloadLaneCalls u lcv ns = .ok rs := by
  induction ns with
  | nil => exact ⟨[], rfl⟩
  | cons n ns ih =>
    obtain ⟨r, hr⟩ := reloadLaneCall_ok warp spill good sound n lcv (h n List.mem_cons_self)
    obtain ⟨rs, hrs⟩ := ih fun m hm => h m (List.mem_cons_of_mem n hm)
    exact ⟨(n, r) :: rs, by rw [reloadLaneCalls, hr, ok_bind, hrs]; rfl⟩

end

/-! ## The context after the return -/

/-- The strand that continues where the frame says, with the frame's lanes cut to those of the entry (21 R414). -/
def returnedStrand (u : State) (resume mask w5 : Word) : Strand :=
  resumeStrand { curStrand u with
    mask := mask &&& (if isInTrap (cur u) then (cur u).entryMask else (curStrand u).mask)
    srepc := BitVec.ofNat 7 (bf w5 6 0)
    exempt := isInTrap (cur u) && ((cur u).cause1 == 0x12 || (cur u).cause1 == 0x13) } resume

/-- A strand of a context that runs again, with its STOP bit reloaded. -/
def runsAgain (stops : List Word) (i : Nat) (x : Strand) : Strand :=
  if x.valid then { x with stop := bitAt (stops.getD i 0) 57, suspended := false } else x

/-- The context after the return: its mode, its lane-call records and its strands. -/
def returnedCtx (u : State) (w0 : Word) (x : Strand) (stops : List Word) (calls : List (Nat × LaneCall)) : Ctx :=
  let c := putStrand { cur u with
    status := statusBit (statusBit
      (if isSystem u.focus.key then statusBit (cur u).status 1 (bitAt w0 13) else (cur u).status) 0 (bitAt w0 11)) 5 false
    laneCalls := calls.foldl (fun m e => mapPut {} m e.1 e.2) (cur u).laneCalls } u.focus.slot x
  { c with strands := c.strands.map fun e =>
    if e.2.valid then (e.1, { e.2 with stop := bitAt (stops.getD e.1 0) 57, suspended := false }) else e }

theorem map_runsAgain (stops : List Word) (m : List (Nat × Strand)) :
    (m.map fun e => if e.2.valid then (e.1, { e.2 with stop := bitAt (stops.getD e.1 0) 57, suspended := false }) else e) =
      m.map fun e => (e.1, runsAgain stops e.1 e.2) := by
  refine List.map_congr_left fun e _ => ?_
  unfold runsAgain
  split <;> rfl

theorem mapGet_map {α : Type} (d : α) (f : Nat → α → α) (keeps : ∀ k, f k d = d) (m : List (Nat × α)) (k : Nat) :
    mapGet d (m.map fun e => (e.1, f e.1 e.2)) k = f k (mapGet d m k) := by
  induction m with
  | nil => exact (keeps k).symm
  | cons e m ih =>
    obtain ⟨j, v⟩ := e
    rw [List.map_cons, mapGet, mapGet, ih]
    split_ifs with h
    · rw [h]
    · rfl

theorem getStrand_returnedCtx (u : State) (w0 : Word) (x : Strand) (stops : List Word) (calls : List (Nat × LaneCall)) :
    getStrand (returnedCtx u w0 x stops calls) u.focus.slot = runsAgain stops u.focus.slot x := by
  rw [getStrand, returnedCtx, map_runsAgain]
  refine (mapGet_map _ (runsAgain stops) (fun _ => rfl) _ _).trans ?_
  rw [strands_putStrand, mapGet_put_same]

theorem returnedCtx_mode (u : State) (w0 : Word) (x : Strand) (stops : List Word) (calls : List (Nat × LaneCall)) :
    isInTrap (returnedCtx u w0 x stops calls) = false ∧ isPriv (returnedCtx u w0 x stops calls) = bitAt w0 11 := by
  have bit0 := fun st b j => (getLsbD_statusBit st (i := 0) b (by decide) j)
  have bit5 := fun st b j => (getLsbD_statusBit st (i := 5) b (by decide) j)
  change (statusBit (statusBit _ 0 (bitAt w0 11)) 5 false).getLsbD 5 = false ∧
    (statusBit (statusBit _ 0 (bitAt w0 11)) 5 false).getLsbD 0 = bitAt w0 11
  simp [-BitVec.getLsbD_eq_getElem, bit0, bit5]

/-- Once the strand's accesses to its frame are performed and the frame passes its checks, the first doubleword says whether the
return ends the launch. -/
theorem returnFromTrap_word {s : State} (warp : isSystem (settleFrame s).focus.key = false)
    (spill : regionOf (cur (settleFrame s)).tframe.toNat = .spill)
    (good : frameFailure (settleFrame s) .load = none)
    (performed : (cur (settleFrame s)).ops.any (touchesFrame (settleFrame s)) = false)
    (sound : ∀ k, k < 384 → poisonedRun (settleFrame s) (framePlace (settleFrame s) + 8 * k) 8 = false) :
    let u := settleFrame s
    let word := frameDoubleword u
    (returnEnds u (word 0) = true → returnFromTrap s = .ok (endLaunch u (partOf u (keyDie u.focus.key))
      (cur u).launchid.toNat (BitVec.ofNat 8 (bf (word 0) 7 0)) 0 false)) ∧
    (returnEnds u (word 0) = false → ∃ stops calls, returnFromTrap s =
      .ok (setCur u (returnedCtx u (word 0) (returnedStrand u (word 2) (word 4) (word 5)) stops calls))) := by
  intro u word
  have reads := fun k hk => frameWord_spill warp spill good sound (k := k) hk
  have free : (!frameWalkHeld u && !(cur u).ops.any (touchesFrame u)) = true := by
    simp [u, performed, frameWalkHeld, warp]
  obtain ⟨stops, hstops⟩ := frameReads_ok warp spill good sound ((List.range 8).map fun i => 0x108 + 24 * i) fun off h => by
    obtain ⟨i, hi, rfl⟩ := List.mem_map.mp h
    have := List.mem_range.mp hi
    omega
  obtain ⟨calls, hcalls⟩ := reloadLaneCalls_ok warp spill good sound (bf (word 5) 11 8) [0, 1, 2, 3] (by decide)
  have first : frameWord u 0 = .ok (word 0) := reads 0 (by decide)
  have second : frameWord u 0x10 = .ok (word 2) := reads 2 (by decide)
  have fourth : frameWord u 0x20 = .ok (word 4) := reads 4 (by decide)
  have fifth : frameWord u 0x28 = .ok (word 5) := reads 5 (by decide)
  change (returnEnds u (word 0) = true → returnFromTrap s = _) ∧
    (returnEnds u (word 0) = false → ∃ stops calls, returnFromTrap s = _)
  have begins : returnFromTrap s = if returnEnds u (word 0) then
        (if isSystem u.focus.key then .ok (doubleTrap u (BitVec.ofNat 8 (bf (word 0) 7 0)) 0)
        else .ok (endLaunch u (partOf u (keyDie u.focus.key)) (cur u).launchid.toNat (BitVec.ofNat 8 (bf (word 0) 7 0)) 0
          false))
      else .ok (setCur u (returnedCtx u (word 0) (returnedStrand u (word 2) (word 4) (word 5)) stops calls)) := by
    rw [returnFromTrap]
    dsimp only
    rw [show (!frameWalkHeld (settleFrame s) && !(cur (settleFrame s)).ops.any (touchesFrame (settleFrame s))) = true from free,
      await_true, ok_bind, good, Option.map_none, passed, ok_bind, first, ok_bind]
    refine if_congr Iff.rfl rfl ?_
    rw [second, ok_bind, fourth, ok_bind, fifth, ok_bind, hstops, ok_bind, hcalls, ok_bind]
    rfl
  constructor
  · intro ends
    rw [begins, if_pos ends, if_neg (by rw [warp]; exact Bool.false_ne_true)]
  · intro goesOn
    exact ⟨stops, calls, by rw [begins, goesOn, if_neg Bool.false_ne_true]⟩

theorem returned_context {u : State} (w0 w2 w4 w5 : Word) (stops : List Word) (calls : List (Nat × LaneCall))
    (inside : isInTrap (cur u) = true) (valid : (curStrand u).valid = true) :
    let t := setCur u (returnedCtx u w0 (returnedStrand u w2 w4 w5) stops calls)
    isInTrap (cur t) = false ∧ isPriv (cur t) = bitAt w0 11 ∧ (curStrand t).ca = BitVec.ofNat 64 (bf w2 54 0 * 4) ∧
      (curStrand t).mask = w4 &&& (cur u).entryMask ∧ (curStrand t).srepc = BitVec.ofNat 7 (bf w5 6 0) ∧
      ∀ e ∈ (cur t).strands, e.2.valid = true → e.2.suspended = false := by
  intro t
  have ctx : cur t = returnedCtx u w0 (returnedStrand u w2 w4 w5) stops calls := cur_setCur u _
  have valid' : (returnedStrand u w2 w4 w5).valid = true := valid
  have here : curStrand t = { returnedStrand u w2 w4 w5 with
      stop := bitAt (stops.getD u.focus.slot 0) 57, suspended := false } := by
    rw [curStrand, ctx]
    refine (getStrand_returnedCtx u _ _ _ _).trans ?_
    rw [runsAgain, if_pos valid']
  obtain ⟨outside, mode⟩ := returnedCtx_mode u w0 (returnedStrand u w2 w4 w5) stops calls
  rw [here, ctx]
  refine ⟨outside, mode, rfl, ?_, rfl, fun e he => ?_⟩
  · change w4 &&& (if isInTrap (cur u) then (cur u).entryMask else (curStrand u).mask) = _
    rw [if_pos inside]
  · rw [returnedCtx, map_runsAgain] at he
    obtain ⟨x, -, rfl⟩ := List.mem_map.mp he
    unfold runsAgain
    split
    · exact fun _ => rfl
    · next h => exact fun h' => absurd h' h

/-- Settles O21: the frame's doublewords can be read, the first says whether the launch ends, and the others say where the strand
goes on. -/
theorem sysretRestoresFromTheFrame : Obligations.SysretRestoresFromTheFrame := by
  intro s warp priv inside good spill valid
  have settled := settles_settleFrame s
  have place : spillPlace s.focus.key ((cur s).tframe.toNat - spillBase) = framePlace (settleFrame s) := by
    rw [framePlace, settled.cur.tframe, settled.focus]
  have ends_ (w : Word) : returnEnds (settleFrame s) w = true ↔
      bitAt w 12 = true ∨ (cur s).cause1 = 0x11 ∧ (launchOf (settleFrame s) s.focus.key).continueLive = false := by
    rw [returnEnds, settled.focus, warp, settled.cur.isInTrap, settled.cur.cause1, inside]
    simp
  have supervisor : exec .sysret s = run s (returnFromTrap s) := by
    show execSysret s = _
    rw [execSysret, priv, need_true, ok_bind]
  rw [place]
  intro p word ends performed sound
  obtain ⟨stays, returns⟩ := returnFromTrap_word (s := s) (by rw [settled.focus, warp]) (by rw [settled.cur.tframe, spill]) good
    performed sound
  constructor
  · intro goesOn
    obtain ⟨stops, calls, returned⟩ := returns (Bool.eq_false_iff.mpr fun h => goesOn ((ends_ _).mp h))
    obtain ⟨outside, mode, ca, mask, srepc, again⟩ := returned_context (u := settleFrame s)
      (frameDoubleword (settleFrame s) 0) (frameDoubleword (settleFrame s) 2) (frameDoubleword (settleFrame s) 4)
      (frameDoubleword (settleFrame s) 5) stops calls (by rw [settled.cur.isInTrap, inside])
      (by rw [valid_of_placeOf settled.curStrand, valid])
    refine ⟨_, supervisor.trans (congrArg (run s) returned), outside, mode, ca, ?_, ?_, again, fun _ => rfl⟩
    · rw [mask, settled.cur.entryMask]
      rfl
    · rw [srepc]
      apply BitVec.eq_of_toNat_eq
      rw [bf, frameDoubleword, BitVec.toNat_ofNat, BitVec.toNat_ofNat, BitVec.toNat_ofNat]
      change _ = readNat (settleFrame s) (framePlace (settleFrame s) + 8 * 5) 8 % 2 ^ 7
      omega
  · intro ends
    rw [supervisor, stays ((ends_ _).mpr ends), settled.focus, settled.cur.launchid, partOf, partOf, settled.partCount]
    rfl

end Sys2Proof.Proofs
end

section
/-! SUPPORT. The frame of a system core's interrupt where TFRAME is not a multiple of 64 (21 R409, R411). The checks of a frame
address ask for the lines in which its first and its last byte lie, and the frame is written in lines that begin at TFRAME
itself. With an unaligned TFRAME these can lie in other pages than those. -/

namespace Sys2Proof.Proofs

open Sys2Proof Sys2Proof.Machine Sys2Proof.Laws

/-- The page in which each line of the frame begins, which admits no store. -/
def unwritableLeaf : Leaf :=
  { va := 4128, size := 3040, pa := dieStoreBase + 4128, type := 1, r := true, w := false, x := false, u := false }

/-- The page in which the checked lines begin. -/
def checkedLeaf : Leaf :=
  { va := 0, size := 8192, pa := dieStoreBase, type := 1, r := true, w := true, x := false, u := false }

/-- A system core with an interrupt due and TFRAME at 4,128, which is no multiple of 64. -/
def unalignedCore : Ctx :=
  { live := true, status := 2, tframe := 4128, ipend := 1, ienable := 1, strands := [(0, { valid := true })] }

/-- The state in which system core 0 of die 0 takes that interrupt. -/
def unalignedFrame : State :=
  { ctxs := [(systemBase, unalignedCore)], dies := [(0, { sc := [(0, { running := true })] })],
    tlbs := [(768, [{ asid := 0, leaf := unwritableLeaf }, { asid := 0, leaf := checkedLeaf }])] }

/-- That state with the core in focus. -/
def unalignedTurn : State := { unalignedFrame with focus := ⟨systemBase + unalignedFrame.input.place, 0⟩ }

/-- No line of the frame is written: memory stays empty. -/
theorem unalignedFrame_unwritten :
    (match exec .interrupt unalignedFrame with | .next u => u.mem | _ => [(0, 0)]) = [] := by
  decide +kernel

theorem unalignedFrame_lines : ∀ k, k < 48 →
    cachedLeaf unalignedTurn (keyCache (systemBase + unalignedFrame.input.place)) (cur unalignedTurn).asid
        (frameAddress (cur unalignedTurn) + 64 * k) = some unwritableLeaf ∧
      physOf (leafPa unwritableLeaf (frameAddress (cur unalignedTurn) + 64 * k)) = .die 0 (4128 + 64 * k) := by
  decide +kernel

/-- Refutes O19: the interrupt of a system core whose TFRAME is 4,128 is taken and writes no frame, so that the doubleword that
should hold IPEND reads 0 where IPEND is 1. -/
theorem not_trapsAndInterruptsStrike : ¬ Obligations.TrapsAndInterruptsStrike := by
  intro h
  obtain ⟨-, steps⟩ := h
  obtain ⟨-, interrupts, -⟩ := steps unalignedFrame
  obtain ⟨u, taken, -, -, -, -, -, frame⟩ := interrupts (by decide +kernel) (by decide +kernel) (by decide +kernel)
    (by decide +kernel) (by decide +kernel) (by decide +kernel) (by decide +kernel) rfl
  have holds := frame unwritableLeaf rfl fun k hk =>
    ⟨(unalignedFrame_lines k hk).1, 0, 4128 + 64 * k, (unalignedFrame_lines k hk).2⟩
  have unwritten := unalignedFrame_unwritten
  rw [taken] at unwritten
  have zero (p : Nat) : readByte u p = 0 := by
    rw [readByte, show u.mem = [] from unwritten]
    rfl
  rw [readNat, readBytes] at holds
  simp only [zero] at holds
  exact absurd holds (by decide +kernel)

end Sys2Proof.Proofs
end

section
/-! SUPPORT. Issuing a launch and waiting for one (14 R273 to R278). -/

namespace Sys2Proof.Proofs

open Sys2Proof Sys2Proof.Machine Sys2Proof.Laws

section
variable {s : State} {g : BitVec 3} {d a : BitVec 6} {x : Word}

theorem launchForm_issues {ctxForm : Bool} (hg : guardP s g = true) (allowed : (!ctxForm || isPriv (cur s)) = true)
    (ha : holdsS s a x) (free : writableS s d) (performed : strandDone (cur s).ops s.focus.slot true true = true)
    (mayRead : carderMayRead s x (readLaunch s ctxForm x)) :
    run s (launchForm ctxForm g d a s) = doneFill s (.launch (readLaunch s ctxForm x)) d [] := by
  obtain ⟨record, roles⟩ := mayRead
  have read : (!carderHeld s (requester s s.focus.key) x.toNat 128 &&
      (recRoles ((readLaunch s ctxForm x).record.getD []) == 0 ||
        !carderHeld s (requester s s.focus.key) (recRoles ((readLaunch s ctxForm x).record.getD [])) 64)) = true := by
    rw [record]
    obtain none_ | free := roles
    · simp [none_]
    · simp [free]
  rw [launchForm, guarded_on _ hg, allowed, need_true, ok_bind, rdS_holds ha, ok_bind, freeS_writable free, ok_bind, performed,
    await_true, ok_bind]
  dsimp only
  rw [read, await_true, ok_bind]
  rfl

theorem launchForm_waits (hg : guardP s g = true) (ha : holdsS s a x) (free : writableS s d)
    (busy : strandDone (cur s).ops s.focus.slot true true = false) :
    run s (launchForm false g d a s) = waits s .fence := by
  rw [launchForm, guarded_on _ hg, Bool.not_false, Bool.true_or, need_true, ok_bind, rdS_holds ha, ok_bind,
    freeS_writable free, ok_bind, busy]
  rfl

theorem launchForm_denied (hg : guardP s g = true) (user : isPriv (cur s) = false) :
    run s (launchForm true g d a s) = traps s 0x07 0 0 := by
  rw [launchForm, guarded_on _ hg, user]
  rfl

/-- The state in which the strand has left its lwait. -/
def leftLwait (s : State) : State := setStrand s { curStrand s with lwait := none }

theorem launchWait_completes {w : LaunchWait} {st : Word} (plain : unrecorded s)
    (known : launchStatus (getPart s (partOf s (keyDie s.focus.key))) w.id = some st) :
    launchWait s w = retire (wrS (leftLwait s) w.d st) 1 := by
  have live : replays s s.focus.key = false := plain.1
  rw [launchWait]
  dsimp only
  rw [awaitGate_live (by exact live), known]
  have left : unrecorded (leftLwait s) := unrecorded_setCur (by rfl) plain
  exact completeRecorded_plain (s := wrS (leftLwait s) w.d st) 1 7 w.id.toNat st
    (unrecorded_setCur (s := leftLwait s) (putS_launchid _ _ _) left)

theorem launchWait_waits {w : LaunchWait} (live : notReplayed s)
    (unknown : launchStatus (getPart s (partOf s (keyDie s.focus.key))) w.id = none) :
    launchWait s w =
      let t := setCur s (putS (cur s) w.d.toNat { getS (cur s) w.d.toNat with fill := .pending })
      hold (setStrand t { curStrand t with lwait := some w }) .launch := by
  rw [launchWait]
  dsimp only
  rw [awaitGate_live (by exact live), unknown]

theorem exec_lwait_first (hg : guardP s g = true) (ha : holdsS s a x) (free : writableS s d)
    (fresh : (curStrand s).lwait = none) : exec (.lwait g d a) s = .next (launchWait s { d := d, a := a, id := x }) := by
  show execLwait g d a s = _
  rw [execLwait, fresh]
  dsimp only
  rw [guarded_on _ hg, rdS_holds ha, ok_bind, freeS_writable free, ok_bind]
  rfl

theorem exec_lwait_again {w : LaunchWait} (waiting : (curStrand s).lwait = some w) :
    exec (.lwait g d a) s = .next (launchWait s w) := by
  show execLwait g d a s = _
  rw [execLwait, waiting]

end

/-- Settles O22: the launch forms check the mode, the operands, the strand's accesses and the carder's reading in turn, and an
lwait asks for the status once at each issue. -/
theorem launchesIssue : Obligations.LaunchesIssue := by
  constructor
  · intro s g d a x st hg ha free
    refine ⟨fun performed mayRead => ?issues, fun busy => launchForm_waits hg ha free busy,
      fun priv performed mayRead => ?ctx, fun user => launchForm_denied hg user, rfl, fun _ plain fresh known => ?knows,
      fun _ live fresh unknown => ?waits⟩
    case issues => exact launchForm_issues hg rfl ha free performed mayRead
    case ctx => exact launchForm_issues hg (by rw [priv, Bool.or_true]) ha free performed mayRead
    case knows =>
      rw [exec_lwait_first hg ha free fresh, launchWait_completes plain known]
      rfl
    case waits => rw [exec_lwait_first hg ha free fresh, launchWait_waits live unknown]
  · intro s g d a w st _ plain waiting known
    rw [exec_lwait_again waiting, launchWait_completes plain known]
    rfl

end Sys2Proof.Proofs
end

section
/-! SUPPORT. Sub-elements of the vector types (06 R138, 07 R151 to R155): the integer operations as operations on bit
vectors, and the fused product of 03 R61 on exact numbers. -/

namespace Sys2Proof.Proofs

open Sys2Proof Sys2Proof.Machine Sys2Proof.Laws

/-! ## Widths -/

theorem two_le_subWidth (t : BitVec 3) : 2 ≤ subWidth t := by
  revert t; decide

theorem sub_lt (x : Word) (t : BitVec 3) (j : Nat) : sub x t j < 2 ^ subWidth t := Nat.mod_lt _ (Nat.two_pow_pos _)

theorem two_signBit {t : BitVec 3} (h : floatType t = true) : 2 * (fmtOf t).signBit = 2 ^ subWidth t := by
  revert t; decide

theorem isFloatType_of_floatType {t : BitVec 3} (h : floatType t = true) : isFloatType t = true := by
  revert t; decide

theorem not_isFloatType (t : BitVec 3) : (!isFloatType t) = integerType t := by
  revert t; decide

/-! ## Integers of a width as bit vectors (03 R69) -/

theorem toSigned_eq (x w : Nat) : toSigned x w = (BitVec.ofNat w x).toInt := by
  rw [toSigned, BitVec.toInt_eq_toNat_cond, BitVec.toNat_ofNat]

theorem intOf_eq (w : Nat) (signed : Bool) (x : Nat) :
    intOf w signed x = if signed then (BitVec.ofNat w x).toInt else ((BitVec.ofNat w x).toNat : Int) := by
  rw [intOf, toSigned_eq, BitVec.toNat_ofNat]

theorem ofInt_intOf (w : Nat) (signed : Bool) (x : Nat) : BitVec.ofInt w (intOf w signed x) = BitVec.ofNat w x := by
  rw [intOf_eq]
  cases signed with
  | true => exact BitVec.ofInt_toInt
  | false => exact (BitVec.ofInt_natCast ..).trans (by rw [BitVec.ofNat_toNat, BitVec.setWidth_eq])

theorem ofInt_two_pow (w k : Nat) : BitVec.ofInt w ((2 ^ k : Nat) : Int) = BitVec.twoPow w k := by
  rw [BitVec.ofInt_natCast]
  exact BitVec.eq_of_toNat_eq (by rw [BitVec.toNat_ofNat, BitVec.toNat_twoPow])

/-- The least number that a condition on the two integers picks, taken back into the width. -/
theorem ofInt_ite {w : Nat} {signed : Bool} (x y : Nat) (c : Prop) [Decidable c] :
    BitVec.ofInt w (if c then intOf w signed x else intOf w signed y) = if c then BitVec.ofNat w x else BitVec.ofNat w y := by
  split <;> exact ofInt_intOf ..

theorem foldl_orFlags_zero {α : Type} (xs : List α) (f : α → BitVec 6) (h : ∀ x ∈ xs, f x = 0) :
    xs.foldl (fun acc x => acc ||| f x) 0 = 0 := by
  induction xs with
  | nil => rfl
  | cons x rest ih =>
    rw [List.foldl_cons, h x List.mem_cons_self]
    exact ih fun y hy => h y (List.mem_cons_of_mem _ hy)

theorem eachSub_flags_zero (t : BitVec 3) (f : Nat → Nat) : (eachSub t fun j => (f j, 0)).2 = 0 := by
  refine foldl_orFlags_zero _ _ fun r hr => ?_
  obtain ⟨j, -, rfl⟩ := List.mem_map.mp hr
  rfl

/-! ## Two-source integer operations (07 R151, R152) -/

theorem arithLane_integer {t : BitVec 3} (h : integerType t = true) (op : Arith) (x y : Word) {j : Nat} (hj : j < subs t)
    {v : BitVec (subWidth t)} (hv : arithInt op (subWidth t) (isSignedType t) (sub x t j) (sub y t j) = v.toNat) :
    sub (arithLane op t x y).1 t j = v.toNat ∧ (arithLane op t x y).2 = 0 := by
  have lane : arithLane op t x y =
      eachSub t fun j => (arithInt op (subWidth t) (isSignedType t) (sub x t j) (sub y t j), 0) := by
    simp only [arithLane, arith, isFloatType_of_integerType h, Bool.false_eq_true, if_false]
  rw [lane]
  exact ⟨by rw [sub_eachSub t _ hj, hv, Nat.mod_eq_of_lt v.isLt], eachSub_flags_zero t _⟩

section
variable (w : Nat) (signed : Bool) (x y : Nat)

theorem arithInt_add : arithInt .add w signed x y = (BitVec.ofNat w x + BitVec.ofNat w y).toNat := by
  rw [arithInt, wrapInt_eq, BitVec.ofInt_add, ofInt_intOf, ofInt_intOf]

theorem arithInt_sub : arithInt .sub w signed x y = (BitVec.ofNat w x - BitVec.ofNat w y).toNat := by
  rw [arithInt, wrapInt_eq, Int.sub_eq_add_neg, BitVec.ofInt_add, BitVec.ofInt_neg, ofInt_intOf, ofInt_intOf,
    ← BitVec.sub_eq_add_neg]

theorem arithInt_mul : arithInt .mul w signed x y = (BitVec.ofNat w x * BitVec.ofNat w y).toNat := by
  rw [arithInt, wrapInt_eq, BitVec.ofInt_mul, ofInt_intOf, ofInt_intOf]

/-- The order of two integers of a width is that of their patterns, read as the type reads them. -/
theorem intOf_le_ite {α : Type} (p q : α) :
    (if intOf w signed x ≤ intOf w signed y then p else q) =
      if signed then (if (BitVec.ofNat w x).toInt ≤ (BitVec.ofNat w y).toInt then p else q)
      else if (BitVec.ofNat w x).toNat ≤ (BitVec.ofNat w y).toNat then p else q := by
  rw [intOf_eq, intOf_eq]
  cases signed with
  | true => rfl
  | false => simp only [Bool.false_eq_true, if_false, Int.ofNat_le]

theorem arithInt_min :
    arithInt .min w signed x y = (if signed then
      (if (BitVec.ofNat w x).toInt ≤ (BitVec.ofNat w y).toInt then BitVec.ofNat w x else BitVec.ofNat w y)
      else if (BitVec.ofNat w x).toNat ≤ (BitVec.ofNat w y).toNat then BitVec.ofNat w x else BitVec.ofNat w y).toNat := by
  rw [arithInt, wrapInt_eq, min_def, ofInt_ite, intOf_le_ite]

theorem arithInt_max :
    arithInt .max w signed x y = (if signed then
      (if (BitVec.ofNat w x).toInt ≤ (BitVec.ofNat w y).toInt then BitVec.ofNat w y else BitVec.ofNat w x)
      else if (BitVec.ofNat w x).toNat ≤ (BitVec.ofNat w y).toNat then BitVec.ofNat w y else BitVec.ofNat w x).toNat := by
  rw [arithInt, wrapInt_eq, max_def, ofInt_ite, intOf_le_ite]

theorem ofNat_eq_zero_iff : BitVec.ofNat w y = 0 ↔ y % 2 ^ w = 0 := by
  rw [BitVec.toNat_eq, BitVec.toNat_ofNat]; simp

theorem arithInt_div :
    arithInt .div w signed x y = (if BitVec.ofNat w y = 0 then BitVec.allOnes w
      else if signed then BitVec.ofInt w (Int.tdiv (BitVec.ofNat w x).toInt (BitVec.ofNat w y).toInt)
      else BitVec.ofNat w ((BitVec.ofNat w x).toNat / (BitVec.ofNat w y).toNat)).toNat := by
  simp only [arithInt, divInt, ofNat_eq_zero_iff, wrapInt_eq, intOf_eq]
  split
  case isTrue => exact BitVec.toNat_allOnes.symm
  case isFalse =>
    cases signed with
    | true => rfl
    | false => simp only [Bool.false_eq_true, if_false, ← Int.ofNat_tdiv, BitVec.ofInt_natCast]

theorem arithInt_rem :
    arithInt .rem w signed x y = (if BitVec.ofNat w y = 0 then BitVec.ofNat w x
      else if signed then BitVec.ofInt w (Int.tmod (BitVec.ofNat w x).toInt (BitVec.ofNat w y).toInt)
      else BitVec.ofNat w ((BitVec.ofNat w x).toNat % (BitVec.ofNat w y).toNat)).toNat := by
  simp only [arithInt, remInt, ofNat_eq_zero_iff, wrapInt_eq, intOf_eq]
  split
  case isTrue => exact (BitVec.toNat_ofNat ..).symm
  case isFalse =>
    cases signed with
    | true => rfl
    | false => simp only [Bool.false_eq_true, if_false, ← Int.ofNat_tmod, BitVec.ofInt_natCast]

theorem arithInt_shl (hy : y < 2 ^ w) :
    arithInt .shl w signed x y = (BitVec.ofNat w x <<< ((BitVec.ofNat w y).toNat % w)).toNat := by
  rw [arithInt, wrapInt_eq, BitVec.ofInt_mul, ofInt_intOf, ofInt_two_pow, ← BitVec.shiftLeft_eq_mul_twoPow,
    BitVec.toNat_ofNat, Nat.mod_eq_of_lt hy]

theorem arithInt_shr (hy : y < 2 ^ w) :
    arithInt .shr w signed x y = (if signed then (BitVec.ofNat w x).sshiftRight ((BitVec.ofNat w y).toNat % w)
      else BitVec.ofNat w x >>> ((BitVec.ofNat w y).toNat % w)).toNat := by
  rw [arithInt, wrapInt_eq, intOf_eq, BitVec.toNat_ofNat y, Nat.mod_eq_of_lt hy]
  congr 1
  cases signed with
  | true =>
    rw [if_pos rfl, if_pos rfl, ← Int.shiftRight_eq_div_pow, ← BitVec.toInt_sshiftRight, BitVec.ofInt_toInt]
  | false =>
    rw [if_neg Bool.false_ne_true, if_neg Bool.false_ne_true, ← Int.natCast_div, BitVec.ofInt_natCast,
      ← Nat.shiftRight_eq_div_pow, ← BitVec.toNat_ushiftRight, BitVec.ofNat_toNat, BitVec.setWidth_eq]

theorem arithInt_mulhi :
    arithInt .mulhi w signed x y =
      (if signed then BitVec.ofInt w ((BitVec.ofNat w x).toInt * (BitVec.ofNat w y).toInt / 2 ^ w)
      else BitVec.ofNat w ((BitVec.ofNat w x).toNat * (BitVec.ofNat w y).toNat / 2 ^ w)).toNat := by
  rw [arithInt, wrapInt_eq, intOf_eq, intOf_eq]
  congr 1
  cases signed with
  | true => simp only [if_true, Nat.cast_pow, Nat.cast_ofNat]
  | false => simp only [Bool.false_eq_true, if_false, ← Int.natCast_mul, ← Int.natCast_div, BitVec.ofInt_natCast]

end

/-- Settles O25: each form's integer function is the operation on the bit vectors that the sub-elements are. -/
theorem integerSubElementsAreTheOperation : Obligations.IntegerSubElementsAreTheOperation := by
  unfold Obligations.IntegerSubElementsAreTheOperation
  intro t x y j h hj
  have small := sub_lt y t j
  have is (op : Arith) {v : BitVec (subWidth t)}
      (hv : arithInt op (subWidth t) (isSignedType t) (sub x t j) (sub y t j) = v.toNat) :=
    arithLane_integer h op x y hj hv
  exact ⟨is .add (arithInt_add ..), is .sub (arithInt_sub ..), is .mul (arithInt_mul ..), is .min (arithInt_min ..),
    is .max (arithInt_max ..), is .div (arithInt_div ..), is .rem (arithInt_rem ..), is .shl (arithInt_shl _ _ _ _ small),
    is .shr (arithInt_shr _ _ _ _ small), is .mulhi (arithInt_mulhi ..)⟩

/-! ## One-source forms (07 R155, R161) -/

theorem countOnes_le (n : Nat) : ∀ x, countOnes x n ≤ n := by
  induction n with
  | zero => exact fun _ => Nat.le_refl 0
  | succ n ih =>
    intro x
    have rest := ih (x / 2)
    simp only [countOnes]
    omega

theorem trailingZeros_le (n : Nat) : ∀ x, trailingZeros x n ≤ n := by
  induction n with
  | zero => exact fun _ => Nat.le_refl 0
  | succ n ih =>
    intro x
    have rest := ih (x / 2)
    simp only [trailingZeros]
    split <;> omega

theorem leadingZeros_le (x n : Nat) : leadingZeros x n ≤ n := by
  induction n with
  | zero => exact Nat.le_refl 0
  | succ n ih =>
    simp only [leadingZeros]
    split <;> omega

section
variable {s : State} {g t : BitVec 3} {d a : BitVec 6} {e : BitVec 1} {rd ra : Nat}

theorem unaryForm_completes {ok : Bool} (taken : ok = true) (f : Word → Word × BitVec 6)
    (names : namesDa s d a rd ra)
    (hold : lanesHold s [ra] (activeLanes s g)) (free : lanesFree s [rd] (activeLanes s g)) :
    run s (unaryForm ok f g d a e s) = doneV s rd (perLane s g fun l => f (laneVal (cur s) ra l)) := by
  obtain ⟨hd, ha⟩ := names
  rw [unaryForm, taken, need_true, ok_bind, vxD_names hd, ok_bind, vxA_names ha, ok_bind]
  exact shortForm_completes _ hold free

/-- A form of bits on every sub-element writes what its function gives there, and no flag. -/
theorem bitsForm_completes {ok : Bool} (taken : ok = true) (f : Nat → Nat → Nat) (h : Nat → Nat)
    (value : ∀ v, v < 2 ^ subWidth t → f (subWidth t) v = h v ∧ h v < 2 ^ subWidth t) (names : namesDa s d a rd ra)
    (hold : lanesHold s [ra] (activeLanes s g)) (free : lanesFree s [rd] (activeLanes s g)) :
    ∃ u, run s (unaryForm ok (bitsLane t f) g d a e s) = doneLanes s g rd u ∧
      ∀ l j, j < subs t → sub (u l) t j = h (sub (laneVal (cur s) ra l) t j) := by
  refine ⟨fun l => (bitsLane t f (laneVal (cur s) ra l)).1, ?_, fun l j hj => ?_⟩
  · rw [unaryForm_completes taken _ names hold free]
    exact congrArg (fun k => doneV s rd (perLane s g k)) (funext fun l => Prod.ext rfl (eachSub_flags_zero t _))
  · obtain ⟨eq, fits⟩ := value _ (sub_lt (laneVal (cur s) ra l) t j)
    simp only [bitsLane]
    rw [sub_eachSub t _ hj, eq, Nat.mod_eq_of_lt fits]

end

theorem wrapInt_natCast (n w : Nat) : wrapInt (n : Int) w = n % 2 ^ w := by
  rw [wrapInt, ← Int.natCast_mod, Int.toNat_natCast]

theorem two_pow_subWidth (t : BitVec 3) : 2 ^ subWidth t = 2 * 2 ^ (subWidth t - 1) := by
  rw [← Nat.pow_succ', Nat.succ_eq_add_one, Nat.sub_add_cancel (Nat.one_le_of_lt (two_le_subWidth t))]

theorem natAbs_toSigned {w v half : Nat} (hw : 2 ^ w = 2 * half) (hv : v < 2 ^ w) :
    (toSigned v w).natAbs = if half ≤ v then 2 ^ w - v else v := by
  rw [toSigned, Nat.mod_eq_of_lt hv]
  generalize 2 ^ w = p at *
  split <;> split <;> omega

theorem absSub_integer {t : BitVec 3} (h : integerType t = true) {v : Nat} (hv : v < 2 ^ subWidth t) :
    absSub t (subWidth t) v = (if isSignedType t ∧ 2 ^ (subWidth t - 1) ≤ v then 2 ^ subWidth t - v else v) ∧
      (if isSignedType t ∧ 2 ^ (subWidth t - 1) ≤ v then 2 ^ subWidth t - v else v) < 2 ^ subWidth t := by
  have half := two_pow_subWidth t
  have pos := Nat.two_pow_pos (subWidth t - 1)
  have fits : (if isSignedType t ∧ 2 ^ (subWidth t - 1) ≤ v then 2 ^ subWidth t - v else v) < 2 ^ subWidth t := by
    split <;> omega
  refine ⟨?_, fits⟩
  rw [absSub, if_neg (by simp [isFloatType_of_integerType h])]
  cases signed : isSignedType t with
  | false => simp
  | true =>
    simp only [signed, true_and] at fits ⊢
    rw [if_pos trivial, wrapInt_natCast, natAbs_toSigned half hv, Nat.mod_eq_of_lt fits]

theorem negSub_integer {t : BitVec 3} (h : integerType t = true) {v : Nat} (hv : v < 2 ^ subWidth t) :
    negSub t (subWidth t) v = (2 ^ subWidth t - v) % 2 ^ subWidth t ∧ (2 ^ subWidth t - v) % 2 ^ subWidth t < 2 ^ subWidth t := by
  refine ⟨?_, Nat.mod_lt _ (Nat.two_pow_pos _)⟩
  have shift : -(v : Int) = ((2 ^ subWidth t - v : Nat) : Int) - ((2 ^ subWidth t : Nat) : Int) := by omega
  rw [negSub, if_neg (by simp [isFloatType_of_integerType h]), wrapInt, shift, Int.sub_emod_right]
  exact Int.toNat_natCast _

theorem negSub_float {t : BitVec 3} (h : floatType t = true) {v : Nat} (hv : v < 2 ^ subWidth t) :
    negSub t (subWidth t) v =
        (if v < 2 ^ (subWidth t - 1) then v + 2 ^ (subWidth t - 1) else v - 2 ^ (subWidth t - 1)) ∧
      (if v < 2 ^ (subWidth t - 1) then v + 2 ^ (subWidth t - 1) else v - 2 ^ (subWidth t - 1)) < 2 ^ subWidth t := by
  have half := two_pow_subWidth t
  rw [negSub, if_pos (isFloatType_of_floatType h)]
  generalize 2 ^ subWidth t = p at *
  generalize 2 ^ (subWidth t - 1) = q at *
  split
  case isTrue below => exact ⟨Nat.mod_eq_of_lt (by omega), by omega⟩
  case isFalse above =>
    refine ⟨?_, by omega⟩
    rw [Nat.mod_eq_sub_mod (by omega), Nat.mod_eq_of_lt (by omega)]
    omega

theorem absSub_float {t : BitVec 3} (h : floatType t = true) (v : Nat) :
    absSub t (subWidth t) v = v % 2 ^ (subWidth t - 1) ∧ v % 2 ^ (subWidth t - 1) < 2 ^ subWidth t := by
  rw [absSub, if_pos (isFloatType_of_floatType h)]
  exact ⟨rfl, (Nat.mod_lt _ (Nat.two_pow_pos _)).trans_le (Nat.pow_le_pow_right (by decide) (Nat.sub_le ..))⟩

/-- Settles O24: each form's function of bits, which stays in the width, on every sub-element. -/
theorem vectorOneSourceForms : Obligations.VectorOneSourceForms := by
  unfold Obligations.VectorOneSourceForms
  intro s g t d a m e rd ra names hold free
  have pos := Nat.two_pow_pos (subWidth t)
  have out {ok : Bool} (taken : ok = true) (f : Nat → Nat → Nat) (h : Nat → Nat)
      (value : ∀ v, v < 2 ^ subWidth t → f (subWidth t) v = h v ∧ h v < 2 ^ subWidth t) :=
    bitsForm_completes (e := e) taken f h value names hold free
  have count {n : Nat} (hn : n ≤ subWidth t) : n < 2 ^ subWidth t := hn.trans_lt Nat.lt_two_pow_self
  refine ⟨?mov, out rfl _ _ fun v _ => ⟨rfl, by omega⟩, fun ht => ?integer, fun ht => ?float⟩
  case mov => exact unaryForm_completes rfl _ names hold free
  case integer =>
    have taken : (!isFloatType t) = true := (not_isFloatType t).trans ht
    exact ⟨out rfl _ _ fun v hv => absSub_integer ht hv, out rfl _ _ fun v hv => negSub_integer ht hv,
      out taken _ _ fun v _ => ⟨rfl, count (countOnes_le _ v)⟩,
      out taken _ _ fun v _ => ⟨rfl, count (leadingZeros_le v _)⟩,
      out taken _ _ fun v _ => ⟨rfl, count (trailingZeros_le _ v)⟩,
      out taken _ _ fun v _ => ⟨rfl, reverseBits_lt v _⟩⟩
  case float =>
    exact ⟨out rfl _ _ fun v _ => absSub_float ht v, out rfl _ _ fun v hv => negSub_float ht hv,
      unaryForm_completes (isFloatType_of_floatType ht) _ names hold free⟩

end Sys2Proof.Proofs
end

section
/-! SUPPORT. Rounding stays in its format (03 R58, R59), the fused product (03 R61), and the two- and three-source vector
forms (07 R151, R153, R158, R165). -/

namespace Sys2Proof.Proofs

open Sys2Proof Sys2Proof.Machine Sys2Proof.Laws

/-! ## The bounds of a format (03 R55) -/

theorem infBits_lt_signBit (f : Fmt) : f.infBits < f.signBit := by
  rw [Fmt.infBits, Fmt.signBit, Nat.pow_add]
  exact Nat.mul_lt_mul_of_pos_right (Nat.sub_lt (Nat.two_pow_pos _) Nat.one_pos) (Nat.two_pow_pos _)

theorem nan_lt_signBit {f : Fmt} (h : 0 < f.fbits) : f.nan < f.signBit := by
  have whole : 2 ^ f.fbits = 2 * 2 ^ (f.fbits - 1) := by rw [← Nat.pow_succ', Nat.succ_eq_add_one, Nat.sub_add_cancel h]
  have pos := Nat.two_pow_pos (f.fbits - 1)
  have top : f.infBits + 2 ^ f.fbits = f.signBit := by
    rw [Fmt.infBits, Fmt.signBit, Nat.pow_add, ← Nat.succ_mul, Nat.succ_eq_add_one, Nat.sub_add_cancel Nat.one_le_two_pow]
  rw [Fmt.nan]
  omega

theorem sign_le (f : Fmt) (neg : Bool) : (if neg then f.signBit else 0) ≤ f.signBit := by
  cases neg with
  | true => exact Nat.le_refl _
  | false => exact Nat.zero_le _

theorem overflowBits_le (f : Fmt) (mode : Nat) (neg : Bool) : overflowBits f mode neg ≤ f.infBits := by
  rcases mode with _ | _ | _ | mode <;> cases neg <;> simp [overflowBits]

theorem roundMag_lt (f : Fmt) (mode : Nat) (neg : Bool) (m : Nat) (e : Int) (sticky : Bool) :
    (roundMag f mode neg m e sticky).1 < 2 * f.signBit := by
  have inf := infBits_lt_signBit f
  have sign := sign_le f neg
  have overflow := overflowBits_le f mode neg
  simp only [roundMag]
  split <;> dsimp only <;> omega

theorem roundNum_lt {f : Fmt} (h : 0 < f.fbits) (mode : Nat) (x : Machine.Num) : (roundNum f mode x).1 < 2 * f.signBit := by
  have inf := infBits_lt_signBit f
  cases x with
  | nan =>
    have nan := nan_lt_signBit h
    show f.nan < _
    omega
  | inf neg =>
    have sign := sign_le f neg
    show _ + f.infBits < _
    omega
  | fin neg m e =>
    have sign := sign_le f neg
    simp only [roundNum]
    split
    · dsimp only
      omega
    · exact roundMag_lt ..

theorem fbits_pos (t : BitVec 3) : 0 < (fmtOf t).fbits := by
  revert t; decide

/-! ## The fused product (03 R61) -/

theorem scaled_eq (neg : Bool) (m : Nat) (e lo : Int) :
    scaled neg m e lo = (if neg then -1 else 1) * m * 2 ^ (e - lo).toNat := by
  rw [scaled]
  cases neg <;> simp

theorem mul_negate_finite (neg nx ny : Bool) (mx my : Nat) (ex ey : Int) :
    (if neg then (Machine.Num.mul (.fin nx mx ex) (.fin ny my ey)).1.negate else (Machine.Num.mul (.fin nx mx ex) (.fin ny my ey)).1) =
      Machine.Num.fin ((nx != ny) != neg) (mx * my) (ex + ey) := by
  cases neg with
  | true => exact congrArg (fun b => Machine.Num.fin b _ _) (Bool.bne_true _).symm
  | false => exact congrArg (fun b => Machine.Num.fin b _ _) (Bool.bne_false _).symm

/-- The exact sum of two finite numbers, rounded: a zero sum is −0 only where both are. -/
theorem roundNum_add_finite (f : Fmt) (a b : Bool) (m n : Nat) (e g : Int) :
    let v := scaled a m e (min e g) + scaled b n g (min e g)
    (roundNum f 0 (Machine.Num.add (.fin a m e) (.fin b n g)).1).1 =
      (roundNum f 0 (if v = 0 then .fin (a && b && n == 0) 0 0 else .fin (decide (v < 0)) v.natAbs (min e g))).1 := by
  intro v
  by_cases zeros : m = 0 ∧ n = 0
  · obtain ⟨rfl, rfl⟩ := zeros
    have none : v = 0 := by simp [v, scaled]
    rw [if_pos none]
    simp [Machine.Num.add]
  · rw [Machine.Num.add, if_neg zeros]
    by_cases none : v = 0
    · have other : n ≠ 0 := by
        rintro rfl
        have left : scaled a m e (min e g) = 0 := by simpa [v, scaled] using none
        have : m = 0 := by
          rw [scaled_eq] at left
          cases a <;> simpa using left
        exact zeros ⟨this, rfl⟩
      rw [if_pos none]
      show (roundNum f 0 (.fin (decide (v < 0)) v.natAbs _)).1 = _
      rw [none]
      simp [roundNum, other]
    · rw [if_neg none]

theorem fmaF_finite {f : Fmt} (neg : Bool) {x y z : Nat} {nx ny nz : Bool} {mx my mz : Nat} {ex ey ez : Int}
    (hx : numOf f x = .fin nx mx ex) (hy : numOf f y = .fin ny my ey) (hz : numOf f z = .fin nz mz ez) :
    let minus := (nx != ny) != neg
    let u := min (ex + ey) ez
    let exact : Int := (if minus then -1 else 1) * (mx * my : Nat) * 2 ^ (ex + ey - u).toNat +
      (if nz then -1 else 1) * mz * 2 ^ (ez - u).toNat
    (fmaF f neg x y z).1 = (roundNum f 0 (if exact = 0 then .fin (minus && nz && mz == 0) 0 0
      else .fin (decide (exact < 0)) exact.natAbs u)).1 := by
  intro minus u exact
  have sum := roundNum_add_finite f minus nz (mx * my) mz (ex + ey) ez
  rw [scaled_eq, scaled_eq] at sum
  rw [fmaF, hx, hy, hz, mul_negate_finite]
  exact sum

theorem fmaF_invalid {f : Fmt} (neg : Bool) {x y : Nat} (z : Nat) (h : Machine.Num.mul (numOf f x) (numOf f y) = (.nan, flagNv)) :
    (fmaF f neg x y z).1 = f.nan ∧ (fmaF f neg x y z).2 &&& flagNv = flagNv := by
  have sum : Machine.Num.add .nan (numOf f z) = (.nan, 0) := by cases numOf f z <;> rfl
  have nan : (if neg then Machine.Num.nan.negate else Machine.Num.nan) = Machine.Num.nan := by cases neg <;> rfl
  rw [fmaF, h]
  simp only [nan, sum]
  refine ⟨rfl, ?_⟩
  show (0 ||| (flagNv ||| 0 ||| snanFlag f [x, y, z])) &&& flagNv = flagNv
  generalize snanFlag f [x, y, z] = w
  revert w
  decide

theorem zero_times_infinity {x y : Machine.Num} {a b : Bool} {c : Int}
    (h : (x = .inf a ∧ y = .fin b 0 c) ∨ (x = .fin b 0 c ∧ y = .inf a)) : Machine.Num.mul x y = (.nan, flagNv) := by
  obtain ⟨rfl, rfl⟩ | ⟨rfl, rfl⟩ := h <;> rfl

/-! ## The flags of a lane hold those of each sub-element -/

theorem or_and_holds {n : Nat} {a k : BitVec n} (h : a &&& k = k) (b : BitVec n) : (a ||| b) &&& k = k := by
  refine BitVec.eq_of_getLsbD_eq fun i _ => ?_
  have bit := congrArg (BitVec.getLsbD · i) h
  simp only [BitVec.getLsbD_and, BitVec.getLsbD_or] at bit ⊢
  revert bit
  cases a.getLsbD i <;> cases b.getLsbD i <;> cases k.getLsbD i <;> decide

theorem foldl_or_holds {α : Type} {f : α → BitVec 6} {k : BitVec 6} (xs : List α) :
    ∀ a : BitVec 6, (a &&& k = k ∨ ∃ x ∈ xs, f x &&& k = k) → (xs.foldl (fun acc r => acc ||| f r) a) &&& k = k := by
  induction xs with
  | nil =>
    rintro a (h | ⟨x, hx, -⟩)
    · exact h
    · exact absurd hx List.not_mem_nil
  | cons y rest ih =>
    rintro a (h | ⟨x, hx, h⟩)
    · exact ih _ (Or.inl (or_and_holds h _))
    · obtain rfl | later := List.mem_cons.mp hx
      · exact ih _ (Or.inl ((congrArg (· &&& k) (BitVec.or_comm a _)).trans (or_and_holds h a)))
      · exact ih _ (Or.inr ⟨x, later, h⟩)

theorem eachSub_flags_hold {t : BitVec 3} {f : Nat → Nat × BitVec 6} {k : BitVec 6} {j : Nat} (hj : j < subs t)
    (h : (f j).2 &&& k = k) : (eachSub t f).2 &&& k = k :=
  foldl_or_holds _ _ (Or.inr ⟨f j, List.mem_map.mpr ⟨j, List.mem_range.mpr hj, rfl⟩, h⟩)

/-! ## v.fma and v.fnma on a lane -/

section
variable {t : BitVec 3} {j : Nat}

theorem sub_fmaLane_integer (h : integerType t = true) (neg : Bool) (x y z : Word) (hj : j < subs t) :
    sub (fmaLane t neg x y z).1 t j =
      (if neg then BitVec.ofNat (subWidth t) (sub z t j) - BitVec.ofNat _ (sub x t j) * BitVec.ofNat _ (sub y t j)
        else BitVec.ofNat (subWidth t) (sub z t j) + BitVec.ofNat _ (sub x t j) * BitVec.ofNat _ (sub y t j)).toNat := by
  rw [fmaLane, sub_eachSub t _ hj, fmaSub, if_neg (by simp [isFloatType_of_integerType h])]
  dsimp only
  rw [wrapInt_eq, Nat.mod_eq_of_lt (BitVec.isLt _)]
  congr 1
  cases neg with
  | true =>
    rw [if_pos rfl, if_pos rfl, Int.sub_eq_add_neg, BitVec.ofInt_add, BitVec.ofInt_neg, BitVec.ofInt_mul, ofInt_intOf,
      ofInt_intOf, ofInt_intOf, ← BitVec.sub_eq_add_neg]
  | false =>
    rw [if_neg Bool.false_ne_true, if_neg Bool.false_ne_true, BitVec.ofInt_add, BitVec.ofInt_mul, ofInt_intOf, ofInt_intOf,
      ofInt_intOf]

theorem fmaLane_float (h : floatType t = true) (neg : Bool) (x y z : Word) :
    fmaLane t neg x y z = eachSub t fun j => fmaF (fmtOf t) neg (sub x t j) (sub y t j) (sub z t j) := by
  simp only [fmaLane, fmaSub, isFloatType_of_floatType h, if_true]

theorem sub_fmaLane_float (h : floatType t = true) (neg : Bool) (x y z : Word) (hj : j < subs t) :
    sub (fmaLane t neg x y z).1 t j = (fmaF (fmtOf t) neg (sub x t j) (sub y t j) (sub z t j)).1 := by
  rw [fmaLane_float h, sub_eachSub t _ hj, ← two_signBit h]
  exact Nat.mod_eq_of_lt (roundNum_lt (fbits_pos t) 0 _)

end

/-! ## Two- and three-source forms -/

theorem getLsbD_bselLane (x y z : Word) {n : Nat} (hn : n < 64) :
    (bselLane x y z).getLsbD n = if z.getLsbD n then x.getLsbD n else y.getLsbD n := by
  simp only [bselLane, BitVec.getLsbD_or, BitVec.getLsbD_and, BitVec.getLsbD_not, hn, decide_true, Bool.true_and]
  cases z.getLsbD n <;> simp

section
variable {s : State} {g t : BitVec 3} {d a b : BitVec 6} {e : BitVec 1} {rd ra rb : Nat}

theorem arithForm_short {op : Arith} (taken : arithTakes op t = true) (names : namesDab s d a b rd ra rb)
    (hold : lanesHold s [ra, rb] (activeLanes s g)) (free : lanesFree s [rd] (activeLanes s g)) :
    run s (arithForm op false g t d a b e s) =
      doneV s rd (perLane s g fun l => arithLane op t (laneVal (cur s) ra l) (laneVal (cur s) rb l)) := by
  obtain ⟨hd, ha, hb⟩ := names
  rw [arithForm, taken, need_true, ok_bind, vxD_names hd, ok_bind, vxA_names ha, ok_bind, vxB_names hb, ok_bind,
    if_neg Bool.false_ne_true]
  exact shortForm_completes _ hold free

theorem arithForm_refused {op : Arith} (long : Bool) (refused : arithTakes op t = false) :
    run s (arithForm op long g t d a b e s) = traps s 0x01 0 0 := by
  rw [arithForm, refused, need_false]
  rfl

theorem logicForm_completes (f : Word → Word → Word) (names : namesDab s d a b rd ra rb)
    (hold : lanesHold s [ra, rb] (activeLanes s g)) (free : lanesFree s [rd] (activeLanes s g)) :
    run s (logicForm f g d a b e s) = doneLanes s g rd (fun l => f (laneVal (cur s) ra l) (laneVal (cur s) rb l)) := by
  obtain ⟨hd, ha, hb⟩ := names
  rw [logicForm, vxD_names hd, ok_bind, vxA_names ha, ok_bind, vxB_names hb, ok_bind]
  exact shortForm_completes _ hold free

theorem ternaryForm_completes (f : Word → Word → Word → Word × BitVec 6) (names : namesDab s d a b rd ra rb)
    (hold : lanesHold s [ra, rb, rd] (activeLanes s g)) (free : lanesFree s [rd] (activeLanes s g)) :
    run s (ternaryForm f g d a b e s) =
      doneV s rd (perLane s g fun l => f (laneVal (cur s) ra l) (laneVal (cur s) rb l) (laneVal (cur s) rd l)) := by
  obtain ⟨hd, ha, hb⟩ := names
  rw [ternaryForm, vxD_names hd, ok_bind, vxA_names ha, ok_bind, vxB_names hb, ok_bind]
  exact shortForm_completes _ hold free

end

/-- Settles O23: each form delivers its function of the lanes' values, and the fused product is the exact sum, rounded
once. -/
theorem vectorArithmeticForms : Obligations.VectorArithmeticForms := by
  unfold Obligations.VectorArithmeticForms
  refine ⟨?two, ?three, ?fused⟩
  case two =>
    intro s g t d a b e rd ra rb names hold free
    have arith {op : Arith} (taken : arithTakes op t = true) := arithForm_short (e := e) taken names hold free
    have logic (f : Word → Word → Word) := logicForm_completes (e := e) f names hold free
    refine ⟨arith rfl, arith rfl, arith rfl, arith rfl, arith rfl, fun ht => ?_, fun ht => ?_, logic _, logic _, logic _⟩
    · have taken : (!isFloatType t) = true := (not_isFloatType t).trans ht
      exact ⟨arith taken, arith taken, arith taken⟩
    · have refused : (!isFloatType t) = false := (not_isFloatType t).trans ht
      exact ⟨arithForm_refused false refused, arithForm_refused false refused, arithForm_refused false refused⟩
  case three =>
    intro s g t d a b e rd ra rb names hold free
    have ternary (f : Word → Word → Word → Word × BitVec 6) := ternaryForm_completes (e := e) f names hold free
    refine ⟨ternary _, ternary _, ⟨_, ternary _, fun l n hn => getLsbD_bselLane _ _ _ hn⟩, fun ht => ?_, fun h1 h2 => ?_,
      fun l j ht hj => ⟨sub_fmaLane_integer ht false _ _ _ hj, sub_fmaLane_integer ht true _ _ _ hj⟩⟩
    · have taken : (t == 1 || t == 2) = true := by simpa using ht
      show run s _ = _
      rw [taken, need_true, ok_bind]
      exact ternary _
    · have refused : (t == 1 || t == 2) = false := Bool.or_eq_false_iff.mpr ⟨beq_false_of_ne h1, beq_false_of_ne h2⟩
      show run s _ = _
      rw [refused, need_false]
      rfl
  case fused =>
    intro t neg x y z j ht hj
    refine ⟨fun nx ny nz mx my mz ex ey ez hx hy hz => ?_, fun ⟨a, b, c, invalid⟩ => ?_⟩
    · rw [sub_fmaLane_float ht neg x y z hj]
      exact fmaF_finite neg hx hy hz
    · obtain ⟨value, flags⟩ := fmaF_invalid (f := fmtOf t) neg (sub z t j) (zero_times_infinity invalid)
      refine ⟨(sub_fmaLane_float ht neg x y z hj).trans value, ?_⟩
      rw [fmaLane_float ht]
      exact eachSub_flags_hold hj flags

end Sys2Proof.Proofs
end

section
/-! SUPPORT. Results in lanes and their frame (07 R147), the long forms (07 R148) and the activation tables (07 R170 to
R174). -/

namespace Sys2Proof.Proofs

open Sys2Proof Sys2Proof.Machine Sys2Proof.Laws

/-! ## Delivered lanes (07 R147, 06 R141) -/

theorem dstLanes_eq (r : Nat) (outs : List (Nat × Word)) : ∀ c, dstLanes c r outs = { c with vregs := (dstLanes c r outs).vregs } := by
  induction outs with
  | nil => exact fun _ => rfl
  | cons o rest ih => exact fun c => (ih (putV c r o.1 { val := o.2 })).trans rfl

theorem getV_dstLanes_other {r q l : Nat} (hl : l < 64) (outs : List (Nat × Word)) :
    ∀ c, (q ≠ r ∨ l ∉ outs.map Prod.fst) → (∀ o ∈ outs, o.1 < 64) → getV (dstLanes c r outs) q l = getV c q l := by
  induction outs with
  | nil => exact fun _ _ _ => rfl
  | cons o rest ih =>
    intro c other small
    have first := small o List.mem_cons_self
    rw [List.map_cons, List.mem_cons, not_or] at other
    have apart : q * 64 + l ≠ r * 64 + o.1 := by omega
    exact (ih _ (other.imp id And.right) fun p hp => small p (List.mem_cons_of_mem _ hp)).trans (getV_putV_ne c _ apart)

theorem getV_dstLanes_same {r : Nat} (outs : List (Nat × Word)) :
    ∀ c, (outs.map Prod.fst).Nodup → (∀ o ∈ outs, o.1 < 64) → ∀ o ∈ outs, getV (dstLanes c r outs) r o.1 = { val := o.2 } := by
  induction outs with
  | nil => exact fun _ _ _ o ho => absurd ho List.not_mem_nil
  | cons p rest ih =>
    intro c once small o ho
    obtain ⟨new, once⟩ := List.nodup_cons.mp once
    have later := fun q hq => small q (List.mem_cons_of_mem p hq)
    obtain rfl | ho := List.mem_cons.mp ho
    · exact (getV_dstLanes_other (small o List.mem_cons_self) rest _ (Or.inr new) later).trans (getV_putV ..)
    · exact ih _ once later o ho

theorem getLsbD_flagsOf {α : Type} (outs : List (Nat × (α × BitVec 6))) (n : Nat) :
    (flagsOf outs).getLsbD n = outs.any fun o => o.2.2.getLsbD n := by
  induction outs with
  | nil => simp [flagsOf]
  | cons o rest ih => simpa [flagsOf] using congrArg _ ih

theorem deliver_eq (c : Ctx) (r : Nat) (outs : List (Nat × (Word × BitVec 6))) :
    deliver c r outs = { c with
      vregs := (dstLanes c r (outs.map fun o => (o.1, o.2.1))).vregs, fflags := c.fflags ||| flagsOf outs } := by
  rw [deliver, foldl_orFlags, dstLanes_eq]
  rfl

theorem and_or_self {n : Nat} (a b : BitVec n) : a &&& (a ||| b) = a := by
  refine BitVec.eq_of_getLsbD_eq fun i _ => ?_
  rw [BitVec.getLsbD_and, BitVec.getLsbD_or]
  cases a.getLsbD i <;> simp

/-- Settles O29: the lanes are written one after another, each at a place of its own, and the flags are ORed in. -/
theorem deliveredLanesAndTheirFrame : Obligations.DeliveredLanesAndTheirFrame := by
  unfold Obligations.DeliveredLanesAndTheirFrame
  intro s t r outs once small step
  obtain rfl : retire (setCur s (deliver (cur s) r outs)) 1 = t := by
    simpa [doneV, done] using step
  have outside : (deliver (cur s) r outs).strands = (cur s).strands := by rw [deliver_eq]
  obtain ⟨only, same, now⟩ := retire_setCur 1 outside
  generalize retire (setCur s (deliver (cur s) r outs)) 1 = t at *
  rw [deliver_eq] at now
  have regs : ∀ q l, getV (cur t) q l = getV (dstLanes (cur s) r (outs.map fun o => (o.1, o.2.1))) q l := by
    intro q l
    rw [now]
    rfl
  have flags : (cur t).fflags = (cur s).fflags ||| flagsOf outs := by rw [now]
  have lanes : (outs.map fun o => (o.1, o.2.1)).map Prod.fst = outs.map Prod.fst := by
    rw [List.map_map]
    rfl
  have inWidth : ∀ o ∈ outs.map fun o => (o.1, o.2.1), o.1 < 64 := by
    intro o ho
    obtain ⟨p, hp, rfl⟩ := List.mem_map.mp ho
    exact small p hp
  refine ⟨fun o ho => ?_, ⟨only, same, ?_, fun q l hl other => ?_, ?_⟩, fun n => ?_⟩
  · exact (regs r o.1).trans
      (getV_dstLanes_same _ _ (lanes ▸ once) inWidth (o.1, o.2.1) (List.mem_map.mpr ⟨o, ho, rfl⟩))
  · rw [now]
  · exact (regs q l).trans (getV_dstLanes_other hl _ _ (other.imp id fun h => lanes ▸ h) inWidth)
  · rw [flags, and_or_self]
  · rw [flags, BitVec.getLsbD_or, getLsbD_flagsOf]

/-! ## Long forms (07 R148, R152, R154, R166) -/

theorem narrow_iff (t : BitVec 3) : decide (t.toNat < 3) = narrowType t := by
  revert t; decide

theorem isFloatType_false {t : BitVec 3} (h : floatType t = false) : isFloatType t = false := by
  revert t; decide

section
variable {s : State} {g t : BitVec 3} {d a b : BitVec 6} {e : BitVec 1} {rd ra rb : Nat}

theorem longForm_issues {srcs : List Nat} (f : LaneFn) (hold : lanesHold s srcs (activeLanes s g))
    (free : lanesFree s [rd] (activeLanes s g)) :
    run s (longForm s g e rd srcs f) = doneLong s rd (perLane s g fun l => f (cur s) l) := by
  rw [longForm, rdV_hold hold, freeV_free free, doneLong, perLane, List.isEmpty_map, List.map_map, List.map_map]
  simp only [ok_bind, Function.comp_def, List.map_id']
  split <;> rfl

theorem arithForm_long {op : Arith} (taken : arithTakes op t = true) (names : namesDab s d a b rd ra rb)
    (hold : lanesHold s [ra, rb] (activeLanes s g)) (free : lanesFree s [rd] (activeLanes s g)) :
    run s (arithForm op true g t d a b e s) =
      doneLong s rd (perLane s g fun l => arithLane op t (laneVal (cur s) ra l) (laneVal (cur s) rb l)) := by
  obtain ⟨hd, ha, hb⟩ := names
  rw [arithForm, taken, need_true, ok_bind, vxD_names hd, ok_bind, vxA_names ha, ok_bind, vxB_names hb, ok_bind, if_pos rfl]
  exact longForm_issues _ hold free

theorem sfuForm_issues (k : Sfu) (narrow : narrowType t = true) (names : namesDa s d a rd ra)
    (hold : lanesHold s [ra] (activeLanes s g)) (free : lanesFree s [rd] (activeLanes s g)) :
    run s (sfuForm k g t d a e s) = doneLong s rd (perLane s g fun l => sfuLane k t (laneVal (cur s) ra l)) := by
  have taken : decide (t.toNat < 3) = true := (narrow_iff t).trans narrow
  obtain ⟨hd, ha⟩ := names
  rw [sfuForm, taken, need_true, ok_bind, vxD_names hd, ok_bind, vxA_names ha, ok_bind]
  exact longForm_issues _ hold free

theorem sfuForm_refused (k : Sfu) (wide : narrowType t = false) : run s (sfuForm k g t d a e s) = traps s 0x01 0 0 := by
  have refused : decide (t.toNat < 3) = false := (narrow_iff t).trans wide
  rw [sfuForm, refused, need_false]
  rfl

/-! ## Activation tables (07 R170 to R173) -/

theorem curCore_retire (s : State) (words : Nat) : curCore (retire s words) = curCore s := by
  obtain ⟨y, hy, -⟩ := retire_eq_setStrand s words
  rw [hy]
  rfl

theorem curCore_putCore (s : State) (k : Core) : curCore (putCore s (keyCore s.focus.key) k) = k := getCore_putCore ..

theorem curCore_putCore_due (s : State) (k : Core) (due : List Act) :
    curCore { putCore s (keyCore s.focus.key) k with due := due } = k := getCore_putCore ..

theorem execActLd_issues (n : BitVec 2) (none_ : (curCore s).actFlip = none) (ha : namesV s a (curStrand s).overA ra)
    (hb : namesV s b (curStrand s).overB rb) (hold : lanesHold s [ra, rb] (activeLanes s g)) :
    ∃ u, exec (.actLd g n a b e) s = .next u ∧ (curCore u).acts = (curCore s).acts ∧
      (curCore u).actWrites = (curCore s).actWrites ++ (activeLanes s g).map fun l =>
        { bank := !(curCore s).actBank, index := n.toNat * 256 + (laneVal (cur s) rb l).toNat % 256,
          value := laneVal (cur s) ra l } := by
  have ready : (curCore s).actFlip.isNone = true := by rw [none_]; rfl
  show ∃ u, execActLd g n a b e s = .next u ∧ _
  rw [execActLd, vxA_names ha, ok_bind, vxB_names hb, ok_bind]
  dsimp only
  rw [rdV_hold hold, ok_bind, awaitTables, ready, await_true, ok_bind]
  refine ⟨_, rfl, ?_, ?_⟩
  · rw [curCore_retire, curCore_putCore_due]
  · rw [curCore_retire, curCore_putCore_due]
    simp [bf]

theorem hold_eq (s : State) (why : Why) :
    ∃ n k, hold s why = setStrand s { curStrand s with wait := .held why n, readyCount := 0, waitCount := k } := ⟨_, _, rfl⟩

/-- The state in which the strand's flip is pending and its completion is to come. -/
def flipMade (s : State) : State :=
  later (putCore s (keyCore s.focus.key) { curCore s with actFlip := some s.focus })
    (.event .actFlipComplete { place := keyCore s.focus.key })

theorem curCore_flipMade (s : State) : curCore (flipMade s) = { curCore s with actFlip := some s.focus } :=
  curCore_putCore ..

theorem execActFlip_waits (none_ : (curCore s).actFlip = none) :
    ∃ u n, exec .actFlip s = .next u ∧ (curCore u).actFlip = some s.focus ∧ (curCore u).actBank = (curCore s).actBank ∧
      (curStrand u).wait = .held .table n ∧ (curStrand u).ca = (curStrand s).ca ∧ (curStrand u).wi = (curStrand s).wi ∧
      (isSystem s.focus.key = false → issuable u s.focus = false) := by
  have runs : exec .actFlip s = .next (hold (flipMade s) .table) := by
    show execActFlip s = _
    simp only [execActFlip, none_]
    rfl
  obtain ⟨n, k, held⟩ := hold_eq (flipMade s) .table
  have core : curCore (hold (flipMade s) .table) = { curCore s with actFlip := some s.focus } := by
    rw [held]
    exact curCore_flipMade s
  have strand : curStrand (hold (flipMade s) .table) =
      { curStrand s with wait := .held .table n, readyCount := 0, waitCount := k } := by
    rw [held, curStrand_setStrand]
    rfl
  refine ⟨_, n, runs, by rw [core], by rw [core], by rw [strand], by rw [strand], by rw [strand], fun warp => ?_⟩
  have pending : flipPending (hold (flipMade s) .table) s.focus = true := by
    have flip : (curCore (hold (flipMade s) .table)).actFlip = some s.focus := by rw [core]
    have here : getCore (hold (flipMade s) .table) (keyCore s.focus.key) = curCore (hold (flipMade s) .table) := by
      rw [held]
      rfl
    rw [flipPending, here, flip, warp]
    simp
  simp only [issuable, pending, Bool.not_true, Bool.and_false]

end

/-- Settles O28: the long forms by `longForm_issues`, the table forms by their effect on the core's tables. -/
theorem longVectorFormsAndActivation : Obligations.LongVectorFormsAndActivation := by
  unfold Obligations.LongVectorFormsAndActivation
  refine ⟨?long, ?tables⟩
  case long =>
    intro s g t d a b e rd ra names hold free
    have sfu (narrow : narrowType t = true) (k : Sfu) := sfuForm_issues (e := e) k narrow names hold free
    refine ⟨fun rb hb hold2 => ?_, fun ht => ?_, fun ht => ?_, fun narrow => ?_, fun wide => ?_⟩
    · have issues {op : Arith} (taken : arithTakes op t = true) :=
        arithForm_long (e := e) taken ⟨names.1, names.2, hb⟩ hold2 free
      exact ⟨issues rfl, fun ht => issues ((not_isFloatType t).trans ht),
        fun ht => arithForm_refused true ((not_isFloatType t).trans ht)⟩
    · obtain ⟨hd, ha⟩ := names
      show execVSqrt g t d a e s = _
      rw [execVSqrt, isFloatType_of_floatType ht, need_true, ok_bind, vxD_names hd, ok_bind, vxA_names ha, ok_bind]
      exact longForm_issues _ hold free
    · show execVSqrt g t d a e s = _
      rw [execVSqrt, isFloatType_false ht, need_false]
      rfl
    · have each := sfu narrow
      exact ⟨each _, each _, each _, each _, each _, each _, each _, each _⟩
    · simp only [List.forall_mem_cons, List.not_mem_nil, false_imp_iff, implies_true, and_true]
      have refused (k : Sfu) := sfuForm_refused (s := s) (g := g) (d := d) (a := a) (e := e) k wide
      exact ⟨refused _, refused _, refused _, refused _, refused _, refused _, refused _, refused _⟩
  case tables =>
    intro s g t d a b n e ra none_ ha hold
    refine ⟨fun rd hd free narrow => ?_, fun rb hb hold2 => execActLd_issues n none_ ha hb hold2, execActFlip_waits none_⟩
    have taken : decide (t.toNat < 3) = true := (narrow_iff t).trans narrow
    have ready : (curCore s).actFlip.isNone = true := by rw [none_]; rfl
    show execVAct g t d a n e s = _
    rw [execVAct, taken, need_true, ok_bind, vxD_names hd, ok_bind, vxA_names ha, ok_bind, awaitTables, ready, await_true,
      ok_bind]
    exact shortForm_completes _ hold free

end Sys2Proof.Proofs
end

section
/-! SUPPORT. Bit-stream windows and their cursors (10 R223 to R226), and shared-exponent blocks in lanes (10 R220 to
R222). -/

namespace Sys2Proof.Proofs

open Sys2Proof Sys2Proof.Machine Sys2Proof.Laws

/-! ## Cursors and lanes written together -/

theorem getCursor_putCursor_ne (c : Ctx) {l m : Nat} (x : BitVec 7) (h : m ≠ l) :
    getCursor (putCursor c l x) m = getCursor c m := mapGet_put_ne _ _ _ h

theorem setCursors_eq (outs : List (Nat × Nat)) : ∀ c, setCursors c outs = { c with cursors := (setCursors c outs).cursors } := by
  induction outs with
  | nil => exact fun _ => rfl
  | cons o rest ih => exact fun c => (ih (putCursor c o.1 _)).trans rfl

theorem getCursor_setCursors (f : Nat → Nat) (l : Nat) (ls : List Nat) :
    ∀ c, getCursor (setCursors c (ls.map fun m => (m, f m))) l = if l ∈ ls then BitVec.ofNat 7 (f l) else getCursor c l := by
  induction ls with
  | nil => exact fun _ => rfl
  | cons m rest ih =>
    intro c
    refine (ih _).trans ?_
    by_cases here : l = m
    · subst here
      simp
    · simp only [List.mem_cons, here, false_or]
      exact if_congr Iff.rfl rfl (getCursor_putCursor_ne c _ here)

/-- What a read of the context finds after lanes and cursors were written and the strand went on. -/
theorem retire_reads {s : State} {c : Ctx} (hc : c.strands = (cur s).strands) :
    (∀ q l, getV (cur (retire (setCur s c) 1)) q l = getV c q l) ∧
      ∀ l, getCursor (cur (retire (setCur s c) 1)) l = getCursor c l := by
  obtain ⟨-, -, now⟩ := retire_setCur 1 hc
  refine ⟨fun q l => ?_, fun l => ?_⟩ <;>
  · rw [now]
    rfl

theorem getV_dstLanes_mem {r l : Nat} {ls : List Nat} (f : Nat → Word) (once : ls.Nodup) (small : ∀ m ∈ ls, m < 64)
    (h : l ∈ ls) (c : Ctx) : getV (dstLanes c r (ls.map fun m => (m, f m))) r l = { val := f l } := by
  have keys : (ls.map fun m => (m, f m)).map Prod.fst = ls := by simp [Function.comp_def]
  refine getV_dstLanes_same (ls.map fun m => (m, f m)) c (keys.symm ▸ once) (fun o ho => ?_) (l, f l)
    (List.mem_map.mpr ⟨l, h, rfl⟩)
  obtain ⟨m, hm, rfl⟩ := List.mem_map.mp ho
  exact small m hm

theorem getV_dstLanes_apart {r q l : Nat} {ls : List Nat} (f : Nat → Word) (small : ∀ m ∈ ls, m < 64) (hl : l < 64)
    (h : q ≠ r ∨ l ∉ ls) (c : Ctx) : getV (dstLanes c r (ls.map fun m => (m, f m))) q l = getV c q l := by
  have keys : (ls.map fun m => (m, f m)).map Prod.fst = ls := by simp [Function.comp_def]
  refine getV_dstLanes_other hl (ls.map fun m => (m, f m)) c (keys.symm ▸ h) fun o ho => ?_
  obtain ⟨m, hm, rfl⟩ := List.mem_map.mp ho
  exact small m hm

theorem getCursor_dstLanes (c : Ctx) (r : Nat) (outs : List (Nat × Word)) (l : Nat) :
    getCursor (dstLanes c r outs) l = getCursor c l := by
  rw [dstLanes_eq]
  rfl

theorem getV_setCursors (c : Ctx) (outs : List (Nat × Nat)) (q l : Nat) : getV (setCursors c outs) q l = getV c q l := by
  rw [setCursors_eq]
  rfl

theorem lanesOf_nodup (m : Mask) : (lanesOf m).Nodup := (lanesOf_sorted m).pairwise.imp fun h => Nat.ne_of_lt h

theorem zeroExtend_eq (x : BitVec 7) : x.zeroExtend 64 = BitVec.ofNat 64 x.toNat := (BitVec.ofNat_toNat ..).symm

theorem sxWord_mod (x k : Nat) : sxWord (x % 2 ^ k) k = sxWord x k := by
  rw [sxWord, sxWord, toSigned, toSigned, Nat.mod_mod]

/-! ## Bit streams (10 R223 to R226) -/

section
variable {s : State} {g : BitVec 3} {d a b n : BitVec 6} {t e : BitVec 1} {rd ra rb : Nat}

/-- What bs.rd leaves in the context. -/
def windowRead (s : State) (g : BitVec 3) (t : BitVec 1) (n : BitVec 6) (rd ra : Nat) : Ctx :=
  let k := n.toNat + 1
  setCursors (dstLanes (cur s) rd ((activeLanes s g).map fun l =>
      (l, if t = 0 then sxWord (windowBits (cur s) ra l k) k else BitVec.ofNat 64 (windowBits (cur s) ra l k))))
    ((activeLanes s g).map fun l => (l, min 127 ((getCursor (cur s) l).toNat + k)))

theorem execBsRd_completes (hd : namesV s d (curStrand s).overD rd) (ha : namesV s a (curStrand s).overA ra)
    (free : lanesFree s [rd] (activeLanes s g)) (fits : runFits s ra 1) (hold : lanesHold s [ra, ra + 1] (activeLanes s g)) :
    exec (.bsRd g t d a n e) s = done (setCur s (windowRead s g t n rd ra)) := by
  show execBsRd g t d a n e s = _
  rw [execBsRd, vxD_names hd, ok_bind, vxA_names ha, ok_bind, nextReg_fits fits, ok_bind]
  dsimp only
  rw [rdV_hold hold, ok_bind, freeV_free free, ok_bind]
  rfl

theorem strands_windowRead : (windowRead s g t n rd ra).strands = (cur s).strands := by
  simp only [windowRead]
  rw [setCursors_eq, dstLanes_eq]

/-- The lanes whose window slides: their cursor has reached its second word (10 R225). -/
def slideLanes (s : State) (g : BitVec 3) : List Nat :=
  (activeLanes s g).filter fun l => decide (64 ≤ (getCursor (cur s) l).toNat)

/-- What bs.fill leaves in the context. -/
def filled (s : State) (g : BitVec 3) (rd ra rb : Nat) : Ctx :=
  let c := cur s
  let c1 := dstLanes c ra ((slideLanes s g).map fun l => (l, laneVal c (ra + 1) l))
  let c2 := dstLanes c1 (ra + 1) ((slideLanes s g).map fun l => (l, laneVal c rb l))
  let c3 := setCursors c2 ((slideLanes s g).map fun l => (l, (getCursor c l).toNat - 64))
  dstLanes c3 rd ((activeLanes s g).map fun l => (l, if decide (64 ≤ (getCursor c l).toNat) then 1 else 0))

theorem execBsFill_completes (hd : namesV s d (curStrand s).overD rd) (ha : namesV s a (curStrand s).overA ra)
    (hb : namesV s b (curStrand s).overB rb) (free : lanesFree s [rd] (activeLanes s g)) (fits : runFits s ra 1)
    (hold : lanesHold s [ra + 1, rb] (slideLanes s g)) (freeA : lanesFree s [ra, ra + 1] (slideLanes s g)) :
    exec (.bsFill g d a b e) s = done (setCur s (filled s g rd ra rb)) := by
  show execBsFill g d a b e s = _
  rw [execBsFill, vxD_names hd, ok_bind, vxA_names ha, ok_bind, nextReg_fits fits, ok_bind, vxB_names hb, ok_bind]
  have read := rdV_hold (fe := e) hold
  have free2 := freeV_free freeA
  unfold slideLanes at read free2
  dsimp only
  rw [read, ok_bind, free2, ok_bind, freeV_free free, ok_bind]
  rfl

theorem strands_filled : (filled s g rd ra rb).strands = (cur s).strands := by
  simp only [filled]
  rw [dstLanes_eq, setCursors_eq, dstLanes_eq, dstLanes_eq]

theorem mem_slideLanes {l : Nat} : l ∈ slideLanes s g ↔ l ∈ activeLanes s g ∧ 64 ≤ (getCursor (cur s) l).toNat := by
  simp [slideLanes]

theorem getCursor_filled (l : Nat) : (getCursor (filled s g rd ra rb) l).toNat =
    if l ∈ slideLanes s g then (getCursor (cur s) l).toNat - 64 else (getCursor (cur s) l).toNat := by
  simp only [filled]
  rw [getCursor_dstLanes, getCursor_setCursors fun m => (getCursor (cur s) m).toNat - 64, getCursor_dstLanes, getCursor_dstLanes]
  split
  · have small := (getCursor (cur s) l).isLt
    rw [BitVec.toNat_ofNat, Nat.mod_eq_of_lt (by omega)]
  · rfl

theorem getV_filled {l : Nat} (active : l ∈ activeLanes s g) :
    getV (filled s g rd ra rb) rd l = { val := if 64 ≤ (getCursor (cur s) l).toNat then 1 else 0 } := by
  refine (getV_dstLanes_mem _ (lanesOf_nodup _) (fun m hm => lanesOf_lt hm) active _).trans ?_
  simp only [decide_eq_true_eq]

theorem getV_filled_low {l : Nat} (other : rd ≠ ra) (slides : l ∈ slideLanes s g) :
    getV (filled s g rd ra rb) ra l = { val := laneVal (cur s) (ra + 1) l } := by
  have all (m : Nat) (hm : m ∈ activeLanes s g) : m < 64 := lanesOf_lt hm
  have some_ (m : Nat) (hm : m ∈ slideLanes s g) : m < 64 := all m (mem_slideLanes.mp hm).1
  simp only [filled]
  rw [getV_dstLanes_apart _ all (some_ l slides) (Or.inl (Ne.symm other)), getV_setCursors,
    getV_dstLanes_apart _ some_ (some_ l slides) (Or.inl (Nat.ne_of_lt (Nat.lt_succ_self ra)))]
  exact getV_dstLanes_mem _ ((lanesOf_nodup _).filter _) some_ slides _

theorem getV_filled_high {l : Nat} (other : rd ≠ ra + 1) (slides : l ∈ slideLanes s g) :
    getV (filled s g rd ra rb) (ra + 1) l = { val := laneVal (cur s) rb l } := by
  have all (m : Nat) (hm : m ∈ activeLanes s g) : m < 64 := lanesOf_lt hm
  have some_ (m : Nat) (hm : m ∈ slideLanes s g) : m < 64 := all m (mem_slideLanes.mp hm).1
  simp only [filled]
  rw [getV_dstLanes_apart _ all (some_ l slides) (Or.inl (Ne.symm other)), getV_setCursors]
  exact getV_dstLanes_mem _ ((lanesOf_nodup _).filter _) some_ slides _

/-- What bs.cur.set leaves in the context. -/
def cursorsSet (s : State) (g : BitVec 3) (ra : Nat) : Ctx :=
  setCursors (cur s) ((activeLanes s g).map fun l => (l, (laneVal (cur s) ra l).toNat % 128))

theorem strands_cursorsSet : (cursorsSet s g ra).strands = (cur s).strands := by
  rw [cursorsSet, setCursors_eq]

theorem execBsCurSet_completes (ha : namesV s a (curStrand s).overA ra) (hold : lanesHold s [ra] (activeLanes s g)) :
    exec (.bsCurSet g a e) s =
      done (setCur s (cursorsSet s g ra)) := by
  show execBsCurSet g a e s = _
  rw [execBsCurSet, vxA_names ha, ok_bind]
  dsimp only
  rw [rdV_hold hold, ok_bind]
  rfl

end

/-! ## Shared-exponent blocks (10 R220 to R222) -/

theorem rdV_ok {s : State} {fe : BitVec 1} {regs lanes : List Nat} (h : rdV s fe regs lanes = .ok ()) :
    someLane (cur s) (fun r => r.fill != .full) regs lanes = false ∧ firstPoison (cur s) regs lanes = none := by
  rw [rdV] at h
  split at h
  case isTrue => split at h <;> nomatch h
  case isFalse full =>
    refine ⟨by simpa using full, ?_⟩
    split at h
    · nomatch h
    · assumption

theorem rdTwo_hold {s : State} {fe : BitVec 1} {regs lanes regs2 lanes2 : List Nat} (h : lanesHold s regs lanes)
    (h2 : lanesHold s regs2 lanes2) : rdTwo s fe regs lanes regs2 lanes2 = .ok () := by
  obtain ⟨full, sound⟩ := rdV_ok (rdV_hold (fe := fe) h)
  obtain ⟨full2, sound2⟩ := rdV_ok (rdV_hold (fe := fe) h2)
  simp [rdTwo, full, sound, full2, sound2]

/-- The lanes that a shared-exponent form of format f works on, and those of them with a scale word, as the statement
writes them. -/
def seWorked (s : State) (g : BitVec 3) (f : BitVec 2) : List Nat :=
  if f = 2 then (activeLanes s g).filter fun l => decide ((if l % 2 = 0 then l + 1 else l - 1) ∈ activeLanes s g)
  else activeLanes s g

def seHeads (s : State) (g : BitVec 3) (f : BitVec 2) : List Nat :=
  if f = 2 then (seWorked s g f).filter fun l => decide (l % 2 = 0) else seWorked s g f

theorem seLanes_eq (s : State) (g : BitVec 3) (f : BitVec 2) :
    seLanes f.toNat (activeMask s g) = (seWorked s g f, seHeads s g f) := by
  have two : f.toNat = 2 ↔ f = 2 := by revert f; decide
  have partner (l : Nat) : (activeMask s g).getLsbD l = decide (l ∈ activeLanes s g) := by
    by_cases h : l ∈ activeLanes s g
    · rw [decide_eq_true h, mem_activeLanes.mp h]
    · rw [decide_eq_false h]
      exact Bool.eq_false_iff.mpr fun on => h (mem_activeLanes.mpr on)
  by_cases hf : f = 2
  · subst hf
    simp only [seLanes, pairLanes, seWorked, seHeads, if_true, partner]
    rfl
  · rw [seLanes, if_neg (mt two.mp hf), seHeads, if_neg hf, seWorked, if_neg hf]
    rfl

theorem seWorked_lt {s : State} {g : BitVec 3} {f : BitVec 2} {l : Nat} (h : l ∈ seWorked s g f) : l < 64 := by
  rw [seWorked] at h
  split at h
  · exact lanesOf_lt (List.mem_filter.mp h).1
  · exact lanesOf_lt h

theorem seHeads_subset {s : State} {g : BitVec 3} {f : BitVec 2} {l : Nat} (h : l ∈ seHeads s g f) : l ∈ seWorked s g f := by
  rw [seHeads] at h
  split at h
  · exact (List.mem_filter.mp h).1
  · exact h

/-- The other lane of a pair that is worked on is worked on too (10 R222). -/
theorem partner_worked {s : State} {g : BitVec 3} {f : BitVec 2} (pairs : f = 2) {l : Nat} (h : l ∈ seHeads s g f) :
    l + 1 ∈ seWorked s g f := by
  rw [seHeads, if_pos pairs] at h
  obtain ⟨worked, even⟩ := List.mem_filter.mp h
  have even : l % 2 = 0 := by simpa using even
  rw [seWorked, if_pos pairs] at worked ⊢
  obtain ⟨active, next⟩ := List.mem_filter.mp worked
  rw [if_pos even, decide_eq_true_eq] at next
  refine List.mem_filter.mpr ⟨next, ?_⟩
  rw [if_neg (by omega), Nat.add_sub_cancel]
  exact decide_eq_true active

section
variable {s : State} {g t : BitVec 3} {d a : BitVec 6} {f ss : BitVec 2} {e : BitVec 1} {rd ra : Nat}

theorem formatTaken (narrow : narrowType t = true) (hf : f ≠ 3) (hs : f = 0 → ss ≠ 3) :
    (decide (t.toNat < 3) && f != 3 && !(f == 0 && ss == 3)) = true := by
  rw [narrow_iff, narrow]
  revert hf hs
  revert f ss
  decide

/-- The registers of the wide side (10 R220). -/
def wideRegs (f : BitVec 2) (t : BitVec 3) (r : Nat) : List Nat :=
  (List.range (32 / 2 ^ f.toNat / subs t)).map fun k => r + k

theorem wideRun_fits {r n : Nat} (fits : runFits s r (n - 1)) : wideRun s r n = .ok ((List.range n).map fun k => r + k) := by
  rw [wideRun, nextReg_fits fits]
  rfl

/-- What x.sepk leaves in the context. -/
def packedCtx (s : State) (g t : BitVec 3) (f ss : BitVec 2) (rd ra : Nat) : Ctx :=
  let ps := (seHeads s g f).map (packAt (cur s) f.toNat t ra (rd + 1) ss.toNat)
  ps.foldl (fun c p => orFlags c p.flags)
    (dstLanes (dstLanes (cur s) rd (ps.flatMap Packed.codes)) (rd + 1) (ps.flatMap Packed.scales))

theorem execXSepk_completes (narrow : narrowType t = true) (hf : f ≠ 3) (hs : f = 0 → ss ≠ 3)
    (hd : namesV s d (curStrand s).overD rd) (ha : namesV s a (curStrand s).overA ra)
    (fitsA : runFits s ra (32 / 2 ^ f.toNat / subs t - 1)) (fitsD : runFits s rd 1)
    (hold : lanesHold s (wideRegs f t ra) (seWorked s g f)) (holdScale : lanesHold s [rd + 1] (seHeads s g f))
    (free : lanesFree s [rd] (seWorked s g f)) (freeScale : lanesFree s [rd + 1] (seHeads s g f)) :
    exec (.xSepk g t d a f ss e) s = done (setCur s (packedCtx s g t f ss rd ra)) := by
  show execXSepk g t d a f ss e s = _
  rw [execXSepk, formatTaken narrow hf hs, need_true, ok_bind, vxA_names ha, ok_bind, seCodes, wideRun_fits fitsA, ok_bind,
    vxD_names hd, ok_bind, nextReg_fits fitsD, ok_bind]
  dsimp only
  rw [seLanes_eq]
  dsimp only
  rw [show rdTwo s e ((List.range _).map _) _ _ _ = _ from rdTwo_hold hold holdScale, ok_bind, freeV_free free, ok_bind,
    freeV_free freeScale, ok_bind]
  rfl

theorem foldl_flags_eq (ps : List Packed) : ∀ c : Ctx,
    ps.foldl (fun c p => orFlags c p.flags) c = { c with fflags := (ps.foldl (fun c p => orFlags c p.flags) c).fflags } := by
  induction ps with
  | nil => exact fun _ => rfl
  | cons p rest ih => exact fun c => (ih (orFlags c p.flags)).trans rfl

theorem strands_packedCtx : (packedCtx s g t f ss rd ra).strands = (cur s).strands := by
  simp only [packedCtx]
  rw [foldl_flags_eq, dstLanes_eq, dstLanes_eq]

theorem getV_packedCtx (q l : Nat) :
    getV (packedCtx s g t f ss rd ra) q l =
      getV (dstLanes (dstLanes (cur s) rd
        (((seHeads s g f).map (packAt (cur s) f.toNat t ra (rd + 1) ss.toNat)).flatMap Packed.codes)) (rd + 1)
        (((seHeads s g f).map (packAt (cur s) f.toNat t ra (rd + 1) ss.toNat)).flatMap Packed.scales)) q l := by
  simp only [packedCtx]
  rw [foldl_flags_eq]
  rfl

theorem codes_worked {o : Nat × Word}
    (h : o ∈ ((seHeads s g f).map (packAt (cur s) f.toNat t ra (rd + 1) ss.toNat)).flatMap Packed.codes) :
    o.1 ∈ seWorked s g f := by
  obtain ⟨p, hp, ho⟩ := List.mem_flatMap.mp h
  obtain ⟨l, hl, rfl⟩ := List.mem_map.mp hp
  obtain rfl | second := List.mem_cons.mp ho
  · exact seHeads_subset hl
  · split at second
    case isTrue pairs =>
      obtain rfl := List.mem_singleton.mp second
      exact partner_worked (BitVec.eq_of_toNat_eq pairs) hl
    case isFalse => exact absurd second List.not_mem_nil

theorem scales_heads {o : Nat × Word}
    (h : o ∈ ((seHeads s g f).map (packAt (cur s) f.toNat t ra (rd + 1) ss.toNat)).flatMap Packed.scales) :
    o.1 ∈ seHeads s g f := by
  obtain ⟨p, hp, ho⟩ := List.mem_flatMap.mp h
  obtain ⟨l, hl, rfl⟩ := List.mem_map.mp hp
  obtain rfl := List.mem_singleton.mp ho
  exact hl

theorem getV_packedCtx_idle {l : Nat} (hl : l < 64) (idle : l ∉ seWorked s g f) :
    getV (packedCtx s g t f ss rd ra) rd l = getV (cur s) rd l := by
  rw [getV_packedCtx, getV_dstLanes_other hl _ _ (Or.inl (Nat.ne_of_lt (Nat.lt_succ_self rd))) fun o ho =>
    seWorked_lt (seHeads_subset (scales_heads ho))]
  refine getV_dstLanes_other hl _ _ (Or.inr fun on => ?_) fun o ho => seWorked_lt (codes_worked ho)
  obtain ⟨o, ho, rfl⟩ := List.mem_map.mp on
  exact idle (codes_worked ho)

end

/-! ### SE3: one block in a lane -/

/-- The 16 inputs of a lane, as numbers. -/
def se3Inputs (s : State) (t : BitVec 3) (ra l : Nat) : List Machine.Num :=
  (List.range 16).map fun i => numOf (fmtOf t) (sub (laneVal (cur s) (ra + i / subs t) l) t (i % subs t))

theorem packAt_se3 (s : State) (t : BitVec 3) (ra rs ss l : Nat) :
    (packAt (cur s) 1 t ra rs ss l).codes = [(l, BitVec.ofNat 64 (sePack 3 (se3Inputs s t ra l)).2.1)] ∧
      (packAt (cur s) 1 t ra rs ss l).scales =
        [(l, setHalf (laneVal (cur s) rs l) ss (sePack 3 (se3Inputs s t ra l)).1)] := by
  have inputs : (seInputs (cur s) 1 t ra l).map (numOf (fmtOf t)) = se3Inputs s t ra l := by
    rw [seInputs, List.map_map]
    rfl
  simp only [packAt, seBlocks, List.map_cons, List.map_nil, inputs, joinCodes, List.foldr_cons, List.foldr_nil, Nat.zero_mul,
    Nat.add_zero]
  exact ⟨rfl, rfl⟩

theorem flatMap_singletons {α β γ : Type} {k : α → β} {c : β → List γ} {h : α → γ} (eq : ∀ x, c (k x) = [h x]) (xs : List α) :
    (xs.map k).flatMap c = xs.map h := by
  induction xs with
  | nil => rfl
  | cons x rest ih => rw [List.map_cons, List.flatMap_cons, eq, ih]; rfl

theorem getV_packedCtx_se3 {s : State} {g t : BitVec 3} {ss : BitVec 2} {rd ra l : Nat} (active : l ∈ activeLanes s g) :
    getV (packedCtx s g t 1 ss rd ra) rd l = { val := BitVec.ofNat 64 (sePack 3 (se3Inputs s t ra l)).2.1 } ∧
      getV (packedCtx s g t 1 ss rd ra) (rd + 1) l =
        { val := setHalf (laneVal (cur s) (rd + 1) l) ss.toNat (sePack 3 (se3Inputs s t ra l)).1 } := by
  have small (m : Nat) (hm : m ∈ activeLanes s g) : m < 64 := lanesOf_lt hm
  have codes := flatMap_singletons (fun l => (packAt_se3 s t ra (rd + 1) ss.toNat l).1) (activeLanes s g)
  have scales := flatMap_singletons (fun l => (packAt_se3 s t ra (rd + 1) ss.toNat l).2) (activeLanes s g)
  rw [getV_packedCtx, getV_packedCtx]
  change getV (dstLanes (dstLanes _ _ (((activeLanes s g).map (packAt (cur s) 1 t ra _ _)).flatMap _)) _
      (((activeLanes s g).map (packAt (cur s) 1 t ra _ _)).flatMap _)) _ _ = _ ∧
    getV (dstLanes (dstLanes _ _ (((activeLanes s g).map (packAt (cur s) 1 t ra _ _)).flatMap _)) _
      (((activeLanes s g).map (packAt (cur s) 1 t ra _ _)).flatMap _)) _ _ = _
  rw [codes, scales]
  constructor
  · rw [getV_dstLanes_apart _ small (small l active) (Or.inl (Nat.ne_of_lt (Nat.lt_succ_self rd)))]
    exact getV_dstLanes_mem _ (lanesOf_nodup _) small active _
  · exact getV_dstLanes_mem _ (lanesOf_nodup _) small active _

theorem testBit_halfOf (x : Word) (h n : Nat) : (halfOf x h).testBit n = (decide (n < 16) && x.getLsbD (16 * h + n)) := by
  rw [halfOf, Nat.testBit_mod_two_pow, Nat.testBit_div_two_pow, ← BitVec.testBit_toNat, Nat.add_comm]

theorem halfOf_setHalf (x : Word) (v : Nat) {k h : Nat} (hk : k < 4) (hh : h < 4) :
    halfOf (setHalf x k v) h = if h = k then v % 2 ^ 16 else halfOf x h := by
  refine Nat.eq_of_testBit_eq fun n => ?_
  rw [testBit_halfOf, setHalf, sub_field_eq]
  by_cases hn : n < 16
  case neg =>
    have high : (v % 2 ^ 16).testBit n = false := by rw [Nat.testBit_mod_two_pow, decide_eq_false hn, Bool.false_and]
    rw [decide_eq_false hn, Bool.false_and]
    split
    · exact high.symm
    · rw [testBit_halfOf, decide_eq_false hn, Bool.false_and]
  have inWord : 16 * h + n < 64 := by omega
  have shape (p q r : Nat) : p + q + r = p + r + q := by omega
  rw [BitVec.getLsbD_ofNat, ← shape, testBit_splice]
  simp only [inWord, hn, decide_true, Bool.true_and]
  by_cases same : h = k
  · subst same
    rw [if_pos (by omega), if_pos rfl, Nat.testBit_mod_two_pow, Nat.add_sub_cancel_left]
    simp [hn]
  · rw [if_neg (by omega), if_neg same, testBit_halfOf, BitVec.testBit_toNat]
    simp [hn]

/-! ### x.seunpk -/

theorem deliver_strands (c : Ctx) (r : Nat) (outs : List (Nat × (Word × BitVec 6))) : (deliver c r outs).strands = c.strands := by
  rw [deliver_eq]

theorem getV_deliver (c : Ctx) (r q l : Nat) (outs : List (Nat × (Word × BitVec 6))) :
    getV (deliver c r outs) q l = getV (dstLanes c r (outs.map fun o => (o.1, o.2.1))) q l := by
  rw [deliver_eq]
  rfl

theorem deliverRun_strands (c : Ctx) (r : Nat) (outs : List (Nat × List Machine.Num)) (t : BitVec 3) (n : Nat) :
    (deliverRun c r outs t n).strands = c.strands := by
  induction n with
  | zero => rfl
  | succ n ih => exact (deliver_strands ..).trans ih

theorem getV_deliverRun {ls : List Nat} (once : ls.Nodup) (small : ∀ m ∈ ls, m < 64) (xs : Nat → List Machine.Num)
    (t : BitVec 3) {l : Nat} (hl : l ∈ ls) (c : Ctx) (r n : Nat) :
    ∀ k, k < n → getV (deliverRun c r (ls.map fun l => (l, xs l)) t n) (r + k) l = { val := (unpackReg t (xs l) k).1 } := by
  induction n with
  | zero => exact fun _ h => absurd h (Nat.not_lt_zero _)
  | succ n ih =>
    intro k hk
    have lanes : ((ls.map fun l => (l, xs l)).map fun o => (o.1, unpackReg t o.2 n)).map (fun o => (o.1, o.2.1)) =
        ls.map fun l => (l, (unpackReg t (xs l) n).1) := by
      simp [List.map_map, Function.comp_def]
    rw [deliverRun, getV_deliver, lanes]
    obtain earlier | rfl := Nat.lt_succ_iff_lt_or_eq.mp hk
    · rw [getV_dstLanes_apart _ small (small l hl) (Or.inl (by omega))]
      exact ih k earlier
    · exact getV_dstLanes_mem _ once small hl _

section
variable {s : State} {g t : BitVec 3} {d a : BitVec 6} {f ss : BitVec 2} {e : BitVec 1} {rd ra : Nat}

/-- What x.seunpk leaves in the context. -/
def unpackedCtx (s : State) (g t : BitVec 3) (f ss : BitVec 2) (rd ra : Nat) : Ctx :=
  deliverRun (cur s) rd ((seWorked s g f).map fun l => (l, seElements (cur s) f.toNat ra (ra + 1) ss.toNat l)) t
    (32 / 2 ^ f.toNat / subs t)

theorem execXSeunpk_completes (narrow : narrowType t = true) (hf : f ≠ 3) (hs : f = 0 → ss ≠ 3)
    (hd : namesV s d (curStrand s).overD rd) (ha : namesV s a (curStrand s).overA ra)
    (fitsA : runFits s ra 1) (fitsD : runFits s rd (32 / 2 ^ f.toNat / subs t - 1))
    (hold : lanesHold s [ra] (seWorked s g f)) (holdScale : lanesHold s [ra + 1] (seHeads s g f))
    (free : lanesFree s (wideRegs f t rd) (seWorked s g f)) :
    exec (.xSeunpk g t d a f ss e) s = done (setCur s (unpackedCtx s g t f ss rd ra)) := by
  show execXSeunpk g t d a f ss e s = _
  rw [execXSeunpk, formatTaken narrow hf hs, need_true, ok_bind, vxA_names ha, ok_bind, nextReg_fits fitsA, ok_bind,
    vxD_names hd, ok_bind, seCodes, wideRun_fits fitsD, ok_bind]
  dsimp only
  rw [seLanes_eq]
  dsimp only
  rw [rdTwo_hold hold holdScale, ok_bind, show freeV s ((List.range _).map _) _ = _ from freeV_free free, ok_bind,
    List.length_map, List.length_range]
  rfl

theorem sub_unpackedCtx_se3 {l k j : Nat} (float : floatType t = true) (active : l ∈ activeLanes s g) (hk : k < 16 / subs t)
    (hj : j < subs t) :
    sub (laneVal (unpackedCtx s g t 1 ss rd ra) (rd + k) l) t j = (roundNum (fmtOf t) 0
      (seElement 3 (halfOf (laneVal (cur s) (ra + 1) l) ss.toNat) (laneVal (cur s) ra l).toNat (k * subs t + j))).1 := by
  have small (m : Nat) (hm : m ∈ activeLanes s g) : m < 64 := lanesOf_lt hm
  have reg : getV (unpackedCtx s g t 1 ss rd ra) (rd + k) l = { val := (unpackReg t _ k).1 } :=
    getV_deliverRun (lanesOf_nodup _) small (seElements (cur s) 1 ra (ra + 1) ss.toNat) t active (cur s) rd
      (16 / subs t) k hk
  have inBlock : k * subs t + j < 16 := by
    have rows : (k + 1) * subs t ≤ 16 := (Nat.mul_le_mul_right _ hk).trans (Nat.div_mul_le_self ..)
    rw [Nat.succ_mul] at rows
    omega
  rw [laneVal, reg]
  dsimp only
  rw [unpackReg, sub_eachSub t _ hj, ← two_signBit float, Nat.mod_eq_of_lt (roundNum_lt (fbits_pos t) 0 _)]
  simp [seElements, seMag, inBlock]

end

theorem floatType_of_narrowType {t : BitVec 3} (h : narrowType t = true) : floatType t = true := by
  revert t; decide

/-- Settles O32: each form's effect on the context, read lane by lane. -/
theorem bitStreamsAndSharedExponents : Obligations.BitStreamsAndSharedExponents := by
  unfold Obligations.BitStreamsAndSharedExponents
  refine ⟨?streams, ?blocks⟩
  case streams =>
    intro s g d a b n t e rd ra ⟨hd, ha⟩ free
    have small (m : Nat) (hm : m ∈ activeLanes s g) : m < 64 := lanesOf_lt hm
    have once : (activeLanes s g).Nodup := lanesOf_nodup _
    refine ⟨fun fits hold => ?read, fun rb hb fits hold freeA => ?fill, ?get, fun hold => ?set⟩
    case read =>
      obtain ⟨regs, cursors⟩ := retire_reads (strands_windowRead (s := s) (g := g) (t := t) (n := n) (rd := rd) (ra := ra))
      refine ⟨_, execBsRd_completes (t := t) (e := e) hd ha free fits hold, fun l hl => ?_, fun l _ => ?_⟩
      · rw [regs, windowRead, getV_setCursors, getV_dstLanes_mem _ once small hl]
        simp only [windowBits, sxWord_mod]
      · rw [cursors, windowRead, getCursor_setCursors fun l => min 127 ((getCursor (cur s) l).toNat + (n.toNat + 1)), getCursor_dstLanes]
        split
        · rw [BitVec.toNat_ofNat, Nat.mod_eq_of_lt (by omega)]
        · rfl
    case fill =>
      obtain ⟨regs, cursors⟩ := retire_reads (strands_filled (s := s) (g := g) (rd := rd) (ra := ra) (rb := rb))
      refine ⟨_, execBsFill_completes (e := e) hd ha hb free fits hold freeA, fun l hl => ?_, fun other l hl => ?_,
        fun other l hl => ?_, fun l _ => ?_⟩
      · rw [regs, getV_filled hl]
      · rw [regs, getV_filled_low other hl]
      · rw [regs, getV_filled_high other hl]
      · rw [cursors, getCursor_filled]
        rfl
    case get =>
      show run s _ = _
      rw [vxD_names hd, ok_bind, shortForm_completes _ (lanesHold_nil _) free]
      exact congrArg (fun f => doneV s rd (perLane s g f)) (funext fun l => congrArg (·, 0) (zeroExtend_eq _))
    case set =>
      obtain ⟨-, cursors⟩ := retire_reads (strands_cursorsSet (s := s) (g := g) (ra := ra))
      refine ⟨_, execBsCurSet_completes (e := e) ha hold, fun l _ => ?_⟩
      rw [cursors, cursorsSet, getCursor_setCursors fun l => (laneVal (cur s) ra l).toNat % 128]
      split
      · rw [BitVec.toNat_ofNat, Nat.mod_mod]
      · rfl
  case blocks =>
    intro s g t d a f ss e rd ra ⟨hd, ha⟩ narrow hf hs
    refine ⟨fun fitsA fitsD hold holdScale free freeScale => ?pack, fun fitsA fitsD hold holdScale free => ?unpack⟩
    case pack =>
      obtain ⟨regs, -⟩ := retire_reads (strands_packedCtx (s := s) (g := g) (t := t) (f := f) (ss := ss) (rd := rd) (ra := ra))
      refine ⟨_, execXSepk_completes (e := e) narrow hf hs hd ha fitsA fitsD hold holdScale free freeScale,
        fun l hl idle => ?_, fun se3 l active => ?_⟩
      · rw [regs, getV_packedCtx_idle hl idle]
      · subst se3
        obtain ⟨codes, scales⟩ := getV_packedCtx_se3 (t := t) (ss := ss) (rd := rd) (ra := ra) active
        rw [regs, regs, codes, scales]
        exact ⟨rfl, rfl, fun h hh => halfOf_setHalf _ _ ss.isLt hh⟩
    case unpack =>
      obtain ⟨regs, -⟩ := retire_reads (s := s) (c := unpackedCtx s g t f ss rd ra) (deliverRun_strands ..)
      refine ⟨_, execXSeunpk_completes (e := e) narrow hf hs hd ha fitsA fitsD hold holdScale free,
        fun se3 l active k hk j hj => ?_⟩
      subst se3
      rw [laneVal, regs]
      exact sub_unpackedCtx_se3 (floatType_of_narrowType narrow) active hk hj

end Sys2Proof.Proofs
end

section
/-! SUPPORT. Vector loads, stores and atomics issue (12 R246 to R253). -/

namespace Sys2Proof.Proofs

open Sys2Proof Sys2Proof.Machine Sys2Proof.Laws

theorem pendLanes_launchid (r : Nat) (lanes : List Nat) : ∀ c, (pendLanes c r lanes).launchid = c.launchid := by
  induction lanes with
  | nil => exact fun _ => rfl
  | cons l rest ih => exact fun c => ih _

theorem pendRegs_launchid (lanes regs : List Nat) : ∀ c, (pendRegs c lanes regs).launchid = c.launchid := by
  induction regs with
  | nil => exact fun _ => rfl
  | cons r rest ih => exact fun c => (ih _).trans (pendLanes_launchid r lanes c)

theorem notReplayed_pendRegs {s : State} (lanes regs : List Nat) (h : notReplayed s) :
    notReplayed (setCur s (pendRegs (cur s) lanes regs)) :=
  (replays_setCur (pendRegs_launchid lanes regs (cur s))).trans h

theorem sizeBytes_sixteen (z : BitVec 3) : sizeBytes z = 16 ↔ z = 7 := by
  revert z; decide

theorem flatMap_laneAddresses (s : State) (base : Word) (ra n : Nat) (lanes : List Nat) (data data2 : Nat → Nat) :
    ((laneAddresses (cur s) ra base lanes).flatMap fun l =>
      laneAccesses s (requester s s.focus.key) l.1 l.2 n (data l.1) (data2 l.1)) =
      accessesOf s lanes (laneAt s base ra) n data data2 := by
  rw [laneAddresses, List.flatMap_map]
  rfl

theorem map_laneAddresses (s : State) (base : Word) (ra : Nat) (lanes : List Nat) :
    (laneAddresses (cur s) ra base lanes).map Prod.snd = lanes.map (laneAt s base ra) := by
  rw [laneAddresses, List.map_map]
  rfl

section
variable {s : State} {g z : BitVec 3} {d a b : BitVec 6} {e : BitVec 1} {rd ra : Nat} {base : Word}

/-- The registers of an access of size z to V[rd] (12 R250). -/
def accessRegs (z : BitVec 3) (rd : Nat) : List Nat := if z = 7 then [rd, rd + 1] else [rd]

/-- The datum of a store of size z from lane l of V[rd] (12 R250). -/
def storeDatum (s : State) (z : BitVec 3) (rd l : Nat) : Nat :=
  ((laneVal (cur s) rd l).toNat + if z = 7 then (laneVal (cur s) (rd + 1) l).toNat * 2 ^ 64 else 0) % 2 ^ (8 * sizeBytes z)

theorem execMLd_issues (hd : namesV s d (curStrand s).overD rd) (ha : namesV s a (curStrand s).overA ra)
    (hb : holdsS s b base) (live : notReplayed s) (fits : runFits s rd (if z = 7 then 1 else 0))
    (hold : lanesHold s [ra] (activeLanes s g))
    (pass : accessesPass s .load (sizeBytes z) ((activeLanes s g).map (laneAt s base ra)))
    (free : lanesFree s (accessRegs z rd) (activeLanes s g)) :
    exec (.mLd g z d a b e) s = doneFillV s (.load (sizeBytes z) (sizeSigned z)) rd (accessRegs z rd) (activeLanes s g)
      (accessesOf s (activeLanes s g) (laneAt s base ra) (sizeBytes z) (fun _ => 0) fun _ => 0) := by
  have regs : (if z = 7 then [rd, rd + if z = 7 then 1 else 0] else [rd]) = accessRegs z rd := by
    unfold accessRegs
    split <;> rfl
  have accesses := flatMap_laneAddresses s base ra (sizeBytes z) (activeLanes s g) (fun _ => 0) fun _ => 0
  show execMLd g z d a b e s = _
  simp only [execMLd, sizeBytes_sixteen]
  rw [vxD_names hd, ok_bind, nextReg_fits fits, ok_bind, vxA_names ha, ok_bind, rdS_holds hb, ok_bind, rdV_hold hold, ok_bind,
    map_laneAddresses, checked_passes pass, ok_bind, regs, freeV_free free, ok_bind, accesses,
    issueLoadStore_live _ _ _ _ (notReplayed_pendRegs _ _ live)]
  rfl

theorem execMSt_issues (hd : namesV s d (curStrand s).overD rd) (ha : namesV s a (curStrand s).overA ra)
    (hb : holdsS s b base) (live : notReplayed s) (fits : runFits s rd (if z = 7 then 1 else 0))
    (hold : lanesHold s (ra :: accessRegs z rd) (activeLanes s g))
    (pass : accessesPass s .store (sizeBytes z) ((activeLanes s g).map (laneAt s base ra))) (unheld : noFenceHolds s) :
    exec (.mSt g z d a b e) s = done (issueOp s .store 0
      (accessesOf s (activeLanes s g) (laneAt s base ra) (sizeBytes z) (storeDatum s z rd) fun _ => 0)) := by
  have regs : (if z = 7 then [ra, rd, rd + if z = 7 then 1 else 0] else [ra, rd]) = ra :: accessRegs z rd := by
    unfold accessRegs
    split <;> rfl
  have datum (l : Nat) : ((laneVal (cur s) rd l).toNat +
      if z = 7 then (laneVal (cur s) (rd + if z = 7 then 1 else 0) l).toNat * 2 ^ 64 else 0) % 2 ^ (8 * sizeBytes z) =
      storeDatum s z rd l := by
    unfold storeDatum
    split <;> rfl
  have accesses := flatMap_laneAddresses s base ra (sizeBytes z) (activeLanes s g) (storeDatum s z rd) fun _ => 0
  show execMSt g z d a b e s = _
  simp only [execMSt, sizeBytes_sixteen]
  rw [vxD_names hd, ok_bind, nextReg_fits fits, ok_bind, vxA_names ha, ok_bind, rdS_holds hb, ok_bind, regs, rdV_hold hold,
    ok_bind, map_laneAddresses, checked_passes pass, ok_bind, awaitRel_free unheld, ok_bind]
  simp only [datum, accesses]
  rw [issueLoadStore_live _ _ _ _ live]
  rfl

theorem execMLds_idle (hd : namesV s d (curStrand s).overD rd) (hb : holdsS s b base)
    (fits : runFits s rd (if z = 7 then 1 else 0)) (none_ : activeLanes s g = []) : exec (.mLds g z d b) s = done s := by
  show execMLds g z d b s = _
  simp only [execMLds, sizeBytes_sixteen]
  rw [vxD_names hd, ok_bind, nextReg_fits fits, ok_bind, rdS_holds hb, ok_bind, if_pos (by rw [none_]; rfl)]
  rfl

theorem execMLds_issues (hd : namesV s d (curStrand s).overD rd) (hb : holdsS s b base) (live : notReplayed s)
    (fits : runFits s rd (if z = 7 then 1 else 0)) (some_ : activeLanes s g ≠ [])
    (pass : accessesPass s .load (sizeBytes z) [base.toNat]) (free : lanesFree s (accessRegs z rd) (activeLanes s g)) :
    exec (.mLds g z d b) s = doneFillV s (.loadSplat (sizeBytes z) (sizeSigned z)) rd (accessRegs z rd) (activeLanes s g)
      (accessesOf s (activeLanes s g) (fun _ => base.toNat) (sizeBytes z) (fun _ => 0) fun _ => 0) := by
  have regs : (if z = 7 then [rd, rd + if z = 7 then 1 else 0] else [rd]) = accessRegs z rd := by
    unfold accessRegs
    split <;> rfl
  show execMLds g z d b s = _
  simp only [execMLds, sizeBytes_sixteen]
  rw [vxD_names hd, ok_bind, nextReg_fits fits, ok_bind, rdS_holds hb, ok_bind,
    if_neg (by rwa [List.isEmpty_iff]), checked_passes pass, ok_bind, regs, freeV_free free, ok_bind,
    issueLoadStore_live _ _ _ _ (notReplayed_pendRegs _ _ live)]
  rfl

end

section
variable {s : State} {g : BitVec 3} {z : BitVec 1} {d a b : BitVec 6} {rd ra : Nat} {base : Word}

/-- An atomic form issues (12 R252): its operand is V[d], or for m.cas V[d + 1]. -/
theorem atomicForm_issues (f scope : Nat) (hd : namesV s d (curStrand s).overD rd) (ha : namesV s a (curStrand s).overA ra)
    (hb : holdsS s b base) (live : notReplayed s) (unheld : noFenceHolds s) (fits : runFits s rd (if f = 9 then 1 else 0))
    (hold : lanesHold s (if f = 9 then [ra, rd, rd + 1] else [ra, rd]) (activeLanes s g))
    (free : lanesFree s [rd] (activeLanes s g))
    (pass : accessesPass s .atomic (if z = 0 then 4 else 8) ((activeLanes s g).map (laneAt s base ra))) :
    let n := if z = 0 then 4 else 8
    let cut := fun r l => (laneVal (cur s) r l).toNat % 2 ^ (8 * n)
    run s (atomicForm f scope g z d a b s) = doneFillV s (.atomic f n scope) rd [rd] (activeLanes s g)
      (accessesOf s (activeLanes s g) (laneAt s base ra) n (cut (if f = 9 then rd + 1 else rd)) (cut rd)) := by
  intro n cut
  have regs : (if f = 9 then [ra, rd, rd + if f = 9 then 1 else 0] else [ra, rd]) =
      if f = 9 then [ra, rd, rd + 1] else [ra, rd] := by
    split <;> rfl
  have operand : (if f = 9 then rd + if f = 9 then 1 else 0 else rd) = if f = 9 then rd + 1 else rd := by
    split <;> rfl
  have accesses := flatMap_laneAddresses s base ra n (activeLanes s g) (cut (if f = 9 then rd + 1 else rd)) (cut rd)
  dsimp only [n, cut] at accesses
  simp only [atomicForm]
  rw [vxD_names hd, ok_bind, nextReg_fits fits, ok_bind, vxA_names ha, ok_bind, rdS_holds hb, ok_bind, regs, rdV_hold hold,
    ok_bind, map_laneAddresses, checked_passes pass, ok_bind, freeV_free free, ok_bind, awaitRel_free unheld, ok_bind, operand,
    accesses, show pendLanes (cur s) rd (activeLanes s g) = pendRegs (cur s) (activeLanes s g) [rd] from rfl,
    issueRecorded_live _ _ _ _ _ (notReplayed_pendRegs _ _ live)]
  rfl

end

/-- Settles O33: each form issues its accesses once its operands, lanes and checks admit it. -/
theorem vectorAccessesAndAtomicsIssue : Obligations.VectorAccessesAndAtomicsIssue := by
  unfold Obligations.VectorAccessesAndAtomicsIssue
  refine ⟨?loads, ?atomics⟩
  case loads =>
    intro s g z d a b e rd base hd hb live n lanes regs datum fits
    exact ⟨fun ra ha => ⟨fun hold pass free => execMLd_issues hd ha hb live fits hold pass free,
        fun hold pass unheld => execMSt_issues hd ha hb live fits hold pass unheld⟩,
      fun none_ => execMLds_idle hd hb fits none_, fun some_ pass free => execMLds_issues hd hb live fits some_ pass free⟩
  case atomics =>
    intro s g z d a b rd ra base ⟨hd, ha⟩ hb live unheld n lanes va cut out hold free pass
    have inAllot : runFits s rd 0 := hd.2
    have issues (f scope : Nat) (plain : f ≠ 9) : run s (atomicForm f scope g z d a b s) = out f scope rd := by
      have issued := atomicForm_issues f scope hd ha hb live unheld (by rwa [if_neg plain]) (by rwa [if_neg plain]) free pass
      rwa [if_neg plain] at issued
    have eight (scope : Nat) := And.intro (issues 0 scope (by decide)) <| And.intro (issues 1 scope (by decide)) <|
      And.intro (issues 2 scope (by decide)) <| And.intro (issues 3 scope (by decide)) <|
      And.intro (issues 4 scope (by decide)) <| And.intro (issues 5 scope (by decide)) <|
      And.intro (issues 6 scope (by decide)) (issues 7 scope (by decide))
    exact ⟨eight 1, eight 2, eight 3, issues 8 3 (by decide), fun fits hold3 =>
      atomicForm_issues 9 3 hd ha hb live unheld fits hold3 free pass⟩

end Sys2Proof.Proofs
end

section
/-! SUPPORT. m.push and m.pop on the spill stack (12 R261). -/

namespace Sys2Proof.Proofs

open Sys2Proof Sys2Proof.Machine Sys2Proof.Laws

section
variable {s : State} {g : BitVec 3} {d n : BitVec 6} {e : BitVec 1} {rd : Nat} {x : Word}

/-- The registers of a push or a pop of n + 1 of them. -/
def spillRegs (n : BitVec 6) (rd : Nat) : List Nat := (List.range (n.toNat + 1)).map fun i => rd + i

theorem nextReg_spill (fits : runFits s rd n.toNat) : nextReg s rd (n.toNat + 1 - 1) = .ok (rd + n.toNat) := nextReg_fits fits

theorem setS62_eq (s : State) (v : Nat) : setS62 s v = wrS s 62 (BitVec.ofNat 64 v) := rfl

theorem ofNat_toNat_add (x : Word) (m : Nat) : BitVec.ofNat 64 (x.toNat + m) = x + BitVec.ofNat 64 m := by
  rw [BitVec.ofNat_add, BitVec.ofNat_toNat, BitVec.setWidth_eq]

theorem execMPush_eq (hd : namesV s d (curStrand s).overD rd) (hx : holdsS s 62 x) (fits : runFits s rd n.toNat)
    (hold : lanesHold s (spillRegs n rd) (activeLanes s g)) :
    exec (.mPush g d n e) s = run s (
      if x.toNat % 8 ≠ 0 then .error (.trap 0x08 (spillAddress x.toNat) 0)
      else if 0x3C00 < x.toNat + (n.toNat + 1) * frameBytes (cur s) then .error (.trap 0x0C (spillAddress x.toNat) 0)
      else do
        checked s .store 8 (spillChecks s x.toNat (n.toNat + 1) (activeLanes s g))
        awaitRel s
        .ok (retire (issueOp (setS62 s (x.toNat + (n.toNat + 1) * frameBytes (cur s))) .store 0
          (spillAccesses s x.toNat rd (n.toNat + 1) (activeLanes s g))) 1)) := by
  show execMPush g d n e s = _
  rw [execMPush]
  dsimp only
  rw [vxD_names hd, ok_bind, nextReg_spill fits, ok_bind, rdS_holds hx, ok_bind]
  rw [show rdV s e ((List.range (n.toNat + 1)).map fun i => rd + i) (activeLanes s g) = _ from rdV_hold hold, ok_bind]

theorem execMPop_eq (hd : namesV s d (curStrand s).overD rd) (hx : holdsS s 62 x) (fits : runFits s rd n.toNat) :
    exec (.mPop g d n) s = run s (
      if x.toNat % 8 ≠ 0 then .error (.trap 0x08 (spillAddress x.toNat) 0)
      else if x.toNat < (n.toNat + 1) * frameBytes (cur s) then .error (.trap 0x0C (spillAddress x.toNat) 0)
      else do
        let o := x.toNat - (n.toNat + 1) * frameBytes (cur s)
        checked s .load 8 (spillChecks s o (n.toNat + 1) (activeLanes s g))
        freeV s (spillRegs n rd) (activeLanes s g)
        let t := setS62 s o
        .ok (retire (issueOp (setCur t (pendRegs (cur t) (activeLanes s g) (spillRegs n rd))) (.load 8 false) rd
          ((spillAccesses s o rd (n.toNat + 1) (activeLanes s g)).map fun a => { a with data := 0 })) 1)) := by
  show execMPop g d n s = _
  rw [execMPop]
  dsimp only
  rw [vxD_names hd, ok_bind, nextReg_spill fits, ok_bind, rdS_holds hx, ok_bind]
  rfl

theorem spillAccesses_zero (s : State) (o rd k : Nat) (lanes : List Nat) :
    (spillAccesses s o rd k lanes).map (fun a => { a with data := 0 }) =
      (List.range k).flatMap fun i => lanes.map fun l =>
        { lane := l, reg := i, place := spillPlace s.focus.key (o + frameBytes (cur s) * i + 8 * l), len := 8,
          pa := spillPlace s.focus.key (o + frameBytes (cur s) * i + 8 * l), data := 0 } := by
  simp only [spillAccesses, List.map_flatMap, List.map_map]
  rfl

end

/-- Settles O36: the two forms reduce to their bounds, checks and accesses, and each clause takes one of the branches. -/
theorem pushAndPop : Obligations.PushAndPop := by
  unfold Obligations.PushAndPop
  intro s g d n e rd x hd hx fits k f lanes regs frame addrs down at_
  refine ⟨fun hold => ?push, fun aligned inside pass free => ?pop, fun odd => ?_, fun aligned below => ?_⟩
  case push =>
    have form := execMPush_eq (e := e) hd hx fits hold
    refine ⟨fun aligned inside pass unheld => ?_, fun odd => ?_, fun aligned past => ?_⟩
    · have room : ¬0x3C00 < x.toNat + (n.toNat + 1) * frameBytes (cur s) := Nat.not_lt.mpr inside
      rw [form, if_neg (not_not.mpr aligned), if_neg room,
        show checked s .store 8 (spillChecks s x.toNat (n.toNat + 1) (activeLanes s g)) = _ from checked_passes pass, ok_bind,
        awaitRel_free unheld, ok_bind, setS62_eq, ofNat_toNat_add]
      rfl
    · rw [form, if_pos odd]
      rfl
    · have full : 0x3C00 < x.toNat + (n.toNat + 1) * frameBytes (cur s) := past
      rw [form, if_neg (not_not.mpr aligned), if_pos full]
      rfl
  case pop =>
    have room : ¬x.toNat < (n.toNat + 1) * frameBytes (cur s) := Nat.not_lt.mpr inside
    rw [execMPop_eq hd hx fits, if_neg (not_not.mpr aligned), if_neg room]
    dsimp only
    rw [show checked s .load 8 (spillChecks s (x.toNat - (n.toNat + 1) * frameBytes (cur s)) (n.toNat + 1) (activeLanes s g)) = _
        from checked_passes pass, ok_bind, show freeV s (spillRegs n rd) (activeLanes s g) = _ from freeV_free free, ok_bind,
      spillAccesses_zero]
    rfl
  · rw [execMPop_eq hd hx fits, if_pos odd]
    rfl
  · have empty : x.toNat < (n.toNat + 1) * frameBytes (cur s) := below
    rw [execMPop_eq hd hx fits, if_neg (not_not.mpr aligned), if_pos empty]
    rfl

end Sys2Proof.Proofs
end

section
/-! SUPPORT. The steps that perform an atomic operation and a store (12 R247, R248, R252). -/

namespace Sys2Proof.Proofs

open Sys2Proof Sys2Proof.Machine Sys2Proof.Laws

/-! ## The lanes of an atomic step (12 R252) -/

/-- The value that the first lanes of an atomic step leave. -/
def leftBy (f n v : Nat) (as : List Access) : Nat := as.foldl (fun x b => atomicOp f n x b.data b.data2) v

theorem atomicLanes_value (f n : Nat) (as : List Access) : ∀ v, (atomicLanes f n v as).1 = leftBy f n v as := by
  induction as with
  | nil => exact fun _ => rfl
  | cons a rest ih => exact fun v => ih _

theorem atomicLanes_lane (f n : Nat) (as : List Access) :
    ∀ (v k : Nat) (a : Access), as[k]? = some a →
      ((atomicLanes f n v as).2[k]?).map (fun b => (b.lane, b.result, b.done)) =
        some (a.lane, leftBy f n v (as.take k), true) := by
  induction as with
  | nil => exact fun _ _ _ h => nomatch h
  | cons b rest ih =>
    intro v k a h
    cases k with
    | zero =>
      obtain rfl : b = a := by simpa using h
      rfl
    | succ k => exact ih _ k a (by simpa using h)

theorem leftBy_sum {n : Nat} (as : List Access) :
    ∀ v, v < 2 ^ (8 * n) → leftBy 0 n v as = (v + (as.map fun b => b.data).sum) % 2 ^ (8 * n) := by
  induction as with
  | nil => exact fun v hv => (Nat.mod_eq_of_lt hv).symm
  | cons a rest ih =>
    intro v _
    refine (ih _ (Nat.mod_lt _ (Nat.two_pow_pos _))).trans ?_
    rw [List.map_cons, List.sum_cons, ← Nat.add_assoc]
    exact Nat.mod_add_mod _ _ _

theorem leftBy_exchange (n v : Nat) {as : List Access} {k : Nat} {a : Access} (h : as[k]? = some a) (pos : 0 < k) :
    leftBy 8 n v (as.take k) = ((as[k - 1]?).map fun b => b.data).getD v := by
  obtain ⟨m, rfl⟩ := Nat.exists_eq_succ_of_ne_zero (Nat.ne_of_gt pos)
  have below : m < as.length := Nat.lt_of_succ_lt (List.getElem?_eq_some_iff.mp h).1
  rw [Nat.succ_eq_add_one, List.take_add_one, Nat.add_sub_cancel, List.getElem?_eq_getElem below, leftBy, List.foldl_append]
  rfl

/-! ## The accesses of one step -/

/-- Of a numbered list, the one element with a given number that satisfies a condition. -/
theorem filter_zipIdx_index {α : Type} (p : α → Bool) {a : α} (hp : p a = true) (xs : List α) :
    ∀ n i, xs[i]? = some a → ((xs.zipIdx n).filter fun e => p e.1 && e.2 == n + i).map Prod.fst = [a] := by
  induction xs with
  | nil => exact fun _ _ h => nomatch h
  | cons x rest ih =>
    intro n i h
    rw [List.zipIdx_cons]
    cases i with
    | zero =>
      obtain rfl : x = a := by simpa using h
      have none_ : ((rest.zipIdx (n + 1)).filter fun e => p e.1 && e.2 == n + 0) = [] := by
        refine List.filter_eq_nil_iff.mpr fun e he => ?_
        have later := List.le_snd_of_mem_zipIdx he
        simp only [Bool.and_eq_true, beq_iff_eq, not_and]
        omega
      rw [List.filter_cons_of_pos (by simp [hp]), none_]
      rfl
    | succ i =>
      rw [List.filter_cons_of_neg (by simp)]
      have rest_ := ih (n + 1) i (by simpa using h)
      rwa [Nat.add_right_comm] at rest_

/-- A store performs one access in a step. -/
theorem stepAccesses_store {o : MemOp} {i : Nat} {a : Access} (kind : o.kind = .store) (ha : o.accs[i]? = some a)
    (todo : a.done = false) : stepAccesses o i a = [a] := by
  have only := filter_zipIdx_index (fun b : Access => !b.done) (by rw [todo]; rfl) o.accs 0 i ha
  simpa only [stepAccesses, sameStep, kind, Bool.and_false, Bool.or_false, Nat.zero_add] using only

theorem mergeStep_store {o : MemOp} {i : Nat} {a : Access} (kind : o.kind = .store) (r : Access) (xs : List Access) :
    ∀ j m b, j + m = i → xs[m]? = some b → b.done = false → (mergeStep o i a j xs [r])[m]? = some r := by
  induction xs with
  | nil => exact fun _ _ _ _ h _ => nomatch h
  | cons x rest ih =>
    intro j m b place h todo
    have same (y : Access) : sameStep o i a j y = (!y.done && j == i) := by
      simp only [sameStep, kind, Bool.and_false, Bool.or_false]
    cases m with
    | zero =>
      obtain rfl : x = b := by simpa using h
      have here : sameStep o i a j x = true := by rw [same, todo]; simpa using place
      simp [mergeStep, here]
    | succ m =>
      have other : sameStep o i a j x = false := by
        rw [same, show (j == i) = false from beq_false_of_ne (by omega), Bool.and_false]
      simp only [mergeStep, other, Bool.false_eq_true, if_false, List.getElem?_cons_succ]
      exact ih (j + 1) m b (by omega) (by simpa using h) todo

theorem findOp_replaceOp {c : Ctx} {id : Nat} {o p : MemOp} (h : findOp c id = some o) (hp : p.id = id) :
    findOp (replaceOp c p) id = some p := by
  unfold findOp at h
  simp only [findOp, replaceOp]
  generalize c.ops = ops at *
  induction ops with
  | nil => nomatch h
  | cons q rest ih =>
    rw [listFind] at h
    rw [List.map_cons, listFind]
    by_cases here : q.id = p.id
    · simp [here, hp]
    · have other : ¬(q.id == id) = true := by rwa [beq_iff_eq, ← hp]
      rw [if_neg other] at h
      rw [if_neg here, if_neg other]
      exact ih h

theorem findOp_id {c : Ctx} {id : Nat} {o : MemOp} (h : findOp c id = some o) : o.id = id := by
  unfold findOp at h
  generalize c.ops = ops at *
  induction ops with
  | nil => nomatch h
  | cons q rest ih =>
    rw [listFind] at h
    split at h
    case isTrue here =>
      obtain rfl : q = o := by simpa using h
      simpa using here
    case isFalse => exact ih h

theorem getCtx_storeHome (s : State) (p : Nat) (bs : List Byte) (bad : Bool) (k : Nat) :
    getCtx (storeHome s p bs bad) k = getCtx s k := by
  obtain ⟨acts, due⟩ := notePark_eq (writeBytes s p bs bad) p bs.length
  rw [storeHome, due]
  rfl

/-- What performing one access of a buffered store at a home outside main memory comes to. -/
theorem performAt_store {s : State} {key id i : Nat} {o : MemOp} {a : Access} (ho : findOp (getCtx s key) id = some o)
    (kind : o.kind = .store) (ha : o.accs[i]? = some a) (todo : a.done = false) (plain : a.cell = false)
    (home : mainTop ≤ a.place) :
    ∃ c, performAt s key id i = putCtx (storeHome s a.place (toBytes a.data a.len)) key
        (replaceOp c { o with accs := mergeStep o i a 0 o.accs [{ a with done := true }] }) ∧
      c.ops = (getCtx s key).ops := by
  have step : performUnit s (seenOps (fun p => o.prior.contains p.id) (earlierOps (getCtx s key) id)) o [a] =
      (storeHome s a.place (toBytes a.data a.len), [{ a with done := true }]) := by
    simp only [performUnit, plain, Bool.false_and, Bool.false_eq_true, if_false, kind, plainLanes, plainStep, storeAccess,
      if_neg (Nat.not_lt.mpr home)]
  refine ⟨orFlags (getCtx (storeHome s a.place (toBytes a.data a.len)) key) a.flags, ?_, ?_⟩
  · simp only [performAt, ho, ha, todo, Bool.false_eq_true, if_false, stepAccesses_store kind ha todo, step, List.foldl_cons,
      List.foldl_nil, stepMarks, plain, kind, recordAll, meetStep, meetEvents]
  · rw [getCtx_storeHome]
    rfl

/-- Settles O34: an atomic step by induction on its lanes, a store as one write of bytes at its place. -/
theorem performedAccessesActOnMemory : Obligations.PerformedAccessesActOnMemory := by
  unfold Obligations.PerformedAccessesActOnMemory
  refine ⟨?atomic, ?store, ?bytes⟩
  case atomic =>
    intro f n v as k a h
    have whole : as.take as.length = as := List.take_length
    refine ⟨atomicLanes_lane f n as v k a h, ?_, fun sum fits => ?_, fun exchange pos => ?_⟩
    · show _ = leftBy f n v (as.take as.length)
      rw [whole]
      exact atomicLanes_value f n as v
    · subst sum
      exact leftBy_sum (as.take k) v fits
    · subst exchange
      exact leftBy_exchange n v h pos
  case store =>
    intro s key id i o a ho _ kind ha todo plain home _ _ t
    obtain ⟨c, perform, ops⟩ := performAt_store ho kind ha todo plain home
    have read (p : Nat) : readByte t p = if a.place ≤ p ∧ p < a.place + a.len then
        (toBytes a.data a.len).getD (p - a.place) 0 else readByte s p := by
      have stored := readByte_storeHome s a.place (toBytes a.data a.len) false p
      rw [length_toBytes] at stored
      show readByte (performAt s key id i) p = _
      rw [perform]
      exact stored
    refine ⟨fun k hk => ?_, fun p outside => ?_, { o with accs := mergeStep o i a 0 o.accs [{ a with done := true }] }, ?_, ?_⟩
    · rw [read, if_pos (by omega), Nat.add_sub_cancel_left, List.getD_eq_getElem _ _ (by rwa [length_toBytes]), getElem_toBytes,
        Nat.pow_mul]
    · rw [read, if_neg (by omega)]
    · have found : findOp c id = some o := by rw [← ho, findOp, findOp, ops]
      show findOp (getCtx (performAt s key id i) key) id = _
      rw [perform, getCtx_putCtx]
      exact findOp_replaceOp found (show o.id = id from findOp_id ho)
    · rw [mergeStep_store kind _ o.accs 0 i a (Nat.zero_add i) ha todo]
      rfl
  case bytes =>
    intro s p bs bad t
    refine ⟨fun k hk => readByte_writeBytes_in s p bs bad hk, fun q outside => readByte_writeBytes_out s p bs bad outside,
      readNat_of_bytes fun i hi => readByte_writeBytes_in s p bs bad hi, fun x => ofBytes_toBytes x bs.length⟩

end Sys2Proof.Proofs
end

section
/-! SUPPORT. Barrier words (12 R255 to R257) and fences (12 R259, R260; 11 R245). -/

namespace Sys2Proof.Proofs

open Sys2Proof Sys2Proof.Machine Sys2Proof.Laws

/-! ## Barrier words -/

theorem releasePark_cores (s : State) (key slots : Nat) : ∃ cs, releasePark s key slots = { s with cores := cs } := by
  unfold releasePark
  split
  · exact ⟨s.cores, rfl⟩
  · exact ⟨_, rfl⟩

theorem unrecorded_releasePark {s : State} (key slots : Nat) (plain : unrecorded s) : unrecorded (releasePark s key slots) := by
  obtain ⟨cs, eq⟩ := releasePark_cores s key slots
  rw [eq]
  exact plain

section
variable {s : State} {g : BitVec 3} {d a : BitVec 6} {i : BitVec 10} {x t : Word} {p : Nat}

theorem checkBarrier_passes {b : Word} (group : regionOf b.toNat = .group) (pass : accessesPass s .barrier 8 [b.toNat]) :
    checkBarrier s b = .ok () := by
  rw [checkBarrier, if_neg (not_not.mpr group), checked_passes pass]

theorem laneAccesses_home {q : Requester} {va n : Nat} (h : targetOf s q va = .home p) (small : n ≠ 16) (lane data data2 : Nat) :
    laneAccesses s q lane va n data data2 = [{ lane := lane, place := p, len := n, pa := p, data := data, data2 := data2 }] := by
  rw [laneAccesses, if_neg fun both => small both.1, h]
  rfl

theorem execMArrive_issues (on : guardP s g = true) (ha : holdsS s a x) (live : notReplayed s)
    (group : regionOf (x + 8 * i.signExtend 64).toNat = .group)
    (pass : accessesPass s .barrier 8 [(x + 8 * i.signExtend 64).toNat])
    (home : targetAt s (x + 8 * i.signExtend 64).toNat = .home p) (free : writableS s d) (unheld : noFenceHolds s) :
    exec (.mArrive g d a i) s = doneFill s .arrive d [{ place := p, len := 8, pa := p }] := by
  show execMArrive g d a i s = _
  rw [execMArrive, guarded_on _ on, rdS_holds ha, ok_bind]
  dsimp only
  rw [show barrierAddress x i = x + 8 * i.signExtend 64 from rfl, checkBarrier_passes group pass, ok_bind,
    freeS_writable free, ok_bind, awaitRel_free unheld, ok_bind, laneAccesses_home home (by decide),
    issueRecorded_live _ _ _ _ _ (notReplayed_putS _ _ live)]
  rfl

theorem execMWait_completes (on : guardP s g = true) (ha : holdsS s a x)
    (group : regionOf (x + 8 * i.signExtend 64).toNat = .group)
    (pass : accessesPass s .barrier 8 [(x + 8 * i.signExtend 64).toNat])
    (home : targetAt s (x + 8 * i.signExtend 64).toNat = .home p) (hd : holdsS s d t) (plain : unrecorded s)
    (ready : waitReady s p = true) (sound : (barrierWord s s.focus.key [s.focus.slot] p).2 = false)
    (other : phaseOf (barrierWord s s.focus.key [s.focus.slot] p).1 ≠ t.toNat % 2 ^ 16) :
    exec (.mWait g d a i) s = done (releasePark s s.focus.key (2 ^ s.focus.slot)) := by
  have word : barrierAddress x i = x + 8 * i.signExtend 64 := rfl
  have focus := releasePark_focus s s.focus.key (2 ^ s.focus.slot)
  have complete : completeWait s p = retire (releasePark s s.focus.key (2 ^ s.focus.slot)) 1 := by
    have completed := completeRecorded_plain 1 5
      (windowOffset (releasePark s s.focus.key (2 ^ s.focus.slot)) s.focus.key p) 0
      (unrecorded_releasePark s.focus.key (2 ^ s.focus.slot) plain)
    rw [focus] at completed
    rw [completeWait, focus]
    exact completed
  show execMWait g d a i s = _
  simp only [execMWait, on, if_true, rdS_holds hd, rdS_holds ha, ok_bind, word, checkBarrier_passes group pass]
  rw [show targetOf s (requester s s.focus.key) (x + 8 * i.signExtend 64).toNat = _ from home]
  simp only [ready, sound, other, Bool.not_true, Bool.false_eq_true, if_false, complete]
  rfl

end

theorem bf_lt (w : Word) (hi lo : Nat) : bf w hi lo < 2 ^ (hi + 1 - lo) := Nat.mod_lt _ (Nat.two_pow_pos _)

theorem toNat_ofNat_small {n : Nat} (h : n < 2 ^ 64) : (BitVec.ofNat 64 n).toNat = n := by
  rw [BitVec.toNat_ofNat, Nat.mod_eq_of_lt h]

/-- The four fields of a barrier word put together from their values. -/
theorem bf_ofFields {a p r e : Nat} (ha : a < 2 ^ 16) (hp : p < 2 ^ 16) (hr : r < 2 ^ 16) (he : e < 2 ^ 16) :
    let v := BitVec.ofNat 64 (a * 2 ^ 48 + p * 2 ^ 32 + r * 2 ^ 16 + e)
    bf v 15 0 = e ∧ bf v 31 16 = r ∧ bf v 47 32 = p ∧ bf v 63 48 = a := by
  simp only [bf]
  rw [toNat_ofNat_small (by omega)]
  omega

theorem place_small {v hi lo : Nat} (h : v < 2 ^ (hi + 1 - lo)) : place v hi lo = v * 2 ^ lo := by
  rw [place, Nat.mod_eq_of_lt h]

theorem arriveWord_last {w : Word} (last : bf w 15 0 ≤ bf w 31 16 + 1) :
    arriveWord w = BitVec.ofNat 64
      (bf w 63 48 * 2 ^ 48 + (bf w 47 32 + 1) % 2 ^ 16 * 2 ^ 32 + 0 * 2 ^ 16 + bf w 15 0) := by
  rw [arriveWord, if_pos last, place_small (bf_lt w 63 48), place, Nat.zero_mul,
    Nat.add_zero (bf w 63 48 * 2 ^ 48 + (bf w 47 32 + 1) % 2 ^ 16 * 2 ^ 32)]

theorem arriveWord_more {w : Word} (more : bf w 31 16 + 1 < bf w 15 0) :
    arriveWord w = BitVec.ofNat 64
      (bf w 63 48 * 2 ^ 48 + bf w 47 32 * 2 ^ 32 + (bf w 31 16 + 1) * 2 ^ 16 + bf w 15 0) := by
  rw [arriveWord, if_neg (Nat.not_le.mpr more), place_small (bf_lt w 63 48), place_small (bf_lt w 47 32),
    place_small (hi := 31) (lo := 16) (more.trans (bf_lt w 15 0))]

theorem arriveWord_fields (w : Word) :
    let ex := bf w 15 0
    let ar := bf w 31 16
    let v := arriveWord w
    bf v 15 0 = ex ∧ bf v 63 48 = bf w 63 48 ∧
      (ex ≤ ar + 1 → bf v 31 16 = 0 ∧ bf v 47 32 = (bf w 47 32 + 1) % 2 ^ 16) ∧
      (ar + 1 < ex → bf v 31 16 = ar + 1 ∧ bf v 47 32 = bf w 47 32) := by
  dsimp only
  obtain more | last := Nat.lt_or_ge (bf w 31 16 + 1) (bf w 15 0)
  · obtain ⟨b0, b1, b2, b3⟩ := bf_ofFields (bf_lt w 63 48) (bf_lt w 47 32) (more.trans (bf_lt w 15 0)) (bf_lt w 15 0)
    rw [arriveWord_more more]
    exact ⟨b0, b3, fun full => absurd full (Nat.not_le.mpr more), fun _ => ⟨b1, b2⟩⟩
  · obtain ⟨b0, b1, b2, b3⟩ := bf_ofFields (bf_lt w 63 48) (Nat.mod_lt (bf w 47 32 + 1) (Nat.two_pow_pos 16))
      (Nat.two_pow_pos 16) (bf_lt w 15 0)
    rw [arriveWord_last last]
    exact ⟨b0, b3, fun _ => ⟨b1, b2⟩, fun more => absurd last (Nat.not_le.mpr more)⟩

/-! ## Fences -/

/-- Every access of the strand's operations of a kind has been performed. -/
def performedOf (s : State) (kind : OpKind → Bool) : Prop :=
  ∀ o ∈ (cur s).ops, o.order.getLsbD s.focus.slot = true → kind o.kind = true → ∀ b ∈ o.accs, b.done = true

theorem strandDone_of_performed {s : State} {kind : OpKind → Bool} (h : performedOf s kind) {reads stores : Bool} (atWarp : Bool)
    (covers : ∀ k, (reads && opReads k || stores && opWrites k) = true → kind k = true) :
    strandDone (cur s).ops s.focus.slot reads stores atWarp = true := by
  refine List.all_eq_true.mpr fun o ho => ?_
  cases mine : o.order.getLsbD s.focus.slot with
  | false => simp only [mine, Bool.not_false, Bool.true_or]
  | true =>
    cases counts : reads && opReads o.kind || stores && opWrites o.kind with
    | false => simp
    | true =>
      have all : (o.accs.all fun b => b.done || (atWarp && b.shown)) = true :=
        List.all_eq_true.mpr fun b hb => by rw [h o ho mine (covers _ counts) b hb, Bool.true_or]
      rw [all, Bool.or_true]

theorem strandDone_reads {s : State} (h : performedOf s opReads) : strandDone (cur s).ops s.focus.slot true false = true :=
  strandDone_of_performed h false fun k counts => by simpa using counts

theorem strandDone_all {s : State} (h : performedOf s opAccesses) (reads stores atWarp : Bool) :
    strandDone (cur s).ops s.focus.slot reads stores atWarp = true :=
  strandDone_of_performed h atWarp fun k counts => by
    rw [opAccesses, Bool.or_eq_true]
    simp only [Bool.or_eq_true, Bool.and_eq_true] at counts
    exact counts.imp And.right And.right

theorem fenceDone_acq {s : State} (h : performedOf s opReads) (scope : Nat) : fenceDone s 0 scope = true := by
  rw [fenceDone, strandDone_reads h]
  rfl

theorem fenceDone_all {s : State} (h : performedOf s opAccesses) (kind scope : Nat) : fenceDone s kind scope = true := by
  simp only [fenceDone, strandDone_all h, Bool.or_true, Bool.and_self]

section
variable {s : State} {g sc : BitVec 3}

theorem holdFence_passes {kind : Nat} (on : guardP s g = true) (scope : sc.toNat < 5) (ready : fenceDone s kind sc.toNat = true) :
    run s (holdFence kind g sc s) = done (passFence s kind) := by
  rw [holdFence, decide_eq_true scope, need_true, ok_bind, guarded_on _ on, ready, await_true, ok_bind]
  rfl

theorem relFence_eq (on : guardP s g = true) (scope : sc.toNat < 5) :
    exec (.fenceRel g sc) s = .next (if fenceDone s 1 sc.toNat then retire (passFence s 1) 1 else openRel s sc.toNat) := by
  show run s (relFence g sc s) = _
  rw [relFence, decide_eq_true scope, need_true, ok_bind, guarded_on _ on]
  rfl

theorem execFenceRel_open (on : guardP s g = true) (scope : sc.toNat < 5) (pending : fenceDone s 1 sc.toNat = false) :
    exec (.fenceRel g sc) s = done (issueOp { s with drawn := s.drawn + 1 } (.fence 1 sc.toNat) 0 []) ∨
      exec (.fenceRel g sc) s = waits { s with drawn := s.drawn + 1 } .fence := by
  rw [relFence_eq on scope, pending, if_neg Bool.false_ne_true, openRel]
  split
  · exact Or.inl rfl
  · exact Or.inr rfl

theorem execFenceTlr_completes (on : guardP s g = true) (performed : performedOf s opAccesses)
    (warp : isSystem s.focus.key = false)
    (idle : ∀ c ∈ s.cores, ∀ o ∈ c.2.engine, openTransfer (cur s) s.focus.slot o = false) :
    ∃ u, exec (.fenceTlr g) s = .next u ∧ curCore u = { curCore s with records := [] } := by
  have none_ : (s.cores.all fun c => c.2.engine.all fun o => !openTransfer (cur s) s.focus.slot o) = true :=
    List.all_eq_true.mpr fun c hc => List.all_eq_true.mpr fun o ho => by rw [idle c hc o ho]; rfl
  refine ⟨retire (putCore s (keyCore s.focus.key) { curCore s with records := [] }) 1, ?_, ?_⟩
  · show execFenceTlr g s = _
    rw [execFenceTlr, guarded_on _ on, strandDone_all performed, await_true, ok_bind, if_neg (by rw [warp]; decide), none_,
      await_true, ok_bind]
    rfl
  · rw [curCore_retire, curCore_putCore]

/-! ### What passing a fence changes -/

/-- An operation as a fence of a kind that a strand passes releases it (15 R294). -/
def releasedOp (slot kind : Nat) (p : MemOp) : MemOp :=
  if kind = 0 then p
  else if p.order.getLsbD slot && p.kind == .store && p.accs.any (fun b => !b.done) then { p with released := true } else p

/-- An operation as such a fence leaves it: an acquire puts a released one before its strand (15 R296). -/
def fencedOp (slot kind : Nat) (p : MemOp) : MemOp :=
  if kind = 1 then releasedOp slot kind p
  else if (releasedOp slot kind p).released then
    { releasedOp slot kind p with order := (releasedOp slot kind p).order ||| BitVec.ofNat 8 (2 ^ slot) }
  else releasedOp slot kind p

theorem fencedOps_eq (slot kind : Nat) (ops : List MemOp) :
    (let released := if kind = 0 then ops else releaseOps (fun p => p.order.getLsbD slot) ops
      if kind = 1 then released else acquireOps slot released) = ops.map (fencedOp slot kind) := by
  by_cases acq : kind = 0
  · subst acq
    rfl
  · by_cases rel : kind = 1
    · subst rel
      rfl
    · simp only [acq, rel, if_false, acquireOps, releaseOps, List.map_map]
      refine List.map_congr_left fun p _ => ?_
      simp only [Function.comp_apply, fencedOp, releasedOp, acq, rel, if_false]

theorem passFence_cases (s : State) (kind : Nat) :
    (passFence s kind = s ∧ (cur s).ops.map (fencedOp s.focus.slot kind) = (cur s).ops) ∨
      passFence s kind = setCur s { cur s with ops := (cur s).ops.map (fencedOp s.focus.slot kind) } := by
  have fenced := fencedOps_eq s.focus.slot kind (cur s).ops
  dsimp only at fenced
  simp only [passFence, fenced]
  split
  case isTrue same => exact Or.inl ⟨rfl, same⟩
  case isFalse => exact Or.inr rfl

theorem passFence_frame (s : State) (kind : Nat) :
    onlyCur s (passFence s kind) ∧
      cur (passFence s kind) = { cur s with ops := (cur s).ops.map (fencedOp s.focus.slot kind) } := by
  obtain ⟨same, ops⟩ | changed := passFence_cases s kind
  · rw [same, ops]
    exact ⟨⟨rfl, fun _ _ => rfl, fun _ => rfl⟩, rfl⟩
  · rw [changed]
    exact ⟨onlyCur_setCur s _, cur_setCur s _⟩

/-- A fence leaves all of an operation but who has it before its next access, and whether it is released. -/
theorem fencedOp_eq (slot kind : Nat) (p : MemOp) :
    fencedOp slot kind p =
      { p with order := (fencedOp slot kind p).order, released := (fencedOp slot kind p).released } := by
  unfold fencedOp releasedOp
  split_ifs <;> rfl

/-- A release has the strand's stores that are not performed released (15 R294). -/
theorem released_fencedOp {slot kind : Nat} {p : MemOp} (rel : kind ≠ 0) (mine : (fencedOp slot kind p).order.getLsbD slot = true)
    (store : p.kind = .store) (open_ : (p.accs.any fun b => !b.done) = true) : (fencedOp slot kind p).released = true := by
  cases own : p.order.getLsbD slot with
  | true =>
    have released : (releasedOp slot kind p).released = true := by
      simp only [releasedOp, rel, own, store, open_, beq_self_eq_true, Bool.and_self, if_true, if_false]
    unfold fencedOp
    split_ifs <;> exact released
  | false =>
    have kept : releasedOp slot kind p = p := by
      simp only [releasedOp, own, Bool.false_and, Bool.false_eq_true, if_false, ite_self]
    unfold fencedOp at mine ⊢
    rw [kept] at mine ⊢
    split_ifs at mine ⊢ with _ released
    · exact absurd mine (by rw [own]; decide)
    · exact released
    · exact absurd mine (by rw [own]; decide)

theorem getLsbD_slotBit {slot : Nat} (h : slot < 8) : (BitVec.ofNat 8 (2 ^ slot)).getLsbD slot = true := by
  rw [BitVec.getLsbD_ofNat, decide_eq_true h, Nat.testBit_two_pow_self]
  rfl

/-- An acquire puts what is released before its strand (15 R296). -/
theorem ordered_fencedOp {slot kind : Nat} {p : MemOp} (acq : kind ≠ 1) (small : slot < 8)
    (released : (fencedOp slot kind p).released = true) : (fencedOp slot kind p).order.getLsbD slot = true := by
  unfold fencedOp at released ⊢
  rw [if_neg acq] at released ⊢
  split_ifs at released ⊢ with own
  · rw [BitVec.getLsbD_or, getLsbD_slotBit small, Bool.or_true]
  · exact absurd released own

end

/-- Settles O35: each form by the branch that its conditions leave, and a fence by what it makes of each operation. -/
theorem barriersAndFences : Obligations.BarriersAndFences := by
  unfold Obligations.BarriersAndFences
  refine ⟨⟨?barrier, arriveWord_fields⟩, ?fence⟩
  case barrier =>
    intro s g d a i x t p on ha live b group pass home
    exact ⟨fun free unheld => execMArrive_issues on ha live group pass home free unheld,
      fun hd plain ready sound other => execMWait_completes on ha group pass home hd plain ready sound other⟩
  case fence =>
    intro s g sc on reads all
    refine ⟨fun scope => ⟨fun h => holdFence_passes on scope (fenceDone_acq h _), fun h => ?_,
      execFenceRel_open on scope⟩, fun wide => ?_, ?frame, fun h warp idle => execFenceTlr_completes on h warp idle⟩
    · refine ⟨?_, holdFence_passes on scope (fenceDone_all h 2 _), holdFence_passes on scope (fenceDone_all h 3 _)⟩
      rw [relFence_eq on scope, fenceDone_all h]
      rfl
    · show run s (holdFence 0 g sc s) = _
      rw [holdFence, decide_eq_false (Nat.not_lt.mpr wide), need_false]
      rfl
    case frame =>
      intro kind t bare
      obtain ⟨only, now⟩ := passFence_frame s kind
      have ops : (cur t).ops = (cur s).ops.map (fencedOp s.focus.slot kind) := congrArg Ctx.ops now
      refine ⟨only, by rw [ops]; exact now, ?_, fun o ho => ?_⟩
      · rw [ops, List.map_map]
        exact List.map_congr_left fun p _ => (congrArg bare (fencedOp_eq s.focus.slot kind p)).trans rfl
      · rw [ops] at ho
        obtain ⟨p, -, rfl⟩ := List.mem_map.mp ho
        refine ⟨fun rel mine store ⟨b, hb, todo⟩ => ?_, fun acq small released => ordered_fencedOp acq small released⟩
        rw [fencedOp_eq] at store hb
        exact released_fencedOp rel mine store (List.any_eq_true.mpr ⟨b, hb, by rw [todo]; rfl⟩)

end Sys2Proof.Proofs
end

section
/-! SUPPORT. Sibling forms (16 R318 to R321) and the compatibility forms (23 R459 to R461). -/

namespace Sys2Proof.Proofs

open Sys2Proof Sys2Proof.Machine Sys2Proof.Laws

/-! ## Sibling forms -/

section
variable {s : State} {g t : BitVec 3} {y : BitVec 1} {d a b : BitVec 6} {e : BitVec 1} {rd ra rb : Nat}

theorem siblingForm_issues {lanes dests : List Nat} (kind : OpKind) (acc : Acc) (data data2 : Nat → Nat) (live : notReplayed s)
    (pass : accessesPass s acc 8 (lanes.map (laneAt s 0 ra))) (free : lanesFree s dests lanes)
    (unheld : acc ≠ .cellLoad → noFenceHolds s) :
    run s (siblingForm s kind acc rd dests ra lanes data data2) =
      doneFillV s kind rd dests lanes (accessesOf s lanes (laneAt s 0 ra) 8 data data2) := by
  have rel (m : Res State) : (if acc = .cellLoad then m else awaitRel s >>= fun _ => m) = m := by
    split
    case isTrue => rfl
    case isFalse other => rw [awaitRel_free (unheld other), ok_bind]
  have accesses := flatMap_laneAddresses s 0 ra 8 lanes data data2
  simp only [siblingForm]
  rw [map_laneAddresses, checked_passes pass, ok_bind, freeV_free free, ok_bind, rel, accesses,
    issueRecorded_live _ _ _ _ _ (notReplayed_pendRegs _ _ live)]
  rfl

theorem execMLdv_issues (names : namesDa s d a rd ra) (hb : namesV s b (curStrand s).overB rb) (live : notReplayed s)
    (fits : runFits s rd 1) (hold : lanesHold s [ra, rb] (activeLanes s g))
    (pass : accessesPass s .cellLoad 8 ((activeLanes s g).map (laneAt s 0 ra)))
    (free : lanesFree s [rd, rd + 1] (activeLanes s g)) :
    exec (.mLdv g y d a b e) s = doneFillV s .cellLdv rd [rd, rd + 1] (activeLanes s g)
      (accessesOf s (activeLanes s g) (laneAt s 0 ra) 8 (fun _ => 0) fun l => (laneVal (cur s) rb l).toNat) := by
  obtain ⟨hd, ha⟩ := names
  show execMLdv g y d a b e s = _
  rw [execMLdv, vxD_names hd, ok_bind, nextReg_fits fits, ok_bind, vxA_names ha, ok_bind, vxB_names hb, ok_bind]
  dsimp only
  rw [rdV_hold hold, ok_bind]
  exact siblingForm_issues .cellLdv .cellLoad _ _ live pass free fun other => absurd rfl other

theorem execMStv_issues (names : namesDa s d a rd ra) (hb : namesV s b (curStrand s).overB rb) (live : notReplayed s)
    (fits : runFits s rb 1) (hold : lanesHold s [ra, rb, rb + 1] (activeLanes s g))
    (pass : accessesPass s .cellStore 8 ((activeLanes s g).map (laneAt s 0 ra)))
    (free : lanesFree s [rd] (activeLanes s g)) (unheld : noFenceHolds s) :
    exec (.mStv g y d a b e) s = doneFillV s .cellStv rd [rd] (activeLanes s g)
      (accessesOf s (activeLanes s g) (laneAt s 0 ra) 8 (fun l => (laneVal (cur s) rb l).toNat)
        fun l => (laneVal (cur s) (rb + 1) l).toNat) := by
  obtain ⟨hd, ha⟩ := names
  show execMStv g y d a b e s = _
  rw [execMStv, vxD_names hd, ok_bind, vxA_names ha, ok_bind, vxB_names hb, ok_bind, nextReg_fits fits, ok_bind]
  dsimp only
  rw [rdV_hold hold, ok_bind]
  exact siblingForm_issues .cellStv .cellStore _ _ live pass free fun _ => unheld

theorem reconcileForm_issues (f : Nat) (names : namesDa s d a rd ra) (live : notReplayed s) (fits : runFits s rd 1)
    (hold : lanesHold s [ra] (activeLanes s g)) (pass : accessesPass s .cellBoth 8 ((activeLanes s g).map (laneAt s 0 ra)))
    (free : lanesFree s [rd, rd + 1] (activeLanes s g)) (unheld : noFenceHolds s) :
    run s (reconcileForm f g t d a e s) = doneFillV s (.cellRcn f t.toNat) rd [rd, rd + 1] (activeLanes s g)
      (accessesOf s (activeLanes s g) (laneAt s 0 ra) 8 (fun _ => 0) fun _ => 0) := by
  obtain ⟨hd, ha⟩ := names
  rw [reconcileForm, vxD_names hd, ok_bind, nextReg_fits fits, ok_bind, vxA_names ha, ok_bind]
  dsimp only
  rw [rdV_hold hold, ok_bind]
  exact siblingForm_issues _ .cellBoth _ _ live pass free fun _ => unheld

end

/-! ## Compatibility forms -/

theorem sxWord_signExtend (x : Word) : sxWord x.toNat 32 = (x.truncate 32).signExtend 64 := by
  rw [sxWord, toSigned_eq, BitVec.ofNat_toNat, ofNat_wrapInt]
  rfl

section
variable {s : State} {z : BitVec 3} {d a b : BitVec 6} {rd ra : Nat} {base : Word}

/-- The address of a lane's lg access of size z: the base plus that many times the lane's index (23 R459). -/
def lgAt (s : State) (z : BitVec 3) (base : Word) (ra l : Nat) : Nat :=
  (base + BitVec.ofNat 64 (sizeBytes z) *
    (BitVec.ofNat 64 (lgFirst s) + ((laneVal (cur s) ra l).truncate 32).signExtend 64)).toNat

theorem lgAddresses_eq (s : State) (z : BitVec 3) (ra : Nat) (base : Word) (lanes : List Nat) :
    lgAddresses s ra (sizeBytes z) base lanes = lanes.map fun l => (l, lgAt s z base ra l) := by
  simp only [lgAddresses, sxWord_signExtend]
  rfl

theorem map_snd_lgAt (lanes : List Nat) :
    (lanes.map fun l => (l, lgAt s z base ra l)).map Prod.snd = lanes.map (lgAt s z base ra) := by
  rw [List.map_map]
  rfl

theorem execLgLd_issues (names : namesDa s d a rd ra) (hb : holdsS s b base) (small : z ≠ 7)
    (hold : lanesHold s [ra] (lanesOf (curStrand s).mask))
    (pass : accessesPass s .lgLoad (sizeBytes z) ((lanesOf (curStrand s).mask).map (lgAt s z base ra)))
    (free : lanesFree s [rd] (lanesOf (curStrand s).mask)) :
    exec (.lgLd z d a b) s =
      done (issueOp (setCur s (pendRegs (cur s) (lanesOf (curStrand s).mask) [rd])) (.load (sizeBytes z) (sizeSigned z)) rd
        (accessesOf s (lanesOf (curStrand s).mask) (lgAt s z base ra) (sizeBytes z) (fun _ => 0) fun _ => 0) true) := by
  obtain ⟨hd, ha⟩ := names
  show execLgLd z d a b s = _
  rw [execLgLd, bne_iff_ne.mpr small, need_true, ok_bind]
  dsimp only
  rw [vxD_names hd, ok_bind, vxA_names ha, ok_bind, rdS_holds hb, ok_bind, rdV_hold hold, ok_bind, lgAddresses_eq, map_snd_lgAt,
    checked_passes pass, ok_bind, freeV_free free, ok_bind, List.flatMap_map]
  rfl

theorem execLgSt_issues (names : namesDa s d a rd ra) (hb : holdsS s b base) (small : z ≠ 7)
    (hold : lanesHold s [ra, rd] (lanesOf (curStrand s).mask))
    (pass : accessesPass s .lgStore (sizeBytes z) ((lanesOf (curStrand s).mask).map (lgAt s z base ra)))
    (unheld : noFenceHolds s) :
    exec (.lgSt z d a b) s = done (issueOp s .store 0
      (accessesOf s (lanesOf (curStrand s).mask) (lgAt s z base ra) (sizeBytes z)
        (fun l => (laneVal (cur s) rd l).toNat % 2 ^ (8 * sizeBytes z)) fun _ => 0) true) := by
  obtain ⟨hd, ha⟩ := names
  show execLgSt z d a b s = _
  rw [execLgSt, bne_iff_ne.mpr small, need_true, ok_bind]
  dsimp only
  rw [vxD_names hd, ok_bind, vxA_names ha, ok_bind, rdS_holds hb, ok_bind, rdV_hold hold, ok_bind, lgAddresses_eq, map_snd_lgAt,
    checked_passes pass, ok_bind, awaitRel_free unheld, ok_bind, List.flatMap_map]
  rfl

theorem execLgBar_completes (root : (curStrand s).root = true) (performed : (cur s).ops = [])
    (there : ∀ r ∈ workgroupRoots s, r ≠ s.focus → atBarrier s r = true) :
    exec .lgBar s = .next (passBarrier s (s.focus :: (workgroupRoots s).filter fun r => r != s.focus)) := by
  have all : (((workgroupRoots s).filter fun r => r != s.focus).all (atBarrier s)) = true := by
    refine List.all_eq_true.mpr fun r hr => ?_
    obtain ⟨member, other⟩ := List.mem_filter.mp hr
    exact there r member (bne_iff_ne.mp other)
  have idle : strandDone (cur s).ops s.focus.slot true true = true := by
    rw [performed]
    rfl
  show execLgBar s = _
  rw [execLgBar, root, need_true, ok_bind, idle, await_true, ok_bind]
  dsimp only
  rw [all, await_true, ok_bind]
  rfl

end

/-- Settles O37: each form's checks pass, and it issues; the barrier passes with every root there. -/
theorem siblingAndCompatibilityForms : Obligations.SiblingAndCompatibilityForms := by
  unfold Obligations.SiblingAndCompatibilityForms
  refine ⟨?sibling, ?compat⟩
  case sibling =>
    intro s g t y d a b j e rd ra names live lanes va data rcn
    refine ⟨fun rb hb => ⟨fun fits hold pass free => execMLdv_issues names hb live fits hold pass free,
      fun fits hold pass free unheld => execMStv_issues names hb live fits hold pass free unheld⟩,
      fun fits hold pass free unheld => ?_⟩
    have rcnForm (f : Nat) := reconcileForm_issues (t := t) (e := e) f names live fits hold pass free unheld
    exact ⟨rcnForm 0, rcnForm 1, rcnForm 2, rcnForm 3, rcnForm (4 + j.toNat)⟩
  case compat =>
    intro s z d a b rd ra base names hb small n lanes first index va
    exact ⟨fun hold pass free => execLgLd_issues names hb small hold pass free,
      fun hold pass unheld => execLgSt_issues names hb small hold pass unheld,
      fun root performed there => execLgBar_completes root performed there⟩

end Sys2Proof.Proofs
end

section
/-! SUPPORT. fork (08 R179, R180): the join sets that it leaves empty, the strands that take slots, and the serial form. -/

namespace Sys2Proof.Proofs

open Sys2Proof Sys2Proof.Machine Sys2Proof.Laws

/-! ## Lanes left empty -/

/-- A lane marked empty, its value kept. -/
def emptied (c : Ctx) (r l : Nat) : Ctx := putV c r l { getV c r l with fill := .empty }

theorem fill_emptied_same (c : Ctx) (r l : Nat) : (getV (emptied c r l) r l).fill = .empty :=
  congrArg Reg.fill (getV_putV ..)

theorem fill_emptied {c : Ctx} {r l : Nat} (q m : Nat) (h : (getV c q m).fill = .empty) :
    (getV (emptied c r l) q m).fill = .empty := by
  by_cases here : q * 64 + m = r * 64 + l
  · have same : getV (emptied c r l) q m = getV (emptied c r l) r l := congrArg (mapGet ({} : Reg) (emptied c r l).vregs) here
    rw [same]
    exact fill_emptied_same c r l
  · exact (congrArg Reg.fill (getV_putV_ne c _ here)).trans h

theorem fill_foldl_emptied (r q m : Nat) (lanes : List Nat) :
    ∀ c, (getV c q m).fill = .empty → (getV (lanes.foldl (fun c l => emptied c r l) c) q m).fill = .empty := by
  induction lanes with
  | nil => exact fun _ h => h
  | cons l rest ih => exact fun c h => ih _ (fill_emptied q m h)

theorem foldl_emptied_mem {r l : Nat} {lanes : List Nat} (h : l ∈ lanes) :
    ∀ c, (getV (lanes.foldl (fun c l => emptied c r l) c) r l).fill = .empty := by
  induction lanes with
  | nil => exact absurd h List.not_mem_nil
  | cons k rest ih =>
    intro c
    obtain rfl | later := List.mem_cons.mp h
    · exact fill_foldl_emptied r r l rest _ (fill_emptied_same c r l)
    · exact ih later _

theorem emptyRegs_kept (lanes : List Nat) (q m : Nat) (regs : List Nat) :
    ∀ c, (getV c q m).fill = .empty → (getV (emptyRegs c lanes regs) q m).fill = .empty := by
  induction regs with
  | nil => exact fun _ h => h
  | cons r rest ih => exact fun c h => ih _ (fill_foldl_emptied r q m lanes c h)

theorem emptyRegs_mem {lanes regs : List Nat} {r l : Nat} (hl : l ∈ lanes) (hr : r ∈ regs) :
    ∀ c, (getV (emptyRegs c lanes regs) r l).fill = .empty := by
  induction regs with
  | nil => exact absurd hr List.not_mem_nil
  | cons k rest ih =>
    intro c
    obtain rfl | later := List.mem_cons.mp hr
    · exact emptyRegs_kept lanes r l rest _ (foldl_emptied_mem hl c)
    · exact ih later _

/-- Two contexts differ in vector registers alone. -/
def onlyVregs (c d : Ctx) : Prop := d = { c with vregs := d.vregs }

theorem onlyVregs.trans {c d e : Ctx} (h : onlyVregs c d) (k : onlyVregs d e) : onlyVregs c e :=
  Eq.trans k (congrArg (fun x : Ctx => { x with vregs := e.vregs }) h)

theorem foldl_emptied_only (r : Nat) (lanes : List Nat) : ∀ c, onlyVregs c (lanes.foldl (fun c l => emptied c r l) c) := by
  induction lanes with
  | nil => exact fun _ => rfl
  | cons l rest ih => exact fun c => onlyVregs.trans (d := emptied c r l) rfl (ih _)

theorem emptyRegs_only (lanes regs : List Nat) : ∀ c, onlyVregs c (emptyRegs c lanes regs) := by
  induction regs with
  | nil => exact fun _ => rfl
  | cons r rest ih => exact fun c => (foldl_emptied_only r lanes c).trans (ih _)

theorem pendSets_eq (c : Ctx) (t f : Mask) (ja jb : Option (Nat × Nat)) :
    pendSets c t f ja jb = { c with vregs := (pendSets c t f ja jb).vregs } :=
  (emptyRegs_only _ _ c).trans (emptyRegs_only _ _ _)

theorem pendSets_empty (c : Ctx) (t f : Mask) (ja jb : Option (Nat × Nat)) :
    (∀ l ∈ lanesOf t, ∀ r ∈ joinRegs ja, (getV (pendSets c t f ja jb) r l).fill = .empty) ∧
      ∀ l ∈ lanesOf f, ∀ r ∈ joinRegs jb, (getV (pendSets c t f ja jb) r l).fill = .empty :=
  ⟨fun _ hl r hr => emptyRegs_kept _ r _ _ _ (emptyRegs_mem hl hr c), fun _ hl _ hr => emptyRegs_mem hl hr _⟩

/-! ## Strands put into slots -/

theorem putStrands_eq (es : List (Nat × Strand)) : ∀ c, putStrands c es = { c with strands := (putStrands c es).strands } := by
  induction es with
  | nil => exact fun _ => rfl
  | cons e rest ih => exact fun c => (ih (putStrand c e.1 e.2)).trans rfl

theorem getStrand_putStrands_other {i : Nat} (es : List (Nat × Strand)) :
    ∀ c, i ∉ es.map Prod.fst → getStrand (putStrands c es) i = getStrand c i := by
  induction es with
  | nil => exact fun _ _ => rfl
  | cons e rest ih =>
    intro c other
    rw [List.map_cons, List.mem_cons, not_or] at other
    exact (ih _ other.2).trans (getStrand_putStrand_ne c _ other.1)

theorem getStrand_putStrands_mem (es : List (Nat × Strand)) :
    ∀ c, (es.map Prod.fst).Nodup → ∀ e ∈ es, getStrand (putStrands c es) e.1 = e.2 := by
  induction es with
  | nil => exact fun _ _ e he => absurd he List.not_mem_nil
  | cons p rest ih =>
    intro c once e he
    obtain ⟨new, once⟩ := List.nodup_cons.mp once
    obtain rfl | later := List.mem_cons.mp he
    · exact (getStrand_putStrands_other rest _ new).trans (getStrand_putStrand c e.1 e.2)
    · exact ih _ once e later

theorem openSlots_nodup (c : Ctx) : (openSlots c).Nodup := List.nodup_range.filter _

theorem valid_openSlots {c : Ctx} {i : Nat} (h : i ∈ openSlots c) : (getStrand c i).valid = false := by
  simpa using (List.mem_filter.mp h).2

theorem map_fst_zip_sublist {α β : Type} (xs : List α) (ys : List β) : (xs.zip ys).map Prod.fst <+: xs := by
  induction xs generalizing ys with
  | nil => exact List.nil_prefix
  | cons x xs ih =>
    cases ys with
    | nil => exact List.nil_prefix
    | cons y ys => exact (List.prefix_cons_inj x).mpr (ih ys)

/-! ## The two forms -/

section
variable {s : State} {t f : Mask} {ja jb : Option (Nat × Nat)}

/-- The state with the join sets of a fork left empty. -/
def pended (s : State) (t f : Mask) (ja jb : Option (Nat × Nat)) : State := setCur s (pendSets (cur s) t f ja jb)

theorem openSlots_pended : openSlots (cur (pended s t f ja jb)) = openSlots (cur s) := by
  rw [pended, cur_setCur, pendSets_eq]
  rfl

theorem getStrand_pended (i : Nat) : getStrand (cur (pended s t f ja jb)) i = getStrand (cur s) i := by
  rw [pended, cur_setCur, pendSets_eq]
  rfl

theorem curStrand_pended : curStrand (pended s t f ja jb) = curStrand s := getStrand_pended s.focus.slot

theorem getV_transfer (u : State) (target : Word) (q l : Nat) : getV (cur (transfer u target)) q l = getV (cur u) q l := by
  rw [transfer, cur_setStrand]
  rfl

theorem curStrand_transfer (u : State) (target : Word) :
    (curStrand (transfer u target)).ca = target ∧ (curStrand (transfer u target)).mask = (curStrand u).mask ∧
      (curStrand (transfer u target)).ser = (curStrand u).ser ∧ (curStrand (transfer u target)).sidx = (curStrand u).sidx := by
  rw [transfer, curStrand_setStrand]
  exact ⟨rfl, rfl, rfl, rfl⟩

theorem getSerial_transfer (u : State) (target : Word) (n : Nat) :
    getSerial (cur (transfer u target)) n = getSerial (cur u) n := by
  rw [transfer, cur_setStrand]
  rfl

/-- The arms of a concurrent fork put into their slots. -/
def armsPlaced (v : State) (arms : List Strand) : State :=
  setCur v (shareOrder (putStrands (cur v) ((openSlots (cur v)).zip arms)) v.focus.slot
    (((openSlots (cur v)).zip arms).map Prod.fst))

theorem forkWide_eq (v : State) (arms : List Strand) (cont : Word) : forkWide v arms cont = transfer (armsPlaced v arms) cont :=
  rfl

theorem getStrand_armsPlaced (v : State) (arms : List Strand) (i : Nat) :
    getStrand (cur (armsPlaced v arms)) i = getStrand (putStrands (cur v) ((openSlots (cur v)).zip arms)) i := by
  rw [armsPlaced, cur_setCur]
  rfl

theorem getV_armsPlaced (v : State) (arms : List Strand) (q l : Nat) : getV (cur (armsPlaced v arms)) q l = getV (cur v) q l := by
  rw [armsPlaced, cur_setCur, shareOrder, putStrands_eq]
  rfl

theorem valid_notOpen {v : State} (valid : (curStrand v).valid = true) : v.focus.slot ∉ openSlots (cur v) := fun h =>
  Bool.false_ne_true ((valid_openSlots h).symm.trans valid)

theorem curStrand_armsPlaced {v : State} (arms : List Strand) (valid : (curStrand v).valid = true) :
    curStrand (armsPlaced v arms) = curStrand v := by
  refine (getStrand_armsPlaced v arms v.focus.slot).trans (getStrand_putStrands_other _ _ fun h => ?_)
  exact valid_notOpen valid ((map_fst_zip_sublist _ _).subset h)

theorem getStrand_forkWide {v : State} {arms : List Strand} (cont : Word) (valid : (curStrand v).valid = true) :
    ∀ e ∈ (openSlots (cur v)).zip arms, getStrand (cur (forkWide v arms cont)) e.1 = e.2 := by
  intro e he
  have slot : e.1 ∈ openSlots (cur v) := (map_fst_zip_sublist _ _).subset (List.mem_map.mpr ⟨e, he, rfl⟩)
  have other : e.1 ≠ (armsPlaced v arms).focus.slot := fun same => valid_notOpen valid (same ▸ slot)
  rw [forkWide_eq, transfer, cur_setStrand, getStrand_putStrand_ne _ _ other, getStrand_armsPlaced]
  exact getStrand_putStrands_mem _ _ ((map_fst_zip_sublist _ _).sublist.nodup (openSlots_nodup _)) e he

/-- What a fork leaves of memory and of its join sets' lanes. -/
def setsEmpty (s u : State) (t f : Mask) (ja jb : Option (Nat × Nat)) : Prop :=
  sameMemory s u ∧ (∀ l ∈ lanesOf t, ∀ r ∈ joinRegs ja, (getV (cur u) r l).fill = .empty) ∧
    ∀ l ∈ lanesOf f, ∀ r ∈ joinRegs jb, (getV (cur u) r l).fill = .empty

theorem mem_transfer (u : State) (target : Word) : (transfer u target).mem = u.mem := rfl

theorem sameMemory_of_mem {u : State} (h : u.mem = s.mem) : sameMemory s u := fun p => congrArg (mapGet unlistedByte · p) h

theorem setsEmpty_of_getV {u : State} (memory : u.mem = s.mem)
    (regs : ∀ q l, getV (cur u) q l = getV (cur (pended s t f ja jb)) q l) : setsEmpty s u t f ja jb := by
  obtain ⟨ta, fb⟩ := pendSets_empty (cur s) t f ja jb
  refine ⟨sameMemory_of_mem memory, fun l hl r hr => ?_, fun l hl r hr => ?_⟩
  · rw [regs, pended, cur_setCur]
    exact ta l hl r hr
  · rw [regs, pended, cur_setCur]
    exact fb l hl r hr

theorem mem_armsPlaced (v : State) (arms : List Strand) : (armsPlaced v arms).mem = v.mem := rfl

theorem forkWide_pended {arms : List Strand} (cont : Word) (valid : (curStrand s).valid = true) :
    let u := forkWide (pended s t f ja jb) arms cont
    (curStrand u).ca = cont ∧ (curStrand u).mask = (curStrand s).mask ∧
      (∀ e ∈ (openSlots (cur s)).zip arms, getStrand (cur u) e.1 = e.2) ∧ setsEmpty s u t f ja jb := by
  have still : (curStrand (pended s t f ja jb)).valid = true := by rwa [curStrand_pended]
  obtain ⟨ca, mask, -, -⟩ := curStrand_transfer (armsPlaced (pended s t f ja jb) arms) cont
  refine ⟨ca, ?_, ?_, setsEmpty_of_getV ((mem_transfer _ _).trans (mem_armsPlaced _ _)) fun q l => ?_⟩
  · rw [forkWide_eq, mask, curStrand_armsPlaced arms still, curStrand_pended]
  · have placed := getStrand_forkWide (arms := arms) cont still
    rwa [openSlots_pended] at placed
  · rw [forkWide_eq, getV_transfer, getV_armsPlaced]

/-- The record that a serial fork takes (08 R180). -/
def serialRecord (v : State) (t f : Mask) (armB cont : Word) (ja jb : Option (Nat × Nat)) : Serial :=
  { bmask := f, outer := (curStrand v).mask, stage := if t = 0 then 2 else 1, bca := armB, cca := cont,
    pv := (curStrand v).ser, pidx := (curStrand v).sidx, ajv := ja.isSome, ajlen := BitVec.ofNat 3 (ja.getD (0, 0)).2,
    ajbase := BitVec.ofNat 8 (ja.getD (0, 0)).1, bjv := jb.isSome, bjlen := BitVec.ofNat 3 (jb.getD (0, 0)).2,
    bjbase := BitVec.ofNat 8 (jb.getD (0, 0)).1, rsd := BitVec.ofNat 8 (rasEntries v v.focus.key v.focus.slot).length,
    rlc := ownedCalls (cur v) v.focus.slot }

/-- The state in which the record is taken, and its strand in the first stage that has lanes. -/
def recordTaken (v : State) (n : Nat) (t f : Mask) (armB cont : Word) (ja jb : Option (Nat × Nat)) : State :=
  let w := setCur v (putSerial (cur v) n (serialRecord v t f armB cont ja jb))
  setStrand w { curStrand w with ser := true, sidx := BitVec.ofNat 3 n, mask := if t = 0 then f else t }

theorem forkSerial_eq (v : State) (n : Nat) (t f : Mask) (armA armB cont : Word) (ja jb : Option (Nat × Nat)) :
    forkSerial v n t f armA armB cont ja jb =
      transfer (recordTaken v n t f armB cont ja jb) (if t = 0 then armB else armA) := rfl

theorem curStrand_recordTaken (v : State) (n : Nat) (armB cont : Word) :
    (curStrand (recordTaken v n t f armB cont ja jb)).ser = true ∧
      (curStrand (recordTaken v n t f armB cont ja jb)).mask = if t = 0 then f else t := by
  rw [recordTaken, curStrand_setStrand]
  exact ⟨rfl, rfl⟩

theorem getSerial_setStrand (u : State) (x : Strand) (n : Nat) : getSerial (cur (setStrand u x)) n = getSerial (cur u) n := by
  rw [cur_setStrand]
  rfl

theorem getV_setStrand (u : State) (x : Strand) (q l : Nat) : getV (cur (setStrand u x)) q l = getV (cur u) q l := by
  rw [cur_setStrand]
  rfl

theorem getSerial_recordTaken (v : State) (n : Nat) (armB cont : Word) :
    getSerial (cur (recordTaken v n t f armB cont ja jb)) n = serialRecord v t f armB cont ja jb := by
  rw [recordTaken, getSerial_setStrand, cur_setCur]
  exact mapGet_put_same _ _ _ _

theorem getV_recordTaken (v : State) (n : Nat) (armB cont : Word) (q l : Nat) :
    getV (cur (recordTaken v n t f armB cont ja jb)) q l = getV (cur v) q l := by
  rw [recordTaken, getV_setStrand, cur_setCur]
  rfl

theorem mem_recordTaken (v : State) (n : Nat) (armB cont : Word) : (recordTaken v n t f armB cont ja jb).mem = v.mem := rfl

theorem forkSerial_pended (n : Nat) (armA armB cont : Word) :
    let u := forkSerial (pended s t f ja jb) n t f armA armB cont ja jb
    (curStrand u).ca = (if t = 0 then armB else armA) ∧ (curStrand u).mask = (if t = 0 then f else t) ∧
      (curStrand u).ser = true ∧ (getSerial (cur u) n).outer = (curStrand s).mask ∧ (getSerial (cur u) n).bmask = f ∧
      (getSerial (cur u) n).stage = (if t = 0 then 2 else 1) ∧ (getSerial (cur u) n).cca = cont ∧ setsEmpty s u t f ja jb := by
  intro u
  have eq : u = transfer (recordTaken (pended s t f ja jb) n t f armB cont ja jb) (if t = 0 then armB else armA) := rfl
  have record : getSerial (cur u) n = serialRecord (pended s t f ja jb) t f armB cont ja jb := by
    rw [eq, getSerial_transfer, getSerial_recordTaken]
  obtain ⟨ser, mask⟩ := curStrand_recordTaken (t := t) (f := f) (ja := ja) (jb := jb) (pended s t f ja jb) n armB cont
  obtain ⟨ca, mask', ser', -⟩ :=
    curStrand_transfer (recordTaken (pended s t f ja jb) n t f armB cont ja jb) (if t = 0 then armB else armA)
  refine ⟨ca, mask'.trans mask, ser'.trans ser, ?_, ?_, ?_, ?_, setsEmpty_of_getV
    ((congrArg State.mem eq).trans ((mem_transfer _ _).trans (mem_recordTaken _ _ _ _))) fun q l => ?_⟩
  · rw [record]
    exact congrArg Strand.mask curStrand_pended
  · rw [record]
    rfl
  · rw [record]
    rfl
  · rw [record]
    rfl
  · rw [eq, getV_transfer, getV_recordTaken]

end

/-! ## fork -/

theorem gateOpen_of_live {s : State} {m : Mark} (v : Word) (h : replays s m.who.key = false)
    (quiet : (launchOf s m.who.key).recording = false) : chooseRecorded s m v = s := by
  rw [chooseRecorded, recordEvent_unrecorded v quiet, meetMarks, gateOf_live h]
  rfl

theorem fieldsZero (v : BitVec 1) (base : BitVec 6) (len : BitVec 3) (h : v = 0 → base = 0 ∧ len = 0) :
    (v != 0 || (base == 0 && len == 0)) = true := by
  by_cases hv : v = 0
  · obtain ⟨rfl, rfl⟩ := h hv
    simp
  · rw [bne_iff_ne.mpr hv, Bool.true_or]

theorem listFind_eq_find? {α : Type} (p : α → Bool) (xs : List α) : listFind p xs = xs.find? p := by
  induction xs with
  | nil => rfl
  | cons x rest ih =>
    rw [listFind, List.find?_cons, ih]
    cases p x <;> rfl

section
variable {s : State} {k : BitVec 3} {oa oc : BitVec 11} {av bv : BitVec 1} {ab bb : BitVec 6} {al bl : BitVec 3}
  {ja jb : Option (Nat × Nat)}

/-- The lanes of the two arms of a fork, and the arms that have lanes (08 R179). -/
def takenLanes (s : State) (k : BitVec 3) : Mask := (curStrand s).mask &&& getK (cur s) k.toNat
def otherLanes (s : State) (k : BitVec 3) : Mask := (curStrand s).mask &&& ~~~ getK (cur s) k.toNat
def forkArms (s : State) (k : BitVec 3) (oa : BitVec 11) (ja jb : Option (Nat × Nat)) : List Strand :=
  (if takenLanes s k = 0 then [] else [armStrand (curStrand s) s.focus.slot (takenLanes s k) (forkTarget s oa) ja]) ++
    if otherLanes s k = 0 then [] else [armStrand (curStrand s) s.focus.slot (otherLanes s k) (nextClause s) jb]

theorem otherLanes_eq (s : State) (k : BitVec 3) :
    (curStrand s).mask &&& ~~~ ((curStrand s).mask &&& getK (cur s) k.toNat) = otherLanes s k := by
  refine BitVec.eq_of_getLsbD_eq fun i hi => ?_
  simp only [otherLanes, BitVec.getLsbD_and, BitVec.getLsbD_not, hi, decide_true, Bool.true_and]
  cases (curStrand s).mask.getLsbD i <;> rfl

theorem execFork_eq (za : av = 0 → ab = 0 ∧ al = 0) (zb : bv = 0 → bb = 0 ∧ bl = 0) (hja : joinSet s av ab al = .ok ja)
    (hjb : joinSet s bv bb bl = .ok jb) (plain : unrecorded s) (freeA : lanesFree s (joinRegs ja) (lanesOf (takenLanes s k)))
    (freeB : lanesFree s (joinRegs jb) (lanesOf (otherLanes s k))) :
    let arms := forkArms s k oa ja jb
    let short := decide ((openSlots (cur s)).length < arms.length)
    let serial := !arms.isEmpty && (short || isInTrap (cur s))
    let v := pended s (takenLanes s k) (otherLanes s k) ja jb
    exec (.fork k oa oc av ab al bv bb bl) s = run s (do
      await (serial || !short) .memory
      if serial then
        match (List.range 8).find? (fun j => (getSerial (cur s) j).stage == 0) with
        | none => .error (.trap 0x0C 0 0)
        | some n =>
          .ok (forkSerial v n (takenLanes s k) (otherLanes s k) (forkTarget s oa) (nextClause s) (forkTarget s oc) ja jb)
      else .ok (forkWide v arms (forkTarget s oc))) := by
  intro arms short serial v
  have live : replays s (forkMark s).who.key = false := plain.1
  have chosen (w : Word) : chooseRecorded s (forkMark s) w = s := gateOpen_of_live w live plain.2
  show execFork k oa oc av ab al bv bb bl s = _
  rw [execFork, fieldsZero av ab al za, need_true, ok_bind, fieldsZero bv bb bl zb, need_true, ok_bind, hja, ok_bind, hjb, ok_bind]
  dsimp only
  rw [otherLanes_eq, show freeV s (joinRegs ja) (lanesOf ((curStrand s).mask &&& getK (cur s) k.toNat)) = _ from freeV_free freeA,
    ok_bind, freeV_free freeB, ok_bind, forcedValue_live live, awaitGate_live live, ok_bind]
  simp only [chosen, listFind_eq_find?]
  rfl

end

end Sys2Proof.Proofs
end

section
/-! SUPPORT. join, armwait, smask, ends and exit (08 R182 to R186), and a warp that retires (19 R394). -/

namespace Sys2Proof.Proofs

open Sys2Proof Sys2Proof.Machine Sys2Proof.Laws

/-! ## join, armwait and smask -/

theorem retire_ready (s : State) (words : Nat) :
    (curStrand (retire s words)).wait = .ready ∧ (curStrand (retire s words)).valid = (curStrand s).valid := by
  simp only [retire]
  split
  · split
    · rw [curStrand_setStrand]
      split <;> exact ⟨rfl, rfl⟩
    · rw [curStrand_setStrand]
      exact ⟨rfl, rfl⟩
  · rw [curStrand_setStrand]
    split <;> exact ⟨rfl, rfl⟩

section
variable {s : State} {k : BitVec 3} {d a b : BitVec 6} {e : BitVec 1} {rd ra rb : Nat}

/-- The register that a lane of a join takes. -/
def joinReg (s : State) (k : BitVec 3) (ra rb l : Nat) : Nat := joinPick (getK (cur s) k.toNat) ra rb l

/-- What a join leaves in the context. -/
def joinedCtx (s : State) (k : BitVec 3) (rd ra rb : Nat) : Ctx :=
  takeOrder (dstLanes (cur s) rd ((lanesOf (curStrand s).mask).map fun l => (l, laneVal (cur s) (joinReg s k ra rb l) l)))
    s.focus.slot (descendants s)

theorem strands_joinedCtx : (joinedCtx s k rd ra rb).strands = (cur s).strands := by
  rw [joinedCtx, takeOrder, dstLanes_eq]

theorem getV_joinedCtx (q l : Nat) : getV (joinedCtx s k rd ra rb) q l =
    getV (dstLanes (cur s) rd ((lanesOf (curStrand s).mask).map fun l => (l, laneVal (cur s) (joinReg s k ra rb l) l))) q l := by
  rw [joinedCtx, takeOrder]
  rfl

theorem execJoin_completes (names : namesDab s d a b rd ra rb)
    (full : ∀ l ∈ lanesOf (curStrand s).mask, (getV (cur s) (joinReg s k ra rb l) l).fill = .full ∧
      (getV (cur s) (joinReg s k ra rb l) l).poison = false)
    (free : lanesFree s [rd] (lanesOf (curStrand s).mask)) :
    exec (.join k d a b e) s = done (setCur s (joinedCtx s k rd ra rb)) := by
  obtain ⟨hd, ha, hb⟩ := names
  have ready : (((lanesOf (curStrand s).mask).map fun l => (joinPick (getK (cur s) k.toNat) ra rb l, l)).any
      fun p => (getV (cur s) p.1 p.2).fill != .full) = false := by
    rw [List.any_map, List.any_eq_false]
    intro l hl
    have held : (getV (cur s) (joinPick (getK (cur s) k.toNat) ra rb l) l).fill = .full := (full l hl).1
    simpa using held
  have sound : listFind (fun p : Nat × Nat => (getV (cur s) p.1 p.2).poison)
      ((lanesOf (curStrand s).mask).map fun l => (joinPick (getK (cur s) k.toNat) ra rb l, l)) = none := by
    rw [listFind_eq_find?, List.find?_eq_none]
    intro p hp
    obtain ⟨l, hl, rfl⟩ := List.mem_map.mp hp
    exact Bool.eq_false_iff.mp (full l hl).2
  show execJoin k d a b e s = _
  rw [execJoin, vxD_names hd, ok_bind, vxA_names ha, ok_bind, vxB_names hb, ok_bind]
  dsimp only
  rw [ready, if_neg Bool.false_ne_true, sound]
  dsimp only
  rw [freeV_free free, ok_bind, List.map_map]
  rfl

theorem execJoin_pending (names : namesDab s d a b rd ra rb)
    (pending : ∃ l ∈ lanesOf (curStrand s).mask, (getV (cur s) (joinReg s k ra rb l) l).fill ≠ .full) :
    exec (.join k d a b e) s = if e = 1 then traps s 0x05 0 0 else waits s .join := by
  obtain ⟨hd, ha, hb⟩ := names
  obtain ⟨l, hl, empty⟩ := pending
  have some_ : (((lanesOf (curStrand s).mask).map fun l => (joinPick (getK (cur s) k.toNat) ra rb l, l)).any
      fun p => (getV (cur s) p.1 p.2).fill != .full) = true :=
    List.any_eq_true.mpr ⟨_, List.mem_map.mpr ⟨l, hl, rfl⟩, bne_iff_ne.mpr empty⟩
  show execJoin k d a b e s = _
  rw [execJoin, vxD_names hd, ok_bind, vxA_names ha, ok_bind, vxB_names hb, ok_bind]
  dsimp only
  rw [some_, if_pos rfl]
  split <;> rfl

theorem execArmwait_completes (none_ : descendants s = []) :
    exec .armwait s = done (setCur s (takeOrder (cur s) s.focus.slot [])) := by
  show execArmwait s = _
  rw [execArmwait, none_]
  rfl

theorem execArmwait_waits (some_ : descendants s ≠ []) : exec .armwait s = waits s .armwait := by
  have pending : (descendants s).isEmpty = false := by rwa [Bool.eq_false_iff, ne_eq, List.isEmpty_iff]
  show execArmwait s = _
  rw [execArmwait, pending]
  rfl

theorem smask_frame : ∃ u, exec (.smask k) s = .next u ∧ frameK s u k.toNat ∧
    getK (cur u) k.toNat = (curStrand s).mask &&& widthMask (cur s) := by
  refine ⟨_, rfl, frameK_retire 1 rfl (fun n hn => getK_putK_ne _ _ hn) (BitVec.and_self ..), ?_⟩
  obtain ⟨-, -, now⟩ := retire_setCur (s := s) (c := putK (cur s) k.toNat (curStrand s).mask) 1 rfl
  rw [now]
  exact getK_putK ..

end

/-! ## Join sets filled with zero (08 R183) -/

/-- Of the registers of two contexts, each is the same or was empty and now holds 0. -/
def zeroFilled (c d : Ctx) : Prop :=
  ∀ q l, getV d q l = getV c q l ∨ ((getV c q l).fill = .empty ∧ getV d q l = {})

theorem zeroFilled.trans {c d e : Ctx} (h : zeroFilled c d) (k : zeroFilled d e) : zeroFilled c e := by
  intro q l
  obtain same | ⟨empty, zero⟩ := h q l
  · obtain same2 | ⟨empty2, zero2⟩ := k q l
    · exact Or.inl (same2.trans same)
    · exact Or.inr ⟨same ▸ empty2, zero2⟩
  · obtain same2 | ⟨empty2, -⟩ := k q l
    · exact Or.inr ⟨empty, same2.trans zero⟩
    · rw [zero] at empty2
      nomatch empty2

theorem zeroFilled_foldl {c : Ctx} {r : Nat} (lanes : List Nat) (empty : ∀ l ∈ lanes, (getV c r l).fill = .empty) :
    ∀ d, zeroFilled c d → zeroFilled c (lanes.foldl (fun c l => putV c r l {}) d) := by
  induction lanes with
  | nil => exact fun _ h => h
  | cons m rest ih =>
    intro d h
    refine ih (fun l hl => empty l (List.mem_cons_of_mem _ hl)) (putV d r m {}) fun q l => ?_
    by_cases here : q * 64 + l = r * 64 + m
    · have cell (c : Ctx) : getV c q l = getV c r m := congrArg (mapGet ({} : Reg) c.vregs) here
      rw [cell, cell, getV_putV]
      exact Or.inr ⟨empty m List.mem_cons_self, rfl⟩
    · rw [getV_putV_ne d _ here]
      exact h q l

/-- The lanes of one register that are empty, filled with zero. -/
def zeroLanes (c : Ctx) (lanes : List Nat) (r : Nat) : Ctx :=
  (lanes.filter fun l => (getV c r l).fill == .empty).foldl (fun c l => putV c r l {}) c

theorem fillJoinSet_cons (c : Ctx) (lanes : List Nat) (r : Nat) (rest : List Nat) :
    fillJoinSet c lanes (r :: rest) = fillJoinSet (zeroLanes c lanes r) lanes rest := rfl

theorem zeroFilled_refl (c : Ctx) : zeroFilled c c := fun _ _ => Or.inl rfl

theorem zeroFilled_zeroLanes (c : Ctx) (lanes : List Nat) (r : Nat) : zeroFilled c (zeroLanes c lanes r) :=
  zeroFilled_foldl _ (fun _ hl => by simpa using (List.mem_filter.mp hl).2) c (zeroFilled_refl c)

theorem zeroFilled_fillJoinSet (lanes regs : List Nat) : ∀ c, zeroFilled c (fillJoinSet c lanes regs) := by
  induction regs with
  | nil => exact zeroFilled_refl
  | cons r rest ih => exact fun c => (zeroFilled_zeroLanes c lanes r).trans (ih _)

theorem putZero_kept {r q m : Nat} (lanes : List Nat) :
    ∀ c, (getV c q m).fill ≠ .empty → (getV (lanes.foldl (fun c l => putV c r l {}) c) q m).fill ≠ .empty := by
  induction lanes with
  | nil => exact fun _ h => h
  | cons l rest ih =>
    intro c h
    refine ih _ ?_
    by_cases here : q * 64 + m = r * 64 + l
    · have cell (c : Ctx) : getV c q m = getV c r l := congrArg (mapGet ({} : Reg) c.vregs) here
      rw [cell, getV_putV]
      exact nofun
    · rwa [getV_putV_ne c _ here]

theorem putZero_mem {r l : Nat} {lanes : List Nat} (h : l ∈ lanes) :
    ∀ c, (getV (lanes.foldl (fun c l => putV c r l {}) c) r l).fill ≠ .empty := by
  induction lanes with
  | nil => exact absurd h List.not_mem_nil
  | cons k rest ih =>
    intro c
    obtain rfl | later := List.mem_cons.mp h
    · refine putZero_kept rest (putV c r l {}) ?_
      rw [getV_putV]
      exact nofun
    · exact ih later _

theorem zeroLanes_notEmpty {c : Ctx} {lanes : List Nat} {r l : Nat} (hl : l ∈ lanes) :
    (getV (zeroLanes c lanes r) r l).fill ≠ .empty := by
  by_cases empty : (getV c r l).fill = .empty
  · exact putZero_mem (List.mem_filter.mpr ⟨hl, by simpa using empty⟩) c
  · exact putZero_kept _ c empty

theorem fillJoinSet_notEmpty {lanes regs : List Nat} {r l : Nat} (hl : l ∈ lanes) (hr : r ∈ regs) :
    ∀ c, (getV (fillJoinSet c lanes regs) r l).fill ≠ .empty := by
  induction regs with
  | nil => exact absurd hr List.not_mem_nil
  | cons k rest ih =>
    intro c
    obtain rfl | later := List.mem_cons.mp hr
    · rw [fillJoinSet_cons]
      obtain same | ⟨empty, -⟩ := zeroFilled_fillJoinSet lanes rest (zeroLanes c lanes r) r l
      · rw [same]
        exact zeroLanes_notEmpty hl
      · exact absurd empty (zeroLanes_notEmpty hl)
    · exact ih later _

/-- A lane of a join set holds 0 where it was empty, and what it held where it was not (08 R183). -/
theorem getV_fillJoinSet {lanes regs : List Nat} {r l : Nat} (hl : l ∈ lanes) (hr : r ∈ regs) (c : Ctx) :
    getV (fillJoinSet c lanes regs) r l = if (getV c r l).fill = .empty then {} else getV c r l := by
  obtain same | ⟨empty, zero⟩ := zeroFilled_fillJoinSet lanes regs c r l
  · rw [if_neg (same ▸ fillJoinSet_notEmpty hl hr c), same]
  · rw [if_pos empty, zero]

theorem putZero_only (r : Nat) (lanes : List Nat) : ∀ c, onlyVregs c (lanes.foldl (fun c l => putV c r l {}) c) := by
  induction lanes with
  | nil => exact fun _ => rfl
  | cons l rest ih => exact fun c => onlyVregs.trans (d := putV c r l {}) rfl (ih _)

theorem fillJoinSet_only (lanes regs : List Nat) : ∀ c, onlyVregs c (fillJoinSet c lanes regs) := by
  induction regs with
  | nil => exact fun _ => rfl
  | cons r rest ih => exact fun c => (putZero_only r _ c).trans (ih _)

/-! ## A slot freed (08 R183, R186) -/

section
variable {s : State}

/-- The context after the strand's return entries and lane-call records have gone. -/
def entriesGone (v : State) : Ctx :=
  { cur (discardRas v) with laneCalls := (cur (discardRas v)).laneCalls.filter fun e => e.2.owner.toNat != v.focus.slot }

theorem freeSlot_eq (v : State) : freeSlot v = setCur (discardRas v) (putStrand (entriesGone v) v.focus.slot {}) := rfl

theorem cur_freeSlot (v : State) : cur (freeSlot v) = putStrand (entriesGone v) v.focus.slot {} := cur_setCur _ _

theorem cur_discardRas (v : State) : cur (discardRas v) =
    { cur v with ras := (cur (discardRas v)).ras, spilled := (cur (discardRas v)).spilled } := by
  rw [discardRas]
  dsimp only
  rw [cur_setCur]

theorem getStrand_freeSlot (v : State) : getStrand (cur (freeSlot v)) v.focus.slot = {} := by
  rw [cur_freeSlot, getStrand_putStrand]

theorem getStrand_freeSlot_ne {v : State} {i : Nat} (h : i ≠ v.focus.slot) :
    getStrand (cur (freeSlot v)) i = getStrand (cur v) i := by
  rw [cur_freeSlot, getStrand_putStrand_ne _ _ h, entriesGone, cur_discardRas]
  rfl

theorem getV_freeSlot (v : State) (q l : Nat) : getV (cur (freeSlot v)) q l = getV (cur v) q l := by
  rw [cur_freeSlot, entriesGone, cur_discardRas]
  rfl

theorem live_freeSlot (v : State) : (cur (freeSlot v)).live = (cur v).live := by
  rw [cur_freeSlot, entriesGone, cur_discardRas]
  rfl

theorem mem_freeSlot (v : State) : (freeSlot v).mem = v.mem := rfl

theorem focus_freeSlot (v : State) : (freeSlot v).focus = v.focus := rfl

/-! ## ends (08 R183) -/

/-- What ends leaves in the lanes of a join set (08 R183). -/
def setZeroed (s u : State) (regs : List Nat) : Prop :=
  sameMemory s u ∧ ∀ l ∈ lanesOf (armLanes s), ∀ r ∈ regs,
    getV (cur u) r l = if (getV (cur s) r l).fill = .empty then {} else getV (cur s) r l

theorem setZeroed_of_getV {u : State} {regs : List Nat} (memory : u.mem = s.mem)
    (lanes : ∀ q l, getV (cur u) q l = getV (fillJoinSet (cur s) (lanesOf (armLanes s)) regs) q l) : setZeroed s u regs :=
  ⟨sameMemory_of_mem memory, fun l hl r hr => (lanes r l).trans (getV_fillJoinSet hl hr _)⟩

/-- The context with the arm's join set filled, its forked strands and its operations passed on. -/
def armPassed (s : State) : Ctx :=
  passOrder (reparent (fillJoinSet (cur s) (lanesOf (armLanes s))
    (setRegs (curStrand s).jv (curStrand s).jbase (curStrand s).jlen)) s.focus.slot (curStrand s) none) s.focus.slot
    (curStrand s).parent.toNat

theorem endArm_eq (s : State) : endArm s = freeSlot (setCur s (armPassed s)) := rfl

theorem getV_armPassed (q l : Nat) : getV (armPassed s) q l = getV (fillJoinSet (cur s) (lanesOf (armLanes s))
    (setRegs (curStrand s).jv (curStrand s).jbase (curStrand s).jlen)) q l := rfl

theorem endArm_frees : getStrand (cur (endArm s)) s.focus.slot = {} ∧
    setZeroed s (endArm s) (setRegs (curStrand s).jv (curStrand s).jbase (curStrand s).jlen) := by
  refine ⟨getStrand_freeSlot (setCur s (armPassed s)), setZeroed_of_getV (mem_freeSlot _) fun q l => ?_⟩
  rw [endArm_eq, getV_freeSlot, cur_setCur, getV_armPassed]

theorem runningSerial_none (h : (curStrand s).ser = false) : runningSerial (cur s) (curStrand s) = none := by
  rw [runningSerial, h, if_neg Bool.false_ne_true]

theorem execEnds_arm (warp : isSystem s.focus.key = false) (own : (curStrand s).ser = false)
    (child : (curStrand s).root = false) : exec .ends s = .next (endArm s) := by
  show execEnds s = _
  rw [execEnds, runningSerial_none own, child, warp]
  rfl

theorem execEnds_exit (own : (curStrand s).ser = false) (h : (curStrand s).root = true ∨ isSystem s.focus.key = true) :
    exec .ends s = exec .exit s := by
  have either : ((curStrand s).root || isSystem s.focus.key) = true := by simpa using h
  show execEnds s = execExit s
  rw [execEnds, runningSerial_none own, execExit]
  dsimp only
  rw [either, if_pos rfl]

theorem execEnds_stage (h : (curStrand s).ser = true) :
    exec .ends s = .next (endStage s (getSerial (cur s) (curStrand s).sidx.toNat)) := by
  show execEnds s = _
  rw [execEnds, runningSerial, h, if_pos rfl]
  rfl

/-- The join set of the arm whose stage ends. -/
def stageRegs (r : Serial) : List Nat :=
  if r.stage = 1 then setRegs r.ajv r.ajbase r.ajlen else setRegs r.bjv r.bjbase r.bjlen

/-- The state of a serial strand with its stage's join set filled and its entries gone. -/
def stageClosed (s : State) (r : Serial) : State :=
  discardRas (setCur s (reparent (fillJoinSet (cur s) (lanesOf (armLanes s)) (stageRegs r)) s.focus.slot (curStrand s) (some r)))

/-- Its context without the lane-call records of the stage. -/
def stageCtx (s : State) (r : Serial) : Ctx :=
  { cur (stageClosed s r) with laneCalls := (cur (stageClosed s r)).laneCalls.filter fun e =>
      e.2.owner.toNat != s.focus.slot || r.rlc.getLsbD e.1 }

/-- The state in which the record is written and the strand has the lanes of what follows. -/
def stageLeft (s : State) (r next : Serial) (change : Strand → Strand) : State :=
  let v := setCur (stageClosed s r) (putSerial (stageCtx s r) (curStrand s).sidx.toNat next)
  setStrand v (change (curStrand v))

theorem endStage_eq (s : State) (r : Serial) :
    endStage s r = if r.stage = 1 ∧ r.bmask ≠ 0 then
        transfer (stageLeft s r { r with stage := 2 } fun x => { x with mask := r.bmask }) r.bca
      else transfer (stageLeft s r {} fun x => { x with mask := r.outer, ser := r.pv, sidx := r.pidx }) r.cca := rfl

theorem getV_stageLeft (r next : Serial) (change : Strand → Strand) (q l : Nat) :
    getV (cur (stageLeft s r next change)) q l = getV (fillJoinSet (cur s) (lanesOf (armLanes s)) (stageRegs r)) q l := by
  rw [stageLeft, getV_setStrand, cur_setCur, stageCtx, stageClosed, cur_discardRas, cur_setCur]
  rfl

theorem mem_setCur (s : State) (c : Ctx) : (setCur s c).mem = s.mem := rfl

theorem mem_discardRas (s : State) : (discardRas s).mem = s.mem := rfl

theorem mem_setStrand (s : State) (x : Strand) : (setStrand s x).mem = s.mem := rfl

theorem mem_stageLeft (r next : Serial) (change : Strand → Strand) : (stageLeft s r next change).mem = s.mem := by
  rw [stageLeft, mem_setStrand, mem_setCur, stageClosed, mem_discardRas, mem_setCur]

theorem getSerial_putSerial (c : Ctx) (n : Nat) (x : Serial) : getSerial (putSerial c n x) n = x := mapGet_put_same _ _ _ _

theorem getSerial_stageLeft (r next : Serial) (change : Strand → Strand) :
    getSerial (cur (stageLeft s r next change)) (curStrand s).sidx.toNat = next := by
  rw [stageLeft, getSerial_setStrand, cur_setCur, getSerial_putSerial]

theorem curStrand_stageLeft (r next : Serial) (change : Strand → Strand) :
    ∃ x, curStrand (stageLeft s r next change) = change x := ⟨_, curStrand_setStrand _ _⟩

theorem endStage_moves (r : Serial) :
    (if r.stage = 1 ∧ r.bmask ≠ 0 then
        (curStrand (endStage s r)).ca = r.bca ∧ (curStrand (endStage s r)).mask = r.bmask ∧
          (getSerial (cur (endStage s r)) (curStrand s).sidx.toNat).stage = 2
      else
        (curStrand (endStage s r)).ca = r.cca ∧ (curStrand (endStage s r)).mask = r.outer ∧
          (curStrand (endStage s r)).ser = r.pv ∧ (curStrand (endStage s r)).sidx = r.pidx) ∧
      setZeroed s (endStage s r) (stageRegs r) := by
  rw [endStage_eq]
  split
  · obtain ⟨ca, mask, -, -⟩ := curStrand_transfer (stageLeft s r { r with stage := 2 } fun x => { x with mask := r.bmask }) r.bca
    obtain ⟨x, strand⟩ := curStrand_stageLeft (s := s) r { r with stage := 2 } fun x => { x with mask := r.bmask }
    refine ⟨⟨ca, mask.trans (congrArg Strand.mask strand), ?_⟩,
      setZeroed_of_getV ((mem_transfer _ _).trans (mem_stageLeft ..)) fun q l => ?_⟩
    · rw [getSerial_transfer, getSerial_stageLeft]
    · rw [getV_transfer, getV_stageLeft]
  · obtain ⟨ca, mask, ser, sidx⟩ :=
      curStrand_transfer (stageLeft s r {} fun x => { x with mask := r.outer, ser := r.pv, sidx := r.pidx }) r.cca
    obtain ⟨x, strand⟩ := curStrand_stageLeft (s := s) r {} fun x => { x with mask := r.outer, ser := r.pv, sidx := r.pidx }
    refine ⟨⟨ca, mask.trans (congrArg Strand.mask strand), ser.trans (congrArg Strand.ser strand),
      sidx.trans (congrArg Strand.sidx strand)⟩, setZeroed_of_getV ((mem_transfer _ _).trans (mem_stageLeft ..)) fun q l => ?_⟩
    rw [getV_transfer, getV_stageLeft]

/-! ## exit (08 R186, 17 R342) -/

/-- The other live strands of the executing strand's root. -/
def rootMates (s : State) : List Nat :=
  (liveSlots (cur s)).filter fun i => i != s.focus.slot && sameRoot (cur s) (curStrand s) (getStrand (cur s) i)

theorem execExit_refused (h : rootMates s ≠ [] ∨ (curStrand s).ser = true) : exec .exit s = traps s 0x0F 0 0 := by
  have refused : ((rootMates s).isEmpty && !(curStrand s).ser) = false := by
    obtain mates | serial := h
    · rw [Bool.eq_false_iff.mpr (mt List.isEmpty_iff.mp mates), Bool.false_and]
    · rw [serial, Bool.not_true, Bool.and_false]
  show run s (exitStrand s) = _
  rw [exitStrand]
  change run s (need ((rootMates s).isEmpty && !(curStrand s).ser) 0x0F >>= _) = _
  rw [refused, need_false]
  rfl

/-- What exit comes to once its strand may end: its slot is free, and with it the core, the warp or nothing more ends. -/
def exited (s : State) : State :=
  let u := freeSlot s
  if isSystem s.focus.key then
    putDie u (keyDie s.focus.key) (putSc (getDie u (keyDie s.focus.key)) ((s.focus.key - systemBase) % 2)
      { getSc (getDie u (keyDie s.focus.key)) ((s.focus.key - systemBase) % 2) with running := false })
  else if (liveSlots (cur u)).isEmpty then retireWarp u
  else setCur u { cur u with batches := (cur u).batches.map fun b => { b with reported := true } }

theorem exitStrand_eq (own : (curStrand s).ser = false) (last : rootMates s = []) (stored : storesDone (cur s) = true)
    (moved : isSystem s.focus.key = true ∨ transfersDone s s.focus.key = true) :
    exec .exit s = run s (need (!(isCpyTrap (cur s) && unreported (cur s))) 0x18 >>= fun _ => .ok (exited s)) := by
  have may : ((rootMates s).isEmpty && !(curStrand s).ser) = true := by rw [last, own]; rfl
  have transfers : (isSystem s.focus.key || transfersDone s s.focus.key) = true := by simpa using moved
  show run s (exitStrand s) = _
  rw [exitStrand]
  change run s (need ((rootMates s).isEmpty && !(curStrand s).ser) 0x0F >>= _) = _
  rw [may, need_true, ok_bind, stored, await_true, ok_bind, transfers, await_true, ok_bind]
  simp only [exited]
  split <;> [rfl; split <;> rfl]

theorem execExit_unreported (own : (curStrand s).ser = false) (last : rootMates s = []) (stored : storesDone (cur s) = true)
    (moved : isSystem s.focus.key = true ∨ transfersDone s s.focus.key = true) (traps_ : isCpyTrap (cur s) = true)
    (errors : unreported (cur s) = true) : exec .exit s = traps s 0x18 0 0 := by
  rw [exitStrand_eq own last stored moved, traps_, errors]
  rfl

theorem execExit_ends (own : (curStrand s).ser = false) (last : rootMates s = []) (stored : storesDone (cur s) = true)
    (moved : isSystem s.focus.key = true ∨ transfersDone s s.focus.key = true)
    (clean : isCpyTrap (cur s) = false ∨ unreported (cur s) = false) : exec .exit s = .next (exited s) := by
  have reports : (!(isCpyTrap (cur s) && unreported (cur s))) = true := by
    obtain h | h := clean <;> simp [h]
  rw [exitStrand_eq own last stored moved, reports, need_true, ok_bind]
  rfl

theorem exited_system (sys : isSystem s.focus.key = true) : getStrand (cur (exited s)) s.focus.slot = {} ∧
    (getSc (getDie (exited s) (keyDie s.focus.key)) ((s.focus.key - systemBase) % 2)).running = false := by
  rw [exited]
  dsimp only
  rw [if_pos sys]
  refine ⟨getStrand_freeSlot s, ?_⟩
  rw [getDie_putDie, getSc, putSc, mapGet_put_same]

/-- The other slots are free. -/
def aloneInWarp (s : State) : Prop := ∀ i, i < 8 → i ≠ s.focus.slot → (getStrand (cur s) i).valid = false

theorem liveSlots_freeSlot : (liveSlots (cur (freeSlot s))).isEmpty = true ↔ aloneInWarp s := by
  rw [List.isEmpty_iff, liveSlots, List.filter_eq_nil_iff]
  refine ⟨fun none_ i hi other => ?_, fun alone i hi => ?_⟩
  · have invalid := none_ i (List.mem_range.mpr hi)
    rw [getStrand_freeSlot_ne other] at invalid
    exact Bool.eq_false_iff.mpr invalid
  · by_cases here : i = s.focus.slot
    · rw [here, getStrand_freeSlot]
      exact Bool.false_ne_true
    · rw [getStrand_freeSlot_ne here, alone i (List.mem_range.mp hi) here]
      exact Bool.false_ne_true

theorem exited_warp (warp : isSystem s.focus.key = false) (others : ¬aloneInWarp s) :
    getStrand (cur (exited s)) s.focus.slot = {} ∧ (cur (exited s)).live = (cur s).live ∧ sameMemory s (exited s) := by
  have more : ¬(liveSlots (cur (freeSlot s))).isEmpty = true := fun h => others (liveSlots_freeSlot.mp h)
  rw [exited]
  dsimp only
  rw [if_neg (by rw [warp]; decide), if_neg more]
  refine ⟨?_, ?_, sameMemory_of_mem (mem_freeSlot s)⟩
  · rw [cur_setCur]
    exact getStrand_freeSlot s
  · rw [cur_setCur]
    exact live_freeSlot s

theorem exited_last (warp : isSystem s.focus.key = false) (alone : aloneInWarp s) : exited s = retireWarp (freeSlot s) := by
  rw [exited]
  dsimp only
  rw [if_neg (by rw [warp]; decide), if_pos (liveSlots_freeSlot.mpr alone)]

/-! ## A warp that retires (08 R186, 19 R394) -/

/-- The warp's context is no longer live, and its place in its quad is given up. -/
def warpGone (s : State) : State :=
  let c := cur s
  let t := setCur s { c with live := false, strands := [], serials := [], laneCalls := [], ops := [], batches := [] }
  let core := getCore t (keyCore s.focus.key)
  let q := getQuad core (keyQuad s.focus.key)
  putCore t (keyCore s.focus.key) (putQuad core (keyQuad s.focus.key)
    { q with ages := q.ages.filter (· != s.focus.key), fast := q.fast.filter fun e => e.2.warp.toNat != s.focus.key % 16 })

/-- Its workgroup's bindings to it are gone too. -/
def bindsGone (s : State) : State :=
  putWg (warpGone s) (cur s).wg
    { getWg s (cur s).wg with binds := (getWg s (cur s).wg).binds.filter fun e => e.2.warp != (cur s).warpid.toNat }

theorem retireWarp_eq (s : State) : retireWarp s =
    if (getWg s (cur s).wg).live then
      if (getWg s (cur s).wg).warps.any fun j => (getCtx (bindsGone s) j).live then bindsGone s
      else retireWorkgroup (bindsGone s) (cur s).wg
    else warpGone s := by
  rw [retireWarp]
  rfl

theorem cur_putCore (s : State) (k : Nat) (x : Core) : cur (putCore s k x) = cur s := rfl

theorem cur_putWg (s : State) (k : Nat) (x : Workgroup) : cur (putWg s k x) = cur s := rfl

theorem mem_putCore (s : State) (k : Nat) (x : Core) : (putCore s k x).mem = s.mem := rfl

theorem mem_warpGone (s : State) : (warpGone s).mem = s.mem := by
  rw [warpGone, mem_putCore, mem_setCur]

theorem cur_warpGone (s : State) : cur (warpGone s) =
    { cur s with live := false, strands := [], serials := [], laneCalls := [], ops := [], batches := [] } := by
  rw [warpGone, cur_putCore, cur_setCur]

theorem cur_bindsGone (s : State) : cur (bindsGone s) = cur (warpGone s) := by
  rw [bindsGone, cur_putWg]

theorem mem_bindsGone (s : State) : (bindsGone s).mem = s.mem := mem_warpGone s

theorem focus_bindsGone (s : State) : (bindsGone s).focus = s.focus := by
  rw [bindsGone, warpGone]
  rfl

theorem getCtx_bindsGone_ne {s : State} {j : Nat} (h : j ≠ s.focus.key) : getCtx (bindsGone s) j = getCtx s j := by
  rw [bindsGone, getCtx_putWg, warpGone, getCtx_putCore]
  exact getCtx_setCur_ne s _ h

theorem live_bindsGone (s : State) : ((getWg s (cur s).wg).warps.any fun j => (getCtx (bindsGone s) j).live) = true ↔
    ∃ j ∈ (getWg s (cur s).wg).warps, j ≠ s.focus.key ∧ (getCtx s j).live = true := by
  have gone : (getCtx (bindsGone s) s.focus.key).live = false := by
    have here : getCtx (bindsGone s) s.focus.key = cur (bindsGone s) := by rw [cur, focus_bindsGone]
    rw [here, cur_bindsGone, cur_warpGone]
  rw [List.any_eq_true]
  refine exists_congr fun j => and_congr_right fun _ => ?_
  by_cases here : j = s.focus.key
  · simp [here, gone]
  · simp [here, getCtx_bindsGone_ne here]

theorem retireWarp_alone (h : (getWg s (cur s).wg).live = false ∨
      ∃ j ∈ (getWg s (cur s).wg).warps, j ≠ s.focus.key ∧ (getCtx s j).live = true) :
    (cur (retireWarp s)).live = false ∧ (cur (retireWarp s)).strands = [] ∧ sameMemory s (retireWarp s) := by
  rw [retireWarp_eq]
  split
  case isTrue live =>
    obtain dead | others := h
    · exact absurd live (by rw [dead]; decide)
    · rw [if_pos ((live_bindsGone s).mpr others), cur_bindsGone, cur_warpGone]
      exact ⟨rfl, rfl, sameMemory_of_mem (mem_bindsGone s)⟩
  case isFalse =>
    rw [cur_warpGone]
    exact ⟨rfl, rfl, sameMemory_of_mem (mem_warpGone s)⟩

theorem retireWarp_last (live : (getWg s (cur s).wg).live = true)
    (last : ∀ j ∈ (getWg s (cur s).wg).warps, j ≠ s.focus.key → (getCtx s j).live = false) :
    ∃ v, retireWarp s = retireWorkgroup v (cur s).wg ∧ (cur v).live = false ∧ sameMemory s v := by
  have none_ : ¬((getWg s (cur s).wg).warps.any fun j => (getCtx (bindsGone s) j).live) = true := by
    rw [live_bindsGone]
    rintro ⟨j, hj, other, alive⟩
    exact absurd alive (by rw [last j hj other]; decide)
  refine ⟨bindsGone s, ?_, ?_, sameMemory_of_mem (mem_bindsGone s)⟩
  · rw [retireWarp_eq, if_pos live, if_neg none_]
  · rw [cur_bindsGone, cur_warpGone]

end

/-! ## The obligation -/

/-- Settles O38: each form's own lemma, with the two forms of fork told apart by the condition that the model tests. -/
theorem strandsForkWaitAndExit : Obligations.StrandsForkWaitAndExit := by
  unfold Obligations.StrandsForkWaitAndExit
  refine ⟨?fork, ?others, ?exit, fun s => ⟨retireWarp_alone, retireWarp_last⟩⟩
  case fork =>
    intro s k oa oc av bv ab bb al bl ja jb za zb hja hjb plain valid small t f freeA freeB armA armB cont i arms record serial
      pended_
    have eq := execFork_eq (oa := oa) (oc := oc) za zb hja hjb plain freeA freeB
    have condition : (!(forkArms s k oa ja jb).isEmpty &&
        (decide ((openSlots (cur s)).length < (forkArms s k oa ja jb).length) || isInTrap (cur s))) = true ↔ serial := by
      simp only [Bool.and_eq_true, Bool.not_eq_true', Bool.or_eq_true, decide_eq_true_eq, List.isEmpty_eq_false_iff]
      rfl
    refine ⟨fun wide => ?wide, fun narrow n found => ?narrow, fun narrow none_ => ?_⟩
    case wide =>
      have off := Bool.eq_false_iff.mpr (mt condition.mp wide)
      have room : decide ((openSlots (cur s)).length < (forkArms s k oa ja jb).length) = false := by
        refine decide_eq_false fun less => wide ⟨fun none_ => ?_, Or.inl less⟩
        have empty : forkArms s k oa ja jb = [] := none_
        rw [empty] at less
        exact Nat.not_lt_zero _ less
      obtain ⟨ca, mask, placed, sets⟩ := forkWide_pended (t := takenLanes s k) (f := otherLanes s k) (ja := ja) (jb := jb)
        (arms := forkArms s k oa ja jb) (forkTarget s oc) valid
      refine ⟨_, ?_, ca, mask, placed, sets⟩
      rw [eq, off, room]
      rfl
    case narrow =>
      have on := condition.mpr narrow
      obtain ⟨ca, mask, ser, outer, bmask, stage, cca, sets⟩ := forkSerial_pended (s := s) (t := takenLanes s k)
        (f := otherLanes s k) (ja := ja) (jb := jb) n (forkTarget s oa) (nextClause s) (forkTarget s oc)
      refine ⟨_, ?_, ca, mask, ser, outer, bmask, stage, cca, sets⟩
      have free : (List.range 8).find? (fun j => (getSerial (cur s) j).stage == 0) = some n := found
      rw [eq, on, free]
      rfl
    case _ =>
      have on := condition.mpr narrow
      have full : (List.range 8).find? (fun j => (getSerial (cur s) j).stage == 0) = none := none_
      rw [eq, on, full]
      rfl
  case others =>
    intro s k d a b e rd ra rb
    refine ⟨?join, fun none_ => ?armwait, execArmwait_waits, smask_frame, fun warp own child => ?_, fun h => ?_,
      fun h own => execEnds_exit own h⟩
    case join =>
      intro names lanes pick
      have small (m : Nat) (hm : m ∈ lanesOf (curStrand s).mask) : m < 64 := lanesOf_lt hm
      obtain ⟨regs, -⟩ := retire_reads (strands_joinedCtx (s := s) (k := k) (rd := rd) (ra := ra) (rb := rb))
      obtain ⟨⟨-, -, memory⟩, -, -⟩ := retire_setCur 1 (strands_joinedCtx (s := s) (k := k) (rd := rd) (ra := ra) (rb := rb))
      refine ⟨fun full free => ⟨_, execJoin_completes (e := e) names full free, memory, fun l hl => ?_, fun q l hl other => ?_⟩,
        fun pending => ?_⟩
      · rw [regs, getV_joinedCtx]
        exact getV_dstLanes_mem _ (lanesOf_nodup _) small hl _
      · rw [regs, getV_joinedCtx]
        exact getV_dstLanes_apart _ small hl other _
      · have form := execJoin_pending (e := e) names pending
        refine ⟨fun clear => form.trans (if_neg fun set_ => ?_), fun set_ => form.trans (if_pos set_)⟩
        rw [clear] at set_
        nomatch set_
    case armwait =>
      obtain ⟨wait, valid⟩ := retire_ready (setCur s (takeOrder (cur s) s.focus.slot [])) 1
      obtain ⟨⟨-, -, memory⟩, -, -⟩ := retire_setCur (s := s) (c := takeOrder (cur s) s.focus.slot []) 1 rfl
      refine ⟨_, execArmwait_completes none_, memory, wait, valid.trans (congrArg Strand.valid ?_)⟩
      rw [curStrand, cur_setCur]
      rfl
    · obtain ⟨freed, zeroed⟩ := endArm_frees (s := s)
      exact ⟨_, execEnds_arm warp own child, freed, zeroed⟩
    · obtain ⟨moves, zeroed⟩ := endStage_moves (s := s) (getSerial (cur s) (curStrand s).sidx.toNat)
      exact ⟨_, execEnds_stage h, moves, zeroed⟩
  case exit =>
    intro s others alone
    refine ⟨fun own last stored moved => ⟨fun clean => ?_, fun trap errors =>
      execExit_unreported own last stored moved trap errors⟩, execExit_refused⟩
    have ends_ := execExit_ends own last stored moved clean
    exact ⟨fun sys => ⟨_, ends_, exited_system sys⟩, fun warp more => ⟨_, ends_, exited_warp warp more⟩,
      fun warp only _ => ends_.trans (congrArg Host.Outcome.next (exited_last warp only))⟩

end Sys2Proof.Proofs
end

section
/-! PROOFS. Copies, multicasts and batches (17 R326 to R342). -/

namespace Sys2Proof.Proofs

open Sys2Proof Sys2Proof.Machine Sys2Proof.Laws

/-! ## What the engines' functions leave alone -/

/-- Two states differ in cores, workgroups and due events alone. -/
def enginesOnly (s u : State) : Prop := u = { s with cores := u.cores, wgs := u.wgs, due := u.due }

theorem enginesOnly.trans {s t u : State} (h : enginesOnly s t) (k : enginesOnly t u) : enginesOnly s u :=
  Eq.trans k (congrArg (fun x : State => { x with cores := u.cores, wgs := u.wgs, due := u.due }) h)

theorem enginesOnly.focus {s u : State} (h : enginesOnly s u) : u.focus = s.focus :=
  Eq.trans (congrArg State.focus h) rfl

theorem enginesOnly.ctxs {s u : State} (h : enginesOnly s u) : u.ctxs = s.ctxs :=
  Eq.trans (congrArg State.ctxs h) rfl

theorem enginesOnly.mem {s u : State} (h : enginesOnly s u) : u.mem = s.mem :=
  Eq.trans (congrArg State.mem h) rfl

theorem enginesOnly.cur {s u : State} (h : enginesOnly s u) : cur u = cur s := by
  rw [Machine.cur, Machine.cur, getCtx, getCtx, h.focus, h.ctxs]

theorem enginesOnly.curStrand {s u : State} (h : enginesOnly s u) : curStrand u = curStrand s := by
  rw [Machine.curStrand, Machine.curStrand, h.cur, h.focus]

theorem curCore_congr {u w : State} (cores : u.cores = w.cores) (focus : u.focus = w.focus) : curCore u = curCore w := by
  rw [curCore, curCore, getCore, getCore, cores, focus]

theorem enginesOnly_putCore (s : State) (k : Nat) (c : Core) : enginesOnly s (putCore s k c) := rfl

theorem enginesOnly_putWg (s : State) (k : Nat) (w : Workgroup) : enginesOnly s (putWg s k w) := rfl

theorem enginesOnly_due (s : State) (acts : List Act) : enginesOnly s { s with due := acts } := rfl

theorem fetchRecord_only {s t : State} {va : Word} {r : Record} (h : fetchRecord s va = .ok (r, t)) : enginesOnly s t := by
  unfold fetchRecord at h
  extract_lets q core at h
  split at h
  · cases h
  · split at h
    · cases h
    · extract_lets got held at h
      clear_value got held
      split at h
      · cases h
        rfl
      · split at h
        · cases h
        · split at h
          · cases h
          · cases h
            rfl

theorem issueEngine_only (s : State) (o : EngineOp) (hs : List Hull) (counted : Bool) :
    enginesOnly s (issueEngine s o hs counted) := by
  rw [issueEngine]
  dsimp only
  split
  · rfl
  · exact (enginesOnly_putCore s _ _).trans (enginesOnly_putCore _ _ _)

/-- An operation as `issueEngine` puts it into its core's list. -/
def issuedOp (s : State) (o : EngineOp) (counted : Bool) : EngineOp :=
  { o with
    id := nextEngineId s, ctx := s.focus.key, warp := (cur s).warpid.toNat, slot := s.focus.slot, wg := (cur s).wg,
    asid := (cur s).asid, user := !isPriv (cur s), die := keyDie s.focus.key, by_ := s.focus.key, after := (cur s).nextOp,
    bandSeq := if counted then openBand (getWg s (cur s).wg) else 0 }

theorem engine_takeLock (s : State) (core k : Nat) (l : Lock) :
    (getCore (takeLock s core l) k).engine = (getCore s k).engine := by
  rw [takeLock]
  by_cases h : k = core
  · rw [h, getCore_putCore]
  · rw [getCore_putCore_ne s _ h]

theorem issueEngine_engine (s : State) (o : EngineOp) (hs : List Hull) (counted : Bool) :
    (curCore (issueEngine s o hs counted)).engine = (curCore s).engine ++ [issuedOp s o counted] := by
  rw [issueEngine]
  dsimp only
  split
  · exact congrArg Core.engine (curCore_putCore s _)
  · exact (engine_takeLock _ _ _ _).trans (congrArg Core.engine (curCore_putCore s _))

theorem countBand_only (s : State) (k i : Nat) : enginesOnly s (countBand s k i) := rfl

theorem cores_countBand (s : State) (k i : Nat) : (countBand s k i).cores = s.cores := rfl

theorem stampBand_only (s : State) (k n i : Nat) (first : Bool) : enginesOnly s (stampBand s k n i first) := by
  rw [stampBand]
  split <;> rfl

theorem cores_stampBand (s : State) (k n i : Nat) (first : Bool) : (stampBand s k n i first).cores = s.cores := by
  rw [stampBand]
  split <;> rfl

theorem countCopy_only (s : State) (src dst : Span) : enginesOnly s (countCopy s src dst) := by
  rw [countCopy]
  split
  · exact (countBand_only s _ _).trans (stampBand_only _ _ _ _ _)
  · split <;> rfl

theorem cores_countCopy (s : State) (src dst : Span) : (countCopy s src dst).cores = s.cores := by
  rw [countCopy]
  split
  · exact cores_stampBand _ _ _ _ _
  · split <;> rfl

theorem takeTargets_only (wg off len : Nat) (m : BitVec 16) (core op : Nat) (cs : List Nat) :
    ∀ s, enginesOnly s (takeTargets s wg off len m core op cs) := by
  induction cs with
  | nil => exact fun _ => rfl
  | cons c rest ih => exact fun s => (enginesOnly_putCore s _ _).trans (ih _)

theorem engine_takeTargets (wg off len : Nat) (m : BitVec 16) (core op k : Nat) (cs : List Nat) :
    ∀ s, (getCore (takeTargets s wg off len m core op cs) k).engine = (getCore s k).engine := by
  induction cs with
  | nil => exact fun _ => rfl
  | cons c rest ih => exact fun s => (ih _).trans (engine_takeLock _ _ _ _)

theorem pastTwo_retire {t w : State} (same : curStrand w = curStrand t) (rep : (curStrand t).inRep = false) :
    pastTwo t (retire w 2) := by
  have n16 := (curStrand t).hdr.n.isLt
  unfold pastTwo retire nextClause
  simp only [same, rep, Bool.false_eq_true, if_false, curStrand_setStrand]
  split
  next room => exact ⟨rfl, by rw [BitVec.toNat_ofNat]; omega, rfl⟩
  next => exact ⟨rfl, rfl, rfl⟩

/-- What the state after a transfer's issue shows of its operation and of the strand. -/
theorem transfer_issued {s t w : State} (fetched : enginesOnly s t) (h : enginesOnly t w) :
    curCore (retire w 2) = curCore w ∧ sameMemory s (retire w 2) ∧
      ((curStrand t).inRep = false → pastTwo t (retire w 2)) := by
  refine ⟨curCore_retire w 2, sameMemory_of_mem ?_, pastTwo_retire h.curStrand⟩
  obtain ⟨y, hy, -⟩ := retire_eq_setStrand w 2
  rw [hy]
  exact h.mem.trans fetched.mem

theorem checkHulls_apart {a b : Hull} (s0 d0 : Nat) (h : hullsShare a b = false) : checkHulls a b s0 d0 = .ok () := by
  rw [checkHulls, h]
  rfl

theorem lockRoom_lt {c : Core} {n : Nat} (h : c.locks.length + n ≤ 64) : lockRoom c n = true := decide_eq_true h

/-! ## c.copy (R326 to R330) -/

section
variable {s t : State} {g : BitVec 3} {d a b : BitVec 6} {iv vf sp : BitVec 1} {tc : BitVec 2} {dst src rec : Word} {r : Record}

/-- The operation that a legal c.copy issues, over its parts. -/
def copyOp (t : State) (r : Record) (src dst : Word) (sp vf iv : Bool) (tc : BitVec 2) : EngineOp :=
  let q := requester t t.focus.key
  let parts := partStarts t q (rowPieces dst.toNat r.dpitch r.rb r.rows)
  { kind := .copy r (spanAt t t.focus.key src.toNat) (spanAt t t.focus.key dst.toNat) sp vf iv tc, parts := parts,
    srcParts := partStarts t q (rowPieces src.toNat r.spitch (sourceBytes r sp) r.rows),
    left := List.range parts.length }

/-- The state in which a copy is issued and counted. -/
def copyIssued (t : State) (r : Record) (src dst : Word) (sp vf iv : Bool) (tc : BitVec 2) (hs : List Hull) : State :=
  let from_ := spanAt t t.focus.key src.toNat
  let onto := spanAt t t.focus.key dst.toNat
  countCopy (issueEngine t (copyOp t r src dst sp vf iv tc) hs (inGroup from_ || inGroup onto)) from_ onto

theorem copyIssued_only (hs : List Hull) (sp vf iv : Bool) : enginesOnly t (copyIssued t r src dst sp vf iv tc hs) :=
  (issueEngine_only t _ _ _).trans (countCopy_only _ _ _)

theorem copyIssued_engine (hs : List Hull) (sp vf iv : Bool) (due : List Act) :
    (curCore { copyIssued t r src dst sp vf iv tc hs with due := due }).engine =
      (curCore t).engine ++ [issuedOp t (copyOp t r src dst sp vf iv tc)
        (inGroup (spanAt t t.focus.key src.toNat) || inGroup (spanAt t t.focus.key dst.toNat))] := by
  have key := (copyIssued_only (t := t) (r := r) (src := src) (dst := dst) (tc := tc) hs sp vf iv).focus
  have first := (issueEngine_only t (copyOp t r src dst sp vf iv tc) hs
    (inGroup (spanAt t t.focus.key src.toNat) || inGroup (spanAt t t.focus.key dst.toNat))).focus
  have cores := cores_countCopy (issueEngine t (copyOp t r src dst sp vf iv tc) hs
    (inGroup (spanAt t t.focus.key src.toNat) || inGroup (spanAt t t.focus.key dst.toNat)))
    (spanAt t t.focus.key src.toNat) (spanAt t t.focus.key dst.toNat)
  rw [← issueEngine_engine t _ hs]
  exact congrArg Core.engine (curCore_congr cores (key.trans first.symm))

theorem execCCopy_issues (hg : guardP s g = true) (hd : holdsS s d dst) (ha : holdsS s a src) (hb : holdsS s b rec)
    (fetched : fetchRecord s rec = .ok (r, t)) (legal : flagsLegal r (sp == 1) (vf == 1) = true)
    (sound : checkCopy t r src.toNat dst.toNat (sp == 1) (vf == 1) = .ok ())
    (priv : iv = 0 ∨ isPriv (cur s) = true) :
    let q := requester t t.focus.key
    let hs := hullOf (spanAt t t.focus.key src.toNat) q.asid (hullLength r.rows r.spitch (sourceBytes r (sp == 1))) false
    let hd := hullOf (spanAt t t.focus.key dst.toNat) q.asid (hullLength r.rows r.dpitch r.rb) true
    hullsShare hs hd = false → (curCore t).locks.length < 64 → locksClash (curCore t) [hs, hd] = false →
      ∃ due, exec (.cCopy g d a b iv vf sp tc) s =
        .next (retire { copyIssued t r src dst (sp == 1) (vf == 1) (iv == 1) tc [hs, hd] with due := due } 2) := by
  intro q hs hd apart room clash
  have mode : (iv == 0 || isPriv (cur s)) = true := by simpa using priv
  have free : (lockRoom (curCore t) 1 && !locksClash (curCore t) [hs, hd]) = true := by rw [lockRoom_lt room, clash]; rfl
  refine ⟨(copyIssued t r src dst (sp == 1) (vf == 1) (iv == 1) tc [hs, hd]).due ++
    ((copyOp t r src dst (sp == 1) (vf == 1) (iv == 1) tc).left.map fun p =>
      Act.event .copyPartCompletion { place := keyCore t.focus.key, id := nextEngineId t, sub := p }), ?_⟩
  show execCCopy g d a b iv vf sp tc s = _
  rw [execCCopy, if_pos hg, mode, need_true, ok_bind, rdS_holds ‹holdsS s d dst›, ok_bind, rdS_holds ha, ok_bind, rdS_holds hb, ok_bind,
    fetched, ok_bind]
  dsimp only
  rw [legal, sound, ok_bind, checkHulls_apart _ _ apart, ok_bind]
  rw [show getCore t (keyCore t.focus.key) = curCore t from rfl, free, await_true, ok_bind]
  rfl

theorem execCCopy_denied (hg : guardP s g = true) (user : iv = 1) (unpriv : isPriv (cur s) = false) :
    exec (.cCopy g d a b iv vf sp tc) s = traps s 0x07 0 0 := by
  show execCCopy g d a b iv vf sp tc s = _
  rw [execCCopy, if_pos hg, user, unpriv]
  rfl

end

/-! ## c.mcast (R334) -/

section
variable {s t : State} {g : BitVec 3} {d a b : BitVec 6} {ts : BitVec 16} {vf sp : BitVec 1} {tc : BitVec 2}
  {dst src rec : Word} {r : Record}

/-- The operation that a legal c.mcast issues, over its targets. -/
def mcastOp (t : State) (r : Record) (src dst : Word) (ts : BitVec 16) (sp vf : Bool) (tc : BitVec 2) : EngineOp :=
  { kind := .mcast r (spanAt t t.focus.key src.toNat) (dst.toNat - groupBase) sp vf tc, left := targetBits ts,
    srcParts := partStarts t (requester t t.focus.key) (rowPieces src.toNat r.spitch (sourceBytes r sp) r.rows) }

/-- The state in which a multicast is issued and counted. -/
def mcastCounted (t : State) (r : Record) (src dst : Word) (ts : BitVec 16) (sp vf : Bool) (tc : BitVec 2) (hs : Hull) :
    State :=
  countCopy (issueEngine t (mcastOp t r src dst ts sp vf tc) [hs] true) (spanAt t t.focus.key src.toNat)
    (.group (keyCore t.focus.key) 0)

/-- The state in which it has its targets' locks too. -/
def mcastIssued (t : State) (r : Record) (src dst : Word) (ts : BitVec 16) (sp vf : Bool) (tc : BitVec 2) (hs : Hull)
    (cores : List Nat) : State :=
  takeTargets (mcastCounted t r src dst ts sp vf tc hs) (cur t).wg (dst.toNat - groupBase)
    (hullLength r.rows r.dpitch r.rb) ts (keyCore t.focus.key) (nextEngineId t) cores

theorem mcastCounted_only (hs : Hull) (sp vf : Bool) : enginesOnly t (mcastCounted t r src dst ts sp vf tc hs) :=
  (issueEngine_only t _ _ _).trans (countCopy_only _ _ _)

theorem mcastIssued_only (hs : Hull) (sp vf : Bool) (cores : List Nat) :
    enginesOnly t (mcastIssued t r src dst ts sp vf tc hs cores) :=
  (mcastCounted_only hs sp vf).trans (takeTargets_only _ _ _ _ _ _ _ _)

theorem mcastIssued_engine (hs : Hull) (sp vf : Bool) (cores : List Nat) (due : List Act) :
    (curCore { mcastIssued t r src dst ts sp vf tc hs cores with due := due }).engine =
      (curCore t).engine ++ [issuedOp t (mcastOp t r src dst ts sp vf tc) true] := by
  have key := (mcastIssued_only (t := t) (r := r) (src := src) (dst := dst) (ts := ts) (tc := tc) hs sp vf cores).focus
  have first := (issueEngine_only t (mcastOp t r src dst ts sp vf tc) [hs] true).focus
  have counted : (mcastCounted t r src dst ts sp vf tc hs).cores = _ := cores_countCopy _ _ _
  have locked : (curCore { mcastIssued t r src dst ts sp vf tc hs cores with due := due }).engine =
      (getCore (mcastCounted t r src dst ts sp vf tc hs) (keyCore (mcastIssued t r src dst ts sp vf tc hs cores).focus.key)).engine :=
    engine_takeTargets _ _ _ _ _ _ _ _ _
  rw [locked, key, ← first, ← issueEngine_engine t _ [hs], getCore, counted]
  rfl

theorem execCMcast_issues (hg : guardP s g = true) (hd : holdsS s d dst) (ha : holdsS s a src) (hb : holdsS s b rec)
    (group : regionOf dst.toNat = .group)
    (fetched : fetchRecord s rec = .ok (r, t)) (legal : flagsLegal r (sp == 1) (vf == 1) = true)
    (sound : checkCopy t r src.toNat dst.toNat (sp == 1) (vf == 1) = .ok ()) :
    let core := keyCore t.focus.key
    let q := requester t t.focus.key
    let off := dst.toNat - groupBase
    let len := hullLength r.rows r.dpitch r.rb
    let hs := hullOf (spanAt t t.focus.key src.toNat) q.asid (hullLength r.rows r.spitch (sourceBytes r (sp == 1))) false
    let cores := targetCores t (cur t).wg (core / 32) off len ts
    hullsShare hs (hullOf (spanAt t t.focus.key dst.toNat) q.asid len true) = false →
      (curCore t).locks.length < 63 → (∀ c ∈ cores, (getCore t c).locks.length < 63) →
        locksClash (curCore t) (hs :: targetHulls t (cur t).wg core off len ts) = false → ts ≠ 0 →
          ∃ due, exec (.cMcast g d a b ts vf sp tc) s =
            .next (retire { mcastIssued t r src dst ts (sp == 1) (vf == 1) tc hs cores with due := due } 2) := by
  intro core q off len hs cores apart room rooms clash some_
  have here : lockRoom (curCore t) (if cores.contains core then 2 else 1) = true := lockRoom_lt (by split <;> omega)
  have there : (cores.all fun c => lockRoom (getCore t c) 1) = true :=
    List.all_eq_true.mpr fun c hc => lockRoom_lt (by have := rooms c hc; omega)
  have free : (lockRoom (curCore t) (if cores.contains core then 2 else 1) && (cores.all fun c => lockRoom (getCore t c) 1) &&
      !locksClash (curCore t) (hs :: targetHulls t (cur t).wg core off len ts)) = true := by rw [here, there, clash]; rfl
  refine ⟨(mcastIssued t r src dst ts (sp == 1) (vf == 1) tc hs cores).due ++
    ((mcastOp t r src dst ts (sp == 1) (vf == 1) tc).left.map fun j =>
      Act.event .mcastDelivery { place := core, id := nextEngineId t, sub := j }), ?_⟩
  show execCMcast g d a b ts vf sp tc s = _
  rw [execCMcast, if_neg some_, if_pos hg, rdS_holds ‹holdsS s d dst›, ok_bind, rdS_holds ha, ok_bind, rdS_holds hb, ok_bind, group]
  rw [show (Region.group == .group) = true from rfl, need_true, ok_bind, fetched, ok_bind]
  dsimp only
  rw [legal, sound, ok_bind, checkHulls_apart _ _ apart, ok_bind]
  rw [show getCore t (keyCore t.focus.key) = curCore t from rfl, free, await_true, ok_bind]
  rfl

end

/-! ## c.close (R339) -/

theorem getS_retire (u : State) (words n : Nat) : getS (cur (retire u words)) n = getS (cur u) n := by
  obtain ⟨-, -, here⟩ := retire_frames u words
  rw [here]
  rfl

theorem getS_retire_wrS {u : State} {d : BitVec 6} (x : Word) (words : Nat) (h : d ≠ 0) :
    getS (cur (retire (wrS u d x) words)) d.toNat = { val := x } := by
  have nonzero : d.toNat ≠ 0 := fun e => h (BitVec.eq_of_toNat_eq e)
  rw [getS_retire, wrS, cur_setCur, getS_putS _ _ nonzero]

theorem getS_retire_wrS_ne (u : State) {d : BitVec 6} (x : Word) (words : Nat) {n : Nat} (h : d.toNat ≠ n) :
    getS (cur (retire (wrS u d x) words)) n = getS (cur u) n := by
  rw [getS_retire, wrS, cur_setCur, Laws.getS_putS_ne _ _ (Ne.symm h)]

theorem putS_only (c : Ctx) (n : Nat) (r : Reg) : putS c n r = { c with sregs := (putS c n r).sregs } := by
  unfold putS
  split <;> rfl

section
variable {s : State} {g : BitVec 3} {d a : BitVec 6} {x : Word}

/-- An operation as the close of its warp's batch leaves it. -/
def closedOp (wg warp : Nat) (n : BitVec 16) (o : EngineOp) : EngineOp :=
  if o.wg == wg && o.warp == warp && inBatches o.kind && !o.closed then { o with closed := true, batch := n } else o

theorem engine_closeOps (wg warp : Nat) (n : BitVec 16) (k : Nat) :
    (getCore (closeOps s wg warp n) k).engine = (getCore s k).engine.map (closedOp wg warp n) :=
  congrArg Core.engine (mapGet_map ({} : Core) (fun _ c => { c with engine := c.engine.map (closedOp wg warp n) })
    (fun _ => rfl) s.cores k)

/-- The batch that c.close adds. -/
def newBatch (s : State) : Batch :=
  { number := nextBatch (cur s).batchNumber, complete := !openIn s (cur s).wg (cur s).warpid.toNat false 0,
    errors := (cur s).pendErrors, frow := (cur s).pendFrow }

theorem getLast?_pruneBatches (bs : List Batch) (b : Batch) : (pruneBatches (bs ++ [b])).getLast? = some b := by
  have kept : decide ((bs ++ [b]).length - 32 ≤ bs.length) = true := decide_eq_true (by simp)
  rw [pruneBatches]
  simp only [List.zipIdx_append, List.filter_append, List.zipIdx_singleton, List.filter_singleton, Nat.zero_add]
  rw [kept]
  simp

theorem newBatch_complete : (newBatch s).complete = true ↔ ∀ c ∈ s.cores, ∀ o ∈ c.2.engine,
    ¬ (o.wg = (cur s).wg ∧ o.warp = (cur s).warpid.toNat ∧ inBatches o.kind = true ∧ o.closed = false) := by
  simp [newBatch, openIn]

/-- The context in which c.close has gathered the batch. -/
def closedCtx (s : State) : Ctx :=
  { cur s with batchNumber := nextBatch (cur s).batchNumber, batches := pruneBatches ((cur s).batches ++ [newBatch s]),
               pendErrors := 0, pendFrow := 0 }

/-- The state in which it has. -/
def closed (s : State) : State :=
  setCur (closeOps s (cur s).wg (cur s).warpid.toNat (nextBatch (cur s).batchNumber)) (closedCtx s)

theorem cur_closed : cur (closed s) = closedCtx s := cur_setCur _ _

theorem execCClose_completes (hg : guardP s g = true) (hd : writableS s d)
    (room : ((cur s).batches.filter fun b => !b.complete).length < 32) :
    exec (.cClose g d) s = done (wrS (closed s) d ((nextBatch (cur s).batchNumber).zeroExtend 64)) := by
  show execCClose g d s = _
  rw [execCClose, guarded_on _ hg, freeS_writable hd, ok_bind]
  dsimp only
  rw [decide_eq_true room, await_true, ok_bind]
  rfl

/-! ## c.wait (R340, R342) -/

/-- The context in which c.wait has reported the batches that it covers. -/
def reportedCtx (c : Ctx) (upTo : Nat) : Ctx :=
  { c with batches := pruneBatches (c.batches.zipIdx.map fun e => if e.2 < upTo then { e.1 with reported := true } else e.1) }

theorem completeCWait_plain {n upTo : Nat} {status : Word} (plain : unrecorded s) (quiet : isCpyTrap (cur s) = false) :
    completeCWait s d n status upTo = retire (wrS (setCur s (reportedCtx (cur s) upTo)) d status) 1 := by
  have reported : unrecorded (setCur s (reportedCtx (cur s) upTo)) := unrecorded_setCur rfl plain
  have written : unrecorded (wrS (setCur s (reportedCtx (cur s) upTo)) d status) := unrecorded_setCur (putS_launchid ..) reported
  rw [completeCWait, quiet]
  exact completeRecorded_plain 1 6 n status written

theorem execCWait_reads (hg : guardP s g = true) (ha : holdsS s a x) (hd : writableS s d) (plain : unrecorded s) :
    exec (.cWait g d a) s = run s (
      match batchesUpTo (cur s).batches (BitVec.ofNat 16 x.toNat) with
      | none => .ok (completeCWait s d (BitVec.ofNat 16 x.toNat).toNat statusBadn 0)
      | some bs => do
        await (bs.all fun b => b.complete) .batch
        .ok (completeCWait s d (BitVec.ofNat 16 x.toNat).toNat (batchStatus bs) bs.length)) := by
  have live : replays s s.focus.key = false := plain.1
  show execCWait g d a s = _
  rw [execCWait, guarded_on _ hg, rdS_holds ha, ok_bind, freeS_writable hd, ok_bind]
  dsimp only
  rw [awaitGate_live live, ok_bind] <;> rfl

theorem getS_completeCWait {n upTo : Nat} {status : Word} (plain : unrecorded s) (quiet : isCpyTrap (cur s) = false)
    (h : d ≠ 0) : getS (cur (completeCWait s d n status upTo)) d.toNat = { val := status } := by
  rw [completeCWait_plain plain quiet, getS_retire_wrS _ _ h]

end

/-- Settles O39: copies and multicasts issue into their core's engine, and batches close and are waited for. -/
theorem transfersIssue : Obligations.TransfersIssue := by
  refine ⟨?_, ?_, fun s g d a b vf sp tc => rfl, ?_⟩
  · intro s t g d a b iv vf sp tc dst src rec r hg hd ha hb fetched legal sound q from_ onto hs ht parts apart room clash
    have only := fetchRecord_only fetched
    refine ⟨fun priv => ?_, fun user unpriv => execCCopy_denied hg user unpriv⟩
    obtain ⟨due, issues⟩ := execCCopy_issues (tc := tc) hg hd ha hb fetched legal sound priv apart room clash
    obtain ⟨core, memory, place⟩ := transfer_issued only
      ((copyIssued_only (t := t) (r := r) (src := src) (dst := dst) (tc := tc) [hs, ht] (sp == 1) (vf == 1) (iv == 1)).trans
        (enginesOnly_due _ due))
    exact ⟨_, _, issues, (congrArg Core.engine core).trans (copyIssued_engine ..), rfl, rfl, congrArg (fun f => f.key) only.focus,
      memory, place⟩
  · intro s t g d a b ts vf sp tc dst src rec r hg hd ha hb fetched group legal sound core q from_ off len hs cores apart room
      rooms clash some_
    have only := fetchRecord_only fetched
    obtain ⟨due, issues⟩ := execCMcast_issues (tc := tc) hg hd ha hb group fetched legal sound apart room rooms clash some_
    obtain ⟨core, memory, place⟩ := transfer_issued only
      ((mcastIssued_only (t := t) (r := r) (src := src) (dst := dst) (ts := ts) (tc := tc) hs (sp == 1) (vf == 1) cores).trans
        (enginesOnly_due _ due))
    exact ⟨_, _, issues, (congrArg Core.engine core).trans (mcastIssued_engine ..), rfl, rfl, memory, place⟩
  · intro s g d a x hg hd
    refine ⟨?_, ?_⟩
    · intro room n mine
      obtain ⟨y, hy, -⟩ := retire_eq_setStrand (wrS (closed s) d (n.zeroExtend 64)) 1
      obtain ⟨-, -, here⟩ := retire_frames (wrS (closed s) d (n.zeroExtend 64)) 1
      have cores : ∀ k, getCore (retire (wrS (closed s) d (n.zeroExtend 64)) 1) k =
          getCore (closeOps s (cur s).wg (cur s).warpid.toNat n) k := fun k => by rw [hy]; rfl
      have engine := fun k => (congrArg Core.engine (cores k)).trans (engine_closeOps (s := s) _ _ n k)
      have ctx : cur (retire (wrS (closed s) d (n.zeroExtend 64)) 1) = _ := here
      have wrote : cur (wrS (closed s) d (n.zeroExtend 64)) = putS (closedCtx s) d.toNat { val := n.zeroExtend 64 } := by
        rw [wrS, cur_setCur, cur_closed]
      refine ⟨_, execCClose_completes hg hd room, ?_, fun k => ?_, fun k i o at_ => ⟨fun own => ?_, fun other => ?_⟩,
        ⟨newBatch s, ?_, rfl, rfl, newBatch_complete⟩, fun nonzero => ?_, fun m other => ?_⟩
      · exact (congrArg Ctx.batchNumber ctx).trans ((congrArg Ctx.batchNumber wrote).trans (congrArg Ctx.batchNumber (putS_only ..)))
      · exact (congrArg List.length (engine k)).trans (List.length_map _)
      · refine (congrArg (·[i]?) (engine k)).trans ?_
        obtain ⟨wg, warp, kind, free⟩ := own
        simp [at_, closedOp, wg, warp, kind, free]
      · refine (congrArg (·[i]?) (engine k)).trans ?_
        have passed : closedOp (cur s).wg (cur s).warpid.toNat n o = o := if_neg (by simpa [mine, and_assoc] using other)
        simp [at_, passed]
      · have batches := (congrArg Ctx.batches ctx).trans ((congrArg Ctx.batches wrote).trans (congrArg Ctx.batches (putS_only ..)))
        exact (congrArg List.getLast? batches).trans (getLast?_pruneBatches _ _)
      · exact getS_retire_wrS _ _ nonzero
      · refine (getS_retire_wrS_ne (closed s) _ _ other).trans ?_
        rw [cur_closed]
        rfl
    · intro ha plain quiet n
      have reads := execCWait_reads hg ha hd plain
      refine ⟨fun none_ => ?_, fun bs some_ complete => ?_, fun bs some_ open_ => ?_⟩
      · rw [reads, none_]
        exact ⟨_, rfl, getS_completeCWait plain quiet⟩
      · rw [reads, some_]
        dsimp only
        rw [show (bs.all fun b => b.complete) = true from List.all_eq_true.mpr complete]
        exact ⟨_, rfl, getS_completeCWait plain quiet⟩
      · obtain ⟨b, hb, waits⟩ := open_
        rw [reads, some_]
        dsimp only
        rw [show (bs.all fun b => b.complete) = false from List.all_eq_false.mpr ⟨b, hb, by simp [waits]⟩]
        rfl

end Sys2Proof.Proofs
end

section
/-! PROOFS. Stage rings and band records (20 R399 to R406). -/

namespace Sys2Proof.Proofs

open Sys2Proof Sys2Proof.Machine Sys2Proof.Laws

/-! ## r.post and r.wait (R400, R401) -/

section
variable {s : State} {g q : BitVec 3} {a : BitVec 6} {n : BitVec 10} {x : Word} {r : Ring} {t : BitVec 16}

theorem exec_ring_unowned (hg : guardP s g = true) (unowned : ringOf s q.toNat = none) :
    exec (.rPost g q) s = traps s 0x16 0 0 ∧ exec (.rWait g q a n) s = traps s 0x16 0 0 := by
  constructor
  · show execRPost g q s = _
    rw [execRPost, guarded_on _ hg, unowned]
    rfl
  · show execRWait g q a n s = _
    have reads : execRWait g q a n s = run s (guarded g (fun _ => .error (.trap 0x16 0 0)) s) := by
      rw [execRWait, unowned]
      cases (curStrand s).rwait <;> rfl
    rw [reads, guarded_on _ hg]
    rfl

theorem execRPost_completes (hg : guardP s g = true) (owned : ringOf s q.toNat = some r) (performed : (cur s).ops = []) :
    exec (.rPost g q) s = done (postRing s (cur s).wg q.toNat) := by
  show execRPost g q s = _
  rw [execRPost, guarded_on _ hg, owned, performed]
  rfl

theorem unrecorded_setStrand {x : Strand} (plain : unrecorded s) : unrecorded (setStrand s x) := unrecorded_setCur rfl plain

theorem unrecorded_wrP {p : BitVec 3} {v : Bool} (plain : unrecorded s) : unrecorded (wrP s p v) :=
  unrecorded_setCur (putP_launchid ..) plain

theorem ringPhase_live {m : Mark} (h : replays s m.who.key = false) (p : BitVec 16) : ringPhase s m p = some p := by
  rw [ringPhase, forcedValue_live h]

theorem ringWait_passed (plain : unrecorded s) (passed : ringPassed r.phase t = true) :
    ringWait s q r t =
      retire (wrP (setStrand s { curStrand s with rwait := none }) 7 (decide (r.depth.toNat < (r.phase - t).toNat))) 1 := by
  have live : replays s s.focus.key = false := plain.1
  rw [ringWait, awaitGate_live live, ringPhase_live live]
  dsimp only
  rw [if_pos passed]
  exact completeRecorded_plain 1 4 q.toNat _ (unrecorded_wrP (unrecorded_setStrand plain))

theorem ringWait_waits (live : replays s s.focus.key = false) (waiting : ringPassed r.phase t = false) :
    ringWait s q r t = hold (setStrand s { curStrand s with rwait := some t }) .ring := by
  rw [ringWait, awaitGate_live live, ringPhase_live live]
  dsimp only
  rw [waiting]
  rfl

theorem ringWait_ends (plain : unrecorded s) :
    let gap := (r.phase - t).toNat
    (1 ≤ gap → gap ≤ 32767 → .next (ringWait s q r t) =
      doneP (setStrand s { curStrand s with rwait := none }) 7 (decide (r.depth.toNat < gap))) ∧
    ((gap = 0 ∨ 32767 < gap) → .next (ringWait s q r t) = waits (setStrand s { curStrand s with rwait := some t }) .ring) := by
  intro gap
  refine ⟨fun low high => ?_, fun out => ?_⟩
  · rw [ringWait_passed plain (by rw [ringPassed, decide_eq_true low, decide_eq_true high]; rfl)]
    rfl
  · have waiting : ringPassed r.phase t = false := by
      rw [ringPassed, ← Bool.decide_and]
      exact decide_eq_false (by omega)
    rw [ringWait_waits plain.1 waiting]
    rfl

theorem execRWait_token (hg : guardP s g = true) (owned : ringOf s q.toNat = some r) (ha : holdsS s a x)
    (new : (curStrand s).rwait = none) :
    exec (.rWait g q a n) s = .next (ringWait s q r (BitVec.ofNat 16 (x + n.signExtend 64).toNat)) := by
  show execRWait g q a n s = _
  rw [execRWait, new, owned]
  dsimp only
  rw [guarded_on _ hg, rdS_holds ha]
  rfl

theorem execRWait_kept (owned : ringOf s q.toNat = some r) (kept : (curStrand s).rwait = some t) :
    exec (.rWait g q a n) s = .next (ringWait s q r t) := by
  show execRWait g q a n s = _
  rw [execRWait, kept, owned]

end

/-! ## t.band (R403, R406) -/

section
variable {s : State} {g : BitVec 3}

theorem getWg_retire (u : State) (words k : Nat) : getWg (retire u words) k = getWg u k := by
  obtain ⟨y, hy, -⟩ := retire_eq_setStrand u words
  rw [hy]
  rfl

theorem retire_only (u : State) (words : Nat) : retire u words = { u with ctxs := (retire u words).ctxs } := by
  obtain ⟨y, hy, -⟩ := retire_eq_setStrand u words
  rw [hy]
  rfl

theorem retire_leaves (u : State) (words : Nat) :
    (retire u words).cores = u.cores ∧ (retire u words).due = u.due ∧ (retire u words).mem = u.mem := by
  rw [retire_only]
  exact ⟨rfl, rfl, rfl⟩

theorem wgs_issueEngine (u : State) (o : EngineOp) (hs : List Hull) (counted : Bool) :
    (issueEngine u o hs counted).wgs = u.wgs ∧ (issueEngine u o hs counted).due = u.due := by
  rw [issueEngine]
  dsimp only
  split <;> exact ⟨rfl, rfl⟩

/-- A band as its close leaves it. -/
def closedBand (s : State) : Band := { (getWg s (cur s).wg).band with isOpen := false, closed := s.time }

/-- The state in which the open band of a warp without BANDBASE is closed, or in which it was closed. -/
def bandClosed (s : State) : State :=
  if (getWg s (cur s).wg).band.isOpen then putWg s (cur s).wg { getWg s (cur s).wg with band := closedBand s } else s

theorem closeBand_unrecorded (none_ : (cur s).bandbase = 0) : closeBand s = .ok (bandClosed s) := by
  rw [closeBand, bandClosed]
  dsimp only
  cases (getWg s (cur s).wg).band.isOpen
  · rfl
  · rw [none_]
    rfl

theorem bandClosed_only (s : State) : enginesOnly s (bandClosed s) := by
  rw [bandClosed]
  split <;> rfl

theorem bandClosed_leaves (s : State) : (bandClosed s).cores = s.cores ∧ (bandClosed s).due = s.due := by
  rw [bandClosed]
  split <;> exact ⟨rfl, rfl⟩

theorem bandClosed_time (s : State) : (bandClosed s).time = s.time := (congrArg State.time (bandClosed_only s)).trans rfl

theorem execTBandOpen_completes (hg : guardP s g = true) (warp : isSystem s.focus.key = false) (none_ : (cur s).bandbase = 0) :
    exec (.tBandOpen g) s = done (putWg (bandClosed s) (cur (bandClosed s)).wg { wgOf (bandClosed s) (bandClosed s).focus.key with
      band := { isOpen := true, seq := (wgOf (bandClosed s) (bandClosed s).focus.key).band.seq + 1,
                number := nextBand (wgOf (bandClosed s) (bandClosed s).focus.key).band.number, opened := (bandClosed s).time } }) := by
  show execTBandOpen g s = _
  rw [execTBandOpen, guarded_on _ hg, warp, Bool.not_false, need_true, ok_bind, closeBand_unrecorded none_, ok_bind]
  rfl

theorem execTBandClose_closes (hg : guardP s g = true) (warp : isSystem s.focus.key = false) :
    exec (.tBandClose g) s = run s (do let t ← closeBand s; .ok (retire t 1)) := by
  show execTBandClose g s = _
  rw [execTBandClose, guarded_on _ hg, warp, Bool.not_false, need_true, ok_bind]

theorem execTBandClose_completes (hg : guardP s g = true) (warp : isSystem s.focus.key = false) (none_ : (cur s).bandbase = 0) :
    exec (.tBandClose g) s = done (bandClosed s) := by
  rw [execTBandClose_closes hg warp, closeBand_unrecorded none_]
  rfl

theorem exec_band_system (hg : guardP s g = true) (system : isSystem s.focus.key = true) :
    exec (.tBandOpen g) s = traps s 0x16 0 0 ∧ exec (.tBandClose g) s = traps s 0x16 0 0 := by
  constructor
  · show execTBandOpen g s = _
    rw [execTBandOpen, guarded_on _ hg, system]
    rfl
  · show execTBandClose g s = _
    rw [execTBandClose, guarded_on _ hg, system]
    rfl

theorem bandClosed_band (s : State) :
    let w := getWg s (cur s).wg
    let v := wgOf (bandClosed s) (bandClosed s).focus.key
    v.band.seq = w.band.seq ∧ v.band.number = w.band.number ∧ v.band.isOpen = false ∧
      (w.band.isOpen = true → v.band.closed = s.time) := by
  intro w v
  have here : v = getWg (bandClosed s) (cur s).wg := congrArg (fun c : Ctx => getWg (bandClosed s) c.wg) (bandClosed_only s).cur
  rw [here, bandClosed]
  split
  next open_ =>
    rw [getWg_putWg]
    exact ⟨rfl, rfl, rfl, fun _ => rfl⟩
  next shut => exact ⟨rfl, rfl, by simpa using shut, fun open_ => absurd open_ shut⟩

/-- The state in which the open band of a warp with BANDBASE is closed and its record is due. -/
def bandRecorded (s : State) : State :=
  let w := getWg s (cur s).wg
  putWg s (cur s).wg { w with band := closedBand s, oldBands := mapPut {} w.oldBands (closedBand s).seq (closedBand s) }

theorem spanAt_bandRecorded (s : State) (addr : Nat) :
    spanAt (bandRecorded s) (bandRecorded s).focus.key addr = spanAt s s.focus.key addr := by
  have wg : wgOf (bandRecorded s) s.focus.key = { getWg s (cur s).wg with
      band := closedBand s, oldBands := mapPut {} (getWg s (cur s).wg).oldBands (closedBand s).seq (closedBand s) } := getWg_putWg ..
  show spanAt (bandRecorded s) s.focus.key addr = _
  unfold spanAt
  rw [wg]
  rfl

/-- The operation that writes the record at an address. -/
def bandOp (s : State) (addr : Nat) : EngineOp :=
  { kind := .band (spanAt (bandRecorded s) (bandRecorded s).focus.key addr) (closedBand s).seq }

/-- The state in which it is issued and due. -/
def bandIssued (s : State) (addr : Nat) : State :=
  later (issueEngine (bandRecorded s) (bandOp s addr) [] false)
    (.event .bandRecordWrite { place := keyCore s.focus.key, id := nextEngineId (bandRecorded s) })

theorem getWg_bandIssued (s : State) (addr : Nat) : getWg (bandIssued s addr) (cur s).wg = { getWg s (cur s).wg with
    band := closedBand s, oldBands := mapPut {} (getWg s (cur s).wg).oldBands (closedBand s).seq (closedBand s) } := by
  have wgs : (bandIssued s addr).wgs = _ := (wgs_issueEngine (bandRecorded s) (bandOp s addr) [] false).1
  rw [getWg, wgs]
  exact getWg_putWg ..

theorem closeBand_checked (recorded : (cur s).bandbase ≠ 0) (open_ : (getWg s (cur s).wg).band.isOpen = true) :
    let addr := bandAddress (cur s).bandbase (getWg s (cur s).wg).band.number.toNat
    (regionOf addr = .spill ∨ engineChecked s (requester s s.focus.key) true [(addr, 64)] = .ok ()) →
      closeBand s =
        if failsLock s (requester s s.focus.key) .store addr 64 then .error (.trap 0x0D (BitVec.ofNat 64 addr) 0)
        else .ok (bandIssued s addr) := by
  intro addr checks
  rw [closeBand]
  dsimp only
  rw [open_, if_neg recorded]
  by_cases spill : regionOf addr = .spill
  · rw [show regionOf (bandAddress (cur s).bandbase (getWg s (cur s).wg).band.number.toNat) = .spill from spill]
    cases failsLock s (requester s s.focus.key) .store addr 64 <;> rfl
  · rw [if_neg (show ¬ regionOf (bandAddress (cur s).bandbase (getWg s (cur s).wg).band.number.toNat) = .spill from spill),
      show engineChecked s (requester s s.focus.key) true [(bandAddress (cur s).bandbase (getWg s (cur s).wg).band.number.toNat, 64)]
        = .ok () from checks.resolve_left spill]
    cases failsLock s (requester s s.focus.key) .store addr 64 <;> rfl

end

/-- Settles O40: rings are posted to and waited for, and bands open and close. -/
theorem ringsAndBands : Obligations.RingsAndBands := by
  refine ⟨?_, ?_, ?_⟩
  · intro s g q a n x r hg
    refine ⟨fun unowned => exec_ring_unowned hg unowned, fun owned => ⟨execRPost_completes hg owned, ?_⟩⟩
    intro ha plain new t gap
    rw [execRWait_token hg owned ha new]
    exact ringWait_ends plain
  · intro s g q a n r t kept owned plain gap
    rw [execRWait_kept owned kept]
    exact ringWait_ends plain
  · intro s g hg
    refine ⟨?_, ?_, exec_band_system hg⟩
    · intro warp none_ w
      obtain ⟨seq, number, shut, at_⟩ := bandClosed_band s
      have same := (bandClosed_only s).cur
      refine ⟨⟨_, execTBandOpen_completes hg warp none_, ?_⟩, ⟨_, execTBandClose_completes hg warp none_, ?_⟩⟩
      · rw [getWg_retire, same, getWg_putWg, seq, number, bandClosed_time]
      · have place : getWg (bandClosed s) (cur s).wg = wgOf (bandClosed s) (bandClosed s).focus.key :=
          (congrArg (fun c : Ctx => getWg (bandClosed s) c.wg) same).symm
        obtain ⟨cores, due, mem⟩ := retire_leaves (bandClosed s) 1
        obtain ⟨cores', due'⟩ := bandClosed_leaves s
        refine ⟨?_, ?_, ?_, ?_, ?_, ?_⟩
        · rw [getWg_retire, place, shut]
        · exact cores.trans cores'
        · exact due.trans due'
        · exact sameMemory_of_mem (mem.trans (bandClosed_only s).mem)
        · rw [getWg_retire, place]
          exact at_
        · intro closed
          rw [bandClosed, if_neg (by rw [closed]; decide)]
    · intro warp recorded open_ w addr q closed checks
      have closes : closeBand s = if failsLock s q .store addr 64 then .error (.trap 0x0D (BitVec.ofNat 64 addr) 0)
          else .ok (bandIssued s addr) := closeBand_checked recorded open_ checks
      refine ⟨fun locked => ?_, fun free => ?_⟩
      · rw [execTBandClose_closes hg warp, closes, if_pos locked]
        rfl
      · rw [execTBandClose_closes hg warp, closes, if_neg (by rw [free]; decide)]
        obtain ⟨cores, due, mem⟩ := retire_leaves (bandIssued s addr) 1
        refine ⟨_, issuedOp (bandRecorded s) (bandOp s addr) false, rfl, ?_, ?_, ?_, ?_, rfl, ?_, ?_⟩
        · rw [getWg_retire, getWg_bandIssued]
          rfl
        · rw [getWg_retire, getWg_bandIssued]
          exact mapGet_put_same ..
        · rw [curCore_retire]
          exact issueEngine_engine (bandRecorded s) (bandOp s addr) [] false
        · exact congrArg (EngineKind.band · closed.seq) (spanAt_bandRecorded s addr)
        · exact due.trans (congrArg (· ++ [_]) (wgs_issueEngine (bandRecorded s) (bandOp s addr) [] false).2)
        · exact sameMemory_of_mem (mem.trans (issueEngine_only (bandRecorded s) (bandOp s addr) [] false).mem)

end Sys2Proof.Proofs
end

section
/-! PROOFS. Shape registers, operand maps, bindings and the matrix lease (19 R370 to R384). -/

namespace Sys2Proof.Proofs

open Sys2Proof Sys2Proof.Machine Sys2Proof.Laws

/-! ## Shape registers (R372, R373) -/

section
variable {s : State} {g h : BitVec 3} {d a b sel : BitVec 6} {qm qn qk : Word}

/-- The context with the grant of three requests in a shape register. -/
def shapedCtx (s : State) (h : BitVec 3) (qm qn qk : Word) : Ctx :=
  let w := grantWord (keyDie s.focus.key) qm.toNat qn.toNat (bf qk 59 0) (bf qk 63 60)
  { cur s with shapes := mapPut 0 (cur s).shapes h.toNat w }

theorem bf_top (x : Word) : bf x 63 60 = x.toNat / 2 ^ 60 := by
  have := x.isLt
  rw [bf]
  omega

theorem bf_low60 (x : Word) : bf x 59 0 = x.toNat % 2 ^ 60 := by
  rw [bf]
  omega

theorem execShpSet_completes (hg : guardP s g = true) (hd : holdsS s d qm) (ha : holdsS s a qn) (hb : holdsS s b qk)
    (low : 2 ≤ qk.toNat / 2 ^ 60) (high : qk.toNat / 2 ^ 60 ≤ 8) :
    exec (.shpSet g h d a b) s = done (setCur s (shapedCtx s h qm qn qk)) := by
  show execShpSet g h d a b s = _
  rw [execShpSet, guarded_on _ hg, rdS_holds hd, ok_bind, rdS_holds ha, ok_bind, rdS_holds hb, ok_bind]
  dsimp only
  rw [decide_eq_true (bf_top qk ▸ low), decide_eq_true (bf_top qk ▸ high)]
  rfl

theorem execShpGet_word (hg : guardP s g = true) (hd : writableS s d) :
    exec (.shpGet g h d 0) s = doneS s d (mapGet 0 (cur s).shapes h.toNat) := by
  show execShpGet g h d 0 s = _
  rw [execShpGet, guarded_on _ hg, if_pos rfl, freeS_writable hd]
  rfl

theorem execShpGet_names (hg : guardP s g = true) (low : 1 ≤ sel.toNat) (high : sel.toNat ≤ 6) :
    exec (.shpGet g h d sel) s = run s (do
      let x ← namedShape s h
      freeS s d
      .ok (retire (wrS s d (BitVec.ofNat 64 (shapeField x sel.toNat))) 1)) := by
  have field : sel ≠ 0 := by
    rintro rfl
    exact absurd low (by decide)
  show execShpGet g h d sel s = _
  rw [execShpGet, guarded_on _ hg, if_neg field, decide_eq_true high]
  rfl

theorem namedShape_granted (valid : bitAt (shapeWord s h) 62 = false) (grant : bitAt (shapeWord s h) 63 = true) :
    namedShape s h = .ok (shapeOf (shapeWord s h)) := by
  rw [namedShape, valid, grant]
  rfl

theorem namedShape_revoked (revoked : bitAt (shapeWord s h) 62 = true) : namedShape s h = .error (.trap 0x0E 0 0) := by
  rw [namedShape, revoked]
  rfl

theorem namedShape_absent (valid : bitAt (shapeWord s h) 62 = false) (none_ : bitAt (shapeWord s h) 63 = false) :
    namedShape s h = .error (.trap 0x01 0 0) := by
  rw [namedShape, valid, none_]
  rfl

end

/-! ## Maps and bindings (R378, R380) -/

section
variable {s : State}

theorem execMxMap_completes {m : BitVec 4} {r k w : BitVec 6} {at_ k0 w0 : Word} {x : Record} {t : State}
    (named : m.toNat < 2 * acctOf s) (hr : holdsS s r at_) (hk : holdsS s k k0) (hw : holdsS s w w0)
    (fetched : fetchRecord s at_ = .ok (x, t)) (legal : matrixRecord x = true) (base : inWindow x.base = true)
    (scale : isSe x.fmt = true → inWindow x.scale = true) (block : k0.toNat % 16 = 0)
    (column : k0.toNat * elementBits x.fmt / 8 < x.rb) (row : w0.toNat < x.rows) :
    exec (.mxMap m r k w) s = done (putWg t (cur t).wg { getWg t (cur t).wg with
      maps := mapPut {} (getWg t (cur t).wg).maps m.toNat (mapOf x k0.toNat w0.toNat) }) := by
  have window : (!isSe x.fmt || inWindow x.scale) = true := by
    cases se : isSe x.fmt
    · rfl
    · exact scale se
  show execMxMap m r k w s = _
  rw [execMxMap, decide_eq_true named, need_true, ok_bind, rdS_holds hr, ok_bind, rdS_holds hk, ok_bind, rdS_holds hw, ok_bind,
    fetched, ok_bind]
  dsimp only
  rw [legal, base, window, block, decide_eq_true column, decide_eq_true row]
  rfl

theorem vxAt_names {f : BitVec 6} {r excess : Nat} (h : namesV s f excess r) : vxAt s f.toNat excess = .ok r := by
  obtain ⟨rfl, low⟩ := h
  exact if_pos low

/-- A quarter of B bound to registers of the executing warp. -/
def boundTo (s : State) (rb rs : Nat) : Binding :=
  { valid := true, warp := (cur s).warpid.toNat, base := BitVec.ofNat 8 rb, scale := BitVec.ofNat 8 rs }

theorem execMxLeaseBind_completes {q : BitVec 2} {a b : BitVec 6} {rb rs : Nat} (ha : namesV s a 0 rb) (hb : namesV s b 0 rs) :
    exec (.mxLeaseBind q a b) s = done (putWg s (cur s).wg { getWg s (cur s).wg with
      binds := mapPut {} (getWg s (cur s).wg).binds q.toNat (boundTo s rb rs) }) := by
  show execMxLeaseBind q a b s = _
  rw [execMxLeaseBind, vxAt_names ha, ok_bind, vxAt_names hb]
  rfl

end

/-! ## The lease (R383, R384) -/

section
variable {s : State}

theorem underLease_held {issue : State → Res State} (held : holdsLease (askLease s) = true) :
    underLease s (.ok ()) issue = run (askLease s) (issue (askLease s)) := if_pos held

theorem underLease_waits {issue : State → Res State} (other : holdsLease (askLease s) = false) :
    underLease s (.ok ()) issue = waits (askLease s) .lease := if_neg (by rw [other]; decide)

theorem curCore_dropStale (s : State) : curCore (dropStale s (keyCore s.focus.key)) =
    { curCore s with leaseWaiters := (curCore s).leaseWaiters.filter fun e => waitsForLease s e.1 } :=
  curCore_putCore s _

theorem settleLease_free {core : Nat} (free : (getCore s core).leaseHolder = none) (none_ : (getCore s core).leaseWaiters = []) :
    settleLease s core = s := by
  rw [settleLease, free, none_]
  rfl

theorem settleLease_kept {core k : Nat} (holder : (getCore s core).leaseHolder = some k)
    (kept : (passWanted (getCore s core) && !inLeaseClause s k) = false) : settleLease s core = s := by
  rw [settleLease, holder]
  exact if_neg (by rw [kept]; decide)

theorem settleLease_passes {core k : Nat} (holder : (getCore s core).leaseHolder = some k)
    (wanted : passWanted (getCore s core) = true) (out : inLeaseClause s k = false) : settleLease s core = passLease s core := by
  rw [settleLease, holder]
  exact if_pos (by rw [wanted, out]; rfl)

theorem askLease_free (free : (curCore s).leaseHolder = none) (none_ : (curCore s).leaseWaiters = []) :
    askLease s = putCore (dropStale s (keyCore s.focus.key)) (keyCore s.focus.key)
      { curCore (dropStale s (keyCore s.focus.key)) with
        leaseHolder := some (cur s).wg, leaseCount := (cur s).mxlease.toNat } := by
  have core := curCore_dropStale s
  have free' : (curCore (dropStale s (keyCore s.focus.key))).leaseHolder = none := (congrArg Core.leaseHolder core).trans free
  have none' : (curCore (dropStale s (keyCore s.focus.key))).leaseWaiters = [] :=
    (congrArg Core.leaseWaiters core).trans (by rw [none_]; rfl)
  rw [askLease]
  dsimp only
  have settled : settleLease (dropStale s (keyCore s.focus.key)) (keyCore s.focus.key) = dropStale s (keyCore s.focus.key) :=
    settleLease_free free' none'
  rw [settled, show (getCore (dropStale s (keyCore s.focus.key)) (keyCore s.focus.key)).leaseHolder = none from free']
  rfl

theorem askLease_own (own : (curCore s).leaseHolder = some (cur s).wg)
    (left : (curCore s).leaseCount ≠ 0 ∨ (curCore s).leaseWaiters = []) (kept : (curCore s).leaseGiven = false) :
    askLease s = dropStale s (keyCore s.focus.key) := by
  have core := curCore_dropStale s
  have holder : (curCore (dropStale s (keyCore s.focus.key))).leaseHolder = some (cur s).wg :=
    (congrArg Core.leaseHolder core).trans own
  have stays : passWanted (curCore (dropStale s (keyCore s.focus.key))) = false := by
    rw [passWanted, core]
    obtain more | none_ := left
    · simp [kept, more]
    · simp [kept, none_]
  rw [askLease]
  have settled : settleLease (dropStale s (keyCore s.focus.key)) (keyCore s.focus.key) = dropStale s (keyCore s.focus.key) :=
    settleLease_kept holder (congrArg (fun b => b && _) stays)
  rw [settled, show (getCore (dropStale s (keyCore s.focus.key)) (keyCore s.focus.key)).leaseHolder = some (cur s).wg from holder]
  exact if_pos (.inl rfl)

/-- Two states differ in the lease of some cores, and in due events, alone. -/
def leasesOnly (s u : State) : Prop :=
  u = { s with cores := u.cores, due := u.due } ∧ ∀ k, (getCore u k).engine = (getCore s k).engine

theorem leasesOnly.refl (s : State) : leasesOnly s s := ⟨rfl, fun _ => rfl⟩

theorem leasesOnly.trans {s t u : State} (h : leasesOnly s t) (k : leasesOnly t u) : leasesOnly s u :=
  ⟨Eq.trans k.1 (congrArg (fun x : State => { x with cores := u.cores, due := u.due }) h.1), fun c => (k.2 c).trans (h.2 c)⟩

theorem leasesOnly.engines {s u : State} (h : leasesOnly s u) : enginesOnly s u := by
  obtain ⟨h, -⟩ := h
  rw [enginesOnly, h]

theorem leasesOnly_putCore {s : State} {core : Nat} {c : Core} (h : c.engine = (getCore s core).engine) :
    leasesOnly s (putCore s core c) := by
  refine ⟨rfl, fun k => ?_⟩
  by_cases here : k = core
  · rw [here, getCore_putCore, h]
  · rw [getCore_putCore_ne s _ here]

theorem dropStale_only (s : State) (core : Nat) : leasesOnly s (dropStale s core) := leasesOnly_putCore rfl

theorem passLease_only (s : State) (core : Nat) : leasesOnly s (passLease s core) := by
  rw [passLease]
  dsimp only
  split <;> exact leasesOnly_putCore rfl

theorem settleLease_only (s : State) (core : Nat) : leasesOnly s (settleLease s core) := by
  rw [settleLease]
  split
  · split
    · exact leasesOnly.refl s
    · exact passLease_only s core
  · split
    · exact passLease_only s core
    · exact leasesOnly.refl s

theorem leaseDue_only (s : State) (core : Nat) : leasesOnly s (leaseDue s core) := by
  rw [leaseDue]
  split
  · exact ⟨rfl, fun _ => rfl⟩
  · exact leasesOnly.refl s

theorem curCore_leaseDue (s : State) (core : Nat) : curCore (leaseDue s core) = curCore s := by
  rw [leaseDue]
  split <;> rfl

theorem leaseDue_settleLease_only {s t : State} {core : Nat} (h : leasesOnly s t) :
    leasesOnly s (leaseDue (settleLease t core) core) := (h.trans (settleLease_only t core)).trans (leaseDue_only _ core)

theorem askLease_only (s : State) : leasesOnly s (askLease s) := by
  have settled := (dropStale_only s (keyCore s.focus.key)).trans (settleLease_only _ (keyCore s.focus.key))
  rw [askLease]
  split
  · exact settled.trans (leasesOnly_putCore rfl)
  · split
    · exact settled
    · refine leaseDue_settleLease_only (settled.trans ?_)
      exact leasesOnly_putCore rfl

theorem holdsLease_holder {u : State} : holdsLease u = true ↔ (curCore u).leaseHolder = some (cur u).wg := beq_iff_eq

theorem holdsLease_own (holder : (curCore (askLease s)).leaseHolder = some (cur s).wg) : holdsLease (askLease s) = true :=
  holdsLease_holder.mpr ((askLease_only s).engines.cur ▸ holder)

/-- The state in which an operation of the lease's holder is counted. -/
def leaseSpent (s : State) : State :=
  putCore s (keyCore s.focus.key) { curCore s with leaseCount := (curCore s).leaseCount - 1 }

theorem leaseSpent_only (s : State) : leasesOnly s (leaseSpent s) := by
  rw [leaseSpent]
  exact leasesOnly_putCore rfl

theorem useLease_only (s : State) : leasesOnly s (useLease s) :=
  leaseDue_settleLease_only ((leaseSpent_only s).trans (dropStale_only (leaseSpent s) (keyCore s.focus.key)))

theorem passLease_free {core : Nat} (none_ : (getCore s core).leaseWaiters = []) :
    (getCore (passLease s core) core).leaseHolder = none := by
  have next (rank : Nat) (c : Core) (h : c.leaseWaiters = []) : nextWaiter s c rank = none := by
    rw [nextWaiter, h]
    rfl
  have none' := fun rank => next rank { getCore s core with leaseGiven := false } none_
  rw [passLease]
  dsimp only
  rw [none', getCore_putCore]

theorem focus_retire (u : State) (words : Nat) : (retire u words).focus = u.focus := by
  rw [retire_only]

theorem releaseLease_holder {u : State} {k : Nat} (holder : (curCore u).leaseHolder = some k) :
    let v := dropStale u (keyCore u.focus.key)
    let given := putCore v (keyCore u.focus.key) { curCore v with leaseGiven := true }
    (inLeaseClause given k = true → (curCore (releaseLease u)).leaseHolder = some k) ∧
      (inLeaseClause given k = false → (curCore v).leaseWaiters = [] → (curCore (releaseLease u)).leaseHolder = none) := by
  intro v given
  have release : releaseLease u = leaseDue (settleLease given (keyCore u.focus.key)) (keyCore u.focus.key) := rfl
  have core : curCore given = { curCore v with leaseGiven := true } := curCore_putCore v _
  have kept : (curCore given).leaseHolder = some k :=
    (congrArg Core.leaseHolder core).trans ((congrArg Core.leaseHolder (curCore_dropStale u)).trans holder)
  refine ⟨fun inside => ?_, fun outside none_ => ?_⟩
  · have settled : settleLease given (keyCore u.focus.key) = given :=
      settleLease_kept kept (by rw [inside]; exact Bool.and_false _)
    rw [release, curCore_leaseDue, settled]
    exact kept
  · have wanted : passWanted (curCore given) = true := by
      rw [core]
      rfl
    have passes : settleLease given (keyCore u.focus.key) = passLease given (keyCore u.focus.key) :=
      settleLease_passes kept wanted outside
    have same : keyCore (passLease given (keyCore u.focus.key)).focus.key = keyCore u.focus.key :=
      congrArg (fun f => keyCore f.key) (passLease_only given (keyCore u.focus.key)).engines.focus
    rw [release, curCore_leaseDue, passes, curCore, same]
    exact passLease_free ((congrArg Core.leaseWaiters core).trans none_)

end

/-- Settles O41: shape registers, maps, bindings and the lease. -/
theorem shapesMapsAndLeases : Obligations.ShapesMapsAndLeases := by
  refine ⟨?_, ?_⟩
  · intro s g h d a b sel qm qn qk hg
    refine ⟨fun hd ha hb low high => ?_, fun hd => ?_⟩
    · obtain ⟨-, -, here⟩ := retire_frames (setCur s (shapedCtx s h qm qn qk)) 1
      refine ⟨_, execShpSet_completes hg hd ha hb low high, sameMemory_of_mem (retire_leaves _ 1).2.2, ?_⟩
      rw [← bf_top, ← bf_low60]
      refine (congrArg (fun c : Ctx => mapGet 0 c.shapes h.toNat) here).trans ?_
      refine (congrArg (fun c : Ctx => mapGet 0 c.shapes h.toNat) (cur_setCur s _)).trans ?_
      exact mapGet_put_same ..
    intro w
    refine ⟨execShpGet_word hg hd, ?_, ?_, ?_⟩
    · intro valid grant low high
      rw [execShpGet_names hg low high, namedShape_granted valid grant, ok_bind, freeS_writable hd]
      rfl
    · intro revoked low high
      rw [execShpGet_names hg low high, namedShape_revoked revoked]
      rfl
    · intro valid none_ low high
      rw [execShpGet_names hg low high, namedShape_absent valid none_]
      rfl
  · intro s m r k w a b q
    refine ⟨?_, ?_, ?_, ?_, ?_, ?_, ?_, ?_⟩
    · intro at_ k0 w0 x t named hr hk hw fetched legal base scale block column row
      refine ⟨_, execMxMap_completes named hr hk hw fetched legal base scale block column row, ?_⟩
      rw [getWg_retire, ← (fetchRecord_only fetched).cur, getWg_putWg]
      exact mapGet_put_same ({} : OperandMap) (getWg t (cur t).wg).maps m.toNat (mapOf x k0.toNat w0.toNat)
    · intro rb rs ha hb
      refine ⟨_, execMxLeaseBind_completes ha hb, ?_⟩
      rw [getWg_retire, getWg_putWg]
      exact mapGet_put_same ({} : Binding) (getWg s (cur s).wg).binds q.toNat (boundTo s rb rs)
    · exact fun held => underLease_held (issue := fun t => .ok (retire t 1)) held
    · exact fun other => underLease_waits (issue := fun t => .ok (retire t 1)) other
    · intro free none_
      have asked := askLease_free free none_
      have core : curCore (askLease s) = _ := (congrArg curCore asked).trans (curCore_putCore _ _)
      have holder : (curCore (askLease s)).leaseHolder = some (cur s).wg := congrArg Core.leaseHolder core
      refine ⟨_, underLease_held (issue := fun t => .ok (retire t 1)) (holdsLease_own holder), ?_⟩
      rw [curCore_retire, core]
      exact ⟨rfl, rfl, sameMemory_of_mem ((retire_leaves _ 1).2.2.trans (askLease_only s).engines.mem)⟩
    · intro own left kept
      have core : curCore (askLease s) = _ := (congrArg curCore (askLease_own own left kept)).trans (curCore_dropStale s)
      have holder : (curCore (askLease s)).leaseHolder = some (cur s).wg := (congrArg Core.leaseHolder core).trans own
      refine ⟨_, underLease_held (issue := fun t => .ok (retire t 1)) (holdsLease_own holder), ?_⟩
      rw [curCore_retire, core]
      exact ⟨own, rfl, sameMemory_of_mem ((retire_leaves _ 1).2.2.trans (askLease_only s).engines.mem)⟩
    · intro other
      show execMxLeaseRel s = _
      rw [execMxLeaseRel, other]
      rfl
    · rw [← focus_retire s 1]
      intro held u v given
      have holder : (getCore s (keyCore s.focus.key)).leaseHolder = some (cur s).wg := by simpa [holdsLease] using held
      refine ⟨?_, releaseLease_holder ((congrArg Core.leaseHolder (curCore_retire s 1)).trans holder)⟩
      show execMxLeaseRel s = _
      rw [execMxLeaseRel, held]
      rfl

end Sys2Proof.Proofs
end

section
/-! PROOFS. Matrix forms issue (19 R376, R383 to R389). -/

namespace Sys2Proof.Proofs

open Sys2Proof Sys2Proof.Machine Sys2Proof.Laws

/-! ## The issue of an operation (R385) -/

/-- A result leaves a state in which a core's engine holds one more operation, a matrix operation of the executing strand. -/
def issuesMatrix (t : State) (op : MatOp) (u : State) : Prop :=
  ∃ o, (curCore u).engine = (curCore t).engine ++ [o] ∧ o.kind = .matrix op ∧ o.ctx = t.focus.key ∧ sameMemory t u

theorem issuesMatrix_of_cores {t u w : State} {op : MatOp} (h : issuesMatrix t op u) (cores : w.cores = u.cores)
    (only : enginesOnly u w) : issuesMatrix t op w := by
  obtain ⟨o, engine, kind, ctx, memory⟩ := h
  refine ⟨o, (congrArg Core.engine (curCore_congr cores only.focus)).trans engine, kind, ctx, fun p => ?_⟩
  exact (sameMemory_of_mem only.mem p).trans (memory p)

theorem curCore_engine_of_leases {s u : State} (h : leasesOnly s u) : (curCore u).engine = (curCore s).engine := by
  rw [curCore, h.engines.focus]
  exact h.2 _

/-- The state in which an operation is in its core's list with its lock entry. -/
def matrixLocked (t : State) (o : EngineOp) (hs : List Hull) (counted : Bool) : State :=
  let w := issueEngine t o hs counted
  if hs.isEmpty then takeLock w (keyCore t.focus.key) { core := keyCore t.focus.key, op := nextEngineId t, hulls := [] } else w

theorem matrixLocked_only (t : State) (o : EngineOp) (hs : List Hull) (counted : Bool) :
    enginesOnly t (matrixLocked t o hs counted) := by
  rw [matrixLocked]
  split
  · exact (issueEngine_only t o hs counted).trans (enginesOnly_putCore _ _ _)
  · exact issueEngine_only t o hs counted

theorem matrixLocked_engine (t : State) (o : EngineOp) (hs : List Hull) (counted : Bool) :
    (curCore (matrixLocked t o hs counted)).engine = (curCore t).engine ++ [issuedOp t o counted] := by
  rw [matrixLocked]
  split
  · exact (engine_takeLock _ _ _ _).trans (issueEngine_engine t o hs counted)
  · exact issueEngine_engine t o hs counted

/-- A matrix operation before it is numbered. -/
def matrixOp (op : MatOp) (waits parts : List Nat) (lead : Bool) : EngineOp :=
  { kind := .matrix op, waits := waits, parts := parts, lead := lead }

/-- The state after its issue, its count against the lease and the strand's advance. -/
def matrixIssued (t : State) (o : EngineOp) (hs : List Hull) (counted : Bool) (e : Instr) : State :=
  let w := useLease (matrixLocked t o hs counted)
  retire (later w (.event e { place := keyCore t.focus.key, id := nextEngineId t })) 1

theorem curCore_later (u : State) (a : Act) : curCore (later u a) = curCore u := rfl

theorem mem_later (u : State) (a : Act) : (later u a).mem = u.mem := rfl

theorem issueMatrix_issues {t : State} {op : MatOp} {hs : List Hull} (room : (curCore t).locks.length < 64)
    (clash : locksClash (curCore t) hs = false) (counted : Bool) (waits parts : List Nat) (e : Instr) (lead : Bool) :
    ∃ u, issueMatrix t op hs counted waits parts e lead = .ok u ∧ issuesMatrix t op u := by
  have free : (lockRoom (curCore t) 1 && !locksClash (curCore t) hs) = true := by rw [lockRoom_lt room, clash]; rfl
  have used := useLease_only (matrixLocked t (matrixOp op waits parts lead) hs counted)
  refine ⟨matrixIssued t (matrixOp op waits parts lead) hs counted e, ?_, issuedOp t (matrixOp op waits parts lead) counted, ?_,
    rfl, rfl, ?_⟩
  · rw [issueMatrix]
    rw [show getCore t (keyCore t.focus.key) = curCore t from rfl, free, await_true, ok_bind]
    dsimp only [matrixIssued, matrixLocked, matrixOp, later]
  · rw [matrixIssued, curCore_retire, curCore_later]
    exact (curCore_engine_of_leases used).trans (matrixLocked_engine t _ hs counted)
  · rw [matrixIssued]
    exact sameMemory_of_mem (((retire_leaves _ 1).2.2.trans (mem_later _ _)).trans (used.engines.mem.trans (matrixLocked_only t _ hs counted).mem))

theorem locksClash_nil (c : Core) : locksClash c [] = false := rfl

/-! ## mx.acc (R376, R388) -/

section
variable {s : State} {g h c : BitVec 3} {m : BitVec 4} {d : BitVec 6} {rd : Nat} {y : Shape}

theorem needTile_out {t : State} {acc : Nat} (out : acctOf t ≤ acc) : needTile t acc = .error (.trap 0x04 0 0) := by
  rw [needTile, decide_eq_false (by omega), need_false]

theorem needTile_in {t : State} {acc : Nat} (inside : acc < acctOf t) : needTile t acc = .ok () := by
  rw [needTile, decide_eq_true inside, need_true]

/-- An issue in a state that asking for the lease, or fetching a record after it, has left. -/
theorem issued_from {t : State} {i : Instr} {op : MatOp} (h : ∃ u, exec i s = .next u ∧ issuesMatrix t op u)
    (only : enginesOnly s t) :
    ∃ u o, exec i s = .next u ∧ (curCore u).engine = (curCore t).engine ++ [o] ∧ o.kind = .matrix op ∧
      o.ctx = s.focus.key ∧ sameMemory s u := by
  obtain ⟨u, next, o, engine, kind, ctx, memory⟩ := h
  exact ⟨u, o, next, engine, kind, ctx.trans (congrArg (fun f => f.key) only.focus),
    fun p => (memory p).trans (sameMemory_of_mem only.mem p)⟩

theorem execMxAccGet_under (hd : namesV s d 0 rd) : ∃ issue, execMxAccGet g h c d s = underLease s (.ok ()) issue := by
  rw [execMxAccGet, vxAt_names hd]
  exact ⟨_, rfl⟩

theorem exec_acc_waits (hd : namesV s d 0 rd) (other : holdsLease (askLease s) = false) :
    exec (.mxAccZero g h c) s = waits (askLease s) .lease ∧ exec (.mxAccLoad g h c m) s = waits (askLease s) .lease ∧
      exec (.mxAccGet g h c d) s = waits (askLease s) .lease := by
  obtain ⟨issue, under⟩ := execMxAccGet_under (g := g) (h := h) (c := c) hd
  exact ⟨show execMxAccZero g h c s = _ from underLease_waits other,
    show execMxAccLoad g h c m s = _ from underLease_waits other, under.trans (underLease_waits other)⟩

theorem exec_acc_noTile (hd : namesV s d 0 rd) (held : holdsLease (askLease s) = true)
    (shape : namedShape (askLease s) h = .ok y) (out : acctOf (askLease s) ≤ c.toNat) :
    exec (.mxAccZero g h c) s = traps (askLease s) 0x04 0 0 ∧ exec (.mxAccLoad g h c m) s = traps (askLease s) 0x04 0 0 ∧
      exec (.mxAccGet g h c d) s = traps (askLease s) 0x04 0 0 := by
  refine ⟨?_, ?_, ?_⟩
  · show execMxAccZero g h c s = _
    rw [execMxAccZero, underLease_held held, shape, ok_bind, needTile_out out]
    rfl
  · show execMxAccLoad g h c m s = _
    rw [execMxAccLoad, underLease_held held, shape, ok_bind, needTile_out out]
    rfl
  · show execMxAccGet g h c d s = _
    rw [execMxAccGet, vxAt_names hd]
    show underLease s (.ok ()) _ = _
    rw [underLease_held held, shape, ok_bind, needTile_out out]
    rfl

theorem execMxAccZero_issues (held : holdsLease (askLease s) = true) (shape : namedShape (askLease s) h = .ok y)
    (inside : c.toNat < acctOf (askLease s)) (room : (curCore (askLease s)).locks.length < 64) :
    ∃ u, exec (.mxAccZero g h c) s = .next u ∧
      issuesMatrix (askLease s) (.accZero c.toNat (activeMask (askLease s) g) y.am y.an) u := by
  obtain ⟨u, ok, issued⟩ := issueMatrix_issues (op := .accZero c.toNat (activeMask (askLease s) g) y.am y.an) room
    (locksClash_nil _) false [] [] .matrixOperationCompletion false
  refine ⟨u, ?_, issued⟩
  show execMxAccZero g h c s = _
  rw [execMxAccZero, underLease_held held, shape, ok_bind, needTile_in inside, ok_bind, ok]
  rfl

theorem execMxAccLoad_issues {x : OperandMap} (held : holdsLease (askLease s) = true)
    (shape : namedShape (askLease s) h = .ok y) (inside : c.toNat < acctOf (askLease s))
    (room : (curCore (askLease s)).locks.length < 64) (map : namedMap (askLease s) m.toNat = .ok x) (fmt : x.fmt = 1)
    (sound : checkMap (askLease s) x y.am y.an = .ok ()) :
    ∃ u, exec (.mxAccLoad g h c m) s = .next u ∧ issuesMatrix (askLease s)
      (.accLoad c.toNat x (spanAt (askLease s) (askLease s).focus.key x.elements) (activeMask (askLease s) g) y.am y.an) u := by
  obtain ⟨u, ok, issued⟩ := issueMatrix_issues
    (op := .accLoad c.toNat x (spanAt (askLease s) (askLease s).focus.key x.elements) (activeMask (askLease s) g) y.am y.an)
    room (locksClash_nil _) false [] [] .matrixOperationCompletion false
  have integers : (x.fmt == 1) = true := beq_iff_eq.mpr fmt
  refine ⟨u, ?_, issued⟩
  show execMxAccLoad g h c m s = _
  rw [execMxAccLoad, underLease_held held, shape, ok_bind, needTile_in inside, ok_bind, map, ok_bind, integers, need_true, ok_bind,
    sound, ok_bind, ok]
  rfl

/-- The state in which the lanes that mx.acc.get fills are pending. -/
def cellsPending (t : State) (cells : List (Nat × Nat)) : State :=
  setCur t (cells.foldl (fun t e => pendLanes t e.1 [e.2]) (cur t))

theorem execMxAccGet_issues (hd : namesV s d 0 rd) (held : holdsLease (askLease s) = true)
    (shape : namedShape (askLease s) h = .ok y) (inside : c.toNat < acctOf (askLease s))
    (room : (curCore (askLease s)).locks.length < 64) :
    let t := askLease s
    let rows := updatedRows (activeMask t g) (laneCount (cur t)) y.am
    rd + (y.gm + laneCount (cur t) - 1) / laneCount (cur t) * (y.gn / 2) ≤ (cur t).allot → tileQuiet t c.toNat = true →
      tilePoisoned t (cur t).wg c.toNat rows y.an = false →
        (∀ e ∈ resultCells rd (laneCount (cur t)) y.gn y.an rows,
          (getV (cur t) e.1 e.2).fill ≠ .pending ∧ heldRegister t t.focus.key e.1 = false) →
            ∃ u, exec (.mxAccGet g h c d) s = .next u ∧
              issuesMatrix t (.accGet c.toNat rd (activeMask t g) y.gn y.am y.an) u := by
  intro t rows fits quiet clean lanes
  let cells := resultCells rd (laneCount (cur t)) y.gn y.an rows
  have hd' : namesV t d 0 rd := by rw [namesV, (askLease_only s).engines.cur]; exact hd
  have free : (cells.all fun e => (getV (cur t) e.1 e.2).fill != .pending && !heldRegister t t.focus.key e.1) = true := by
    refine List.all_eq_true.mpr fun e he => ?_
    obtain ⟨full, unheld⟩ := lanes e he
    rw [unheld, bne_iff_ne.mpr full]
    rfl
  obtain ⟨u, ok, o, engine, kind, ctx, memory⟩ := issueMatrix_issues (t := cellsPending t cells)
    (op := .accGet c.toNat rd (activeMask t g) y.gn y.am y.an) room (locksClash_nil _) false [] [] .matrixOperationCompletion false
  refine ⟨u, ?_, o, engine, kind, ctx, memory⟩
  show execMxAccGet g h c d s = _
  rw [execMxAccGet, vxAt_names hd]
  show underLease s (.ok ()) _ = _
  rw [underLease_held held, shape, ok_bind, needTile_in inside, ok_bind, vxAt_names hd', ok_bind]
  dsimp only
  rw [decide_eq_true fits, need_true, ok_bind, quiet, await_true, ok_bind, clean, Bool.not_false, need_true, ok_bind, free,
    await_true, ok_bind]
  exact congrArg (run t) ok

end

/-! ## mx.mma (R380 to R386) -/

section
variable {s : State} {g h c f : BitVec 3} {m : BitVec 4} {ss : BitVec 2} {b : BitVec 6} {z : BitVec 1} {y : Shape}

/-- The codes of an mx.mma that are legal: a format, and a scale select that the format has (R382). -/
def legalCodes (f : BitVec 3) (ss : BitVec 2) : Prop :=
  f ≠ 7 ∧ if isSe (mmaFormat f) then mmaFormat f = 4 → ss ≠ 3 else ss = 0

/-- The checks of an mx.mma's codes, which come before the lease. -/
def codeChecks (f : BitVec 3) (ss : BitVec 2) : Res Unit := do
  need (f != 7) 0x01
  need (if isSe (mmaFormat f) then mmaFormat f != 4 || ss != 3 else ss == 0) 0x01

theorem legalCodes_iff (f : BitVec 3) (ss : BitVec 2) : legalCodes f ss ↔
    (f != 7) = true ∧ (if isSe (mmaFormat f) then mmaFormat f != 4 || ss != 3 else ss == 0) = true := by
  rw [legalCodes, bne_iff_ne]
  cases isSe (mmaFormat f)
  · simp
  · simp [imp_iff_not_or]

theorem codeChecks_legal (f : BitVec 3) (ss : BitVec 2) (legal : legalCodes f ss) : codeChecks f ss = .ok () := by
  obtain ⟨format, select⟩ := (legalCodes_iff f ss).mp legal
  rw [codeChecks, format, select]
  rfl

theorem codeChecks_illegal (f : BitVec 3) (ss : BitVec 2) (illegal : ¬ legalCodes f ss) :
    codeChecks f ss = .error (.trap 0x01 0 0) := by
  rw [legalCodes_iff] at illegal
  rw [codeChecks]
  cases format : f != 7
  · rfl
  · cases select : (if isSe (mmaFormat f) then mmaFormat f != 4 || ss != 3 else ss == 0 : Bool)
    · rfl
    · exact absurd ⟨format, select⟩ illegal

theorem execMxMma_illegal (illegal : ¬ legalCodes f ss) : exec (.mxMma g h c m f ss b z) s = traps s 0x01 0 0 := by
  show execMxMma g h c m f ss b z s = _
  rw [execMxMma]
  show underLease s (codeChecks f ss) _ = _
  rw [codeChecks_illegal f ss illegal]
  rfl

theorem execMxMma_waits (legal : legalCodes f ss) (other : holdsLease (askLease s) = false) :
    exec (.mxMma g h c m f ss b z) s = waits (askLease s) .lease := by
  show execMxMma g h c m f ss b z s = _
  rw [execMxMma]
  show underLease s (codeChecks f ss) _ = _
  rw [codeChecks_legal f ss legal]
  exact underLease_waits other

theorem execMxMma_noTile (legal : legalCodes f ss) (held : holdsLease (askLease s) = true)
    (shape : namedShape (askLease s) h = .ok y) (out : acctOf (askLease s) ≤ c.toNat) (step : (curStrand s).overD = 0)
    (fmt : y.fmt = mmaFormat f) : exec (.mxMma g h c m f ss b z) s = traps (askLease s) 0x04 0 0 := by
  have same : (y.fmt == mmaFormat f) = true := beq_iff_eq.mpr fmt
  show execMxMma g h c m f ss b z s = _
  rw [execMxMma]
  show underLease s (codeChecks f ss) _ = _
  rw [codeChecks_legal f ss legal, underLease_held held, shape, ok_bind, same, need_true, ok_bind, step, Nat.add_zero, needTile_out out]
  rfl

theorem execMxMma_issues {x : OperandMap} {qs : List (Nat × Nat × Nat)} (legal : legalCodes f ss)
    (held : holdsLease (askLease s) = true) (shape : namedShape (askLease s) h = .ok y)
    (inside : c.toNat < acctOf (askLease s)) (stepD : (curStrand s).overD = 0) (stepA : (curStrand s).overA = 0)
    (stepB : (curStrand s).overB = 0) (fmt : y.fmt = mmaFormat f) (map : namedMap (askLease s) m.toNat = .ok x)
    (agrees : x.fmt = y.fmt) (quarters : quartersOf (askLease s) = some qs)
    (partners : checkPartners (askLease s) y.fmt ss.toNat b.toNat y.gn y.gk qs = .ok ())
    (sound : checkMap (askLease s) x y.am y.ak = .ok ()) (room : (curCore (askLease s)).locks.length < 64)
    (clash : locksClash (curCore (askLease s)) (mapHulls (askLease s) x y.gm y.gk) = false) :
    ∃ u, exec (.mxMma g h c m f ss b z) s = .next u ∧ issuesMatrix (askLease s)
      (.mma c.toNat x y.fmt ss.toNat (z == 1) (activeMask (askLease s) g) y.gn y.gk y.am y.an y.ak
        (qs.map fun e => (e.1, e.2.1 + b.toNat, e.2.2))) u := by
  let t := askLease s
  let op : MatOp := .mma c.toNat x y.fmt ss.toNat (z == 1) (activeMask t g) y.gn y.gk y.am y.an y.ak
    (qs.map fun e => (e.1, e.2.1 + b.toNat, e.2.2))
  obtain ⟨u, ok, issued⟩ := issueMatrix_issues (op := op) room clash true
    ((mmaCells op).map fun e => e.1 * 256 + e.2.1).eraseDups [] .matrixOperationCompletion
    ((getWg t (cur t).wg).band.isOpen && mapGet 0 (getWg t (cur t).wg).band.counts cntNmma == 0)
  refine ⟨countBand u (cur u).wg cntNmma, ?_, issuesMatrix_of_cores issued (cores_countBand u _ _) (countBand_only u _ _)⟩
  have same : (y.fmt == mmaFormat f) = true := beq_iff_eq.mpr fmt
  have same' : (x.fmt == mmaFormat f) = true := beq_iff_eq.mpr (agrees.trans fmt)
  show execMxMma g h c m f ss b z s = _
  rw [execMxMma]
  show underLease s (codeChecks f ss) _ = _
  rw [codeChecks_legal f ss legal, underLease_held held, shape, ok_bind, same, need_true, ok_bind, stepD, stepA, stepB, Nat.add_zero,
    Nat.add_zero, Nat.add_zero, needTile_in inside, ok_bind, map, ok_bind, same', need_true, ok_bind, quarters, ← fmt]
  dsimp only
  rw [partners, ok_bind, sound, ok_bind, ok]
  rfl

end

/-! ## mx.mv (R387) -/

section
variable {s t : State} {n h c : BitVec 3} {m : BitVec 4} {r o : BitVec 6} {y : Shape} {rec off : Word} {x : Record}

/-- The record and the offset of an mx.mv that are legal for a shape. -/
def legalWeights (x : Record) (off : Word) (y : Shape) : Prop :=
  matrixRecord x = true ∧ isSe x.fmt = true ∧ x.fmt = y.fmt ∧ x.swz = 0 ∧ bf off 31 0 % 16 = 0

theorem legalWeights.rules {x : Record} {off : Word} (h : legalWeights x off y) :
    (matrixRecord x && isSe x.fmt && x.fmt == y.fmt && x.swz == 0) = true ∧ (bf off 31 0 % 16 == 0) = true := by
  obtain ⟨legal, se, fmt, swz, block⟩ := h
  simp [legal, fmt ▸ se, fmt, swz, block]

theorem execMxMv_waits (other : holdsLease (askLease s) = false) : exec (.mxMv n h c m r o) s = waits (askLease s) .lease := by
  show execMxMv n h c m r o s = _
  rw [execMxMv]
  exact underLease_waits other

theorem execMxMv_noTile (held : holdsLease (askLease s) = true) (shape : namedShape (askLease s) h = .ok y)
    (out : acctOf (askLease s) ≤ c.toNat) (hr : holdsS (askLease s) r rec) (ho : holdsS (askLease s) o off)
    (fetched : fetchRecord (askLease s) rec = .ok (x, t)) (legal : legalWeights x off y) :
    exec (.mxMv n h c m r o) s = traps (askLease s) 0x04 0 0 := by
  obtain ⟨rules, block⟩ := legal.rules
  show execMxMv n h c m r o s = _
  rw [execMxMv, underLease_held held, shape, ok_bind, rdS_holds hr, ok_bind, rdS_holds ho, ok_bind, fetched]
  dsimp only
  rw [rules, block]
  simp only [if_true, need_true, ok_bind, needTile_out out]
  rfl

theorem execMxMv_issues {map : OperandMap} (held : holdsLease (askLease s) = true) (shape : namedShape (askLease s) h = .ok y)
    (inside : c.toNat < acctOf (askLease s)) (hr : holdsS (askLease s) r rec) (ho : holdsS (askLease s) o off)
    (fetched : fetchRecord (askLease s) rec = .ok (x, t)) (legal : legalWeights x off y)
    (named : namedMap (askLease s) m.toNat = .ok map) (half : map.fmt = 2 ∨ map.fmt = 3) :
    let w0 := x.base + bf off 63 32 * x.spitch + bf off 31 0 * elementBits x.fmt / 8
    let g0 := x.scale + bf off 63 32 * x.dpitch + 2 * (bf off 31 0 / 16)
    let hs := (mapHulls t map (n.toNat + 1) y.gk).take 1 ++
      [hullOf (spanAt t t.focus.key w0) (cur t).asid (hullLength y.gn x.spitch (y.gk * elementBits x.fmt / 8)) false,
       hullOf (spanAt t t.focus.key g0) (cur t).asid (hullLength y.gn x.dpitch (2 * (y.gk / 16))) false]
    checkMap t map (n.toNat + 1) y.ak = .ok () →
      checkRange t false (rowPieces w0 x.spitch (elementBytes x.fmt y.ak) y.an) = .ok () →
        checkRange t false (rowPieces g0 x.dpitch (2 * kBlocks y.ak) y.an) = .ok () →
          (curCore t).locks.length < 64 → locksClash (curCore t) hs = false →
            ∃ u, exec (.mxMv n h c m r o) s = .next u ∧ issuesMatrix t
              (.mv c.toNat map (n.toNat + 1) x (spanAt t t.focus.key w0) (spanAt t t.focus.key g0) x.fmt y.an y.ak) u := by
  intro w0 g0 hs sound weights scales room clash
  obtain ⟨rules, block⟩ := legal.rules
  have halves : (map.fmt == 2 || map.fmt == 3) = true := by simpa using half
  obtain ⟨u, ok, issued⟩ := issueMatrix_issues
    (op := .mv c.toNat map (n.toNat + 1) x (spanAt t t.focus.key w0) (spanAt t t.focus.key g0) x.fmt y.an y.ak)
    room clash false [] [] .matrixOperationCompletion false
  refine ⟨u, ?_, issued⟩
  show execMxMv n h c m r o s = _
  rw [execMxMv, underLease_held held, shape, ok_bind, rdS_holds hr, ok_bind, rdS_holds ho, ok_bind, fetched]
  dsimp only
  rw [rules, block]
  simp only [if_true, need_true, ok_bind, needTile_in inside, named, halves, sound]
  rw [weights, ok_bind, scales, ok_bind]
  exact congrArg (run _) ok

end

/-! ## mx.drain (R389 to R391) -/

section
variable {s t : State} {h c : BitVec 3} {d r : BitVec 6} {a p : BitVec 1} {q : BitVec 3} {y : Shape} {rec dst : Word} {x : Record}

theorem execMxDrain_ring (quiet : p = 0) (ring : q ≠ 0) : exec (.mxDrain h c d r a p q) s = traps s 0x01 0 0 := by
  have first : (p == 1 || q == 0) = false := by
    rw [quiet]
    simpa using ring
  show execMxDrain h c d r a p q s = _
  rw [execMxDrain, first]
  rfl

theorem drain_named (named : p = 1 ∨ q = 0) : (p == 1 || q == 0) = true := by simpa using named

theorem execMxDrain_waits (named : p = 1 ∨ q = 0) (other : holdsLease (askLease s) = false) :
    exec (.mxDrain h c d r a p q) s = waits (askLease s) .lease := by
  show execMxDrain h c d r a p q s = _
  rw [execMxDrain, drain_named named]
  exact underLease_waits other

/-- The record of a drain that is legal for a shape, with its add flag. -/
def legalDrain (x : Record) (y : Shape) (a : BitVec 1) : Prop :=
  copyLegal x = true ∧ x.fmt ≤ 3 ∧ y.gm ≤ x.rows ∧ y.gn * drainWidth x.fmt ≤ x.rb ∧ (x.fmt = 0 → a = 0 ∨ y.fmt = 7 ∨ y.fmt = 8)

theorem legalDrain.rules (h : legalDrain x y a) :
    (copyLegal x && decide (x.fmt ≤ 3) && decide (y.gm ≤ x.rows) && decide (y.gn * drainWidth x.fmt ≤ x.rb)) = true ∧
      (x.fmt != 0 || a == 0 || (y.fmt == 7 || y.fmt == 8)) = true := by
  obtain ⟨legal, fmt, rows, columns, add⟩ := h
  refine ⟨by simp [legal, fmt, rows, columns], ?_⟩
  by_cases plain : x.fmt = 0
  · simpa [plain] using add plain
  · simp [plain]

theorem execMxDrain_noTile (named : p = 1 ∨ q = 0) (held : holdsLease (askLease s) = true)
    (shape : namedShape (askLease s) h = .ok y) (out : acctOf (askLease s) ≤ c.toNat) (hr : holdsS (askLease s) r rec)
    (hd : holdsS (askLease s) d dst) (fetched : fetchRecord (askLease s) rec = .ok (x, t)) (legal : legalDrain x y a) :
    exec (.mxDrain h c d r a p q) s = traps (askLease s) 0x04 0 0 := by
  obtain ⟨rules, add⟩ := legal.rules
  show execMxDrain h c d r a p q s = _
  rw [execMxDrain, drain_named named, need_true, underLease_held held, shape, ok_bind, rdS_holds hd, ok_bind, rdS_holds hr, ok_bind,
    fetched]
  dsimp only
  rw [rules, add]
  simp only [if_true, need_true, ok_bind, needTile_out out]
  rfl

/-- A drain counted and stamped in the open band (20 R404), and its completion if it reaches past the group store. -/
def drainCounted (u : State) (k n : Nat) (dst : Span) : State :=
  let w := stampBand (countBand u k cntNdr) k n stDrs true
  if inGroup dst then w else countBand w k cntNco

theorem drainCounted_only (u : State) (k n : Nat) (dst : Span) : enginesOnly u (drainCounted u k n dst) := by
  have stamped := (countBand_only u k cntNdr).trans (stampBand_only _ k n stDrs true)
  rw [drainCounted]
  split
  · exact stamped
  · exact stamped.trans (countBand_only _ k cntNco)

theorem cores_drainCounted (u : State) (k n : Nat) (dst : Span) : (drainCounted u k n dst).cores = u.cores := by
  rw [drainCounted]
  split
  · exact cores_stampBand _ _ _ _ _
  · exact (cores_countBand _ _ _).trans (cores_stampBand _ _ _ _ _)

theorem execMxDrain_issues (named : p = 1 ∨ q = 0) (held : holdsLease (askLease s) = true)
    (shape : namedShape (askLease s) h = .ok y) (inside : c.toNat < acctOf (askLease s)) (hr : holdsS (askLease s) r rec)
    (hd : holdsS (askLease s) d dst) (fetched : fetchRecord (askLease s) rec = .ok (x, t)) (legal : legalDrain x y a)
    (ring : p = 1 → (ringOf (askLease s) q.toNat).isSome = true) :
    let rows := (List.range y.am).flatMap fun i =>
      swizzledRow (dst.toNat + i * x.dpitch) (y.an * drainWidth x.fmt) (i % 2 ^ x.swz * 16)
    let span := spanAt t t.focus.key dst.toNat
    (a = 1 → checkRange t false rows = .ok ()) → checkRange t true rows = .ok () → tileQuiet t c.toNat = true →
      tilePoisoned t (cur t).wg c.toNat (List.range y.am) y.an = false → (curCore t).locks.length < 64 →
        locksClash (curCore t) [hullOf span (cur t).asid (hullLength x.rows x.dpitch x.rb) true] = false →
          ∃ u, exec (.mxDrain h c d r a p q) s = .next u ∧
            issuesMatrix t (.drain c.toNat x span (a == 1) (p == 1) q.toNat y.am y.an y.fmt) u := by
  intro rows span reads writes quiet clean room clash
  obtain ⟨rules, add⟩ := legal.rules
  have posts : (p == 0 || (ringOf (askLease s) q.toNat).isSome) = true := by
    obtain rfl | rfl := (by decide : ∀ b : BitVec 1, b = 0 ∨ b = 1) p
    · rfl
    · rw [ring rfl]; rfl
  have readable (body : Res State) : (if a = 1 then do checkRange t false rows; body else body) = body := by
    split
    next one => rw [reads one, ok_bind]
    next => rfl
  obtain ⟨u, ok, issued⟩ := issueMatrix_issues
    (op := .drain c.toNat x span (a == 1) (p == 1) q.toNat y.am y.an y.fmt) room clash true []
    (partStarts t (requester t t.focus.key) (rowPieces dst.toNat x.dpitch (y.an * drainWidth x.fmt) y.am)) .drainCompletion false
  let k := (cur t).wg
  refine ⟨drainCounted u k (openBand (getWg t k)) span, ?_, issuesMatrix_of_cores issued (cores_drainCounted u _ _ _)
    (drainCounted_only u _ _ _)⟩
  show execMxDrain h c d r a p q s = _
  rw [execMxDrain, drain_named named, need_true, underLease_held held, shape, ok_bind, rdS_holds hd, ok_bind, rdS_holds hr, ok_bind,
    fetched]
  dsimp only
  rw [rules, add]
  simp only [if_true, need_true, ok_bind, needTile_in inside, posts]
  refine (congrArg (run _) (readable _)).trans ?_
  rw [writes, ok_bind, quiet, await_true, ok_bind, clean, Bool.not_false, need_true, ok_bind, ok]
  rfl

end

/-- Settles O42: the six matrix forms issue, trap or wait for the lease. -/
theorem matrixFormsIssue : Obligations.MatrixFormsIssue := by
  refine ⟨?_, ?_⟩
  · intro s g h c m d rd hd t issued
    have only := (askLease_only s).engines
    refine ⟨exec_acc_waits hd, fun y shape held => ⟨exec_acc_noTile hd held shape, fun inside room => ⟨?_, ?_, ?_⟩⟩⟩
    · exact issued_from (execMxAccZero_issues held shape inside room) only
    · exact fun x map fmt sound => issued_from (execMxAccLoad_issues held shape inside room map fmt sound) only
    · exact fun fits quiet clean lanes =>
        issued_from (execMxAccGet_issues hd held shape inside room fits quiet clean lanes) only
  · intro s g n h c f m ss b d r o z a p q v issued free codes
    have only := (askLease_only s).engines
    have strand : curStrand v = curStrand s := only.curStrand
    refine ⟨execMxMma_illegal, execMxDrain_ring, fun other => ⟨fun legal => execMxMma_waits legal other,
      execMxMv_waits other,
      fun named => execMxDrain_waits named other⟩, ?_, ?_⟩
    · intro y shape held out
      rw [strand]
      refine ⟨fun step legal fmt => execMxMma_noTile legal held shape out step fmt, ?_, ?_⟩
      · exact fun rec x t dst named hr hd fetched legal fmt rows columns add =>
          execMxDrain_noTile named held shape out hr hd fetched ⟨legal, fmt, rows, columns, add⟩
      · exact fun rec off x t hr ho fetched legal se fmt swz block =>
          execMxMv_noTile held shape out hr ho fetched ⟨legal, se, fmt, swz, block⟩
    · intro y shape held inside
      rw [strand]
      refine ⟨?_, ?_, ?_⟩
      · intro x qs stepD stepA stepB legal fmt map agrees quarters partners sound ⟨room, clash⟩
        exact issued_from (execMxMma_issues legal held shape inside stepD stepA stepB fmt map agrees quarters partners sound room
          clash) only
      · intro rec x t dst named hr hd fetched legal fmt columns rows add ring pieces reads writes quiet clean ⟨room, clash⟩
        exact issued_from (execMxDrain_issues named held shape inside hr hd fetched ⟨legal, fmt, columns, rows, add⟩ ring reads
          writes quiet clean room clash) (only.trans (fetchRecord_only fetched))
      · intro rec off x t map hr ho fetched legal se fmt swz block named half w0 g0 sound weights scales ⟨room, clash⟩
        exact issued_from (execMxMv_issues held shape inside hr ho fetched ⟨legal, se, fmt, swz, block⟩ named half sound weights
          scales room clash) (only.trans (fetchRecord_only fetched))

end Sys2Proof.Proofs
end

section
/-! SUPPORT. What translation and a clause fetch read of a state (11 R235 to R240): not its contexts, cores, workgroups or pending
steps, but for the requester's own context. -/

namespace Sys2Proof.Proofs

open Sys2Proof Sys2Proof.Machine Sys2Proof.Laws

/-- Two states differ in cores, pending steps and the executing strand alone. -/
def coresOnly (s u : State) : Prop := u = { s with cores := u.cores, due := u.due, agenda := u.agenda, focus := u.focus }

theorem walkFrom_cores {s u : State} (h : coresOnly s u) (read : Nat → Except Bool (Word × Word)) (part va : Nat) (ls : List Level) :
    ∀ table, walkFrom u read part va table ls = walkFrom s read part va table ls := by
  have valid (l : Leaf) : leafValid u part l = leafValid s part l := by
    rw [h]
    rfl
  induction ls with
  | nil => exact fun _ => rfl
  | cons lv rest ih =>
    intro table
    simp only [walkFrom, valid, ih]

theorem walkRead_cores {s u : State} (h : coresOnly s u) : walkRead u = walkRead s := by
  rw [h]
  rfl

theorem walkPath_cores {s u : State} (h : coresOnly s u) (read : Nat → Except Bool (Word × Word)) (die : Nat) (asid : BitVec 16)
    (va : Nat) : walkPath u read die asid va = walkPath s read die asid va := by
  have base : getDie u die = getDie s die := by
    rw [h]
    rfl
  have part : partOf u die = partOf s die := by
    rw [h]
    rfl
  simp only [walkPath, walkFrom_cores h, base, part]

theorem translateFor_cores {s u : State} (h : coresOnly s u) (q : Requester) (va : Nat) :
    translateFor u q va = translateFor s q va := by
  have cached : cachedLeaf u = cachedLeaf s := by
    rw [h]
    rfl
  simp only [translateFor, Machine.translate, cached, walk, walkRead_cores h, walkPath_cores h]

theorem requester_cores {s u : State} (h : coresOnly s u) : requester u = requester s := by
  rw [h]
  rfl

theorem wgOf_cores {s u : State} (h : coresOnly s u) : wgOf u = wgOf s := by
  rw [h]
  rfl

theorem mainPlace_cores {s u : State} (h : coresOnly s u) : mainPlace u = mainPlace s := by
  rw [h]
  rfl

theorem targetOf_cores {s u : State} (h : coresOnly s u) (q : Requester) (va : Nat) : targetOf u q va = targetOf s q va := by
  have sibling : siblingEnabled u = siblingEnabled s := by
    rw [h]
    rfl
  simp only [targetOf, translateFor_cores h, wgOf_cores h, mainPlace_cores h, sibling]

theorem failsLock_fetch (s : State) (q : Requester) (va n : Nat) : failsLock s q .fetch va n = false :=
  if_pos (Bool.or_true _)

theorem checkSteps_cores {s u : State} (h : coresOnly s u) (q : Requester) (space : Region) (n : Nat) :
    checkSteps u q .fetch space n = checkSteps s q .fetch space n := by
  have missing : pageMissing u q = pageMissing s q := by
    have reached : ioReached u = ioReached s := by
      rw [h]
      rfl
    have part : partOf u = partOf s := by
      rw [h]
      rfl
    funext va
    simp only [pageMissing, pageInvalid, translateFor_cores h, mainPlace_cores h, reached, part]
  have copies : failsCopyOnly u q .fetch = failsCopyOnly s q .fetch := by
    funext va n
    simp only [failsCopyOnly, translateFor_cores h]
  have denies : leafDenies u q .fetch n = leafDenies s q .fetch n := by
    have loaded : keyLoaded u = keyLoaded s := by
      rw [h]
      rfl
    funext va
    simp only [leafDenies, translateFor_cores h, loaded]
  simp only [checkSteps, failsPage, missing, copies, failsRights, denies, wgOf_cores h, failsLock_fetch]

theorem checkAccess_fetch_cores {s u : State} (h : coresOnly s u) (q : Requester) (n : Nat) (addrs : List Nat) :
    checkAccess u q .fetch n addrs = checkAccess s q .fetch n addrs := by
  have bad (va n : Nat) : walkWasBad u q va n = walkWasBad s q va n := by
    simp only [walkWasBad, translateFor_cores h]
  have fetches : (Acc.fetch == Acc.fetch) = true := rfl
  cases addrs with
  | nil => rfl
  | cons first rest => simp only [checkAccess, checkSteps_cores h, bad, fetches, Bool.or_true, if_true]

theorem fetchCode_cores {s u : State} (h : coresOnly s u) (key : Nat) (va : Word) : fetchCode u key va = fetchCode s key va := by
  have poisoned : poisonedRun u = poisonedRun s := by
    rw [h]
    rfl
  have bytes : readNat u = readNat s := by
    rw [h]
    rfl
  have main : mainRead u = mainRead s := by
    rw [h]
    rfl
  simp only [fetchCode, requester_cores h, checkAccess_fetch_cores h, targetOf_cores h, poisoned, bytes, main]

end Sys2Proof.Proofs
end

section
/-! PROOFS. Clauses begin, repeats issue, windows load and quads choose (04 R84 to R100, 09 R195 to R207). -/

namespace Sys2Proof.Proofs

open Sys2Proof Sys2Proof.Machine Sys2Proof.Laws

/-! ## Strands that have come to no clause (09 R197) -/

theorem hasCome_same (x : Strand) : hasCome x x = false := by
  cases valid : x.valid <;> simp [hasCome, valid]

theorem hasCome_pinned {x y : Strand} (begun : y.begun = true) (pinned : y.pinned = true) : hasCome x y = false := by
  simp [hasCome, begun, pinned]

theorem hasCome_stays {x y : Strand} (valid : x.valid = true) (ca : y.ca = x.ca) (begun : y.begun = x.begun)
    (pinned : y.pinned = x.pinned) : hasCome x y = false := by
  simp [hasCome, valid, ca, begun, pinned]

/-- Two states whose executing contexts differ in the executing strand alone. -/
def onlyStrand (t u : State) : Prop :=
  u.focus = t.focus ∧ ∀ i, i ≠ t.focus.slot → getStrand (cur u) i = getStrand (cur t) i

theorem onlyStrand.trans {t u v : State} (h : onlyStrand t u) (k : onlyStrand u v) : onlyStrand t v :=
  ⟨k.1.trans h.1, fun i hi => (k.2 i (h.1 ▸ hi)).trans (h.2 i hi)⟩

theorem onlyStrand_setStrand (t : State) (x : Strand) : onlyStrand t (setStrand t x) :=
  ⟨rfl, fun i hi => by rw [cur_setStrand, getStrand_putStrand_ne _ _ hi]⟩

theorem onlyStrand_engines {t u : State} (h : enginesOnly t u) : onlyStrand t u := ⟨h.focus, fun i _ => by rw [h.cur]⟩

theorem arrived_stays {t u : State} (only : onlyStrand t u) (own : hasCome (curStrand t) (curStrand u) = false) :
    arrived t u = u := by
  obtain ⟨focus, others⟩ := only
  have none_ : arrivals t u t.focus.key = [] := by
    rw [arrivals, List.map_eq_nil_iff, List.filter_eq_nil_iff]
    intro i _
    rw [Bool.not_eq_true]
    have here : getCtx u t.focus.key = cur u := by rw [cur, focus]
    rw [here]
    by_cases slot : i = t.focus.slot
    · rw [slot]
      have mine : curStrand u = getStrand (cur u) t.focus.slot := by rw [curStrand, focus]
      rw [← mine]
      exact own
    · rw [others i slot]
      exact hasCome_same _
  rw [arrived, arrivedOf, none_, startLoads]

/-! ## CLAUSE_BEGIN (04 R84 to R90) -/

section
variable {s t : State}

/-- The state in which the executing strand stands at its header. -/
def headed (t : State) (h : ClauseHeader) : State := setStrand t { curStrand t with hdr := h }

/-- The executing strand inside its clause, at word 1, with its window pinned. -/
def begunAt (v : State) : State := pinWindow (setStrand v { curStrand v with begun := true, wi := 1, wait := .ready })

theorem onlyStrand_begunAt (v : State) : onlyStrand v (begunAt v) :=
  (onlyStrand_setStrand v _).trans (onlyStrand_setStrand _ _)

theorem arrived_begunAt {v : State} (only : onlyStrand t v) : arrived t (begunAt v) = begunAt v := by
  refine arrived_stays (only.trans (onlyStrand_begunAt v)) (hasCome_pinned ?_ ?_) <;>
    rw [begunAt, pinWindow, curStrand_setStrand, curStrand_setStrand]

theorem arrived_hold {v : State} (only : onlyStrand t v) (valid : (curStrand t).valid = true) (ca : (curStrand v).ca = (curStrand t).ca)
    (begun : (curStrand v).begun = (curStrand t).begun) (pinned : (curStrand v).pinned = (curStrand t).pinned) (why : Why) :
    arrived t (hold v why) = hold v why := by
  have strand : (curStrand (hold v why)).ca = (curStrand v).ca ∧ (curStrand (hold v why)).begun = (curStrand v).begun ∧
      (curStrand (hold v why)).pinned = (curStrand v).pinned := by
    rw [hold, curStrand_setStrand]
    exact ⟨rfl, rfl, rfl⟩
  obtain ⟨ca', begun', pinned'⟩ := strand
  exact arrived_stays (only.trans (onlyStrand_setStrand v _))
    (hasCome_stays valid (ca'.trans ca) (begun'.trans begun) (pinned'.trans pinned))

variable {w : Code}

/-- What a strand that stands at a sound header comes to. -/
theorem beginClause_headed (free : codeHeld t t.focus.key (curStrand t).ca = false)
    (fetched : fetchCode t t.focus.key (curStrand t).ca = .ok w) (header : isHeader w = true)
    (legal : headerChecks (cur t) (isSystem t.focus.key) (decodeHeader w) = .ok ()) :
    let h := decodeHeader w
    let v := headed t h
    beginClause t =
      if isSystem t.focus.key then .next (begunAt v)
      else if !windowResident v then .next (awaitWindow v)
      else if (h.full && !windowFull (cur v) (curStrand v) h) || (h.quiet && !warpQuiet v) then .next (hold v .clause)
      else if h.lease then if holdsLease (askLease v) then .next (begunAt (askLease v)) else .next (hold (askLease v) .lease)
      else .next (begunAt v) := by
  intro h v
  rw [beginClause]
  dsimp only
  rw [free, fetched]
  dsimp only
  rw [header]
  simp only [legal, Bool.not_true, Bool.false_eq_true, if_false]
  rfl

theorem execClauseBegin_begins (ok : issuable s s.input.who = true)
    (new : (curStrand { s with focus := s.input.who }).begun = false) {u : State}
    (begins : beginClause { s with focus := s.input.who } = .next u) (stays : arrived { s with focus := s.input.who } u = u) :
    exec .clauseBegin s = .next u := by
  have new' : (getStrand (getCtx s s.input.who.key) s.input.who.slot).begun = false := new
  show execClauseBegin s = _
  rw [execClauseBegin, ok, new', begins]
  show Host.Outcome.next (arrived _ u) = _
  rw [stays]

end

/-! ## WINDOW_LOAD (09 R197 to R200) -/

theorem mem_of_mapGet_ne {α : Type} (d : α) {m : List (Nat × α)} {k : Nat} (h : mapGet d m k ≠ d) : (k, mapGet d m k) ∈ m := by
  induction m with
  | nil => exact absurd rfl h
  | cons e rest ih =>
    obtain ⟨j, v⟩ := e
    rw [mapGet] at h ⊢
    split_ifs with here
    · rw [here]
      exact List.mem_cons_self
    · exact List.mem_cons_of_mem _ (ih (by rwa [if_neg here] at h))

section
variable {s : State} {key : Nat} {h : ClauseHeader} {pass : Bool}

/-- The fast file of a warp's quad. -/
def fastOf (s : State) (key : Nat) : List (Nat × FastSlot) := (getQuad (getCore s (keyCore key)) (keyQuad key)).fast

/-- A slot that a load has filled. -/
def loadedSlot (s : State) (key : Nat) (h : ClauseHeader) (pass : Bool) : FastSlot :=
  { valid := true, warp := BitVec.ofNat 4 key, pass := pass, base := h.wbase, len := h.wlen,
    lastUse := (getQuad (getCore s (keyCore key)) (keyQuad key)).issues }

theorem loadedSlot_holds {r : Nat} (hr : r ∈ windowRegs h) : slotHolds (loadedSlot s key h pass) key pass r = true := by
  obtain ⟨i, hi, rfl⟩ := List.mem_map.mp hr
  have low := List.mem_range.mp hi
  have warp : (BitVec.ofNat 4 key).toNat = key % 16 := BitVec.toNat_ofNat ..
  simp [slotHolds, loadedSlot, warp]
  omega

theorem passResident_of_slot {f : FastSlot} {i : Nat} (at_ : mapGet {} (fastOf s key) i = f)
    (holds : ∀ r ∈ windowRegs h, slotHolds f key pass r = true) (filled : f ≠ {}) : passResident s key h pass = true := by
  have here : (i, f) ∈ fastOf s key := at_ ▸ mem_of_mapGet_ne ({} : FastSlot) (at_.symm ▸ filled)
  exact List.all_eq_true.mpr fun r hr => List.any_eq_true.mpr ⟨(i, f), here, holds r hr⟩

theorem loadedSlot_ne : loadedSlot s key h pass ≠ {} := fun e => absurd (congrArg FastSlot.valid e) (by decide : ¬ true = false)

/-- The state in which a slot has been filled. -/
def slotLoaded (s : State) (key : Nat) (h : ClauseHeader) (pass : Bool) (i : Nat) : State :=
  let k := getCore s (keyCore key)
  let q := getQuad k (keyQuad key)
  putCore s (keyCore key) (putQuad k (keyQuad key) { q with fast := mapPut {} q.fast i (loadedSlot s key h pass) })

theorem fastOf_slotLoaded (i : Nat) :
    fastOf (slotLoaded s key h pass i) key = mapPut {} (fastOf s key) i (loadedSlot s key h pass) := by
  rw [fastOf, slotLoaded, getCore_putCore]
  exact congrArg Quad.fast (mapGet_put_same ..)

theorem loadPass_fresh {taken : List Nat} {i : Nat} (gone : passResident s key h pass = false)
    (slot : slotForLoad s key taken = some i) : loadPass key h (s, taken) pass = (slotLoaded s key h pass i, i :: taken) := by
  rw [loadPass]
  dsimp only
  rw [gone, slot]
  rfl

theorem loadPass_resident {taken : List Nat} (there : passResident s key h pass = true) :
    loadPass key h (s, taken) pass = (s, taken) := if_pos there

theorem passResident_slotLoaded (i : Nat) : passResident (slotLoaded s key h pass i) key h pass = true := by
  refine passResident_of_slot (i := i) ?_ (fun r hr => loadedSlot_holds (s := s) hr) loadedSlot_ne
  rw [fastOf_slotLoaded]
  exact mapGet_put_same ..

theorem foldl_min_mem (f : Nat → Nat) (is : List Nat) : ∀ best : Option Nat, ∀ j,
    is.foldl (fun best i => match best with
      | none => some i
      | some j => if f i < f j then some i else some j) best = some j → best = some j ∨ j ∈ is := by
  induction is with
  | nil => exact fun _ _ e => .inl e
  | cons i rest ih =>
    intro best j e
    obtain first | later := ih _ _ e
    · cases best with
      | none => exact .inr (List.mem_cons.mpr (.inl (Option.some.inj first).symm))
      | some k =>
        dsimp only at first
        split at first
        · exact .inr (List.mem_cons.mpr (.inl (Option.some.inj first).symm))
        · exact .inl first
    · exact .inr (List.mem_cons_of_mem _ later)

/-- A load does not take a slot that it has just filled. -/
theorem slotForLoad_other {taken : List Nat} {i j : Nat} (filled : (mapGet ({} : FastSlot) (fastOf s key) i).valid = true)
    (mine : i ∈ taken) (slot : slotForLoad s key taken = some j) : j ≠ i := by
  rintro rfl
  rw [slotForLoad] at slot
  dsimp only at slot
  split at slot
  next k free =>
    cases slot
    have open_ := (List.find?_eq_some_iff_append.mp ((listFind_eq_find? ..).symm.trans free)).1
    simp only [Bool.not_eq_true'] at open_
    exact absurd filled (by rw [fastOf, open_]; decide)
  next =>
    obtain none_ | free := foldl_min_mem _ _ none j slot
    · cases none_
    · have apart := (List.mem_filter.mp free).2
      simp [mine] at apart

/-- Two states differ in due steps alone. -/
def dueOnly (s u : State) : Prop := u = { s with due := u.due }

theorem dueOnly.trans {s t u : State} (h : dueOnly s t) (k : dueOnly t u) : dueOnly s u :=
  Eq.trans k (congrArg (fun x : State => { x with due := u.due }) h)

theorem startLoad_only (s : State) (a : Agent) : dueOnly s (startLoad s a) := by
  rw [startLoad]
  split
  · split
    · rfl
    · rw [loadDue]
      split <;> rfl
  · rfl

theorem startLoads_only (as : List Agent) : ∀ s, dueOnly s (startLoads s as) := by
  induction as with
  | nil => exact fun _ => rfl
  | cons a rest ih => exact fun s => (startLoad_only s a).trans (ih _)

theorem loadPass_fits {taken : List Nat} (slot : (slotForLoad s key taken).isSome = true) :
    passResident (loadPass key h (s, taken) pass).1 key h pass = true ∧ coresOnly s (loadPass key h (s, taken) pass).1 := by
  obtain ⟨i, hi⟩ := Option.isSome_iff_exists.mp slot
  cases there : passResident s key h pass
  · rw [loadPass_fresh there hi]
    exact ⟨passResident_slotLoaded i, rfl⟩
  · rw [loadPass_resident there]
    exact ⟨there, rfl⟩

/-- The load of a second pass keeps the window of the first, which it has just loaded. -/
theorem loadPass_keeps {u : State} {i : Nat} {other : Bool} (filled : mapGet {} (fastOf s key) i = loadedSlot u key h other)
    (resident : passResident s key h other = true) (slot : (slotForLoad s key [i]).isSome = true) :
    passResident (loadPass key h (s, [i]) pass).1 key h other = true := by
  obtain ⟨j, hj⟩ := Option.isSome_iff_exists.mp slot
  cases there : passResident s key h pass
  · have apart : j ≠ i := slotForLoad_other (by rw [filled]; rfl) (List.mem_singleton.mpr rfl) hj
    rw [loadPass_fresh there hj]
    refine passResident_of_slot (i := i) (f := loadedSlot u key h other) ?_ (fun r hr => loadedSlot_holds hr) loadedSlot_ne
    rw [fastOf_slotLoaded, mapGet_put_ne _ _ _ (Ne.symm apart), filled]
  · rw [loadPass_resident there]
    exact resident

theorem passesOf_narrow {c : Ctx} (narrow : isWide c = false) : passesOf c = [false] := by
  rw [passesOf, narrow]
  rfl

theorem passesOf_wide {c : Ctx} (wide : isWide c = true) : passesOf c = [false, true] := by
  rw [passesOf, wide]
  rfl

theorem coresOnly.trans {s t u : State} (h : coresOnly s t) (k : coresOnly t u) : coresOnly s u :=
  Eq.trans k (congrArg (fun x : State => { x with cores := u.cores, due := u.due, agenda := u.agenda, focus := u.focus }) h)

theorem coresOnly.ctxs {s u : State} (h : coresOnly s u) : u.ctxs = s.ctxs := Eq.trans (congrArg State.ctxs h) rfl

theorem coresOnly.mem {s u : State} (h : coresOnly s u) : u.mem = s.mem := Eq.trans (congrArg State.mem h) rfl

theorem coresOnly.getCtx {s u : State} (h : coresOnly s u) (k : Nat) : getCtx u k = getCtx s k := by
  rw [Machine.getCtx, Machine.getCtx, h.ctxs]

/-- The windows of a warp's passes are resident once they have been loaded, where slots can be taken. -/
theorem residentWindow_loaded (slot : (slotForLoad s key []).isSome = true)
    (second : isWide (getCtx s key) = true → passResident s key h false = false ∧
      let r := loadPass key h (s, []) false
      (slotForLoad r.1 key r.2).isSome = true) :
    let r := (passesOf (getCtx s key)).foldl (loadPass key h) (s, [])
    residentWindow r.1 key h = true ∧ coresOnly s r.1 := by
  obtain ⟨first, only⟩ := loadPass_fits (h := h) (pass := false) slot
  cases wide : isWide (getCtx s key)
  · rw [passesOf_narrow wide]
    refine ⟨?_, only⟩
    show residentWindow (loadPass key h (s, []) false).1 key h = true
    rw [residentWindow, only.getCtx, passesOf_narrow wide]
    simp [first]
  · obtain ⟨gone, next⟩ := second wide
    obtain ⟨i, hi⟩ := Option.isSome_iff_exists.mp slot
    rw [loadPass_fresh gone hi] at next first only
    have filled : mapGet {} (fastOf (slotLoaded s key h false i) key) i = loadedSlot s key h false := by
      rw [fastOf_slotLoaded]
      exact mapGet_put_same ..
    have kept := loadPass_keeps (pass := true) filled first next
    obtain ⟨both, only'⟩ := loadPass_fits (h := h) (pass := true) next
    rw [passesOf_wide wide, List.foldl_cons, List.foldl_cons, List.foldl_nil, loadPass_fresh gone hi]
    refine ⟨?_, only.trans only'⟩
    rw [residentWindow, (only.trans only').getCtx, passesOf_wide wide]
    simp [kept, both]

theorem execWindowLoad_loads (warp : isSystem s.input.who.key = false)
    (valid : (getStrand (getCtx s s.input.who.key) s.input.who.slot).valid = true)
    (standing : standingHeader s s.input.who = some h) (slot : (slotForLoad s s.input.who.key []).isSome = true)
    (second : isWide (getCtx s s.input.who.key) = true → passResident s s.input.who.key h false = false ∧
      let r := loadPass s.input.who.key h (s, []) false
      (slotForLoad r.1 s.input.who.key r.2).isSome = true) :
    ∃ u, exec .windowLoad s = .next u ∧ residentWindow u s.input.who.key h = true ∧ sameMemory s u := by
  obtain ⟨resident, only⟩ := residentWindow_loaded slot second
  have loads (as : List Agent) (u : State) := startLoads_only as u
  have stays (as : List Agent) (u : State) : residentWindow (startLoads u as) s.input.who.key h = residentWindow u s.input.who.key h := by
    rw [loads as u]
    rfl
  let r := (passesOf (getCtx s s.input.who.key)).foldl (loadPass s.input.who.key h) (s, [])
  refine ⟨startLoads r.1 (evicted r.1 (keyCore s.input.who.key) (keyQuad s.input.who.key)), ?_,
    (stays _ _).trans resident, sameMemory_of_mem (Eq.trans ?_ only.mem)⟩
  · show execWindowLoad s = _
    rw [execWindowLoad, windowLoad, warp, valid, standing]
    exact congrArg Host.Outcome.next (if_pos ((stays _ _).trans resident))
  · exact Eq.trans (congrArg State.mem (loads _ _)) rfl

end

/-! ## PIN_GIVEBACK and AGE_ROTATION (09 R200, R205) -/

section
variable {s : State}

theorem execPinGiveback_gives {x : Strand} (here : getStrand (getCtx s s.input.who.key) s.input.who.slot = x)
    (valid : x.valid = true) (begun : x.begun = true) (pinned : x.pinned = true) (waited : 64 ≤ x.waitCount)
    (wait : ∃ n, x.wait = .held .fullEmpty n ∨ x.wait = .held .join n ∨ x.wait = .held .armwait n ∨ x.wait = .held .ring n) :
    ∃ u, exec .pinGiveback s = .next u ∧
      getStrand (getCtx u s.input.who.key) s.input.who.slot = { x with pinned := false, pinBack := true } := by
  have gives : mayGivePin s s.input.who = true := by
    rw [mayGivePin, here]
    rw [valid, begun, pinned, decide_eq_true waited]
    obtain ⟨n, w | w | w | w⟩ := wait <;> rw [w] <;> rfl
  refine ⟨givePin s s.input.who, ?_, ?_⟩
  · show execPinGiveback s = _
    rw [execPinGiveback, if_pos gives]
  · rw [givePin]
    rw [startLoad_only]
    show getStrand (getCtx (putCtx s _ _) _) _ = _
    rw [getCtx_putCtx, getStrand_putStrand, here]

theorem execPinGiveback_keeps (waited : (getStrand (getCtx s s.input.who.key) s.input.who.slot).waitCount < 64) :
    exec .pinGiveback s = .next s := by
  have keeps : mayGivePin s s.input.who = false := by
    rw [mayGivePin]
    rw [decide_eq_false (by omega), Bool.and_false, Bool.false_and]
  show execPinGiveback s = _
  rw [execPinGiveback, keeps]
  rfl

theorem execAgeRotation_rotates {k : Nat} {rest : List Nat} :
    let q := getQuad (getCore s s.input.place) (s.input.sub % 4)
    q.ages = k :: rest → q.rotatedAt + 256 ≤ q.cycles →
      ∃ u, exec .ageRotation s = .next u ∧ (getQuad (getCore u s.input.place) (s.input.sub % 4)).ages = rest ++ [k] := by
  intro q ages due
  refine ⟨putCore s s.input.place (putQuad (getCore s s.input.place) (s.input.sub % 4)
    { q with ages := q.ages.tail ++ q.ages.take 1, rotatedAt := q.rotatedAt + 256 }), ?_, ?_⟩
  · show execAgeRotation s = _
    rw [execAgeRotation]
    exact congrArg Host.Outcome.next (if_pos due)
  · rw [getCore_putCore]
    refine (congrArg Quad.ages (mapGet_put_same ..)).trans ?_
    rw [ages]
    rfl

end

/-! ## QUAD_ISSUE_CYCLE (09 R205 to R207) -/

section
variable {s : State} {core quad : Nat} {b : Agent}

theorem roundRobin_ready {ready : List Agent} {key : Nat} (h : b ∈ roundRobin s ready key) : b ∈ ready := by
  rw [roundRobin, List.mem_append] at h
  exact h.elim (fun h => List.mem_of_mem_filter (List.mem_of_mem_filter h))
    fun h => List.mem_of_mem_filter (List.mem_of_mem_filter h)

theorem warpChoice_ready {ready : List Agent} {key : Nat} (h : b ∈ (warpChoice s ready key).toList) : b ∈ ready :=
  roundRobin_ready (List.mem_of_mem_head? (Option.mem_toList.mp h))

theorem issueOrder_ready (h : b ∈ issueOrder s core quad) : b ∈ readyStrands s core quad := by
  rw [issueOrder, List.mem_append, List.mem_append] at h
  obtain (h | h) | h := h
  · rw [starving, List.mem_mergeSort] at h
    obtain ⟨k, -, h⟩ := List.mem_flatMap.mp h
    exact List.mem_of_mem_filter (roundRobin_ready h)
  · rw [leaseWarps] at h
    split at h
    · cases h
    · obtain ⟨k, -, h⟩ := List.mem_flatMap.mp h
      split at h
      · exact warpChoice_ready h
      · cases h
  · obtain ⟨k, -, h⟩ := List.mem_flatMap.mp h
    exact warpChoice_ready h

theorem issueOrder_quad (h : b ∈ issueOrder s core quad) : b.key / 16 = core * 4 + quad :=
  beq_iff_eq.mp (List.mem_filter.mp (issueOrder_ready h)).2

/-- A map whose values are changed one by one reads as the change of what it held, where it listed anything. -/
theorem mapGet_map_listed {α : Type} (d : α) (f : Nat → α → α) (m : List (Nat × α)) (k : Nat) :
    mapGet d (m.map fun e => (e.1, f e.1 e.2)) k = if k ∈ m.map Prod.fst then f k (mapGet d m k) else d := by
  induction m with
  | nil => rfl
  | cons e rest ih =>
    obtain ⟨j, v⟩ := e
    by_cases here : k = j
    · subst here
      simp [mapGet]
    · have later : k ∈ ((j, v) :: rest).map Prod.fst ↔ k ∈ rest.map Prod.fst := by simp [here]
      simp only [List.map_cons, mapGet, here, if_false, ih]
      exact (if_congr later rfl rfl).symm

theorem mapGet_unlisted {α : Type} (d : α) {m : List (Nat × α)} {k : Nat} (h : k ∉ m.map Prod.fst) : mapGet d m k = d := by
  by_contra listed
  exact h (List.mem_map.mpr ⟨_, mem_of_mapGet_ne d listed, rfl⟩)

/-- A strand without lanes has no second pass to come. -/
theorem secondOf_empty (h : (getStrand (getCtx s b.key) b.slot).mask = 0) : secondOf s b = none := by
  rw [secondOf]
  dsimp only
  rw [h]
  split
  · rfl
  · have none_ : passMeets (0#64) false = false := rfl
    exact if_neg (by simp [none_])

theorem secondOf_cores {u : State} (h : coresOnly s u) : secondOf u b = secondOf s b := by
  have offered : offeredWord u b = offeredWord s b := by
    simp only [offeredWord, fetchCode_cores h, h.getCtx]
  simp only [secondOf, offerOf, offered, h.getCtx]

/-- The context of a warp after a cycle of its quad. -/
def cycledCtx (s : State) (ready issue : List Agent) (key : Nat) (c : Ctx) : Ctx :=
  { c with strands := c.strands.map fun x => (x.1, cycleStrand (ready.contains ⟨key, x.1⟩) (issue.contains ⟨key, x.1⟩)
      (if issue.contains ⟨key, x.1⟩ then secondOf s ⟨key, x.1⟩ else none) x.2) }

theorem secondPass_cycled {c : Ctx} {ready issue : List Agent} (chosen : b ∈ issue)
    (free : passDue (getStrand c b.slot) = none) (mask : (getStrand c b.slot).mask = 0 → secondOf s b = none) :
    (getStrand (cycledCtx s ready issue b.key c) b.slot).secondPass = secondOf s b := by
  have picked : issue.contains b = true := List.contains_iff_mem.mpr chosen
  refine (congrArg Strand.secondPass (mapGet_map_listed {} (fun i x => cycleStrand (ready.contains ⟨b.key, i⟩)
    (issue.contains ⟨b.key, i⟩) (if issue.contains ⟨b.key, i⟩ then secondOf s ⟨b.key, i⟩ else none) x) c.strands b.slot)).trans ?_
  by_cases listed : b.slot ∈ c.strands.map Prod.fst
  · rw [if_pos listed]
    show (if (passDue (getStrand c b.slot)).isSome then _ else if issue.contains b then secondOf s b else none) = _
    rw [free, picked]
    rfl
  · rw [if_neg listed]
    have none_ : getStrand c b.slot = {} := mapGet_unlisted ({} : Strand) listed
    exact (mask (by rw [none_])).symm

/-- The strands that a quad chooses, in its order. -/
def chosenOf (s : State) (core quad : Nat) : List Agent :=
  match issueOrder s core quad with
  | [] => []
  | a :: rest => a :: (secondIssue s a rest).toList

/-- The state in which a quad has counted its cycle. -/
def quadCounted (s : State) (core quad : Nat) : State :=
  let q := getQuad (getCore s core) quad
  let lease := match issueOrder s core quad with
    | [] => false
    | a :: _ => (leaseWarps s core q (readyStrands s core quad)).contains a && !(starving s q (readyStrands s core quad)).contains a
  putCore s core (putQuad (getCore s core) quad { q with cycles := q.cycles + 1, lastLease := lease })

theorem execQuadIssueCycle_eq :
    exec .quadIssueCycle s = .next
      { countCycle (quadCounted s s.input.place (s.input.sub % 4)) s.input.place (s.input.sub % 4)
          (readyStrands s s.input.place (s.input.sub % 4)) (chosenOf s s.input.place (s.input.sub % 4)) with
        agenda := (chosenOf s s.input.place (s.input.sub % 4)).flatMap (issueActs s) ++
          cycleActs (countCycle (quadCounted s s.input.place (s.input.sub % 4)) s.input.place (s.input.sub % 4)
            (readyStrands s s.input.place (s.input.sub % 4)) (chosenOf s s.input.place (s.input.sub % 4))) s.input.place
            (s.input.sub % 4) ++ s.agenda } := rfl

theorem getCtx_countCycle (u : State) (ready issue : List Agent) (key : Nat) (warp : isSystem key = false)
    (mine : key / 16 = core * 4 + quad) :
    getCtx (countCycle u core quad ready issue) key = cycledCtx u ready issue key (getCtx u key) := by
  let f := fun (k : Nat) (c : Ctx) => if isSystem k || k / 16 != core * 4 + quad then c else cycledCtx u ready issue k c
  have maps : (countCycle u core quad ready issue).ctxs = u.ctxs.map fun e => (e.1, f e.1 e.2) := by
    refine List.map_congr_left fun e _ => ?_
    simp only [f]
    split <;> rfl
  have picked : (isSystem key || key / 16 != core * 4 + quad) = false := by simp [warp, mine]
  rw [getCtx, maps, mapGet_map ({} : Ctx) f (fun k => by simp only [f]; split <;> rfl)]
  exact if_neg (by rw [picked]; decide)

theorem getQuad_quadCounted : (getQuad (getCore (quadCounted s core quad) core) quad).cycles = (getQuad (getCore s core) quad).cycles + 1 := by
  rw [quadCounted, getCore_putCore]
  exact congrArg Quad.cycles (mapGet_put_same ..)

end

theorem agenda_first (f : Agent → List Act) {as : List Agent} {b : Agent} {more : List Agent} (h : as = b :: more) (x y : List Act) :
    ∃ l, as.flatMap f ++ x ++ y = f b ++ l :=
  ⟨more.flatMap f ++ x ++ y, by simp [h]⟩

theorem agenda_two (f : Agent → List Act) {as : List Agent} {b e : Agent} (h : as = b :: (some e).toList) (x y : List Act) :
    ∃ l, as.flatMap f ++ x ++ y = f b ++ f e ++ l :=
  ⟨x ++ y, by simp [h]⟩

theorem not_not_true {b : Bool} (h : b = true) : ¬ (!b) = true := by rw [h]; decide

theorem conditions_fail : ∀ full quiet wf wq : Bool,
    ((full && !wf) || (quiet && !wq)) = true ↔ ¬ ((full = true → wf = true) ∧ (quiet = true → wq = true)) := by decide

theorem issuable_valid {s : State} {a : Agent} (ok : issuable s a = true) : (getStrand (getCtx s a.key) a.slot).valid = true := by
  by_contra invalid
  rw [Bool.not_eq_true] at invalid
  rw [issuable, invalid] at ok
  exact absurd ok Bool.false_ne_true

/-- The context after the second pass of the executing strand's last instruction. -/
def secondCtx (t : State) : Ctx :=
  { putStrand (cur t) t.focus.slot { curStrand t with secondPass := none, readyCount := 0 } with lastSlot := t.focus.slot }

theorem cur_issueSecond (t : State) (p : SecondPass) : cur (issueSecond t p) = secondCtx t := cur_setCur t _

theorem curStrand_issueSecond (t : State) (p : SecondPass) :
    curStrand (issueSecond t p) = { curStrand t with secondPass := none, readyCount := 0 } := by
  rw [curStrand, cur_issueSecond]
  exact getStrand_putStrand ..

/-- Settles O43: clauses begin, repeats and second passes issue, windows load, pins are given back, and quads choose. -/
theorem clausesBeginAndQuadsIssue : Obligations.ClausesBeginAndQuadsIssue := by
  intro s a t
  refine ⟨fun ok => ⟨fun rep => ?_, fun p due => ⟨?_, ?_, curStrand_issueSecond t p, fun _ => rfl⟩, ?_⟩, ?_, ?_, ⟨?_, fun k rest => execAgeRotation_rotates⟩⟩
  · show execRepRepeat s = _
    rw [execRepRepeat, ok, show (getStrand (getCtx s s.input.who.key) s.input.who.slot).inRep = true from rep]
    rfl
  · show issueWith false t = _
    rw [issueWith, show issuable t t.focus = true from ok, show ((curStrand t).secondPass.filter fun p => p.due) = some p from due]
    rfl
  · rw [cur_issueSecond]
    rfl
  · intro w new free fetched header legal h v begun open_
    have headed := beginClause_headed (t := t) free fetched header legal
    have at_ : onlyStrand t v := onlyStrand_setStrand t _
    have stays : arrived t (begun v) = begun v := arrived_begunAt at_
    have strand : curStrand v = { curStrand t with hdr := h } := curStrand_setStrand ..
    refine ⟨fun system => ?_, fun warp resident => ?_⟩
    · exact execClauseBegin_begins ok new (headed.trans (if_pos system)) stays
    · have here : beginClause t = _ := headed.trans ((if_neg (by rw [warp]; decide)).trans (if_neg (not_not_true resident)))
      have conditions := conditions_fail h.full h.quiet (windowFull (cur v) (curStrand v) h) (warpQuiet v)
      refine ⟨fun shut => ?_, fun op free => ?_, fun op lease held => ?_⟩
      · refine execClauseBegin_begins ok new (here.trans (if_pos (conditions.mpr shut)))
          (arrived_hold at_ (issuable_valid ok) ?_ ?_ ?_ .clause) <;> rw [strand]
      · have met := mt conditions.mp (not_not_intro op)
        exact execClauseBegin_begins ok new (here.trans ((if_neg met).trans (if_neg (by rw [free]; decide)))) stays
      · have met := mt conditions.mp (not_not_intro op)
        exact execClauseBegin_begins ok new (here.trans ((if_neg met).trans ((if_pos lease).trans (if_pos held))))
          (arrived_begunAt (at_.trans (onlyStrand_engines (askLease_only v).engines)))
  · exact fun h warp valid standing slot second => execWindowLoad_loads warp valid standing slot second
  · intro x valid begun pinned wait
    exact ⟨fun waited => execPinGiveback_gives rfl valid begun pinned waited wait, fun waited => execPinGiveback_keeps waited⟩
  · refine ⟨_, execQuadIssueCycle_eq, getQuad_quadCounted, fun b rest order => ?_⟩
    let core := s.input.place
    let quad := s.input.sub % 4
    have chosen : chosenOf s core quad = b :: (secondIssue s b rest).toList := by rw [chosenOf, order]
    refine ⟨?_, fun low free => ?_, fun e second => ?_⟩
    · exact agenda_first (issueActs s) chosen _ _
    · have mine := issueOrder_quad (s := s) (order ▸ List.mem_cons_self : b ∈ issueOrder s core quad)
      have warp : isSystem b.key = false := decide_eq_false (by
        have : systemBase = 49152 := rfl
        omega)
      have only : coresOnly s (quadCounted s core quad) := rfl
      show (getStrand (getCtx (countCycle (quadCounted s core quad) core quad _ _) b.key) b.slot).secondPass = _
      rw [getCtx_countCycle _ _ _ _ warp mine, only.getCtx, ← secondOf_cores only]
      refine secondPass_cycled (by rw [chosen]; exact List.mem_cons_self) free fun empty => ?_
      rw [secondOf_cores only]
      exact secondOf_empty empty
    · rw [second] at chosen
      exact agenda_two (issueActs s) chosen _ _

end Sys2Proof.Proofs
end

section
/-! PROOFS. Waits end (08 R182 to R184, 13 R268, R269, 17 R340, 20 R401, 23 R461, 05 R129, 07 R173). -/

namespace Sys2Proof.Proofs

open Sys2Proof Sys2Proof.Machine Sys2Proof.Laws

/-! ## What an issue notes (08 R188, 09 R197 to R205) -/

section
variable {r t : State}

theorem raceSettle_leaves (focus : t.focus = r.focus) :
    (raceSettle r t).focus = t.focus ∧ (cur (raceSettle r t)).strands = (cur t).strands ∧
      (cur (raceSettle r t)).sregs = (cur t).sregs ∧
      (racingLanes (cur r) r.focus.slot = [] → (cur (raceSettle r t)).vregs = (cur t).vregs) := by
  have here : getCtx t r.focus.key = cur t := by rw [cur, focus]
  rw [raceSettle]
  split
  · exact ⟨rfl, rfl, rfl, fun _ => rfl⟩
  next =>
    rw [here, ← focus]
    have settled (c : Ctx) : cur { putCtx t t.focus.key c with drawn := t.drawn + 1 } = c := getCtx_putCtx t _ c
    refine ⟨rfl, ?_, ?_, fun none_ => ?_⟩
    · rw [settled]
    · rw [settled]
    · rw [settled, none_]
      rfl

theorem getStrand_pruneWriting (c : Ctx) (i : Nat) : (getStrand (pruneWriting c) i).wait = (getStrand c i).wait := by
  have reads := mapGet_map ({} : Strand)
    (fun _ x => { x with writing := x.writing.filter fun w => (mapGet ({} : Reg) c.vregs w.1).fill == .full }) (fun _ => rfl)
    c.strands i
  exact (congrArg Strand.wait reads).trans rfl

/-- A context as the note of a strand's issue leaves it. -/
def notedCtx (c : Ctx) (slot : Nat) (x : Strand) : Ctx := pruneWriting { putStrand c slot x with lastSlot := slot }

theorem notedCtx_reads (c : Ctx) (slot : Nat) (x : Strand) :
    (notedCtx c slot x).sregs = c.sregs ∧ (notedCtx c slot x).vregs = c.vregs ∧
      (getStrand (notedCtx c slot x) slot).wait = x.wait := by
  refine ⟨rfl, rfl, ?_⟩
  rw [notedCtx, getStrand_pruneWriting]
  exact congrArg Strand.wait (getStrand_putStrand c slot x)

theorem arrived_dueOnly (r u : State) : dueOnly u (arrived r u) := startLoads_only _ u

theorem dueOnly.focus {s u : State} (h : dueOnly s u) : u.focus = s.focus := Eq.trans (congrArg State.focus h) rfl

theorem dueOnly.cur {s u : State} (h : dueOnly s u) : cur u = cur s := by
  rw [h]
  rfl

/-- A strand as the note of its issue leaves it. -/
def notedStrand (r t : State) : Strand :=
  let x := getStrand (cur t) r.focus.slot
  { x with
    pinBack := x.pinBack && parkWaits x.wait
    secondPass := x.secondPass.map fun p => { p with due := true }
    writing := lanesWritten (cur r) (cur t)
    cursorsWere := cursorsWritten (cur r) (cur t) }

/-- What is noted when a completed instruction has issued leaves the strand ready, and its registers. -/
theorem noteIssue_leaves {i : Instr} {pinned : Bool} (focus : t.focus = r.focus) (ready : (curStrand t).wait = .ready)
    (takes : takesIssue i = true) :
    let u := noteIssue i pinned r t
    (curStrand u).wait = .ready ∧ (cur u).sregs = (cur t).sregs ∧
      (racingLanes (cur r) r.focus.slot = [] → (cur u).vregs = (cur t).vregs) := by
  intro u
  obtain ⟨focus', strands, sregs, vregs⟩ := raceSettle_leaves (r := r) focus
  have own (v : State) (hf : v.focus = r.focus) : getCtx v r.focus.key = cur v := by rw [cur, hf]
  have same : getStrand (cur (raceSettle r t)) r.focus.slot = curStrand t := by
    rw [curStrand, ← focus]
    exact congrArg (fun m => mapGet ({} : Strand) m t.focus.slot) strands
  have ready' : (getStrand (getCtx (raceSettle r t) r.focus.key) r.focus.slot).wait = .ready := by
    rw [own _ (focus'.trans focus), same, ready]
  have issues : onlyWaits (raceSettle r t) r.focus = false := by
    rw [onlyWaits, isHeld, ready']
    rfl
  by_cases system : isSystem r.focus.key = true
  · have here : u = raceSettle r t := by
      simp only [u, noteIssue, system, if_true]
    rw [here]
    refine ⟨?_, sregs, vregs⟩
    rw [curStrand, focus', focus, same, ready]
  · rw [Bool.not_eq_true] at system
    let x := notedStrand r (raceSettle r t)
    let c := notedCtx (cur (raceSettle r t)) r.focus.slot x
    have here : u = arrived r (stampSlots (putCtx (raceSettle r t) r.focus.key c) r.focus.key (curStrand r).hdr
        (issuedPasses (curStrand r))) := by
      simp only [u, noteIssue, system, issues, takes, own _ (focus'.trans focus)]
      rfl
    have focus'' : (raceSettle r t).focus = r.focus := focus'.trans focus
    have ctx : cur u = c := by
      rw [here, (arrived_dueOnly ..).cur]
      show getCtx (putCtx (raceSettle r t) r.focus.key c) (raceSettle r t).focus.key = c
      rw [focus'', getCtx_putCtx]
    have at_ : u.focus = r.focus := by
      rw [here, (arrived_dueOnly ..).focus]
      exact focus''
    obtain ⟨sregs', vregs', wait⟩ := notedCtx_reads (cur (raceSettle r t)) r.focus.slot x
    refine ⟨?_, ?_, fun none_ => ?_⟩
    · rw [curStrand, ctx, at_, wait]
      exact (congrArg (fun c => (getStrand c r.focus.slot).wait) (own _ focus'').symm).trans ready'
    · rw [ctx]
      exact sregs'.trans sregs
    · rw [ctx]
      exact vregs'.trans (vregs none_)

end

/-! ## Issuing again (08 R182, 09 R200) -/

section
variable {s r : State} {why : Why} {i : Instr}

theorem windowResident_readyToIssue (t : State) (w : Code) :
    windowResident (readyToIssue t w) = residentWindow t t.focus.key (decodeHeader w) := by
  have strand : curStrand (readyToIssue t w) = { curStrand t with hdr := decodeHeader w } := curStrand_setStrand ..
  have wide : isWide (getCtx (readyToIssue t w) t.focus.key) = isWide (getCtx t t.focus.key) := by
    show isWide (getCtx (setCur t _) t.focus.key) = _
    rw [getCtx_setCur]
    rfl
  have passes : passesOf (getCtx (readyToIssue t w) t.focus.key) = passesOf (getCtx t t.focus.key) := by
    rw [passesOf, passesOf, wide]
  show residentWindow (readyToIssue t w) t.focus.key (curStrand (readyToIssue t w)).hdr = _
  rw [strand, residentWindow, residentWindow, passes]
  rfl

theorem windowGone {a : Agent} {w : Code} (only : coresOnly s { s with focus := a })
    (fetched : fetchCode { s with focus := a } a.key (curStrand { s with focus := a }).ca = .ok w)
    (gone : ((standingHeader s a).any fun h => !residentWindow s a.key h) = true) :
    isSystem a.key = false ∧ residentWindow { s with focus := a } a.key (decodeHeader w) = false := by
  have fetched' : fetchCode s a.key (getStrand (getCtx s a.key) a.slot).ca = .ok w := (fetchCode_cores only _ _).symm.trans fetched
  rw [standingHeader, fetched'] at gone
  dsimp only at gone
  split at gone
  · have out : residentWindow s a.key (decodeHeader w) = false := by simpa using gone
    refine ⟨?_, out⟩
    cases system : isSystem a.key
    · rfl
    · rw [residentWindow, system] at out
      cases out
  · cases gone

theorem unpinned_readyToIssue {a : Agent} {w : Code} (pinned : (!(getStrand (getCtx s a.key) a.slot).pinned) = true) :
    (curStrand (readyToIssue { s with focus := a } w)).pinned = false := by
  rw [readyToIssue, curStrand_setStrand]
  exact (Bool.not_eq_true' _).mp pinned

/-- A strand that waits without its pin, its window gone, issues nothing but an interrupt or a clause's beginning. -/
theorem issueNext_unpinned {a : Agent} (unpinned : waitsUnpinned s a = true)
    (next : issueNext { s with focus := a } = .exec i r) : i = .interrupt ∨ i = .clauseBegin := by
  have only : coresOnly s { s with focus := a } := rfl
  rw [waitsUnpinned] at unpinned
  simp only [Bool.and_eq_true] at unpinned
  obtain ⟨⟨⟨begun, pinned⟩, gone⟩, -⟩ := unpinned
  rw [issueNext, issueWith] at next
  dsimp only at next
  split at next
  · cases next
  · split at next
    · cases next
    · split at next
      · cases next
      · split at next
        · cases next
          exact .inl rfl
        · split at next
          · cases next
            exact .inr rfl
          · split at next
            · cases next
            · split at next
              · cases next
              next w fetched =>
                obtain ⟨warp, out⟩ := windowGone only fetched gone
                split at next
                · cases next
                · rw [warp, unpinned_readyToIssue pinned, windowResident_readyToIssue, out] at next
                  cases next

/-- A strand that waits, and whose word or condition has come, issues its instruction again. -/
theorem reissue_issues (f : Instr → State → Host.Outcome State Fault Refusal) (h : reissues s why i r) (word : i ≠ .interrupt)
    (clause : i ≠ .clauseBegin) :
    reissue s s.input.who why f =
      issued i (getStrand (getCtx s s.input.who.key) s.input.who.slot).pinned r (f i (raceView r)) := by
  obtain ⟨ok, ⟨n, wait⟩, next⟩ := h
  have ends : waitGoesOn s s.input.who f = false := by
    rw [waitGoesOn]
    cases unpinned : waitsUnpinned s s.input.who
    · rfl
    · exact absurd (issueNext_unpinned unpinned next) (not_or.mpr ⟨word, clause⟩)
  rw [reissue, ok, wait, ends, next]
  simp

theorem raceView_focus (r : State) : (raceView r).focus = r.focus := by
  rw [raceView]
  split <;> rfl

/-- A completed instruction leaves its strand ready, with its registers, once its issue is noted. -/
theorem issued_ready {pinned : Bool} {v : State} (focus : v.focus = (raceView r).focus) (takes : takesIssue i = true) :
    ∃ u, issued i pinned r (done v) = .next u ∧ (curStrand u).wait = .ready ∧ (∀ n, getS (cur u) n = getS (cur v) n) ∧
      (racingLanes (cur r) r.focus.slot = [] → ∀ q l, getV (cur u) q l = getV (cur v) q l) := by
  obtain ⟨-, -, here⟩ := retire_frames v 1
  obtain ⟨ready, sregs, vregs⟩ := noteIssue_leaves (r := r) (i := i) (pinned := pinned)
    ((focus_retire v 1).trans (focus.trans (raceView_focus r))) (retire_ready v 1).1 takes
  refine ⟨noteIssue i pinned r (retire v 1), rfl, ready, fun n => ?_, fun none_ q l => ?_⟩
  · rw [getS, sregs, here]
    rfl
  · rw [getV, vregs none_, here]
    rfl

end

/-! ## The park table (13 R268, R269) -/

section
variable {s : State} {key place i : Nat}

/-- The state in which a strand of a warp has completed its m.wait. -/
def wokenState (s : State) (key i : Nat) : State :=
  { retire (releasePark { s with focus := ⟨key, i⟩ } key (2 ^ i)) 1 with focus := s.focus }

theorem completeWait_plain (plain : replays s key = false) (unlogged : (launchOf s key).recording = false) :
    { completeWait { s with focus := ⟨key, i⟩ } place with focus := s.focus } = wokenState s key i := by
  have quiet : unrecorded { s with focus := ⟨key, i⟩ } := ⟨plain, unlogged⟩
  rw [completeWait, wokenState]
  exact congrArg (fun u : State => { u with focus := s.focus })
    (completeRecorded_plain 1 5 _ 0 (unrecorded_releasePark key (2 ^ i) quiet))

theorem getCtx_wokenState : getCtx (wokenState s key i) key =
    { getCtx s key with strands := (getCtx (wokenState s key i) key).strands } := by
  obtain ⟨-, -, here⟩ := retire_frames (releasePark { s with focus := ⟨key, i⟩ } key (2 ^ i)) 1
  have at_ : getCtx (wokenState s key i) key = cur (retire (releasePark { s with focus := ⟨key, i⟩ } key (2 ^ i)) 1) := by
    rw [cur, focus_retire, releasePark_focus]
    rfl
  rw [at_, here, cur_releasePark]
  rfl

theorem wokenState_only : wokenState s key i = { s with ctxs := (wokenState s key i).ctxs, cores := (wokenState s key i).cores } := by
  obtain ⟨cs, park⟩ := releasePark_cores { s with focus := ⟨key, i⟩ } key (2 ^ i)
  rw [wokenState, retire_only, park]

theorem wokenState_leaves : (wokenState s key i).mem = s.mem ∧ launchOf (wokenState s key i) key = launchOf s key := by
  have id : (getCtx (wokenState s key i) key).launchid = (getCtx s key).launchid :=
    Eq.trans (congrArg Ctx.launchid getCtx_wokenState) rfl
  refine ⟨Eq.trans (congrArg State.mem wokenState_only) rfl, ?_⟩
  rw [launchOf, launchOf, id, wokenState_only]
  rfl

theorem getStrand_wokenState : (getStrand (getCtx (wokenState s key i) key) i).wait = .ready ∧
    ∀ j, j ≠ i → getStrand (getCtx (wokenState s key i) key) j = getStrand (getCtx s key) j := by
  let x := releasePark { s with focus := ⟨key, i⟩ } key (2 ^ i)
  obtain ⟨-, ⟨others, -⟩, -⟩ := retire_frames x 1
  have focus : x.focus = ⟨key, i⟩ := releasePark_focus _ _ _
  have ctx : cur x = getCtx s key := cur_releasePark _ _ _
  have at_ : getCtx (wokenState s key i) key = cur (retire x 1) := by
    rw [cur, focus_retire, focus]
    rfl
  have ready := (retire_ready x 1).1
  rw [curStrand, focus_retire, focus] at ready
  rw [at_]
  exact ⟨ready, fun j hj => (others j (by rw [focus]; exact hj)).trans (congrArg (getStrand · j) ctx)⟩

/-- A strand is parked in an m.wait. -/
def parkedIn (x : Strand) : Bool := x.valid && (x.wait matches .held .barrier _)

theorem wakeSlots_cons (s : State) (key place i : Nat) (rest : List Nat) : wakeSlots s key place (i :: rest) =
    wakeSlots (if parkedIn (getStrand (getCtx s key) i) then { completeWait { s with focus := ⟨key, i⟩ } place with focus := s.focus }
      else s) key place rest := rfl

theorem wakeSlots_wakes {slots : List Nat} (once : slots.Nodup) :
    ∀ s, replays s key = false → (launchOf s key).recording = false →
      (wakeSlots s key place slots).mem = s.mem ∧
        (∀ j, j ∉ slots → getStrand (getCtx (wakeSlots s key place slots) key) j = getStrand (getCtx s key) j) ∧
          ∀ j ∈ slots, (getStrand (getCtx s key) j).valid = true → (∃ n, (getStrand (getCtx s key) j).wait = .held .barrier n) →
            (getStrand (getCtx (wakeSlots s key place slots) key) j).wait = .ready := by
  induction slots with
  | nil => exact fun s _ _ => ⟨rfl, fun _ _ => rfl, fun _ hj => absurd hj List.not_mem_nil⟩
  | cons i rest ih =>
    intro s plain unlogged
    obtain ⟨new, once⟩ := List.nodup_cons.mp once
    rw [wakeSlots_cons]
    by_cases waits : parkedIn (getStrand (getCtx s key) i) = true
    · rw [if_pos waits, completeWait_plain plain unlogged]
      obtain ⟨mem, launch⟩ := wokenState_leaves (s := s) (key := key) (i := i)
      obtain ⟨ready, others⟩ := getStrand_wokenState (s := s) (key := key) (i := i)
      obtain ⟨mem', keeps, wakes⟩ := ih once (wokenState s key i) (by rw [replays, launch]; exact plain) (by rw [launch]; exact unlogged)
      refine ⟨mem'.trans mem, fun j hj => ?_, fun j hj valid wait => ?_⟩
      · obtain ⟨other, later⟩ := not_or.mp (mt List.mem_cons.mpr hj)
        exact (keeps j later).trans (others j other)
      · by_cases here : j = i
        · rw [here, keeps i new]
          exact ready
        · have later := (List.mem_cons.mp hj).resolve_left here
          rw [← others j here] at valid wait
          exact wakes j later valid wait
    · rw [if_neg waits]
      obtain ⟨mem', keeps, wakes⟩ := ih once s plain unlogged
      refine ⟨mem', fun j hj => keeps j (not_or.mp (mt List.mem_cons.mpr hj)).2, fun j hj valid wait => ?_⟩
      obtain rfl | later := List.mem_cons.mp hj
      · obtain ⟨n, wait⟩ := wait
        rw [parkedIn, valid, wait] at waits
        exact absurd rfl waits
      · exact wakes j later valid wait

/-- Starting loads changes no memory and no strand. -/
theorem arrivedOf_leaves (s u : State) (key : Nat) : (arrivedOf s u key).mem = u.mem ∧ (arrivedOf s u key).cores = u.cores ∧
    getCtx (arrivedOf s u key) = getCtx u := by
  have only : dueOnly u (arrivedOf s u key) := startLoads_only _ u
  rw [only]
  exact ⟨rfl, rfl, rfl⟩

/-- 13 R268: a strand refused 32 cycles ago is ready again, and is the next that moves. -/
theorem parkRetry_ready {a : Agent} {n : BitVec 48} (valid : (getStrand (getCtx s a.key) a.slot).valid = true)
    (refused : (getStrand (getCtx s a.key) a.slot).wait = .held .refused n) (late : 32 ≤ (getStrand (getCtx s a.key) a.slot).waitCount) :
    parkRetry s a = { putCtx s a.key (putStrand (getCtx s a.key) a.slot
      { getStrand (getCtx s a.key) a.slot with wait := .ready }) with focus := a } := by
  rw [parkRetry]
  refine (if_pos ?_).trans (if_neg (not_lt.mpr late))
  rw [valid, refused]
  rfl

/-- 05 R129: the idle of a warp ends after 4,096 ticks. -/
theorem idle_ends {a : Agent} {n : BitVec 48} (valid : (getStrand (getCtx s a.key) a.slot).valid = true)
    (idle : (getStrand (getCtx s a.key) a.slot).wait = .held .idle n) (warp : isSystem a.key = false)
    (late : 4096 ≤ (s.time - n).toNat) :
    (if !isSystem a.key && (getStrand (getCtx s a.key) a.slot).valid && ((getWg s (getCtx s a.key).wg).saving ||
        (match waited s (getStrand (getCtx s a.key) a.slot) .idle with | some t => decide (4096 ≤ t) | none => false))
      then endIdle s a else s) = { retire { s with focus := a } 1 with focus := s.focus } := by
  have ticks : waited s (getStrand (getCtx s a.key) a.slot) .idle = some (s.time - n).toNat := by
    rw [Machine.waited, idle]
    rfl
  refine (if_pos ?_).trans ?_
  · rw [valid, warp, ticks]
    dsimp only
    rw [decide_eq_true late, Bool.or_true]
    rfl
  · rw [endIdle, idle]

theorem getCore_of_cores {s u : State} {i : Nat} (cores : u.cores = s.cores) : getCore u i = getCore s i := by
  rw [getCore, getCore, cores]

/-- 07 R173: a flip exchanges the banks, and is then no longer pending. -/
theorem getCore_completeFlip {core : Nat} {a : Agent} (flip : (getCore s core).actFlip = some a) :
    (getCore (completeFlip s core) core).actBank = !(getCore s core).actBank ∧
      (getCore (completeFlip s core) core).actFlip = none := by
  have cores : (completeFlip s core).cores =
      (putCore s core { getCore s core with actBank := !(getCore s core).actBank, actFlip := none }).cores := by
    rw [completeFlip, flip]
    exact (retire_leaves _ _).1
  rw [getCore_of_cores cores, getCore_putCore]
  exact ⟨rfl, rfl⟩

end

/-- Settles O44: what a strand waits for comes, and it goes on. -/
theorem waitsEnd : Obligations.WaitsEnd := by
  intro s r t ends
  have focus : t.focus = r.focus := raceView_focus r
  refine ⟨?_, ?_, ?_, ?_, ?_, ?_, ?_, ?_⟩
  · intro k d a b e rd ra rb again names lanes pick
    have issues : exec .joinIssue s = ends (.join k d a b e) (exec (.join k d a b e) t) :=
      reissue_issues _ again nofun nofun
    refine ⟨issues, fun full free => ?_⟩
    have completes := execJoin_completes (k := k) (e := e) names full free
    obtain ⟨u, next, ready, -, vregs⟩ := issued_ready (r := r) (i := .join k d a b e)
      (pinned := (getStrand (getCtx s s.input.who.key) s.input.who.slot).pinned) (v := setCur t (joinedCtx t k rd ra rb)) rfl rfl
    refine ⟨u, issues.trans ((congrArg (ends _) completes).trans next), ready, fun none_ l hl => ?_⟩
    rw [vregs none_, cur_setCur, getV_joinedCtx]
    exact getV_dstLanes_mem _ (lanesOf_nodup _) (fun m hm => lanesOf_lt hm) hl _
  · intro again none_
    obtain ⟨u, next, ready, -⟩ := issued_ready (r := r) (i := .armwait)
      (pinned := (getStrand (getCtx s s.input.who.key) s.input.who.slot).pinned)
      (v := setCur t (takeOrder (cur t) t.focus.slot [])) rfl rfl
    exact ⟨u, (reissue_issues _ again nofun nofun).trans ((congrArg (issued _ _ r) (execArmwait_completes none_)).trans next), ready⟩
  · intro g q a n c token again owned plain token_ gap low high
    refine (reissue_issues _ again nofun nofun).trans (congrArg (ends _) ?_)
    obtain kept | ⟨new, on, x, hx, rfl⟩ := token_
    · exact (execRWait_kept owned kept).trans ((ringWait_ends plain).1 low high)
    · exact (execRWait_token on owned hx new).trans ((ringWait_ends plain).1 low high)
  · intro g d a x bs again on hd hx plain quiet some_ complete
    have reads : exec (.cWait g d a) t =
        done (wrS (setCur t (reportedCtx (cur t) bs.length)) d (batchStatus bs)) := by
      rw [execCWait_reads on hx hd plain, some_]
      dsimp only
      rw [show (bs.all fun b => b.complete) = true from List.all_eq_true.mpr complete, await_true, ok_bind,
        completeCWait_plain plain quiet]
      rfl
    obtain ⟨u, next, ready, sregs, -⟩ := issued_ready (r := r) (i := .cWait g d a)
      (pinned := (getStrand (getCtx s s.input.who.key) s.input.who.slot).pinned)
      (v := wrS (setCur t (reportedCtx (cur t) bs.length)) d (batchStatus bs)) rfl rfl
    refine ⟨u, (reissue_issues _ again nofun nofun).trans ((congrArg (issued _ _ r) reads).trans next), ready, fun nonzero => ?_⟩
    have nonzero' : d.toNat ≠ 0 := fun e => nonzero (BitVec.eq_of_toNat_eq e)
    rw [sregs, wrS, cur_setCur, getS_putS _ _ nonzero']
  · intro again root performed there
    exact (reissue_issues _ again nofun nofun).trans (congrArg (ends _) (execLgBar_completes root performed there))
  · intro e key place word valid
    refine ⟨fun sound phase live unlogged => ?_, fun poisoned k rest slots => ?_⟩
    · have once : ((List.range 8).filter fun k => e.strands.getLsbD k).Nodup := List.nodup_range.filter _
      obtain ⟨mem, -, wakes⟩ := wakeSlots_wakes (place := place) once s live unlogged
      obtain ⟨mem', -, ctxs⟩ := arrivedOf_leaves s (wakeSlots s key place ((List.range 8).filter fun k => e.strands.getLsbD k)) key
      refine ⟨arrivedOf s (wakeSlots s key place ((List.range 8).filter fun k => e.strands.getLsbD k)) key, ?_,
        sameMemory_of_mem (mem'.trans mem), fun i hi strands there waits => ?_⟩
      · have phase' : (phaseOf word.1 != e.token.toNat) = true := bne_iff_ne.mpr phase
        have wakes : parkWake s s.input.place s.input.id = wakeSlots s key place ((List.range 8).filter fun k => e.strands.getLsbD k) := by
          rw [parkWake]
          exact (if_neg (not_not_true valid)).trans ((if_neg (by rw [sound]; decide)).trans (if_pos phase'))
        show execParkWake s = _
        rw [execParkWake, wakes]
      · rw [ctxs]
        exact wakes i (List.mem_filter.mpr ⟨List.mem_range.mpr hi, strands⟩) there waits
    · have trapped : parkWake s s.input.place s.input.id = { trapHere { s with focus := ⟨key, k⟩ } 0x14
          (BitVec.ofNat 64 (groupBase + windowOffset s key place)) 0x400000 with focus := s.focus } := by
        rw [parkWake]
        refine (if_neg (not_not_true valid)).trans ((if_pos poisoned).trans ?_)
        dsimp only
        rw [slots]
        rfl
      show execParkWake s = _
      rw [execParkWake, trapped]
  · intro a x valid
    refine ⟨fun n wait late => ?_, fun n wait warp late => ?_⟩
    · refine ⟨_, congrArg Host.Outcome.next (parkRetry_ready valid wait late), rfl, ?_⟩
      show getStrand (getCtx (putCtx s a.key _) a.key) a.slot = _
      rw [getCtx_putCtx, getStrand_putStrand]
    · exact congrArg Host.Outcome.next (idle_ends valid wait warp late)
  · intro k none_ pending
    obtain ⟨a, flip⟩ := Option.isSome_iff_exists.mp pending
    refine ⟨arrivedOf s (completeFlip s s.input.place) a.key, ?_, ?_⟩
    · have empty : (getCore s s.input.place).actWrites.isEmpty = true := by
        rw [show (getCore s s.input.place).actWrites = [] from none_]
        rfl
      refine congrArg Host.Outcome.next ((if_pos empty).trans ?_)
      rw [show (getCore s s.input.place).actFlip = some a from flip]
    · obtain ⟨bank, done⟩ := getCore_completeFlip flip
      obtain ⟨-, cores, -⟩ := arrivedOf_leaves s (completeFlip s s.input.place) a.key
      rw [getCore_of_cores cores]
      exact ⟨bank, done⟩

end Sys2Proof.Proofs
end

section
/-! PROOFS. Issued operations are performed (02 R36, 07 R148, R172, 12 R250 to R259, 16 R314 to R320). -/

namespace Sys2Proof.Proofs

open Sys2Proof Sys2Proof.Machine Sys2Proof.Laws

/-! ## What a load reads with nothing before it -/

theorem poisonedRun_any (s : State) (p n : Nat) :
    (List.range n).any (fun k => poisonedRun s (p + k) 1) = poisonedRun s p n := by
  rw [Bool.eq_iff_iff]
  simp only [poisonedRun, List.any_eq_true, List.mem_range, Bool.and_eq_true, decide_eq_true_eq]
  constructor
  · rintro ⟨k, below, e, he, low, high⟩
    exact ⟨e, he, by omega, by omega⟩
  · rintro ⟨e, he, low, high⟩
    exact ⟨e.1 - p, by omega, e, he, by omega, by omega⟩

theorem loadBytes_alone (s : State) {p : Nat} (n pa slot : Nat) (outside : mainTop ≤ p) :
    loadBytes s [] p n pa slot = (readNat s p n, poisonedRun s p n) := by
  have none_ : (List.range n).map (fun k => forwarded [] (p + k)) = List.replicate n none := by
    simp [forwarded_nil, List.map_const']
  have indices : (List.replicate n (none : Option Byte)).zipIdx = (List.range n).map fun k => (none, k) := by
    apply List.ext_getElem <;> simp
  unfold loadBytes
  simp only [none_, indices, List.map_map, List.any_filter, List.any_map, Nat.not_lt.mpr outside, decide_false,
    Bool.false_and, Bool.or_false, Prod.mk.injEq]
  exact ⟨rfl, (poisonedRun_any s p n).symm ▸ by congr 1⟩

/-! ## The events of a step -/

theorem stepMarks_who (s : State) (key : Nat) (o : MemOp) (as : List Access) :
    ∀ e ∈ stepMarks s key o as, e.1.who.key = key := by
  have cell (b : Access) : ∀ e ∈ cellMarks s key o b, e.1.who.key = key := by
    intro e he
    rw [cellMarks] at he
    split at he <;> simp only [List.mem_cons, List.not_mem_nil, or_false] at he
    · rcases he with rfl | rfl <;> rfl
    · rcases he with rfl | rfl <;> rfl
    · subst he; rfl
  intro e he
  cases as with
  | nil => exact nomatch he
  | cons a rest =>
    rw [stepMarks] at he
    split at he
    · obtain ⟨b, -, hb⟩ := List.mem_flatMap.mp he
      exact cell b e hb
    · split at he <;> simp only [List.mem_cons, List.not_mem_nil, or_false] at he <;> subst he <;> rfl

theorem gatesOpen_live {s : State} {ms : List Mark} (live : ∀ m ∈ ms, replays s m.who.key = false) : gatesOpen s ms = true := by
  refine List.all_eq_true.mpr fun m hm => ?_
  rw [gateOf_live (live m hm)]

theorem recordAll_unrecorded {s : State} {es : List (Mark × Word)}
    (unlogged : ∀ e ∈ es, (launchOf s e.1.who.key).recording = false) : recordAll s es = s := by
  induction es with
  | nil => rfl
  | cons e rest ih =>
    obtain ⟨m, v⟩ := e
    rw [recordAll, recordEvent_unrecorded v (unlogged _ List.mem_cons_self)]
    exact ih fun e he => unlogged e (List.mem_cons_of_mem _ he)

/-- A context's launch is neither recorded nor replayed. -/
def plainLaunch (s : State) (key : Nat) : Prop := replays s key = false ∧ (launchOf s key).recording = false

section
variable {s t : State} {key : Nat} {o : MemOp}

theorem recordAll_plain (plain : plainLaunch s key) (as : List Access) : recordAll s (stepMarks t key o as) = s :=
  recordAll_unrecorded fun e he => (stepMarks_who _ _ _ _ e he).symm ▸ plain.2

theorem meetStep_plain (plain : plainLaunch s key) (as : List Access) : meetStep s key o as = s := by
  rw [meetStep, meetEvents_live fun e he => (stepMarks_who _ _ _ _ e he).symm ▸ plain.1]

theorem gates_plain (plain : plainLaunch s key) (as : List Access) :
    gatesOpen s ((stepMarks s key o as).map Prod.fst) = true := by
  refine gatesOpen_live fun m hm => ?_
  obtain ⟨e, he, rfl⟩ := List.mem_map.mp hm
  exact (stepMarks_who _ _ _ _ e he).symm ▸ plain.1

theorem plainLaunch_congr (launch : launchOf t = launchOf s) (plain : plainLaunch s key) : plainLaunch t key := by
  rw [plainLaunch, replays, launch]
  exact plain

theorem plainLaunch_putCtx {c : Ctx} (plain : plainLaunch s key) (launch : c.launchid = (getCtx s key).launchid) :
    plainLaunch (putCtx s key c) key := by
  have same : launchOf (putCtx s key c) key = launchOf s key := by
    rw [launchOf, getCtx_putCtx, launch]
    rfl
  exact ⟨by rw [replays, same]; exact plain.1, by rw [same]; exact plain.2⟩

end

/-! ## The only access of the only operation -/

/-- A context with its only operation, of one access, performed. -/
def performedCtx (c : Ctx) (o : MemOp) (r : Access) : Ctx :=
  { c with fflags := c.fflags ||| r.flags, ops := [{ o with accs := [r] }] }

/-- A context whose only operation has filled its registers and is gone. -/
def filledCtx (c : Ctx) (o : MemOp) (r : Access) : Ctx :=
  dropOp (fillAccess (performedCtx c o r) { o with accs := [r] } r) o.id

theorem findOp_sole {c : Ctx} {o : MemOp} (ops : c.ops = [o]) : findOp c o.id = some o := by
  rw [findOp, ops, listFind, if_pos (beq_self_eq_true _)]

theorem findOp_dropOp (c : Ctx) (id : Nat) : findOp (dropOp c id) id = none := by
  rw [findOp, dropOp]
  induction c.ops with
  | nil => rfl
  | cons p rest ih =>
    by_cases here : p.id = id
    · rwa [List.filter_cons_of_neg (by simp [here])]
    · rw [List.filter_cons_of_pos (by simp [here]), listFind, if_neg (by simp [here])]
      exact ih

section
variable {s t : State} {key : Nat} {o : MemOp} {a r : Access}

theorem stepAccesses_sole (accs : o.accs = [a]) (todo : a.done = false) : stepAccesses o 0 a = [a] := by
  rw [stepAccesses, accs, List.zipIdx_cons, List.zipIdx_nil, List.filter_cons_of_pos (by simp [sameStep, todo])]
  rfl

theorem mergeStep_sole (accs : o.accs = [a]) (todo : a.done = false) : mergeStep o 0 a 0 o.accs [r] = [r] := by
  have here : sameStep o 0 a 0 a = true := by simp [sameStep, todo]
  rw [accs, mergeStep, if_pos here]
  rfl

theorem earlierOps_sole (ops : (getCtx s key).ops = [o]) : earlierOps (getCtx s key) o.id = [] := by
  rw [earlierOps, ops]
  simp

theorem performAt_sole (ops : (getCtx s key).ops = [o]) (accs : o.accs = [a]) (todo : a.done = false)
    (unit : performUnit s [] o [a] = (t, [r])) (ctx : getCtx t key = getCtx s key) (plain : plainLaunch t key) :
    performAt s key o.id 0 = putCtx t key (performedCtx (getCtx s key) o r) := by
  have first : o.accs[0]? = some a := by rw [accs]; rfl
  have replaced : replaceOp (orFlags (getCtx s key) r.flags) { o with accs := [r] } = performedCtx (getCtx s key) o r := by
    simp [replaceOp, orFlags, performedCtx, ops]
  rw [performAt, findOp_sole ops]
  dsimp only
  rw [first]
  dsimp only
  rw [todo, if_neg Bool.false_ne_true, stepAccesses_sole accs todo, earlierOps_sole ops, show seenOps _ [] = [] from rfl, unit]
  dsimp only [List.foldl]
  rw [mergeStep_sole accs todo, ctx, replaced]
  have plain' : plainLaunch (putCtx t key (performedCtx (getCtx s key) o r)) key := plainLaunch_putCtx plain (ctx ▸ rfl)
  rw [recordAll_plain plain', meetStep_plain plain']

theorem finishOp_sole (done : r.done = true) :
    finishOp (putCtx t key (performedCtx (getCtx s key) o r)) key o.id =
      putCtx (putCtx t key (performedCtx (getCtx s key) o r)) key (filledCtx (getCtx s key) o r) := by
  have found : findOp (getCtx (putCtx t key (performedCtx (getCtx s key) o r)) key) o.id = some { o with accs := [r] } := by
    rw [getCtx_putCtx]
    exact findOp_sole (o := { o with accs := [r] }) rfl
  rw [finishOp, found]
  dsimp only
  rw [if_pos (by simp [done]), getCtx_putCtx]
  rfl

theorem stepReady_sole (ops : (getCtx s key).ops = [o]) (home : mainTop ≤ a.place)
    (reachable : portFrozen s (keyDie key) a.place = false) (plain : plainLaunch s key) : stepReady s key o 0 a = true := by
  rw [stepReady, accessReady, earlierOps_sole ops, reachable, gates_plain plain, decide_eq_false (Nat.not_lt.mpr home)]
  cases o.kind == OpKind.store <;> cases o.kind == OpKind.arrive <;> simp [bne, *, priorDone, countedDone]

theorem performList_sole (ops : (getCtx s key).ops = [o]) (accs : o.accs = [a]) (plain : plainLaunch s key) :
    performList s key o.id [0] = performAt s key o.id 0 := by
  have gates : stepGates s key o.id 0 = true := by
    have first : o.accs[0]? = some a := by rw [accs]; rfl
    rw [stepGates, findOp_sole ops]
    dsimp only
    rw [first]
    exact gates_plain plain _
  rw [performList, if_pos gates]
  rfl

/-- The bytes that an access of a load, the only operation, brings. -/
def loadedAccess (s : State) (a : Access) : Access :=
  { a with done := true, result := readNat s a.place a.len, result2 := 0, poison := poisonedRun s a.place a.len }

theorem performUnit_load (plainCell : a.cell = false) (home : mainTop ≤ a.place) {n : Nat} {sg : Bool}
    (kind : o.kind = .load n sg ∨ o.kind = .loadSplat n sg ∨ o.kind = .scalarLoad n sg) :
    performUnit s [] o [a] = (s, [loadedAccess s a]) := by
  obtain kind | kind | kind := kind
  all_goals
    simp only [performUnit, plainCell, Bool.false_and, Bool.false_eq_true, if_false, kind, plainLanes, plainStep,
      loadBytes_alone s _ _ _ home, loadedAccess]

/-- Bytes stored at a home are all that a step has changed there, as far as its operation can see. -/
def stepsHome (s t : State) (p n x : Nat) : Prop :=
  getCtx t = getCtx s ∧ launchOf t = launchOf s ∧ readNat t p n = x ∧ ∀ q, (q < p ∨ p + n ≤ q) → readByte t q = readByte s q

theorem storeHome_steps (s : State) (p n x : Nat) : stepsHome s (storeHome s p (toBytes x n)) p n (x % 256 ^ n) := by
  obtain ⟨acts, due⟩ := notePark_eq (writeBytes s p (toBytes x n)) p (toBytes x n).length
  refine ⟨?_, ?_, ?_, fun q outside => ?_⟩
  · rw [storeHome, due]
    rfl
  · rw [storeHome, due]
    rfl
  · have read := readNat_of_bytes (s := storeHome s p (toBytes x n)) (p := p) (bs := toBytes x n) fun i hi => by
      rw [readByte_storeHome, if_pos (by omega), Nat.add_sub_cancel_left]
    rwa [length_toBytes, ofBytes_toBytes] at read
  · rw [readByte_storeHome, length_toBytes, if_neg (by omega)]

theorem ofBytes_lt (bs : List Byte) : ofBytes bs < 256 ^ bs.length := by
  induction bs with
  | nil => decide
  | cons b rest ih =>
    have byte := b.isLt
    rw [ofBytes, List.length_cons, Nat.pow_succ]
    omega

theorem readNat_lt (s : State) (p n : Nat) : readNat s p n < 256 ^ n := by
  have bytes : (readBytes s p n).length = n := by simp [readBytes]
  have below := ofBytes_lt (readBytes s p n)
  rwa [bytes] at below

/-- An atomic step of one access leaves its value at the home and answers the old one (12 R252). -/
theorem atomicHome_sole (f : Nat) {n : Nat} (sound : poisonedRun s a.place n = false) :
    ∃ t, atomicHome s f n [a] = (t, [{ a with done := true, result := readNat s a.place n }]) ∧
      stepsHome s t a.place n (atomicOp f n (readNat s a.place n) a.data a.data2 % 256 ^ n) := by
  refine ⟨_, by rw [atomicHome, sound, if_neg Bool.false_ne_true]; rfl, ?_⟩
  show stepsHome s (if atomicOp f n (readNat s a.place n) a.data a.data2 = readNat s a.place n then s else _) _ _ _
  split
  case isTrue same =>
    exact ⟨rfl, rfl, by rw [same, Nat.mod_eq_of_lt (readNat_lt _ _ _)], fun _ _ => rfl⟩
  case isFalse => exact storeHome_steps s _ _ _

/-- The step of m.arrive (12 R256). -/
theorem arriveHome_sole (sound : poisonedRun s a.place 8 = false) :
    let w := BitVec.ofNat 64 (readNat s a.place 8)
    ∃ t, arriveHome s [a] = (t, [{ a with done := true, result := bf w 47 32, result2 := w.toNat }]) ∧
      stepsHome s t a.place 8 (arriveWord w).toNat := by
  intro w
  refine ⟨_, by rw [arriveHome, sound, if_neg Bool.false_ne_true]; rfl, ?_⟩
  have steps := storeHome_steps s a.place 8 (arriveWord w).toNat
  rwa [Nat.mod_eq_of_lt (by exact (arriveWord w).isLt)] at steps

/-- A step on an enabled sibling cell (16 R315). -/
def steppedCell (s : State) (o : MemOp) (a : Access) : Access :=
  let r := cellStepOn (getDie s (cellDie a.place)) o.kind a
  { a with done := true, result := r.value.toNat, result2 := r.token.toNat, flags := r.flags, poison := r.poison }

theorem performUnit_cell (cell : a.cell = true) (enabled : siblingEnabled s (cellDie a.place) = true) :
    performUnit s [] o [a] =
      (putDie s (cellDie a.place) (cellStepOn (getDie s (cellDie a.place)) o.kind a).die, [steppedCell s o a]) := by
  rw [performUnit, cell, enabled]
  rfl

end

/-! ## The steps -/

section
variable {s : State} {key pass : Nat} {o : MemOp} {a : Access}

theorem fillLong_sole (ops : (getCtx s key).ops = [o]) (accs : o.accs = [a]) (todo : a.done = false)
    (kind : o.kind = .longResult) (here : a.lane / 32 = pass) :
    fillLong s key o.id pass = putCtx s key (dropOp (fillLanes (getCtx s key) o.dst [a]) o.id) := by
  have mine : (!a.done && a.lane / 32 == pass) = true := by simp [todo, here]
  rw [fillLong, findOp_sole ops]
  simp [kind, accs, todo, here]

/-- The state in which a step has left memory, once the operation has filled its registers and is gone. -/
def filledState (s t : State) (key : Nat) (o : MemOp) (r : Access) : State :=
  putCtx (putCtx t key (performedCtx (getCtx s key) o r)) key (filledCtx (getCtx s key) o r)

theorem getCtx_filledState (t : State) (r : Access) : getCtx (filledState s t key o r) key = filledCtx (getCtx s key) o r :=
  getCtx_putCtx _ _ _

theorem filledState_gone (t : State) (r : Access) : findOp (getCtx (filledState s t key o r) key) o.id = none := by
  rw [getCtx_filledState]
  exact findOp_dropOp _ _

theorem finishOp_performed {t : State} {r : Access} (ops : (getCtx s key).ops = [o]) (accs : o.accs = [a]) (todo : a.done = false)
    (unit : performUnit s [] o [a] = (t, [r])) (ctx : getCtx t key = getCtx s key) (plain : plainLaunch t key)
    (done : r.done = true) : finishOp (performAt s key o.id 0) key o.id = filledState s t key o r := by
  rw [performAt_sole ops accs todo unit ctx plain, finishOp_sole done]
  rfl

/-- The lanes that a load fills, once its only access is performed. -/
theorem loadFill_sole (ops : (getCtx s key).ops = [o]) (accs : o.accs = [a]) (todo : a.done = false) (cell : a.cell = false)
    (home : mainTop ≤ a.place) (reachable : portFrozen s (keyDie key) a.place = false) (plain : plainLaunch s key)
    {n : Nat} {sg : Bool} (kind : o.kind = .load n sg ∨ o.kind = .loadSplat n sg) (here : a.lane / 32 = pass) :
    loadFill s key o.id pass = filledState s s key o (loadedAccess s a) := by
  have kind3 : o.kind = .load n sg ∨ o.kind = .loadSplat n sg ∨ o.kind = .scalarLoad n sg := kind.imp_right Or.inl
  have performed := performAt_sole ops accs todo (performUnit_load cell home kind3) rfl plain
  have ready : (o.accs.zipIdx.all fun e => e.1.lane / 32 != pass || e.1.done || stepReady s key o e.2 e.1) = true := by
    rw [accs]
    simp [stepReady_sole ops home reachable plain]
  have idx : (o.accs.zipIdx.filter fun e => e.1.lane / 32 == pass).map Prod.snd = [0] := by
    rw [accs]
    simp [here]
  have filled : fillPass (performedCtx (getCtx s key) o (loadedAccess s a)) { o with accs := [loadedAccess s a] } pass =
      filledCtx (getCtx s key) o (loadedAccess s a) := by
    simp [fillPass, loadedAccess, here, fillAll, filledCtx]
  have found : findOp (performedCtx (getCtx s key) o (loadedAccess s a)) o.id = some { o with accs := [loadedAccess s a] } :=
    findOp_sole (o := { o with accs := [loadedAccess s a] }) rfl
  rw [loadFill, findOp_sole ops]
  dsimp only
  rw [idx, ready, performList_sole ops accs plain, performed, getCtx_putCtx, found]
  dsimp only
  rw [filled]
  obtain kind | kind := kind
  · rw [kind]; rfl
  · rw [kind]; rfl

theorem firstAccess (accs : o.accs = [a]) : o.accs[0]? = some a := by
  rw [accs]
  rfl

theorem allReady_sole (ops : (getCtx s key).ops = [o]) (accs : o.accs = [a]) (home : mainTop ≤ a.place)
    (reachable : portFrozen s (keyDie key) a.place = false) (plain : plainLaunch s key) :
    (o.accs.zipIdx.all fun e => e.1.done || stepReady s key o e.2 e.1) = true := by
  rw [accs]
  simp [stepReady_sole ops home reachable plain]

theorem scalarFill_sole (ops : (getCtx s key).ops = [o]) (accs : o.accs = [a]) (todo : a.done = false) (cell : a.cell = false)
    (home : mainTop ≤ a.place) (reachable : portFrozen s (keyDie key) a.place = false) (plain : plainLaunch s key)
    {n : Nat} {sg : Bool} (kind : o.kind = .scalarLoad n sg) :
    scalarFill s key o.id = filledState s s key o (loadedAccess s a) := by
  rw [scalarFill, findOp_sole ops]
  dsimp only
  rw [allReady_sole ops accs home reachable plain, accs, kind]
  exact (congrArg (finishOp · key o.id) (performList_sole ops accs plain)).trans
    (finishOp_performed ops accs todo (performUnit_load cell home (.inr (.inr kind))) rfl plain rfl)

theorem atomicStep_sole (ops : (getCtx s key).ops = [o]) (accs : o.accs = [a]) (todo : a.done = false)
    (home : mainTop ≤ a.place) (reachable : portFrozen s (keyDie key) a.place = false) (plain : plainLaunch s key)
    {f n scope : Nat} (kind : o.kind = .atomic f n scope) :
    atomicStep s key o.id 0 = finishOp (performAt s key o.id 0) key o.id := by
  rw [atomicStep, findOp_sole ops]
  dsimp only
  rw [firstAccess accs, kind]
  dsimp only
  rw [todo, stepReady_sole ops home reachable plain]
  rfl

theorem arrivalStep_sole (ops : (getCtx s key).ops = [o]) (accs : o.accs = [a])
    (home : mainTop ≤ a.place) (reachable : portFrozen s (keyDie key) a.place = false) (plain : plainLaunch s key)
    (kind : o.kind = .arrive) : arrivalStep s key o.id = finishOp (performAt s key o.id 0) key o.id := by
  rw [arrivalStep, findOp_sole ops]
  dsimp only
  rw [allReady_sole ops accs home reachable plain, accs, if_pos kind]
  exact congrArg (finishOp · key o.id) (performList_sole ops accs plain)

theorem cellStep_sole (ops : (getCtx s key).ops = [o]) (accs : o.accs = [a]) (todo : a.done = false) (cell : a.cell = true)
    (enabled : siblingEnabled s (cellDie a.place) = true) (home : mainTop ≤ a.place)
    (reachable : portFrozen s (keyDie key) a.place = false) (plain : plainLaunch s key)
    (kind : o.kind = .cellLdv ∨ o.kind = .cellStv ∨ ∃ f ty, o.kind = .cellRcn f ty) :
    cellStep s key o.id 0 = filledState s (putDie s (cellDie a.place) (cellStepOn (getDie s (cellDie a.place)) o.kind a).die)
      key o (steppedCell s o a) := by
  have finished := finishOp_performed ops accs todo (performUnit_cell cell enabled) rfl
    (show plainLaunch (putDie s (cellDie a.place) _) key from plain) rfl
  rw [← finished, cellStep, findOp_sole ops]
  dsimp only
  rw [firstAccess accs]
  have ready := stepReady_sole ops home reachable plain
  obtain kind | kind | ⟨f, ty, kind⟩ := kind <;>
  · rw [kind]
    dsimp only
    rw [todo, ready]
    rfl

theorem fenceComplete_sole (ops : (getCtx s key).ops = [o]) {k scope : Nat} (kind : o.kind = .fence k scope) :
    fenceComplete s key o.id = putCtx s key (dropOp (getCtx s key) o.id) := by
  have unreleased : releaseOps (fun p => o.prior.contains p.id) (getCtx s key).ops = (getCtx s key).ops := by
    simp [releaseOps, ops, kind]
  have performed : priorDone (getCtx s key).ops o true true (scope == 0) = true := by
    simp [priorDone, countedDone, ops, kind, opReads, opWrites]
  rw [fenceComplete, findOp_sole ops]
  dsimp only
  rw [kind]
  dsimp only
  rw [performed, unreleased]
  rfl

/-! ## What the registers hold afterwards -/

theorem ofNat_toNat64 (x : Word) : BitVec.ofNat 64 x.toNat = x := by rw [BitVec.ofNat_toNat, BitVec.setWidth_eq]

theorem getV_filledCtx_load (c : Ctx) {n : Nat} {sg : Bool} (r : Access) (kind : o.kind = .load n sg ∨ o.kind = .loadSplat n sg)
    (small : n < 16) (len : r.len = n) :
    getV (filledCtx c o r) (o.dst + r.reg) r.lane = { val := extendLoad r.result n sg, poison := r.poison } := by
  have short : r.len ≠ 16 := by omega
  have short' : n ≠ 16 := by omega
  have filled : fillAccess (performedCtx c o r) { o with accs := [r] } r = fillLane (performedCtx c o r) (o.dst + r.reg) r.lane
      (BitVec.ofNat 64 (extendLoad r.result n sg).toNat) r.poison := by
    obtain kind | kind := kind <;>
    · simp only [fillAccess, kind, if_neg short, if_neg short']
  rw [filledCtx, filled, ofNat_toNat64]
  exact getV_putV _ _ _ _

theorem getS_filledCtx_load (c : Ctx) {n : Nat} {sg : Bool} (r : Access) (kind : o.kind = .scalarLoad n sg) (dst : 0 < o.dst) :
    getS (filledCtx c o r) o.dst = { val := extendLoad r.result n sg, poison := r.poison } := by
  have filled : fillAccess (performedCtx c o r) { o with accs := [r] } r =
      putS (performedCtx c o r) o.dst { val := extendLoad r.result n sg, poison := r.poison } := by
    simp only [fillAccess, kind]
  rw [filledCtx, filled]
  exact getS_putS _ _ dst.ne'

theorem getS_filledCtx_arrive (c : Ctx) (r : Access) (kind : o.kind = .arrive) (dst : 0 < o.dst) :
    getS (filledCtx c o r) o.dst = { val := BitVec.ofNat 64 r.result, poison := r.poison } := by
  have filled : fillAccess (performedCtx c o r) { o with accs := [r] } r =
      putS (performedCtx c o r) o.dst { val := BitVec.ofNat 64 r.result, poison := r.poison } := by
    simp only [fillAccess, kind]
  rw [filledCtx, filled]
  exact getS_putS _ _ dst.ne'

theorem getV_filledCtx_one (c : Ctx) (r : Access) (kind : (∃ f n scope, o.kind = .atomic f n scope) ∨ o.kind = .cellStv) :
    getV (filledCtx c o r) o.dst r.lane = { val := BitVec.ofNat 64 r.result, poison := r.poison } := by
  have filled : fillAccess (performedCtx c o r) { o with accs := [r] } r =
      fillLane (performedCtx c o r) o.dst r.lane (BitVec.ofNat 64 r.result) r.poison := by
    obtain ⟨f, n, scope, kind⟩ | kind := kind <;>
    · simp only [fillAccess, kind, Nat.add_zero]
  rw [filledCtx, filled]
  exact getV_putV _ _ _ _

theorem getV_filledCtx_two (c : Ctx) (r : Access) (kind : o.kind = .cellLdv ∨ ∃ f ty, o.kind = .cellRcn f ty) :
    getV (filledCtx c o r) o.dst r.lane = { val := BitVec.ofNat 64 r.result, poison := r.poison } ∧
      getV (filledCtx c o r) (o.dst + 1) r.lane = { val := BitVec.ofNat 64 r.result2, poison := r.poison } := by
  have filled : fillAccess (performedCtx c o r) { o with accs := [r] } r =
      fillLane (fillLane (performedCtx c o r) o.dst r.lane (BitVec.ofNat 64 r.result) r.poison) (o.dst + 1) r.lane
        (BitVec.ofNat 64 r.result2) r.poison := by
    obtain kind | ⟨f, ty, kind⟩ := kind <;>
    · simp only [fillAccess, kind, Nat.add_zero]
  rw [filledCtx, filled]
  exact ⟨(getV_putV_ne _ _ (by omega)).trans (getV_putV _ _ _ _), getV_putV _ _ _ _⟩

end

/-- Settles O45: each step of the table on an operation that stands alone with one access. -/
theorem issuedOperationsComplete : Obligations.IssuedOperationsComplete := by
  intro s o a key gone
  refine ⟨?home, ?cell, ?fence, ?act⟩
  case home =>
    rintro ⟨ops, id_, accs, todo, sound, lane, home, reachable, live, unlogged⟩ cell
    have plain : plainLaunch s key := ⟨live, unlogged⟩
    refine ⟨fun kind here => ?_, fun n sg kind small len here => ?_, fun n sg kind len dst => ?_,
      fun f n scope kind sub good => ?_, fun kind good dst => ?_⟩
    · refine ⟨_, congrArg Host.Outcome.next ((congrArg (fillLong s key · s.input.sub) id_).trans
        (fillLong_sole ops accs todo kind here)), ?_, fun _ => rfl, ?_⟩
      · exact (congrArg (findOp · o.id) (getCtx_putCtx _ _ _)).trans (findOp_dropOp _ _)
      · rw [getCtx_putCtx]
        refine (getV_putV _ _ _ _).trans ?_
        rw [sound]
    · refine ⟨_, congrArg Host.Outcome.next ((congrArg (loadFill s key · s.input.sub) id_).trans
        (loadFill_sole ops accs todo cell home reachable plain kind here)), filledState_gone _ _, fun _ => rfl, ?_⟩
      rw [getCtx_filledState]
      refine (getV_filledCtx_load _ (loadedAccess s a) kind small len).trans ?_
      rw [loadedAccess, len]
    · refine ⟨_, congrArg Host.Outcome.next ((congrArg (scalarFill s key ·) id_).trans
        (scalarFill_sole ops accs todo cell home reachable plain kind)), filledState_gone _ _, fun _ => rfl, ?_⟩
      rw [getCtx_filledState]
      refine (getS_filledCtx_load _ (loadedAccess s a) kind dst).trans ?_
      rw [loadedAccess, len]
    · obtain ⟨t, step, ctx, launch, left, others⟩ := atomicHome_sole (s := s) (a := a) f good
      have unit : performUnit s [] o [a] = (t, [{ a with done := true, result := readNat s a.place n }]) := by
        rw [performUnit, if_neg (by rw [cell]; exact Bool.false_ne_true), kind]
        exact step
      refine ⟨filledState s t key o { a with done := true, result := readNat s a.place n }, congrArg Host.Outcome.next
        ((congrArg₂ (atomicStep s key) id_ sub).trans ((atomicStep_sole ops accs todo home reachable plain kind).trans
          (finishOp_performed ops accs todo unit (congrFun ctx key) (plainLaunch_congr launch plain) rfl))),
        filledState_gone _ _, left, others, ?_⟩
      rw [getCtx_filledState]
      refine (getV_filledCtx_one _ _ (.inl ⟨f, n, scope, kind⟩)).trans ?_
      rw [sound]
    · intro w
      obtain ⟨t, step, ctx, launch, left, others⟩ := arriveHome_sole (s := s) (a := a) good
      have unit : performUnit s [] o [a] = (t, [{ a with done := true, result := bf w 47 32, result2 := w.toNat }]) := by
        rw [performUnit, if_neg (by rw [cell]; exact Bool.false_ne_true), kind]
        exact step
      refine ⟨filledState s t key o { a with done := true, result := bf w 47 32, result2 := w.toNat }, congrArg Host.Outcome.next
        ((congrArg (arrivalStep s key) id_).trans ((arrivalStep_sole ops accs home reachable plain kind).trans
          (finishOp_performed ops accs todo unit (congrFun ctx key) (plainLaunch_congr launch plain) rfl))),
        filledState_gone _ _, left, others, ?_⟩
      rw [getCtx_filledState]
      refine (getS_filledCtx_arrive _ _ kind dst).trans ?_
      rw [sound]
  case cell =>
    rintro ⟨ops, id_, accs, todo, sound, lane, home, reachable, live, unlogged⟩ cell enabled sub d r
    have plain : plainLaunch s key := ⟨live, unlogged⟩
    have step (kind : _) : exec .cellStep s = .next (filledState s (putDie s (cellDie a.place) r.die) key o (steppedCell s o a)) :=
      congrArg Host.Outcome.next ((congrArg₂ (cellStep s key) id_ sub).trans
        (cellStep_sole ops accs todo cell enabled home reachable plain kind))
    refine ⟨fun kind => ⟨_, step (.inl kind), filledState_gone _ _, ?_, ?_⟩, fun kind =>
      ⟨_, step (.inr kind), filledState_gone _ _, getDie_putDie _ _ _, ?_⟩⟩
    · rw [getCtx_filledState]
      exact (getV_filledCtx_two _ (steppedCell s o a) (.inl kind)).1.trans (congrArg (Reg.mk · _ _) (ofNat_toNat64 _))
    · rw [getCtx_filledState]
      exact (getV_filledCtx_two _ (steppedCell s o a) (.inl kind)).2.trans (congrArg (Reg.mk · _ _) (ofNat_toNat64 _))
    · rw [getCtx_filledState]
      have lane_ : getV (filledCtx (getCtx s key) o (steppedCell s o a)) o.dst a.lane =
          { val := BitVec.ofNat 64 r.value.toNat, poison := r.poison } := by
        obtain kind | kind := kind
        · exact getV_filledCtx_one _ (steppedCell s o a) (.inr kind)
        · exact (getV_filledCtx_two _ (steppedCell s o a) (.inr kind)).1
      exact lane_.trans (congrArg (Reg.mk · _ _) (ofNat_toNat64 _))
  case fence =>
    intro k sc ops id_ kind
    exact congrArg Host.Outcome.next ((congrArg (fenceComplete s key) id_).trans (fenceComplete_sole ops kind))
  case act =>
    intro w rest writes
    refine ⟨_, rfl, ?_, fun n => ?_⟩
    · rw [getCore_putCore, landActWrite, writes]
    · rw [getCore_putCore, landActWrite, writes]
      by_cases h : n = w.bank.toNat * 1024 + w.index
      · rw [if_pos h, h]
        exact mapGet_put_same _ _ _ _
      · rw [if_neg h]
        exact mapGet_put_ne _ _ _ h

end Sys2Proof.Proofs
end

section
/-! PROOFS. Copies, deliveries and band records complete (17 R327, R329, R334, 20 R405, R406). -/

namespace Sys2Proof.Proofs

open Sys2Proof Sys2Proof.Machine Sys2Proof.Laws

/-! ## Bytes written one by one -/

/-- Writing at homes changes bytes, poison and what watches them alone. -/
def homesOnly (s u : State) : Prop := u = { s with mem := u.mem, poison := u.poison, due := u.due }

theorem homesOnly.trans {s t u : State} (h : homesOnly s t) (k : homesOnly t u) : homesOnly s u :=
  Eq.trans (Eq.trans k (congrArg (fun x : State => { x with mem := u.mem, poison := u.poison, due := u.due }) h)) rfl

theorem writeBytes_homesOnly (s : State) (p : Nat) (bs : List Byte) (bad : Bool) : homesOnly s (writeBytes s p bs bad) := rfl

theorem notePark_homesOnly (s : State) (p n : Nat) : homesOnly s (notePark s p n) := by
  obtain ⟨acts, due⟩ := notePark_eq s p n
  rw [due]
  rfl

theorem writeHomes_only (ws : List (Nat × Byte × Bool)) : ∀ s, homesOnly s (writeHomes s ws) := by
  induction ws with
  | nil => exact fun _ => rfl
  | cons w rest ih =>
    obtain ⟨p, b, bad⟩ := w
    exact fun s => ((writeBytes_homesOnly s p [b] bad).trans (notePark_homesOnly _ p 1)).trans (ih _)

theorem readByte_writeHome (s : State) (p : Nat) (b : Byte) (bad : Bool) (q : Nat) :
    readByte (notePark (writeBytes s p [b] bad) p 1) q = if q = p then b else readByte s q := by
  refine (readByte_storeHome s p [b] bad q).trans ?_
  by_cases here : q = p
  · subst here
    simp
  · rw [if_neg here, if_neg (by simp; omega)]

theorem readByte_writeHomes_out {q : Nat} (ws : List (Nat × Byte × Bool)) (apart : ∀ w ∈ ws, w.1 ≠ q) :
    ∀ s, readByte (writeHomes s ws) q = readByte s q := by
  induction ws with
  | nil => exact fun _ => rfl
  | cons w rest ih =>
    obtain ⟨p, b, bad⟩ := w
    intro s
    rw [writeHomes, ih (fun w hw => apart w (List.mem_cons_of_mem _ hw)), readByte_writeHome,
      if_neg (apart (p, b, bad) List.mem_cons_self).symm]

theorem readByte_writeHomes_in {q : Nat} {b : Byte} (ws : List (Nat × Byte × Bool)) (there : ∃ w ∈ ws, w.1 = q)
    (agree : ∀ w ∈ ws, w.1 = q → w.2.1 = b) : ∀ s, readByte (writeHomes s ws) q = b := by
  induction ws with
  | nil => exact nomatch there
  | cons w rest ih =>
    obtain ⟨p, x, bad⟩ := w
    intro s
    rw [writeHomes]
    by_cases later : ∃ w ∈ rest, w.1 = q
    · exact ih later (fun w hw => agree w (List.mem_cons_of_mem _ hw)) _
    · have here : p = q := by
        obtain ⟨w, hw, at_⟩ := there
        obtain rfl | hw := List.mem_cons.mp hw
        · exact at_
        · exact absurd ⟨w, hw, at_⟩ later
      rw [readByte_writeHomes_out rest (fun w hw at_ => later ⟨w, hw, at_⟩), readByte_writeHome, if_pos here.symm]
      exact agree (p, x, bad) List.mem_cons_self here

/-! ## Bytes that an engine writes at homes -/

/-- A byte for a home. -/
def homeByte (w : Nat × Byte × Bool) : OutByte := { place := .home w.1, byte := w.2.1, bad := w.2.2 }

theorem outFails_homes (ws : List (Nat × Byte × Bool)) : outFails (ws.map homeByte) = 0 := by
  rw [outFails]
  induction ws with
  | nil => rfl
  | cons w rest ih => exact ih

theorem outLines_homes (ws : List (Nat × Byte × Bool)) : outLines (ws.map homeByte) = [] := by
  rw [outLines]
  induction ws with
  | nil => rfl
  | cons w rest ih => exact ih

theorem held_homes (s : State) (ws : List (Nat × Byte × Bool)) :
    ((ws.map homeByte).any fun b => engineHeld s b.place) = false := by
  rw [List.any_map]
  exact List.any_eq_false.mpr fun w _ => Bool.false_ne_true

theorem writeOut_homes (s : State) (ws : List (Nat × Byte × Bool)) : writeOut s (ws.map homeByte) = (writeHomes s ws, 0) := by
  have homes : (ws.map homeByte).filterMap (fun o =>
      match o.place with
      | .home p => some (p, o.byte, o.bad)
      | _ => none) = ws := by
    rw [List.filterMap_map]
    exact List.filterMap_some
  rw [writeOut, outLines_homes]
  exact congrArg (fun x => (writeHomes s x, (0 : BitVec 7))) homes

theorem writePart_homes (s : State) (ws : List (Nat × Byte × Bool)) : writePart s (ws.map homeByte) = (writeHomes s ws, 0) := by
  rw [writePart, outFails_homes]
  exact (if_pos rfl).trans (writeOut_homes s ws)

/-! ## A place in a group store -/

theorem groupPlace_add (c off k : Nat) : groupPlace c (off + k) = groupPlace c off + k := by
  rw [groupPlace, groupPlace]
  omega

section
variable {s : State} {o : EngineOp}

/-- An operation that no frozen port cuts off. -/
def uncut (s : State) (o : EngineOp) : Prop := o.cut = false ∧ (getDie s (keyDie o.by_)).frozen = false

theorem enginePlace_group (free : uncut s o) (write : Bool) (c off k : Nat) :
    enginePlace s (engineRequester o) write (.group c off) k = .home (groupPlace c off + k) := by
  have open_ (p : Nat) : beyondPort s (engineRequester o) p = false := by
    rw [beyondPort, engineRequester, free.1, free.2]
    rfl
  rw [enginePlace, reachable, groupPlace_add, open_]
  rfl

/-! ## Rows read from a group store (17 R327) -/

/-- A row as the engine reads it from sound bytes. -/
def copiedRow (s : State) (r : Record) (src i : Nat) : RowData :=
  { bytes := (List.range r.rb).map fun k => (readByte s (src + (i * r.spitch + k)), 0) }

theorem zipIdx_map_range {α : Type} (f : Nat → α) (n : Nat) :
    ((List.range n).map f).zipIdx = (List.range n).map fun i => (f i, i) := by
  apply List.ext_getElem (by simp)
  intro i hi hi'
  simp

theorem readRow_group (free : uncut s o) {c off pos len : Nat}
    (sound : ∀ k < len, poisonedRun s (groupPlace c off + (pos + k)) 1 = false) :
    readRow s o (.group c off) pos len =
      (List.range len).map fun k => ((readByte s (groupPlace c off + (pos + k)), 0), (0 : BitVec 7)) := by
  rw [readRow, sourcePlaces, List.map_map]
  refine List.map_congr_left fun k hk => ?_
  rw [Function.comp, enginePlace_group free, readEngine, sound k (List.mem_range.mp hk)]
  rfl

theorem foldl_or_zero {α : Type} (f : α → BitVec 7) (xs : List α) (none_ : ∀ x ∈ xs, f x = 0) :
    xs.foldl (fun e x => e ||| f x) 0 = 0 := by
  induction xs with
  | nil => rfl
  | cons x rest ih =>
    rw [List.foldl_cons, none_ x List.mem_cons_self]
    exact ih fun y hy => none_ y (List.mem_cons_of_mem _ hy)

theorem dropParts_none (o : EngineOp) (src : Span) (pitch i : Nat) (row : List (Byte × Nat)) :
    dropParts o src pitch i [] row = row := by
  rw [dropParts]
  refine Eq.trans (List.map_congr_left fun b _ => ?_) (List.zipIdx_map_fst 0 row)
  rfl

theorem readRows_group (free : uncut s o) {r : Record} {c off : Nat} (sound : rowsSound s r (groupPlace c off))
    (wanted : Nat → Nat → Bool) : readRows s o r (.group c off) false false wanted =
      ((List.range r.rows).map (copiedRow s r (groupPlace c off)), 0) := by
  have raw : ((List.range r.rows).map fun i => readRow s o (.group c off) (i * r.spitch) (sourceBytes r false)) =
      (List.range r.rows).map fun i => (List.range r.rb).map fun k =>
        ((readByte s (groupPlace c off + (i * r.spitch + k)), 0), (0 : BitVec 7)) :=
    List.map_congr_left fun i hi => readRow_group free fun k hk => sound i k (List.mem_range.mp hi) hk
  have whole : badParts o (.group c off) r.spitch (fun i => sourceWanted r false (wanted i))
      (((List.range r.rows).map fun i => (List.range r.rb).map fun k =>
        ((readByte s (groupPlace c off + (i * r.spitch + k)), 0), (0 : BitVec 7))).map fun x => x.map Prod.fst) = [] := by
    rw [badParts, List.map_map, zipIdx_map_range, List.flatMap_map, List.flatMap_eq_nil_iff]
    intro i _
    rw [Function.comp, List.map_map, zipIdx_map_range, List.map_eq_nil_iff, List.filter_eq_nil_iff]
    intro b hb
    obtain ⟨k, -, rfl⟩ := List.mem_map.mp hb
    exact Bool.false_ne_true
  rw [readRows]
  dsimp only
  rw [raw, whole]
  simp only [dropParts_none, zipIdx_map_range, List.map_map]
  refine Prod.ext (List.map_congr_left fun i _ => ?_) ?_
  · simp [finishRow, copiedRow, Function.comp_def]
  · refine (congrArg₂ (· ||| ·) (foldl_or_zero id _ fun x hx => ?_) (foldl_or_zero Prod.snd _ fun x hx => ?_)).trans rfl
    · obtain ⟨i, -, rfl⟩ := List.mem_map.mp hx
      refine foldl_or_zero Prod.snd _ fun y hy => ?_
      obtain ⟨z, hz, rfl⟩ := List.mem_map.mp hy
      have read := (List.mem_filter.mp hz).1
      dsimp only at read
      rw [zipIdx_map_range] at read
      obtain ⟨k, -, rfl⟩ := List.mem_map.mp read
      rfl
    · obtain ⟨i, -, rfl⟩ := List.mem_map.mp hx
      simp [finishRow, Function.comp]

/-! ## Rows written to a group store -/

/-- The bytes of a copy, each with its home. -/
def copiedHomes (s : State) (r : Record) (src dst : Nat) : List (Nat × Byte × Bool) :=
  (List.range r.rows).flatMap fun i => (List.range r.rb).map fun k =>
    (dst + copyByte r i k, readByte s (src + (i * r.spitch + k)), false)

theorem rowsOut_group (free : uncut s o) {r : Record} {src c off : Nat} {part : Option Nat}
    (whole : part = none ∨ part = some (partIndex o.parts 0)) :
    rowsOut s o r (.group c off) false part ((List.range r.rows).map (copiedRow s r src)) =
      (copiedHomes s r src (groupPlace c off)).map homeByte := by
  have offsets (i : Nat) : rowOut r i (copiedRow s r src i) =
      (List.range r.rb).map fun k => (rowOffset r i k, readByte s (src + (i * r.spitch + k)), 0) := by
    rw [rowOut, copiedRow, if_pos rfl, zipIdx_map_range, List.map_map]
    rfl
  rw [rowsOut, zipIdx_map_range, List.flatMap_map, copiedHomes, List.map_flatMap, List.filterMap_flatMap]
  refine List.flatMap_congr fun i _ => ?_
  rw [offsets, List.filterMap_map, List.map_map, ← List.filterMap_eq_map]
  refine List.filterMap_congr fun k _ => ?_
  refine (if_neg ?_).trans ?_
  · rintro (skipped | ⟨named, other⟩)
    · exact absurd skipped (show ¬(0 : Nat) = 2 by decide)
    · obtain whole | whole := whole
      · rw [whole] at named
        exact nomatch named
      · exact other whole
  · dsimp only
    rw [enginePlace_group free]
    rfl

/-! ## Where the bytes of a copy stand (17 R327) -/

/-- Exclusive or with a mask below a power of two stays in its multiple. -/
theorem xor_lt_of_dvd {k c n m : Nat} (hk : k < m) (hc : c < 2 ^ n) (multiple : 2 ^ n ∣ m) : k ^^^ c < m := by
  obtain ⟨q, rfl⟩ := multiple
  have block : (k ^^^ c) / 2 ^ n = k / 2 ^ n := by
    rw [Nat.xor_div_two_pow, Nat.div_eq_of_lt hc, Nat.xor_zero]
  rw [Nat.mul_comm, ← Nat.div_lt_iff_lt_mul (Nat.two_pow_pos n), block]
  exact (Nat.div_lt_iff_lt_mul (Nat.two_pow_pos n)).mpr (Nat.mul_comm _ _ ▸ hk)

theorem swizzled_lt {r : Record} (legal : swizzleLegal r = true) (i : Nat) {k : Nat} (hk : k < r.rb) :
    k ^^^ (i % 2 ^ r.swz * 16) < r.rb := by
  rw [swizzleLegal, Bool.or_eq_true, beq_iff_eq, beq_iff_eq] at legal
  obtain plain | whole := legal
  · rwa [plain, Nat.pow_zero, Nat.mod_one, Nat.zero_mul, Nat.xor_zero]
  · have below := Nat.mod_lt i (Nat.two_pow_pos r.swz)
    refine xor_lt_of_dvd (n := r.swz + 4) hk ?_ ?_
    · rw [Nat.pow_add]
      omega
    · rw [Nat.pow_add, Nat.mul_comm]
      exact Nat.dvd_of_mod_eq_zero whole

theorem copyByte_injective {r : Record} (legal : copyLegal r = true) {i k i' k' : Nat} (hk : k < r.rb) (hk' : k' < r.rb)
    (same : copyByte r i k = copyByte r i' k') : i = i' ∧ k = k' := by
  simp only [copyLegal, Bool.and_eq_true, decide_eq_true_eq] at legal
  obtain ⟨⟨-, pitch⟩, swizzle⟩ := legal
  have low := swizzled_lt swizzle i hk
  have low' := swizzled_lt swizzle i' hk'
  have same : i * r.dpitch + (k ^^^ (i % 2 ^ r.swz * 16)) = i' * r.dpitch + (k' ^^^ (i' % 2 ^ r.swz * 16)) := same
  have rows : i = i' := by
    have row (j x : Nat) (hx : x < r.dpitch) : (j * r.dpitch + x) / r.dpitch = j := by
      rw [Nat.mul_comm, Nat.mul_add_div (by omega), Nat.div_eq_of_lt hx, Nat.add_zero]
    have both := congrArg (· / r.dpitch) same
    rwa [row _ _ (by omega), row _ _ (by omega)] at both
  subst rows
  exact ⟨rfl, Nat.xor_left_injective (Nat.add_left_cancel same)⟩

theorem mem_copiedHomes {s : State} {r : Record} {src dst : Nat} {w : Nat × Byte × Bool} :
    w ∈ copiedHomes s r src dst ↔ ∃ i k, i < r.rows ∧ k < r.rb ∧
      w = (dst + copyByte r i k, readByte s (src + (i * r.spitch + k)), false) := by
  simp only [copiedHomes, List.mem_flatMap, List.mem_map, List.mem_range]
  constructor
  · rintro ⟨i, hi, k, hk, rfl⟩
    exact ⟨i, k, hi, hk, rfl⟩
  · rintro ⟨i, k, hi, hk, rfl⟩
    exact ⟨i, hi, k, hk, rfl⟩

theorem writeHomes_copies (s : State) {r : Record} (legal : copyLegal r = true) (src dst : Nat) :
    rowsCopied s (writeHomes s (copiedHomes s r src dst)) r src dst := by
  refine ⟨fun i k hi hk => readByte_writeHomes_in _ ⟨_, mem_copiedHomes.mpr ⟨i, k, hi, hk, rfl⟩, rfl⟩ (fun w hw at_ => ?_) s,
    fun q apart => readByte_writeHomes_out _ (fun w hw => ?_) s⟩
  · obtain ⟨i', k', hi', hk', rfl⟩ := mem_copiedHomes.mp hw
    obtain ⟨rfl, rfl⟩ := copyByte_injective legal hk' hk (Nat.add_left_cancel at_)
    rfl
  · obtain ⟨i', k', hi', hk', rfl⟩ := mem_copiedHomes.mp hw
    exact fun e => apart i' k' hi' hk' e.symm

/-! ## The operation's end -/

theorem engine_freeLocks (u : State) (core op k : Nat) : (getCore (freeLocks u core op) k).engine = (getCore u k).engine :=
  Eq.trans (congrArg Core.engine (mapGet_map ({} : Core)
    (fun _ c => { c with locks := c.locks.filter fun l => !(l.core == core && l.op == op) }) (fun _ => rfl) u.cores k)) rfl

/-- While its workgroup is placed, the end of an operation tells its warp and changes no byte. -/
theorem settleBatch_placed {u : State} (placed : (getWg u o.wg).away = false) :
    (settleBatch u o).cores = u.cores ∧ (settleBatch u o).mem = u.mem := by
  rw [settleBatch]
  dsimp only
  rw [isAway, placed, if_neg Bool.false_ne_true]
  split <;> exact ⟨rfl, rfl⟩

theorem finishEngine_placed {u : State} {core : Nat} (placed : (getWg u o.wg).away = false) :
    (finishEngine u core o).mem = u.mem ∧ findEngine (finishEngine u core o) core o.id = none := by
  have only (v : State) (engine : (getCore v core).engine = (getCore u core).engine.filter fun p => p.id != o.id) :
      findEngine v core o.id = none := by
    rw [findEngine, engine]
    induction (getCore u core).engine with
    | nil => rfl
    | cons p rest ih =>
      by_cases here : p.id = o.id
      · rwa [List.filter_cons_of_neg (by simp [here])]
      · rw [List.filter_cons_of_pos (by simp [here]), listFind, if_neg (by simp [here])]
        exact ih
  have engine : (getCore (freeLocks (putCore u core { getCore u core with
      engine := (getCore u core).engine.filter fun p => p.id != o.id }) core o.id) core).engine =
        (getCore u core).engine.filter fun p => p.id != o.id := by
    rw [engine_freeLocks, getCore_putCore]
  rw [finishEngine]
  split
  · obtain ⟨cores, mem⟩ := settleBatch_placed (u := freeLocks (putCore u core { getCore u core with
      engine := (getCore u core).engine.filter fun p => p.id != o.id }) core o.id) placed
    exact ⟨mem, only _ (by rw [getCore_of_cores cores, engine])⟩
  · exact ⟨rfl, only _ engine⟩

theorem partDone_last {u : State} {core p : Nat} (last : o.left = [p]) (placed : (getWg u o.wg).away = false) (e : BitVec 7)
    (frow : Word) (dst : Span) :
    (partDone u core o p e frow dst).mem = u.mem ∧ findEngine (partDone u core o p e frow dst) core o.id = none := by
  have none_ : o.left.filter (· != p) = [] := by simp [last]
  rw [partDone]
  dsimp only
  rw [none_, List.isEmpty_nil, if_pos rfl, stampCopy]
  obtain ⟨mem, gone⟩ := finishEngine_placed (u := u) (core := core) (o := { o with
    left := [], errors := (joinErrors o.errors o.frow e frow).1, frow := (joinErrors o.errors o.frow e frow).2 }) placed
  refine ⟨(stampBand_only _ _ _ _ _).mem.trans mem, ?_⟩
  rw [findEngine, getCore_of_cores (cores_stampBand _ _ _ _ _)]
  exact gone

end

section
variable {s : State} {o : EngineOp}

theorem findEngine_sole {core : Nat} (engine : (getCore s core).engine = [o]) : findEngine s core o.id = some o := by
  rw [findEngine, engine, listFind, if_pos (beq_self_eq_true _)]

theorem earlierDone_alone (alone : (getCtx s o.ctx).ops = []) : earlierDone s o = true := by
  rw [earlierDone, alone]
  rfl

theorem markHeld_placed (placed : (getWg s o.wg).away = false) : markHeld s o = false := by
  rw [markHeld, isAway, placed]
  rfl

theorem sourceHeld_group (free : uncut s o) (r : Record) (c off : Nat) :
    sourceHeld s o r (.group c off) false false = false := by
  refine List.any_eq_false.mpr fun pl hpl => ?_
  obtain ⟨i, -, hpl⟩ := List.mem_flatMap.mp hpl
  obtain hpl | hpl := List.mem_append.mp hpl
  · obtain ⟨k, -, rfl⟩ := List.mem_map.mp hpl
    rw [enginePlace_group free]
    exact Bool.false_ne_true
  · exact nomatch hpl

end

theorem partIndex_one (x va : Nat) : partIndex [x] va = 0 := by
  have one := List.length_filter_le (fun y => decide (y ≤ va)) [x]
  rw [List.length_singleton] at one
  exact Nat.sub_eq_zero_of_le one

theorem rowsCopied_of_mem {s t u : State} {r : Record} {src dst : Nat} (mem : u.mem = t.mem) (copied : rowsCopied s t r src dst) :
    rowsCopied s u r src dst := by
  have bytes (p : Nat) : readByte u p = readByte t p := by rw [readByte, readByte, mem]
  exact ⟨fun i k hi hk => (bytes _).trans (copied.1 i k hi hk), fun q apart => (bytes q).trans (copied.2 q apart)⟩

theorem getWg_writeHomes (s : State) (ws : List (Nat × Byte × Bool)) (k : Nat) : getWg (writeHomes s ws) k = getWg s k := by
  rw [writeHomes_only ws s]
  rfl

theorem freeTarget_leaves (u : State) (core op tcore lo : Nat) : (freeTarget u core op tcore lo).mem = u.mem ∧
    getWg (freeTarget u core op tcore lo) = getWg u := ⟨rfl, rfl⟩

/-! ## A record's doublewords at homes -/

/-- The bytes of a run of doublewords, each with its home. -/
def wordHomes (p : Nat) (ws : List Word) : List (Nat × Byte × Bool) := (wordsBytes ws).zipIdx.map fun e => (p + e.2, e.1, false)

theorem outWords_group {s : State} {o : EngineOp} (free : uncut s o) (c off : Nat) (ws : List Word) :
    outWords s (engineRequester o) (.group c off) ws = (wordHomes (groupPlace c off) ws).map homeByte := by
  rw [outWords, wordHomes, List.map_map]
  refine List.map_congr_left fun e _ => ?_
  rw [enginePlace_group free]
  rfl

theorem mem_wordHomes {p : Nat} {ws : List Word} {h : Nat × Byte × Bool} (hh : h ∈ wordHomes p ws) :
    p ≤ h.1 ∧ h.1 < p + 8 * ws.length ∧ h.2.1 = (wordsBytes ws).getD (h.1 - p) 0 := by
  obtain ⟨⟨b, i⟩, he, rfl⟩ := List.mem_map.mp hh
  have there := List.mem_zipIdx' he
  rw [length_wordsBytes] at there
  refine ⟨Nat.le_add_right _ _, Nat.add_lt_add_left there.1 _, ?_⟩
  rw [Nat.add_sub_cancel_left, List.getD_eq_getElem _ _ (by rw [length_wordsBytes]; exact there.1)]
  exact there.2

theorem readByte_wordHomes_in (t : State) {p i : Nat} {ws : List Word} (hi : i < 8 * ws.length) :
    readByte (writeHomes t (wordHomes p ws)) (p + i) = (wordsBytes ws).getD i 0 := by
  have hi' : i < (wordsBytes ws).length := by rwa [length_wordsBytes]
  refine readByte_writeHomes_in _ ⟨(p + i, (wordsBytes ws)[i], false), ?_, rfl⟩ (fun h hh at_ => ?_) t
  · exact List.mem_map.mpr ⟨((wordsBytes ws)[i], i), List.mem_zipIdx_iff_getElem?.mpr (List.getElem?_eq_getElem hi'), rfl⟩
  · rw [(mem_wordHomes hh).2.2, at_, Nat.add_sub_cancel_left]

/-- Settles O46: the bytes of each operation are written at homes, one by one. -/
theorem transfersComplete : Obligations.TransfersComplete := by
  rintro s o ⟨engine, id_, alone, placed, cut, open_⟩ gone
  have free : uncut s o := ⟨cut, open_⟩
  have found : findEngine s s.input.place s.input.id = some o := id_ ▸ findEngine_sole engine
  have ready : (!earlierDone s o || markHeld s o) = false := by
    rw [earlierDone_alone alone, markHeld_placed placed]
    rfl
  refine ⟨?copy, ?mcast, ?band⟩
  case copy =>
    intro r c1 o1 c2 o2 tc x kind rows parts left sub legal sound
    have out := rowsOut_group (s := s) (src := groupPlace c1 o1) (c := c2) (off := o2) free (r := r) (part := some 0)
      (.inr (by rw [parts, partIndex_one]))
    have step : copyPartCompletion s s.input.place s.input.id s.input.sub =
        partDone (writeHomes s (copiedHomes s r (groupPlace c1 o1) (groupPlace c2 o2))) s.input.place o 0
          (0 ||| 0) (firstUnwritten ((List.range r.rows).map (copiedRow s r (groupPlace c1 o1)))) (.group c2 o2) := by
      rw [copyPartCompletion, found]
      dsimp only
      rw [kind]
      dsimp only
      rw [left, sub, rows, ready, sourceHeld_group free]
      dsimp only
      rw [readRows_group free sound]
      refine (if_neg (by decide)).trans ((if_neg (by decide)).trans ?_)
      simp only [Bool.false_eq_true, if_false]
      rw [out, held_homes, writePart_homes]
      exact if_neg Bool.false_ne_true
    obtain ⟨mem, done⟩ := partDone_last (u := writeHomes s (copiedHomes s r (groupPlace c1 o1) (groupPlace c2 o2)))
      (core := s.input.place) left (by rw [getWg_writeHomes]; exact placed) (0 ||| 0)
      (firstUnwritten ((List.range r.rows).map (copiedRow s r (groupPlace c1 o1)))) (.group c2 o2)
    exact ⟨_, congrArg Host.Outcome.next step, done, rowsCopied_of_mem mem (writeHomes_copies s legal _ _)⟩
  case mcast =>
    intro r c1 o1 off tc k kind rows left legal sound target takes unsaved here
    let o' : EngineOp := { o with rows := some ((List.range r.rows).map (copiedRow s r (groupPlace c1 o1))) }
    let dst := groupPlace (getWg s k).core ((getWg s k).gbase + off)
    let t := freeTarget (writeHomes s (copiedHomes s r (groupPlace c1 o1) dst)) s.input.place s.input.id (getWg s k).core
      ((getWg s k).gbase + off)
    have out := rowsOut_group (s := s) (src := groupPlace c1 o1) (c := (getWg s k).core) (off := (getWg s k).gbase + off)
      (o := { o with rows := some ((List.range r.rows).map (copiedRow s r (groupPlace c1 o1))) }) free (r := r) (part := none)
      (.inl rfl)
    have step : mcastDelivery s s.input.place s.input.id s.input.sub =
        partDone t s.input.place o' s.input.sub (0 ||| 0)
          (firstUnwritten ((List.range r.rows).map (copiedRow s r (groupPlace c1 o1)))) (.group s.input.place 0) := by
      rw [mcastDelivery, found]
      dsimp only
      rw [kind]
      dsimp only
      rw [left, rows, ready, sourceHeld_group free]
      dsimp only
      rw [readRows_group free sound]
      refine (if_neg ?_).trans ((if_neg (by decide)).trans ?_)
      · simp
      dsimp only
      rw [target]
      dsimp only
      rw [takes, isAway, here, unsaved]
      refine (if_neg (by decide)).trans ?_
      rw [← kind, ← left]
      simp only [Bool.false_eq_true, if_false]
      refine (if_neg (by rw [out, held_homes]; decide)).trans ?_
      rw [out, writePart_homes]
    obtain ⟨mem, done⟩ := partDone_last (u := t) (o := o') (core := s.input.place) left (by
        rw [(freeTarget_leaves _ _ _ _ _).2, getWg_writeHomes]; exact placed) (0 ||| 0)
      (firstUnwritten ((List.range r.rows).map (copiedRow s r (groupPlace c1 o1)))) (.group s.input.place 0)
    exact ⟨_, congrArg Host.Outcome.next step, done, rowsCopied_of_mem mem (writeHomes_copies s legal _ _)⟩
  case band =>
    intro c off n kind counted w ws
    have eight : ws.length = 8 := rfl
    have none_ : (s.cores.any fun c => c.2.engine.any fun p => p.wg == o.wg && p.bandSeq == n) = false := by
      refine List.any_eq_false.mpr fun e he => ?_
      rw [Bool.not_eq_true]
      refine List.any_eq_false.mpr fun p hp => ?_
      rw [Bool.and_eq_true, beq_iff_eq, beq_iff_eq]
      exact fun both => counted e he p hp both.1 both.2
    let t := putWg s o.wg { w with oldBands := mapErase w.oldBands n }
    have step : bandRecordWrite s s.input.place s.input.id =
        finishEngine (writeHomes t (wordHomes (groupPlace c off) ws)) s.input.place { o with errors := o.errors ||| 0 } := by
      rw [bandRecordWrite, found]
      dsimp only
      rw [kind]
      dsimp only
      rw [outWords_group free, none_, Bool.false_or, ready, held_homes, outFails_homes]
      refine (if_neg (by decide)).trans ?_
      rw [if_pos rfl, writeOut_homes]
    obtain ⟨mem, done⟩ := finishEngine_placed (u := writeHomes t (wordHomes (groupPlace c off) ws)) (core := s.input.place)
      (o := { o with errors := o.errors ||| 0 }) (by rw [getWg_writeHomes, getWg_putWg]; exact placed)
    have read (q : Nat) : readByte (finishEngine (writeHomes t (wordHomes (groupPlace c off) ws)) s.input.place
        { o with errors := o.errors ||| 0 }) q = readByte (writeHomes t (wordHomes (groupPlace c off) ws)) q := by
      rw [readByte, readByte, mem]
    refine ⟨_, congrArg Host.Outcome.next step, done, eight, fun i hi => ?_, fun q outside => ?_⟩
    · refine readNat_words (fun j hj => ?_) (by rw [eight]; exact hi)
      rw [read]
      exact readByte_wordHomes_in t hj
    · rw [read]
      exact readByte_writeHomes_out _ (fun h hh => by
        have at_ := mem_wordHomes hh
        rw [eight] at at_
        omega) t

end Sys2Proof.Proofs
end

section
/-! PROOFS. Matrix operations complete, and the lease passes (19 R376, R383 to R391, 03 R78, R79). -/

namespace Sys2Proof.Proofs

open Sys2Proof Sys2Proof.Machine Sys2Proof.Laws

/-! ## Elements of a tile -/

theorem getTile_putTile (c : Core) (k x : Nat) (bad : Bool) (n : Nat) :
    getTile (putTile c k x bad) n = if n = k then BitVec.ofNat 32 x else getTile c n := by
  by_cases h : n = k
  · rw [if_pos h, h]
    exact mapGet_put_same _ _ _ _
  · rw [if_neg h]
    exact mapGet_put_ne _ _ _ h

section
variable {w : Workgroup} {acc n : Nat}

theorem getTile_putTiles_out (es : List ((Nat × Nat) × Nat × Bool)) (apart : ∀ e ∈ es, n ≠ tileKey w acc e.1.1 e.1.2) :
    ∀ c, getTile (putTiles c w acc es) n = getTile c n := by
  induction es with
  | nil => exact fun _ => rfl
  | cons e rest ih =>
    obtain ⟨rc, x, bad⟩ := e
    intro c
    rw [putTiles, ih (fun e he => apart e (List.mem_cons_of_mem _ he)), getTile_putTile,
      if_neg (apart (rc, x, bad) List.mem_cons_self)]

theorem getTile_putTiles_in {x : Nat} (es : List ((Nat × Nat) × Nat × Bool)) (there : ∃ e ∈ es, n = tileKey w acc e.1.1 e.1.2)
    (agree : ∀ e ∈ es, n = tileKey w acc e.1.1 e.1.2 → e.2.1 = x) : ∀ c, getTile (putTiles c w acc es) n = BitVec.ofNat 32 x := by
  induction es with
  | nil => exact nomatch there
  | cons e rest ih =>
    obtain ⟨rc, y, bad⟩ := e
    intro c
    rw [putTiles]
    by_cases later : ∃ e ∈ rest, n = tileKey w acc e.1.1 e.1.2
    · exact ih later (fun e he => agree e (List.mem_cons_of_mem _ he)) _
    · have here : n = tileKey w acc rc.1 rc.2 := by
        obtain ⟨e, he, at_⟩ := there
        obtain rfl | he := List.mem_cons.mp he
        · exact at_
        · exact absurd ⟨e, he, at_⟩ later
      rw [getTile_putTiles_out rest (fun e he at_ => later ⟨e, he, at_⟩), getTile_putTile, if_pos here,
        show y = x from agree (rc, y, bad) List.mem_cons_self here]

end

theorem tileKey_injective {w : Workgroup} {acc r c r' c' : Nat} (hc : c < 128) (hc' : c' < 128)
    (same : tileKey w acc r c = tileKey w acc r' c') : r = r' ∧ c = c' := by
  rw [tileKey, tileKey] at same
  omega

/-! ## The operation's turn and its end -/

section
variable {s u : State} {o : EngineOp} {core : Nat}

theorem engineTurn_sole {m : MatOp} (engine : (getCore s core).engine = [o]) (alone : (getCtx s o.ctx).ops = [])
    (kind : o.kind = .matrix m) : engineTurn s core o = true := by
  rw [engineTurn, engine, earlierDone_alone alone]
  simp [isMatrix, kind]

theorem tiles_freeLocks (u : State) (core op k : Nat) : (getCore (freeLocks u core op) k).tiles = (getCore u k).tiles :=
  Eq.trans (congrArg Core.tiles (mapGet_map ({} : Core)
    (fun _ c => { c with locks := c.locks.filter fun l => !(l.core == core && l.op == op) }) (fun _ => rfl) u.cores k)) rfl

theorem tiles_finishEngine (placed : (getWg u o.wg).away = false) (k : Nat) :
    (getCore (finishEngine u core o) k).tiles = (getCore u k).tiles := by
  have kept : (getCore (putCore u core { getCore u core with
      engine := (getCore u core).engine.filter fun p => p.id != o.id }) k).tiles = (getCore u k).tiles := by
    by_cases h : k = core
    · rw [h, getCore_putCore]
    · rw [getCore_putCore_ne _ _ h]
  rw [finishEngine]
  split
  · refine (congrArg Core.tiles (getCore_of_cores (settleBatch_placed ?_).1)).trans ((tiles_freeLocks _ _ _ _).trans kept)
    exact placed
  · rw [tiles_freeLocks, kept]

theorem getWg_finishEngine (placed : (getWg u o.wg).away = false) : getWg (finishEngine u core o) = getWg u := by
  rw [finishEngine]
  split
  · rw [settleBatch]
    have placed' : (getWg (freeLocks (putCore u core { getCore u core with
        engine := (getCore u core).engine.filter fun p => p.id != o.id }) core o.id) o.wg).away = false := placed
    dsimp only
    rw [isAway, placed', if_neg Bool.false_ne_true]
    split <;> rfl
  · rfl

/-- Flags for the issuing warp change its context alone. -/
theorem engineFlags_leaves (u : State) (o : EngineOp) (f : BitVec 6) :
    (engineFlags u o f).mem = u.mem ∧ (engineFlags u o f).cores = u.cores ∧ getWg (engineFlags u o f) = getWg u := by
  rw [engineFlags, updIssuer]
  split <;> exact ⟨rfl, rfl, rfl⟩

/-- What a matrix operation leaves that is no drain, when its operands are there. -/
theorem matrixCompletion_sole {m : MatOp} (engine : (getCore s core).engine = [o]) (alone : (getCtx s o.ctx).ops = [])
    (placed : (getWg s o.wg).away = false) (kind : o.kind = .matrix m)
    (full : cellsFull s (mmaCells m) = true) (held : matrixHeld s o m = false)
    (nodrain : ∀ acc r d a p q am an f, m ≠ .drain acc r d a p q am an f)
    (effect : (matrixEffect s o m).1.mem = s.mem ∧ getWg (matrixEffect s o m).1 = getWg s)
    (unbanded : o.bandSeq = 0 ∨ (m matches .mma _ _ _ _ _ _ _ _ _ _ _ _) = false) :
    ∃ u, matrixCompletion s core o.id = u ∧ findEngine u core o.id = none ∧ u.mem = s.mem ∧
      ∀ k, (getCore u k).tiles = (getCore (matrixEffect s o m).1 k).tiles := by
  obtain ⟨mem, cores, wgs⟩ := engineFlags_leaves (matrixEffect s o m).1 o (matrixEffect s o m).2
  have placed' : (getWg (engineFlags (matrixEffect s o m).1 o (matrixEffect s o m).2) o.wg).away = false := by
    rw [wgs, effect.2, placed]
  have step : matrixCompletion s core o.id =
      finishEngine (engineFlags (matrixEffect s o m).1 o (matrixEffect s o m).2) core o := by
    have ready : (!engineTurn s core o || !cellsFull s (mmaCells m) || matrixHeld s o m) = false := by
      rw [engineTurn_sole engine alone kind, full, held]
      rfl
    rw [matrixCompletion, findEngine_sole engine]
    dsimp only
    rw [kind]
    cases m with
    | drain => exact absurd rfl (nodrain _ _ _ _ _ _ _ _ _)
    | mma =>
      dsimp only
      rw [ready, if_neg Bool.false_ne_true, if_pos rfl, stampBand, unbanded.resolve_right Bool.false_ne_true.symm, if_pos rfl]
    | mv => exact (if_neg (by rw [ready]; exact Bool.false_ne_true)).trans (if_neg Bool.false_ne_true)
    | accZero => exact (if_neg (by rw [ready]; exact Bool.false_ne_true)).trans (if_neg Bool.false_ne_true)
    | accLoad => exact (if_neg (by rw [ready]; exact Bool.false_ne_true)).trans (if_neg Bool.false_ne_true)
    | accGet => exact (if_neg (by rw [ready]; exact Bool.false_ne_true)).trans (if_neg Bool.false_ne_true)
  refine ⟨_, step, (finishEngine_placed placed').2, ?_, fun k => ?_⟩
  · rw [(finishEngine_placed placed').1, mem, effect.1]
  · rw [tiles_finishEngine placed', getCore_of_cores cores]

end

/-! ## mx.acc.zero and mx.mma -/

theorem mem_cellsOf {rows : List Nat} {an : Nat} {e : Nat × Nat} : e ∈ cellsOf rows an ↔ e.1 ∈ rows ∧ e.2 < an := by
  obtain ⟨r, c⟩ := e
  simp [cellsOf]

section
variable {s u : State} {o : EngineOp} {core acc am an : Nat} {lanes : Mask}

/-- The width of the warps of an operation's launch. -/
def opWidth (s : State) (o : EngineOp) : Nat := recWarpLanes (wgLaunch s (getWg s o.wg)).record

theorem accZero_tiles (k : Nat) (here : (getWg s o.wg).core = k) : let t := getCore (matrixEffect s o (.accZero acc lanes am an)).1 k
    (∀ r c, r ∈ updatedRows lanes (opWidth s o) am → c < an → getTile t (tileKey (getWg s o.wg) acc r c) = 0) ∧
      ∀ n, (∀ r c, r ∈ updatedRows lanes (opWidth s o) am → c < an → n ≠ tileKey (getWg s o.wg) acc r c) →
        getTile t n = getTile (getCore s k) n := by
  subst here
  intro t
  have core : t = putTiles (getCore s (getWg s o.wg).core) (getWg s o.wg) acc
      ((cellsOf (updatedRows lanes (opWidth s o) am) an).map fun e => (e, 0, false)) := getCore_putCore _ _ _
  have mem {e : (Nat × Nat) × Nat × Bool}
      (he : e ∈ (cellsOf (updatedRows lanes (opWidth s o) am) an).map fun e => (e, 0, false)) :
      e.1.1 ∈ updatedRows lanes (opWidth s o) am ∧ e.1.2 < an ∧ e.2.1 = 0 := by
    obtain ⟨c, hc, rfl⟩ := List.mem_map.mp he
    exact ⟨(mem_cellsOf.mp hc).1, (mem_cellsOf.mp hc).2, rfl⟩
  rw [core]
  refine ⟨fun r c hr hc => getTile_putTiles_in _ ⟨((r, c), 0, false), ?_, rfl⟩ (fun e he _ => (mem he).2.2) _,
    fun n apart => getTile_putTiles_out _ (fun e he => apart _ _ (mem he).1 (mem he).2.1) _⟩
  exact List.mem_map.mpr ⟨(r, c), mem_cellsOf.mpr ⟨hr, hc⟩, rfl⟩

/-- Element (r, c) of a product of rows and columns into a tile (R386). -/
def productOf (s : State) (wg acc f : Nat) (zero : Bool) (kb : Nat) (row col : Nat → List Element) (r c : Nat) : Nat :=
  (dotBlocks f f (if zero then 0 else (getTile (getCore s (getWg s wg).core) (tileKey (getWg s wg) acc r c)).toNat)
    (row r) (col c) kb).1

/-- Each updated element of a tile holds its product. -/
theorem multiply_tiles (wg f : Nat) (zero : Bool) (kb : Nat) (rows : List Nat) (row col : Nat → List Element) (wide : an ≤ 128)
    {r c : Nat} (hr : r ∈ rows) (hc : c < an) :
    getTile (getCore (multiply s wg acc f f zero kb (rows.map fun r => (r, row r)) ((List.range an).map col)).1 (getWg s wg).core)
      (tileKey (getWg s wg) acc r c) = BitVec.ofNat 32 (productOf s wg acc f zero kb row col r c) := by
  rw [multiply, getCore_putCore, zipIdx_map_range, List.flatMap_map, List.map_flatMap]
  refine getTile_putTiles_in _ ?_ (fun e he same => ?_) _
  · exact ⟨_, List.mem_flatMap.mpr ⟨r, hr, List.mem_map_of_mem (List.mem_map_of_mem (List.mem_map_of_mem
      (List.mem_range.mpr hc)))⟩, rfl⟩
  · obtain ⟨r', -, he⟩ := List.mem_flatMap.mp he
    rw [List.map_map, List.map_map] at he
    obtain ⟨c', hc', rfl⟩ := List.mem_map.mp he
    obtain ⟨rfl, rfl⟩ := tileKey_injective (Nat.lt_of_lt_of_le hc wide) (Nat.lt_of_lt_of_le (List.mem_range.mp hc') wide) same
    rfl

end

/-! ## A block of an integer product (03 R78, R79) -/

theorem foldl_sum {α : Type} (f : α → Int) (xs : List α) : ∀ t : Int, xs.foldl (fun t x => t + f x) t = t + (xs.map f).sum := by
  induction xs with
  | nil => exact fun t => (Int.add_zero t).symm
  | cons x rest ih =>
    intro t
    rw [List.foldl_cons, ih, List.map_cons, List.sum_cons, Int.add_assoc]

theorem satInt_value (x : Int) : (satInt 32 true x).1 = (BitVec.ofInt 32 (max (-(2 ^ 31)) (min (2 ^ 31 - 1) x))).toNat := by
  have clamp : (clampInt (intLo 32 true) (intHi 32 true) x).1 = max (-(2 ^ 31)) (min (2 ^ 31 - 1) x) := by
    rw [clampInt, show intLo 32 true = -(2 ^ 31) from rfl, show intHi 32 true = 2 ^ 31 - 1 from rfl]
    split_ifs <;> dsimp only <;> omega
  rw [satInt, clamp, wrapInt, BitVec.toNat_ofInt]

theorem dotBlocks_int {f : Nat} (x : Nat) {a b : List Element} (int : f = 7 ∨ f = 8) (ha : a.length ≤ 16) :
    (dotBlocks f f x a b 1).1 = (BitVec.ofInt 32 (max (-(2 ^ 31)) (min (2 ^ 31 - 1)
      (toSigned x 32 + ((a.zip b).map fun e => elementInt f e.1 * elementInt f e.2).sum)))).toNat := by
  have whole : ((((a.zip b).zipIdx.map fun e => (e.2, e.1.1, e.1.2)).drop (16 * 0)).take 16) =
      (a.zip b).zipIdx.map fun e => (e.2, e.1.1, e.1.2) := by
    refine List.take_of_length_le ?_
    simp
    omega
  have pairs : ((a.zip b).zipIdx.map fun e => (e.2, e.1.1, e.1.2)).map (fun x => elementInt f x.2.1 * elementInt f x.2.2) =
      (a.zip b).map fun e => elementInt f e.1 * elementInt f e.2 := by
    conv_rhs => rw [← List.zipIdx_map_fst 0 (a.zip b)]
    rw [List.map_map, List.map_map]
    rfl
  rw [dotBlocks, show List.range 1 = [0] from rfl, List.foldl_cons, List.foldl_nil]
  dsimp only
  rw [whole, if_pos int, stepInt, foldl_sum, pairs, Int.zero_add]
  exact satInt_value _

/-! ## Drains (R389) -/

/-- Exclusive or with a multiple of 4 keeps the last two bits. -/
theorem xor_add_low {c m i : Nat} (hi : i < 4) (hm : 4 ∣ m) : ((4 * c) ^^^ m) + i = (4 * c + i) ^^^ m := by
  have high (a : Nat) : (a ^^^ m) / 4 = a / 4 ^^^ m / 4 := Nat.xor_div_two_pow (n := 2)
  have low (a : Nat) : (a ^^^ m) % 4 = a % 4 := by
    have mod := Nat.xor_mod_two_pow (a := a) (b := m) (n := 2)
    rwa [show 2 ^ 2 = 4 from rfl, Nat.mod_eq_zero_of_dvd hm, Nat.xor_zero] at mod
  have high1 := high (4 * c)
  have high2 := high (4 * c + i)
  have low1 := low (4 * c)
  have low2 := low (4 * c + i)
  rw [show (4 * c) / 4 = c by omega] at high1
  rw [show (4 * c + i) / 4 = c by omega, ← high1] at high2
  omega

theorem copyByte_low (x : Record) (r c : Nat) {i : Nat} (hi : i < 4) : copyByte x r (4 * c) + i = copyByte x r (4 * c + i) := by
  have aligned : 4 ∣ r % 2 ^ x.swz * 16 := Dvd.dvd.mul_left (by decide) _
  have low := xor_add_low (c := c) hi aligned
  show r * x.dpitch + (4 * c ^^^ (r % 2 ^ x.swz * 16)) + i = r * x.dpitch + ((4 * c + i) ^^^ (r % 2 ^ x.swz * 16))
  omega

section
variable {s : State} {o : EngineOp} {acc am an : Nat} {x : Record}

/-- The bits of an element of an operation's tile. -/
def drainedBits (s : State) (o : EngineOp) (acc : Nat) (e : Nat × Nat) : Nat :=
  (getTile (getCore s (getWg s o.wg).core) (tileKey (getWg s o.wg) acc e.1 e.2)).toNat

/-- The bytes that a drain of 32-bit elements writes for one of them. -/
def elementHomes (s : State) (o : EngineOp) (acc : Nat) (x : Record) (dst : Nat) (e : Nat × Nat) : List (Nat × Byte × Bool) :=
  (List.range 4).map fun i => (dst + (copyByte x e.1 (4 * e.2) + i), (toBytes (drainedBits s o acc e) 4).getD i 0, false)

theorem drainElement_group (free : uncut s o) (wide : x.fmt = 0) (c2 off fmt : Nat) (e : Nat × Nat) :
    (drainElement s o acc x (.group c2 off) false fmt e.1 e.2).out =
        (elementHomes s o acc x (groupPlace c2 off) e).map (fun h => (partIndex o.parts 0, homeByte h)) ∧
      (drainElement s o acc x (.group c2 off) false fmt e.1 e.2).lost = [] := by
  have place : Nat.xor (e.2 * 4) (e.1 % 2 ^ x.swz * 16) = Nat.xor (4 * e.2) (e.1 % 2 ^ x.swz * 16) := by rw [Nat.mul_comm]
  rw [drainElement, elementHomes, wide, show drainWidth 0 = 4 from rfl, show List.range 4 = [0, 1, 2, 3] from rfl, place]
  simp only [List.map_cons, List.map_nil, enginePlace_group free]
  exact ⟨rfl, rfl⟩

/-- The bytes that it writes for all of them. -/
def drainedHomes (s : State) (o : EngineOp) (acc : Nat) (x : Record) (dst am an : Nat) : List (Nat × Byte × Bool) :=
  (cellsOf (List.range am) an).flatMap (elementHomes s o acc x dst)

theorem drainOut_group (free : uncut s o) (wide : x.fmt = 0) (c2 off fmt : Nat) :
    (drainOut s o acc x (.group c2 off) false am an fmt).1 =
      writeHomes s (drainedHomes s o acc x (groupPlace c2 off) am an) := by
  have out (e : Nat × Nat) := (drainElement_group (acc := acc) free wide c2 off fmt e).1
  have lost : (((cellsOf (List.range am) an).map fun e => drainElement s o acc x (.group c2 off) false fmt e.1 e.2).flatMap
      fun e => e.lost) = [] := by
    rw [List.flatMap_map, List.flatMap_eq_nil_iff]
    exact fun e _ => (drainElement_group free wide c2 off fmt e).2
  have kept : (((cellsOf (List.range am) an).map fun e => drainElement s o acc x (.group c2 off) false fmt e.1 e.2).filter
      fun e => e.out.any fun b => !([] : List Nat).contains b.1) =
        (cellsOf (List.range am) an).map fun e => drainElement s o acc x (.group c2 off) false fmt e.1 e.2 := by
    refine List.filter_eq_self.mpr fun d hd => ?_
    obtain ⟨e, -, rfl⟩ := List.mem_map.mp hd
    rw [out]
    rfl
  rw [drainOut]
  dsimp only
  rw [lost, kept, List.flatMap_map, drainedHomes]
  have writes : ((cellsOf (List.range am) an).flatMap fun e =>
      ((drainElement s o acc x (.group c2 off) false fmt e.1 e.2).out.filter fun b => !([] : List Nat).contains b.1).map Prod.snd) =
        ((cellsOf (List.range am) an).flatMap (elementHomes s o acc x (groupPlace c2 off))).map homeByte := by
    rw [List.map_flatMap]
    refine List.flatMap_congr fun e _ => ?_
    rw [out]
    refine (congrArg (List.map Prod.snd) (List.filter_eq_self.mpr fun _ _ => rfl)).trans ?_
    rw [List.map_map]
    rfl
  rw [writes, writeOut_homes]

theorem mem_drainedHomes {dst : Nat} {h : Nat × Byte × Bool} (hh : h ∈ drainedHomes s o acc x dst am an) :
    ∃ r c i, c < an ∧ i < 4 ∧ h.1 = dst + copyByte x r (4 * c + i) ∧
      h.2.1 = (toBytes (drainedBits s o acc (r, c)) 4).getD i 0 := by
  obtain ⟨⟨r, c⟩, he, hh⟩ := List.mem_flatMap.mp hh
  obtain ⟨i, hi, rfl⟩ := List.mem_map.mp hh
  exact ⟨r, c, i, (mem_cellsOf.mp he).2, List.mem_range.mp hi,
    congrArg (dst + ·) (copyByte_low x r c (List.mem_range.mp hi)), rfl⟩

theorem readNat_drained (legal : copyLegal x = true) (fits : an * 4 ≤ x.rb) (dst : Nat) {r c : Nat} (hr : r < am) (hc : c < an) :
    readNat (writeHomes s (drainedHomes s o acc x dst am an)) (dst + copyByte x r (4 * c)) 4 = drainedBits s o acc (r, c) := by
  have read := readNat_of_bytes (s := writeHomes s (drainedHomes s o acc x dst am an)) (p := dst + copyByte x r (4 * c))
    (bs := toBytes (drainedBits s o acc (r, c)) 4) fun i hi => ?_
  · rw [length_toBytes, ofBytes_toBytes] at read
    rw [read]
    exact Nat.mod_eq_of_lt (BitVec.isLt _)
  · have hi : i < 4 := by rwa [length_toBytes] at hi
    rw [Nat.add_assoc]
    have written : (dst + (copyByte x r (4 * c) + i), (toBytes (drainedBits s o acc (r, c)) 4).getD i 0, false) ∈
        elementHomes s o acc x dst (r, c) := List.mem_map.mpr ⟨i, List.mem_range.mpr hi, rfl⟩
    have there : (dst + (copyByte x r (4 * c) + i), (toBytes (drainedBits s o acc (r, c)) 4).getD i 0, false) ∈
        drainedHomes s o acc x dst am an :=
      List.mem_flatMap.mpr ⟨(r, c), mem_cellsOf.mpr ⟨List.mem_range.mpr hr, hc⟩, written⟩
    refine readByte_writeHomes_in _ ⟨_, there, rfl⟩ (fun h hh same => ?_) s
    obtain ⟨r', c', i', hc', hi', at_, byte⟩ := mem_drainedHomes hh
    rw [at_, copyByte_low x r c hi] at same
    obtain ⟨rfl, columns⟩ := copyByte_injective legal (by omega) (by omega) (Nat.add_left_cancel same)
    obtain rfl : c' = c := by omega
    obtain rfl : i' = i := by omega
    exact byte

end

section
variable {s : State} {o : EngineOp} {core acc am an : Nat} {x : Record}

theorem drainPlaces_group (free : uncut s o) (c2 off : Nat) :
    ((drainPlaces s o x (.group c2 off) am an).any (engineHeld s)) = false := by
  refine List.any_eq_false.mpr fun pl hpl => ?_
  obtain ⟨e, -, rfl⟩ := List.mem_map.mp hpl
  rw [enginePlace_group free]
  exact Bool.false_ne_true

/-- The state in which a drain into a group store has written its bytes, and has told the issuing warp. -/
def drainedState (s : State) (core : Nat) (o : EngineOp) (acc : Nat) (x : Record) (c2 off am an fmt : Nat) : State :=
  finishEngine (engineFlags (writeHomes s (drainedHomes s o acc x (groupPlace c2 off) am an)) o
    (drainOut s o acc x (.group c2 off) false am an fmt).2.1) core
    { o with errors := o.errors ||| (drainOut s o acc x (.group c2 off) false am an fmt).2.2 }

theorem drainCompletion_sole {c2 off ring fmt : Nat} {post : Bool} (engine : (getCore s core).engine = [o])
    (alone : (getCtx s o.ctx).ops = []) (placed : (getWg s o.wg).away = false) (free : uncut s o)
    (kind : o.kind = .matrix (.drain acc x (.group c2 off) false post ring am an fmt)) (wide : x.fmt = 0) :
    drainCompletion s core o.id = if post then postRing (drainedState s core o acc x c2 off am an fmt) o.wg ring
      else drainedState s core o acc x c2 off am an fmt := by
  have ready : (!engineTurn s core o || markHeld s o || (drainPlaces s o x (.group c2 off) am an).any (engineHeld s)) = false := by
    rw [engineTurn_sole engine alone kind, markHeld_placed placed, drainPlaces_group free]
    rfl
  rw [drainCompletion, findEngine_sole engine]
  dsimp only
  rw [kind]
  dsimp only
  rw [ready, drainOut_group free wide, ← kind]
  rfl

theorem drainedState_leaves (placed : (getWg s o.wg).away = false) (c2 off fmt : Nat) :
    (drainedState s core o acc x c2 off am an fmt).mem = (writeHomes s (drainedHomes s o acc x (groupPlace c2 off) am an)).mem ∧
      findEngine (drainedState s core o acc x c2 off am an fmt) core o.id = none ∧
      getWg (drainedState s core o acc x c2 off am an fmt) o.wg = getWg s o.wg := by
  obtain ⟨mem, -, wgs⟩ := engineFlags_leaves (writeHomes s (drainedHomes s o acc x (groupPlace c2 off) am an)) o
    (drainOut s o acc x (.group c2 off) false am an fmt).2.1
  have same : getWg (engineFlags (writeHomes s (drainedHomes s o acc x (groupPlace c2 off) am an)) o
      (drainOut s o acc x (.group c2 off) false am an fmt).2.1) o.wg = getWg s o.wg := by
    rw [wgs, getWg_writeHomes]
  have placed' := (congrArg Workgroup.away same).trans placed
  obtain ⟨mem', gone⟩ := finishEngine_placed (core := core)
    (o := { o with errors := o.errors ||| (drainOut s o acc x (.group c2 off) false am an fmt).2.2 }) placed'
  exact ⟨mem'.trans mem, gone, (congrFun (getWg_finishEngine (core := core) (o := { o with
    errors := o.errors ||| (drainOut s o acc x (.group c2 off) false am an fmt).2.2 }) placed') o.wg).trans same⟩

theorem phase_postRing (u : State) (k j : Nat) (there : ((getWg u k).rings.any fun e => e.1 == j) = true) :
    (mapGet ({} : Machine.Ring) (getWg (postRing u k j) k).rings j).phase =
      (mapGet ({} : Machine.Ring) (getWg u k).rings j).phase + 1 := by
  have posted : ((getWg u k).rings.map fun e => if e.1 = j then (j, { e.2 with phase := e.2.phase + 1 }) else e) =
      (getWg u k).rings.map fun e => (e.1, if e.1 = j then { e.2 with phase := e.2.phase + 1 } else e.2) := by
    refine List.map_congr_left fun e _ => ?_
    split
    case isTrue h => rw [h]
    case isFalse => rfl
  obtain ⟨e, he, at_⟩ := List.any_eq_true.mp there
  have listed : j ∈ (getWg u k).rings.map Prod.fst := List.mem_map.mpr ⟨e, he, eq_of_beq at_⟩
  rw [postRing, getWg_putWg]
  dsimp only
  rw [posted, mapGet_map_listed ({} : Machine.Ring) (fun n (r : Machine.Ring) =>
    if n = j then { r with phase := r.phase + 1 } else r), if_pos listed, if_pos rfl]

end

/-! ## The lease passes (19 R383) -/

theorem inLeaseClause_cores {s u : State} (h : coresOnly s u) (k : Nat) : inLeaseClause u k = inLeaseClause s k := by
  have header (a : Agent) : standingHeader u a = standingHeader s a := by
    rw [standingHeader, standingHeader, fetchCode_cores h, h.getCtx]
  have wgs : getWg u k = getWg s k := by
    rw [h]
    rfl
  simp only [inLeaseClause, header, h.getCtx, wgs]

section
variable {s : State} {core k : Nat} {n : BitVec 11}

theorem dropStale_kept (waits : waitsForLease s k = true) (waiters : (getCore s core).leaseWaiters = [(k, n)]) :
    (getCore (dropStale s core) core) = getCore s core := by
  have kept : ((getCore s core).leaseWaiters.filter fun e => waitsForLease s e.1) = (getCore s core).leaseWaiters := by
    rw [waiters]
    simp [waits]
  rw [dropStale, getCore_putCore, kept]

theorem passLease_sole {u : State} (waiters : (getCore u core).leaseWaiters = [(k, n)]) :
    (getCore (passLease u core) core).leaseHolder = some k ∧ (getCore (passLease u core) core).leaseCount = n.toNat ∧
      (getCore (passLease u core) core).leaseWaiters = [] := by
  have next (rank : Nat) : nextWaiter u { getCore u core with leaseGiven := false } rank = some (k, n) := by
    rw [nextWaiter]
    dsimp only
    rw [waiters, List.filter_singleton]
    cases decide (rank < leaseRankOf (getWg u (k, n).1)) <;> rfl
  rw [passLease]
  dsimp only
  rw [next, getCore_putCore, waiters]
  simp

end

/-- Settles O47: tiles element by element, a drain's bytes at homes, a block's sum, and the lease's only waiter. -/
theorem matrixOperationsComplete : Obligations.MatrixOperationsComplete := by
  refine ⟨?ops, ?int, ?lease⟩
  case int =>
    intro f x a b int _ ha _
    exact dotBlocks_int x int ha
  case lease =>
    intro s k n c
    refine ⟨fun waits none_ waiters => ?_, fun h waits holder exhausted waiters outside => ?_⟩
    · have kept := dropStale_kept waits waiters
      have step : exec .leaseGrant s = .next (passLease (dropStale s s.input.place) s.input.place) := by
        show execLeaseGrant s = _
        rw [execLeaseGrant, show (dropStale s s.input.place).input.place = s.input.place from rfl, kept]
        refine congrArg Host.Outcome.next (if_pos ?_)
        rw [none_, waiters]
        rfl
      exact ⟨_, step, passLease_sole ((congrArg Core.leaseWaiters kept).trans waiters)⟩
    · have kept := dropStale_kept waits waiters
      have step : exec .leasePass s = .next (passLease (dropStale s s.input.place) s.input.place) := by
        show execLeasePass s = _
        have wanted : passWanted (getCore s s.input.place) = true := by
          rw [passWanted, exhausted, waiters]
          exact Bool.or_true _
        have outside' : inLeaseClause (dropStale s s.input.place) h = false := by
          have only : coresOnly s (dropStale s s.input.place) := rfl
          rw [inLeaseClause_cores only, outside]
        rw [execLeasePass, show (dropStale s s.input.place).input.place = s.input.place from rfl, kept, holder]
        dsimp only
        rw [wanted, outside']
        rfl
      exact ⟨_, step, passLease_sole ((congrArg Core.leaseWaiters kept).trans waiters)⟩
  case ops =>
    rintro s o ⟨engine, id_, alone, placed, cut, open_⟩ w width tile here
    have free : uncut s o := ⟨cut, open_⟩
    refine ⟨fun acc lanes am an kind => ?_, fun acc map fmt ss zero lanes gn gk am an ak qs kind _ wide full band => ?_,
      fun acc x c2 off ring am an fmt post kind fmt0 legal rows fits => ?_⟩
    · obtain ⟨u, step, gone, mem, tiles⟩ := matrixCompletion_sole engine alone placed kind rfl rfl nofun ⟨rfl, rfl⟩ (.inr rfl)
      obtain ⟨zeros, others⟩ := accZero_tiles (s := s) (o := o) (acc := acc) (lanes := lanes) (am := am) (an := an) w.core rfl
      have tile_ (n : Nat) : tile u n = getTile (getCore (matrixEffect s o (.accZero acc lanes am an)).1 w.core) n :=
        congrArg (mapGet 0 · n) (tiles w.core)
      exact ⟨u, congrArg Host.Outcome.next ((congrArg (matrixCompletion s s.input.place) id_).trans step), gone,
        sameMemory_of_mem mem, fun r c hr hc => (tile_ _).trans (zeros r c hr hc), fun n apart => (tile_ n).trans (others n apart)⟩
    · have full' : cellsFull s (mmaCells (.mma acc map fmt ss zero lanes gn gk am an ak qs)) = true := by
        refine List.all_eq_true.mpr fun e he => List.all_eq_true.mp full e (List.mem_eraseDups.mp he)
      obtain ⟨u, step, gone, mem, tiles⟩ := matrixCompletion_sole engine alone placed kind full' rfl nofun ⟨rfl, rfl⟩ (.inl band)
      refine ⟨u, congrArg Host.Outcome.next ((congrArg (matrixCompletion s s.input.place) id_).trans step), gone,
        sameMemory_of_mem mem, fun r c hr hc => ?_⟩
      exact (congrArg (mapGet 0 · (tileKey w acc r c)) (tiles w.core)).trans (multiply_tiles o.wg fmt zero (gk / 16)
        (updatedRows lanes width am) (fun r => mapRow s o.wg map r ak) (fun c => bColumn s fmt ss gn gk c ak qs) wide hr hc)
    · have step := (congrArg (drainCompletion s s.input.place) id_).trans
        (drainCompletion_sole (core := s.input.place) engine alone placed free kind fmt0)
      obtain ⟨mem, gone, wg⟩ := drainedState_leaves (core := s.input.place) (acc := acc) (x := x) (am := am) (an := an) placed
        c2 off fmt
      have bytes (u : State) (same : u.mem = (drainedState s s.input.place o acc x c2 off am an fmt).mem) (r c : Nat)
          (hr : r < am) (hc : c < an) :
          readNat u (groupPlace c2 off + copyByte x r (4 * c)) 4 = (tile s (tileKey w acc r c)).toNat := by
        refine (readNat_congr fun i _ => ?_).trans (readNat_drained (s := s) (o := o) legal fits (groupPlace c2 off) hr hc)
        rw [readByte, readByte, same, mem]
      cases post with
      | false =>
        exact ⟨_, congrArg Host.Outcome.next step, gone, bytes _ rfl, nofun⟩
      | true =>
        refine ⟨_, congrArg Host.Outcome.next step, gone, bytes _ rfl, fun _ q ring_ there => ?_⟩
        have posted := phase_postRing (drainedState s s.input.place o acc x c2 off am an fmt) o.wg ring (by rw [wg]; exact there)
        rw [wg, show mapGet {} (getWg s o.wg).rings ring = q from ring_] at posted
        exact posted

end Sys2Proof.Proofs
end

section
/-! PROOFS. Walks, invalidations, and changes of the batt block (11 R240 to R243, 16 R308 to R310). -/

namespace Sys2Proof.Proofs

open Sys2Proof Sys2Proof.Machine Sys2Proof.Laws

/-! ## Walks (11 R232, R240) -/

/-- A leaf covers an address. -/
def covers (l : Leaf) (va : Nat) : Prop := l.va ≤ va ∧ va < l.va + l.size

theorem leafOf_covers {va size : Nat} {d0 d1 : Word} {l : Leaf} (pos : 0 < size) (h : leafOf va size d0 d1 = some l) :
    covers l va := by
  rw [leafOf] at h
  split at h
  case isFalse => exact nomatch h
  case isTrue =>
    obtain rfl : _ = l := Option.some.inj h
    exact ⟨Nat.div_mul_le_self _ _, Nat.lt_div_mul_add pos⟩

theorem walkFrom_covers {s : State} {read : Nat → Except Bool (Word × Word)} {part va : Nat} {l : Leaf} (ls : List Level)
    (sizes : ∀ lv ∈ ls, ∀ n, lv.leaf = some n → 0 < n) :
    ∀ {table ps}, walkFrom s read part va table ls = .ok (l, ps) → covers l va := by
  induction ls with
  | nil => exact fun h => nomatch h
  | cons lv rest ih =>
    intro table ps h
    rw [walkFrom] at h
    split at h
    · exact nomatch h
    split at h
    · split at h
      · split at h
        · exact nomatch h
        · next size leaf =>
          split at h
          · exact nomatch h
          · next l' found =>
            split at h
            · obtain ⟨rfl, -⟩ := Prod.mk.inj (Except.ok.inj h)
              exact leafOf_covers (sizes lv List.mem_cons_self size leaf) found
            · exact nomatch h
      · split at h
        · exact nomatch h
        · next next_ more =>
          dsimp only at h
          split at h
          · split at h
            · exact nomatch h
            · next l' ps' found =>
              obtain ⟨rfl, -⟩ := Prod.mk.inj (Except.ok.inj h)
              exact ih (fun lv hlv => sizes lv (List.mem_cons_of_mem _ hlv)) found
          · exact nomatch h
    · exact nomatch h

theorem levels_sizes : ∀ lv ∈ levels, ∀ n, lv.leaf = some n → 0 < n := by decide

theorem walkPath_covers {s : State} {read : Nat → Except Bool (Word × Word)} {die va : Nat} {asid : BitVec 16} {l : Leaf}
    {ps : List (Nat × Word)} (h : walkPath s read die asid va = .ok (l, ps)) : covers l va := by
  rw [walkPath] at h
  split at h
  · exact nomatch h
  split at h
  · split at h
    · exact nomatch h
    · next found =>
      obtain ⟨rfl, -⟩ := Prod.mk.inj (Except.ok.inj h)
      exact walkFrom_covers levels levels_sizes found
  · exact nomatch h

theorem cachedLeaf_first {s : State} {cache va n : Nat} {asid : BitVec 16} {l : Leaf} {es : List TlbEntry} (pos : 0 < n)
    (covered : covers l va) (first : getTlb s cache = ({ asid := asid, leaf := l } :: es).take n) :
    cachedLeaf s cache asid va = some l := by
  obtain ⟨m, rfl⟩ := Nat.exists_eq_succ_of_ne_zero pos.ne'
  rw [List.take_succ_cons] at first
  have hit : (asid == asid && decide (l.va ≤ va) && decide (va < l.va + l.size)) = true := by
    rw [beq_self_eq_true, decide_eq_true covered.1, decide_eq_true covered.2]
    rfl
  rw [cachedLeaf, show mapGet [] s.tlbs cache = _ from first, listFind, if_pos hit]
  rfl

/-! ## Invalidations (11 R243) -/

theorem getTlb_putTlb (s : State) (c : Nat) (es : List TlbEntry) (k : Nat) :
    getTlb (putTlb s c es) k = if k = c then es else getTlb s k := by
  by_cases h : k = c
  · rw [if_pos h, h]
    exact mapGet_put_same _ _ _ _
  · rw [if_neg h]
    exact mapGet_put_ne _ _ _ h

theorem getTlb_dropTlb (d : Die) (cs : List Nat) (k : Nat) :
    ∀ s, ∀ e ∈ getTlb (dropTlb s d cs) k, e ∈ getTlb s k ∧ (k ∈ cs → invMatches d e = false) := by
  induction cs with
  | nil => exact fun s e he => ⟨he, nofun⟩
  | cons c rest ih =>
    intro s e he
    obtain ⟨there, dropped⟩ := ih _ e he
    rw [getTlb_putTlb] at there
    by_cases h : k = c
    · rw [if_pos h] at there
      obtain ⟨there, kept⟩ := List.mem_filter.mp there
      exact ⟨h ▸ there, fun _ => by simpa using kept⟩
    · rw [if_neg h] at there
      exact ⟨there, fun hk => dropped ((List.mem_cons.mp hk).resolve_left h)⟩

/-- Entries dropped from caches leave the dies. -/
theorem dies_dropTlb (d : Die) (cs : List Nat) : ∀ s, (dropTlb s d cs).dies = s.dies := by
  induction cs with
  | nil => exact fun _ => rfl
  | cons c rest ih => exact fun s => ih _

theorem dropRecords_leaves (cs : List Nat) : ∀ s, (dropRecords s cs).dies = s.dies ∧ (dropRecords s cs).tlbs = s.tlbs := by
  induction cs with
  | nil => exact fun _ => ⟨rfl, rfl⟩
  | cons c rest ih => exact fun s => ih _

/-! ## The batt block (16 R308 to R310) -/

theorem readByte_putDie (s : State) (die : Nat) (d : Die) (p : Nat) : readByte (putDie s die d) p = readByte s p := rfl

/-- Poison marks leave every byte. -/
theorem readByte_markCells (die : Nat) (bad : List Nat) (p : Nat) : ∀ s, readByte (markCells s die bad) p = readByte s p := by
  induction bad with
  | nil => exact fun _ => rfl
  | cons i rest ih =>
    intro s
    refine (ih _).trans ?_
    rw [readByte_writeBytes]
    split
    case isFalse => rfl
    case isTrue within =>
      have bytes : (readBytes s (cellBase die + 8 * i) 8).length = 8 := by rw [readBytes, List.length_map, List.length_range]
      rw [bytes] at within
      rw [List.getD_eq_getElem _ _ (by rw [bytes]; omega)]
      simp only [readBytes, List.getElem_map, List.getElem_range]
      rw [Nat.add_sub_cancel' within.1]

theorem flatMap_words {α : Type} (f : α → Word) (xs : List α) :
    (xs.flatMap fun i => toBytes (f i).toNat 8) = wordsBytes (xs.map f) := by
  rw [wordsBytes, List.flatMap_map]

/-- A run of memory written as doublewords, each read back. -/
theorem readNat_writeWords (s : State) (p : Nat) (ws : List Word) {k : Nat} (hk : k < ws.length) :
    readNat (writeBytes s p (wordsBytes ws)) (p + 8 * k) 8 = (ws.getD k 0).toNat :=
  readNat_words (fun i hi => readByte_writeBytes_in s p _ false (by rw [length_wordsBytes]; exact hi)) hk

theorem readNat_battToMemory (s : State) (die : Nat) {i : Nat} (hi : i < 2097152) :
    readNat (battToMemory s die) (cellBase die + 8 * i) 8 = (slotValue (getCell (getDie s die) i) 0).toNat := by
  rw [battToMemory]
  refine (readNat_congr fun j _ => readByte_markCells _ _ _ _).trans ?_
  rw [flatMap_words (fun i => slotValue (getCell (getDie s die) i) 0)]
  have inside : i < ((List.range 2097152).map fun i => slotValue (getCell (getDie s die) i) 0).length := by
    rwa [List.length_map, List.length_range]
  rw [readNat_writeWords _ _ _ inside, List.getD_eq_getElem _ _ inside, List.getElem_map, List.getElem_range]

/-- Zeros written to a run of memory read as zero. -/
theorem readByte_zeros (s : State) {p n a : Nat} (low : p ≤ a) (high : a < p + n) :
    readByte (writeBytes s p (List.replicate n 0)) a = 0 := by
  rw [readByte_writeBytes, List.length_replicate, if_pos ⟨low, high⟩, List.getD_eq_getElem?_getD]
  by_cases h : a - p < n
  · rw [List.getElem?_replicate, if_pos h]
    rfl
  · omega

/-- The state in which an enabled region is zeroed (16 R309). -/
def zeroedBatt (s : State) (die : Nat) : State :=
  writeBytes (writeBytes s (cellBase die) (List.replicate cellRegionSize 0)) (headerBase die) (List.replicate battAreaSize 0)

theorem readByte_twoZeroRuns (s : State) {p q n m a : Nat} (low : q ≤ a) (meet : q + m = p) (high : a < p + n) :
    readByte (writeBytes (writeBytes s p (List.replicate n 0)) q (List.replicate m 0)) a = 0 := by
  by_cases inside : a < q + m
  · exact readByte_zeros _ low inside
  · rw [readByte_writeBytes_out _ _ _ _ (by rw [List.length_replicate]; omega)]
    exact readByte_zeros _ (by omega) high

theorem diePlace_add (die off n : Nat) : diePlace die off + n = diePlace die (off + n) := Nat.add_assoc _ _ _

theorem battArea_meets (die : Nat) : headerBase die + battAreaSize = cellBase die :=
  (diePlace_add die 0x0E400000 battAreaSize).trans (congrArg (diePlace die) (by rw [battAreaSize]))

theorem cellRegion_meets (die : Nat) : cellBase die + cellRegionSize = diePlace die 0x10000000 :=
  (diePlace_add die 0x0F000000 cellRegionSize).trans (congrArg (diePlace die) (by rw [cellRegionSize]))

theorem readByte_zeroedBatt (s : State) {die p : Nat} (low : headerBase die ≤ p) (high : p < diePlace die 0x10000000) :
    readByte (zeroedBatt s die) p = 0 :=
  readByte_twoZeroRuns s low (battArea_meets die) ((cellRegion_meets die).symm ▸ high)

/-! ## The steps -/

section
variable {s : State}

theorem translationWalk_fills {l : Leaf} {ps : List (Nat × Word)} (place : s.input.place < 816)
    (miss : cachedLeaf s s.input.place (BitVec.ofNat 16 s.input.id) s.input.value.toNat = none)
    (free : cacheWalkHeld s s.input.place (BitVec.ofNat 16 s.input.id) s.input.value.toNat = false)
    (walk : walkPath s (walkReadCached s (cacheDie s.input.place) (BitVec.ofNat 16 s.input.id)) (cacheDie s.input.place)
      (BitVec.ofNat 16 s.input.id) s.input.value.toNat = .ok (l, ps)) :
    ∃ u, exec .translationWalk s = .next u ∧ sameMemory s u ∧
      cachedLeaf u s.input.place (BitVec.ofNat 16 s.input.id) s.input.value.toNat = some l := by
  have step : exec .translationWalk s = .next (putTlb (putDie s (cacheDie s.input.place)
      { getDie s (cacheDie s.input.place) with
        walk := cachePointers (BitVec.ofNat 16 s.input.id) ps (getDie s (cacheDie s.input.place)).walk })
      s.input.place (({ asid := BitVec.ofNat 16 s.input.id, leaf := l } :: getTlb s s.input.place).take
        (tlbSize s.input.place))) := by
    refine congrArg Host.Outcome.next ((if_neg (Nat.not_le.mpr place)).trans ((if_neg (by rw [free]; decide)).trans ?_))
    rw [translationWalk, miss]
    dsimp only
    rw [walk]
    rfl
  refine ⟨_, step, fun _ => rfl, cachedLeaf_first (n := tlbSize s.input.place) ?_ (walkPath_covers walk)
    ((getTlb_putTlb _ _ _ _).trans (if_pos rfl))⟩
  rw [tlbSize]
  split <;> decide

theorem invRequest_starts {i : Instr} {kind : BitVec 2} (place : s.input.place < 24) (free : (getDie s s.input.place).invBusy = false)
    (known : kind ≠ 3) : ∃ u, invRequest s i kind = u ∧ (getDie u s.input.place).invBusy = true ∧
      (getDie u s.input.place).invKind = kind ∧ (getDie u s.input.place).invAsid = BitVec.ofNat 16 s.input.value.toNat ∧
      (getDie u s.input.place).invAddr = (getDie s s.input.place).invva ∧
      u.due = s.due ++ [.event .invalidationComplete { place := s.input.place }] := by
  have step : invRequest s i kind = later (putDie s s.input.place { getDie s s.input.place with
      invBusy := true, invKind := kind, invAsid := BitVec.ofNat 16 s.input.value.toNat,
      invAddr := (getDie s s.input.place).invva, invBy := s.input.id }) (.event .invalidationComplete { place := s.input.place }) :=
    (if_neg (Nat.not_le.mpr place)).trans ((if_neg (by rw [free]; decide)).trans (if_neg known))
  have die := getDie_putDie s s.input.place { getDie s s.input.place with
      invBusy := true, invKind := kind, invAsid := BitVec.ofNat 16 s.input.value.toNat,
      invAddr := (getDie s s.input.place).invva, invBy := s.input.id }
  exact ⟨_, step, congrArg Die.invBusy die, congrArg Die.invKind die, congrArg Die.invAsid die, congrArg Die.invAddr die, rfl⟩

theorem busyFalls_leaves (u : State) (by_ : Nat) : getDie (busyFalls u by_) = getDie u ∧ (busyFalls u by_).tlbs = u.tlbs ∧
    (busyFalls u by_).mem = u.mem := ⟨rfl, rfl, rfl⟩

/-- A die's caches without what an invalidation drops, and its cores' record caches too where it drops everything. -/
def dropped (s t : State) (die : Nat) : State :=
  let u := dropTlb t (getDie s die) (dieCaches die)
  if (getDie s die).invKind = 2 then dropRecords u ((List.range 32).map fun i => 32 * die + i) else u

theorem dropped_leaves (t : State) (die : Nat) : getDie (dropped s t die) = getDie t ∧
    (dropped s t die).tlbs = (dropTlb t (getDie s die) (dieCaches die)).tlbs := by
  have dies (u : State) (h : u.dies = t.dies) : getDie u = getDie t := by
    funext k
    rw [getDie, getDie, h]
  rw [dropped]
  split
  · obtain ⟨d, tlbs⟩ := dropRecords_leaves ((List.range 32).map fun i => 32 * die + i) (dropTlb t (getDie s die) (dieCaches die))
    exact ⟨dies _ (d.trans (dies_dropTlb _ _ _)), tlbs⟩
  · exact ⟨dies _ (dies_dropTlb _ _ _), rfl⟩

theorem invalidationComplete_drops {die : Nat} (busy : (getDie s die).invBusy = true)
    (settled : (invContexts s die).any (unsettled (settleAll s (invContexts s die))) = false) :
    ∃ u, invalidationComplete s die = u ∧ (getDie u die).invBusy = false ∧
      (∀ cache ∈ dieCaches die, ∀ e ∈ getTlb u cache, invMatches (getDie s die) e = false) ∧
      (invContexts s die = [] → (getDie u die).invCount = (getDie s die).invCount + 1) := by
  let t := settleAll s (invContexts s die)
  have step : invalidationComplete s die = busyFalls (putDie (dropped s t die) die { getDie (dropped s t die) die with
      walk := (getDie (dropped s t die) die).walk.filter fun w => !invMatchesWalk (getDie s die) w
      invBusy := false, invCount := (getDie (dropped s t die) die).invCount + 1 }) (getDie s die).invBy :=
    (if_pos busy).trans (if_neg (by rw [settled]; decide))
  have die_ := getDie_putDie (dropped s t die) die { getDie (dropped s t die) die with
      walk := (getDie (dropped s t die) die).walk.filter fun w => !invMatchesWalk (getDie s die) w
      invBusy := false, invCount := (getDie (dropped s t die) die).invCount + 1 }
  obtain ⟨dies, tlbs⟩ := dropped_leaves (s := s) t die
  refine ⟨_, step, congrArg Die.invBusy die_, fun cache hc e he => ?_, fun none_ => ?_⟩
  · have there : e ∈ getTlb (dropTlb t (getDie s die) (dieCaches die)) cache := by
      rw [getTlb, ← tlbs]
      exact he
    exact (getTlb_dropTlb _ _ _ _ e there).2 hc
  · refine (congrArg Die.invCount die_).trans ?_
    show (getDie (dropped s t die) die).invCount + 1 = _
    rw [dies, show t = s from congrArg (settleAll s) none_]

theorem battDisable_writes {by_ die : Nat} (on : (getDie s die).battEn = true) (none_ : battContexts s die = []) :
    changeBatt s die false by_ = some (battBegins (battToMemory s die) die false by_) := by
  rw [changeBatt, on, none_]
  rfl

theorem battBegins_reads (t : State) (die by_ : Nat) (en : Bool) : (getDie (battBegins t die en by_) die).battEn = en ∧
    (getDie (battBegins t die en by_) die).battBusy = true ∧ ∀ p, readByte (battBegins t die en by_) p = readByte t p := by
  have die_ := getDie_putDie t die { getDie t die with battEn := en, battBusy := true, battBy := by_ }
  exact ⟨congrArg Die.battEn die_, congrArg Die.battBusy die_, fun _ => rfl⟩

/-- What a block's end leaves, once BUSY falls. -/
theorem busyDone_reads (t : State) (die by_ : Nat) :
    let u := busyFalls (putDie t die { getDie t die with battBusy := false }) by_
    (getDie u die).battBusy = false ∧ (getDie u die).cells = (getDie t die).cells ∧ ∀ p, readByte u p = readByte t p := by
  have die_ : getDie (busyFalls (putDie t die { getDie t die with battBusy := false }) by_) die =
      { getDie t die with battBusy := false } := getDie_putDie t die _
  exact ⟨congrArg Die.battBusy die_, by rw [die_], fun _ => rfl⟩

/-- The state in which a change of EN is done (16 R309), but for BUSY. -/
def battChanged (s : State) (die : Nat) : State :=
  if (getDie s die).battEn then
    let u := zeroedBatt (settleAll s (battContexts s die)) die
    putDie u die { getDie u die with cells := [], freed := [], fresh := 1 }
  else s

theorem battChanged_cells {die : Nat} (on : (getDie s die).battEn = true) : (getDie (battChanged s die) die).cells = [] := by
  rw [battChanged, if_pos on, getDie_putDie]

theorem battChanged_zeros {die p : Nat} (on : (getDie s die).battEn = true) (low : headerBase die ≤ p)
    (high : p < diePlace die 0x10000000) : readByte (battChanged s die) p = 0 := by
  rw [battChanged, if_pos on, readByte_putDie]
  exact readByte_zeroedBatt _ low high

theorem battChangeDone_ends {die : Nat} (busy : (getDie s die).battBusy = true)
    (quiet : (getDie s die).battEn = true → engineTouchesBatt s die = false ∧
      (battContexts s die).any (unsettled (settleAll s (battContexts s die))) = false) :
    battChangeDone s die = busyFalls (putDie (battChanged s die) die { getDie (battChanged s die) die with battBusy := false })
      (getDie (battChanged s die) die).battBy := by
  refine (if_pos busy).trans (if_neg ?_)
  cases on : (getDie s die).battEn with
  | false => exact Bool.false_ne_true
  | true =>
    rw [(quiet on).1, (quiet on).2]
    exact Bool.false_ne_true

end

/-- Settles O48: a leaf covers the address of its walk, and the runs written to memory read back. -/
theorem translationAndBattChange : Obligations.TranslationAndBattChange := by
  refine ⟨fun s => ⟨fun l ps => translationWalk_fills, fun place free => ⟨?page, ?asid, ?all⟩, fun place busy settled => ?done⟩,
    ?batt⟩
  case batt =>
    intro s die d below
    refine ⟨fun free off => ?_, fun free on none_ => ?_, fun busy quiet => ?change⟩
    case change =>
      obtain ⟨idle, cells, bytes⟩ := busyDone_reads (battChanged s die) die (getDie (battChanged s die) die).battBy
      refine ⟨_, congrArg Host.Outcome.next ((if_pos below).trans (battChangeDone_ends busy quiet)), idle,
        fun on => ⟨fun i => ?_, fun p low high => (bytes p).trans ?_⟩⟩
      · rw [getCell, cells, battChanged_cells on]
        rfl
      · exact battChanged_zeros on low high
    · have step : battRequest s .battEnable true = battBegins s die true s.input.id := by
        rw [battRequest]
        refine (if_neg (Nat.not_le.mpr below)).trans ((if_neg (by rw [free]; decide)).trans ?_)
        rw [changeBatt, show (getDie s s.input.place).battEn = false from off]
        rfl
      obtain ⟨on, busy, bytes⟩ := battBegins_reads s die s.input.id true
      exact ⟨_, congrArg Host.Outcome.next step, bytes, on, busy⟩
    · have step : battRequest s .battDisable false = battBegins (battToMemory s die) die false s.input.id := by
        rw [battRequest]
        refine (if_neg (Nat.not_le.mpr below)).trans ((if_neg (by rw [free]; decide)).trans ?_)
        rw [battDisable_writes on none_]
        rfl
      obtain ⟨off, busy, bytes⟩ := battBegins_reads (battToMemory s die) die s.input.id false
      exact ⟨_, congrArg Host.Outcome.next step, off, busy,
        fun i hi => (readNat_congr fun _ _ => bytes _).trans (readNat_battToMemory s die hi)⟩
  case page =>
    obtain ⟨u, step, rest⟩ := invRequest_starts (i := .invalidatePage) (kind := 0) place free (by decide)
    exact ⟨u, congrArg Host.Outcome.next step, rest⟩
  case asid =>
    obtain ⟨u, step, rest⟩ := invRequest_starts (i := .invalidateAsid) (kind := 1) place free (by decide)
    exact ⟨u, congrArg Host.Outcome.next step, rest⟩
  case all =>
    obtain ⟨u, step, rest⟩ := invRequest_starts (i := .invalidateAll) (kind := 2) place free (by decide)
    exact ⟨u, congrArg Host.Outcome.next step, rest⟩
  case done =>
    obtain ⟨u, step, rest⟩ := invalidationComplete_drops busy settled
    exact ⟨u, congrArg Host.Outcome.next ((if_pos place).trans step), rest⟩

end Sys2Proof.Proofs
end

section
/-! PROOFS. Launches are decided, queued, placed, completed and killed (14 R274 to R284). -/

namespace Sys2Proof.Proofs

open Sys2Proof Sys2Proof.Machine Sys2Proof.Laws

/-! ## Partitions, launches and queues -/

section
variable (s : State) (p : Partition)

theorem getPart_putPart (k : Nat) (x : Partition) : getPart (putPart s k x) k = x := mapGet_put_same _ _ _ _

theorem getPart_putPart_ne {k j : Nat} (x : Partition) (h : j ≠ k) : getPart (putPart s k x) j = getPart s j :=
  mapGet_put_ne _ _ _ h

theorem getLaunch_putLaunch (n : Nat) (l : Launch) : getLaunch (putLaunch p n l) n = l := mapGet_put_same _ _ _ _

theorem getLaunch_putLaunch_ne {n m : Nat} (l : Launch) (h : m ≠ n) : getLaunch (putLaunch p n l) m = getLaunch p m :=
  mapGet_put_ne _ _ _ h

theorem getQueue_putQueue (prio : Nat) (q : List Nat) : getQueue (putQueue p prio q) prio = q := mapGet_put_same _ _ _ _

theorem getQueue_putQueue_ne {prio other : Nat} (q : List Nat) (h : other ≠ prio) :
    getQueue (putQueue p prio q) other = getQueue p other := mapGet_put_ne _ _ _ h

end

/-! ## Queue entries (R280) -/

/-- Whether a launch may enter its queue. -/
def mayQueue (p : Partition) (l : Launch) : Bool := l.live && !l.queued && !l.ending && unplaced l && depsDone p l

section
variable {s : State} {part id : Nat}

/-- A partition in which a launch has entered the tail of its queue. -/
def queuedPart (s : State) (p : Partition) (id : Nat) : Partition :=
  let l := getLaunch p id
  putQueue (putLaunch p id { l with queued := true, headSince := s.time }) (recPrio l.record)
    (getQueue p (recPrio l.record) ++ [id])

theorem enterQueue_eq : enterQueue s part id =
    if mayQueue (getPart s part) (getLaunch (getPart s part) id) then putPart s part (queuedPart s (getPart s part) id) else s :=
  rfl

theorem getLaunch_queuedPart (p : Partition) : getLaunch (queuedPart s p id) id =
    { getLaunch p id with queued := true, headSince := s.time } := mapGet_put_same _ _ _ _

theorem getLaunch_queuedPart_ne (p : Partition) {n : Nat} (h : n ≠ id) : getLaunch (queuedPart s p id) n = getLaunch p n :=
  mapGet_put_ne _ _ _ h

/-- What a queue entry leaves of a launch, and of its partition. -/
theorem enterQueue_leaves (n : Nat) : (getPart (enterQueue s part id) part).issued = (getPart s part).issued ∧
    (getPart (enterQueue s part id) part).done = (getPart s part).done ∧
    (getLaunch (getPart (enterQueue s part id) part) n).live = (getLaunch (getPart s part) n).live ∧
    (getLaunch (getPart (enterQueue s part id) part) n).record = (getLaunch (getPart s part) n).record ∧
    (enterQueue s part id).mem = s.mem ∧ getCtx (enterQueue s part id) = getCtx s := by
  rw [enterQueue_eq]
  split
  case isFalse => exact ⟨rfl, rfl, rfl, rfl, rfl, rfl⟩
  case isTrue =>
    rw [getPart_putPart]
    by_cases h : n = id
    · subst h
      rw [getLaunch_queuedPart]
      exact ⟨rfl, rfl, rfl, rfl, rfl, rfl⟩
    · rw [getLaunch_queuedPart_ne _ h]
      exact ⟨rfl, rfl, rfl, rfl, rfl, rfl⟩

theorem enterReady_leaves (n : Nat) (ids : List Nat) : ∀ s, (getPart (enterReady s part ids) part).done = (getPart s part).done ∧
    (getLaunch (getPart (enterReady s part ids) part) n).live = (getLaunch (getPart s part) n).live ∧
    (enterReady s part ids).mem = s.mem := by
  induction ids with
  | nil => exact fun _ => ⟨rfl, rfl, rfl⟩
  | cons id rest ih =>
    intro s
    obtain ⟨-, done, live, -, mem, -⟩ := enterQueue_leaves (s := s) (part := part) (id := id) n
    obtain ⟨done', live', mem'⟩ := ih (enterQueue s part id)
    exact ⟨done'.trans done, live'.trans live, mem'.trans mem⟩

end

theorem attemptDue_reads (t : State) (part : Nat) : getPart (attemptDue t part) = getPart t ∧ (attemptDue t part).mem = t.mem ∧
    getCtx (attemptDue t part) = getCtx t := ⟨rfl, rfl, rfl⟩

/-! ## Decisions (R274, R275) -/

section
variable {s : State} {key : Nat} {o : MemOp} {x : LaunchRead}

/-- What the carder finds of a launch. -/
def decision (s : State) (key : Nat) (x : LaunchRead) : Except Nat (List Word × List Word) :=
  refusalCode s (partOf s (keyDie key)) (fun r => if x.ctxForm then recContext r else (getCtx s key).context) x

/-- The context in which the carder has filled S[d]. -/
def decidedCtx (c : Ctx) (o : MemOp) (v : Word) : Ctx := putS (dropOp c o.id) o.dst { val := v }

theorem carderDecision_refuses {code : Nat} (ops : (getCtx s key).ops = [o]) (kind : o.kind = .launch x)
    (refused : decision s key x = .error code) :
    carderDecision s key o.id = putCtx s key (decidedCtx (getCtx s key) o (refusalWord code)) := by
  rw [carderDecision, findOp_sole ops]
  dsimp only
  rw [kind]
  dsimp only
  rw [show refusalCode s _ _ x = _ from refused]
  rfl

/-- The state in which a launch is accepted, with its identifier in S[d], before it enters its queue. -/
def acceptedState (s : State) (key : Nat) (o : MemOp) (x : LaunchRead) (r roles : List Word) : State :=
  let part := partOf s (keyDie key)
  let n := (getPart s part).issued + 1
  let t := putPart { s with drawn := s.drawn + 1 } part
    (putLaunch { getPart s part with issued := n } n (newLaunch s (getCtx s key) key x r roles))
  putCtx t key (decidedCtx (getCtx s key) o (BitVec.ofNat 64 n))

theorem carderDecision_accepts {r roles : List Word} (ops : (getCtx s key).ops = [o]) (kind : o.kind = .launch x)
    (quiet : s.sessions = []) (accepted : decision s key x = .ok (r, roles)) :
    carderDecision s key o.id = attemptDue (enterQueue (acceptedState s key o x r roles) (partOf s (keyDie key))
      ((getPart s (partOf s (keyDie key))).issued + 1)) (partOf s (keyDie key)) := by
  have unmarked (part : Nat) (asid : BitVec 16) (va : Word) (l : Launch) : useMarks s part asid va l = (s, l) := by
    rw [useMarks, quiet]
    rfl
  rw [carderDecision, findOp_sole ops]
  dsimp only
  rw [kind]
  dsimp only
  rw [show refusalCode s _ _ x = _ from accepted]
  dsimp only
  rw [unmarked]
  rfl

theorem acceptedState_launch (r roles : List Word) :
    getPart (acceptedState s key o x r roles) (partOf s (keyDie key)) =
      putLaunch { getPart s (partOf s (keyDie key)) with issued := (getPart s (partOf s (keyDie key))).issued + 1 }
        ((getPart s (partOf s (keyDie key))).issued + 1) (newLaunch s (getCtx s key) key x r roles) :=
  getPart_putPart _ _ _

end

/-! ## Completions (R278, R279) -/

section
variable {s : State} {part id : Nat}

/-- The partition of a launch that has completed. -/
def completedPart (t : State) (part id : Nat) (l : Launch) (fault : Bool) : Partition :=
  let p := getPart t part
  let p := replaceQueue p t.time (recPrio l.record) ((getQueue p (recPrio l.record)).filter (· != id))
  { p with launches := mapErase p.launches id, done := ((id, statusWordOf l fault) :: p.done).take 65536 }

theorem launchCompletion_ends (q : Requester) (key : q = ⟨systemBase + 2 * (partDies s part).headD 0, (getLaunch (getPart s part) id).user,
      (getLaunch (getPart s part) id).asid, false⟩)
    (may : mayComplete s part id = true) (gone : launchWgs s part id = [])
    (free : recDone (getLaunch (getPart s part) id).record = 0 ∨
      carderHeld s q (recDone (getLaunch (getPart s part) id).record) 8 = false) :
    let l := getLaunch (getPart s part) id
    let counted := if recDone l.record = 0 then some s else countDone s q (recDone l.record)
    let p := completedPart (counted.getD s) part id l counted.isNone
    launchCompletion s part id =
      attemptDue (enterReady (putPart (counted.getD s) part p) part (p.launches.map Prod.fst)) part := by
  intro l counted p
  subst key
  have ready : (!mayComplete s part id || (recDone l.record != 0 && carderHeld s
      ⟨systemBase + 2 * (partDies s part).headD 0, l.user, l.asid, false⟩ (recDone l.record) 8 &&
        !carderCut s ⟨systemBase + 2 * (partDies s part).headD 0, l.user, l.asid, false⟩ (recDone l.record) 8)) = false := by
    rw [may]
    obtain none_ | open_ := free
    · rw [show recDone l.record = 0 from none_]
      rfl
    · rw [show carderHeld s _ (recDone l.record) 8 = false from open_, Bool.and_false]
      rfl
  have counts : (if recDone l.record = 0 then some s
      else if carderCut s ⟨systemBase + 2 * (partDies s part).headD 0, l.user, l.asid, false⟩ (recDone l.record) 8 then none
      else countDone s ⟨systemBase + 2 * (partDies s part).headD 0, l.user, l.asid, false⟩ (recDone l.record)) = counted := by
    obtain none_ | open_ := free
    · exact (if_pos none_).trans (if_pos none_).symm
    · have uncut : carderCut s { key := systemBase + 2 * (partDies s part).headD 0, user := l.user, asid := l.asid }
          (recDone l.record) 8 = false := by
        rw [carderCut, show carderHeld s _ (recDone l.record) 8 = false from open_, Bool.and_false]
      rw [uncut]
      rfl
  rw [launchCompletion]
  refine (if_neg (by rw [ready]; exact Bool.false_ne_true)).trans ?_
  rw [gone, removeWgs]
  exact congrArg (fun c : Option State => attemptDue (enterReady (putPart (c.getD s) part
    (completedPart (c.getD s) part id l c.isNone)) part ((completedPart (c.getD s) part id l c.isNone).launches.map Prod.fst))
      part) counts

theorem completedPart_gone (t : State) (l : Launch) (fault : Bool) :
    getLaunch (completedPart t part id l fault) id = {} := mapGet_erase_same _ _ _

end

/-! ## Placements (R281, R285) -/

/-- Contexts put change the contexts alone. -/
theorem putCtxs_only (es : List (Nat × Ctx)) : ∀ s, putCtxs s es = { s with ctxs := (putCtxs s es).ctxs } := by
  induction es with
  | nil => exact fun _ => rfl
  | cons e rest ih => exact fun s => (ih _).trans rfl

theorem getCtx_putCtxs_out {k : Nat} (es : List (Nat × Ctx)) (apart : k ∉ es.map Prod.fst) :
    ∀ s, getCtx (putCtxs s es) k = getCtx s k := by
  induction es with
  | nil => exact fun _ => rfl
  | cons e rest ih =>
    intro s
    obtain ⟨other, later⟩ := not_or.mp (mt List.mem_cons.mpr apart)
    exact (ih later _).trans (getCtx_putCtx_ne _ _ other)

theorem getCtx_putCtxs_in {k : Nat} {c : Ctx} (es : List (Nat × Ctx)) (once : (es.map Prod.fst).Nodup) (there : (k, c) ∈ es) :
    ∀ s, getCtx (putCtxs s es) k = c := by
  induction es with
  | nil => exact nomatch there
  | cons e rest ih =>
    intro s
    obtain ⟨new, once⟩ := List.nodup_cons.mp once
    obtain rfl | later := List.mem_cons.mp there
    · exact (getCtx_putCtxs_out rest new _).trans (getCtx_putCtx _ _ _)
    · exact ih once later _

/-- A launch but for what its log has come to. -/
def unlogged (l : Launch) : Launch := { l with replayed := [], logNext := 0 }

/-- State u comes from state s by what logs have come to: bytes of memory, and how far each log is. -/
structure LogsOnly (s u : State) : Prop where
  ctxs : u.ctxs = s.ctxs
  wgs : u.wgs = s.wgs
  queues : ∀ k, (getPart u k).queues = (getPart s k).queues
  launches : ∀ k n, unlogged (getLaunch (getPart u k) n) = unlogged (getLaunch (getPart s k) n)

theorem LogsOnly.trans {s t u : State} (h : LogsOnly s t) (h' : LogsOnly t u) : LogsOnly s u :=
  ⟨h'.ctxs.trans h.ctxs, h'.wgs.trans h.wgs, fun k => (h'.queues k).trans (h.queues k),
    fun k n => (h'.launches k n).trans (h.launches k n)⟩

theorem LogsOnly.refl (s : State) : LogsOnly s s := ⟨rfl, rfl, fun _ => rfl, fun _ _ => rfl⟩

theorem LogsOnly.of_parts {s u : State} (ctxs : u.ctxs = s.ctxs) (wgs : u.wgs = s.wgs) (parts : u.parts = s.parts) :
    LogsOnly s u :=
  ⟨ctxs, wgs, fun k => by rw [getPart, getPart, parts], fun k n => by rw [getPart, getPart, parts]⟩

theorem updLaunch_logs (s : State) (key : Nat) (f : Launch → Launch) (logs : ∀ l, unlogged (f l) = unlogged l) :
    LogsOnly s (updLaunch s key f) := by
  refine ⟨rfl, rfl, fun k => ?_, fun k n => ?_⟩ <;> rw [updLaunch] <;> by_cases h : k = partOf s (keyDie key)
  · rw [h, getPart_putPart]
    rfl
  · rw [getPart_putPart_ne _ _ h]
  · rw [h, getPart_putPart]
    by_cases m : n = (getCtx s key).launchid.toNat
    · rw [m, getLaunch_putLaunch, logs]
    · rw [getLaunch_putLaunch_ne _ _ m]
  · rw [getPart_putPart_ne _ _ h]

theorem mainWrite_logs (s : State) (p a slot : Nat) (bs : List Byte) (bad : Bool) : LogsOnly s (mainWrite s p a slot bs bad).1 := by
  rw [mainWrite]
  split_ifs <;> exact .of_parts rfl rfl rfl

theorem postWrite_logs (s : State) (pa slot : Nat) (bs : List Byte) : LogsOnly s (postWrite s pa slot bs) := by
  rw [postWrite]
  split
  · exact .refl s
  · split
    · exact .of_parts rfl rfl rfl
    · exact mainWrite_logs _ _ _ _ _ _

theorem recordEvent_logs (s : State) (m : Mark) (v : Word) : LogsOnly s (recordEvent s m v) := by
  rw [recordEvent]
  dsimp only
  split
  case isFalse => exact .refl s
  case isTrue =>
    refine LogsOnly.trans ?_ (updLaunch_logs _ _ _ fun _ => rfl)
    rw [writeOwnKey]
    split
    · exact postWrite_logs _ _ _ _
    · exact (postWrite_logs _ _ _ _).trans (postWrite_logs _ _ _ _)

theorem recordAll_logs (es : List (Mark × Word)) : ∀ s, LogsOnly s (recordAll s es) := by
  induction es with
  | nil => exact .refl
  | cons e rest ih => exact fun s => (recordEvent_logs s e.1 e.2).trans (ih _)

theorem meetMarks_logs (es : List (Mark × Word)) : ∀ s, LogsOnly s (meetMarks s es) := by
  induction es with
  | nil => exact .refl
  | cons e rest ih =>
    intro s
    rw [meetMarks]
    split
    · refine LogsOnly.trans (updLaunch_logs _ _ _ ?_) (ih _)
      exact fun _ => rfl
    · exact ih s

section
variable {s : State} {part id : Nat}

/-- The state in which a launch's next workgroup stands at its place, before its log is told (R284, R263, 20 R398). -/
def placedState (s : State) (part id wgid core : Nat) (f : Fit) (keys : List Nat) : State :=
  let l := getLaunch (getPart s part) id
  let k := s.nextWgKey
  let w : Workgroup :=
    { live := true, part := part, launch := BitVec.ofNat 64 id, wgid := BitVec.ofNat 64 wgid, core := core,
      gbase := 4096 * f.granule, glen := 4096 * recGranules l.record, tiles := f.tiles, rings := launchRings l,
      warps := keys, placedAt := k }
  let t := clearBytes s (groupPlace core w.gbase) w.glen
  let t := putCore (putWg { t with nextWgKey := k + 1 } k w) core (takeOnCore (getCore t core) k f keys)
  let t := putCtxs t (keys.zipIdx.map fun e => (e.1, entryWarp l id wgid k e.2 (getCtx t e.1).nextOp))
  let p := getPart t part
  putPart t part (putLaunch p id { l with
    nextWg := l.nextWg + 1, wgs := l.wgs ++ [k], headSince := t.time,
    cursor := if l.firstWave then core + 1 else l.cursor })

theorem placeNew_logs (wgid core : Nat) (f : Fit) (keys : List Nat) :
    LogsOnly (placedState s part id wgid core f keys) (placeNew s part id wgid core f keys) :=
  (meetMarks_logs (placementMarks keys) (placedState s part id wgid core f keys)).trans
    (recordAll_logs (placementMarks keys) _)

/-- What a placement leaves of its launch and its queues. -/
theorem placedState_reads (wgid core : Nat) (f : Fit) (keys : List Nat) :
    let t := placedState s part id wgid core f keys
    let l := getLaunch (getPart s part) id
    (getPart t part).queues = (getPart s part).queues ∧
      (getLaunch (getPart t part) id).nextWg = l.nextWg + 1 ∧ (getLaunch (getPart t part) id).ending = l.ending ∧
      (getLaunch (getPart t part) id).returned = l.returned ∧ (getLaunch (getPart t part) id).record = l.record := by
  intro t l
  have same : getPart t part = putLaunch (getPart s part) id { l with
      nextWg := l.nextWg + 1, wgs := l.wgs ++ [s.nextWgKey], headSince := s.time,
      cursor := if l.firstWave then core + 1 else l.cursor } := by
    refine (getPart_putPart _ _ _).trans ?_
    rw [putCtxs_only]
    rfl
  rw [same, getLaunch_putLaunch]
  exact ⟨rfl, rfl, rfl, rfl, rfl⟩

theorem placedState_wg (wgid core : Nat) (f : Fit) (keys : List Nat) :
    let w := getWg (placedState s part id wgid core f keys) s.nextWgKey
    w.live = true ∧ w.core = core ∧ w.wgid = BitVec.ofNat 64 wgid ∧ w.warps = keys := by
  intro w
  have wgs : (placedState s part id wgid core f keys).wgs = mapPut {} s.wgs s.nextWgKey {
      live := true, part := part, launch := BitVec.ofNat 64 id, wgid := BitVec.ofNat 64 wgid, core := core,
      gbase := 4096 * f.granule, glen := 4096 * recGranules (getLaunch (getPart s part) id).record, tiles := f.tiles,
      rings := launchRings (getLaunch (getPart s part) id), warps := keys, placedAt := s.nextWgKey } := by
    show (putCtxs _ _).wgs = _
    rw [putCtxs_only]
    rfl
  have same : w = mapGet {} (placedState s part id wgid core f keys).wgs s.nextWgKey := rfl
  rw [wgs, mapGet_put_same] at same
  rw [same]
  exact ⟨rfl, rfl, rfl, rfl⟩

theorem placedState_warps (wgid core : Nat) (f : Fit) {keys : List Nat} (once : keys.Nodup) {i k : Nat} (hk : keys[i]? = some k) :
    getCtx (placedState s part id wgid core f keys) k =
      entryWarp (getLaunch (getPart s part) id) id wgid s.nextWgKey i (getCtx s k).nextOp := by
  have names (g : Nat × Nat → Ctx) : (keys.zipIdx.map fun e => (e.1, g e)).map Prod.fst = keys := by
    rw [List.map_map]
    exact List.zipIdx_map_fst 0 keys
  have there (g : Nat × Nat → Ctx) : (k, g (k, i)) ∈ keys.zipIdx.map fun e => (e.1, g e) :=
    List.mem_map.mpr ⟨(k, i), List.mem_zipIdx_iff_getElem?.mpr hk, rfl⟩
  exact getCtx_putCtxs_in _ ((names _).symm ▸ once) (there fun e =>
    entryWarp (getLaunch (getPart s part) id) id wgid s.nextWgKey e.2 (getCtx s e.1).nextOp) _

/-! ## A placement attempt (R281) -/

theorem serveQueue_empty {prio : Nat} (empty : getQueue (getPart s part) prio = []) (n : Nat) : serveQueue part prio n s = s := by
  cases n with
  | zero => rfl
  | succ n => rw [serveQueue, empty]

theorem watchHead_empty {prio : Nat} (empty : getQueue (getPart s part) prio = []) : watchHead part s prio = s := by
  rw [watchHead, empty]

/-- A launch that has placed all of its workgroups leaves its queue, of which it was the only one. -/
theorem serveQueue_pops {prio m : Nat} (only : getQueue (getPart s part) prio = [id])
    (going : (getLaunch (getPart s part) id).ending = false) (placed : unplaced (getLaunch (getPart s part) id) = false) :
    serveQueue part prio (m + 1) s = popQueue s part prio ∧ getQueue (getPart (popQueue s part prio) part) prio = [] ∧
      (∀ q, q ≠ prio → getQueue (getPart (popQueue s part prio) part) q = getQueue (getPart s part) q) ∧
      (getLaunch (getPart (popQueue s part prio) part) id).nextWg = (getLaunch (getPart s part) id).nextWg ∧
      (popQueue s part prio).ctxs = s.ctxs ∧ (popQueue s part prio).wgs = s.wgs := by
  have popped : popQueue s part prio = putPart s part (putQueue (putLaunch (getPart s part) id
      { getLaunch (getPart s part) id with queued := false }) prio []) := by
    rw [popQueue, only]
    rfl
  have empty : getQueue (getPart (popQueue s part prio) part) prio = [] := by
    rw [popped, getPart_putPart, getQueue_putQueue]
  refine ⟨?_, empty, fun q other => ?_, ?_, ?_, ?_⟩
  · rw [serveQueue, only]
    dsimp only
    rw [going, placed]
    exact serveQueue_empty empty m
  · rw [popped, getPart_putPart, getQueue_putQueue_ne _ _ other]
    rfl
  · rw [popped, getPart_putPart]
    have same : getLaunch (putQueue (putLaunch (getPart s part) id { getLaunch (getPart s part) id with queued := false }) prio [])
        id = { getLaunch (getPart s part) id with queued := false } := getLaunch_putLaunch _ _ _
    rw [same]
  · rw [popped]
    rfl
  · rw [popped]
    rfl

theorem serveQueues_empty (prios : List Nat) (empty : ∀ q ∈ prios, getQueue (getPart s part) q = []) :
    serveQueues part prios s = s := by
  induction prios with
  | nil => rfl
  | cons q rest ih =>
    rw [serveQueues, serveQueue_empty (empty q List.mem_cons_self)]
    exact ih fun q hq => empty q (List.mem_cons_of_mem _ hq)

theorem watchHeads_empty (prios : List Nat) (empty : ∀ q ∈ prios, getQueue (getPart s part) q = []) :
    prios.foldl (watchHead part) s = s := by
  induction prios with
  | nil => rfl
  | cons q rest ih =>
    rw [List.foldl_cons, watchHead_empty (empty q List.mem_cons_self)]
    exact ih fun q hq => empty q (List.mem_cons_of_mem _ hq)

section
variable {c : Nat} {f : Fit} {keys : List Nat}

/-- The last workgroup of the only launch of a queue is placed, and the launch leaves its queue. -/
theorem serveQueue_places {prio : Nat} (only : getQueue (getPart s part) prio = [id])
    (going : (getLaunch (getPart s part) id).ending = false) (fresh : (getLaunch (getPart s part) id).returned = [])
    (last : (getLaunch (getPart s part) id).nextWg + 1 = recGrid (getLaunch (getPart s part) id).record)
    (chosen : choosePlace s part id (getLaunch (getPart s part) id).nextWg false = some (c, f, keys)) (m : Nat) :
    let t := placeNew s part id (getLaunch (getPart s part) id).nextWg c f keys
    serveQueue part prio (m + 1 + 1) s = popQueue t part prio ∧ getQueue (getPart (popQueue t part prio) part) prio = [] ∧
      (∀ q, q ≠ prio → getQueue (getPart (popQueue t part prio) part) q = getQueue (getPart s part) q) ∧
      (getLaunch (getPart (popQueue t part prio) part) id).nextWg = recGrid (getLaunch (getPart s part) id).record ∧
      (popQueue t part prio).ctxs = (placedState s part id (getLaunch (getPart s part) id).nextWg c f keys).ctxs ∧
      (popQueue t part prio).wgs = (placedState s part id (getLaunch (getPart s part) id).nextWg c f keys).wgs := by
  intro t
  obtain ⟨queues, next, ending, returned, record⟩ := placedState_reads (s := s) (part := part) (id := id)
    (getLaunch (getPart s part) id).nextWg c f keys
  have logs := placeNew_logs (s := s) (part := part) (id := id) (getLaunch (getPart s part) id).nextWg c f keys
  have launch := logs.launches part id
  have queue (q : Nat) : getQueue (getPart t part) q = getQueue (getPart s part) q := by
    rw [getQueue, getQueue, logs.queues part, queues]
  have going' : (getLaunch (getPart t part) id).ending = false :=
    (congrArg Launch.ending launch).trans (ending.trans going)
  have next' : (getLaunch (getPart t part) id).nextWg = recGrid (getLaunch (getPart s part) id).record :=
    (congrArg Launch.nextWg launch).trans (next.trans last)
  have done : unplaced (getLaunch (getPart t part) id) = false := by
    have returned' : (getLaunch (getPart t part) id).returned = [] := (congrArg Launch.returned launch).trans (returned.trans fresh)
    have record' : (getLaunch (getPart t part) id).record = (getLaunch (getPart s part) id).record :=
      (congrArg Launch.record launch).trans record
    rw [unplaced, returned', next', record', decide_eq_false (Nat.lt_irrefl _)]
    rfl
  have more : unplaced (getLaunch (getPart s part) id) = true := by
    rw [unplaced, decide_eq_true (by omega), Bool.or_true]
  have placed : placeNext s part id = some t := by
    rw [placeNext, fresh]
    dsimp only
    rw [chosen]
    rfl
  obtain ⟨pops, empty, others, nextWg, ctxs, wgs⟩ := serveQueue_pops (m := m) ((queue prio).trans only) going' done
  refine ⟨?_, empty, fun q other => (others q other).trans (queue q), nextWg.trans next', ctxs.trans logs.ctxs, wgs.trans logs.wgs⟩
  rw [serveQueue, only]
  dsimp only
  rw [going, more, placed]
  exact pops

end

end

/-- Settles O49: each of the carder's steps by what it writes, and a placement by what its log leaves alone. -/
theorem launchesAreDecidedPlacedAndCompleted : Obligations.LaunchesAreDecidedPlacedAndCompleted := by
  refine ⟨?carder, ?steps⟩
  case carder =>
    intro s o x key part p decided ops id_ kind dst quiet
    refine ⟨fun code refused => ?_, fun r roles accepted => ?_⟩
    · refine ⟨_, congrArg Host.Outcome.next ((congrArg (carderDecision s key) id_).trans
        (carderDecision_refuses ops kind refused)), fun _ => rfl, ?_, rfl⟩
      rw [getCtx_putCtx]
      exact getS_putS _ _ dst.ne'
    · obtain ⟨issued, -, live, record, mem, ctx⟩ := enterQueue_leaves (s := acceptedState s key o x r roles) (part := part)
        (id := p.issued + 1) (p.issued + 1)
      have part_ : getPart (acceptedState s key o x r roles) part =
          putLaunch { p with issued := p.issued + 1 } (p.issued + 1) (newLaunch s (getCtx s key) key x r roles) :=
        acceptedState_launch r roles
      obtain ⟨part', mem', ctx'⟩ := attemptDue_reads (enterQueue (acceptedState s key o x r roles) part (p.issued + 1)) part
      refine ⟨_, congrArg Host.Outcome.next ((congrArg (carderDecision s key) id_).trans
        (carderDecision_accepts ops kind quiet accepted)), ?_, ?_, ?_, ?_, ?_⟩
      · exact sameMemory_of_mem (mem'.trans mem)
      · rw [ctx', ctx, acceptedState, getCtx_putCtx]
        exact getS_putS _ _ dst.ne'
      · rw [part', issued, part_]
        rfl
      · rw [part', live, part_, getLaunch_putLaunch]
        rfl
      · rw [part', record, part_, getLaunch_putLaunch]
        rfl
  case steps =>
    intro s part id p l
    refine ⟨?queue, ?place, ?complete, ?kill⟩
    case queue =>
      intro live unqueued going more ready
      have may : mayQueue (getPart s part) (getLaunch (getPart s part) id) = true := by
        rw [mayQueue, show (getLaunch (getPart s part) id).live = true from live,
          show (getLaunch (getPart s part) id).queued = false from unqueued,
          show (getLaunch (getPart s part) id).ending = false from going, show unplaced (getLaunch (getPart s part) id) = true from more,
          show depsDone (getPart s part) (getLaunch (getPart s part) id) = true from ready]
        rfl
      have step : enterQueue s part id = putPart s part (queuedPart s p id) := enterQueue_eq.trans (if_pos may)
      have entered : getPart (attemptDue (enterQueue s part id) part) part = queuedPart s p id := by
        rw [step]
        exact getPart_putPart _ _ _
      refine ⟨_, rfl, ?_, ?_⟩
      · refine (congrArg (getQueue · (recPrio l.record)) entered).trans ?_
        exact getQueue_putQueue _ _ _
      · refine (congrArg (fun q => (getLaunch q id).queued) entered).trans ?_
        rw [getLaunch_queuedPart]
    case kill =>
      intro live going
      have step : endLaunch s part id 0 0 true = later (putPart s part (putLaunch p id
          { l with ending := true, killed := true, cause := 0, cause2 := 0 }))
          (.event .launchCompletion { place := part, id := id }) := by
        refine if_pos ?_
        rw [show (getLaunch (getPart s part) id).live = true from live, show (getLaunch (getPart s part) id).ending = false from going]
        rfl
      have launch : getLaunch (getPart (later (putPart s part (putLaunch p id
          { l with ending := true, killed := true, cause := 0, cause2 := 0 }))
          (.event .launchCompletion { place := part, id := id })) part) id =
          { l with ending := true, killed := true, cause := 0, cause2 := 0 } := by
        refine (congrArg (getLaunch · id) (getPart_putPart _ _ _)).trans ?_
        exact getLaunch_putLaunch _ _ _
      exact ⟨_, congrArg Host.Outcome.next step, congrArg Launch.ending launch, congrArg Launch.killed launch, rfl⟩
    case complete =>
      intro q may gone free counted
      have step := launchCompletion_ends q rfl may gone free
      obtain ⟨done, live, mem⟩ := enterReady_leaves (part := part) id
        ((completedPart (counted.getD s) part id l counted.isNone).launches.map Prod.fst)
        (putPart (counted.getD s) part (completedPart (counted.getD s) part id l counted.isNone))
      obtain ⟨part', mem', -⟩ := attemptDue_reads (enterReady
        (putPart (counted.getD s) part (completedPart (counted.getD s) part id l counted.isNone)) part
        ((completedPart (counted.getD s) part id l counted.isNone).launches.map Prod.fst)) part
      refine ⟨_, congrArg Host.Outcome.next step, ?_, ?_, ?_⟩
      · exact sameMemory_of_mem (mem'.trans mem)
      · rw [part', live, getPart_putPart, completedPart_gone]
      · rw [part', done, getPart_putPart]
        rfl
    case place =>
      intro n c f keys only others m going fresh last chosen
      obtain ⟨serves, empty, rest, nextWg, ctxs, wgs⟩ := serveQueue_places only going fresh last chosen 131070
      have none_ (q : Nat) (below : q ≤ 7) :
          getQueue (getPart (popQueue (placeNew s part n m.nextWg c f keys) part 7) part) q = [] := by
        by_cases h : q = 7
        · exact h ▸ empty
        · exact (rest q h).trans (others q (by omega))
      have step : placementAttempt s part = popQueue (placeNew s part n m.nextWg c f keys) part 7 := by
        rw [placementAttempt, serveQueues, show 131072 = 131070 + 1 + 1 from rfl, serves,
          serveQueues_empty _ (by simp only [List.mem_cons, List.not_mem_nil, or_false]; rintro q hq; exact none_ q (by omega)),
          watchHeads_empty _ (by simp only [List.mem_cons, List.not_mem_nil, or_false]; rintro q hq; exact none_ q (by omega))]
      obtain ⟨live, core, wgid, warps⟩ := placedState_wg (s := s) (part := part) (id := n) m.nextWg c f keys
      have wg : getWg (popQueue (placeNew s part n m.nextWg c f keys) part 7) s.nextWgKey =
          getWg (placedState s part n m.nextWg c f keys) s.nextWgKey := by
        rw [getWg, getWg, wgs]
      refine ⟨_, congrArg Host.Outcome.next step, empty, nextWg, (congrArg Workgroup.live wg).trans live,
        (congrArg Workgroup.core wg).trans core, (congrArg Workgroup.wgid wg).trans wgid,
        (congrArg Workgroup.warps wg).trans warps, fun once i k hk => ?_⟩
      have warp : getCtx (popQueue (placeNew s part n m.nextWg c f keys) part 7) k =
          getCtx (placedState s part n m.nextWg c f keys) k := by
        rw [getCtx, getCtx, ctxs]
      exact warp.trans (placedState_warps m.nextWg c f once hk)

end Sys2Proof.Proofs
end

section
/-! PROOFS. Workgroups are saved, held, released and restored (21 R419 to R427, 14 R281). -/

namespace Sys2Proof.Proofs

open Sys2Proof Sys2Proof.Machine Sys2Proof.Laws

/-! ## What a save's steps leave alone -/

/-- State u comes from state s without a change of a workgroup or a die, or a new memory operation in a warp that has none. -/
structure SavesOnly (s u : State) : Prop where
  wgs : u.wgs = s.wgs
  dies : u.dies = s.dies
  idle : ∀ key, (getCtx s key).ops = [] → (getCtx u key).ops = []

namespace SavesOnly

theorem refl (s : State) : SavesOnly s s := ⟨rfl, rfl, fun _ => id⟩

theorem trans {s t u : State} (h : SavesOnly s t) (k : SavesOnly t u) : SavesOnly s u :=
  ⟨k.wgs.trans h.wgs, k.dies.trans h.dies, fun key => k.idle key ∘ h.idle key⟩

theorem of_ctxs {s u : State} (wgs : u.wgs = s.wgs) (dies : u.dies = s.dies) (ctxs : u.ctxs = s.ctxs) : SavesOnly s u :=
  ⟨wgs, dies, fun key => by rw [getCtx, getCtx, ctxs]; exact id⟩

theorem putCtx {s : State} {k : Nat} {c : Ctx} (h : (getCtx s k).ops = [] → c.ops = []) : SavesOnly s (putCtx s k c) := by
  refine ⟨rfl, rfl, fun key none_ => ?_⟩
  by_cases same : key = k
  · rw [same, getCtx_putCtx]
    exact h (same ▸ none_)
  · rwa [getCtx_putCtx_ne _ _ same]

theorem foldl {α : Type} {f : State → α → State} {xs : List α} (h : ∀ x ∈ xs, ∀ s, SavesOnly s (f s x)) :
    ∀ s, SavesOnly s (xs.foldl f s) := by
  induction xs with
  | nil => exact refl
  | cons x rest ih =>
    exact fun s => (h x List.mem_cons_self s).trans (ih (fun y hy => h y (List.mem_cons_of_mem _ hy)) _)

theorem putCore (s : State) (k : Nat) (c : Core) : SavesOnly s (putCore s k c) := of_ctxs rfl rfl rfl

theorem putPart (s : State) (k : Nat) (x : Partition) : SavesOnly s (putPart s k x) := of_ctxs rfl rfl rfl

theorem attemptDue (s : State) (part : Nat) : SavesOnly s (attemptDue s part) := of_ctxs rfl rfl rfl

theorem getWg {s u : State} (h : SavesOnly s u) : getWg u = getWg s := by
  funext k
  rw [Machine.getWg, Machine.getWg, h.wgs]

theorem getDie {s u : State} (h : SavesOnly s u) : getDie u = getDie s := by
  funext k
  rw [Machine.getDie, Machine.getDie, h.dies]

end SavesOnly

section
variable {s : State} {c : Ctx}

theorem unissue_idle (none_ : c.ops = []) (e : Nat × Strand) : unissue c e = c := by
  rw [unissue]
  split
  · rfl
  · rw [findOp, none_]
    rfl

theorem foldl_unissue_idle (none_ : c.ops = []) (es : List (Nat × Strand)) : es.foldl unissue c = c := by
  induction es with
  | nil => rfl
  | cons e rest ih => rw [List.foldl_cons, unissue_idle none_, ih]

theorem ops_settleLong (none_ : c.ops = []) : (settleLong c).ops = [] := by
  have longs : (c.ops.filter fun o => o.kind == .longResult) = [] := by rw [none_]; rfl
  rw [settleLong]
  show ((List.foldl _ c (c.ops.filter fun o => o.kind == .longResult)).ops.filter fun o => o.kind != .longResult) = []
  rw [longs, List.foldl_nil, none_]
  rfl

theorem settleCtx_idle {key : Nat} (none_ : (getCtx s key).ops = []) : SavesOnly s (settleCtx s key) := by
  rw [settleCtx, getCtx_putCtx, ops_settleLong none_]
  exact .putCtx ops_settleLong

/-- A warp without a memory operation has nothing to settle for its save. -/
theorem settleSave_idle {w : Workgroup} (idle : ∀ key ∈ w.warps, (getCtx s key).ops = []) : SavesOnly s (settleSave s w) := by
  rw [settleSave]
  revert idle s
  induction w.warps with
  | nil => exact fun _ => .refl _
  | cons key rest ih =>
    intro s idle
    have settled := settleCtx_idle (idle key List.mem_cons_self)
    have none_ := settled.idle key (idle key List.mem_cons_self)
    rw [List.foldl_cons]
    dsimp only
    rw [foldl_unissue_idle none_]
    have first := settled.trans (.putCtx (k := key) (c := getCtx (settleCtx s key) key) id)
    exact first.trans (ih fun k hk => first.idle k (idle k (List.mem_cons_of_mem _ hk)))

theorem unsettled_idle {key : Nat} (none_ : (getCtx s key).ops = []) : unsettled s key = false := by
  rw [unsettled, none_]
  rfl

theorem decideLaunches_idle {keys : List Nat} (idle : ∀ key ∈ keys, (getCtx s key).ops = []) :
    keys.foldl decideLaunches s = s := by
  induction keys with
  | nil => rfl
  | cons key rest ih =>
    rw [List.foldl_cons, decideLaunches, idle key List.mem_cons_self]
    exact ih fun k hk => idle k (List.mem_cons_of_mem _ hk)

theorem ops_unmarkLwait (c : Ctx) (x : Strand) : (unmarkLwait c x).ops = c.ops := by
  rw [unmarkLwait]
  split
  · rfl
  · exact putS_ops _ _ _

theorem ops_stopLwaits (c : Ctx) : (stopLwaits c).ops = c.ops := by
  rw [stopLwaits]
  show (c.strands.foldl (fun c e => unmarkLwait c e.2) c).ops = c.ops
  induction c.strands generalizing c with
  | nil => rfl
  | cons e rest ih => rw [List.foldl_cons, ih, ops_unmarkLwait]

theorem mainWrite_saves (s : State) (p a slot : Nat) (bs : List Byte) (bad : Bool) :
    SavesOnly s (mainWrite s p a slot bs bad).1 := by
  rw [mainWrite]
  split_ifs <;> exact .of_ctxs rfl rfl rfl

theorem writeImageLines_saves (die slot n : Nat) : ∀ s pa bs, SavesOnly s (writeImageLines s die slot pa bs n) := by
  induction n with
  | zero => exact fun s _ _ => .refl s
  | succ n ih =>
    intro s pa bs
    rw [writeImageLines]
    refine SavesOnly.trans ?_ (ih _ _ _)
    split
    · exact .refl s
    · split
      · exact .refl s
      · refine (mainWrite_saves s _ _ _ _ _).trans (.foldl (fun e _ t => ?_) _)
        split
        · exact .of_ctxs rfl rfl rfl
        · exact .refl t

theorem dropLease_saves (s : State) (k : Nat) : SavesOnly s (dropLease s k) := by
  rw [dropLease]
  have cores {t u : State} (h : leasesOnly t u) : SavesOnly t u :=
    .of_ctxs (Eq.trans (congrArg State.wgs h.1) rfl) (Eq.trans (congrArg State.dies h.1) rfl)
      (Eq.trans (congrArg State.ctxs h.1) rfl)
  have first (core : Nat) (c : Core) : SavesOnly s (dropStale (putCore s core c) core) :=
    (SavesOnly.putCore s core c).trans (cores (dropStale_only _ _))
  split
  · exact (first _ _).trans (cores (passLease_only _ _))
  · exact first _ _

theorem freeOnCore_saves (s : State) (k : Nat) (retires : Bool) :
    (freeOnCore s k retires).wgs = s.wgs ∧ (freeOnCore s k retires).dies = s.dies := by
  rw [freeOnCore, putCtxs_only]
  exact ⟨(dropLease_saves s k).wgs, (dropLease_saves s k).dies⟩

theorem requeueHead_saves (s : State) (part id : Nat) : SavesOnly s (requeueHead s part id) := by
  rw [requeueHead]
  dsimp only
  split
  · exact .refl s
  · exact .of_ctxs rfl rfl rfl

theorem returnWg_saves (s : State) (k : Nat) : SavesOnly s (returnWg s k) := by
  rw [returnWg]
  exact ((SavesOnly.putPart _ _ _).trans (requeueHead_saves _ _ _)).trans (.attemptDue _ _)

theorem startRetrains_saves (s : State) (part : Nat) : SavesOnly s (startRetrains s part) := by
  refine .foldl (fun k _ t => ?_) s
  split
  · rw [startRetrain]
    split
    · exact .of_ctxs rfl rfl rfl
    · exact .refl t
  · exact .refl t

theorem image_overlapForced (s : State) (w : Workgroup) :
    (overlapForced s w).image = w.image ∧ (overlapForced s w).core = w.core := by
  rw [overlapForced]
  induction forcedTicks s w.part generalizing w with
  | nil => exact ⟨rfl, rfl⟩
  | cons n rest ih => exact ih (extendSave w n)

end

/-! ## A save begins (R419 to R421) -/

section
variable {s : State}

theorem endIdle_only (s : State) (a : Agent) : endIdle s a = { s with ctxs := (endIdle s a).ctxs } := by
  rw [endIdle]
  split
  · rw [retire_only]
  · rfl

/-- What each step of a fold keeps, the fold keeps. -/
theorem foldl_keeps {α β : Type} (read : State → β) {f : State → α → State} (h : ∀ s x, read (f s x) = read s) (xs : List α) :
    ∀ s, read (xs.foldl f s) = read s := by
  induction xs with
  | nil => exact fun _ => rfl
  | cons x rest ih => exact fun s => (ih _).trans (h s x)

theorem time_endIdles (s : State) (key : Nat) : (endIdles s key).time = s.time :=
  foldl_keeps State.time (fun t i => by rw [endIdle_only]) _ s

theorem time_settles {s t : State} (h : Settles s t) : t.time = s.time := by
  change (keptState t).time = (keptState s).time
  rw [h.kept]

theorem time_releaseWrites (s : State) : (releaseWrites s).time = s.time := by
  have posts (t : State) (w : HeldWrite) : (postWrite t w.pa w.slot w.bytes).time = t.time := time_settles (settles_postWrite _ _ _ _)
  exact foldl_keeps State.time posts s.heldWrites { s with heldWrites := [] }

theorem time_abortRetrains (s : State) (part : Nat) : (abortRetrains s part).time = s.time := by
  refine foldl_keeps State.time (fun t k => ?_) _ s
  dsimp only
  split
  · exact time_releaseWrites _
  · rfl

theorem beginSave_saves (s : State) (k kind a : Nat) : (getWg (beginSave s k kind a) k).saving = true ∧
    (getWg (beginSave s k kind a) k).saveKind = kind ∧ (getWg (beginSave s k kind a) k).image = a ∧
    (getWg (beginSave s k kind a) k).saveStart = s.time := by
  rw [beginSave]
  dsimp only [later, putWg, getWg]
  rw [mapGet_put_same]
  exact ⟨rfl, rfl, rfl, (time_abortRetrains _ _).trans (foldl_keeps State.time time_endIdles _ s)⟩

theorem findRun_putDie {die : Nat} {d : Die} (n : Nat) (base : d.saveBase = (getDie s die).saveBase)
    (lim : d.saveLim = (getDie s die).saveLim) (images : d.images = (getDie s die).images) :
    findRun (putDie s die d) die n = findRun s die n := by
  have free (a n : Nat) : runFree (putDie s die d) die a n = runFree s die a n := by
    rw [runFree, runFree, getDie_putDie, lim, images]
    rfl
  rw [findRun, findRun, getDie_putDie, base, lim]
  simp only [free]

theorem startSave_begins {die kind k a : Nat} (i : Instr) (t : State)
    (placed : placedOn t die (getDie t die).plaunch (getDie t die).pwg = some k) (room : savesOn t die < 4)
    (loaded : keyLoaded t (getDie t die).saveKey.toNat = true) (run : findRun t die (imageSize (wgRecord t k)) = some a) :
    startSave t die kind i = beginSave (putDie t die { getDie t die with psWg := k }) k kind a := by
  rw [startSave]
  dsimp only
  rw [placed]
  refine (if_neg (Nat.not_le.mpr room)).trans ?_
  rw [loaded, if_pos rfl, run]

theorem saveRequest_begins {k a : Nat} (i : Instr) (kind : Nat) (place : s.input.place < 24) (flag : s.input.flag = false)
    (free : (getDie s s.input.place).psBusy = false) (known : bf (BitVec.ofNat 64 kind) 1 0 < 2)
    (again_ : (if bf (BitVec.ofNat 64 kind) 1 0 = 0 then Instr.saveAndRequeue else .saveAndHold) = i)
    (placed : placedOn s s.input.place (getDie s s.input.place).plaunch (getDie s s.input.place).pwg = some k)
    (room : savesOn s s.input.place < 4) (loaded : keyLoaded s (getDie s s.input.place).saveKey.toNat = true)
    (run : findRun s s.input.place (imageSize (wgRecord s k)) = some a) :
    ∃ t, t.time = s.time ∧ saveRequest s i kind = beginSave t k (bf (BitVec.ofNat 64 kind) 1 0) a := by
  let d := { getDie s s.input.place with
    psBusy := true, psRefused := false, psLate := false, psNowg := false, psBy := s.input.id }
  let t := putDie s s.input.place d
  have die : getDie t s.input.place = d := getDie_putDie _ _ _
  refine ⟨putDie t s.input.place { getDie t s.input.place with psWg := k }, rfl, ?_⟩
  refine (if_neg (Nat.not_le.mpr place)).trans ((if_neg (by rw [flag]; decide)).trans ?_)
  have store : storePreq s s.input.place (BitVec.ofNat 64 kind) s.input.id =
      some (startSave t s.input.place (bf (BitVec.ofNat 64 kind) 1 0) i) := by
    rw [← again_]
    exact (if_neg (by rw [free]; decide)).trans (if_neg (Nat.not_le.mpr known))
  rw [store]
  have run' : findRun t s.input.place (imageSize (wgRecord s k)) = some a := by
    rw [findRun_putDie (d := d) _ rfl rfl rfl]
    exact run
  refine startSave_begins i t ?_ room ?_ run'
  · rw [die]
    exact placed
  · rw [die]
    exact loaded

theorem carderPreemption_begins {limit id k a : Nat} {rest : List Nat} {w : Workgroup}
    (ticks : preemptTicks s.input.id = some limit) (queue : getQueue (getPart s s.input.place) s.input.id = id :: rest)
    (more : unplaced (getLaunch (getPart s s.input.place) id) = true)
    (going : (getLaunch (getPart s s.input.place) id).ending = false) (must : mustPreempt s s.input.place id limit = true)
    (victim : chooseVictim s (victims s s.input.place id) = some (k, w)) (room : savesOn s (w.core / 32) < 4)
    (loaded : keyLoaded s (getDie s (w.core / 32)).saveKey.toNat = true)
    (run : findRun s (w.core / 32) (imageSize (wgRecord s k)) = some a) :
    exec .carderPreemption s = .next (again (beginSave s k 2 a)
      (.event .carderPreemption { place := s.input.place, id := s.input.id })) := by
  show execCarderPreemption s = _
  rw [execCarderPreemption]
  dsimp only
  rw [ticks, queue, List.head?_cons]
  refine congrArg Host.Outcome.next ((if_neg ?_).trans ((if_neg ?_).trans ?_))
  · rw [more, going]
    decide
  · rw [must]
    decide
  · rw [victim]
    refine (if_neg (Nat.not_le.mpr room)).trans ((if_neg (by rw [loaded]; decide)).trans ?_)
    rw [run]

theorem getWg_again (t : State) (a : Act) : getWg (again t a) = getWg t := by
  rw [again]
  dsimp only
  split <;> rfl

end

/-! ## A save completes (R420, R424) -/

section
variable {s : State} {k : Nat}

theorem saveCompletion_ends (live : (getWg s k).live = true) (saving : (getWg s k).saving = true) (up : s.shutdown = false)
    (idle : ∀ c ∈ s.cores, c.2.engine = []) (flip : (getCore s (getWg s k).core).actFlip = none)
    (ops : ∀ key ∈ (getWg s k).warps, (getCtx s key).ops = [])
    (unheld : runHeld s (getWg s k).image (imageSize (wgRecord s k)) = false) :
    ∃ u, saveCompletion s k = u ∧ (getWg u k).saving = false ∧ (getWg u k).away = true ∧ (getWg u k).warps = [] ∧
      (getDie u ((getWg s k).core / 32)).psCount = (getDie s ((getWg s k).core / 32)).psCount + 1 ∧
      (getDie u ((getWg s k).core / 32)).pimage = BitVec.ofNat 64 (getWg s k).image := by
  have engines (p : Nat → EngineOp → Bool) : (s.cores.any fun c => c.2.engine.any (p c.1)) = false :=
    List.any_eq_false.mpr fun c hc => by simp [idle c hc]
  have all_ (p : EngineOp → Bool) : (s.cores.flatMap fun c => c.2.engine).any p = false := by
    rw [List.any_flatMap]
    exact engines fun _ => p
  have settled := settleSave_idle ops
  have quiet (key : Nat) (h : key ∈ (getWg s k).warps) := settled.idle key (ops key h)
  rw [saveCompletion]
  extract_lets all allOn core flip_ redirects full die s1 s2 s3 s4 w1 late bytes s5 kept pending redirected s6 s7 c s8 s9 d d1 mine s10 s11
  rw [if_neg (by rw [live, saving, up]; decide), if_neg (by
    have none_ : flip_ = false := by
      show (match core.actFlip with | some a => _ | none => false) = false
      rw [show core.actFlip = none from flip]
    rw [none_, show all.any (holdsSave s k (getWg s k)) = false from all_ _,
      show (allOn fun c => writesInto s c k (getWg s k)) = false from engines fun c => writesInto s c k (getWg s k), unheld, Bool.and_false]
    decide), if_neg (by
    rw [Bool.not_eq_true]
    exact List.any_eq_false.mpr fun key hk => by rw [unsettled_idle (quiet key hk)]; decide)]
  have h1 : SavesOnly s s1 := settled.trans (.of_ctxs rfl rfl rfl)
  have h2 : SavesOnly s1 s2 := by
    rw [show s2 = s1 from decideLaunches_idle fun key hk => h1.idle key (ops key hk)]
    exact .refl s1
  have h3 : SavesOnly s2 s3 := .foldl (fun key _ t => .putCtx fun h => (ops_stopLwaits _).trans h) _
  have h123 := (h1.trans h2).trans h3
  have hw : w1 = overlapForced s3 (getWg s k) := (getWg_putWg _ _ _).trans (congrArg (overlapForced s3) (congrFun h123.getWg k))
  obtain ⟨image, core_⟩ := image_overlapForced s3 (getWg s k)
  have h5 : SavesOnly s4 s5 := writeImageLines_saves _ _ _ _ _ _
  obtain ⟨-, freed⟩ := freeOnCore_saves s5 k false
  have dies : s9.dies = s.dies := freed.trans (h5.dies.trans h123.dies)
  have die_ : getDie s9 die = getDie s die := by rw [getDie, getDie, dies]
  have counted (u : State) (x : Die) (count : x.psCount = d1.psCount) (image_ : x.pimage = d1.pimage)
      (wg : getWg u k = getWg s9 k) (set : getDie u die = x) : (getWg u k).saving = false ∧ (getWg u k).away = true ∧
        (getWg u k).warps = [] ∧ (getDie u die).psCount = (getDie s die).psCount + 1 ∧
        (getDie u die).pimage = BitVec.ofNat 64 (getWg s k).image := by
    rw [wg, set, count, image_, getWg_putWg]
    exact ⟨rfl, rfl, rfl, congrArg (fun x : Die => x.psCount + 1) die_,
      congrArg (BitVec.ofNat 64) ((congrArg Workgroup.image hw).trans image)⟩
  have ended : (getWg s10 k).saving = false ∧ (getWg s10 k).away = true ∧ (getWg s10 k).warps = [] ∧
      (getDie s10 die).psCount = (getDie s die).psCount + 1 ∧
      (getDie s10 die).pimage = BitVec.ofNat 64 (getWg s k).image := by
    by_cases m : mine = true
    · rw [show s10 = _ from if_pos m]
      exact counted _ { d1 with psBusy := false, psLate := late, psWg := 0 } rfl rfl rfl (getDie_putDie _ _ _)
    · rw [show s10 = _ from if_neg m]
      exact counted _ d1 rfl rfl rfl (getDie_putDie _ _ _)
  have back : SavesOnly s10 s11 := by
    by_cases held : w1.saveKind = 1
    · rw [show s11 = s10 from if_pos held]
      exact .refl _
    · rw [show s11 = returnWg s10 k from if_neg held]
      exact returnWg_saves _ _
  have last := (back.trans (.attemptDue s11 w1.part)).trans (startRetrains_saves (attemptDue s11 w1.part) w1.part)
  refine ⟨_, rfl, ?_⟩
  rw [last.getWg, last.getDie]
  exact ended

end

/-! ## A held workgroup is released, and a workgroup is restored (R425 to R427) -/

section
variable {s : State} {k : Nat}

theorem requeueHead_returned (t : State) (part id : Nat) :
    (getLaunch (getPart (requeueHead t part id) part) id).returned = (getLaunch (getPart t part) id).returned := by
  rw [requeueHead]
  dsimp only
  split
  · rfl
  · rw [getPart_putPart]
    show (getLaunch (putLaunch (getPart t part) id _) id).returned = _
    rw [getLaunch_putLaunch]

theorem returnWg_returned (t : State) (k : Nat) : (k, (getWg t k).image) ∈
    (getLaunch (getPart (returnWg t k) (getWg t k).part) (getWg t k).launch.toNat).returned := by
  rw [returnWg, (attemptDue_reads _ _).1, requeueHead_returned, getPart_putPart, getLaunch_putLaunch]
  exact List.mem_append_right _ List.mem_cons_self

theorem storePrel_returns {die a : Nat} {x : Word} (there : (k, a) ∈ (getDie s die).images)
    (once : ∀ e ∈ (getDie s die).images, e.2 = a → e = (k, a)) (named : (keep x 51 12).toNat = a)
    (away : (getWg s k).away = true) (held : (getWg s k).saveKind = 1) :
    storePrel s die x = returnWg (putWg s k { getWg s k with saveKind := 0 }) k := by
  let p := fun e : Nat × Nat => e.2 == (keep x 51 12).toNat && (getWg s e.1).away && (getWg s e.1).saveKind == 1
  have fits : p (k, a) = true := by
    show (a == (keep x 51 12).toNat && (getWg s k).away && (getWg s k).saveKind == 1) = true
    rw [named, away, held, beq_self_eq_true]
    rfl
  have found : listFind p (getDie s die).images = some (k, a) := by
    rw [listFind_eq_find?]
    obtain ⟨e, he⟩ := Option.isSome_iff_exists.mp (List.find?_isSome.mpr ⟨_, there, fits⟩)
    have passes := List.find?_some he
    have image : e.2 = a := by
      rw [← named]
      exact eq_of_beq (Bool.and_eq_true_iff.mp (Bool.and_eq_true_iff.mp passes).1).1
    rw [he, once e (List.mem_of_find?_eq_some he) image]
  rw [storePrel]
  show (match listFind p (getDie s die).images with | some (k, _) => _ | none => s) = _
  rw [found]

/-- A context of a restored warp: it is its workgroup's, and runs if it has a live strand. -/
def restoredIn (k : Nat) (c : Ctx) : Prop := c.wg = k ∧ (c.live = true ↔ liveSlots c ≠ [])

theorem restored_live (c : Ctx) (n : Nat) (e : BitVec 7) (f : Word) (xs : List (Nat × Word)) : restoredIn k { c with
    live := !(liveSlots c).isEmpty, wg := k, nextOp := n, pendErrors := e, pendFrow := f, shapes := xs } := by
  have alive : (!(liveSlots c).isEmpty) = true ↔ liveSlots c ≠ [] := by
    rw [Bool.not_eq_true', List.isEmpty_eq_false_iff]
  exact ⟨rfl, alive⟩

/-- The context that a warp's block leaves (R423). -/
def blockCtx (s : State) (r : List Word) (k key i : Nat) : Ctx :=
  let c := ctxOf s ((getWg s k).kept.getD i {}) (warpBlock s k i) (recRegs r) (if recWid r = 2 then 2 else 1)
  let e := mapGet ((0 : BitVec 7), (0 : Word)) (getWg s k).pending i
  { c with
    live := !(liveSlots c).isEmpty, wg := k, nextOp := (getCtx s key).nextOp, pendErrors := e.1, pendFrow := e.2
    shapes := c.shapes.map fun x => (x.1, revokeShape (keyDie key) x.2) }

theorem ctxs_loadHomes (s : State) (pa place n : Nat) : (loadHomes s pa place n).ctxs = s.ctxs := by
  rw [loadHomes]
  refine foldl_keeps State.ctxs (fun t e => ?_) _ _
  split <;> rfl

theorem loadWarps_cons (r : List Word) (key i : Nat) (rest : List (Nat × Nat)) : ∃ t c,
    loadWarps s k r ((key, i) :: rest) = loadWarps (putCtx t key c) k r rest ∧ c = blockCtx s r k key i ∧
      t = loadHomes s (warpBlock s k i + 0x2000) (spillPlace key 0) 16384 := by
  refine ⟨?t, ?c, ?step, ?ctx, ?homes⟩
  case step => rfl
  case ctx => rfl
  case homes => rfl

theorem loadWarps_restored {key : Nat} (r : List Word) (es : List (Nat × Nat)) :
    ∀ s, (restoredIn k (getCtx s key) ∨ key ∈ es.map Prod.fst) → restoredIn k (getCtx (loadWarps s k r es) key) := by
  induction es with
  | nil => exact fun s h => h.resolve_right List.not_mem_nil
  | cons e rest ih =>
    intro s h
    obtain ⟨t, c, step, ctx, homes⟩ := loadWarps_cons (s := s) (k := k) r e.1 e.2 rest
    rw [step]
    refine ih _ ?_
    by_cases same : key = e.1
    · left
      rw [same, getCtx_putCtx, ctx, blockCtx]
      exact restored_live _ _ _ _ _
    · refine h.imp (fun done => ?_) (fun there => ?_)
      · rw [getCtx_putCtx_ne _ _ same, homes, getCtx, ctxs_loadHomes]
        exact done
      · exact (List.mem_cons.mp there).resolve_left same

theorem restoreWg_ends (live : (getWg s k).live = true) (away : (getWg s k).away = true) (warps : (getWg s k).warps ≠ [])
    (clear : (s.cores.any fun c => c.2.engine.any (intoImage s c.1 k (getWg s k))) = false)
    (unheld : runHeld s (getWg s k).image (imageSize (wgRecord s k)) = false)
    (whole : runCut s ((getWg s k).core / 32) (getWg s k).image (imageSize (wgRecord s k)) = false)
    (room : lockRoom (getCore s (getWg s k).core) (adoptLocks s k (getWg s k).core).length = true) :
    ∃ u, restoreWg s k = u ∧ (getWg u k).away = false ∧ ∀ key ∈ (getWg s k).warps, restoredIn k (getCtx u key) := by
  rw [restoreWg]
  extract_lets locks r s1 c1 tilesPa c2 actsPa c3 s2 s3 s4 w1 s5
  rw [if_neg (by
    rw [live, away, Bool.not_eq_true, Bool.or_eq_false_iff]
    exact ⟨rfl, List.isEmpty_eq_false_iff.mpr warps⟩), if_neg (by
    rw [clear, unheld, whole, room]
    decide)]
  refine ⟨_, rfl, ?_, fun key hk => ?_⟩
  · rw [startLoads_only _ s5]
    exact congrArg Workgroup.away (getWg_putWg s4 k _)
  · rw [startLoads_only _ s5]
    refine loadWarps_restored r (getWg s k).warps.zipIdx s2 (.inr ?_)
    rwa [List.zipIdx_map_fst]

end

/-- Settles O50: what each step does to its workgroup, its die and its launch. -/
theorem workgroupsAreSavedAndRestored : Obligations.WorkgroupsAreSavedAndRestored := by
  refine fun s k a => ⟨?requests, ?preempts, ?completes, ?releases, ?restores⟩
  case requests =>
    intro place flag free placed room loaded run
    refine ⟨?_, ?_⟩
    · obtain ⟨t, time, step⟩ := saveRequest_begins .saveAndRequeue 0 place flag free (by decide) rfl placed room loaded run
      have begun := beginSave_saves t k 0 a
      rw [time] at begun
      exact ⟨_, congrArg Host.Outcome.next step, begun⟩
    · obtain ⟨t, time, step⟩ := saveRequest_begins .saveAndHold 1 place flag free (by decide) rfl placed room loaded run
      have begun := beginSave_saves t k 1 a
      rw [time] at begun
      exact ⟨_, congrArg Host.Outcome.next step, begun⟩
  case preempts =>
    intro limit id rest w ticks queue part l waited more going fits none_ victim room loaded run
    have must : mustPreempt s s.input.place id limit = true := by
      rw [mustPreempt, none_, show placeNext s s.input.place id = none from fits, decide_eq_true waited]
      rfl
    refine ⟨_, carderPreemption_begins ticks queue more going must victim room loaded run, ?_⟩
    rw [getWg_again]
    exact beginSave_saves s k 2 a
  case completes =>
    intro w live saving up idle flip ops unheld
    obtain ⟨u, step, ended⟩ := saveCompletion_ends live saving up idle flip ops unheld
    exact ⟨u, congrArg Host.Outcome.next step, ended⟩
  case releases =>
    intro place there once named away held
    refine ⟨_, congrArg Host.Outcome.next ((if_pos place).trans (storePrel_returns there once named away held)), ?_, ?_⟩
    · rw [(returnWg_saves _ _).getWg, getWg_putWg]
    · have returned := returnWg_returned (putWg s k { getWg s k with saveKind := 0 }) k
      rw [getWg_putWg] at returned
      exact returned
  case restores =>
    intro w live away warps clear unheld whole room
    obtain ⟨u, step, here, restored⟩ := restoreWg_ends live away warps clear unheld whole room
    exact ⟨u, congrArg Host.Outcome.next step, here, restored⟩

end Sys2Proof.Proofs
end

section
/-! PROOFS. Within a domain no two addresses share a byte of main memory (18 R351 to R355). -/

namespace Sys2Proof.Proofs

open Sys2Proof Sys2Proof.Machine Sys2Proof.Laws

/-! ## Bits and their counts -/

theorem countOnes_eq (n : Nat) : ∀ x, countOnes x n = ((List.range n).filter fun j => x.testBit j).length := by
  induction n with
  | zero => exact fun _ => rfl
  | succ n ih =>
    intro x
    have rest : ((List.range n).filter ((fun j => x.testBit j) ∘ Nat.succ)).length = countOnes (x / 2) n := by
      rw [ih]
      exact congrArg List.length (List.filter_congr fun j _ => Nat.testBit_succ x j)
    rw [countOnes, List.range_succ_eq_map, List.filter_cons, List.filter_map, Nat.testBit_zero]
    rcases Nat.mod_two_eq_zero_or_one x with h | h <;> simp [h, rest, Nat.add_comm]

/-- The number whose bit j below n is the parity `f j`. -/
def parityBits (f : Nat → Nat) (n : Nat) : Nat := (List.range n).foldl (fun acc j => acc + f j * 2 ^ j) 0

section
variable {f : Nat → Nat}

theorem parityBits_succ (n : Nat) : parityBits f (n + 1) = parityBits f n + f n * 2 ^ n := by
  rw [parityBits, parityBits, List.range_succ, List.foldl_append]
  rfl

theorem parityBits_lt (bit : ∀ j, f j < 2) (n : Nat) : parityBits f n < 2 ^ n := by
  induction n with
  | zero => exact Nat.one_pos
  | succ n ih =>
    rw [parityBits_succ, Nat.pow_succ]
    have := Nat.mul_le_mul_right (2 ^ n) (Nat.le_of_lt_succ (bit n))
    omega

theorem testBit_parityBits (bit : ∀ j, f j < 2) {i : Nat} (n : Nat) (hi : i < n) :
    (parityBits f n).testBit i = decide (f i = 1) := by
  induction n with
  | zero => omega
  | succ n ih =>
    rw [parityBits_succ, Nat.add_comm, Nat.mul_comm, Nat.testBit_two_pow_mul_add _ (parityBits_lt bit n)]
    split
    case isTrue low => exact ih low
    case isFalse top =>
      have same : i = n := by omega
      rw [same, Nat.sub_self, Nat.testBit_zero, Nat.mod_eq_of_lt (bit n)]

end

/-! ## The fold (R355) -/

section
variable {s : State} {n : Nat}

/-- The parities that a granule index's low eight bits are folded with. -/
def folds (s : State) (n h j : Nat) : Nat := parity (Nat.land h (foldMask s n j))

theorem folds_lt (h j : Nat) : folds s n h j < 2 := Nat.mod_lt _ (by decide)

theorem foldIndex_eq (h : Nat) : foldIndex s n h = h ^^^ parityBits (folds s n h) 8 := rfl

theorem foldIndex_div (h : Nat) : foldIndex s n h / 256 = h / 256 := by
  have low : parityBits (folds s n h) 8 / 2 ^ 8 = 0 := Nat.div_eq_of_lt (parityBits_lt (folds_lt h) 8)
  rw [foldIndex_eq, show (256 : Nat) = 2 ^ 8 from rfl, Nat.xor_div_two_pow, low, Nat.xor_zero]

theorem testBit_foldIndex {h i : Nat} (hi : i < 8) :
    (foldIndex s n h).testBit i = (h.testBit i ^^ decide (folds s n h i = 1)) := by
  rw [foldIndex_eq, Nat.testBit_xor, testBit_parityBits (folds_lt h) 8 hi]

theorem testBit_eq_above {a b m i : Nat} (same : a / 2 ^ m = b / 2 ^ m) (hi : m ≤ i) : a.testBit i = b.testBit i := by
  have shifted := congrArg (fun x => x.testBit (i - m)) same
  rwa [Nat.testBit_div_two_pow, Nat.testBit_div_two_pow, Nat.sub_add_cancel hi] at shifted

/-- A mask with bits above its own alone folds in what the bits above give. -/
theorem folds_congr {a b i : Nat} (mask : foldMask s n i % 2 ^ (i + 1) = 0)
    (above : ∀ j, i < j → a.testBit j = b.testBit j) : folds s n a i = folds s n b i := by
  have masked : a &&& foldMask s n i = b &&& foldMask s n i := by
    refine Nat.eq_of_testBit_eq fun j => ?_
    rw [Nat.testBit_and, Nat.testBit_and]
    by_cases hj : i < j
    · rw [above j hj]
    · have clear : (foldMask s n i).testBit j = false := by
        have bit := congrArg (fun x => x.testBit j) mask
        rwa [Nat.testBit_mod_two_pow, Nat.zero_testBit, decide_eq_true (by omega), Bool.true_and] at bit
      rw [clear, Bool.and_false, Bool.and_false]
  exact congrArg parity masked

theorem foldIndex_injective (masks : ∀ j, j < 8 → foldMask s n j % 2 ^ (j + 1) = 0) {a b : Nat}
    (same : foldIndex s n a = foldIndex s n b) : a = b := by
  have high : a / 2 ^ 8 = b / 2 ^ 8 := by
    have := congrArg (· / 256) same
    rwa [foldIndex_div, foldIndex_div] at this
  have down (d : Nat) : ∀ i, 8 ≤ i + d → a.testBit i = b.testBit i := by
    induction d with
    | zero => exact fun i hi => testBit_eq_above high hi
    | succ d ih =>
      intro i hi
      by_cases low : i < 8
      · have bit := congrArg (fun x => x.testBit i) same
        rw [testBit_foldIndex low, testBit_foldIndex low, folds_congr (masks i low) fun j hj => ih j (by omega)] at bit
        exact Bool.xor_left_inj.mp bit
      · exact testBit_eq_above high (by omega)
  exact Nat.eq_of_testBit_eq fun i => down 8 i (by omega)

theorem foldIndex_lt {h m : Nat} (inside : h < 256 * m) : foldIndex s n h < 256 * m := by
  have := foldIndex_div (s := s) (n := n) h
  omega

/-! ## A domain's pseudo-channels (R353) -/

/-- The live pseudo-channels of a stack. -/
def stackPcs (s : State) (k : Nat) : List Nat := ((List.range 64).map fun j => 64 * k + j).filter (pcLive s)

theorem length_stackPcs (k : Nat) : (stackPcs s k).length = 64 - countOnes (getStack s k).dead.toNat 64 := by
  have live : (pcLive s ∘ fun j => 64 * k + j) = fun j => pcLive s (64 * k + j) := rfl
  have bits : (stackPcs s k).length =
      ((List.range 64).filter fun j => !(getStack s k).dead.toNat.testBit j).length := by
    rw [stackPcs, List.filter_map, List.length_map]
    refine congrArg List.length (List.filter_congr fun j hj => ?_)
    have lt := List.mem_range.mp hj
    show (!(getStack s ((64 * k + j) / 64)).dead.getLsbD ((64 * k + j) % 64)) = _
    rw [show (64 * k + j) / 64 = k by omega, show (64 * k + j) % 64 = j by omega]
    rfl
  have all_ := List.length_eq_length_filter_add (l := List.range 64) fun j => (getStack s k).dead.toNat.testBit j
  rw [List.length_range] at all_
  rw [bits, countOnes_eq]
  omega

theorem length_domainPcs : (domainPcs s n).length = domainP s n := by
  have sum (ks : List Nat) : ∀ acc, ks.foldl (fun acc k => acc + (64 - countOnes (getStack s k).dead.toNat 64)) acc =
      acc + (ks.flatMap (stackPcs s)).length := by
    induction ks with
    | nil => exact fun _ => rfl
    | cons k rest ih =>
      intro acc
      rw [List.foldl_cons, ih, List.flatMap_cons, List.length_append, length_stackPcs, Nat.add_assoc]
  exact ((sum _ 0).trans (Nat.zero_add _)).symm

theorem domainStacks_nodup : (domainStacks s n).Nodup := by
  rw [domainStacks]
  split_ifs
  · simp
  · simp
  · simp
  · simp
  · exact List.nodup_range
  · exact List.nodup_range.map fun a b h => Nat.add_right_cancel h
  · exact List.nodup_range

theorem div_of_mem_stackPcs {k g : Nat} (h : g ∈ stackPcs s k) : g / 64 = k := by
  obtain ⟨j, hj, rfl⟩ := List.mem_map.mp (List.mem_filter.mp h).1
  have := List.mem_range.mp hj
  omega

theorem domainPcs_nodup : (domainPcs s n).Nodup := by
  refine List.nodup_flatMap.mpr ⟨fun k _ => ?_, ?_⟩
  · exact (List.nodup_range.map fun a b h => Nat.add_left_cancel h).filter _
  · refine domainStacks_nodup.imp fun {k k'} apart g hk hk' => apart ?_
    exact (div_of_mem_stackPcs hk).symm.trans (div_of_mem_stackPcs hk')

/-! ## Cells (R355) -/

theorem cellOfPlace_injective {m m' : MapPlace} {b b' : Nat} (bank : m.bank < 4) (bank' : m'.bank < 4) (bg : m.bg < 4)
    (bg' : m'.bg < 4) (row : m.row < 65536) (row' : m'.row < 65536) (col : m.col < 8) (col' : m'.col < 8) (byte : b < 128)
    (byte' : b' < 128) (same : cellOfPlace m b = cellOfPlace m' b') :
    m.g = m'.g ∧ m.bg = m'.bg ∧ m.bank = m'.bank ∧ m.row = m'.row ∧ m.col = m'.col ∧ b = b' := by
  rw [cellOfPlace, cellOfPlace] at same
  omega

/-- An address of a domain: its granule and its byte of it. -/
theorem inDomain_granule {a : Nat} (base : (getDomain s n).base % 128 = 0) (rc : (getDomain s n).rc % 2 = 0)
    (inside : inDomain s n a = true) : a = (getDomain s n).base + 128 * ((a - (getDomain s n).base) / 128) + a % 128 ∧
      (a - (getDomain s n).base) / 128 < 256 * (domainP s n * ((getDomain s n).rc / 2)) := by
  obtain ⟨low, high⟩ := Bool.and_eq_true_iff.mp inside
  have low := of_decide_eq_true low
  have high := of_decide_eq_true high
  rw [domainEnd, show (getDomain s n).rc = 2 * ((getDomain s n).rc / 2) by omega, Nat.mul_left_comm] at high
  omega

theorem foldIndex_row {h : Nat} (rc : (getDomain s n).rc % 2 = 0)
    (inside : h < 256 * (domainP s n * ((getDomain s n).rc / 2))) :
    0 < domainP s n ∧ foldIndex s n h / domainP s n < 128 * (getDomain s n).rc := by
  have pos : 0 < domainP s n := by
    refine Nat.pos_of_ne_zero fun none_ => ?_
    rw [none_] at inside
    omega
  refine ⟨pos, (Nat.div_lt_iff_lt_mul pos).mpr ?_⟩
  calc foldIndex s n h < 256 * (domainP s n * ((getDomain s n).rc / 2)) := foldIndex_lt inside
    _ = 128 * (2 * ((getDomain s n).rc / 2)) * domainP s n := by ring
    _ = 128 * (getDomain s n).rc * domainP s n := by rw [show 2 * ((getDomain s n).rc / 2) = (getDomain s n).rc by omega]

end

/-- Settles O51: the fold, the channel list and the cell's fields are each injective. -/
theorem domainsMapAddressesToDistinctCells : Obligations.DomainsMapAddressesToDistinctCells := by
  intro s n a b base rc rows masks ha hb same
  obtain ⟨aEq, aIn⟩ := inDomain_granule base rc ha
  obtain ⟨bEq, bIn⟩ := inDomain_granule base rc hb
  obtain ⟨pos, aRow⟩ := foldIndex_row rc aIn
  obtain ⟨-, bRow⟩ := foldIndex_row rc bIn
  let x := fun c => foldIndex s n ((c - (getDomain s n).base) / 128)
  have aRow : x a / domainP s n < 128 * (getDomain s n).rc := aRow
  have bRow : x b / domainP s n < 128 * (getDomain s n).rc := bRow
  have small (q k : Nat) (h : 0 < k) : q % k < k := Nat.mod_lt _ h
  obtain ⟨g, bg, bank, row, col, byte⟩ := cellOfPlace_injective (m := mapPlaceIn s n a) (m' := mapPlaceIn s n b)
    (small _ 4 (by decide)) (small _ 4 (by decide)) (small _ 4 (by decide)) (small _ 4 (by decide))
    (show (getDomain s n).rowBase + x a / domainP s n / 128 < 65536 by omega)
    (show (getDomain s n).rowBase + x b / domainP s n / 128 < 65536 by omega)
    (small _ 8 (by decide)) (small _ 8 (by decide)) (small _ 128 (by decide)) (small _ 128 (by decide)) same
  have quotient : x a / domainP s n = x b / domainP s n := by
    have bg : x a / domainP s n / 8 % 4 = x b / domainP s n / 8 % 4 := bg
    have bank : x a / domainP s n / 32 % 4 = x b / domainP s n / 32 % 4 := bank
    have row : (getDomain s n).rowBase + x a / domainP s n / 128 = (getDomain s n).rowBase + x b / domainP s n / 128 := row
    have col : x a / domainP s n % 8 = x b / domainP s n % 8 := col
    omega
  have channel : x a % domainP s n = x b % domainP s n := by
    have listed (c : Nat) : x c % domainP s n < (domainPcs s n).length := by
      rw [length_domainPcs]
      exact small _ _ pos
    have g : (domainPcs s n).getD (x a % domainP s n) 0 = (domainPcs s n).getD (x b % domainP s n) 0 := g
    rw [List.getD_eq_getElem _ _ (listed a), List.getD_eq_getElem _ _ (listed b)] at g
    exact (List.Nodup.getElem_inj_iff domainPcs_nodup).mp g
  have granule : (a - (getDomain s n).base) / 128 = (b - (getDomain s n).base) / 128 := by
    refine foldIndex_injective masks ?_
    show x a = x b
    rw [← Nat.div_add_mod (x a) (domainP s n), ← Nat.div_add_mod (x b) (domainP s n), quotient, channel]
  rw [aEq, bEq, granule, byte]

end Sys2Proof.Proofs
end

section
/-! PROOFS. The memory-map block's requests, retirement, repair, rates and service (18 R352 to R369). -/

namespace Sys2Proof.Proofs

open Sys2Proof Sys2Proof.Machine Sys2Proof.Laws

/-! ## What memory operations and the module's events leave alone -/

section
variable {s t : State}

/-- A reading of what memory operations leave alone is as it was. -/
theorem Settles.reads {β : Type} (h : Settles s t) (read : State → β) (kept : ∀ u, read (keptState u) = read u) :
    read t = read s := by
  rw [← kept t, h.kept, kept s]

theorem settles_releaseWrites (s : State) : Settles s (releaseWrites s) := by
  have posts (t : State) (w : HeldWrite) : Settles t (postWrite t w.pa w.slot w.bytes) := settles_postWrite _ _ _ _
  rw [releaseWrites]
  exact (Settles.of_quiet (s := s) (t := { s with heldWrites := [] }) rfl rfl rfl id).trans (Settles.foldl posts _ s.heldWrites)

/-- What the end of a request leaves after its held writes went on and its requester was told. -/
theorem settles_ends (s : State) (by_ : Nat) : Settles s (busyFalls (releaseWrites s) by_) :=
  (settles_releaseWrites s).trans (settles_setIpend _ _ _)

theorem getStack_settles (h : Settles s t) (k : Nat) : getStack t k = getStack s k :=
  h.reads (fun u => getStack u k) fun _ => rfl

theorem releaseWrites_none (none_ : s.heldWrites = []) : releaseWrites s = s := by
  rw [releaseWrites, none_, List.foldl_nil, ← none_]

end

/-! ## The block's requests (R352, R364, R366) -/

section
variable {s : State} {n : Nat}

theorem domainStore_config {off : Nat} (hn : n < 27) (hoff : off < 0x80) (unit : off % 8 = 0)
    (which : (off == 0 || off == 8 || decide (0x40 ≤ off)) = true) (id_ : s.input.id = 0x1000 + 0x80 * n + off) :
    exec .memoryMapConfigWrite s = .next (storeDomain s n off s.input.value) := by
  have at_ : (s.input.id - 0x1000) % 0x80 = off := by omega
  have domain : (s.input.id - 0x1000) / 0x80 = n := by omega
  have here : within s.input.id 0x1000 (0x1000 + 27 * 0x80) = true := by
    rw [within, decide_eq_true (by omega), decide_eq_true (by omega)]
    rfl
  show execMemoryMapConfigWrite s = _
  rw [execMemoryMapConfigWrite]
  rw [at_, domain, here, which, show s.input.id % 8 = 0 by omega]
  rfl

theorem storeGeom_fits {x : Word} (rows : bf x 47 32 + bf x 16 1 * 2 ≤ 65536) (kind : n < 24 ∨ bf x 49 48 = 0) :
    storeGeom s n x = putDomain s n { getDomain s n with
      rc := bf x 16 1 * 2, rowBase := bf x 47 32, smask := BitVec.ofNat 2 (bf x 49 48) } := by
  refine if_neg fun refused => ?_
  rcases refused with high | ⟨wide, mask⟩
  · omega
  · exact kind.elim (fun h => by omega) mask

theorem storeDomain_fold {j : Nat} (x : Word) : storeDomain s n (0x40 + 8 * j) x = putDomain s n { getDomain s n with
    folds := mapPut 0 (getDomain s n).folds j (keep x 34 (j + 1)) } := by
  rw [storeDomain, if_neg (by omega), if_neg (by omega), Nat.add_sub_cancel_left, Nat.mul_div_cancel_left _ (by decide)]

theorem storeRetreq_starts {x : Word} (by_ : Nat) (free : s.retBusy = false) (legal : retireRefused s (bf x 11 0) = false) :
    storeRetreq s x by_ = some (later
      { s with retBusy := true, retRefused := false, retG := BitVec.ofNat 12 (bf x 11 0), retBy := by_ }
      (.event .retirementComplete {})) :=
  (if_neg (by rw [free]; decide)).trans (if_neg (by rw [legal]; decide))

theorem storeRetreq_refuses {x : Word} (by_ : Nat) (free : s.retBusy = false) (refused : retireRefused s (bf x 11 0) = true) :
    storeRetreq s x by_ = some { s with retRefused := true } :=
  (if_neg (by rw [free]; decide)).trans (if_pos refused)

/-- The state in which a retirement's accesses are performed and its pseudo-channel is dead. -/
def retiredState (s : State) : State :=
  let g := s.retG.toNat
  let t := settleAll s (domainContexts s (domainsOf s g))
  let u := putStack t (g / 64) { getStack t (g / 64) with
    dead := (getStack t (g / 64)).dead ||| BitVec.ofNat 64 (2 ^ (g % 64)) }
  { u with retBusy := false, retCount := u.retCount + 1, repairLog := u.repairLog ++ [.retired g] }

theorem retirementComplete_eq (busy : s.retBusy = true) : ∃ by_, retirementComplete s =
    busyFalls (releaseWrites (retiredState s)) by_ :=
  ⟨_, if_pos busy⟩

theorem dead_retiredState : pcLive (retiredState s) s.retG.toNat = false := by
  let g := s.retG.toNat
  have bit (d : Word) : (d ||| BitVec.ofNat 64 (2 ^ (g % 64))).getLsbD (g % 64) = true := by
    rw [BitVec.getLsbD_or, BitVec.getLsbD_ofNat, Nat.testBit_two_pow_self,
      decide_eq_true (Nat.mod_lt g (by decide : 0 < 64)), Bool.and_self, Bool.or_true]
  have stack : getStack (retiredState s) (g / 64) = _ := getStack_putStack _ _ _
  rw [pcLive, stack, bit]
  rfl

theorem retCount_retiredState (quiet : domainContexts s (domainsOf s s.retG.toNat) = []) :
    (retiredState s).retCount = s.retCount + 1 := by
  rw [retiredState, quiet]
  rfl

theorem storePprreq_starts {x : Word} (by_ : Nat) (free : s.pprBusy = false) (known : bf x 11 0 < 3072)
    (live : pcLive s (bf x 11 0) = true) (spare : sparesUsed s (bankOf x) < 4) : storePprreq s x by_ = some (later
      { s with pprBusy := true, pprFail := false, pprReq := keep x 31 0, pprBy := by_ } (.event .repairComplete {})) := by
  refine (if_neg (by rw [free]; decide)).trans (if_neg fun fails => ?_)
  rcases fails with high | dead | used
  · omega
  · exact absurd (live.symm.trans dead) (by decide)
  · omega

/-- The state in which a repair's row stands at a spare. -/
def repairedState (s : State) : State :=
  let x := s.pprReq
  { s with
    pprBusy := false, pprCount := s.pprCount + 1
    spares := mapPut 0 s.spares (bankOf x) (sparesUsed s (bankOf x) + 1)
    repairLog := s.repairLog ++ [.repaired (bf x 11 0) (bf x 13 12 * 4 + bf x 15 14) (bf x 31 16)] }

theorem repairComplete_eq (busy : s.pprBusy = true) : repairComplete s =
    busyFalls (releaseWrites (repairedState s)) s.pprBy :=
  if_pos busy

end

/-! ## Rates and service (R361, R368, R369) -/

section
variable {s : State} {k : Nat}

theorem startRetrain_keeps (x : Stack) (h : getStack s k = x) : (getStack (startRetrain s k) k).tgt = x.tgt ∧
    (getStack (startRetrain s k) k).pend = x.pend ∧
    (x.pend = true → (savesIn s (stackPart s k)).isEmpty = true → (getStack (startRetrain s k) k).retraining = true) := by
  rw [startRetrain]
  split
  case isTrue =>
    have begun : getStack (later (putStack s k { getStack s k with retraining := true, forced := false, since := s.time })
        (.event .retrainComplete { place := k })) k = _ := getStack_putStack _ _ _
    rw [begun, h]
    exact ⟨rfl, rfl, fun _ _ => rfl⟩
  case isFalse held =>
    refine ⟨by rw [h], by rw [h], fun pend free => ?_⟩
    rw [h, pend, free, Bool.and_true, Bool.true_and, Bool.not_eq_true', Bool.not_eq_false] at held
    rwa [h]

theorem storeRate_pends {x : Word} (legal : bf x 3 2 ≠ 3) (new : BitVec.ofNat 2 (bf x 3 2) ≠ (getStack s k).tgt) :
    storeRate s k x = startRetrain
      (putStack s k { getStack s k with tgt := BitVec.ofNat 2 (bf x 3 2), pend := true }) k := by
  have two : BitVec.ofNat 2 (bf x 3 2) ≠ 3 := fun same => legal (by
    have value := congrArg BitVec.toNat same
    rwa [BitVec.toNat_ofNat, Nat.mod_eq_of_lt (bf_lt x 3 2)] at value)
  exact if_neg fun refused => refused.elim two new

theorem copyAt_found {core cls g : Nat} {o : EngineOp} (h : copyAt s g cls = some (core, o)) :
    classOf o.kind = some cls ∧ opTouches s o g = true := by
  obtain ⟨e, -, found⟩ := List.exists_of_findSome?_eq_some h
  rw [listFind_eq_find?] at found
  obtain ⟨p, hp, same⟩ := Option.map_eq_some_iff.mp found
  have passes := List.find?_some hp
  rw [(Prod.mk.inj same).2] at passes
  have passes := Bool.and_eq_true_iff.mp passes
  exact ⟨eq_of_beq passes.1, passes.2⟩

theorem classOf_matrix {m : MatOp} {cls : Nat} (h : classOf (.matrix m) = some cls) : cls = 1 := by
  cases m with
  | mv => exact (Option.some.inj h).symm
  | mma => exact (Option.some_ne_none _ h.symm).elim
  | accZero => exact (Option.some_ne_none _ h.symm).elim
  | accLoad => exact (Option.some_ne_none _ h.symm).elim
  | accGet => exact (Option.some_ne_none _ h.symm).elim
  | drain => exact (Option.some_ne_none _ h.symm).elim

theorem opTouches_place {g : Nat} {o : EngineOp} (h : opTouches s o g = true) :
    ∃ p ∈ opPlaces s o, ∃ a x y, p = .main a x y ∧ a / 2 ^ 30 = g := by
  obtain ⟨p, hp, at_⟩ := List.any_eq_true.mp h
  refine ⟨p, hp, ?_⟩
  cases p with
  | main a x y => exact ⟨a, x, y, rfl, eq_of_beq at_⟩
  | home => exact absurd at_ Bool.false_ne_true
  | fails => exact absurd at_ Bool.false_ne_true
  | waits => exact absurd at_ Bool.false_ne_true

theorem service_copy {core : Nat} {o : EngineOp} (none_ : s.input.sub = 1 → systemAccessAt s s.input.place = none)
    (found : copyAt s s.input.place s.input.sub = some (core, o)) :
    exec .pseudoChannelService s = .next (serveOp s core o) := by
  have system : (if s.input.sub = 1 then systemAccessAt s s.input.place else none) = none := by
    split
    case isTrue h => exact none_ h
    case isFalse => rfl
  show execPseudoChannelService s = _
  rw [execPseudoChannelService]
  rw [system, found]

end

/-- Settles O52: each request by the branch that its conditions leave, and what its end leaves alone. -/
theorem memoryMapRequestsComplete : Obligations.MemoryMapRequestsComplete := by
  intro s x place k
  refine ⟨rfl, ?config, ?retires, ?retired, ?repairs, ?repaired, ?rates, ?retrained, ?forced, ?system, ?served⟩
  case config =>
    intro n j hn hj d becomes
    refine ⟨fun h => ?_, fun rows kind h => ?_, fun h => ?_⟩
    · exact domainStore_config hn (by decide) rfl rfl h
    · exact (domainStore_config hn (by decide) rfl rfl h).trans (congrArg Host.Outcome.next (storeGeom_fits rows kind))
    · refine (domainStore_config hn (by omega) (by omega) ?_ h).trans (congrArg Host.Outcome.next (storeDomain_fold _))
      rw [decide_eq_true (by omega : 0x40 ≤ 0x40 + 8 * j), Bool.or_true]
  case retires =>
    refine fun free => ⟨fun legal => ?_, fun refused => ?_⟩
    · have step : exec .retreq s = .next ((storeRetreq s x s.input.id).getD _) := rfl
      rw [step, storeRetreq_starts _ free legal]
      refine ⟨_, rfl, rfl, rfl, ?_, rfl⟩
      exact (BitVec.toNat_ofNat _ 12).trans (Nat.mod_eq_of_lt (bf_lt x 11 0))
    · have step : exec .retreq s = .next ((storeRetreq s x s.input.id).getD _) := rfl
      rw [step, storeRetreq_refuses _ free refused]
      rfl
  case retired =>
    intro busy
    obtain ⟨by_, step⟩ := retirementComplete_eq busy
    have ends := settles_ends (retiredState s) by_
    refine ⟨_, congrArg Host.Outcome.next step, ends.reads State.retBusy fun _ => rfl, ?_, fun quiet => ?_⟩
    · rw [pcLive, getStack_settles ends]
      exact dead_retiredState
    · exact (ends.reads State.retCount fun _ => rfl).trans (retCount_retiredState quiet)
  case repairs =>
    intro free known live spare
    have step : exec .pprreq s = .next ((storePprreq s x s.input.id).getD _) := rfl
    rw [step, storePprreq_starts _ free known live spare]
    exact ⟨_, rfl, rfl, rfl, rfl⟩
  case repaired =>
    intro busy
    have ends := settles_ends (repairedState s) s.pprBy
    refine ⟨_, congrArg Host.Outcome.next (repairComplete_eq busy), ends.reads State.pprBusy fun _ => rfl,
      ends.reads State.pprCount fun _ => rfl, ?_, fun none_ => ?_⟩
    · have used : (busyFalls (releaseWrites (repairedState s)) s.pprBy).spares = (repairedState s).spares :=
        ends.reads State.spares fun _ => rfl
      rw [sparesUsed, used]
      exact mapGet_put_same 0 s.spares (bankOf s.pprReq) (sparesUsed s (bankOf s.pprReq) + 1)
    · rw [releaseWrites_none (s := repairedState s) none_]
      exact sameMemory_of_mem rfl
  case rates =>
    intro known legal new
    obtain ⟨tgt, pend, starts⟩ := startRetrain_keeps (s := putStack s place { getStack s place with
      tgt := BitVec.ofNat 2 (bf x 3 2), pend := true }) _ (getStack_putStack _ _ _)
    exact ⟨_, congrArg Host.Outcome.next ((if_pos known).trans (storeRate_pends legal new)), tgt, pend, starts rfl⟩
  case retrained =>
    intro going free
    refine congrArg Host.Outcome.next ((if_neg ?_).trans (if_neg ?_))
    · show ¬ (!k.retraining) = true
      rw [going]
      decide
    · show ¬ k.forced = true
      rw [free]
      decide
  case forced =>
    intro known free
    refine ⟨_, congrArg Host.Outcome.next (if_neg ?_), ?_⟩
    · show ¬ (48 ≤ place ∨ k.forced = true)
      rw [free]
      exact fun h => h.elim (fun high => by omega) (by decide)
    · have held : getStack (later (putStack s place { k with retraining := true, forced := true, since := s.time })
          (.event .retrainComplete { place := place })) place = _ := getStack_putStack _ _ _
      rw [held]
      exact ⟨rfl, rfl, rfl⟩
  case system =>
    intro key id i tc1 found
    have system : (if s.input.sub = 1 then systemAccessAt s place else none) = some (key, id, i) := (if_pos tc1).trans found
    show execPseudoChannelService s = _
    rw [execPseudoChannelService]
    rw [system]
  case served =>
    intro core o none_ found
    obtain ⟨cls, touches⟩ := copyAt_found found
    have step := service_copy none_ found
    rw [serveOp] at step
    refine ⟨opTouches_place touches, fun r src dst sp vf il tc kind => ?_, fun r src off sp vf tc kind => ?_, fun m kind => ?_⟩
    · rw [kind] at cls step
      exact ⟨Option.some.inj cls, step⟩
    · rw [kind] at cls step
      exact ⟨Option.some.inj cls, step⟩
    · rw [kind] at cls step
      refine ⟨?_, step⟩
      exact classOf_matrix cls

end Sys2Proof.Proofs
end

section
/-! PROOFS. Link failures, session keys and uncorrectable errors take effect (18 R349, R350, 16 R323, 22 R428). -/

namespace Sys2Proof.Proofs

open Sys2Proof Sys2Proof.Machine Sys2Proof.Laws

/-! ## What an event's log and a killed launch leave alone -/

section
variable {s : State}

theorem logEvent_only (s : State) (e : LogEntry) (part : Option Nat) :
    logEvent s e part = { s with log := (logEvent s e part).log, ctxs := (logEvent s e part).ctxs } := by
  cases part <;> rfl

/-- What killed launches change: their partitions, and the completions that come due. -/
def killsOnly (s u : State) : Prop := u = { s with parts := u.parts, due := u.due }

theorem killsOnly.trans {s t u : State} (h : killsOnly s t) (k : killsOnly t u) : killsOnly s u :=
  Eq.trans k (congrArg (fun x : State => { x with parts := u.parts, due := u.due }) h)

theorem killsOnly.foldl {α : Type} {f : State → α → State} (h : ∀ s x, killsOnly s (f s x)) (xs : List α) :
    ∀ s, killsOnly s (xs.foldl f s) := by
  induction xs with
  | nil => exact fun _ => rfl
  | cons x rest ih => exact fun s => (h s x).trans (ih _)

theorem endLaunch_only (s : State) (part id : Nat) (c c' : BitVec 8) (kill : Bool) :
    killsOnly s (endLaunch s part id c c' kill) := by
  rw [endLaunch]
  split <;> rfl

theorem killPart_only (s : State) (part : Nat) : killsOnly s (killPart s part) := by
  refine .foldl (fun t e => ?_) _ s
  split
  · exact endLaunch_only _ _ _ _ _ _
  · rfl

theorem killsOnly.partOf {s u : State} (h : killsOnly s u) : partOf u = partOf s := by
  funext die
  rw [h]
  rfl

/-! ## Launches that end -/

/-- Launch m of a partition is over or is to end. -/
def endsIn (s : State) (part m : Nat) : Prop :=
  (getLaunch (getPart s part) m).live = true → (getLaunch (getPart s part) m).ending = true

theorem endLaunch_ends (s : State) (part id : Nat) (c c' : BitVec 8) (kill : Bool) :
    endsIn (endLaunch s part id c c' kill) part id := by
  rw [endsIn, endLaunch]
  split
  case isTrue =>
    have ended : getLaunch (getPart (later (putPart s part (putLaunch (getPart s part) id { getLaunch (getPart s part) id with
        ending := true, killed := kill, cause := c, cause2 := c' })) (.event .launchCompletion { place := part, id := id }))
        part) id = _ := (congrArg (getLaunch · id) (getPart_putPart _ part _)).trans (getLaunch_putLaunch _ id _)
    rw [ended]
    exact fun _ => rfl
  case isFalse h =>
    intro live
    rw [live, Bool.true_and, Bool.not_eq_true', Bool.not_eq_false] at h
    exact h

theorem endLaunch_elsewhere (s : State) (part id : Nat) (c c' : BitVec 8) (kill : Bool) {other : Nat} (h : other ≠ part) :
    getPart (endLaunch s part id c c' kill) other = getPart s other := by
  rw [endLaunch]
  split
  · exact getPart_putPart_ne _ _ h
  · rfl

theorem endLaunch_keeps (s : State) (part id : Nat) (c c' : BitVec 8) (kill : Bool) (m : Nat) :
    (getLaunch (getPart (endLaunch s part id c c' kill) part) m).live = (getLaunch (getPart s part) m).live ∧
      (endsIn s part m → endsIn (endLaunch s part id c c' kill) part m) := by
  by_cases same : m = id
  · refine ⟨?_, fun _ => same ▸ endLaunch_ends _ _ _ _ _ _⟩
    rw [same, endLaunch]
    split
    · have ended : getLaunch (getPart (later (putPart s part (putLaunch (getPart s part) id
          { getLaunch (getPart s part) id with ending := true, killed := kill, cause := c, cause2 := c' }))
          (.event .launchCompletion { place := part, id := id })) part) id = _ :=
        (congrArg (getLaunch · id) (getPart_putPart _ part _)).trans (getLaunch_putLaunch _ id _)
      rw [ended]
    · rfl
  · have kept : getLaunch (getPart (endLaunch s part id c c' kill) part) m = getLaunch (getPart s part) m := by
      rw [endLaunch]
      split
      · exact (congrArg (getLaunch · m) (getPart_putPart _ part _)).trans (getLaunch_putLaunch_ne _ _ same)
      · rfl
    rw [endsIn, endsIn, kept]
    exact ⟨rfl, fun h => h⟩

/-- The kills of a partition's listed launches. -/
theorem foldl_endLaunch (part m : Nat) (es : List (Nat × Launch)) : ∀ s,
    let u := es.foldl (fun s e => if e.2.live then endLaunch s part e.1 0 0 true else s) s
    (getLaunch (getPart u part) m).live = (getLaunch (getPart s part) m).live ∧
      ((∃ l, (m, l) ∈ es ∧ l.live = true) ∨ endsIn s part m → endsIn u part m) := by
  induction es with
  | nil => exact fun s => ⟨rfl, fun h => h.elim (fun ⟨_, hl, _⟩ => absurd hl List.not_mem_nil) id⟩
  | cons e rest ih =>
    intro s
    obtain ⟨live, ends⟩ := ih (if e.2.live then endLaunch s part e.1 0 0 true else s)
    by_cases alive : e.2.live = true
    · rw [if_pos alive] at live ends
      obtain ⟨live', ends'⟩ := endLaunch_keeps s part e.1 0 0 true m
      rw [List.foldl_cons, if_pos alive]
      refine ⟨live.trans live', fun h => ends ?_⟩
      rcases h with ⟨l, hl, ll⟩ | done
      · rcases List.mem_cons.mp hl with first | later_
        · right
          rw [show m = e.1 from congrArg Prod.fst first]
          exact endLaunch_ends _ _ _ _ _ _
        · exact .inl ⟨l, later_, ll⟩
      · exact .inr (ends' done)
    · rw [if_neg alive] at live ends
      rw [List.foldl_cons, if_neg alive]
      refine ⟨live, fun h => ends (h.imp_left fun ⟨l, hl, ll⟩ => ?_)⟩
      rcases List.mem_cons.mp hl with first | later_
      · exact absurd ((congrArg (fun x : Nat × Launch => x.2.live) first).symm.trans ll) alive
      · exact ⟨l, later_, ll⟩

theorem getLaunch_listed {p : Partition} {m : Nat} (live : (getLaunch p m).live = true) : (m, getLaunch p m) ∈ p.launches := by
  rw [getLaunch] at live ⊢
  generalize p.launches = es at live ⊢
  induction es with
  | nil => exact absurd live Bool.false_ne_true
  | cons e rest ih =>
    rw [mapGet] at live ⊢
    split at live
    case isTrue same =>
      rw [if_pos same, same]
      exact List.mem_cons_self
    case isFalse other =>
      rw [if_neg other]
      exact List.mem_cons_of_mem _ (ih live)

theorem killPart_ends (s : State) (part m : Nat) : endsIn (killPart s part) part m := by
  obtain ⟨live, ends⟩ := foldl_endLaunch part m (getPart s part).launches s
  intro alive
  exact ends (.inl ⟨_, getLaunch_listed (live.symm.trans alive), live.symm.trans alive⟩) alive

theorem killPart_elsewhere (s : State) {part other : Nat} (h : other ≠ part) :
    getPart (killPart s part) other = getPart s other := by
  refine foldl_keeps (fun u => getPart u other) (fun t e => ?_) _ s
  split
  · exact endLaunch_elsewhere _ _ _ _ _ _ h
  · rfl

/-! ## The fabric (22 R428) -/

/-- The partitions that hold one of some dies, of those listed, are killed one after another. -/
def killParts (cut : List Nat) (s : State) (p : Nat) : State := if cut.any fun d => partOf s d == p then killPart s p else s

theorem killParts_only (cut : List Nat) (s : State) (p : Nat) : killsOnly s (killParts cut s p) := by
  rw [killParts]
  split
  · exact killPart_only _ _
  · rfl

theorem killParts_elsewhere (cut : List Nat) (s : State) {p other : Nat} (h : other ≠ p) :
    getPart (killParts cut s p) other = getPart s other := by
  rw [killParts]
  split
  · exact killPart_elsewhere _ h
  · rfl

theorem killParts_spared {cut : List Nat} {p : Nat} (spared : ∀ d ∈ cut, partOf s d ≠ p) : killParts cut s p = s := by
  rw [killParts, if_neg]
  rw [List.any_eq_true]
  exact fun ⟨d, hd, same⟩ => spared d hd (eq_of_beq same)

theorem killParts_struck {cut : List Nat} {p d : Nat} (hd : d ∈ cut) (at_ : partOf s d = p) :
    killParts cut s p = killPart s p := by
  have struck : (cut.any fun d => partOf s d == p) = true := List.any_eq_true.mpr ⟨d, hd, beq_iff_eq.mpr at_⟩
  exact if_pos struck

theorem foldl_killParts {cut : List Nat} (ps : List Nat) (p : Nat) : ∀ s,
    ((∀ d ∈ cut, partOf s d ≠ p) → getPart (ps.foldl (killParts cut) s) p = getPart s p) ∧
      (∀ d ∈ cut, partOf s d = p → ∀ m, p ∈ ps ∨ endsIn s p m → endsIn (ps.foldl (killParts cut) s) p m) := by
  induction ps with
  | nil => exact fun s => ⟨fun _ => rfl, fun _ _ _ m h => h.resolve_left List.not_mem_nil⟩
  | cons q rest ih =>
    intro s
    obtain ⟨spares, ends⟩ := ih (killParts cut s q)
    rw [(killParts_only cut s q).partOf] at spares ends
    by_cases same : p = q
    · refine ⟨fun spared => (spares spared).trans ?_, fun d hd at_ m _ => ends d hd at_ m (.inr ?_)⟩
      · rw [← same, killParts_spared spared]
      · rw [← same, killParts_struck hd at_]
        exact killPart_ends _ _ _
    · have kept := killParts_elsewhere cut s same
      refine ⟨fun spared => (spares spared).trans kept, fun d hd at_ m h => ends d hd at_ m ?_⟩
      refine h.imp (fun hp => (List.mem_cons.mp hp).resolve_left same) fun done => ?_
      rwa [endsIn, kept]

theorem foldl_killParts_none (ps : List Nat) : ps.foldl (killParts []) s = s := by
  induction ps with
  | nil => rfl
  | cons q rest ih => exact ih

end

/-! ## Failed frames (R349) -/

section
variable {s : State}

theorem freezeDie_keeps (die : Nat) :
    (getDie (freezeDie s die) die).frozen = true ∧ getStack (freezeDie s die) = getStack s := by
  let u := { putDie s die { getDie s die with frozen := true } with
    ctxs := s.ctxs.map fun (e : Nat × Ctx) => if keyDie e.1 = die then (e.1, dropLeaving die e.2) else e }
  let v := killPart u (partOf u die)
  have step : freezeDie s die = logEvent { v with
      cores := v.cores.map fun c => if c.1 / 32 = die then (c.1, cutEngine c.2) else c } (.freeze (.diePort die))
        (some (partOf v die)) := rfl
  have killed : killsOnly u v := killPart_only _ _
  rw [step, logEvent_only]
  refine ⟨?_, ?_⟩
  · show (getDie v die).frozen = true
    rw [killed]
    exact congrArg Die.frozen (getDie_putDie s die { getDie s die with frozen := true })
  · show getStack v = getStack s
    rw [killed]
    rfl

/-! ## Uncorrectable errors (R350, R323) -/

theorem readByte_rewritten (s : State) (p n a : Nat) (bad : Bool) :
    readByte (writeBytes s p (readBytes s p n) bad) a = readByte s a := by
  have length : (readBytes s p n).length = n := by rw [readBytes, List.length_map, List.length_range]
  by_cases inside : p ≤ a ∧ a < p + n
  · obtain ⟨i, rfl⟩ := Nat.exists_eq_add_of_le inside.1
    have hi : i < n := by omega
    rw [readByte_writeBytes_in _ _ _ _ (length.symm ▸ hi)]
    rw [readBytes, List.getD_eq_getElem?_getD, List.getElem?_map, List.getElem?_range hi]
    rfl
  · exact readByte_writeBytes_out _ _ _ _ (by rw [length]; omega)

theorem poisonedRun_written {p i : Nat} (bs : List Byte) (hi : i < bs.length) :
    poisonedRun (writeBytes s p bs true) (p + i) 1 = true := by
  refine List.any_eq_true.mpr ⟨(p + i, true), ?_, ?_⟩
  · refine List.mem_append_left _ (List.mem_append_right _ (List.mem_map.mpr ⟨i, List.mem_range.mpr hi, rfl⟩))
  · rw [decide_eq_true (Nat.le_refl _), decide_eq_true (Nat.lt_succ_self _)]
    rfl

theorem uncorrectable_main {place : Nat} (low : place < mainTop) : ∃ u, uncorrectable s place = u ∧ u.mem = s.mem ∧
    u.dies = s.dies ∧ u.lines = mapErase s.lines (place / 64) := by
  refine ⟨_, if_pos low, ?_⟩
  rw [logEvent_only]
  exact ⟨rfl, rfl, rfl⟩

theorem uncorrectable_cell {place : Nat} (high : mainTop ≤ place) (top : place < 2 ^ 56)
    (on : siblingEnabled s (homeDie place) = true) (area : headerBase (homeDie place) ≤ place) :
    uncorrectable s place = putDie s (homeDie place)
      (cellError (getDie s (homeDie place)) ((place - dieStoreBase) % 0x10000000)) := by
  refine (if_neg (Nat.not_lt.mpr high)).trans (if_pos ?_)
  rw [on, decide_eq_true top, decide_eq_true area]
  rfl

theorem lineOk_failed {u : State} {place : Nat} (lines : u.lines = mapErase s.lines (place / 64)) (a slot : Nat) :
    lineOk u place a slot = false := by
  rw [lineOk, lines, mapGet_erase_same]
  dsimp only
  rw [Bool.and_false]
  rfl

theorem poisonCell_poisons (d : Die) (i : Nat) (group : Bool) : (getCell (poisonCell d i group) i).poison = true ∧
    (getCell (poisonCell d i group) i).groupBad = ((getCell d i).groupBad || group) := by
  have cell : getCell (poisonCell d i group) i = { getCell d i with
      poison := true, groupBad := (getCell d i).groupBad || group } := mapGet_put_same _ _ _ _
  rw [cell]
  exact ⟨rfl, rfl⟩

theorem cellError_cell {d : Die} {off : Nat} (h : 0x0F000000 ≤ off) :
    cellError d off = poisonCell d ((off - 0x0F000000) / 8) false := if_pos h

theorem cellError_header {d : Die} {off : Nat} (h : off < 0x0EC00000) :
    cellError d off = poisonCell d ((off - 0x0E400000) / 4) false :=
  (if_neg (by omega)).trans (if_pos h)

theorem cellError_group {d : Die} {off g i : Nat} (low : 0x0EC00000 ≤ off) (high : off < 0x0F000000)
    (group : (off - 0x0EC00000) / 64 = g) (pos : 0 < g) (used : ∃ c, (i, c) ∈ d.cells ∧ c.link = g)
    (sole : ∀ e ∈ d.cells, e.2.link = g → e.1 = i) : cellError d off = poisonCell d i true := by
  refine (if_neg (by omega)).trans ((if_neg (by omega)).trans ?_)
  obtain ⟨c, hc, link⟩ := used
  let uses := fun e : Nat × Cell => e.2.link == g
  obtain ⟨e, he⟩ := Option.isSome_iff_exists.mp (List.find?_isSome.mpr ⟨(i, c), hc, show uses (i, c) = true from
    beq_iff_eq.mpr link⟩)
  have linked : uses e = true := List.find?_some he
  have first : e.1 = i := sole e (List.mem_of_find?_eq_some he) (eq_of_beq linked)
  dsimp only
  rw [group, if_neg (by omega), listFind_eq_find?, he]
  dsimp only
  rw [first]

end

section
variable {s : State}

theorem linkFrameFailure_counts {n : Nat} (known : s.input.place < 48) (up : (getStack s s.input.place).linkDown = false)
    (count : (if s.input.flag then (getStack s s.input.place).linkFails + 1 else 1) = n) (few : n < 4) :
    exec .linkFrameFailure s = .next (putStack s s.input.place { getStack s s.input.place with linkFails := n }) := by
  refine congrArg Host.Outcome.next ((if_neg ?_).trans ?_)
  · rw [up]
    exact fun h => h.elim (fun high => by omega) (by decide)
  · rw [count]
    exact if_pos few

theorem linkFrameFailure_fails (known : s.input.place < 48) (up : (getStack s s.input.place).linkDown = false)
    (flag : s.input.flag = true) (third : (getStack s s.input.place).linkFails = 3) :
    exec .linkFrameFailure s = .next (freezeDie (logEvent (putStack s s.input.place
      { getStack s s.input.place with linkFails := 4, linkDown := true }) (.linkFailed s.input.place)
      (some (stackPart (putStack s s.input.place { getStack s s.input.place with linkFails := 4, linkDown := true })
        s.input.place))) (s.input.place / 2)) := by
  refine congrArg Host.Outcome.next ((if_neg ?_).trans ?_)
  · rw [up]
    exact fun h => h.elim (fun high => by omega) (by decide)
  · rw [flag, third]
    exact if_neg (by decide)

/-- The dies that have lost a route to another, or from it. -/
def cutDies (t : State) : List Nat :=
  (List.range 24).filter fun a => (List.range 24).any fun b => !routeExists t a b || !routeExists t b a

theorem mem_cutDies {t : State} {a : Nat} : a ∈ cutDies t ↔
    a < 24 ∧ ∃ b, b < 24 ∧ (routeExists t a b = false ∨ routeExists t b a = false) := by
  rw [cutDies, List.mem_filter, List.mem_range, List.any_eq_true]
  simp only [List.mem_range, Bool.or_eq_true, Bool.not_eq_true']

theorem fabricLinkFailure_eq : exec .fabricLinkFailure s =
    .next ((List.range s.partCount).foldl (killParts (cutDies { s with
      deadLinks := s.deadLinks ++ [(s.input.place, s.input.dir)] }))
      { s with deadLinks := s.deadLinks ++ [(s.input.place, s.input.dir)] }) := rfl

/-- The die and the offset of a place in a die's batt area. -/
theorem homeDie_die {die off : Nat} (hd : die < 24) (ho : off < 0x10000000) : homeDie (diePlace die off) = die ∧
    (diePlace die off - dieStoreBase) % 0x10000000 = off ∧ mainTop ≤ diePlace die off ∧ diePlace die off < 2 ^ 56 := by
  have place : diePlace die off = 0x8000000000000 + die * 0x10000000 + off := rfl
  rw [homeDie, place, dieStoreBase, mainTop, if_neg (by omega), if_pos (by omega)]
  omega

theorem cellOffset {place : Nat} (high : mainTop ≤ place) (top : place < 2 ^ 56) (area : cellBase (homeDie place) ≤ place) :
    0x0F000000 ≤ (place - dieStoreBase) % 0x10000000 := by
  have home : homeDie place = (place - 0x8000000000000) / 0x10000000 :=
    (if_neg (Nat.not_lt.mpr high)).trans (if_pos top)
  have base : cellBase (homeDie place) = 0x8000000000000 + homeDie place * 0x10000000 + 0x0F000000 := rfl
  rw [base, home] at area
  rw [dieStoreBase]
  omega

theorem cellError_at {die off : Nat} (hd : die < 24) (ho : off < 0x10000000) (low : 0x0E400000 ≤ off)
    (on : siblingEnabled s die = true) :
    getDie (uncorrectable s (diePlace die off)) die = cellError (getDie s die) off := by
  obtain ⟨home, offset, high, top⟩ := homeDie_die hd ho
  have area : headerBase (homeDie (diePlace die off)) ≤ diePlace die off := by
    rw [home]
    exact Nat.add_le_add_left low _
  rw [uncorrectable_cell high top (home.symm ▸ on) area, home, getDie_putDie, offset]

/-- An error changes no byte. -/
theorem uncorrectable_sameMemory (place : Nat) : sameMemory s (uncorrectable s place) := by
  by_cases low : place < mainTop
  · obtain ⟨u, step, mem, -, -⟩ := uncorrectable_main (s := s) low
    rw [step]
    exact sameMemory_of_mem mem
  · rw [uncorrectable, if_neg low]
    split
    · exact sameMemory_of_mem (putDie_mem _ _ _)
    · exact fun a => readByte_rewritten s _ 8 a true

end

/-- Settles O53: each event by its branch, and a partition's kills launch by launch. -/
theorem errorsAndLinkFailuresTakeEffect : Obligations.ErrorsAndLinkFailuresTakeEffect := by
  refine fun s => ⟨?frames, fun known => congrArg Host.Outcome.next (if_pos known), ?errors, ?fabric⟩
  case frames =>
    refine fun known up => ⟨fun flag => ?_, fun flag few => ?_, fun flag third => ?_⟩
    · exact linkFrameFailure_counts known up (by rw [flag]; rfl) (by decide)
    · exact linkFrameFailure_counts known up (by rw [flag]; rfl) (Nat.succ_lt_succ few)
    · let t := putStack s s.input.place { getStack s s.input.place with linkFails := 4, linkDown := true }
      obtain ⟨frozen, kept⟩ := freezeDie_keeps (s := logEvent t (.linkFailed s.input.place)
        (some (stackPart t s.input.place))) (s.input.place / 2)
      refine ⟨_, linkFrameFailure_fails known up flag third, ?_, frozen⟩
      rw [kept, logEvent_only]
      exact congrArg Stack.linkDown (getStack_putStack s s.input.place
        { getStack s s.input.place with linkFails := 4, linkDown := true })
  case errors =>
    refine ⟨_, rfl, uncorrectable_sameMemory _, ?lines, ?cells, ?shared, ?words⟩
    case lines =>
      intro low a slot
      obtain ⟨u, step, -, -, lines⟩ := uncorrectable_main (s := s) low
      rw [step]
      exact lineOk_failed lines a slot
    case cells =>
      intro high top on area
      rw [uncorrectable_cell high top on (Nat.le_trans (Nat.add_le_add_left (by decide) _) area), getDie_putDie,
        cellError_cell (cellOffset high top area)]
      exact (poisonCell_poisons _ _ _).1
    case shared =>
      intro die on hd
      refine ⟨fun i k hi hk at_ => ?_, fun g k i pos hg hk at_ used sole => ?_⟩
      · have word : s.input.place = diePlace die (0x0E400000 + (4 * i + k)) := by
          rw [at_, headerBase, Nat.add_assoc, diePlace_add]
        rw [word, cellError_at hd (by omega) (by omega) on, cellError_header (by omega)]
        have index : (0x0E400000 + (4 * i + k) - 0x0E400000) / 4 = i := by omega
        rw [index]
        exact (poisonCell_poisons _ _ _).1
      · have word : s.input.place = diePlace die (0x0EC00000 + (64 * g + k)) := by
          rw [at_, groupPoolBase, Nat.add_assoc, diePlace_add]
        rw [word, cellError_at hd (by omega) (by omega) on,
          cellError_group (by omega) (by omega) (by omega) pos used sole]
        obtain ⟨poison, bad⟩ := poisonCell_poisons (getDie s die) i true
        exact ⟨poison, bad.trans (Bool.or_true _)⟩
    case words =>
      intro high off
      have step : uncorrectable s s.input.place = writeBytes s (s.input.place / 8 * 8)
          (readBytes s (s.input.place / 8 * 8) 8) true := by
        refine (if_neg (Nat.not_lt.mpr high)).trans (if_neg ?_)
        rw [off, Bool.and_false, Bool.false_and]
        decide
      have length : (readBytes s (s.input.place / 8 * 8) 8).length = 8 := by rw [readBytes, List.length_map, List.length_range]
      rw [step]
      have hit := poisonedRun_written (s := s) (p := s.input.place / 8 * 8) (i := s.input.place % 8)
        (readBytes s (s.input.place / 8 * 8) 8) (by omega)
      rwa [Nat.div_add_mod' s.input.place 8] at hit
  case fabric =>
    intro t cut
    refine ⟨fun whole => ?_, _, fabricLinkFailure_eq, ?_, fun p spared => ?_, fun a id ha lost held => ?_⟩
    · have none_ : cutDies t = [] := by
        refine List.eq_nil_iff_forall_not_mem.mpr fun a ha => ?_
        obtain ⟨lt, lost⟩ := mem_cutDies.mp ha
        exact whole a lt lost
      exact fabricLinkFailure_eq.trans (congrArg Host.Outcome.next
        ((congrArg (fun c => (List.range s.partCount).foldl (killParts c) t) none_).trans (foldl_killParts_none _)))
    · have killed : killsOnly t ((List.range s.partCount).foldl (killParts (cutDies t)) t) :=
        .foldl (killParts_only _) _ _
      exact Eq.trans (congrArg State.deadLinks killed) rfl
    · refine (foldl_killParts (List.range s.partCount) p t).1 fun d hd => ?_
      obtain ⟨lt, lost⟩ := mem_cutDies.mp hd
      exact spared d lt lost
    · exact (foldl_killParts (List.range s.partCount) (partOf s a) t).2 a (mem_cutDies.mpr ⟨ha, lost⟩) rfl id
        (.inl (List.mem_range.mpr held))

end Sys2Proof.Proofs
end

section
/-! PROOFS. The host's and the storage devices' accesses and messages complete (22 R433 to R437). -/

namespace Sys2Proof.Proofs

open Sys2Proof Sys2Proof.Machine Sys2Proof.Laws

/-! ## A bus access does not depend on the hubs -/

/-- A state with other hubs. -/
def withHubs (s : State) (hs : List (Nat × Hub)) : State := { s with hubs := hs }

section
variable {s : State} {hs : List (Nat × Hub)}

theorem notePark_withHubs (s : State) (p n : Nat) : notePark (withHubs s hs) p n = withHubs (notePark s p n) hs := by
  rw [notePark, notePark]
  split
  · rfl
  · refine List.foldl_hom (withHubs · hs) fun t e => ?_
    split <;> rfl

theorem writeHomes_withHubs (es : List (Nat × Byte × Bool)) : ∀ s,
    writeHomes (withHubs s hs) es = withHubs (writeHomes s es) hs := by
  induction es with
  | nil => exact fun _ => rfl
  | cons e rest ih =>
    intro s
    rw [writeHomes, writeHomes, ← ih, ← notePark_withHubs]
    rfl

theorem writeLine_withHubs (pa slot : Nat) (es : List (Nat × Byte × Bool)) :
    writeLine (withHubs s hs) pa slot es = (withHubs (writeLine s pa slot es).1 hs, (writeLine s pa slot es).2) := by
  cases es with
  | nil => rfl
  | cons e rest =>
    rw [writeLine, writeLine, writeHomes_withHubs, show linkIsDown (withHubs s hs) e.1 = linkIsDown s e.1 from rfl,
      show lineOk (withHubs s hs) e.1 pa slot = lineOk s e.1 pa slot from rfl]
    split_ifs <;> rfl

theorem writeLines_withHubs (os : List OutByte) (ls : List (Nat × Nat × Nat)) : ∀ s,
    writeLines (withHubs s hs) os ls = (withHubs (writeLines s os ls).1 hs, (writeLines s os ls).2) := by
  induction ls with
  | nil => exact fun _ => rfl
  | cons l rest ih =>
    intro s
    rw [writeLines, writeLines]
    dsimp only
    rw [writeLine_withHubs, ih]

theorem busWrite_withHubs (ps : List EnginePlace) (data : List Byte) :
    busWrite (withHubs s hs) ps data = withHubs (busWrite s ps data) hs := by
  rw [busWrite, busWrite, writeOut, writeOut, writeHomes_withHubs, writeLines_withHubs]

theorem busPlaces_withHubs (slot n : Nat) : ∀ pa, busPlaces (withHubs s hs) slot pa n = busPlaces s slot pa n := by
  induction n with
  | zero => exact fun _ => rfl
  | succ n ih =>
    intro pa
    rw [busPlaces, busPlaces, ih]
    rfl

/-- The bytes that an access is about. -/
def busLength (a : BusAccess) : Nat := if a.data.isEmpty then a.count else a.data.length

theorem busAccess_withHubs {h slot pa : Nat} {a : BusAccess} {ps : List EnginePlace}
    (places : busPlaces s slot pa (busLength a) = some ps) : busAccess (withHubs s hs) h slot pa a =
      if ps.any (engineHeld s) then none
      else if a.data.isEmpty then some (busAnswer (withHubs s hs) h (busRead s ps))
      else some (withHubs (busWrite s ps a.data) hs) := by
  have places' : busPlaces (withHubs s hs) slot pa (if a.data.isEmpty then a.count else a.data.length) = some ps :=
    (busPlaces_withHubs slot _ pa).trans places
  rw [busAccess, places', ← busWrite_withHubs]
  rfl

end

/-! ## What an access does -/

section
variable {s : State} {i : Instr} {a arrived : BusAccess} {hub : Nat} {ps : List EnginePlace}

/-- An access at places: performed and answered at a hub, or waiting while main memory holds a byte of it. -/
def busServed (s : State) (i : Instr) (hub : Nat) (waits : State → List PortWork) (a arrived : BusAccess)
    (ps : List EnginePlace) : Prop :=
  (ps.any (engineHeld s) = false → ∃ u, exec i s = .next u ∧ waits u = [] ∧
    (a.data.isEmpty = true → sameMemory s u ∧ (getHub u hub).replies = (getHub s hub).replies ++ [busRead s ps]) ∧
    (a.data.isEmpty = false → sameMemory (busWrite s ps a.data) u ∧ (getHub u hub).replies = (getHub s hub).replies)) ∧
  (ps.any (engineHeld s) = true → ∃ u, exec i s = .next u ∧ sameMemory s u ∧ waits u = [.access arrived])

/-- An access is served where the step performs it at the hub, with nothing that waits, and else lets it wait. -/
theorem busServed_of {hs : List (Nat × Hub)} {waits : State → List PortWork} {done : State → State} {held : State} {slot pa : Nat}
    (places : busPlaces s slot pa (busLength a) = some ps) (data : arrived.data = a.data) (count : arrived.count = a.count)
    (step : ∀ t, busAccess (withHubs s hs) hub slot pa arrived = some t → exec i s = .next (done t))
    (stuck : busAccess (withHubs s hs) hub slot pa arrived = none → exec i s = .next held)
    (hubs : (getHub (withHubs s hs) hub).replies = (getHub s hub).replies)
    (empty : ∀ t, waits (done t) = [] ∧ (done t).mem = t.mem ∧ (getHub (done t) hub).replies = (getHub t hub).replies)
    (keeps : held.mem = s.mem ∧ waits held = [.access arrived]) : busServed s i hub waits a arrived ps := by
  have access := busAccess_withHubs (h := hub) (hs := hs) (a := arrived) (slot := slot) (pa := pa) (ps := ps)
    (by rw [busLength, data, count]; exact places)
  rw [data] at access
  refine ⟨fun free => ?_, fun held_ => ?_⟩
  · rw [free] at access
    by_cases read : a.data.isEmpty = true
    · rw [read] at access
      obtain ⟨none_, mem, replies⟩ := empty (busAnswer (withHubs s hs) hub (busRead s ps))
      refine ⟨_, step _ access, none_, fun _ => ⟨sameMemory_of_mem mem, replies.trans ?_⟩, fun write => ?_⟩
      · rw [← hubs]
        exact congrArg Hub.replies (getHub_putHub (withHubs s hs) hub _)
      · exact absurd (read.symm.trans write) (by decide)
    · rw [if_neg (by decide), if_neg read] at access
      obtain ⟨none_, mem, replies⟩ := empty (withHubs (busWrite s ps a.data) hs)
      exact ⟨_, step _ access, none_, fun write => absurd write read, fun _ => ⟨sameMemory_of_mem mem, replies.trans hubs⟩⟩
  · rw [held_, if_pos rfl] at access
    exact ⟨_, stuck access, sameMemory_of_mem keeps.1, keeps.2⟩

end

/-! ## The host (R434, R436) -/

section
variable {s t : State} {h : Nat} {w : PortWork}

/-- A hub with nothing that waits, and with what waits. -/
def posts (s : State) (h : Nat) (ws : List PortWork) : State := putHub s h { getHub s h with posted := ws }

theorem mem_again (s : State) (x : Act) : (again s x).mem = s.mem := by
  rw [again]
  dsimp only
  split <;> rfl

theorem getHub_again (s : State) (x : Act) : getHub (again s x) = getHub s := by
  rw [again]
  dsimp only
  split <;> rfl

theorem hostArrives_drained {ws : List PortWork} {r : State × List PortWork}
    (drained : drainPort (hostAct h) (posts s h []) ((getHub s h).posted ++ ws) = r) : hostArrives s h ws =
      if r.2.isEmpty then posts r.1 h r.2 else again (posts r.1 h r.2) (.event .hostBarAccess { place := h, flag := true }) := by
  rw [← drained]
  rfl

theorem drainPort_acts {act : State → PortWork → Option State} (acts : act s w = some t) : drainPort act s [w] = (t, []) := by
  rw [drainPort, acts]
  rfl

theorem drainPort_waits {act : State → PortWork → Option State} (stuck : act s w = none) : drainPort act s [w] = (s, [w]) := by
  rw [drainPort, stuck]

theorem hostArrives_acts (none_ : (getHub s h).posted = []) (act : hostAct h (posts s h []) w = some t) :
    hostArrives s h [w] = posts t h [] := by
  rw [hostArrives_drained (r := (t, []))]
  · rfl
  · rw [none_]
    exact drainPort_acts act

/-- The state in which what arrived at the host's port waits. -/
def hostWaits (s : State) (h : Nat) (w : PortWork) : State :=
  again (posts (posts s h []) h [w]) (.event .hostBarAccess { place := h, flag := true })

theorem hostArrives_waits (none_ : (getHub s h).posted = []) (act : hostAct h (posts s h []) w = none) :
    hostArrives s h [w] = hostWaits s h w := by
  rw [hostArrives_drained (r := (posts s h [], [w]))]
  · rfl
  · rw [none_]
    exact drainPort_waits act

/-- An access of the host through its window is served. -/
theorem host_serves {i : Instr} {a arrived : BusAccess} {ps : List EnginePlace} (data : arrived.data = a.data)
    (count : arrived.count = a.count) (offset : arrived.offset = a.offset) (bar : arrived.bar ≠ 0)
    (fits : a.offset + busLength a ≤ 2 ^ 36) (none_ : (getHub s h).posted = [])
    (step : exec i s = .next (hostArrives s h [.access arrived]))
    (places : busPlaces s (getHub s h).hkey.toNat ((getHub s h).hwinBase.toNat + a.offset) (busLength a) = some ps) :
    busServed s i h (fun u => (getHub u h).posted) a arrived ps := by
  have hub : getHub (posts s h []) h = { getHub s h with posted := [] } := getHub_putHub _ _ _
  have act : hostAct h (posts s h []) (.access arrived) = busAccess (posts s h []) h (getHub s h).hkey.toNat
      ((getHub s h).hwinBase.toNat + a.offset) arrived := by
    have whole : ¬ 2 ^ 36 < arrived.offset + (if arrived.data.isEmpty then arrived.count else arrived.data.length) := by
      rw [offset, data, count]
      exact Nat.not_lt.mpr fits
    refine (if_neg bar).trans ((if_neg whole).trans ?_)
    rw [hub, offset]
  have set (t : State) (ws : List PortWork) : getHub (posts t h ws) h = { getHub t h with posted := ws } := getHub_putHub _ _ _
  refine busServed_of (hs := (posts s h []).hubs) (done := fun t => posts t h [])
    (held := hostWaits s h (.access arrived)) places data count (fun t done => ?_) (fun stuck => ?_) ?_ (fun t => ?_) ?_
  · rw [step, hostArrives_acts none_ (act.trans done)]
  · rw [step, hostArrives_waits none_ (act.trans stuck)]
  · exact Eq.trans (congrArg Hub.replies hub) rfl
  · rw [set]
    exact ⟨rfl, rfl, rfl⟩
  · rw [hostWaits, mem_again, getHub_again, set]
    exact ⟨rfl, rfl⟩

theorem sendVector_masked {x : Hub} {v : Nat} (masked : vectorMasked x v = true) :
    sendVector x v = { x with msixPending := x.msixPending ||| BitVec.ofNat 64 (2 ^ v) } := if_pos masked

theorem sendVector_sends {x : Hub} {v : Nat} (free : vectorMasked x v = false) : (sendVector x v).outbound = x.outbound ++
    [.message (BitVec.ofNat 64 (tableNat x (16 * v) 8)) (BitVec.ofNat 32 (tableNat x (16 * v + 8) 4))] := by
  rw [sendVector, free]
  rfl

end

/-! ## The storage ports (R437) -/

section
variable {s t : State} {p : Nat} {w : PortWork}

/-- A storage port. -/
def portAt (s : State) (p : Nat) : StoragePort := getPort (getHub s (p / 4)) (p % 4)

theorem portAt_setPosted (s : State) (p : Nat) (ws : List PortWork) :
    portAt (setPosted s p ws) p = { portAt s p with posted := ws } := by
  rw [portAt, setPosted]
  dsimp only
  rw [getHub_putHub]
  exact mapGet_put_same _ _ _ _

theorem replies_setPosted (s : State) (p : Nat) (ws : List PortWork) :
    (getHub (setPosted s p ws) (p / 4)).replies = (getHub s (p / 4)).replies :=
  Eq.trans (congrArg Hub.replies (getHub_putHub s (p / 4) (putPort (getHub s (p / 4)) (p % 4) _))) rfl

theorem storageArrives_drained {ws : List PortWork} {r : State × List PortWork}
    (drained : drainPort (storageAct p) (setPosted s p []) ((portAt s p).posted ++ ws) = r) : storageArrives s p ws =
      if r.2.isEmpty then setPosted r.1 p r.2
      else again (setPosted r.1 p r.2) (.event .nvmeDma { place := p, flag := true }) := by
  rw [← drained]
  rfl

theorem storageArrives_acts (none_ : (portAt s p).posted = []) (act : storageAct p (setPosted s p []) w = some t) :
    storageArrives s p [w] = setPosted t p [] := by
  rw [storageArrives_drained (r := (t, []))]
  · rfl
  · rw [none_]
    exact drainPort_acts act

/-- The state in which what arrived at a storage port waits. -/
def storageWaits (s : State) (p : Nat) (w : PortWork) : State :=
  again (setPosted (setPosted s p []) p [w]) (.event .nvmeDma { place := p, flag := true })

theorem storageArrives_waits (none_ : (portAt s p).posted = []) (act : storageAct p (setPosted s p []) w = none) :
    storageArrives s p [w] = storageWaits s p w := by
  rw [storageArrives_drained (r := (setPosted s p [], [w]))]
  · rfl
  · rw [none_]
    exact drainPort_waits act

/-- Whether a DMA is claimed as a message of its port. -/
def dmaClaimed (a : BusAccess) : Bool := !a.data.isEmpty && decide (0xFFFFF000 ≤ a.offset) && decide (a.offset < 2 ^ 32)

theorem dmaClaimed_iff {a : BusAccess} : dmaClaimed a = true ↔ a.data ≠ [] ∧ 0xFFFFF000 ≤ a.offset ∧ a.offset < 2 ^ 32 := by
  rw [dmaClaimed, Bool.and_eq_true, Bool.and_eq_true, decide_eq_true_eq, decide_eq_true_eq, Bool.not_eq_true',
    List.isEmpty_eq_false_iff, and_assoc]

section
variable (live : (portAt s p).frozen = false)
include live

theorem storageAct_message (data : Word) :
    storageAct p (setPosted s p []) (.message data) = some (deviceMessage (setPosted s p []) p data) := by
  have frozen : (portAt (setPosted s p []) p).frozen = false := by rw [portAt_setPosted]; exact live
  exact if_neg (by rw [← portAt, frozen]; decide)

theorem storageAct_access {a : BusAccess} : storageAct p (setPosted s p []) (.access a) =
    if dmaClaimed a then some (deviceMessage (setPosted s p []) p (BitVec.ofNat 64 (ofBytes a.data)))
    else if inPortWindow (portAt s p) a then busAccess (setPosted s p []) (p / 4) (portAt s p).key.toNat a.offset a
    else some (freezeMaster (if a.data.isEmpty then busAnswer (setPosted s p []) (p / 4) .unsupported
      else setPosted s p []) (.storage p)) := by
  have frozen : (portAt (setPosted s p []) p).frozen = false := by rw [portAt_setPosted]; exact live
  have window : inPortWindow (portAt (setPosted s p []) p) a = inPortWindow (portAt s p) a := by rw [portAt_setPosted]; rfl
  have key : (portAt (setPosted s p []) p).key = (portAt s p).key := by rw [portAt_setPosted]
  rw [← window, ← key]
  exact if_neg (by rw [← portAt, frozen]; decide)

theorem storageMessage_arrives (known : p < 8) (place : s.input.place = p) (none_ : (portAt s p).posted = []) :
    exec .storageMessage s = .next (setPosted (deviceMessage (setPosted s p []) p s.input.value) p []) := by
  subst place
  rw [← storageArrives_acts none_ (storageAct_message live s.input.value)]
  refine congrArg Host.Outcome.next (if_neg ?_)
  rw [← portAt, live]
  exact fun h => h.elim (fun high => by omega) (by decide)

theorem nvmeDma_arrives (known : p < 8) (place : s.input.place = p) (flag : s.input.flag = false) :
    exec .nvmeDma s = .next (storageArrives s p [.access s.input.acc]) := by
  subst place
  refine congrArg Host.Outcome.next ((if_neg ?_).trans ?_)
  · rw [← portAt, live]
    exact fun h => h.elim (fun high => by omega) (by decide)
  · rw [flag]
    rfl

end

/-- A DMA in its port's window is served. -/
theorem storage_serves {ps : List EnginePlace} (live : (portAt s s.input.place).frozen = false) (known : s.input.place < 8)
    (flag : s.input.flag = false) (none_ : (portAt s s.input.place).posted = []) (plain : dmaClaimed s.input.acc = false)
    (window : inPortWindow (portAt s s.input.place) s.input.acc = true)
    (places : busPlaces s (portAt s s.input.place).key.toNat s.input.acc.offset (busLength s.input.acc) = some ps) :
    busServed s .nvmeDma (s.input.place / 4) (fun u => (portAt u s.input.place).posted) s.input.acc s.input.acc ps := by
  have act := storageAct_access live (a := s.input.acc)
  rw [plain, window] at act
  have arrives := nvmeDma_arrives live known rfl flag
  refine busServed_of (hs := (setPosted s s.input.place []).hubs) (done := fun t => setPosted t s.input.place [])
    (held := storageWaits s s.input.place (.access s.input.acc)) places rfl rfl (fun t done => ?_) (fun stuck => ?_) ?_
    (fun t => ?_) ?_
  · rw [arrives, storageArrives_acts none_ (act.trans done)]
  · rw [arrives, storageArrives_waits none_ (act.trans stuck)]
  · exact replies_setPosted s s.input.place []
  · rw [portAt_setPosted, replies_setPosted]
    exact ⟨rfl, rfl, rfl⟩
  · rw [storageWaits, mem_again, portAt, getHub_again, ← portAt, portAt_setPosted]
    exact ⟨rfl, rfl⟩

/-- Whether a port's messages reach a core. -/
def reaches (s : State) (port : StoragePort) : Bool :=
  port.irqEnable && decide (port.irqCore.toNat < 48) && partOf s (port.irqCore.toNat / 2) == 0

/-- A message of a port told to its core. -/
def messageTold (s : State) (c : Nat) (data : Word) : State :=
  let x := getSc (getDie s (c / 2)) (c % 2)
  setIpend (putDie s (c / 2) (putSc (getDie s (c / 2)) (c % 2)
    { x with vec := x.vec ||| BitVec.ofNat 64 (2 ^ (data.toNat % 64)) })) c 2

/-- A message of a port dropped. -/
def messageDropped (s : State) (p : Nat) : State :=
  let t := putHub s (p / 4) (putPort (getHub s (p / 4)) (p % 4) { portAt s p with dropped := (portAt s p).dropped + 1 })
  { t with log := t.log ++ [.messageDropped p] }

theorem deviceMessage_eq (data : Word) : deviceMessage s p data =
    if reaches s (portAt s p) then messageTold s (portAt s p).irqCore.toNat data else messageDropped s p := rfl

theorem deviceMessage_input (x : EventArgs) (data : Word) :
    deviceMessage { s with input := x } p data = { deviceMessage s p data with input := x } := by
  rw [deviceMessage_eq, deviceMessage_eq]
  show (if reaches s (portAt s p) then _ else _) = _
  split <;> rfl

theorem setPosted_input (x : EventArgs) (data : Word) :
    setPosted (deviceMessage (setPosted { s with input := x } p []) p data) p [] =
      { setPosted (deviceMessage (setPosted s p []) p data) p [] with input := x } := by
  have inner : setPosted { s with input := x } p [] = { setPosted s p [] with input := x } := rfl
  rw [inner, deviceMessage_input]
  rfl

theorem mem_deviceMessage (data : Word) : (deviceMessage s p data).mem = s.mem := by
  rw [deviceMessage_eq]
  split <;> rfl

theorem messageTold_reaches (c : Nat) (data : Word) :
    (getSc (getDie (messageTold s c data) (c / 2)) (c % 2)).vec.getLsbD (data.toNat % 64) = true ∧
      (getCtx (messageTold s c data) (systemBase + c)).ipend.getLsbD 2 = true := by
  let x := getSc (getDie s (c / 2)) (c % 2)
  let y := { x with vec := x.vec ||| BitVec.ofNat 64 (2 ^ (data.toNat % 64)) }
  have die : getDie (messageTold s c data) (c / 2) = putSc (getDie s (c / 2)) (c % 2) y := getDie_putDie _ _ _
  have block : getSc (putSc (getDie s (c / 2)) (c % 2) y) (c % 2) = y := mapGet_put_same _ _ _ _
  have ctx : getCtx (messageTold s c data) (systemBase + c) = { getCtx s (systemBase + c) with
      ipend := (getCtx s (systemBase + c)).ipend ||| BitVec.ofNat 16 (2 ^ 2) } := getCtx_putCtx _ _ _
  rw [die, block, ctx]
  refine ⟨?_, ?_⟩
  · show (x.vec ||| BitVec.ofNat 64 (2 ^ (data.toNat % 64))).getLsbD (data.toNat % 64) = true
    rw [BitVec.getLsbD_or, BitVec.getLsbD_ofNat, Nat.testBit_two_pow_self,
      decide_eq_true (Nat.mod_lt _ (by decide : 0 < 64)), Bool.and_self, Bool.or_true]
  · show ((getCtx s (systemBase + c)).ipend ||| BitVec.ofNat 16 (2 ^ 2)).getLsbD 2 = true
    rw [BitVec.getLsbD_or]
    exact Bool.or_true _

theorem told_setPosted (t : State) (c : Nat) (data : Word) (q : Nat) :
    (getSc (getDie (setPosted (messageTold t c data) q []) (c / 2)) (c % 2)).vec.getLsbD (data.toNat % 64) = true ∧
      (getCtx (setPosted (messageTold t c data) q []) (systemBase + c)).ipend.getLsbD 2 = true := messageTold_reaches c data

theorem freezeStorage (t : State) : (portAt (freezeMaster t (.storage p)) p).frozen = true ∧
    (freezeMaster t (.storage p)).mem = t.mem := by
  have port : portAt (putHub t (p / 4) (putPort (getHub t (p / 4)) (p % 4) { portAt t p with frozen := true, posted := [] })) p =
      { portAt t p with frozen := true, posted := [] } := by
    rw [portAt, getHub_putHub]
    exact mapGet_put_same _ _ _ _
  have step : freezeMaster t (.storage p) = logEvent (putHub t (p / 4) (putPort (getHub t (p / 4)) (p % 4)
      { portAt t p with frozen := true, posted := [] })) (.freeze (.storage p)) (some 0) := rfl
  rw [step, logEvent_only]
  exact ⟨congrArg StoragePort.frozen port, rfl⟩

end

/-- Settles O54: what arrives at a port where nothing waits is acted on at once, on a state with other hubs alone. -/
theorem hubAccessesAndMessagesComplete : Obligations.HubAccessesAndMessagesComplete := by
  intro s h x a waiting served port
  refine ⟨fun two => ⟨?bar, ?cxl, ?masked, ?sent, ?link, ?enable⟩, fun known live => ?storage⟩
  case bar =>
    intro free bar fits flag none_ ps places
    refine host_serves rfl rfl rfl bar fits none_ (congrArg Host.Outcome.next ((if_neg ?_).trans ?_)) places
    · rw [show (getHub s s.input.place).frozen = false from free]
      exact fun out => out.elim (fun high => by omega) (by decide)
    · rw [flag]
      rfl
  case cxl =>
    intro free on fits flag none_ ps places
    refine host_serves (arrived := { a with bar := 2 }) rfl rfl rfl (Nat.succ_ne_zero 1) fits none_
      (congrArg Host.Outcome.next ((if_neg ?_).trans (if_pos on))) places
    rw [show (getHub s s.input.place).frozen = false from free]
    exact fun out => out.elim (fun high => by omega) (by decide)
  case masked =>
    exact fun masked => congrArg Host.Outcome.next ((if_pos two).trans (congrArg (putHub s h) (sendVector_masked masked)))
  case sent =>
    intro free
    refine ⟨_, congrArg Host.Outcome.next (if_pos two), ?_⟩
    exact (congrArg Hub.outbound (getHub_putHub s h _)).trans (sendVector_sends free)
  case link => exact congrArg Host.Outcome.next (if_pos two)
  case enable => exact congrArg Host.Outcome.next (if_pos two)
  case storage =>
    have live : (portAt s h).frozen = false := live
    have port_ : portAt s h = port := rfl
    intro claimed
    have claims : dmaClaimed a = true ↔ claimed := dmaClaimed_iff
    refine ⟨?_, ?_, ?_, ?_, ?_⟩
    · intro yes flag none_
      let v := BitVec.ofNat 64 (ofBytes a.data)
      have act := storageAct_access live (a := a)
      rw [claims.mpr yes, if_pos rfl] at act
      refine ⟨_, (nvmeDma_arrives live known rfl flag).trans (congrArg Host.Outcome.next (storageArrives_acts none_ act)),
        sameMemory_of_mem (mem_deviceMessage v), ?_⟩
      refine (storageMessage_arrives (s := { s with input := { s.input with value := v } }) live known rfl none_).trans ?_
      exact congrArg Host.Outcome.next (setPosted_input { s.input with value := v } v)
    · intro no window flag none_ ps places
      have plain : dmaClaimed a = false := Bool.eq_false_iff.mpr fun yes => no (claims.mp yes)
      exact storage_serves live known flag none_ plain window places
    · intro no outside flag none_
      have plain : dmaClaimed a = false := Bool.eq_false_iff.mpr fun yes => no (claims.mp yes)
      have act := storageAct_access live (a := a)
      rw [plain, show inPortWindow (portAt s h) a = false from outside, if_neg (by decide), if_neg (by decide)] at act
      obtain ⟨frozen, mem⟩ := freezeStorage (p := h) (if a.data.isEmpty then busAnswer (setPosted s h []) (h / 4) .unsupported
        else setPosted s h [])
      refine ⟨_, (nvmeDma_arrives live known rfl flag).trans (congrArg Host.Outcome.next (storageArrives_acts none_ act)), ?_, ?_⟩
      · show (portAt (setPosted _ h []) h).frozen = true
        rw [portAt_setPosted]
        exact frozen
      · refine sameMemory_of_mem (Eq.trans mem ?_)
        split <;> rfl
    · intro on none_ core held
      have reach : reaches (setPosted s h []) (portAt (setPosted s h []) h) = true := by
        rw [portAt_setPosted, port_, reaches, on, decide_eq_true core]
        exact beq_iff_eq.mpr held
      have told : deviceMessage (setPosted s h []) h s.input.value =
          messageTold (setPosted s h []) port.irqCore.toNat s.input.value := by
        rw [deviceMessage_eq, if_pos reach, portAt_setPosted]
        rfl
      have arrives := storageMessage_arrives live known rfl none_
      rw [told] at arrives
      exact ⟨_, arrives, told_setPosted _ _ _ _⟩
    · intro off none_
      have reach : reaches (setPosted s h []) (portAt (setPosted s h []) h) = false := by
        rw [portAt_setPosted, port_, reaches, off]
        rfl
      refine ⟨_, storageMessage_arrives live known rfl none_, ?_⟩
      rw [deviceMessage_eq, reach]
      show (portAt (setPosted (messageDropped (setPosted s h []) h) h []) h).dropped = _
      rw [portAt_setPosted]
      have dropped : portAt (messageDropped (setPosted s h []) h) h = { portAt (setPosted s h []) h with
          dropped := (portAt (setPosted s h []) h).dropped + 1 } := by
        refine (congrArg (getPort · (h % 4)) (getHub_putHub _ (h / 4) _)).trans ?_
        exact mapGet_put_same _ _ _ _
      rw [dropped, portAt_setPosted]
      rfl

end Sys2Proof.Proofs
end

section
/-! PROOFS. Seals, freezes, register stores and scale-out requests complete (22 R441 to R443, 25 R479, R485, R488). -/

namespace Sys2Proof.Proofs

open Sys2Proof Sys2Proof.Machine Sys2Proof.Laws

/-! ## What an engine's writes leave alone -/

/-- What bytes written by an engine change: memory, its poison and its lines, and the park wakes that come due. -/
def writesOnly (s u : State) : Prop := u = { s with mem := u.mem, poison := u.poison, lines := u.lines, due := u.due }

theorem writesOnly.trans {s t u : State} (h : writesOnly s t) (k : writesOnly t u) : writesOnly s u :=
  Eq.trans k (congrArg (fun x : State => { x with mem := u.mem, poison := u.poison, lines := u.lines, due := u.due }) h)

section
variable {s : State}

theorem homesOnly.writes {u : State} (h : homesOnly s u) : writesOnly s u :=
  Eq.trans h (congrArg (fun l => { s with mem := u.mem, poison := u.poison, lines := l, due := u.due })
    (Eq.trans (congrArg State.lines h) rfl : u.lines = s.lines).symm)

theorem writeLine_writes (s : State) (pa slot : Nat) (es : List (Nat × Byte × Bool)) :
    writesOnly s (writeLine s pa slot es).1 := by
  cases es with
  | nil => rfl
  | cons e rest =>
    have homes := (writeHomes_only (e :: rest) s).writes
    rw [writeLine]
    split_ifs
    · rfl
    · exact homes.trans rfl
    · exact homes
    · rfl

theorem writeLines_writes (os : List OutByte) (ls : List (Nat × Nat × Nat)) : ∀ s, writesOnly s (writeLines s os ls).1 := by
  induction ls with
  | nil => exact fun _ => rfl
  | cons l rest ih =>
    intro s
    rw [writeLines]
    exact (writeLine_writes s _ _ _).trans (ih _)

theorem writeOut_writes (s : State) (os : List OutByte) : writesOnly s (writeOut s os).1 := by
  rw [writeOut]
  exact (writeHomes_only _ s).writes.trans (writeLines_writes _ _ _)

/-! ## Seals (R441) -/

theorem sealRows_keeps (die n : Nat) : ∀ s i,
    (getDie (sealRows s die i n) die).sealCount = (getDie s die).sealCount := by
  induction n with
  | zero => exact fun _ _ => rfl
  | succ n ih =>
    intro s i
    have put (d : Die) (h : d.sealCount = (getDie s die).sealCount) :
        (getDie (putDie s die d) die).sealCount = (getDie s die).sealCount := (congrArg Die.sealCount (getDie_putDie s die d)).trans h
    have wrote (os : List OutByte) : (getDie (writeOut s os).1 die).sealCount = (getDie s die).sealCount := by
      rw [writeOut_writes s os]
      rfl
    rw [sealRows]
    dsimp only
    split
    · exact put _ rfl
    · split
      · exact put _ rfl
      · split
        · exact put _ rfl
        · split
          · exact (ih _ _).trans (wrote _)
          · exact put _ rfl

theorem sealComplete_ends {die : Nat} (busy : (getDie s die).sealBusy = true) (free : sealHeld s (getDie s die) = false) :
    ∃ d, sealComplete s die = busyFalls (putDie (sealRows s die 0 (bf (getDie s die).sealGo 11 0 + 1)) die d) d.sealBy ∧
      d.sealBusy = false ∧ d.sealCount = (getDie s die).sealCount + 1 := by
  refine ⟨{ getDie (sealRows s die 0 (bf (getDie s die).sealGo 11 0 + 1)) die with
    sealBusy := false, sealCount := _ + 1 }, (if_pos busy).trans (if_neg (by rw [free]; decide)), rfl, ?_⟩
  exact congrArg (· + 1) (sealRows_keeps die _ s 0)

/-! ## Freezes (R479) -/

theorem freezeSystemCore_frozen {c : Nat} (s : State) :
    (getSc (getDie (freezeSystemCore s c) (c / 2)) (c % 2)).frozen = true := by
  have step : freezeSystemCore s c = logEvent (putCtx (putDie s (c / 2) (putSc (getDie s (c / 2)) (c % 2)
      { getSc (getDie s (c / 2)) (c % 2) with frozen := true })) (systemBase + c)
      { getCtx s (systemBase + c) with ops := [] }) (.freeze (.systemCore c)) (some (partOf s (c / 2))) := rfl
  rw [step, logEvent_only]
  show (getSc (getDie (putDie s (c / 2) _) (c / 2)) (c % 2)).frozen = true
  rw [getDie_putDie]
  exact congrArg ScBlock.frozen (mapGet_put_same _ _ _ _)

theorem system_of_base (c : Nat) : isSystem (systemBase + c) = true := decide_eq_true (Nat.le_add_right _ _)

/-- A frozen system core issues nothing. -/
theorem issuable_frozen {c : Nat} (frozen : (getSc (getDie s (c / 2)) (c % 2)).frozen = true) :
    issuable s ⟨systemBase + c, 0⟩ = false := by
  have die : keyDie (systemBase + c) = c / 2 := by
    rw [keyDie, system_of_base, if_pos rfl, Nat.add_sub_cancel_left]
  have still : ctxRuns s (systemBase + c) = false := by
    rw [ctxRuns, system_of_base, if_pos rfl, die, Nat.add_sub_cancel_left, frozen, Bool.not_true, Bool.and_false, Bool.and_false]
  rw [issuable]
  dsimp only
  rw [still, Bool.and_false, Bool.false_and]

theorem freezeHost {h : Nat} (s : State) : (getHub (freezeMaster s (.hostPort h)) h).frozen = true := by
  have step : freezeMaster s (.hostPort h) = logEvent (putHub s h { getHub s h with frozen := true, posted := [] })
      (.freeze (.hostPort h)) (some 0) := rfl
  rw [step, logEvent_only]
  exact congrArg Hub.frozen (getHub_putHub s h { getHub s h with frozen := true, posted := [] })

theorem resetSystemCore_reset (s : State) (c : Nat) : (getSc (getDie (resetSystemCore s c) (c / 2)) (c % 2)).frozen = false ∧
    (getSc (getDie (resetSystemCore s c) (c / 2)) (c % 2)).running = false ∧ (resetSystemCore s c).mem = s.mem := by
  have die : getDie (resetSystemCore s c) (c / 2) = putSc (getDie s (c / 2)) (c % 2)
      { getSc (getDie s (c / 2)) (c % 2) with running := false, stopped := false, frozen := false } := getDie_putDie _ _ _
  have block : getSc (getDie (resetSystemCore s c) (c / 2)) (c % 2) = _ :=
    (congrArg (getSc · (c % 2)) die).trans (mapGet_put_same _ _ _ _)
  rw [block]
  exact ⟨rfl, rfl, rfl⟩

/-! ## Register stores (R488) -/

theorem ioRegisterWrite_stores {b : IoBlock} {unit off : Nat} {t : State} (place : ioPlace s.input.id = .reg b unit off)
    (granted : ioGranted s.input.id 8 true = true) (whole : off % 8 = 0) (core : s.input.place < 48)
    (reached : ioReached s (partOf s (s.input.place / 2)) s.input.id = true)
    (free : ioHeld s (s.input.place / 2) s.input.id = false)
    (stored : ioStore s s.input.id 8 s.input.value.toNat s.input.place = some t) : exec .ioRegisterWrite s = .next t := by
  show execIoRegisterWrite s = _
  rw [execIoRegisterWrite, place]
  dsimp only
  rw [granted, whole, decide_eq_true core, reached, free]
  refine congrArg Host.Outcome.next ((if_pos rfl).trans ?_)
  rw [if_neg (by decide), stored]
  rfl

theorem ioStore_astbase {die : Nat} (x : Word) (place : ioPlace s.input.id = .reg .translation die 0) :
    ioStore s s.input.id 8 x.toNat s.input.place = some (putDie s die { getDie s die with astbase := keep x 51 20 }) := by
  rw [ioStore, place]
  show ioWrite s .translation die 0 (BitVec.ofNat 64 x.toNat) s.input.place = _
  rw [BitVec.ofNat_toNat, BitVec.setWidth_eq]
  rfl

/-! ## Scale-out requests (R442, R443) -/

/-- The state in which hub h's request of a tile is in flight. -/
def requested (s : State) (h : Nat) (x : Word) (by_ : Nat) (t : RemoteTile) : State :=
  let u := settleCtx s (systemBase + by_)
  later (putHub u h { getHub u h with
    xbusy := true, xtimeout := false, xrefused := false, xFrame := t, xPeer := BitVec.ofNat 16 x.toNat, xBy := by_,
    xSince := u.time }) (.event .scaleOutTimeout { place := h })

theorem storeXgo_sends {h : Nat} {x : Word} {t : RemoteTile} (by_ : Nat) (free : (getHub s h).xbusy = false)
    (unheld : localHeld s h = false)
    (tile : localTile (settleCtx s (systemBase + by_)) h (BitVec.ofNat 2 (bf x 17 16)) = some t) :
    storeXgo s h x by_ = some (requested s h x by_ t) := by
  have idle : ((getHub s h).xbusy || localHeld s h) = false := by rw [free, unheld]; rfl
  refine (if_neg (by rw [idle]; decide)).trans ?_
  dsimp only
  rw [tile]
  rfl

theorem scaleRequest_sends {i : Instr} {op h : Nat} {t : RemoteTile} (place : s.input.place = h) (known : h < 2)
    (free : (getHub s h).xbusy = false) (unheld : localHeld s h = false)
    (tile : localTile (settleCtx s (systemBase + s.input.id)) h
      (BitVec.ofNat 2 (bf (BitVec.ofNat 64 (s.input.value.toNat % 65536 + op * 65536)) 17 16)) = some t) :
    scaleRequest s i op =
      requested s h (BitVec.ofNat 64 (s.input.value.toNat % 65536 + op * 65536)) s.input.id t := by
  subst place
  exact (if_neg (Nat.not_le.mpr known)).trans (congrArg (Option.getD · _) (storeXgo_sends _ free unheld tile))

/-- The fields of XGO's value. -/
theorem xgo_fields (v : Word) {op : Nat} (h : op < 4) :
    BitVec.ofNat 2 (bf (BitVec.ofNat 64 (v.toNat % 65536 + op * 65536)) 17 16) = BitVec.ofNat 2 op ∧
    (BitVec.ofNat 16 (BitVec.ofNat 64 (v.toNat % 65536 + op * 65536)).toNat).toNat = v.toNat % 65536 := by
  have whole : (BitVec.ofNat 64 (v.toNat % 65536 + op * 65536)).toNat = v.toNat % 65536 + op * 65536 :=
    toNat_ofNat_small (by omega)
  refine ⟨?_, ?_⟩
  · have op_ : bf (BitVec.ofNat 64 (v.toNat % 65536 + op * 65536)) 17 16 = op := by
      rw [bf, whole]
      omega
    rw [op_]
  · rw [whole, BitVec.toNat_ofNat]
    omega

theorem time_settleCtx (s : State) (key : Nat) : (settleCtx s key).time = s.time := time_settles (settles_settleCtx s key)

end

/-- Settles O55: each request by its branch, and what its steps leave in the registers. -/
theorem sealsFreezesAndRequestsComplete : Obligations.SealsFreezesAndRequestsComplete := by
  refine ⟨fun s => ⟨?starts, ?sealed, ?freezes, ?resets, ?stores, ?astbase⟩, ?scale⟩
  case starts =>
    intro known free
    have store : storeSealgo s s.input.place s.input.value s.input.id = some _ := if_neg (by rw [free]; decide)
    refine ⟨_, congrArg Host.Outcome.next ((if_pos known).trans (congrArg (Option.getD · _) store)), ?_⟩
    dsimp only [Option.getD_some, later, putDie, getDie]
    rw [mapGet_put_same]
    exact ⟨rfl, rfl, rfl, rfl, rfl⟩
  case sealed =>
    intro known busy free
    obtain ⟨d, step, done, count⟩ := sealComplete_ends busy free
    refine ⟨_, congrArg Host.Outcome.next step, ?_⟩
    rw [(busyFalls_leaves _ _).1, getDie_putDie]
    exact ⟨done, count⟩
  case freezes =>
    intro exists_
    refine ⟨_, congrArg Host.Outcome.next (if_pos exists_), ?_⟩
    cases s.input.master with
    | systemCore c => exact ⟨freezeSystemCore_frozen s, issuable_frozen (freezeSystemCore_frozen s)⟩
    | diePort die => exact (freezeDie_keeps die).1
    | storage p => exact (freezeStorage s).1
    | hostPort h => exact freezeHost s
  case resets =>
    intro exists_
    refine ⟨_, rfl, ?_⟩
    revert exists_
    cases s.input.master with
    | systemCore c =>
      intro exists_
      obtain ⟨frozen, running, mem⟩ := resetSystemCore_reset s c
      rw [resetMaster, if_pos (of_decide_eq_true exists_)]
      exact ⟨sameMemory_of_mem mem, frozen, running⟩
    | diePort die =>
      intro exists_
      rw [resetMaster, if_pos (of_decide_eq_true exists_)]
      exact ⟨sameMemory_of_mem rfl, congrArg Die.frozen (getDie_putDie s die { getDie s die with frozen := false })⟩
    | storage p =>
      intro exists_
      rw [resetMaster, if_pos (of_decide_eq_true exists_)]
      refine ⟨sameMemory_of_mem rfl, ?_⟩
      show (getPort (getHub (putHub s (p / 4) _) (p / 4)) (p % 4)).frozen = false
      rw [getHub_putHub]
      exact congrArg StoragePort.frozen (mapGet_put_same _ _ _ _)
    | hostPort h =>
      intro exists_
      rw [resetMaster, if_pos (of_decide_eq_true exists_)]
      exact ⟨sameMemory_of_mem rfl, congrArg Hub.frozen (getHub_putHub s h { getHub s h with frozen := false })⟩
  case stores =>
    exact fun b unit off t place granted whole core reached free stored =>
      ioRegisterWrite_stores place granted whole core reached free stored
  case astbase =>
    exact fun die _ place granted core reached free =>
      ioRegisterWrite_stores place granted rfl core reached free (ioStore_astbase _ place)
  case scale =>
    intro s h x sent known
    have sends (i : Instr) (op : Nat) (small : op < 4) (step : exec i s = .next (scaleRequest s i op))
        (free : x.xbusy = false) (unheld : localHeld s h = false) : sent i (BitVec.ofNat 2 op) := by
      intro t tile
      obtain ⟨op_, peer⟩ := xgo_fields s.input.value small
      rw [← op_] at tile
      refine ⟨_, step.trans (congrArg Host.Outcome.next (scaleRequest_sends rfl known free unheld tile)), ?_⟩
      dsimp only [requested, later, putHub, getHub]
      rw [mapGet_put_same]
      exact ⟨List.getLast?_concat, time_settleCtx _ _, rfl, rfl, peer, rfl, rfl⟩
    refine ⟨fun free unheld => ⟨sends .xopWrite 0 (by decide) rfl free unheld, sends .xopAddFp32 1 (by decide) rfl free unheld,
      sends .xopAddBf16 2 (by decide) rfl free unheld, sends .xopAddFp16 3 (by decide) rfl free unheld⟩, ?_, ?_, ?_, ?_⟩
    · intro busy soon
      refine ⟨_, congrArg Host.Outcome.next ((if_neg ?_).trans (if_neg (Nat.not_lt.mpr soon))), ?_⟩
      · rw [show (getHub s s.input.place).xbusy = true from busy]
        exact fun out => out.elim (fun high => by omega) (by decide)
      · show (getHub (putHub s h _) h).xbusy = false ∧ (getHub (putHub s h _) h).xcount = _ ∧
          (getHub (putHub s h _) h).xrefused = _
        rw [getHub_putHub]
        exact ⟨rfl, rfl, rfl⟩
    · intro late
      have ends : (getHub (scaleTimesOut s h) h).xbusy = false ∧ (getHub (scaleTimesOut s h) h).xtimeout = true ∧
          (getHub (scaleTimesOut s h) h).xcount = x.xcount := by
        show (getHub (putHub s h _) h).xbusy = false ∧ (getHub (putHub s h _) h).xtimeout = true ∧
          (getHub (putHub s h _) h).xcount = _
        rw [getHub_putHub]
        exact ⟨rfl, rfl, rfl⟩
      have open_ (busy : x.xbusy = true) : ¬ (2 ≤ s.input.place ∨ (getHub s s.input.place).xbusy = false) := by
        rw [show (getHub s s.input.place).xbusy = true from busy]
        exact fun out => out.elim (fun high => by omega) (by decide)
      refine ⟨fun busy past => ⟨_, congrArg Host.Outcome.next ((if_neg (open_ busy)).trans (if_pos past)), ends⟩,
        fun busy past => ⟨_, congrArg Host.Outcome.next ((if_neg (open_ busy)).trans (if_pos past)), ends⟩⟩
    · intro new free t applied
      have fresh : ¬ (2 ≤ s.input.place ∨ (getHub s s.input.place).seen.contains s.input.id = true) := by
        rw [show (getHub s s.input.place).seen.contains s.input.id = false from new]
        exact fun out => out.elim (fun high => by omega) (by decide)
      refine congrArg Host.Outcome.next ((if_neg fresh).trans ((if_neg ?_).trans ?_))
      · rw [show tileHeld s s.input.place s.input.tile = false from free]
        decide
      · rw [show applyTile s s.input.place s.input.tile = some t from applied]
    · exact fun old => congrArg Host.Outcome.next (if_pos (.inr old))

end Sys2Proof.Proofs
end

section
/-! PROOFS. System cores start, and bring-up runs to its end or its failing step (25 R483, R485, 00 R11, 25 R477). -/

namespace Sys2Proof.Proofs

open Sys2Proof Sys2Proof.Machine Sys2Proof.Laws

/-! ## Starting a core (R485) -/

section
variable {s : State} {c : Nat}

theorem getSc_putSc (d : Die) (i : Nat) (x : ScBlock) : getSc (putSc d i x) i = x := mapGet_put_same _ _ _ _

theorem getSc_putSc_ne (d : Die) {i j : Nat} (x : ScBlock) (h : j ≠ i) : getSc (putSc d i x) j = getSc d j :=
  mapGet_put_ne _ _ _ h

/-- The block of a system core. -/
def blockOf (s : State) (c : Nat) : ScBlock := getSc (getDie s (c / 2)) (c % 2)

/-- A core started from its block, once what it issued is performed. -/
def startedState (s : State) (c : Nat) : State :=
  let t := settleCtx s (systemBase + c)
  putCtx (putDie t (c / 2) (putSc (getDie t (c / 2)) (c % 2) { blockOf s c with running := true, stopped := false }))
    (systemBase + c) (startedCore (blockOf s c) (getCtx t (systemBase + c)).nextOp)

theorem startCore_starts (still : (blockOf s c).running = false) (free : (blockOf s c).frozen = false) :
    startCore s c = startedState s c := by
  have go : ((blockOf s c).running || (blockOf s c).frozen) = false := by rw [still, free]; rfl
  exact if_neg (by rw [← blockOf, go]; decide)

theorem startCore_running (runs : (blockOf s c).running = true) : startCore s c = s := by
  have stays : ((blockOf s c).running || (blockOf s c).frozen) = true := by rw [runs]; rfl
  exact if_pos stays

theorem blockOf_startedState : blockOf (startedState s c) c = { blockOf s c with running := true, stopped := false } := by
  have die : getDie (startedState s c) (c / 2) = putSc (getDie (settleCtx s (systemBase + c)) (c / 2)) (c % 2)
      { blockOf s c with running := true, stopped := false } := getDie_putDie _ _ _
  rw [blockOf, die, getSc_putSc]

/-- A warp or core without a memory operation settles at once. -/
theorem settleCtx_none {key : Nat} (none_ : (getCtx s key).ops = []) :
    settleCtx s key = putCtx s key (settleLong (getCtx s key)) := by
  rw [settleCtx, getCtx_putCtx, ops_settleLong none_]
  rfl

/-- What starting a core with nothing in flight changes: contexts and dies. -/
def startsOnly (s u : State) : Prop := u = { s with ctxs := u.ctxs, dies := u.dies }

theorem startsOnly.trans {s t u : State} (h : startsOnly s t) (k : startsOnly t u) : startsOnly s u :=
  Eq.trans k (congrArg (fun x : State => { x with ctxs := u.ctxs, dies := u.dies }) h)

theorem startedState_only (none_ : (getCtx s (systemBase + c)).ops = []) : startsOnly s (startedState s c) := by
  rw [startedState, settleCtx_none none_]
  rfl

theorem dies_startedState (none_ : (getCtx s (systemBase + c)).ops = []) :
    getDie (startedState s c) (c / 2) = putSc (getDie s (c / 2)) (c % 2)
      { blockOf s c with running := true, stopped := false } := by
  rw [startedState, settleCtx_none none_]
  exact getDie_putDie _ _ _

theorem ctxs_startedState {key : Nat} (none_ : (getCtx s (systemBase + c)).ops = []) (other : key ≠ systemBase + c) :
    getCtx (startedState s c) key = getCtx s key := by
  rw [startedState, settleCtx_none none_]
  exact (getCtx_putCtx_ne _ _ other).trans (getCtx_putCtx_ne s _ other)

end

/-! ## Coltaup (R483, R484) -/

section
variable {s : State} {die : Nat}

/-- The entry of a die's core written to its block. -/
def withEntry (s : State) (die i : Nat) : State :=
  putDie s die (putSc (getDie s die) i { getSc (getDie s die) i with
    pc := keep (Config.coltaupEntry die) 56 2, arg := 0, asid := 0 })

/-- One of a die's cores booted. -/
def booted (s : State) (die i : Nat) : State := startCore (withEntry s die i) (2 * die + i)

theorem startColtaup_eq : startColtaup s die = booted (booted s die 0) die 1 := rfl

/-- A core of a die that may be booted: it neither runs nor is frozen, and has nothing in flight. -/
structure Bootable (s : State) (die i : Nat) : Prop where
  still : (getSc (getDie s die) i).running = false
  free : (getSc (getDie s die) i).frozen = false
  idle : (getCtx s (systemBase + (2 * die + i))).ops = []

theorem blockOf_withEntry {i : Nat} (hi : i < 2) : blockOf (withEntry s die i) (2 * die + i) =
    { getSc (getDie s die) i with pc := keep (Config.coltaupEntry die) 56 2, arg := 0, asid := 0 } := by
  rw [blockOf, show (2 * die + i) / 2 = die by omega, show (2 * die + i) % 2 = i by omega, withEntry, getDie_putDie,
    getSc_putSc]

theorem booted_starts {i : Nat} (hi : i < 2) (h : Bootable s die i) : booted s die i = startedState (withEntry s die i) (2 * die + i) := by
  refine startCore_starts ?_ ?_
  · rw [blockOf_withEntry hi]
    exact h.still
  · rw [blockOf_withEntry hi]
    exact h.free

/-- What booting a core does. -/
theorem booted_does {i : Nat} (hi : i < 2) (h : Bootable s die i) : startsOnly s (booted s die i) ∧
    (getSc (getDie (booted s die i) die) i).running = true ∧
    (∀ j, j ≠ i → getSc (getDie (booted s die i) die) j = getSc (getDie s die) j) ∧
    (∀ key, key ≠ systemBase + (2 * die + i) → getCtx (booted s die i) key = getCtx s key) := by
  have none_ : (getCtx (withEntry s die i) (systemBase + (2 * die + i))).ops = [] := h.idle
  have dies := dies_startedState none_
  rw [show (2 * die + i) / 2 = die by omega, show (2 * die + i) % 2 = i by omega] at dies
  rw [booted_starts hi h, dies]
  refine ⟨Eq.trans (startedState_only none_) rfl, ?_, fun j hj => ?_, fun key other => ctxs_startedState none_ other⟩
  · rw [getSc_putSc]
  · rw [getSc_putSc_ne _ _ hj, withEntry, getDie_putDie, getSc_putSc_ne _ _ hj]

/-- Coltaup runs on both cores of a die that can be booted. -/
theorem startColtaup_runs (first : Bootable s die 0) (second : Bootable s die 1) : startsOnly s (startColtaup s die) ∧
    (getSc (getDie (startColtaup s die) die) 0).running = true ∧ (getSc (getDie (startColtaup s die) die) 1).running = true := by
  obtain ⟨only, runs, others, ctxs⟩ := booted_does (by decide) first
  have next : Bootable (booted s die 0) die 1 := by
    refine ⟨?_, ?_, ?_⟩
    · rw [others 1 (by decide)]
      exact second.still
    · rw [others 1 (by decide)]
      exact second.free
    · rw [ctxs _ (by omega)]
      exact second.idle
  obtain ⟨only', runs', others', -⟩ := booted_does (by decide) next
  rw [startColtaup_eq]
  refine ⟨only.trans only', ?_, runs'⟩
  rw [others' 0 (by decide)]
  exact runs

end

/-! ## The stacks (R483 steps 4 and 5) -/

section
variable {s : State}

/-- Stacks changed one after another, each by its own function. -/
theorem foldl_stacks {f : State → Nat → State} {g : Nat → Stack → Stack}
    (step : ∀ s k, f s k = putStack s k (g k (getStack s k))) (ks : List Nat) (once : ks.Nodup) (j : Nat) : ∀ s,
    getStack (ks.foldl f s) j = if j ∈ ks then g j (getStack s j) else getStack s j := by
  induction ks with
  | nil => exact fun _ => (if_neg List.not_mem_nil).symm
  | cons k rest ih =>
    intro s
    obtain ⟨fresh, once⟩ := List.nodup_cons.mp once
    rw [List.foldl_cons, ih once, step]
    by_cases same : j = k
    · subst same
      rw [if_neg fresh, if_pos List.mem_cons_self, getStack_putStack]
    · rw [getStack_putStack_ne _ _ same]
      exact if_congr (by rw [List.mem_cons, or_iff_right same]) rfl rfl

theorem sessionKey_replayRepairs (k : Nat) (es : List LogEntry) : ∀ s,
    (getStack (replayRepairs s es) k).sessionKey = (getStack s k).sessionKey := by
  induction es with
  | nil => exact fun _ => rfl
  | cons e rest ih =>
    intro s
    cases e with
    | retired g =>
      rw [replayRepairs, ih]
      by_cases same : k = g / 64
      · rw [same, getStack_putStack]
      · rw [getStack_putStack_ne _ _ same]
    | repaired => exact ih _
    | _ => exact ih _

/-- What the steps of bring-up before the last change: stacks, spare rows and links. -/
def trainsOnly (s u : State) : Prop := u = { s with memStacks := u.memStacks, spares := u.spares, deadLinks := u.deadLinks }

theorem trainsOnly.trans {s t u : State} (h : trainsOnly s t) (k : trainsOnly t u) : trainsOnly s u :=
  Eq.trans k
    (congrArg (fun x : State => { x with memStacks := u.memStacks, spares := u.spares, deadLinks := u.deadLinks }) h)

theorem trainsOnly.foldl {f : State → Nat → State} (h : ∀ s k, trainsOnly s (f s k)) (ks : List Nat) :
    ∀ s, trainsOnly s (ks.foldl f s) := by
  induction ks with
  | nil => exact fun _ => rfl
  | cons k rest ih => exact fun s => (h s k).trans (ih _)

theorem putStack_trains (s : State) (k : Nat) (x : Stack) : trainsOnly s (putStack s k x) := rfl

theorem spares_trains (s : State) (m : List (Nat × Nat)) : trainsOnly s { s with spares := m } := rfl

theorem replayRepairs_trains (es : List LogEntry) : ∀ s, trainsOnly s (replayRepairs s es) := by
  induction es with
  | nil => exact fun _ => rfl
  | cons e rest ih =>
    intro s
    cases e with
    | retired g => exact (putStack_trains _ _ _).trans (ih _)
    | repaired g bank row => exact (spares_trains _ _).trans (ih _)
    | _ => exact ih s

theorem bringStep_trains (r : BringUp) (s : State) {n : Nat} (early : n < 7) : trainsOnly s (bringStep r s n) := by
  interval_cases n
  · rfl
  · rfl
  · rfl
  · rfl
  · exact .foldl (fun _ _ => putStack_trains _ _ _) _ s
  · exact (replayRepairs_trains s.repairLog s).trans (.foldl (fun _ _ => putStack_trains _ _ _) _ _)
  · rfl

end

/-! ## The steps in order (R483) -/

section
variable {s : State} {r : BringUp}

/-- What an image lacks to be started. -/
def refuses (s : State) (r : BringUp) (k : ImageKind) : Prop :=
  (imageReport r k).ed25519 ≠ .valid ∨ (imageReport r k).mldsa ≠ .valid ∨ (imageReport r k).digest = false ∨
    (imageReport r k).svn < mapGet 0 s.minSvn (imageNumber k)

theorem imageOk_iff (k : ImageKind) : imageOk s r k = true ↔ ¬ refuses s r k := by
  rw [imageOk, refuses]
  rw [Bool.and_eq_true, Bool.and_eq_true, Bool.and_eq_true, beq_iff_eq, beq_iff_eq, decide_eq_true_eq, not_or, not_or, not_or,
    Classical.not_not, Classical.not_not, Bool.not_eq_false, Nat.not_lt, and_assoc, and_assoc]

/-- The step that verifies an image. -/
def imageStep (k : ImageKind) : Nat :=
  match k with
  | .secureMonitor => 2
  | .coltaup => 7
  | .controllerFirmware | .memoryTraining | .carderMicrocode => 3

theorem mem_stepImages (k : ImageKind) {n : Nat} (low : n < 8) : k ∈ stepImages n ↔ n = imageStep k := by
  interval_cases n <;> cases k <;> decide

theorem refusedImage_none {ks : List ImageKind} (good : ∀ k ∈ ks, ¬ refuses s r k) : refusedImage s r ks = none := by
  rw [refusedImage, listFind_eq_find?, List.find?_eq_none]
  intro k hk
  rw [(imageOk_iff k).mpr (good k hk)]
  decide

theorem refusedImage_some {k : ImageKind} {ks : List ImageKind} (there : k ∈ ks) (bad : refuses s r k)
    (good : ∀ j, j ≠ k → ¬ refuses s r j) : refusedImage s r ks = some k := by
  have refused (j : ImageKind) : (!imageOk s r j) = true ↔ refuses s r j := by
    rw [Bool.not_eq_true', ← Bool.not_eq_true, imageOk_iff, Classical.not_not]
  let p := fun j => !imageOk s r j
  obtain ⟨j, hj⟩ := Option.isSome_iff_exists.mp (List.find?_isSome.mpr ⟨k, there, show p k = true from (refused k).mpr bad⟩)
  have found : p j = true := List.find?_some hj
  rw [refusedImage, listFind_eq_find?, hj, show j = k from Classical.not_not.mp fun other => good j other ((refused j).mp found)]

/-- Whether a step fails does not depend on what the steps before it change. -/
theorem refuses_trains {t : State} (h : trainsOnly s t) (k : ImageKind) : refuses t r k ↔ refuses s r k := by
  have fuses : t.minSvn = s.minSvn := Eq.trans (congrArg State.minSvn h) rfl
  rw [refuses, refuses, fuses]

theorem imageOk_trains {t : State} (h : trainsOnly s t) (k : ImageKind) : imageOk t r k = imageOk s r k := by
  rw [Bool.eq_iff_iff, imageOk_iff, imageOk_iff, refuses_trains h]

theorem refusedImage_trains {t : State} (h : trainsOnly s t) (ks : List ImageKind) :
    refusedImage t r ks = refusedImage s r ks := by
  rw [refusedImage, refusedImage]
  simp only [imageOk_trains h]

theorem stepFails_trains {t : State} (h : trainsOnly s t) (n : Nat) : stepFails t r n = stepFails s r n := by
  rw [stepFails, stepFails, refusedImage_trains h]

/-- Steps in order stop at the only one that fails. -/
theorem bringSteps_stops {n : Nat} (fails : stepFails s r n = true) (ns : List Nat) (sorted : ns.Pairwise (· < ·))
    (last : ∀ m ∈ ns, m ≤ 7) (there : n ∈ ns) (others : ∀ m ∈ ns, m ≠ n → stepFails s r m = false) :
    ∀ t, trainsOnly s t → ∃ u, trainsOnly s u ∧ bringSteps r t ns = stopAt u r n := by
  induction ns with
  | nil => exact absurd there List.not_mem_nil
  | cons m rest ih =>
    intro t only
    rw [bringSteps, stepFails_trains only]
    by_cases same : m = n
    · subst same
      exact ⟨t, only, if_pos fails⟩
    · obtain ⟨before, sorted⟩ := List.pairwise_cons.mp sorted
      have later_ : n ∈ rest := (List.mem_cons.mp there).resolve_left fun h => same h.symm
      have early : m < 7 := Nat.lt_of_lt_of_le (before n later_) (last n there)
      rw [others m List.mem_cons_self same, if_neg (by decide)]
      exact ih sorted (fun q hq => last q (List.mem_cons_of_mem _ hq)) later_
        (fun q hq => others q (List.mem_cons_of_mem _ hq)) _ (only.trans (bringStep_trains r t early))

/-- Steps of which none fails are all done. -/
theorem bringSteps_done (ns : List Nat) (early : ∀ m ∈ ns, m < 7) (good : ∀ m, m < 8 → 0 < m → stepFails s r m = false)
    (pos : ∀ m ∈ ns, 0 < m) : ∀ t, trainsOnly s t →
      bringSteps r t (ns ++ [7]) = bringStep r (ns.foldl (bringStep r) t) 7 := by
  induction ns with
  | nil =>
    intro t only
    rw [List.nil_append, bringSteps, stepFails_trains only, good 7 (by decide) (by decide), if_neg Bool.false_ne_true, bringSteps,
      List.foldl_nil]
  | cons m rest ih =>
    intro t only
    have first := early m List.mem_cons_self
    rw [List.cons_append, bringSteps, stepFails_trains only, good m (by omega) (pos m List.mem_cons_self),
      if_neg Bool.false_ne_true, List.foldl_cons]
    exact ih (fun q hq => early q (List.mem_cons_of_mem _ hq)) (fun q hq => pos q (List.mem_cons_of_mem _ hq)) _
      (only.trans (bringStep_trains r t first))

theorem stopAt_log (n : Nat) : LogEntry.bringUpStopped n ∈ (stopAt s r n).log := by
  rw [stopAt]
  exact List.mem_append_left _ (List.mem_append_right _ List.mem_cons_self)

theorem stopAt_refused {n : Nat} {k : ImageKind} (refused : refusedImage s r (stepImages n) = some k) :
    LogEntry.imageRefused k ∈ (stopAt s r n).log := by
  rw [stopAt, refused]
  exact List.mem_append_right _ List.mem_cons_self

theorem lineOk_empty {u : State} (none_ : u.lines = []) (p a slot : Nat) : lineOk u p a slot = false := by
  rw [lineOk, none_]
  show (!linkIsDown u p && false && _ && _ && _) = false
  rw [Bool.and_false]
  rfl

/-- A module that bring-up has stopped in issues nothing. -/
theorem issuable_unstarted {u : State} (none_ : u.ctxs = []) (a : Agent) : issuable u a = false := by
  rw [issuable, getCtx, none_]
  rfl

end

section
variable {s : State} {r : BringUp}

/-- The steps of bring-up. -/
def bringUpSteps : List Nat := [1, 2, 3, 4, 5, 6, 7]

theorem bringUp_eq : exec .bringUp s = .next (bringSteps s.input.report (cleared s) bringUpSteps) := rfl

theorem refuses_cleared (k : ImageKind) : refuses (cleared s) r k ↔ refuses s r k := Iff.rfl

/-- Bring-up stops at the only step that fails: nothing runs. -/
theorem bringUp_stops {n : Nat} (there : n ∈ bringUpSteps) (fails : stepFails (cleared s) s.input.report n = true)
    (others : ∀ m ∈ bringUpSteps, m ≠ n → stepFails (cleared s) s.input.report m = false) :
    ∃ u, refusedImage u s.input.report (stepImages n) = refusedImage (cleared s) s.input.report (stepImages n) ∧
      exec .bringUp s = .next (stopAt u s.input.report n) ∧ (stopAt u s.input.report n).powered = false ∧
      (stopAt u s.input.report n).stopStep = n ∧ ∀ a, issuable (stopAt u s.input.report n) a = false := by
  obtain ⟨u, only, step⟩ := bringSteps_stops fails bringUpSteps (by decide) (by decide) there others (cleared s) rfl
  have ctxs : u.ctxs = [] := Eq.trans (congrArg State.ctxs only) rfl
  have powered : u.powered = false := Eq.trans (congrArg State.powered only) rfl
  exact ⟨u, refusedImage_trains only _, bringUp_eq.trans (congrArg Host.Outcome.next step), powered, rfl,
    issuable_unstarted ctxs⟩

theorem stepFails_iff (n : Nat) : stepFails s r n = true ↔ r.failedStep = n ∨ (refusedImage s r (stepImages n)).isSome = true := by
  rw [stepFails, Bool.or_eq_true, beq_iff_eq]

theorem stepFails_none {n : Nat} (other : r.failedStep ≠ n) (good : ∀ k ∈ stepImages n, ¬ refuses s r k) :
    stepFails s r n = false := by
  rw [← Bool.not_eq_true, stepFails_iff, refusedImage_none good]
  exact fun h => h.elim other Bool.false_ne_true

/-- The state in which memory and the links are trained. -/
def trainedState (s : State) (r : BringUp) : State := [1, 2, 3, 4, 5, 6].foldl (bringStep r) (cleared s)

theorem trainedState_only : trainsOnly (cleared s) (trainedState s r) := by
  have early (ns : List Nat) : (∀ m ∈ ns, m < 7) → ∀ t, trainsOnly (cleared s) t →
      trainsOnly (cleared s) (ns.foldl (bringStep r) t) := by
    induction ns with
    | nil => exact fun _ _ h => h
    | cons m rest ih =>
      exact fun low t h => ih (fun q hq => low q (List.mem_cons_of_mem _ hq)) _
        (h.trans (bringStep_trains r t (low m List.mem_cons_self)))
  exact early _ (by decide) _ rfl

theorem trainedState_eq : trainedState s r = { (List.range 48).foldl (trainStack r.untrained)
    (replayRepairs (setSessionKeys (cleared s)) (setSessionKeys (cleared s)).repairLog) with deadLinks := r.deadLinks } := by
  rw [trainedState]
  simp only [List.foldl_cons, List.foldl_nil, bringStep]

theorem deadLinks_trainedState : (trainedState s r).deadLinks = r.deadLinks := by rw [trainedState_eq]

/-- A stack as training leaves it. -/
def trainedStack (r : BringUp) (k : Nat) (x : Stack) : Stack :=
  { x with
    cur := BitVec.ofNat 2 (Config.trainedRate k).val, tgt := BitVec.ofNat 2 (Config.trainedRate k).val
    dead := if r.untrained.contains k then BitVec.allOnes 64 else x.dead }

theorem getStack_trainedState {k : Nat} (hk : k < 48) : ∃ x, x.sessionKey = 1 ∧
    getStack (trainedState s r) k = trainedStack r k x := by
  let y := setSessionKeys (cleared s)
  let z := replayRepairs y y.repairLog
  have trained : getStack (trainedState s r) k = getStack ((List.range 48).foldl (trainStack r.untrained) z) k := by
    rw [trainedState_eq]
    rfl
  have keyed : (getStack y k).sessionKey = 1 := by
    have set := foldl_stacks (f := fun s k => putStack s k { getStack s k with sessionKey := 1 })
      (g := fun _ x => { x with sessionKey := 1 }) (fun _ _ => rfl) (List.range 48) List.nodup_range k (cleared s)
    rw [if_pos (List.mem_range.mpr hk)] at set
    exact congrArg Stack.sessionKey set
  refine ⟨getStack z k, (sessionKey_replayRepairs k _ y).trans keyed, ?_⟩
  rw [trained, foldl_stacks (f := trainStack r.untrained) (g := trainedStack r) (fun _ _ => rfl) (List.range 48) List.nodup_range k z,
    if_pos (List.mem_range.mpr hk)]

theorem bootable_trained {i : Nat} : Bootable { trainedState s r with powered := true } 0 i := by
  have only := trainedState_only (s := s) (r := r)
  have dies : (trainedState s r).dies = [] := Eq.trans (congrArg State.dies only) rfl
  have ctxs : (trainedState s r).ctxs = [] := Eq.trans (congrArg State.ctxs only) rfl
  refine ⟨?_, ?_, ?_⟩
  · rw [getDie, dies]
    rfl
  · rw [getDie, dies]
    rfl
  · rw [getCtx, ctxs]
    rfl

/-- Bring-up without a failing step ends with Coltaup on die 0 of a trained module. -/
theorem bringUp_done (good : ∀ m, m < 8 → 0 < m → stepFails (cleared s) s.input.report m = false) :
    exec .bringUp s = .next (startColtaup { trainedState s s.input.report with powered := true } 0) := by
  refine bringUp_eq.trans (congrArg Host.Outcome.next ?_)
  exact bringSteps_done [1, 2, 3, 4, 5, 6] (by decide) good (by decide) (cleared s) rfl

end

/-- Settles O56: the block's stores by their bits, and bring-up step by step. -/
theorem systemCoresStartAndBringUpRuns : Obligations.SystemCoresStartAndBringUpRuns := by
  refine ⟨?cores, ?bringUp⟩
  case cores =>
    intro s c x known
    refine ⟨fun still free => ?_, fun runs => ?_, congrArg Host.Outcome.next (if_pos known),
      congrArg Host.Outcome.next (if_pos known)⟩
    · have step : exec .start s = .next (startCore s c) := congrArg Host.Outcome.next (if_pos known)
      refine ⟨startedState s c, _, step.trans (congrArg Host.Outcome.next (startCore_starts still free)), ?_, ?_,
        getCtx_putCtx _ _ _⟩
      · exact congrArg ScBlock.running blockOf_startedState
      · exact congrArg ScBlock.stopped blockOf_startedState
    · have step : exec .start s = .next (startCore s c) := congrArg Host.Outcome.next (if_pos known)
      exact step.trans (congrArg Host.Outcome.next (startCore_running runs))
  case bringUp =>
    intro s r bad stops
    refine ⟨fun k bad_ good none_ => ?refused, fun none_ good => ?whole, fun pos low good => ?failed⟩
    case refused =>
      have known : imageStep k ∈ bringUpSteps := by cases k <;> decide
      have low : imageStep k < 8 := by cases k <;> decide
      have refused : refusedImage (cleared s) r (stepImages (imageStep k)) = some k :=
        refusedImage_some ((mem_stepImages k low).mpr rfl) bad_ good
      have fails : stepFails (cleared s) r (imageStep k) = true := (stepFails_iff _).mpr (.inr (by rw [refused]; rfl))
      obtain ⟨u, same, step, powered, at_, still⟩ := bringUp_stops known fails fun m hm other => by
        have range : ∀ m ∈ bringUpSteps, 0 < m ∧ m < 8 := by decide
        refine stepFails_none (by rw [none_]; exact (range m hm).1.ne) fun j hj => good j fun same => other ?_
        rw [same] at hj
        exact (mem_stepImages k (range m hm).2).mp hj
      have logged := stopAt_refused (same.trans refused)
      have stopped : stops (imageStep k) (.imageRefused k) := ⟨_, step, powered, at_, logged, still⟩
      cases k with
      | secureMonitor => exact stopped
      | coltaup => exact stopped
      | controllerFirmware => exact stopped
      | memoryTraining => exact stopped
      | carderMicrocode => exact stopped
    case whole =>
      have fine (m : Nat) (_ : m < 8) (pos : 0 < m) : stepFails (cleared s) r m = false :=
        stepFails_none (by rw [none_]; exact pos.ne) fun j _ => good j
      obtain ⟨only, first, second⟩ := startColtaup_runs (bootable_trained (s := s) (r := r) (i := 0)) bootable_trained
      have trained := trainedState_only (s := s) (r := r)
      have read {β : Type} (f : State → β) (starts : ∀ t c d, f { t with ctxs := c, dies := d } = f t)
          (trains : ∀ t m p l, f { t with memStacks := m, spares := p, deadLinks := l } = f t) :
          f (startColtaup { trainedState s r with powered := true } 0) = f { cleared s with powered := true } := by
        rw [only, starts, trained]
        exact trains { cleared s with powered := true } _ _ _
      have stacks_ : (startColtaup { trainedState s r with powered := true } 0).memStacks = (trainedState s r).memStacks :=
        Eq.trans (congrArg State.memStacks only) rfl
      have links : (startColtaup { trainedState s r with powered := true } 0).deadLinks = (trainedState s r).deadLinks :=
        Eq.trans (congrArg State.deadLinks only) rfl
      refine ⟨_, bringUp_done fine, read State.powered (fun _ _ _ => rfl) (fun _ _ _ _ => rfl),
        read State.partCount (fun _ _ _ => rfl) (fun _ _ _ _ => rfl), read State.mem (fun _ _ _ => rfl) (fun _ _ _ _ => rfl),
        fun p at_ k => ?_, read State.time (fun _ _ _ => rfl) (fun _ _ _ _ => rfl),
        links.trans deadLinks_trainedState, fun k hk => ?_, first, second⟩
      · have lines := read State.lines (fun _ _ _ => rfl) (fun _ _ _ _ => rfl)
        exact lineOk_empty lines _ _ _
      · obtain ⟨x, key, same⟩ := getStack_trainedState (s := s) (r := r) hk
        rw [getStack, stacks_, ← getStack, same]
        refine ⟨rfl, fun three => ?_, rfl, key, fun untrained => ?_⟩
        · have rate := congrArg BitVec.toNat three
          have small := (Config.trainedRate k).isLt
          rw [trainedStack, BitVec.toNat_ofNat] at rate
          change _ = 3 at rate
          omega
        · exact if_pos (List.contains_iff_mem.mpr untrained)
    case failed =>
      have known : r.failedStep ∈ bringUpSteps := by
        generalize r.failedStep = n at pos low
        interval_cases n <;> decide
      have fails : stepFails (cleared s) r r.failedStep = true := (stepFails_iff _).mpr (.inl rfl)
      obtain ⟨u, -, step, powered, at_, still⟩ := bringUp_stops known fails fun m _ other =>
        stepFails_none (Ne.symm other) fun j _ => good j
      exact ⟨_, step, powered, at_, stopAt_log _, still⟩

end Sys2Proof.Proofs
end

section
/-! PROOFS. The monitor mailbox's requests complete with their RESULT (25 R484, R486, 22 R431). -/

namespace Sys2Proof.Proofs

open Sys2Proof Sys2Proof.Machine Sys2Proof.Laws

/-! ## A request and its RESULT -/

section
variable {s t : State} {die n : Nat}

theorem finishMail_only (t : State) (die n : Nat) :
    finishMail t die n = { t with dies := (finishMail t die n).dies, ctxs := (finishMail t die n).ctxs } := rfl

theorem getDie_finishMail : getDie (finishMail t die n) die = { getDie t die with
    mBusy := false, mResult := BitVec.ofNat 8 n, mCount := (getDie t die).mCount + 1 } := getDie_putDie _ _ _

theorem getDie_finishMail_ne {k : Nat} (h : k ≠ die) : getDie (finishMail t die n) k = getDie t k :=
  getDie_putDie_ne t _ h

theorem mailRequest_ends {code fields : Nat} {body : State → Nat → (Nat → Word) → Nat × State}
    (busy : (getDie s s.input.place).mBusy = true) (code_ : ((getDie s s.input.place).mWords.getD 0 0).toNat = code)
    (zero : (((getDie s s.input.place).mWords.drop fields).any (· != 0)) = false)
    (does : body s s.input.place (fun i => (getDie s s.input.place).mWords.getD i 0) = (n, t)) :
    mailRequest s code fields body = .next (finishMail t s.input.place n) := by
  rw [mailRequest]
  dsimp only
  rw [busy, code_, zero, does, Bool.true_and, beq_self_eq_true]
  rfl

/-! ## Key slots (R478) -/

theorem settles_settleAll (ks : List Nat) : ∀ s, Settles s (settleAll s ks) := by
  induction ks with
  | nil => exact .refl
  | cons k rest ih => exact fun s => (settles_settleCtx s k).trans (ih _)

theorem getKey_putKey (kind slot : Nat) (x : KeySlot) : getKey (putKey s kind slot x) kind slot = x :=
  mapGet_put_same _ _ _ _

theorem getKey_emptyKey (kind slot : Nat) : getKey (emptyKey s kind slot) kind slot = { getKey s kind slot with key := none } := by
  have settled : getKey (if kind = 0 then settleAll s (slotContexts s slot) else s) kind slot = getKey s kind slot := by
    split
    · exact (settles_settleAll _ s).reads (fun u => getKey u kind slot) fun _ => rfl
    · rfl
  rw [emptyKey, getKey_putKey, settled]

theorem slotWaits_free {code : Nat} (free : slotBusy s (bf ((getDie s s.input.place).mWords.getD 1 0) 9 8)
    (bf ((getDie s s.input.place).mWords.getD 1 0) 7 0) = false) : slotWaits s code = false := by
  rw [slotWaits, free, Bool.and_false]

/-- A slot that is free, or its partition's own and released or of the context asked for, may be assigned. -/
theorem assignable {y : KeySlot} {part : Nat} {x : Word}
    (own : y.part = none ∨ (y.part = some part ∧ (x = 0 ∨ y.context = BitVec.ofNat 32 x.toNat))) :
    ¬ (match y.part with
      | none => false
      | some p => p != part || (BitVec.ofNat 32 x.toNat != 0 && y.context != BitVec.ofNat 32 x.toNat)) = true := by
  rcases own with free | ⟨mine, released | same⟩
  · rw [free]
    exact Bool.false_ne_true
  · rw [mine, released]
    simp
  · rw [mine, same]
    simp

/-! ## Sessions that end (24 R463) -/

/-- What the end of a session changes: partitions, sessions and what their cores are told. -/
def closesOnly (s u : State) : Prop := u = { s with parts := u.parts, sessions := u.sessions, ctxs := u.ctxs }

theorem closesOnly.trans {s t u : State} (h : closesOnly s t) (k : closesOnly t u) : closesOnly s u :=
  Eq.trans k (congrArg (fun x : State => { x with parts := u.parts, sessions := u.sessions, ctxs := u.ctxs }) h)

theorem closesOnly_foldl {α : Type} {f : State → α → State} (h : ∀ s x, closesOnly s (f s x)) (xs : List α) :
    ∀ s, closesOnly s (xs.foldl f s) := by
  induction xs with
  | nil => exact fun _ => rfl
  | cons x rest ih => exact fun s => (h s x).trans (ih _)

theorem setIpendPart_closes (s : State) (part bit : Nat) : closesOnly s (setIpendPart s part bit) := rfl

theorem putPart_closes (s : State) (k : Nat) (x : Partition) : closesOnly s (putPart s k x) := rfl

theorem putSession_closes (s : State) (k : Nat) (x : Session) : closesOnly s (putSession s k x) := rfl

theorem notifyParts_closes (bit : Nat) (ps : List Nat) : ∀ s, closesOnly s (notifyParts s bit ps) := by
  induction ps with
  | nil => exact fun _ => rfl
  | cons p rest ih => exact fun s => (setIpendPart_closes s p bit).trans (ih _)

theorem sessions_notifyParts (bit : Nat) (ps : List Nat) : ∀ s, (notifyParts s bit ps).sessions = s.sessions := by
  induction ps with
  | nil => exact fun _ => rfl
  | cons p rest ih => exact fun s => ih _

theorem mapParts_closes (f : Partition → Partition) (ps : List Nat) : ∀ s, closesOnly s (mapParts s f ps) := by
  induction ps with
  | nil => exact fun _ => rfl
  | cons p rest ih => exact fun s => (putPart_closes s _ _).trans (ih _)

theorem sessions_mapParts (f : Partition → Partition) (ps : List Nat) : ∀ s, (mapParts s f ps).sessions = s.sessions := by
  induction ps with
  | nil => exact fun _ => rfl
  | cons p rest ih => exact fun s => ih _

theorem closeSession_closes (s : State) (k : Nat) : closesOnly s (closeSession s k) := by
  rw [closeSession]
  dsimp only
  split
  · rfl
  · exact (((mapParts_closes _ _ s).trans (closesOnly_foldl (fun _ _ => putPart_closes _ _ _) _ _)).trans
      (putSession_closes _ _ _)).trans (notifyParts_closes _ _ _)

/-- The end of a session leaves it closed, and no other changed. -/
theorem getSession_closeSession (s : State) (k j : Nat) : (getSession (closeSession s k) k).isOpen = false ∧
    (j ≠ k → getSession (closeSession s k) j = getSession s j) := by
  rw [closeSession]
  dsimp only
  split
  case isTrue closed =>
    rw [Bool.not_eq_true'] at closed
    exact ⟨closed, fun _ => rfl⟩
  case isFalse =>
    have folded (e : Session) (ps : List Nat) (t : State) :
        (ps.foldl (fun s p => putPart s p (runLive e p (getPart s p))) t).sessions = t.sessions :=
      foldl_keeps (f := fun s p => putPart s p (runLive e p (getPart s p))) State.sessions (fun _ _ => rfl) ps t
    refine ⟨?_, fun other => ?_⟩
    · rw [getSession, sessions_notifyParts, ← getSession, getSession_putSession]
    · rw [getSession, sessions_notifyParts, ← getSession, getSession_putSession_ne _ _ other, getSession, folded,
        sessions_mapParts, ← getSession]

/-- Whether a session is one of a context's, which ends with its tenant's new registration. -/
def closesIn (context : BitVec 32) (e : Session) : Bool := e.isOpen && !e.maker && e.context == context

theorem closeContext_eq (s : State) (context : BitVec 32) : closeContext s context =
    s.sessions.foldl (fun s e => if closesIn context e.2 then closeSession s e.1 else s) s := rfl

theorem closeContext_closes (s : State) (context : BitVec 32) : closesOnly s (closeContext s context) := by
  rw [closeContext_eq]
  refine closesOnly_foldl (fun t e => ?_) _ s
  split
  · exact closeSession_closes _ _
  · rfl

theorem foldl_closeSession (context : BitVec 32) (k : Nat) (es : List (Nat × Session)) : ∀ s,
    ((∃ e, (k, e) ∈ es ∧ closesIn context e = true) ∨ (getSession s k).isOpen = false) →
      (getSession (es.foldl (fun s e => if closesIn context e.2 then closeSession s e.1 else s) s) k).isOpen = false := by
  induction es with
  | nil => exact fun s h => h.resolve_left fun ⟨_, he, _⟩ => absurd he List.not_mem_nil
  | cons e rest ih =>
    intro s h
    rw [List.foldl_cons]
    refine ih _ ?_
    rcases h with ⟨x, hx, closes⟩ | closed
    · rcases List.mem_cons.mp hx with first | later_
      · right
        rw [← first, if_pos closes]
        exact (getSession_closeSession s k k).1
      · exact .inl ⟨x, later_, closes⟩
    · right
      split
      · by_cases same : k = e.1
        · rw [same]
          exact (getSession_closeSession s e.1 e.1).1
        · rwa [(getSession_closeSession s e.1 k).2 same]
      · exact closed

theorem getSession_listed {k : Nat} (isOpen : (getSession s k).isOpen = true) : (k, getSession s k) ∈ s.sessions := by
  rw [getSession] at isOpen ⊢
  generalize s.sessions = es at isOpen ⊢
  induction es with
  | nil => exact absurd isOpen Bool.false_ne_true
  | cons e rest ih =>
    rw [mapGet] at isOpen ⊢
    split at isOpen
    case isTrue same =>
      rw [if_pos same, same]
      exact List.mem_cons_self
    case isFalse other =>
      rw [if_neg other]
      exact List.mem_cons_of_mem _ (ih isOpen)

theorem closeContext_ends {k : Nat} {context : BitVec 32} (isOpen : (getSession s k).isOpen = true)
    (tenant : (getSession s k).maker = false) (own : (getSession s k).context = context) :
    (getSession (closeContext s context) k).isOpen = false := by
  refine foldl_closeSession context k s.sessions s (.inl ⟨_, getSession_listed isOpen, ?_⟩)
  rw [closesIn, isOpen, tenant, own, beq_self_eq_true]
  rfl

end

/-! ## Division (R484) -/

section
variable {s t : State} {n : Nat}

theorem getDie_resetSystemCore {c : Nat} : getDie (resetSystemCore s c) (c / 2) = putSc (getDie s (c / 2)) (c % 2)
    { getSc (getDie s (c / 2)) (c % 2) with running := false, stopped := false, frozen := false } := getDie_putDie _ _ _

/-- A core that is reset may be booted, and a core that may be booted still may when another is reset. -/
theorem bootable_reset {k i c : Nat} (hi : i < 2) (h : c = 2 * k + i ∨ Bootable s k i) : Bootable (resetSystemCore s c) k i := by
  by_cases same : c = 2 * k + i
  · subst same
    have die := getDie_resetSystemCore (s := s) (c := 2 * k + i)
    rw [show (2 * k + i) / 2 = k by omega, show (2 * k + i) % 2 = i by omega] at die
    refine ⟨?_, ?_, ?_⟩
    · rw [die, getSc_putSc]
    · rw [die, getSc_putSc]
    · exact congrArg Ctx.ops (getCtx_putCtx _ _ _)
  · obtain ⟨still, free, idle⟩ := h.resolve_left same
    have block : getSc (getDie (resetSystemCore s c) k) i = getSc (getDie s k) i := by
      by_cases die : k = c / 2
      · subst die
        rw [getDie_resetSystemCore, getSc_putSc_ne _ _ (by omega)]
      · exact congrArg (getSc · i) (getDie_putDie_ne s _ die)
    refine ⟨block ▸ still, block ▸ free, ?_⟩
    exact (congrArg Ctx.ops (getCtx_putCtx_ne _ _ (by omega))).trans idle

/-- Both cores of a die reset. -/
def resetDie (s : State) (d : Nat) : State := resetSystemCore (resetSystemCore s (2 * d)) (2 * d + 1)

theorem bootable_resetDie {k i d : Nat} (hi : i < 2) (h : d = k ∨ Bootable s k i) : Bootable (resetDie s d) k i := by
  refine bootable_reset hi ?_
  rcases h with same | boot
  · subst same
    by_cases second : i = 1
    · exact .inl (by omega)
    · exact .inr (bootable_reset hi (.inl (by omega)))
  · exact .inr (bootable_reset hi (.inr boot))

theorem bootable_resets {k i : Nat} (hi : i < 2) (ds : List Nat) : ∀ s, (k ∈ ds ∨ Bootable s k i) →
    Bootable (ds.foldl resetDie s) k i := by
  induction ds with
  | nil => exact fun s h => h.resolve_left List.not_mem_nil
  | cons d rest ih =>
    intro s h
    refine ih _ ?_
    rcases h with there | boot
    · rcases List.mem_cons.mp there with first | later_
      · exact .inr (bootable_resetDie hi (.inl first.symm))
      · exact .inl later_
    · exact .inr (bootable_resetDie hi (.inr boot))

/-- Booting a die's core leaves another die as it is. -/
theorem getDie_booted {k i d : Nat} (hi : i < 2) (other : k ≠ d) (boot : Bootable s d i) :
    getDie (booted s d i) k = getDie s k := by
  have none_ : (getCtx (withEntry s d i) (systemBase + (2 * d + i))).ops = [] := boot.idle
  rw [booted_starts hi boot, startedState, settleCtx_none none_]
  exact (getDie_putDie_ne _ _ (by omega)).trans (getDie_putDie_ne s _ other)

/-- Booting a die leaves the others as they are. -/
theorem startColtaup_elsewhere {k d : Nat} (other : k ≠ d) (first : Bootable s d 0) (second : Bootable s d 1) :
    getDie (startColtaup s d) k = getDie s k ∧ ∀ i, i < 2 → Bootable s k i → Bootable (startColtaup s d) k i := by
  obtain ⟨-, -, others, ctxs⟩ := booted_does (by decide) first
  have next : Bootable (booted s d 0) d 1 := by
    refine ⟨?_, ?_, ?_⟩
    · rw [others 1 (by decide)]
      exact second.still
    · rw [others 1 (by decide)]
      exact second.free
    · rw [ctxs _ (by omega)]
      exact second.idle
  obtain ⟨-, -, -, ctxs'⟩ := booted_does (by decide) next
  have die : getDie (startColtaup s d) k = getDie s k := by
    rw [startColtaup_eq, getDie_booted (by decide) other next, getDie_booted (by decide) other first]
  refine ⟨die, fun i hi boot => ⟨?_, ?_, ?_⟩⟩
  · rw [die]
    exact boot.still
  · rw [die]
    exact boot.free
  · rw [startColtaup_eq, ctxs' _ (by omega), ctxs _ (by omega)]
    exact boot.idle

/-- The lowest dies of partitions of m dies booted one after another. -/
def bootAll (m : Nat) (ps : List Nat) (s : State) : State := ps.foldl (fun s p => startColtaup s (p * m)) s

theorem bootAll_does {m : Nat} (pos : 0 < m) (ps : List Nat) (once : ps.Nodup) : ∀ s,
    (∀ p ∈ ps, Bootable s (p * m) 0 ∧ Bootable s (p * m) 1) → startsOnly s (bootAll m ps s) ∧
      (∀ k, (∀ p ∈ ps, k ≠ p * m) → getDie (bootAll m ps s) k = getDie s k) ∧
      (∀ p ∈ ps, ∀ i, i < 2 → (getSc (getDie (bootAll m ps s) (p * m)) i).running = true) := by
  induction ps with
  | nil => exact fun s _ => ⟨rfl, fun _ _ => rfl, fun p hp => absurd hp List.not_mem_nil⟩
  | cons p rest ih =>
    intro s boot
    obtain ⟨fresh, once⟩ := List.nodup_cons.mp once
    obtain ⟨first, second⟩ := boot p List.mem_cons_self
    have apart (q : Nat) (hq : q ∈ rest) : q * m ≠ p * m := fun same =>
      fresh (Nat.eq_of_mul_eq_mul_right pos same ▸ hq)
    obtain ⟨only, runs0, runs1⟩ := startColtaup_runs first second
    have kept (q : Nat) (hq : q ∈ rest) : Bootable (startColtaup s (p * m)) (q * m) 0 ∧
        Bootable (startColtaup s (p * m)) (q * m) 1 := by
      obtain ⟨boot0, boot1⟩ := boot q (List.mem_cons_of_mem _ hq)
      obtain ⟨-, keeps⟩ := startColtaup_elsewhere (apart q hq) first second
      exact ⟨keeps 0 (by decide) boot0, keeps 1 (by decide) boot1⟩
    obtain ⟨only', others, runs⟩ := ih once (startColtaup s (p * m)) kept
    have step : bootAll m (p :: rest) s = bootAll m rest (startColtaup s (p * m)) := by
      rw [bootAll, List.foldl_cons, ← bootAll]
    rw [step]
    refine ⟨only.trans only', fun k away => ?_, fun q hq i hi => ?_⟩
    · exact (others k fun q hq => away q (List.mem_cons_of_mem _ hq)).trans
        (startColtaup_elsewhere (away p List.mem_cons_self) first second).1
    · rcases List.mem_cons.mp hq with same | later_
      · subst same
        rw [others (q * m) fun x hx => (apart x hx).symm]
        interval_cases i
        · exact runs0
        · exact runs1
      · exact runs q later_ i hi

/-- The state of a division before its new partitions' cores start. -/
def dividedState (s : State) (n : Nat) : State :=
  let s := if s.partCount == n then s else releaseSlots s
  let s := s.sessions.foldl (fun s e => if e.2.isOpen && !e.2.maker && e.2.part != 0 then closeSession s e.1 else s) s
  let s := ((List.range 24).filter fun d => decide (24 / n ≤ d)).foldl resetDie s
  { s with partCount := n, parts := s.parts.filter fun p => p.1 == 0, tlbs := [] }

theorem divideInto_eq : divideInto s n = bootAll (24 / n) ((List.range n).filter (· != 0)) (dividedState s n) := rfl

theorem bootable_divided {k i : Nat} (hi : i < 2) (hk : k < 24) (out : 24 / n ≤ k) : Bootable (dividedState s n) k i := by
  have reset := bootable_resets hi ((List.range 24).filter fun d => decide (24 / n ≤ d))
    ((if s.partCount == n then s else releaseSlots s).sessions.foldl
      (fun s e => if e.2.isOpen && !e.2.maker && e.2.part != 0 then closeSession s e.1 else s)
      (if s.partCount == n then s else releaseSlots s))
    (.inl (List.mem_filter.mpr ⟨List.mem_range.mpr hk, decide_eq_true out⟩))
  exact ⟨reset.still, reset.free, reset.idle⟩

/-- The cores that run after a division outside die 0's partition: those of each partition's lowest die. -/
theorem divideInto_does {m : Nat} (pos : 0 < m) (whole : n * m = 24) : (divideInto s n).partCount = n ∧
    (divideInto s n).tlbs = [] ∧ ∀ k i, k < 24 → m ≤ k → i < 2 →
      ((getSc (getDie (divideInto s n) k) i).running = true ↔ k % m = 0) := by
  have some_ : 0 < n := Nat.pos_of_ne_zero fun zero => by rw [zero, Nat.zero_mul] at whole; omega
  have share : 24 / n = m := by rw [← whole, Nat.mul_div_cancel_left _ some_]
  have known {p : Nat} : p ∈ (List.range n).filter (· != 0) ↔ p < n ∧ p ≠ 0 := by
    rw [List.mem_filter, List.mem_range, bne_iff_ne]
  have outside {p : Nat} (hp : p < n ∧ p ≠ 0) : p * m < 24 ∧ m ≤ p * m :=
    ⟨whole ▸ Nat.mul_lt_mul_of_pos_right hp.1 pos, Nat.le_mul_of_pos_left m (Nat.pos_of_ne_zero hp.2)⟩
  obtain ⟨only, others, runs⟩ := bootAll_does pos ((List.range n).filter (· != 0)) (List.nodup_range.filter _)
    (dividedState s n) fun p hp =>
      let at_ := outside (known.mp hp)
      ⟨bootable_divided (by decide) at_.1 (share ▸ at_.2), bootable_divided (by decide) at_.1 (share ▸ at_.2)⟩
  rw [divideInto_eq, share]
  refine ⟨Eq.trans (congrArg State.partCount only) rfl, Eq.trans (congrArg State.tlbs only) rfl, fun k i hk hm hi => ?_⟩
  constructor
  · intro running
    by_contra odd
    rw [others k fun p _ same => odd (same ▸ Nat.mul_mod_left p m)] at running
    exact absurd (running.symm.trans (bootable_divided hi hk (share ▸ hm)).still) (by decide)
  · intro lowest
    have die : k / m * m = k := Nat.div_mul_cancel (Nat.dvd_of_mod_eq_zero lowest)
    have here : k / m ∈ (List.range n).filter (· != 0) :=
      known.mpr ⟨(Nat.div_lt_iff_lt_mul pos).mpr (whole ▸ hk), (Nat.div_pos hm pos).ne'⟩
    have run := runs _ here i hi
    rwa [die] at run

end

/-- Settles O57: each request's body, and the RESULT that ends it. -/
theorem mailboxRequestsComplete : Obligations.MailboxRequestsComplete := by
  intro s die d w part asked ends kind slot x
  have done {i : Instr} {t : State} {n : Nat} {p : State → Prop} (step : exec i s = .next (finishMail t die n))
      (holds : p (finishMail t die n)) : ends i (BitVec.ofNat 8 n) p := by
    refine ⟨_, step, ?_, ?_, holds⟩
    · rw [getDie_finishMail]
    · rw [getDie_finishMail]
  refine ⟨?assign, ?empty, ?register, ?mark, ?divide, ?power, ?ready⟩
  case assign =>
    rintro ⟨busy, code, zero⟩ kind_ slot_ context free own
    refine done (t := putKey (emptyKey s kind slot) kind slot (if BitVec.ofNat 32 (w 2).toNat = 0 then {} else
      { part := some part, context := BitVec.ofNat 32 (w 2).toNat })) ?_ (getKey_putKey _ _ _)
    refine (if_neg (by rw [slotWaits_free free]; decide)).trans (mailRequest_ends busy code zero ?_)
    refine (if_neg (by omega : ¬ (kind = 3 ∨ 1024 ≤ (w 1).toNat ∨ 2 ^ 32 ≤ (w 2).toNat))).trans (if_neg ?_)
    exact assignable own
  case empty =>
    rintro ⟨busy, code, zero⟩ kind_ slot_ free
    have known : ¬ (kind = 3 ∨ 1024 ≤ (w 1).toNat) := by omega
    refine ⟨fun own => ?_, fun other => ?_⟩
    · refine done (t := emptyKey s kind slot) ?_ (congrArg KeySlot.key (getKey_emptyKey kind slot))
      exact (if_neg (by rw [slotWaits_free free]; decide)).trans
        (mailRequest_ends busy code zero ((if_neg known).trans (if_pos own)))
    · refine done (t := s) ?_ rfl
      exact (if_neg (by rw [slotWaits_free free]; decide)).trans
        (mailRequest_ends busy code zero ((if_neg known).trans (if_neg other)))
  case register =>
    rintro a b ⟨busy, code, zero⟩ context free2 free3 key2 key3
    have only := closeContext_closes { s with tenants := mapInsert s.tenants (w 1).toNat (a, b) } (BitVec.ofNat 32 (w 1).toNat)
    refine done (t := closeContext { s with tenants := mapInsert s.tenants (w 1).toNat (a, b) }
      (BitVec.ofNat 32 (w 1).toNat)) ?_ ⟨?_, fun k isOpen tenant own => ?_⟩
    · refine (if_neg ?_).trans (mailRequest_ends busy code zero ((if_neg (Nat.not_le.mpr context)).trans ?_))
      · rw [show runHeld s ((getDie s s.input.place).mWords.getD 2 0).toNat 32 = false from free2,
          show runHeld s ((getDie s s.input.place).mWords.getD 3 0).toNat 1952 = false from free3, Bool.or_false, Bool.and_false]
        decide
      · rw [show readMain s (hubKey s 0) ((getDie s s.input.place).mWords.getD 2 0).toNat 32 = some a from key2,
          show readMain s (hubKey s 0) ((getDie s s.input.place).mWords.getD 3 0).toNat 1952 = some b from key3]
    · have tenants : (closeContext { s with tenants := mapInsert s.tenants (w 1).toNat (a, b) }
          (BitVec.ofNat 32 (w 1).toNat)).tenants = mapInsert s.tenants (w 1).toNat (a, b) :=
        Eq.trans (congrArg State.tenants only) rfl
      exact tenants
    · refine closeContext_ends (s := { s with tenants := mapInsert s.tenants (w 1).toNat (a, b) }) isOpen tenant ?_
      rw [← own, BitVec.ofNat_toNat, BitVec.setWidth_eq]
      rfl
  case mark =>
    rintro ⟨busy, code, zero⟩ context
    refine done (t := { s with confidential := mapPut false s.confidential (bf (w 1) 31 0) (bitAt (w 1) 32) })
      ?_ ?_
    · show execMarkConfidential s = _
      rw [execMarkConfidential]
      exact mailRequest_ends busy code zero (if_neg (Nat.not_le.mpr context))
    show mapGet false (mapPut false s.confidential (bf (w 1) 31 0) (bitAt (w 1) 32)) (BitVec.ofNat 32 (bf (w 1) 31 0)).toNat = _
    rw [BitVec.toNat_ofNat, Nat.mod_eq_of_lt (bf_lt (w 1) 31 0), mapGet_put_same]
  case divide =>
    rintro ⟨busy, code, zero⟩ first count free
    obtain ⟨m, pos, whole⟩ : ∃ m, 0 < m ∧ (w 1).toNat * m = 24 := by
      have counts : ∀ n ∈ [1, 2, 4, 8, 24], ∃ m, 0 < m ∧ n * m = 24 := by
        intro n hn
        simp only [List.mem_cons, List.not_mem_nil, or_false] at hn
        rcases hn with rfl | rfl | rfl | rfl | rfl
        · exact ⟨24, by decide⟩
        · exact ⟨12, by decide⟩
        · exact ⟨6, by decide⟩
        · exact ⟨3, by decide⟩
        · exact ⟨1, by decide⟩
      exact counts _ (List.contains_iff_mem.mp count)
    have share : 24 / (w 1).toNat = m := by
      rw [← whole, Nat.mul_div_cancel_left]
      exact Nat.pos_of_ne_zero fun none_ => by rw [none_, Nat.zero_mul] at whole; omega
    obtain ⟨parts, tlbs, cores⟩ := divideInto_does (s := s) pos whole
    refine done (t := divideInto s (w 1).toNat) ?_ ⟨parts, tlbs, fun k i hk hm hi => ?_⟩
    · show execDivide s = _
      rw [execDivide]
      refine mailRequest_ends busy code zero ((if_neg fun h => h first).trans ((if_neg ?_).trans (if_neg ?_)))
      · rw [show [1, 2, 4, 8, 24].contains ((getDie s s.input.place).mWords.getD 1 0).toNat = true from count]
        decide
      · rw [free]
        decide
    · rw [share] at hm ⊢
      have kept : getSc (getDie (finishMail (divideInto s (w 1).toNat) die 0) k) i =
          getSc (getDie (divideInto s (w 1).toNat) k) i := by
        by_cases same : k = die
        · rw [same, getDie_finishMail]
          rfl
        · rw [getDie_finishMail_ne same]
      rw [kept]
      exact cores k i hk hm hi
  case power =>
    rintro ⟨busy, code, zero⟩ first low high
    have known : ¬ ((w 1).toNat < 8000 ∨ 16000 < (w 1).toNat) := by omega
    refine ⟨fun free => ?_, fun held => ?_⟩
    · refine done (t := { s with requestedLimit := (w 1).toNat, powerLimit := (w 1).toNat }) ?_ rfl
      show execPowerLimit s = _
      rw [execPowerLimit]
      exact mailRequest_ends busy code zero
        ((if_neg fun h => h first).trans ((if_neg known).trans (if_neg (by rw [free]; decide))))
    · refine done (t := { s with requestedLimit := (w 1).toNat }) ?_ ⟨rfl, rfl⟩
      show execPowerLimit s = _
      rw [execPowerLimit]
      exact mailRequest_ends busy code zero ((if_neg fun h => h first).trans ((if_neg known).trans (if_pos held)))
  case ready =>
    rintro ⟨busy, code, zero⟩
    refine done (t := putPart s part { getPart s part with ready := true }) ?_ ?_
    · show execReady s = _
      rw [execReady]
      exact mailRequest_ends busy code zero rfl
    exact congrArg Machine.Partition.ready (getPart_putPart s part { getPart s part with ready := true })

end Sys2Proof.Proofs
end

section
/-! PROOFS. Power limits, heat and coolant flow take effect (25 R481, R482, R487). -/

namespace Sys2Proof.Proofs

open Sys2Proof Sys2Proof.Machine Sys2Proof.Laws

section
variable {s : State}

/-! ## The mailbox at a host port (R487) -/

/-- The answer's first doubleword. -/
def doeWord (op result watts : Nat) : BitVec 32 := BitVec.ofNat 32 (op + result * 2 ^ 8 + watts / 100 * 2 ^ 16)

theorem doeReply_doeAnswer (t : State) (h op result : Nat) (more : List (BitVec 32)) :
    (getHub (doeAnswer t h op result more) h).doeReply = doeWord op result t.powerLimit :: more :=
  congrArg Hub.doeReply (getHub_putHub t h { getHub t h with doeReply := doeWord op result t.powerLimit :: more })

theorem doeRequest_body {own : Nat} {body : Nat → Nat → State} (known : s.input.place < 2) (id_ : s.input.id = doeHeader)
    (op : bf s.input.value 7 0 = own) : doeRequest s own body = .next (body s.input.place (bf s.input.value 31 16)) :=
  congrArg Host.Outcome.next ((if_neg fun h => h.elim (Nat.not_le.mpr known) fun other => other id_).trans (if_pos op))

theorem doeRequest_unlisted {own : Nat} {body : Nat → Nat → State} (known : s.input.place < 2) (id_ : s.input.id = doeHeader)
    (op : bf s.input.value 7 0 = 0 ∨ 4 ≤ bf s.input.value 7 0) (listed : own ≠ 0 ∧ own < 4) :
    doeRequest s own body = .next (doeAnswer s s.input.place (bf s.input.value 7 0) 2 []) :=
  congrArg Host.Outcome.next ((if_neg fun h => h.elim (Nat.not_le.mpr known) fun other => other id_).trans
    ((if_neg (by omega)).trans (if_pos op)))

theorem doeRequest_foreign {own : Nat} {body : Nat → Nat → State} (id_ : s.input.id ≠ doeHeader) :
    doeRequest s own body = .next s :=
  congrArg Host.Outcome.next (if_pos (.inr id_))

theorem askLimit_free (watts : Nat) (free : s.flowHold = false) :
    askLimit s watts = (0, { s with requestedLimit := watts, powerLimit := watts }) :=
  if_neg (by rw [free]; decide)

theorem askLimit_held (watts : Nat) (held : s.flowHold = true) : askLimit s watts = (1, { s with requestedLimit := watts }) :=
  if_pos held

theorem setPowerLimit_asks (known : s.input.place < 2) (id_ : s.input.id = doeHeader) (op : bf s.input.value 7 0 = 1)
    (low : 80 ≤ bf s.input.value 31 16) (high : bf s.input.value 31 16 ≤ 160) : exec .setPowerLimit s =
      .next (doeAnswer (askLimit s (100 * bf s.input.value 31 16)).2 s.input.place 1
        (askLimit s (100 * bf s.input.value 31 16)).1 []) := by
  show execSetPowerLimit s = _
  rw [execSetPowerLimit, doeRequest_body known id_ op]
  exact congrArg Host.Outcome.next (if_neg (by omega))

theorem setPowerLimit_refuses (known : s.input.place < 2) (id_ : s.input.id = doeHeader) (op : bf s.input.value 7 0 = 1)
    (out : bf s.input.value 31 16 < 80 ∨ 160 < bf s.input.value 31 16) :
    exec .setPowerLimit s = .next (doeAnswer s s.input.place 1 2 []) := by
  show execSetPowerLimit s = _
  rw [execSetPowerLimit, doeRequest_body known id_ op]
  exact congrArg Host.Outcome.next (if_pos out)

theorem readStatus_answers (known : s.input.place < 2) (id_ : s.input.id = doeHeader) (op : bf s.input.value 7 0 = 3)
    (zero : bf s.input.value 31 16 = 0) : exec .readStatus s = .next (doeAnswer { s with drawn := s.drawn + 1 } s.input.place 3 0
      [Config.moduleWatts s.drawn, Config.junctionTenths s.drawn, Config.coolantFlow s.drawn,
        BitVec.ofNat 32 (s.flowHold.toNat + s.thermalLow.toNat * 2)]) := by
  show execReadStatus s = _
  rw [execReadStatus, doeRequest_body known id_ op]
  exact congrArg Host.Outcome.next (if_neg fun other => other zero)

/-- The requests of the controller's mailbox. -/
theorem doe_forms {result : State} (all_ : ∀ own body, own ≠ 0 ∧ own < 4 → doeRequest s own body = .next result) :
    ∀ i ∈ [Instr.setPowerLimit, .readPowerLimit, .readStatus], exec i s = .next result := by
  have set : exec .setPowerLimit s = .next result := by
    show execSetPowerLimit s = _
    rw [execSetPowerLimit]
    exact all_ 1 _ (by decide)
  have read : exec .readPowerLimit s = .next result := by
    show execReadPowerLimit s = _
    rw [execReadPowerLimit]
    exact all_ 2 _ (by decide)
  have status : exec .readStatus s = .next result := by
    show execReadStatus s = _
    rw [execReadStatus]
    exact all_ 3 _ (by decide)
  intro i hi
  simp only [List.mem_cons, List.not_mem_nil, or_false] at hi
  rcases hi with rfl | rfl | rfl
  · exact set
  · exact read
  · exact status

/-! ## Heat and flow (R481, R482) -/

theorem log_logEvent (s : State) (e : LogEntry) (part : Option Nat) : (logEvent s e part).log = s.log ++ [e] := by
  cases part <;> rfl

theorem logAll_only (s : State) (e : LogEntry) : logAll s e = { s with
    log := s.log ++ [e], parts := (logAll s e).parts, sessions := (logAll s e).sessions, ctxs := (logAll s e).ctxs } :=
  Eq.trans (notifyParts_closes 4 _ _) rfl

theorem log_logAll (s : State) (e : LogEntry) : (logAll s e).log = s.log ++ [e] :=
  Eq.trans (congrArg State.log (logAll_only s e)) rfl

/-- After a shutdown no strand issues. -/
theorem issuable_shutDown (s : State) (a : Agent) : issuable (shutDown s) a = false := by
  have down : ctxRuns (shutDown s) a.key = false := by
    rw [ctxRuns]
    show (_ && !true && _) = false
    rw [Bool.not_true, Bool.and_false, Bool.false_and]
  rw [issuable, down, Bool.and_false, Bool.false_and]

end

/-- Settles O58: the mailbox's requests by their OP and argument, and each event by what it sets. -/
theorem powerAndHeatRequestsComplete : Obligations.PowerAndHeatRequestsComplete := by
  intro s die h op x reply answer
  refine ⟨fun known id_ => ⟨fun one low high => ⟨fun free => ?_, fun held => ?_⟩, fun one out => ?_, fun two zero => ?_,
    fun three zero => ?_, fun unlisted => ?_⟩, fun foreign => ?_, fun ends => ?_, fun limit => ?_, ?_, ?_, fun held => ?_, ?_⟩
  · have step := setPowerLimit_asks known id_ one low high
    rw [askLimit_free _ free] at step
    exact ⟨_, step, rfl, rfl, (doeReply_doeAnswer _ _ _ _ _).trans (by rw [← one]; rfl)⟩
  · have step := setPowerLimit_asks known id_ one low high
    rw [askLimit_held _ held] at step
    exact ⟨_, step, rfl, rfl, (doeReply_doeAnswer _ _ _ _ _).trans (by rw [← one]; rfl)⟩
  · exact ⟨_, setPowerLimit_refuses known id_ one out, rfl, rfl, (doeReply_doeAnswer _ _ _ _ _).trans (by rw [← one]; rfl)⟩
  · show execReadPowerLimit s = _
    rw [execReadPowerLimit, doeRequest_body known id_ two, ← two, if_pos zero]
    rfl
  · exact ⟨_, _, _, _, readStatus_answers known id_ three zero, (doeReply_doeAnswer _ _ _ _ _).trans (by rw [← three]; rfl)⟩
  · exact doe_forms fun own body listed => doeRequest_unlisted known id_ unlisted listed
  · exact doe_forms fun own body _ => doeRequest_foreign foreign
  · exact congrArg Host.Outcome.next (if_pos ends)
  · refine ⟨_, congrArg Host.Outcome.next (if_neg (by rw [limit]; decide)), ?_, log_logEvent _ _ _⟩
    rw [logEvent_only]
  · refine ⟨_, rfl, rfl, rfl, issuable_shutDown _, ?_⟩
    exact (log_logAll _ _).trans (by rw [log_logEvent, List.append_assoc]; rfl)
  · refine ⟨_, rfl, ?_, ?_, ?_, log_logAll _ _⟩
    · rw [logAll_only]
    · rw [logAll_only]
    · rw [logAll_only]
  · exact congrArg Host.Outcome.next (if_pos held)
  · refine ⟨_, rfl, rfl, rfl, issuable_shutDown _, ?_⟩
    exact (log_logAll _ _).trans (by rw [log_logAll, List.append_assoc]; rfl)

end Sys2Proof.Proofs
end

section
/-! PROOFS. Debug sessions open and end, and their settings stand (24 R462 to R465, R471, R473, R475). -/

namespace Sys2Proof.Proofs

open Sys2Proof Sys2Proof.Machine Sys2Proof.Laws

section
variable {s : State} {k : Nat}

/-! ## Partitions changed one after the other -/

/-- What the change gives every partition that it reaches holds of each listed one. -/
theorem mapParts_holds {f : Machine.Partition → Machine.Partition} {P : Machine.Partition → Prop} (gives : ∀ x, P (f x)) (ps : List Nat) {p : Nat} :
    ∀ s, (p ∈ ps ∨ P (getPart s p)) → P (getPart (mapParts s f ps) p) := by
  induction ps with
  | nil => exact fun s h => h.resolve_left List.not_mem_nil
  | cons q rest ih =>
    intro s h
    refine ih _ ?_
    by_cases here : p = q
    · rw [here, getPart_putPart]
      exact .inr (gives _)
    · rw [getPart_putPart_ne _ _ here]
      exact h.imp_left fun listed => (List.mem_cons.mp listed).resolve_left here

theorem parts_notifyParts (bit : Nat) (ps : List Nat) : ∀ s, (notifyParts s bit ps).parts = s.parts := by
  induction ps with
  | nil => exact fun _ => rfl
  | cons p rest ih => exact fun s => ih _

theorem keys_notifyParts (bit : Nat) (ps : List Nat) : ∀ s, (notifyParts s bit ps).keys = s.keys := by
  induction ps with
  | nil => exact fun _ => rfl
  | cons p rest ih => exact fun s => ih _

theorem getKey_notifyParts (s : State) (bit kind slot : Nat) (ps : List Nat) :
    getKey (notifyParts s bit ps) kind slot = getKey s kind slot :=
  congrArg (mapGet ({} : KeySlot) · (kind * 256 + slot)) (keys_notifyParts bit ps s)

theorem getKey_putSession (s : State) (k kind slot : Nat) (x : Session) : getKey (putSession s k x) kind slot = getKey s kind slot :=
  rfl

/-! ## Opening (R462) -/

theorem getKey_putKey_ne {kind slot kind' slot' : Nat} (x : KeySlot) (other : kind * 256 + slot ≠ kind' * 256 + slot') :
    getKey (putKey s kind' slot' x) kind slot = getKey s kind slot := mapGet_put_ne _ _ _ other

/-- A slot that is empty stays so when another of its kind is emptied. -/
theorem emptyKey_holds {kind slot slot' : Nat} (h : slot = slot' ∨ (getKey s kind slot).key = none) :
    (getKey (emptyKey s kind slot') kind slot).key = none := by
  by_cases same : slot = slot'
  · rw [same, getKey_emptyKey]
  · have settled : getKey (if kind = 0 then settleAll s (slotContexts s slot') else s) kind slot = getKey s kind slot := by
      split
      · exact (settles_settleAll _ s).reads (fun u => getKey u kind slot) fun _ => rfl
      · rfl
    rw [emptyKey, getKey_putKey_ne _ (by omega), settled]
    exact h.resolve_left same

theorem emptyKeys_holds {kind slot : Nat} (slots : List Nat) : ∀ s, (slot ∈ slots ∨ (getKey s kind slot).key = none) →
    (getKey (emptyKeys s kind slots) kind slot).key = none := by
  induction slots with
  | nil => exact fun s h => h.resolve_left List.not_mem_nil
  | cons first rest ih =>
    intro s h
    refine ih _ (h.elim (fun listed => (List.mem_cons.mp listed).elim ?_ .inl) fun empty => .inr (emptyKey_holds (.inr empty)))
    exact fun here => .inr (emptyKey_holds (.inl here))

theorem makerOpens_empties (s : State) {slot : Nat} (known : slot < 256) : (getKey (makerOpens s) 1 slot).key = none := by
  rw [makerOpens]
  exact emptyKeys_holds (List.range 256) _ (.inl (List.mem_range.mpr known))

/-- The state that a session opens in: a maker's opening empties the key slots (R462). -/
def opening (s : State) (maker : Bool) : State := if maker then makerOpens s else s

/-- The session that opens. -/
def openedSession (a : SessionAsk) (time : BitVec 48) : Session :=
  { isOpen := true, maker := a.level == .maker, context := a.context, part := a.part, nonce := a.nonce, last := time }

/-- The state with the opened session in it, before the interrupt. -/
def openedState (s : State) (k : Nat) (a : SessionAsk) : State :=
  putSession (opening s (a.level == .maker)) k (openedSession a (opening s (a.level == .maker)).time)

theorem execSessionOpen_opens (closed : (getSession s s.input.place).isOpen = false) (may : mayOpen s s.input.ask = true)
    (free : s.input.ask.level = .maker → ∀ i, i < 256 → slotBusy s 0 i = false ∧ slotBusy s 1 i = false) :
    exec .sessionOpen s = .next (notifyParts (openedState s s.input.place s.input.ask) 5
      (sessionParts (openedState s s.input.place s.input.ask) (getSession (openedState s s.input.place s.input.ask) s.input.place))) := by
  show execSessionOpen s = _
  refine congrArg Host.Outcome.next ((if_neg (by rw [closed]; decide)).trans ((if_neg ?_).trans (if_pos may)))
  intro busy
  rw [Bool.and_eq_true, Bool.and_eq_true, beq_iff_eq, List.any_eq_true] at busy
  obtain ⟨⟨-, maker⟩, i, listed, waits⟩ := busy
  obtain ⟨memory, image⟩ := free maker i (List.mem_range.mp listed)
  rw [memory, image] at waits
  exact Bool.false_ne_true waits

theorem getSession_opened (bit : Nat) (ps : List Nat) (a : SessionAsk) :
    getSession (notifyParts (openedState s k a) bit ps) k = openedSession a (opening s (a.level == .maker)).time := by
  rw [getSession, sessions_notifyParts, ← getSession, openedState, getSession_putSession]

theorem execSessionOpen_refuses (closed : (getSession s s.input.place).isOpen = false)
    (unproved : s.input.ask.ed25519 ≠ .valid ∨ s.input.ask.mldsa ≠ .valid) : ∃ u, exec .sessionOpen s = .next u ∧
      (getSession u s.input.place).isOpen = false ∧ (getSession u s.input.place).result = 1 := by
  have refused : mayOpen s s.input.ask = false := by
    have fails : proves s.input.ask = false := by
      rw [proves, Bool.and_eq_false_iff]
      exact unproved.imp beq_eq_false_iff_ne.mpr beq_eq_false_iff_ne.mpr
    rw [mayOpen, fails, Bool.and_false, Bool.false_and]
  refine ⟨_, congrArg Host.Outcome.next ((if_neg (by rw [closed]; decide)).trans ((if_neg ?_).trans
    (if_neg (by rw [refused]; decide)))), ?_⟩
  · rw [refused, Bool.false_and, Bool.false_and]
    decide
  have reads : getSession (if (s.input.ask.level == .maker && !pathAdmits s s.input.ask.path) = true then
      { putSession s s.input.place { getSession s s.input.place with result := 1 } with
        log := (putSession s s.input.place { getSession s s.input.place with result := 1 }).log ++ [.makerRefused] }
      else putSession s s.input.place { getSession s s.input.place with result := 1 }) s.input.place =
        { getSession s s.input.place with result := 1 } := by
    split <;> exact getSession_putSession _ _ _
  exact ⟨(congrArg Session.isOpen reads).trans closed, congrArg Session.result reads⟩

theorem raised_interrupt (x : BitVec 16) : (x ||| BitVec.ofNat 16 (2 ^ 5)).getLsbD 5 = true := by
  rw [BitVec.getLsbD_or, Bool.or_eq_true]
  exact .inr (by decide)

/-- Both cores of a partition's lowest die have the interrupt that is raised there. -/
theorem ipend_setIpendPart (s : State) (part : Nat) {i : Nat} (hi : i < 2) :
    (getCtx (setIpendPart s part 5) (systemBase + (2 * (part * (24 / s.partCount)) + i))).ipend.getLsbD 5 = true := by
  rw [setIpendPart]
  generalize part * (24 / s.partCount) = d
  interval_cases i
  · rw [setIpend, getCtx_putCtx_ne _ _ (by omega), setIpend, Nat.add_zero, getCtx_putCtx]
    exact raised_interrupt _
  · rw [setIpend, getCtx_putCtx]
    exact raised_interrupt _

/-! ## Ending (R463) -/

/-- Whether nothing of a session is left: itself, its breakpoints and its watchpoints. -/
def sessionGone (u : State) (k : Nat) (parts : List Nat) : Prop := getSession u k = {} ∧ ∀ p ∈ parts,
  ((getPart u p).breaks.all fun b => b.2.sess != k) = true ∧ ((getPart u p).watches.all fun b => b.2.sess != k) = true

/-- A partition's breakpoints and watchpoints, without those of a session. -/
def clearedOf (k : Nat) (p : Machine.Partition) : Machine.Partition :=
  { p with breaks := p.breaks.filter fun b => b.2.sess != k, watches := p.watches.filter fun b => b.2.sess != k }

/-- Partitions whose launches in a session's scope go on live. -/
def runAll (e : Session) (ps : List Nat) (s : State) : State := ps.foldl (fun s p => putPart s p (runLive e p (getPart s p))) s

theorem runAll_keeps (e : Session) (ps : List Nat) (p : Nat) : ∀ s, (getPart (runAll e ps s) p).breaks = (getPart s p).breaks ∧
    (getPart (runAll e ps s) p).watches = (getPart s p).watches := by
  induction ps with
  | nil => exact fun _ => ⟨rfl, rfl⟩
  | cons q rest ih =>
    intro s
    obtain ⟨breaks, watches⟩ := ih (putPart s q (runLive e q (getPart s q)))
    have one : (getPart (putPart s q (runLive e q (getPart s q))) p).breaks = (getPart s p).breaks ∧
        (getPart (putPart s q (runLive e q (getPart s q))) p).watches = (getPart s p).watches := by
      by_cases here : p = q
      · rw [here, getPart_putPart]
        exact ⟨rfl, rfl⟩
      · rw [getPart_putPart_ne _ _ here]
        exact ⟨rfl, rfl⟩
    rw [runAll, List.foldl_cons, ← runAll]
    exact ⟨breaks.trans one.1, watches.trans one.2⟩

theorem closeSession_gone (isOpen : (getSession s k).isOpen = true) :
    sessionGone (closeSession s k) k (sessionParts s (getSession s k)) := by
  have closed : closeSession s k = notifyParts (putSession (runAll (getSession s k) (sessionParts s (getSession s k))
      (mapParts s (clearedOf k) (sessionParts s (getSession s k)))) k {}) 5 (sessionParts s (getSession s k)) := by
    rw [closeSession]
    exact if_neg (by rw [isOpen]; decide)
  rw [closed]
  refine ⟨?_, fun p listed => ?_⟩
  · rw [getSession, sessions_notifyParts, ← getSession, getSession_putSession]
  · have same (t : State) (ps : List Nat) : getPart (notifyParts (putSession t k {}) 5 ps) p = getPart t p := by
      rw [getPart, parts_notifyParts]
      rfl
    have clear : ((getPart (mapParts s (clearedOf k) (sessionParts s (getSession s k))) p).breaks.all fun b => b.2.sess != k) =
          true ∧
        ((getPart (mapParts s (clearedOf k) (sessionParts s (getSession s k))) p).watches.all fun b => b.2.sess != k) = true :=
      mapParts_holds (f := clearedOf k)
        (P := fun x => (x.breaks.all fun b => b.2.sess != k) = true ∧ (x.watches.all fun b => b.2.sess != k) = true)
        (fun x => ⟨List.all_eq_true.mpr fun b hb => (List.mem_filter.mp hb).2,
          List.all_eq_true.mpr fun b hb => (List.mem_filter.mp hb).2⟩) _ s (.inl listed)
    obtain ⟨breaks, watches⟩ := runAll_keeps (getSession s k) (sessionParts s (getSession s k)) p
      (mapParts s (clearedOf k) (sessionParts s (getSession s k)))
    rw [same, breaks, watches]
    exact clear

/-! ## Requests (R464) -/

theorem bf_payloadWord {op result len : Nat} (byte : op < 256) : bf (payloadWord op result len) 7 0 = op := by
  rw [bf, payloadWord, BitVec.toNat_ofNat, Nat.pow_zero, Nat.div_one]
  omega

theorem judged_passes {checks : List (Bool × Nat)} {s t : State} (pass : ∀ c ∈ checks, c.1 = true) : judged checks s t = (0, [], t) := by
  have none_ : listFind (fun c : Bool × Nat => !c.1) checks = none := by
    rw [listFind_eq_find?, List.find?_eq_none]
    intro c hc
    rw [pass c hc]
    decide
  rw [judged, none_]
  rfl

/-- The state in which an open session's request is carried out: its message noted (R463). -/
def noted (s : State) : State := putSession s s.input.place { getSession s s.input.place with last := s.time }

/-- The request's answer left in its session. -/
def answeredState (s : State) (r : Answer) : State :=
  putSession r.2.2 s.input.place { getSession r.2.2 s.input.place with
    result := BitVec.ofNat 8 r.1, reply := r.2.1, answer := payloadWord (bf s.input.value 7 0) r.1 (8 * r.2.1.length) }

theorem sessionRequest_eq {op bytes : Nat} {body : State → Nat → Session → (Nat → Word) → Answer}
    (isOpen : (getSession s s.input.place).isOpen = true) : sessionRequest op bytes s body = .next (answeredState s
      (if s.input.value = payloadWord op 0 bytes then
        body (noted s) s.input.place { getSession s s.input.place with last := s.time } fun i => s.input.words.getD i 0
      else (3, [], noted s))) := congrArg Host.Outcome.next (if_pos isOpen)

theorem sessionRequest_answers {op bytes : Nat} {r : Answer}
    {body : State → Nat → Session → (Nat → Word) → Answer} (isOpen : (getSession s s.input.place).isOpen = true)
    (word : s.input.value = payloadWord op 0 bytes)
    (does : body (noted s) s.input.place { getSession s s.input.place with last := s.time } (fun i => s.input.words.getD i 0) = r) :
    sessionRequest op bytes s body = .next (answeredState s r) := by
  rw [sessionRequest_eq isOpen, if_pos word, does]

theorem sessionRequest_wrong {op bytes : Nat} {body : State → Nat → Session → (Nat → Word) → Answer}
    (isOpen : (getSession s s.input.place).isOpen = true) (word : s.input.value ≠ payloadWord op 0 bytes) :
    ∃ u, sessionRequest op bytes s body = .next u ∧ (getSession u s.input.place).result = 3 := by
  refine ⟨answeredState s (3, [], noted s), ?_, ?_⟩
  · rw [sessionRequest_eq isOpen, if_neg word]
  · rw [answeredState, getSession_putSession]
    rfl

theorem heldRequest_goes {i : Instr} {op bytes : Nat} {held : Session → (Nat → Word) → Bool} {go : Host.Outcome State Fault Refusal}
    (free : s.input.value = payloadWord op 0 bytes →
      held (getSession s s.input.place) (fun j => s.input.words.getD j 0) = false) :
    heldRequest i op bytes s held go = go := by
  rw [heldRequest]
  refine if_neg fun waits => ?_
  rw [Bool.and_eq_true, Bool.and_eq_true, beq_iff_eq] at waits
  obtain ⟨⟨-, word⟩, held_⟩ := waits
  rw [free word] at held_
  exact Bool.false_ne_true held_

theorem getSession_answeredState {r : Answer} : getSession (answeredState s r) s.input.place =
    { getSession r.2.2 s.input.place with
      result := BitVec.ofNat 8 r.1, reply := r.2.1
      answer := payloadWord (bf s.input.value 7 0) r.1 (8 * r.2.1.length) } := getSession_putSession _ _ _

theorem getPart_answeredState {r : Answer} (p : Nat) : getPart (answeredState s r) p = getPart r.2.2 p := rfl

theorem sessionParts_noted (e : Session) : sessionParts (noted s) e = sessionParts s e := rfl

theorem getSession_noted : getSession (noted s) s.input.place = { getSession s s.input.place with last := s.time } :=
  getSession_putSession _ _ _

/-- A setting of another session's in some partition of the scope, and none. -/
theorem none_taken {ps : List Nat} {valid sess : Nat → Bool} (free : ∀ p ∈ ps, valid p = true → sess p = true) :
    (ps.any fun p => valid p && !sess p) = false := by
  rw [List.any_eq_false]
  intro p listed taken
  rw [Bool.and_eq_true] at taken
  rw [free p listed taken.1] at taken
  exact Bool.false_ne_true taken.2

end

/-- Settles O59: openings and ends by what is left of the session, and each request's body by its checks. -/
theorem debugSessionsAndSettings : Obligations.DebugSessionsAndSettings := by
  refine ⟨?sessions, ?settings⟩
  case sessions =>
    intro s k a e gone
    refine ⟨?opens, ?refused, ?ends, ?timeout, ?early⟩
    case opens =>
      intro closed may free
      refine ⟨_, execSessionOpen_opens closed may free, ?_⟩
      have opened := getSession_opened (s := s) (k := k) 5 (sessionParts (openedState s k a) (getSession (openedState s k a) k)) a
      refine ⟨congrArg Session.isOpen opened, congrArg Session.maker opened, congrArg Session.context opened,
        congrArg Session.part opened, congrArg Session.nonce opened, ?tenant, ?maker⟩
      case tenant =>
        intro tenant
        have plain : opening s (a.level == .maker) = s := by rw [opening, tenant]; rfl
        have own : getSession (openedState s k a) k = openedSession a s.time := by
          rw [openedState, getSession_putSession, plain]
        refine ⟨?_, fun i hi => ?_⟩
        · rw [congrArg Session.last opened, plain]
          rfl
        · have parts : sessionParts (openedState s k a) (getSession (openedState s k a) k) = [a.part] := by
            rw [own, sessionParts, openedSession, tenant]
            rfl
          have count : (openedState s k a).partCount = s.partCount := by
            rw [openedState, plain]
            rfl
          have raised := ipend_setIpendPart (openedState s k a) a.part hi
          rw [count] at raised
          rw [parts]
          exact raised
      case maker =>
        intro maker slot hs
        have emptied : opening s (a.level == .maker) = makerOpens s := by rw [opening, maker]; exact if_pos rfl
        have keys (ps : List Nat) : getKey (notifyParts (openedState s k a) 5 ps) 1 slot = getKey (makerOpens s) 1 slot := by
          rw [getKey_notifyParts, openedState, emptied, getKey_putSession]
        rw [keys]
        exact makerOpens_empties s hs
    case refused => exact execSessionOpen_refuses
    case ends => exact fun isOpen => ⟨_, rfl, closeSession_gone isOpen⟩
    case timeout => exact fun isOpen late => ⟨_, congrArg Host.Outcome.next (if_pos late), closeSession_gone isOpen⟩
    case early => exact fun _ early => congrArg Host.Outcome.next (if_neg (Nat.not_le.mpr early))
  case settings =>
    intro s k e t w i ends n kind b wp freeB freeW isOpen
    have done {q : Instr} {op len : Nat} {u : State} {p : State → Prop} (byte : op < 256)
        (step : s.input.value = payloadWord op 0 len → exec q s = .next (answeredState s (0, [], u)))
        (holds : p (answeredState s (0, [], u))) : ends q op len p := by
      refine fun word => ⟨_, step word, ?_, ?_, holds⟩
      · rw [getSession_answeredState]
        rfl
      · rw [getSession_answeredState, word, bf_payloadWord byte]
        rfl
    have noBreak (free : freeB) : ((sessionParts s e).any fun p => (b p).valid && (b p).sess != k) = false :=
      none_taken (sess := fun p => (b p).sess == k) fun p listed valid => beq_iff_eq.mpr (free p listed valid)
    have noWatch (free : freeW) : ((sessionParts s e).any fun p => (wp p).valid && (wp p).sess != k) = false :=
      none_taken (sess := fun p => (wp p).sess == k) fun p listed valid => beq_iff_eq.mpr (free p listed valid)
    refine ⟨?setBreak, ?clearBreak, ?setWatch, ?clearWatch, ?trigger, ?noTrigger, ?mark, ?live, ?wrong⟩
    case setBreak =>
      intro few asid aligned low own free
      refine done (by decide) (u := mapParts t (fun p => { p with
        breaks := mapPut {} p.breaks i ⟨true, k, BitVec.ofNat 16 (w 1).toNat, w 2, w 3⟩ }) (sessionParts s e))
        (fun word => ?_) fun p listed => ?_
      · show execSetBreakpoint s = _
        rw [execSetBreakpoint]
        refine sessionRequest_answers isOpen word (judged_passes ?_)
        simp only [List.forall_mem_cons, List.not_mem_nil, false_imp_iff, implies_true, and_true, Bool.and_eq_true,
          decide_eq_true_eq, beq_iff_eq, Bool.not_eq_true']
        exact ⟨⟨⟨⟨few, asid⟩, aligned⟩, low⟩, own, noBreak free⟩
      · exact mapParts_holds (P := fun x => mapGet ({} : Breakpoint) x.breaks i = _)
          (fun x => mapGet_put_same ({} : Breakpoint) x.breaks i ⟨true, k, BitVec.ofNat 16 (w 1).toNat, w 2, w 3⟩) _ t (.inl listed)
    case clearBreak =>
      intro few mine
      refine done (by decide) (u := mapParts t (fun p => { p with breaks := mapErase p.breaks i }) (sessionParts s e))
        (fun word => ?_) fun p listed => ?_
      · show execClearBreakpoint s = _
        rw [execClearBreakpoint]
        refine sessionRequest_answers isOpen word (judged_passes ?_)
        simp only [List.forall_mem_cons, List.not_mem_nil, false_imp_iff, implies_true, and_true, Bool.or_eq_true,
          decide_eq_true_eq, Bool.not_eq_true']
        exact ⟨few, mine.imp id noBreak⟩
      · exact mapParts_holds (P := fun x => (mapGet ({} : Breakpoint) x.breaks i).valid = false)
          (fun x => congrArg Breakpoint.valid (mapGet_erase_same _ _ _)) _ t (.inl listed)
    case setWatch =>
      intro few asid large small known aligned low own free
      refine done (by decide) (u := mapParts t (fun p => { p with
        watches := mapPut {} p.watches i ⟨true, k, BitVec.ofNat 16 (w 1).toNat, w 2, n, BitVec.ofNat 2 kind⟩ })
        (sessionParts s e)) (fun word => ?_) fun p listed => ?_
      · show execSetWatchpoint s = _
        rw [execSetWatchpoint]
        refine sessionRequest_answers isOpen word (judged_passes ?_)
        simp only [List.forall_mem_cons, List.not_mem_nil, false_imp_iff, implies_true, and_true, Bool.and_eq_true,
          decide_eq_true_eq, beq_iff_eq, bne_iff_ne, Bool.not_eq_true']
        exact ⟨⟨⟨⟨⟨⟨⟨few, asid⟩, large⟩, small⟩, known⟩, aligned⟩, low⟩, own, noWatch free⟩
      · exact mapParts_holds (P := fun x => mapGet ({} : Watchpoint) x.watches i = _)
          (fun x => mapGet_put_same ({} : Watchpoint) x.watches i
            ⟨true, k, BitVec.ofNat 16 (w 1).toNat, w 2, n, BitVec.ofNat 2 kind⟩) _ t (.inl listed)
    case clearWatch =>
      intro few mine
      refine done (by decide) (u := mapParts t (fun p => { p with watches := mapErase p.watches i }) (sessionParts s e))
        (fun word => ?_) fun p listed => ?_
      · show execClearWatchpoint s = _
        rw [execClearWatchpoint]
        refine sessionRequest_answers isOpen word (judged_passes ?_)
        simp only [List.forall_mem_cons, List.not_mem_nil, false_imp_iff, implies_true, and_true, Bool.or_eq_true,
          decide_eq_true_eq, Bool.not_eq_true']
        exact ⟨few, mine.imp id noWatch⟩
      · exact mapParts_holds (P := fun x => (mapGet ({} : Watchpoint) x.watches i).valid = false)
          (fun x => congrArg Watchpoint.valid (mapGet_erase_same _ _ _)) _ t (.inl listed)
    case trigger =>
      intro few event set_ value
      refine done (by decide) (u := putSession t k { e with
        triggers := mapInsert e.triggers i (bf (w 1) 2 0, w 2, bitAt (w 3) 0) }) (fun word => ?_) ?_
      · show execSetTrigger s = _
        rw [execSetTrigger]
        refine sessionRequest_answers isOpen word ((judged_passes ?_).trans ?_)
        · simp only [List.forall_mem_cons, List.not_mem_nil, false_imp_iff, implies_true, and_true, Bool.and_eq_true,
            decide_eq_true_eq]
          exact ⟨⟨few, event⟩, value⟩
        · exact congrArg (fun m => (0, [], putSession t k { e with triggers := m })) (if_neg set_)
      · rw [getSession_answeredState, getSession_putSession]
    case noTrigger =>
      intro few cleared
      refine done (by decide) (u := putSession t k { e with triggers := mapErase e.triggers i }) (fun word => ?_) ?_
      · show execSetTrigger s = _
        rw [execSetTrigger]
        refine sessionRequest_answers isOpen word ((judged_passes ?_).trans ?_)
        · simp only [List.forall_mem_cons, List.not_mem_nil, false_imp_iff, implies_true, and_true, Bool.and_eq_true,
            decide_eq_true_eq]
          rw [show bf (s.input.words.getD 1 0) 2 0 = 0 from cleared]
          exact ⟨⟨few, Nat.zero_le _⟩, rfl⟩
        · exact congrArg (fun m => (0, [], putSession t k { e with triggers := m })) (if_pos cleared)
      · rw [getSession_answeredState, getSession_putSession]
    case mark =>
      intro asid low own
      have marked (op : Nat) : markRequest op (noted s) s.input.place e w =
          (0, [], putSession t k { e with marks := e.marks ++ [(op, [w 0, w 1, w 2, w 3, w 4])] }) := by
        rw [markRequest]
        refine judged_passes ?_
        simp only [List.forall_mem_cons, List.not_mem_nil, false_imp_iff, implies_true, and_true, Bool.and_eq_true,
          decide_eq_true_eq, Bool.not_eq_true']
        exact ⟨⟨asid, low⟩, own⟩
      refine ⟨done (by decide) (fun word => sessionRequest_answers isOpen word (marked 9)) ?_,
        done (by decide) (fun word => sessionRequest_answers isOpen word (marked 10)) ?_⟩
      · rw [getSession_answeredState, getSession_putSession]
      · rw [getSession_answeredState, getSession_putSession]
    case live =>
      intro p listed live own
      have mine : p ∈ (sessionParts s e).filter fun p => (getLaunch (getPart s p) i).live &&
          inScope e (getLaunch (getPart s p) i).context p :=
        List.mem_filter.mpr ⟨listed, Bool.and_eq_true_iff.mpr ⟨live, own⟩⟩
      refine done (by decide) (u := mapParts t (fun p => putLaunch p i { getLaunch p i with continueLive := bitAt (w 1) 0 })
        ((sessionParts s e).filter fun p => (getLaunch (getPart s p) i).live &&
          inScope e (getLaunch (getPart s p) i).context p)) (fun word => ?_) ?_
      · show execSetContinueLive s = _
        rw [execSetContinueLive]
        refine sessionRequest_answers isOpen word (judged_passes ?_)
        simp only [List.forall_mem_cons, List.not_mem_nil, false_imp_iff, implies_true, and_true, Bool.not_eq_true']
        refine ⟨List.any_eq_true.mpr ⟨p, listed, live⟩, ?_⟩
        rw [List.isEmpty_eq_false_iff]
        exact List.ne_nil_of_mem mine
      · exact mapParts_holds (P := fun x => (getLaunch x i).continueLive = bitAt (w 1) 0)
          (fun x => congrArg Launch.continueLive (getLaunch_putLaunch _ _ _)) _ t (.inl mine)
    case wrong =>
      have wrong {q : Instr} {op len : Nat} {body : State → Nat → Session → (Nat → Word) → Answer}
          (is : exec q s = sessionRequest op len s body) (word : s.input.value ≠ payloadWord op 0 len) :
          ∃ u, exec q s = .next u ∧ (getSession u k).result = 3 := by
        rw [is]
        exact sessionRequest_wrong isOpen word
      have waits {q : Instr} {op len : Nat} {held : Session → (Nat → Word) → Bool}
          {body : State → Nat → Session → (Nat → Word) → Answer}
          (is : exec q s = heldRequest q op len s held (sessionRequest op len s body))
          (word : s.input.value ≠ payloadWord op 0 len) : ∃ u, exec q s = .next u ∧ (getSession u k).result = 3 := by
        rw [is, heldRequest_goes fun own => absurd own word]
        exact sessionRequest_wrong isOpen word
      simp only [List.forall_mem_cons, List.not_mem_nil, false_imp_iff, implies_true, and_true]
      exact ⟨wrong (execSetBreakpoint.eq_1 s), wrong (execClearBreakpoint.eq_1 s), wrong (execSetWatchpoint.eq_1 s),
        wrong (execClearWatchpoint.eq_1 s), waits (execSetCapture.eq_1 s), wrong (execStartCapture.eq_1 s),
        wrong (execFreezeCapture.eq_1 s), wrong (execSetTrigger.eq_1 s), wrong (execMarkForRecording.eq_1 s),
        wrong (execReplay.eq_1 s), wrong (execSetContinueLive.eq_1 s), wrong (execDumpParkTable.eq_1 s),
        waits (execPoll.eq_1 s), waits (execRelease.eq_1 s)⟩

end Sys2Proof.Proofs

end

section
/-! PROOFS. The requests of debug sessions that capture, their hits, their keys and their samples (24 R464, R468 to R472). -/

namespace Sys2Proof.Proofs

open Sys2Proof Sys2Proof.Machine Sys2Proof.Laws

section
variable {s : State} {k : Nat}

/-! ## Capture (R469 to R472) -/

/-- A session without the counts that capture moves: how far its buffer is written, what it lost, and the chunk begun. -/
def settingsOf (e : Session) : Session := { e with written := 0, lost := 0, chunk := [], chunkNo := 0 }

theorem sessions_mainWrite (s : State) (p a slot : Nat) (bs : List Byte) (bad : Bool) :
    (mainWrite s p a slot bs bad).1.sessions = s.sessions := by
  rw [mainWrite]
  split <;> [rfl; split <;> [rfl; split <;> rfl]]

theorem sessions_postWrite (s : State) (pa slot : Nat) (bs : List Byte) : (postWrite s pa slot bs).sessions = s.sessions := by
  rw [postWrite]
  split
  · rfl
  · split
    · rfl
    · exact sessions_mainWrite _ _ _ _ _ _

theorem sessions_writeLineOwnKey (s : State) (e : Session) (pa : Nat) (bs : List Byte) :
    (writeLineOwnKey s e pa bs).sessions = s.sessions := by
  rw [writeLineOwnKey]
  split
  · exact sessions_postWrite _ _ _ _
  · rfl

theorem sessions_writeLinesOwnKey (e : Session) (ls : List (List Byte)) : ∀ s pa,
    (writeLinesOwnKey s e pa ls).sessions = s.sessions := by
  induction ls with
  | nil => exact fun _ _ => rfl
  | cons l rest ih => exact fun s pa => (ih _ _).trans (sessions_writeLineOwnKey s e pa l)

theorem getSession_congr {s u : State} (h : u.sessions = s.sessions) (k : Nat) : getSession u k = getSession s k := by
  rw [getSession, getSession, h]

theorem getSession_countWritten (n : Nat) : getSession (countWritten s k n) k = { getSession s k with written := n } := by
  rw [countWritten]
  dsimp only
  split
  · rw [getSession_congr (sessions_notifyParts _ _ _), getSession_putSession]
  · rw [getSession_putSession]

theorem flushChunk_settings : settingsOf (getSession (flushChunk s k) k) = settingsOf (getSession s k) := by
  rw [flushChunk]
  dsimp only
  split
  · rw [getSession_putSession]
    rfl
  · split
    · rw [getSession_countWritten, getSession_putSession]
      rfl
    · rw [getSession_countWritten, getSession_putSession]
      rfl

theorem captureInto_settings (isSealed : Bool) (words : List Word) :
    settingsOf (getSession (captureInto s k isSealed words) k) = settingsOf (getSession s k) := by
  rw [captureInto]
  dsimp only
  split
  case isTrue => rfl
  case isFalse =>
    split
    case isTrue =>
      rw [getSession_putSession]
      rfl
    case isFalse =>
      split
      case isTrue =>
        split
        · rw [getSession_putSession]
          rfl
        · rw [flushChunk_settings, getSession_putSession]
          rfl
      case isFalse =>
        rw [getSession_countWritten, getSession_congr (sessions_writeLineOwnKey _ _ _ _)]
        rfl

theorem captureOwn_settings (kind : Nat) (data : Word) :
    settingsOf (getSession (captureOwn s k kind data) k) = settingsOf (getSession s k) := by
  rw [captureOwn]
  split
  · exact captureInto_settings _ _
  · rfl

/-- Capture is on, into a buffer that is not frozen. -/
theorem startCaptureIn_settings : settingsOf (getSession (startCaptureIn s k) k) =
    { settingsOf (getSession s k) with capturing := true, frozenBuf := false } := by
  have begun : settingsOf (getSession (captureOwn (putSession s k { getSession s k with capturing := true, frozenBuf := false }) k 6 0)
      k) = { settingsOf (getSession s k) with capturing := true, frozenBuf := false } := by
    rw [captureOwn_settings, getSession_putSession]
    rfl
  rw [startCaptureIn]
  dsimp only
  split
  · exact begun
  · rw [captureOwn_settings, getSession_putSession, ← begun]
    rfl

theorem freezeCaptureIn_frozen : (getSession (freezeCaptureIn s k) k).frozenBuf = true :=
  congrArg Session.frozenBuf (getSession_putSession _ _ _)

/-! ## Hits (R468) -/

/-- How long a hit has waited. -/
def age (s : State) (h : Nat × Nat × BitVec 48) : Nat := (s.time - h.2.2).toNat

theorem age_olderHit (a b : Nat × Nat × BitVec 48) : age s a ≤ age s (olderHit s a b) ∧ age s b ≤ age s (olderHit s a b) := by
  rw [olderHit]
  split
  case isTrue older => exact ⟨Nat.le_of_lt older, le_rfl⟩
  case isFalse younger => exact ⟨le_rfl, Nat.not_lt.mp younger⟩

/-- The oldest of a list of hits and one more has waited no less than any of them. -/
theorem age_foldl_olderHit (hs : List (Nat × Nat × BitVec 48)) : ∀ h, ∀ x ∈ h :: hs, age s x ≤ age s (hs.foldl (olderHit s) h) := by
  induction hs with
  | nil => exact fun h x only => by rw [List.mem_singleton.mp only]; exact le_rfl
  | cons next rest ih =>
    intro h x listed
    rw [List.foldl_cons]
    have first := ih (olderHit s h next) _ List.mem_cons_self
    obtain ⟨old, new⟩ := age_olderHit (s := s) h next
    rcases List.mem_cons.mp listed with same | listed
    · rw [same]
      exact old.trans first
    · rcases List.mem_cons.mp listed with same | listed
      · rw [same]
        exact new.trans first
      · exact ih _ x (List.mem_cons_of_mem _ listed)

theorem oldestHit_oldest {e : Session} {h : Nat × Nat × BitVec 48} (oldest : oldestHit s e = some h) :
    ∀ x ∈ waitingHits s e, age s x ≤ age s h := by
  rw [oldestHit] at oldest
  generalize waitingHits s e = hs at oldest
  cases hs with
  | nil => exact fun x none_ => absurd none_ List.not_mem_nil
  | cons first rest =>
    obtain rfl := Option.some.inj oldest
    exact age_foldl_olderHit rest first

theorem parts_writeFrameLines (key va : Nat) (ls : List (List Byte)) : ∀ s,
    (writeFrameLines s key va ls).parts = s.parts := by
  induction ls generalizing va with
  | nil => exact fun _ => rfl
  | cons l rest ih =>
    intro s
    rw [writeFrameLines]
    refine (ih _ _).trans ?_
    split
    · rfl
    · rw [mainWrite]
      split <;> [rfl; split <;> [rfl; split <;> rfl]]
    · rfl

theorem parts_writeFrameWord (key off : Nat) (x : Word) : (writeFrameWord s key off x).parts = s.parts := by
  rw [writeFrameWord]
  dsimp only
  split
  · rfl
  · rfl
  · exact parts_writeFrameLines _ _ _ _

theorem parts_releaseStops (key stops : Nat) : (releaseStops s key stops).parts = s.parts :=
  foldl_keeps _ (fun _ _ => parts_writeFrameWord _ _ _) _ _

/-! ## Keys (25 R478) -/

theorem getKey_loadKeyIn (kind slot : Nat) (key : List Byte) :
    getKey (loadKeyIn s kind slot key) kind slot = { getKey s kind slot with key := some key } := by
  have settled : getKey (if kind = 0 then settleAll s (slotContexts s slot) else s) kind slot = getKey s kind slot := by
    split
    · exact (settles_settleAll _ s).reads (fun u => getKey u kind slot) fun _ => rfl
    · rfl
  rw [loadKeyIn, getKey_putKey, settled]

end

/-- Settles O60: each request's checks and what its body leaves; captures keep a session's settings. -/
theorem capturesHitsAndKeysComplete : Obligations.CapturesHitsAndKeysComplete := by
  intro s k e t w ends n core kind slot old dated
  refine ⟨fun isOpen => ?requests, ?sample⟩
  case requests =>
    have done {q : Instr} {op len : Nat} (reply : List Word) {u : State} {p : State → Prop} (byte : op < 256)
        (step : s.input.value = payloadWord op 0 len → exec q s = .next (answeredState s (0, reply, u)))
        (holds : p (answeredState s (0, reply, u))) : ends q op len p := by
      refine fun word => ⟨_, step word, ?_, ?_, holds⟩
      · rw [getSession_answeredState]
        rfl
      · rw [getSession_answeredState, word, bf_payloadWord byte]
    refine ⟨?set_, ?capture_, ?dump, ?poll, ?release, ?load⟩
    case set_ =>
      intro large small aligned within rate admitted free granted
      refine done [] (by decide) (u := putSession t k { e with
        bufBase := (w 0).toNat, bufLog2 := n, pages := bufferPages t e (w 0).toNat (2 ^ n),
        stopMode := bitAt (w 1) 8, period := (w 2).toNat, kinds := BitVec.ofNat 12 (w 3).toNat, configured := true,
        capturing := false, frozenBuf := false, written := 0, lost := e.lost + e.chunk.length, chunk := [] })
        (fun word => ?_) ?_
      · show execSetCapture s = _
        rw [execSetCapture, heldRequest_goes fun _ => free]
        refine sessionRequest_answers isOpen word (judged_passes ?_)
        simp only [List.forall_mem_cons, List.not_mem_nil, false_imp_iff, implies_true, and_true, Bool.and_eq_true,
          Bool.or_eq_true, decide_eq_true_eq, beq_iff_eq]
        exact ⟨⟨⟨⟨⟨large, small⟩, aligned⟩, within⟩, rate⟩, admitted, granted⟩
      · dsimp only
        rw [getSession_answeredState, getSession_putSession]
        exact ⟨rfl, rfl, rfl, rfl, rfl, rfl, rfl, rfl, rfl, rfl⟩
    case capture_ =>
      intro configured
      refine ⟨fun admitted => ?_, ?_⟩
      · have settings := startCaptureIn_settings (s := t) (k := k)
        refine done [] (by decide) (u := startCaptureIn t k) (fun word => ?_) ?_
        · show execStartCapture s = _
          rw [execStartCapture]
          refine sessionRequest_answers isOpen word (judged_passes ?_)
          simp only [List.forall_mem_cons, List.not_mem_nil, false_imp_iff, implies_true, and_true]
          exact ⟨admitted, configured⟩
        · rw [getSession_answeredState]
          exact ⟨(congrArg Session.capturing settings).trans rfl, (congrArg Session.frozenBuf settings).trans rfl⟩
      · refine done [] (by decide) (u := freezeCaptureIn t k) (fun word => ?_) ?_
        · show execFreezeCapture s = _
          rw [execFreezeCapture]
          refine sessionRequest_answers isOpen word (judged_passes ?_)
          simp only [List.forall_mem_cons, List.not_mem_nil, false_imp_iff, implies_true, and_true]
          exact configured
        · rw [getSession_answeredState]
          exact freezeCaptureIn_frozen
    case dump =>
      intro i p die row own capturing park valid key mine v word
      have only : answeredState s (0, [], v) =
          putSession v k { getSession v k with result := 0, reply := [], answer := payloadWord 0x0C 0 0 } := by
        rw [answeredState, word, bf_payloadWord (by decide)]
        rfl
      rw [← only]
      show execDumpParkTable s = _
      rw [execDumpParkTable]
      refine sessionRequest_answers isOpen word ((judged_passes ?_).trans ?_)
      · simp only [List.forall_mem_cons, List.not_mem_nil, false_imp_iff, implies_true, and_true, Bool.and_eq_true,
          Bool.or_eq_true, decide_eq_true_eq, beq_iff_eq]
        exact ⟨⟨die, row⟩, own, capturing⟩
      · have entries : (getCore (noted s) core).park = [(i, p)] := park
        rw [show (32 * (s.input.words.getD 0 0).toNat + (s.input.words.getD 1 0).toNat) = core from rfl, entries]
        refine congrArg (fun x => (0, [], x)) (if_pos ?_)
        exact Bool.and_eq_true_iff.mpr ⟨valid, mine⟩
    case poll =>
      intro p key since oldest free f
      refine ⟨oldestHit_oldest oldest, done (joinedName t key (bf (f.headD 0) 10 8) ++ f) (by decide) (u := t) (fun word => ?_) ?_⟩
      · show execPoll s = _
        have there : oldestHit s (getSession s s.input.place) = some (p, key, since) := oldest
        rw [execPoll, heldRequest_goes fun _ => by rw [there]; exact free]
        refine sessionRequest_answers isOpen word ?_
        rw [show oldestHit (noted s) { getSession s s.input.place with last := s.time } = some (p, key, since) from oldest]
        rfl
      · rw [getSession_answeredState]
    case release =>
      intro p key since rest waiting free launch_ wg warp
      have named : namedHit t e w = some (p, key, since) := by
        rw [namedHit, waiting]
        refine if_pos ?_
        rw [Bool.and_eq_true, Bool.and_eq_true, beq_iff_eq, beq_iff_eq, beq_iff_eq]
        exact ⟨⟨launch_, wg⟩, warp⟩
      have parts : getPart (releaseStops t key (bf (w 3) 7 0)) p = getPart s p := by
        rw [getPart, parts_releaseStops]
        rfl
      refine done [] (by decide) (u := putPart (releaseStops t key (bf (w 3) 7 0)) p
        { getPart (releaseStops t key (bf (w 3) 7 0)) p with
          hits := eraseHit (getPart (releaseStops t key (bf (w 3) 7 0)) p).hits key }) (fun word => ?_) ?_
      · show execRelease s = _
        have there : namedHit s (getSession s s.input.place) (fun j => s.input.words.getD j 0) = some (p, key, since) := named
        rw [execRelease, heldRequest_goes fun _ => by rw [there]; exact free]
        refine sessionRequest_answers isOpen word ?_
        rw [show namedHit (noted s) { getSession s s.input.place with last := s.time } (fun i => s.input.words.getD i 0) =
          some (p, key, since) from named]
        rfl
      · rw [getPart_answeredState, getPart_putPart, parts]
    case load =>
      intro known length proved free own
      refine done [] (by decide) (u := loadKeyIn t kind slot s.input.bytes) (fun word => ?_) ?_
      · show execLoadKey s = _
        rw [execLoadKey]
        dsimp only
        rw [heldRequest_goes fun _ => free]
        refine sessionRequest_answers isOpen word (judged_passes ?_)
        simp only [List.forall_mem_cons, List.not_mem_nil, false_imp_iff, implies_true, and_true, Bool.and_eq_true,
          Bool.or_eq_true, decide_eq_true_eq, beq_iff_eq, bne_iff_ne]
        exact ⟨⟨⟨known, length⟩, proved⟩, own.imp id fun mine => ⟨⟨mine.1, mine.2.1⟩, mine.2.2⟩⟩
      · exact getKey_loadKeyIn (s := t) kind slot s.input.bytes
  case sample =>
    intro isOpen capturing rate kind_ late
    have samples : exec .sample s = .next ((liveQuads s).foldl (sampleQuad k) dated) := by
      refine congrArg Host.Outcome.next (if_pos ?_)
      rw [Bool.and_eq_true, Bool.and_eq_true, Bool.and_eq_true, Bool.and_eq_true, bne_iff_ne, decide_eq_true_eq]
      exact ⟨⟨⟨⟨isOpen, capturing⟩, rate⟩, kind_⟩, late⟩
    refine ⟨fun none_ => ?none_, ?one⟩
    case none_ =>
      rw [samples, none_]
      rfl
    case one =>
      intro q x only strand a v
      have session : getSession dated k = { old with sampledAt := s.time } := getSession_putSession _ _ _
      have strands : quadStrands dated { old with sampledAt := s.time } q = [x] := strand
      have turn : (([x].filter fun i => decide (mapGet 0 old.sampled q ≤ i)).head?).getD x = x := by
        rw [List.filter_cons]
        split <;> rfl
      rw [samples, only, List.foldl_cons, List.foldl_nil, sampleQuad]
      dsimp only
      rw [session, strands]
      dsimp only
      rw [turn]
      rfl

end Sys2Proof.Proofs

end

section
/-! PROOFS. The state after reset, and after the bring-up that follows it (02 R44, 25 R483, R485). -/

namespace Sys2Proof.Proofs

open Sys2Proof Sys2Proof.Machine Sys2Proof.Laws

section
variable {s : State} {die : Nat}

/-- The context of a core that has been booted. -/
theorem getCtx_booted {i : Nat} (hi : i < 2) (h : Bootable s die i) : ∃ n,
    getCtx (booted s die i) (systemBase + (2 * die + i)) =
      startedCore { getSc (getDie s die) i with pc := keep (Config.coltaupEntry die) 56 2, arg := 0, asid := 0 } n := by
  refine ⟨(getCtx (settleCtx (withEntry s die i) (systemBase + (2 * die + i))) (systemBase + (2 * die + i))).nextOp, ?_⟩
  rw [booted_starts hi h, startedState]
  dsimp only
  rw [getCtx_putCtx, blockOf_withEntry hi]

/-- Both cores of a die that can be booted stand at Coltaup's entry. -/
theorem getCtx_startColtaup (first : Bootable s die 0) (second : Bootable s die 1) {i : Nat} (hi : i < 2) : ∃ x n,
    x.pc = keep (Config.coltaupEntry die) 56 2 ∧ x.arg = 0 ∧ x.asid = 0 ∧
      getCtx (startColtaup s die) (systemBase + (2 * die + i)) = startedCore x n := by
  obtain ⟨-, -, others, ctxs⟩ := booted_does (by decide) first
  have next : Bootable (booted s die 0) die 1 := by
    refine ⟨?_, ?_, ?_⟩
    · rw [others 1 (by decide)]
      exact second.still
    · rw [others 1 (by decide)]
      exact second.free
    · rw [ctxs _ (by omega)]
      exact second.idle
  obtain ⟨-, -, -, kept⟩ := booted_does (by decide) next
  rw [startColtaup_eq]
  interval_cases i
  · obtain ⟨n, stands⟩ := getCtx_booted (by decide) first
    exact ⟨_, n, rfl, rfl, rfl, (kept _ (by omega)).trans stands⟩
  · obtain ⟨n, stands⟩ := getCtx_booted (by decide) next
    exact ⟨_, n, rfl, rfl, rfl, stands⟩

/-- A started core without an argument has every register 0. -/
theorem getS_startedCore {x : ScBlock} (arg : x.arg = 0) (m n : Nat) : getS (startedCore x m) n = { val := 0 } := by
  rw [startedCore, arg]
  by_cases one : n = 1
  · rw [one]
    rfl
  · rw [Laws.getS_putS_ne _ _ one]
    exact ite_self _

theorem step_reset : step State.reset = exec .bringUp { onward State.reset with due := [] } := rfl

end

/-- Settles O6: reset is the empty state with the bring-up due, and a bring-up without a refused image runs to its end. -/
theorem resetState : Obligations.ResetState := by
  have fine (m : Nat) (_ : m < 8) (pos : 0 < m) :
      stepFails (cleared { onward State.reset with due := [] }) (onward State.reset).input.report m = false :=
    stepFails_none pos.ne fun j _ => (imageOk_iff j).mp (by cases j <;> decide)
  obtain ⟨only, first, second⟩ := startColtaup_runs
    (bootable_trained (s := { onward State.reset with due := [] }) (r := (onward State.reset).input.report) (i := 0))
    bootable_trained
  refine ⟨rfl, fun _ => rfl, rfl, fun _ => rfl, fun _ _ => rfl, fun _ => rfl, rfl, rfl, fun _ => ⟨rfl, rfl⟩, _,
    step_reset.trans (bringUp_done fine), ?_, fun i hi => ⟨?_, ?_⟩⟩
  · exact Eq.trans (congrArg State.powered only) rfl
  · interval_cases i
    · exact first
    · exact second
  · obtain ⟨x, n, pc, arg, asid, stands⟩ := getCtx_startColtaup
      (bootable_trained (s := { onward State.reset with due := [] }) (r := (onward State.reset).input.report) (i := 0))
      bootable_trained hi
    rw [Nat.mul_zero, Nat.zero_add] at stands
    dsimp only
    rw [stands]
    exact ⟨rfl, rfl, asid, getS_startedCore arg n, pc, rfl, rfl⟩

end Sys2Proof.Proofs

end

section
/-! PROOFS. A step runs its decoded instruction, its scheduled row, or the trap of a word that stands for none
(04 R84, R87, R88, R104 to R106). -/

namespace Sys2Proof.Proofs

open Sys2Proof Sys2Proof.Machine Sys2Proof.Laws

section
variable {s t r : State}

/-! ## What comes before the move -/

theorem watchLead_wgs (s : State) (e : Nat × EngineOp) : watchLead s e = { s with wgs := (watchLead s e).wgs } := by
  have stamped (s : State) (k n i : Nat) (first : Bool) : stampBand s k n i first = { s with wgs := (stampBand s k n i first).wgs } := by
    rw [stampBand]
    split <;> rfl
  rw [watchLead]
  split
  · split
    · dsimp only
      split
      · rw [stamped (stampBand ..), stamped s]
      · rw [stamped s]
    · rfl
  · rfl

/-- What the engines have come to changes workgroups alone, and time its own registers and what it strikes. -/
theorem onward_only (s : State) : onward s =
    { s with time := (onward s).time, pace := (onward s).pace, ctxs := (onward s).ctxs, wgs := (onward s).wgs } := by
  have watched (es : List (Nat × EngineOp)) : ∀ s, es.foldl watchLead s = { s with wgs := (es.foldl watchLead s).wgs } := by
    induction es with
    | nil => exact fun _ => rfl
    | cons e rest ih =>
      intro s
      rw [List.foldl_cons, ih, watchLead_wgs]
  have engines : watchEngines s = { s with wgs := (watchEngines s).wgs } := watched _ s
  rw [onward, elapse, engines]

/-! ## The move of a step -/

theorem step_agenda {a : Act} {rest : List Act} (agenda : s.agenda = a :: rest) :
    step s = act a { onward s with agenda := rest } := by
  have head : (elapse (watchEngines s)).agenda = a :: rest := by
    rw [← onward, onward_only]
    exact agenda
  rw [step]
  dsimp only
  split
  next b others is =>
    obtain ⟨rfl, rfl⟩ := List.cons.inj (is.symm.trans head)
    rfl
  next none_ => cases none_.symm.trans head

theorem step_due {a : Act} {rest : List Act} (agenda : s.agenda = []) (now : s.postponed = false) (due : s.due = a :: rest) :
    step s = act a { onward s with due := rest } := by
  have queues : (elapse (watchEngines s)).agenda = [] ∧ (elapse (watchEngines s)).due = a :: rest ∧
      (elapse (watchEngines s)).postponed = false := by
    rw [← onward, onward_only]
    exact ⟨agenda, due, now⟩
  obtain ⟨agenda', due', now'⟩ := queues
  rw [step]
  dsimp only
  split
  next b others is => cases is.symm.trans agenda'
  next =>
    split
    next b others is _ =>
      obtain ⟨rfl, rfl⟩ := List.cons.inj (is.symm.trans due')
      rfl
    next other => exact absurd now' (other _ _ due')

theorem step_turns (agenda : s.agenda = []) (idle : s.due = [] ∨ s.postponed = true) :
    step s = issueStep { onward s with postponed := false, focus := nextStrand (onward s) s.focus } := by
  have queues : (elapse (watchEngines s)).agenda = [] ∧ (elapse (watchEngines s)).due = s.due ∧
      (elapse (watchEngines s)).postponed = s.postponed ∧ (elapse (watchEngines s)).focus = s.focus := by
    rw [← onward, onward_only]
    exact ⟨agenda, rfl, rfl, rfl⟩
  obtain ⟨agenda', due', postponed', focus'⟩ := queues
  rw [step]
  dsimp only
  split
  next b others is => cases is.symm.trans agenda'
  next =>
    split
    next b others some_ now =>
      rcases idle with none_ | later_
      · cases (some_.symm.trans due').trans none_
      · cases (now.symm.trans postponed').trans later_
    next =>
      rw [← focus']
      rfl

theorem shutdown_onward : (onward s).shutdown = s.shutdown := by rw [onward_only]

theorem staysDown_up {a : Act} (up : s.shutdown = false) : staysDown s a = false :=
  Bool.and_eq_false_iff.mpr (.inl up)

theorem act_moves {a : Act} (moves : staysDown s a = false) : act a s = move a s := if_neg (by rw [moves]; decide)

/-! ## A strand's turn -/

theorem up_of_issuable {a : Agent} (ok : issuable s a = true) : s.shutdown = false := by
  rw [issuable] at ok
  simp only [Bool.and_eq_true] at ok
  obtain ⟨⟨-, runs⟩, -⟩ := ok
  rw [ctxRuns] at runs
  simp only [Bool.and_eq_true, Bool.not_eq_true'] at runs
  exact runs.1.2

theorem step_turn (turn : turnIn s t) (ok : issuable t t.focus = true) : step s = attempt t t.focus := by
  rcases turn with ⟨who, rest, agenda, rfl⟩ | ⟨agenda, idle, rfl⟩
  · refine (step_agenda agenda).trans (act_moves (staysDown_up ?_))
    exact up_of_issuable ok
  · rw [step_turns agenda idle]
    rfl

theorem attempt_issues (h : issuesIn s t r) : attempt t t.focus = attemptOf t t.focus (issueWord r) := by
  obtain ⟨-, ok, noInterrupt, noReplay, noPass, begun, free, w, fetched, ⟨words, window⟩, -⟩ := h
  have next : issueNext { t with focus := t.focus } = issueWord r := by
    show issueWith false t = _
    rw [passDue] at noPass
    rw [issueWith]
    dsimp only
    rw [ok, noPass, noReplay, noInterrupt, begun, free, fetched]
    dsimp only
    rw [words]
    simp only [Bool.not_true, Bool.false_eq_true, ↓reduceIte]
    split at window
    case isTrue stays =>
      rw [window]
      refine if_pos ?_
      rw [Bool.or_eq_true]
      exact stays
    case isFalse moves =>
      obtain ⟨resident, rfl⟩ := window
      refine (if_neg fun stays => moves ?_).trans (if_pos ?_)
      · rw [Bool.or_eq_true] at stays
        exact stays
      · rw [resident]
        rfl
  have ends : waitGoesOn t t.focus exec = false := by
    rw [waitGoesOn, Bool.and_eq_false_iff]
    refine .inl (Bool.eq_false_iff.mpr fun unpinned => ?_)
    rw [waitsUnpinned] at unpinned
    simp only [Bool.and_eq_true] at unpinned
    obtain ⟨⟨⟨-, pinned⟩, gone⟩, -⟩ := unpinned
    obtain ⟨warp, out⟩ := windowGone (s := t) (a := t.focus) rfl fetched gone
    rw [warp, unpinned_readyToIssue (s := t) pinned] at window
    rw [if_neg (by decide), windowResident_readyToIssue, out] at window
    exact Bool.false_ne_true window.1
  rw [attempt, ends, next]
  rfl

/-- A step that is the issue of a strand's next word comes to what that word is. -/
theorem step_issues (h : issuesIn s t r) : step s = attemptOf t t.focus (issueWord r) :=
  (step_turn h.1 h.2.1).trans (attempt_issues h)

theorem attemptOf_exec {i : Instr} (word : isWordInstr i = true) :
    attemptOf t t.focus (.exec i r) = issued i (curStrand t).pinned r (exec i (raceView r)) := if_pos word

theorem attemptOf_trap (cause : BitVec 8) (taddr detail : Word) :
    attemptOf t t.focus (.done (trapHere r cause taddr detail)) = trapsAt t r cause taddr detail := rfl

/-! ## The word -/

theorem issueWord_unfetched {x : BitVec 8 × Word × Word} (noBreak : breakHit r = false)
    (fails : fetchCode r r.focus.key (wordAddress (curStrand r) (curStrand r).wi.toNat) = .error x) :
    issueWord r = .done (trapHere r x.1 x.2.1 x.2.2) := by
  rw [issueWord, noBreak, fails]
  rfl

theorem issueWord_plain {w : Code} (noBreak : breakHit r = false) (word : wordAt r (curStrand r).wi.toNat w)
    (plain : (curStrand r).inRep = false) : issueWord r = classify r w (curStrand r).wi.toNat := by
  rw [wordAt] at word
  rw [issueWord, noBreak, word]
  dsimp only
  rw [plain]
  rfl

theorem issueWord_repeat {w x v : Code} {od oa ob : Nat} (noBreak : breakHit r = false) (word : wordAt r (curStrand r).wi.toNat w)
    (target : wordAt r ((curStrand r).wi.toNat + 1) x) (repeats : (curStrand r).inRep = true)
    (step_ : steppedWord w x (bits w 13 6 + 1 - (curStrand r).srepc.toNat) = some (v, od, oa, ob)) :
    issueWord r = classify (setStrand r { curStrand r with overD := od, overA := oa, overB := ob }) v
      ((curStrand r).wi.toNat + 1) := by
  rw [wordAt] at word target
  rw [issueWord, noBreak]
  dsimp only
  rw [word]
  dsimp only
  rw [repeats, target]
  dsimp only
  rw [step_]
  rfl

/-! ## Classification (R87, R88, R105, R106) -/

/-- Whether the clause's class admits a word, as `classify` asks it. -/
def classOk (r : State) (w : Code) : Bool :=
  match majorClass (majorOf w) with
  | none => true
  | some k => k == 0 || k == (curStrand r).hdr.ecl.toNat

theorem classOk_iff {w : Code} : classOk r w = true ↔ classAdmits r w := by
  rw [classOk, classAdmits]
  cases majorClass (majorOf w)
  · exact iff_of_true rfl trivial
  · rw [Bool.or_eq_true, beq_iff_eq, beq_iff_eq]

variable {w e : Code} {place : Nat}

theorem classify_header (bad : isHeader w = true ∨ isExtension w = true) : classify r w place = plainTrap r 0x03 :=
  if_pos (Bool.or_eq_true_iff.mpr bad)

/-- A word that is neither header nor extension word, and takes none. -/
theorem classify_one (header : isHeader w = false) (extension : isExtension w = false) (one : takesExtension w = false) :
    classify r w place = if !classOk r w then plainTrap r 0x03
      else match decodeWord w none with
        | .ok i => .exec i r
        | .error _ => plainTrap r 0x01 := by
  rw [classify]
  dsimp only
  rw [header, extension, one]
  rfl

/-- A word that is neither header nor extension word, and takes an extension word. -/
theorem classify_past (header : isHeader w = false) (extension : isExtension w = false) (two : takesExtension w = true)
    (past : (curStrand r).hdr.n.toNat ≤ place) : classify r w place = plainTrap r 0x03 := by
  rw [classify]
  dsimp only
  rw [header, extension, two]
  exact if_pos past

theorem classify_unfetched {x : BitVec 8 × Word × Word} (header : isHeader w = false) (extension : isExtension w = false)
    (two : takesExtension w = true) (within : place < (curStrand r).hdr.n.toNat)
    (fails : fetchCode r r.focus.key (wordAddress (curStrand r) (place + 1)) = .error x) :
    classify r w place = .done (trapHere r x.1 x.2.1 x.2.2) := by
  rw [classify]
  dsimp only
  rw [header, extension, two]
  refine (if_neg (Nat.not_le.mpr within)).trans ?_
  rw [fails]
  rfl

theorem classify_two (header : isHeader w = false) (extension : isExtension w = false) (two : takesExtension w = true)
    (within : place < (curStrand r).hdr.n.toNat) (next : wordAt r (place + 1) e) :
    classify r w place = if !isExtension e then plainTrap r 0x03
      else if majorOf w == 0x60 && place + 1 != (curStrand r).hdr.n.toNat then plainTrap r 0x03
      else if !classOk r w then plainTrap r 0x03
      else match decodeWord w (some e) with
        | .ok i => .exec i r
        | .error _ => plainTrap r 0x01 := by
  rw [wordAt] at next
  rw [classify]
  dsimp only
  rw [header, extension, two]
  refine (if_neg (Nat.not_le.mpr within)).trans ?_
  rw [next]
  rfl

/-- A word that stands for an instruction is issued as it, and is a word of the encoding. -/
theorem classify_stands {i : Instr} (stands : standsFor r w place i) :
    classify r w place = .exec i r ∧ isWordInstr i = true := by
  obtain ⟨header, extension, admits, ⟨one, decodes⟩ | ⟨two, within, last, e, next, ext, decodes⟩⟩ := stands
  · refine ⟨?_, ?_⟩
    · rw [classify_one header extension one, classOk_iff.mpr admits, decodes]
      rfl
    · rw [isWordInstr, decodeWord_one_encode decodes]
      rfl
  · refine ⟨?_, ?_⟩
    · have place_ : (majorOf w == 0x60 && place + 1 != (curStrand r).hdr.n.toNat) = false := by
        rw [Bool.and_eq_false_iff, beq_eq_false_iff_ne, bne_eq_false_iff_eq]
        exact imp_iff_not_or.mp last
      rw [classify_two header extension two within next, ext, place_, classOk_iff.mpr admits, decodes]
      rfl
    · rw [isWordInstr, decodeWord_two_encode two decodes]
      rfl

theorem step_stands {i : Instr} (h : issuesIn s t r) {q : State} (word : issueWord r = classify q w place)
    (stands : standsFor q w place i) : step s = issued i (curStrand t).pinned q (exec i (raceView q)) := by
  obtain ⟨exec_, known⟩ := classify_stands stands
  rw [step_issues h, word, exec_]
  exact attemptOf_exec known

end

/-- Settles O4: the head of the agenda, of what is due, or the strand whose turn it is. -/
theorem stepRunsDecodedInstruction : Obligations.StepRunsDecodedInstruction := by
  refine ⟨?words, ?events, ?stores, ?down⟩
  case words =>
    intro s t₀ r w i h x pinned word
    obtain ⟨-, -, -, -, -, -, -, -, -, -, noBreak⟩ := id h
    refine ⟨fun plain stands => step_stands h (issueWord_plain noBreak word plain) stands, ?_⟩
    intro t v od oa ob repeats target stepped_ q stands
    exact step_stands h (issueWord_repeat noBreak word target repeats stepped_) stands
  case events =>
    intro s i args rest row up
    have moves (u : State) (down : u.shutdown = s.shutdown) : act (.event i args) u = exec i (survey i { u with input := args }) := by
      have free : staysDown u (.event i args) = false := by
        rcases up with up | rfl
        · exact staysDown_up (down.trans up)
        · exact Bool.and_false _
      refine (act_moves free).trans (if_neg ?_)
      rw [row]
      decide
    exact ⟨fun agenda => (step_agenda agenda).trans (moves _ shutdown_onward),
      fun agenda now due => (step_due agenda now due).trans (moves _ shutdown_onward)⟩
  case stores =>
    intro s key id n rest up
    have free (a : Act) : staysDown { onward s with agenda := rest } a = false := staysDown_up (shutdown_onward.trans up)
    exact ⟨fun agenda => (step_agenda agenda).trans (act_moves (free _)),
      fun agenda => (step_agenda agenda).trans (act_moves (free _))⟩
  case down =>
    intro s a rest down other
    have stays (u : State) (same : u.shutdown = s.shutdown) : act a u = .next u := by
      refine if_pos (Bool.and_eq_true_iff.mpr ⟨same.trans down, ?_⟩)
      split
      next args => exact absurd rfl (other args)
      next => rfl
    exact ⟨fun agenda => (step_agenda agenda).trans (stays _ shutdown_onward),
      fun agenda now due => (step_due agenda now due).trans (stays _ shutdown_onward)⟩

/-- Settles O5: each check of `issueWord` and `classify` in its order. -/
theorem undecodableWordsTrap : Obligations.UndecodableWordsTrap := by
  intro s t₀ r h x traps
  obtain ⟨-, -, -, -, -, -, -, -, -, -, noBreak⟩ := id h
  refine ⟨fun t fails => ?_, fun w word plain => ?_⟩
  · rw [step_issues h, issueWord_unfetched noBreak fails]
    exact attemptOf_trap _ _ _
  · have traps_ {i : Issue} {a : BitVec 8 × Word × Word} (is : classify r w x.wi.toNat = .done (trapHere r a.1 a.2.1 a.2.2)) :
        step s = traps a.1 a.2.1 a.2.2 := by
      rw [step_issues h, issueWord_plain noBreak word plain, is]
      exact attemptOf_trap _ _ _
    have three (is : classify r w x.wi.toNat = plainTrap r 0x03) : step s = traps 0x03 0 0 :=
      traps_ (i := plainTrap r 0x03) (a := (0x03, 0, 0)) is
    have one (is : classify r w x.wi.toNat = plainTrap r 0x01) : step s = traps 0x01 0 0 :=
      traps_ (i := plainTrap r 0x01) (a := (0x01, 0, 0)) is
    have class_ (out : ¬ classAdmits r w) : classOk r w = false := Bool.eq_false_iff.mpr fun ok => out (classOk_iff.mp ok)
    refine ⟨fun bad => three (classify_header bad), fun header extension takes => ⟨fun out => three ?_, ?_⟩,
      fun header extension takes => ⟨fun past => three (classify_past header extension takes past), fun within => ⟨?_, ?_⟩⟩⟩
    · rw [classify_one header extension takes, class_ out]
      rfl
    · rintro admits ⟨f, fails⟩
      refine one ?_
      rw [classify_one header extension takes, classOk_iff.mpr admits, fails]
      rfl
    · intro t fails
      exact traps_ (i := plainTrap r 0x03) (classify_unfetched header extension takes within fails)
    · intro e next
      refine ⟨fun bad => three ?_, fun ext last admits ⟨f, fails⟩ => one ?_⟩
      · rw [classify_two header extension takes within next]
        cases ext : isExtension e
        · rfl
        · rcases bad with bad | ⟨branch, short⟩ | out
          · rw [ext] at bad
            cases bad
          · rw [branch, bne_iff_ne.mpr short]
            rfl
          · rw [class_ out]
            exact ite_self _
      · have place_ : (majorOf w == 0x60 && x.wi.toNat + 1 != x.hdr.n.toNat) = false := by
          rw [Bool.and_eq_false_iff, beq_eq_false_iff_ne, bne_eq_false_iff_eq]
          exact imp_iff_not_or.mp last
        rw [classify_two header extension takes within next, ext, place_, classOk_iff.mpr admits, fails]
        rfl

end Sys2Proof.Proofs

end

section

/-!
PROOFS. O7: every step keeps the canonical form of memory.

One lemma stands for each function of the model that a step can reach and that answers a state, in the order of their
definitions' dependence: `f_keepsMem` where `f` leaves memory itself as it was, and `f_keepsForm` where it keeps the
form that memory has (for what may also answer a trap, a wait or nothing, through `resOk`, `optOk` and `outOk`). The
only work is done by the few functions that store bytes, whose memory is `writeBytes` or `clearBytes` of the old one;
the others are followed along their branches.
-/

namespace Sys2Proof.Proofs

open Sys2Proof Sys2Proof.Machine Sys2Proof.Laws

/-- What a part of an instruction comes to has memory in its canonical form. -/
def resOk (r : Res State) : Prop := ∀ t, r = .ok t → Memory.wf t.mem

/-- What a part of a step comes to, if anything, has memory in its canonical form. -/
def optOk (o : Option State) : Prop := ∀ t, o = some t → Memory.wf t.mem

/-- What a step answers has memory in its canonical form. -/
def outOk (o : Host.Outcome State Fault Refusal) : Prop := ∀ t, o = .next t → Memory.wf t.mem

/-- What issuing comes to has memory in its canonical form. -/
def issueOk : Issue → Prop
  | .exec _ t => Memory.wf t.mem
  | .done t => Memory.wf t.mem

theorem resOk_ok {t : State} : resOk (.ok t) ↔ Memory.wf t.mem :=
  ⟨fun h => h t rfl, fun h _ same => Except.ok.inj same ▸ h⟩

theorem resOk_error {e : Stop} : resOk (.error e) ↔ True := ⟨fun _ => trivial, fun _ _ h => nomatch h⟩

theorem optOk_some {t : State} : optOk (some t) ↔ Memory.wf t.mem :=
  ⟨fun h => h t rfl, fun h _ same => Option.some.inj same ▸ h⟩

theorem optOk_none : optOk none ↔ True := ⟨fun _ => trivial, fun _ _ h => nomatch h⟩

theorem outOk_next {t : State} : outOk (.next t) ↔ Memory.wf t.mem :=
  ⟨fun h => h t rfl, fun h _ same => Host.Outcome.next.inj same ▸ h⟩

theorem outOk_fault {f : Fault} : outOk (.fault f) ↔ True := ⟨fun _ => trivial, fun _ _ h => nomatch h⟩

theorem outOk_refused {f : Refusal} : outOk (.refused f) ↔ True := ⟨fun _ => trivial, fun _ _ h => nomatch h⟩

theorem resOk_bind {α : Type} {x : Res α} {f : α → Res State} (h : ∀ a, resOk (f a)) : resOk (x >>= f) := by
  cases x with
  | error e => exact fun _ same => nomatch same
  | ok a => exact h a

/-- A part that has itself a state is followed by the rest in that state. -/
theorem resOk_through {x : Res State} {f : State → Res State} (first : resOk x)
    (rest : ∀ t, Memory.wf t.mem → resOk (f t)) : resOk (x >>= f) := by
  cases x with
  | error e => exact fun _ same => nomatch same
  | ok a => exact rest a (first a rfl)

theorem resOk_ite {c : Prop} [Decidable c] {a b : Res State} (ha : resOk a) (hb : resOk b) :
    resOk (if c then a else b) := by
  split
  · exact ha
  · exact hb

theorem issueOk_ite {c : Prop} [Decidable c] {a b : Issue} (ha : issueOk a) (hb : issueOk b) :
    issueOk (if c then a else b) := by
  split
  · exact ha
  · exact hb

theorem outOk_ite {c : Prop} [Decidable c] {a b : Host.Outcome State Fault Refusal} (ha : outOk a) (hb : outOk b) :
    outOk (if c then a else b) := by
  split
  · exact ha
  · exact hb

theorem wf_getD {o : Option State} {s : State} (h : optOk o) (form : Memory.wf s.mem) : Memory.wf (o.getD s).mem := by
  cases o with
  | none => exact form
  | some t => exact h t rfl

theorem optOk_map {α : Type} {o : Option α} {f : α → State} (h : ∀ a, Memory.wf (f a).mem) : optOk (o.map f) := by
  cases o with
  | none => exact optOk_none.mpr trivial
  | some a => exact optOk_some.mpr (h a)

/-- A fold of steps that keep the form keeps it. -/
theorem foldl_keepsForm {α : Type} {f : State → α → State} (h : ∀ s x, Memory.wf s.mem → Memory.wf (f s x).mem)
    (xs : List α) :
    ∀ s, Memory.wf s.mem → Memory.wf (xs.foldl f s).mem := by
  induction xs with
  | nil => exact fun _ form => form
  | cons x rest ih => exact fun s form => ih _ (h s x form)

theorem foldl_keepsMem {α : Type} {f : State → α → State} (h : ∀ s x, (f s x).mem = s.mem) (xs : List α) (s : State) :
    (xs.foldl f s).mem = s.mem := foldl_keeps State.mem h xs s

theorem later_keepsMem (s : State) (a : Act) : (later s a).mem = s.mem := rfl

theorem loadDue_keepsMem (s : State) (a : Agent) : (loadDue s a).mem = s.mem := by
  rw [loadDue]
  split <;> rfl

theorem windowDue_keepsMem (s : State) : (windowDue s).mem = s.mem := by
  simp only [windowDue, loadDue_keepsMem]

theorem putCtx_keepsMem (s : State) (k : Nat) (c : Ctx) : (putCtx s k c).mem = s.mem := rfl

theorem setCur_keepsMem (s : State) (c : Ctx) : (setCur s c).mem = s.mem := rfl

theorem setStrand_keepsMem (s : State) (x : Strand) : (setStrand s x).mem = s.mem := rfl

theorem hold_keepsMem (s : State) (why : Why) : (hold s why).mem = s.mem := rfl

theorem awaitWindow_keepsMem (s : State) : (awaitWindow s).mem = s.mem := by
  simp only [awaitWindow, hold_keepsMem, windowDue_keepsMem]

theorem pinWindow_keepsMem (s : State) : (pinWindow s).mem = s.mem := rfl

theorem putPart_keepsMem (s : State) (k : Nat) (p : Machine.Partition) : (putPart s k p).mem = s.mem := rfl

theorem setIpend_keepsMem (s : State) (c bit : Nat) : (setIpend s c bit).mem = s.mem := rfl

theorem setIpendPart_keepsMem (s : State) (part bit : Nat) : (setIpendPart s part bit).mem = s.mem := rfl

theorem writeBytes_keepsForm (s : State) (place : Nat) (bs : List Byte) (bad : Bool) (form : Memory.wf s.mem) :
    Memory.wf (writeBytes s place bs bad).mem := (settles_writeBytes s place bs bad).form form

theorem tagLine_keepsMem (s : State) (place a slot : Nat) : (tagLine s place a slot).mem = s.mem := rfl

theorem mainWrite_keepsForm (s : State) (place a slot : Nat) (bs : List Byte) (bad : Bool) (form : Memory.wf s.mem) :
    Memory.wf (mainWrite s place a slot bs bad).1.mem := by
  unfold mainWrite
  repeat' split
  all_goals simp only [Memory.wf, tagLine_keepsMem, writeBytes_keepsForm, form]

theorem writeFrameLines_keepsForm (s : State) (key va : Nat) (x3 : List (List Byte)) (form : Memory.wf s.mem) :
    Memory.wf (writeFrameLines s key va x3).mem := (settles_writeFrameLines s key va x3).form form

theorem notePark_keepsMem (s : State) (place n : Nat) : (notePark s place n).mem = s.mem := notePark_mem s place n

theorem storeHome_keepsForm (s : State) (place : Nat) (bs : List Byte) (bad : Bool) (form : Memory.wf s.mem) :
    Memory.wf (storeHome s place bs bad).mem := (settles_storeHome s place bs bad).form form

theorem writeFrame_keepsForm (s : State) (words : List Word) (form : Memory.wf s.mem) :
    Memory.wf (writeFrame s words).mem := (settles_writeFrame s words).form form

theorem updLaunch_keepsMem (s : State) (key : Nat) (f : Launch → Launch) : (updLaunch s key f).mem = s.mem := rfl

theorem postWrite_keepsForm (s : State) (pa slot : Nat) (bs : List Byte) (form : Memory.wf s.mem) :
    Memory.wf (postWrite s pa slot bs).mem := (settles_postWrite s pa slot bs).form form

theorem writeOwnKey_keepsForm (s : State) (pa : Nat) (bs : List Byte) (form : Memory.wf s.mem) :
    Memory.wf (writeOwnKey s pa bs).mem := (settles_writeOwnKey s pa bs).form form

theorem recordEvent_keepsForm (s : State) (m : Mark) (value : Word) (form : Memory.wf s.mem) :
    Memory.wf (recordEvent s m value).mem := (settles_recordEvent s m value).form form

theorem recordAll_keepsForm (s : State) (x1 : List (Mark × Word)) (form : Memory.wf s.mem) :
    Memory.wf (recordAll s x1).mem := (settles_recordAll s x1).form form

theorem writeLineOwnKey_keepsForm (s : State) (e : Session) (pa : Nat) (bs : List Byte) (form : Memory.wf s.mem) :
    Memory.wf (writeLineOwnKey s e pa bs).mem := (settles_writeLineOwnKey s e pa bs).form form

theorem notifyParts_keepsMem (s : State) (bit : Nat) (x2 : List Nat) : (notifyParts s bit x2).mem = s.mem := by
  induction x2 generalizing s with
  | nil => rfl
  | cons x rest ih => simp only [notifyParts, ih, setIpendPart_keepsMem]

theorem putSession_keepsMem (s : State) (k : Nat) (x : Session) : (putSession s k x).mem = s.mem := rfl

theorem countWritten_keepsMem (s : State) (k n : Nat) : (countWritten s k n).mem = s.mem := by
  unfold countWritten
  dsimp only
  repeat' split
  all_goals simp only [putSession_keepsMem, notifyParts_keepsMem]

theorem writeLinesOwnKey_keepsForm (s : State) (e : Session) (pa : Nat) (x3 : List (List Byte))
    (form : Memory.wf s.mem) :
    Memory.wf (writeLinesOwnKey s e pa x3).mem := (settles_writeLinesOwnKey s e pa x3).form form

theorem flushChunk_keepsForm (s : State) (k : Nat) (form : Memory.wf s.mem) :
    Memory.wf (flushChunk s k).mem := (changes_flushChunk s k).form form

theorem captureInto_keepsForm (s : State) (k : Nat) (isSealed : Bool) (words : List Word) (form : Memory.wf s.mem) :
    Memory.wf (captureInto s k isSealed words).mem := (changes_captureInto s k isSealed words).form form

theorem capture_keepsForm (s : State) (kind key : Nat) (words : List Word) (form : Memory.wf s.mem) :
    Memory.wf (capture s kind key words).mem := (settles_capture s kind key words).form form

theorem captureStrand_keepsForm (s : State) (kind code : Nat) (who : Agent) (mask data : Word)
    (form : Memory.wf s.mem) :
    Memory.wf (captureStrand s kind code who mask data).mem :=
  (settles_captureStrand s kind code who mask data).form form

theorem meetEvents_keepsForm (s : State) (es : List (Mark × Word)) (form : Memory.wf s.mem) :
    Memory.wf (meetEvents s es).1.mem := by
  induction es generalizing s with
  | nil => exact form
  | cons e rest ih =>
    rw [meetEvents]
    dsimp only
    split
    · split
      · exact ih _ (by rwa [updLaunch_keepsMem])
      · simp only [Memory.wf, updLaunch_keepsMem, captureStrand_keepsForm, form]
    · exact ih s form
    · exact ih s form

theorem meetStep_keepsForm (s : State) (key : Nat) (o : MemOp) (as : List Access) (form : Memory.wf s.mem) :
    Memory.wf (meetStep s key o as).mem := (settles_meetStep s key o as).form form

theorem storeAccess_keepsForm (s : State) (a : Access) (x : Nat) (form : Memory.wf s.mem) :
    Memory.wf (storeAccess s a x).mem := (settles_storeAccess s a x).form form

theorem plainStep_keepsForm (s : State) (earlier : List MemOp) (k : OpKind) (a : Access) (form : Memory.wf s.mem) :
    Memory.wf (plainStep s earlier k a).1.mem := by
  unfold plainStep
  split <;> simp only [Memory.wf, storeAccess_keepsForm, form]

theorem plainLanes_keepsForm (s : State) (earlier : List MemOp) (k : OpKind) (x3 : List Access)
    (form : Memory.wf s.mem) :
    Memory.wf (plainLanes s earlier k x3).1.mem := by
  induction x3 generalizing s with
  | nil => exact form
  | cons x rest ih => simp only [plainLanes, ih, Memory.wf, plainStep_keepsForm, form]

theorem arriveHome_keepsForm (s : State) (as : List Access) (form : Memory.wf s.mem) :
    Memory.wf (arriveHome s as).1.mem := by
  unfold arriveHome
  dsimp only
  repeat' split
  all_goals simp only [Memory.wf, storeHome_keepsForm, form]

theorem atomicHome_keepsForm (s : State) (f n : Nat) (as : List Access) (form : Memory.wf s.mem) :
    Memory.wf (atomicHome s f n as).1.mem := by
  unfold atomicHome
  dsimp only
  repeat' split
  all_goals simp only [Memory.wf, storeHome_keepsForm, form]

theorem putDie_keepsMem (s : State) (k : Nat) (d : Die) : (putDie s k d).mem = s.mem := rfl

theorem performUnit_keepsForm (s : State) (earlier : List MemOp) (o : MemOp) (as : List Access)
    (form : Memory.wf s.mem) :
    Memory.wf (performUnit s earlier o as).1.mem := by
  unfold performUnit
  dsimp only
  repeat' split
  all_goals simp only [Memory.wf, putDie_keepsMem, atomicHome_keepsForm, arriveHome_keepsForm, plainLanes_keepsForm,
    form]

theorem performAt_keepsForm (s : State) (key id i : Nat) (form : Memory.wf s.mem) :
    Memory.wf (performAt s key id i).mem := (settles_performAt s key id i).form form

theorem performList_keepsForm (s : State) (key id : Nat) (x3 : List Nat) (form : Memory.wf s.mem) :
    Memory.wf (performList s key id x3).mem := (settles_performList s key id x3).form form

theorem finishOp_keepsMem (s : State) (key id : Nat) : (finishOp s key id).mem = s.mem := by
  unfold finishOp
  dsimp only
  repeat' split
  all_goals simp only [putCtx_keepsMem]

theorem cutFrozen_keepsMem (s : State) (key id : Nat) : (cutFrozen s key id).mem = s.mem := by
  rw [cutFrozen]
  split <;> rfl

theorem completeOp_keepsForm (s : State) (key id : Nat) (form : Memory.wf s.mem) :
    Memory.wf (completeOp s key id).mem := (settles_completeOp s key id).form form

theorem completeOps_keepsForm (s : State) (key : Nat) (x2 : List Nat) (form : Memory.wf s.mem) :
    Memory.wf (completeOps s key x2).mem := (settles_completeOps s key x2).form form

theorem settleThose_keepsForm (s : State) (key : Nat) (want : MemOp → Bool) (form : Memory.wf s.mem) :
    Memory.wf (settleThose s key want).mem := (settles_settleThose s key want).form form

theorem settleFrame_keepsForm (s : State) (form : Memory.wf s.mem) :
    Memory.wf (settleFrame s).mem := (settles_settleFrame s).form form

theorem settleEntry_keepsForm (s : State) (form : Memory.wf s.mem) :
    Memory.wf (settleEntry s).mem := (settles_settleEntry s).form form

theorem putCore_keepsMem (s : State) (k : Nat) (c : Core) : (putCore s k c).mem = s.mem := rfl

theorem releasePark_keepsMem (s : State) (key slots : Nat) : (releasePark s key slots).mem = s.mem := by
  rw [releasePark]
  split <;> rfl

theorem endLaunch_keepsMem (s : State) (part id : Nat) (cause cause2 : BitVec 8) (kill : Bool) :
    (endLaunch s part id cause cause2 kill).mem = s.mem := by
  rw [endLaunch]
  split <;> rfl

theorem captureOwn_keepsForm (s : State) (k kind : Nat) (data : Word) (form : Memory.wf s.mem) :
    Memory.wf (captureOwn s k kind data).mem := by
  unfold captureOwn
  dsimp only
  repeat' split
  all_goals simp only [Memory.wf, captureInto_keepsForm, form]

theorem startCaptureIn_keepsForm (s : State) (k : Nat) (form : Memory.wf s.mem) :
    Memory.wf (startCaptureIn s k).mem := by
  unfold startCaptureIn
  dsimp only
  repeat' split
  all_goals simp only [Memory.wf, putSession_keepsMem, captureOwn_keepsForm, form]

theorem freezeCaptureIn_keepsForm (s : State) (k : Nat) (form : Memory.wf s.mem) :
    Memory.wf (freezeCaptureIn s k).mem := by
  unfold freezeCaptureIn
  dsimp only
  repeat' split
  all_goals simp only [Memory.wf, captureOwn_keepsForm, flushChunk_keepsForm, putSession_keepsMem, form]

theorem systemEventBy_keepsForm (s : State) (key event : Nat) (names : Word → Bool) (form : Memory.wf s.mem) :
    Memory.wf (systemEventBy s key event names).mem := by
  rw [systemEventBy]
  refine capture_keepsForm _ _ _ _ (foldl_keepsForm (fun t p ok => ?_) _ _ form)
  split
  · refine foldl_keepsForm (fun u x ok => ?_) _ _ ok
    split
    · split
      · exact freezeCaptureIn_keepsForm _ _ ok
      · exact startCaptureIn_keepsForm _ _ ok
    · exact ok
  · exact ok

theorem systemEvent_keepsForm (s : State) (key event : Nat) (value : Word) (form : Memory.wf s.mem) :
    Memory.wf (systemEvent s key event value).mem := by
  simp only [systemEvent, Memory.wf, systemEventBy_keepsForm, form]

theorem doubleTrap_keepsForm (s : State) (first second : BitVec 8) (form : Memory.wf s.mem) :
    Memory.wf (doubleTrap s first second).mem := by
  unfold doubleTrap
  dsimp only
  repeat' split
  all_goals simp only [Memory.wf, setCur_keepsMem, putDie_keepsMem, systemEvent_keepsForm, endLaunch_keepsMem, form]

theorem enterTrap_keepsForm (s : State) (t : TrapInfo) (form : Memory.wf s.mem) : Memory.wf (enterTrap s t).mem := by
  have captured (kind code : Nat) (who : Agent) (mask data : Word) :
      Memory.wf (captureStrand (setCur s (settleLong (cur s))) kind code who mask data).mem :=
    captureStrand_keepsForm _ _ _ _ _ _ (by rwa [setCur_keepsMem])
  rw [enterTrap]
  dsimp only
  split
  · exact doubleTrap_keepsForm _ _ _ (captured _ _ _ _ _)
  · split
    · exact doubleTrap_keepsForm _ _ _ (captured _ _ _ _ _)
    · have written (u : State) (ws : List Word) (ok : Memory.wf u.mem) (c : Ctx) :
          Memory.wf (setCur (writeFrame (settleEntry (releasePark u u.focus.key 255)) ws) c).mem := by
        rw [setCur_keepsMem]
        exact writeFrame_keepsForm _ _ (settleEntry_keepsForm _ (by rwa [releasePark_keepsMem]))
      split
      · rw [setIpendPart_keepsMem, putPart_keepsMem]
        exact written _ _ (captured _ _ _ _ _) _
      · exact written _ _ (captured _ _ _ _ _) _

theorem takeTrap_keepsForm (s : State) (t : TrapInfo) (form : Memory.wf s.mem) : Memory.wf (takeTrap s t).mem := by
  unfold takeTrap
  split <;> simp only [Memory.wf, hold_keepsMem, enterTrap_keepsForm, form]

theorem trapHere_keepsForm (s : State) (cause : BitVec 8) (taddr detail : Word) (form : Memory.wf s.mem) :
    Memory.wf (trapHere s cause taddr detail).mem := by
  simp only [trapHere, Memory.wf, takeTrap_keepsForm, form]

theorem readyToIssue_keepsMem (s : State) (h : Code) : (readyToIssue s h).mem = s.mem := rfl

theorem awaitCode_keepsMem (s : State) : (awaitCode s).mem = s.mem := by
  rw [awaitCode]
  split <;> rfl

theorem divergeTrap_keepsForm (s : State) (words : Nat) (d : Nat × Word) (form : Memory.wf s.mem) :
    Memory.wf (divergeTrap s words d).mem := by
  simp only [divergeTrap, Memory.wf, takeTrap_keepsForm, form]

theorem retire_keepsMem (s : State) (words : Nat) : (retire s words).mem = s.mem := by
  unfold retire
  dsimp only
  repeat' split
  all_goals simp only [setStrand_keepsMem]

theorem replayEnd_keepsForm (s : State) (r : ReplayOp) (form : Memory.wf s.mem) : Memory.wf (replayEnd s r).mem := by
  unfold replayEnd
  split <;> simp only [Memory.wf, setStrand_keepsMem, retire_keepsMem, divergeTrap_keepsForm, form]

theorem stampSlots_keepsMem (t : State) (key : Nat) (h : ClauseHeader) (passes : List Bool) :
    (stampSlots t key h passes).mem = t.mem := rfl

theorem issueSecond_keepsMem (s : State) (p : SecondPass) : (issueSecond s p).mem = s.mem := rfl

theorem startLoad_keepsMem (s : State) (a : Agent) : (startLoad s a).mem = s.mem := by
  unfold startLoad
  repeat' split
  all_goals simp only [loadDue_keepsMem]

theorem startLoads_keepsMem (s : State) (x1 : List Agent) : (startLoads s x1).mem = s.mem := by
  induction x1 generalizing s with
  | nil => rfl
  | cons x rest ih => simp only [startLoads, ih, startLoad_keepsMem]

theorem arrivedOf_keepsMem (s t : State) (key : Nat) : (arrivedOf s t key).mem = t.mem := by
  simp only [arrivedOf, startLoads_keepsMem]

theorem arrived_keepsMem (s t : State) : (arrived s t).mem = t.mem := by
  simp only [arrived, arrivedOf_keepsMem]

theorem raceView_keepsMem (s : State) : (raceView s).mem = s.mem := by
  rw [raceView]
  split <;> rfl

theorem execKillLaunch_keepsForm (s : State) (form : Memory.wf s.mem) : outOk (execKillLaunch s) := by
  simp only [execKillLaunch, Memory.wf, outOk_next, endLaunch_keepsMem, form]

theorem putHub_keepsMem (s : State) (k : Nat) (h : Hub) : (putHub s k h).mem = s.mem := rfl

theorem execCxlMemEnable_keepsForm (s : State) (form : Memory.wf s.mem) : outOk (execCxlMemEnable s) := by
  unfold execCxlMemEnable
  split <;> simp only [Memory.wf, outOk_next, putHub_keepsMem, form]

theorem execHostLinkState_keepsForm (s : State) (form : Memory.wf s.mem) : outOk (execHostLinkState s) := by
  unfold execHostLinkState
  split <;> simp only [Memory.wf, outOk_next, putHub_keepsMem, form]

theorem writeHomes_keepsForm (s : State) (x1 : List (Nat × Byte × Bool)) (form : Memory.wf s.mem) :
    Memory.wf (writeHomes s x1).mem := by
  induction x1 generalizing s with
  | nil => exact form
  | cons x rest ih => simp only [writeHomes, ih, Memory.wf, notePark_keepsMem, writeBytes_keepsForm, form]

theorem writeLine_keepsForm (s : State) (pa slot : Nat) (es : List (Nat × Byte × Bool)) (form : Memory.wf s.mem) :
    Memory.wf (writeLine s pa slot es).1.mem := by
  unfold writeLine
  repeat' split
  all_goals simp only [Memory.wf, tagLine_keepsMem, writeHomes_keepsForm, form]

theorem writeLines_keepsForm (s : State) (os : List OutByte) (x2 : List (Nat × Nat × Nat)) (form : Memory.wf s.mem) :
    Memory.wf (writeLines s os x2).1.mem := by
  induction x2 generalizing s with
  | nil => exact form
  | cons x rest ih => simp only [writeLines, ih, Memory.wf, writeLine_keepsForm, form]

theorem writeOut_keepsForm (s : State) (os : List OutByte) (form : Memory.wf s.mem) :
    Memory.wf (writeOut s os).1.mem := by
  simp only [writeOut, Memory.wf, writeLines_keepsForm, writeHomes_keepsForm, form]

theorem applyTile_keepsForm (s : State) (h : Nat) (t : RemoteTile) (form : Memory.wf s.mem) :
    optOk (applyTile s h t) := by
  unfold applyTile
  dsimp only
  repeat' split
  all_goals simp only [Memory.wf, optOk_some, optOk_none, writeOut_keepsForm, form]

theorem again_keepsMem (s : State) (a : Act) : (again s a).mem = s.mem := by
  rw [again]
  split <;> rfl

theorem execScaleOutRequestArrival_keepsForm (s : State) (form : Memory.wf s.mem) :
    outOk (execScaleOutRequestArrival s) := by
  refine outOk_next.mpr ?_
  have applied := applyTile_keepsForm s s.input.place s.input.tile form
  split
  · exact form
  · split
    · rwa [again_keepsMem]
    · split
      next t same =>
        rw [putHub_keepsMem]
        exact applied t same
      next => exact form

theorem deviceMessage_keepsMem (s : State) (p : Nat) (data : Word) : (deviceMessage s p data).mem = s.mem := by
  rw [deviceMessage]
  split <;> rfl

theorem deviceWrite_keepsMem (s : State) (p off : Nat) (bs : List Byte) : (deviceWrite s p off bs).mem = s.mem := by
  unfold deviceWrite
  split <;> simp only [deviceMessage_keepsMem, putHub_keepsMem]

theorem hostWrite_keepsMem (s : State) (h off : Nat) (bs : List Byte) : (hostWrite s h off bs).mem = s.mem := rfl

theorem busyFalls_keepsMem (s : State) (by_ : Nat) : (busyFalls s by_).mem = s.mem := rfl

theorem finishMail_keepsMem (s : State) (die result : Nat) : (finishMail s die result).mem = s.mem := rfl

theorem storeMreq_keepsForm (s : State) (die : Nat) (x : Word) (by_ : Nat) (form : Memory.wf s.mem) :
    optOk (storeMreq s die x by_) := by
  unfold storeMreq
  dsimp only
  repeat' split
  all_goals simp only [Memory.wf, optOk_some, optOk_none, finishMail_keepsMem, putDie_keepsMem, later_keepsMem, form]

theorem storeScvec_keepsMem (s : State) (c : Nat) (x : Word) : (storeScvec s c x).mem = s.mem := rfl

theorem settleCtx_keepsForm (s : State) (key : Nat) (form : Memory.wf s.mem) :
    Memory.wf (settleCtx s key).mem := (settles_settleCtx s key).form form

theorem startCore_keepsForm (s : State) (c : Nat) (form : Memory.wf s.mem) : Memory.wf (startCore s c).mem := by
  unfold startCore
  dsimp only
  repeat' split
  all_goals simp only [Memory.wf, settleCtx_keepsForm, putDie_keepsMem, putCtx_keepsMem, form]

theorem storeScctl_keepsForm (s : State) (c : Nat) (x : Word) (form : Memory.wf s.mem) :
    Memory.wf (storeScctl s c x).mem := by
  unfold storeScctl
  dsimp only
  repeat' split
  all_goals simp only [Memory.wf, startCore_keepsForm, setIpend_keepsMem, form]

theorem writeSystemCore_keepsForm (s : State) (die off : Nat) (x : Word) (form : Memory.wf s.mem) :
    Memory.wf (writeSystemCore s die off x).mem := by
  unfold writeSystemCore
  split <;> simp only [Memory.wf, putDie_keepsMem, storeScctl_keepsForm, storeScvec_keepsMem, form]

theorem storeXgo_keepsForm (s : State) (h : Nat) (x : Word) (by_ : Nat) (form : Memory.wf s.mem) :
    optOk (storeXgo s h x by_) := by
  unfold storeXgo
  dsimp only
  repeat' split
  all_goals simp only [Memory.wf, optOk_some, optOk_none, settleCtx_keepsForm, putHub_keepsMem, later_keepsMem, form]

theorem writeScaleOut_keepsForm (s : State) (h off : Nat) (x : Word) (by_ : Nat) (form : Memory.wf s.mem) :
    optOk (writeScaleOut s h off x by_) := by
  unfold writeScaleOut
  split <;> simp only [Memory.wf, optOk_some, putHub_keepsMem, storeXgo_keepsForm, form]

theorem storeHmsix_keepsMem (s : State) (h : Nat) (x : Word) : (storeHmsix s h x).mem = s.mem := rfl

theorem writeHub_keepsMem (s : State) (h off : Nat) (x : Word) : (writeHub s h off x).mem = s.mem := by
  rw [writeHub]
  dsimp only
  generalize putPort _ _ _ = port
  split
  · exact putHub_keepsMem _ _ _
  · split
    · exact putHub_keepsMem _ _ _
    · split
      · exact storeHmsix_keepsMem _ _ _
      · split
        · exact putHub_keepsMem _ _ _
        · exact putHub_keepsMem _ _ _

theorem putWg_keepsMem (s : State) (k : Nat) (w : Workgroup) : (putWg s k w).mem = s.mem := rfl

theorem requeueHead_keepsMem (s : State) (part id : Nat) : (requeueHead s part id).mem = s.mem := by
  rw [requeueHead]
  split <;> rfl

theorem attemptDue_keepsMem (s : State) (part : Nat) : (attemptDue s part).mem = s.mem := rfl

theorem returnWg_keepsMem (s : State) (k : Nat) : (returnWg s k).mem = s.mem := by
  simp only [returnWg, putPart_keepsMem, attemptDue_keepsMem, requeueHead_keepsMem]

theorem storePrel_keepsMem (s : State) (die : Nat) (x : Word) : (storePrel s die x).mem = s.mem := by
  unfold storePrel
  dsimp only
  repeat' split
  all_goals simp only [returnWg_keepsMem, putWg_keepsMem]

theorem putStack_keepsMem (s : State) (k : Nat) (x : Stack) : (putStack s k x).mem = s.mem := rfl

theorem releaseWrites_keepsForm (s : State) (form : Memory.wf s.mem) :
    Memory.wf (releaseWrites s).mem := (settles_releaseWrites s).form form

theorem abortRetrains_keepsForm (s : State) (part : Nat) (form : Memory.wf s.mem) :
    Memory.wf (abortRetrains s part).mem := by
  refine foldl_keepsForm (fun t k ok => ?_) _ _ form
  dsimp only
  split
  · exact releaseWrites_keepsForm _ ok
  · exact ok

theorem endIdle_keepsMem (s : State) (a : Agent) : (endIdle s a).mem = s.mem := by
  unfold endIdle
  split <;> simp only [retire_keepsMem]

theorem endIdles_keepsMem (s : State) (key : Nat) : (endIdles s key).mem = s.mem :=
  foldl_keepsMem (fun _ _ => endIdle_keepsMem _ _) _ _

theorem beginSave_keepsForm (s : State) (k kind image : Nat) (form : Memory.wf s.mem) :
    Memory.wf (beginSave s k kind image).mem := by
  have idle : Memory.wf ((getWg s k).warps.foldl endIdles s).mem := by
    rwa [foldl_keepsMem fun _ _ => endIdles_keepsMem _ _]
  simp only [Memory.wf, beginSave, later_keepsMem, putWg_keepsMem, putDie_keepsMem, abortRetrains_keepsForm, idle]

theorem startSave_keepsForm (s : State) (die kind : Nat) (i : Instr) (form : Memory.wf s.mem) :
    Memory.wf (startSave s die kind i).mem := by
  unfold startSave
  dsimp only
  repeat' split
  all_goals simp only [Memory.wf, busyFalls_keepsMem, putDie_keepsMem, again_keepsMem, beginSave_keepsForm, form]

theorem storePreq_keepsForm (s : State) (die : Nat) (x : Word) (by_ : Nat) (form : Memory.wf s.mem) :
    optOk (storePreq s die x by_) := by
  unfold storePreq
  dsimp only
  repeat' split
  all_goals simp only [Memory.wf, optOk_some, optOk_none, startSave_keepsForm, putDie_keepsMem, form]

theorem writePreempt_keepsForm (s : State) (die off : Nat) (x : Word) (by_ : Nat) (form : Memory.wf s.mem) :
    optOk (writePreempt s die off x by_) := by
  unfold writePreempt
  split <;> simp only [Memory.wf, optOk_some, putDie_keepsMem, storePreq_keepsForm, storePrel_keepsMem, form]

theorem putDomain_keepsMem (s : State) (k : Nat) (x : Domain) : (putDomain s k x).mem = s.mem := rfl

theorem storeGeom_keepsMem (s : State) (n : Nat) (x : Word) : (storeGeom s n x).mem = s.mem := by
  rw [storeGeom]
  split <;> rfl

theorem storeDomain_keepsMem (s : State) (n off : Nat) (x : Word) : (storeDomain s n off x).mem = s.mem := by
  unfold storeDomain
  extract_lets d j
  split
  · exact putDomain_keepsMem _ _ _
  · split
    · exact storeGeom_keepsMem _ _ _
    · exact putDomain_keepsMem _ _ _

theorem startRetrain_keepsMem (s : State) (k : Nat) : (startRetrain s k).mem = s.mem := by
  rw [startRetrain]
  split <;> rfl

theorem storeRate_keepsMem (s : State) (k : Nat) (x : Word) : (storeRate s k x).mem = s.mem := by
  unfold storeRate
  dsimp only
  repeat' split
  all_goals simp only [startRetrain_keepsMem, putStack_keepsMem]

theorem storeMapq_keepsMem (s : State) (x : Word) : (storeMapq s x).mem = s.mem := rfl

theorem storePprreq_keepsForm (s : State) (x : Word) (by_ : Nat) (form : Memory.wf s.mem) :
    optOk (storePprreq s x by_) := by
  unfold storePprreq
  dsimp only
  repeat' split
  all_goals simp only [Memory.wf, optOk_some, optOk_none, later_keepsMem, form]

theorem storeRetreq_keepsForm (s : State) (x : Word) (by_ : Nat) (form : Memory.wf s.mem) :
    optOk (storeRetreq s x by_) := by
  unfold storeRetreq
  dsimp only
  repeat' split
  all_goals simp only [Memory.wf, optOk_some, optOk_none, later_keepsMem, form]

theorem writeMemoryMap_keepsForm (s : State) (off : Nat) (x : Word) (by_ : Nat) (form : Memory.wf s.mem) :
    optOk (writeMemoryMap s off x by_) := by
  rw [writeMemoryMap]
  split
  · exact storeRetreq_keepsForm _ _ _ form
  · split
    · exact storePprreq_keepsForm _ _ _ form
    · split
      · exact optOk_some.mpr (by rwa [storeMapq_keepsMem])
      · split
        · exact optOk_some.mpr (by rwa [storeRate_keepsMem])
        · exact optOk_some.mpr (by rwa [storeDomain_keepsMem])

theorem storeSealgo_keepsForm (s : State) (die : Nat) (x : Word) (by_ : Nat) (form : Memory.wf s.mem) :
    optOk (storeSealgo s die x by_) := by
  unfold storeSealgo
  dsimp only
  repeat' split
  all_goals simp only [Memory.wf, optOk_some, optOk_none, later_keepsMem, putDie_keepsMem, form]

theorem writeImageKey_keepsForm (s : State) (die off : Nat) (x : Word) (by_ : Nat) (form : Memory.wf s.mem) :
    optOk (writeImageKey s die off x by_) := by
  unfold writeImageKey
  split <;> simp only [Memory.wf, optOk_some, putDie_keepsMem, storeSealgo_keepsForm, form]

theorem markCells_keepsForm (s : State) (die : Nat) (bad : List Nat) (form : Memory.wf s.mem) :
    Memory.wf (markCells s die bad).mem := by
  induction bad generalizing s with
  | nil => exact form
  | cons x rest ih =>
    rw [markCells]
    refine ih _ ?_
    all_goals simp only [Memory.wf, writeBytes_keepsForm, form]

theorem battToMemory_keepsForm (s : State) (die : Nat) (form : Memory.wf s.mem) :
    Memory.wf (battToMemory s die).mem := by
  rw [battToMemory]
  exact markCells_keepsForm _ _ _ (writeBytes_wf _ _ _ _ (writeBytes_wf _ _ _ _ (writeBytes_wf _ _ _ _ form)))

theorem settleAll_keepsForm (s : State) (x1 : List Nat) (form : Memory.wf s.mem) : Memory.wf (settleAll s x1).mem := by
  induction x1 generalizing s with
  | nil => exact form
  | cons x rest ih => simp only [settleAll, ih, Memory.wf, settleCtx_keepsForm, form]

theorem battBegins_keepsMem (s : State) (die : Nat) (en : Bool) (by_ : Nat) :
    (battBegins s die en by_).mem = s.mem := rfl

theorem changeBatt_keepsForm (s : State) (die : Nat) (en : Bool) (by_ : Nat) (form : Memory.wf s.mem) :
    optOk (changeBatt s die en by_) := by
  unfold changeBatt
  dsimp only
  repeat' split
  all_goals simp only [Memory.wf, optOk_some, optOk_none, battBegins_keepsMem, settleAll_keepsForm,
    battToMemory_keepsForm, form]

theorem storeBattctl_keepsForm (s : State) (die : Nat) (x : Word) (by_ : Nat) (form : Memory.wf s.mem) :
    optOk (storeBattctl s die x by_) := by
  unfold storeBattctl
  split <;> simp only [Memory.wf, optOk_none, changeBatt_keepsForm, form]

theorem startInvalidation_keepsMem (s : State) (die : Nat) (kind : BitVec 2) (asid : BitVec 16) (by_ : Nat) :
    (startInvalidation s die kind asid by_).mem = s.mem := by
  rw [startInvalidation]
  split <;> rfl

theorem storeInvreq_keepsForm (s : State) (die : Nat) (x : Word) (by_ : Nat) (form : Memory.wf s.mem) :
    optOk (storeInvreq s die x by_) := by
  unfold storeInvreq
  split <;> simp only [Memory.wf, optOk_some, optOk_none, startInvalidation_keepsMem, form]

theorem ioWrite_keepsForm (s : State) (b : IoBlock) (unit off : Nat) (x : Word) (by_ : Nat) (form : Memory.wf s.mem) :
    optOk (ioWrite s b unit off x by_) := by
  unfold ioWrite
  dsimp only
  split
  · split
    · exact optOk_some.mpr (by rwa [putDie_keepsMem])
    · exact optOk_some.mpr (by rwa [putDie_keepsMem])
    · exact storeInvreq_keepsForm _ _ _ _ form
  · split
    · exact storeBattctl_keepsForm _ _ _ _ form
    · exact optOk_some.mpr (by rwa [putDie_keepsMem])
  · exact writeImageKey_keepsForm _ _ _ _ _ form
  · exact writeMemoryMap_keepsForm _ _ _ _ form
  · exact writePreempt_keepsForm _ _ _ _ _ form
  · exact optOk_some.mpr (by rwa [writeHub_keepsMem])
  · exact writeScaleOut_keepsForm _ _ _ _ _ form
  · exact optOk_some.mpr (writeSystemCore_keepsForm _ _ _ _ form)
  · exact storeMreq_keepsForm _ _ _ _ form

theorem ioStore_keepsForm (s : State) (o n x by_ : Nat) (form : Memory.wf s.mem) : optOk (ioStore s o n x by_) := by
  rw [ioStore]
  split
  · exact ioWrite_keepsForm _ _ _ _ _ _ form
  · exact optOk_some.mpr (by rwa [hostWrite_keepsMem])
  · exact optOk_some.mpr (by rwa [deviceWrite_keepsMem])
  · exact optOk_some.mpr form

theorem execIoRegisterWrite_keepsForm (s : State) (form : Memory.wf s.mem) :
    outOk (execIoRegisterWrite s) := by
  refine outOk_next.mpr ?_
  split
  · split
    · refine wf_getD ?_ (by rwa [again_keepsMem])
      split
      · exact optOk_none.mpr trivial
      · exact ioStore_keepsForm _ _ _ _ _ form
    · exact form
  · exact form

theorem resetSystemCore_keepsMem (s : State) (c : Nat) : (resetSystemCore s c).mem = s.mem := rfl

theorem resetMaster_keepsMem (s : State) (m : Master) : (resetMaster s m).mem = s.mem := by
  unfold resetMaster
  dsimp only
  repeat' split
  all_goals simp only [resetSystemCore_keepsMem, putDie_keepsMem, putHub_keepsMem]

theorem execMasterReset_keepsForm (s : State) (form : Memory.wf s.mem) : outOk (execMasterReset s) := by
  simp only [execMasterReset, Memory.wf, outOk_next, resetMaster_keepsMem, form]

theorem logEvent_keepsMem (s : State) (e : LogEntry) (part : Option Nat) : (logEvent s e part).mem = s.mem := by
  unfold logEvent
  split <;> simp only [setIpendPart_keepsMem]

theorem killPart_keepsMem (s : State) (part : Nat) : (killPart s part).mem = s.mem := by
  refine foldl_keepsMem (fun t e => ?_) _ _
  split <;> simp only [endLaunch_keepsMem]

theorem freezeDie_keepsMem (s : State) (die : Nat) : (freezeDie s die).mem = s.mem := by
  simp only [freezeDie, putDie_keepsMem, killPart_keepsMem, logEvent_keepsMem]

theorem freezeSystemCore_keepsMem (s : State) (c : Nat) : (freezeSystemCore s c).mem = s.mem := rfl

theorem freezeMaster_keepsMem (s : State) (m : Master) : (freezeMaster s m).mem = s.mem := by
  unfold freezeMaster
  split <;> simp only [freezeSystemCore_keepsMem, freezeDie_keepsMem, logEvent_keepsMem, putHub_keepsMem]

theorem execFreeze_keepsForm (s : State) (form : Memory.wf s.mem) : outOk (execFreeze s) := by
  unfold execFreeze
  split <;> simp only [Memory.wf, outOk_next, freezeMaster_keepsMem, form]

theorem cleared_keepsForm (s : State) : Memory.wf (cleared s).mem := rfl

theorem startColtaup_keepsForm (s : State) (die : Nat) (form : Memory.wf s.mem) :
    Memory.wf (startColtaup s die).mem := by
  simp only [startColtaup, Memory.wf, startCore_keepsForm, putDie_keepsMem, form]

theorem replayRepairs_keepsMem (s : State) (es : List LogEntry) : (replayRepairs s es).mem = s.mem :=
  Eq.trans (congrArg State.mem (replayRepairs_trains es s)) rfl

theorem trainStack_keepsMem (untrained : List Nat) (s : State) (k : Nat) : (trainStack untrained s k).mem = s.mem := rfl

theorem setSessionKeys_keepsMem (s : State) :
    (setSessionKeys s).mem = s.mem := foldl_keepsMem (fun _ _ => putStack_keepsMem _ _ _) _ _

theorem bringStep_keepsForm (r : BringUp) (s : State) (n : Nat) (form : Memory.wf s.mem) :
    Memory.wf (bringStep r s n).mem := by
  rw [bringStep.eq_def]
  split
  · rwa [setSessionKeys_keepsMem]
  · rwa [foldl_keepsMem fun _ _ => trainStack_keepsMem _ _ _, replayRepairs_keepsMem]
  · exact form
  · exact startColtaup_keepsForm _ _ form
  · exact form

theorem stopAt_keepsMem (s : State) (r : BringUp) (n : Nat) : (stopAt s r n).mem = s.mem := rfl

theorem bringSteps_keepsForm (r : BringUp) (s : State) (ns : List Nat) (form : Memory.wf s.mem) :
    Memory.wf (bringSteps r s ns).mem := by
  induction ns generalizing s with
  | nil => exact form
  | cons n rest ih =>
    rw [bringSteps]
    split
    · rwa [stopAt_keepsMem]
    · exact ih _ (bringStep_keepsForm _ _ _ form)

theorem execBringUp_keepsForm (s : State) (_ : Memory.wf s.mem) : outOk (execBringUp s) := by
  simp only [execBringUp, Memory.wf, outOk_next, bringSteps_keepsForm, cleared_keepsForm]

theorem logAll_keepsMem (s : State) (e : LogEntry) : (logAll s e).mem = s.mem := by
  simp only [logAll, notifyParts_keepsMem, logEvent_keepsMem]

theorem shutDown_keepsMem (s : State) : (shutDown s).mem = s.mem := by
  simp only [shutDown, logAll_keepsMem]

theorem execFlowLoss_keepsForm (s : State) (form : Memory.wf s.mem) : outOk (execFlowLoss s) := by
  simp only [execFlowLoss, Memory.wf, outOk_next, shutDown_keepsMem, logAll_keepsMem, form]

theorem execFlowRecovery_keepsForm (s : State) (form : Memory.wf s.mem) : outOk (execFlowRecovery s) := by
  unfold execFlowRecovery
  split <;> simp only [Memory.wf, outOk_next, form]

theorem execFlowHold_keepsForm (s : State) (form : Memory.wf s.mem) : outOk (execFlowHold s) := by
  simp only [execFlowHold, Memory.wf, outOk_next, logAll_keepsMem, form]

theorem execThermalShutdown_keepsForm (s : State) (form : Memory.wf s.mem) : outOk (execThermalShutdown s) := by
  simp only [execThermalShutdown, Memory.wf, outOk_next, shutDown_keepsMem, logEvent_keepsMem, form]

theorem execJunctionLimit_keepsForm (s : State) (form : Memory.wf s.mem) : outOk (execJunctionLimit s) := by
  unfold execJunctionLimit
  split <;> simp only [Memory.wf, outOk_next, logEvent_keepsMem, form]

theorem sampleQuad_keepsForm (k : Nat) (s : State) (quad : Nat) (form : Memory.wf s.mem) :
    Memory.wf (sampleQuad k s quad).mem := by
  unfold sampleQuad
  dsimp only
  repeat' split
  all_goals simp only [Memory.wf, putSession_keepsMem, captureInto_keepsForm, form]

theorem execSample_keepsForm (s : State) (form : Memory.wf s.mem) : outOk (execSample s) := by
  refine outOk_next.mpr ?_
  split
  · exact foldl_keepsForm (fun _ _ ok => sampleQuad_keepsForm _ _ _ ok) _ _ form
  · exact form

theorem putKey_keepsMem (s : State) (kind slot : Nat) (x : KeySlot) : (putKey s kind slot x).mem = s.mem := rfl

theorem loadKeyIn_keepsForm (s : State) (kind slot : Nat) (key : List Byte) (form : Memory.wf s.mem) :
    Memory.wf (loadKeyIn s kind slot key).mem := by
  unfold loadKeyIn
  split <;> simp only [Memory.wf, settleAll_keepsForm, putKey_keepsMem, form]

theorem sessionRequest_keepsForm (op bytes : Nat) (s : State) (body : State → Nat → Session → (Nat → Word) → Answer)
    (form : Memory.wf s.mem) (does : ∀ t k e w, Memory.wf t.mem → Memory.wf (body t k e w).2.2.mem) :
    outOk (sessionRequest op bytes s body) := by
  refine outOk_next.mpr ?_
  split
  · dsimp only
    rw [putSession_keepsMem]
    split
    · exact does _ _ _ _ form
    · exact form
  · exact form

theorem judged_keepsForm {checks : List (Bool × Nat)} {s t : State} (before : Memory.wf s.mem)
    (after : Memory.wf t.mem) :
    Memory.wf (judged checks s t).2.2.mem := by
  rw [judged]
  split
  · exact before
  · exact after

theorem heldRequest_keepsForm (i : Instr) (op bytes : Nat) (s : State) (held : Session → (Nat → Word) → Bool)
    (go : Host.Outcome State Fault Refusal) (form : Memory.wf s.mem) (does : outOk go) :
    outOk (heldRequest i op bytes s held go) := by
  rw [heldRequest]
  split
  · exact outOk_next.mpr (by rwa [again_keepsMem])
  · exact does

theorem execLoadKey_keepsForm (s : State) (form : Memory.wf s.mem) : outOk (execLoadKey s) := by
  rw [execLoadKey]
  dsimp only
  exact heldRequest_keepsForm _ _ _ _ _ _ form
    (sessionRequest_keepsForm _ _ _ _ form fun _ _ _ _ ok => judged_keepsForm ok (loadKeyIn_keepsForm _ _ _ _ ok))

theorem writeFrameWord_keepsForm (s : State) (key off : Nat) (x : Word) (form : Memory.wf s.mem) :
    Memory.wf (writeFrameWord s key off x).mem := by
  unfold writeFrameWord
  dsimp only
  repeat' split
  all_goals simp only [Memory.wf, writeBytes_keepsForm, writeFrameLines_keepsForm, form]

theorem releaseStops_keepsForm (s : State) (key stops : Nat) (form : Memory.wf s.mem) :
    Memory.wf (releaseStops s key stops).mem :=
  foldl_keepsForm (fun _ _ ok => writeFrameWord_keepsForm _ _ _ _ ok) _ _ form

theorem execRelease_keepsForm (s : State) (form : Memory.wf s.mem) : outOk (execRelease s) := by
  refine heldRequest_keepsForm _ _ _ _ _ _ form (sessionRequest_keepsForm _ _ _ _ form fun _ _ _ _ ok => ?_)
  split
  · exact ok
  · dsimp only [answered]
    rw [putPart_keepsMem]
    exact releaseStops_keepsForm _ _ _ ok

theorem execPoll_keepsForm (s : State) (form : Memory.wf s.mem) : outOk (execPoll s) := by
  refine heldRequest_keepsForm _ _ _ _ _ _ form (sessionRequest_keepsForm _ _ _ _ form fun _ _ _ _ ok => ?_)
  split <;> exact ok

theorem execDumpParkTable_keepsForm (s : State) (form : Memory.wf s.mem) : outOk (execDumpParkTable s) := by
  refine sessionRequest_keepsForm _ _ _ _ form fun _ _ _ _ ok => judged_keepsForm ok ?_
  refine foldl_keepsForm (fun u p ok => ?_) _ _ ok
  dsimp only
  split
  · exact captureInto_keepsForm _ _ _ _ ok
  · exact ok

theorem mapParts_keepsMem (s : State) (f : Machine.Partition → Machine.Partition) (x2 : List Nat) :
    (mapParts s f x2).mem = s.mem := by
  induction x2 generalizing s with
  | nil => rfl
  | cons x rest ih => simp only [mapParts, ih, putPart_keepsMem]

theorem execSetContinueLive_keepsForm (s : State) (form : Memory.wf s.mem) : outOk (execSetContinueLive s) :=
  sessionRequest_keepsForm _ _ _ _ form fun _ _ _ _ ok => judged_keepsForm ok (by rwa [mapParts_keepsMem])

theorem execReplay_keepsForm (s : State) (form : Memory.wf s.mem) : outOk (execReplay s) :=
  sessionRequest_keepsForm _ _ _ _ form fun _ _ _ _ ok => judged_keepsForm ok (by rwa [putSession_keepsMem])

theorem execMarkForRecording_keepsForm (s : State) (form : Memory.wf s.mem) : outOk (execMarkForRecording s) :=
  sessionRequest_keepsForm _ _ _ _ form fun _ _ _ _ ok => judged_keepsForm ok (by rwa [putSession_keepsMem])

theorem execSetTrigger_keepsForm (s : State) (form : Memory.wf s.mem) : outOk (execSetTrigger s) :=
  sessionRequest_keepsForm _ _ _ _ form fun _ _ _ _ ok => judged_keepsForm ok (by rwa [putSession_keepsMem])

theorem execFreezeCapture_keepsForm (s : State) (form : Memory.wf s.mem) : outOk (execFreezeCapture s) :=
  sessionRequest_keepsForm _ _ _ _ form fun _ _ _ _ ok => judged_keepsForm ok (freezeCaptureIn_keepsForm _ _ ok)

theorem execStartCapture_keepsForm (s : State) (form : Memory.wf s.mem) : outOk (execStartCapture s) :=
  sessionRequest_keepsForm _ _ _ _ form fun _ _ _ _ ok => judged_keepsForm ok (startCaptureIn_keepsForm _ _ ok)

theorem execSetCapture_keepsForm (s : State) (form : Memory.wf s.mem) : outOk (execSetCapture s) :=
  heldRequest_keepsForm _ _ _ _ _ _ form (sessionRequest_keepsForm _ _ _ _ form fun _ _ _ _ ok =>
    judged_keepsForm ok (by rwa [putSession_keepsMem]))

theorem execClearWatchpoint_keepsForm (s : State) (form : Memory.wf s.mem) : outOk (execClearWatchpoint s) :=
  sessionRequest_keepsForm _ _ _ _ form fun _ _ _ _ ok => judged_keepsForm ok (by rwa [mapParts_keepsMem])

theorem execSetWatchpoint_keepsForm (s : State) (form : Memory.wf s.mem) : outOk (execSetWatchpoint s) :=
  sessionRequest_keepsForm _ _ _ _ form fun _ _ _ _ ok => judged_keepsForm ok (by rwa [mapParts_keepsMem])

theorem execClearBreakpoint_keepsForm (s : State) (form : Memory.wf s.mem) : outOk (execClearBreakpoint s) :=
  sessionRequest_keepsForm _ _ _ _ form fun _ _ _ _ ok => judged_keepsForm ok (by rwa [mapParts_keepsMem])

theorem execSetBreakpoint_keepsForm (s : State) (form : Memory.wf s.mem) : outOk (execSetBreakpoint s) :=
  sessionRequest_keepsForm _ _ _ _ form fun _ _ _ _ ok => judged_keepsForm ok (by rwa [mapParts_keepsMem])

theorem closeSession_keepsMem (s : State) (k : Nat) : (closeSession s k).mem = s.mem :=
  Eq.trans (congrArg State.mem (closeSession_closes s k)) rfl

theorem execSessionTimeout_keepsForm (s : State) (form : Memory.wf s.mem) : outOk (execSessionTimeout s) := by
  unfold execSessionTimeout
  split <;> simp only [Memory.wf, outOk_next, closeSession_keepsMem, form]

theorem execEndSession_keepsForm (s : State) (form : Memory.wf s.mem) : outOk (execEndSession s) := by
  simp only [execEndSession, Memory.wf, outOk_next, closeSession_keepsMem, form]

theorem emptyKey_keepsForm (s : State) (kind slot : Nat) (form : Memory.wf s.mem) :
    Memory.wf (emptyKey s kind slot).mem := by
  unfold emptyKey
  split <;> simp only [Memory.wf, settleAll_keepsForm, putKey_keepsMem, form]

theorem emptyKeys_keepsForm (s : State) (kind : Nat) (x2 : List Nat) (form : Memory.wf s.mem) :
    Memory.wf (emptyKeys s kind x2).mem := by
  induction x2 generalizing s with
  | nil => exact form
  | cons x rest ih => simp only [emptyKeys, ih, Memory.wf, emptyKey_keepsForm, form]

theorem killConfidential_keepsMem (s : State) (part : Nat) : (killConfidential s part).mem = s.mem := by
  refine foldl_keepsMem (fun t e => ?_) _ _
  split <;> simp only [endLaunch_keepsMem]

theorem makerOpens_keepsForm (s : State) (form : Memory.wf s.mem) : Memory.wf (makerOpens s).mem := by
  rw [makerOpens]
  refine emptyKeys_keepsForm _ _ _ (emptyKeys_keepsForm _ _ _ ?_)
  rwa [foldl_keepsMem fun _ _ => killConfidential_keepsMem _ _]

theorem execSessionOpen_keepsForm (s : State) (form : Memory.wf s.mem) : outOk (execSessionOpen s) := by
  refine outOk_next.mpr ?_
  split
  · exact form
  · split
    · rwa [again_keepsMem]
    · split
      · rw [notifyParts_keepsMem, putSession_keepsMem]
        split
        · exact makerOpens_keepsForm _ form
        · exact form
      · dsimp only
        split <;> exact form

theorem doeAnswer_keepsMem (s : State) (h op result : Nat) (more : List (BitVec 32)) :
    (doeAnswer s h op result more).mem = s.mem := rfl

theorem doeRequest_keepsForm (s : State) (own : Nat) (body : Nat → Nat → State) (form : Memory.wf s.mem)
    (does : ∀ h w, Memory.wf (body h w).mem) : outOk (doeRequest s own body) := by
  refine outOk_next.mpr ?_
  split
  · exact form
  · split
    · exact does _ _
    · split
      · rwa [doeAnswer_keepsMem]
      · exact form

theorem execReadStatus_keepsForm (s : State) (form : Memory.wf s.mem) : outOk (execReadStatus s) := by
  rw [execReadStatus]
  refine doeRequest_keepsForm _ _ _ form fun h x => ?_
  split <;> rwa [doeAnswer_keepsMem]

theorem execReadPowerLimit_keepsForm (s : State) (form : Memory.wf s.mem) : outOk (execReadPowerLimit s) :=
  doeRequest_keepsForm _ _ _ form fun _ _ => by rwa [doeAnswer_keepsMem]

theorem askLimit_keepsMem (s : State) (watts : Nat) : (askLimit s watts).2.mem = s.mem := by
  rw [askLimit]
  split <;> rfl

theorem execSetPowerLimit_keepsForm (s : State) (form : Memory.wf s.mem) : outOk (execSetPowerLimit s) := by
  refine doeRequest_keepsForm _ _ _ form fun h x => ?_
  split
  · rwa [doeAnswer_keepsMem]
  · rwa [doeAnswer_keepsMem, askLimit_keepsMem]

theorem mailRequest_keepsForm (s : State) (code fields : Nat) (body : State → Nat → (Nat → Word) → Nat × State)
    (form : Memory.wf s.mem) (does : ∀ t d w, Memory.wf t.mem → Memory.wf (body t d w).2.mem) :
    outOk (mailRequest s code fields body) := by
  refine outOk_next.mpr ?_
  split
  · split
    · rwa [finishMail_keepsMem]
    · dsimp only
      rw [finishMail_keepsMem]
      exact does _ _ _ form
  · exact form

theorem execReady_keepsForm (s : State) (form : Memory.wf s.mem) : outOk (execReady s) :=
  mailRequest_keepsForm _ _ _ _ form fun _ _ _ ok => by rwa [putPart_keepsMem]

theorem execPowerLimit_keepsForm (s : State) (form : Memory.wf s.mem) : outOk (execPowerLimit s) := by
  refine mailRequest_keepsForm _ _ _ _ form fun t d w ok => ?_
  split
  · exact ok
  · split
    · exact ok
    · rwa [askLimit_keepsMem]

theorem releaseSlots_keepsForm (s : State) (form : Memory.wf s.mem) : Memory.wf (releaseSlots s).mem := by
  refine foldl_keepsForm (fun t i ok => ?_) _ _ form
  split
  · rw [putKey_keepsMem]
    exact emptyKey_keepsForm _ _ _ ok
  · exact ok

theorem divideInto_keepsForm (s : State) (n : Nat) (form : Memory.wf s.mem) : Memory.wf (divideInto s n).mem := by
  have released : Memory.wf (if s.partCount == n then s else releaseSlots s).mem := by
    split
    · exact form
    · exact releaseSlots_keepsForm _ form
  rw [divideInto]
  refine foldl_keepsForm (fun _ _ ok => startColtaup_keepsForm _ _ ok) _ _ ?_
  refine foldl_keepsForm (f := fun s d => resetSystemCore (resetSystemCore s (2 * d)) (2 * d + 1)) (fun t d ok =>
    ?_) _ _ ?_
  · rwa [resetSystemCore_keepsMem, resetSystemCore_keepsMem]
  · refine foldl_keepsForm (fun t e ok => ?_) _ _ released
    split
    · rwa [closeSession_keepsMem]
    · exact ok

theorem execDivide_keepsForm (s : State) (form : Memory.wf s.mem) : outOk (execDivide s) := by
  refine mailRequest_keepsForm _ _ _ _ form fun t d w ok => ?_
  split
  · exact ok
  · split
    · exact ok
    · split
      · exact ok
      · exact divideInto_keepsForm _ _ ok

theorem execMarkConfidential_keepsForm (s : State) (form : Memory.wf s.mem) : outOk (execMarkConfidential s) := by
  refine mailRequest_keepsForm _ _ _ _ form fun t d w ok => ?_
  split <;> exact ok

theorem closeContext_keepsMem (s : State) (context : BitVec 32) : (closeContext s context).mem = s.mem :=
  Eq.trans (congrArg State.mem (closeContext_closes s context)) rfl

theorem execRegisterTenant_keepsForm (s : State) (form : Memory.wf s.mem) : outOk (execRegisterTenant s) := by
  refine outOk_ite (outOk_next.mpr (by rwa [again_keepsMem])) (mailRequest_keepsForm _ _ _ _ form fun t d w ok => ?_)
  split
  · exact ok
  · generalize readMain _ _ (w 2).toNat _ = first
    generalize readMain _ _ (w 3).toNat _ = second
    split
    · dsimp only
      rwa [closeContext_keepsMem]
    · exact ok

theorem execEmptySlot_keepsForm (s : State) (form : Memory.wf s.mem) : outOk (execEmptySlot s) := by
  refine outOk_ite (outOk_next.mpr (by rwa [again_keepsMem])) (mailRequest_keepsForm _ _ _ _ form fun t d w ok => ?_)
  dsimp only
  split
  · exact ok
  · split
    · exact emptyKey_keepsForm _ _ _ ok
    · exact ok

theorem execAssignSlot_keepsForm (s : State) (form : Memory.wf s.mem) : outOk (execAssignSlot s) := by
  refine outOk_ite (outOk_next.mpr (by rwa [again_keepsMem])) (mailRequest_keepsForm _ _ _ _ form fun t d w ok => ?_)
  extract_lets kind slot part context x elsewhere t1
  split
  · exact ok
  · split
    · exact ok
    · dsimp only
      rw [putKey_keepsMem]
      exact emptyKey_keepsForm _ _ _ ok

theorem execScvecClear_keepsForm (s : State) (form : Memory.wf s.mem) : outOk (execScvecClear s) := by
  unfold execScvecClear
  split <;> simp only [Memory.wf, outOk_next, storeScvec_keepsMem, form]

theorem execSignal_keepsForm (s : State) (form : Memory.wf s.mem) : outOk (execSignal s) := by
  unfold execSignal
  split <;> simp only [Memory.wf, outOk_next, storeScctl_keepsForm, form]

theorem execStart_keepsForm (s : State) (form : Memory.wf s.mem) : outOk (execStart s) := by
  unfold execStart
  split <;> simp only [Memory.wf, outOk_next, storeScctl_keepsForm, form]

theorem scaleTimesOut_keepsMem (s : State) (h : Nat) : (scaleTimesOut s h).mem = s.mem := rfl

theorem execScaleOutTimeout_keepsForm (s : State) (form : Memory.wf s.mem) : outOk (execScaleOutTimeout s) := by
  unfold execScaleOutTimeout
  dsimp only
  repeat' split
  all_goals simp only [Memory.wf, outOk_next, scaleTimesOut_keepsMem, again_keepsMem, form]

theorem execScaleOutAcknowledge_keepsForm (s : State) (form : Memory.wf s.mem) : outOk (execScaleOutAcknowledge s) := by
  unfold execScaleOutAcknowledge
  dsimp only
  repeat' split
  all_goals simp only [Memory.wf, outOk_next, scaleTimesOut_keepsMem, busyFalls_keepsMem, putHub_keepsMem, form]

theorem scaleRequest_keepsForm (s : State) (i : Instr) (op : Nat) (form : Memory.wf s.mem) :
    Memory.wf (scaleRequest s i op).mem := by
  rw [scaleRequest]
  split
  · exact form
  · exact wf_getD (storeXgo_keepsForm _ _ _ _ form) (by rwa [again_keepsMem])

theorem execXopAddFp16_keepsForm (s : State) (form : Memory.wf s.mem) : outOk (execXopAddFp16 s) := by
  simp only [execXopAddFp16, Memory.wf, outOk_next, scaleRequest_keepsForm, form]

theorem execXopAddBf16_keepsForm (s : State) (form : Memory.wf s.mem) : outOk (execXopAddBf16 s) := by
  simp only [execXopAddBf16, Memory.wf, outOk_next, scaleRequest_keepsForm, form]

theorem execXopAddFp32_keepsForm (s : State) (form : Memory.wf s.mem) : outOk (execXopAddFp32 s) := by
  simp only [execXopAddFp32, Memory.wf, outOk_next, scaleRequest_keepsForm, form]

theorem execXopWrite_keepsForm (s : State) (form : Memory.wf s.mem) : outOk (execXopWrite s) := by
  simp only [execXopWrite, Memory.wf, outOk_next, scaleRequest_keepsForm, form]

theorem sealRows_keepsForm (s : State) (die i n : Nat) (form : Memory.wf s.mem) :
    Memory.wf (sealRows s die i n).mem := by
  induction n generalizing s i with
  | zero => exact form
  | succ n ih =>
    rw [sealRows]
    dsimp only
    split
    · exact form
    · split
      · exact form
      · split
        · exact form
        · split
          · exact ih _ _ (writeOut_keepsForm _ _ form)
          · exact form

theorem sealComplete_keepsForm (s : State) (die : Nat) (form : Memory.wf s.mem) :
    Memory.wf (sealComplete s die).mem := by
  unfold sealComplete
  dsimp only
  repeat' split
  all_goals simp only [Memory.wf, again_keepsMem, sealRows_keepsForm, busyFalls_keepsMem, putDie_keepsMem, form]

theorem execSealComplete_keepsForm (s : State) (form : Memory.wf s.mem) : outOk (execSealComplete s) := by
  simp only [execSealComplete, Memory.wf, outOk_next, sealComplete_keepsForm, form]

theorem execSealgo_keepsForm (s : State) (form : Memory.wf s.mem) : outOk (execSealgo s) := by
  refine outOk_next.mpr ?_
  split
  · exact wf_getD (storeSealgo_keepsForm _ _ _ _ form) (by rwa [again_keepsMem])
  · exact form

theorem setPosted_keepsMem (s : State) (p : Nat) (ws : List PortWork) : (setPosted s p ws).mem = s.mem := rfl

theorem busAnswer_keepsMem (s : State) (h : Nat) (r : Reply) : (busAnswer s h r).mem = s.mem := rfl

theorem busWrite_keepsForm (s : State) (ps : List EnginePlace) (data : List Byte) (form : Memory.wf s.mem) :
    Memory.wf (busWrite s ps data).mem := by
  simp only [busWrite, Memory.wf, writeOut_keepsForm, form]

theorem busAccess_keepsForm (s : State) (h slot pa : Nat) (a : BusAccess) (form : Memory.wf s.mem) :
    optOk (busAccess s h slot pa a) := by
  unfold busAccess
  dsimp only
  repeat' split
  all_goals simp only [Memory.wf, optOk_some, optOk_none, busAnswer_keepsMem, busWrite_keepsForm, form]

theorem storageAct_keepsForm (p : Nat) (s : State) (w : PortWork) (form : Memory.wf s.mem) :
    optOk (storageAct p s w) := by
  unfold storageAct
  dsimp only
  repeat' split
  all_goals simp only [Memory.wf, optOk_some, deviceMessage_keepsMem, busAccess_keepsForm, freezeMaster_keepsMem,
    busAnswer_keepsMem, form]

theorem drainPort_keepsForm (act : State → PortWork → Option State) (s : State) (ws : List PortWork)
    (form : Memory.wf s.mem)
    (does : ∀ t w, Memory.wf t.mem → optOk (act t w)) : Memory.wf (drainPort act s ws).1.mem := by
  induction ws generalizing s with
  | nil => exact form
  | cons w rest ih =>
    rw [drainPort]
    split
    next t acts => exact ih t (does s w form t acts)
    next => exact form

theorem storageArrives_keepsForm (s : State) (p : Nat) (ws : List PortWork) (form : Memory.wf s.mem) :
    Memory.wf (storageArrives s p ws).mem := by
  have drained (ws : List PortWork) : Memory.wf (drainPort (storageAct p) (setPosted s p []) ws).1.mem :=
    drainPort_keepsForm _ _ _ (by rwa [setPosted_keepsMem]) fun _ _ ok => storageAct_keepsForm _ _ _ ok
  rw [storageArrives]
  split
  · rw [setPosted_keepsMem]
    exact drained _
  · rw [again_keepsMem, setPosted_keepsMem]
    exact drained _

theorem execStorageMessage_keepsForm (s : State) (form : Memory.wf s.mem) : outOk (execStorageMessage s) := by
  refine outOk_next.mpr ?_
  split
  · exact form
  · exact storageArrives_keepsForm _ _ _ form

theorem execNvmeDma_keepsForm (s : State) (form : Memory.wf s.mem) : outOk (execNvmeDma s) := by
  refine outOk_next.mpr ?_
  split
  · exact form
  · exact storageArrives_keepsForm _ _ _ form

theorem windowAccess_keepsForm (s : State) (h : Nat) (a : BusAccess) (form : Memory.wf s.mem) :
    optOk (windowAccess s h a) := by
  unfold windowAccess
  dsimp only
  repeat' split
  all_goals simp only [Memory.wf, optOk_some, busAnswer_keepsMem, busAccess_keepsForm, form]

theorem tableAccess_keepsMem (s : State) (h : Nat) (a : BusAccess) : (tableAccess s h a).mem = s.mem := by
  rw [tableAccess]
  split <;> rfl

theorem hostAct_keepsForm (h : Nat) (s : State) (w : PortWork) (form : Memory.wf s.mem) : optOk (hostAct h s w) := by
  unfold hostAct
  repeat' split
  all_goals simp only [Memory.wf, optOk_some, tableAccess_keepsMem, windowAccess_keepsForm, form]

theorem hostArrives_keepsForm (s : State) (h : Nat) (ws : List PortWork) (form : Memory.wf s.mem) :
    Memory.wf (hostArrives s h ws).mem := by
  have drained (b : Hub) (ws : List PortWork) : Memory.wf (drainPort (hostAct h) (putHub s h b) ws).1.mem :=
    drainPort_keepsForm _ _ _ (by rwa [putHub_keepsMem]) fun _ _ ok => hostAct_keepsForm _ _ _ ok
  rw [hostArrives]
  dsimp only
  split
  · rw [putHub_keepsMem]
    exact drained _ _
  · rw [again_keepsMem, putHub_keepsMem]
    exact drained _ _

theorem execCxlMemAccess_keepsForm (s : State) (form : Memory.wf s.mem) : outOk (execCxlMemAccess s) := by
  unfold execCxlMemAccess
  dsimp only
  repeat' split
  all_goals simp only [Memory.wf, outOk_next, hostArrives_keepsForm, busAnswer_keepsMem, form]

theorem execHostBarAccess_keepsForm (s : State) (form : Memory.wf s.mem) : outOk (execHostBarAccess s) := by
  unfold execHostBarAccess
  dsimp only
  repeat' split
  all_goals simp only [Memory.wf, outOk_next, hostArrives_keepsForm, form]

theorem execHmsix_keepsForm (s : State) (form : Memory.wf s.mem) : outOk (execHmsix s) := by
  unfold execHmsix
  split <;> simp only [Memory.wf, outOk_next, storeHmsix_keepsMem, form]

theorem execFabricLinkFailure_keepsForm (s : State) (form : Memory.wf s.mem) : outOk (execFabricLinkFailure s) := by
  refine outOk_next.mpr (foldl_keepsForm (fun t p ok => ?_) _ _ form)
  split
  · rwa [killPart_keepsMem]
  · exact ok

theorem uncorrectable_keepsForm (s : State) (place : Nat) (form : Memory.wf s.mem) :
    Memory.wf (uncorrectable s place).mem := by
  rw [uncorrectable]
  split
  · simp only [Memory.wf, logEvent_keepsMem, form]
  · split
    · rwa [putDie_keepsMem]
    · exact writeBytes_wf _ _ _ _ form

theorem execUncorrectableError_keepsForm (s : State) (form : Memory.wf s.mem) : outOk (execUncorrectableError s) := by
  simp only [execUncorrectableError, Memory.wf, outOk_next, uncorrectable_keepsForm, form]

theorem execSessionKeyReplacement_keepsForm (s : State) (form : Memory.wf s.mem) :
    outOk (execSessionKeyReplacement s) := by
  unfold execSessionKeyReplacement
  dsimp only
  repeat' split
  all_goals simp only [Memory.wf, outOk_next, putStack_keepsMem, form]

theorem execLinkFrameFailure_keepsForm (s : State) (form : Memory.wf s.mem) : outOk (execLinkFrameFailure s) := by
  unfold execLinkFrameFailure
  dsimp only
  repeat' split
  all_goals simp only [Memory.wf, outOk_next, putStack_keepsMem, freezeDie_keepsMem, logEvent_keepsMem, form]

theorem writeImage_keepsForm (s : State) (pa : Nat) (bs : List Byte) (form : Memory.wf s.mem) :
    Memory.wf (writeImage s pa bs).mem := by
  unfold writeImage
  split <;> simp only [Memory.wf, writeBytes_keepsForm, mainWrite_keepsForm, form]

theorem markImage_keepsForm (s : State) (k warp : Nat) (n : BitVec 16) (e : BitVec 7) (f : Word) (complete : Bool)
    (form : Memory.wf s.mem) :
    Memory.wf (markImage s k warp n e f complete).mem := by
  unfold markImage
  dsimp only
  repeat' split
  all_goals simp only [Memory.wf, putWg_keepsMem, writeImage_keepsForm, form]

theorem settleBatch_keepsForm (s : State) (o : EngineOp) (form : Memory.wf s.mem) :
    Memory.wf (settleBatch s o).mem := by
  unfold settleBatch
  dsimp only
  repeat' split
  all_goals simp only [Memory.wf, markImage_keepsForm, putWg_keepsMem, putCtx_keepsMem, form]

theorem freeLocks_keepsMem (s : State) (core op : Nat) : (freeLocks s core op).mem = s.mem := rfl

theorem finishEngine_keepsForm (s : State) (core : Nat) (o : EngineOp) (form : Memory.wf s.mem) :
    Memory.wf (finishEngine s core o).mem := by
  unfold finishEngine
  split <;> simp only [Memory.wf, putCore_keepsMem, freeLocks_keepsMem, settleBatch_keepsForm, form]

theorem revived_keepsMem (s : State) : (revived s).mem = s.mem := rfl

theorem bandRecordWrite_keepsForm (s : State) (core id : Nat) (form : Memory.wf s.mem) :
    Memory.wf (bandRecordWrite s core id).mem := by
  unfold bandRecordWrite
  dsimp only
  repeat' split
  all_goals simp only [Memory.wf, again_keepsMem, putWg_keepsMem, writeOut_keepsForm, finishEngine_keepsForm, form]

theorem stampBand_keepsMem (s : State) (k n i : Nat) (first : Bool) : (stampBand s k n i first).mem = s.mem := by
  rw [stampBand]
  split <;> rfl

theorem updIssuer_keepsMem (s : State) (o : EngineOp) (f : Ctx → Ctx) : (updIssuer s o f).mem = s.mem := by
  rw [updIssuer]
  split <;> rfl

theorem engineFlags_keepsMem (s : State) (o : EngineOp) (f : BitVec 6) : (engineFlags s o f).mem = s.mem := by
  simp only [engineFlags, updIssuer_keepsMem]

theorem multiply_keepsMem (s : State) (wg acc fa fb : Nat) (zero : Bool) (kb : Nat)
    (rows : List (Nat × List Element)) (cols : List (List Element)) :
    (multiply s wg acc fa fb zero kb rows cols).1.mem = s.mem := rfl

theorem matrixEffect_keepsMem (s : State) (o : EngineOp) (m : MatOp) : (matrixEffect s o m).1.mem = s.mem := by
  unfold matrixEffect
  split <;> simp only [multiply_keepsMem, putCore_keepsMem, updIssuer_keepsMem]

theorem matrixCompletion_keepsForm (s : State) (core id : Nat) (form : Memory.wf s.mem) :
    Memory.wf (matrixCompletion s core id).mem := by
  unfold matrixCompletion
  dsimp only
  repeat' split
  all_goals simp only [Memory.wf, again_keepsMem, matrixEffect_keepsMem, finishEngine_keepsForm,
    engineFlags_keepsMem, stampBand_keepsMem, form]

theorem freeTarget_keepsMem (s : State) (core op tcore lo : Nat) : (freeTarget s core op tcore lo).mem = s.mem := rfl

theorem writePart_keepsForm (s : State) (out : List OutByte) (form : Memory.wf s.mem) :
    Memory.wf (writePart s out).1.mem := by
  unfold writePart
  dsimp only
  repeat' split
  all_goals simp only [Memory.wf, writeOut_keepsForm, form]

theorem putEngine_keepsMem (s : State) (core : Nat) (o : EngineOp) : (putEngine s core o).mem = s.mem := rfl

theorem stampCopy_keepsMem (s : State) (o : EngineOp) (dst : Span) : (stampCopy s o dst).mem = s.mem := by
  simp only [stampCopy, stampBand_keepsMem]

theorem partDone_keepsForm (s : State) (core : Nat) (o : EngineOp) (p : Nat) (e : BitVec 7) (frow : Word)
    (dst : Span) (form : Memory.wf s.mem) :
    Memory.wf (partDone s core o p e frow dst).mem := by
  unfold partDone
  dsimp only
  repeat' split
  all_goals simp only [Memory.wf, stampCopy_keepsMem, finishEngine_keepsForm, putEngine_keepsMem, form]

theorem mcastDelivery_keepsForm (s : State) (core id j : Nat) (form : Memory.wf s.mem) :
    Memory.wf (mcastDelivery s core id j).mem := by
  unfold mcastDelivery
  dsimp only
  repeat' split
  all_goals simp only [Memory.wf, again_keepsMem, partDone_keepsForm, putEngine_keepsMem, writePart_keepsForm,
    freeTarget_keepsMem, form]

theorem copyPartCompletion_keepsForm (s : State) (core id p : Nat) (form : Memory.wf s.mem) :
    Memory.wf (copyPartCompletion s core id p).mem := by
  unfold copyPartCompletion
  dsimp only
  repeat' split
  all_goals simp only [Memory.wf, again_keepsMem, writePart_keepsForm, partDone_keepsForm, form]

theorem serveOp_keepsForm (s : State) (core : Nat) (o : EngineOp) (form : Memory.wf s.mem) :
    Memory.wf (serveOp s core o).mem := by
  unfold serveOp
  split <;> simp only [Memory.wf, copyPartCompletion_keepsForm, mcastDelivery_keepsForm, matrixCompletion_keepsForm,
    bandRecordWrite_keepsForm, form]

theorem performStore_keepsForm (s : State) (key id i : Nat) (form : Memory.wf s.mem) :
    Memory.wf (performStore s key id i).mem := by
  unfold performStore
  dsimp only
  repeat' split
  all_goals simp only [Memory.wf, performAt_keepsForm, finishOp_keepsMem, again_keepsMem, form]

theorem execPseudoChannelService_keepsForm (s : State) (form : Memory.wf s.mem) :
    outOk (execPseudoChannelService s) := by
  unfold execPseudoChannelService
  dsimp only
  repeat' split
  all_goals simp only [Memory.wf, outOk_next, performStore_keepsForm, serveOp_keepsForm, form]

theorem execForcedRetrain_keepsForm (s : State) (form : Memory.wf s.mem) : outOk (execForcedRetrain s) := by
  unfold execForcedRetrain
  dsimp only
  repeat' split
  all_goals simp only [Memory.wf, outOk_next, later_keepsMem, putStack_keepsMem, form]

theorem extendSaves_keepsMem (s : State) (part ticks : Nat) : (extendSaves s part ticks).mem = s.mem := rfl

theorem retrainComplete_keepsForm (s : State) (k : Nat) (form : Memory.wf s.mem) :
    Memory.wf (retrainComplete s k).mem := by
  unfold retrainComplete
  dsimp only
  repeat' split
  all_goals simp only [Memory.wf, releaseWrites_keepsForm, putStack_keepsMem, startRetrain_keepsMem,
    extendSaves_keepsMem, form]

theorem execRetrainComplete_keepsForm (s : State) (form : Memory.wf s.mem) : outOk (execRetrainComplete s) := by
  simp only [execRetrainComplete, Memory.wf, outOk_next, retrainComplete_keepsForm, form]

theorem execRateChange_keepsForm (s : State) (form : Memory.wf s.mem) : outOk (execRateChange s) := by
  unfold execRateChange
  split <;> simp only [Memory.wf, outOk_next, storeRate_keepsMem, form]

theorem repairComplete_keepsForm (s : State) (form : Memory.wf s.mem) : Memory.wf (repairComplete s).mem := by
  unfold repairComplete
  split <;> simp only [Memory.wf, busyFalls_keepsMem, releaseWrites_keepsForm, form]

theorem execRepairComplete_keepsForm (s : State) (form : Memory.wf s.mem) : outOk (execRepairComplete s) := by
  simp only [execRepairComplete, Memory.wf, outOk_next, repairComplete_keepsForm, form]

theorem execPprreq_keepsForm (s : State) (form : Memory.wf s.mem) : outOk (execPprreq s) :=
  outOk_next.mpr (wf_getD (storePprreq_keepsForm _ _ _ form) (by rwa [again_keepsMem]))

theorem retirementComplete_keepsForm (s : State) (form : Memory.wf s.mem) : Memory.wf (retirementComplete s).mem := by
  unfold retirementComplete
  split <;> simp only [Memory.wf, settleAll_keepsForm, putStack_keepsMem, busyFalls_keepsMem,
    releaseWrites_keepsForm, form]

theorem execRetirementComplete_keepsForm (s : State) (form : Memory.wf s.mem) : outOk (execRetirementComplete s) := by
  simp only [execRetirementComplete, Memory.wf, outOk_next, retirementComplete_keepsForm, form]

theorem execRetreq_keepsForm (s : State) (form : Memory.wf s.mem) : outOk (execRetreq s) :=
  outOk_next.mpr (wf_getD (storeRetreq_keepsForm _ _ _ form) (by rwa [again_keepsMem]))

theorem execMemoryMapConfigWrite_keepsForm (s : State) (form : Memory.wf s.mem) :
    outOk (execMemoryMapConfigWrite s) := by
  refine outOk_next.mpr ?_
  split
  · rwa [storeDomain_keepsMem]
  · exact form

theorem execMapq_keepsForm (s : State) (form : Memory.wf s.mem) : outOk (execMapq s) := by
  simp only [execMapq, Memory.wf, outOk_next, storeMapq_keepsMem, form]

theorem loadHomes_keepsForm (s : State) (pa place n : Nat) (form : Memory.wf s.mem) :
    Memory.wf (loadHomes s pa place n).mem := by
  rw [loadHomes]
  refine foldl_keepsForm (fun t e ok => ?_) _ _ (writeBytes_wf _ _ _ _ form)
  split
  · exact writeBytes_wf _ _ _ _ ok
  · exact ok

theorem loadWarps_keepsForm (s : State) (k : Nat) (r : List Word) (ws : List (Nat × Nat)) (form : Memory.wf s.mem) :
    Memory.wf (loadWarps s k r ws).mem := by
  induction ws generalizing s with
  | nil => exact form
  | cons w rest ih =>
    unfold loadWarps
    apply ih
    rw [putCtx_keepsMem]
    exact loadHomes_keepsForm _ _ _ _ form

theorem restoreWg_keepsForm (s : State) (k : Nat) (form : Memory.wf s.mem) : Memory.wf (restoreWg s k).mem := by
  have loaded (place n : Nat) (pa : Nat) (core : Nat) (c : Core) (r : List Word) (ws : List (Nat × Nat)) :
      Memory.wf (loadWarps (putCore (loadHomes s pa place n) core c) k r ws).mem := by
    refine loadWarps_keepsForm _ _ _ _ ?_
    rw [putCore_keepsMem]
    exact loadHomes_keepsForm _ _ _ _ form
  rw [restoreWg]
  dsimp only
  split
  · exact form
  · split
    · rwa [again_keepsMem]
    · rw [startLoads_keepsMem, putWg_keepsMem]
      exact loaded _ _ _ _ _ _ _

theorem execRestore_keepsForm (s : State) (form : Memory.wf s.mem) : outOk (execRestore s) :=
  outOk_next.mpr (restoreWg_keepsForm _ _ form)

theorem startRetrains_keepsMem (s : State) (part : Nat) : (startRetrains s part).mem = s.mem := by
  refine foldl_keepsMem (fun t k => ?_) _ _
  split
  · exact startRetrain_keepsMem _ _
  · rfl

theorem putCtxs_keepsMem (s : State) (x1 : List (Nat × Ctx)) : (putCtxs s x1).mem = s.mem := by
  induction x1 generalizing s with
  | nil => rfl
  | cons x rest ih => simp only [putCtxs, ih, putCtx_keepsMem]

theorem clearBytes_keepsForm (s : State) (place n : Nat) (form : Memory.wf s.mem) :
    Memory.wf (clearBytes s place n).mem :=
  clearBytes_wf s place n form

theorem passLease_keepsMem (s : State) (core : Nat) : (passLease s core).mem = s.mem := by
  rw [passLease]
  split <;> rfl

theorem dropStale_keepsMem (s : State) (core : Nat) : (dropStale s core).mem = s.mem := rfl

theorem dropLease_keepsMem (s : State) (k : Nat) : (dropLease s k).mem = s.mem := by
  unfold dropLease
  dsimp only
  repeat' split
  all_goals simp only [dropStale_keepsMem, putCore_keepsMem, passLease_keepsMem]

theorem freeOnCore_keepsForm (s : State) (k : Nat) (retires : Bool) (form : Memory.wf s.mem) :
    Memory.wf (freeOnCore s k retires).mem := by
  simp only [freeOnCore, Memory.wf, dropLease_keepsMem, clearBytes_keepsForm, putCore_keepsMem, putCtxs_keepsMem, form]

theorem writeImageLines_keepsForm (s : State) (die slot pa : Nat) (bs : List ImageByte) (n : Nat)
    (form : Memory.wf s.mem) :
    Memory.wf (writeImageLines s die slot pa bs n).mem := by
  induction n generalizing s pa bs with
  | zero => exact form
  | succ n ih =>
    rw [writeImageLines]
    refine ih _ _ _ ?_
    split
    · exact form
    · split
      · exact form
      · refine foldl_keepsForm (fun t e ok => ?_) _ _ (mainWrite_keepsForm _ _ _ _ _ _ form)
        split
        · exact writeBytes_wf _ _ _ _ ok
        · exact ok

theorem enterQueue_keepsMem (s : State) (part id : Nat) : (enterQueue s part id).mem = s.mem := by
  rw [enterQueue]
  split <;> rfl

theorem useMarks_keepsMem (s : State) (part : Nat) (asid : BitVec 16) (va : Word) (l : Launch) :
    (useMarks s part asid va l).1.mem = s.mem := by
  rw [useMarks]
  generalize s.sessions = es
  generalize l = m
  induction es generalizing s m with
  | nil => rfl
  | cons e rest ih =>
    rw [List.foldl_cons]
    split
    · exact ih (putSession s e.1 _) _
    · exact ih s m

theorem carderDecision_keepsMem (s : State) (key id : Nat) : (carderDecision s key id).mem = s.mem := by
  unfold carderDecision
  dsimp only
  repeat' split
  all_goals simp only [putCtx_keepsMem, useMarks_keepsMem, putPart_keepsMem, attemptDue_keepsMem, enterQueue_keepsMem]

theorem decideLaunches_keepsMem (s : State) (key : Nat) : (decideLaunches s key).mem = s.mem := by
  refine foldl_keepsMem (fun t o => ?_) _ _
  split
  · exact carderDecision_keepsMem _ _ _
  · rfl

theorem settleActs_keepsMem (s : State) (core : Nat) : (settleActs s core).mem = s.mem := rfl

theorem settleSave_keepsForm (s : State) (w : Workgroup) (form : Memory.wf s.mem) : Memory.wf (settleSave s w).mem :=
  foldl_keepsForm (fun t key ok => by
    dsimp only
    rw [putCtx_keepsMem]
    exact settleCtx_keepsForm _ _ ok) _ _ form

theorem saveCompletion_keepsForm (s : State) (k : Nat) (form : Memory.wf s.mem) :
    Memory.wf (saveCompletion s k).mem := by
  have settled := settleSave_keepsForm s (getWg s k) form
  rw [saveCompletion]
  extract_lets all allOn core flip_ redirects full die s1 s2 s3 s4 w1 late bytes s5 kept pending redirected s6 s7 c s8 s9 d d1 mine s10 s11
  have h1 : Memory.wf s1.mem := Eq.mpr (congrArg Memory.wf (settleActs_keepsMem _ _)) settled
  have h2 : Memory.wf s2.mem := foldl_keepsForm (fun _ _ ok => by rwa [decideLaunches_keepsMem]) _ _ h1
  have h3 : Memory.wf s3.mem :=
    foldl_keepsForm (f := fun s key => putCtx s key (stopLwaits (getCtx s key))) (fun _ _ ok =>
      by rwa [putCtx_keepsMem]) _ _ h2
  have h5 : Memory.wf s5.mem := writeImageLines_keepsForm _ _ _ _ _ _ h3
  have h9 : Memory.wf s9.mem := freeOnCore_keepsForm _ _ _ h5
  have h10 : Memory.wf s10.mem := by
    by_cases m : mine = true
    · rwa [show s10 = _ from if_pos m, busyFalls_keepsMem, putDie_keepsMem]
    · rwa [show s10 = _ from if_neg m, putDie_keepsMem]
  have h11 : Memory.wf s11.mem := by
    by_cases held : w1.saveKind = 1
    · rwa [show s11 = s10 from if_pos held]
    · rwa [show s11 = returnWg s10 k from if_neg held, returnWg_keepsMem]
  split
  · exact form
  · split
    · rwa [again_keepsMem]
    · split
      · rwa [again_keepsMem]
      · rwa [startRetrains_keepsMem, attemptDue_keepsMem]

theorem execSaveCompletion_keepsForm (s : State) (form : Memory.wf s.mem) : outOk (execSaveCompletion s) := by
  simp only [execSaveCompletion, Memory.wf, outOk_next, saveCompletion_keepsForm, form]

theorem execPrel_keepsForm (s : State) (form : Memory.wf s.mem) : outOk (execPrel s) := by
  unfold execPrel
  split <;> simp only [Memory.wf, outOk_next, storePrel_keepsMem, form]

theorem saveRequest_keepsForm (s : State) (i : Instr) (kind : Nat) (form : Memory.wf s.mem) :
    Memory.wf (saveRequest s i kind).mem := by
  rw [saveRequest]
  split
  · exact form
  · split
    · split
      · exact startSave_keepsForm _ _ _ _ form
      · exact form
    · exact wf_getD (storePreq_keepsForm _ _ _ _ form) (by rwa [again_keepsMem])

theorem execSaveAndHold_keepsForm (s : State) (form : Memory.wf s.mem) : outOk (execSaveAndHold s) := by
  simp only [execSaveAndHold, Memory.wf, outOk_next, saveRequest_keepsForm, form]

theorem execSaveAndRequeue_keepsForm (s : State) (form : Memory.wf s.mem) : outOk (execSaveAndRequeue s) := by
  simp only [execSaveAndRequeue, Memory.wf, outOk_next, saveRequest_keepsForm, form]

theorem execWarpIdleTimeout_keepsForm (s : State) (form : Memory.wf s.mem) : outOk (execWarpIdleTimeout s) := by
  unfold execWarpIdleTimeout
  dsimp only
  repeat' split
  all_goals simp only [Memory.wf, outOk_next, endIdle_keepsMem, form]

theorem execTimer_keepsForm (s : State) (form : Memory.wf s.mem) : outOk (execTimer s) := by
  unfold execTimer
  dsimp only
  repeat' split
  all_goals simp only [Memory.wf, outOk_next, putCtx_keepsMem, form]

theorem execInterrupt_keepsForm (s : State) (form : Memory.wf s.mem) : outOk (execInterrupt s) := by
  unfold execInterrupt
  dsimp only
  repeat' split
  all_goals simp only [Memory.wf, outOk_next, trapHere_keepsForm, systemEventBy_keepsForm, form]

theorem execTrapEntry_keepsForm (s : State) (form : Memory.wf s.mem) : outOk (execTrapEntry s) := by
  unfold execTrapEntry
  dsimp only
  repeat' split
  all_goals simp only [Memory.wf, outOk_next, arrived_keepsMem, takeTrap_keepsForm, form]

theorem battChangeDone_keepsForm (s : State) (die : Nat) (form : Memory.wf s.mem) :
    Memory.wf (battChangeDone s die).mem := by
  rw [battChangeDone]
  dsimp only
  split
  · split
    · rwa [again_keepsMem]
    · rw [busyFalls_keepsMem, putDie_keepsMem]
      split
      · rw [putDie_keepsMem]
        exact writeBytes_wf _ _ _ _ (writeBytes_wf _ _ _ _ (settleAll_keepsForm _ _ form))
      · exact form
  · exact form

theorem execBattChangeDone_keepsForm (s : State) (form : Memory.wf s.mem) : outOk (execBattChangeDone s) := by
  unfold execBattChangeDone
  split <;> simp only [Memory.wf, outOk_next, battChangeDone_keepsForm, form]

theorem battRequest_keepsForm (s : State) (i : Instr) (en : Bool) (form : Memory.wf s.mem) :
    Memory.wf (battRequest s i en).mem := by
  rw [battRequest]
  split
  · exact form
  · split
    · rwa [again_keepsMem]
    · exact wf_getD (changeBatt_keepsForm _ _ _ _ form) (by rwa [again_keepsMem])

theorem execBattDisable_keepsForm (s : State) (form : Memory.wf s.mem) : outOk (execBattDisable s) := by
  simp only [execBattDisable, Memory.wf, outOk_next, battRequest_keepsForm, form]

theorem execBattEnable_keepsForm (s : State) (form : Memory.wf s.mem) : outOk (execBattEnable s) := by
  simp only [execBattEnable, Memory.wf, outOk_next, battRequest_keepsForm, form]

theorem cellStep_keepsForm (s : State) (key id i : Nat) (form : Memory.wf s.mem) :
    Memory.wf (cellStep s key id i).mem := by
  unfold cellStep
  dsimp only
  repeat' split
  all_goals simp only [Memory.wf, finishOp_keepsMem, performAt_keepsForm, again_keepsMem, form]

theorem execCellStep_keepsForm (s : State) (form : Memory.wf s.mem) : outOk (execCellStep s) := by
  simp only [execCellStep, Memory.wf, outOk_next, cellStep_keepsForm, form]

theorem execBandRecordWrite_keepsForm (s : State) (form : Memory.wf s.mem) : outOk (execBandRecordWrite s) := by
  simp only [execBandRecordWrite, Memory.wf, outOk_next, bandRecordWrite_keepsForm, form]

theorem execLeasePass_keepsForm (s : State) (form : Memory.wf s.mem) : outOk (execLeasePass s) := by
  unfold execLeasePass
  dsimp only
  repeat' split
  all_goals simp only [Memory.wf, outOk_next, dropStale_keepsMem, again_keepsMem, passLease_keepsMem, form]

theorem execLeaseGrant_keepsForm (s : State) (form : Memory.wf s.mem) : outOk (execLeaseGrant s) := by
  unfold execLeaseGrant
  dsimp only
  repeat' split
  all_goals simp only [Memory.wf, outOk_next, dropStale_keepsMem, passLease_keepsMem, form]

theorem postRing_keepsMem (s : State) (k j : Nat) : (postRing s k j).mem = s.mem := rfl

theorem drainOut_keepsForm (s : State) (o : EngineOp) (acc : Nat) (x : Record) (dst : Span) (add : Bool)
    (am an fmt : Nat) (form : Memory.wf s.mem) :
    Memory.wf (drainOut s o acc x dst add am an fmt).1.mem := by
  simp only [drainOut, Memory.wf, writeOut_keepsForm, form]

theorem drainCompletion_keepsForm (s : State) (core id : Nat) (form : Memory.wf s.mem) :
    Memory.wf (drainCompletion s core id).mem := by
  unfold drainCompletion
  dsimp only
  repeat' split
  all_goals simp only [Memory.wf, again_keepsMem, drainOut_keepsForm, engineFlags_keepsMem, finishEngine_keepsForm,
    stampBand_keepsMem, postRing_keepsMem, form]

theorem execDrainCompletion_keepsForm (s : State) (form : Memory.wf s.mem) : outOk (execDrainCompletion s) := by
  simp only [execDrainCompletion, Memory.wf, outOk_next, drainCompletion_keepsForm, form]

theorem execMatrixOperationCompletion_keepsForm (s : State) (form : Memory.wf s.mem) :
    outOk (execMatrixOperationCompletion s) := by
  simp only [execMatrixOperationCompletion, Memory.wf, outOk_next, matrixCompletion_keepsForm, form]

theorem execMcastDelivery_keepsForm (s : State) (form : Memory.wf s.mem) : outOk (execMcastDelivery s) := by
  simp only [execMcastDelivery, Memory.wf, outOk_next, mcastDelivery_keepsForm, form]

theorem execCopyPartCompletion_keepsForm (s : State) (form : Memory.wf s.mem) : outOk (execCopyPartCompletion s) := by
  simp only [execCopyPartCompletion, Memory.wf, outOk_next, copyPartCompletion_keepsForm, form]

theorem enterReady_keepsMem (s : State) (part : Nat) (x2 : List Nat) : (enterReady s part x2).mem = s.mem := by
  induction x2 generalizing s with
  | nil => rfl
  | cons x rest ih => simp only [enterReady, ih, enterQueue_keepsMem]

theorem countDone_keepsForm (s : State) (q : Requester) (va : Nat) (form : Memory.wf s.mem) :
    optOk (countDone s q va) := by
  unfold countDone
  dsimp only
  repeat' split
  all_goals simp only [Memory.wf, optOk_some, optOk_none, storeHome_keepsForm, mainWrite_keepsForm, form]

theorem dropOps_keepsMem (s : State) (k : Nat) (p : EngineOp → Bool) : (dropOps s k p).mem = s.mem := rfl

theorem completeFlip_keepsMem (s : State) (core : Nat) : (completeFlip s core).mem = s.mem := by
  unfold completeFlip
  dsimp only
  repeat' split
  all_goals simp only [putCore_keepsMem, retire_keepsMem]

theorem settleFlip_keepsMem (s : State) (w : Workgroup) : (settleFlip s w).mem = s.mem := by
  unfold settleFlip
  repeat' split
  all_goals simp only [completeFlip_keepsMem, settleActs_keepsMem]

theorem removeWg_keepsForm (s : State) (k : Nat) (form : Memory.wf s.mem) : Memory.wf (removeWg s k).mem := by
  have flipped : Memory.wf (settleFlip s (getWg s k)).mem := by rwa [settleFlip_keepsMem]
  have decided : Memory.wf (dropOps ((getWg s k).warps.foldl decideLaunches
      ((getWg s k).warps.foldl settleCtx (settleFlip s (getWg s k)))) k fun _ => true).mem := by
    rw [dropOps_keepsMem, foldl_keepsMem fun _ _ => decideLaunches_keepsMem _ _]
    exact foldl_keepsForm (fun _ _ ok => settleCtx_keepsForm _ _ ok) _ _ flipped
  rw [removeWg]
  dsimp only
  rw [putWg_keepsMem]
  dsimp only
  split
  · exact decided
  · exact freeOnCore_keepsForm _ _ _ decided

theorem removeWgs_keepsForm (s : State) (x1 : List Nat) (form : Memory.wf s.mem) : Memory.wf (removeWgs s x1).mem := by
  induction x1 generalizing s with
  | nil => exact form
  | cons x rest ih => simp only [removeWgs, ih, Memory.wf, removeWg_keepsForm, form]

theorem launchCompletion_keepsForm (s : State) (part id : Nat) (form : Memory.wf s.mem) :
    Memory.wf (launchCompletion s part id).mem := by
  rw [launchCompletion]
  dsimp only
  split
  · split
    · rwa [again_keepsMem]
    · exact form
  · rw [attemptDue_keepsMem, enterReady_keepsMem, putPart_keepsMem]
    have removed := removeWgs_keepsForm s (launchWgs s part id) form
    refine wf_getD ?_ removed
    split
    · exact optOk_some.mpr removed
    · split
      · exact optOk_none.mpr trivial
      · exact countDone_keepsForm _ _ _ removed

theorem execLaunchCompletion_keepsForm (s : State) (form : Memory.wf s.mem) : outOk (execLaunchCompletion s) := by
  simp only [execLaunchCompletion, Memory.wf, outOk_next, launchCompletion_keepsForm, form]

theorem meetMarks_keepsMem (s : State) (x1 : List (Mark × Word)) : (meetMarks s x1).mem = s.mem := by
  induction x1 generalizing s with
  | nil => rfl
  | cons x rest ih =>
    rw [meetMarks]
    split <;> simp only [ih, updLaunch_keepsMem]

theorem placeNew_keepsForm (s : State) (part id wgid core : Nat) (f : Fit) (keys : List Nat) (form : Memory.wf s.mem) :
    Memory.wf (placeNew s part id wgid core f keys).mem := by
  simp only [placeNew, Memory.wf, clearBytes_keepsForm, putCore_keepsMem, putWg_keepsMem, putCtxs_keepsMem,
    putPart_keepsMem, recordAll_keepsForm, meetMarks_keepsMem, form]

theorem placeAgain_keepsForm (s : State) (part id k image core : Nat) (f : Fit) (keys : List Nat)
    (form : Memory.wf s.mem) :
    Memory.wf (placeAgain s part id k image core f keys).mem := by
  simp only [placeAgain, Memory.wf, putCore_keepsMem, putWg_keepsMem, putCtxs_keepsMem, putPart_keepsMem,
    recordAll_keepsForm, meetMarks_keepsMem, later_keepsMem, form]

theorem placeNext_keepsForm (s : State) (part id : Nat) (form : Memory.wf s.mem) : optOk (placeNext s part id) := by
  rw [placeNext]
  split
  · exact optOk_map fun _ => placeAgain_keepsForm _ _ _ _ _ _ _ _ form
  · exact optOk_map fun _ => placeNew_keepsForm _ _ _ _ _ _ _ form

theorem execCarderPreemption_keepsForm (s : State) (form : Memory.wf s.mem) : outOk (execCarderPreemption s) := by
  unfold execCarderPreemption
  dsimp only
  repeat' split
  all_goals simp only [Memory.wf, outOk_next, again_keepsMem, attemptDue_keepsMem, beginSave_keepsForm, form]

theorem popQueue_keepsMem (s : State) (part prio : Nat) : (popQueue s part prio).mem = s.mem := rfl

theorem serveQueue_keepsForm (part prio n : Nat) (s : State) (form : Memory.wf s.mem) :
    Memory.wf (serveQueue part prio n s).mem := by
  induction n generalizing s with
  | zero => exact form
  | succ n ih =>
    rw [serveQueue]
    split
    · exact form
    · dsimp only
      split
      · exact ih _ (by rwa [popQueue_keepsMem])
      · split
        next t placed => exact ih t (placeNext_keepsForm _ _ _ form t placed)
        next => exact form

theorem serveQueues_keepsForm (part : Nat) (prios : List Nat) (s : State) (form : Memory.wf s.mem) :
    Memory.wf (serveQueues part prios s).mem := by
  induction prios generalizing s with
  | nil => exact form
  | cons prio rest ih =>
    rw [serveQueues]
    exact ih _ (serveQueue_keepsForm _ _ _ _ form)

theorem watchHead_keepsMem (part : Nat) (s : State) (prio : Nat) : (watchHead part s prio).mem = s.mem := by
  unfold watchHead
  dsimp only
  repeat' split
  all_goals simp only [later_keepsMem]

theorem placementAttempt_keepsForm (s : State) (part : Nat) (form : Memory.wf s.mem) :
    Memory.wf (placementAttempt s part).mem := by
  rw [placementAttempt, foldl_keepsMem fun _ _ => watchHead_keepsMem _ _ _]
  exact serveQueues_keepsForm _ _ _ form

theorem execPlacementAttempt_keepsForm (s : State) (form : Memory.wf s.mem) : outOk (execPlacementAttempt s) := by
  simp only [execPlacementAttempt, Memory.wf, outOk_next, placementAttempt_keepsForm, form]

theorem execQueueEntry_keepsForm (s : State) (form : Memory.wf s.mem) : outOk (execQueueEntry s) := by
  simp only [execQueueEntry, Memory.wf, outOk_next, attemptDue_keepsMem, enterQueue_keepsMem, form]

theorem execCarderDecision_keepsForm (s : State) (form : Memory.wf s.mem) : outOk (execCarderDecision s) := by
  simp only [execCarderDecision, Memory.wf, outOk_next, carderDecision_keepsMem, form]

theorem dropRecords_keepsMem (s : State) (x1 : List Nat) : (dropRecords s x1).mem = s.mem := by
  induction x1 generalizing s with
  | nil => rfl
  | cons x rest ih => simp only [dropRecords, ih, putCore_keepsMem]

theorem putTlb_keepsMem (s : State) (cache : Nat) (es : List TlbEntry) : (putTlb s cache es).mem = s.mem := rfl

theorem dropTlb_keepsMem (s : State) (d : Die) (x2 : List Nat) : (dropTlb s d x2).mem = s.mem := by
  induction x2 generalizing s with
  | nil => rfl
  | cons x rest ih => simp only [dropTlb, ih, putTlb_keepsMem]

theorem invalidationComplete_keepsForm (s : State) (die : Nat) (form : Memory.wf s.mem) :
    Memory.wf (invalidationComplete s die).mem := by
  have settled := settleAll_keepsForm s (invContexts s die) form
  rw [invalidationComplete]
  dsimp only
  split
  · split
    · rwa [again_keepsMem]
    · rw [busyFalls_keepsMem, putDie_keepsMem]
      split
      · rwa [dropRecords_keepsMem, dropTlb_keepsMem]
      · rwa [dropTlb_keepsMem]
  · exact form

theorem execInvalidationComplete_keepsForm (s : State) (form : Memory.wf s.mem) :
    outOk (execInvalidationComplete s) := by
  unfold execInvalidationComplete
  split <;> simp only [Memory.wf, outOk_next, invalidationComplete_keepsForm, form]

theorem invRequest_keepsMem (s : State) (i : Instr) (kind : BitVec 2) : (invRequest s i kind).mem = s.mem := by
  unfold invRequest
  dsimp only
  repeat' split
  all_goals simp only [again_keepsMem, startInvalidation_keepsMem]

theorem execInvalidateAll_keepsForm (s : State) (form : Memory.wf s.mem) : outOk (execInvalidateAll s) := by
  simp only [execInvalidateAll, Memory.wf, outOk_next, invRequest_keepsMem, form]

theorem execInvalidateAsid_keepsForm (s : State) (form : Memory.wf s.mem) : outOk (execInvalidateAsid s) := by
  simp only [execInvalidateAsid, Memory.wf, outOk_next, invRequest_keepsMem, form]

theorem execInvalidatePage_keepsForm (s : State) (form : Memory.wf s.mem) : outOk (execInvalidatePage s) := by
  simp only [execInvalidatePage, Memory.wf, outOk_next, invRequest_keepsMem, form]

theorem translationWalk_keepsMem (s : State) (cache : Nat) (asid : BitVec 16) (va : Nat) :
    (translationWalk s cache asid va).mem = s.mem := by
  unfold translationWalk
  dsimp only
  repeat' split
  all_goals simp only [putDie_keepsMem, putTlb_keepsMem]

theorem execTranslationWalk_keepsForm (s : State) (form : Memory.wf s.mem) : outOk (execTranslationWalk s) := by
  unfold execTranslationWalk
  dsimp only
  repeat' split
  all_goals simp only [Memory.wf, outOk_next, again_keepsMem, translationWalk_keepsMem, form]

theorem execActFlipComplete_keepsForm (s : State) (form : Memory.wf s.mem) : outOk (execActFlipComplete s) := by
  unfold execActFlipComplete
  dsimp only
  repeat' split
  all_goals simp only [Memory.wf, outOk_next, arrivedOf_keepsMem, completeFlip_keepsMem, again_keepsMem, form]

theorem execActLdWrite_keepsForm (s : State) (form : Memory.wf s.mem) : outOk (execActLdWrite s) := by
  simp only [execActLdWrite, Memory.wf, outOk_next, putCore_keepsMem, form]

theorem passBarrier_keepsMem (s : State) (x1 : List Agent) : (passBarrier s x1).mem = s.mem := by
  induction x1 generalizing s with
  | nil => rfl
  | cons x rest ih => simp only [passBarrier, ih, arrivedOf_keepsMem, retire_keepsMem]

theorem run_keepsForm (s : State) (r : Res State) (form : Memory.wf s.mem) (does : resOk r) : outOk (run s r) := by
  unfold run
  split
  · exact outOk_next.mpr (does _ rfl)
  · exact outOk_next.mpr (trapHere_keepsForm _ _ _ _ form)
  · exact outOk_next.mpr (by rwa [hold_keepsMem])

theorem execLgBar_keepsForm (s : State) (form : Memory.wf s.mem) : outOk (execLgBar s) := by
  rw [execLgBar]
  refine run_keepsForm _ _ form ?_
  repeat' refine resOk_bind fun _ => ?_
  all_goals simp only [Memory.wf, resOk_ok, passBarrier_keepsMem, form]

theorem raceSettle_keepsMem (s t : State) : (raceSettle s t).mem = t.mem := by
  rw [raceSettle]
  split <;> rfl

theorem noteIssue_keepsMem (i : Instr) (pinned : Bool) (s t : State) : (noteIssue i pinned s t).mem = t.mem := by
  unfold noteIssue
  dsimp only
  repeat' split
  all_goals simp only [raceSettle_keepsMem, putCtx_keepsMem, arrived_keepsMem, stampSlots_keepsMem]

theorem issued_keepsForm (i : Instr) (pinned : Bool) (s : State) (o : Host.Outcome State Fault Refusal)
    (does : outOk o) :
    outOk (issued i pinned s o) := by
  unfold issued
  split
  · refine outOk_next.mpr ?_
    rw [noteIssue_keepsMem]
    exact does _ rfl
  · exact outOk_fault.mpr trivial
  · exact outOk_refused.mpr trivial

theorem trapHere_issueOk {s : State} (cause : BitVec 8) (taddr detail : Word) (form : Memory.wf s.mem) :
    issueOk (.done (trapHere s cause taddr detail)) := trapHere_keepsForm _ _ _ _ form

theorem plainTrap_issueOk {s : State} (cause : BitVec 8) (form : Memory.wf s.mem) : issueOk (plainTrap s cause) :=
  trapHere_issueOk _ _ _ form

theorem classify_issueOk {s : State} (w : Code) (place : Nat) (form : Memory.wf s.mem) :
    issueOk (classify s w place) := by
  have one (e : Option Code) : issueOk (match decodeWord w e with | .ok i => .exec i s | .error _ => plainTrap s 0x01) := by
    split
    · exact form
    · exact plainTrap_issueOk _ form
  rw [classify]
  refine issueOk_ite (plainTrap_issueOk _ form) (issueOk_ite (issueOk_ite (plainTrap_issueOk _ form) ?_)
    (issueOk_ite (plainTrap_issueOk _ form) (one none)))
  split
  · exact trapHere_issueOk _ _ _ form
  next e _ =>
    exact issueOk_ite (plainTrap_issueOk _ form) (issueOk_ite (plainTrap_issueOk _ form)
      (issueOk_ite (plainTrap_issueOk _ form) (one (some e))))

theorem issueWord_issueOk {s : State} (form : Memory.wf s.mem) : issueOk (issueWord s) := by
  have trap := fun cause taddr detail => trapHere_issueOk cause taddr detail form
  rw [issueWord]
  split
  · exact trap _ _ _
  · split
    · exact trap _ _ _
    · split
      · split
        · exact trap _ _ _
        · split
          · exact trap _ _ _
          · exact classify_issueOk _ _ (by rwa [setStrand_keepsMem])
      · exact classify_issueOk _ _ form

theorem issueWith_issueOk {s : State} (asIf : Bool) (form : Memory.wf s.mem) : issueOk (issueWith asIf s) := by
  rw [issueWith]
  dsimp only
  split
  · exact form
  · split
    · exact Eq.mpr (congrArg Memory.wf (issueSecond_keepsMem _ _)) form
    · split
      · exact replayEnd_keepsForm _ _ form
      · split
        · exact form
        · split
          · exact form
          · split
            · exact Eq.mpr (congrArg Memory.wf (awaitCode_keepsMem _)) form
            · split
              · exact trapHere_issueOk _ _ _ form
              next h _ =>
                have ready : Memory.wf (readyToIssue s h).mem := by rwa [readyToIssue_keepsMem]
                split
                · exact Eq.mpr (congrArg Memory.wf (awaitCode_keepsMem _)) ready
                · split
                  · exact issueWord_issueOk ready
                  · split
                    · exact issueWord_issueOk (by rwa [pinWindow_keepsMem])
                    · exact Eq.mpr (congrArg Memory.wf (awaitWindow_keepsMem _)) ready

theorem reissue_keepsForm (s : State) (a : Agent) (why : Why) (f : Instr → State → Host.Outcome State Fault Refusal)
    (form : Memory.wf s.mem) (does : ∀ i t, Memory.wf t.mem → outOk (f i t)) : outOk (reissue s a why f) := by
  have next := issueWith_issueOk (s := { s with focus := a }) false form
  rw [← issueNext] at next
  rw [reissue]
  refine outOk_ite ?_ (outOk_next.mpr form)
  split
  next i t same =>
    rw [same] at next
    exact issued_keepsForm _ _ _ _ (does i _ (by rw [raceView_keepsMem]; exact next))
  next t same =>
    rw [same] at next
    exact outOk_next.mpr (by rw [arrived_keepsMem]; exact next)

theorem execLgBarComplete_keepsForm (s : State) (form : Memory.wf s.mem) : outOk (execLgBarComplete s) := by
  refine reissue_keepsForm _ _ _ _ form fun i t ok => ?_
  split
  · exact execLgBar_keepsForm _ ok
  · exact outOk_next.mpr form

theorem finishRecorded_keepsForm (s : State) (words : Nat) (es : List (Mark × Word)) (form : Memory.wf s.mem) :
    Memory.wf (finishRecorded s words es).mem := by
  have met := meetEvents_keepsForm s es form
  rw [finishRecorded]
  split
  next t same =>
    rw [same] at met
    rwa [retire_keepsMem]
  next t d same =>
    rw [same] at met
    exact divergeTrap_keepsForm _ _ _ met

theorem completeRecorded_keepsForm (s : State) (words : Nat) (m : Mark) (value : Word) (form : Memory.wf s.mem) :
    Memory.wf (completeRecorded s words m value).mem := by
  simp only [completeRecorded, Memory.wf, finishRecorded_keepsForm, recordEvent_keepsForm, form]

theorem wrS_keepsMem (s : State) (n : BitVec 6) (x : Word) : (wrS s n x).mem = s.mem := rfl

theorem wf_of_meetEvents {u t : State} {es : List (Mark × Word)} {d : Option (Nat × Word)} (ok : Memory.wf u.mem)
    (is : meetEvents u es = (t, d)) : Memory.wf t.mem := by
  have met := meetEvents_keepsForm u es ok
  rwa [is] at met

theorem completeCWait_keepsForm (s : State) (d : BitVec 6) (n : Nat) (status : Word) (upTo : Nat)
    (form : Memory.wf s.mem) :
    Memory.wf (completeCWait s d n status upTo).mem := by
  have written (c : Ctx) : Memory.wf (wrS (setCur s c) d status).mem := by rwa [wrS_keepsMem, setCur_keepsMem]
  rw [completeCWait]
  dsimp only
  split
  · split
    next t same => exact takeTrap_keepsForm _ _ (wf_of_meetEvents (recordEvent_keepsForm _ _ _ (written _)) same)
    next t x same => exact divergeTrap_keepsForm _ _ _ (wf_of_meetEvents (recordEvent_keepsForm _ _ _ (written _)) same)
  · exact completeRecorded_keepsForm _ _ _ _ (written _)

theorem guarded_keepsForm (g : BitVec 3) (body : State → Res State) (s : State) (form : Memory.wf s.mem)
    (does : resOk (body s)) : resOk (guarded g body s) := by
  rw [guarded]
  split
  · exact does
  · exact resOk_ok.mpr (by rwa [retire_keepsMem])

theorem execCWait_keepsForm (g : BitVec 3) (d a : BitVec 6) (s : State) (form : Memory.wf s.mem) :
    outOk (execCWait g d a s) := by
  refine run_keepsForm _ _ form (guarded_keepsForm _ _ _ form (resOk_bind fun _ => resOk_bind fun _ =>
    resOk_bind fun _ => ?_))
  split
  · exact resOk_ok.mpr (completeCWait_keepsForm _ _ _ _ _ form)
  · exact resOk_bind fun _ => resOk_ok.mpr (completeCWait_keepsForm _ _ _ _ _ form)

theorem execCWaitComplete_keepsForm (s : State) (form : Memory.wf s.mem) : outOk (execCWaitComplete s) := by
  refine reissue_keepsForm _ _ _ _ form fun i t ok => ?_
  split
  · exact execCWait_keepsForm _ _ _ _ ok
  · exact outOk_next.mpr form

theorem wrP_keepsMem (s : State) (n : BitVec 3) (b : Bool) : (wrP s n b).mem = s.mem := rfl

theorem ringWait_keepsForm (s : State) (q : BitVec 3) (r : Machine.Ring) (t : BitVec 16) (form : Memory.wf s.mem) :
    Memory.wf (ringWait s q r t).mem := by
  unfold ringWait
  dsimp only
  repeat' split
  all_goals simp only [Memory.wf, hold_keepsMem, setStrand_keepsMem, completeRecorded_keepsForm, wrP_keepsMem, form]

theorem execRWait_keepsForm (g q : BitVec 3) (a : BitVec 6) (n : BitVec 10) (s : State) (form : Memory.wf s.mem) :
    outOk (execRWait g q a n s) := by
  unfold execRWait
  split
  · exact outOk_next.mpr (ringWait_keepsForm _ _ _ _ form)
  · refine run_keepsForm _ _ form (guarded_keepsForm _ _ _ form ?_)
    split
    · exact resOk_error.mpr trivial
    · exact resOk_bind fun _ => resOk_ok.mpr (ringWait_keepsForm _ _ _ _ form)

theorem execRingWaitComplete_keepsForm (s : State) (form : Memory.wf s.mem) : outOk (execRingWaitComplete s) := by
  refine reissue_keepsForm _ _ _ _ form fun i t ok => ?_
  split
  · exact execRWait_keepsForm _ _ _ _ _ ok
  · exact outOk_next.mpr form

theorem execJoin_keepsForm (k : BitVec 3) (d a b : BitVec 6) (e : BitVec 1) (s : State) (form : Memory.wf s.mem) :
    outOk (execJoin k d a b e s) := by
  refine run_keepsForm _ _ form (resOk_bind fun _ => resOk_bind fun _ => resOk_bind fun _ => ?_)
  dsimp only
  split
  · split <;> exact resOk_error.mpr trivial
  · split
    · exact resOk_error.mpr trivial
    · exact resOk_bind fun _ => resOk_ok.mpr (by rwa [retire_keepsMem, setCur_keepsMem])

theorem execJoinIssue_keepsForm (s : State) (form : Memory.wf s.mem) : outOk (execJoinIssue s) := by
  refine reissue_keepsForm _ _ _ _ form fun i t ok => ?_
  split
  · exact execJoin_keepsForm _ _ _ _ _ _ ok
  · exact outOk_next.mpr form

theorem execArmwait_keepsForm (s : State) (form : Memory.wf s.mem) :
    outOk (execArmwait s) :=
  run_keepsForm _ _ form (by simp only [resOk_bind, Memory.wf, resOk_ok, retire_keepsMem, setCur_keepsMem, form,
    implies_true])

theorem execArmwaitComplete_keepsForm (s : State) (form : Memory.wf s.mem) : outOk (execArmwaitComplete s) := by
  refine reissue_keepsForm _ _ _ _ form fun i t ok => ?_
  split
  · exact execArmwait_keepsForm _ ok
  · exact outOk_next.mpr form

theorem fenceComplete_keepsMem (s : State) (key id : Nat) : (fenceComplete s key id).mem = s.mem := by
  unfold fenceComplete
  dsimp only
  repeat' split
  all_goals simp only [putCtx_keepsMem, again_keepsMem]

theorem execFenceComplete_keepsForm (s : State) (form : Memory.wf s.mem) : outOk (execFenceComplete s) := by
  simp only [execFenceComplete, Memory.wf, outOk_next, fenceComplete_keepsMem, form]

theorem cycleDue_keepsMem (s : State) (key : Nat) : (cycleDue s key).mem = s.mem := by
  rw [cycleDue]
  split <;> rfl

theorem parkRetry_keepsMem (s : State) (a : Agent) : (parkRetry s a).mem = s.mem := by
  unfold parkRetry
  dsimp only
  repeat' split
  all_goals simp only [again_keepsMem, cycleDue_keepsMem, putCtx_keepsMem]

theorem execParkRetry_keepsForm (s : State) (form : Memory.wf s.mem) : outOk (execParkRetry s) := by
  simp only [execParkRetry, Memory.wf, outOk_next, parkRetry_keepsMem, form]

theorem completeWait_keepsForm (s : State) (place : Nat) (form : Memory.wf s.mem) :
    Memory.wf (completeWait s place).mem := by
  simp only [completeWait, Memory.wf, releasePark_keepsMem, completeRecorded_keepsForm, form]

theorem wakeSlots_keepsForm (s : State) (key place : Nat) (x3 : List Nat) (form : Memory.wf s.mem) :
    Memory.wf (wakeSlots s key place x3).mem := by
  induction x3 generalizing s with
  | nil => exact form
  | cons x rest ih =>
    rw [wakeSlots]
    refine ih _ ?_
    repeat' split
    all_goals simp only [Memory.wf, completeWait_keepsForm, form]

theorem waitPoison_keepsForm (s : State) (b : Word) (form : Memory.wf s.mem) : Memory.wf (waitPoison s b).mem := by
  simp only [waitPoison, Memory.wf, trapHere_keepsForm, form]

theorem parkWake_keepsForm (s : State) (core i : Nat) (form : Memory.wf s.mem) : Memory.wf (parkWake s core i).mem := by
  unfold parkWake
  dsimp only
  repeat' split
  all_goals simp only [Memory.wf, waitPoison_keepsForm, wakeSlots_keepsForm, form]

theorem execParkWake_keepsForm (s : State) (form : Memory.wf s.mem) : outOk (execParkWake s) := by
  simp only [execParkWake, Memory.wf, outOk_next, arrivedOf_keepsMem, parkWake_keepsForm, form]

theorem arrivalStep_keepsForm (s : State) (key id : Nat) (form : Memory.wf s.mem) :
    Memory.wf (arrivalStep s key id).mem := by
  unfold arrivalStep
  dsimp only
  repeat' split
  all_goals simp only [Memory.wf, finishOp_keepsMem, performList_keepsForm, again_keepsMem, form]

theorem execArrivalStep_keepsForm (s : State) (form : Memory.wf s.mem) : outOk (execArrivalStep s) := by
  simp only [execArrivalStep, Memory.wf, outOk_next, arrivalStep_keepsForm, form]

theorem atomicStep_keepsForm (s : State) (key id i : Nat) (form : Memory.wf s.mem) :
    Memory.wf (atomicStep s key id i).mem := by
  unfold atomicStep
  dsimp only
  repeat' split
  all_goals simp only [Memory.wf, performAt_keepsForm, finishOp_keepsMem, again_keepsMem, form]

theorem execAtomicStep_keepsForm (s : State) (form : Memory.wf s.mem) : outOk (execAtomicStep s) := by
  simp only [execAtomicStep, Memory.wf, outOk_next, atomicStep_keepsForm, form]

theorem loadFill_keepsForm (s : State) (key id pass : Nat) (form : Memory.wf s.mem) :
    Memory.wf (loadFill s key id pass).mem := by
  unfold loadFill
  dsimp only
  repeat' split
  all_goals simp only [Memory.wf, performList_keepsForm, putCtx_keepsMem, again_keepsMem, form]

theorem execLoadFill_keepsForm (s : State) (form : Memory.wf s.mem) : outOk (execLoadFill s) := by
  simp only [execLoadFill, Memory.wf, outOk_next, loadFill_keepsForm, form]

theorem scalarFill_keepsForm (s : State) (key id : Nat) (form : Memory.wf s.mem) :
    Memory.wf (scalarFill s key id).mem := by
  unfold scalarFill
  dsimp only
  repeat' split
  all_goals simp only [Memory.wf, again_keepsMem, finishOp_keepsMem, performList_keepsForm, form]

theorem execScalarFill_keepsForm (s : State) (form : Memory.wf s.mem) : outOk (execScalarFill s) := by
  simp only [execScalarFill, Memory.wf, outOk_next, scalarFill_keepsForm, form]

theorem fillLong_keepsMem (s : State) (key id pass : Nat) : (fillLong s key id pass).mem = s.mem := by
  unfold fillLong
  dsimp only
  repeat' split
  all_goals simp only [putCtx_keepsMem]

theorem execLongResultFill_keepsForm (s : State) (form : Memory.wf s.mem) : outOk (execLongResultFill s) := by
  simp only [execLongResultFill, Memory.wf, outOk_next, fillLong_keepsMem, form]

theorem execAgeRotation_keepsForm (s : State) (form : Memory.wf s.mem) : outOk (execAgeRotation s) := by
  unfold execAgeRotation
  dsimp only
  repeat' split
  all_goals simp only [Memory.wf, outOk_next, putCore_keepsMem, form]

theorem countCycle_keepsMem (s : State) (core quad : Nat) (ready issue : List Agent) :
    (countCycle s core quad ready issue).mem = s.mem := rfl

theorem execQuadIssueCycle_keepsForm (s : State) (form : Memory.wf s.mem) : outOk (execQuadIssueCycle s) := by
  simp only [execQuadIssueCycle, Memory.wf, outOk_next, countCycle_keepsMem, putCore_keepsMem, form]

theorem givePin_keepsMem (s : State) (a : Agent) : (givePin s a).mem = s.mem := by
  simp only [givePin, startLoad_keepsMem, putCtx_keepsMem]

theorem execPinGiveback_keepsForm (s : State) (form : Memory.wf s.mem) : outOk (execPinGiveback s) := by
  unfold execPinGiveback
  split <;> simp only [Memory.wf, outOk_next, givePin_keepsMem, form]

theorem windowLoad_keepsMem (s : State) (a : Agent) : (windowLoad s a).mem = s.mem := by
  have passes (h : ClauseHeader) (ps : List Bool) : ∀ r : State × List Nat,
      (ps.foldl (loadPass a.key h) r).1.mem = r.1.mem := by
    induction ps with
    | nil => exact fun _ => rfl
    | cons p rest ih =>
      intro r
      rw [List.foldl_cons, ih, loadPass]
      dsimp only
      split
      · rfl
      · split <;> rfl
  rw [windowLoad]
  split
  · rfl
  · split
    · rfl
    · dsimp only
      split
      · rw [startLoads_keepsMem, passes]
      · rw [again_keepsMem, cycleDue_keepsMem, startLoads_keepsMem, passes]

theorem execWindowLoad_keepsForm (s : State) (form : Memory.wf s.mem) : outOk (execWindowLoad s) := by
  simp only [execWindowLoad, Memory.wf, outOk_next, windowLoad_keepsMem, form]

theorem leaseDue_keepsMem (s : State) (core : Nat) : (leaseDue s core).mem = s.mem := by
  rw [leaseDue]
  split <;> rfl

theorem settleLease_keepsMem (s : State) (core : Nat) : (settleLease s core).mem = s.mem := by
  unfold settleLease
  dsimp only
  repeat' split
  all_goals simp only [passLease_keepsMem]

theorem askLease_keepsMem (s : State) : (askLease s).mem = s.mem := by
  unfold askLease
  dsimp only
  repeat' split
  all_goals simp only [settleLease_keepsMem, dropStale_keepsMem, putCore_keepsMem, leaseDue_keepsMem]

theorem beginClause_keepsForm (s : State) (form : Memory.wf s.mem) : outOk (beginClause s) := by
  have trap (e : Stop) : outOk (run s (.error e)) := run_keepsForm _ _ form (resOk_error.mpr trivial)
  rw [beginClause]
  dsimp only
  refine outOk_ite (outOk_next.mpr (by rwa [awaitCode_keepsMem])) ?_
  split
  · exact trap _
  · refine outOk_ite (trap _) ?_
    split
    · exact trap _
    · split_ifs <;> simp only [outOk_next, Memory.wf, pinWindow_keepsMem, setStrand_keepsMem, awaitWindow_keepsMem,
        hold_keepsMem, askLease_keepsMem, form]

theorem execClauseBegin_keepsForm (s : State) (form : Memory.wf s.mem) : outOk (execClauseBegin s) := by
  have begins := beginClause_keepsForm { s with focus := s.input.who } form
  refine outOk_ite ?_ (outOk_next.mpr form)
  split
  next t same => exact outOk_next.mpr (by rw [arrived_keepsMem]; exact begins t same)
  next => exact begins

theorem execRepRepeat_keepsForm (s : State) (form : Memory.wf s.mem) : outOk (execRepRepeat s) := by
  unfold execRepRepeat
  dsimp only
  repeat' split
  all_goals simp only [Memory.wf, outOk_next, form]

theorem releaseLease_keepsMem (s : State) : (releaseLease s).mem = s.mem := by
  simp only [releaseLease, dropStale_keepsMem, leaseDue_keepsMem, settleLease_keepsMem, putCore_keepsMem]

theorem execMxLeaseRel_keepsForm (s : State) (form : Memory.wf s.mem) : outOk (execMxLeaseRel s) := by
  unfold execMxLeaseRel
  split <;> simp only [Memory.wf, outOk_next, releaseLease_keepsMem, retire_keepsMem, form]

/-- A record that is fetched may be kept in the core's cache alone. -/
theorem fetchRecord_keepsForm {s : State} {va : Word} {r : Record × State} (form : Memory.wf s.mem)
    (is : fetchRecord s va = .ok r) : Memory.wf r.2.mem := by
  unfold fetchRecord at is
  extract_lets q core c at is
  split at is
  · cases is
  · split at is
    · cases is
    · split at is
      · cases is
        exact form
      · extract_lets got held at is
        generalize held = h at is
        generalize got = g at is
        split at is
        · cases is
        · split at is
          · cases is
          · cases is
            exact form

theorem resOk_fetch {s : State} {va : Word} {f : Record × State → Res State} (form : Memory.wf s.mem)
    (rest : ∀ x t, Memory.wf t.mem → resOk (f (x, t))) : resOk (fetchRecord s va >>= f) := by
  cases is : fetchRecord s va with
  | error e => exact fun _ same => nomatch same
  | ok r => exact rest r.1 r.2 (fetchRecord_keepsForm form is)

theorem underLease_keepsForm (s : State) (first : Res Unit) (issue : State → Res State) (form : Memory.wf s.mem)
    (does : ∀ t, Memory.wf t.mem → resOk (issue t)) : outOk (underLease s first issue) := by
  have asked : Memory.wf (askLease s).mem := by rwa [askLease_keepsMem]
  unfold underLease
  split
  · exact run_keepsForm _ _ form (resOk_error.mpr trivial)
  · refine outOk_ite (run_keepsForm _ _ asked (does _ asked)) (outOk_next.mpr ?_)
    rwa [hold_keepsMem]

theorem execMxLeaseAcq_keepsForm (s : State) (form : Memory.wf s.mem) : outOk (execMxLeaseAcq s) :=
  underLease_keepsForm _ _ _ form fun _ ok => resOk_ok.mpr (by rwa [retire_keepsMem])

theorem retireWorkgroup_keepsForm (s : State) (k : Nat) (form : Memory.wf s.mem) :
    Memory.wf (retireWorkgroup s k).mem := by
  unfold retireWorkgroup
  dsimp only
  repeat' split
  all_goals simp only [Memory.wf, putWg_keepsMem, freeOnCore_keepsForm, dropOps_keepsMem, putPart_keepsMem,
    later_keepsMem, placementAttempt_keepsForm, form]

theorem retireWarp_keepsForm (s : State) (form : Memory.wf s.mem) : Memory.wf (retireWarp s).mem := by
  unfold retireWarp
  dsimp only
  repeat' split
  all_goals simp only [Memory.wf, setCur_keepsMem, putCore_keepsMem, putWg_keepsMem, retireWorkgroup_keepsForm, form]

theorem discardRas_keepsMem (s : State) : (discardRas s).mem = s.mem := rfl

theorem freeSlot_keepsMem (s : State) : (freeSlot s).mem = s.mem := rfl

theorem exitStrand_keepsForm (s : State) (form : Memory.wf s.mem) : resOk (exitStrand s) := by
  unfold exitStrand
  repeat' refine resOk_bind fun _ => ?_
  repeat' split
  all_goals simp only [resOk_ite, Memory.wf, resOk_ok, freeSlot_keepsMem, putDie_keepsMem, retireWarp_keepsForm,
    setCur_keepsMem, form]

theorem execExit_keepsForm (s : State) (form : Memory.wf s.mem) : outOk (execExit s) := by
  simp only [execExit, Memory.wf, run_keepsForm, exitStrand_keepsForm, form]

theorem endArm_keepsMem (s : State) : (endArm s).mem = s.mem := rfl

theorem transfer_keepsMem (s : State) (target : Word) : (transfer s target).mem = s.mem := rfl

theorem endStage_keepsMem (s : State) (r : Serial) : (endStage s r).mem = s.mem := by
  unfold endStage
  dsimp only
  repeat' split
  all_goals simp only [setCur_keepsMem, discardRas_keepsMem, transfer_keepsMem, setStrand_keepsMem]

theorem execEnds_keepsForm (s : State) (form : Memory.wf s.mem) : outOk (execEnds s) := by
  rw [execEnds]
  refine run_keepsForm _ _ form ?_
  repeat' split
  all_goals simp only [Memory.wf, resOk_ok, endStage_keepsMem, exitStrand_keepsForm, endArm_keepsMem, form]

theorem execActFlip_keepsForm (s : State) (form : Memory.wf s.mem) : outOk (execActFlip s) := by
  unfold execActFlip
  dsimp only
  repeat' split
  all_goals simp only [Memory.wf, outOk_next, hold_keepsMem, putCore_keepsMem, later_keepsMem, form]

theorem execIdle_keepsForm (s : State) (form : Memory.wf s.mem) :
    outOk (execIdle s) :=
  run_keepsForm _ _ form (by simp only [resOk_bind, Memory.wf, resOk_ok, retire_keepsMem, form, implies_true])

theorem returnFromTrap_keepsForm (s : State) (form : Memory.wf s.mem) : resOk (returnFromTrap s) := by
  have settled := settleFrame_keepsForm s form
  rw [returnFromTrap]
  refine resOk_bind fun _ => resOk_bind fun _ => resOk_bind fun w0 => ?_
  dsimp only
  split
  · split
    · exact resOk_ok.mpr (doubleTrap_keepsForm _ _ _ settled)
    · exact resOk_ok.mpr (by rwa [endLaunch_keepsMem])
  · refine resOk_bind fun _ => resOk_bind fun _ => resOk_bind fun _ => resOk_bind fun _ => resOk_bind fun _ => ?_
    exact resOk_ok.mpr (by rwa [setCur_keepsMem])

theorem execSysret_keepsForm (s : State) (form : Memory.wf s.mem) :
    outOk (execSysret s) :=
  run_keepsForm _ _ form (by simp only [resOk_bind, Memory.wf, returnFromTrap_keepsForm, form, implies_true])

theorem shortForm_keepsForm (s : State) (g : BitVec 3) (fe : BitVec 1) (d : Nat) (srcs : List Nat) (f : LaneFn)
    (form : Memory.wf s.mem) :
    resOk (shortForm s g fe d srcs f) := by
  rw [shortForm]
  simp only [resOk_bind, Memory.wf, resOk_ok, retire_keepsMem, setCur_keepsMem, form, implies_true]

theorem sourceless_keepsForm (f : Nat → Word) (g : BitVec 3) (d : BitVec 6) (s : State) (form : Memory.wf s.mem) :
    resOk (sourceless f g d s) := by
  rw [sourceless]
  simp only [resOk_bind, Memory.wf, shortForm_keepsForm, form, implies_true]

theorem execVIota_keepsForm (g t : BitVec 3) (d : BitVec 6) (i : BitVec 13) (s : State) (form : Memory.wf s.mem) :
    outOk (execVIota g t d i s) := by
  simp only [execVIota, Memory.wf, run_keepsForm, sourceless_keepsForm, form]

theorem issueOp_keepsMem (s : State) (kind : OpKind) (dst : Nat) (accs : List Access) (lg : Bool) :
    (issueOp s kind dst accs lg).mem = s.mem := by
  rw [issueOp]
  split <;> rfl

theorem execLgSt_keepsForm (z : BitVec 3) (d a sb : BitVec 6) (s : State) (form : Memory.wf s.mem) :
    outOk (execLgSt z d a sb s) := by
  rw [execLgSt]
  refine run_keepsForm _ _ form ?_
  repeat' refine resOk_bind fun _ => ?_
  all_goals simp only [Memory.wf, resOk_ok, retire_keepsMem, issueOp_keepsMem, form]

theorem execLgLd_keepsForm (z : BitVec 3) (d a sb : BitVec 6) (s : State) (form : Memory.wf s.mem) :
    outOk (execLgLd z d a sb s) := by
  rw [execLgLd]
  refine run_keepsForm _ _ form ?_
  repeat' refine resOk_bind fun _ => ?_
  all_goals simp only [Memory.wf, resOk_ok, retire_keepsMem, issueOp_keepsMem, setCur_keepsMem, form]

theorem execRep_keepsForm (x y z : BitVec 1) (n : BitVec 6) (s : State) (form : Memory.wf s.mem) :
    outOk (execRep x y z n s) := by
  rw [execRep]
  refine run_keepsForm _ _ form ?_
  repeat' split
  all_goals simp only [Memory.wf, resOk_ok, resOk_error, setStrand_keepsMem, form]

theorem execMxLeaseBind_keepsForm (q : BitVec 2) (b sc : BitVec 6) (s : State) (form : Memory.wf s.mem) :
    outOk (execMxLeaseBind q b sc s) :=
  run_keepsForm _ _ form (by simp only [resOk_bind, Memory.wf, resOk_ok, retire_keepsMem, putWg_keepsMem, form,
    implies_true])

theorem useLease_keepsMem (s : State) : (useLease s).mem = s.mem := by
  simp only [useLease, leaseDue_keepsMem, settleLease_keepsMem, dropStale_keepsMem, putCore_keepsMem]

theorem takeLock_keepsMem (s : State) (core : Nat) (k : Lock) : (takeLock s core k).mem = s.mem := rfl

theorem issueEngine_keepsMem (s : State) (o : EngineOp) (hs : List Hull) (counted : Bool) :
    (issueEngine s o hs counted).mem = s.mem := by
  rw [issueEngine]
  split <;> rfl

theorem issueMatrix_keepsForm (s : State) (m : MatOp) (hs : List Hull) (counted : Bool) (waits parts : List Nat)
    (e : Instr) (lead : Bool) (form : Memory.wf s.mem) :
    resOk (issueMatrix s m hs counted waits parts e lead) := by
  unfold issueMatrix
  repeat' refine resOk_bind fun _ => ?_
  repeat' split
  all_goals simp only [Memory.wf, resOk_ok, issueEngine_keepsMem, takeLock_keepsMem, useLease_keepsMem,
    retire_keepsMem, form]

theorem execMxAccGet_keepsForm (g h c : BitVec 3) (d : BitVec 6) (s : State) (form : Memory.wf s.mem) :
    outOk (execMxAccGet g h c d s) := by
  refine underLease_keepsForm _ _ _ form fun t ok => resOk_bind fun _ => resOk_bind fun _ => resOk_bind fun _ =>
    resOk_bind fun _ => resOk_bind fun _ => resOk_bind fun _ => resOk_bind fun _ => ?_
  exact issueMatrix_keepsForm _ _ _ _ _ _ _ _ (by rwa [setCur_keepsMem])

theorem execMxAccLoad_keepsForm (g h c : BitVec 3) (m : BitVec 4) (s : State) (form : Memory.wf s.mem) :
    outOk (execMxAccLoad g h c m s) := underLease_keepsForm _ _ _ form fun _ ok =>
  resOk_bind fun _ => resOk_bind fun _ => resOk_bind fun _ => resOk_bind fun _ => resOk_bind fun _ =>
    issueMatrix_keepsForm _ _ _ _ _ _ _ _ ok

theorem execMxAccZero_keepsForm (g h c : BitVec 3) (s : State) (form : Memory.wf s.mem) :
    outOk (execMxAccZero g h c s) := underLease_keepsForm _ _ _ form fun _ ok =>
  resOk_bind fun _ => resOk_bind fun _ => issueMatrix_keepsForm _ _ _ _ _ _ _ _ ok

theorem countBand_keepsMem (s : State) (k i : Nat) : (countBand s k i).mem = s.mem := rfl

theorem execMxDrain_keepsForm (h c : BitVec 3) (d r : BitVec 6) (a p : BitVec 1) (q : BitVec 3) (s : State)
    (form : Memory.wf s.mem) : outOk (execMxDrain h c d r a p q s) := by
  refine underLease_keepsForm _ _ _ form fun t ok => resOk_bind fun y => resOk_bind fun d0 => resOk_bind fun at_ => ?_
  extract_lets got ints rest
  have issues (u : Unit) : resOk (rest u) := by
    refine resOk_bind fun _ => resOk_bind fun _ => resOk_fetch ok fun x u ok => ?_
    dsimp only
    refine resOk_ite (resOk_bind fun _ => ?_) (resOk_bind fun _ => ?_) <;>
      refine resOk_bind fun _ => resOk_bind fun _ => resOk_bind fun _ =>
        resOk_through (issueMatrix_keepsForm _ _ _ _ _ _ _ _ ok) fun v ok => resOk_ok.mpr ?_
    all_goals
      split
      · rwa [stampBand_keepsMem, countBand_keepsMem]
      · rwa [countBand_keepsMem, stampBand_keepsMem, countBand_keepsMem]
  clear_value rest got
  split
  · exact resOk_bind issues
  · split
    · exact resOk_bind issues
    · exact resOk_bind issues

theorem execMxMv_keepsForm (n h c : BitVec 3) (m : BitVec 4) (r o : BitVec 6) (s : State) (form : Memory.wf s.mem) :
    outOk (execMxMv n h c m r o s) := by
  rw [execMxMv]
  refine underLease_keepsForm _ _ _ form fun t ok => resOk_bind fun y => resOk_bind fun at_ => resOk_bind fun off => ?_
  extract_lets got n0 k0 rest
  have issues (u : Unit) : resOk (rest u) :=
    resOk_bind fun _ => resOk_bind fun _ => resOk_bind fun _ => resOk_fetch ok fun x u ok =>
      resOk_bind fun _ => resOk_bind fun _ => resOk_bind fun _ => issueMatrix_keepsForm _ _ _ _ _ _ _ _ ok
  clear_value rest got
  split
  · exact resOk_bind issues
  · split
    · exact resOk_bind issues
    · exact resOk_bind issues

theorem execMxMma_keepsForm (g h c : BitVec 3) (m : BitVec 4) (f : BitVec 3) (ss : BitVec 2) (b : BitVec 6)
    (z : BitVec 1)
    (s : State) (form : Memory.wf s.mem) : outOk (execMxMma g h c m f ss b z s) := by
  rw [execMxMma]
  refine underLease_keepsForm _ _ _ form fun t ok => resOk_bind fun _ => resOk_bind fun _ => resOk_bind fun _ =>
    resOk_bind fun _ => resOk_bind fun _ => ?_
  split
  · exact resOk_error.mpr trivial
  · refine resOk_bind fun _ => resOk_bind fun _ => resOk_through (issueMatrix_keepsForm _ _ _ _ _ _ _ _ ok) fun u ok => ?_
    exact resOk_ok.mpr (by rwa [countBand_keepsMem])

theorem execMxMap_keepsForm (m : BitVec 4) (r k w : BitVec 6) (s : State) (form : Memory.wf s.mem) :
    outOk (execMxMap m r k w s) := by
  refine run_keepsForm _ _ form (resOk_bind fun _ => resOk_bind fun _ => resOk_bind fun _ => resOk_bind fun _ =>
    resOk_fetch form fun x t ok => resOk_ite (resOk_error.mpr trivial) (resOk_bind fun _ => resOk_ok.mpr ?_))
  rwa [retire_keepsMem, putWg_keepsMem]

theorem execShpGet_keepsForm (g h : BitVec 3) (d sel : BitVec 6) (s : State) (form : Memory.wf s.mem) :
    outOk (execShpGet g h d sel s) := by
  refine run_keepsForm _ _ form (resOk_bind fun _ => guarded_keepsForm _ _ _ form (resOk_ite ?_ ?_))
  · exact resOk_bind fun _ => resOk_ok.mpr (by rwa [retire_keepsMem, wrS_keepsMem])
  · exact resOk_bind fun _ => resOk_bind fun _ => resOk_ok.mpr (by rwa [retire_keepsMem, wrS_keepsMem])

theorem execShpSet_keepsForm (g h : BitVec 3) (d a b : BitVec 6) (s : State) (form : Memory.wf s.mem) :
    outOk (execShpSet g h d a b s) := by
  refine run_keepsForm _ _ form (guarded_keepsForm _ _ _ form (resOk_bind fun _ => resOk_bind fun _ =>
    resOk_bind fun _ => resOk_bind fun _ => ?_))
  simp only [Memory.wf, resOk_ok, retire_keepsMem, setCur_keepsMem, form]

theorem closeBand_keepsForm (s : State) (form : Memory.wf s.mem) : resOk (closeBand s) := by
  unfold closeBand
  dsimp only
  repeat' split
  all_goals simp only [resOk_bind, Memory.wf, resOk_ok, putWg_keepsMem, issueEngine_keepsMem, later_keepsMem, form,
    implies_true]

theorem execTBandClose_keepsForm (g : BitVec 3) (s : State) (form : Memory.wf s.mem) :
    outOk (execTBandClose g s) := by
  refine run_keepsForm _ _ form (guarded_keepsForm _ _ _ form (resOk_bind fun _ =>
    resOk_through (closeBand_keepsForm _ form) fun t ok => resOk_ok.mpr ?_))
  rwa [retire_keepsMem]

theorem execTBandOpen_keepsForm (g : BitVec 3) (s : State) (form : Memory.wf s.mem) :
    outOk (execTBandOpen g s) := by
  refine run_keepsForm _ _ form (guarded_keepsForm _ _ _ form (resOk_bind fun _ =>
    resOk_through (closeBand_keepsForm _ form) fun t ok => resOk_ok.mpr ?_))
  rwa [retire_keepsMem, putWg_keepsMem]

theorem execRPost_keepsForm (g q : BitVec 3) (s : State) (form : Memory.wf s.mem) : outOk (execRPost g q s) := by
  refine run_keepsForm _ _ form (guarded_keepsForm _ _ _ form (resOk_bind fun _ => resOk_bind fun _ => ?_))
  simp only [Memory.wf, resOk_ok, retire_keepsMem, postRing_keepsMem, form]

theorem closeOps_keepsMem (s : State) (wg warp : Nat) (n : BitVec 16) : (closeOps s wg warp n).mem = s.mem := rfl

theorem execCClose_keepsForm (g : BitVec 3) (d : BitVec 6) (s : State) (form : Memory.wf s.mem) :
    outOk (execCClose g d s) := by
  refine run_keepsForm _ _ form (guarded_keepsForm _ _ _ form (resOk_bind fun _ => resOk_bind fun _ => ?_))
  simp only [Memory.wf, resOk_ok, setCur_keepsMem, closeOps_keepsMem, retire_keepsMem, wrS_keepsMem, form]

theorem takeTargets_keepsMem (s : State) (wg off len : Nat) (m : BitVec 16) (core op : Nat) (x7 : List Nat) :
    (takeTargets s wg off len m core op x7).mem = s.mem := by
  induction x7 generalizing s with
  | nil => rfl
  | cons x rest ih => simp only [takeTargets, ih, takeLock_keepsMem]

theorem countCopy_keepsMem (s : State) (src dst : Span) : (countCopy s src dst).mem = s.mem := by
  unfold countCopy
  dsimp only
  repeat' split
  all_goals simp only [stampBand_keepsMem, countBand_keepsMem]

theorem execCMcast_keepsForm (g : BitVec 3) (d a b : BitVec 6) (targets : BitVec 16) (verify sparse : BitVec 1)
    (tc : BitVec 2) (s : State) (form : Memory.wf s.mem) :
    outOk (execCMcast g d a b targets verify sparse tc s) := by
  refine run_keepsForm _ _ form (resOk_ite (resOk_error.mpr trivial) (resOk_ite (resOk_bind fun _ => resOk_bind fun _ =>
    resOk_bind fun _ => resOk_bind fun _ => resOk_fetch form fun x t ok => resOk_ite (resOk_error.mpr trivial) ?_)
    (resOk_ok.mpr (by rwa [retire_keepsMem]))))
  refine resOk_bind fun _ => resOk_bind fun _ => resOk_bind fun _ => resOk_ok.mpr ?_
  rw [retire_keepsMem]
  dsimp only
  rwa [takeTargets_keepsMem, countCopy_keepsMem, issueEngine_keepsMem]

theorem execCCopy_keepsForm (g : BitVec 3) (d a b : BitVec 6) (ilov verify sparse : BitVec 1) (tc : BitVec 2)
    (s : State) (form : Memory.wf s.mem) :
    outOk (execCCopy g d a b ilov verify sparse tc s) := by
  refine run_keepsForm _ _ form (resOk_ite (resOk_bind fun _ => resOk_bind fun _ => resOk_bind fun _ =>
    resOk_bind fun _ =>
    resOk_fetch form fun x t ok => resOk_ite (resOk_error.mpr trivial) ?_) (resOk_ok.mpr (by rwa [retire_keepsMem])))
  refine resOk_bind fun _ => resOk_bind fun _ => resOk_bind fun _ => resOk_ok.mpr ?_
  rw [retire_keepsMem]
  dsimp only
  rwa [countCopy_keepsMem, issueEngine_keepsMem]

theorem execSetx_keepsForm (g : BitVec 3) (a : BitVec 6) (i : BitVec 10) (s : State) (form : Memory.wf s.mem) :
    outOk (execSetx g a i s) := by
  refine run_keepsForm _ _ form (guarded_keepsForm _ _ _ form (resOk_bind fun _ => resOk_bind fun _ => ?_))
  simp only [Memory.wf, resOk_ok, retire_keepsMem, setCur_keepsMem, form]

theorem execSmask_keepsForm (k : BitVec 3) (s : State) (form : Memory.wf s.mem) : outOk (execSmask k s) := by
  simp only [execSmask, Memory.wf, outOk_next, retire_keepsMem, setCur_keepsMem, form]

theorem forkWide_keepsMem (s : State) (arms : List Strand) (cont : Word) : (forkWide s arms cont).mem = s.mem := rfl

theorem forkSerial_keepsMem (s : State) (n : Nat) (t f : Mask) (armA armB cont : Word) (ja : Option (Nat × Nat))
    (jb : Option (Nat × Nat)) :
    (forkSerial s n t f armA armB cont ja jb).mem = s.mem := rfl

theorem chooseRecorded_keepsForm (s : State) (m : Mark) (value : Word) (form : Memory.wf s.mem) :
    Memory.wf (chooseRecorded s m value).mem := by
  simp only [chooseRecorded, Memory.wf, meetMarks_keepsMem, recordEvent_keepsForm, form]

theorem execFork_keepsForm (k : BitVec 3) (offA offC : BitVec 11) (av : BitVec 1) (ab : BitVec 6) (al : BitVec 3)
    (bv : BitVec 1) (bb : BitVec 6) (bl : BitVec 3) (s : State) (form : Memory.wf s.mem) :
    outOk (execFork k offA offC av ab al bv bb bl s) := by
  rw [execFork]
  refine run_keepsForm _ _ form ?_
  repeat' refine resOk_bind fun _ => ?_
  repeat' split
  all_goals simp only [Memory.wf, resOk_ok, resOk_error, chooseRecorded_keepsForm, forkSerial_keepsMem,
    setCur_keepsMem, forkWide_keepsMem, form]

theorem replayIssue_keepsMem (before : Ctx) (s : State) (kind : OpKind) (dst : Nat) (accs : List Access) (words : Nat) :
    (replayIssue before s kind dst accs words).mem = s.mem := by
  simp only [replayIssue, issueOp_keepsMem, hold_keepsMem, setStrand_keepsMem]

theorem issueRecorded_keepsForm (before : Ctx) (s : State) (kind : OpKind) (dst : Nat) (accs : List Access)
    (words : Nat) (form : Memory.wf s.mem) :
    resOk (issueRecorded before s kind dst accs words) := by
  unfold issueRecorded
  split <;> simp only [Memory.wf, resOk_ok, replayIssue_keepsMem, retire_keepsMem, issueOp_keepsMem, form]

theorem siblingForm_keepsForm (s : State) (kind : OpKind) (acc : Machine.Acc) (rd : Nat) (dests : List Nat)
    (ra : Nat) (lanes : List Nat) (data data2 : Nat → Nat) (form : Memory.wf s.mem) :
    resOk (siblingForm s kind acc rd dests ra lanes data data2) := by
  unfold siblingForm
  repeat' refine resOk_bind fun _ => ?_
  repeat' split
  all_goals simp only [resOk_bind, Memory.wf, issueRecorded_keepsForm, setCur_keepsMem, form, implies_true]

theorem reconcileForm_keepsForm (f : Nat) (g t : BitVec 3) (d a : BitVec 6) (e : BitVec 1) (s : State)
    (form : Memory.wf s.mem) : resOk (reconcileForm f g t d a e s) :=
  resOk_bind fun _ => resOk_bind fun _ => resOk_bind fun _ => resOk_bind fun _ => siblingForm_keepsForm _ _ _ _ _ _ _ _ _ form

theorem execMRcnPick_keepsForm (g t : BitVec 3) (d a : BitVec 6) (j : BitVec 2) (e : BitVec 1) (s : State)
    (form : Memory.wf s.mem) :
    outOk (execMRcnPick g t d a j e s) := by
  simp only [execMRcnPick, Memory.wf, run_keepsForm, reconcileForm_keepsForm, form]

theorem execMRcnOr_keepsForm (g t : BitVec 3) (d a : BitVec 6) (e : BitVec 1) (s : State) (form : Memory.wf s.mem) :
    outOk (execMRcnOr g t d a e s) := by
  simp only [execMRcnOr, Memory.wf, run_keepsForm, reconcileForm_keepsForm, form]

theorem execMRcnMin_keepsForm (g t : BitVec 3) (d a : BitVec 6) (e : BitVec 1) (s : State) (form : Memory.wf s.mem) :
    outOk (execMRcnMin g t d a e s) := by
  simp only [execMRcnMin, Memory.wf, run_keepsForm, reconcileForm_keepsForm, form]

theorem execMRcnMax_keepsForm (g t : BitVec 3) (d a : BitVec 6) (e : BitVec 1) (s : State) (form : Memory.wf s.mem) :
    outOk (execMRcnMax g t d a e s) := by
  simp only [execMRcnMax, Memory.wf, run_keepsForm, reconcileForm_keepsForm, form]

theorem execMRcnAdd_keepsForm (g t : BitVec 3) (d a : BitVec 6) (e : BitVec 1) (s : State) (form : Memory.wf s.mem) :
    outOk (execMRcnAdd g t d a e s) := by
  simp only [execMRcnAdd, Memory.wf, run_keepsForm, reconcileForm_keepsForm, form]

theorem execMStv_keepsForm (g : BitVec 3) (_t : BitVec 1) (d a b : BitVec 6) (e : BitVec 1) (s : State)
    (form : Memory.wf s.mem) :
    outOk (execMStv g _t d a b e s) := by
  refine run_keepsForm _ _ form (resOk_bind fun _ => resOk_bind fun _ => resOk_bind fun _ => resOk_bind fun _ =>
    resOk_bind fun _ => ?_)
  simp only [Memory.wf, siblingForm_keepsForm, form]

theorem execMLdv_keepsForm (g : BitVec 3) (_t : BitVec 1) (d a b : BitVec 6) (e : BitVec 1) (s : State)
    (form : Memory.wf s.mem) :
    outOk (execMLdv g _t d a b e s) := by
  refine run_keepsForm _ _ form (resOk_bind fun _ => resOk_bind fun _ => resOk_bind fun _ => resOk_bind fun _ =>
    resOk_bind fun _ => ?_)
  simp only [Memory.wf, siblingForm_keepsForm, form]

theorem setS62_keepsMem (s : State) (x : Nat) : (setS62 s x).mem = s.mem := rfl

theorem execMPop_keepsForm (g : BitVec 3) (d n : BitVec 6) (s : State) (form : Memory.wf s.mem) :
    outOk (execMPop g d n s) := by
  refine run_keepsForm _ _ form (resOk_bind fun _ => resOk_bind fun _ => resOk_bind fun _ => resOk_ite
    (resOk_error.mpr trivial) (resOk_ite (resOk_error.mpr trivial) (resOk_bind fun _ => resOk_bind fun _ =>
      resOk_ok.mpr ?_)))
  rwa [retire_keepsMem, issueOp_keepsMem, setCur_keepsMem, setS62_keepsMem]

theorem execMPush_keepsForm (g : BitVec 3) (d n : BitVec 6) (e : BitVec 1) (s : State) (form : Memory.wf s.mem) :
    outOk (execMPush g d n e s) := by
  refine run_keepsForm _ _ form (resOk_bind fun _ => resOk_bind fun _ => resOk_bind fun _ => resOk_bind fun _ =>
    resOk_ite
    (resOk_error.mpr trivial) (resOk_ite (resOk_error.mpr trivial) (resOk_bind fun _ => resOk_bind fun _ =>
      resOk_ok.mpr ?_)))
  rwa [retire_keepsMem, issueOp_keepsMem, setS62_keepsMem]

theorem execFenceTlr_keepsForm (g : BitVec 3) (s : State) (form : Memory.wf s.mem) :
    outOk (execFenceTlr g s) := by
  refine run_keepsForm _ _ form (guarded_keepsForm _ _ _ form (resOk_bind fun _ => resOk_ite (resOk_ok.mpr ?_)
    (resOk_bind fun _ => resOk_ok.mpr ?_)))
  · rwa [retire_keepsMem]
  · rwa [retire_keepsMem, putCore_keepsMem]

theorem passFence_keepsMem (s : State) (kind : Nat) : (passFence s kind).mem = s.mem := by
  unfold passFence
  dsimp only
  repeat' split
  all_goals simp only [setCur_keepsMem]

theorem holdFence_keepsForm (kind : Nat) (g sc : BitVec 3) (s : State) (form : Memory.wf s.mem) :
    resOk (holdFence kind g sc s) := by
  unfold holdFence
  repeat' refine resOk_bind fun _ => ?_
  all_goals simp only [resOk_bind, Memory.wf, resOk_ok, guarded_keepsForm, retire_keepsMem, passFence_keepsMem, form,
    implies_true]

theorem execFenceSc_keepsForm (g sc : BitVec 3) (s : State) (form : Memory.wf s.mem) : outOk (execFenceSc g sc s) := by
  simp only [execFenceSc, Memory.wf, run_keepsForm, holdFence_keepsForm, form]

theorem execFenceAcqrel_keepsForm (g sc : BitVec 3) (s : State) (form : Memory.wf s.mem) :
    outOk (execFenceAcqrel g sc s) := by
  simp only [execFenceAcqrel, Memory.wf, run_keepsForm, holdFence_keepsForm, form]

theorem openRel_keepsMem (s : State) (scope : Nat) : (openRel s scope).mem = s.mem := by
  unfold openRel
  split <;> simp only [retire_keepsMem, issueOp_keepsMem, hold_keepsMem]

theorem relFence_keepsForm (g sc : BitVec 3) (s : State) (form : Memory.wf s.mem) : resOk (relFence g sc s) := by
  refine resOk_bind fun _ => guarded_keepsForm _ _ _ form (resOk_ok.mpr ?_)
  split
  · rwa [retire_keepsMem, passFence_keepsMem]
  · rwa [openRel_keepsMem]

theorem execFenceRel_keepsForm (g sc : BitVec 3) (s : State) (form : Memory.wf s.mem) :
    outOk (execFenceRel g sc s) := by
  simp only [execFenceRel, Memory.wf, run_keepsForm, relFence_keepsForm, form]

theorem execFenceAcq_keepsForm (g sc : BitVec 3) (s : State) (form : Memory.wf s.mem) :
    outOk (execFenceAcq g sc s) := by
  simp only [execFenceAcq, Memory.wf, run_keepsForm, holdFence_keepsForm, form]

theorem leaveWait_keepsMem (s : State) : (leaveWait s).mem = s.mem := by
  unfold leaveWait
  split <;> simp only [releasePark_keepsMem]

theorem requestPark_keepsMem (s : State) (token place : Nat) : (requestPark s token place).mem = s.mem := by
  rw [requestPark]
  split <;> rfl

theorem execMWait_keepsForm (g : BitVec 3) (d a : BitVec 6) (i : BitVec 10) (s : State) (form : Memory.wf s.mem) :
    outOk (execMWait g d a i s) := by
  refine outOk_ite ?_ (outOk_next.mpr (by rwa [retire_keepsMem, leaveWait_keepsMem]))
  split
  · exact run_keepsForm _ _ form (resOk_error.mpr trivial)
  · split
    · refine outOk_ite (outOk_next.mpr (by rwa [hold_keepsMem]))
        (outOk_ite (outOk_next.mpr (waitPoison_keepsForm _ _ form))
        (outOk_ite (outOk_next.mpr (by rwa [requestPark_keepsMem])) (outOk_next.mpr (completeWait_keepsForm _ _ form))))
    · exact outOk_next.mpr (trapHere_keepsForm _ _ _ _ form)

theorem execMArrive_keepsForm (g : BitVec 3) (d a : BitVec 6) (i : BitVec 10) (s : State) (form : Memory.wf s.mem) :
    outOk (execMArrive g d a i s) := by
  refine run_keepsForm _ _ form (guarded_keepsForm _ _ _ form (resOk_bind fun _ => resOk_bind fun _ =>
    resOk_bind fun _ => resOk_bind fun _ => ?_))
  simp only [Memory.wf, issueRecorded_keepsForm, setCur_keepsMem, form]

theorem atomicForm_keepsForm (f scope : Nat) (g : BitVec 3) (z : BitVec 1) (d a sb : BitVec 6) (s : State)
    (form : Memory.wf s.mem) :
    resOk (atomicForm f scope g z d a sb s) := by
  unfold atomicForm
  repeat' refine resOk_bind fun _ => ?_
  repeat' split
  all_goals simp only [Memory.wf, issueRecorded_keepsForm, setCur_keepsMem, form]

theorem execMCas_keepsForm (g : BitVec 3) (z : BitVec 1) (d a sb : BitVec 6) (s : State) (form : Memory.wf s.mem) :
    outOk (execMCas g z d a sb s) := by
  simp only [execMCas, Memory.wf, run_keepsForm, atomicForm_keepsForm, form]

theorem execMXchg_keepsForm (g : BitVec 3) (z : BitVec 1) (d a sb : BitVec 6) (s : State) (form : Memory.wf s.mem) :
    outOk (execMXchg g z d a sb s) := by
  simp only [execMXchg, Memory.wf, run_keepsForm, atomicForm_keepsForm, form]

theorem execMAtomPXor_keepsForm (g : BitVec 3) (z : BitVec 1) (d a sb : BitVec 6) (s : State) (form : Memory.wf s.mem) :
    outOk (execMAtomPXor g z d a sb s) := by
  simp only [execMAtomPXor, Memory.wf, run_keepsForm, atomicForm_keepsForm, form]

theorem execMAtomPOr_keepsForm (g : BitVec 3) (z : BitVec 1) (d a sb : BitVec 6) (s : State) (form : Memory.wf s.mem) :
    outOk (execMAtomPOr g z d a sb s) := by
  simp only [execMAtomPOr, Memory.wf, run_keepsForm, atomicForm_keepsForm, form]

theorem execMAtomPAnd_keepsForm (g : BitVec 3) (z : BitVec 1) (d a sb : BitVec 6) (s : State) (form : Memory.wf s.mem) :
    outOk (execMAtomPAnd g z d a sb s) := by
  simp only [execMAtomPAnd, Memory.wf, run_keepsForm, atomicForm_keepsForm, form]

theorem execMAtomPMaxn_keepsForm (g : BitVec 3) (z : BitVec 1) (d a sb : BitVec 6) (s : State)
    (form : Memory.wf s.mem) :
    outOk (execMAtomPMaxn g z d a sb s) := by
  simp only [execMAtomPMaxn, Memory.wf, run_keepsForm, atomicForm_keepsForm, form]

theorem execMAtomPMinn_keepsForm (g : BitVec 3) (z : BitVec 1) (d a sb : BitVec 6) (s : State)
    (form : Memory.wf s.mem) :
    outOk (execMAtomPMinn g z d a sb s) := by
  simp only [execMAtomPMinn, Memory.wf, run_keepsForm, atomicForm_keepsForm, form]

theorem execMAtomPMax_keepsForm (g : BitVec 3) (z : BitVec 1) (d a sb : BitVec 6) (s : State) (form : Memory.wf s.mem) :
    outOk (execMAtomPMax g z d a sb s) := by
  simp only [execMAtomPMax, Memory.wf, run_keepsForm, atomicForm_keepsForm, form]

theorem execMAtomPMin_keepsForm (g : BitVec 3) (z : BitVec 1) (d a sb : BitVec 6) (s : State) (form : Memory.wf s.mem) :
    outOk (execMAtomPMin g z d a sb s) := by
  simp only [execMAtomPMin, Memory.wf, run_keepsForm, atomicForm_keepsForm, form]

theorem execMAtomPAdd_keepsForm (g : BitVec 3) (z : BitVec 1) (d a sb : BitVec 6) (s : State) (form : Memory.wf s.mem) :
    outOk (execMAtomPAdd g z d a sb s) := by
  simp only [execMAtomPAdd, Memory.wf, run_keepsForm, atomicForm_keepsForm, form]

theorem execMAtomDXor_keepsForm (g : BitVec 3) (z : BitVec 1) (d a sb : BitVec 6) (s : State) (form : Memory.wf s.mem) :
    outOk (execMAtomDXor g z d a sb s) := by
  simp only [execMAtomDXor, Memory.wf, run_keepsForm, atomicForm_keepsForm, form]

theorem execMAtomDOr_keepsForm (g : BitVec 3) (z : BitVec 1) (d a sb : BitVec 6) (s : State) (form : Memory.wf s.mem) :
    outOk (execMAtomDOr g z d a sb s) := by
  simp only [execMAtomDOr, Memory.wf, run_keepsForm, atomicForm_keepsForm, form]

theorem execMAtomDAnd_keepsForm (g : BitVec 3) (z : BitVec 1) (d a sb : BitVec 6) (s : State) (form : Memory.wf s.mem) :
    outOk (execMAtomDAnd g z d a sb s) := by
  simp only [execMAtomDAnd, Memory.wf, run_keepsForm, atomicForm_keepsForm, form]

theorem execMAtomDMaxn_keepsForm (g : BitVec 3) (z : BitVec 1) (d a sb : BitVec 6) (s : State)
    (form : Memory.wf s.mem) :
    outOk (execMAtomDMaxn g z d a sb s) := by
  simp only [execMAtomDMaxn, Memory.wf, run_keepsForm, atomicForm_keepsForm, form]

theorem execMAtomDMinn_keepsForm (g : BitVec 3) (z : BitVec 1) (d a sb : BitVec 6) (s : State)
    (form : Memory.wf s.mem) :
    outOk (execMAtomDMinn g z d a sb s) := by
  simp only [execMAtomDMinn, Memory.wf, run_keepsForm, atomicForm_keepsForm, form]

theorem execMAtomDMax_keepsForm (g : BitVec 3) (z : BitVec 1) (d a sb : BitVec 6) (s : State) (form : Memory.wf s.mem) :
    outOk (execMAtomDMax g z d a sb s) := by
  simp only [execMAtomDMax, Memory.wf, run_keepsForm, atomicForm_keepsForm, form]

theorem execMAtomDMin_keepsForm (g : BitVec 3) (z : BitVec 1) (d a sb : BitVec 6) (s : State) (form : Memory.wf s.mem) :
    outOk (execMAtomDMin g z d a sb s) := by
  simp only [execMAtomDMin, Memory.wf, run_keepsForm, atomicForm_keepsForm, form]

theorem execMAtomDAdd_keepsForm (g : BitVec 3) (z : BitVec 1) (d a sb : BitVec 6) (s : State) (form : Memory.wf s.mem) :
    outOk (execMAtomDAdd g z d a sb s) := by
  simp only [execMAtomDAdd, Memory.wf, run_keepsForm, atomicForm_keepsForm, form]

theorem execMAtomWXor_keepsForm (g : BitVec 3) (z : BitVec 1) (d a sb : BitVec 6) (s : State) (form : Memory.wf s.mem) :
    outOk (execMAtomWXor g z d a sb s) := by
  simp only [execMAtomWXor, Memory.wf, run_keepsForm, atomicForm_keepsForm, form]

theorem execMAtomWOr_keepsForm (g : BitVec 3) (z : BitVec 1) (d a sb : BitVec 6) (s : State) (form : Memory.wf s.mem) :
    outOk (execMAtomWOr g z d a sb s) := by
  simp only [execMAtomWOr, Memory.wf, run_keepsForm, atomicForm_keepsForm, form]

theorem execMAtomWAnd_keepsForm (g : BitVec 3) (z : BitVec 1) (d a sb : BitVec 6) (s : State) (form : Memory.wf s.mem) :
    outOk (execMAtomWAnd g z d a sb s) := by
  simp only [execMAtomWAnd, Memory.wf, run_keepsForm, atomicForm_keepsForm, form]

theorem execMAtomWMaxn_keepsForm (g : BitVec 3) (z : BitVec 1) (d a sb : BitVec 6) (s : State)
    (form : Memory.wf s.mem) :
    outOk (execMAtomWMaxn g z d a sb s) := by
  simp only [execMAtomWMaxn, Memory.wf, run_keepsForm, atomicForm_keepsForm, form]

theorem execMAtomWMinn_keepsForm (g : BitVec 3) (z : BitVec 1) (d a sb : BitVec 6) (s : State)
    (form : Memory.wf s.mem) :
    outOk (execMAtomWMinn g z d a sb s) := by
  simp only [execMAtomWMinn, Memory.wf, run_keepsForm, atomicForm_keepsForm, form]

theorem execMAtomWMax_keepsForm (g : BitVec 3) (z : BitVec 1) (d a sb : BitVec 6) (s : State) (form : Memory.wf s.mem) :
    outOk (execMAtomWMax g z d a sb s) := by
  simp only [execMAtomWMax, Memory.wf, run_keepsForm, atomicForm_keepsForm, form]

theorem execMAtomWMin_keepsForm (g : BitVec 3) (z : BitVec 1) (d a sb : BitVec 6) (s : State) (form : Memory.wf s.mem) :
    outOk (execMAtomWMin g z d a sb s) := by
  simp only [execMAtomWMin, Memory.wf, run_keepsForm, atomicForm_keepsForm, form]

theorem execMAtomWAdd_keepsForm (g : BitVec 3) (z : BitVec 1) (d a sb : BitVec 6) (s : State) (form : Memory.wf s.mem) :
    outOk (execMAtomWAdd g z d a sb s) := by
  simp only [execMAtomWAdd, Memory.wf, run_keepsForm, atomicForm_keepsForm, form]

theorem issueLoadStore_keepsForm (before : Ctx) (s : State) (kind : OpKind) (dst : Nat) (accs : List Access)
    (form : Memory.wf s.mem) :
    resOk (issueLoadStore before s kind dst accs) := by
  unfold issueLoadStore
  split <;> simp only [Memory.wf, resOk_ok, issueRecorded_keepsForm, retire_keepsMem, issueOp_keepsMem, form]

theorem execMLds_keepsForm (g z : BitVec 3) (d sb : BitVec 6) (s : State) (form : Memory.wf s.mem) :
    outOk (execMLds g z d sb s) := by
  refine run_keepsForm _ _ form (resOk_bind fun _ => resOk_bind fun _ => resOk_bind fun _ => resOk_ite (resOk_ok.mpr ?_)
    (resOk_bind fun _ => resOk_bind fun _ => ?_))
  · rwa [retire_keepsMem]
  · exact issueLoadStore_keepsForm _ _ _ _ _ (by rwa [setCur_keepsMem])

theorem execMSt_keepsForm (g z : BitVec 3) (d a sb : BitVec 6) (e : BitVec 1) (s : State) (form : Memory.wf s.mem) :
    outOk (execMSt g z d a sb e s) := by
  rw [execMSt]
  refine run_keepsForm _ _ form ?_
  repeat' refine resOk_bind fun _ => ?_
  repeat' split
  all_goals simp only [Memory.wf, issueLoadStore_keepsForm, form]

theorem execMLd_keepsForm (g z : BitVec 3) (d a sb : BitVec 6) (e : BitVec 1) (s : State) (form : Memory.wf s.mem) :
    outOk (execMLd g z d a sb e s) := by
  rw [execMLd]
  refine run_keepsForm _ _ form ?_
  repeat' refine resOk_bind fun _ => ?_
  repeat' split
  all_goals simp only [Memory.wf, issueLoadStore_keepsForm, setCur_keepsMem, form]

theorem execKTestAll_keepsForm (g p k : BitVec 3) (s : State) (form : Memory.wf s.mem) :
    outOk (execKTestAll g p k s) :=
  run_keepsForm _ _ form (by simp only [Memory.wf, resOk_ok, guarded_keepsForm, retire_keepsMem, wrP_keepsMem, form])

theorem execKTestAny_keepsForm (g p k : BitVec 3) (s : State) (form : Memory.wf s.mem) :
    outOk (execKTestAny g p k s) :=
  run_keepsForm _ _ form (by simp only [Memory.wf, resOk_ok, guarded_keepsForm, retire_keepsMem, wrP_keepsMem, form])

theorem execXSeunpk_keepsForm (g t : BitVec 3) (d a : BitVec 6) (f ss : BitVec 2) (e : BitVec 1) (s : State)
    (form : Memory.wf s.mem) :
    outOk (execXSeunpk g t d a f ss e s) := by
  rw [execXSeunpk]
  refine run_keepsForm _ _ form ?_
  repeat' refine resOk_bind fun _ => ?_
  all_goals simp only [Memory.wf, resOk_ok, retire_keepsMem, setCur_keepsMem, form]

theorem execXSepk_keepsForm (g t : BitVec 3) (d a : BitVec 6) (f ss : BitVec 2) (e : BitVec 1) (s : State)
    (form : Memory.wf s.mem) :
    outOk (execXSepk g t d a f ss e s) := by
  rw [execXSepk]
  refine run_keepsForm _ _ form ?_
  repeat' refine resOk_bind fun _ => ?_
  all_goals simp only [Memory.wf, resOk_ok, retire_keepsMem, setCur_keepsMem, form]

theorem execBsCurSet_keepsForm (g : BitVec 3) (a : BitVec 6) (e : BitVec 1) (s : State) (form : Memory.wf s.mem) :
    outOk (execBsCurSet g a e s) :=
  run_keepsForm _ _ form (by simp only [resOk_bind, Memory.wf, resOk_ok, retire_keepsMem, setCur_keepsMem, form,
    implies_true])

theorem execBsCurGet_keepsForm (g : BitVec 3) (d : BitVec 6) (s : State) (form : Memory.wf s.mem) :
    outOk (execBsCurGet g d s) :=
  run_keepsForm _ _ form (by simp only [resOk_bind, Memory.wf, shortForm_keepsForm, form, implies_true])

theorem execBsFill_keepsForm (g : BitVec 3) (d a b : BitVec 6) (e : BitVec 1) (s : State) (form : Memory.wf s.mem) :
    outOk (execBsFill g d a b e s) := by
  rw [execBsFill]
  refine run_keepsForm _ _ form ?_
  repeat' refine resOk_bind fun _ => ?_
  all_goals simp only [Memory.wf, resOk_ok, retire_keepsMem, setCur_keepsMem, form]

theorem execBsRd_keepsForm (g : BitVec 3) (t : BitVec 1) (d a n : BitVec 6) (e : BitVec 1) (s : State)
    (form : Memory.wf s.mem) :
    outOk (execBsRd g t d a n e s) := by
  rw [execBsRd]
  refine run_keepsForm _ _ form ?_
  repeat' refine resOk_bind fun _ => ?_
  repeat' split
  all_goals simp only [Memory.wf, resOk_ok, retire_keepsMem, setCur_keepsMem, form]

theorem execKOpPopc_keepsForm (g : BitVec 3) (d : BitVec 6) (a : BitVec 3) (s : State) (form : Memory.wf s.mem) :
    outOk (execKOpPopc g d a s) :=
  run_keepsForm _ _ form (by simp only [resOk_bind, Memory.wf, resOk_ok, guarded_keepsForm, retire_keepsMem,
    wrS_keepsMem, form, implies_true])

theorem execKOpTo_keepsForm (g : BitVec 3) (d : BitVec 6) (a : BitVec 3) (s : State) (form : Memory.wf s.mem) :
    outOk (execKOpTo g d a s) :=
  run_keepsForm _ _ form (by simp only [resOk_bind, Memory.wf, resOk_ok, guarded_keepsForm, retire_keepsMem,
    wrS_keepsMem, form, implies_true])

theorem execKOpFrom_keepsForm (g d : BitVec 3) (a : BitVec 6) (s : State) (form : Memory.wf s.mem) :
    outOk (execKOpFrom g d a s) :=
  run_keepsForm _ _ form (by simp only [resOk_bind, Memory.wf, resOk_ok, guarded_keepsForm, retire_keepsMem,
    setCur_keepsMem, form, implies_true])

theorem maskOp_keepsForm (f : Mask → Mask → Mask) (g d a b : BitVec 3) (s : State) (form : Memory.wf s.mem) :
    resOk (maskOp f g d a b s) := by
  simp only [maskOp, Memory.wf, resOk_ok, guarded_keepsForm, retire_keepsMem, setCur_keepsMem, form]

theorem execKOpMov_keepsForm (g d a : BitVec 3) (s : State) (form : Memory.wf s.mem) : outOk (execKOpMov g d a s) := by
  simp only [execKOpMov, Memory.wf, run_keepsForm, maskOp_keepsForm, form]

theorem execKOpNot_keepsForm (g d a : BitVec 3) (s : State) (form : Memory.wf s.mem) : outOk (execKOpNot g d a s) := by
  simp only [execKOpNot, Memory.wf, run_keepsForm, maskOp_keepsForm, form]

theorem execKOpAndn_keepsForm (g d a b : BitVec 3) (s : State) (form : Memory.wf s.mem) :
    outOk (execKOpAndn g d a b s) := by
  simp only [execKOpAndn, Memory.wf, run_keepsForm, maskOp_keepsForm, form]

theorem execKOpXor_keepsForm (g d a b : BitVec 3) (s : State) (form : Memory.wf s.mem) :
    outOk (execKOpXor g d a b s) := by
  simp only [execKOpXor, Memory.wf, run_keepsForm, maskOp_keepsForm, form]

theorem execKOpOr_keepsForm (g d a b : BitVec 3) (s : State) (form : Memory.wf s.mem) :
    outOk (execKOpOr g d a b s) := by
  simp only [execKOpOr, Memory.wf, run_keepsForm, maskOp_keepsForm, form]

theorem execKOpAnd_keepsForm (g d a b : BitVec 3) (s : State) (form : Memory.wf s.mem) :
    outOk (execKOpAnd g d a b s) := by
  simp only [execKOpAnd, Memory.wf, run_keepsForm, maskOp_keepsForm, form]

theorem execXBallot_keepsForm (g t k : BitVec 3) (a : BitVec 6) (e : BitVec 1) (s : State) (form : Memory.wf s.mem) :
    outOk (execXBallot g t k a e s) :=
  run_keepsForm _ _ form (by simp only [resOk_bind, Memory.wf, resOk_ok, retire_keepsMem, setCur_keepsMem, form,
    implies_true])

theorem crossForm_keepsForm (s : State) (g : BitVec 3) (fe : BitVec 1) (d : Nat) (srcs : List Nat)
    (f : Ctx → List Nat → List (Nat × Word × BitVec 6)) (form : Memory.wf s.mem) :
    resOk (crossForm s g fe d srcs f) := by
  rw [crossForm]
  simp only [resOk_bind, Memory.wf, resOk_ok, retire_keepsMem, setCur_keepsMem, form, implies_true]

theorem scanForm_keepsForm (k : Fold) (g t : BitVec 3) (d a : BitVec 6) (excl e : BitVec 1) (s : State)
    (form : Memory.wf s.mem) : resOk (scanForm k g t d a excl e s) :=
  resOk_bind fun _ => resOk_bind fun _ => crossForm_keepsForm _ _ _ _ _ _ form

theorem execXScanXor_keepsForm (g t : BitVec 3) (d a : BitVec 6) (x e : BitVec 1) (s : State) (form : Memory.wf s.mem) :
    outOk (execXScanXor g t d a x e s) := by
  simp only [execXScanXor, Memory.wf, run_keepsForm, scanForm_keepsForm, form]

theorem execXScanOr_keepsForm (g t : BitVec 3) (d a : BitVec 6) (x e : BitVec 1) (s : State) (form : Memory.wf s.mem) :
    outOk (execXScanOr g t d a x e s) := by
  simp only [execXScanOr, Memory.wf, run_keepsForm, scanForm_keepsForm, form]

theorem execXScanAnd_keepsForm (g t : BitVec 3) (d a : BitVec 6) (x e : BitVec 1) (s : State) (form : Memory.wf s.mem) :
    outOk (execXScanAnd g t d a x e s) := by
  simp only [execXScanAnd, Memory.wf, run_keepsForm, scanForm_keepsForm, form]

theorem execXScanMax_keepsForm (g t : BitVec 3) (d a : BitVec 6) (x e : BitVec 1) (s : State) (form : Memory.wf s.mem) :
    outOk (execXScanMax g t d a x e s) := by
  simp only [execXScanMax, Memory.wf, run_keepsForm, scanForm_keepsForm, form]

theorem execXScanMin_keepsForm (g t : BitVec 3) (d a : BitVec 6) (x e : BitVec 1) (s : State) (form : Memory.wf s.mem) :
    outOk (execXScanMin g t d a x e s) := by
  simp only [execXScanMin, Memory.wf, run_keepsForm, scanForm_keepsForm, form]

theorem execXScanAdd_keepsForm (g t : BitVec 3) (d a : BitVec 6) (x e : BitVec 1) (s : State) (form : Memory.wf s.mem) :
    outOk (execXScanAdd g t d a x e s) := by
  simp only [execXScanAdd, Memory.wf, run_keepsForm, scanForm_keepsForm, form]

theorem reduceForm_keepsForm (k : Fold) (g t : BitVec 3) (d a : BitVec 6) (e : BitVec 1) (s : State)
    (form : Memory.wf s.mem) : resOk (reduceForm k g t d a e s) :=
  resOk_bind fun _ => resOk_bind fun _ => crossForm_keepsForm _ _ _ _ _ _ form

theorem execXRedXor_keepsForm (g t : BitVec 3) (d a : BitVec 6) (e : BitVec 1) (s : State) (form : Memory.wf s.mem) :
    outOk (execXRedXor g t d a e s) := by
  simp only [execXRedXor, Memory.wf, run_keepsForm, reduceForm_keepsForm, form]

theorem execXRedOr_keepsForm (g t : BitVec 3) (d a : BitVec 6) (e : BitVec 1) (s : State) (form : Memory.wf s.mem) :
    outOk (execXRedOr g t d a e s) := by
  simp only [execXRedOr, Memory.wf, run_keepsForm, reduceForm_keepsForm, form]

theorem execXRedAnd_keepsForm (g t : BitVec 3) (d a : BitVec 6) (e : BitVec 1) (s : State) (form : Memory.wf s.mem) :
    outOk (execXRedAnd g t d a e s) := by
  simp only [execXRedAnd, Memory.wf, run_keepsForm, reduceForm_keepsForm, form]

theorem execXRedMax_keepsForm (g t : BitVec 3) (d a : BitVec 6) (e : BitVec 1) (s : State) (form : Memory.wf s.mem) :
    outOk (execXRedMax g t d a e s) := by
  simp only [execXRedMax, Memory.wf, run_keepsForm, reduceForm_keepsForm, form]

theorem execXRedMin_keepsForm (g t : BitVec 3) (d a : BitVec 6) (e : BitVec 1) (s : State) (form : Memory.wf s.mem) :
    outOk (execXRedMin g t d a e s) := by
  simp only [execXRedMin, Memory.wf, run_keepsForm, reduceForm_keepsForm, form]

theorem execXRedAdd_keepsForm (g t : BitVec 3) (d a : BitVec 6) (e : BitVec 1) (s : State) (form : Memory.wf s.mem) :
    outOk (execXRedAdd g t d a e s) := by
  simp only [execXRedAdd, Memory.wf, run_keepsForm, reduceForm_keepsForm, form]

theorem execXBcast_keepsForm (g _t : BitVec 3) (d a n : BitVec 6) (e : BitVec 1) (s : State) (form : Memory.wf s.mem) :
    outOk (execXBcast g _t d a n e s) := by
  refine run_keepsForm _ _ form (resOk_bind fun _ => resOk_bind fun _ => ?_)
  simp only [Memory.wf, shortForm_keepsForm, form]

theorem moveForm_keepsForm (m : Move) (g : BitVec 3) (d a : BitVec 6) (dist : BitVec 5) (s : State)
    (form : Memory.wf s.mem) : resOk (moveForm m g d a dist s) :=
  resOk_bind fun _ => resOk_bind fun _ => shortForm_keepsForm _ _ _ _ _ _ form

theorem execXShfliRot_keepsForm (g : BitVec 3) (d a : BitVec 6) (dist : BitVec 5) (s : State) (form : Memory.wf s.mem) :
    outOk (execXShfliRot g d a dist s) := by
  simp only [execXShfliRot, Memory.wf, run_keepsForm, moveForm_keepsForm, form]

theorem execXShfliDown_keepsForm (g : BitVec 3) (d a : BitVec 6) (dist : BitVec 5) (s : State)
    (form : Memory.wf s.mem) :
    outOk (execXShfliDown g d a dist s) := by
  simp only [execXShfliDown, Memory.wf, run_keepsForm, moveForm_keepsForm, form]

theorem execXShfliUp_keepsForm (g : BitVec 3) (d a : BitVec 6) (dist : BitVec 5) (s : State) (form : Memory.wf s.mem) :
    outOk (execXShfliUp g d a dist s) := by
  simp only [execXShfliUp, Memory.wf, run_keepsForm, moveForm_keepsForm, form]

theorem execXShfliXor_keepsForm (g : BitVec 3) (d a : BitVec 6) (dist : BitVec 5) (s : State) (form : Memory.wf s.mem) :
    outOk (execXShfliXor g d a dist s) := by
  simp only [execXShfliXor, Memory.wf, run_keepsForm, moveForm_keepsForm, form]

theorem execXShfl_keepsForm (g t : BitVec 3) (d a b : BitVec 6) (e : BitVec 1) (s : State) (form : Memory.wf s.mem) :
    outOk (execXShfl g t d a b e s) := by
  refine run_keepsForm _ _ form (resOk_bind fun _ => resOk_bind fun _ => resOk_bind fun _ => ?_)
  simp only [Memory.wf, shortForm_keepsForm, form]

theorem ternaryForm_keepsForm (f : Word → Word → Word → Word × BitVec 6) (g : BitVec 3) (d a b : BitVec 6)
    (e : BitVec 1)
    (s : State) (form : Memory.wf s.mem) : resOk (ternaryForm f g d a b e s) :=
  resOk_bind fun _ => resOk_bind fun _ => resOk_bind fun _ => shortForm_keepsForm _ _ _ _ _ _ form

theorem execVDot_keepsForm (g t : BitVec 3) (d a b : BitVec 6) (e : BitVec 1) (s : State) (form : Memory.wf s.mem) :
    outOk (execVDot g t d a b e s) :=
  run_keepsForm _ _ form (by simp only [resOk_bind, Memory.wf, ternaryForm_keepsForm, form, implies_true])

theorem execVPack_keepsForm (g t : BitVec 3) (d a b : BitVec 6) (e : BitVec 1) (s : State) (form : Memory.wf s.mem) :
    outOk (execVPack g t d a b e s) := by
  refine run_keepsForm _ _ form (resOk_bind fun _ => resOk_bind fun _ => resOk_bind fun _ => resOk_bind fun _ => ?_)
  simp only [Memory.wf, shortForm_keepsForm, form]

theorem longForm_keepsForm (s : State) (g : BitVec 3) (fe : BitVec 1) (d : Nat) (srcs : List Nat) (f : LaneFn)
    (form : Memory.wf s.mem) :
    resOk (longForm s g fe d srcs f) := by
  unfold longForm
  repeat' refine resOk_bind fun _ => ?_
  repeat' split
  all_goals simp only [Memory.wf, resOk_ok, retire_keepsMem, issueOp_keepsMem, setCur_keepsMem, form]

theorem arithForm_keepsForm (op : Arith) (long : Bool) (g t : BitVec 3) (d a b : BitVec 6) (e : BitVec 1) (s : State)
    (form : Memory.wf s.mem) :
    resOk (arithForm op long g t d a b e s) := by
  unfold arithForm
  repeat' refine resOk_bind fun _ => ?_
  repeat' split
  all_goals simp only [Memory.wf, longForm_keepsForm, shortForm_keepsForm, form]

theorem execVMulhi_keepsForm (g t : BitVec 3) (d a b : BitVec 6) (e : BitVec 1) (s : State) (form : Memory.wf s.mem) :
    outOk (execVMulhi g t d a b e s) := by
  simp only [execVMulhi, Memory.wf, run_keepsForm, arithForm_keepsForm, form]

theorem execActLd_keepsForm (g : BitVec 3) (n : BitVec 2) (a b : BitVec 6) (e : BitVec 1) (s : State)
    (form : Memory.wf s.mem) :
    outOk (execActLd g n a b e s) := by
  rw [execActLd]
  refine run_keepsForm _ _ form ?_
  repeat' refine resOk_bind fun _ => ?_
  all_goals simp only [Memory.wf, resOk_ok, putCore_keepsMem, retire_keepsMem, form]

theorem execVAct_keepsForm (g t : BitVec 3) (d a : BitVec 6) (n : BitVec 2) (e : BitVec 1) (s : State)
    (form : Memory.wf s.mem) :
    outOk (execVAct g t d a n e s) := by
  refine run_keepsForm _ _ form (resOk_bind fun _ => resOk_bind fun _ => resOk_bind fun _ => resOk_bind fun _ => ?_)
  simp only [Memory.wf, shortForm_keepsForm, form]

theorem sfuForm_keepsForm (k : Sfu) (g t : BitVec 3) (d a : BitVec 6) (e : BitVec 1) (s : State)
    (form : Memory.wf s.mem) : resOk (sfuForm k g t d a e s) :=
  resOk_bind fun _ => resOk_bind fun _ => resOk_bind fun _ => longForm_keepsForm _ _ _ _ _ _ form

theorem execVSfuCospi_keepsForm (g t : BitVec 3) (d a : BitVec 6) (e : BitVec 1) (s : State) (form : Memory.wf s.mem) :
    outOk (execVSfuCospi g t d a e s) := by
  simp only [execVSfuCospi, Memory.wf, run_keepsForm, sfuForm_keepsForm, form]

theorem execVSfuSinpi_keepsForm (g t : BitVec 3) (d a : BitVec 6) (e : BitVec 1) (s : State) (form : Memory.wf s.mem) :
    outOk (execVSfuSinpi g t d a e s) := by
  simp only [execVSfuSinpi, Memory.wf, run_keepsForm, sfuForm_keepsForm, form]

theorem execVSfuRsqrt_keepsForm (g t : BitVec 3) (d a : BitVec 6) (e : BitVec 1) (s : State) (form : Memory.wf s.mem) :
    outOk (execVSfuRsqrt g t d a e s) := by
  simp only [execVSfuRsqrt, Memory.wf, run_keepsForm, sfuForm_keepsForm, form]

theorem execVSfuRcp_keepsForm (g t : BitVec 3) (d a : BitVec 6) (e : BitVec 1) (s : State) (form : Memory.wf s.mem) :
    outOk (execVSfuRcp g t d a e s) := by
  simp only [execVSfuRcp, Memory.wf, run_keepsForm, sfuForm_keepsForm, form]

theorem execVSfuLoge_keepsForm (g t : BitVec 3) (d a : BitVec 6) (e : BitVec 1) (s : State) (form : Memory.wf s.mem) :
    outOk (execVSfuLoge g t d a e s) := by
  simp only [execVSfuLoge, Memory.wf, run_keepsForm, sfuForm_keepsForm, form]

theorem execVSfuLog2_keepsForm (g t : BitVec 3) (d a : BitVec 6) (e : BitVec 1) (s : State) (form : Memory.wf s.mem) :
    outOk (execVSfuLog2 g t d a e s) := by
  simp only [execVSfuLog2, Memory.wf, run_keepsForm, sfuForm_keepsForm, form]

theorem execVSfuExpe_keepsForm (g t : BitVec 3) (d a : BitVec 6) (e : BitVec 1) (s : State) (form : Memory.wf s.mem) :
    outOk (execVSfuExpe g t d a e s) := by
  simp only [execVSfuExpe, Memory.wf, run_keepsForm, sfuForm_keepsForm, form]

theorem execVSfuExp2_keepsForm (g t : BitVec 3) (d a : BitVec 6) (e : BitVec 1) (s : State) (form : Memory.wf s.mem) :
    outOk (execVSfuExp2 g t d a e s) := by
  simp only [execVSfuExp2, Memory.wf, run_keepsForm, sfuForm_keepsForm, form]

theorem execVBcs_keepsForm (g t : BitVec 3) (d a : BitVec 6) (s : State) (form : Memory.wf s.mem) :
    outOk (execVBcs g t d a s) := by
  refine run_keepsForm _ _ form (resOk_bind fun _ => resOk_bind fun _ => ?_)
  simp only [Memory.wf, sourceless_keepsForm, form]

theorem execVMovi_keepsForm (g t : BitVec 3) (d : BitVec 6) (i : BitVec 13) (s : State) (form : Memory.wf s.mem) :
    outOk (execVMovi g t d i s) := by
  simp only [execVMovi, Memory.wf, run_keepsForm, sourceless_keepsForm, form]

theorem unaryForm_keepsForm (known : Bool) (f : Word → Word × BitVec 6) (g : BitVec 3) (d a : BitVec 6) (e : BitVec 1)
    (s : State) (form : Memory.wf s.mem) : resOk (unaryForm known f g d a e s) :=
  resOk_bind fun _ => resOk_bind fun _ => resOk_bind fun _ => shortForm_keepsForm _ _ _ _ _ _ form

theorem execVMov_keepsForm (g _t : BitVec 3) (d a : BitVec 6) (e : BitVec 1) (s : State) (form : Memory.wf s.mem) :
    outOk (execVMov g _t d a e s) := by
  simp only [execVMov, Memory.wf, run_keepsForm, unaryForm_keepsForm, form]

theorem execVCvt_keepsForm (g t : BitVec 3) (d a : BitVec 6) (m : BitVec 2) (ts : BitVec 3) (e : BitVec 1)
    (s : State) (form : Memory.wf s.mem) :
    outOk (execVCvt g t d a m ts e s) := by
  simp only [execVCvt, Memory.wf, run_keepsForm, unaryForm_keepsForm, form]

theorem execVBsel_keepsForm (g _t : BitVec 3) (d a b : BitVec 6) (e : BitVec 1) (s : State) (form : Memory.wf s.mem) :
    outOk (execVBsel g _t d a b e s) := by
  simp only [execVBsel, Memory.wf, run_keepsForm, ternaryForm_keepsForm, form]

theorem execVCmpsLe_keepsForm (g t : BitVec 3) (d a b : BitVec 6) (e : BitVec 1) (s : State) (form : Memory.wf s.mem) :
    outOk (execVCmpsLe g t d a b e s) := by
  refine run_keepsForm _ _ form (resOk_bind fun _ => resOk_bind fun _ => resOk_bind fun _ => ?_)
  simp only [Memory.wf, shortForm_keepsForm, form]

theorem execVCmpsLt_keepsForm (g t : BitVec 3) (d a b : BitVec 6) (e : BitVec 1) (s : State) (form : Memory.wf s.mem) :
    outOk (execVCmpsLt g t d a b e s) := by
  refine run_keepsForm _ _ form (resOk_bind fun _ => resOk_bind fun _ => resOk_bind fun _ => ?_)
  simp only [Memory.wf, shortForm_keepsForm, form]

theorem execVCmpsEq_keepsForm (g t : BitVec 3) (d a b : BitVec 6) (e : BitVec 1) (s : State) (form : Memory.wf s.mem) :
    outOk (execVCmpsEq g t d a b e s) := by
  refine run_keepsForm _ _ form (resOk_bind fun _ => resOk_bind fun _ => resOk_bind fun _ => ?_)
  simp only [Memory.wf, shortForm_keepsForm, form]

theorem compareForm_keepsForm (k : Nat) (g t kd : BitVec 3) (a b : BitVec 6) (e : BitVec 1) (s : State)
    (form : Memory.wf s.mem) :
    resOk (compareForm k g t kd a b e s) := by
  unfold compareForm
  repeat' refine resOk_bind fun _ => ?_
  all_goals simp only [Memory.wf, resOk_ok, retire_keepsMem, setCur_keepsMem, form]

theorem execVCmpGe_keepsForm (g t k : BitVec 3) (a b : BitVec 6) (e : BitVec 1) (s : State) (form : Memory.wf s.mem) :
    outOk (execVCmpGe g t k a b e s) := by
  simp only [execVCmpGe, Memory.wf, run_keepsForm, compareForm_keepsForm, form]

theorem execVCmpGt_keepsForm (g t k : BitVec 3) (a b : BitVec 6) (e : BitVec 1) (s : State) (form : Memory.wf s.mem) :
    outOk (execVCmpGt g t k a b e s) := by
  simp only [execVCmpGt, Memory.wf, run_keepsForm, compareForm_keepsForm, form]

theorem execVCmpLe_keepsForm (g t k : BitVec 3) (a b : BitVec 6) (e : BitVec 1) (s : State) (form : Memory.wf s.mem) :
    outOk (execVCmpLe g t k a b e s) := by
  simp only [execVCmpLe, Memory.wf, run_keepsForm, compareForm_keepsForm, form]

theorem execVCmpLt_keepsForm (g t k : BitVec 3) (a b : BitVec 6) (e : BitVec 1) (s : State) (form : Memory.wf s.mem) :
    outOk (execVCmpLt g t k a b e s) := by
  simp only [execVCmpLt, Memory.wf, run_keepsForm, compareForm_keepsForm, form]

theorem execVCmpNe_keepsForm (g t k : BitVec 3) (a b : BitVec 6) (e : BitVec 1) (s : State) (form : Memory.wf s.mem) :
    outOk (execVCmpNe g t k a b e s) := by
  simp only [execVCmpNe, Memory.wf, run_keepsForm, compareForm_keepsForm, form]

theorem execVCmpEq_keepsForm (g t k : BitVec 3) (a b : BitVec 6) (e : BitVec 1) (s : State) (form : Memory.wf s.mem) :
    outOk (execVCmpEq g t k a b e s) := by
  simp only [execVCmpEq, Memory.wf, run_keepsForm, compareForm_keepsForm, form]

theorem execVUnRint_keepsForm (g t : BitVec 3) (d a : BitVec 6) (m : BitVec 2) (e : BitVec 1) (s : State)
    (form : Memory.wf s.mem) :
    outOk (execVUnRint g t d a m e s) := by
  simp only [execVUnRint, Memory.wf, run_keepsForm, unaryForm_keepsForm, form]

theorem execVUnBrev_keepsForm (g t : BitVec 3) (d a : BitVec 6) (e : BitVec 1) (s : State) (form : Memory.wf s.mem) :
    outOk (execVUnBrev g t d a e s) := by
  simp only [execVUnBrev, Memory.wf, run_keepsForm, unaryForm_keepsForm, form]

theorem execVUnCtz_keepsForm (g t : BitVec 3) (d a : BitVec 6) (e : BitVec 1) (s : State) (form : Memory.wf s.mem) :
    outOk (execVUnCtz g t d a e s) := by
  simp only [execVUnCtz, Memory.wf, run_keepsForm, unaryForm_keepsForm, form]

theorem execVUnClz_keepsForm (g t : BitVec 3) (d a : BitVec 6) (e : BitVec 1) (s : State) (form : Memory.wf s.mem) :
    outOk (execVUnClz g t d a e s) := by
  simp only [execVUnClz, Memory.wf, run_keepsForm, unaryForm_keepsForm, form]

theorem execVUnPopc_keepsForm (g t : BitVec 3) (d a : BitVec 6) (e : BitVec 1) (s : State) (form : Memory.wf s.mem) :
    outOk (execVUnPopc g t d a e s) := by
  simp only [execVUnPopc, Memory.wf, run_keepsForm, unaryForm_keepsForm, form]

theorem execVUnNot_keepsForm (g t : BitVec 3) (d a : BitVec 6) (e : BitVec 1) (s : State) (form : Memory.wf s.mem) :
    outOk (execVUnNot g t d a e s) := by
  simp only [execVUnNot, Memory.wf, run_keepsForm, unaryForm_keepsForm, form]

theorem execVUnNeg_keepsForm (g t : BitVec 3) (d a : BitVec 6) (e : BitVec 1) (s : State) (form : Memory.wf s.mem) :
    outOk (execVUnNeg g t d a e s) := by
  simp only [execVUnNeg, Memory.wf, run_keepsForm, unaryForm_keepsForm, form]

theorem execVUnAbs_keepsForm (g t : BitVec 3) (d a : BitVec 6) (e : BitVec 1) (s : State) (form : Memory.wf s.mem) :
    outOk (execVUnAbs g t d a e s) := by
  simp only [execVUnAbs, Memory.wf, run_keepsForm, unaryForm_keepsForm, form]

theorem execVShr_keepsForm (g t : BitVec 3) (d a b : BitVec 6) (e : BitVec 1) (s : State) (form : Memory.wf s.mem) :
    outOk (execVShr g t d a b e s) := by
  simp only [execVShr, Memory.wf, run_keepsForm, arithForm_keepsForm, form]

theorem execVShl_keepsForm (g t : BitVec 3) (d a b : BitVec 6) (e : BitVec 1) (s : State) (form : Memory.wf s.mem) :
    outOk (execVShl g t d a b e s) := by
  simp only [execVShl, Memory.wf, run_keepsForm, arithForm_keepsForm, form]

theorem logicForm_keepsForm (f : Word → Word → Word) (g : BitVec 3) (d a b : BitVec 6) (e : BitVec 1) (s : State)
    (form : Memory.wf s.mem) : resOk (logicForm f g d a b e s) :=
  resOk_bind fun _ => resOk_bind fun _ => resOk_bind fun _ => shortForm_keepsForm _ _ _ _ _ _ form

theorem execVXor_keepsForm (g _t : BitVec 3) (d a b : BitVec 6) (e : BitVec 1) (s : State) (form : Memory.wf s.mem) :
    outOk (execVXor g _t d a b e s) := by
  simp only [execVXor, Memory.wf, run_keepsForm, logicForm_keepsForm, form]

theorem execVOr_keepsForm (g _t : BitVec 3) (d a b : BitVec 6) (e : BitVec 1) (s : State) (form : Memory.wf s.mem) :
    outOk (execVOr g _t d a b e s) := by
  simp only [execVOr, Memory.wf, run_keepsForm, logicForm_keepsForm, form]

theorem execVAnd_keepsForm (g _t : BitVec 3) (d a b : BitVec 6) (e : BitVec 1) (s : State) (form : Memory.wf s.mem) :
    outOk (execVAnd g _t d a b e s) := by
  simp only [execVAnd, Memory.wf, run_keepsForm, logicForm_keepsForm, form]

theorem execVSqrt_keepsForm (g t : BitVec 3) (d a : BitVec 6) (e : BitVec 1) (s : State) (form : Memory.wf s.mem) :
    outOk (execVSqrt g t d a e s) := by
  refine run_keepsForm _ _ form (resOk_bind fun _ => resOk_bind fun _ => resOk_bind fun _ => ?_)
  simp only [Memory.wf, longForm_keepsForm, form]

theorem execVRem_keepsForm (g t : BitVec 3) (d a b : BitVec 6) (e : BitVec 1) (s : State) (form : Memory.wf s.mem) :
    outOk (execVRem g t d a b e s) := by
  simp only [execVRem, Memory.wf, run_keepsForm, arithForm_keepsForm, form]

theorem execVDiv_keepsForm (g t : BitVec 3) (d a b : BitVec 6) (e : BitVec 1) (s : State) (form : Memory.wf s.mem) :
    outOk (execVDiv g t d a b e s) := by
  simp only [execVDiv, Memory.wf, run_keepsForm, arithForm_keepsForm, form]

theorem execVMax_keepsForm (g t : BitVec 3) (d a b : BitVec 6) (e : BitVec 1) (s : State) (form : Memory.wf s.mem) :
    outOk (execVMax g t d a b e s) := by
  simp only [execVMax, Memory.wf, run_keepsForm, arithForm_keepsForm, form]

theorem execVMin_keepsForm (g t : BitVec 3) (d a b : BitVec 6) (e : BitVec 1) (s : State) (form : Memory.wf s.mem) :
    outOk (execVMin g t d a b e s) := by
  simp only [execVMin, Memory.wf, run_keepsForm, arithForm_keepsForm, form]

theorem execVFnma_keepsForm (g t : BitVec 3) (d a b : BitVec 6) (e : BitVec 1) (s : State) (form : Memory.wf s.mem) :
    outOk (execVFnma g t d a b e s) := by
  simp only [execVFnma, Memory.wf, run_keepsForm, ternaryForm_keepsForm, form]

theorem execVFma_keepsForm (g t : BitVec 3) (d a b : BitVec 6) (e : BitVec 1) (s : State) (form : Memory.wf s.mem) :
    outOk (execVFma g t d a b e s) := by
  simp only [execVFma, Memory.wf, run_keepsForm, ternaryForm_keepsForm, form]

theorem execVMul_keepsForm (g t : BitVec 3) (d a b : BitVec 6) (e : BitVec 1) (s : State) (form : Memory.wf s.mem) :
    outOk (execVMul g t d a b e s) := by
  simp only [execVMul, Memory.wf, run_keepsForm, arithForm_keepsForm, form]

theorem execVSub_keepsForm (g t : BitVec 3) (d a b : BitVec 6) (e : BitVec 1) (s : State) (form : Memory.wf s.mem) :
    outOk (execVSub g t d a b e s) := by
  simp only [execVSub, Memory.wf, run_keepsForm, arithForm_keepsForm, form]

theorem execVAdd_keepsForm (g t : BitVec 3) (d a b : BitVec 6) (e : BitVec 1) (s : State) (form : Memory.wf s.mem) :
    outOk (execVAdd g t d a b e s) := by
  simp only [execVAdd, Memory.wf, run_keepsForm, arithForm_keepsForm, form]

theorem launchForm_keepsForm (ctxForm : Bool) (g : BitVec 3) (d a : BitVec 6) (s : State) (form : Memory.wf s.mem) :
    resOk (launchForm ctxForm g d a s) := by
  refine guarded_keepsForm _ _ _ form (resOk_bind fun _ => resOk_bind fun _ => resOk_bind fun _ =>
    resOk_bind fun _ => resOk_bind fun _ => ?_)
  simp only [Memory.wf, resOk_ok, setCur_keepsMem, retire_keepsMem, issueOp_keepsMem, form]

theorem execLaunchCtx_keepsForm (g : BitVec 3) (d a : BitVec 6) (s : State) (form : Memory.wf s.mem) :
    outOk (execLaunchCtx g d a s) := by
  simp only [execLaunchCtx, Memory.wf, run_keepsForm, launchForm_keepsForm, form]

theorem launchWait_keepsForm (s : State) (w : LaunchWait) (form : Memory.wf s.mem) :
    Memory.wf (launchWait s w).mem := by
  unfold launchWait
  dsimp only
  repeat' split
  all_goals simp only [Memory.wf, completeRecorded_keepsForm, wrS_keepsMem, setStrand_keepsMem, setCur_keepsMem,
    hold_keepsMem, form]

theorem execLwait_keepsForm (g : BitVec 3) (d a : BitVec 6) (s : State) (form : Memory.wf s.mem) :
    outOk (execLwait g d a s) := by
  unfold execLwait
  split
  · exact outOk_next.mpr (launchWait_keepsForm _ _ form)
  · exact run_keepsForm _ _ form (guarded_keepsForm _ _ _ form (resOk_bind fun _ => resOk_bind fun _ =>
      resOk_ok.mpr (launchWait_keepsForm _ _ form)))

theorem execLaunch_keepsForm (g : BitVec 3) (d a : BitVec 6) (s : State) (form : Memory.wf s.mem) :
    outOk (execLaunch g d a s) := by
  simp only [execLaunch, Memory.wf, run_keepsForm, launchForm_keepsForm, form]

theorem crWrite_keepsForm (s : State) (n : Nat) (x : Word) (form : Memory.wf s.mem) :
    Memory.wf (crWrite s n x).mem := by
  unfold crWrite
  dsimp only
  repeat' split
  all_goals simp only [Memory.wf, setStrand_keepsMem, setCur_keepsMem, systemEvent_keepsForm, form]

theorem execCrWr_keepsForm (g : BitVec 3) (a : BitVec 6) (n : BitVec 10) (s : State) (form : Memory.wf s.mem) :
    outOk (execCrWr g a n s) := by
  refine run_keepsForm _ _ form (resOk_bind fun _ => guarded_keepsForm _ _ _ form (resOk_bind fun _ =>
    resOk_bind fun _ => ?_))
  simp only [Memory.wf, resOk_ok, retire_keepsMem, crWrite_keepsForm, form]

theorem execCrRd_keepsForm (g : BitVec 3) (d : BitVec 6) (n : BitVec 10) (s : State) (form : Memory.wf s.mem) :
    outOk (execCrRd g d n s) := by
  have written (v : Word) : Memory.wf (wrS s d v).mem := by rwa [wrS_keepsMem]
  refine run_keepsForm _ _ form (resOk_bind fun _ => guarded_keepsForm _ _ _ form (resOk_bind fun _ =>
    resOk_bind fun _ => ?_))
  split
  · exact resOk_ok.mpr (by rwa [retire_keepsMem, wrS_keepsMem])
  · exact resOk_bind fun _ => resOk_ok.mpr (completeRecorded_keepsForm _ _ _ _ (written _))

theorem trapEvents_keepsForm (s : State) (c : BitVec 16) (form : Memory.wf s.mem) : Memory.wf (trapEvents s c).mem := by
  unfold trapEvents
  dsimp only
  repeat' split
  all_goals simp only [Memory.wf, systemEvent_keepsForm, form]

theorem execTrap_keepsForm (g : BitVec 3) (c : BitVec 16) (s : State) (form : Memory.wf s.mem) :
    outOk (execTrap g c s) := by
  refine run_keepsForm _ _ form (guarded_keepsForm _ _ _ form (resOk_bind fun _ => ?_))
  simp only [Memory.wf, resOk_ok, takeTrap_keepsForm, trapEvents_keepsForm, form]

theorem execSLeaClause_keepsForm (g : BitVec 3) (d a : BitVec 6) (o : BitVec 8) (s : State) (form : Memory.wf s.mem) :
    outOk (execSLeaClause g d a o s) := by
  refine run_keepsForm _ _ form (guarded_keepsForm _ _ _ form (resOk_bind fun _ => resOk_bind fun _ => ?_))
  simp only [Memory.wf, resOk_ok, retire_keepsMem, wrS_keepsMem, form]

theorem leaWindow_keepsForm (base : Nat) (g : BitVec 3) (d a : BitVec 6) (o : BitVec 8) (s : State)
    (form : Memory.wf s.mem) :
    resOk (leaWindow base g d a o s) := by
  refine resOk_bind fun _ => guarded_keepsForm _ _ _ form (resOk_bind fun _ => resOk_bind fun _ => ?_)
  simp only [Memory.wf, resOk_ok, retire_keepsMem, wrS_keepsMem, form]

theorem execSLeaSpill_keepsForm (g : BitVec 3) (d a : BitVec 6) (o : BitVec 8) (s : State) (form : Memory.wf s.mem) :
    outOk (execSLeaSpill g d a o s) := by
  simp only [execSLeaSpill, Memory.wf, run_keepsForm, leaWindow_keepsForm, form]

theorem execSLeaGstore_keepsForm (g : BitVec 3) (d a : BitVec 6) (o : BitVec 8) (s : State) (form : Memory.wf s.mem) :
    outOk (execSLeaGstore g d a o s) := by
  simp only [execSLeaGstore, Memory.wf, run_keepsForm, leaWindow_keepsForm, form]

theorem scalarAmo_keepsForm (f : Nat) (g : BitVec 3) (d a b : BitVec 6) (s : State) (form : Memory.wf s.mem) :
    resOk (scalarAmo f g d a b s) := by
  refine guarded_keepsForm _ _ _ form (resOk_bind fun base => resOk_bind fun x => ?_)
  extract_lets c src rest
  have issues (expected : Word) : resOk (rest expected) := resOk_bind fun _ => resOk_bind fun _ => resOk_bind fun _ =>
    resOk_bind fun _ => issueRecorded_keepsForm _ _ _ _ _ _ (by rwa [setCur_keepsMem])
  split
  · exact resOk_bind issues
  · exact resOk_bind issues

theorem execSAmoCas_keepsForm (g : BitVec 3) (d a b : BitVec 6) (s : State) (form : Memory.wf s.mem) :
    outOk (execSAmoCas g d a b s) := by
  simp only [execSAmoCas, Memory.wf, run_keepsForm, scalarAmo_keepsForm, form]

theorem execSAmoXchg_keepsForm (g : BitVec 3) (d a b : BitVec 6) (s : State) (form : Memory.wf s.mem) :
    outOk (execSAmoXchg g d a b s) := by
  simp only [execSAmoXchg, Memory.wf, run_keepsForm, scalarAmo_keepsForm, form]

theorem execSAmoMin_keepsForm (g : BitVec 3) (d a b : BitVec 6) (s : State) (form : Memory.wf s.mem) :
    outOk (execSAmoMin g d a b s) := by
  simp only [execSAmoMin, Memory.wf, run_keepsForm, scalarAmo_keepsForm, form]

theorem execSAmoMax_keepsForm (g : BitVec 3) (d a b : BitVec 6) (s : State) (form : Memory.wf s.mem) :
    outOk (execSAmoMax g d a b s) := by
  simp only [execSAmoMax, Memory.wf, run_keepsForm, scalarAmo_keepsForm, form]

theorem execSAmoXor_keepsForm (g : BitVec 3) (d a b : BitVec 6) (s : State) (form : Memory.wf s.mem) :
    outOk (execSAmoXor g d a b s) := by
  simp only [execSAmoXor, Memory.wf, run_keepsForm, scalarAmo_keepsForm, form]

theorem execSAmoOr_keepsForm (g : BitVec 3) (d a b : BitVec 6) (s : State) (form : Memory.wf s.mem) :
    outOk (execSAmoOr g d a b s) := by
  simp only [execSAmoOr, Memory.wf, run_keepsForm, scalarAmo_keepsForm, form]

theorem execSAmoAnd_keepsForm (g : BitVec 3) (d a b : BitVec 6) (s : State) (form : Memory.wf s.mem) :
    outOk (execSAmoAnd g d a b s) := by
  simp only [execSAmoAnd, Memory.wf, run_keepsForm, scalarAmo_keepsForm, form]

theorem execSAmoAdd_keepsForm (g : BitVec 3) (d a b : BitVec 6) (s : State) (form : Memory.wf s.mem) :
    outOk (execSAmoAdd g d a b s) := by
  simp only [execSAmoAdd, Memory.wf, run_keepsForm, scalarAmo_keepsForm, form]

theorem storeIo_keepsForm (s : State) (off n : Nat) (x : Word) (form : Memory.wf s.mem) :
    resOk (storeIo s off n x) := by
  have stored := ioStore_keepsForm s off n (x.toNat % 2 ^ (8 * n)) (s.focus.key - systemBase) form
  rw [storeIo]
  split
  next t same => exact resOk_ok.mpr (by rw [retire_keepsMem]; exact stored t same)
  next => exact resOk_error.mpr trivial

theorem execSSt_keepsForm (g z : BitVec 3) (d a : BitVec 6) (o : BitVec 7) (s : State) (form : Memory.wf s.mem) :
    outOk (execSSt g z d a o s) := by
  refine run_keepsForm _ _ form (resOk_bind fun _ => guarded_keepsForm _ _ _ form (resOk_bind fun _ =>
    resOk_bind fun _ =>
    resOk_bind fun _ => resOk_bind fun _ => ?_))
  split
  · exact resOk_bind fun _ => storeIo_keepsForm _ _ _ _ form
  · exact resOk_bind fun _ => resOk_bind fun _ => issueLoadStore_keepsForm _ _ _ _ _ form

theorem loadNow_keepsForm (s : State) (d : BitVec 6) (n : Nat) (signed : Bool) (a : Access) (form : Memory.wf s.mem) :
    resOk (loadNow s d n signed a) := by
  unfold loadNow
  repeat' refine resOk_bind fun _ => ?_
  all_goals simp only [resOk_ite, Memory.wf, resOk_ok, resOk_error, performUnit_keepsForm, retire_keepsMem,
    wrS_keepsMem, form]

theorem ioLoad_keepsMem (s : State) (o n : Nat) : (ioLoad s o n).2.mem = s.mem := by
  rw [ioLoad]
  split <;> rfl

theorem loadIo_keepsMem (s : State) (d : BitVec 6) (n : Nat) (signed : Bool) (off : Nat) :
    (loadIo s d n signed off).mem = s.mem := by
  simp only [loadIo, ioLoad_keepsMem, retire_keepsMem, wrS_keepsMem]

theorem execSLd_keepsForm (g z : BitVec 3) (d a : BitVec 6) (o : BitVec 7) (s : State) (form : Memory.wf s.mem) :
    outOk (execSLd g z d a o s) := by
  refine run_keepsForm _ _ form (resOk_bind fun _ => guarded_keepsForm _ _ _ form (resOk_bind fun _ =>
    resOk_bind fun _ =>
    resOk_bind fun _ => ?_))
  split
  · exact resOk_bind fun _ => resOk_ok.mpr (by rwa [loadIo_keepsMem])
  · refine resOk_bind fun _ => resOk_ite ?_ (issueLoadStore_keepsForm _ _ _ _ _ (by rwa [setCur_keepsMem]))
    split
    · exact loadNow_keepsForm _ _ _ _ _ form
    · exact resOk_ok.mpr (by rwa [retire_keepsMem])

theorem nextGroup_keepsMem (s : State) (n : Nat) (r : LaneCall) : (nextGroup s n r).mem = s.mem := rfl

theorem returnLane_keepsMem (s : State) (p : RasPlace) (addr : Word) : (returnLane s p addr).mem = s.mem := by
  unfold returnLane
  dsimp only
  repeat' split
  all_goals simp only [transfer_keepsMem, setCur_keepsMem, setStrand_keepsMem, nextGroup_keepsMem]

theorem execRet_keepsForm (g : BitVec 3) (s : State) (form : Memory.wf s.mem) :
    outOk (execRet g s) := by
  refine run_keepsForm _ _ form (guarded_keepsForm _ _ _ form ?_)
  split
  · exact resOk_error.mpr trivial
  · refine resOk_bind fun _ => resOk_ite (resOk_ok.mpr ?_) (resOk_ok.mpr ?_)
    · rwa [returnLane_keepsMem]
    · rwa [transfer_keepsMem, setCur_keepsMem]

theorem writeNat_keepsForm (s : State) (place n x : Nat) (bad : Bool) (form : Memory.wf s.mem) :
    Memory.wf (writeNat s place n x bad).mem := by
  simp only [writeNat, Memory.wf, writeBytes_keepsForm, form]

theorem pushRas_keepsForm (s : State) (addr : Word) (lane : Bool) (form : Memory.wf s.mem) :
    resOk (pushRas s addr lane) := by
  unfold pushRas
  dsimp only
  repeat' split
  all_goals simp only [Memory.wf, resOk_ok, resOk_error, setCur_keepsMem, writeNat_keepsForm, form]

theorem execCallLane_keepsForm (g : BitVec 3) (a : BitVec 6) (e : BitVec 1) (s : State) (form : Memory.wf s.mem) :
    outOk (execCallLane g a e s) := by
  refine run_keepsForm _ _ form (resOk_bind fun _ => resOk_bind fun _ => resOk_ite (resOk_ok.mpr ?_)
    (resOk_bind fun _ => ?_))
  · rwa [retire_keepsMem]
  · split
    · exact resOk_error.mpr trivial
    · refine resOk_through (pushRas_keepsForm _ _ _ form) fun t ok => resOk_ok.mpr ?_
      rwa [nextGroup_keepsMem, setCur_keepsMem]

theorem execCallInd_keepsForm (g : BitVec 3) (a : BitVec 6) (i : BitVec 10) (s : State) (form : Memory.wf s.mem) :
    outOk (execCallInd g a i s) := by
  refine run_keepsForm _ _ form (guarded_keepsForm _ _ _ form (resOk_bind fun _ => resOk_bind fun _ =>
    resOk_through (pushRas_keepsForm _ _ _ form) fun t ok => resOk_ok.mpr ?_))
  rwa [transfer_keepsMem]

theorem arriveAt_keepsForm (s : State) (t : Word) (e : Option (BitVec 8 × Word × Word)) (form : Memory.wf s.mem) :
    Memory.wf (arriveAt s t e).mem := by
  unfold arriveAt
  split <;> simp only [Memory.wf, transfer_keepsMem, trapHere_keepsForm, form]

theorem execCall_keepsForm (g : BitVec 3) (o : BitVec 22) (s : State) (form : Memory.wf s.mem) :
    outOk (execCall g o s) := by
  refine run_keepsForm _ _ form (guarded_keepsForm _ _ _ form (resOk_bind fun _ => resOk_ite
    (resOk_through (pushRas_keepsForm _ _ _ form) fun t ok => resOk_ok.mpr (arriveAt_keepsForm _ _ _ ok))
    (resOk_ok.mpr (arriveAt_keepsForm _ _ _ form))))

theorem execBInd_keepsForm (g : BitVec 3) (a : BitVec 6) (i : BitVec 10) (s : State) (form : Memory.wf s.mem) :
    outOk (execBInd g a i s) := by
  refine run_keepsForm _ _ form (guarded_keepsForm _ _ _ form (resOk_bind fun _ => resOk_bind fun _ => ?_))
  simp only [Memory.wf, resOk_ok, transfer_keepsMem, form]

theorem execB_keepsForm (g : BitVec 3) (o : BitVec 22) (s : State) (form : Memory.wf s.mem) :
    outOk (execB g o s) :=
  run_keepsForm _ _ form (by simp only [Memory.wf, resOk_ok, guarded_keepsForm, transfer_keepsMem, form])

theorem scalarUnary_keepsForm (f : Word → Word) (g : BitVec 3) (d a : BitVec 6) (s : State) (form : Memory.wf s.mem) :
    resOk (scalarUnary f g d a s) := by
  refine guarded_keepsForm _ _ _ form (resOk_bind fun _ => resOk_bind fun _ => ?_)
  simp only [Memory.wf, resOk_ok, retire_keepsMem, wrS_keepsMem, form]

theorem execSBitBswap_keepsForm (g : BitVec 3) (d a : BitVec 6) (s : State) (form : Memory.wf s.mem) :
    outOk (execSBitBswap g d a s) := by
  simp only [execSBitBswap, Memory.wf, run_keepsForm, scalarUnary_keepsForm, form]

theorem execSBitRev_keepsForm (g : BitVec 3) (d a : BitVec 6) (s : State) (form : Memory.wf s.mem) :
    outOk (execSBitRev g d a s) := by
  simp only [execSBitRev, Memory.wf, run_keepsForm, scalarUnary_keepsForm, form]

theorem execSBitPopc_keepsForm (g : BitVec 3) (d a : BitVec 6) (s : State) (form : Memory.wf s.mem) :
    outOk (execSBitPopc g d a s) := by
  simp only [execSBitPopc, Memory.wf, run_keepsForm, scalarUnary_keepsForm, form]

theorem execSBitCtz_keepsForm (g : BitVec 3) (d a : BitVec 6) (s : State) (form : Memory.wf s.mem) :
    outOk (execSBitCtz g d a s) := by
  simp only [execSBitCtz, Memory.wf, run_keepsForm, scalarUnary_keepsForm, form]

theorem execSBitClz_keepsForm (g : BitVec 3) (d a : BitVec 6) (s : State) (form : Memory.wf s.mem) :
    outOk (execSBitClz g d a s) := by
  simp only [execSBitClz, Memory.wf, run_keepsForm, scalarUnary_keepsForm, form]

theorem execSBitIns_keepsForm (g : BitVec 3) (d a b : BitVec 6) (s : State) (form : Memory.wf s.mem) :
    outOk (execSBitIns g d a b s) := by
  refine run_keepsForm _ _ form (guarded_keepsForm _ _ _ form (resOk_bind fun _ => resOk_bind fun _ =>
    resOk_bind fun _ => ?_))
  simp only [Memory.wf, resOk_ok, retire_keepsMem, wrS_keepsMem, form]

theorem scalarSr_keepsForm (f : Word → Word → Word) (g : BitVec 3) (d a b : BitVec 6) (i : BitVec 1) (s : State)
    (form : Memory.wf s.mem) :
    resOk (scalarSr f g d a b i s) := by
  refine guarded_keepsForm _ _ _ form (resOk_bind fun _ => resOk_bind fun _ => resOk_bind fun _ => ?_)
  simp only [Memory.wf, resOk_ok, retire_keepsMem, wrS_keepsMem, form]

theorem execSBitExts_keepsForm (g : BitVec 3) (d a b : BitVec 6) (s : State) (form : Memory.wf s.mem) :
    outOk (execSBitExts g d a b s) := by
  simp only [execSBitExts, Memory.wf, run_keepsForm, scalarSr_keepsForm, form]

theorem execSBitExtz_keepsForm (g : BitVec 3) (d a b : BitVec 6) (s : State) (form : Memory.wf s.mem) :
    outOk (execSBitExtz g d a b s) := by
  simp only [execSBitExtz, Memory.wf, run_keepsForm, scalarSr_keepsForm, form]

theorem execSSel_keepsForm (g p : BitVec 3) (d a b : BitVec 6) (i : BitVec 1) (s : State) (form : Memory.wf s.mem) :
    outOk (execSSel g p d a b i s) := by
  simp only [execSSel, Memory.wf, run_keepsForm, scalarSr_keepsForm, form]

theorem predicateOp_keepsForm (f : Bool → Bool → Bool) (g d a b : BitVec 3) (s : State) (form : Memory.wf s.mem) :
    resOk (predicateOp f g d a b s) := by
  simp only [predicateOp, Memory.wf, resOk_ok, guarded_keepsForm, retire_keepsMem, wrP_keepsMem, form]

theorem execPOpClr_keepsForm (g d : BitVec 3) (s : State) (form : Memory.wf s.mem) : outOk (execPOpClr g d s) := by
  simp only [execPOpClr, Memory.wf, run_keepsForm, predicateOp_keepsForm, form]

theorem execPOpSet_keepsForm (g d : BitVec 3) (s : State) (form : Memory.wf s.mem) : outOk (execPOpSet g d s) := by
  simp only [execPOpSet, Memory.wf, run_keepsForm, predicateOp_keepsForm, form]

theorem execPOpMov_keepsForm (g d a : BitVec 3) (s : State) (form : Memory.wf s.mem) : outOk (execPOpMov g d a s) := by
  simp only [execPOpMov, Memory.wf, run_keepsForm, predicateOp_keepsForm, form]

theorem execPOpOrn_keepsForm (g d a b : BitVec 3) (s : State) (form : Memory.wf s.mem) :
    outOk (execPOpOrn g d a b s) := by
  simp only [execPOpOrn, Memory.wf, run_keepsForm, predicateOp_keepsForm, form]

theorem execPOpAndn_keepsForm (g d a b : BitVec 3) (s : State) (form : Memory.wf s.mem) :
    outOk (execPOpAndn g d a b s) := by
  simp only [execPOpAndn, Memory.wf, run_keepsForm, predicateOp_keepsForm, form]

theorem execPOpXor_keepsForm (g d a b : BitVec 3) (s : State) (form : Memory.wf s.mem) :
    outOk (execPOpXor g d a b s) := by
  simp only [execPOpXor, Memory.wf, run_keepsForm, predicateOp_keepsForm, form]

theorem execPOpOr_keepsForm (g d a b : BitVec 3) (s : State) (form : Memory.wf s.mem) :
    outOk (execPOpOr g d a b s) := by
  simp only [execPOpOr, Memory.wf, run_keepsForm, predicateOp_keepsForm, form]

theorem execPOpAnd_keepsForm (g d a b : BitVec 3) (s : State) (form : Memory.wf s.mem) :
    outOk (execPOpAnd g d a b s) := by
  simp only [execPOpAnd, Memory.wf, run_keepsForm, predicateOp_keepsForm, form]

theorem compareSi_keepsForm (k : Cond) (g p : BitVec 3) (a : BitVec 6) (i : BitVec 10) (s : State)
    (form : Memory.wf s.mem) :
    resOk (compareSi k g p a i s) := by
  rw [compareSi]
  simp only [resOk_bind, Memory.wf, resOk_ok, guarded_keepsForm, retire_keepsMem, wrP_keepsMem, form, implies_true]

theorem execSCmpiNtst_keepsForm (g p : BitVec 3) (a : BitVec 6) (i : BitVec 10) (s : State) (form : Memory.wf s.mem) :
    outOk (execSCmpiNtst g p a i s) := by
  simp only [execSCmpiNtst, Memory.wf, run_keepsForm, compareSi_keepsForm, form]

theorem execSCmpiTst_keepsForm (g p : BitVec 3) (a : BitVec 6) (i : BitVec 10) (s : State) (form : Memory.wf s.mem) :
    outOk (execSCmpiTst g p a i s) := by
  simp only [execSCmpiTst, Memory.wf, run_keepsForm, compareSi_keepsForm, form]

theorem execSCmpiLen_keepsForm (g p : BitVec 3) (a : BitVec 6) (i : BitVec 10) (s : State) (form : Memory.wf s.mem) :
    outOk (execSCmpiLen g p a i s) := by
  simp only [execSCmpiLen, Memory.wf, run_keepsForm, compareSi_keepsForm, form]

theorem execSCmpiLtn_keepsForm (g p : BitVec 3) (a : BitVec 6) (i : BitVec 10) (s : State) (form : Memory.wf s.mem) :
    outOk (execSCmpiLtn g p a i s) := by
  simp only [execSCmpiLtn, Memory.wf, run_keepsForm, compareSi_keepsForm, form]

theorem execSCmpiLes_keepsForm (g p : BitVec 3) (a : BitVec 6) (i : BitVec 10) (s : State) (form : Memory.wf s.mem) :
    outOk (execSCmpiLes g p a i s) := by
  simp only [execSCmpiLes, Memory.wf, run_keepsForm, compareSi_keepsForm, form]

theorem execSCmpiLts_keepsForm (g p : BitVec 3) (a : BitVec 6) (i : BitVec 10) (s : State) (form : Memory.wf s.mem) :
    outOk (execSCmpiLts g p a i s) := by
  simp only [execSCmpiLts, Memory.wf, run_keepsForm, compareSi_keepsForm, form]

theorem execSCmpiNe_keepsForm (g p : BitVec 3) (a : BitVec 6) (i : BitVec 10) (s : State) (form : Memory.wf s.mem) :
    outOk (execSCmpiNe g p a i s) := by
  simp only [execSCmpiNe, Memory.wf, run_keepsForm, compareSi_keepsForm, form]

theorem execSCmpiEq_keepsForm (g p : BitVec 3) (a : BitVec 6) (i : BitVec 10) (s : State) (form : Memory.wf s.mem) :
    outOk (execSCmpiEq g p a i s) := by
  simp only [execSCmpiEq, Memory.wf, run_keepsForm, compareSi_keepsForm, form]

theorem compareSr_keepsForm (k : Cond) (g p : BitVec 3) (a b : BitVec 6) (i : BitVec 1) (s : State)
    (form : Memory.wf s.mem) :
    resOk (compareSr k g p a b i s) := by
  refine guarded_keepsForm _ _ _ form (resOk_bind fun _ => resOk_bind fun _ => ?_)
  simp only [Memory.wf, resOk_ok, retire_keepsMem, wrP_keepsMem, form]

theorem execSCmpNtst_keepsForm (g p : BitVec 3) (a b : BitVec 6) (i : BitVec 1) (s : State) (form : Memory.wf s.mem) :
    outOk (execSCmpNtst g p a b i s) := by
  simp only [execSCmpNtst, Memory.wf, run_keepsForm, compareSr_keepsForm, form]

theorem execSCmpTst_keepsForm (g p : BitVec 3) (a b : BitVec 6) (i : BitVec 1) (s : State) (form : Memory.wf s.mem) :
    outOk (execSCmpTst g p a b i s) := by
  simp only [execSCmpTst, Memory.wf, run_keepsForm, compareSr_keepsForm, form]

theorem execSCmpLen_keepsForm (g p : BitVec 3) (a b : BitVec 6) (i : BitVec 1) (s : State) (form : Memory.wf s.mem) :
    outOk (execSCmpLen g p a b i s) := by
  simp only [execSCmpLen, Memory.wf, run_keepsForm, compareSr_keepsForm, form]

theorem execSCmpLtn_keepsForm (g p : BitVec 3) (a b : BitVec 6) (i : BitVec 1) (s : State) (form : Memory.wf s.mem) :
    outOk (execSCmpLtn g p a b i s) := by
  simp only [execSCmpLtn, Memory.wf, run_keepsForm, compareSr_keepsForm, form]

theorem execSCmpLes_keepsForm (g p : BitVec 3) (a b : BitVec 6) (i : BitVec 1) (s : State) (form : Memory.wf s.mem) :
    outOk (execSCmpLes g p a b i s) := by
  simp only [execSCmpLes, Memory.wf, run_keepsForm, compareSr_keepsForm, form]

theorem execSCmpLts_keepsForm (g p : BitVec 3) (a b : BitVec 6) (i : BitVec 1) (s : State) (form : Memory.wf s.mem) :
    outOk (execSCmpLts g p a b i s) := by
  simp only [execSCmpLts, Memory.wf, run_keepsForm, compareSr_keepsForm, form]

theorem execSCmpNe_keepsForm (g p : BitVec 3) (a b : BitVec 6) (i : BitVec 1) (s : State) (form : Memory.wf s.mem) :
    outOk (execSCmpNe g p a b i s) := by
  simp only [execSCmpNe, Memory.wf, run_keepsForm, compareSr_keepsForm, form]

theorem execSCmpEq_keepsForm (g p : BitVec 3) (a b : BitVec 6) (i : BitVec 1) (s : State) (form : Memory.wf s.mem) :
    outOk (execSCmpEq g p a b i s) := by
  simp only [execSCmpEq, Memory.wf, run_keepsForm, compareSr_keepsForm, form]

theorem execSMovk_keepsForm (h : BitVec 2) (d : BitVec 6) (i : BitVec 16) (s : State) (form : Memory.wf s.mem) :
    outOk (execSMovk h d i s) :=
  run_keepsForm _ _ form (by simp only [resOk_bind, Memory.wf, resOk_ok, retire_keepsMem, wrS_keepsMem, form,
    implies_true])

theorem execSMovi_keepsForm (g : BitVec 3) (d : BitVec 6) (i : BitVec 16) (s : State) (form : Memory.wf s.mem) :
    outOk (execSMovi g d i s) :=
  run_keepsForm _ _ form (by simp only [resOk_bind, Memory.wf, resOk_ok, guarded_keepsForm, retire_keepsMem,
    wrS_keepsMem, form, implies_true])

theorem scalarSi_keepsForm (f : Word → Word → Word) (g : BitVec 3) (d a : BitVec 6) (i : BitVec 10) (s : State)
    (form : Memory.wf s.mem) :
    resOk (scalarSi f g d a i s) := by
  refine guarded_keepsForm _ _ _ form (resOk_bind fun _ => resOk_bind fun _ => ?_)
  simp only [Memory.wf, resOk_ok, retire_keepsMem, wrS_keepsMem, form]

theorem execSXori_keepsForm (g : BitVec 3) (d a : BitVec 6) (i : BitVec 10) (s : State) (form : Memory.wf s.mem) :
    outOk (execSXori g d a i s) := by
  simp only [execSXori, Memory.wf, run_keepsForm, scalarSi_keepsForm, form]

theorem execSOri_keepsForm (g : BitVec 3) (d a : BitVec 6) (i : BitVec 10) (s : State) (form : Memory.wf s.mem) :
    outOk (execSOri g d a i s) := by
  simp only [execSOri, Memory.wf, run_keepsForm, scalarSi_keepsForm, form]

theorem execSAndi_keepsForm (g : BitVec 3) (d a : BitVec 6) (i : BitVec 10) (s : State) (form : Memory.wf s.mem) :
    outOk (execSAndi g d a i s) := by
  simp only [execSAndi, Memory.wf, run_keepsForm, scalarSi_keepsForm, form]

theorem execSAddi_keepsForm (g : BitVec 3) (d a : BitVec 6) (i : BitVec 10) (s : State) (form : Memory.wf s.mem) :
    outOk (execSAddi g d a i s) := by
  simp only [execSAddi, Memory.wf, run_keepsForm, scalarSi_keepsForm, form]

theorem execSDivRemn_keepsForm (g : BitVec 3) (d a b : BitVec 6) (i : BitVec 1) (s : State) (form : Memory.wf s.mem) :
    outOk (execSDivRemn g d a b i s) := by
  simp only [execSDivRemn, Memory.wf, run_keepsForm, scalarSr_keepsForm, form]

theorem execSDivRems_keepsForm (g : BitVec 3) (d a b : BitVec 6) (i : BitVec 1) (s : State) (form : Memory.wf s.mem) :
    outOk (execSDivRems g d a b i s) := by
  simp only [execSDivRems, Memory.wf, run_keepsForm, scalarSr_keepsForm, form]

theorem execSDivDivn_keepsForm (g : BitVec 3) (d a b : BitVec 6) (i : BitVec 1) (s : State) (form : Memory.wf s.mem) :
    outOk (execSDivDivn g d a b i s) := by
  simp only [execSDivDivn, Memory.wf, run_keepsForm, scalarSr_keepsForm, form]

theorem execSDivDivs_keepsForm (g : BitVec 3) (d a b : BitVec 6) (i : BitVec 1) (s : State) (form : Memory.wf s.mem) :
    outOk (execSDivDivs g d a b i s) := by
  simp only [execSDivDivs, Memory.wf, run_keepsForm, scalarSr_keepsForm, form]

theorem execSAlu2Rotr_keepsForm (g : BitVec 3) (d a b : BitVec 6) (i : BitVec 1) (s : State) (form : Memory.wf s.mem) :
    outOk (execSAlu2Rotr g d a b i s) := by
  simp only [execSAlu2Rotr, Memory.wf, run_keepsForm, scalarSr_keepsForm, form]

theorem execSAlu2Maxn_keepsForm (g : BitVec 3) (d a b : BitVec 6) (i : BitVec 1) (s : State) (form : Memory.wf s.mem) :
    outOk (execSAlu2Maxn g d a b i s) := by
  simp only [execSAlu2Maxn, Memory.wf, run_keepsForm, scalarSr_keepsForm, form]

theorem execSAlu2Minn_keepsForm (g : BitVec 3) (d a b : BitVec 6) (i : BitVec 1) (s : State) (form : Memory.wf s.mem) :
    outOk (execSAlu2Minn g d a b i s) := by
  simp only [execSAlu2Minn, Memory.wf, run_keepsForm, scalarSr_keepsForm, form]

theorem execSAlu2Max_keepsForm (g : BitVec 3) (d a b : BitVec 6) (i : BitVec 1) (s : State) (form : Memory.wf s.mem) :
    outOk (execSAlu2Max g d a b i s) := by
  simp only [execSAlu2Max, Memory.wf, run_keepsForm, scalarSr_keepsForm, form]

theorem execSAlu2Min_keepsForm (g : BitVec 3) (d a b : BitVec 6) (i : BitVec 1) (s : State) (form : Memory.wf s.mem) :
    outOk (execSAlu2Min g d a b i s) := by
  simp only [execSAlu2Min, Memory.wf, run_keepsForm, scalarSr_keepsForm, form]

theorem execSAlu2Mulhn_keepsForm (g : BitVec 3) (d a b : BitVec 6) (i : BitVec 1) (s : State) (form : Memory.wf s.mem) :
    outOk (execSAlu2Mulhn g d a b i s) := by
  simp only [execSAlu2Mulhn, Memory.wf, run_keepsForm, scalarSr_keepsForm, form]

theorem execSAlu2Mulhs_keepsForm (g : BitVec 3) (d a b : BitVec 6) (i : BitVec 1) (s : State) (form : Memory.wf s.mem) :
    outOk (execSAlu2Mulhs g d a b i s) := by
  simp only [execSAlu2Mulhs, Memory.wf, run_keepsForm, scalarSr_keepsForm, form]

theorem execSAlu2Mul_keepsForm (g : BitVec 3) (d a b : BitVec 6) (i : BitVec 1) (s : State) (form : Memory.wf s.mem) :
    outOk (execSAlu2Mul g d a b i s) := by
  simp only [execSAlu2Mul, Memory.wf, run_keepsForm, scalarSr_keepsForm, form]

theorem execSAluSar_keepsForm (g : BitVec 3) (d a b : BitVec 6) (i : BitVec 1) (s : State) (form : Memory.wf s.mem) :
    outOk (execSAluSar g d a b i s) := by
  simp only [execSAluSar, Memory.wf, run_keepsForm, scalarSr_keepsForm, form]

theorem execSAluShr_keepsForm (g : BitVec 3) (d a b : BitVec 6) (i : BitVec 1) (s : State) (form : Memory.wf s.mem) :
    outOk (execSAluShr g d a b i s) := by
  simp only [execSAluShr, Memory.wf, run_keepsForm, scalarSr_keepsForm, form]

theorem execSAluShl_keepsForm (g : BitVec 3) (d a b : BitVec 6) (i : BitVec 1) (s : State) (form : Memory.wf s.mem) :
    outOk (execSAluShl g d a b i s) := by
  simp only [execSAluShl, Memory.wf, run_keepsForm, scalarSr_keepsForm, form]

theorem execSAluXor_keepsForm (g : BitVec 3) (d a b : BitVec 6) (i : BitVec 1) (s : State) (form : Memory.wf s.mem) :
    outOk (execSAluXor g d a b i s) := by
  simp only [execSAluXor, Memory.wf, run_keepsForm, scalarSr_keepsForm, form]

theorem execSAluOr_keepsForm (g : BitVec 3) (d a b : BitVec 6) (i : BitVec 1) (s : State) (form : Memory.wf s.mem) :
    outOk (execSAluOr g d a b i s) := by
  simp only [execSAluOr, Memory.wf, run_keepsForm, scalarSr_keepsForm, form]

theorem execSAluAnd_keepsForm (g : BitVec 3) (d a b : BitVec 6) (i : BitVec 1) (s : State) (form : Memory.wf s.mem) :
    outOk (execSAluAnd g d a b i s) := by
  simp only [execSAluAnd, Memory.wf, run_keepsForm, scalarSr_keepsForm, form]

theorem execSAluSub_keepsForm (g : BitVec 3) (d a b : BitVec 6) (i : BitVec 1) (s : State) (form : Memory.wf s.mem) :
    outOk (execSAluSub g d a b i s) := by
  simp only [execSAluSub, Memory.wf, run_keepsForm, scalarSr_keepsForm, form]

theorem execSAluAdd_keepsForm (g : BitVec 3) (d a b : BitVec 6) (i : BitVec 1) (s : State) (form : Memory.wf s.mem) :
    outOk (execSAluAdd g d a b i s) := by
  simp only [execSAluAdd, Memory.wf, run_keepsForm, scalarSr_keepsForm, form]

theorem execNop_keepsForm (_g : BitVec 3) (s : State) (form : Memory.wf s.mem) : outOk (execNop _g s) := by
  simp only [execNop, Memory.wf, outOk_next, retire_keepsMem, form]

theorem exec_keepsForm : ∀ (i : Instr) (s : State), Memory.wf s.mem → outOk (exec i s)
  | .nop g, s, form => execNop_keepsForm g s form
  | .sAluAdd g d a b iv, s, form => execSAluAdd_keepsForm g d a b iv s form
  | .sAluSub g d a b iv, s, form => execSAluSub_keepsForm g d a b iv s form
  | .sAluAnd g d a b iv, s, form => execSAluAnd_keepsForm g d a b iv s form
  | .sAluOr g d a b iv, s, form => execSAluOr_keepsForm g d a b iv s form
  | .sAluXor g d a b iv, s, form => execSAluXor_keepsForm g d a b iv s form
  | .sAluShl g d a b iv, s, form => execSAluShl_keepsForm g d a b iv s form
  | .sAluShr g d a b iv, s, form => execSAluShr_keepsForm g d a b iv s form
  | .sAluSar g d a b iv, s, form => execSAluSar_keepsForm g d a b iv s form
  | .sAlu2Mul g d a b iv, s, form => execSAlu2Mul_keepsForm g d a b iv s form
  | .sAlu2Mulhs g d a b iv, s, form => execSAlu2Mulhs_keepsForm g d a b iv s form
  | .sAlu2Mulhn g d a b iv, s, form => execSAlu2Mulhn_keepsForm g d a b iv s form
  | .sAlu2Min g d a b iv, s, form => execSAlu2Min_keepsForm g d a b iv s form
  | .sAlu2Max g d a b iv, s, form => execSAlu2Max_keepsForm g d a b iv s form
  | .sAlu2Minn g d a b iv, s, form => execSAlu2Minn_keepsForm g d a b iv s form
  | .sAlu2Maxn g d a b iv, s, form => execSAlu2Maxn_keepsForm g d a b iv s form
  | .sAlu2Rotr g d a b iv, s, form => execSAlu2Rotr_keepsForm g d a b iv s form
  | .sDivDivs g d a b iv, s, form => execSDivDivs_keepsForm g d a b iv s form
  | .sDivDivn g d a b iv, s, form => execSDivDivn_keepsForm g d a b iv s form
  | .sDivRems g d a b iv, s, form => execSDivRems_keepsForm g d a b iv s form
  | .sDivRemn g d a b iv, s, form => execSDivRemn_keepsForm g d a b iv s form
  | .sAddi g d a iv, s, form => execSAddi_keepsForm g d a iv s form
  | .sAndi g d a iv, s, form => execSAndi_keepsForm g d a iv s form
  | .sOri g d a iv, s, form => execSOri_keepsForm g d a iv s form
  | .sXori g d a iv, s, form => execSXori_keepsForm g d a iv s form
  | .sMovi g d iv, s, form => execSMovi_keepsForm g d iv s form
  | .sMovk h d iv, s, form => execSMovk_keepsForm h d iv s form
  | .sCmpEq g p a b iv, s, form => execSCmpEq_keepsForm g p a b iv s form
  | .sCmpNe g p a b iv, s, form => execSCmpNe_keepsForm g p a b iv s form
  | .sCmpLts g p a b iv, s, form => execSCmpLts_keepsForm g p a b iv s form
  | .sCmpLes g p a b iv, s, form => execSCmpLes_keepsForm g p a b iv s form
  | .sCmpLtn g p a b iv, s, form => execSCmpLtn_keepsForm g p a b iv s form
  | .sCmpLen g p a b iv, s, form => execSCmpLen_keepsForm g p a b iv s form
  | .sCmpTst g p a b iv, s, form => execSCmpTst_keepsForm g p a b iv s form
  | .sCmpNtst g p a b iv, s, form => execSCmpNtst_keepsForm g p a b iv s form
  | .sCmpiEq g p a iv, s, form => execSCmpiEq_keepsForm g p a iv s form
  | .sCmpiNe g p a iv, s, form => execSCmpiNe_keepsForm g p a iv s form
  | .sCmpiLts g p a iv, s, form => execSCmpiLts_keepsForm g p a iv s form
  | .sCmpiLes g p a iv, s, form => execSCmpiLes_keepsForm g p a iv s form
  | .sCmpiLtn g p a iv, s, form => execSCmpiLtn_keepsForm g p a iv s form
  | .sCmpiLen g p a iv, s, form => execSCmpiLen_keepsForm g p a iv s form
  | .sCmpiTst g p a iv, s, form => execSCmpiTst_keepsForm g p a iv s form
  | .sCmpiNtst g p a iv, s, form => execSCmpiNtst_keepsForm g p a iv s form
  | .pOpAnd g d a b, s, form => execPOpAnd_keepsForm g d a b s form
  | .pOpOr g d a b, s, form => execPOpOr_keepsForm g d a b s form
  | .pOpXor g d a b, s, form => execPOpXor_keepsForm g d a b s form
  | .pOpAndn g d a b, s, form => execPOpAndn_keepsForm g d a b s form
  | .pOpOrn g d a b, s, form => execPOpOrn_keepsForm g d a b s form
  | .pOpMov g d a, s, form => execPOpMov_keepsForm g d a s form
  | .pOpSet g d, s, form => execPOpSet_keepsForm g d s form
  | .pOpClr g d, s, form => execPOpClr_keepsForm g d s form
  | .sSel g p d a b iv, s, form => execSSel_keepsForm g p d a b iv s form
  | .sBitExtz g d a b, s, form => execSBitExtz_keepsForm g d a b s form
  | .sBitExts g d a b, s, form => execSBitExts_keepsForm g d a b s form
  | .sBitIns g d a b, s, form => execSBitIns_keepsForm g d a b s form
  | .sBitClz g d a, s, form => execSBitClz_keepsForm g d a s form
  | .sBitCtz g d a, s, form => execSBitCtz_keepsForm g d a s form
  | .sBitPopc g d a, s, form => execSBitPopc_keepsForm g d a s form
  | .sBitRev g d a, s, form => execSBitRev_keepsForm g d a s form
  | .sBitBswap g d a, s, form => execSBitBswap_keepsForm g d a s form
  | .b g o, s, form => execB_keepsForm g o s form
  | .bInd g a iv, s, form => execBInd_keepsForm g a iv s form
  | .call g o, s, form => execCall_keepsForm g o s form
  | .callInd g a iv, s, form => execCallInd_keepsForm g a iv s form
  | .callLane g a e, s, form => execCallLane_keepsForm g a e s form
  | .ret g, s, form => execRet_keepsForm g s form
  | .sLd g z d a o, s, form => execSLd_keepsForm g z d a o s form
  | .sSt g z d a o, s, form => execSSt_keepsForm g z d a o s form
  | .sAmoAdd g d a b, s, form => execSAmoAdd_keepsForm g d a b s form
  | .sAmoAnd g d a b, s, form => execSAmoAnd_keepsForm g d a b s form
  | .sAmoOr g d a b, s, form => execSAmoOr_keepsForm g d a b s form
  | .sAmoXor g d a b, s, form => execSAmoXor_keepsForm g d a b s form
  | .sAmoMax g d a b, s, form => execSAmoMax_keepsForm g d a b s form
  | .sAmoMin g d a b, s, form => execSAmoMin_keepsForm g d a b s form
  | .sAmoXchg g d a b, s, form => execSAmoXchg_keepsForm g d a b s form
  | .sAmoCas g d a b, s, form => execSAmoCas_keepsForm g d a b s form
  | .sLeaGstore g d a o, s, form => execSLeaGstore_keepsForm g d a o s form
  | .sLeaSpill g d a o, s, form => execSLeaSpill_keepsForm g d a o s form
  | .sLeaClause g d a o, s, form => execSLeaClause_keepsForm g d a o s form
  | .trap g c, s, form => execTrap_keepsForm g c s form
  | .crRd g d n, s, form => execCrRd_keepsForm g d n s form
  | .crWr g a n, s, form => execCrWr_keepsForm g a n s form
  | .launch g d a, s, form => execLaunch_keepsForm g d a s form
  | .lwait g d a, s, form => execLwait_keepsForm g d a s form
  | .launchCtx g d a, s, form => execLaunchCtx_keepsForm g d a s form
  | .vAdd g t d a b e, s, form => execVAdd_keepsForm g t d a b e s form
  | .vSub g t d a b e, s, form => execVSub_keepsForm g t d a b e s form
  | .vMul g t d a b e, s, form => execVMul_keepsForm g t d a b e s form
  | .vFma g t d a b e, s, form => execVFma_keepsForm g t d a b e s form
  | .vFnma g t d a b e, s, form => execVFnma_keepsForm g t d a b e s form
  | .vMin g t d a b e, s, form => execVMin_keepsForm g t d a b e s form
  | .vMax g t d a b e, s, form => execVMax_keepsForm g t d a b e s form
  | .vDiv g t d a b e, s, form => execVDiv_keepsForm g t d a b e s form
  | .vRem g t d a b e, s, form => execVRem_keepsForm g t d a b e s form
  | .vSqrt g t d a e, s, form => execVSqrt_keepsForm g t d a e s form
  | .vAnd g t d a b e, s, form => execVAnd_keepsForm g t d a b e s form
  | .vOr g t d a b e, s, form => execVOr_keepsForm g t d a b e s form
  | .vXor g t d a b e, s, form => execVXor_keepsForm g t d a b e s form
  | .vShl g t d a b e, s, form => execVShl_keepsForm g t d a b e s form
  | .vShr g t d a b e, s, form => execVShr_keepsForm g t d a b e s form
  | .vUnAbs g t d a e, s, form => execVUnAbs_keepsForm g t d a e s form
  | .vUnNeg g t d a e, s, form => execVUnNeg_keepsForm g t d a e s form
  | .vUnNot g t d a e, s, form => execVUnNot_keepsForm g t d a e s form
  | .vUnPopc g t d a e, s, form => execVUnPopc_keepsForm g t d a e s form
  | .vUnClz g t d a e, s, form => execVUnClz_keepsForm g t d a e s form
  | .vUnCtz g t d a e, s, form => execVUnCtz_keepsForm g t d a e s form
  | .vUnBrev g t d a e, s, form => execVUnBrev_keepsForm g t d a e s form
  | .vUnRint g t d a m e, s, form => execVUnRint_keepsForm g t d a m e s form
  | .vCmpEq g t k a b e, s, form => execVCmpEq_keepsForm g t k a b e s form
  | .vCmpNe g t k a b e, s, form => execVCmpNe_keepsForm g t k a b e s form
  | .vCmpLt g t k a b e, s, form => execVCmpLt_keepsForm g t k a b e s form
  | .vCmpLe g t k a b e, s, form => execVCmpLe_keepsForm g t k a b e s form
  | .vCmpGt g t k a b e, s, form => execVCmpGt_keepsForm g t k a b e s form
  | .vCmpGe g t k a b e, s, form => execVCmpGe_keepsForm g t k a b e s form
  | .vCmpsEq g t d a b e, s, form => execVCmpsEq_keepsForm g t d a b e s form
  | .vCmpsLt g t d a b e, s, form => execVCmpsLt_keepsForm g t d a b e s form
  | .vCmpsLe g t d a b e, s, form => execVCmpsLe_keepsForm g t d a b e s form
  | .vBsel g t d a b e, s, form => execVBsel_keepsForm g t d a b e s form
  | .vCvt g t d a m sv e, s, form => execVCvt_keepsForm g t d a m sv e s form
  | .vMov g t d a e, s, form => execVMov_keepsForm g t d a e s form
  | .vMovi g t d iv, s, form => execVMovi_keepsForm g t d iv s form
  | .vBcs g t d a, s, form => execVBcs_keepsForm g t d a s form
  | .vSfuExp2 g t d a e, s, form => execVSfuExp2_keepsForm g t d a e s form
  | .vSfuExpe g t d a e, s, form => execVSfuExpe_keepsForm g t d a e s form
  | .vSfuLog2 g t d a e, s, form => execVSfuLog2_keepsForm g t d a e s form
  | .vSfuLoge g t d a e, s, form => execVSfuLoge_keepsForm g t d a e s form
  | .vSfuRcp g t d a e, s, form => execVSfuRcp_keepsForm g t d a e s form
  | .vSfuRsqrt g t d a e, s, form => execVSfuRsqrt_keepsForm g t d a e s form
  | .vSfuSinpi g t d a e, s, form => execVSfuSinpi_keepsForm g t d a e s form
  | .vSfuCospi g t d a e, s, form => execVSfuCospi_keepsForm g t d a e s form
  | .vAct g t d a n e, s, form => execVAct_keepsForm g t d a n e s form
  | .actLd g n a b e, s, form => execActLd_keepsForm g n a b e s form
  | .vMulhi g t d a b e, s, form => execVMulhi_keepsForm g t d a b e s form
  | .vPack g t d a b e, s, form => execVPack_keepsForm g t d a b e s form
  | .vDot g t d a b e, s, form => execVDot_keepsForm g t d a b e s form
  | .xShfl g t d a b e, s, form => execXShfl_keepsForm g t d a b e s form
  | .xShfliXor g d a sv, s, form => execXShfliXor_keepsForm g d a sv s form
  | .xShfliUp g d a sv, s, form => execXShfliUp_keepsForm g d a sv s form
  | .xShfliDown g d a sv, s, form => execXShfliDown_keepsForm g d a sv s form
  | .xShfliRot g d a sv, s, form => execXShfliRot_keepsForm g d a sv s form
  | .xBcast g t d a n e, s, form => execXBcast_keepsForm g t d a n e s form
  | .xRedAdd g t d a e, s, form => execXRedAdd_keepsForm g t d a e s form
  | .xRedMin g t d a e, s, form => execXRedMin_keepsForm g t d a e s form
  | .xRedMax g t d a e, s, form => execXRedMax_keepsForm g t d a e s form
  | .xRedAnd g t d a e, s, form => execXRedAnd_keepsForm g t d a e s form
  | .xRedOr g t d a e, s, form => execXRedOr_keepsForm g t d a e s form
  | .xRedXor g t d a e, s, form => execXRedXor_keepsForm g t d a e s form
  | .xScanAdd g t d a x e, s, form => execXScanAdd_keepsForm g t d a x e s form
  | .xScanMin g t d a x e, s, form => execXScanMin_keepsForm g t d a x e s form
  | .xScanMax g t d a x e, s, form => execXScanMax_keepsForm g t d a x e s form
  | .xScanAnd g t d a x e, s, form => execXScanAnd_keepsForm g t d a x e s form
  | .xScanOr g t d a x e, s, form => execXScanOr_keepsForm g t d a x e s form
  | .xScanXor g t d a x e, s, form => execXScanXor_keepsForm g t d a x e s form
  | .xBallot g t k a e, s, form => execXBallot_keepsForm g t k a e s form
  | .kOpAnd g d a b, s, form => execKOpAnd_keepsForm g d a b s form
  | .kOpOr g d a b, s, form => execKOpOr_keepsForm g d a b s form
  | .kOpXor g d a b, s, form => execKOpXor_keepsForm g d a b s form
  | .kOpAndn g d a b, s, form => execKOpAndn_keepsForm g d a b s form
  | .kOpNot g d a, s, form => execKOpNot_keepsForm g d a s form
  | .kOpMov g d a, s, form => execKOpMov_keepsForm g d a s form
  | .kOpFrom g d a, s, form => execKOpFrom_keepsForm g d a s form
  | .kOpTo g d a, s, form => execKOpTo_keepsForm g d a s form
  | .kOpPopc g d a, s, form => execKOpPopc_keepsForm g d a s form
  | .bsRd g t d a n e, s, form => execBsRd_keepsForm g t d a n e s form
  | .bsFill g d a b e, s, form => execBsFill_keepsForm g d a b e s form
  | .bsCurGet g d, s, form => execBsCurGet_keepsForm g d s form
  | .bsCurSet g a e, s, form => execBsCurSet_keepsForm g a e s form
  | .xSepk g t d a f sv e, s, form => execXSepk_keepsForm g t d a f sv e s form
  | .xSeunpk g t d a f sv e, s, form => execXSeunpk_keepsForm g t d a f sv e s form
  | .kTestAny g p k, s, form => execKTestAny_keepsForm g p k s form
  | .kTestAll g p k, s, form => execKTestAll_keepsForm g p k s form
  | .mLd g z d a sv e, s, form => execMLd_keepsForm g z d a sv e s form
  | .mSt g z d a sv e, s, form => execMSt_keepsForm g z d a sv e s form
  | .mLds g z d sv, s, form => execMLds_keepsForm g z d sv s form
  | .mAtomWAdd g z d a sv, s, form => execMAtomWAdd_keepsForm g z d a sv s form
  | .mAtomWMin g z d a sv, s, form => execMAtomWMin_keepsForm g z d a sv s form
  | .mAtomWMax g z d a sv, s, form => execMAtomWMax_keepsForm g z d a sv s form
  | .mAtomWMinn g z d a sv, s, form => execMAtomWMinn_keepsForm g z d a sv s form
  | .mAtomWMaxn g z d a sv, s, form => execMAtomWMaxn_keepsForm g z d a sv s form
  | .mAtomWAnd g z d a sv, s, form => execMAtomWAnd_keepsForm g z d a sv s form
  | .mAtomWOr g z d a sv, s, form => execMAtomWOr_keepsForm g z d a sv s form
  | .mAtomWXor g z d a sv, s, form => execMAtomWXor_keepsForm g z d a sv s form
  | .mAtomDAdd g z d a sv, s, form => execMAtomDAdd_keepsForm g z d a sv s form
  | .mAtomDMin g z d a sv, s, form => execMAtomDMin_keepsForm g z d a sv s form
  | .mAtomDMax g z d a sv, s, form => execMAtomDMax_keepsForm g z d a sv s form
  | .mAtomDMinn g z d a sv, s, form => execMAtomDMinn_keepsForm g z d a sv s form
  | .mAtomDMaxn g z d a sv, s, form => execMAtomDMaxn_keepsForm g z d a sv s form
  | .mAtomDAnd g z d a sv, s, form => execMAtomDAnd_keepsForm g z d a sv s form
  | .mAtomDOr g z d a sv, s, form => execMAtomDOr_keepsForm g z d a sv s form
  | .mAtomDXor g z d a sv, s, form => execMAtomDXor_keepsForm g z d a sv s form
  | .mAtomPAdd g z d a sv, s, form => execMAtomPAdd_keepsForm g z d a sv s form
  | .mAtomPMin g z d a sv, s, form => execMAtomPMin_keepsForm g z d a sv s form
  | .mAtomPMax g z d a sv, s, form => execMAtomPMax_keepsForm g z d a sv s form
  | .mAtomPMinn g z d a sv, s, form => execMAtomPMinn_keepsForm g z d a sv s form
  | .mAtomPMaxn g z d a sv, s, form => execMAtomPMaxn_keepsForm g z d a sv s form
  | .mAtomPAnd g z d a sv, s, form => execMAtomPAnd_keepsForm g z d a sv s form
  | .mAtomPOr g z d a sv, s, form => execMAtomPOr_keepsForm g z d a sv s form
  | .mAtomPXor g z d a sv, s, form => execMAtomPXor_keepsForm g z d a sv s form
  | .mXchg g z d a sv, s, form => execMXchg_keepsForm g z d a sv s form
  | .mCas g z d a sv, s, form => execMCas_keepsForm g z d a sv s form
  | .mArrive g d a iv, s, form => execMArrive_keepsForm g d a iv s form
  | .mWait g d a iv, s, form => execMWait_keepsForm g d a iv s form
  | .fenceAcq g sv, s, form => execFenceAcq_keepsForm g sv s form
  | .fenceRel g sv, s, form => execFenceRel_keepsForm g sv s form
  | .fenceAcqrel g sv, s, form => execFenceAcqrel_keepsForm g sv s form
  | .fenceSc g sv, s, form => execFenceSc_keepsForm g sv s form
  | .fenceTlr g, s, form => execFenceTlr_keepsForm g s form
  | .mPush g d n e, s, form => execMPush_keepsForm g d n e s form
  | .mPop g d n, s, form => execMPop_keepsForm g d n s form
  | .mLdv g t d a b e, s, form => execMLdv_keepsForm g t d a b e s form
  | .mStv g t d a b e, s, form => execMStv_keepsForm g t d a b e s form
  | .mRcnAdd g t d a e, s, form => execMRcnAdd_keepsForm g t d a e s form
  | .mRcnMax g t d a e, s, form => execMRcnMax_keepsForm g t d a e s form
  | .mRcnMin g t d a e, s, form => execMRcnMin_keepsForm g t d a e s form
  | .mRcnOr g t d a e, s, form => execMRcnOr_keepsForm g t d a e s form
  | .mRcnPick g t d a j e, s, form => execMRcnPick_keepsForm g t d a j e s form
  | .fork k offA offC av ab al bv bb bl, s, form => execFork_keepsForm k offA offC av ab al bv bb bl s form
  | .join k d a b e, s, form => execJoin_keepsForm k d a b e s form
  | .smask k, s, form => execSmask_keepsForm k s form
  | .setx g a iv, s, form => execSetx_keepsForm g a iv s form
  | .cCopy g d a b ilov verify sparse tc, s, form => execCCopy_keepsForm g d a b ilov verify sparse tc s form
  | .cMcast g d a b targets verify sparse tc, s, form => execCMcast_keepsForm g d a b targets verify sparse tc s form
  | .cClose g d, s, form => execCClose_keepsForm g d s form
  | .cWait g d a, s, form => execCWait_keepsForm g d a s form
  | .rPost g q, s, form => execRPost_keepsForm g q s form
  | .rWait g q a n, s, form => execRWait_keepsForm g q a n s form
  | .tBandOpen g, s, form => execTBandOpen_keepsForm g s form
  | .tBandClose g, s, form => execTBandClose_keepsForm g s form
  | .shpSet g h d a b, s, form => execShpSet_keepsForm g h d a b s form
  | .shpGet g h d sv, s, form => execShpGet_keepsForm g h d sv s form
  | .mxMap m r k w, s, form => execMxMap_keepsForm m r k w s form
  | .mxMma g h c m f sv b z, s, form => execMxMma_keepsForm g h c m f sv b z s form
  | .mxMv n h c m r o, s, form => execMxMv_keepsForm n h c m r o s form
  | .mxDrain h c d r a p q, s, form => execMxDrain_keepsForm h c d r a p q s form
  | .mxAccZero g h c, s, form => execMxAccZero_keepsForm g h c s form
  | .mxAccLoad g h c m, s, form => execMxAccLoad_keepsForm g h c m s form
  | .mxAccGet g h c d, s, form => execMxAccGet_keepsForm g h c d s form
  | .mxLeaseBind q b sv, s, form => execMxLeaseBind_keepsForm q b sv s form
  | .rep x y z n, s, form => execRep_keepsForm x y z n s form
  | .lgLd z d a sv, s, form => execLgLd_keepsForm z d a sv s form
  | .lgSt z d a sv, s, form => execLgSt_keepsForm z d a sv s form
  | .vIota g t d iv, s, form => execVIota_keepsForm g t d iv s form
  | .sysret, s, form => execSysret_keepsForm s form
  | .idle, s, form => execIdle_keepsForm s form
  | .actFlip, s, form => execActFlip_keepsForm s form
  | .ends, s, form => execEnds_keepsForm s form
  | .armwait, s, form => execArmwait_keepsForm s form
  | .exit, s, form => execExit_keepsForm s form
  | .mxLeaseAcq, s, form => execMxLeaseAcq_keepsForm s form
  | .mxLeaseRel, s, form => execMxLeaseRel_keepsForm s form
  | .lgBar, s, form => execLgBar_keepsForm s form
  | .repRepeat, s, form => execRepRepeat_keepsForm s form
  | .clauseBegin, s, form => execClauseBegin_keepsForm s form
  | .windowLoad, s, form => execWindowLoad_keepsForm s form
  | .pinGiveback, s, form => execPinGiveback_keepsForm s form
  | .quadIssueCycle, s, form => execQuadIssueCycle_keepsForm s form
  | .ageRotation, s, form => execAgeRotation_keepsForm s form
  | .longResultFill, s, form => execLongResultFill_keepsForm s form
  | .scalarFill, s, form => execScalarFill_keepsForm s form
  | .loadFill, s, form => execLoadFill_keepsForm s form
  | .atomicStep, s, form => execAtomicStep_keepsForm s form
  | .arrivalStep, s, form => execArrivalStep_keepsForm s form
  | .parkWake, s, form => execParkWake_keepsForm s form
  | .parkRetry, s, form => execParkRetry_keepsForm s form
  | .fenceComplete, s, form => execFenceComplete_keepsForm s form
  | .armwaitComplete, s, form => execArmwaitComplete_keepsForm s form
  | .joinIssue, s, form => execJoinIssue_keepsForm s form
  | .ringWaitComplete, s, form => execRingWaitComplete_keepsForm s form
  | .cWaitComplete, s, form => execCWaitComplete_keepsForm s form
  | .lgBarComplete, s, form => execLgBarComplete_keepsForm s form
  | .actLdWrite, s, form => execActLdWrite_keepsForm s form
  | .actFlipComplete, s, form => execActFlipComplete_keepsForm s form
  | .translationWalk, s, form => execTranslationWalk_keepsForm s form
  | .invalidatePage, s, form => execInvalidatePage_keepsForm s form
  | .invalidateAsid, s, form => execInvalidateAsid_keepsForm s form
  | .invalidateAll, s, form => execInvalidateAll_keepsForm s form
  | .invalidationComplete, s, form => execInvalidationComplete_keepsForm s form
  | .carderDecision, s, form => execCarderDecision_keepsForm s form
  | .queueEntry, s, form => execQueueEntry_keepsForm s form
  | .placementAttempt, s, form => execPlacementAttempt_keepsForm s form
  | .carderPreemption, s, form => execCarderPreemption_keepsForm s form
  | .launchCompletion, s, form => execLaunchCompletion_keepsForm s form
  | .copyPartCompletion, s, form => execCopyPartCompletion_keepsForm s form
  | .mcastDelivery, s, form => execMcastDelivery_keepsForm s form
  | .matrixOperationCompletion, s, form => execMatrixOperationCompletion_keepsForm s form
  | .drainCompletion, s, form => execDrainCompletion_keepsForm s form
  | .leaseGrant, s, form => execLeaseGrant_keepsForm s form
  | .leasePass, s, form => execLeasePass_keepsForm s form
  | .bandRecordWrite, s, form => execBandRecordWrite_keepsForm s form
  | .cellStep, s, form => execCellStep_keepsForm s form
  | .battEnable, s, form => execBattEnable_keepsForm s form
  | .battDisable, s, form => execBattDisable_keepsForm s form
  | .battChangeDone, s, form => execBattChangeDone_keepsForm s form
  | .trapEntry, s, form => execTrapEntry_keepsForm s form
  | .interrupt, s, form => execInterrupt_keepsForm s form
  | .timer, s, form => execTimer_keepsForm s form
  | .warpIdleTimeout, s, form => execWarpIdleTimeout_keepsForm s form
  | .saveAndRequeue, s, form => execSaveAndRequeue_keepsForm s form
  | .saveAndHold, s, form => execSaveAndHold_keepsForm s form
  | .prel, s, form => execPrel_keepsForm s form
  | .saveCompletion, s, form => execSaveCompletion_keepsForm s form
  | .restore, s, form => execRestore_keepsForm s form
  | .mapq, s, form => execMapq_keepsForm s form
  | .memoryMapConfigWrite, s, form => execMemoryMapConfigWrite_keepsForm s form
  | .retreq, s, form => execRetreq_keepsForm s form
  | .retirementComplete, s, form => execRetirementComplete_keepsForm s form
  | .pprreq, s, form => execPprreq_keepsForm s form
  | .repairComplete, s, form => execRepairComplete_keepsForm s form
  | .rateChange, s, form => execRateChange_keepsForm s form
  | .retrainComplete, s, form => execRetrainComplete_keepsForm s form
  | .forcedRetrain, s, form => execForcedRetrain_keepsForm s form
  | .pseudoChannelService, s, form => execPseudoChannelService_keepsForm s form
  | .linkFrameFailure, s, form => execLinkFrameFailure_keepsForm s form
  | .sessionKeyReplacement, s, form => execSessionKeyReplacement_keepsForm s form
  | .uncorrectableError, s, form => execUncorrectableError_keepsForm s form
  | .fabricLinkFailure, s, form => execFabricLinkFailure_keepsForm s form
  | .hmsix, s, form => execHmsix_keepsForm s form
  | .hostBarAccess, s, form => execHostBarAccess_keepsForm s form
  | .cxlMemAccess, s, form => execCxlMemAccess_keepsForm s form
  | .nvmeDma, s, form => execNvmeDma_keepsForm s form
  | .storageMessage, s, form => execStorageMessage_keepsForm s form
  | .sealgo, s, form => execSealgo_keepsForm s form
  | .sealComplete, s, form => execSealComplete_keepsForm s form
  | .xopWrite, s, form => execXopWrite_keepsForm s form
  | .xopAddFp32, s, form => execXopAddFp32_keepsForm s form
  | .xopAddBf16, s, form => execXopAddBf16_keepsForm s form
  | .xopAddFp16, s, form => execXopAddFp16_keepsForm s form
  | .scaleOutAcknowledge, s, form => execScaleOutAcknowledge_keepsForm s form
  | .scaleOutTimeout, s, form => execScaleOutTimeout_keepsForm s form
  | .start, s, form => execStart_keepsForm s form
  | .signal, s, form => execSignal_keepsForm s form
  | .scvecClear, s, form => execScvecClear_keepsForm s form
  | .assignSlot, s, form => execAssignSlot_keepsForm s form
  | .emptySlot, s, form => execEmptySlot_keepsForm s form
  | .registerTenant, s, form => execRegisterTenant_keepsForm s form
  | .markConfidential, s, form => execMarkConfidential_keepsForm s form
  | .divide, s, form => execDivide_keepsForm s form
  | .powerLimit, s, form => execPowerLimit_keepsForm s form
  | .ready, s, form => execReady_keepsForm s form
  | .setPowerLimit, s, form => execSetPowerLimit_keepsForm s form
  | .readPowerLimit, s, form => execReadPowerLimit_keepsForm s form
  | .readStatus, s, form => execReadStatus_keepsForm s form
  | .sessionOpen, s, form => execSessionOpen_keepsForm s form
  | .endSession, s, form => execEndSession_keepsForm s form
  | .sessionTimeout, s, form => execSessionTimeout_keepsForm s form
  | .setBreakpoint, s, form => execSetBreakpoint_keepsForm s form
  | .clearBreakpoint, s, form => execClearBreakpoint_keepsForm s form
  | .setWatchpoint, s, form => execSetWatchpoint_keepsForm s form
  | .clearWatchpoint, s, form => execClearWatchpoint_keepsForm s form
  | .setCapture, s, form => execSetCapture_keepsForm s form
  | .startCapture, s, form => execStartCapture_keepsForm s form
  | .freezeCapture, s, form => execFreezeCapture_keepsForm s form
  | .setTrigger, s, form => execSetTrigger_keepsForm s form
  | .markForRecording, s, form => execMarkForRecording_keepsForm s form
  | .replay, s, form => execReplay_keepsForm s form
  | .setContinueLive, s, form => execSetContinueLive_keepsForm s form
  | .dumpParkTable, s, form => execDumpParkTable_keepsForm s form
  | .poll, s, form => execPoll_keepsForm s form
  | .release, s, form => execRelease_keepsForm s form
  | .loadKey, s, form => execLoadKey_keepsForm s form
  | .sample, s, form => execSample_keepsForm s form
  | .junctionLimit, s, form => execJunctionLimit_keepsForm s form
  | .thermalShutdown, s, form => execThermalShutdown_keepsForm s form
  | .flowHold, s, form => execFlowHold_keepsForm s form
  | .flowRecovery, s, form => execFlowRecovery_keepsForm s form
  | .flowLoss, s, form => execFlowLoss_keepsForm s form
  | .bringUp, s, form => execBringUp_keepsForm s form
  | .freeze, s, form => execFreeze_keepsForm s form
  | .masterReset, s, form => execMasterReset_keepsForm s form
  | .ioRegisterWrite, s, form => execIoRegisterWrite_keepsForm s form
  | .scaleOutRequestArrival, s, form => execScaleOutRequestArrival_keepsForm s form
  | .hostLinkState, s, form => execHostLinkState_keepsForm s form
  | .cxlMemEnable, s, form => execCxlMemEnable_keepsForm s form
  | .killLaunch, s, form => execKillLaunch_keepsForm s form

theorem attemptOf_keepsForm (s : State) (a : Agent) (r : Issue) (next : issueOk r) : outOk (attemptOf s a r) := by
  unfold attemptOf
  split
  · refine outOk_ite (issued_keepsForm _ _ _ _ (exec_keepsForm _ _ ?_)) (exec_keepsForm _ _ next)
    rw [raceView_keepsMem]
    exact next
  · refine outOk_next.mpr ?_
    rw [arrived_keepsMem]
    exact next

theorem attempt_keepsForm (s : State) (a : Agent) (form : Memory.wf s.mem) : outOk (attempt s a) :=
  outOk_ite (outOk_next.mpr form) (attemptOf_keepsForm _ _ _ (issueWith_issueOk false form))

theorem issueStep_keepsForm (s : State) (form : Memory.wf s.mem) : outOk (issueStep s) := by
  simp only [issueStep, Memory.wf, attempt_keepsForm, form]

theorem showStore_keepsMem (s : State) (key id i : Nat) : (showStore s key id i).mem = s.mem := by
  unfold showStore
  dsimp only
  repeat' split
  all_goals simp only [putCtx_keepsMem, again_keepsMem]

theorem settleWait_keepsForm (n : Nat) (s : State) (a : Agent) (form : Memory.wf s.mem) :
    Memory.wf (settleWait n s a).mem := by
  induction n generalizing s with
  | zero => exact form
  | succ n ih =>
    have tried := attempt_keepsForm s a form
    rw [settleWait]
    split
    · exact form
    · split
      next t same =>
        have next := tried t same
        split
        · exact next
        · split
          · exact ih _ next
          · exact form
      next => exact form

theorem settleWaits_keepsForm (s : State) (x1 : List Agent) (form : Memory.wf s.mem) :
    Memory.wf (settleWaits s x1).mem := by
  induction x1 generalizing s with
  | nil => exact form
  | cons x rest ih =>
    rw [settleWaits]
    split <;> simp only [ih, Memory.wf, settleWait_keepsForm, form]

theorem survey_keepsForm (i : Instr) (s : State) (form : Memory.wf s.mem) : Memory.wf (survey i s).mem := by
  unfold survey
  split <;> simp only [Memory.wf, settleWaits_keepsForm, form]

theorem move_keepsForm (a : Act) (s : State) (form : Memory.wf s.mem) : outOk (move a s) := by
  unfold move
  split
  · exact outOk_ite (outOk_next.mpr form) (exec_keepsForm _ _ (survey_keepsForm _ _ form))
  · exact issueStep_keepsForm _ form
  · exact outOk_next.mpr (performStore_keepsForm _ _ _ _ form)
  · exact outOk_next.mpr (by rwa [showStore_keepsMem])

theorem act_keepsForm (a : Act) (s : State) (form : Memory.wf s.mem) : outOk (act a s) := by
  unfold act
  split <;> simp only [Memory.wf, outOk_next, move_keepsForm, form]

theorem watchLead_keepsMem (s : State) (e : Nat × EngineOp) : (watchLead s e).mem = s.mem := by
  unfold watchLead
  dsimp only
  repeat' split
  all_goals simp only [stampBand_keepsMem]

theorem watchEngines_keepsMem (s : State) :
    (watchEngines s).mem = s.mem := foldl_keepsMem (fun _ _ => watchLead_keepsMem _ _) _ _

theorem elapse_keepsMem (s : State) : (elapse s).mem = s.mem := rfl

theorem step_keepsForm (s : State) (form : Memory.wf s.mem) : outOk (step s) := by
  have goes : Memory.wf (onward s).mem := by rwa [onward, elapse_keepsMem, watchEngines_keepsMem]
  rw [step]
  split
  · exact act_keepsForm _ _ goes
  · split
    · exact act_keepsForm _ _ goes
    · exact issueStep_keepsForm _ goes

/-- Settles O7: by one lemma for each function that a step runs; each store of bytes leaves the form. -/
theorem stepKeepsMemoryForm : Obligations.StepKeepsMemoryForm := by
  unfold Obligations.StepKeepsMemoryForm
  exact fun s t form is => step_keepsForm s form t is

end Sys2Proof.Proofs

end

section

/-!
PROOFS. O26: rounding on the grid of a format's patterns.

The patterns of a format, taken as numbers, stand in the order of their magnitudes: `gridVal` counts the magnitude of a
pattern in units of the least one. Rounding takes the last pattern whose magnitude is not above the exact one, or the
next, as its mode says.
-/

namespace Sys2Proof.Proofs

open Sys2Proof Sys2Proof.Machine Sys2Proof.Laws

/-! ## The grid of a format -/

/-- The magnitude of a pattern without sign, in units of the least nonzero one. -/
def gridVal (f : Fmt) (p : Nat) : Nat :=
  if p / 2 ^ f.fbits = 0 then p % 2 ^ f.fbits else (2 ^ f.fbits + p % 2 ^ f.fbits) * 2 ^ (p / 2 ^ f.fbits - 1)

/-- A pattern whose binade is number n, counted from the subnormals' own, and whose significand is b. -/
theorem gridVal_binade (f : Fmt) (n b : Nat) (small : b ≤ 2 ^ (f.fbits + 1)) (normal : n = 0 ∨ 2 ^ f.fbits ≤ b) :
    gridVal f (n * 2 ^ f.fbits + b) = b * 2 ^ n := by
  have pos : 0 < 2 ^ f.fbits := Nat.two_pow_pos _
  rw [Nat.pow_succ] at small
  generalize hF : 2 ^ f.fbits = F at *
  rw [gridVal, hF]
  rcases Nat.lt_or_ge b F with low | high
  · obtain rfl : n = 0 := by omega
    rw [Nat.zero_mul, Nat.zero_add, if_pos (Nat.div_eq_of_lt low), Nat.mod_eq_of_lt low, Nat.pow_zero, Nat.mul_one]
  · obtain ⟨c, rfl⟩ := Nat.exists_eq_add_of_le high
    have split : n * F + (F + c) = c + (n + 1) * F := by rw [Nat.add_mul, Nat.one_mul]; omega
    rcases Nat.lt_or_ge c F with below | top
    · have quot : (n * F + (F + c)) / F = n + 1 := by
        rw [split, Nat.add_mul_div_right _ _ pos, Nat.div_eq_of_lt below, Nat.zero_add]
      have rem : (n * F + (F + c)) % F = c := by rw [split, Nat.add_mul_mod_self_right, Nat.mod_eq_of_lt below]
      rw [quot, rem, if_neg (Nat.succ_ne_zero n), Nat.add_sub_cancel]
    · obtain rfl : c = F := by omega
      have quot : (n * c + (c + c)) / c = n + 2 := by
        rw [show n * c + (c + c) = (n + 2) * c by rw [Nat.add_mul]; omega, Nat.mul_div_cancel _ pos]
      have rem : (n * c + (c + c)) % c = 0 := by
        rw [show n * c + (c + c) = (n + 2) * c by rw [Nat.add_mul]; omega, Nat.mul_mod_left]
      rw [quot, rem, if_neg (by omega), Nat.add_zero, show n + 2 - 1 = n + 1 from rfl, Nat.pow_succ]
      ring

/-- A pattern stands in its binade: its number and its significand. -/
theorem grid_binade (f : Fmt) (p : Nat) :
    ∃ n b, p = n * 2 ^ f.fbits + b ∧ b < 2 ^ (f.fbits + 1) ∧ (n = 0 ∨ 2 ^ f.fbits ≤ b) ∧ n = p / 2 ^ f.fbits - 1 := by
  have pos : 0 < 2 ^ f.fbits := Nat.two_pow_pos _
  have whole := Nat.div_add_mod' p (2 ^ f.fbits)
  have rem := Nat.mod_lt p pos
  rw [Nat.pow_succ]
  generalize 2 ^ f.fbits = F at *
  cases binade : p / F with
  | zero =>
    rw [binade] at whole
    exact ⟨0, p, by omega, by omega, .inl rfl, rfl⟩
  | succ n =>
    rw [binade, Nat.add_mul, Nat.one_mul] at whole
    exact ⟨n, F + p % F, by omega, by omega, .inr (by omega), rfl⟩

/-- The next pattern lies one unit in the last place higher. -/
theorem gridVal_succ (f : Fmt) (p : Nat) : gridVal f (p + 1) = gridVal f p + 2 ^ (p / 2 ^ f.fbits - 1) := by
  obtain ⟨n, b, is, small, normal, binade⟩ := grid_binade f p
  rw [← binade, is, gridVal_binade f n b small.le normal, Nat.add_assoc,
    gridVal_binade f n (b + 1) small (normal.imp_right fun h => h.trans (Nat.le_succ b)), Nat.add_mul, Nat.one_mul]

theorem gridVal_strictMono (f : Fmt) : StrictMono (gridVal f) :=
  strictMono_nat_of_lt_succ fun p => gridVal_succ f p ▸ Nat.lt_add_of_pos_right (Nat.two_pow_pos _)

/-- The number that a finite pattern stands for has the magnitude that the grid gives. -/
theorem numOf_finite (f : Fmt) (x : Nat) (finite : x % f.signBit < f.infBits) :
    ∃ n h, numOf f x = .fin (x / f.signBit % 2 == 1) n h ∧ ∀ u : Int, u ≤ f.emin - f.fbits →
      u ≤ h ∧ n * 2 ^ (h - u).toNat = gridVal f (x % f.signBit) * 2 ^ (f.emin - f.fbits - u).toNat := by
  have cut : f.signBit = 2 ^ f.fbits * 2 ^ f.ebits := by rw [Fmt.signBit, Nat.pow_add, Nat.mul_comm]
  have low : x % f.signBit / 2 ^ f.fbits < 2 ^ f.ebits - 1 :=
    Nat.div_lt_of_lt_mul (by rwa [Fmt.infBits, Nat.mul_comm] at finite)
  have field : x / 2 ^ f.fbits % 2 ^ f.ebits = x % f.signBit / 2 ^ f.fbits := by rw [cut, Nat.mod_mul_right_div_self]
  have frac : x % 2 ^ f.fbits = x % f.signBit % 2 ^ f.fbits := by rw [cut, Nat.mod_mul_right_mod]
  rw [numOf, field, frac]
  rw [if_neg low.ne, gridVal]
  split
  · exact ⟨_, _, rfl, fun u h => ⟨h, rfl⟩⟩
  next normal =>
    refine ⟨_, _, rfl, fun u h => ⟨by rw [Fmt.emin] at h; omega, ?_⟩⟩
    rw [Nat.mul_assoc, ← Nat.pow_add]
    congr 2
    rw [Fmt.emin] at *
    omega

/-! ## Rounding to a multiple of a power of two -/

/-- Whether a mode rounds a magnitude that lies from `low` on and below `high` to `high`, where `odd` says that the
number of `low` is odd. -/
def roundsUp (mode : Nat) (neg odd : Bool) (low high x : Nat) : Bool :=
  match mode with
  | 0 => decide (low + high < 2 * x) || (decide (2 * x = low + high) && odd)
  | 1 => false
  | 2 => decide (x ≠ low) && !neg
  | _ => decide (x ≠ low) && neg

/-- Rounding whose remainder stands to its half as the magnitude x to the middle between b units and b + 1. -/
theorem roundAt_of {m : Nat} {e q : Int} {b rest half low high x : Nat}
    (base_eq : (if q ≤ e then m * 2 ^ (e - q).toNat else m / 2 ^ (q - e).toNat) = b)
    (rest_eq : (if q ≤ e then 0 else m % 2 ^ (q - e).toNat) = rest)
    (half_eq : (if q ≤ e then 1 else 2 ^ (q - e).toNat / 2) = half) (exact : rest ≠ 0 ↔ x ≠ low)
    (above : half < rest ↔ low + high < 2 * x) (middle : rest = half ↔ 2 * x = low + high) (mode : Nat) (neg : Bool) :
    roundAt mode neg m e q false = (if roundsUp mode neg (b % 2 == 1) low high x then b + 1 else b,
      decide (x ≠ low)) := by
  have inexact : (rest != 0) = decide (x ≠ low) := Bool.eq_iff_iff.mpr (by simpa using exact)
  have above : decide (half < rest) = decide (low + high < 2 * x) := decide_eq_decide.mpr above
  have middle : (rest == half) = decide (2 * x = low + high) := Bool.eq_iff_iff.mpr (by simpa using middle)
  rcases mode with _ | _ | _ | _ <;>
    simp only [roundAt, roundsUp, base_eq, rest_eq, half_eq, inexact, above, middle, Bool.or_false, Bool.false_or]

/-- A magnitude that exceeds b units of k = 2 × half by rest, all counted w times. -/
theorem excess_units {m b k rest half w : Nat} (whole : b * k + rest = m) (below : rest < k) (even : k = 2 * half)
    (pos : 0 < w) :
    (b * (k * w) ≤ m * w ∧ m * w < (b + 1) * (k * w)) ∧ (rest ≠ 0 ↔ m * w ≠ b * (k * w)) ∧
      (half < rest ↔ b * (k * w) + (b + 1) * (k * w) < 2 * (m * w)) ∧
      (rest = half ↔ 2 * (m * w) = b * (k * w) + (b + 1) * (k * w)) := by
  have excess : m * w = b * (k * w) + rest * w := by rw [← whole]; ring
  have next : (b + 1) * (k * w) = b * (k * w) + 2 * (half * w) := by rw [even]; ring
  have lt : rest * w < 2 * (half * w) := by rw [← Nat.mul_assoc, ← even]; exact (Nat.mul_lt_mul_right pos).mpr below
  have zero : rest * w = 0 ↔ rest = 0 := by rw [Nat.mul_eq_zero, or_iff_left pos.ne']
  have above : half * w < rest * w ↔ half < rest := Nat.mul_lt_mul_right pos
  have same : rest * w = half * w ↔ rest = half := Nat.mul_left_inj pos.ne'
  rw [excess, next]
  exact ⟨by omega, by omega, by omega, by omega⟩

/-- What rounding to multiples of 2^q does, in units of 2^u. -/
theorem roundAt_units (m : Nat) (e q u : Int) (le_e : u ≤ e) (le_q : u ≤ q) :
    ∃ b, b * 2 ^ (q - u).toNat ≤ m * 2 ^ (e - u).toNat ∧ m * 2 ^ (e - u).toNat < (b + 1) * 2 ^ (q - u).toNat ∧
      ∀ mode neg, roundAt mode neg m e q false =
        (if roundsUp mode neg (b % 2 == 1) (b * 2 ^ (q - u).toNat) ((b + 1) * 2 ^ (q - u).toNat) (m * 2 ^ (e - u).toNat)
            then b + 1 else b,
          decide (m * 2 ^ (e - u).toNat ≠ b * 2 ^ (q - u).toNat)) := by
  have pos : 0 < 2 ^ (q - u).toNat := Nat.two_pow_pos _
  rcases le_or_gt q e with fine | coarse
  · have whole : m * 2 ^ (e - u).toNat = m * 2 ^ (e - q).toNat * 2 ^ (q - u).toNat := by
      rw [Nat.mul_assoc, ← Nat.pow_add]
      congr 2
      omega
    rw [whole]
    generalize hb : m * 2 ^ (e - q).toNat = b
    generalize 2 ^ (q - u).toNat = unit at pos
    have next : (b + 1) * unit = b * unit + unit := Nat.succ_mul b unit
    exact ⟨b, le_rfl, Nat.mul_lt_mul_of_pos_right (Nat.lt_succ_self _) pos,
      roundAt_of ((if_pos fine).trans hb) (if_pos fine) (if_pos fine) (iff_of_false (fun h => h rfl) fun h => h rfl)
        (iff_of_false (by omega) (by omega)) (iff_of_false (by omega) (by omega))⟩
  · have unit : 2 ^ (q - u).toNat = 2 ^ (q - e).toNat * 2 ^ (e - u).toNat := by
      rw [← Nat.pow_add]
      congr 1
      omega
    have even : 2 ^ (q - e).toNat = 2 * (2 ^ (q - e).toNat / 2) := by
      obtain ⟨k, is⟩ := Nat.exists_eq_succ_of_ne_zero (n := (q - e).toNat) (by omega)
      rw [is, Nat.pow_succ]
      omega
    have high : ¬ q ≤ e := not_le.mpr coarse
    obtain ⟨⟨from_, below⟩, exact, above, middle⟩ := excess_units (Nat.div_add_mod' m (2 ^ (q - e).toNat))
      (Nat.mod_lt m (Nat.two_pow_pos _)) even (Nat.two_pow_pos (e - u).toNat)
    rw [unit]
    exact ⟨_, from_, below, roundAt_of (if_neg high) (if_neg high) (if_neg high) exact above middle⟩

/-! ## Rounding on the grid -/

/-- A pattern B is the last whose magnitude, in units of which g make the least one, is not above x. -/
structure Between (f : Fmt) (B x g : Nat) : Prop where
  low : gridVal f B * g ≤ x
  high : x < gridVal f (B + 1) * g

namespace Between

variable {f : Fmt} {B x g : Nat}

theorem pos (h : Between f B x g) : 0 < g := by
  rcases Nat.eq_zero_or_pos g with rfl | pos
  · exact absurd h.high (Nat.not_lt_zero _)
  · exact pos

theorem le_of_lt (h : Between f B x g) {p : Nat} (lt : x < gridVal f (p + 1) * g) : B ≤ p :=
  Nat.lt_succ_iff.mp ((gridVal_strictMono f).lt_iff_lt.mp (Nat.lt_of_mul_lt_mul_right (h.low.trans_lt lt)))

theorem le_of_le (h : Between f B x g) {p : Nat} (le : gridVal f p * g ≤ x) : p ≤ B :=
  Nat.lt_succ_iff.mp ((gridVal_strictMono f).lt_iff_lt.mp (Nat.lt_of_mul_lt_mul_right (le.trans_lt h.high)))

theorem eq_of_exact (h : Between f B x g) {p : Nat} (exact : x = gridVal f p * g) : B = p := by
  refine Nat.le_antisymm (h.le_of_lt ?_) (h.le_of_le exact.ge)
  rw [exact]
  exact Nat.mul_lt_mul_of_pos_right (gridVal_strictMono f (Nat.lt_succ_self p)) h.pos

end Between

/-- The pattern that a mode takes for the magnitude x, where B is the last pattern not above it and g counts the units
of the least magnitude. -/
def gridRound (f : Fmt) (mode : Nat) (neg : Bool) (B x g : Nat) : Nat :=
  if roundsUp mode neg (B % 2 == 1) (gridVal f B * g) (gridVal f (B + 1) * g) x then B + 1 else B

/-- The significand at the exponent that rounding takes is normal, or the binade is the subnormals'. -/
theorem significand_bounds {f : Fmt} {m b : Nat} {e u : Int} (some : m ≠ 0) (le_e : u ≤ e) (le_f : u ≤ f.emin - f.fbits)
    (from_ : b * 2 ^ (max ((Nat.log2 m : Int) + e) f.emin - f.fbits - u).toNat ≤ m * 2 ^ (e - u).toNat)
    (below : m * 2 ^ (e - u).toNat < (b + 1) * 2 ^ (max ((Nat.log2 m : Int) + e) f.emin - f.fbits - u).toNat) :
    b < 2 ^ (f.fbits + 1) ∧ ((max ((Nat.log2 m : Int) + e) f.emin - f.emin).toNat = 0 ∨ 2 ^ f.fbits ≤ b) := by
  have least := Nat.log2_self_le some
  have most : m < 2 ^ (Nat.log2 m + 1) := Nat.lt_log2_self
  have pos : 0 < 2 ^ (e - u).toNat := Nat.two_pow_pos _
  generalize Nat.log2 m = l at *
  constructor
  · refine Nat.lt_of_mul_lt_mul_right (from_.trans_lt ((Nat.mul_lt_mul_of_pos_right most pos).trans_le ?_))
    rw [← Nat.pow_add, ← Nat.pow_add]
    exact Nat.pow_le_pow_right Nat.two_pos (by omega)
  · rcases le_or_gt ((l : Int) + e) f.emin with low | high
    · exact .inl (by omega)
    · refine .inr (Nat.lt_succ_iff.mp (Nat.lt_of_mul_lt_mul_right (lt_of_le_of_lt (le_trans ?_
        (Nat.mul_le_mul_right _ least)) below)))
      rw [← Nat.pow_add, ← Nat.pow_add]
      exact Nat.pow_le_pow_right Nat.two_pos (by omega)

/-- What rounding a magnitude into a format answers. -/
theorem roundMag_grid {f : Fmt} (wide : 0 < f.fbits) {m : Nat} {e u : Int} (some : m ≠ 0) (le_e : u ≤ e)
    (le_f : u ≤ f.emin - f.fbits) :
    ∃ B, Between f B (m * 2 ^ (e - u).toNat) (2 ^ (f.emin - f.fbits - u).toNat) ∧ ∀ mode neg,
        let bits := gridRound f mode neg B (m * 2 ^ (e - u).toNat) (2 ^ (f.emin - f.fbits - u).toNat)
        let sign := if neg then f.signBit else 0
        (f.infBits ≤ bits → roundMag f mode neg m e false = (sign + overflowBits f mode neg, flagOf ||| flagNx)) ∧
          (bits < f.infBits → (roundMag f mode neg m e false).1 = sign + bits ∧
            (m * 2 ^ (e - u).toNat = gridVal f B * 2 ^ (f.emin - f.fbits - u).toNat →
              (roundMag f mode neg m e false).2 = 0)) := by
  obtain ⟨b, from_, below, rounds⟩ := roundAt_units m e (max ((Nat.log2 m : Int) + e) f.emin - f.fbits) u le_e
    (by omega)
  obtain ⟨small, normal⟩ := significand_bounds some le_e le_f from_ below
  generalize hn : (max ((Nat.log2 m : Int) + e) f.emin - f.emin).toNat = n at normal
  have unit : 2 ^ (max ((Nat.log2 m : Int) + e) f.emin - f.fbits - u).toNat = 2 ^ n * 2 ^ (f.emin - f.fbits - u).toNat := by
    rw [← Nat.pow_add]
    congr 1
    omega
  have low : b * (2 ^ n * 2 ^ (f.emin - f.fbits - u).toNat) =
      gridVal f (n * 2 ^ f.fbits + b) * 2 ^ (f.emin - f.fbits - u).toNat := by
    rw [gridVal_binade f n b small.le normal, Nat.mul_assoc]
  have high : (b + 1) * (2 ^ n * 2 ^ (f.emin - f.fbits - u).toNat) =
      gridVal f (n * 2 ^ f.fbits + b + 1) * 2 ^ (f.emin - f.fbits - u).toNat := by
    rw [Nat.add_assoc, gridVal_binade f n (b + 1) small (normal.imp_right fun h => h.trans (Nat.le_succ b)),
      Nat.mul_assoc]
  have parity : b % 2 = (n * 2 ^ f.fbits + b) % 2 := by
    obtain ⟨k, is⟩ := Nat.exists_eq_succ_of_ne_zero wide.ne'
    rw [is, Nat.pow_succ, ← Nat.mul_assoc]
    omega
  simp only [unit, low, high, parity] at from_ below rounds
  refine ⟨n * 2 ^ f.fbits + b, ⟨from_, below⟩, fun mode neg => ?_⟩
  intro bits sign
  obtain ⟨flags, is⟩ : ∃ flags, roundMag f mode neg m e false =
      if f.infBits ≤ (max ((Nat.log2 m : Int) + e) f.emin - f.emin).toNat * 2 ^ f.fbits +
          (roundAt mode neg m e (max ((Nat.log2 m : Int) + e) f.emin - f.fbits) false).1
      then (sign + overflowBits f mode neg, flagOf ||| flagNx)
      else (sign + ((max ((Nat.log2 m : Int) + e) f.emin - f.emin).toNat * 2 ^ f.fbits +
          (roundAt mode neg m e (max ((Nat.log2 m : Int) + e) f.emin - f.fbits) false).1),
        if (roundAt mode neg m e (max ((Nat.log2 m : Int) + e) f.emin - f.fbits) false).2 then flags else 0) := ⟨_, rfl⟩
  have same : n * 2 ^ f.fbits + (roundAt mode neg m e (max ((Nat.log2 m : Int) + e) f.emin - f.fbits) false).1 = bits := by
    rw [rounds]
    exact (apply_ite (n * 2 ^ f.fbits + ·) _ _ _)
  rw [hn, same, rounds] at is
  rw [is]
  refine ⟨fun h => if_pos h, fun h => ?_⟩
  rw [if_neg (not_le.mpr h)]
  exact ⟨rfl, fun exact => if_neg (by simpa using exact)⟩

theorem gridRound_down (f : Fmt) (neg : Bool) (B x g : Nat) : gridRound f 1 neg B x g = B := rfl

theorem gridRound_up {f : Fmt} {B x g : Nat} (inexact : x ≠ gridVal f B * g) (neg : Bool) :
    gridRound f 2 neg B x g = if neg then B else B + 1 := by
  cases neg <;> simp [gridRound, roundsUp, inexact]

theorem gridRound_floor {f : Fmt} {B x g : Nat} (inexact : x ≠ gridVal f B * g) (neg : Bool) :
    gridRound f 3 neg B x g = if neg then B + 1 else B := by
  cases neg <;> simp [gridRound, roundsUp, inexact]

theorem gridRound_exact {f : Fmt} {B x g : Nat} (h : Between f B x g) (exact : x = gridVal f B * g) (mode : Nat)
    (neg : Bool) :
    gridRound f mode neg B x g = B := by
  have next := h.high
  rw [gridRound, ← exact, if_neg]
  rcases mode with _ | _ | _ | _ <;> simp [roundsUp]
  omega

theorem le_gridRound (f : Fmt) (mode : Nat) (neg : Bool) (B x g : Nat) : B ≤ gridRound f mode neg B x g := by
  rw [gridRound]
  split <;> omega

/-- Rounding to nearest goes up above the middle, and in the middle from an odd pattern. -/
theorem gridRound_nearest_cases (f : Fmt) (neg : Bool) (B x g : Nat) :
    (gridRound f 0 neg B x g = B + 1 ∧ (gridVal f B * g + gridVal f (B + 1) * g < 2 * x ∨
      (2 * x = gridVal f B * g + gridVal f (B + 1) * g ∧ B % 2 = 1))) ∨
    (gridRound f 0 neg B x g = B ∧ (2 * x < gridVal f B * g + gridVal f (B + 1) * g ∨
      (2 * x = gridVal f B * g + gridVal f (B + 1) * g ∧ B % 2 = 0))) := by
  rw [gridRound]
  split
  next up =>
    refine .inl ⟨rfl, ?_⟩
    simpa [roundsUp] using up
  next down =>
    have stays : ¬ (gridVal f B * g + gridVal f (B + 1) * g < 2 * x ∨
        (2 * x = gridVal f B * g + gridVal f (B + 1) * g ∧ B % 2 = 1)) := by simpa [roundsUp] using down
    exact .inr ⟨rfl, by omega⟩

/-- No pattern lies nearer than the one rounded to, and if another lies as near the one rounded to is even. -/
theorem gridRound_nearest {f : Fmt} {B x g : Nat} (h : Between f B x g) (neg : Bool) (p : Nat) :
    |(x : Int) - (gridVal f (gridRound f 0 neg B x g) * g : Nat)| ≤ |(x : Int) - (gridVal f p * g : Nat)| ∧
      (p ≠ gridRound f 0 neg B x g →
        |(x : Int) - (gridVal f (gridRound f 0 neg B x g) * g : Nat)| = |(x : Int) - (gridVal f p * g : Nat)| →
          gridRound f 0 neg B x g % 2 = 0) := by
  have mono {a b : Nat} (lt : a < b) : gridVal f a * g < gridVal f b * g :=
    Nat.mul_lt_mul_of_pos_right (gridVal_strictMono f lt) h.pos
  obtain ⟨low, high⟩ := h
  have sides : (p = B ∨ p = B + 1) ∨ gridVal f p * g < gridVal f B * g ∨ gridVal f (B + 1) * g < gridVal f p * g := by
    rcases Nat.lt_trichotomy p B with below | same | above
    · exact .inr (.inl (mono below))
    · exact .inl (.inl same)
    · rcases Nat.eq_or_lt_of_le (Nat.succ_le_of_lt above) with next | beyond
      · exact .inl (.inr next.symm)
      · exact .inr (.inr (mono beyond))
  rw [Int.abs_eq_natAbs, Int.abs_eq_natAbs]
  rcases gridRound_nearest_cases f neg B x g with ⟨is, side⟩ | ⟨is, side⟩
  · rw [is]
    rcases sides with (rfl | rfl) | far <;> omega
  · rw [is]
    rcases sides with (rfl | rfl) | far <;> omega

/-- Below the middle between an odd pattern and the next, rounding to nearest does not pass the pattern. -/
theorem gridRound_le {f : Fmt} {B x g p : Nat} (h : Between f B x g) (neg : Bool) (odd : p % 2 = 1)
    (below : 2 * x < gridVal f p * g + gridVal f (p + 1) * g) : gridRound f 0 neg B x g ≤ p := by
  have step : gridVal f p * g < gridVal f (p + 1) * g :=
    Nat.mul_lt_mul_of_pos_right (gridVal_strictMono f (Nat.lt_succ_self p)) h.pos
  have most : B ≤ p := h.le_of_lt (by omega)
  rcases gridRound_nearest_cases f neg B x g with ⟨is, side⟩ | ⟨is, side⟩
  · rcases Nat.eq_or_lt_of_le most with rfl | less
    · omega
    · omega
  · omega

/-- From the middle between an odd pattern and the next on, rounding to nearest passes the pattern. -/
theorem lt_gridRound {f : Fmt} {B x g p : Nat} (h : Between f B x g) (neg : Bool) (odd : p % 2 = 1)
    (above : gridVal f p * g + gridVal f (p + 1) * g ≤ 2 * x) : p < gridRound f 0 neg B x g := by
  have step : gridVal f p * g < gridVal f (p + 1) * g :=
    Nat.mul_lt_mul_of_pos_right (gridVal_strictMono f (Nat.lt_succ_self p)) h.pos
  have least : p ≤ B := h.le_of_le (by omega)
  rcases gridRound_nearest_cases f neg B x g with ⟨is, side⟩ | ⟨is, side⟩
  · omega
  · rcases Nat.eq_or_lt_of_le least with rfl | more
    · omega
    · omega

/-! ## The largest finite pattern, and a pattern's own value -/

/-- The last pattern before infinity is odd. -/
theorem largest_odd {f : Fmt} (wide : 0 < f.fbits) (deep : 1 < f.ebits) :
    (f.infBits - 1) % 2 = 1 ∧ f.infBits - 1 + 1 = f.infBits := by
  obtain ⟨k, is⟩ := Nat.exists_eq_succ_of_ne_zero wide.ne'
  have some : 0 < f.infBits := Nat.mul_pos (Nat.sub_pos_of_lt (Nat.one_lt_two_pow (by omega))) (Nat.two_pow_pos _)
  have even : f.infBits = 2 * ((2 ^ f.ebits - 1) * 2 ^ k) := by
    rw [Fmt.infBits, is, Nat.pow_succ]
    ring
  omega

/-- Infinity stands where the next number after the largest finite one would. -/
theorem gridVal_infBits {f : Fmt} (wide : 0 < f.fbits) (deep : 1 < f.ebits) {u : Int} (le_f : u ≤ f.emin - f.fbits) :
    gridVal f f.infBits * 2 ^ (f.emin - f.fbits - u).toNat =
      gridVal f (f.infBits - 1) * 2 ^ (f.emin - f.fbits - u).toNat +
        2 ^ (f.emin + 2 ^ f.ebits - 3 - f.fbits - u).toNat := by
  have four : 4 ≤ 2 ^ f.ebits := Nat.pow_le_pow_right Nat.two_pos deep
  have cast : ((2 ^ f.ebits : Nat) : Int) = 2 ^ f.ebits := Nat.cast_pow 2 _
  obtain ⟨t, top⟩ := Nat.exists_eq_add_of_le four
  have binade : (f.infBits - 1) / 2 ^ f.fbits = t + 2 := by
    have pos : 0 < 2 ^ f.fbits := Nat.two_pow_pos _
    rw [Fmt.infBits, top, show 4 + t - 1 = t + 2 + 1 by omega]
    have next : (t + 2 + 1) * 2 ^ f.fbits = (t + 2) * 2 ^ f.fbits + 2 ^ f.fbits := Nat.succ_mul _ _
    exact Nat.div_eq_of_lt_le (by omega) (Nat.sub_lt (Nat.mul_pos (Nat.succ_pos _) pos) Nat.one_pos)
  conv_lhs => rw [← (largest_odd wide deep).2, gridVal_succ, binade, Nat.add_mul, ← Nat.pow_add]
  congr 2
  omega

theorem gridVal_zero (f : Fmt) : gridVal f 0 = 0 := by
  rw [gridVal, if_pos (Nat.zero_div _), Nat.zero_mod]

/-- 03 R55: a pattern is its sign and its magnitude. -/
theorem sign_add_magnitude {f : Fmt} {x : Nat} (word : x < 2 * f.signBit) :
    x = (if x / f.signBit % 2 == 1 then f.signBit else 0) + x % f.signBit := by
  have whole := Nat.div_add_mod' x f.signBit
  have pos : 0 < f.signBit := Nat.two_pow_pos _
  have two : x / f.signBit < 2 := Nat.div_lt_of_lt_mul (by omega)
  rcases Nat.lt_or_ge (x / f.signBit) 1 with zero | one
  · obtain zero := Nat.lt_one_iff.mp zero
    rw [zero] at whole ⊢
    simpa using whole.symm
  · obtain one : x / f.signBit = 1 := by omega
    rw [one] at whole ⊢
    simpa using whole.symm

theorem numOf_infinity {f : Fmt} {x : Nat} (is : x % f.signBit = f.infBits) :
    numOf f x = .inf (x / f.signBit % 2 == 1) := by
  have cut : f.signBit = 2 ^ f.fbits * 2 ^ f.ebits := by rw [Fmt.signBit, Nat.pow_add, Nat.mul_comm]
  have field : x / 2 ^ f.fbits % 2 ^ f.ebits = 2 ^ f.ebits - 1 := by
    rw [← Nat.mod_mul_right_div_self, ← cut, is, Fmt.infBits, Nat.mul_div_cancel _ (Nat.two_pow_pos _)]
  have frac : x % 2 ^ f.fbits = 0 := by
    rw [← Nat.mod_mul_right_mod x (2 ^ f.fbits) (2 ^ f.ebits), ← cut, is, Fmt.infBits, Nat.mul_mod_left]
  rw [numOf, field, frac]
  exact (if_pos rfl).trans (if_pos rfl)

/-- 03 R55, R58: a pattern that is no NaN is the rounding of its own value. -/
theorem roundNum_numOf {f : Fmt} (wide : 0 < f.fbits) (mode : Nat) {x : Nat} (word : x < 2 * f.signBit)
    (number : isNan f x = false) : roundNum f mode (numOf f x) = (x, 0) := by
  have most : x % f.signBit ≤ f.infBits := by simpa [isNan] using number
  have parts := sign_add_magnitude word
  rcases Nat.eq_or_lt_of_le most with infinite | finite
  · rw [infinite] at parts
    rw [numOf_infinity infinite]
    exact Prod.ext parts.symm rfl
  · obtain ⟨n, h, is, size⟩ := numOf_finite f x finite
    obtain ⟨above, size⟩ := size (f.emin - f.fbits) le_rfl
    rw [Int.sub_self, show (2 : Nat) ^ Int.toNat 0 = 1 from rfl, Nat.mul_one] at size
    rw [is, roundNum]
    split
    next zero =>
      rw [zero, Nat.zero_mul, ← gridVal_zero f] at size
      rw [← (gridVal_strictMono f).injective size] at parts
      exact Prod.ext parts.symm rfl
    next some =>
      obtain ⟨B, between, rounds⟩ := roundMag_grid wide some above le_rfl
      rw [Int.sub_self, show (2 : Nat) ^ Int.toNat 0 = 1 from rfl] at between rounds
      have same := between.eq_of_exact (size.trans (Nat.mul_one _).symm)
      rw [← same] at size
      have kept := gridRound_exact between (size.trans (Nat.mul_one _).symm) mode (x / f.signBit % 2 == 1)
      obtain ⟨-, fits⟩ := rounds mode (x / f.signBit % 2 == 1)
      rw [kept, same] at fits
      obtain ⟨value, flags⟩ := fits finite
      exact Prod.ext (value.trans parts.symm) (flags (by rw [size, same, Nat.mul_one]))

/-! ## O26 -/

/-- A pattern rounded to, with its sign. -/
theorem signed_parts {f : Fmt} (wide : 0 < f.fbits) (neg : Bool) {bits : Nat} (finite : bits < f.infBits) :
    ((if neg then f.signBit else 0) + bits) % f.signBit = bits ∧
      (((if neg then f.signBit else 0) + bits) / f.signBit = 1 ↔ neg = true) ∧
      ((if neg then f.signBit else 0) + bits) % 2 = bits % 2 := by
  have even : f.signBit % 2 = 0 := Nat.mod_eq_zero_of_dvd (dvd_pow_self 2 (by omega))
  have small : bits < f.signBit := finite.trans (infBits_lt_signBit f)
  have pos : 0 < f.signBit := Nat.two_pow_pos _
  cases neg
  · simp [Nat.mod_eq_of_lt small, Nat.div_eq_of_lt small]
  · simp [Nat.mod_eq_of_lt small, Nat.div_eq_of_lt small, Nat.add_div_left _ pos, Nat.add_mod, even]

/-- The formats of the float types have an exponent and a fraction. -/
theorem float_formats : ∀ f ∈ [binary64, binary32, binary16, bfloat16], 0 < f.fbits ∧ 1 < f.ebits := by decide

/-- Settles O26: the patterns of a format stand in the order of their magnitudes, and rounding takes one of the two
beside the exact one. -/
theorem floatsRoundToNearestEven : Obligations.FloatsRoundToNearestEven := by
  unfold Obligations.FloatsRoundToNearestEven
  refine ⟨fun f known x mode word number => roundNum_numOf (float_formats f known).1 mode word number, ?_⟩
  intro f known neg m e u some le_e le_f r size exact ulp largest sign
  obtain ⟨wide, deep⟩ := float_formats f known
  obtain ⟨odd, next⟩ := largest_odd wide deep
  obtain ⟨B, between, rounds⟩ := roundMag_grid wide some le_e le_f
  have rnd (mode : Nat) : roundNum f mode (.fin neg m e) = roundMag f mode neg m e false := if_neg some
  have top := gridVal_infBits wide deep le_f
  have sized (p : Nat) (finite : p < f.infBits) : size p = ((gridVal f p * 2 ^ (f.emin - f.fbits - u).toNat : Nat) : Int) := by
    have whole : p % f.signBit = p := Nat.mod_eq_of_lt (finite.trans (infBits_lt_signBit f))
    obtain ⟨n, h, is, at_⟩ := numOf_finite f p (whole.symm ▸ finite)
    rw [whole] at at_
    rw [← (at_ u le_f).2]
    simp only [size, is]
    push_cast
    rfl
  have exact_eq : exact = ((m * 2 ^ (e - u).toNat : Nat) : Int) := by push_cast; rfl
  have largest_eq := sized (f.infBits - 1) (by omega)
  have ulp_eq : ulp = ((2 ^ (f.emin + 2 ^ f.ebits - 3 - f.fbits - u).toNat : Nat) : Int) := by push_cast; rfl
  change largest = _ at largest_eq
  clear_value exact largest ulp
  generalize m * 2 ^ (e - u).toNat = x at *
  generalize 2 ^ (f.emin - f.fbits - u).toNat = g at *
  generalize 2 ^ (f.emin + 2 ^ f.ebits - 3 - f.fbits - u).toNat = last at *
  subst exact_eq largest_eq ulp_eq
  simp only [rnd]
  refine ⟨fun below => ?_, fun above => ?_, fun beyond => ?_, fun least most => ?_⟩
  · have kept : gridRound f 0 neg B x g ≤ f.infBits - 1 := gridRound_le between neg odd (by rw [next, top]; omega)
    have fits : gridRound f 0 neg B x g < f.infBits := by omega
    obtain ⟨magnitude, signed, parity⟩ := signed_parts wide neg fits
    have r_eq : r = sign + gridRound f 0 neg B x g := (congrArg Prod.fst (rnd 0)).trans ((rounds 0 neg).2 fits).1
    rw [r_eq, magnitude, sized _ fits, parity]
    refine ⟨fits, signed, fun p finite => ?_⟩
    rw [sized p finite]
    exact gridRound_nearest between neg p
  · have passes := lt_gridRound between neg odd (by rw [next, top]; omega)
    exact (rounds 0 neg).1 (by omega)
  · have passes : f.infBits ≤ B := between.le_of_le (by rw [top]; omega)
    exact ⟨(rounds 1 neg).1 (passes.trans (le_gridRound ..)), (rounds 2 neg).1 (passes.trans (le_gridRound ..)),
      (rounds 3 neg).1 (passes.trans (le_gridRound ..))⟩
  · have last : B = f.infBits - 1 := Nat.le_antisymm (between.le_of_lt (by rw [next, top]; omega))
      (between.le_of_le (by omega))
    have inexact : x ≠ gridVal f B * g := by rw [last]; omega
    have stays (mode : Nat) (is : gridRound f mode neg B x g = B) :
        (roundMag f mode neg m e false).1 = sign + (f.infBits - 1) := by
      rw [((rounds mode neg).2 (by omega)).1, is, last]
    have passes (mode : Nat) (is : gridRound f mode neg B x g = B + 1) :
        (roundMag f mode neg m e false).1 = sign + overflowBits f mode neg := by
      rw [(rounds mode neg).1 (by omega)]
    have up := gridRound_up inexact neg
    have floor := gridRound_floor inexact neg
    refine ⟨stays 1 rfl, ?_⟩
    cases neg with
    | false => exact ⟨passes 2 up, stays 3 floor⟩
    | true => exact ⟨stays 2 up, passes 3 floor⟩

end Sys2Proof.Proofs

end
